-- ==== Sys2Proof/Word.lean ====
section
/-! DEFINITION. The words the module moves and the sparse map every large store of it is kept in. -/

namespace Sys2Proof

/-- One byte of a memory, a packet or a record. -/
abbrev Byte := BitVec 8

/-- A 64-bit register, scalar operand or register-space word (R93, R439). -/
abbrev Word := BitVec 64

/-- One 32-bit lane of a vector register, or one binary32 bit pattern (R108, R145). -/
abbrev Lane := BitVec 32

/-- A sparse map from numbers to values: entries in strictly rising order of key, none equal to the
value an unlisted key reads as. The operations over it, and the check of that form, are in
Machine/Ops.lean. -/
abbrev Assoc (α : Type) := List (Nat × α)

end Sys2Proof
end

