-- ==== Sys2Proof/Syntax.lean ====
section
/-! DEFINITION. The commands of the block: one constructor of Instr per row of spec/opcode_table.json,
with the operands the rows' rules give them. Instructions of a kernel name the core site (physical
core ID, R6) and, where both streams have them, the stream that issues. -/

namespace Sys2Proof

/-- The two instruction streams of a core (R94). -/
inductive UnitId where
  | access
  | execute
  deriving DecidableEq, Repr

/-- A scalar source: a register of the stream, an immediate, or an immediate that names a scalar binding
(R122, R126). -/
inductive Src where
  | reg (r : Fin 32)
  | imm (v : BitVec 64)
  | bind (n : Fin 16)
  deriving DecidableEq, Repr

/-- An immediate where no register may stand: a literal or the name of a scalar binding (R122). -/
inductive Imm where
  | lit (v : BitVec 64)
  | bind (n : Fin 16)
  deriving DecidableEq, Repr

/-- The second operand of a vector instruction: a vector register or a scalar (R145, R159). -/
inductive VSrc where
  | vec (v : Fin 32)
  | scalar (x : Src)
  deriving DecidableEq, Repr

/-- The element types of Table 1 of file 03 (R63). -/
inductive EType where
  | e4m3 | e5m2 | mxe4m3 | mxe3m2 | mxe2m3 | mxfp4 | mxint8 | int8
  | bf16 | fp16 | fp32 | int32 | mhi | mlo | fwp | bfx32
  deriving DecidableEq, Repr

/-- The address streams of R95. -/
inductive AStream where
  | col | row | scale | drain | vload | vstore
  deriving DecidableEq, Repr

/-- The two counts of a hasp (R206). -/
inductive HaspKind where
  | fill
  | free
  deriving DecidableEq, Repr

/-- The destination of a drain (R55, R154). -/
inductive DrainDst where
  | lm
  | port
  deriving DecidableEq, Repr

/-- The fused functions of Table 8 of file 02 (R61). -/
inductive Fn where
  | ident | relu | sigm | tanh | silu | softp | gelu
  deriving DecidableEq, Repr

/-- The combine modes of Table 7 of file 02. -/
inductive Comb where
  | none | bias | add | mul | deriv
  deriving DecidableEq, Repr

/-- The second operand of a drain (R154). -/
inductive SecondOp where
  | absent
  | row (t : EType)
  | tile (t : EType)
  deriving DecidableEq, Repr

/-- The widths of vector loads and stores (R158); a store uses w32, u16 or u8. -/
inductive VWidth where
  | w32 | u16 | i16 | u8 | i8
  deriving DecidableEq, Repr

/-- The relations of vcmp (R159). -/
inductive Rel where
  | eq | lt | le
  deriving DecidableEq, Repr

/-- The virtual channels of a torus port (R284). -/
inductive Vc where
  | req | red | rsp
  deriving DecidableEq, Repr

/-- Who sends a fabric request or a register access (R31, R361, R415). -/
inductive Origin where
  /-- a hart of the helm die -/
  | helm (hart : Fin 32)
  /-- the operator, through the management endpoint -/
  | operator
  /-- a core, by physical core ID -/
  | core (c : Nat)
  /-- a torus port, for a packet it received -/
  | port (p : Fin 8)
  /-- the DMA of a front-end port -/
  | frontEnd (n : Fin 2)
  deriving DecidableEq, Repr

/-- What a fabric read or write of a core window is for (R115, Table 9 of file 04). -/
inductive WindowUse where
  /-- a plain fabric access -/
  | plain
  /-- a delivery of a stream bound by the task that runs on the core -/
  | delivery (ctx : Nat)
  /-- a mesh transfer of a core -/
  | mesh (src : Nat)
  /-- a graph-engine binding -/
  | binding
  deriving DecidableEq, Repr

/-- The queues of a store die (R214): to the memory-port dies, to a compute die's store port, to a
link die, to the helm die, and its movement engine. -/
inductive DieQueue where
  | memory
  | compute (d : Fin 12)
  | link (l : Fin 2)
  | helm
  | engine
  deriving DecidableEq, Repr

/-- The two steps a stream's piece takes: out of the source end into staging, and from staging into
the sink end (R211). -/
inductive PieceDir where
  | fetch
  | deliver
  deriving DecidableEq, Repr

/-- What the FEC decoder reports of a lane (R280): lock lost, or symbols it has corrected there since its last report. -/
inductive LaneCause where
  | lostLock
  | corrected (symbols : Nat)
  deriving DecidableEq, Repr

/-- The causes of source 4 (R414). -/
inductive WatchdogCause where
  | unserviced
  | lockstep
  | parity
  deriving DecidableEq, Repr

/-- The temperature sensors of R396. -/
inductive Sensor where
  /-- row group g of compute die d -/
  | rowGroup (d : Fin 12) (g : Fin 5)
  /-- the one sensor of another die, by die index -/
  | die (idx : Nat)
  | inputStage
  deriving DecidableEq, Repr

/-- The recovery steps that have a bound (R413). -/
inductive RecoveryStep where
  | lockout (c : Nat)
  | dieRecovery (d : Fin 12)
  | episode (k : Nat)
  deriving DecidableEq, Repr

/-- The blocks whose configuration parity is scanned (R448, R449). -/
inductive ParityBlock where
  | port (p : Fin 8)
  | graphEngine (d : Fin 12)
  | queueGe (q : Nat)
  | regionGe (r : Nat)
  | queueHd (q : Nat)
  | regionHd (r : Nat)
  | eventQueue (e : Nat)
  | store (d : Fin 8)
  | memory (m : Fin 16)
  | service
  deriving DecidableEq, Repr

/-- Why a die is locked out (R410). -/
inductive DieFault where
  | graphEngine
  | router
  | ucie
  | operator
  deriving DecidableEq, Repr

/-- One of the 10 cable connectors (R463). -/
inductive Connector where
  | torus (p : Fin 8)
  | frontEnd (n : Fin 2)
  deriving DecidableEq, Repr

/-- One repair that firmware writes into the flash repair record (R437): KIND, die index, INDEX. -/
structure RepairEntry where
  kind : Nat
  die : Nat
  index : Nat
  deriving DecidableEq, Repr

/-- What a receiver locks on: the port, and the tags of two frames that follow each other (R279). -/
structure FrameLock where
  port : Fin 8
  before : BitVec 40
  tag : BitVec 40
  deriving DecidableEq, Repr

/-- The commands. -/
inductive Instr where
  -- scalar and control, 05 and 06
  | li (c : Nat) (u : UnitId) (d : Fin 32) (v : Imm)
  | mov (c : Nat) (u : UnitId) (d a : Fin 32)
  | movLcnt (c : Nat) (u : UnitId) (n : Fin 4) (x : Src)
  | movCount (c : Nat) (u : UnitId) (d : Fin 32) (run : Bool) (n : Fin 4)
  | add (c : Nat) (u : UnitId) (d a : Fin 32) (x : Src)
  | sub (c : Nat) (u : UnitId) (d a : Fin 32) (x : Src)
  | and (c : Nat) (u : UnitId) (d a : Fin 32) (x : Src)
  | or (c : Nat) (u : UnitId) (d a : Fin 32) (x : Src)
  | xor (c : Nat) (u : UnitId) (d a : Fin 32) (x : Src)
  | shl (c : Nat) (u : UnitId) (d a : Fin 32) (x : Src)
  | shr (c : Nat) (u : UnitId) (d a : Fin 32) (x : Src)
  | sra (c : Nat) (u : UnitId) (d a : Fin 32) (x : Src)
  | min (c : Nat) (u : UnitId) (d a : Fin 32) (x : Src)
  | max (c : Nat) (u : UnitId) (d a : Fin 32) (x : Src)
  | minu (c : Nat) (u : UnitId) (d a : Fin 32) (x : Src)
  | maxu (c : Nat) (u : UnitId) (d a : Fin 32) (x : Src)
  | seq (c : Nat) (u : UnitId) (d a : Fin 32) (x : Src)
  | slt (c : Nat) (u : UnitId) (d a : Fin 32) (x : Src)
  | sltu (c : Nat) (u : UnitId) (d a : Fin 32) (x : Src)
  | mul (c : Nat) (u : UnitId) (d a : Fin 32) (x : Src)
  | ldbind (c : Nat) (d : Fin 32) (slot : Fin 16) (word : Fin 8)
  | br (c : Nat) (u : UnitId) (target : Nat)
  | brz (c : Nat) (u : UnitId) (a : Fin 32) (target : Nat)
  | brnz (c : Nat) (u : UnitId) (a : Fin 32) (target : Nat)
  | brlt (c : Nat) (u : UnitId) (a b : Fin 32) (target : Nat)
  | brltu (c : Nat) (u : UnitId) (a b : Fin 32) (target : Nat)
  | breq (c : Nat) (u : UnitId) (a b : Fin 32) (target : Nat)
  | loop (c : Nat) (u : UnitId) (n : Fin 4) (target : Nat)
  -- local memory and data queues
  | ld (c : Nat) (size : Fin 4) (d b : Fin 32) (imm : Imm)
  | ldSigned (c : Nat) (size : Fin 3) (d b : Fin 32) (imm : Imm)
  | st (c : Nat) (size : Fin 4) (a b : Fin 32) (imm : Imm)
  /-- `lines` is a literal or a scalar binding: Table 6 of file 05 does not say whether it may be a register (DESIGN CHOICE,
  log 96) -/
  | ldq (c : Nat) (q : Fin 4) (b : Fin 32) (imm lines : Imm)
  | pushq (c : Nat) (u : UnitId) (q : Fin 4) (x : Src)
  | popq (c : Nat) (u : UnitId) (d : Fin 32) (q : Fin 4)
  | popqDrop (c : Nat) (u : UnitId) (q : Fin 4)
  | stq (c : Nat) (b : Fin 32) (imm : Imm)
  | dqEntryPoppable (c : Nat) (q : Fin 4)
  -- address streams and transfers
  | agen (c : Nat) (a : AStream) (b : Fin 32) (dims : List (Src × Src))
  | apush (c : Nat) (a : AStream) (r : Fin 32)
  | xget (c : Nat) (tag : Fin 8) (l f n : Fin 32)
  | xput (c : Nat) (tag : Fin 8) (l f n : Fin 32)
  | xputMc (c : Nat) (tag : Fin 8) (l r n : Fin 32)
  | xwait (c : Nat) (tag : Fin 8)
  | xwaitAll (c : Nat)
  | transferComplete (c : Nat) (tag : Fin 8)
  | transferErrorResponse (c : Nat) (tag : Fin 8)
  -- hasps and stream control
  /-- `cnt` is a literal or a scalar binding: Table 8 of file 05 does not say whether it may be a register (DESIGN CHOICE,
  log 96) -/
  | hwait (c : Nat) (h : Fin 16) (k : HaspKind) (cnt : Imm)
  /-- `cnt` as for `hwait` (DESIGN CHOICE, log 96) -/
  | hpost (c : Nat) (h : Fin 16) (k : HaspKind) (cnt : Imm)
  /-- `idx` is a literal or a scalar binding, as `cnt` of `hwait` (DESIGN CHOICE, log 96) -/
  | hslot (c : Nat) (d : Fin 32) (h : Fin 16) (idx : Imm)
  | scancel (c : Nat) (h : Fin 16)
  | srearm (c : Nat) (h : Fin 16) (a : Fin 32)
  -- strikes, wards and end
  | strk (c : Nat) (u : UnitId) (d : Fin 32)
  | swait (c : Nat) (u : UnitId) (x : Src)
  | swaitRel (c : Nat) (u : UnitId) (b : Fin 32) (x : Src)
  | strikeWaitComplete (c : Nat) (u : UnitId)
  | ward (c : Nat) (u : UnitId) (w : Fin 64)
  | endStream (c : Nat) (u : UnitId)
  -- vector queue instructions
  | popv (c : Nat) (d : Fin 32) (q : Fin 4)
  | pushv (c : Nat) (a : Fin 32)
  | owait (c : Nat) (n : Fin 2)
  -- outer-product engine
  | opa (c : Nat) (t : Fin 4) (ct rt : EType) (init comp : Bool) (k : Src)
  | accumulateAccept (c : Nat)
  | beatEdgeEntry (c : Nat)
  | accumulateFinal (c : Nat) (t : Fin 4)
  | tclr (c : Nat) (t : Fin 4)
  | tstat (c : Nat) (d : Fin 32) (t : Fin 4)
  | drain (c : Nat) (t : Fin 4) (dst : DrainDst) (ot : EType) (fn : Fn) (comb : Comb) (op : SecondOp)
      (alpha : Option (Fin 32)) (clr : Bool) (flags : Option (Fin 32))
  | drainTake (c : Nat)
  | rowOperandRead (c : Nat)
  | drainRowSample (c : Nat)
  | drainRowWrite (c : Nat)
  -- vector engine
  | vld (c : Nat) (d : Fin 32) (w : VWidth)
  | vst (c : Nat) (a : Fin 32) (w : VWidth)
  | vadd (c : Nat) (d a : Fin 32) (b : VSrc)
  | vsub (c : Nat) (d a : Fin 32) (b : VSrc)
  | vmul (c : Nat) (d a : Fin 32) (b : VSrc)
  | vmin (c : Nat) (d a : Fin 32) (b : VSrc)
  | vmax (c : Nat) (d a : Fin 32) (b : VSrc)
  | vfma (c : Nat) (d a : Fin 32) (b : VSrc) (x : Fin 32)
  | viadd (c : Nat) (d a : Fin 32) (b : VSrc)
  | vabs (c : Nat) (d a : Fin 32)
  | vneg (c : Nat) (d a : Fin 32)
  | vmov (c : Nat) (d a : Fin 32)
  | vand (c : Nat) (d a : Fin 32) (b : VSrc)
  | vor (c : Nat) (d a : Fin 32) (b : VSrc)
  | vxor (c : Nat) (d a : Fin 32) (b : VSrc)
  | vshl (c : Nat) (d a : Fin 32) (n : Src)
  | vshr (c : Nat) (d a : Fin 32) (n : Src)
  | vsra (c : Nat) (d a : Fin 32) (n : Src)
  | vcmp (c : Nat) (rel : Rel) (d a : Fin 32) (b : VSrc)
  | vsel (c : Nat) (d m a b : Fin 32)
  | vrot (c : Nat) (d a : Fin 32) (n : Src)
  | vbcast (c : Nat) (d : Fin 32) (x : Src)
  | vlane (c : Nat) (d a : Fin 32) (n : Src)
  | vany (c : Nat) (d a : Fin 32)
  | vall (c : Nat) (d a : Fin 32)
  | vexp2 (c : Nat) (d a : Fin 32)
  | vlog2 (c : Nat) (d a : Fin 32)
  | vrcp (c : Nat) (d a : Fin 32)
  | vstat (c : Nat) (d : Fin 32)
  | vstatClr (c : Nat) (d : Fin 32)
  | vcvt (c : Nat) (d a : Fin 32) (t : EType)
  | vcvtMx (c : Nat) (d g a : Fin 32) (t : EType)
  | vcvtBfx (c : Nat) (d a g : Fin 32)
  | vext (c : Nat) (d a : Fin 32) (t : EType)
  | vextMx (c : Nat) (d a g : Fin 32) (t : EType)
  | vcvtF32 (c : Nat) (d a : Fin 32)
  | vpadd (c : Nat) (s1 f1 s2 f2 : Fin 32)
  | vpfold (c : Nat) (d a f : Fin 32)
  -- exact sums
  | xclr (c : Nat) (x : Fin 8) (w : Src)
  | xadd (c : Nat) (x : Fin 8) (a : Fin 32)
  | xaddp (c : Nat) (x : Fin 8) (a f : Fin 32)
  | xrd (c : Nat) (d : Fin 32) (x : Fin 8)
  | xrdp (c : Nat) (d f : Fin 32) (x : Fin 8)
  | xsave (c : Nat) (x : Fin 8)
  | xload (c : Nat) (x : Fin 8)
  | xaddi (c : Nat) (x : Fin 8)
  | xflags (c : Nat) (d : Fin 32) (x : Fin 8)
  -- core events
  | coreQueueDeadlock (c : Nat)
  | taskEnd (c : Nat)
  | wardArrive (c : Nat)
  | wardRelease (q task : Nat)
  | launchSlotStrike (c : Nat)
  | coreWindowRead (o : Origin) (c off len : Nat)
  | coreWindowWrite (o : Origin) (use : WindowUse) (c off : Nat) (data : List (BitVec 8))
  -- movement operations of MOVE tasks
  | copy (q task : Nat)
  | permute (q task : Nat)
  | gather (q task : Nat)
  | scatterAcc (q task : Nat)
  -- central store
  | storeCfg (o : Origin) (d : Fin 8) (v : BitVec 64)
  | armingRetry (q task : Nat)
  | streamRequest (ctx : Nat) (dir : PieceDir)
  | requestGrant (d : Fin 8) (queue : DieQueue)
  | borrowGrant (d : Fin 8)
  | slotFillPost (ctx : Nat)
  | slotFreePost (ctx : Nat)
  | haspForward (ctx c : Nat)
  | hpostApply (ctx c : Nat)
  | passStart (ctx : Nat)
  | streamStall (q task : Nat)
  -- submission entries and tasks
  | sqDb (o : Origin) (q : Nat) (v : BitVec 64)
  | graph (q : Nat)
  | abort (q : Nat)
  | streamArm (q : Nat)
  | streamRearm (q : Nat)
  | streamRelease (q : Nat)
  | reshard (q : Nat)
  | flag (q : Nat)
  | taskReady (q task : Nat)
  | taskPlace (q task x y : Nat)
  | placeWaitExpiry (r : Nat)
  | taskCommit (q task : Nat)
  | wardTaskRelease (q task : Nat)
  | queueDeadlock (cycle : List (Nat × Nat))
  | cutCapture (q task : Nat)
  -- link layer
  | laneSpare (p : Fin 8) (lane : Fin 8) (why : LaneCause)
  | retrainEnd (l : FrameLock)
  | retrainTimeout (p : Fin 8)
  | trainingRetry (p : Fin 8)
  | flitSend (p : Fin 8)
  | flitReceive (p : Fin 8) (flit : BitVec 2048) (codewordOk : Bool)
  | replayTimeout (p : Fin 8)
  | hello (p : Fin 8)
  | helloSend (p : Fin 8)
  | init (p : Fin 8)
  | initSend (p : Fin 8)
  | resetReq (p : Fin 8)
  | resetReqReceive (p : Fin 8)
  -- transactions
  | put (p : Fin 8) (vc : Vc)
  | get (p : Fin 8)
  | reducePut (p : Fin 8)
  | permutePacket (p : Fin 8)
  | flagPacket (p : Fin 8) (vc : Vc)
  | completion (p : Fin 8)
  | getRsp (p : Fin 8)
  | linkDescriptor (p : Fin 8)
  | portCtl (o : Origin) (p : Fin 8) (v : BitVec 64)
  | portSqTail (o : Origin) (p : Fin 8) (v : BitVec 64)
  | portRingid (p : Fin 8) (v : BitVec 64)
  -- exchange channels and reshard
  | portXchna (o : Origin) (p : Fin 8) (n : Fin 16) (v : BitVec 64)
  | portXchnb (o : Origin) (p : Fin 8) (n : Fin 16) (v : BitVec 64)
  | validClear (p : Fin 8) (n : Fin 16)
  | channelSlotSend (p : Fin 8) (n : Fin 16)
  | epochFence (axis : Fin 4)
  | copyOut (axis : Fin 4)
  | reshardComplete (axis : Fin 4)
  -- grid and external memory
  | rowMapUpdate (d : Fin 12) (row : Fin 30)
  | fabricAccess (o : Origin) (addr len : Nat) (data : Option (List (BitVec 8)))
  | patrolScrub (m : Fin 16)
  | rowRedirectDone (m : Fin 16)
  | memRepair (m : Fin 16)
  | memRepairEnd (m : Fin 16)
  | channelRetire (ch : Nat)
  -- event queues, handover, host memory
  | eqCfg (o : Origin) (e : Nat) (v : BitVec 64)
  | eqHead (o : Origin) (e : Nat) (v : BitVec 64)
  | eventRecordWrite (e : Nat)
  | eventInterrupt (e : Nat)
  | hostmem (gib : Nat)
  -- reference and clocks
  | crystalWindow (ppm : Int)
  | clkNodeSrc (o : Origin) (k : Fin 64) (v : BitVec 64)
  | clockSwitchEnd (k : Fin 64)
  | clkNodeGate (o : Origin) (k : Fin 64) (v : BitVec 64)
  | clkNodeUngate (o : Origin) (k : Fin 64) (v : BitVec 64)
  | clkmonCtl (o : Origin) (v : BitVec 64)
  | rowClockGate (d : Fin 12) (row : Fin 30)
  -- resets
  | resetN (lowCycles : Nat)
  | rstReq (o : Origin) (v : BitVec 64)
  | watchdog (why : WatchdogCause)
  | resetSourceRelease (src : Fin 9)
  | resetRelease (episode : Nat)
  -- power and thermal
  | vinrange (centivolts : Nat)
  | phaseFail (domain : Fin 20)
  | pwrDom (o : Origin) (v : BitVec 64)
  | pwrCap (v : BitVec 64)
  | slowLoop (pIn vin : Nat) (meas : List Nat) (others : Nat)
  | fastLoop (d : Fin 12)
  | droop (d : Fin 12) (g : Fin 5)
  | droopDecay (d : Fin 12)
  | thermalSensorRead (x : Sensor) (celsius : Nat)
  | thermalLevelStep (x : Sensor)
  -- faults and lockout
  | controlParityError (c : Nat)
  | coreLockout (c : Nat)
  | dieLockout (idx : Nat) (why : DieFault)
  | dieReturn (d : Fin 12) (pass : Bool)
  | recoveryTimeout (x : RecoveryStep)
  | configParityScan (b : ParityBlock)
  | bankSpareDone (d : Fin 8)
  | repairRecordWrite (e : RepairEntry)
  -- boot and identity
  | fwRecover (block : List (BitVec 8))
  | recoveryMailbox (image : List (BitVec 8))
  | fwCommit (addr len : Nat)
  | rootRevoke (slot : Fin 2)
  | attest (nonce : BitVec 256)
  | attCtl (o : Origin) (v : BitVec 64)
  | attExtend (o : Origin) (v : BitVec 64)
  -- registers
  | regLock (idx : Nat)
  | registerWrite (o : Origin) (addr : Nat) (v : BitVec 64)
  | writeBack (o : Origin) (addr : Nat) (v : BitVec 64)
  | sqCfg (o : Origin) (q : Nat) (v : BitVec 64)
  | resume (o : Origin) (q : Nat) (v : BitVec 64)
  | regDef (o : Origin) (r : Nat) (v : BitVec 64)
  | regAreaBase (o : Origin) (r : Nat) (v : BitVec 64)
  | regAreaSize (o : Origin) (r : Nat) (v : BitVec 64)
  -- interfaces
  | framesLocked (l : FrameLock)
  | frontEndFrame (n : Fin 2) (addr : Nat) (frame : List (BitVec 8))
  -- pins, and the rows without operands; they stand last because a compiled run of the model can build only
  -- the first 245 constructors that carry operands
  | cblPrsntN (x : Connector) (level : Bool)
  | dynamicAddress (a : Fin 128)
  | trstN (level : Bool)
  | strikeTick
  | serviceHeartbeat
  | channelRetired
  | handover
  | por
  | crystalTimeout
  | xtallost
  | managementReset
  | inputUndervoltage
  | inputOvervoltage
  | inputRestored
  | domainChangeDone
  | boot
  | updDone
  | fwSvnBurn
  | devidCert
  | vinSenseLoss
  | rstdaa
  | extest
  | granuleMigrated
  | domainOnTimeout
  deriving DecidableEq, Repr

end Sys2Proof
end

