-- ==== Sys2Proof/Decode.lean ====
section
/-! DEFINITION. The command that a word of the opcode table's bits spells. spec/opcode_table.json gives no row
any bits, and the spec gives the commands no encoding, so no word spells one. -/

namespace Sys2Proof

/-- No row of the table has bits. -/
def decodeTableWord (_nbits _w : Nat) : Option Instr := none

end Sys2Proof
end

