-- ==== Sys2Proof/Machine/Bits.lean ====
section
/-! DEFINITION. Bit fields, little-endian byte strings and the counters of R418. -/

namespace Sys2Proof.Machine

open Sys2Proof

/-- 1 for true, 0 for false. -/
def b2n (b : Bool) : Nat := if b then 1 else 0

/-- The unsigned value of bits [lo + len - 1 : lo] of a word. -/
def bits {w : Nat} (v : BitVec w) (lo len : Nat) : Nat := v.toNat / 2 ^ lo % 2 ^ len

/-- Bit n of a word. -/
def bit {w : Nat} (v : BitVec w) (n : Nat) : Bool := v.getLsbD n

/-- A word whose bits [lo + len - 1 : lo] hold x and whose other bits are 0. -/
def place (lo len x : Nat) : Nat := x % 2 ^ len * 2 ^ lo

/-- n bytes of x, least significant first (R65, R119, R165). -/
def leBytes : Nat → Nat → List Byte
  | 0, _ => []
  | n + 1, x => BitVec.ofNat 8 x :: leBytes n (x / 256)

/-- The value of a little-endian byte string. -/
def ofLe : List Byte → Nat
  | [] => 0
  | b :: bs => b.toNat + 256 * ofLe bs

/-- n bytes of x, most significant first (hashes, keys and signatures of R425). -/
def beBytes (n x : Nat) : List Byte := (leBytes n x).reverse

/-- The value of a big-endian byte string. -/
def ofBe (bs : List Byte) : Nat := ofLe bs.reverse

/-- n bytes of a string from an offset; bytes past its end read as 0. -/
def slice (bs : List Byte) (off n : Nat) : List Byte :=
  let t := (bs.drop off).take n
  t ++ List.replicate (n - t.length) 0

/-- The little-endian number of n bytes at an offset of a string. -/
def leAt (bs : List Byte) (off n : Nat) : Nat := ofLe (slice bs off n)

/-- A byte string extended with zero bytes to n bytes, or cut to it. -/
def padTo (n : Nat) (bs : List Byte) : List Byte := slice bs 0 n

/-- The signed value of the low w bits of x. -/
def signed (w x : Nat) : Int :=
  let y := x % 2 ^ w
  if 2 ^ (w - 1) ≤ y then (y : Int) - 2 ^ w else y

/-- ⌈a / b⌉. -/
def ceilDiv (a b : Nat) : Nat := (a + b - 1) / b

/-- a rounded up to a multiple of b. -/
def roundUp (a b : Nat) : Nat := ceilDiv a b * b

/-- Modular order of 64-bit strikes and flags: a is at or after b (R111, R244). -/
def atOrAfter (a b : Word) : Bool := decide ((a - b).toNat < 2 ^ 63)

/-- Serial-number order of 32-bit values: a is after b (R305, R354). -/
def after32 (a b : BitVec 32) : Bool :=
  let d := (a - b).toNat
  decide (1 ≤ d ∧ d ≤ 2 ^ 31 - 1)

/-- Serial-number order of 8-bit values: a is after b (R285). -/
def after8 (a b : BitVec 8) : Bool :=
  let d := (a - b).toNat
  decide (1 ≤ d ∧ d ≤ 127)

/-- A counter of the saturating class with its sticky overflow bit (R418). -/
structure Counter where
  n : BitVec 48 := 0
  ov : Bool := false
  deriving DecidableEq, Repr

/-- One event on a saturating counter: lost, and the overflow bit set, while it stands at all ones. -/
def Counter.tick (c : Counter) : Counter :=
  if c.n = BitVec.allOnes 48 then { c with ov := true } else { c with n := c.n + 1 }

/-- k events on a saturating counter. -/
def Counter.addN (c : Counter) (k : Nat) : Counter :=
  if c.n.toNat + k < 2 ^ 48 then { c with n := BitVec.ofNat 48 (c.n.toNat + k) }
  else { n := BitVec.allOnes 48, ov := true }

/-- Does a counter lose one of k events: that is what saturating means (R418)? -/
def Counter.loses (c : Counter) (k : Nat) : Bool := decide (2 ^ 48 ≤ c.n.toNat + k)

/-- The register image of a counter: the count in bits [47:0], the overflow bit in bit 48. -/
def Counter.word (c : Counter) : Word :=
  BitVec.ofNat 64 (c.n.toNat + place 48 1 (b2n c.ov))

end Sys2Proof.Machine
end

