-- ==== Sys2Proof/Machine/Crypto.lean ====
section
/-! DEFINITION. The public algorithms the manual names: SHA-256 (R119, R425, R433), HMAC-SHA-256 and P-256
with ECDSA (R425, R434, R435), CRC-32 and CRC-64 (R283, R437). -/

namespace Sys2Proof.Machine

open Sys2Proof

/-- The largest r below 2^bits with r^k at most n. -/
def rootBelow (k n : Nat) : Nat → Nat → Nat
  | 0, r => r
  | bits + 1, r => rootBelow k n bits (if (r + 2 ^ bits) ^ k ≤ n then r + 2 ^ bits else r)

/-- The first 32 bits of the fractional part of the k-th root of n. -/
def rootFraction (k n : Nat) : BitVec 32 := BitVec.ofNat 32 (rootBelow k (n * 2 ^ (32 * k)) 37 0)

/-- The primes below 312: the first 64. -/
def smallPrimes : List Nat :=
  (List.range 312).filter (fun n => decide (2 ≤ n) && (List.range 18).all (fun d => decide (d < 2 ∨ n ≤ d) || n % d != 0))

/-- The constants that SHA-256 takes from the first 64 primes, by their cube roots, and starts from, by the square roots of
the first eight. -/
def shaConstants : List (BitVec 32) := smallPrimes.map (rootFraction 3)
def shaStart : List (BitVec 32) := (smallPrimes.take 8).map (rootFraction 2)

/-- A word rotated right by each of some amounts, combined by exclusive or. -/
def spread (x : BitVec 32) (by_ : List Nat) : BitVec 32 := by_.foldl (fun y n => y ^^^ x.rotateRight n) 0

/-- The word that follows 16 words of the schedule, oldest first. -/
def scheduleNext (w : List (BitVec 32)) : BitVec 32 :=
  let old := w.getD 1 0
  let late := w.getD 14 0
  w.getD 0 0 + w.getD 9 0 + (spread old [7, 18] ^^^ (old >>> 3)) + (spread late [17, 19] ^^^ (late >>> 10))

/-- The rounds of one block: the working words a to h, the 16 schedule words in force, and the constants left. -/
def shaRounds : List (BitVec 32) → List (BitVec 32) → List (BitVec 32) → List (BitVec 32)
  | [], _, v => v
  | k :: ks, w, v =>
    let at_ := fun (i : Nat) => v.getD i 0
    let choose := ((at_ 5 ^^^ at_ 6) &&& at_ 4) ^^^ at_ 6
    let majority := (at_ 0 &&& (at_ 1 ||| at_ 2)) ||| (at_ 1 &&& at_ 2)
    let step := at_ 7 + choose + spread (at_ 4) [6, 11, 25] + k + w.getD 0 0
    let top := step + majority + spread (at_ 0) [2, 13, 22]
    shaRounds ks (w.drop 1 ++ [scheduleNext w]) ([top] ++ (v.take 3) ++ [at_ 3 + step] ++ (v.drop 4).take 3)

/-- The compression of one 64-byte block. -/
def shaBlock (h : List (BitVec 32)) (blk : List Byte) : List (BitVec 32) :=
  let w := (List.range 16).map (fun i => BitVec.ofNat 32 (ofBe (slice blk (4 * i) 4)))
  List.zipWith (· + ·) h (shaRounds shaConstants w h)

/-- The blocks of a padded message. -/
def shaBlocks (h : List (BitVec 32)) : Nat → List Byte → List (BitVec 32)
  | 0, _ => h
  | n + 1, bs => shaBlocks (shaBlock h (bs.take 64)) n (bs.drop 64)

/-- SHA-256, in digest byte order. -/
def sha256 (msg : List Byte) : List Byte :=
  let n := msg.length
  let total := roundUp (n + 9) 64
  let padded := msg ++ [0x80] ++ List.replicate (total - n - 9) 0 ++ beBytes 8 (8 * n)
  (shaBlocks shaStart (total / 64) padded).flatMap (fun w => beBytes 4 w.toNat)

/-- HMAC-SHA-256. -/
def hmac256 (key msg : List Byte) : List Byte :=
  let k := padTo 64 (if 64 < key.length then sha256 key else key)
  sha256 (k.map (· ^^^ 0x5C) ++ sha256 (k.map (· ^^^ 0x36) ++ msg))

/-- The field prime of P-256. -/
def p256P : Nat := 0xFFFFFFFF00000001000000000000000000000000FFFFFFFFFFFFFFFFFFFFFFFF
/-- The group order of P-256. -/
def p256N : Nat := 0xFFFFFFFF00000000FFFFFFFFFFFFFFFFBCE6FAADA7179E84F3B9CAC2FC632551
/-- The constant b of P-256. -/
def p256B : Nat := 0x5AC635D8AA3A93E7B3EBBD55769886BC651D06B0CC53B0F63BCE3C3E27D2604B
/-- The base point of P-256. -/
def p256G : Nat × Nat :=
  (0x6B17D1F2E12C4247F8BCE6E563A440F277037D812DEB33A0F4A13945D898C296,
   0x4FE342E2FE1A7F9B8EE7EB4A7C0F9E162BCE33576B315ECECBB6406837BF51F5)

/-- a^e mod m, over the low n bits of e. -/
def powMod (m : Nat) : Nat → Nat → Nat → Nat
  | 0, _, _ => 1 % m
  | n + 1, a, e =>
    let r := powMod m n (a * a % m) (e / 2)
    if e % 2 = 1 then a * r % m else r

/-- The inverse modulo a prime. -/
def invMod (m a : Nat) : Nat := powMod m 256 (a % m) (m - 2)

/-- (a − b) mod p. -/
def subMod (a b : Nat) : Nat := (a % p256P + p256P - b % p256P) % p256P

/-- A point of P-256 in Jacobian coordinates; Z = 0 is the neutral element. -/
structure JPoint where
  x : Nat
  y : Nat
  z : Nat
  deriving DecidableEq, Repr

/-- Doubling. -/
def JPoint.dbl (p : JPoint) : JPoint :=
  let m := p256P
  let d := p.z * p.z % m
  let g := p.y * p.y % m
  let b := p.x * g % m
  let a := 3 * (subMod p.x d * ((p.x + d) % m) % m) % m
  let x3 := subMod (a * a % m) (8 * b)
  let z3 := subMod (subMod ((p.y + p.z) * (p.y + p.z) % m) g) d
  let y3 := subMod (a * subMod (4 * b) x3 % m) (8 * (g * g % m))
  ⟨x3, y3, z3⟩

/-- Addition. -/
def JPoint.add (p q : JPoint) : JPoint :=
  let m := p256P
  if p.z = 0 then q
  else if q.z = 0 then p
  else
    let z1 := p.z * p.z % m
    let z2 := q.z * q.z % m
    let u1 := p.x * z2 % m
    let u2 := q.x * z1 % m
    let s1 := p.y * q.z % m * z2 % m
    let s2 := q.y * p.z % m * z1 % m
    if u1 = u2 then (if s1 = s2 then p.dbl else ⟨1, 1, 0⟩)
    else
      let h := subMod u2 u1
      let r := subMod s2 s1
      let h2 := h * h % m
      let h3 := h2 * h % m
      let v := u1 * h2 % m
      let x3 := subMod (subMod (r * r % m) h3) (2 * v)
      ⟨x3, subMod (r * subMod v x3 % m) (s1 * h3 % m), p.z * q.z % m * h % m⟩

/-- k times a point, over the low n bits of k. -/
def JPoint.mul : Nat → JPoint → Nat → JPoint
  | 0, _, _ => ⟨1, 1, 0⟩
  | n + 1, p, k =>
    let r := JPoint.mul n p.dbl (k / 2)
    if k % 2 = 1 then p.add r else r

/-- Affine coordinates. -/
def JPoint.affine (p : JPoint) : Nat × Nat :=
  let i := invMod p256P p.z
  let i2 := i * i % p256P
  (p.x * i2 % p256P, p.y * i2 % p256P * i % p256P)

/-- d × G as 64 bytes, x then y, each most significant byte first. -/
def p256Public (d : Nat) : List Byte :=
  let (x, y) := (JPoint.mul 256 ⟨p256G.1, p256G.2, 1⟩ d).affine
  beBytes 32 x ++ beBytes 32 y

/-- Is (x, y) a point of the curve? -/
def onCurve (x y : Nat) : Bool :=
  decide (x < p256P ∧ y < p256P) && y * y % p256P == (x * x % p256P * x + (p256P - 3) * x + p256B) % p256P

/-- ECDSA verification over a SHA-256 digest with a 64-byte public key and a 64-byte signature r ‖ s. -/
def ecdsaVerify (key digest sig : List Byte) : Bool :=
  let x := ofBe (slice key 0 32)
  let y := ofBe (slice key 32 32)
  let r := ofBe (slice sig 0 32)
  let s := ofBe (slice sig 32 32)
  if !(onCurve x y) || r == 0 || decide (p256N ≤ r) || s == 0 || decide (p256N ≤ s) then false
  else
    let w := invMod p256N s
    let u1 := ofBe digest % p256N * w % p256N
    let u2 := r * w % p256N
    let p := (JPoint.mul 256 ⟨p256G.1, p256G.2, 1⟩ u1).add (JPoint.mul 256 ⟨x, y, 1⟩ u2)
    decide (p.z ≠ 0) && p.affine.1 % p256N == r

/-- One byte through a reflected CRC with polynomial p (bit-reversed). -/
def crcByte (w : Nat) (poly : BitVec w) (c : BitVec w) (b : Byte) : BitVec w :=
  (List.range 8).foldl (fun c _ => if c.getLsbD 0 then (c >>> 1) ^^^ poly else c >>> 1)
    (c ^^^ b.zeroExtend w)

/-- CRC-32 (IEEE 802.3): reflected, initial value and final complement all ones. -/
def crc32 (bs : List Byte) : BitVec 32 :=
  ~~~ (bs.foldl (crcByte 32 0xEDB88320) (BitVec.allOnes 32))

/-- One byte, most significant bit first, through the CRC-64 of R283. -/
def crc64Byte (c : BitVec 64) (b : Byte) : BitVec 64 :=
  (List.range 8).foldl
    (fun c _ => if c.getLsbD 63 then (c <<< 1) ^^^ 0x42F0E1EBA9EA3693 else c <<< 1)
    (c ^^^ (b.zeroExtend 64 <<< 56))

/-- CRC-64 of R283: ECMA-182 polynomial, not reflected, initial value and final exclusive-or all ones. -/
def crc64 (bs : List Byte) : BitVec 64 := ~~~ (bs.foldl crc64Byte (BitVec.allOnes 64))

/-- The ECDSA signature of a digest z under the private scalar d with nonce k: r then s. -/
def p256Sign (d k z : Nat) : List Byte :=
  let r := (JPoint.mul 256 ⟨p256G.1, p256G.2, 1⟩ k).affine.1 % p256N
  beBytes 32 r ++ beBytes 32 (invMod p256N k * ((z + r * d) % p256N) % p256N)

end Sys2Proof.Machine
end

