-- ==== Sys2Proof/Config.lean ====
section
/-! DEFINITION. The values the manual leaves open. Each is opaque: no proof can learn what it is. -/

namespace Sys2Proof

/-- The n-th free value, as a 64-bit word. A step that needs one applies this to the counter State
holds and advances the counter (DESIGN CHOICE, log 3). -/
opaque Config.freeWord : Nat → BitVec 64

/-- The n-th free value of 256 bits (the undefined exact-sum lane of R88; DESIGN CHOICE, log 3). -/
opaque Config.freeWide : Nat → BitVec 256

/-- Does a core's copy of the strike counter lag the service die's by one strike? Two receivers differ by less
than one strike (R16, R111; DESIGN CHOICE, log 85). -/
opaque Config.strikeLag : Nat → Bool

/-- log2c of ±0 and of negative numbers: R61 states no result there (DESIGN CHOICE, log 10). -/
opaque Config.log2Open : BitVec 32 → BitVec 32

/-- The nonce of the ECDSA signature that the ROM key service puts on an attestation report (R435): the manual does not
say how it is chosen (DESIGN CHOICE, log 11). The first argument is the free-value counter, the second the SHA-256 of
the report. -/
opaque Config.nonce : Nat → BitVec 256 → BitVec 256

/-- The element code that a NaN of a block takes in an MX type that has no NaN code (R81 step 6 gives
the block the scale 0xFF and states no code; DESIGN CHOICE, log 12). -/
opaque Config.mxNanCode : EType → BitVec 8

/-- The FP32 value of an element of type 0x41 in a block whose scale byte is 0xFF, for which R86 gives no X
(DESIGN CHOICE, log 83). -/
opaque Config.bfxOpen : BitVec 32 → BitVec 32

/-- The earlier bytes of a compressing sink whose old contents are no region of its descriptor, at the places of a ring
image that was never posted: R220 keeps earlier contents that do not exist (DESIGN CHOICE, log 40). -/
opaque Config.keptByte : Nat → BitVec 8

/-- The banks of a store die that a nonzero BANK_REPAIR byte says were spared at manufacture, at most two: the spec gives
the fuse 8 bits a die and no layout (R422; DESIGN CHOICE, log 87). -/
opaque Config.bankRepair : BitVec 8 → List (Fin 64)

end Sys2Proof
end

