-- ==== Sys2Proof/Machine/Float.lean ====
section
/-! DEFINITION. Exact dyadic numbers, the codes of Table 1 of file 03, and rn() (R56, R63 to R66, R71,
R79, R80). -/

namespace Sys2Proof.Machine

open Sys2Proof

/-- The exact number m × 2^e. -/
structure Dy where
  m : Int
  e : Int
  deriving DecidableEq, Repr

/-- 2^k for an integer k that is not negative (0 counts as its floor otherwise). -/
def pow2 (k : Int) : Int := 2 ^ k.toNat

/-- The exact sum. -/
def Dy.add (a b : Dy) : Dy :=
  let e := min a.e b.e
  ⟨a.m * pow2 (a.e - e) + b.m * pow2 (b.e - e), e⟩

/-- The exact negation. -/
def Dy.neg (a : Dy) : Dy := ⟨-a.m, a.e⟩

/-- The exact product. -/
def Dy.mul (a b : Dy) : Dy := ⟨a.m * b.m, a.e + b.e⟩

/-- a times 2^k. -/
def Dy.scale (a : Dy) (k : Int) : Dy := ⟨a.m, a.e + k⟩

/-- Is a at most b? -/
def Dy.le (a b : Dy) : Bool :=
  let e := min a.e b.e
  decide (a.m * pow2 (a.e - e) ≤ b.m * pow2 (b.e - e))

/-- Is a less than b? -/
def Dy.lt (a b : Dy) : Bool := !(Dy.le b a)

/-- |a|. -/
def Dy.abs (a : Dy) : Dy := ⟨a.m.natAbs, a.e⟩

/-- n / 2^k to the nearest integer, ties to even, on a magnitude. -/
def rneNat (n k : Nat) : Nat :=
  let q := n / 2 ^ k
  let r := n % 2 ^ k
  if 2 * r < 2 ^ k then q
  else if 2 ^ k < 2 * r then q + 1
  else if k = 0 then q
  else if q % 2 = 0 then q else q + 1

/-- The integer nearest to a / 2^q, ties to even. -/
def Dy.roundAt (a : Dy) (q : Int) : Int :=
  if q ≤ a.e then a.m * pow2 (a.e - q)
  else
    let n : Int := rneNat a.m.natAbs (q - a.e).toNat
    if a.m < 0 then -n else n

/-- Does a lie on the grid of multiples of 2^q? -/
def Dy.onGrid (a : Dy) (q : Int) : Bool :=
  if q ≤ a.e then true else decide (a.m.natAbs % 2 ^ (q - a.e).toNat = 0)

/-- The exponent of the leading bit of a magnitude m × 2^e with m ≠ 0: ⌊log₂⌋. -/
def ilog2 (m : Nat) (e : Int) : Int := (Nat.log2 m : Int) + e

/-- A decoded value: NaN, an infinity, or an exact signed number (the sign is kept at zero). -/
inductive Fl where
  | nan
  | inf (s : Bool)
  | fin (s : Bool) (m : Nat) (e : Int)
  deriving DecidableEq, Repr

/-- The exact value of a finite number (0 for the others). -/
def Fl.dy : Fl → Dy
  | .fin s m e => ⟨if s then -(m : Int) else m, e⟩
  | _ => ⟨0, 0⟩

/-- The sign bit of a value that has one. -/
def Fl.sign : Fl → Bool
  | .fin s _ _ => s
  | .inf s => s
  | .nan => false

/-- Is the value NaN? -/
def Fl.isNan : Fl → Bool
  | .nan => true
  | _ => false

/-- Is the value an infinity? -/
def Fl.isInf : Fl → Bool
  | .inf _ => true
  | _ => false

/-- Is the value a zero? -/
def Fl.isZero : Fl → Bool
  | .fin _ m _ => m == 0
  | _ => false

/-- How the largest exponent field of a format reads. -/
inductive Top where
  /-- infinities and NaNs, as IEEE 754 -/
  | ieee
  /-- E4M3: only the all-ones code is NaN -/
  | nanOnly
  /-- every code is finite -/
  | finite
  deriving DecidableEq, Repr

/-- A float format: exponent bits, mantissa bits, bias, use of the largest exponent field. -/
structure Fmt where
  eb : Nat
  mb : Nat
  bias : Int
  top : Top
  deriving DecidableEq, Repr

def fmtE4M3 : Fmt := ⟨4, 3, 7, .nanOnly⟩
def fmtE5M2 : Fmt := ⟨5, 2, 15, .ieee⟩
def fmtE3M2 : Fmt := ⟨3, 2, 3, .finite⟩
def fmtE2M3 : Fmt := ⟨2, 3, 1, .finite⟩
def fmtE2M1 : Fmt := ⟨2, 1, 1, .finite⟩
def fmtBF16 : Fmt := ⟨8, 7, 127, .ieee⟩
def fmtFP16 : Fmt := ⟨5, 10, 15, .ieee⟩
def fmtFP32 : Fmt := ⟨8, 23, 127, .ieee⟩

/-- The value of a code of a float format (R64). -/
def decodeFl (f : Fmt) (code : Nat) : Fl :=
  let m := code % 2 ^ f.mb
  let e := code / 2 ^ f.mb % 2 ^ f.eb
  let s := code / 2 ^ (f.mb + f.eb) % 2 == 1
  let topE := 2 ^ f.eb - 1
  let value := if e = 0 then Fl.fin s m (1 - f.bias - f.mb)
    else Fl.fin s (m + 2 ^ f.mb) (e - f.bias - f.mb)
  match f.top with
  | .finite => value
  | .nanOnly => if e = topE ∧ m = 2 ^ f.mb - 1 then .nan else value
  | .ieee => if e = topE then (if m = 0 then .inf s else .nan) else value

/-- The largest finite magnitude code of a format (Table 1 of file 03). -/
def maxCode (f : Fmt) : Nat :=
  match f.top with
  | .finite => 2 ^ (f.eb + f.mb) - 1
  | .nanOnly => 2 ^ (f.eb + f.mb) - 2
  | .ieee => (2 ^ f.eb - 1) * 2 ^ f.mb - 1

/-- The magnitude code of m × 2^e rounded to nearest, ties to even, on the format's grid with no upper
bound; a result past the largest finite value shows as a code above maxCode. -/
def roundCode (f : Fmt) (m : Nat) (e : Int) : Nat :=
  if m = 0 then 0
  else
    let q := max (ilog2 m e - f.mb) (1 - f.bias - f.mb)
    let n := ((⟨m, e⟩ : Dy).roundAt q).toNat
    (q - (1 - f.bias - f.mb)).toNat * 2 ^ f.mb + n

/-- The sign bit's weight in a format. -/
def signCode (f : Fmt) (s : Bool) : Nat := b2n s * 2 ^ (f.eb + f.mb)

/-- The canonical NaN of binary32. -/
def nan32 : Lane := 0x7FC00000

/-- ±∞ in binary32. -/
def inf32 (s : Bool) : Lane := if s then 0xFF800000 else 0x7F800000

/-- ±FLT_MAX. -/
def max32 (s : Bool) : Lane := if s then 0xFF7FFFFF else 0x7F7FFFFF

/-- ±0. -/
def zero32 (s : Bool) : Lane := if s then 0x80000000 else 0

/-- The value of a binary32 pattern. -/
def dec32 (x : Lane) : Fl := decodeFl fmtFP32 x.toNat

/-- Is the pattern a NaN? -/
def isNan32 (x : Lane) : Bool := (dec32 x).isNan

/-- Is the pattern an infinity? -/
def isInf32 (x : Lane) : Bool := (dec32 x).isInf

/-- rn of the signed magnitude m × 2^e: binary32, nearest, ties to even, infinity past FLT_MAX; a zero
takes the sign s (R56). -/
def round32 (s : Bool) (m : Nat) (e : Int) : Lane :=
  let c := roundCode fmtFP32 m e
  if maxCode fmtFP32 < c then inf32 s else BitVec.ofNat 32 (c + signCode fmtFP32 s)

/-- rn of an exact number; an exact zero takes the sign z. -/
def roundDy (d : Dy) (z : Bool) : Lane :=
  if d.m = 0 then zero32 z else round32 (decide (d.m < 0)) d.m.natAbs d.e

/-- The pattern of a value after one rn(). -/
def round32Fl : Fl → Lane
  | .nan => nan32
  | .inf s => inf32 s
  | .fin s m e => round32 s m e

/-- rn(a + b): an exact zero sum is +0 unless both are −0 (R71, R79). -/
def fadd (a b : Lane) : Lane :=
  match dec32 a, dec32 b with
  | .nan, _ => nan32
  | _, .nan => nan32
  | .inf s, .inf t => if s = t then inf32 s else nan32
  | .inf s, _ => inf32 s
  | _, .inf t => inf32 t
  | x, y => roundDy (x.dy.add y.dy) (x.sign && y.sign && x.isZero && y.isZero)

/-- −a: the sign bit flipped. -/
def fneg (a : Lane) : Lane := a ^^^ 0x80000000

/-- |a|: the sign bit cleared. -/
def fabs (a : Lane) : Lane := a &&& 0x7FFFFFFF

/-- rn(a − b). -/
def fsub (a b : Lane) : Lane := if isNan32 b then nan32 else fadd a (fneg b)

/-- The exact product of two values: NaN, or 0 × ∞, gives NaN. -/
def Fl.mul : Fl → Fl → Fl
  | .nan, _ => .nan
  | _, .nan => .nan
  | .inf s, .inf t => .inf (s != t)
  | .inf s, y => if y.isZero then .nan else .inf (s != y.sign)
  | x, .inf t => if x.isZero then .nan else .inf (x.sign != t)
  | .fin s m e, .fin t n k => .fin (s != t) (m * n) (e + k)

/-- rn(a × b). -/
def fmul (a b : Lane) : Lane := round32Fl ((dec32 a).mul (dec32 b))

/-- rn(a × b + c), rounded once (R159). -/
def ffma (a b c : Lane) : Lane :=
  match (dec32 a).mul (dec32 b), dec32 c with
  | .nan, _ => nan32
  | _, .nan => nan32
  | .inf s, .inf t => if s = t then inf32 s else nan32
  | .inf s, _ => inf32 s
  | _, .inf t => inf32 t
  | x, y => roundDy (x.dy.add y.dy) (x.sign && y.sign && x.isZero && y.isZero)

/-- Is a less than b, neither being NaN? -/
def flt (a b : Lane) : Bool :=
  match dec32 a, dec32 b with
  | .nan, _ => false
  | _, .nan => false
  | .inf s, .inf t => s && !t
  | .inf s, _ => s
  | _, .inf t => !t
  | x, y => x.dy.lt y.dy

/-- Are a and b equal numbers (−0 equals +0), neither being NaN? -/
def feq (a b : Lane) : Bool :=
  match dec32 a, dec32 b with
  | .nan, _ => false
  | _, .nan => false
  | .inf s, .inf t => s == t
  | .inf _, _ => false
  | _, .inf _ => false
  | x, y => x.dy.le y.dy && y.dy.le x.dy

/-- Total order used by vmin and vmax below NaN: −0 lies below +0 (R159). -/
def fltZ (a b : Lane) : Bool :=
  flt a b || (feq a b && bit a 31 && !bit b 31)

/-- vmin of two lanes (R159). -/
def fmin (a b : Lane) : Lane :=
  if isNan32 a then (if isNan32 b then nan32 else b)
  else if isNan32 b then a
  else if fltZ b a then b else a

/-- vmax of two lanes (R159). -/
def fmax (a b : Lane) : Lane :=
  if isNan32 a then (if isNan32 b then nan32 else b)
  else if isNan32 b then a
  else if fltZ a b then b else a

/-- 1.0. -/
def one32 : Lane := 0x3F800000

/-- INT32 to FP32, rounded once (R56, R161). -/
def ofInt32 (n : Lane) : Lane := roundDy ⟨n.toInt, 0⟩ false

end Sys2Proof.Machine
end

