-- ==== Sys2Proof/Machine/Convert.lean ====
section
/-! DEFINITION. Element types: their codes (R63), widening to FP32, and the conversions of R80 to R82 and
R86. -/

namespace Sys2Proof.Machine

open Sys2Proof

/-- The code of an element type (Table 1 of file 03). -/
def etypeCode : EType → Nat
  | .e4m3 => 0x01 | .e5m2 => 0x02 | .mxe4m3 => 0x03 | .mxe3m2 => 0x04 | .mxe2m3 => 0x05
  | .mxfp4 => 0x06 | .mxint8 => 0x07 | .int8 => 0x08 | .bf16 => 0x10 | .fp16 => 0x11
  | .fp32 => 0x20 | .int32 => 0x21 | .mhi => 0x30 | .mlo => 0x31 | .fwp => 0x40 | .bfx32 => 0x41

/-- The element type of a code; none for a reserved code. -/
def etypeOf (n : Nat) : Option EType :=
  [EType.e4m3, .e5m2, .mxe4m3, .mxe3m2, .mxe2m3, .mxfp4, .mxint8, .int8, .bf16, .fp16, .fp32, .int32,
    .mhi, .mlo, .fwp, .bfx32].find? (fun t => etypeCode t == n)

/-- Bits of one element (Table 1 of file 03). -/
def etypeBits : EType → Nat
  | .e4m3 | .e5m2 | .mxe4m3 | .mxint8 | .int8 => 8
  | .mxe3m2 | .mxe2m3 => 6
  | .mxfp4 => 4
  | .bf16 | .fp16 | .mhi | .mlo => 16
  | .fp32 | .int32 | .bfx32 => 32
  | .fwp => 48

/-- Is the type an MX type? -/
def isMx : EType → Bool
  | .mxe4m3 | .mxe3m2 | .mxe2m3 | .mxfp4 | .mxint8 => true
  | _ => false

/-- Does a tensor of the type have a scale array (R170)? -/
def hasScales (t : EType) : Bool := isMx t || t == .bfx32

/-- The float format of a type's codes. -/
def fmtOf : EType → Option Fmt
  | .e4m3 | .mxe4m3 => some fmtE4M3
  | .e5m2 => some fmtE5M2
  | .mxe3m2 => some fmtE3M2
  | .mxe2m3 => some fmtE2M3
  | .mxfp4 => some fmtE2M1
  | .bf16 | .mhi => some fmtBF16
  | .fp16 => some fmtFP16
  | .fp32 => some fmtFP32
  | _ => none

/-- The value of a code, scales apart: floats by R64, MXINT8 by n × 2⁻⁶, INT8 and INT32 as integers. -/
def decodeEl (t : EType) (code : Nat) : Fl :=
  match fmtOf t with
  | some f => decodeFl f code
  | none =>
    let w := etypeBits t
    let n := signed w code
    .fin (decide (n < 0)) n.natAbs (if t == .mxint8 then -6 else 0)

/-- A value times the E8M0 scale of code c (R66): NaN at 0xFF. -/
def scaleFl (v : Fl) (c : Nat) : Fl :=
  if c = 255 then .nan
  else match v with
    | .fin s m e => .fin s m (e + c - 127)
    | x => x

/-- Exact widening to FP32 of the types without a scale; INT32 rounds once. -/
def widen (t : EType) (code : Nat) : Lane := round32Fl (decodeEl t code)

/-- A value rounded once to FP32 with a result past FLT_MAX clamped (vext.mx, R161): the lane and
whether it was clamped. -/
def roundClamp (v : Fl) : Lane × Bool :=
  let r := round32Fl v
  if isInf32 r then (max32 v.sign, true) else (r, false)

/-- vext.mx: code of an MX type times its scale. -/
def widenMx (t : EType) (code scale : Nat) : Lane × Bool := roundClamp (scaleFl (decodeEl t code) scale)

/-- What a conversion of one element gives: the code, whether it saturated, whether it met a NaN. -/
structure Conv where
  code : Nat
  sat : Bool := false
  nan : Bool := false
  deriving DecidableEq, Repr

/-- The canonical NaN code of a float type (Table 1 of file 03). -/
def nanCode : EType → Nat
  | .e4m3 | .mxe4m3 => 0x7F
  | .e5m2 => 0x7E
  | .bf16 => 0x7FC0
  | .fp16 => 0x7E00
  | _ => 0x7FC00000

/-- Is a code, under a scale byte for a type that has E8M0 scales, a NaN (R64, R66, R83)? Table 1 of file 03 gives types 0x30
and 0x40 no NaN code: a NaN pattern of the BF16 value of the one, or of the FP32 sum of the other, counts (DESIGN CHOICE, log
96). -/
def nanElem (t : EType) (code scale : Nat) : Bool :=
  (isMx t && scale == 255)
    || (if t == .fwp then isNan32 (BitVec.ofNat 32 code) else (decodeEl t code).isNan)

/-- FP32 to a float type: nearest even, saturating, no infinity (R80). -/
def cvtFloat (t : EType) (f : Fmt) (x : Lane) : Conv :=
  match dec32 x with
  | .nan => { code := nanCode t, nan := true }
  | .inf s => { code := maxCode f + signCode f s, sat := true }
  | .fin s m e =>
    let c := roundCode f m e
    if maxCode f < c then { code := maxCode f + signCode f s, sat := true }
    else { code := c + signCode f s }

/-- An integer clamped to [lo, hi], as a w-bit code. -/
def clampInt (w : Nat) (lo hi n : Int) : Nat × Bool :=
  if n < lo then (BitVec.ofInt w lo |>.toNat, true)
  else if hi < n then (BitVec.ofInt w hi |>.toNat, true)
  else (BitVec.ofInt w n |>.toNat, false)

/-- FP32 to a w-bit integer with limits: nearest even, saturating, NaN to 0 (R82, R86). The value is
taken times 2^k first. -/
def cvtInt (w : Nat) (lo hi : Int) (x : Lane) (k : Int := 0) : Conv :=
  match dec32 x with
  | .nan => { code := 0, nan := true }
  | .inf s =>
    let c := if s then lo else hi
    { code := (BitVec.ofInt w c).toNat, sat := true }
  | .fin s m e =>
    let n := ((Fl.fin s m e).dy.scale k).roundAt 0
    let (c, sat) := clampInt w lo hi n
    { code := c, sat := sat }

/-- FP32 to block fixed point with block exponent code X (R86). -/
def toBfx (x : Lane) (bx : Nat) : Conv := cvtInt 32 (-(2 ^ 31 - 1)) (2 ^ 31 - 1) x (157 - bx)

/-- Block fixed point to FP32: rn(n × 2^(X − 157)) (R177). -/
def ofBfx (n : Nat) (bx : Nat) : Fl :=
  let v := signed 32 n
  .fin (decide (v < 0)) v.natAbs ((bx : Int) - 157)

/-- FP32 to a type without scales, by R80 and R82; none for a type that no such conversion writes. -/
def convert (t : EType) (x : Lane) : Option Conv :=
  match t with
  | .e4m3 | .e5m2 | .bf16 | .fp16 => (fmtOf t).map (fun f => cvtFloat t f x)
  | .int8 => some (cvtInt 8 (-128) 127 x)
  | .int32 => some (cvtInt 32 (-(2 ^ 31)) (2 ^ 31 - 1) x)
  | .fp32 => some { code := x.toNat }
  | _ => none

/-- The largest magnitude among the values that are not NaN, an infinity counting as FLT_MAX (R81 step 1). -/
def amax : List Lane → Lane
  | [] => 0
  | x :: xs =>
    let r := amax xs
    let a := if isInf32 x then max32 false else fabs x
    if isNan32 x then r else if flt r a then a else r

/-- emax of R81 step 2. -/
def emaxOf : EType → Int
  | .mxe4m3 | .e4m3 => 8
  | .mxe3m2 => 4
  | .mxe2m3 | .mxfp4 => 2
  | _ => 0

/-- X of R81 steps 2 and 3, and whether it was clamped at 127. -/
def mxExp (t : EType) (xs : List Lane) : Int × Bool :=
  match dec32 (amax xs) with
  | .fin _ m e =>
    if m = 0 then (-127, false)
    else
      let x := ilog2 m e - emaxOf t
      if 127 < x then (127, true) else (max x (-127), false)
  | _ => (-127, false)

/-- One element of an MX block with scale 2^X (R81 step 5); sat says its code was clamped. -/
def mxElem (t : EType) (x : Int) (y : Lane) : Conv :=
  match dec32 y with
  | .nan => { code := if t == .mxe4m3 || t == .e4m3 then 0x7F
                      else (Config.mxNanCode t).toNat % 2 ^ etypeBits t, nan := true }
  | v =>
    match fmtOf t with
    | some f =>
      match v with
      | .fin s m e =>
        let c := roundCode f m (e - x)
        if maxCode f < c then { code := maxCode f + signCode f s, sat := true }
        else { code := c + signCode f s }
      | _ => { code := maxCode f + signCode f v.sign, sat := true }
    | none =>
      match v with
      | .fin s m e =>
        let n := ((Fl.fin s m e).dy.scale (6 - x)).roundAt 0
        let (c, sat) := clampInt 8 (-127) 127 n
        { code := c, sat := sat }
      | _ => { code := (BitVec.ofInt 8 (if v.sign then -127 else 127)).toNat, sat := true }

/-- What R81 gives for one block: scale code, elements, whether X was clamped at 127, whether a value
was infinite, whether one was NaN. -/
structure MxBlock where
  scale : Nat
  elems : List Conv
  clamped : Bool
  inf : Bool
  nan : Bool
  deriving DecidableEq, Repr

/-- Conversion of a row of values to an MX type (R81). -/
def mxBlock (t : EType) (ys : List Lane) : MxBlock :=
  let (x, cl) := mxExp t ys
  let nan := ys.any isNan32
  { scale := if nan then 255 else (x + 127).toNat
    elems := ys.map (mxElem t x)
    clamped := cl
    inf := ys.any isInf32
    nan := nan }

/-- Does MX conversion of the block count as a saturation in the drain and the vector engine (R81)? -/
def MxBlock.sat (b : MxBlock) : Bool := b.clamped || b.inf

/-- The codes of w-bit elements packed into a little-endian bit string of n bytes (R65). -/
def packCodes (w : Nat) : List Nat → Nat
  | [] => 0
  | c :: cs => c % 2 ^ w + 2 ^ w * packCodes w cs

/-- 32 element codes of a type as bytes, in element order (R65, R158). -/
def codeBytes (t : EType) (cs : List Nat) : List Byte :=
  leBytes (etypeBits t * cs.length / 8) (packCodes (etypeBits t) cs)

/-- Code n of a packed little-endian string of w-bit elements. -/
def codeAt (w : Nat) (bs : List Byte) (n : Nat) : Nat := ofLe bs / 2 ^ (w * n) % 2 ^ w

end Sys2Proof.Machine
end

