-- ==== Sys2Proof/Machine/StateCore.lean ====
section
/-! DEFINITION. What one core site holds: the two streams, the data queues, the address streams, local
memory, the outer-product engine with its tiles and drain path, and the vector engine (files 02 to 06).
A field left out of a core's text has its value after a reset that reaches the core. -/

namespace Sys2Proof.Machine

open Sys2Proof

/-- What a stream is held by (R94, R101, R125, R147). -/
inductive Wait where
  /-- nothing -/
  | none
  /-- an instruction that could not issue (full address stream, empty address stream, busy tag): it is
  sent again; the address stream it waits for, if any (R134) -/
  | retry (a : Option AStream)
  /-- a push that waits for room, with its entries (R101, R149) -/
  | push (q : Fin 4) (entries : List (List Byte))
  /-- the lines of an `ldq` still to push: address of the next, how many (R130) -/
  | ldq (q : Fin 4) (addr : Word) (lines : Nat)
  | popReg (d : Fin 32) (q : Fin 4)
  | popDrop (q : Fin 4)
  | popVec (d : Fin 32) (q : Fin 4)
  | popStore (addr : Word) (q : Fin 4)
  /-- `xwait` of one tag, or of all -/
  | tag (t : Option (Fin 8))
  | hasp (h : Fin 16) (k : HaspKind) (cnt : Nat)
  | strike (t : Word)
  | ward (w : Fin 64)
  | owait (n : Fin 2)
  /-- `vstat` and `vstat.clr` complete when issued; a held accumulate or drain stands in the engine -/
  | accumulate
  | drain
  deriving DecidableEq, Repr

/-- One active hardware loop: its level, its body's first instruction and the index its label has (R127). -/
structure LoopBody where
  level : Fin 4
  start : Nat
  stop : Nat
  deriving DecidableEq, Repr

/-- One instruction stream of a core (R93, R94, R113, R124, R127). -/
structure Stream where
  /-- the stream has executed `end` -/
  ended : Bool := false
  /-- index of the instruction the stream is at -/
  pc : Nat := 0
  /-- GA0-GA31 or GE0-GE15 -/
  gr : Assoc Word := []
  lcnt : Assoc (BitVec 32) := []
  lrun : Assoc (BitVec 32) := []
  /-- the active loops, innermost first -/
  loops : List LoopBody := []
  /-- first ACLK cycle in which a reader of a register may issue, by register number (scalar n: n,
  VXn: 32 + n, XSn: 64 + n) -/
  ready : Assoc Nat := []
  /-- registers whose value waits for an event: `tstat`, `flags=` -/
  busy : List Nat := []
  /-- first ACLK cycle in which the next instruction may issue -/
  nextIssue : Nat := 0
  wait : Wait := .none
  /-- the instruction that could not issue and holds the stream: only it is sent again (R125, R147) -/
  again : Option Instr := none
  /-- cycle in which every local-memory write of the unit issued so far is visible (R102) -/
  visible : Nat := 0
  deriving DecidableEq, Repr

/-- One 64-byte entry of a data queue (R101, R102). -/
structure DqEntry where
  data : List Byte
  poppable : Bool := false
  /-- first cycle in which it may become poppable -/
  at_ : Nat := 0
  /-- drains issued before the push: those numbered below this must have written their rows -/
  drainsBelow : Nat := 0
  /-- pushed by a scalar push, neither loaded nor a vector result (R104) -/
  scalar : Bool := false
  deriving DecidableEq, Repr

/-- An address pattern (R131): base, the counts and strides of up to four dimensions, and how many of
its addresses it has generated. -/
structure Pattern where
  base : Word
  dims : List (Nat × Int)
  done : Nat := 0
  deriving DecidableEq, Repr

/-- One address stream: its FIFO and the patterns in generation and waiting (R95, R132). An `apush`
behind a pattern waits as a pattern of one address. -/
structure AddrStream where
  fifo : List Word := []
  patterns : List Pattern := []
  /-- cycle up to which the generator's work is in the FIFO -/
  upTo : Nat := 0
  deriving DecidableEq, Repr

/-- What a transfer does (R135). -/
inductive XferKind where
  | get
  | put
  | multicast
  deriving DecidableEq, Repr

/-- One outstanding transfer: local address, fabric address or rectangle, length, and the instruction
index that issued it (R135, R137). -/
structure Transfer where
  kind : XferKind
  lm : Word
  far : Word
  len : Nat
  instr : Nat
  deriving DecidableEq, Repr

/-- One accumulator cell: sum word and follower (R47). -/
structure Cell where
  s : Lane := 0
  f : BitVec 16 := 0
  deriving DecidableEq, Repr

/-- The status of a tile (R48), with the mode it will have when every issued operation has acted (R152). -/
structure Tile where
  /-- by i × 32 + j -/
  cells : Assoc Cell := []
  steps : Counter := {}
  int : Bool := false
  comp : Bool := false
  dsat : Bool := false
  inv : Bool := false
  sat : Bool := false
  clr : Bool := true
  /-- first cycle in which an operation may act after the latest clear (Table 6) -/
  from_ : Nat := 0
  /-- first cycle in which a drain may sample row 0 after the latest accumulate's last beat (Table 6) -/
  drainFrom : Nat := 0
  /-- first edge cycle that reaches every row behind the samplings so far (R54) -/
  beatFrom : Nat := 0
  /-- first cycle in which a clear or a status read may act after the latest drain (Table 6) -/
  opFrom : Nat := 0
  /-- flags raised while an earlier drain has still to report and clear them: the cycle from which they stand, SAT,
  INV, DSAT (R35, R59) -/
  raised : List (Nat × Bool × Bool × Bool) := []
  /-- CLR, COMP and INT as they will stand -/
  nextClr : Bool := true
  nextComp : Bool := false
  nextInt : Bool := false
  deriving DecidableEq, Repr

/-- An accumulate (R43): its order among the operations on the tiles, its operands, its count, the
cycle of its acceptance, the beats that have entered and the edge cycle of the last. -/
structure Acc where
  ord : Nat
  tile : Fin 4
  ct : EType
  rt : EType
  init : Bool
  comp : Bool
  k : Nat
  /-- index of the instruction -/
  instr : Nat
  accepted : Nat := 0
  beats : Nat := 0
  edge : Nat := 0
  deriving DecidableEq, Repr

/-- A tile clear or a tile-status read that waits for its turn (R53, R153). -/
structure TileOp where
  ord : Nat
  /-- the cycle of its issue -/
  at_ : Nat
  tile : Fin 4
  /-- destination of a status read; none for a clear -/
  dest : Option (Fin 32)
  deriving DecidableEq, Repr

/-- One drain (R55, R154) from issue to its last row. -/
structure Drain where
  ord : Nat
  tile : Fin 4
  dst : DrainDst
  ot : EType
  fn : Fn
  comb : Comb
  op : SecondOp
  alpha : Lane
  clr : Bool
  /-- the register of its flags, until it has reported them -/
  flags : Option (Fin 32)
  /-- the flags word taken when a later tile clear acted before the report (R53, R59) -/
  kept : Option Word := none
  /-- index of the instruction (R157) -/
  instr : Nat
  dstBase : Word := 0
  scaleBase : Word := 0
  opBase : Word := 0
  takenAt : Nat := 0
  /-- the ROW operand, once read (R58), and the cycle the read ended -/
  rowOp : Option (List Lane) := none
  rowOpAt : Nat := 0
  /-- rows sampled, and the cycle in which the next one is due once row 0 is sampled (R58) -/
  sampled : Nat := 0
  nextAt : Nat := 0
  /-- cells of the rows not yet sampled, taken when a later accumulate entered the tile (R53, R54) -/
  shadow : Option (List Cell) := none
  /-- edge cycle of the first beat that entered the tile behind the drain (R54) -/
  behind : Option Nat := none
  /-- the tile holds INT32 when the drain samples it -/
  int : Bool
  /-- sampled rows converted and not yet written: bytes, scale byte, sampling cycle -/
  rows : List (List Byte × Byte × Nat) := []
  written : Nat := 0
  /-- the outbound port has held the write of the oldest row (R60) -/
  blocked : Bool := false
  /-- scale bytes of the rows written so far, for a PORT scale line (R156) -/
  scales : List Byte := []
  deriving DecidableEq, Repr

/-- The outer-product engine and the drain path of a core (R32 to R60). -/
structure Ope where
  /-- accepted accumulates, oldest first: at the edge and waiting (R38) -/
  q : List Acc := []
  /-- the cycle in which the last accumulate that left the edge has spent its last beat's p cycles there -/
  freeAt : Nat := 0
  /-- the accumulate the execute stream holds at -/
  held : Option Acc := none
  /-- accumulates whose last beat has entered and is not final in every cell -/
  filling : List Acc := []
  /-- edge cycle of the latest beat and its period -/
  edge : Option (Nat × Nat) := none
  /-- the 16-cycle group of the latest beat and the beats started in it (R37) -/
  group : Nat := 0
  inGroup : Nat := 0
  /-- the issue-rate level of that group, fixed at its first beat (R390) -/
  level : Nat := 16
  /-- scales of the current block of the accumulate at the edge, by lane: column and row (R40) -/
  colScale : List Byte := []
  rowScale : List Byte := []
  /-- drains taken: in progress and waiting (R60), and those whose rows are still to be written -/
  drains : List Drain := []
  /-- the drain the execute stream holds at -/
  heldDrain : Option Drain := none
  /-- first cycles after the latest drain in which a drain that writes 7 cycles, or 3 cycles, after
  sampling may sample row 0 (R60) -/
  nextLong : Nat := 0
  nextShort : Nat := 0
  /-- first cycle in which the place of the latest drain to sample its last row is free (R60) -/
  placeAt : Nat := 0
  /-- the reads of the operand port while a drain is outstanding: cycle and bank (R60, R97, R98) -/
  reads : List (Nat × Nat) := []
  /-- edge cycle of the latest beat that took block scales (R40) -/
  scaleAt : Nat := 0
  /-- the windows in which the outbound port or a bank held a write: from, to (R60) -/
  stalls : List (Nat × Nat) := []
  /-- the lines the operand port keeps for COL and ROW (R96) -/
  colLine : Option Nat := none
  rowLine : Option Nat := none
  tileOps : List TileOp := []
  /-- next order number -/
  ord : Nat := 0
  deriving DecidableEq, Repr

/-- An execute-unit write of a line of local memory: the line, the number of the first operation on the tiles
that it precedes in issue order, and the cycle in which it is visible (Table 5 of file 04). -/
structure LineWrite where
  line : Nat
  ord : Nat
  at_ : Nat
  deriving DecidableEq, Repr

/-- One exact-sum register (R87): N by lane, W, the flags, and the terms added since the last clear. -/
structure Xs where
  n : Assoc (BitVec 256) := []
  w : Int := 0
  low : Bool := false
  high : Bool := false
  inv : Bool := false
  terms : Nat := 0
  deriving DecidableEq, Repr

/-- The vector engine (R93, R108, R160). -/
structure VectorEngine where
  vx : Assoc (List Lane) := []
  xs : Assoc Xs := []
  isat : Counter := {}
  inv : Bool := false
  sat : Bool := false
  /-- cycle in which every vector instruction issued so far has completed -/
  idleAt : Nat := 0
  deriving DecidableEq, Repr

/-- The core's side of a hasp handle (R139). -/
structure Handle where
  pos : Nat := 0
  held : Nat := 0
  /-- the core's copy of FILL (inbound) or FREE (outbound) -/
  copy : Nat := 0
  deriving DecidableEq, Repr

/-- The task a core holds: submission queue, task index and gang position (x, y) in the gang. -/
structure CoreTask where
  q : Nat
  task : Nat
  gx : Nat
  gy : Nat
  deriving DecidableEq, Repr

/-- One core site (R93). -/
structure Core where
  /-- the task bound to the core and started; none when idle -/
  task : Option CoreTask := none
  acc : Stream := {}
  exe : Stream := {}
  dq : Assoc (List DqEntry) := []
  ags : Assoc AddrStream := []
  xfers : Assoc Transfer := []
  /-- binding block: word 8n + w of slot n (R123), and the kind of each slot -/
  bind : Assoc Word := []
  kinds : Assoc Nat := []
  handles : Assoc Handle := []
  lm : Assoc Byte := []
  /-- error marks by 8-byte word: false correctable, true uncorrectable (R99) -/
  lmErr : List (Nat × Bool) := []
  corrected : Counter := {}
  /-- execute-unit writes that may not be visible yet (R106) -/
  writes : List LineWrite := []
  tiles : Assoc Tile := []
  ope : Ope := {}
  vec : VectorEngine := {}
  /-- the arrival at the ward both streams wait at has been sent (R112) -/
  arrived : Bool := false
  /-- launch-slot strike after a ward release: the edge and the vector engine hold until it (R112) -/
  slot : Option Word := none
  /-- order number of the first accumulate and whether a vector instruction after the ward is held -/
  slotOrd : Nat := 0
  deriving DecidableEq, Repr

end Sys2Proof.Machine
end

