-- ==== Sys2Proof/Machine/Accum.lean ====
section
/-! DEFINITION. The arithmetic of an accumulator cell (R67 to R77), of full-width partials (R84) and of the
exact-sum registers (R87 to R89). -/

namespace Sys2Proof.Machine

open Sys2Proof

/-- The exponent of the follower quantum: q(s) = 2^this (R75). -/
def quantExp (s : Lane) : Int := max (bits s 23 8 : Int) 1 - 165

/-- The exact represented value s + F × q(s) of a finite sum word (R75). -/
def repr_ (s : Lane) (f : BitVec 16) : Dy := (dec32 s).dy.add ⟨f.toInt, quantExp s⟩

/-- What one step leaves in a cell, and the flags it sets. -/
structure StepOut where
  cell : Cell
  sat : Bool := false
  inv : Bool := false
  deriving DecidableEq, Repr

/-- A cell at ±FLT_MAX (R73). -/
def satCell (s : Bool) : StepOut := { cell := { s := max32 s, f := 0 }, sat := true }

/-- The follower that carries e on the grid of s′ (R76 step 4). -/
def follower (e : Dy) (s' : Lane) : BitVec 16 := BitVec.ofInt 16 (e.roundAt (quantExp s'))

/-- A PLAIN step with a finite term (R71, R73). -/
def plainStep (c : Cell) (t : Fl) : StepOut :=
  let s' := roundDy ((dec32 c.s).dy.add t.dy)
    ((dec32 c.s).sign && (dec32 c.s).isZero && t.sign && t.isZero)
  if isInf32 s' then satCell (bit s' 31) else { cell := { s := s', f := 0 } }

/-- A compensated step with a finite term (R76, R73). -/
def compStep (c : Cell) (t : Fl) : StepOut :=
  let w := t.dy.add ⟨c.f.toInt, quantExp c.s⟩
  let total := (dec32 c.s).dy.add w
  let s' := roundDy total
    ((dec32 c.s).sign && (dec32 c.s).isZero && t.sign && t.isZero && c.f == 0)
  if isInf32 s' then satCell (bit s' 31)
  else { cell := { s := s', f := follower (total.add (dec32 s').dy.neg) s' } }

/-- One step of an FP32 cell: NaN stays, NaN and invalid terms (R74), infinite terms (R73), ordinary
terms. A sum word that is an infinity (only a partial in a vector register can hold one) saturates. -/
def cellStep (comp : Bool) (c : Cell) (t : Fl) : StepOut :=
  if isNan32 c.s then { cell := { s := nan32, f := 0 }, inv := t.isNan }
  else match t with
    | .nan => { cell := { s := nan32, f := 0 }, inv := true }
    | .inf s => satCell s
    | t =>
      if isInf32 c.s then satCell (bit c.s 31)
      else if comp then compStep c t else plainStep c t

/-- One step of an INT32 cell (R72). -/
def intStep (c : Cell) (t : Int) : StepOut :=
  let (v, sat) := clampInt 32 (-(2 ^ 31)) (2 ^ 31 - 1) (c.s.toInt + t)
  { cell := { s := BitVec.ofNat 32 v, f := 0 }, sat := sat }

/-- The value an INIT accumulate's first step starts from (R71, R72, R76). -/
def initCell (int : Bool) : Cell := { s := if int then 0 else 0x80000000, f := 0 }

/-- The fold of a cell (R77): the value and whether it overflowed to ±FLT_MAX. With F = 0 the fold is the sum word
as it stands, so that s = −0 folds to −0, a sign that R77 does not state (DESIGN CHOICE, log 84). -/
def fold (s : Lane) (f : BitVec 16) : Lane × Bool :=
  match dec32 s with
  | .nan => (nan32, false)
  | .inf t => (max32 t, true)
  | _ =>
    if f = 0 then (s, false)
    else
      let r := roundDy (repr_ s f) false
      if isInf32 r then (max32 (bit r 31), true) else (r, false)

/-- The term that a partial adds: s + F × q(s) (R84, R88). A zero keeps the sum word's sign. -/
def partialTerm (s : Lane) (f : BitVec 16) : Fl :=
  match dec32 s with
  | .fin g m e =>
    if f = 0 then .fin g m e
    else
      let d := repr_ s f
      .fin (decide (d.m < 0)) d.m.natAbs d.e
  | x => x

/-- P1 ⊕ P2 (R84). -/
def partialAdd (c1 c2 : Cell) : StepOut := cellStep true c1 (partialTerm c2.s c2.f)

/-- Does an exact-sum lane refuse the term as too large (R88)? -/
def tooLarge (w : Int) (d : Dy) : Bool := Dy.le ⟨1, w + 200⟩ d.abs

/-- One exact-sum add to a lane (R88): the new N and the flags LOW, HIGH, INV it sets. -/
def exactAdd (w : Int) (n : BitVec 256) (x : Fl) : BitVec 256 × Bool × Bool × Bool :=
  match x with
  | .nan => (n, false, false, true)
  | .inf _ => (n, false, true, false)
  | x =>
    if tooLarge w x.dy then (n, false, true, false)
    else (n + BitVec.ofInt 256 (x.dy.roundAt w), !(x.dy.onGrid w), false, false)

/-- The readout of a lane (R89): sum word, follower, and whether it overflowed. -/
def exactRead (w : Int) (n : BitVec 256) : Cell × Bool :=
  let d : Dy := ⟨n.toInt, w⟩
  let s := roundDy d false
  if isInf32 s then ({ s := max32 (bit s 31), f := 0 }, true)
  else ({ s := s, f := follower (d.add (dec32 s).dy.neg) s }, false)

end Sys2Proof.Machine
end

