-- ==== Sys2Proof/Machine/Assoc.lean ====
section
/-! DEFINITION. Sparse maps: reading, writing, the canonical form, and bytes at consecutive keys. -/

namespace Sys2Proof.Machine

open Sys2Proof

/-- The value of a key; an unlisted key reads as d. -/
def Assoc.get {α : Type} (d : α) : Assoc α → Nat → α
  | [], _ => d
  | (k, v) :: m, n => if k = n then v else Assoc.get d m n

/-- The map without an entry for a key. -/
def Assoc.del {α : Type} (m : Assoc α) (n : Nat) : Assoc α := m.filter (fun e => e.1 != n)

/-- An entry put at its place in rising order. -/
def Assoc.ins {α : Type} (n : Nat) (v : α) : Assoc α → Assoc α
  | [] => [(n, v)]
  | (k, w) :: m => if n < k then (n, v) :: (k, w) :: m else (k, w) :: Assoc.ins n v m

/-- The map with a key set to a value, listed even when the value is the unlisted one. -/
def Assoc.set {α : Type} (m : Assoc α) (n : Nat) (v : α) : Assoc α := Assoc.ins n v (Assoc.del m n)

/-- The map with a key set to a value, in canonical form: the unlisted value is not listed. -/
def Assoc.put {α : Type} [DecidableEq α] (d : α) (m : Assoc α) (n : Nat) (v : α) : Assoc α :=
  if v = d then Assoc.del m n else Assoc.set m n v

/-- The keys of a map. -/
def Assoc.keys {α : Type} (m : Assoc α) : List Nat := m.map Prod.fst

/-- The keys rise strictly. -/
def Assoc.sorted {α : Type} : Assoc α → Bool
  | [] => true
  | [_] => true
  | (a, _) :: (b, w) :: m => decide (a < b) && Assoc.sorted ((b, w) :: m)

/-- The canonical form: keys strictly rising, the unlisted value not listed. -/
def Assoc.wf {α : Type} [DecidableEq α] (d : α) (m : Assoc α) : Bool :=
  Assoc.sorted m && m.all (fun e => decide (e.2 ≠ d))

/-- n values from consecutive keys. -/
def Assoc.span {α : Type} (d : α) (m : Assoc α) (a : Nat) : Nat → List α
  | 0 => []
  | n + 1 => Assoc.get d m a :: Assoc.span d m (a + 1) n

/-- Values put at consecutive keys. -/
def Assoc.putSpan {α : Type} [DecidableEq α] (d : α) (m : Assoc α) (a : Nat) : List α → Assoc α
  | [] => m
  | v :: vs => Assoc.putSpan d (Assoc.put d m a v) (a + 1) vs

/-- (key, value) pairs put in order. -/
def Assoc.putAll {α : Type} [DecidableEq α] (d : α) (m : Assoc α) : List (Nat × α) → Assoc α
  | [] => m
  | (k, v) :: kvs => Assoc.putAll d (Assoc.put d m k v) kvs

/-- The map whose keys 0 to n − 1 hold f of their old values, in canonical form. -/
def Assoc.mapRange {α : Type} [DecidableEq α] (d : α) (n : Nat) (f : Nat → α → α) (m : Assoc α) : Assoc α :=
  (List.range n).filterMap (fun k =>
    let v := f k (Assoc.get d m k)
    if v = d then none else some (k, v))

end Sys2Proof.Machine
end

