-- ==== Sys2Proof/Machine/CoreOps.lean ====
section
/-! DEFINITION. Operations on one core: issue and retirement of an instruction of a stream (R94, R125, R147),
hardware loops (R127 to R129), local memory (R97, R99), data queues (R101, R102) and address streams (R95,
R131 to R133). They act on the core alone; Machine/Ops.lean lifts them to the module. -/

namespace Sys2Proof.Machine

open Sys2Proof

/-- What one attempt to issue an instruction, or one event of a core, gives. -/
inductive CoreRes where
  /-- it happened, at this ACLK cycle -/
  | ok (t : Nat) (k : Core)
  /-- it did not issue; the stream waits -/
  | held (k : Core)
  /-- it raised a core exception (R113): code, stream, instruction index; for LM_UNCORRECTABLE the failing
  line (R408) -/
  | exc (code : Nat) (u : UnitId) (instr : Nat) (k : Core) (line : Nat := 0)
  /-- its condition does not hold: nothing happens -/
  | noop
  /-- the toolchain never lets this form reach the module (R121) -/
  | refuse
  deriving DecidableEq, Repr

/-- One of a core's streams. -/
def Core.stream (k : Core) : UnitId → Stream
  | .access => k.acc
  | .execute => k.exe

/-- A core with one stream replaced. -/
def Core.setStream (k : Core) (u : UnitId) (st : Stream) : Core :=
  match u with
  | .access => { k with acc := st }
  | .execute => { k with exe := st }

/-- Does the stream's unit have the general register (R93, R145)? -/
def regOk (u : UnitId) (r : Fin 32) : Bool := u == .access || decide (r.val < 16)

/-- A general register (R93). -/
def Core.reg (k : Core) (u : UnitId) (r : Fin 32) : Word := Assoc.get 0 (k.stream u).gr r.val

/-- A core with a general register written. -/
def Core.setReg (k : Core) (u : UnitId) (r : Fin 32) (v : Word) : Core :=
  let st := k.stream u
  k.setStream u { st with gr := Assoc.put 0 st.gr r.val v }

/-- A word of the binding block (R123). -/
def Core.bindWord (k : Core) (slot word : Nat) : Word := Assoc.get 0 k.bind (8 * slot + word)

/-- The value of a scalar source: a scalar binding has its word 0, which the graph engine delivered at task
start (R122, R123, R126). An instruction that states a field of w bits uses bits [w−1:0]. -/
def Core.src (k : Core) (u : UnitId) : Src → Word
  | .reg r => k.reg u r
  | .imm v => v
  | .bind n => k.bindWord n.val 0

/-- The value of an immediate (R122). -/
def Core.imm (k : Core) : Imm → Word
  | .lit v => v
  | .bind n => k.bindWord n.val 0

/-- The registers a source reads. -/
def srcRegs : Src → List Nat
  | .reg r => [r.val]
  | .imm _ | .bind _ => []

/-- Does the unit have the source's register? -/
def srcOk (u : UnitId) : Src → Bool
  | .reg r => regOk u r
  | .imm _ | .bind _ => true

/-- Number of a vector register among the interlocked registers. -/
def vreg (v : Fin 32) : Nat := 32 + v.val
/-- Number of an exact-sum register among the interlocked registers. -/
def xreg (x : Fin 8) : Nat := 64 + x.val
/-- Number of a loop count register among the interlocked registers. -/
def lreg (n : Fin 4) : Nat := 72 + n.val

/-- A stream may issue: a task runs, the stream has not ended and nothing holds it (R94, R125). -/
def Core.mayIssue (k : Core) (u : UnitId) : Bool :=
  k.task.isSome && !(k.stream u).ended
    && (k.stream u).wait == .none

/-- The first cycle at or after now in which an instruction over these registers can issue; none while
one of them waits for an event (R94). -/
def Core.issueTime (k : Core) (u : UnitId) (now : Nat) (regs : List Nat) : Option Nat :=
  let st := k.stream u
  if regs.any (fun r => st.busy.contains r) then none
  else some (regs.foldl (fun t r => max t (Assoc.get 0 st.ready r)) (max now st.nextIssue))

/-- A stream that could not issue and is sent the instruction again. -/
def Core.stall (k : Core) (u : UnitId) (a : Option AStream) : CoreRes :=
  .held (k.setStream u { k.stream u with wait := .retry a })

/-- An instruction sent to a stream. While one that could not issue holds the stream, only that instruction is
tried again, and no other issues past it (R125, R147); one that cannot issue now holds the stream. -/
def Core.attempt (k : Core) (u : UnitId) (i : Instr) (f : Core → CoreRes) : CoreRes :=
  let st := k.stream u
  let k' := if st.again = some i then k.setStream u { st with wait := .none, again := none } else k
  match f k' with
  | .held h =>
    match (h.stream u).wait with
    | .retry _ => .held (h.setStream u { h.stream u with again := some i })
    | _ => .held h
  | r => r

/-- One attempt to issue an instruction that reads or writes these registers: body gets the issue cycle. -/
def Core.issue (k : Core) (u : UnitId) (now : Nat) (regs : List Nat) (body : Nat → CoreRes) : CoreRes :=
  if k.mayIssue u then
    match k.issueTime u now regs with
    | some t => body t
    | none => k.stall u none
  else .noop

/-- The zero-cycle loop-backs at the index the stream has come to, innermost body first (R127, R129). -/
def loopBack : Nat → Stream → Stream
  | 0, st => st
  | n + 1, st =>
    match st.loops with
    | [] => st
    | b :: rest =>
      if st.pc = b.stop then
        let run := Assoc.get 0 st.lrun b.level.val - 1
        let st := { st with lrun := Assoc.put 0 st.lrun b.level.val run }
        if run = 0 then loopBack n { st with loops := rest } else { st with pc := b.start }
      else st

/-- The stream at its next instruction. -/
def Stream.advance (st : Stream) : Stream := loopBack 4 { st with pc := st.pc + 1 }

/-- The loops that stay active at an index, and the running counts with those of the ended loops 0 (R129). -/
def endLoops (pc : Nat) : List LoopBody → Assoc (BitVec 32) → List LoopBody × Assoc (BitVec 32)
  | [], run => ([], run)
  | b :: rest, run =>
    if b.start ≤ pc ∧ pc < b.stop then (b :: rest, run)
    else endLoops pc rest (Assoc.put 0 run b.level.val 0)

/-- The stream at a branch target (R129). -/
def Stream.jump (st : Stream) (target : Nat) : Stream :=
  let (ls, run) := endLoops target st.loops st.lrun
  { st with pc := target, loops := ls, lrun := run }

/-- A stream whose instruction has issued: the next issue cycle, and the ready cycle of the registers it
writes (R125, R147). -/
def Stream.issued (st : Stream) (t interval latency : Nat) (writes : List Nat) : Stream :=
  { st with
    wait := .none
    nextIssue := t + interval
    ready := writes.foldl (fun m r => Assoc.set m r (t + latency)) st.ready }

/-- A core whose stream has issued an instruction and goes to the next. -/
def Core.done (k : Core) (u : UnitId) (t interval latency : Nat) (writes : List Nat) : Core :=
  k.setStream u ((k.stream u).issued t interval latency writes).advance

/-- The answer of an instruction that issued and goes to the next. -/
def Core.ok1 (k : Core) (u : UnitId) (t interval latency : Nat) (writes : List Nat) : CoreRes :=
  .ok t (k.done u t interval latency writes)

/-- An exception raised by the instruction the stream is at (R113). -/
def Core.raise (k : Core) (u : UnitId) (code : Nat) : CoreRes := .exc code u (k.stream u).pc k

/-- Exception codes of Table 8 of file 04. -/
def excIllegal : Nat := 1
def excMisaligned : Nat := 2
def excRange : Nat := 3
def excDeadlock : Nat := 4
def excWard : Nat := 5
def excUncorrectable : Nat := 6
def excFabric : Nat := 7
def excImage : Nat := 8

/-! Local memory (R97, R99). -/

/-- The size of local memory. -/
def lmSize : Nat := 0x60000

/-- MISALIGNED or LM_RANGE of an access of n bytes that must be aligned (R97); alignment is checked first. -/
def lmCheck (a n align : Nat) : Option Nat :=
  if a % align ≠ 0 then some excMisaligned
  else if lmSize < a + n then some excRange
  else none

/-- The error mark of an 8-byte word: some false correctable, some true uncorrectable. -/
def Core.mark (k : Core) (w : Nat) : Option Bool := (k.lmErr.find? (fun e => e.1 == w)).map (·.2)

/-- The words a span of n bytes touches. -/
def wordsOf (a n : Nat) : List Nat := if n = 0 then [] else (List.range ((a + n - 1) / 8 - a / 8 + 1)).map (· + a / 8)

/-- Does the span meet an uncorrectable word? -/
def Core.uncorrectable (k : Core) (a n : Nat) : Bool := (wordsOf a n).any (fun w => k.mark w == some true)

/-- The line of the first uncorrectable word of a span (R408). -/
def Core.badLine (k : Core) (a n : Nat) : Nat :=
  ((wordsOf a n).find? (fun w => k.mark w == some true)).elim 0 (fun w => 8 * w / 64 * 64)

/-- LM_UNCORRECTABLE raised by the instruction the stream is at, for a span it accesses. -/
def Core.raiseBad (k : Core) (u : UnitId) (a n : Nat) : CoreRes :=
  .exc excUncorrectable u (k.stream u).pc k (k.badLine a n)

/-- Correctable words of a span corrected and counted (R99). -/
def Core.correct (k : Core) (ws : List Nat) : Core :=
  let hits := ws.filter (fun w => k.mark w == some false)
  { k with
    corrected := k.corrected.addN hits.length
    lmErr := k.lmErr.filter (fun e => !(hits.contains e.1)) }

/-- The lines kept for COL and ROW that a write of n bytes leaves (R96). -/
def Ope.unkeep (o : Ope) (a n : Nat) : Ope :=
  let keep := fun (l : Option Nat) => l.filter (fun l => !(decide (a < 64 * l + 64 ∧ 64 * l < a + n)))
  { o with colLine := keep o.colLine, rowLine := keep o.rowLine }

/-- The bytes of a span of local memory. -/
def Core.lmBytes (k : Core) (a n : Nat) : List Byte := Assoc.span 0 k.lm a n

/-- A read of a span: the core after correction and the bytes; none at an uncorrectable word. -/
def Core.lmRead (k : Core) (a n : Nat) : Option (Core × List Byte) :=
  if k.uncorrectable a n then none
  else some (k.correct (wordsOf a n), k.lmBytes a n)

/-- Is word w wholly inside the span? -/
def covers (a n w : Nat) : Bool := decide (a ≤ 8 * w ∧ 8 * w + 8 ≤ a + n)

/-- Bytes put into local memory, marks apart. -/
def Core.lmPut (k : Core) (a : Nat) (bs : List Byte) : Core :=
  { k with lm := Assoc.putSpan 0 k.lm a bs, ope := k.ope.unkeep a bs.length }

/-- A write of a span: whole words renew their check bits, other words are corrected; none when a word that
is not covered whole is uncorrectable (R99). -/
def Core.lmWrite (k : Core) (a : Nat) (bs : List Byte) : Option Core :=
  let n := bs.length
  let part := (wordsOf a n).filter (fun w => !(covers a n w))
  if part.any (fun w => k.mark w == some true) then none
  else
    let k := k.correct part
    some ({ k with lmErr := k.lmErr.filter (fun e => !(covers a n e.1)) }.lmPut a bs)

/-- The 64-byte lines a span touches. -/
def linesOf (a n : Nat) : List Nat :=
  if n = 0 then [] else (List.range ((a + n - 1) / 64 - a / 64 + 1)).map (· + a / 64)

/-- The cycle in which every execute-unit write of the span's lines that precedes an operation of this order is
visible (Table 5 of file 04). -/
def Core.visibleAt (k : Core) (ord a n : Nat) : Nat :=
  (k.writes.filter (fun w => (linesOf a n).contains w.line && decide (w.ord ≤ ord))).foldl
    (fun m w => max m w.at_) 0

/-- An execute-unit write of a span noted, to be visible in cycle t; notes that no later access can wait for are
dropped. -/
def Core.noteWrite (k : Core) (now ord a n t : Nat) : Core :=
  let idle := k.ope.drains.isEmpty && k.ope.heldDrain.isNone
  let old := if idle then k.writes.filter (fun w => decide (now < w.at_ + 2)) else k.writes
  { k with writes := old ++ (linesOf a n).map (fun l => { line := l, ord := ord, at_ := t }) }

/-! Data queues (R101, R102). -/

/-- The entries of a data queue, oldest first. -/
def Core.queue (k : Core) (q : Fin 4) : List DqEntry := Assoc.get [] k.dq q.val

/-- A core with a data queue replaced. -/
def Core.setQueue (k : Core) (q : Fin 4) (es : List DqEntry) : Core :=
  { k with dq := Assoc.put [] k.dq q.val es }

/-- Does the unit push to the queue (Table 4 of file 04)? -/
def pushes (u : UnitId) (q : Fin 4) : Bool := (u == .access) == decide (q.val < 3)

/-- Room for n more entries? -/
def Core.room (k : Core) (q : Fin 4) (n : Nat) : Bool := decide ((k.queue q).length + n ≤ 16)

/-- Drains numbered below n whose rows are not all written. -/
def Core.drainsOpen (k : Core) (n : Nat) : Bool :=
  k.ope.drains.any (fun d => decide (d.ord < n) && decide (d.written < 32))
    || (match k.ope.heldDrain with | some d => decide (d.ord < n) | none => false)

/-- Entries appended by a push of a unit that issues in cycle t (R102). -/
def Core.pushEntries (k : Core) (u : UnitId) (q : Fin 4) (t : Nat) (es : List (List Byte)) : Core :=
  let at_ := max (t + 2) ((k.stream u).visible + 1)
  let below := if u == .execute then k.ope.ord else 0
  k.setQueue q (k.queue q ++ es.map (fun d =>
    { data := d, at_ := at_, drainsBelow := below, scalar := decide (es.length = 1) }))

/-- The 64 bytes of a scalar entry (R101). -/
def scalarEntry (v : Word) : List Byte := padTo 64 (leBytes 8 v.toNat)

/-- The first n entries of a queue when all are poppable. -/
def Core.poppable (k : Core) (q : Fin 4) (n : Nat) : Option (List (List Byte)) :=
  let es := (k.queue q).take n
  if decide (es.length = n) && es.all (·.poppable) then some (es.map (·.data)) else none

/-- A core with n entries of a queue popped. -/
def Core.drop (k : Core) (q : Fin 4) (n : Nat) : Core := k.setQueue q ((k.queue q).drop n)

/-- A vector register's lanes as bytes, and back (R101, R149, R158). -/
def laneBytes (v : List Lane) : List Byte := v.flatMap (fun x => leBytes 4 x.toNat)

/-- 32 lanes of w bytes each from a byte string, zero-extended. -/
def lanesOf (w : Nat) (bs : List Byte) : List Lane :=
  (List.range 32).map (fun i => BitVec.ofNat 32 (leAt bs (w * i) w))

/-- A vector register. -/
def Core.vx (k : Core) (v : Fin 32) : List Lane := Assoc.get (List.replicate 32 0) k.vec.vx v.val

/-- A core with a vector register written. -/
def Core.setVx (k : Core) (v : Fin 32) (ls : List Lane) : Core :=
  { k with vec := { k.vec with vx := Assoc.set k.vec.vx v.val ls } }

/-- Cycle by which the unit's writes issued by t are visible (class AL, EL: 3 cycles). -/
def Core.wrote (k : Core) (u : UnitId) (t : Nat) : Core :=
  let st := k.stream u
  k.setStream u { st with visible := max st.visible (t + 3) }

/-- The pop a stream waits for, done in cycle t if its entries are there (R101, R149). -/
def Core.popNow (k : Core) (u : UnitId) (t : Nat) : Option Core :=
  match (k.stream u).wait with
  | .popReg d q => (k.poppable q 1).map (fun es =>
      ((k.drop q 1).setReg u d (BitVec.ofNat 64 (leAt es.flatten 0 8))).done u t 1 1 [d.val])
  | .popDrop q => (k.poppable q 1).map (fun _ => (k.drop q 1).done u t 1 1 [])
  | .popVec d q => (k.poppable q 2).map (fun es =>
      ((k.drop q 2).setVx d (lanesOf 4 es.flatten)).done u t 2 1 [vreg d])
  | .popStore a q => (k.poppable q 1).bind (fun es =>
      ((k.drop q 1).lmWrite a.toNat es.flatten).map (fun k => (k.done u t 1 1 []).wrote u t))
  | _ => none

/-- Lines pushed by an `ldq` while the queue has room: the core, and whether a line raised an exception
(R130). Entry j becomes poppable at t + j + 5. -/
def Core.pushLines (k : Core) (q : Fin 4) (t j : Nat) (a : Word) : Nat → Core × Word × Nat × Bool
  | 0 => (k, a, 0, false)
  | n + 1 =>
    if k.room q 1 then
      match (if lmSize < a.toNat + 64 then none else k.lmRead a.toNat 64) with
      | none => (k, a, n + 1, true)
      | some (k, bs) =>
        Core.pushLines (k.setQueue q (k.queue q ++ [{ data := bs, at_ := t + j + 5 }])) q t (j + 1) (a + 64) n
    else (k, a, n + 1, false)

/-- The push a stream waits for, done in cycle t if there is room now; an `ldq` goes on as far as it can.
The flag says that a line of an `ldq` raised an exception. The lines of an `ldq` that stalled for room count their poppable
cycle, and the next issue its interval, from the cycle in which it goes on: R125 gives only the unstalled case (DESIGN
CHOICE, log 95). -/
def Core.pushNow (k : Core) (u : UnitId) (t : Nat) : Option (Core × Bool) :=
  match (k.stream u).wait with
  | .push q es =>
    if k.room q es.length then
      some ((k.pushEntries u q t es).done u t (if es.length = 2 then 2 else 1) 1 [], false)
    else none
  | .ldq q a n =>
    match k.pushLines q t 0 a n with
    | (k, a, m, true) => some (k.setStream u { k.stream u with wait := .ldq q a m }, true)
    | (k, _, 0, false) => some (k.done u t n 1 [], false)
    | (k, a, m, false) =>
      if m = n then none else some (k.setStream u { k.stream u with wait := .ldq q a m }, false)
  | _ => none

/-- One stream's queue wait served if it can be. -/
def Core.serve (k : Core) (u : UnitId) (t : Nat) : Core × Bool :=
  match k.popNow u t with
  | some k => (k, false)
  | none => (k.pushNow u t).getD (k, false)

/-- The queue waits of both streams served until nothing more moves: a pop makes room for a push, and a
push may go on with an `ldq`. The result says which stream met a line that raises an exception. -/
def Core.serveQueues (k : Core) (t : Nat) : Core × Option UnitId :=
  let (k, a) := k.serve .access t
  if a then (k, some .access) else
  let (k, b) := k.serve .execute t
  if b then (k, some .execute) else
  let (k, c) := k.serve .access t
  if c then (k, some .access) else (k, none)

/-- The answer of an event after which queue waits may go on. -/
def Core.settled (k : Core) (t : Nat) : CoreRes :=
  match k.serveQueues t with
  | (k, none) => .ok t k
  | (k, some u) =>
    match (k.stream u).wait with
    | .ldq _ a _ => if lmSize < a.toNat + 64 then k.raise u excRange else k.raiseBad u a.toNat 64
    | _ => k.raise u excUncorrectable

/-! Address streams (R95, R131 to R134). -/

/-- The number of an address stream (bit of ASTREAM_MASK, R119). -/
def streamNo : AStream → Nat
  | .col => 0 | .row => 1 | .scale => 2 | .drain => 3 | .vload => 4 | .vstore => 5

/-- Addresses a pattern generates in all. -/
def Pattern.total (p : Pattern) : Nat := (p.dims.map Prod.fst).foldl (· * ·) 1

/-- Address n of a pattern, modulo 2⁶⁴ (R131). -/
def Pattern.addr (p : Pattern) (n : Nat) : Word :=
  let go := fun (acc : Nat × Int) (d : Nat × Int) => (acc.1 / d.1, acc.2 + (acc.1 % d.1 : Nat) * d.2)
  p.base + BitVec.ofInt 64 (p.dims.foldl go (n, 0)).2

/-- One address generated, if a pattern has one and the FIFO has room. -/
def AddrStream.gen1 (s : AddrStream) : AddrStream :=
  match s.patterns with
  | [] => s
  | p :: ps =>
    if s.fifo.length < 32 then
      let s := { s with fifo := s.fifo ++ [p.addr p.done] }
      if p.done + 1 = p.total then { s with patterns := ps }
      else { s with patterns := { p with done := p.done + 1 } :: ps }
    else s

/-- n cycles of the generator. -/
def AddrStream.genN : Nat → AddrStream → AddrStream
  | 0, s => s
  | n + 1, s => AddrStream.genN n s.gen1

/-- The stream as it stands in cycle now: one address a cycle since upTo, 32 at most (R132). -/
def AddrStream.settle (s : AddrStream) (now : Nat) : AddrStream :=
  { AddrStream.genN (min (now - s.upTo) 32) s with upTo := max s.upTo now }

/-- A core's address stream. -/
def Core.ag (k : Core) (a : AStream) : AddrStream := Assoc.get {} k.ags (streamNo a)

/-- A core with an address stream replaced. -/
def Core.setAg (k : Core) (a : AStream) (s : AddrStream) : Core :=
  { k with ags := Assoc.put {} k.ags (streamNo a) s }

/-- The next n addresses of a stream, taken in the first cycle at or after now in which all are in the
FIFO: the addresses, that cycle and the core; none when no pattern will deliver them. -/
def Core.takeAddrs (k : Core) (a : AStream) (now n : Nat) : Option (List Word × Nat × Core) :=
  let s := (k.ag a).settle now
  let t := if n ≤ s.fifo.length then now else max now (s.upTo + (n - s.fifo.length))
  let s := s.settle t
  if n ≤ s.fifo.length then
    some (s.fifo.take n, t, k.setAg a { s with fifo := s.fifo.drop n })
  else none

end Sys2Proof.Machine
end

