-- ==== Sys2Proof/Machine/CoreScalar.lean ====
section
/-! DEFINITION. What the scalar, control, local-memory, queue, address-stream, hasp, strike and ward
instructions do to their core (files 05 and 06). The instructions themselves, in their family files, call
these. -/

namespace Sys2Proof.Machine

open Sys2Proof

/-- A scalar instruction of two operands (R126, R148): the class's latency, and what it computes. -/
def Core.alu (k : Core) (u : UnitId) (now lat : Nat) (d a : Fin 32) (x : Src) (f : Word → Word → Word) :
    CoreRes :=
  if regOk u d && regOk u a && srcOk u x then
    k.issue u now (d.val :: a.val :: srcRegs x) (fun t =>
      (k.setReg u d (f (k.reg u a) (k.src u x))).ok1 u t 1 lat [d.val])
  else .refuse

/-- An instruction that sets a general register to a value read from one source (R126). -/
def Core.move (k : Core) (u : UnitId) (now : Nat) (d : Fin 32) (x : Src) : CoreRes :=
  if regOk u d && srcOk u x then
    k.issue u now (d.val :: srcRegs x) (fun t => (k.setReg u d (k.src u x)).ok1 u t 1 1 [d.val])
  else .refuse

/-- `mov LCNTn, src` (R124, R126, R128). -/
def Core.setCount (k : Core) (u : UnitId) (now : Nat) (n : Fin 4) (x : Src) : CoreRes :=
  if srcOk u x then
    k.issue u now (lreg n :: srcRegs x) (fun t =>
      let st := k.stream u
      (k.setStream u { st with lcnt := Assoc.put 0 st.lcnt n.val ((k.src u x).truncate 32) }).ok1 u t 1 1
        [lreg n])
  else .refuse

/-- `mov GAd, LCNTn` and `mov GAd, LRUNn` (R126). -/
def Core.getCount (k : Core) (u : UnitId) (now : Nat) (d : Fin 32) (run : Bool) (n : Fin 4) : CoreRes :=
  if regOk u d then
    k.issue u now [d.val, lreg n] (fun t =>
      let st := k.stream u
      let v := Assoc.get 0 (if run then st.lrun else st.lcnt) n.val
      (k.setReg u d (v.zeroExtend 64)).ok1 u t 1 1 [d.val])
  else .refuse

/-- A branch: taken or not by its condition (R126, R129; class AB). -/
def Core.branch (k : Core) (u : UnitId) (now : Nat) (regs : List (Fin 32)) (taken : Bool) (target : Nat) :
    CoreRes :=
  if regs.all (regOk u) then
    k.issue u now (regs.map Fin.val) (fun t =>
      if taken then .ok t (k.setStream u (((k.stream u).issued t 3 3 []).jump target))
      else k.ok1 u t 1 1 [])
  else .refuse

/-- Is the body of a loop at pc with this label one the toolchain accepts (R127, R129)? -/
def bodyOk (pc target : Nat) (loops : List LoopBody) : Bool :=
  decide (pc + 1 < target ∧ target ≤ pc + 1 + 65536)
    && (match loops with | [] => true | b :: _ => decide (target ≤ b.stop))

/-- `loop LCNTn, label` (R127, R128). -/
def Core.loop (k : Core) (u : UnitId) (now : Nat) (n : Fin 4) (target : Nat) : CoreRes :=
  let st := k.stream u
  if !(bodyOk st.pc target st.loops) then .refuse
  else
    k.issue u now [lreg n] (fun t =>
      if st.loops.any (fun b => b.level == n) then k.raise u excIllegal
      else
        let cnt := Assoc.get 0 st.lcnt n.val
        let st1 := { st with lrun := Assoc.put 0 st.lrun n.val cnt }
        if cnt = 0 then
          .ok t (k.setStream u (loopBack 4 { st1.issued t 3 3 [] with pc := target }))
        else
          .ok t (k.setStream u
            { st1.issued t 1 1 [] with
              pc := st.pc + 1
              loops := { level := n, start := st.pc + 1, stop := target } :: st.loops }))

/-- The local address of `[GAb + imm]`: bits [31:0] of the immediate, taken as i32 (R122). -/
def Core.ea (k : Core) (b : Fin 32) (imm : Imm) : Word :=
  k.reg .access b + ((k.imm imm).truncate 32 : BitVec 32).signExtend 64

/-- A load of 2^size bytes (R130). -/
def Core.load (k : Core) (now : Nat) (size : Nat) (sx : Bool) (d b : Fin 32) (imm : Imm) : CoreRes :=
  k.issue .access now [d.val, b.val] (fun t =>
    let a := (k.ea b imm).toNat
    let n := 2 ^ size
    match lmCheck a n n with
    | some e => k.raise .access e
    | none =>
      match k.lmRead a n with
      | none => k.raiseBad .access a n
      | some (k, bs) =>
        let v : Word := if sx then BitVec.ofInt 64 (signed (8 * n) (ofLe bs)) else BitVec.ofNat 64 (ofLe bs)
        (k.setReg .access d v).ok1 .access t 1 4 [d.val])

/-- A store of 2^size bytes (R130). -/
def Core.store (k : Core) (now : Nat) (size : Nat) (r b : Fin 32) (imm : Imm) : CoreRes :=
  k.issue .access now [r.val, b.val] (fun t =>
    let a := (k.ea b imm).toNat
    let n := 2 ^ size
    match lmCheck a n n with
    | some e => k.raise .access e
    | none =>
      match k.lmWrite a (leBytes n (k.reg .access r).toNat) with
      | none => k.raiseBad .access a n
      | some k => .ok t ((k.done .access t 1 1 []).wrote .access t))

/-- The exception an `ldq` raises before its first line (R97, R130). The spec orders the two checks nowhere: the
count is judged first (DESIGN CHOICE, log 84). -/
def ldqCheck (a : Nat) (lines : Nat) : Option Nat :=
  if lines = 0 ∨ 16 < lines then some excIllegal
  else if a % 64 ≠ 0 then some excMisaligned else none

/-- `ldq DQn, [GAb + imm], lines` (R101, R130). -/
def Core.loadQueue (k : Core) (now : Nat) (q : Fin 4) (b : Fin 32) (imm lines : Imm) : CoreRes :=
  if !(pushes .access q) then .refuse
  else
    k.issue .access now [b.val] (fun t =>
      let n := (k.imm lines).toNat
      match ldqCheck (k.ea b imm).toNat n with
      | some e => k.raise .access e
      | none =>
        let k := k.setStream .access { k.acc with wait := .ldq q (k.ea b imm) n }
        k.settled t)

/-- A push of entries: it issues when the queue has room, else the stream waits with them (R101, R102,
R149). -/
def Core.push (k : Core) (u : UnitId) (now : Nat) (q : Fin 4) (regs : List Nat) (es : List (List Byte)) :
    CoreRes :=
  if !(pushes u q) then .refuse
  else
    k.issue u now regs (fun t =>
      let k := k.setStream u { k.stream u with wait := .push q es }
      k.settled t)

/-- A pop: it issues when the entries are poppable, else the stream waits (R101, R149). -/
def Core.pop (k : Core) (u : UnitId) (now : Nat) (q : Fin 4) (regs : List Nat) (w : Wait) : CoreRes :=
  if pushes u q then .refuse
  else
    k.issue u now regs (fun t =>
      let k := k.setStream u { k.stream u with wait := w }
      k.settled t)

/-- `stq [GAb + imm], DQ3`: the address is checked at issue, before an entry is present; R130 does not say whether the check
comes before or after the wait (DESIGN CHOICE, log 95). -/
def Core.storeQueue (k : Core) (now : Nat) (b : Fin 32) (imm : Imm) : CoreRes :=
  k.issue .access now [b.val] (fun t =>
    match lmCheck (k.ea b imm).toNat 64 64 with
    | some e => k.raise .access e
    | none =>
      let k := k.setStream .access { k.acc with wait := .popStore (k.ea b imm) 3 }
      k.settled t)

/-- The first entry that is not poppable becomes poppable, no earlier than R101 and R102 allow, and the
streams that wait for it go on. -/
def Core.entryPoppable (k : Core) (now : Nat) (q : Fin 4) : CoreRes :=
  let es := k.queue q
  let i := (es.takeWhile (·.poppable)).length
  match es[i]? with
  | none => .noop
  | some e =>
    if k.drainsOpen e.drainsBelow then .noop
    else
      let t := max now e.at_
      (k.setQueue q (es.set i { e with poppable := true })).settled t

/-- An address stream whose patterns in hand leave no place for another: time to the end of the one in
generation, or none when its FIFO must drain first (R132). -/
def AddrStream.freeAt (s : AddrStream) (now : Nat) : Option Nat :=
  let lead := s.patterns.takeWhile (fun p => p.dims.isEmpty)
  match s.patterns.filter (fun p => !p.dims.isEmpty) with
  | p :: _ :: _ =>
    let n := lead.length + (p.total - p.done)
    if s.fifo.length + n ≤ 32 then some (max now (s.upTo + n)) else none
  | _ => some now

/-- `agen` (R131, R132). Counts are the low 32 bits, strides the low 32 bits taken as signed. -/
def Core.agen (k : Core) (now : Nat) (a : AStream) (b : Fin 32) (dims : List (Src × Src)) : CoreRes :=
  if decide (dims.length = 0 ∨ 4 < dims.length) then .refuse
  else
    k.issue .access now (b.val :: dims.flatMap (fun (n, s) => srcRegs n ++ srcRegs s)) (fun t =>
      let ds := dims.map (fun (n, s) =>
        (bits (k.src .access n) 0 32, signed 32 (k.src .access s).toNat))
      if ds.any (fun d => d.1 == 0) then k.ok1 .access t 1 1 []
      else
        let s := (k.ag a).settle t
        match s.freeAt t with
        | none => k.stall .access none
        | some t =>
          let s := s.settle t
          let p : Pattern := { base := k.reg .access b, dims := ds }
          let s := { s with
            patterns := s.patterns ++ [p]
            upTo := if s.patterns.isEmpty then max s.upTo (t + 1) else s.upTo }
          (k.setAg a s).ok1 .access t 1 1 [])

/-- `apush` (R133): the address goes through the generator as a pattern of one address, behind the patterns in
hand, and is in the FIFO no earlier than 2 cycles after issue (class AG). -/
def Core.apush (k : Core) (now : Nat) (a : AStream) (r : Fin 32) : CoreRes :=
  k.issue .access now [r.val] (fun t =>
    let s := (k.ag a).settle t
    if 32 ≤ s.fifo.length then k.stall .access none
    else
      let v := k.reg .access r
      let s := { s with
        patterns := s.patterns ++ [{ base := v, dims := [] }]
        upTo := if s.patterns.isEmpty then max s.upTo (t + 1) else s.upTo }
      (k.setAg a s).ok1 .access t 1 1 [])

/-! Hasps (R138 to R142). -/

/-- A handle of the core. -/
def Core.handle (k : Core) (h : Fin 16) : Handle := Assoc.get {} k.handles h.val

/-- A core with a handle replaced. -/
def Core.setHandle (k : Core) (h : Fin 16) (v : Handle) : Core :=
  { k with handles := Assoc.put {} k.handles h.val v }

/-- The slot count of a handle's ring (Table 2 of file 05). -/
def Core.slots (k : Core) (h : Fin 16) : Nat := (k.bindWord h.val 2).toNat

/-- Does slot n hold a stream (R138)? -/
def Core.isHandle (k : Core) (h : Fin 16) : Bool := Assoc.get 0 k.kinds h.val == 3

/-- The count the core may wait on: FILL of an inbound handle, FREE of an outbound one (R138). -/
def waitKind (inbound : Bool) : HaspKind := if inbound then .fill else .free

/-- The count the core may post. -/
def postKind (inbound : Bool) : HaspKind := if inbound then .free else .fill

/-- May `hwait`, or `hpost`, name this handle with this count (R138, R139)? -/
def Core.haspOk (k : Core) (h : Fin 16) (want have_ : HaspKind) (cnt : Nat) : Bool :=
  k.isHandle h && want == have_ && decide (1 ≤ cnt ∧ cnt ≤ k.slots h)

/-- `hwait`'s counts taken from the core's copy (R139). -/
def Core.takeHasp (k : Core) (h : Fin 16) (cnt : Nat) : Core :=
  let v := k.handle h
  k.setHandle h { v with copy := v.copy - cnt, held := v.held + cnt }

/-- `hpost`'s effect in the core: the position advances, the held count falls (R139). -/
def Core.giveHasp (k : Core) (h : Fin 16) (cnt : Nat) : Core :=
  let v := k.handle h
  k.setHandle h { v with pos := (v.pos + cnt) % k.slots h, held := v.held - cnt }

/-- `hslot` (R139). -/
def Core.hslot (k : Core) (now : Nat) (d : Fin 32) (h : Fin 16) (i : Imm) : CoreRes :=
  k.issue .access now [d.val] (fun t =>
    let idx := (k.imm i).toNat
    if k.isHandle h && decide (idx < k.slots h) then
      let n := ((k.handle h).pos + idx) % k.slots h
      let v := k.bindWord h.val 0 + BitVec.ofNat 64 n * k.bindWord h.val 1
      (k.setReg .access d v).ok1 .access t 1 2 [d.val]
    else k.raise .access excIllegal)

/-- `ldbind` (R123, R126). -/
def Core.ldbind (k : Core) (now : Nat) (d : Fin 32) (slot : Fin 16) (word : Fin 8) : CoreRes :=
  k.move .access now d (.imm (k.bindWord slot.val word.val))

/-! Strikes, wards, end (R111, R112, R143, R144, R164). -/

/-- `swait`: it completes at once when strike s is reached, else the stream waits (R111). -/
def Core.swait (k : Core) (u : UnitId) (now : Nat) (strike : Word) (regs : List Nat) (s : Word) : CoreRes :=
  k.issue u now regs (fun t =>
    if atOrAfter strike s then k.ok1 u t 1 1 []
    else .held (k.setStream u { k.stream u with wait := .strike s }))

/-- The strike wait of a stream completes (R111). -/
def Core.strikeReached (k : Core) (u : UnitId) (now : Nat) (strike : Word) : CoreRes :=
  match (k.stream u).wait with
  | .strike s => if atOrAfter strike s then k.ok1 u (max now (k.stream u).nextIssue) 1 1 [] else .noop
  | _ => .noop

/-- The other stream. -/
def other : UnitId → UnitId
  | .access => .execute
  | .execute => .access

/-- Does a stream at ward w, or at its end (none), mismatch the other one (R112)? -/
def Core.wardClash (k : Core) (u : UnitId) (w : Option (Fin 64)) : Bool :=
  let o := k.stream (other u)
  match o.wait, w with
  | .ward v, some w => v != w
  | .ward _, none => true
  | _, some _ => o.ended
  | _, none => false

/-- `ward w`: the stream waits, or the ward mismatches (R112, R144). -/
def Core.ward (k : Core) (u : UnitId) (now : Nat) (w : Fin 64) : CoreRes :=
  k.issue u now [] (fun t =>
    if k.wardClash u (some w) then k.raise u excWard
    else .ok t (k.setStream u { k.stream u with wait := .ward w, nextIssue := t + 1 }))

/-- `end` (R144). -/
def Core.endStream (k : Core) (u : UnitId) (now : Nat) : CoreRes :=
  k.issue u now [] (fun t =>
    if k.wardClash u none then k.raise u excWard
    else .ok t (k.setStream u { k.stream u with wait := .none, ended := true, loops := [], nextIssue := t + 1 }))

/-- The ward both streams wait at. -/
def Core.atWard (k : Core) : Option (Fin 64) :=
  match k.acc.wait, k.exe.wait with
  | .ward a, .ward b => if a = b then some a else none
  | _, _ => none

/-- Everything issued before the ward is complete and visible: drains, stores, transfers (R112). -/
def Core.quiet (k : Core) : Bool :=
  k.xfers.isEmpty && !(k.drainsOpen k.ope.ord)

/-- The release of a ward: both streams go on, and the edge and the vector engine hold until the slot
strike (R112). -/
def Core.releaseWard (k : Core) (slot : Word) : Core :=
  let go := fun (st : Stream) => ({ st with wait := .none } : Stream).advance
  { k with acc := go k.acc, exe := go k.exe, arrived := false, slot := some slot, slotOrd := k.ope.ord }

end Sys2Proof.Machine
end

