-- ==== Sys2Proof/Machine/Func.lean ====
section
/-! DEFINITION. The primitives exp2c, log2c and rcp, and the fused functions and derivatives of Table 8 of
file 02 (R61). A primitive is evaluated between two exact bounds and is the binary32 value both bounds
round to; the precision doubles until they agree. -/

namespace Sys2Proof.Machine

open Sys2Proof

/-- Sum of z^(2k+1) / (2k+1) over n terms from index k, in units of 2^-p; t is the current power. -/
def atanhLoop (p z2 : Nat) : Nat → Nat → Nat → Nat → Nat
  | 0, _, _, acc => acc
  | n + 1, k, t, acc => atanhLoop p z2 n (k + 1) (t * z2 / 2 ^ p) (acc + t / (2 * k + 1))

/-- 2 artanh(z) in units of 2^-p, from below by fewer than 4p units, for z ≤ 1/3 in units of 2^-p. -/
def twoAtanh (p z : Nat) : Nat := 2 * atanhLoop p (z * z / 2 ^ p) (p / 3 + 1) 0 z 0

/-- ln 2 in units of 2^-p, from below by fewer than 4p units. -/
def ln2Fix (p : Nat) : Nat := twoAtanh p (2 ^ p / 3)

/-- Sum of x^k / k! over n terms from index k, in units of 2^-p. -/
def expLoop (p x : Nat) : Nat → Nat → Nat → Nat → Nat
  | 0, _, _, acc => acc
  | n + 1, k, t, acc => expLoop p x n (k + 1) (t * x / 2 ^ p / (k + 1)) (acc + t)

/-- The binary32 value that both ends of an interval of magnitudes in units of 2^e round to, if they
agree. -/
def agree (s : Bool) (lo hi : Nat) (e : Int) : Option Lane :=
  let a := round32 s lo e
  if a = round32 s hi e then some a else none

/-- The first answer of a bounded search over doubling precisions. -/
def refine (f : Nat → Option Lane) (last : Nat → Lane) : Nat → Nat → Lane
  | 0, p => last p
  | n + 1, p => match f p with
    | some a => a
    | none => refine f last n (2 * p)

/-- 2^f × 2^p for 0 ≤ f < 1 given in units of 2^-p: a value from below, off by fewer than 16p units. -/
def exp2Fix (p f : Nat) : Nat := expLoop p (f * ln2Fix p / 2 ^ p) p 0 (2 ^ p) 0

/-- exp2c: 2ᵗ to nearest, ties to even (R61). DEDUCED at the infinities: the limits 0 and ∞. -/
def exp2c (t : Lane) : Lane :=
  match dec32 t with
  | .nan => nan32
  | .inf s => if s then 0 else inf32 false
  | .fin s m e =>
    let d := (Fl.fin s m e).dy
    if Dy.le ⟨256, 0⟩ d then inf32 false
    else if Dy.le d ⟨-256, 0⟩ then 0
    else
      -- t = n + f / 2^k with k fraction bits
      let k := (-e).toNat
      let v := d.m * pow2 e
      let n := v.fdiv (2 ^ k)
      let f := (v.fmod (2 ^ k)).toNat
      if f = 0 then round32 false 1 n
      else
        let at_ := fun p => exp2Fix p (f * 2 ^ p / 2 ^ k)
        refine (fun p => agree false (at_ p) (at_ p + 32 * p) (n - p))
          (fun p => round32 false (at_ p) (n - p)) 3 256

/-- log₂ y × 2^p for 1 ≤ y = m / 2^l < 2: a value from below, off by fewer than 32p units. -/
def log2Fix (p m l : Nat) : Nat :=
  twoAtanh p ((m - 2 ^ l) * 2 ^ p / (m + 2 ^ l)) * 2 ^ p / (ln2Fix p + 4 * p)

/-- log2c: log₂ t to nearest, ties to even (R61). R61 states no result at 0 and below: open, log 10. -/
def log2c (t : Lane) : Lane :=
  match dec32 t with
  | .nan => nan32
  | .inf s => if s then Config.log2Open t else inf32 false
  | .fin s m e =>
    if m = 0 then Config.log2Open t
    else if s then Config.log2Open t
    else
      let l := Nat.log2 m
      let n : Int := l + e
      if m = 2 ^ l then roundDy ⟨n, 0⟩ false
      else
        let lo := fun (p : Nat) => n * 2 ^ p + log2Fix p m l
        let hi := fun (p : Nat) => lo p + 64 * p
        refine
          (fun p =>
            let a := lo p
            let b := hi p
            if 0 ≤ a then agree false a.toNat b.toNat (-p)
            else if b ≤ 0 then agree true a.natAbs b.natAbs (-p) else none)
          (fun p => roundDy ⟨lo p, -p⟩ false) 3 256

/-- rcp: 1 / t to nearest, ties to even (R61). DEDUCED at 0 and ∞: IEEE 754 division. -/
def rcp (t : Lane) : Lane :=
  match dec32 t with
  | .nan => nan32
  | .inf s => zero32 s
  | .fin s m e =>
    if m = 0 then inf32 s
    else
      let k := Nat.log2 m + 40
      let q := 2 ^ k / m
      let sticky := if 2 ^ k % m = 0 then 0 else 1
      round32 s (2 * q + sticky) (-e - k - 1)

/-- The binary32 value nearest to log₂ e. -/
def constL : Lane := 0x3FB8AA3B
/-- The binary32 value nearest to ln 2. -/
def constN : Lane := 0x3F317218
/-- The binary32 value nearest to √(2/π). -/
def constC : Lane := 0x3F4C422A
/-- The binary32 value nearest to 0.044715. -/
def constA : Lane := 0x3D372713
/-- The binary32 value nearest to 0.134145. -/
def constA3 : Lane := 0x3E095D4F

def half32 : Lane := 0x3F000000
def two32 : Lane := 0x40000000
/-- 2⁻¹², the bound of the TANH case. -/
def tiny32 : Lane := 0x39800000

/-- sig(x) of R61. -/
def sig (x : Lane) : Lane := rcp (fadd one32 (exp2c (fneg (fmul x constL))))

/-- The TANH row of Table 8. -/
def tanhF (x : Lane) : Lane :=
  if flt (fabs x) tiny32 then x
  else fsub (fmul two32 (sig (fmul two32 x))) one32

/-- The functions f of Table 8 on an argument that is not NaN. -/
def fnVal : Fn → Lane → Lane
  | .ident, x => x
  | .relu, x => if flt 0 x then x else 0
  | .sigm, x => sig x
  | .tanh, x => tanhF x
  | .silu, x => fmul x (sig x)
  | .softp, x =>
    let m := if flt 0 x then x else 0
    fadd m (fmul constN (log2c (fadd one32 (exp2c (fmul (fneg (fabs x)) constL)))))
  | .gelu, x =>
    let u := fmul constC (fadd x (fmul constA (fmul (fmul x x) x)))
    let t := tanhF u
    fmul (fmul half32 x) (fadd one32 t)

/-- The derivatives f′ of Table 8 on an argument that is not NaN. -/
def fnDeriv : Fn → Lane → Lane
  | .ident, _ => one32
  | .relu, x => if flt 0 x then one32 else 0
  | .sigm, x => let s := sig x; fmul s (fsub one32 s)
  | .tanh, x => let t := tanhF x; fsub one32 (fmul t t)
  | .silu, x =>
    let s := sig x
    fmul s (fadd one32 (fmul x (fsub one32 s)))
  | .softp, x => sig x
  | .gelu, x =>
    let u := fmul constC (fadd x (fmul constA (fmul (fmul x x) x)))
    let t := tanhF u
    let h := fmul half32 (fadd one32 t)
    let q := fmul (fsub one32 (fmul t t)) (fmul constC (fadd one32 (fmul constA3 (fmul x x))))
    fadd h (fmul (fmul half32 x) q)

/-- f(x), the canonical NaN at NaN (R61). -/
def applyFn (f : Fn) (x : Lane) : Lane := if isNan32 x then nan32 else fnVal f x

/-- f′(x), the canonical NaN at NaN (R61). -/
def applyDeriv (f : Fn) (x : Lane) : Lane := if isNan32 x then nan32 else fnDeriv f x

end Sys2Proof.Machine
end

