-- ==== Sys2Proof/Machine/CoreOpe.lean ====
section
/-! DEFINITION. The outer-product engine, the tile scoreboard and the drain path of one core (file 02, R151
to R157). A beat acts on every cell when it enters the edge: the skew of R34 and R35 shows only in the
cycles that Table 6 and R54 give to later operations, and those are kept. -/

namespace Sys2Proof.Machine

open Sys2Proof

/-- A pairing of Table 2: beat period, steps per beat, whether cells accumulate INT32. -/
structure Pairing where
  p : Nat
  steps : Nat
  int : Bool
  deriving DecidableEq, Repr

/-- The 8-bit and 6-bit floats of Table 2's first row. -/
def byteFloat : EType → Bool
  | .e4m3 | .e5m2 | .mxe4m3 | .mxe3m2 | .mxe2m3 => true
  | _ => false

/-- BF16 or FP16. -/
def halfFloat : EType → Bool
  | .bf16 | .fp16 => true
  | _ => false

/-- Table 2 of file 02 (R39). -/
def pairing (c r : EType) : Option Pairing :=
  if byteFloat c && byteFloat r then some ⟨1, 1, false⟩
  else if c == .mxfp4 && r == .mxfp4 then some ⟨1, 2, false⟩
  else if (c == .mxfp4 && byteFloat r) || (byteFloat c && r == .mxfp4) then some ⟨1, 1, false⟩
  else if c == .mxint8 && r == .mxint8 then some ⟨1, 1, false⟩
  else if c == .int8 && r == .int8 then some ⟨1, 1, true⟩
  else if halfFloat c && halfFloat r then some ⟨2, 1, false⟩
  else none

/-- The pairing of an accepted accumulate. -/
def Acc.pair (a : Acc) : Pairing := (pairing a.ct a.rt).getD ⟨1, 1, false⟩

/-- Beats an accumulate occupies (R43). -/
def Acc.total (a : Acc) : Nat := ceilDiv a.k a.pair.steps

/-- A tile of the core. -/
def Core.tile (k : Core) (t : Fin 4) : Tile := Assoc.get {} k.tiles t.val

/-- A core with a tile replaced. -/
def Core.setTile (k : Core) (t : Fin 4) (v : Tile) : Core := { k with tiles := Assoc.set k.tiles t.val v }

/-- The flags of a tile, with those raised behind a drain (R48). -/
def Tile.anySat (t : Tile) : Bool := t.sat || t.raised.any (fun e => e.2.1)
def Tile.anyInv (t : Tile) : Bool := t.inv || t.raised.any (fun e => e.2.2.1)
def Tile.anyDsat (t : Tile) : Bool := t.dsat || t.raised.any (fun e => e.2.2.2)

/-- The flags= result: SAT in bit 1, INV in bit 2, DSAT in bit 3 (R154). -/
def Tile.flagWord (v : Tile) : Word :=
  BitVec.ofNat 64 (2 * b2n v.anySat + 4 * b2n v.anyInv + 8 * b2n v.anyDsat)

/-- The tile status word (R48). -/
def Tile.word (t : Tile) : Word :=
  BitVec.ofNat 64 (t.steps.n.toNat * 2 ^ 16 + place 8 1 (b2n t.steps.ov) + place 5 1 (b2n t.int)
    + place 4 1 (b2n t.comp) + place 3 1 (b2n t.anyDsat) + place 2 1 (b2n t.anyInv) + place 1 1 (b2n t.anySat)
    + b2n t.clr)

/-- A tile cleared in cycle c: all +0, flags, STEPS and STOV clear, CLR set (R48, R49, R153); the next operation
acts in the cycle after (Table 6). What will stand stays. -/
def Tile.cleared (t : Tile) (c : Nat) : Tile :=
  { nextClr := t.nextClr, nextComp := t.nextComp, nextInt := t.nextInt, from_ := c + 1 }

/-- The end of a drain with the clear option: CLR set, STEPS, STOV and the mode fields 0 (R59). -/
def Tile.drained (t : Tile) : Tile := { t with clr := true, steps := {}, comp := false, int := false }

/-- Does an earlier operation on the tile stand outstanding for an operation of this order (R53)? -/
def Core.tileBusy (k : Core) (t : Fin 4) (ord : Nat) : Bool :=
  let o := k.ope
  (o.q ++ o.filling).any (fun a => a.tile == t && decide (a.ord < ord))
    || o.drains.any (fun d => d.tile == t && decide (d.ord < ord) && decide (d.sampled < 32))
    || o.tileOps.any (fun x => x.tile == t && decide (x.ord < ord))

/-- The first cycle from t on in which a clear or a status read of a tile may act: after an earlier clear and after
the last row of an earlier drain (Table 6). -/
def Tile.opAt (v : Tile) (t : Nat) : Nat := max (max t v.from_) v.opFrom

/-- A drain that has still to report a tile's flags keeps them when a later clear of the tile acts: a later operation
changes nothing of what an earlier one reports (R53, R59; DEDUCED, log 38). -/
def Drain.keepFlags (t : Fin 4) (v : Tile) (d : Drain) : Drain :=
  if d.tile == t && d.flags.isSome && d.kept.isNone then { d with kept := some v.flagWord } else d

/-- A clear or a status read done in the first cycle from t on that its issue, an earlier clear and an earlier drain
allow. -/
def Core.tileAct (k : Core) (t : Nat) (x : TileOp) : Core :=
  let v := k.tile x.tile
  let t := v.opAt (max t x.at_)
  match x.dest with
  | none =>
    { k.setTile x.tile (v.cleared t) with
      ope := { k.ope with drains := k.ope.drains.map (Drain.keepFlags x.tile v) } }
  | some d =>
    let k := k.setReg .execute d (k.tile x.tile).word
    { k with exe := { k.exe with
        busy := k.exe.busy.filter (· != d.val)
        ready := Assoc.set k.exe.ready d.val (t + 2) } }

/-- The waiting clears and reads whose turn has come, in issue order. -/
def tileTurns (t : Nat) : List TileOp → Core → Core
  | [], k => k
  | x :: xs, k =>
    let k1 := { k with ope := { k.ope with tileOps := k.ope.tileOps.filter (· != x) } }
    tileTurns t xs (if k1.tileBusy x.tile x.ord then k else k1.tileAct t x)

/-- The core after an event that may let waiting clears and reads act. -/
def Core.runTileOps (k : Core) (t : Nat) : Core := tileTurns t k.ope.tileOps k

/-- A tile clear or a tile-status read issues (R153): at once when the scoreboard allows, else it waits for
its turn without holding the stream. -/
def Core.tileOp (k : Core) (now : Nat) (t : Fin 4) (dest : Option (Fin 32)) : CoreRes :=
  if (match dest with | some d => regOk .execute d | none => true) then
    k.issue .execute now (match dest with | some d => [d.val] | none => []) (fun c =>
      let x : TileOp := { ord := k.ope.ord, at_ := c, tile := t, dest := dest }
      let k := { k with ope := { k.ope with ord := k.ope.ord + 1, tileOps := k.ope.tileOps ++ [x] } }
      let k := match dest with
        | some d => { k with exe := { k.exe with busy := d.val :: k.exe.busy } }
        | none =>
          let v := k.tile t
          k.setTile t { v with nextClr := true, nextComp := false, nextInt := false }
      .ok c ((k.done .execute c 1 1 []).runTileOps c))
  else .refuse

/-- An accumulate accepted in cycle t (R38). -/
def Core.acceptAcc (k : Core) (t : Nat) (a : Acc) : Core :=
  { k with ope := { k.ope with q := k.ope.q ++ [{ a with accepted := t }], held := none } }

/-- Accumulates that take a place of the engine in cycle t: those in hand, and one whose last beat is still
spending its p cycles at the edge (R38). -/
def Ope.places (o : Ope) (t : Nat) : Nat := o.q.length + b2n (decide (t < o.freeAt))

/-- `opa` at issue (R39, R43, R50, R151, R152). -/
def Core.opa (k : Core) (now : Nat) (t : Fin 4) (ct rt : EType) (init comp : Bool) (x : Src) : CoreRes :=
  if !(srcOk .execute x) then .refuse
  else
    k.issue .execute now (srcRegs x) (fun c =>
      match pairing ct rt with
      | none => k.raise .execute excIllegal
      | some p =>
        let v := k.tile t
        let n := bits (k.src .execute x) 0 32
        if !init && !v.nextClr && (v.nextComp != comp || v.nextInt != p.int) then k.raise .execute excIllegal
        else if n = 0 then k.ok1 .execute c 1 1 []
        else
          let a : Acc :=
            { ord := k.ope.ord, tile := t, ct := ct, rt := rt, init := init, comp := comp, k := n,
              instr := k.exe.pc }
          let k := k.setTile t { v with nextClr := false, nextComp := comp, nextInt := p.int }
          let k := { k with ope := { k.ope with ord := k.ope.ord + 1 } }
          if k.ope.places c < 2 then (k.acceptAcc c a).ok1 .execute c 1 1 []
          else .held { k with
            ope := { k.ope with held := some a }
            exe := { k.exe with wait := .accumulate } })

/-- The engine accepts the accumulate the stream holds at, in the first cycle in which it has room (R38). -/
def Core.acceptHeld (k : Core) (now : Nat) : CoreRes :=
  match k.ope.held with
  | none => .noop
  | some a =>
    let t := if k.ope.q.isEmpty then now else max now k.ope.freeAt
    if k.ope.q.length < 2 then (k.acceptAcc t a).ok1 .execute t 1 1 [] else .noop

/-! Beats (R33 to R46). -/

/-- Alignment of an operand address (R96): by the operand's type and the type it is paired with. -/
def operandAlign (t o : EType) : Nat :=
  if halfFloat t then 64
  else if t == .mxfp4 && o != .mxfp4 then 16 else 32

/-- Bytes of an operand that are used. -/
def operandBytes (t o : EType) : Nat :=
  if halfFloat t then 64
  else match t with
    | .mxe3m2 | .mxe2m3 => 24
    | .mxfp4 => if o == .mxfp4 then 32 else 16
    | _ => 32

/-- Element codes of step s (0 or 1 in the MXFP4 pairing: its first step lies in the low half) of an
operand (R65, R96). -/
def operandCodes (t : EType) (bs : List Byte) (s : Nat) : List Nat :=
  let w := etypeBits t
  let v := ofLe (slice bs (16 * s) 64)
  (List.range 32).map (fun n => v / 2 ^ (w * n) % 2 ^ w)

/-- The 32 values of a step's operand with their block scales (R40, R67). -/
def operandVals (t : EType) (bs : List Byte) (s : Nat) (scales : List Byte) : List Fl :=
  let vs := (operandCodes t bs s).map (decodeEl t)
  if isMx t then List.zipWith (fun v (c : Byte) => scaleFl v c.toNat) vs scales else vs

/-- One step of one cell: INIT's first step starts anew (R44, R71, R72, R76). -/
def stepCell (int comp fresh : Bool) (c : Cell) (a b : Fl) : StepOut :=
  let c := if fresh then initCell int else c
  if int then intStep c (a.dy.m * b.dy.m) else cellStep comp c (a.mul b)

/-- A tile after one rank-one step (R67 to R76). -/
def Tile.step (v : Tile) (int comp fresh : Bool) (as bs : List Fl) : Tile :=
  let f := fun (n : Nat) (c : Cell) =>
    stepCell int comp fresh c (as.getD (n / 32) (.fin false 0 0)) (bs.getD (n % 32) (.fin false 0 0))
  let outs := (List.range 1024).map (fun n => (n, f n (Assoc.get {} v.cells n)))
  { v with
    cells := outs.filterMap (fun (n, o) => if o.cell = {} then none else some (n, o.cell))
    sat := v.sat || outs.any (fun (_, o) => o.sat)
    inv := v.inv || outs.any (fun (_, o) => o.inv)
    steps := v.steps.tick }

/-- The flags that one step raises, by anti-diagonal i + j, of a beat with edge cycle e and period p: they stand
at the end of cycle e + i + j + p + 1 (R35). -/
def Tile.stepFlags (v : Tile) (int comp fresh : Bool) (as bs : List Fl) (e p : Nat) :
    List (Nat × Bool × Bool × Bool) :=
  let f := fun (n : Nat) (c : Cell) =>
    stepCell int comp fresh c (as.getD (n / 32) (.fin false 0 0)) (bs.getD (n % 32) (.fin false 0 0))
  (List.range 1024).filterMap (fun n =>
    let o := f n (Assoc.get {} v.cells n)
    if o.sat || o.inv then some (e + n / 32 + n % 32 + p + 2, o.sat, o.inv, false) else none)

/-- The tile at the first beat of an accumulate: the mode fields, CLR, and STEPS for INIT (R44, R49, R50). -/
def Tile.begin (v : Tile) (a : Acc) : Tile :=
  let v := if a.init || v.clr then { v with comp := a.comp, int := a.pair.int } else v
  let v := if a.init then { v with steps := {} } else v
  { v with clr := false }

/-- Two byte spans meet. -/
def meets (a n b m : Nat) : Bool := decide (a < b + m ∧ b < a + n)

/-- Output bytes of one drained row (R58). -/
def rowOut : EType → Nat
  | .fwp => 192
  | .fp32 | .int32 => 128
  | .bf16 | .fp16 => 64
  | .mxe3m2 | .mxe2m3 => 24
  | .mxfp4 => 16
  | _ => 32

/-- Two byte spans touch one 64-byte line. -/
def shareLine (a n b m : Nat) : Bool := (linesOf a n).any (linesOf b m).contains

/-- A drain to local memory, issued before an operation of this order, has rows still to write in the span's
lines (Table 5 of file 04). -/
def Core.drainAhead (k : Core) (ord a n : Nat) : Bool :=
  k.ope.drains.any (fun d =>
    decide (d.ord < ord) && d.dst == .lm &&
      (let b := rowOut d.ot
       shareLine a n (d.dstBase.toNat + d.written * b) ((32 - d.written) * b)
        || (isMx d.ot && shareLine a n (d.scaleBase.toNat + d.written) (32 - d.written))))

/-- The cells of rows i to 31 of a tile. -/
def rowsFrom (v : Tile) (i : Nat) : List Cell := Assoc.span {} v.cells (32 * i) (32 * (32 - i))

/-- A drain of the tile whose rows are not all sampled takes the rest of its rows before a later accumulate
touches the tile: R54 lets the beat in only behind the sampling front (R53). -/
def settleDrain (d : Drain) (v : Tile) : Drain × Tile :=
  if d.shadow.isSome then (d, v)
  else
    let d' := { d with shadow := some (rowsFrom v d.sampled) }
    if d.clr then
      (d', ({ v with cells := v.cells.filter (fun e => decide (e.1 < 32 * d.sampled)) } : Tile).drained)
    else (d', v)

/-- The drain of a tile that a beat of this order must wait for: the last one outstanding (R54). -/
def Core.openDrain (k : Core) (t : Fin 4) (ord : Nat) : Option Drain :=
  (k.ope.drains.filter (fun d => d.tile == t && decide (d.ord < ord) && decide (d.sampled < 32))).getLast?

/-- Bytes of a TILE second operand per row (R58). -/
def opBytes : SecondOp → Nat
  | .tile .fp32 => 128
  | .tile _ => 64
  | _ => 0

/-- Cycles per row of a drain (R58). -/
def Drain.r (d : Drain) : Nat := max 1 (max (ceilDiv (rowOut d.ot) 64) (ceilDiv (opBytes d.op) 64))

/-- Cycles from sampling a row to writing it (R59). -/
def Drain.latency (d : Drain) : Nat := if d.fn == .ident && d.comb == .none then 3 else 7

/-- The bytes of the rows to the outbound port that a drain and those before it have still to write. -/
def Ope.portLeft (o : Ope) (d : Drain) : Nat :=
  ((o.drains.filter (fun x => decide (x.ord ≤ d.ord) && x.dst == .port)).map
    (fun x => (32 - x.written) * rowOut x.ot)).foldl (· + ·) 0

/-- Are the sampling cycles of the rows of a drain fixed (R54)? Row 0 must be sampled, and the outbound port must hold
no write of this drain or an earlier one: the target has room for all their rows. A TILE operand that waits for an
earlier write is not known before its row is sampled (DESIGN CHOICE, log 86). What a bank may hold, frontFrom counts. -/
def Core.rowsFixed (k : Core) (d : Drain) (room : Nat) : Bool :=
  decide (0 < d.sampled) && decide (k.ope.portLeft d ≤ room)
    && (match d.op with
      | .tile _ => !(k.drainAhead d.ord d.opBase.toNat (32 * opBytes d.op))
          && decide (k.visibleAt d.ord d.opBase.toNat (32 * opBytes d.op) ≤ d.nextAt)
      | _ => true)

/-- The first edge cycle for a beat of accumulate a at or after now (R38, R53, R54): none while a reuse stall has
no known end, or while an earlier clear or status read of the tile has not acted. room: the bytes that the drain target
will take from this core with no wait. -/
def Core.edgeFrom (k : Core) (now : Nat) (a : Acc) (room : Nat := 0) : Option Nat :=
  let e := max now (match k.ope.edge with | some (c, p) => c + p | none => 0)
  let e := if a.beats = 0 then max e (a.accepted + 3) else e
  let e := max e (max (k.tile a.tile).from_ (k.tile a.tile).beatFrom)
  if k.ope.tileOps.any (fun x => x.tile == a.tile && decide (x.ord < a.ord)) then none
  else match k.openDrain a.tile a.ord with
    | none => some e
    | some d => if k.rowsFixed d room then some (max e (d.nextAt + d.r * (31 - d.sampled) + 1 - 31)) else none

/-- Has a beat entered the edge in the aligned group of 16 cycles that holds cycle e? -/
def Ope.begun (o : Ope) (e : Nat) : Bool := decide (e / 16 = o.group ∧ 0 < o.inGroup)

/-- The edge cycle under the issue-rate limit of its group of 16 cycles: a group keeps the level it began with, and
a new level applies from the next one (R37, R390). -/
def Ope.limited (o : Ope) (e : Nat) : Nat :=
  if o.begun e && decide (o.level ≤ o.inGroup) then (o.group + 1) * 16 else e

/-- The scale addresses that the next beat of an accumulate takes: one for each MX operand at a block's first beat
(R40). -/
def Acc.scales (a : Acc) : Nat :=
  if a.beats * a.pair.steps % 32 = 0 then b2n (isMx a.ct) + b2n (isMx a.rt) else 0

/-- The edge cycle under the scale lane's 4 bytes per cycle: n operands' scales take 8 n cycles, after the lane has
given up the block before, and for a first block after its accumulate is accepted (R36, R40; DESIGN CHOICE, log 93). -/
def Ope.laneFrom (o : Ope) (a : Acc) (e : Nat) : Nat :=
  let n := a.scales
  if n = 0 then e
  else max e (max (o.scaleAt + 8 * n) (if a.beats = 0 then a.accepted + 8 * n + 2 else 0))

/-- The core after the operand addresses and, at a block's first beat, the scale addresses are taken: the
column, row and scale addresses and the edge cycle; none when one is missing (R36, R40). Operands are taken 3 cycles
ahead of the edge, scales so early that the lane has brought them by then. -/
def Core.takeOperands (k : Core) (a : Acc) (e : Nat) : Option (Word × Word × List Word × Nat × Core) :=
  let n := a.scales
  let e := k.ope.laneFrom a e
  match k.takeAddrs .col (e - 3) 1 with
  | some ([c], t1, k) =>
    match k.takeAddrs .row (e - 3) 1 with
    | some ([r], t2, k) =>
      let lane := 8 * n + 2
      match k.takeAddrs .scale (e - lane) n with
      | some (ss, t3, k) =>
        let late := fun t => if e - 3 < t then t + 3 else e
        some (c, r, ss, max (late t1) (max (late t2) (if n = 0 ∨ t3 ≤ e - lane then e else t3 + lane)), k)
      | none => none
    | _ => none
  | _ => none

/-- The first cycle from t on in which no read of the operand port holds a write to these lines: a bank serves reads or
one write in a cycle, and the operand port comes first, the scale lane after the drain path (R60, R97, R98). -/
def Ope.bankFree (o : Ope) (lines : List Nat) (t : Nat) : Nat :=
  o.reads.foldl (fun t r => if r.1 = t ∧ lines.any (fun l => l % 8 == r.2) then t + 1 else t) t

/-- The lines that row i of a drain to local memory writes in n bytes, its scale byte's with them; none to the port. -/
def Drain.rowLines (d : Drain) (i n : Nat) : List Nat :=
  if d.dst == .lm then
    linesOf (d.dstBase.toNat + i * n) n ++ (if isMx d.ot then linesOf (d.scaleBase.toNat + i) 1 else [])
  else []

/-- A row of a drain in the drain path: the sampling cycle, which is to come where i is not below `sampled`, the cycle in
which its write is due and the lines written. -/
structure PathRow where
  drain : Drain
  i : Nat
  at_ : Nat
  due : Nat
  lines : List Nat
  deriving DecidableEq, Repr

/-- The rows that a drain which has started has still to write. -/
def Drain.path (d : Drain) : List PathRow :=
  (List.range (32 - d.written)).map (fun j =>
    let i := d.written + j
    let t := match d.rows[j]? with
      | some r => r.2.2
      | none => d.nextAt + d.r * (i - d.sampled)
    { drain := d, i := i, at_ := t, due := t + d.latency, lines := d.rowLines i (rowOut d.ot) })

/-- The rows of the path with the sampling cycles that the reads known so far leave them: a write held for h cycles from
cycle u moves every later write, and the samplings from u on, by h (R60). hs: the holds so far; n: their cycles. -/
def Ope.heldPath (o : Ope) : List PathRow → List (Nat × Nat) → Nat → List (PathRow × Nat)
  | [], _, _ => []
  | x :: xs, hs, n =>
    let w := o.bankFree x.lines (x.due + n)
    (x, hs.foldl (fun t h => if h.1 ≤ t then t + h.2 else t) x.at_)
      :: o.heldPath xs (hs ++ [(x.due + n, w - (x.due + n))]) (n + (w - (x.due + n)))

/-- Is every row still to be sampled of a drain with a beat behind it sampled before that beat reaches it (R54)? -/
def Ope.frontsKept (o : Ope) : Bool :=
  let started := o.drains.filter (fun d => decide (0 < d.sampled))
  started.all (fun d => d.behind.isNone)
    || (o.heldPath (started.flatMap Drain.path) [] 0).all (fun r =>
      match r.1.drain.behind with
      | some e => decide (r.1.i < r.1.drain.sampled ∨ r.2 + 1 ≤ e + r.1.i)
      | none => true)

/-- The first beat behind a drain enters in cycle e. -/
def Drain.followed (d : Drain) (e : Nat) : Drain := if d.behind.isNone then { d with behind := some e } else d

/-- The reads of the operand port with one more, in cycle t of a line's bank; none is kept while no drain is
outstanding (R60, R97). -/
def Ope.noteRead (o : Ope) (t line : Nat) : Ope :=
  { o with reads := if o.drains.isEmpty then [] else o.reads ++ [(t, line % 8)] }

/-- The engine as a beat with edge cycle e and these operand addresses would leave it, as far as the drain path sees: the
lines it reads that are not kept, and the drain that it is the first to follow. -/
def Core.wouldRead (k : Core) (a : Acc) (c r e : Nat) : Ope :=
  let o := k.ope
  let o := if o.colLine = some (c / 64) then o else o.noteRead (e - 2) (c / 64)
  let o := if o.rowLine = some (r / 64) then o else o.noteRead (e - 2) (r / 64)
  match k.openDrain a.tile a.ord with
  | some d => { o with drains := o.drains.map (fun x => if x.ord = d.ord then x.followed e else x) }
  | none => o

/-- The first edge cycle from e on in which a beat may enter so that no beat behind a drain reaches a row before it is
sampled, this one's operand reads counted, which may hold a write (R54, R60; DESIGN CHOICE, log 86). -/
def Core.frontFrom (k : Core) (a : Acc) (c r e : Nat) : Nat :=
  if k.ope.drains.isEmpty then e
  else match (List.range 256).find? (fun n => (k.wouldRead a c r (k.ope.limited (e + n))).frontsKept) with
    | some n => k.ope.limited (e + n)
    | none => e

/-- The exception of an operand address (R96, R97, R132). -/
def operandCheck (t o : EType) (a : Word) : Option Nat :=
  if a.toNat % operandAlign t o ≠ 0 then some excMisaligned
  else if lmSize < a.toNat + operandBytes t o then some excRange else none

/-- A beat's effect on the engine and the tile in edge cycle e, its operands read, where n is the level of R390. The
flags it raises while an earlier drain has still to report the tile's stand with the cycle of each (R35, R59). -/
def Core.beatAct (k : Core) (n : Nat) (a : Acc) (rest : List Acc) (e : Nat) (cb rb : List Byte) : Core :=
  let p := a.pair
  let (ds, v) := match k.openDrain a.tile a.ord with
    | some d =>
      let (d', v) := settleDrain d (k.tile a.tile)
      (k.ope.drains.map (fun (x : Drain) => if x.ord = d.ord then d'.followed e else x), v)
    | none => (k.ope.drains, k.tile a.tile)
  let v := if a.beats = 0 then v.begin a else v
  let behind := ds.any (fun d => d.tile == a.tile && d.flags.isSome)
  let one := fun (v : Tile) (s : Nat) =>
    let fresh := a.init && a.beats == 0 && s == 0
    let as := operandVals a.ct cb s k.ope.colScale
    let bs := operandVals a.rt rb s k.ope.rowScale
    let w := v.step p.int a.comp fresh as bs
    if behind then
      { w with sat := v.sat, inv := v.inv, raised := v.raised ++ v.stepFlags p.int a.comp fresh as bs e p.p }
    else w
  let v := one v 0
  let v := if p.steps = 2 ∧ 2 * a.beats + 1 < a.k then one v 1 else v
  let a' := { a with beats := a.beats + 1, edge := e }
  let past := decide (a'.beats = a.total)
  let v := if past then { v with drainFrom := e + p.p + 33 } else v
  let o := k.ope
  { k.setTile a.tile v with
    ope := { o with
      q := if past then rest else a' :: rest
      freeAt := if past then e + p.p else o.freeAt
      filling := if past then o.filling ++ [a'] else o.filling
      edge := some (e, p.p)
      group := e / 16
      inGroup := if o.begun e then o.inGroup + 1 else 1
      level := if o.begun e then o.level else n
      scaleAt := if a.scales = 0 then o.scaleAt else e
      drains := ds } }

/-- `owait` goes on once its accumulates have read their operands (R150). -/
def Core.owaitOver (k : Core) (n : Fin 2) : Bool :=
  decide (k.ope.q.length + b2n k.ope.held.isSome ≤ n.val)

/-- The execute stream goes on from an `owait` that is over. -/
def Core.serveOwait (k : Core) (t : Nat) : Core :=
  match k.exe.wait with
  | .owait n => if k.owaitOver n then k.done .execute t 1 1 [] else k
  | _ => k

/-- The block scales taken with a beat: bytes of the column's and the row's (R40). -/
def Core.setScales (k : Core) (a : Acc) : List (List Byte) → Core
  | [x, y] => { k with ope := { k.ope with colScale := x, rowScale := y } }
  | [x] =>
    if isMx a.ct then { k with ope := { k.ope with colScale := x } }
    else { k with ope := { k.ope with rowScale := x } }
  | _ => k

/-- Reads of several spans of local memory in order; none when one is uncorrectable. -/
def Core.readAll (k : Core) : List (Nat × Nat) → Option (Core × List (List Byte))
  | [] => some (k, [])
  | (a, n) :: rest =>
    match k.lmRead a n with
    | none => none
    | some (k, b) => (Core.readAll k rest).map (fun (k, bs) => (k, b :: bs))

/-- The 64-byte line of an operand, for the local-memory read of edge cycle e: a line that is kept is not read again,
another one is read whole and kept (R96). -/
def Core.readOperand (k : Core) (e : Nat) (row : Bool) (a : Nat) : Option Core :=
  if (if row then k.ope.rowLine else k.ope.colLine) = some (a / 64) then some k
  else (k.lmRead (a / 64 * 64) 64).map (fun r =>
    let o := r.1.ope.noteRead (e - 2) (a / 64)
    { r.1 with ope := if row then { o with rowLine := some (a / 64) } else { o with colLine := some (a / 64) } })

/-- The line of the first uncorrectable word that the reads of a beat meet, if any: column, row, scales. -/
def Core.beatBad (k : Core) (c r : Nat) (ss : List Nat) : Option Nat :=
  let line := fun (a n : Nat) => if k.uncorrectable a n then some (k.badLine a n) else none
  (if k.ope.colLine = some (c / 64) then none else line (c / 64 * 64) 64).or
    ((if k.ope.rowLine = some (r / 64) then none else line (r / 64 * 64) 64).or
      (ss.findSome? (fun a => line a 32)))

/-- The reads of a beat that meets no uncorrectable word: the core after them, and the scale bytes. -/
def Core.beatReads (k : Core) (e c r : Nat) (ss : List Nat) : Option (Core × List (List Byte)) :=
  (k.readOperand e false c).bind (fun k => (k.readOperand e true r).bind (fun k =>
    k.readAll (ss.map (fun a => (a, 32)))))

/-- The first edge cycle by which the writes ahead of a beat's reads are visible: operands are read 2 cycles before it,
scales before the lane brings them (R38, R40, Table 5 of file 04). -/
def Core.beatVisible (k : Core) (a : Acc) (c r : Nat) (ss : List Nat) : Nat :=
  max (max (k.visibleAt a.ord c (operandBytes a.ct a.rt)) (k.visibleAt a.ord r (operandBytes a.rt a.ct)) + 2)
    (ss.foldl (fun m x => max m (k.visibleAt a.ord x 32 + 8 * ss.length + 1)) 0)

/-- The next beat of the accumulate at the edge, under the issue-rate limit that a cycle's group has, the core's strike
and the room of its drain target (R33 to R46, R96, R112). -/
def Core.beat (k : Core) (now : Nat) (level : Nat → Nat) (strike : Word) (room : Nat) : CoreRes :=
  match k.ope.q with
  | [] => .noop
  | a :: rest =>
    if (match k.slot with | some s => decide (k.slotOrd ≤ a.ord) && !(atOrAfter strike s) | none => false) then
      .noop
    else match k.edgeFrom now a room with
    | none => .noop
    | some e =>
      match k.takeOperands a (k.ope.limited e) with
      | none => .noop
      | some (c, r, ss, e, k1) =>
        let sn := ss.map BitVec.toNat
        let e := k1.frontFrom a c.toNat r.toNat (k.ope.limited (max e (k.beatVisible a c.toNat r.toNat sn)))
        if k.drainAhead a.ord c.toNat (operandBytes a.ct a.rt)
            || k.drainAhead a.ord r.toNat (operandBytes a.rt a.ct)
            || sn.any (fun x => k.drainAhead a.ord x 32) then .noop
        else
          let bad := (operandCheck a.ct a.rt c).or ((operandCheck a.rt a.ct r).or
            (ss.findSome? (operandCheck .int8 .int8)))
          match bad with
          | some x => .exc x .execute a.instr k1
          | none =>
            match k1.beatBad c.toNat r.toNat sn, k1.beatReads e c.toNat r.toNat sn with
            | none, some (k2, sb) =>
              let cb := k2.lmBytes c.toNat (operandBytes a.ct a.rt)
              let rb := k2.lmBytes r.toNat (operandBytes a.rt a.ct)
              .ok e (((k2.setScales a sb).beatAct (level e) a rest e cb rb).serveOwait e)
            | line, _ => .exc excUncorrectable .execute a.instr k1 (line.getD 0)

/-- Cell (31, 31) final for the last beat of the oldest filling accumulate of a tile (R35, R53). -/
def Core.accFinal (k : Core) (t : Fin 4) : CoreRes :=
  match k.ope.filling.find? (fun a => a.tile == t) with
  | none => .noop
  | some a =>
    let c := a.edge + a.pair.p + 64
    .ok c ({ k with ope := { k.ope with filling := k.ope.filling.filter (fun x => x.ord != a.ord) } }.runTileOps c)

/-! Drains (R55 to R60, R154 to R157). -/

/-- The types a second operand may have (R55). -/
def opType : EType → Bool
  | .fp32 | .bf16 | .fp16 => true
  | _ => false

/-- May a drain have these options (R57, R154)? int: the tile will hold INT32. -/
def drainOk (int : Bool) (ot : EType) (fn : Fn) (comb : Comb) (op : SecondOp) (alpha : Lane) : Bool :=
  let bare := alpha == one32 && fn == .ident && comb == .none
  (match ot with
    | .fp32 | .bf16 | .fp16 | .e4m3 | .e5m2 | .mxe4m3 | .mxe3m2 | .mxe2m3 | .mxfp4 => true
    | .int32 => int && bare
    | .fwp => !int && bare
    | _ => false)
  && (match op with
    | .absent => comb == .none
    | .row t => comb != .none && opType t
    | .tile t => comb != .none && opType t)

/-- `drain` at issue (R154, R156, R157): after the checks the stream holds at it until the drain path takes
it. target: the task has a drain target. -/
def Core.issueDrain (k : Core) (now : Nat) (t : Fin 4) (dst : DrainDst) (ot : EType) (fn : Fn) (comb : Comb)
    (op : SecondOp) (alpha : Option (Fin 32)) (clr : Bool) (flags : Option (Fin 32)) (target : Bool) : CoreRes :=
  if !((alpha.toList ++ flags.toList).all (regOk .execute)) then .refuse
  else
    k.issue .execute now ((alpha.toList ++ flags.toList).map Fin.val) (fun c =>
      let v := k.tile t
      let al : Lane := match alpha with
        | some r => (k.reg .execute r).truncate 32
        | none => one32
      if !(drainOk v.nextInt ot fn comb op al) || (dst == .port && !target) then k.raise .execute excIllegal
      else
        let d : Drain :=
          { ord := k.ope.ord, tile := t, dst := dst, ot := ot, fn := fn, comb := comb, op := op, alpha := al,
            clr := clr, flags := flags, instr := k.exe.pc, int := v.nextInt }
        .ok c { k with
          ope := { k.ope with heldDrain := some d }
          exe := { k.exe with wait := .drain, nextIssue := c } })

/-- Addresses a drain takes from DRAIN (R155). -/
def Drain.addrCount (d : Drain) : Nat :=
  b2n (d.dst == .lm) + b2n (d.dst == .lm && isMx d.ot) + b2n (d.op != .absent)

/-- Bytes of a second operand element. -/
def opSize : SecondOp → Nat
  | .row .fp32 => 4
  | .tile .fp32 => 4
  | .absent => 0
  | _ => 2

/-- Bytes a drain's second operand occupies (R155). -/
def opSpan : SecondOp → Nat
  | .absent => 0
  | .row t => 32 * (if t == .fp32 then 4 else 2)
  | .tile t => 1024 * (if t == .fp32 then 4 else 2)

/-- The checks of a drain's addresses: (address, bytes, alignment) in the order taken (R155). -/
def drainCheck (spans : List (Word × Nat × Nat)) : Option Nat :=
  if spans.any (fun (a, _, al) => a.toNat % al != 0) then some excMisaligned
  else if spans.any (fun (a, n, _) => decide (lmSize < a.toNat + n)) then some excRange else none

/-- The drain with its addresses, and the spans to check. -/
def Drain.withAddrs (d : Drain) (as : List Word) : Drain × List (Word × Nat × Nat) :=
  let lm := d.dst == .lm
  let dstA := if lm then as.getD 0 0 else 0
  let sc := lm && isMx d.ot
  let scA := if sc then as.getD 1 0 else 0
  let opA := if d.op != .absent then as.getD (b2n lm + b2n sc) 0 else 0
  ({ d with dstBase := dstA, scaleBase := scA, opBase := opA },
   (if lm then [(dstA, 32 * rowOut d.ot, 64)] else []) ++ (if sc then [(scA, 32, 32)] else [])
    ++ (if d.op != .absent then [(opA, opSpan d.op, 64)] else []))

/-- Drains that hold a place of the drain path: in progress and waiting (R60). -/
def Ope.sampling (o : Ope) : Nat := (o.drains.filter (fun x => decide (x.sampled < 32))).length

/-- The first cycle from now on in which a drain may be taken: the place of one that samples its last row is free in the
next cycle (R60). -/
def Ope.takeFrom (o : Ope) (now : Nat) : Nat := if o.sampling = 0 then now else max now o.placeAt

/-- The drain path takes the drain the stream holds at: room, addresses and their checks (R58, R60, R155,
R157). What will stand in the tile follows from its clear option (R152). -/
def Core.takeDrain (k : Core) (now : Nat) : CoreRes :=
  match k.ope.heldDrain with
  | none => .noop
  | some d =>
    if 2 ≤ k.ope.sampling then .noop
    else match k.takeAddrs .drain (k.ope.takeFrom now) d.addrCount with
      | none => .noop
      | some (as, t, k1) =>
        let (d, spans) := d.withAddrs as
        match drainCheck spans with
        | some e => .exc e .execute d.instr k1
        | none =>
          let v := k1.tile d.tile
          let k2 := if d.clr then
              k1.setTile d.tile { v with nextClr := true, nextComp := false, nextInt := false } else k1
          let k3 := { k2 with
            ope := { k2.ope with
              heldDrain := none
              ord := k2.ope.ord + 1
              stalls := if k2.ope.drains.isEmpty then [] else k2.ope.stalls
              drains := k2.ope.drains ++ [{ d with takenAt := t }] }
            exe := { k2.exe with busy := (d.flags.toList.map Fin.val) ++ k2.exe.busy } }
          k3.ok1 .execute t 1 1 []

/-- Is a ROW operand still to be read? -/
def Drain.needsRow (d : Drain) : Bool :=
  match d.op with
  | .row _ => d.rowOp.isNone
  | _ => false

/-- The lanes of a second operand's elements. -/
def opLanes (t : EType) (bs : List Byte) : List Lane :=
  let n := etypeBits t / 8
  (List.range 32).map (fun j => widen t (leAt bs (n * j) n))

/-- A drain replaced in the drain path. -/
def Core.setDrain (k : Core) (d : Drain) : Core :=
  { k with ope := { k.ope with drains := k.ope.drains.map (fun x => if x.ord = d.ord then d else x) } }

/-- The oldest ROW operand read ends: it starts when the drain is taken, or when the last earlier execute-unit
write to those lines is visible (R58). -/
def Core.rowRead (k : Core) : CoreRes :=
  match k.ope.drains.find? Drain.needsRow with
  | none => .noop
  | some d =>
    match d.op with
    | .row ty =>
      let n := opSpan d.op
      if k.drainAhead d.ord d.opBase.toNat n then .noop
      else match k.lmRead d.opBase.toNat n with
        | none => .exc excUncorrectable .execute d.instr k (k.badLine d.opBase.toNat n)
        | some (k, bs) =>
          let t := max d.takenAt (k.visibleAt d.ord d.opBase.toNat n) + ceilDiv n 64
          .ok t (k.setDrain { d with rowOp := some (opLanes ty bs), rowOpAt := t })
    | _ => .noop

/-- What the drain path gives for one element: y of R56 before conversion, and the flags. -/
structure DrainEl where
  y : Lane
  dsat : Bool
  inv : Bool
  deriving DecidableEq, Repr

/-- Neither NaN nor infinite. -/
def finite32 (x : Lane) : Bool := !(isNan32 x) && !(isInf32 x)

/-- The combine modes of Table 7. -/
def combine (c : Comb) (f : Fn) (x b : Lane) : Lane :=
  match c with
  | .none => applyFn f x
  | .bias => applyFn f (fadd x b)
  | .add => fadd (applyFn f x) b
  | .mul => fmul (applyFn f x) b
  | .deriv => fmul x (applyDeriv f b)

/-- Steps 1 to 3 of R56 on one cell. -/
def drainEl (d : Drain) (c : Cell) (b : Lane) : DrainEl :=
  let (v, s1) := if d.int then (ofInt32 c.s, false) else fold c.s c.f
  let x := if d.alpha == one32 then v else fmul d.alpha v
  let s2 := isInf32 x && finite32 v
  let y := combine d.comb d.fn x b
  let s3 := isInf32 y && finite32 x && (d.comb == .none || finite32 b)
  { y := y, dsat := s1 || s2 || s3, inv := isNan32 v || isNan32 x || isNan32 y }

/-- Step 4 of R56 for an output type without block scales: code, and the flags it sets. -/
def drainCode (t : EType) (y : Lane) : Conv :=
  match t with
  | .fp32 =>
    if isNan32 y then { code := nan32.toNat, nan := true }
    else if isInf32 y then { code := (max32 (bit y 31)).toNat, sat := true }
    else { code := y.toNat }
  | t => (convert t y).getD { code := 0 }

/-- A row of cells through the drain path: its bytes, its scale byte, DSAT, INV (R56, R57). -/
def drainRow (d : Drain) (cells : List Cell) (bs : List Lane) : List Byte × Byte × Bool × Bool :=
  match d.ot with
  | .int32 => (cells.flatMap (fun c => leBytes 4 c.s.toNat), 0, false, false)
  | .fwp =>
    (cells.flatMap (fun c => leBytes 4 c.s.toNat) ++ cells.flatMap (fun c => leBytes 2 c.f.toNat), 0, false,
      false)
  | t =>
    let els := List.zipWith (drainEl d) cells bs
    let ds := els.any (·.dsat)
    let iv := els.any (·.inv)
    if isMx t then
      let b := mxBlock t (els.map (·.y))
      (codeBytes t (b.elems.map (·.code)), BitVec.ofNat 8 b.scale, ds || b.sat, iv || b.nan)
    else
      let cs := els.map (fun e => drainCode t e.y)
      (codeBytes t (cs.map (·.code)), 0, ds || cs.any (·.sat), iv || cs.any (·.nan))

/-- Is the second operand of shape TILE? -/
def tileOperand : SecondOp → Bool
  | .tile _ => true
  | _ => false

/-- The cycle to which the windows in which the port held a write move a sampling (R60). -/
def Ope.pastStalls (o : Ope) (t : Nat) : Nat :=
  o.stalls.foldl (fun t w => if w.1 ≤ t ∧ t < w.2 then w.2 else t) t

/-- The cycle in which the next row of the drain in progress is sampled (Table 6, R58, R60); none while an earlier
operation has not let it. A TILE operand's row is read when every earlier execute-unit write to its lines is
visible. -/
def Core.sampleAt (k : Core) (d : Drain) : Option Nat :=
  let o := k.ope
  let v := k.tile d.tile
  let n := 32 * opSize d.op
  let seen := if tileOperand d.op then k.visibleAt d.ord (d.opBase.toNat + d.sampled * n) n else 0
  if 0 < d.sampled then some (max d.nextAt seen)
  else if d.needsRow || o.tileOps.any (fun x => x.tile == d.tile && decide (x.ord < d.ord))
      || o.q.any (fun a => a.tile == d.tile && decide (a.ord < d.ord)) then none
  else
    let prev := if d.latency = 3 then o.nextShort else o.nextLong
    some (o.pastStalls (max (max prev seen) (max (max v.drainFrom v.from_) (max (d.takenAt + 1) d.rowOpAt))))

/-- The second operand's lanes for row i; none when the row is uncorrectable. -/
def Core.opRow (k : Core) (d : Drain) (i : Nat) : Option (Core × List Lane) :=
  match d.op with
  | .absent => some (k, List.replicate 32 0)
  | .row _ => some (k, d.rowOp.getD [])
  | .tile t =>
    let n := 32 * opSize d.op
    (k.lmRead (d.opBase.toNat + i * n) n).map (fun (k, bs) => (k, opLanes t bs))

/-- The flags of a tile as they stand in cycle t, and what is raised later (R59). -/
def Tile.flagsAt (v : Tile) (t : Nat) : Tile := { v with raised := v.raised.filter (fun e => decide (e.1 ≤ t)) }

/-- A tile without the flags that stand in cycle t. -/
def Tile.unflagged (v : Tile) (t : Nat) : Tile :=
  { v with sat := false, inv := false, dsat := false, raised := v.raised.filter (fun e => decide (t < e.1)) }

/-- The flags a drain reports in the cycle u in which its last row is due, converted by then: SAT, INV and DSAT as they
stand go to its register, ready in u, and are cleared; what stands later stays, and so does everything of a tile that
was cleared in between (R59, R147; DEDUCED, log 38). -/
def Core.reportFlags (k : Core) (d : Drain) (u : Nat) : Core :=
  match d.flags with
  | none => k
  | some r =>
    let v := k.tile d.tile
    let k := match d.kept with
      | some w => k.setReg .execute r w
      | none => (k.setReg .execute r (v.flagsAt u).flagWord).setTile d.tile (v.unflagged u)
    { k.setDrain { d with flags := none } with exe := { k.exe with
        busy := k.exe.busy.filter (· != r.val)
        ready := Assoc.set k.exe.ready r.val u } }

/-- Has a drain of the tile before this one still to report the tile's flags? -/
def Ope.reportsAhead (o : Ope) (d : Drain) : Bool :=
  o.drains.any (fun x => x.tile == d.tile && x.flags.isSome && decide (x.ord < d.ord))

/-- Row i of a drain sampled in cycle t and converted: its cells cleared when asked; with row 31 the drain leaves the
tile and the place it holds (R58 to R60). A row takes r cycles of the drain path, the last one too (R58, R62). -/
def Core.sampleRow (k : Core) (d : Drain) (t : Nat) (bs : List Lane) : Core :=
  let i := d.sampled
  let v := k.tile d.tile
  let cells := match d.shadow with
    | some cs => cs.take 32
    | none => Assoc.span {} v.cells (32 * i) 32
  let (row, sc, ds, iv) := drainRow d cells bs
  let last := decide (i = 31)
  let v := if k.ope.reportsAhead d then
      if ds || iv then { v with raised := v.raised ++ [(t + d.latency, false, iv, ds)] } else v
    else { v with dsat := v.dsat || ds, inv := v.inv || iv }
  let v := { v with beatFrom := max v.beatFrom (t + 1 - i), opFrom := if last then t + 1 else v.opFrom }
  let v := if d.clr && d.shadow.isNone then
      let w := { v with cells := v.cells.filter (fun e => !(decide (32 * i ≤ e.1 ∧ e.1 < 32 * i + 32))) }
      if last then w.drained else w
    else v
  let d := { d with
    sampled := i + 1
    nextAt := t + d.r
    shadow := d.shadow.map (fun cs => cs.drop 32)
    rows := d.rows ++ [(row, sc, t)] }
  let k := (k.setTile d.tile v).setDrain d
  if last then
    ({ k with ope := { k.ope with
        placeAt := t + 1
        nextLong := t + d.r
        nextShort := t + d.r + (if d.latency = 7 then 4 else 0) } }).runTileOps (t + 1)
  else k

/-- The row to be written next: its drain, its bytes, its scale byte and the cycle it is due (R59). -/
def Core.nextWrite (k : Core) : Option (Drain × List Byte × Byte × Nat) :=
  match k.ope.drains.find? (fun d => !d.rows.isEmpty) with
  | some d =>
    match d.rows with
    | (bs, sc, c) :: _ => some (d, bs, sc, c + d.latency)
    | [] => none
  | none => none

/-- The drain in progress samples its next row (R58, R60). A row due by then is written first: while its write is
held, sampling waits. -/
def Core.drainSample (k : Core) : CoreRes :=
  match k.ope.drains.find? (fun d => decide (d.sampled < 32)) with
  | none => .noop
  | some d =>
    let n := 32 * opSize d.op
    if tileOperand d.op && k.drainAhead d.ord (d.opBase.toNat + d.sampled * n) n then .noop
    else match k.sampleAt d with
      | none => .noop
      | some t =>
        if (match k.nextWrite with | some (_, _, _, due) => decide (due ≤ t) | none => false) then .noop
        else match k.opRow d d.sampled with
          | none => .exc excUncorrectable .execute d.instr k (k.badLine (d.opBase.toNat + d.sampled * n) n)
          | some (k, bs) => .ok t (k.sampleRow d t bs)

/-- The drain after its next row is written; after row 31 it is over. -/
def Core.rowWritten (k : Core) (d : Drain) : Core :=
  let d := { d with rows := d.rows.drop 1, written := d.written + 1, blocked := false }
  if d.written < 32 then k.setDrain d
  else { k with ope := { k.ope with drains := k.ope.drains.filter (fun x => x.ord != d.ord) } }

/-- The drain path after a row due in cycle u was written in cycle w, later: every row still in the path and every
sampling still to come moves by as many cycles (R60). -/
def Core.heldWrite (k : Core) (u w : Nat) : Core :=
  let h := w - u
  let later := fun (t : Nat) => if u ≤ t then t + h else t
  if h = 0 then k
  else { k with ope := { k.ope with
    drains := k.ope.drains.map (fun (d : Drain) =>
      { d with nextAt := later d.nextAt, rows := d.rows.map (fun r => (r.1, r.2.1, r.2.2 + h)) })
    nextLong := later k.ope.nextLong
    nextShort := later k.ope.nextShort
    stalls := k.ope.stalls ++ [(u, w)] } }

/-- DQ3 entries pushed behind a drain whose row is written in cycle w: they stay in the queue's entry until the
cycle after the row is visible (R102). -/
def Core.delayEntries (k : Core) (d : Drain) (w : Nat) : Core :=
  k.setQueue 3 ((k.queue 3).map (fun e => if d.ord < e.drainsBelow then { e with at_ := max e.at_ (w + 2) } else e))

/-- The cycle in which a row of n bytes due in cycle u is written to local memory. -/
def Core.rowAt (k : Core) (d : Drain) (n u : Nat) : Nat := k.ope.bankFree (d.rowLines d.written n) u

/-- A sampled row due in cycle u written to local memory when its banks are free, visible in the next cycle; the rows
after it wait as long (R59, R60, R155). -/
def Core.writeRowLm (k : Core) (now : Nat) (d : Drain) (bs : List Byte) (sc : Byte) (u : Nat) : CoreRes :=
  let a := d.dstBase.toNat + d.written * bs.length
  let t := k.rowAt d bs.length u
  match k.lmWrite a bs with
  | none => .exc excUncorrectable .execute d.instr k (k.badLine a bs.length)
  | some k =>
    match (if isMx d.ot then k.lmWrite (d.scaleBase.toNat + d.written) [sc] else some k) with
    | none => .exc excUncorrectable .execute d.instr k (k.badLine (d.scaleBase.toNat + d.written) 1)
    | some k =>
      let k := k.noteWrite now (d.ord + 1) a bs.length (t + 1)
      let k := if isMx d.ot then k.noteWrite now (d.ord + 1) (d.scaleBase.toNat + d.written) 1 (t + 1) else k
      let k := ((k.delayEntries d t).rowWritten d).heldWrite u t
      .ok t { k with exe := { k.exe with visible := max k.exe.visible (t + 1) } }

end Sys2Proof.Machine
end

