-- ==== Sys2Proof/Machine/CoreVec.lean ====
section
/-! DEFINITION. The vector engine and the exact-sum registers of one core (R87 to R90, R108 to R110, R158 to
R163). -/

namespace Sys2Proof.Machine

open Sys2Proof

/-- The lanes of a second operand: a vector register, or a scalar's bits [31:0] in every lane (R145, R159). -/
def Core.vsrc (k : Core) : VSrc → List Lane
  | .vec v => k.vx v
  | .scalar x => List.replicate 32 ((k.src .execute x).truncate 32)

/-- The registers a second operand reads. -/
def vsrcRegs : VSrc → List Nat
  | .vec v => [vreg v]
  | .scalar x => srcRegs x

/-- Does the execute unit have the operand? -/
def vsrcOk : VSrc → Bool
  | .vec _ => true
  | .scalar x => srcOk .execute x

/-- Latency and issue interval of the vector classes (Table 6 of file 04, R147). -/
structure VClass where
  lat : Nat
  int : Nat
  deriving DecidableEq, Repr

def clsVA : VClass := ⟨4, 1⟩
def clsVL : VClass := ⟨2, 1⟩
def clsVC : VClass := ⟨4, 1⟩
def clsVT : VClass := ⟨8, 4⟩
def clsVP : VClass := ⟨6, 2⟩
def clsXA : VClass := ⟨3, 1⟩
def clsXP : VClass := ⟨4, 2⟩
def clsXR : VClass := ⟨6, 2⟩
def clsXI : VClass := ⟨20, 17⟩
def clsEL : VClass := ⟨5, 1⟩

/-- The vector engine holds its operations until the launch-slot strike (R112). -/
def Core.vecHeld (k : Core) (strike : Word) : Bool :=
  match k.slot with
  | some s => !(atOrAfter strike s)
  | none => false

/-- One attempt to issue a vector instruction: the interlock of R94 and the hold of R112. -/
def Core.vissue (k : Core) (now : Nat) (strike : Word) (regs : List Nat) (body : Nat → CoreRes) : CoreRes :=
  k.issue .execute now regs (fun t => if k.vecHeld strike then k.stall .execute none else body t)

/-- A vector instruction of a class done in cycle t, its results in these registers. -/
def Core.vdone (k : Core) (t : Nat) (c : VClass) (writes : List Nat) : Core :=
  { k with vec := { k.vec with idleAt := max k.vec.idleAt (t + c.lat) } }.done .execute t c.int c.lat writes

/-- VSTAT.INV set when a lane result is NaN (R160). -/
def Core.noteNan (k : Core) (ls : List Lane) : Core :=
  { k with vec := { k.vec with inv := k.vec.inv || ls.any isNan32 } }

/-- VSTAT after conversions (R160, R161): saturations counted in ISAT only where count says so. -/
def Core.noteConv (k : Core) (sat nan : Bool) (count : Nat) : Core :=
  { k with vec := { k.vec with
      sat := k.vec.sat || sat
      inv := k.vec.inv || nan
      isat := k.vec.isat.addN count } }

/-- The VSTAT word (R160). -/
def VectorEngine.word (v : VectorEngine) : Word :=
  BitVec.ofNat 64 (v.isat.n.toNat * 2 ^ 16 + 8 * b2n v.isat.ov + 4 * b2n v.inv + 2 * b2n v.sat)

/-- A lane-by-lane instruction with a second operand (R159). nan: its NaN results set VSTAT.INV. -/
def Core.vbin (k : Core) (now : Nat) (strike : Word) (c : VClass) (nan : Bool) (d a : Fin 32) (b : VSrc)
    (f : Lane → Lane → Lane) : CoreRes :=
  if !(vsrcOk b) then .refuse
  else
    k.vissue now strike (vreg d :: vreg a :: vsrcRegs b) (fun t =>
      let r := List.zipWith f (k.vx a) (k.vsrc b)
      let k := if nan then k.noteNan r else k
      .ok t ((k.setVx d r).vdone t c [vreg d]))

/-- A lane-by-lane instruction of one operand (R159). -/
def Core.vun (k : Core) (now : Nat) (strike : Word) (c : VClass) (nan : Bool) (d a : Fin 32)
    (f : Lane → Lane) : CoreRes :=
  k.vissue now strike [vreg d, vreg a] (fun t =>
    let r := (k.vx a).map f
    let k := if nan then k.noteNan r else k
    .ok t ((k.setVx d r).vdone t c [vreg d]))

/-- A shift, rotate or lane number: bits [4:0] of a register or a scalar binding, whatever they hold; a literal
above 31 the toolchain rejects (R159). -/
def shiftOk : Src → Bool
  | .reg r => decide (r.val < 16)
  | .imm v => decide (v.toNat < 32)
  | .bind _ => true

/-- The number a shift uses. -/
def Core.shiftBy (k : Core) (n : Src) : Nat := bits (k.src .execute n) 0 5

/-- A shift or rotate of a vector register (R159). -/
def Core.vshift (k : Core) (now : Nat) (strike : Word) (d a : Fin 32) (n : Src)
    (f : Nat → List Lane → List Lane) : CoreRes :=
  if !(shiftOk n) then .refuse
  else
    k.vissue now strike (vreg d :: vreg a :: srcRegs n) (fun t =>
      .ok t ((k.setVx d (f (k.shiftBy n) (k.vx a))).vdone t clsVL [vreg d]))

/-- Lane i of the result is lane (i + n) mod 32 (R159). -/
def rotate (n : Nat) (ls : List Lane) : List Lane :=
  (List.range 32).map (fun i => ls.getD ((i + n) % 32) 0)

/-- INT32 addition saturating at 0x7FFF_FFFF and 0x8000_0001 (R159): the lane and whether it saturated. -/
def satAdd (a b : Lane) : Lane × Bool :=
  let (c, s) := clampInt 32 (-(2 ^ 31 - 1)) (2 ^ 31 - 1) (a.toInt + b.toInt)
  (BitVec.ofNat 32 c, s)

/-- `viadd` (R159, R160). -/
def Core.viadd (k : Core) (now : Nat) (strike : Word) (d a : Fin 32) (b : VSrc) : CoreRes :=
  if !(vsrcOk b) then .refuse
  else
    k.vissue now strike (vreg d :: vreg a :: vsrcRegs b) (fun t =>
      let r := List.zipWith satAdd (k.vx a) (k.vsrc b)
      let k := k.noteConv false false (r.filter (·.2)).length
      .ok t ((k.setVx d (r.map (·.1))).vdone t clsVA [vreg d]))

/-- `vfma` (R159). -/
def Core.vfma (k : Core) (now : Nat) (strike : Word) (d a : Fin 32) (b : VSrc) (x : Fin 32) : CoreRes :=
  if !(vsrcOk b) then .refuse
  else
    k.vissue now strike (vreg d :: vreg a :: vreg x :: vsrcRegs b) (fun t =>
      let r := List.zipWith (fun p z => ffma p.1 p.2 z) (List.zip (k.vx a) (k.vsrc b)) (k.vx x)
      .ok t (((k.noteNan r).setVx d r).vdone t clsVA [vreg d]))

/-- All ones or zero. -/
def maskOf (b : Bool) : Lane := if b then 0xFFFFFFFF else 0

/-- The relations of `vcmp` (R159). -/
def relHolds : Rel → Lane → Lane → Bool
  | .eq, a, b => feq a b
  | .lt, a, b => flt a b
  | .le, a, b => flt a b || feq a b

/-- `vsel` (R159). -/
def Core.vsel (k : Core) (now : Nat) (strike : Word) (d m a b : Fin 32) : CoreRes :=
  k.vissue now strike [vreg d, vreg m, vreg a, vreg b] (fun t =>
    let r := List.zipWith (fun c p => (c &&& p.1) ||| (~~~ c &&& p.2)) (k.vx m) (List.zip (k.vx a) (k.vx b))
    .ok t ((k.setVx d r).vdone t clsVL [vreg d]))

/-- `vbcast` (R159). -/
def Core.vbcast (k : Core) (now : Nat) (strike : Word) (d : Fin 32) (x : Src) : CoreRes :=
  if !(srcOk .execute x) then .refuse
  else
    k.vissue now strike (vreg d :: srcRegs x) (fun t =>
      .ok t ((k.setVx d (k.vsrc (.scalar x))).vdone t clsVL [vreg d]))

/-- A vector instruction whose result goes to a scalar register (R159, R163; class VL). -/
def Core.vscalar (k : Core) (now : Nat) (strike : Word) (d : Fin 32) (regs : List Nat) (v : Word) : CoreRes :=
  if !(regOk .execute d) then .refuse
  else
    k.vissue now strike (d.val :: regs) (fun t =>
      .ok t ((k.setReg .execute d v).vdone t clsVL [d.val]))

/-- `vstat` and `vstat.clr`: after every earlier vector instruction has completed (R160). -/
def Core.vstat (k : Core) (now : Nat) (d : Fin 32) (clear : Bool) : CoreRes :=
  if !(regOk .execute d) then .refuse
  else
    k.issue .execute now [d.val] (fun t =>
      let t := max t k.vec.idleAt
      let k := k.setReg .execute d k.vec.word
      let k := if clear then { k with vec := { k.vec with sat := false, inv := false } } else k
      k.ok1 .execute t 1 1 [d.val])

/-! Conversions (R161). -/

/-- `vcvt` (R80, R82, R161). -/
def Core.vcvt (k : Core) (now : Nat) (strike : Word) (d a : Fin 32) (ty : EType) : CoreRes :=
  k.vissue now strike [vreg d, vreg a] (fun t =>
    if !([EType.e4m3, .e5m2, .bf16, .fp16, .int8, .int32].contains ty) then k.raise .execute excIllegal
    else
      let cs := (k.vx a).map (fun x => (convert ty x).getD { code := 0 })
      let sats := (cs.filter (·.sat)).length
      let isInt := ty == .int8 || ty == .int32
      let k := k.noteConv (decide (0 < sats)) (cs.any (·.nan)) (if isInt then sats else 0)
      .ok t ((k.setVx d (cs.map (fun c => BitVec.ofNat 32 c.code))).vdone t clsVC [vreg d]))

/-- `vcvt.mx` (R81, R161). -/
def Core.vcvtMx (k : Core) (now : Nat) (strike : Word) (d g a : Fin 32) (ty : EType) : CoreRes :=
  if !(regOk .execute g) then .refuse
  else
    k.vissue now strike [vreg d, g.val, vreg a] (fun t =>
      if !(isMx ty) then k.raise .execute excIllegal
      else
        let b := mxBlock ty (k.vx a)
        let k := k.noteConv b.sat b.nan 0
        let k := k.setReg .execute g (BitVec.ofNat 64 b.scale)
        .ok t ((k.setVx d (b.elems.map (fun c => BitVec.ofNat 32 c.code))).vdone t clsVC [vreg d, g.val]))

/-- `vcvt.bfx` (R86, R161). -/
def Core.vcvtBfx (k : Core) (now : Nat) (strike : Word) (d a g : Fin 32) : CoreRes :=
  if !(regOk .execute g) then .refuse
  else
    k.vissue now strike [vreg d, vreg a, g.val] (fun t =>
      let bx := bits (k.reg .execute g) 0 8
      if bx = 255 then k.raise .execute excIllegal
      else
        let cs := (k.vx a).map (fun x => toBfx x bx)
        let sats := (cs.filter (·.sat)).length
        let k := k.noteConv (decide (0 < sats)) (cs.any (·.nan)) sats
        .ok t ((k.setVx d (cs.map (fun c => BitVec.ofNat 32 c.code))).vdone t clsVC [vreg d]))

/-- `vext` (R161). -/
def Core.vext (k : Core) (now : Nat) (strike : Word) (d a : Fin 32) (ty : EType) : CoreRes :=
  k.vissue now strike [vreg d, vreg a] (fun t =>
    if !([EType.e4m3, .e5m2, .int8, .bf16, .fp16, .mhi].contains ty) then k.raise .execute excIllegal
    else
      let r := (k.vx a).map (fun x => widen ty (bits x 0 (etypeBits ty)))
      .ok t (((k.noteNan r).setVx d r).vdone t clsVC [vreg d]))

/-- `vext.mx` (R161). -/
def Core.vextMx (k : Core) (now : Nat) (strike : Word) (d a g : Fin 32) (ty : EType) : CoreRes :=
  if !(regOk .execute g) then .refuse
  else
    k.vissue now strike [vreg d, vreg a, g.val] (fun t =>
      if !(isMx ty) then k.raise .execute excIllegal
      else
        let r := (k.vx a).map (fun x => widenMx ty (bits x 0 (etypeBits ty)) (bits (k.reg .execute g) 0 8))
        let k := (k.noteConv (r.any (·.2)) false 0).noteNan (r.map (·.1))
        .ok t ((k.setVx d (r.map (·.1))).vdone t clsVC [vreg d]))

/-- `vcvt.f32` (R161). -/
def Core.vcvtF32 (k : Core) (now : Nat) (strike : Word) (d a : Fin 32) : CoreRes :=
  k.vun now strike clsVC true d a ofInt32

/-! Vector loads and stores (R158). -/

/-- Bytes of a vector access and its lane width in bytes. -/
def widthBytes : VWidth → Nat
  | .w32 => 4
  | .u16 | .i16 => 2
  | .u8 | .i8 => 1

/-- Lanes of a load (R158). -/
def loadLanes (w : VWidth) (bs : List Byte) : List Lane :=
  let n := widthBytes w
  let sx := w == .i16 || w == .i8
  (List.range 32).map (fun i =>
    let v := leAt bs (n * i) n
    if sx then BitVec.ofInt 32 (signed (8 * n) v) else BitVec.ofNat 32 v)

/-- Alignment of a vector access of n bytes (R97, R158). -/
def vecAlign (n : Nat) : Nat := if n = 32 then 32 else 64

/-- The address of an access of n bytes taken from an address stream and checked: it waits for the address,
for drain rows issued earlier that write its lines, and until every earlier execute-unit write of its lines is
visible (R95, R97, Table 5 of file 04). -/
def Core.vaddr (k : Core) (t : Nat) (a : AStream) (n : Nat) (body : Nat → Core → Nat → CoreRes) : CoreRes :=
  match k.takeAddrs a t 1 with
  | some ([x], t, k1) =>
    match lmCheck x.toNat n (vecAlign n) with
    | some e => k.raise .execute e
    | none =>
      if k.drainAhead k.ope.ord x.toNat n then k.stall .execute none
      else body (max t (k.visibleAt k.ope.ord x.toNat n)) k1 x.toNat
  | _ => k.stall .execute (some a)

/-- An execute-unit store of a span in cycle t, visible 3 cycles later (class EL). -/
def Core.stored (k : Core) (now t a n : Nat) : Core := (k.wrote .execute t).noteWrite now k.ope.ord a n (t + 3)

/-- `vld` and its forms. -/
def Core.vld (k : Core) (now : Nat) (strike : Word) (d : Fin 32) (w : VWidth) : CoreRes :=
  k.vissue now strike [vreg d] (fun t =>
    let n := 32 * widthBytes w
    k.vaddr t .vload n (fun t k1 x =>
      match k1.lmRead x n with
      | none => k.raiseBad .execute x n
      | some (k2, bs) => .ok t ((k2.setVx d (loadLanes w bs)).vdone t clsEL [vreg d])))

/-- `vst` and its forms; the signed widths name no store (R158). -/
def Core.vst (k : Core) (now : Nat) (strike : Word) (a : Fin 32) (w : VWidth) : CoreRes :=
  if w == .i16 || w == .i8 then .refuse
  else
    k.vissue now strike [vreg a] (fun t =>
      let n := widthBytes w
      k.vaddr t .vstore (32 * n) (fun t k1 x =>
        match k1.lmWrite x ((k.vx a).flatMap (fun l => leBytes n l.toNat)) with
        | none => k.raiseBad .execute x (32 * n)
        | some k2 => .ok t ((k2.vdone t clsEL []).stored now t x (32 * n))))

/-! Full-width partials (R162). -/

/-- Sum and follower lanes as cells: bits [15:0] of a follower lane (R162). -/
def partialsOf (s f : List Lane) : List Cell :=
  List.zipWith (fun a b => ({ s := a, f := (b.truncate 16) } : Cell)) s f

/-- Follower lanes as a signed 16-bit load leaves them. -/
def followerLanes (cs : List Cell) : List Lane := cs.map (fun c => c.f.signExtend 32)

/-- `vpadd` (R84, R162). Where one register is named for the sums and the followers it holds the followers: the spec is
silent (DESIGN CHOICE, log 96). -/
def Core.vpadd (k : Core) (now : Nat) (strike : Word) (s1 f1 s2 f2 : Fin 32) : CoreRes :=
  k.vissue now strike [vreg s1, vreg f1, vreg s2, vreg f2] (fun t =>
    let r := List.zipWith partialAdd (partialsOf (k.vx s1) (k.vx f1)) (partialsOf (k.vx s2) (k.vx f2))
    let cs := r.map (·.cell)
    let k := (k.noteConv (r.any (·.sat)) false 0).noteNan (cs.map (·.s))
    .ok t (((k.setVx s1 (cs.map (·.s))).setVx f1 (followerLanes cs)).vdone t clsVP [vreg s1, vreg f1]))

/-- `vpfold` (R77, R162). -/
def Core.vpfold (k : Core) (now : Nat) (strike : Word) (d a f : Fin 32) : CoreRes :=
  k.vissue now strike [vreg d, vreg a, vreg f] (fun t =>
    let r := (partialsOf (k.vx a) (k.vx f)).map (fun c => fold c.s c.f)
    let k := (k.noteConv (r.any (·.2)) false 0).noteNan (r.map (·.1))
    .ok t ((k.setVx d (r.map (·.1))).vdone t clsVP [vreg d]))

/-! Exact sums (R87 to R89, R109, R110, R163). -/

/-- An exact-sum register. -/
def Core.xs (k : Core) (x : Fin 8) : Xs := Assoc.get {} k.vec.xs x.val

/-- A core with an exact-sum register replaced. -/
def Core.setXs (k : Core) (x : Fin 8) (v : Xs) : Core :=
  { k with vec := { k.vec with xs := Assoc.put {} k.vec.xs x.val v } }

/-- `xclr` (R87, R163). -/
def Core.xclr (k : Core) (now : Nat) (strike : Word) (x : Fin 8) (w : Src) : CoreRes :=
  if !(srcOk .execute w) then .refuse
  else
    k.vissue now strike (xreg x :: srcRegs w) (fun t =>
      let v := signed 16 (k.src .execute w).toNat
      if v < -170 ∨ 127 < v then k.raise .execute excIllegal
      else .ok t ((k.setXs x { w := v }).vdone t clsXA [xreg x]))

/-- An exact-sum register after one term in every lane (R88). Past 2⁵⁵ terms a lane's N is open: the free
value of its number. -/
def Xs.addTerms (v : Xs) (free : Nat) (ts : List Fl) : Xs :=
  let rs := (List.range 32).map (fun i => exactAdd v.w (Assoc.get 0 v.n i) (ts.getD i .nan))
  let n := v.terms + 1
  { v with
    n := Assoc.mapRange 0 32 (fun i _ =>
      if 2 ^ 55 ≤ n then Config.freeWide (free + i) else (rs.getD i (0, false, false, false)).1) v.n
    low := v.low || rs.any (fun r => r.2.1)
    high := v.high || rs.any (fun r => r.2.2.1)
    inv := v.inv || rs.any (fun r => r.2.2.2)
    terms := n }

/-- `xadd` (R88, R163). -/
def Core.xadd (k : Core) (now : Nat) (strike : Word) (free : Nat) (x : Fin 8) (a : Fin 32) : CoreRes :=
  k.vissue now strike [xreg x, vreg a] (fun t =>
    .ok t ((k.setXs x ((k.xs x).addTerms free ((k.vx a).map dec32))).vdone t clsXA [xreg x]))

/-- `xaddp` (R88, R163). -/
def Core.xaddp (k : Core) (now : Nat) (strike : Word) (free : Nat) (x : Fin 8) (a f : Fin 32) : CoreRes :=
  k.vissue now strike [xreg x, vreg a, vreg f] (fun t =>
    let ts := (partialsOf (k.vx a) (k.vx f)).map (fun c => partialTerm c.s c.f)
    .ok t ((k.setXs x ((k.xs x).addTerms free ts)).vdone t clsXP [xreg x]))

/-- A readout of every lane (R89): the cells, and the register with HIGH if a lane overflowed. -/
def Xs.readout (v : Xs) : List Cell × Xs :=
  if v.high || v.inv then (List.replicate 32 { s := nan32, f := 0 }, v)
  else
    let rs := (List.range 32).map (fun i => exactRead v.w (Assoc.get 0 v.n i))
    (rs.map (·.1), { v with high := rs.any (·.2) })

/-- `xrd` (R89, R163). -/
def Core.xrd (k : Core) (now : Nat) (strike : Word) (d : Fin 32) (x : Fin 8) : CoreRes :=
  k.vissue now strike [vreg d, xreg x] (fun t =>
    let (cs, v) := (k.xs x).readout
    .ok t (((k.setXs x v).setVx d (cs.map (·.s))).vdone t clsXR [vreg d, xreg x]))

/-- `xrdp` (R89, R163). Where one register is named for the sums and the followers it holds the followers: the spec is
silent (DESIGN CHOICE, log 96). -/
def Core.xrdp (k : Core) (now : Nat) (strike : Word) (d f : Fin 32) (x : Fin 8) : CoreRes :=
  k.vissue now strike [vreg d, vreg f, xreg x] (fun t =>
    let (cs, v) := (k.xs x).readout
    .ok t ((((k.setXs x v).setVx d (cs.map (·.s))).setVx f (followerLanes cs)).vdone t clsXR
      [vreg d, vreg f, xreg x]))

/-- The exact-sum image (R109). -/
def Xs.image (v : Xs) : List Byte :=
  (List.range 32).flatMap (fun i => leBytes 32 (Assoc.get 0 v.n i).toNat)
    ++ leBytes 2 (BitVec.ofInt 16 v.w).toNat
    ++ [BitVec.ofNat 8 (b2n v.low + 2 * b2n v.high + 4 * b2n v.inv)] ++ List.replicate 61 0

/-- The register an image describes (R109, R110). R87 bounds W at −170 and +127, and neither rule says what a load of an image
with a W outside does: the register takes the 16-bit W as it is (DESIGN CHOICE, log 95). -/
def xsOfImage (bs : List Byte) : Xs :=
  let f := leAt bs 1026 1
  { n := Assoc.mapRange 0 32 (fun i _ => BitVec.ofNat 256 (leAt bs (32 * i) 32)) []
    w := signed 16 (leAt bs 1024 2)
    low := f % 2 == 1
    high := f / 2 % 2 == 1
    inv := f / 4 % 2 == 1 }

/-- `xsave` (R163). The spec gives class XI's latency only: its 17 lines are visible 3 cycles after issue, as a
vector store's are (DESIGN CHOICE, log 84). -/
def Core.xsave (k : Core) (now : Nat) (strike : Word) (x : Fin 8) : CoreRes :=
  k.vissue now strike [xreg x] (fun t =>
    k.vaddr t .vstore 1088 (fun t k1 a =>
      match k1.lmWrite a (k.xs x).image with
      | none => k.raiseBad .execute a 1088
      | some k2 => .ok t ((k2.vdone t clsXI []).stored now t a 1088)))

/-- `xload` (R110, R163). -/
def Core.xload (k : Core) (now : Nat) (strike : Word) (x : Fin 8) : CoreRes :=
  k.vissue now strike [xreg x] (fun t =>
    k.vaddr t .vload 1088 (fun t k1 a =>
      match k1.lmRead a 1088 with
      | none => k.raiseBad .execute a 1088
      | some (k2, bs) => .ok t ((k2.setXs x (xsOfImage bs)).vdone t clsXI [xreg x])))

/-- Image add: N lane by lane modulo 2²⁵⁶, flags ORed (R110). -/
def Xs.addImage (v i : Xs) : Xs :=
  { v with
    n := Assoc.mapRange 0 32 (fun l n => n + Assoc.get 0 i.n l) v.n
    low := v.low || i.low
    high := v.high || i.high
    inv := v.inv || i.inv }

/-- `xaddi` (R110, R163). -/
def Core.xaddi (k : Core) (now : Nat) (strike : Word) (x : Fin 8) : CoreRes :=
  k.vissue now strike [xreg x] (fun t =>
    k.vaddr t .vload 1088 (fun t k1 a =>
      match k1.lmRead a 1088 with
      | none => k.raiseBad .execute a 1088
      | some (k2, bs) =>
        let i := xsOfImage bs
        if i.w ≠ (k.xs x).w then k.raise .execute excIllegal
        else .ok t ((k2.setXs x ((k.xs x).addImage i)).vdone t clsXI [xreg x])))

/-- The word of `xflags` (R163). -/
def Xs.flagWord (v : Xs) : Word :=
  BitVec.ofNat 64 ((BitVec.ofInt 16 v.w).toNat * 2 ^ 16 + b2n v.low + 2 * b2n v.high + 4 * b2n v.inv)

end Sys2Proof.Machine
end

