-- ==== Sys2Proof/Machine/StateStore.lean ====
section
/-! DEFINITION. What the store dies and the graph engines hold: stream contexts, hasps, staging, requests,
flags, submission queues, loaded graphs, regions and the lease journal (files 08, 09, 17). -/

namespace Sys2Proof.Machine

open Sys2Proof

/-- The sequence field and the SC bits of a status register: each set bit with its tag (R445). -/
structure Sc where
  seq : BitVec 8 := 0
  tags : List (Nat × BitVec 8) := []
  deriving DecidableEq, Repr

/-- STORE_CFG of one store die without POOL (R457). -/
structure StoreCfg where
  stallwin : Nat := 10000
  maxwait : Nat := 1000
  xwait : Nat := 200
  deriving DecidableEq, Repr

/-- STATE of a stream context (R203). -/
inductive CtxState where
  | idle
  | armed
  | active
  | passEnd
  deriving DecidableEq, Repr

/-- FILL and FREE of a ring, as one member sees them (R206, R208). -/
structure Hasp where
  fill : Nat := 0
  free : Nat := 0
  deriving DecidableEq, Repr

/-- The next pass of a persistent FETCH, fetching while the current pass delivers its last bytes (R222). -/
structure Ahead where
  owner : Nat × Nat
  ownerEntry : Nat
  base : Option Nat
  /-- the base came with a re-arm -/
  rearmed : Bool
  /-- the task that issued that re-arm, and the entry number of its graph (R142) -/
  by_ : Option (Nat × Nat × Nat)
  /-- bytes moved out of the source, and those staged -/
  pos : Nat := 0
  staged : List Byte := []
  deriving DecidableEq, Repr

/-- A stream context (R203) and what its home die keeps for it. -/
structure Ctx where
  /-- bytes 0x00-0x47 as armed; empty while nothing has armed it -/
  image : List Byte := []
  /-- the 64 bytes of the tensor end's descriptor and of the index descriptor, as read at arming (log 94) -/
  desc : List Byte := []
  idesc : List Byte := []
  state : CtxState := .idle
  /-- members of the sink core ring by physical core ID, once bound -/
  members : List Nat := []
  /-- hasp of the ring the stream fills: one for a store ring, one per member of a core ring (R206, R208) -/
  hasp : List Hasp := []
  /-- hasp of the source core ring or PORT that the stream empties (R206) -/
  srcHasp : Hasp := {}
  /-- source core, once bound -/
  srcCore : Option Nat := none
  /-- bytes of the pass moved out of the source end -/
  pos : Nat := 0
  /-- passes begun or begun again since arming -/
  passNo : Nat := 0
  /-- base that the pass uses in place of the descriptor's BASE (R222) -/
  passBase : Option Nat := none
  nextBase : Option Nat := none
  /-- the task that issued the waiting re-arm, and the one whose re-arm the pass uses, each with the entry number of its
  graph (R142) -/
  rearmBy : Option (Nat × Nat × Nat) := none
  passBy : Option (Nat × Nat × Nat) := none
  borrowed : Nat := 0
  discarded : Counter := {}
  owner : Option (Nat × Nat) := none
  /-- entry number of the owner's graph -/
  ownerEntry : Nat := 0
  /-- gang origin added to the rectangles of a data stream (R239) -/
  origin : Nat × Nat := (0, 0)
  /-- the owner task has started on its cores -/
  started : Bool := false
  /-- bytes in staging, in order from image offset delivered -/
  staged : List Byte := []
  /-- bytes of the pass that have left staging into the sink end -/
  delivered : Nat := 0
  /-- member sites that the piece in delivery has reached so far, and its bytes (R208) -/
  reached : List Nat := []
  reachedLen : Nat := 0
  /-- members whose FILL for the next slot is posted before that of the others (R208) -/
  early : List Nat := []
  /-- slots whose FILL, or FREE, the home die has posted in this pass -/
  fillsPosted : Nat := 0
  freesPosted : Nat := 0
  /-- image bytes handed to the encoder of a compressing PUT or to the merge units of a SCATTER_ACC PUT -/
  gathered : List Byte := []
  /-- the index tensor of a SCATTER_ACC PUT as read before its first update: address and byte (R185) -/
  indexRead : List (Nat × Byte) := []
  /-- row bytes drained to PORT and not yet staged, bytes arrived in the pass, all gang cores ended (R206) -/
  portRing : List Byte := []
  portArrived : Nat := 0
  portClosed : Bool := false
  /-- scale bytes received beside PORT rows: image offset of the row, scale (R171) -/
  portScales : List (Nat × Byte) := []
  cancelled : Bool := false
  ahead : Option Ahead := none
  /-- a RELEASE waits for the end of the pass (R231) -/
  releasing : Bool := false
  /-- strike at which the stall window of a stream blocked on space ends (R226) -/
  blocked : Option Word := none
  deriving DecidableEq, Repr

/-- What a pending request of a die queue is for (R214, R216). -/
inductive ReqKind where
  /-- a piece of a stream out of its source or into its sink: image offset and length -/
  | piece (ctx : Nat) (dir : PieceDir) (off len : Nat)
  /-- a core transfer by physical core and tag -/
  | transfer (c : Nat) (tag : Nat)
  /-- an access of the helm die or a link die -/
  | access (o : Origin) (addr len : Nat)
  /-- the movement operation of a MOVE task -/
  | move (q t : Nat)
  /-- what a task writes at its commit point, and reads for it -/
  | commit (q t : Nat)
  deriving DecidableEq, Repr

/-- A pending request: the die, the queue it waits in, its entry strike, its deadline and its address. -/
structure Request where
  die : Nat
  queue : DieQueue
  kind : ReqKind
  t : Word
  d : Word
  addr : Nat
  deriving DecidableEq, Repr

/-- A borrow request for one page (R211). -/
structure Borrow where
  ctx : Nat
  t : Word
  d : Word
  deriving DecidableEq, Repr

/-- An `hpost` on its way from a core to the home die (R209). -/
structure Hpost where
  ctx : Nat
  core : Nat
  k : HaspKind
  cnt : Nat
  deriving DecidableEq, Repr

/-- The store dies (files 08 and 17). -/
structure Store where
  cfg : Assoc StoreCfg := []
  /-- STORE_CFG.POOL, one value for the module (R198) -/
  pool : Nat := 8
  sc : Assoc Sc := []
  discarded : Assoc Counter := []
  stalls : Assoc Counter := []
  ctxs : Assoc Ctx := []
  requests : List Request := []
  borrows : List Borrow := []
  hposts : List Hpost := []
  flags : Assoc Word := []
  /-- owners whose stall episode has been reported (R226) -/
  stalled : List (Nat × Nat) := []
  /-- lines of the store with an uncorrectable error that nothing has met yet, and poisoned lines, by 64-byte line address
  (R419) -/
  bad : List Nat := []
  poison : List Nat := []
  /-- correctable error marks by line address -/
  weak : List Nat := []
  /-- corrected errors by bank number (die × 64 + bank) in the current second, and its first strike -/
  corrected : Assoc (Nat × Word) := []
  /-- banks spared by die: bank numbers in the order of their spares, and the one under copy -/
  spared : Assoc (List Nat) := []
  copying : Assoc (Option Nat) := []
  /-- banks that wait for the copy before theirs, and those that failed with no spare left (R419) -/
  waiting : Assoc (List Nat) := []
  spareless : Assoc (List Nat) := []
  deriving DecidableEq, Repr

/-- The kinds of task (R233). -/
inductive TaskKind where
  | kernel
  | move
  | ward
  deriving DecidableEq, Repr

/-- An entry of a flag list: flag, operation 1 WAIT 2 SET 3 ADD, value (R235). -/
structure FlagOp where
  flag : Nat
  op : Nat
  value : Word
  deriving DecidableEq, Repr

/-- A task record as loaded (R233), with its predecessor and flag lists (R235). -/
structure TaskRec where
  kind : TaskKind
  ctrl : BitVec 8
  gangW : Nat
  gangH : Nat
  split : Nat
  gidx : Nat
  pidx : Nat
  grect : Nat
  launchMode : Nat
  pinX : Nat
  pinY : Nat
  /-- IMAGE / SRC, BINDINGS / DST, DRAIN / IDX, WARDS / MOVE_OPS, LAUNCH -/
  a : Nat
  b : Nat
  c : Nat
  d : Nat
  launch : Nat
  preds : List Nat
  flags : List FlagOp
  cutCap : Nat
  user : Word
  /-- the image it names failed R120 or BODY_HASH at the load (R236) -/
  badImage : Bool
  /-- kind and entry of each binding slot as loaded (R234) -/
  binds : List (Nat × Nat) := []
  /-- chunk length C and window base W of exact-sum mode; 0 where CTRL.EXACT is 0 (R90, R233) -/
  chunk : Nat := 0
  window : Int := 0
  deriving DecidableEq, Repr

/-- Where a task stands (R237 to R242). -/
inductive TStatus where
  | waiting
  | ready
  | running
  | complete
  | aborted
  | failed
  | skipped
  deriving DecidableEq, Repr

/-- What made a task fail: exception code, cause, stream and instruction, core (R258). -/
structure TaskEnd where
  exc : Nat := 0
  cause : Nat := 0
  instr : Nat := 0
  core : Nat := 0
  x : Nat := 0
  y : Nat := 0
  deriving DecidableEq, Repr

/-- One task of a loaded graph. -/
structure Task where
  info : TaskRec
  status : TStatus := .waiting
  /-- its data streams stand armed (R219) -/
  armed : Bool := false
  readyAt : Word := 0
  /-- the fixed launch base and the ramp of each compute die when it was fixed (R246, R247) -/
  launch : Option Word := none
  ramps : List Nat := []
  origin : Nat × Nat := (0, 0)
  /-- physical core IDs of the gang by gang index -/
  cores : List Nat := []
  /-- gang indices that have ended (R105), that have arrived at the ward, that have been captured -/
  done : List Nat := []
  arrived : List Nat := []
  arrivedAt : Word := 0
  captured : Bool := false
  /-- the movement operation has finished -/
  moved : Bool := false
  /-- contexts bound, with the binding slot (16 for the drain target) -/
  streams : List (Nat × Nat) := []
  /-- held outputs by fabric address (R241) -/
  held : Assoc Byte := []
  residue : Nat := 0
  nflags : BitVec 8 := 0
  countA : Counter := {}
  countB : Counter := {}
  fate : TaskEnd := {}
  /-- release strike of a WARD task (R245) -/
  release : Option Word := none
  /-- an ABORT has targeted the task (R409) -/
  targeted : Bool := false
  /-- passed the wait of R238 -/
  overdue : Bool := false
  deriving DecidableEq, Repr

/-- A graph taken from a queue (R232, R236). -/
structure Graph where
  entry : Nat
  tag : BitVec 32
  base : Nat
  epoch : BitVec 32
  user : Word
  count : Nat
  tasks : List (Nat × Task)
  deriving DecidableEq, Repr

/-- STATE of a submission queue (R453, Table 6). -/
inductive SqState where
  | disabled
  | running
  | cutHeld
  | stopped
  deriving DecidableEq, Repr

/-- An entry read and not completed: its number and its 64 bytes (R229, R230). -/
structure Entry where
  no : Nat
  raw : List Byte
  deriving DecidableEq, Repr

/-- One submission queue (R228, R452). -/
structure Sq where
  base : Nat := 0
  enable : Bool := false
  region : Nat := 0
  eq : Nat := 0
  depth : Nat := 0
  head : Nat := 0
  tail : Nat := 0
  state : SqState := .disabled
  sc : Sc := {}
  entries : List Entry := []
  graph : Option Graph := none
  /-- CUT_REACHED of a hold that waits for the running tasks to end: (CUT_CAP, bytes, task) (R256) -/
  cutWait : Option (Nat × Nat × Nat) := none
  /-- the tasks that ran when the hold began -/
  cutRuns : List Nat := []
  /-- context of a RELEASE entry that waits for the end of a pass (R230, R231) -/
  release : Option Nat := none
  /-- tasks of graphs read and not yet loaded that an ABORT has ended: entry number, and a task or all (R249) -/
  doomed : List (Nat × Option Nat) := []
  /-- graphs that have ended since the queue was enabled: entry number and the status of each task (R249) -/
  past : List (Nat × List TStatus) := []
  deriving DecidableEq, Repr

/-- One region (R251, R455, R456). -/
structure Region where
  /-- REG_DEF as written -/
  def_ : Word := 0
  areaBase : Nat := 0
  areaSize : Nat := 0
  /-- compute die whose graph engine holds the context -/
  host : Nat := 0
  cause : Nat := 0
  sc : Sc := {}
  deriving DecidableEq, Repr

/-- A journal record: its task, its 256-byte granule and the granule's prior contents (R403), with the 64-byte units of it
whose data is lost, and whether it stands in the poison table of its memory-port die. -/
structure Journal where
  region : Nat
  q : Nat
  task : Nat
  granule : Nat
  prior : List Byte
  lost : List Nat := []
  poisoned : Bool := false
  deriving DecidableEq, Repr

/-- GE_CFG of a compute die (R451). -/
structure GeCfg where
  placeWait : Nat := 10000
  ramp : Nat := 1600
  deriving DecidableEq, Repr

/-- The graph engines (file 09). -/
structure GraphEngines where
  sqs : Assoc Sq := []
  /-- region 0 is all twelve compute dies after reset (R251) -/
  regions : Assoc Region := [(0, { def_ := 0xC000000000000FFF })]
  /-- newest first -/
  journal : List Journal := []
  /-- records of a revoked task whose granules must wait before they can be written back, in that order (R346, R376, R403) -/
  undo : List Journal := []
  cfg : Assoc GeCfg := []
  /-- cycles of QUEUE_DEADLOCK already reported (R250) -/
  deadlocks : List (List (Nat × Nat)) := []
  deriving DecidableEq, Repr

end Sys2Proof.Machine
end

