-- ==== Sys2Proof/Machine/StateLink.lean ====
section
/-! DEFINITION. What the link dies hold: torus ports, exchange channels and the RESHARD of an axis (files 11
and 12). -/

namespace Sys2Proof.Machine

open Sys2Proof

/-- STATE of a port (R282). -/
inductive PortState where
  | disabled
  | down
  | training
  | linkUp
  | ready
  | mismatch
  deriving DecidableEq, Repr

/-- The last HELLO received: axis, direction, ring identifier (R289). -/
structure Hello where
  axis : Nat
  dir : Nat
  ring : Word
  deriving DecidableEq, Repr

/-- A DATA flit in the replay buffer (R285): sequence number, VC, payload units in use, payload. -/
structure Sent where
  seq : BitVec 8
  vc : Vc
  used : Nat
  payload : List Byte
  deriving DecidableEq, Repr

/-- One virtual channel of a port (R284, R286, R292). -/
structure VcState where
  /-- DATA flits sent, modulo 256, and the latest credit received -/
  s : BitVec 8 := 0
  cred : BitVec 8 := 0
  /-- slots freed, modulo 256, and slots of the receive buffer in use -/
  freed : BitVec 8 := 0
  used : Nat := 0
  /-- packet bytes to send and received packet bytes not yet applied -/
  tx : List Byte := []
  rx : List Byte := []
  /-- received flits whose payload is still in rx, oldest first: bytes left of each -/
  slots : List Nat := []
  deriving DecidableEq, Repr

/-- Who waits for the COMPLETION or GET_RSP of a packet that the port has taken (R293, R296, R303, R323). -/
inductive PacketFor where
  /-- a descriptor of the send ring: USER, OP, and the destination and units of a GET -/
  | descriptor (user : Word) (op : Nat) (dst : Nat) (len : Nat)
  /-- the slot in flight of an exchange channel -/
  | channel (n : Nat)
  /-- a PERMUTE of the RESHARD of the port's axis with this NEW_EPOCH -/
  | reshard (epoch : BitVec 32)
  /-- the RET_FLAG of a channel (R304) -/
  | retFlag
  deriving DecidableEq, Repr

/-- A packet taken and not completed: its tag, VC, and who waits. A descriptor that ended without being sent has a status
already, and waits for the earlier ones of its VC (R296). -/
structure Taken where
  tag : Nat
  vc : Vc
  who : PacketFor
  ended : Option Nat := none
  deriving DecidableEq, Repr

/-- One exchange channel of a port (R301 to R306). -/
structure Channel where
  a : Word := 0
  b : Word := 0
  /-- a write that clears VALID waits for the slot outstanding -/
  clearing : Option Word := none
  /-- passes of LOCAL_CTX whose first slot it has begun to send -/
  passes : Nat := 0
  /-- the pass of LOCAL_CTX that `next` counts in -/
  inPass : Nat := 0
  /-- position of the next slot of the pass, and packets of the slot in flight without COMPLETION -/
  next : Nat := 0
  flying : Nat := 0
  /-- a slot is in flight -/
  slot : Bool := false
  /-- bytes received into the current slot of the receive ring -/
  got : Nat := 0
  /-- the port has taken FREE for the receive ring's current slot -/
  open_ : Bool := false
  /-- an XCH_FAULT has cleared VALID, and the channel has not been set up again (R306) -/
  faulted : Bool := false
  deriving DecidableEq, Repr

/-- One torus port. -/
structure Port where
  /-- PORT_CTL: MINLANES, RRESET_EN, ENABLE (R297) -/
  minlanes : Nat := 6
  rreset : Bool := false
  enable : Bool := false
  /-- PORT_RINGID, and the service die's copy (R288) -/
  ringid : Word := 0
  ringCopy : Word := 0
  state : PortState := .disabled
  /-- LANEMAP: active lanes -/
  lanes : BitVec 8 := 0
  /-- symbols that the FEC decoder corrected on each lane in the last 1 ms: strike of the report, count (R280) -/
  symbols : Assoc (List (Word × Nat)) := []
  /-- a retrain is in progress, and the port has not left READY but for a retrain (R282) -/
  retrain : Bool := false
  held : Bool := false
  sc : Sc := {}
  sqBase : Nat := 0
  sqCfg : Word := 0
  sqTail : Word := 0
  sqHead : Word := 0
  /-- the descriptor at the head, read and still waiting for its local data (R295) -/
  desc : Option (List Byte) := none
  /-- the eight counters of Table 12 of file 11 -/
  counters : Assoc Counter := []
  /-- link layer (R283 to R287) -/
  seq : BitVec 8 := 0
  ack : BitVec 8 := 255
  /-- last sequence number the neighbour has acknowledged -/
  acked : BitVec 8 := 255
  nak : Bool := false
  replay : List Sent := []
  /-- flits of the replay buffer still to send again -/
  resend : Nat := 0
  /-- resends without an advance of ACK; the ACK value already answered with a resend -/
  resends : Nat := 0
  nakSeen : Option (BitVec 8) := none
  fresh : Bool := true
  heard : Bool := false
  req : VcState := {}
  red : VcState := {}
  rsp : VcState := {}
  /-- received CTRL flit not yet evaluated: its subtype and payload -/
  ctrl : List (Nat × List Byte) := []
  hello : Option Hello := none
  /-- CTRL flits to send, by subtype -/
  ctrlOut : List Nat := []
  taken : List Taken := []
  nextTag : Nat := 0
  channels : Assoc Channel := []
  epoch : BitVec 32 := 0
  /-- frame count, and the flits sent of the current frame (R279) -/
  fcnt : BitVec 8 := 0
  inFrame : Nat := 0
  /-- frame count of the frame being received, its flits received, and its codewords counted as uncorrectable (R279) -/
  rxFcnt : BitVec 8 := 0
  rxInFrame : Nat := 0
  rxFirst : Bool := false
  rxSecond : Bool := false
  /-- strike of the last RESET_REQ sent (R290) -/
  lastReset : Option Word := none
  deriving DecidableEq, Repr

/-- An entry of a permute list (R322). -/
structure PermEntry where
  src : Nat
  dst : Nat
  units : Nat
  dir : Nat
  etype : Nat
  deriving DecidableEq, Repr

/-- Where a RESHARD stands (R323). -/
inductive ReshardStep where
  | fence
  | copyOut
  | moves
  deriving DecidableEq, Repr

/-- The RESHARD of an axis in progress (R322 to R325). -/
structure Reshard where
  q : Nat
  entry : Nat
  step : ReshardStep
  epoch : BitVec 32
  scratch : Nat
  list : List PermEntry
  inPlus : Nat
  inMinus : Nat
  /-- units that have arrived, and own packets without COMPLETION -/
  gotPlus : Nat := 0
  gotMinus : Nat := 0
  flying : Nat := 0
  /-- status of a RESHARD_FAULT already written -/
  fault : Option Nat := none
  deriving DecidableEq, Repr

/-- The link dies. -/
structure Link where
  ports : Assoc Port := []
  reshards : Assoc Reshard := []
  deriving DecidableEq, Repr

end Sys2Proof.Machine
end

