-- ==== Sys2Proof/Machine/StateModule.lean ====
section
/-! DEFINITION. What the helm die's event queues, the grid, the memory-port dies and the service die hold:
logs, clocks, resets, power, boot and pins (files 13 to 20). -/

namespace Sys2Proof.Machine

open Sys2Proof

/-! Event records, event queues, logs (files 14 and 17). -/

/-- An event record without its phase bit (R257). payload holds bytes 0x18 to 0x3F; missing bytes are 0. -/
structure Rec where
  type : Nat
  region : Nat := 0
  tag : BitVec 32 := 0
  strike : Word := 0
  queue : Nat := 0xFFFF
  status : Nat := 0
  task : Nat := 0
  payload : List Byte := []
  /-- a done record that came to a full pending buffer: its queue takes no entry until it is written (R358) -/
  late : Bool := false
  deriving DecidableEq, Repr

/-- One event queue (R355 to R359). -/
structure EventQueue where
  base : Nat := 0
  enable : Bool := false
  /-- EQ_CFG.MOD -/
  moderation : Nat := 0
  eiid : Nat := 0
  hart : Nat := 0
  depth : Nat := 0
  head : BitVec 32 := 0
  tail : BitVec 32 := 0
  sc : Sc := {}
  lost : Counter := {}
  /-- records generated and not yet written, oldest first -/
  pending : List Rec := []
  /-- records dropped since the previous EVENTS_LOST -/
  lostSince : Counter := {}
  /-- records that wait and that the ring had free slots for when the first of those was dropped: they come before the
  EVENTS_LOST -/
  ahead : Nat := 0
  /-- records written and not yet signalled -/
  unsignalled : Nat := 0
  /-- strike of the last MSI -/
  lastMsi : Option Word := none
  deriving DecidableEq, Repr

/-- One violation (R416), with the tag of its unit of COUNT (R445). -/
structure VlogEntry where
  cause : Nat
  origin : Nat
  addr : Nat
  strike : Word
  unit : Nat
  kind : Nat
  region : Nat
  queue : Nat
  task : Nat
  tag : BitVec 8
  deriving DecidableEq, Repr

/-- The violation log of a die (R416). -/
structure Vlog where
  entries : List VlogEntry := []
  sc : Sc := {}
  ovf : Counter := {}
  deriving DecidableEq, Repr

/-- Event queues, module log and violation logs. -/
structure Logs where
  eqs : Assoc EventQueue := []
  /-- module log by slot (R417) -/
  mlog : Assoc Rec := []
  mcount : Counter := {}
  /-- by die index -/
  vlogs : Assoc Vlog := []
  deriving DecidableEq, Repr

/-! The grid (files 13, 15, 17). -/

/-- The row map of one physical row: in force, and decided but waiting (R336, R338). -/
structure RowMap where
  failed : BitVec 32 := 0
  active : BitVec 32 := 0x3FFFFFFF
  next : Option (BitVec 32 × BitVec 32) := none
  deriving DecidableEq, Repr

/-- The core grid. Rows are numbered die × 32 + physical row. -/
structure Grid where
  rows : Assoc RowMap := []
  /-- compute dies locked out (R410) -/
  diesOut : List Nat := []
  /-- rows whose clock runs, with the first ACLK cycle in which no task ran on them (R371) -/
  ungated : Assoc Nat := []
  /-- rows whose power-up self-check failed when last ungated: core sites (R406) -/
  selfCheckBad : List Nat := []
  /-- strike of the last LM_UNCORRECTABLE by physical core ID (R406, R408) -/
  lastUncorrectable : Assoc (Option Word) := []
  deriving DecidableEq, Repr

/-! External memory (file 13). -/

/-- STATE of a channel (R348). -/
inductive ChanState where
  | active
  | retiring
  | retired
  deriving DecidableEq, Repr

/-- One channel's block (R348). -/
structure MemChannel where
  state : ChanState := .active
  sc : Sc := {}
  ce : Counter := {}
  ue : Counter := {}
  migrated : Counter := {}
  /-- corrected errors in the current second: its first strike and the count (R347) -/
  second : Word := 0
  inSecond : Nat := 0
  deriving DecidableEq, Repr

/-- A row redirect entry: local channel, row, copy complete, freed by the repair that runs (R346). -/
structure Redirect where
  chan : Nat
  row : Nat
  done : Bool := false
  deriving DecidableEq, Repr

/-- One memory-port die (R344 to R346, R348). -/
structure MemPort where
  retireCe : Nat := 1000
  scrubHours : Nat := 24
  /-- poisoned granules, by granule of the map -/
  poison : List Nat := []
  redirects : List Redirect := []
  /-- corrections by (channel, burst) and the strike of each, for weak rows -/
  history : List (Nat × Nat × Word) := []
  /-- the next burst of the patrol: local channel and burst of the channel -/
  patrolChan : Nat := 0
  patrolBurst : Nat := 0
  /-- MEM_REPAIR runs -/
  repairing : Bool := false
  deriving DecidableEq, Repr

/-- A channel in retirement, and its migration pointer: the next granule to copy (R347). -/
structure Retiring where
  chan : Nat
  pointer : Nat
  deriving DecidableEq, Repr

/-- External memory. -/
structure ExtMem where
  /-- by memory-port die 0 to 15 -/
  ports : Assoc MemPort := []
  /-- by channel 0 to 383 -/
  chans : Assoc MemChannel := []
  /-- error marks of 64-byte bursts, by address ÷ 64: correctable, uncorrectable (R344) -/
  weak : List Nat := []
  bad : List Nat := []
  retiring : Option Retiring := none
  retired : Option Nat := none
  deriving DecidableEq, Repr

/-! Clocks and resets (file 15). -/

/-- One clock node (R366 to R372). -/
structure ClockNode where
  gate : Bool := false
  /-- true: REF -/
  src : Bool := false
  lock : Bool := false
  /-- a switch in progress, to this source -/
  switching : Option Bool := none
  /-- a write that only clears GATE waits for the switch -/
  heldUngate : Bool := false
  deriving DecidableEq, Repr

/-- The reference and the clock registers (R363 to R373). -/
structure Clocks where
  nodes : Assoc ClockNode := []
  /-- the reference is the crystal -/
  crystal : Bool := true
  /-- POR has ended -/
  porEnded : Bool := true
  /-- windows in a row in which the crystal measured within ±1,000 ppm -/
  windows : Nat := 16
  sc : Sc := {}
  lastNode : Nat := 0
  reason : Nat := 0
  monEn : Bool := false
  monDiv : Nat := 0
  monNode : Nat := 0
  deriving DecidableEq, Repr

/-- One source's part in an episode (R374, R377): the source, its reach, its target die or core, and
whether it still asserts. -/
structure Assertion where
  src : Nat
  reach : Nat
  die : Nat
  core : Nat
  held : Bool
  deriving DecidableEq, Repr

/-- A reset episode (R377 to R381). handover: it zeroes memory before release (R360). -/
structure Episode where
  asserted : List Assertion
  reach : Nat
  die : Nat
  core : Nat
  handover : Bool := false
  /-- groups already released, in the order of R17 (R379) -/
  released : Nat := 0
  deriving DecidableEq, Repr

/-- RST_LAST, the open episodes and the register locks (R377 to R382, R442). -/
structure Resets where
  episodes : List Episode := []
  reach : Nat := 0
  target : Nat := 0
  core : Nat := 0
  sources : BitVec 9 := 1
  /-- dies that stay in reset after their episode: until their clock is ungated, or until boot releases them (R379) -/
  held : List Nat := []
  /-- dies whose register lock is set -/
  locks : List Nat := []
  deriving DecidableEq, Repr

/-! Power (file 16). Watts are in units of 1/16 W. -/

/-- MODE of PWR_CDd (R394). -/
inductive PowerMode where
  | normal
  | measTrusted
  | estTrusted
  deriving DecidableEq, Repr

/-- What a die's levels depend on in its controllers (R390). -/
structure LevelPart where
  c : Nat := 16
  mode : PowerMode := .normal
  droopAt : Option Word := none
  h : Assoc Nat := []
  deriving DecidableEq, Repr

/-- One compute die's controllers (R389 to R395). trim is num / den. -/
structure DiePower where
  /-- the group of 16 ACLK cycles in which the die's part of a level last changed, and that part at its start (R390) -/
  past : Option (Nat × LevelPart) := none
  c : Nat := 16
  mode : PowerMode := .normal
  trimNum : Nat := 1
  trimDen : Nat := 1
  budget : Nat := 7040
  /-- energy of the beats started in the current microsecond (pJ), and the last estimate -/
  energy : Nat := 0
  est : Nat := 0
  /-- estimates of the window: sum and number; beats started in it -/
  estSum : Nat := 0
  estCount : Nat := 0
  beats : Nat := 0
  /-- MEAS and EST of the last window -/
  meas : Nat := 0
  meanEst : Nat := 0
  disagree : Nat := 0
  agree : Nat := 0
  stretch : Nat := 0
  droopAt : Option Word := none
  /-- strike of the last firing or decay (R395) -/
  decayFrom : Word := 0
  droops : Counter := {}
  /-- thermal levels of row groups 0 to 4 -/
  h : Assoc Nat := []
  deriving DecidableEq, Repr

/-- The input stage (R384, R385, R461). -/
inductive InputState where
  | good
  | under
  | over
  | noSense
  deriving DecidableEq, Repr

/-- The power supervisor (R384 to R398). -/
structure Power where
  cap : Nat := 7200
  tthrot : Nat := 95
  ttrip : Nat := 115
  softcap : Nat := 0
  dstep : Nat := 400
  sc : Sc := {}
  hotdie : Nat := 0
  tmax : Nat := 0
  vin : Nat := 0
  pin : Nat := 0
  state : BitVec 20 := 0x80000
  req : BitVec 20 := 0x80000
  /-- the change in progress: domain, and whether it goes on -/
  change : Option (Nat × Bool) := none
  dies : Assoc DiePower := []
  hm : Nat := 16
  /-- the group of 16 ACLK cycles in which h_m last changed, and h_m at its start; the same of the strike (R390) -/
  hmPast : Nat × Nat := (0, 16)
  tick : Nat × Word := (0, 0)
  pool : Nat := 0
  implausible : Nat := 0
  floorRun : Nat := 0
  /-- phases lost by domain (R384) -/
  phases : Assoc Nat := []
  /-- last reading and run of readings at TTRIP or above, by sensor number (sensorNo) -/
  temps : Assoc Nat := []
  tripRun : Assoc Nat := []
  /-- dies, or 0xFF for the input stage, for which source 5 asserts (R397) -/
  tripping : List Nat := []
  input : InputState := .good
  deriving DecidableEq, Repr

/-! Boot and identity (file 18). -/

/-- The fuses, as their shadow holds them (R422). -/
structure Fuses where
  eccOk : Bool := true
  oscTrim : BitVec 16 := 0
  /-- reach table: 3 bits per source -/
  reach : BitVec 27 := 0o342112110
  serial : Word := 0
  rootHash0 : List Byte := []
  rootHash1 : List Byte := []
  rootRevoke : BitVec 2 := 0
  minSvn : Word := 0
  seed : List Byte := []
  /-- failed sites by die × 32 + row -/
  sites : Assoc (BitVec 32) := []
  /-- store banks spared at manufacture, by die -/
  banks : Assoc (BitVec 8) := []
  /-- BASE_d (1/16 W), then the beat energies (pJ) of Table 2 of file 16: 8-bit class, MXFP4 pair, MXFP4
  with 8-bit, 16-bit, COMP; a die not listed has the typical values -/
  coeff : Assoc (List Nat) := []
  ttripMax : Nat := 115
  deriving DecidableEq, Repr

/-- STAGE of BOOT_STATUS. -/
inductive Stage where
  | rom
  | recoveryWait
  | svFw
  | running
  | failed
  deriving DecidableEq, Repr

/-- The running image (R425). -/
structure Image where
  svn : Nat
  root : Nat
  recovery : Bool
  /-- components: TYPE, TARGET, bytes -/
  parts : List (Nat × Nat × List Byte)
  deriving DecidableEq, Repr

/-- Boot, firmware and identity (R422 to R438). -/
structure Boot where
  fuses : Fuses := {}
  /-- xSPI flash by address; an unlisted byte is erased -/
  flash : Assoc Byte := []
  stage : Stage := .rom
  fail : Nat := 0
  sc : Sc := {}
  image : Option Image := none
  /-- step 4 is complete: the key services answer -/
  keys : Bool := false
  /-- the component each die has loaded, by die and place in the image (R427) -/
  loaded : Assoc Nat := []
  /-- measurements of 48 bytes, in order (R435) -/
  measures : List (List Byte) := []
  /-- DEVID_PUB -/
  pub : List Byte := []
  /-- bytes received of a recovery image by FW_RECOVER -/
  recovery : List Byte := []
  /-- an update in progress: host-memory address, and the image as checked (R431) -/
  update : Option (Nat × List Byte) := none
  /-- step 7 waits for the memory that HD_LOADER goes to (R346, R347, R427) -/
  loading : Bool := false
  /-- the identity certificate of the settings in flash (R424) -/
  cert : List Byte := []
  /-- ATT_CTL buffer address and bit 0 -/
  attAddr : Nat := 0
  attDone : Bool := false
  /-- HOSTMEM as set by the operator, and in force (GiB) -/
  hostmemSet : Nat := 512
  hostmem : Nat := 512
  deriving DecidableEq, Repr

/-! Pins and outputs (file 20). -/

/-- The instruction of the TAP (R468). -/
inductive TapInstr where
  | bypass
  | idcode
  | sample
  | extest
  deriving DecidableEq, Repr

/-- Connectors, straps, the management endpoint and the TAP (R460 to R468). Connectors are numbered 0 to 7
for the torus ports and 8, 9 for FE0, FE1. -/
structure Pins where
  /-- connectors with a cable present -/
  cables : List Nat := []
  /-- strap levels, and the ID sampled at the end of the supply phase -/
  straps : BitVec 4 := 0
  modId : BitVec 4 := 0
  /-- I3C mode and the dynamic address -/
  i3c : Option (BitVec 7) := none
  tap : TapInstr := .idcode
  /-- the boundary register, cell n of the chain in bit n (R468) -/
  boundary : BitVec 106 := 0
  trstN : Bool := true
  /-- frames moved in by each front-end port: count and next ring address are host software's -/
  frames : Assoc Counter := []
  deriving DecidableEq, Repr

/-- An answer on the fabric. -/
inductive Resp where
  | data (bs : List Byte)
  | done
  /-- an error response with its cause (R415) -/
  | error (cause : Nat)
  /-- the request waits (R344, R346, R347) -/
  | waits
  deriving DecidableEq, Repr

/-- An answer on the management endpoint. -/
inductive Mgmt where
  | ok
  | busy
  | notReady
  | refused
  | data (bs : List Byte)
  deriving DecidableEq, Repr

/-- The last answers and messages the module gave. -/
structure Outputs where
  resp : Option Resp := none
  mgmt : Option Mgmt := none
  /-- last MSI: hart and identity -/
  msi : Option (Nat × Nat) := none
  /-- last answer to the recovery mailbox (R429) -/
  mailbox : Option Mgmt := none
  /-- last flit a port sent -/
  flit : Option (Fin 8 × BitVec 2048) := none
  /-- the tag of the frame that flit goes in (R279) -/
  frameTag : BitVec 40 := 0
  /-- last frame that a front-end port put on its wire (R362) -/
  frame : Option (Fin 2 × List Byte) := none
  /-- the IEEE 1588 timestamp of the last frame in or out: its port, and the time of helm software's clock (R362) -/
  stamp : Option (Fin 2 × Word) := none
  deriving DecidableEq, Repr

end Sys2Proof.Machine
end

