-- ==== Sys2Proof/Machine/State.lean ====
section
/-! DEFINITION. The state of the module, the ways a step can stop, and the state after reset. -/

namespace Sys2Proof.Machine

open Sys2Proof

/-- Why a step stops with a fault. -/
inductive Fault where
  /-- Raised by a command that names a core site, queue, region, context, channel, register or other unit
  that the manual does not give the module. Safe: the model stops where there is nothing to act on. -/
  | noSuchUnit
  deriving DecidableEq, Repr

/-- Why a step is refused. -/
inductive Refusal where
  /-- Raised by an arm of exec whose command has no meaning yet. Safe: no claim about it can be proved. -/
  | notModelled (mnemonic : String)
  /-- Raised by an instruction form that the toolchain rejects, so that no sealed image holds it (R121): a
  register its stream does not have, a queue it may not use, an ill-formed loop. Safe: the module never
  meets it. -/
  | toolchainRejects
  deriving DecidableEq, Repr

/-- The module. -/
structure State where
  /-- the commands that wait, first in, first out -/
  pending : List Instr := []
  /-- the strike counter, and whether it counts (R16) -/
  strike : Word := 0
  running : Bool := true
  /-- heartbeat count (R259) -/
  heartbeat : BitVec 32 := 0
  /-- the model's count of ACLK cycles (log 2) -/
  aclk : Nat := 0
  /-- the model's own: index of the next free value (log 3) -/
  free : Nat := 0
  /-- core sites by physical core ID -/
  cores : Assoc Core := []
  /-- external memory and central store, by fabric address -/
  mem : Assoc Byte := []
  store : Store := {}
  ge : GraphEngines := {}
  link : Link := {}
  logs : Logs := {}
  grid : Grid := {}
  ext : ExtMem := {}
  clock : Clocks := {}
  resets : Resets := {}
  power : Power := {}
  boot : Boot := {}
  pins : Pins := {}
  /-- identities pending in the IMSIC of each hart (R349, R359); a hart takes them, which no command shows -/
  imsic : Assoc (List Nat) := []
  out : Outputs := {}
  deriving DecidableEq, Repr

/-- The module right after power-on reset has ended on a stable crystal (R363), before boot (R427): only SV
is on, RST_LAST names source 0, and the PLLs of SV are locked. -/
def State.reset : State :=
  { clock := { nodes := [(3, { lock := true }), (60, { lock := true }), (61, { lock := true }),
      (62, { lock := true }), (63, { lock := true })] } }

end Sys2Proof.Machine
end

