-- ==== Sys2Proof/Machine/Flags.lean ====
section
/-! DEFINITION. Status flags with their sequence tags (R445, R446) and the 65,536 flags of the module (R243,
R244). -/

namespace Sys2Proof.Machine

open Sys2Proof

/-- How far a tag lies behind a sequence value. -/
def Sc.age (seq tag : BitVec 8) : Nat := (seq - tag).toNat

/-- A tag kept within 127 of a sequence value (R445). -/
def Sc.keep (seq tag : BitVec 8) : BitVec 8 := if Sc.age seq tag ≤ 127 then tag else seq - 127

/-- An event that sets field b (R445). -/
def Sc.event (x : Sc) (b : Nat) : Sc :=
  let q := x.seq + 1
  { seq := q
    tags := (x.tags.filter (fun t => t.1 != b)).map (fun t => (t.1, Sc.keep q t.2)) ++ [(b, q)] }

/-- Is field b set? -/
def Sc.has (x : Sc) (b : Nat) : Bool := x.tags.any (fun t => t.1 == b)

/-- Does a write-back of w clear a field with this tag (R446)? -/
def Sc.clears (seq w tag : BitVec 8) : Bool :=
  decide (Sc.age seq w < 128) && decide (Sc.age seq w ≤ Sc.age seq tag)

/-- A write-back of SEQ value w (R446). -/
def Sc.writeBack (x : Sc) (w : BitVec 8) : Sc :=
  { x with tags := x.tags.filter (fun t => !(Sc.clears x.seq w t.2)) }

/-- The SC fields and SEQ as the register shows them. -/
def Sc.word (x : Sc) : Nat :=
  x.seq.toNat * 2 ^ 56 + (x.tags.map (fun t => 2 ^ t.1)).foldl (· + ·) 0

/-- A flag's value (R243). -/
def State.flag (s : State) (n : Nat) : Word := Assoc.get 0 s.store.flags n

/-- The operations on flags (R244): 2 SET, 3 ADD; a WAIT changes nothing. -/
def State.applyFlag (s : State) (op n : Nat) (v : Word) : State :=
  let put := fun x => { s with store := { s.store with flags := Assoc.put 0 s.store.flags n x } }
  match op with
  | 2 => put v
  | 3 => put (s.flag n + v)
  | _ => s

/-- A WAIT is met (R244). -/
def State.waitMet (s : State) (n : Nat) (v : Word) : Bool := atOrAfter (s.flag n) v

/-- The SET and ADD entries of a flag list, in list order (R241). -/
def State.applyFlags (s : State) (fs : List FlagOp) : State :=
  fs.foldl (fun s f => s.applyFlag f.op f.flag f.value) s

end Sys2Proof.Machine
end

