-- ==== Sys2Proof/Machine/Tensor.lean ====
section
/-! DEFINITION. Tensor descriptors (R165 to R171) and the checks of one descriptor (R172 to R175). The
functions read memory through an argument rd, so they hold for any state. -/

namespace Sys2Proof.Machine

open Sys2Proof

/-- A descriptor's fields (R165). rsvd: some bit that must be zero is not. -/
structure Desc where
  base : Nat
  etype : Nat
  rank : Nat
  dims : List Nat
  strides : List Nat
  strict : Bool
  compress : Nat
  bcast : Nat
  blkdim : Nat
  scaleBase : Nat
  cap : Nat
  rsvd : Bool
  deriving DecidableEq, Repr

/-- The fields of 64 descriptor bytes (Table 1 of file 07). -/
def readDesc (bs : List Byte) : Desc :=
  let w0 := leAt bs 0 8
  let c := leAt bs 0x34 2
  { base := w0 % 2 ^ 48
    etype := w0 / 2 ^ 48 % 2 ^ 8
    rank := w0 / 2 ^ 56 % 8
    dims := (List.range 6).map (fun d => leAt bs (0x08 + 4 * d) 4)
    strides := (List.range 5).map (fun d => leAt bs (0x20 + 4 * d) 4)
    strict := c % 2 == 1
    compress := c / 2 % 4
    bcast := c / 8 % 32
    blkdim := c / 256 % 2
    scaleBase := leAt bs 0x36 6
    cap := leAt bs 0x3C 4
    rsvd := decide (w0 / 2 ^ 59 ≠ 0) || decide (c / 512 ≠ 0) }

/-- n bytes of memory from an address. -/
def readFrom (rd : Nat → Byte) (a : Nat) : Nat → List Byte
  | 0 => []
  | n + 1 => rd a :: readFrom rd (a + 1) n

/-- The descriptor at a fabric address. -/
def descAt (rd : Nat → Byte) (a : Nat) : Desc := readDesc (readFrom rd a 64)

/-- DIMd. -/
def Desc.dim (x : Desc) (d : Nat) : Nat := x.dims.getD d 1

/-- STRIDEd in bytes, d ≥ 1. -/
def Desc.stride (x : Desc) (d : Nat) : Nat := x.strides.getD (d - 1) 0 * 64

/-- Bit d of BCAST: dimension d may have stride 0. -/
def Desc.mayBcast (x : Desc) (d : Nat) : Bool := x.bcast / 2 ^ (d - 1) % 2 == 1

/-- The element type; FP32 stands for a reserved code, which TD_FORMAT refuses. -/
def Desc.ty (x : Desc) : EType := (etypeOf x.etype).getD .fp32

/-- The tensor is empty (R166). -/
def Desc.empty (x : Desc) : Bool := (x.dims.take x.rank).any (· == 0)

/-- Bytes of DIM0 elements (R167). -/
def Desc.rowBytes (x : Desc) : Nat :=
  match x.ty with
  | .mxe3m2 | .mxe2m3 => ceilDiv (x.dim 0) 32 * 24
  | .mxfp4 => ceilDiv (x.dim 0) 32 * 16
  | .fwp => ceilDiv (x.dim 0) 32 * 192
  | t => x.dim 0 * (etypeBits t / 8)

/-- Rows of the tensor: the product of DIM1 to DIM5. -/
def Desc.rows (x : Desc) : Nat := (x.dims.drop 1).foldl (· * ·) 1

/-- Elements of the tensor. -/
def Desc.count (x : Desc) : Nat := x.dims.foldl (· * ·) 1

/-- The indices of linear position n over some dimensions, the first varying fastest. -/
def unravel : List Nat → Nat → List Nat
  | [], _ => []
  | d :: ds, n => n % d :: unravel ds (n / d)

/-- The linear position of indices over some dimensions. -/
def ravel : List Nat → List Nat → Nat
  | d :: ds, i :: is => i + d * ravel ds is
  | _, _ => 0

/-- The indices (i1 … i5) of row n (R201). -/
def Desc.rowIdx (x : Desc) (n : Nat) : List Nat := unravel (x.dims.drop 1) n

/-- The address of the row with indices (i1 … i5) (R168). -/
def Desc.rowAddr (x : Desc) (idx : List Nat) : Nat :=
  x.base + (List.zipWith (fun i s => i * (s * 64)) idx x.strides).foldl (· + ·) 0

/-- Index i_d of an element given by i0 and (i1 … i5). -/
def indexAt (i0 : Nat) (idx : List Nat) (d : Nat) : Nat := if d = 0 then i0 else idx.getD (d - 1) 0

/-- The code of element i0 of a row's bytes: a full-width partial's code is sum + 2³² × follower. -/
def codeInRow (t : EType) (row : Nat → Byte) (i0 : Nat) : Nat :=
  let rd := fun a n => ofLe (readFrom row a n)
  match t with
  | .mxe3m2 | .mxe2m3 => rd (i0 / 32 * 24) 24 / 2 ^ (6 * (i0 % 32)) % 64
  | .mxfp4 => rd (i0 / 2) 1 / 2 ^ (4 * (i0 % 2)) % 16
  | .fwp =>
    let g := i0 / 32 * 192
    rd (g + i0 % 32 * 4) 4 + 2 ^ 32 * rd (g + 128 + i0 % 32 * 2) 2
  | t => let n := etypeBits t / 8; rd (i0 * n) n

/-- The code of an element (R168). -/
def Desc.codeAt (x : Desc) (rd : Nat → Byte) (i0 : Nat) (idx : List Nat) : Nat :=
  let a := x.rowAddr idx
  codeInRow x.ty (fun k => rd (a + k)) i0

/-- Byte o of a row with the bits of unused elements of its last partial group cleared (R167). -/
def Desc.usedByte (x : Desc) (o : Nat) (b : Byte) : Byte :=
  match x.ty with
  | .mxe3m2 | .mxe2m3 | .mxfp4 =>
    BitVec.ofNat 8 (b.toNat % 2 ^ min 8 (etypeBits x.ty * x.dim 0 - 8 * o))
  | .fwp =>
    let r := o % 192
    if o / 192 * 32 + (if r < 128 then r / 4 else (r - 128) / 2) < x.dim 0 then b else 0
  | _ => b

/-- The codes of a group of 32, padded with zero codes. -/
def groupOf (cs : List Nat) (g : Nat) : List Nat :=
  let t := (cs.drop (32 * g)).take 32
  t ++ List.replicate (32 - t.length) 0

/-- The bytes of a row of codes (R65, R83, R167). -/
def rowOfCodes (t : EType) (cs : List Nat) : List Byte :=
  match t with
  | .mxe3m2 | .mxe2m3 | .mxfp4 =>
    (List.range (ceilDiv cs.length 32)).flatMap (fun g => codeBytes t (groupOf cs g))
  | .fwp =>
    (List.range (ceilDiv cs.length 32)).flatMap (fun g =>
      (groupOf cs g).flatMap (fun c => leBytes 4 c)
        ++ (groupOf cs g).flatMap (fun c => leBytes 2 (c / 2 ^ 32)))
  | t => cs.flatMap (fun c => leBytes (etypeBits t / 8) c)

/-- The size a dimension counts for in a scale array: 1 when it is broadcast (R170). -/
def Desc.scaleDim (x : Desc) (d : Nat) : Nat := if x.stride d = 0 then 1 else x.dim d

/-- Scale bytes of the tensor (R170). -/
def Desc.scaleCount (x : Desc) : Nat :=
  if x.blkdim = 0 then
    ceilDiv (x.dim 0) 32 * ([1, 2, 3, 4, 5].map x.scaleDim).foldl (· * ·) 1
  else ceilDiv (x.dim 1) 32 * ([2, 3, 4, 5].map x.scaleDim).foldl (· * ·) 1 * x.dim 0

/-- The address of an element's scale byte (R170). -/
def Desc.scaleAddr (x : Desc) (i0 : Nat) (idx : List Nat) : Nat :=
  let pick := fun (ds : List Nat) =>
    ravel (ds.map x.scaleDim) (ds.map (fun d => if x.stride d = 0 then 0 else indexAt i0 idx d))
  if x.blkdim = 0 then
    x.scaleBase + pick [1, 2, 3, 4, 5] * ceilDiv (x.dim 0) 32 + i0 / 32
  else
    x.scaleBase + (pick [2, 3, 4, 5] * ceilDiv (x.dim 1) 32 + indexAt i0 idx 1 / 32) * x.dim 0 + i0

/-- Footprint of the element bytes: first and last byte (R169). -/
def Desc.footprint (x : Desc) : Nat × Nat :=
  if x.compress = 0 then
    (x.base, x.base + x.rowBytes - 1
      + ([1, 2, 3, 4, 5].map (fun d => (x.dim d - 1) * x.stride d)).foldl (· + ·) 0)
  else (x.base, x.base + x.cap * 64 - 1)

/-- Footprint of the scale array, for a type that has one. -/
def Desc.scalePrint (x : Desc) : Option (Nat × Nat) :=
  if hasScales x.ty then some (x.scaleBase, x.scaleBase + x.scaleCount - 1) else none

/-- The footprints of a tensor. -/
def Desc.prints (x : Desc) : List (Nat × Nat) := x.footprint :: x.scalePrint.toList

/-- Is the tensor a nested destination (R169)? -/
def Desc.nested (x : Desc) : Bool :=
  let go := fun (acc : Nat × Bool) (d : Nat) =>
    if 1 < x.dim d then
      (x.stride d * (x.dim d - 1) + acc.1, acc.2 && decide (acc.1 ≤ x.stride d))
    else acc
  ([1, 2, 3, 4, 5].foldl go (x.rowBytes, true)).2

/-- Where bytes may lie, as the state stands: the end of external memory, the first address of the
stream pool, and the first byte of a span that lies in a powered-down or gated block (R169, R174). -/
structure Places where
  extEnd : Nat
  poolStart : Nat
  off : Nat → Nat → Option Nat

/-- Is the address in a core window? Each die's last 64 core IDs have none (Table 4 of file 13). -/
def inWindow (a : Nat) : Bool :=
  decide (0x200000000000 ≤ a ∧ a < 0x200000000000 + 12288 * 0x80000)
    && decide ((a - 0x200000000000) / 0x80000 % 1024 < 960)

/-- The range that holds an address and its first byte outside: external memory, the central store
below the pool, or the local memory of a core window (R169). -/
def rangeEnd (p : Places) (a : Nat) : Option Nat :=
  if a < p.extEnd then some p.extEnd
  else if 0x100000000000 ≤ a ∧ a < p.poolStart then some p.poolStart
  else
    let o := (a - 0x200000000000) % 0x80000
    if inWindow a && decide (o < 0x60000) then some (a - o + 0x60000) else none

/-- A failed check: the code it ranks under, the code it is reported with, its logged address (R173, R174). -/
structure Finding where
  rank : Nat
  code : Nat
  addr : Nat
  deriving DecidableEq, Repr

def mkFinding (code addr : Nat) : Finding := ⟨code, code, addr⟩

/-- The finding that is reported: lowest code, then lowest address (R173). -/
def worst : List Finding → Option Finding
  | [] => none
  | f :: fs =>
    match worst fs with
    | none => some f
    | some g =>
      if f.rank < g.rank ∨ (f.rank = g.rank ∧ f.addr ≤ g.addr) then some f else some g

/-- TD_FORMAT (R166, R173, R190). -/
def Desc.formatBad (x : Desc) : Bool :=
  (etypeOf x.etype).isNone || x.rank == 0 || x.rank == 7 || x.rsvd
    || ((x.dims.drop x.rank).any (· != 1)) || ((x.strides.drop (x.rank - 1)).any (· != 0))
    || x.compress == 3
    || (x.scaleBase != 0 && !hasScales x.ty)
    || (x.cap != 0 && x.compress == 0)
    || (x.blkdim == 1 && x.rank ≤ 1)
    || (x.compress == 1 && !([EType.bf16, .fp16, .fp32].contains x.ty))
    || (x.compress == 2 && !([EType.e4m3, .e5m2, .int8, .bf16, .fp16, .fp32, .int32].contains x.ty))

/-- TD_STRIDE (R173, R175). -/
def Desc.strideBad (x : Desc) (dest : Bool) : Bool :=
  if x.compress = 0 then
    [1, 2, 3, 4, 5].any (fun d => x.stride d == 0 && decide (1 < x.dim d) && !x.mayBcast d)
      || (dest && x.bcast != 0)
  else x.strides.any (· != 0) || x.bcast != 0 || x.scaleBase != 0

/-- TD_UNMAPPED and POWERED_OFF findings of one footprint (R169, R173, R174). -/
def spanFindings (p : Places) (fp : Nat × Nat) : List Finding :=
  let bad := match rangeEnd p fp.1 with
    | none => [mkFinding 0x24 fp.1]
    | some e => if fp.2 < e then [] else [mkFinding 0x24 e]
  match p.off fp.1 fp.2 with
  | none => bad
  | some a => ⟨0x24, 0x31, a⟩ :: bad

/-- The checks of one descriptor that are made whatever the operation writes (R166). -/
def Desc.formFindings (x : Desc) (dest : Bool) : List Finding :=
  (if x.formatBad then [mkFinding 0x20 x.base] else [])
    ++ (if x.base % 64 ≠ 0 then [mkFinding 0x21 x.base] else [])
    ++ (if x.scaleBase % 64 ≠ 0 then [mkFinding 0x21 x.scaleBase] else [])
    ++ (if x.strideBad dest then [mkFinding 0x22 x.base] else [])

/-- The checks of one descriptor that an operation with nothing to write omits (R166, R169). An empty tensor of an operation
that writes something, for which R169's formula can give a nonempty interval (DIM0 = 0, DIM1 > 1), has no footprint to
check (DESIGN CHOICE, log 96). -/
def Desc.placeFindings (x : Desc) (p : Places) (dest : Bool) : List Finding :=
  (if dest && x.compress == 0 && !x.nested then [mkFinding 0x23 x.base] else [])
    ++ (if x.empty then [] else x.prints.flatMap (spanFindings p))

end Sys2Proof.Machine
end

