-- ==== Sys2Proof/Machine/Compress.lean ====
section
/-! DEFINITION. Compressed storage (R190 to R197): the encoder and the checked decoder of a region. -/

namespace Sys2Proof.Machine

open Sys2Proof

/-- A byte string cut into pieces of n bytes, the last one shorter (R190). The first argument bounds the
number of pieces. -/
def cutInto (n : Nat) : Nat → List Byte → List (List Byte)
  | 0, _ => []
  | k + 1, bs => if bs.isEmpty then [] else bs.take n :: cutInto n k (bs.drop n)

/-- The compression units of an image (R190). -/
def compUnits (u : List Byte) : List (List Byte) := cutInto 4096 (u.length + 1) u

/-- The elements of a unit, each as its bytes. -/
def elemsOf (es : Nat) (bs : List Byte) : List (List Byte) := cutInto es (bs.length + 1) bs

/-- Is an element zero: all bits 0 (R194)? -/
def zeroElem (e : List Byte) : Bool := e.all (· == 0)

/-- Maximal stretches of equal zeroness: (zero, elements) (R195). -/
def stretches : List (List Byte) → List (Bool × List (List Byte))
  | [] => []
  | e :: es =>
    match stretches es with
    | (z, r) :: rest => if z = zeroElem e then (z, e :: r) :: rest else (zeroElem e, [e]) :: (z, r) :: rest
    | [] => [(zeroElem e, [e])]

/-- Isolated zeros joined to the literals around them: only runs of two or more stay ZRUNs (R195). -/
def joinSingles : List (Bool × List (List Byte)) → List (Bool × List (List Byte))
  | [] => []
  | (z, r) :: rest =>
    let z' := z && decide (2 ≤ r.length)
    match joinSingles rest with
    | (y, q) :: tl => if !z' && !y then (false, r ++ q) :: tl else (z', r) :: (y, q) :: tl
    | [] => [(z', r)]

/-- A 16-bit token and the literal elements it introduces, for a stretch of at most 32,768 elements (R194). -/
def tokenBytes (z : Bool) (r : List (List Byte)) : List Byte :=
  if z then leBytes 2 (r.length - 1) else leBytes 2 (0x8000 + (r.length - 1)) ++ r.flatten

/-- The zero-run payload of a unit (R195); a unit has at most 4,096 elements, so no stretch needs
splitting. -/
def zrunPayload (es : Nat) (cu : List Byte) : List Byte :=
  (joinSingles (stretches (elemsOf es cu))).flatMap (fun (z, r) => tokenBytes z r)

/-- The MXFP8 payload of a unit (R193). -/
def mxPayload (t : EType) (cu : List Byte) : List Byte :=
  let es := etypeBits t / 8
  let xs := (elemsOf es cu).map (fun e => widen t (ofLe e))
  let nb := ceilDiv xs.length 32
  let blocks := (List.range nb).map (fun b =>
    let g := (xs.drop (32 * b)).take 32
    mxBlock .mxe4m3 (g ++ List.replicate (32 - g.length) 0))
  blocks.flatMap (fun b => b.elems.map (fun c => BitVec.ofNat 8 c.code))
    ++ blocks.map (fun b => BitVec.ofNat 8 b.scale)

/-- Payload and coding of a unit (R192, R193). -/
def unitPayload (compress : Nat) (t : EType) (cu : List Byte) : List Byte × Nat :=
  if compress = 1 then (mxPayload t cu, 1)
  else
    let z := zrunPayload (etypeBits t / 8) cu
    if cu.length < z.length then (cu, 0) else (z, 2)

/-- A byte string padded with zeros to a multiple of 64. -/
def pad64 (bs : List Byte) : List Byte := padTo (roundUp bs.length 64) bs

/-- The index entries, from the offset of the first payload (R191). -/
def indexOf : Nat → List (List Byte × Nat) → List Byte
  | _, [] => []
  | off, (p, c) :: rest =>
    let n := ceilDiv p.length 64
    leBytes 8 (off + n * 2 ^ 40 + c * 2 ^ 56) ++ indexOf (off + 64 * n) rest

/-- The compressed region of an image (R191). -/
def compressRegion (compress : Nat) (t : EType) (u : List Byte) : List Byte :=
  let ps := (compUnits u).map (unitPayload compress t)
  let start := 64 + roundUp (8 * ps.length) 64
  let body := ps.flatMap (fun (p, _) => pad64 p)
  let hdr := leBytes 8 (start + body.length) ++ leBytes 8 u.length ++ leBytes 4 ps.length
    ++ leBytes 1 compress ++ leBytes 1 (etypeCode t)
  padTo 64 hdr ++ padTo (roundUp (8 * ps.length) 64) (indexOf start ps) ++ body

/-- The elements that a zero-run payload of n bytes gives, or the offset of the first inconsistent byte
(R194, R197). -/
def zrunDecode (es : Nat) : Nat → Nat → Nat → List Byte → Except Nat (List Byte)
  | 0, _, pos, _ => .error pos
  | fuel + 1, left, pos, bs =>
    if left = 0 then
      match bs.findIdx? (· != 0) with
      | some k => .error (pos + k)
      | none => .ok []
    else if bs.length < 2 then .error pos
    else
      let tok := leAt bs 0 2
      let n := tok % 0x8000 + 1
      let rest := bs.drop 2
      if left < n then .error pos
      else if tok < 0x8000 then
        match zrunDecode es fuel (left - n) (pos + 2) rest with
        | .ok r => .ok (List.replicate (n * es) 0 ++ r)
        | .error k => .error k
      else if rest.length < n * es then .error pos
      else
        match zrunDecode es fuel (left - n) (pos + 2 + n * es) (rest.drop (n * es)) with
        | .ok r => .ok (rest.take (n * es) ++ r)
        | .error k => .error k

/-- The elements of a unit of e elements stored MXFP8, converted to their type (R193, R80). R80 names no conversion
to FP32, and an FP32 element beyond FLT_MAX is clamped to it (DESIGN CHOICE, log 84). -/
def mxElems (t : EType) (e : Nat) (p : List Byte) : List Conv :=
  let nb := ceilDiv e 32
  (List.range e).map (fun k =>
    let c := leAt p k 1
    let sc := leAt p (nb * 32 + k / 32) 1
    match t, fmtOf t with
    | .fp32, _ =>
      let r := widenMx .mxe4m3 c sc
      { code := r.1.toNat, sat := r.2, nan := isNan32 r.1 }
    | t, some f =>
      match scaleFl (decodeEl .mxe4m3 c) sc with
      | .nan => { code := nanCode t, nan := true }
      | .inf s => { code := maxCode f + signCode f s, sat := true }
      | .fin s m ex =>
        let r := roundCode f m ex
        { code := (if maxCode f < r then maxCode f else r) + signCode f s, sat := decide (maxCode f < r) }
    | _, none => { code := 0 })

/-- The bytes of a unit stored MXFP8 (R193). -/
def mxDecode (t : EType) (n : Nat) (p : List Byte) : List Byte :=
  (mxElems t (n / (etypeBits t / 8)) p).flatMap (fun c => leBytes (etypeBits t / 8) c.code)

/-- Payload bytes of an MXFP8 unit of e elements, in 64-byte lines (R193). -/
def mxLines (e : Nat) : Nat := ceilDiv (ceilDiv e 32 * 33) 64

/-- The first byte of an index entry that cannot be that of a unit of cu bytes, of elements of es bytes, whose
payload starts at off (R191, R197): the offset, then the length for the coding, then the coding. -/
def entryBad (compress es cu off : Nat) (e : List Byte) : Option Nat :=
  let len := leAt e 5 1
  let coding := leAt e 7 1
  let lenOk :=
    if compress = 1 then len == mxLines (cu / es)
    else if coding = 0 then len == ceilDiv cu 64
    else decide (1 ≤ len ∧ len ≤ 64)
  let codingOk := if compress = 1 then coding == 1 else coding == 0 || coding == 2
  match (List.zipWith (· != ·) (leBytes 5 off) (e.take 5)).findIdx? (· == true) with
  | some k => some k
  | none =>
    if !lenOk then some 5 else if leAt e 6 1 ≠ 0 then some 6 else if codingOk then none else some 7

/-- The payloads' places from the index entries (R191, R197): offset and length in bytes and coding, or the
offset of the first inconsistent byte. n0 is the entry's number, off the offset its payload must have. No payload
lies past the USED bytes of the region (R191); a length that would is inconsistent in its low byte. -/
def readIndex (compress es : Nat) (region : Nat → Byte) (s used : Nat) :
    Nat → Nat → Nat → Except Nat (List (Nat × Nat × Nat))
  | 0, _, _ => .ok []
  | k + 1, n0, off =>
    let e := readFrom region (64 + 8 * n0) 8
    let len := 64 * leAt e 5 1
    match entryBad compress es (min 4096 (s - 4096 * n0)) off e with
    | some b => .error (64 + 8 * n0 + b)
    | none =>
      if used < off + len then .error (64 + 8 * n0 + 5)
      else match readIndex compress es region s used k (n0 + 1) (off + len) with
        | .ok r => .ok ((off, len, leAt e 7 1) :: r)
        | .error p => .error p

/-- The image of the units in order. -/
def decodeUnits (t : EType) (region : Nat → Byte) (s : Nat) :
    Nat → List (Nat × Nat × Nat) → Except Nat (List Byte)
  | _, [] => .ok []
  | n0, (off, len, coding) :: rest =>
    let cu := min 4096 (s - 4096 * n0)
    let es := etypeBits t / 8
    let p := readFrom region off len
    let u : Except Nat (List Byte) := match coding with
      | 0 => .ok (p.take cu)
      | 1 => .ok (mxDecode t cu p)
      | _ => match zrunDecode es (cu / es + 1) (cu / es) 0 p with
        | .ok b => .ok b
        | .error k => .error (off + k)
    match u, decodeUnits t region s (n0 + 1) rest with
    | .error k, _ => .error k
    | _, .error k => .error k
    | .ok a, .ok b => .ok (a ++ b)

/-- The bytes of a compressed source that are read: those in use, within its footprint (R169, R191). -/
def Desc.regionSpan (x : Desc) (rd : Nat → Byte) : Nat × Nat :=
  (x.base, min (x.cap * 64) (max 64 (ofLe (readFrom rd x.base 8))))

/-- The image of a compressed tensor, or the address of the first inconsistent byte (R197). -/
def decompress (rd : Nat → Byte) (x : Desc) : Except Nat (List Byte) :=
  let region := fun k => rd (x.base + k)
  let s := x.count * (etypeBits x.ty / 8)
  let n := ceilDiv s 4096
  let want := leBytes 8 s ++ leBytes 4 n ++ leBytes 1 x.compress ++ leBytes 1 x.etype
  let used := ofLe (readFrom region 0 8)
  if x.cap * 64 < used then .error x.base
  else match (List.zipWith (· != ·) want (readFrom region 8 14)).findIdx? (· == true) with
    | some k => .error (x.base + 8 + k)
    | none =>
      match readIndex x.compress (etypeBits x.ty / 8) region s used n 0 (64 + roundUp (8 * n) 64) with
      | .error k => .error (x.base + k)
      | .ok es => match decodeUnits x.ty region s 0 es with
        | .error k => .error (x.base + k)
        | .ok u => .ok u

/-- Elements of an image whose codes are NaN. -/
def nanCount (t : EType) (u : List Byte) : Nat :=
  ((elemsOf (etypeBits t / 8) u).filter (fun e => nanElem t (ofLe e) 0)).length

/-- Saturations and NaN results of a compressing COPY (R177, R193): MXFP8 units count as an MX destination, the others
the NaN codes they write. -/
def compressCounts (compress : Nat) (t : EType) (u : List Byte) : Nat × Nat :=
  if compress = 1 then
    let es := etypeBits t / 8
    (compUnits u).foldl (fun n cu =>
      let xs := (elemsOf es cu).map (fun e => widen t (ofLe e))
      (List.range (ceilDiv xs.length 32)).foldl (fun n b =>
        let g := (xs.drop (32 * b)).take 32
        let k := mxBlock .mxe4m3 (g ++ List.replicate (32 - g.length) 0)
        let es := g.zip k.elems
        (n.1 + (es.filter (fun p => isInf32 p.1 || (k.clamped && p.2.sat))).length,
          n.2 + (es.filter (fun p => k.scale == 255 || p.2.nan)).length)) n) (0, 0)
  else (0, nanCount t u)

/-- Saturations and NaN results of a decompressing COPY (R177, R193): an MXFP8 element saturates where its conversion
under R80 clamps it, and every NaN counts. -/
def decompressCounts (rd : Nat → Byte) (x : Desc) (u : List Byte) : Nat × Nat :=
  let es := etypeBits x.ty / 8
  let sats :=
    if x.compress = 1 then
      (List.range (ceilDiv u.length 4096)).foldl (fun (acc : Nat × Nat) n =>
        let e := min 4096 (u.length - 4096 * n) / es
        let p := readFrom rd (x.base + acc.2) (64 * mxLines e)
        (acc.1 + ((mxElems x.ty e p).filter (·.sat)).length, acc.2 + 64 * mxLines e))
        (0, 64 + roundUp (8 * ceilDiv u.length 4096) 64)
    else (0, 0)
  (sats.1, nanCount x.ty u)

end Sys2Proof.Machine
end

