-- ==== Sys2Proof/Machine/Move.lean ====
section
/-! DEFINITION. The movement operations (R176 to R187): their shape rules, and the bytes each one writes.
An operation answers the bytes to write as (address, byte) pairs, or the violation that refuses it. -/

namespace Sys2Proof.Machine

open Sys2Proof

/-- The codes of MOVE_OP (R176). -/
inductive MoveOp where
  | copy
  | permute
  | gather
  | scatter
  deriving DecidableEq, Repr

/-- The operation a MOVE_OP code names. -/
def moveOpOf : Nat → Option MoveOp
  | 1 => some .copy
  | 2 => some .permute
  | 3 => some .gather
  | 4 => some .scatter
  | _ => none

/-- A movement operation with its descriptors read (R176). idxBase of GATHER and SCATTER_ACC is the index
descriptor. -/
structure Movement where
  op : Option MoveOp
  gdim : Nat
  perm : Nat
  src : Desc
  dst : Desc
  idx : Desc
  deriving DecidableEq, Repr

/-- π(d) (R176). -/
def Movement.pi (m : Movement) (d : Nat) : Nat := m.perm / 2 ^ (3 * d) % 8

/-- Is π a permutation of 0 to rank − 1 that leaves the rest in place (R179)? -/
def Movement.permOk (m : Movement) : Bool :=
  let r := m.src.rank
  (List.range 6).all (fun d =>
    if d < r then (List.range r).any (fun e => m.pi e == d) && decide (m.pi d < r) else m.pi d == d)

/-- The block rule of PERMUTE (R179). -/
def Movement.permBlocks (m : Movement) (srcBlk dstBlk : Nat) : Bool :=
  if !hasScales m.src.ty then true
  else if m.pi 0 == 0 && m.pi 1 == 1 then srcBlk == dstBlk
  else if m.pi 0 == 1 && m.pi 1 == 0 then
    srcBlk != dstBlk && [EType.mxe4m3, .mxint8].contains m.src.ty
  else m.pi srcBlk == srcBlk && srcBlk == dstBlk

/-- The dimensions of x but GDIM equal those of y, and GDIM is n. -/
def sameBut (x y : Desc) (g n : Nat) : Bool :=
  (List.range 6).all (fun d => if d = g then x.dim d == n else x.dim d == y.dim d)

/-- Can COPY convert between two types (R177)? -/
def copyTypes (s d : EType) : Bool :=
  s == d || (!([EType.mlo, .fwp].contains s) && !([EType.mlo, .fwp, .mhi].contains d))

/-- The pairs of SCATTER_ACC (R184). -/
def scatterTypes (d u : EType) : Bool :=
  match d with
  | .fp32 => [EType.fp32, .bf16, .fp16].contains u
  | .int32 => u == .int32
  | .fwp => u == .fwp
  | _ => false

/-- The rule of the operation's shapes, types and parameters (R176 to R184). The spec gives compression to COPY alone
(R178) and no result for the others with a compressed descriptor: they are refused (DESIGN CHOICE, log 84). R179 says that
codes move unchanged and R181 states no type rule: a PERMUTE or GATHER between different element types is refused as well
(DESIGN CHOICE, log 96). -/
def Movement.shapeOk (m : Movement) : Bool :=
  match m.op with
  | none => false
  | some .copy =>
    m.src.dims == m.dst.dims && copyTypes m.src.ty m.dst.ty
      && (if m.src.compress ≠ 0 ∨ m.dst.compress ≠ 0 then
            m.src.etype == m.dst.etype && (m.src.compress == 0 || m.dst.compress == 0)
          else true)
  | some .permute =>
    m.permOk && m.src.compress == 0 && m.dst.compress == 0 && m.src.etype == m.dst.etype
      && (List.range 6).all (fun d => m.dst.dim d == m.src.dim (m.pi d))
      && (if [EType.fwp, .bfx32, .mxe3m2, .mxe2m3, .mxfp4].contains m.src.ty then m.pi 0 == 0 else true)
      && m.permBlocks m.src.blkdim m.dst.blkdim
  | some .gather =>
    let n := m.idx.count
    m.idx.ty == .int32 && m.src.compress == 0 && m.dst.compress == 0 && m.idx.compress == 0
      && m.src.etype == m.dst.etype
      && decide (1 ≤ m.gdim ∧ m.gdim < m.src.rank) && sameBut m.dst m.src m.gdim n
      && (decide (n = 0) || m.src.dim m.gdim != 0)
      && (if hasScales m.src.ty then
            m.src.blkdim == m.dst.blkdim && !(m.src.blkdim == 1 && m.gdim == 1)
          else true)
  | some .scatter =>
    m.idx.ty == .int32 && m.src.compress == 0 && m.dst.compress == 0 && m.idx.compress == 0
      && (etypeOf m.src.etype).isSome && scatterTypes m.dst.ty m.src.ty
      && decide (1 ≤ m.gdim ∧ m.gdim < m.dst.rank) && sameBut m.src m.dst m.gdim m.idx.count

/-- Does the operation read an index tensor? -/
def Movement.usesIdx (m : Movement) : Bool := m.op == some .gather || m.op == some .scatter

/-- Nothing to write (R166). -/
def Movement.nothing (m : Movement) : Bool :=
  m.dst.empty || (m.op == some .scatter && m.src.empty)

/-- Index element j, as a signed number, and its address (R181). -/
def Movement.index (m : Movement) (rd : Nat → Byte) (j : Nat) : Int × Nat :=
  match unravel m.idx.dims j with
  | i0 :: idx => (signed 32 (m.idx.codeAt rd i0 idx), m.idx.rowAddr idx + 4 * i0)
  | [] => (0, 0)

/-- IDX_RANGE of GATHER in strict mode and of SCATTER_ACC (R182, R185): the address of the lowest such j. -/
def Movement.indexBad (m : Movement) (rd : Nat → Byte) : Option Nat :=
  let dim := if m.op == some .scatter then m.dst.dim m.gdim else m.src.dim m.gdim
  if m.op == some .scatter || (m.op == some .gather && m.src.strict) then
    ((List.range m.idx.count).find? (fun j =>
      let i := (m.index rd j).1
      decide (i < 0 ∨ (dim : Int) ≤ i))).map (fun j => (m.index rd j).2)
  else none

/-- First byte of the overlap of two intervals. -/
def overlap (a b : Nat × Nat) : Option Nat :=
  if a.1 ≤ b.2 ∧ b.1 ≤ a.2 then some (max a.1 b.1) else none

/-- Does a COPY convert (R177)? -/
def Movement.converts (m : Movement) : Bool :=
  m.op == some .copy
    && (m.src.etype != m.dst.etype || (hasScales m.src.ty && m.src.blkdim != m.dst.blkdim))

/-- Does the operation read the scale array of its destination: a conversion to type 0x41 (R177 step 2)? -/
def Movement.readsScales (m : Movement) : Bool := m.converts && m.dst.ty == .bfx32

/-- TD_OVERLAP (R187). -/
def Movement.overlaps (m : Movement) : List Finding :=
  let reads := m.src.prints ++ (if m.usesIdx then m.idx.prints else [])
    ++ (if m.readsScales then m.dst.scalePrint.toList else [])
  let writes := if m.readsScales then [m.dst.footprint] else m.dst.prints
  writes.flatMap (fun w => reads.filterMap (fun r => (overlap w r).map (mkFinding 0x26)))

/-- Every failed check of an operation (R166, R172, R173). -/
def Movement.findings (m : Movement) (rd : Nat → Byte) (p : Places) : List Finding :=
  let form := m.src.formFindings false ++ m.dst.formFindings true
    ++ (if m.usesIdx then m.idx.formFindings false else [])
    ++ (if m.shapeOk then [] else [mkFinding 0x25 m.dst.base])
  if m.nothing then form
  else
    form ++ m.src.placeFindings p false ++ m.dst.placeFindings p true
      ++ (if m.usesIdx then m.idx.placeFindings p false else [])
      ++ (if m.op == some .scatter && inWindow m.dst.base then [mkFinding 0x24 m.dst.base] else [])
      ++ m.overlaps
      ++ (if form.isEmpty then
            ((m.indexBad rd).map (mkFinding 0x27)).toList
          else [])

/-- The source element that a destination element of COPY, PERMUTE or GATHER takes: i0 and (i1 … i5). -/
def Movement.srcElem (m : Movement) (rd : Nat → Byte) (i0 : Nat) (idx : List Nat) : Nat × List Nat :=
  match m.op with
  | some .permute =>
    let at_ := fun d => ((List.range 6).find? (fun e => m.pi e == d)).elim 0 (fun e => indexAt i0 idx e)
    (at_ 0, [1, 2, 3, 4, 5].map at_)
  | some .gather =>
    let j := indexAt i0 idx m.gdim
    let dim := m.src.dim m.gdim
    let i := (m.index rd j).1
    let k := if i < 0 then 0 else min i.toNat (dim - 1)
    (i0, idx.set (m.gdim - 1) k)
  | _ => (i0, idx)

/-- One element of a source widened to FP32 (R177 step 1), and whether it was clamped. An element of type 0x41 in a
block of scale byte 0xFF has no stated value: open, log 83. -/
def widenElem (x : Desc) (rd : Nat → Byte) (i0 : Nat) (idx : List Nat) : Lane × Bool :=
  let code := x.codeAt rd i0 idx
  let sc := (rd (x.scaleAddr i0 idx)).toNat
  if isMx x.ty then widenMx x.ty code sc
  else if x.ty == .bfx32 then
    if sc = 255 then (Config.bfxOpen (BitVec.ofNat 32 code), false) else (round32Fl (ofBfx code sc), false)
  else (widen x.ty code, false)

/-- The element positions of an MX destination block, along the block dimension (R170). -/
def blockElems (x : Desc) (i0 : Nat) (idx : List Nat) : List (Nat × List Nat) :=
  if x.blkdim = 0 then
    (List.range (min 32 (x.dim 0 - i0 / 32 * 32))).map (fun k => (i0 / 32 * 32 + k, idx))
  else
    let b := indexAt i0 idx 1 / 32 * 32
    (List.range (min 32 (x.dim 1 - b))).map (fun k => (i0, idx.set 0 (b + k)))

/-- The MX block of a destination element under a converting COPY (R177, R81). -/
def Movement.destBlock (m : Movement) (rd : Nat → Byte) (i0 : Nat) (idx : List Nat) : MxBlock :=
  mxBlock m.dst.ty ((blockElems m.dst i0 idx).map (fun (k, ix) => (widenElem m.src rd k ix).1))

/-- A destination element of a converting COPY: code, saturation and NaN counts (R177). -/
def Movement.convElem (m : Movement) (rd : Nat → Byte) (i0 : Nat) (idx : List Nat) : Conv :=
  let (v, cl) := widenElem m.src rd i0 idx
  if isMx m.dst.ty then
    let b := m.destBlock rd i0 idx
    let k := if m.dst.blkdim = 0 then i0 % 32 else indexAt i0 idx 1 % 32
    let e := b.elems.getD k { code := 0 }
    { code := e.code, sat := cl || isInf32 v || (b.clamped && e.sat), nan := b.scale == 255 || e.nan }
  else if m.dst.ty == .bfx32 then
    let bx := (rd (m.dst.scaleAddr i0 idx)).toNat
    if bx = 255 then { code := 0, sat := cl, nan := true }
    else let c := toBfx v bx; { c with sat := cl || c.sat }
  else match convert m.dst.ty v with
    | some c => { c with sat := cl || c.sat, nan := c.nan || (m.dst.ty == .fp32 && isNan32 v) }
    | none => { code := 0 }

/-- A destination element of COPY, PERMUTE or GATHER; a COPY counts the NaN codes it writes (R177). -/
def Movement.elem (m : Movement) (rd : Nat → Byte) (i0 : Nat) (idx : List Nat) : Conv :=
  if m.converts then m.convElem rd i0 idx
  else
    let (k, ix) := m.srcElem rd i0 idx
    let code := m.src.codeAt rd k ix
    { code := code
      nan := m.op == some .copy
        && nanElem m.src.ty code (if hasScales m.src.ty then (rd (m.src.scaleAddr k ix)).toNat else 0) }

/-- Destination row n of COPY, PERMUTE or GATHER. -/
def Movement.row (m : Movement) (rd : Nat → Byte) (n : Nat) : List Conv :=
  (List.range (m.dst.dim 0)).map (fun i0 => m.elem rd i0 (m.dst.rowIdx n))

/-- Bytes at consecutive addresses. -/
def bytesAt (a : Nat) : List Byte → List (Nat × Byte)
  | [] => []
  | b :: bs => (a, b) :: bytesAt (a + 1) bs

/-- The scale bytes the destination receives: those of an MX conversion, or the source's moved with their
blocks; a bfx32 conversion writes none (R177, R179, R181). -/
def Movement.scaleWrites (m : Movement) (rd : Nat → Byte) : List (Nat × Byte) :=
  if !hasScales m.dst.ty || (m.converts && !isMx m.dst.ty) then []
  else
    (List.range m.dst.rows).flatMap (fun n =>
      let idx := m.dst.rowIdx n
      let lead := if m.dst.blkdim = 0 then true else indexAt 0 idx 1 % 32 == 0
      if !lead then []
      else
        ((List.range (m.dst.dim 0)).filter (fun i0 => m.dst.blkdim == 1 || i0 % 32 == 0)).map (fun i0 =>
          let b : Byte := if m.converts then BitVec.ofNat 8 (m.destBlock rd i0 idx).scale
            else let (k, ix) := m.srcElem rd i0 idx; rd (m.src.scaleAddr k ix)
          (m.dst.scaleAddr i0 idx, b)))

/-- The logical image of an uncompressed tensor end: element bytes in logical order (R190). -/
def logicalImage (x : Desc) (rd : Nat → Byte) : List Byte :=
  (List.range x.rows).flatMap (fun n => readFrom rd (x.rowAddr (x.rowIdx n)) x.rowBytes)

/-- What an operation writes, in order, with its saturation and NaN counts. -/
structure Moved where
  writes : List (Nat × Byte)
  sats : Nat := 0
  nans : Nat := 0
  deriving DecidableEq, Repr

/-- The bytes of a logical image laid into a tensor's rows. -/
def layRows (x : Desc) (u : List Byte) : List (Nat × Byte) :=
  (List.range x.rows).flatMap (fun n =>
    bytesAt (x.rowAddr (x.rowIdx n)) (slice u (n * x.rowBytes) x.rowBytes))

/-- COPY, PERMUTE and GATHER between accepted descriptors (R177 to R183, R190 to R197). -/
def Movement.apply (m : Movement) (rd : Nat → Byte) : Except (Nat × Nat) Moved :=
  if m.src.compress ≠ 0 then
    match decompress rd m.src with
    | .error a => .error (0x29, a)
    | .ok u =>
      let n := decompressCounts rd m.src u
      .ok { writes := layRows m.dst u, sats := n.1, nans := n.2 }
  else if m.dst.compress ≠ 0 then
    let u := logicalImage m.src rd
    let r := compressRegion m.dst.compress m.dst.ty u
    let n := compressCounts m.dst.compress m.dst.ty u
    if m.dst.cap * 64 < r.length then .error (0x28, m.dst.base + m.dst.cap * 64)
    else .ok { writes := bytesAt m.dst.base r, sats := n.1, nans := n.2 }
  else
    let rows := (List.range m.dst.rows).map (fun n => (n, m.row rd n))
    .ok
      { writes := rows.flatMap (fun (n, cs) =>
          bytesAt (m.dst.rowAddr (m.dst.rowIdx n)) (rowOfCodes m.dst.ty (cs.map (·.code))))
          ++ m.scaleWrites rd
        sats := (rows.map (fun (_, cs) => (cs.filter (·.sat)).length)).foldl (· + ·) 0
        nans := (rows.map (fun (_, cs) => (cs.filter (·.nan)).length)).foldl (· + ·) 0 }

/-- One update of a destination element (R184): the bytes of d, the type and code of u; whether an INT32
add saturated. -/
def scatterElem (t : EType) (d : Nat) (ut : EType) (u : Nat) : Nat × Bool :=
  match t with
  | .int32 =>
    clampInt 32 (-(2 ^ 31)) (2 ^ 31 - 1) (signed 32 d + signed 32 u)
  | .fwp =>
    let c := fun (x : Nat) => ({ s := BitVec.ofNat 32 x, f := BitVec.ofNat 16 (x / 2 ^ 32) } : Cell)
    let r := partialAdd (c d) (c u)
    (r.cell.s.toNat + 2 ^ 32 * r.cell.f.toNat, false)
  | _ => ((fadd (BitVec.ofNat 32 d) (widen ut u)).toNat, false)

/-- The bytes of one element of a row at its place: (address, bytes) (R168). -/
def elemBytes (x : Desc) (i0 : Nat) (idx : List Nat) (code : Nat) : List (Nat × Byte) :=
  let a := x.rowAddr idx
  match x.ty with
  | .fwp =>
    let g := a + i0 / 32 * 192
    bytesAt (g + i0 % 32 * 4) (leBytes 4 code) ++ bytesAt (g + 128 + i0 % 32 * 2) (leBytes 2 (code / 2 ^ 32))
  | t => bytesAt (a + i0 * (etypeBits t / 8)) (leBytes (etypeBits t / 8) code)

/-- The destination element that update element (i0, idx) of U goes to (R184). -/
def Movement.scatterDest (m : Movement) (rd : Nat → Byte) (i0 : Nat) (idx : List Nat) : Nat × List Nat :=
  (i0, idx.set (m.gdim - 1) (m.index rd (indexAt i0 idx m.gdim)).1.toNat)

end Sys2Proof.Machine
end

