-- ==== Sys2Proof/Machine/Operands.lean ====
section
/-! DEFINITION. Operand forms that several commands share: rectangles of logical cores (R137), physical core
IDs and sites (R4 to R8), and the bytes of event records (R257). -/

namespace Sys2Proof.Machine

open Sys2Proof

/-- A rectangle of logical cores. -/
structure Rect where
  x0 : Nat
  y0 : Nat
  x1 : Nat
  y1 : Nat
  deriving DecidableEq, Repr

/-- The rectangle a word encodes (R137). -/
def rectOf (w : Nat) : Rect :=
  { x0 := w % 128, y0 := w / 2 ^ 8 % 128, x1 := w / 2 ^ 16 % 128, y1 := w / 2 ^ 24 % 128 }

/-- The encoding of a rectangle (R137). -/
def Rect.word (r : Rect) : Nat := r.x0 + r.y0 * 2 ^ 8 + r.x1 * 2 ^ 16 + r.y1 * 2 ^ 24

/-- Is a word the encoding of an ordered rectangle (R137)? -/
def rectOk (w : Nat) : Bool :=
  let r := rectOf w
  r.word == w && decide (r.x0 ≤ r.x1 ∧ r.y0 ≤ r.y1)

/-- The cores of a rectangle, row by row. -/
def Rect.cells (r : Rect) : List (Nat × Nat) :=
  (List.range (r.y1 + 1 - r.y0)).flatMap (fun dy =>
    (List.range (r.x1 + 1 - r.x0)).map (fun dx => (r.x0 + dx, r.y0 + dy)))

/-- A rectangle moved by an origin (R239). -/
def Rect.shift (r : Rect) (o : Nat × Nat) : Rect :=
  { x0 := r.x0 + o.1, y0 := r.y0 + o.2, x1 := r.x1 + o.1, y1 := r.y1 + o.2 }

/-- Is one rectangle inside another? -/
def Rect.inside (r o : Rect) : Bool :=
  decide (o.x0 ≤ r.x0 ∧ r.x1 ≤ o.x1 ∧ o.y0 ≤ r.y0 ∧ r.y1 ≤ o.y1)

/-- The compute die, physical row and physical column of a physical core ID (R6). -/
def dieOfCore (c : Nat) : Nat := c / 1024
def rowOfCore (c : Nat) : Nat := c / 32 % 32
def colOfCore (c : Nat) : Nat := c % 32

/-- The number of a physical row among all rows of the module: die × 32 + row. -/
def rowKey (c : Nat) : Nat := c / 32

/-- Is there a core site with this ID (R6)? -/
def siteExists (c : Nat) : Bool := decide (dieOfCore c < 12) && decide (rowOfCore c < 30)

/-- Is a die index one of Table 2 of R4? -/
def dieExists (d : Nat) : Bool :=
  decide (d < 12 ∨ (16 ≤ d ∧ d < 24) ∨ (32 ≤ d ∧ d < 50) ∨ d = 56 ∨ d = 60)

/-- The power domain of a die (R386). -/
def domOf (d : Nat) : Option Nat :=
  if d < 12 then some d
  else if 16 ≤ d ∧ d < 24 then some (12 + (d - 16) / 4)
  else if 32 ≤ d ∧ d < 48 then some (14 + (d - 32) / 8)
  else if d = 48 then some 16
  else if d = 49 then some 17
  else if d = 56 then some 18
  else if d = 60 then some 19
  else none

/-- The dies of the module, by index. -/
def allDies : List Nat :=
  List.range 12 ++ (List.range 8).map (· + 16) ++ (List.range 18).map (· + 32) ++ [56, 60]

/-- The die and the unit number of an origin, as violation records name them (R416). -/
def originDie : Origin → Nat
  | .helm _ => 56
  | .operator => 60
  | .core c => dieOfCore c
  | .port p => 48 + p.val / 4
  | .frontEnd _ => 56
def originUnit : Origin → Nat
  | .helm h => h.val
  | .operator => 0
  | .core c => c
  | .port p => p.val
  | .frontEnd n => n.val

/-- The 64 bytes of a record in a pass with this phase bit (R257). -/
def Rec.bytes (r : Rec) (phase : Nat) : List Byte :=
  [BitVec.ofNat 8 r.type, BitVec.ofNat 8 phase, BitVec.ofNat 8 r.region, 0] ++ leBytes 4 r.tag.toNat
    ++ leBytes 8 r.strike.toNat ++ leBytes 2 r.queue ++ leBytes 2 r.status ++ leBytes 4 r.task
    ++ padTo 40 r.payload

/-- Is the record the one done record of an entry (R358)? -/
def Rec.isDone (r : Rec) : Bool := r.type == 2 || r.type == 3

end Sys2Proof.Machine
end

