-- ==== Sys2Proof/Machine/Ops.lean ====
section
/-! DEFINITION. The named operations over the module's state: cores, memory, dies and domains, the core grid,
event records, the module log and violations. -/

namespace Sys2Proof.Machine

open Sys2Proof

/-- What a step answers. -/
abbrev Out := Host.Outcome State Fault Refusal

/-- An event that happens, or whose condition does not hold, so that nothing happens (log 13). -/
def State.happens (s : State) : Option State → Out
  | some t => .next t
  | none => .next s

/-! Cores. -/

/-- A core site. -/
def State.core (s : State) (c : Nat) : Core := Assoc.get {} s.cores c

/-- A core's copy of the strike counter (R16, R111): the counter, or one strike behind it (log 85). -/
def State.coreStrike (s : State) (c : Nat) : Word :=
  if s.strike = 0 ∨ Config.strikeLag c = false then s.strike else s.strike - 1

/-- A core site replaced. -/
def State.setCore (s : State) (c : Nat) (k : Core) : State := { s with cores := Assoc.set s.cores c k }

/-- The model's cycle count moved on to a cycle, never back. -/
def State.at_ (s : State) (t : Nat) : State := { s with aclk := max s.aclk t }

/-! Memory. -/

/-- First address of the central store and of the core windows (R341). -/
def storeBase : Nat := 0x100000000000
def windowBase : Nat := 0x200000000000
def regBase : Nat := 0x300000000000
/-- End of mapped external memory and of the central store. -/
def extEnd : Nat := 0x05FA00000000
def storeEnd : Nat := 0x100200000000

/-- First address of the stream pool (R198). -/
def State.poolStart (s : State) : Nat := storeEnd - 8 * s.store.pool * 2 ^ 24

/-- A byte of external memory or the central store, or of local memory through its core window. -/
def State.byte (s : State) (a : Nat) : Byte :=
  if windowBase ≤ a ∧ a < regBase then
    Assoc.get 0 (s.core ((a - windowBase) / 0x80000)).lm ((a - windowBase) % 0x80000)
  else Assoc.get 0 s.mem a

/-- n bytes from an address. -/
def State.bytes (s : State) (a n : Nat) : List Byte := readFrom s.byte a n

/-- A byte written. -/
def State.setByte (s : State) (a : Nat) (b : Byte) : State :=
  if windowBase ≤ a ∧ a < regBase then
    let c := (a - windowBase) / 0x80000
    let k := s.core c
    s.setCore c (k.lmPut ((a - windowBase) % 0x80000) [b])
  else { s with mem := Assoc.put 0 s.mem a b }

/-- (address, byte) pairs written in order. -/
def State.setBytes (s : State) (ws : List (Nat × Byte)) : State :=
  ws.foldl (fun s w => s.setByte w.1 w.2) s

/-- Consecutive bytes written. -/
def State.putBytes (s : State) (a : Nat) (bs : List Byte) : State := s.setBytes (bytesAt a bs)

/-- The little-endian number of n bytes at an address. -/
def State.num (s : State) (a n : Nat) : Nat := ofLe (s.bytes a n)

/-- A free value used: the next index (log 3). -/
def State.useFree (s : State) (n : Nat) : State := { s with free := s.free + n }

/-! Dies and domains (R17, R18, R386). -/

/-- Is a domain on? -/
def State.domOn (s : State) (d : Nat) : Bool := bit s.power.state d

/-- Is a die's domain on? -/
def State.dieOn (s : State) (d : Nat) : Bool :=
  match domOf d with
  | some k => s.domOn k
  | none => false

/-- The store die that holds a line of the central store (R13). -/
def storeDie (a : Nat) : Nat := a / 4096 % 8

/-- The channel that holds a granule of external memory, and its memory-port die (R342, R343). -/
def channelOf (a : Nat) : Nat := a / 256 % 384
def portOf (a : Nat) : Nat := channelOf a % 16

/-! Reaches and scopes (R374 to R378, Table 6 of file 15). -/

/-- Codes of the reaches, widest first. -/
def rPower : Nat := 0
def rModule : Nat := 1
def rFabric : Nat := 2
def rDie : Nat := 3
def rCore : Nat := 4

/-- The dies in the scope of a reach. -/
def scopeDies (reach die : Nat) : List Nat :=
  if reach = rPower ∨ reach = rModule then allDies
  else if reach = rFabric then List.range 12 ++ (List.range 8).map (· + 16) ++ [48, 49]
  else if reach = rDie then [die]
  else []

/-- Do two scopes overlap (R377)? -/
def scopesMeet (r1 d1 c1 r2 d2 c2 : Nat) : Bool :=
  if r1 = rCore then
    if r2 = rCore then decide (c1 = c2) else (scopeDies r2 d2).contains (dieOfCore c1)
  else if r2 = rCore then (scopeDies r1 d1).contains (dieOfCore c2)
  else (scopeDies r1 d1).any (fun d => (scopeDies r2 d2).contains d)

/-- Has an episode already released a die: the store dies of a FABRIC episode come first (R379)? -/
def Episode.freed (e : Episode) (d : Nat) : Bool :=
  decide (0 < e.released) && e.reach == rFabric && decide (16 ≤ d ∧ d < 24)

/-- Does an open episode hold a die in reset? -/
def State.inEpisode (s : State) (d : Nat) : Bool :=
  s.resets.episodes.any (fun e => (scopeDies e.reach e.die).contains d && !(e.freed d))

/-- Is a die, or a core site, in reset? -/
def State.dieInReset (s : State) (d : Nat) : Bool := s.inEpisode d || s.resets.held.contains d
def State.coreInReset (s : State) (c : Nat) : Bool :=
  s.resets.episodes.any (fun e => scopesMeet e.reach e.die e.core rCore 0 c)
    || s.resets.held.contains (dieOfCore c)

/-- The switchable node by which a die works on the fabric: NCLK of a compute die, SCLK, LCLK, the helm fabric clock
(Table 1 of file 15). -/
def fabricNode (d : Nat) : Option Nat :=
  if d < 12 then some (16 + d) else if 16 ≤ d ∧ d < 24 then some (12 + d) else if d = 48 ∨ d = 49 then some (4 + d)
  else if d = 56 then some 55 else none

/-- Does a die get no edge, because its clock's source is being switched (R368)? -/
def State.inGap (s : State) (d : Nat) : Bool :=
  (fabricNode d).any (fun k => (Assoc.get {} s.clock.nodes k).switching.isSome)

/-- Is a FABRIC episode open: external memory is in self-refresh, and accesses to it wait (R376)? -/
def State.fabricOpen (s : State) : Bool := s.resets.episodes.any (fun e => e.reach == rFabric)

/-! The core grid (R5 to R8, R24, R336 to R339). -/

/-- The row map of a row by its key. -/
def State.rowMap (s : State) (key : Nat) : RowMap := Assoc.get {} s.grid.rows key

/-- Is the site active in the row map in force? -/
def State.siteActive (s : State) (c : Nat) : Bool := bit (s.rowMap (rowKey c)).active (colOfCore c)

/-- Active columns of a map, lowest first. -/
def activeCols (m : BitVec 32) : List Nat := (List.range 32).filter (fun n => bit m n)

/-- The logical coordinates of an active site (R7, R8). -/
def State.logicalOf (s : State) (c : Nat) : Option (Nat × Nat) :=
  let m := (s.rowMap (rowKey c)).active
  if bit m (colOfCore c) then
    let rank := ((List.range (colOfCore c)).filter (fun n => bit m n)).length
    some (30 * (dieOfCore c % 4) + rank, 30 * (dieOfCore c / 4) + rowOfCore c)
  else none

/-- The compute die of a logical core, and the key of its row. -/
def dieOfXY (x y : Nat) : Nat := y / 30 * 4 + x / 30
def rowOfXY (x y : Nat) : Nat := dieOfXY x y * 32 + y % 30

/-- The physical core ID of a logical core under the row map in force; none where the row is short (R339). -/
def State.physOf (s : State) (x y : Nat) : Option Nat :=
  if x < 120 ∧ y < 90 then
    ((activeCols (s.rowMap (rowOfXY x y)).active)[x % 30]?).map (fun col => rowOfXY x y * 32 + col)
  else none

/-- The ACTIVE columns a row has decided: in force, or waiting to take effect (R338). -/
def RowMap.decided (m : RowMap) : BitVec 32 :=
  match m.next with
  | some (_, a) => a
  | none => m.active

/-- The failed sites that a row has decided (R338). -/
def RowMap.decidedFailed (m : RowMap) : BitVec 32 :=
  match m.next with
  | some (f, _) => f
  | none => m.failed

/-- Is a logical core in the usable logical grid (R24, R339, R410, Table 1 of file 16)? -/
def State.usable (s : State) (x y : Nat) : Bool :=
  decide (x < 120 ∧ y < 90)
    && decide (x % 30 < (activeCols (s.rowMap (rowOfXY x y)).decided).length)
    && !(s.grid.diesOut.contains (dieOfXY x y)) && s.domOn (dieOfXY x y)

/-- The regions, defined (R251, R455). -/
def State.region (s : State) (r : Nat) : Region := Assoc.get {} s.ge.regions r
def Region.valid (r : Region) : Bool := bit r.def_ 63
def Region.eq (r : Region) : Nat := bits r.def_ 40 8

/-- The compute dies of a region (R251). -/
def Region.dies (r : Region) : List Nat :=
  if !r.valid then []
  else if bit r.def_ 62 then (List.range 12).filter (fun n => bit r.def_ n)
  else [bits r.def_ 16 4]

/-- Does a region hold a local logical row of a die? -/
def Region.holds (r : Region) (die row : Nat) : Bool :=
  r.valid && (if bit r.def_ 62 then bit r.def_ die && decide (die < 12)
    else decide (bits r.def_ 16 4 = die ∧ bits r.def_ 24 5 ≤ row ∧ row ≤ bits r.def_ 32 5))

/-- Does some region hold a row by its key? -/
def State.rowInRegion (s : State) (key : Nat) : Bool :=
  (List.range 64).any (fun r => (s.region r).holds (key / 32) (key % 32))

/-! Records (R257, R355 to R359, R417). -/

/-- A record written to the module log (R417). -/
def State.mlog (s : State) (r : Rec) : State :=
  { s with logs := { s.logs with
      mlog := Assoc.set s.logs.mlog (s.logs.mcount.n.toNat % 4096) r
      mcount := s.logs.mcount.tick } }

/-- A module-log record whose TYPE the manual does not give: it is a free value (log 14). -/
def State.mlogOpen (s : State) (r : Rec) : State :=
  (s.mlog { r with type := (Config.freeWord s.free).toNat % 256 }).useFree 1

/-- An event queue. -/
def State.eq (s : State) (e : Nat) : EventQueue := Assoc.get {} s.logs.eqs e

/-- An event queue replaced. -/
def State.setEq (s : State) (e : Nat) (q : EventQueue) : State :=
  { s with logs := { s.logs with eqs := Assoc.set s.logs.eqs e q } }

/-- Free slots of the ring (R357). -/
def EventQueue.space (q : EventQueue) : Nat := 2 ^ q.depth - (q.tail - q.head).toNat

/-- Free slots for the records that wait: an EVENTS_LOST that is due takes the first that the records ahead of it leave
(R358). -/
def EventQueue.room (q : EventQueue) : Nat := q.space - b2n (decide (q.lostSince ≠ {} ∧ q.ahead < q.space))

/-- A record generated for an enabled queue (R358): it waits to be written; past the ring's free slots it
takes a place of the pending buffer of 64, and past that a record that is no done record is dropped. -/
def EventQueue.take (q : EventQueue) (r : Rec) : EventQueue :=
  let past := q.pending.length + 1 - q.room
  let keep := { q with pending := q.pending ++ [r] }
  if past = 0 then keep
  else if past ≤ 64 then { keep with sc := keep.sc.event 1 }
  else if r.isDone then
    { q with pending := q.pending ++ [{ r with late := true }], sc := q.sc.event 1 }
  else
    { q with
      lost := q.lost.tick, lostSince := q.lostSince.tick, sc := q.sc.event 2
      ahead := if q.lostSince = {} then q.space else q.ahead }

/-- A record generated for an event queue; a queue that is not enabled drops and counts it (R356). -/
def State.toEq (s : State) (e : Nat) (r : Rec) : State :=
  let q := s.eq e
  s.setEq e (if q.enable then q.take r else { q with lost := q.lost.tick })

/-- A record for event queue 0 if that queue is enabled. -/
def State.toEq0 (s : State) (r : Rec) : State := if (s.eq 0).enable then s.toEq 0 r else s

/-- A record for a region's event queue and the module log (R251). -/
def State.toRegion (s : State) (r : Nat) (x : Rec) : State :=
  (s.toEq (s.region r).eq { x with region := r }).mlog { x with region := r }

/-- A record for event queue 0 if enabled, and always for the module log. -/
def State.toEq0Log (s : State) (r : Rec) : State := (s.toEq0 r).mlog r

/-- The REFUSED record of R443. -/
def State.refused (s : State) (addr : Nat) (v : Word) (die : Nat) : State :=
  s.mlog { type := 0x35, strike := s.strike,
           payload := leBytes 8 addr ++ leBytes 8 v.toNat ++ [BitVec.ofNat 8 die] }

/-- A REPAIR record (Table 4 of file 17). -/
def State.repair (s : State) (status die what : Nat) : State :=
  s.toEq0Log { type := 0x33, strike := s.strike, status := status,
               payload := [BitVec.ofNat 8 die, 0] ++ leBytes 2 what }

/-! Violations (R415, R416). -/

/-- The violation log of a die. -/
def State.vlog (s : State) (d : Nat) : Vlog := Assoc.get {} s.logs.vlogs d

/-- A violation entered into a violation log (R416, R445). -/
def Vlog.enter (l : Vlog) (v : VlogEntry) : Vlog :=
  if l.entries.length < 16 then
    let q := l.sc.seq + 1
    { l with
      entries := (l.entries.map (fun e => { e with tag := Sc.keep q e.tag })) ++ [{ v with tag := q }]
      sc := { seq := q, tags := l.sc.tags.map (fun t => (t.1, Sc.keep q t.2)) } }
  else
    let sc := l.sc.event 8
    { l with
      entries := l.entries.map (fun e => { e with tag := Sc.keep sc.seq e.tag })
      sc := sc
      ovf := l.ovf.tick }

/-- A violation: logged by a die in its violation log and in the module log (R415). -/
def State.violate (s : State) (die : Nat) (v : VlogEntry) : State :=
  let v := { v with strike := s.strike }
  let s := { s with logs := { s.logs with vlogs := Assoc.set s.logs.vlogs die ((s.vlog die).enter v) } }
  s.mlog
    { type := 0x32, region := v.region, strike := s.strike
      queue := if v.queue = 0xFFF then 0xFFFF else v.queue
      status := v.cause, task := v.task
      payload := leBytes 8 v.addr ++ [BitVec.ofNat 8 v.origin, BitVec.ofNat 8 v.kind] ++ leBytes 2 v.unit }

/-- A violation by an origin that belongs to no task: kind 0 read, 1 write, 2 descriptor, 3 packet. -/
def plainViolation (cause addr : Nat) (o : Origin) (kind : Nat) : VlogEntry :=
  { cause := cause, origin := originDie o, addr := addr, strike := 0, unit := originUnit o, kind := kind,
    region := 0, queue := 0xFFF, task := 0, tag := 0 }

end Sys2Proof.Machine
end

