-- ==== Sys2Proof/Machine/Fabric.lean ====
section
/-! DEFINITION. The fabric: which addresses are mapped and powered (R341, R415, R440, R472), and reads and
writes of external memory (R342 to R347), the central store (R13, R419) and core windows (R52, R115, R116). -/

namespace Sys2Proof.Machine

open Sys2Proof

/-- The register blocks of a die: offset and size up to its last register (R416, R450). -/
def regBlocks (d : Nat) : List (Nat × Nat) :=
  (0x0E0000, 0x300) ::
  (if d < 12 then [(0x100000, 8), (0x200000, 0xF0)]
   else if 16 ≤ d ∧ d < 24 then [(0x0F0000, 0x110), (0x200000, 0x10000), (0x400000, 0x40000)]
   else if 32 ≤ d ∧ d < 48 then [(0x0F0000, 8), (0x100000, 0x600)]
   else if d = 48 ∨ d = 49 then [(0x100000, 0x4000)]
   else if d = 56 then
     [(0, 8), (0x100000, 0x8000), (0x200000, 0x4000), (0x300000, 0x40000), (0x400000, 0x1000)]
   else if d = 60 then
     [(0x300000, 0x210), (0x310000, 0x18), (0x320000, 0x1E0), (0x330000, 8), (0x340000, 0x210),
      (0x380000, 0x40000)]
   else [])

/-- The kinds of target an address has. -/
inductive Target where
  | ext
  | store
  | window (c off : Nat)
  | reg (die off : Nat)
  | none
  deriving DecidableEq, Repr

/-- The target of an address (Table 4 of file 13). -/
def State.target (s : State) (a : Nat) : Target :=
  if a < extEnd then .ext
  else if storeBase ≤ a ∧ a < s.poolStart then .store
  else if windowBase ≤ a ∧ a < windowBase + 12288 * 0x80000 then
    let c := (a - windowBase) / 0x80000
    let o := (a - windowBase) % 0x80000
    if siteExists c && decide (o < 0x66000) then .window c o else .none
  else if regBase ≤ a ∧ a < regBase + 64 * 2 ^ 32 then
    let d := (a - regBase) / 2 ^ 32
    let o := (a - regBase) % 2 ^ 32
    if dieExists d && (regBlocks d).any (fun b => decide (b.1 ≤ o ∧ o < b.1 + b.2)) then .reg d o else .none
  else .none

/-- The first byte past the mapped range that holds an address. -/
def State.targetEnd (s : State) (a : Nat) : Nat :=
  match s.target a with
  | .ext => extEnd
  | .store => s.poolStart
  | .window _ o => a - o + 0x66000
  | .reg d o =>
    match (regBlocks d).find? (fun b => decide (b.1 ≤ o ∧ o < b.1 + b.2)) with
    | some b => a - o + b.1 + b.2
    | none => a
  | .none => a

/-- Granules of the map on one channel, and the first channel offset of its share of the reserve (R343, R347). -/
def channelGranules : Nat := 66846720
def reserveBase : Nat := 0x3FC000000

/-- Granules of a channel that have moved to the reserve (R347). -/
def State.movedOf (s : State) (c : Nat) : Nat :=
  if s.ext.retired == some c then channelGranules
  else match s.ext.retiring with
    | some r => if r.chan = c then r.pointer else 0
    | none => 0

/-- The channel and the channel offset of a granule's first byte (R343); a granule that has moved lies in the reserve of
another channel (R347). -/
def State.placeOf (s : State) (g : Nat) : Nat × Nat :=
  let c := g % 384
  let k := g / 384
  if k < s.movedOf c then (if k % 383 < c then k % 383 else k % 383 + 1, reserveBase + k / 383 * 256)
  else (c, 256 * k)

/-- The channel, memory-port die and row that serve an external-memory address now (R342, R343, R346, R347). -/
def State.chanAt (s : State) (a : Nat) : Nat := (s.placeOf (a / 256)).1
def State.portAt (s : State) (a : Nat) : Nat := s.chanAt a % 16
def State.rowAt (s : State) (a : Nat) : Nat := ((s.placeOf (a / 256)).2 + a % 256) / 2048

/-- The die that answers for an address. -/
def State.targetDie (s : State) (a : Nat) : Option Nat :=
  match s.target a with
  | .ext => some (32 + s.portAt a)
  | .store => some (16 + storeDie a)
  | .window c _ => some (dieOfCore c)
  | .reg d _ => some d
  | .none => none

/-- Must an access to an address wait: its die is in reset, external memory is in self-refresh for a FABRIC episode (R376),
or the clock that serves it is in the gap of a switch (R368)? -/
def State.dieWaits (s : State) (a : Nat) : Bool :=
  (s.targetDie a).any s.dieInReset || (s.target a == .ext && s.fabricOpen) || (s.targetDie a).any s.inGap
    || (match s.target a with
        | .window c _ => (Assoc.get {} s.clock.nodes (4 + dieOfCore c)).switching.isSome
        | _ => false)

/-- A clock node's gate (R370). -/
def State.gated (s : State) (k : Nat) : Bool := (Assoc.get {} s.clock.nodes k).gate

/-- Does the clock of a core site run (R369, R371)? -/
def State.siteClocked (s : State) (c : Nat) : Bool :=
  !(s.gated (4 + dieOfCore c)) && !(s.gated (16 + dieOfCore c))
    && (Assoc.keys s.grid.ungated).contains (rowKey c)

/-- Is the block of one address off or clock-gated (R18)? -/
def State.offAt (s : State) (a : Nat) : Bool :=
  match s.target a with
  | .ext => !(s.dieOn (32 + s.portAt a))
  | .store => !(s.dieOn (16 + storeDie a))
  | .window c _ => !(s.dieOn (dieOfCore c)) || !(s.siteClocked c)
  | .reg d _ => !(s.dieOn d) || (decide (d = 48 ∨ d = 49) && s.gated (d + 4))
  | .none => false

/-- Addresses of a span that reach every die which serves some of it: memory changes die every 256 or 4,096 bytes, in a
cycle of 16. -/
def spanStarts (lo hi : Nat) : List Nat :=
  let step := if lo < extEnd then 256 else 4096
  lo :: (List.range (min 33 (hi / step - lo / step))).map (fun i => (lo / step + i + 1) * step)

/-- Those in granules of a channel that retires or has retired, which have a cycle of their own. -/
def State.movedStarts (s : State) (lo hi : Nat) : List Nat :=
  (s.ext.retired <|> s.ext.retiring.map (fun r => r.chan)).elim [] (fun c =>
    let k := (lo / 256 + 383 - c) / 384
    ((List.range 18).map (fun i => 256 * ((k + i) * 384 + c))).filter (fun a =>
      decide (lo ≤ a ∧ a ≤ hi ∧ a < extEnd)))

/-- The first address of a span whose block is off. -/
def State.firstOff (s : State) (lo hi : Nat) : Option Nat :=
  match (spanStarts lo hi).find? s.offAt, (s.movedStarts lo hi).find? s.offAt with
  | some a, some b => some (min a b)
  | some a, none => some a
  | none, b => b

/-- Is the address in the window of a spare not in use or of a locked-out site, in force in its row map or not
(R116)? -/
def State.idleWindow (s : State) (a : Nat) : Bool :=
  match s.target a with
  | .window c _ => !(s.siteActive c) || bit (s.rowMap (rowKey c)).decidedFailed (colOfCore c)
  | _ => false

/-- Where bytes may lie, for the checks of descriptors (R169, R174). -/
def State.places (s : State) : Places :=
  { extEnd := extEnd, poolStart := s.poolStart, off := s.firstOff }

/-- Is the size and alignment of an access one R472, or for registers R439, allows? -/
def sizeOk (reg : Bool) (a n : Nat) : Bool :=
  if reg then decide (n = 8 ∧ a % 8 = 0)
  else if n ≤ 64 then [1, 2, 4, 8, 16, 32, 64].contains n && decide (a % n = 0)
  else decide (n % 64 = 0 ∧ a % 64 = 0)

/-- The originators that move spans of any length by requests that meet R472, so that it never refuses one. -/
def splitsSpans (o : Origin) : Bool := match o with | .helm _ => true | .frontEnd _ => true | _ => false

/-- The tiles that a window span touches in the tile area (R52, R115). -/
def tilesOf (off n : Nat) : List (Fin 4) :=
  let lo := max off 0x60000
  let o := lo - 0x60000
  let m := off + n - lo
  ([0, 1, 2, 3] : List (Fin 4)).filter (fun t =>
    meets o m (t.val * 0x1000) 0x1000 || meets o m (0x4000 + t.val * 0x800) 0x800)

/-- Does a tile have an accumulate or a drain outstanding: accepted, and its last beat not final or row 31 not
sampled (Table 5 of file 02, R52)? -/
def Core.tileOutstanding (k : Core) (t : Fin 4) : Bool :=
  (k.ope.q ++ k.ope.filling).any (fun a => a.tile == t)
    || k.ope.drains.any (fun d => d.tile == t && decide (d.sampled < 32))

/-- Is an access to a core window refused under R52 or R115? -/
def Core.windowBusy (k : Core) (use : WindowUse) (off n : Nat) (write : Bool) : Bool :=
  if 0x60000 < off + n then write || (tilesOf off n).any k.tileOutstanding
  else write && k.task.isSome && (match use with | .plain => true | _ => false)

/-- Write-only registers of the helm die's own: RST_REQ, ATT_CTL, ATT_EXTEND (R382, R438). -/
def originBad (o : Origin) (die off : Nat) (write : Bool) : Bool :=
  write && die == 60 && [0x310000, 0x340200, 0x340208].contains (off / 8 * 8)
    && (match o with | .helm _ => false | _ => true)

/-- Does a front-end port's DMA reach outside the memory it may target: host and job memory and the central store below
the pool (R362)? -/
def State.beyond (s : State) (o : Origin) (a : Nat) : Bool :=
  match o, s.target a with
  | .frontEnd _, .ext => false
  | .frontEnd _, .store => false
  | .frontEnd _, _ => true
  | _, _ => false

/-- The lowest cause under which an access is refused before its data is looked at (R415). -/
def State.accessCause (s : State) (o : Origin) (use : WindowUse) (a n : Nat) (write : Bool) : Option Nat :=
  let inRange := s.target a != .none && decide (a + n ≤ s.targetEnd a)
  if !inRange || s.idleWindow a || s.beyond o a then some 0x30
  else if (s.firstOff a (a + n - 1)).isSome then some 0x31
  else if !(match s.target a with | .reg _ _ => sizeOk true a n | _ => splitsSpans o || sizeOk false a n) then some 0x32
  else match s.target a with
    | .window c off => if (s.core c).windowBusy use off n write then some 0x33 else none
    | .reg d off => if originBad o d off write then some 0x34 else none
    | _ => none

/-- The die of the unit that answers an access with an error (R415): the addressed die, or the originator's own where
no unit there can answer. A movement cause, or a full journal, is answered by the unit that checks it. -/
def State.answerDie (s : State) (own cause a : Nat) : Nat :=
  if cause < 0x30 ∨ cause = 0x37 then own
  else match s.targetDie a with
    | none => own
    | some d => if s.dieOn d then d else if cause = 0x30 ∨ cause = 0x31 then own else d
def State.loggingDie (s : State) (o : Origin) (cause a : Nat) : Nat := s.answerDie (originDie o) cause a

/-! External memory (R342 to R347). -/

/-- The channel offset of an external-memory address in the map (R343). -/
def chanOffset (a : Nat) : Nat := a / 256 / 384 * 256 + a % 256

/-- A memory-port die and a channel. -/
def State.port_ (s : State) (m : Nat) : MemPort := Assoc.get {} s.ext.ports m
def State.setPort_ (s : State) (m : Nat) (p : MemPort) : State :=
  { s with ext := { s.ext with ports := Assoc.set s.ext.ports m p } }
def State.chan (s : State) (c : Nat) : MemChannel := Assoc.get {} s.ext.chans c
def State.setChan (s : State) (c : Nat) (x : MemChannel) : State :=
  { s with ext := { s.ext with chans := Assoc.set s.ext.chans c x } }

/-- Strikes in one second, and in 24 hours. -/
def second : Nat := 100000000
def day : Nat := 86400 * second

/-- A channel begins retirement, if none has (R347, R348). -/
def State.retire (s : State) (c : Nat) : State :=
  if s.ext.retiring.isSome || s.ext.retired.isSome then s
  else
    let x := s.chan c
    let s := s.setChan c { x with state := .retiring, sc := x.sc.event 3 }
    let s := { s with ext := { s.ext with retiring := some { chan := c, pointer := 0 } } }
    s.repair 4 (32 + c % 16) c

/-- A weak row takes a redirect entry; with all 32 taken its channel begins retirement (R346). -/
def State.weakRow (s : State) (a : Nat) : State :=
  let m := s.portAt a
  let p := s.port_ m
  let ch := s.chanAt a / 16
  if p.redirects.any (fun r => r.chan == ch && r.row == s.rowAt a) then s
  else if 32 ≤ p.redirects.length then s.retire (s.chanAt a)
  else s.setPort_ m { p with redirects := p.redirects ++ [{ chan := ch, row := s.rowAt a }] }

/-- A burst corrected: counted, written back, and its row and channel judged (R344, R346, R347). -/
def State.correctBurst (s : State) (b : Nat) : State :=
  let a := 64 * b
  let c := s.chanAt a
  let x := s.chan c
  let fresh := decide (second ≤ (s.strike - x.second).toNat)
  let n := if fresh then 1 else x.inSecond + 1
  let s := s.setChan c { x with
    ce := x.ce.tick, sc := x.sc.event 0, second := if fresh then s.strike else x.second, inSecond := n }
  let s := { s with ext := { s.ext with weak := s.ext.weak.filter (· != b) } }
  let m := s.portAt a
  let p := s.port_ m
  let recent := p.history.filter (fun h => decide ((s.strike - h.2.2).toNat < day))
  let twice := recent.any (fun h => decide (h.1 = c) && decide (s.rowAt (64 * h.2.1) = s.rowAt a) && h.2.1 != b)
  let s := s.setPort_ m { p with history := recent ++ [(c, b, s.strike)] }
  let s := if twice then s.weakRow a else s
  if p.retireCe ≠ 0 ∧ p.retireCe ≤ n then s.retire c else s

/-- An uncorrectable burst met by a read: its granule is poisoned (R344). -/
def State.poisonBurst (s : State) (b : Nat) : State :=
  let a := 64 * b
  let c := s.chanAt a
  let x := s.chan c
  let s := s.setChan c { x with ue := x.ue.tick, sc := x.sc.event 1 }
  let m := s.portAt a
  let p := s.port_ m
  let s := if p.poison.contains (a / 256) then s
    else if p.poison.length < 64 then s.setPort_ m { p with poison := p.poison ++ [a / 256] }
    else s.retire c
  s.weakRow a

/-- One burst of external memory read: the state after correction or poisoning, and whether the data is
lost. -/
def State.readBurst (s : State) (b : Nat) : State × Bool :=
  if (s.port_ (s.portAt (64 * b))).poison.contains (b / 4) then (s, true)
  else if s.ext.bad.contains b then (s.poisonBurst b, true)
  else if s.ext.weak.contains b then (s.correctBurst b, false)
  else (s, false)

/-- The bursts, granules or lines of size z that a span touches. -/
def unitsOf (z a n : Nat) : List Nat :=
  if n = 0 then [] else (List.range ((a + n - 1) / z - a / z + 1)).map (· + a / z)

/-- Bursts read in order, up to the first that is lost: its address. -/
def State.readBursts (s : State) : List Nat → State × Option Nat
  | [] => (s, none)
  | b :: bs =>
    match s.readBurst b with
    | (s, true) => (s, some (64 * b))
    | (s, false) => State.readBursts s bs

/-- Does an access to external memory wait: for a redirect copy of its row, or for MEM_REPAIR (R346)? -/
def State.extWaits (s : State) (a n : Nat) : Bool :=
  (unitsOf 256 a n).any (fun g =>
    let p := s.port_ (s.portAt (256 * g))
    p.repairing || p.redirects.any (fun r =>
      !r.done && r.chan == s.chanAt (256 * g) / 16 && r.row == s.rowAt (256 * g)))

/-- The map index of a granule on its channel (R347). -/
def granuleIdx (g : Nat) : Nat := g / 384

/-- Does a write to external memory wait for the granule under copy (R347)? -/
def State.writeWaits (s : State) (a n : Nat) : Bool :=
  match s.ext.retiring with
  | some r => (unitsOf 256 a n).any (fun g => decide (g % 384 = r.chan ∧ granuleIdx g = r.pointer))
  | none => false

/-- Is unit u of size z wholly inside the span? -/
def whole (z a n u : Nat) : Bool := decide (a ≤ z * u ∧ z * u + z ≤ a + n)

/-- A write to external memory: the bytes, with error marks of whole bursts and poison of whole granules
cleared (R344). -/
def State.extWrite (s : State) (a : Nat) (bs : List Byte) : State :=
  let n := bs.length
  let s := (unitsOf 256 a n).foldl (fun s g =>
    let m := s.portAt (256 * g)
    let p := s.port_ m
    if whole 256 a n g && p.poison.contains g then
      s.setPort_ m { p with poison := p.poison.filter (· != g) } else s) s
  let keep := fun (b : Nat) => !(whole 64 a n b)
  let s := { s with ext := { s.ext with weak := s.ext.weak.filter keep, bad := s.ext.bad.filter keep } }
  s.putBytes a bs

/-! The central store (R13, R419). -/

/-- The bank of a store address: die × 64 + bank within the die's slice of the map. -/
def storeBank (a : Nat) : Nat :=
  storeDie a * 64 + ((a - storeBase) / 32768 * 4096 + a % 4096) / 2 ^ 24

/-- Banks of a store die that stand on its two spares, one place of the list for each spare: those spared at manufacture and
in service (R419, R422). A bank whose spare fails as well is there twice. -/
def State.onSpares (s : State) (d : Nat) : List Nat :=
  let b := Assoc.get 0 s.boot.fuses.banks d
  (if b = 0 then [] else ((Config.bankRepair b).take 2).map (·.val)) ++ Assoc.get [] s.store.spared d

/-- A bank begins its copy to a spare, waits for the copy of another to end, or is reported once where no spare is left
(R419). -/
def State.spareBank (s : State) (bank : Nat) : State :=
  let d := bank / 64
  let b := bank % 64
  let st := s.store
  let now := Assoc.get none st.copying d
  let queue := Assoc.get [] st.waiting d
  let used := s.onSpares d
  if now == some b || queue.contains b || (Assoc.get [] st.spareless d).contains b then s
  else if 2 ≤ used.length + b2n now.isSome + queue.length then
    ({ s with store := { st with spareless := Assoc.put [] st.spareless d (Assoc.get [] st.spareless d ++ [b]) } } :
      State).repair 7 (16 + d) b
  else if now.isSome then { s with store := { st with waiting := Assoc.put [] st.waiting d (queue ++ [b]) } }
  else { s with store := { st with copying := Assoc.put none st.copying d (some b) } }

/-- A store line corrected (R419). The 256th in a second begins the sparing of its bank, and the count starts again. -/
def State.correctLine (s : State) (l : Nat) : State :=
  let bank := storeBank (64 * l)
  let old := Assoc.get (0, 0) s.store.corrected bank
  let fresh := old.1 = 0 ∨ second ≤ (s.strike - old.2).toNat
  let now := if fresh then (1, s.strike) else (old.1 + 1, old.2)
  let s := { s with store := { s.store with
    weak := s.store.weak.filter (· != l)
    corrected := Assoc.put (0, 0) s.store.corrected bank now } }
  if 256 ≤ now.1 then
    ({ s with store := { s.store with corrected := Assoc.del s.store.corrected bank } } : State).spareBank bank
  else s

/-- An uncorrectable error of a store line met: the line is poisoned, and its bank is spared (R419). -/
def State.poisonLine (s : State) (l : Nat) : State :=
  ({ s with store := { s.store with
      bad := s.store.bad.filter (· != l), poison := s.store.poison ++ [l] } } : State).spareBank (storeBank (64 * l))

/-- Store lines read in order, up to the first that is lost: its address. -/
def State.readLines (s : State) : List Nat → State × Option Nat
  | [] => (s, none)
  | l :: ls =>
    if s.store.poison.contains l then (s, some (64 * l))
    else if s.store.bad.contains l then (s.poisonLine l, some (64 * l))
    else State.readLines (if s.store.weak.contains l then s.correctLine l else s) ls

/-- A write to the central store (R419). -/
def State.storeWrite (s : State) (a : Nat) (bs : List Byte) : State :=
  let keep := fun (l : Nat) => !(whole 64 a bs.length l)
  let s := { s with store := { s.store with
    bad := s.store.bad.filter keep, poison := s.store.poison.filter keep, weak := s.store.weak.filter keep } }
  s.putBytes a bs

/-! Accesses that have passed accessCause. -/

/-- The tile image of a core (R52). -/
def Core.tileByte (k : Core) (o : Nat) : Byte :=
  if o < 0x4000 then
    let c := Assoc.get {} (k.tile (Fin.ofNat 4 (o / 0x1000))).cells (o % 0x1000 / 4)
    BitVec.ofNat 8 (bits c.s (8 * (o % 4)) 8)
  else
    let o := o - 0x4000
    let c := Assoc.get {} (k.tile (Fin.ofNat 4 (o / 0x800))).cells (o % 0x800 / 2)
    BitVec.ofNat 8 (bits c.f (8 * (o % 2)) 8)

/-- A read of a core window: local memory then tiles; none at an uncorrectable word (R52, R99, R115). -/
def Core.windowRead (k : Core) (off n : Nat) : Option (Core × List Byte) :=
  let m := min n (0x60000 - off)
  match k.lmRead off m with
  | none => none
  | some (k, bs) => some (k, bs ++ (List.range (n - m)).map (fun i => k.tileByte (off + m + i - 0x60000)))

/-- Is an address in a region's recovery area, whose contents are the module's own (R402)? -/
def State.inArea (s : State) (a : Nat) : Bool :=
  s.ge.regions.any (fun e => decide (e.2.areaBase ≤ a ∧ a < e.2.areaBase + e.2.areaSize * 4096))

/-- Bytes read from the central store: those of a recovery area are free values (log 16). -/
def State.veil (s : State) (a : Nat) (bs : List Byte) : State × List Byte :=
  let n := bs.length
  if (List.range n).any (fun i => s.inArea (a + i)) then
    (s.useFree n, (List.range n).map (fun i =>
      if s.inArea (a + i) then (Config.freeWord (s.free + i)).truncate 8 else bs.getD i 0))
  else (s, bs)

/-- A read of memory: the state after it, and the bytes or the address of the data that is lost. -/
def State.memRead (s : State) (a n : Nat) : State × Except Nat (List Byte) :=
  match s.target a with
  | .ext =>
    match s.readBursts (unitsOf 64 a n) with
    | (s, some x) => (s, .error x)
    | (s, none) => (s, .ok (s.bytes a n))
  | .store =>
    match s.readLines (unitsOf 64 a n) with
    | (s, some x) => (s, .error x)
    | (s, none) =>
      match s.veil a (s.bytes a n) with
      | (s, bs) => (s, .ok bs)
  | .window c off =>
    match (s.core c).windowRead off n with
    | some (k, bs) => (s.setCore c k, .ok bs)
    | none => (s, .error a)
  | _ => (s, .ok [])

/-- A write of memory: none where a word of a core window that is not covered whole is uncorrectable. -/
def State.memWrite (s : State) (a : Nat) (bs : List Byte) : Option State :=
  match s.target a with
  | .ext => some (s.extWrite a bs)
  | .store => some (s.storeWrite a bs)
  | .window c off => ((s.core c).lmWrite off bs).map (s.setCore c)
  | _ => some s

/-- Does a span reach a granule that a revoked task has still to get back (R403)? -/
def State.undoHeld (s : State) (a n : Nat) : Bool :=
  s.ge.undo.any (fun j => decide (a < 256 * j.granule + 256 ∧ 256 * j.granule < a + n))

/-- Does an access wait: for the end of a reset of a die that serves some of it (R376), for external memory (R346, R347), or
for the earlier contents of a granule (R403)? -/
def State.accessWaits (s : State) (a n : Nat) (write : Bool) : Bool :=
  (decide (0 < n) && (spanStarts a (a + n - 1) ++ s.movedStarts a (a + n - 1)).any s.dieWaits)
    || (decide (a < extEnd) && (s.extWaits a n || (write && s.writeWaits a n))) || s.undoHeld a n

/-- Must some of these reads wait (R346, R368, R376)? -/
def State.readsWait (s : State) (spans : List (Nat × Nat)) : Bool :=
  spans.any (fun r => s.accessWaits r.1 r.2 false)

/-- The address by which the unit that answers a refused span is found: its first byte in a block that is off, where that
is the cause (R415), else its first byte. -/
def State.blameAt (s : State) (cause a n : Nat) : Nat :=
  if cause = 0x31 then (s.firstOff a (a + n - 1)).getD a else a

/-- A refused access to a span: its violation is logged (R415). -/
def State.refuseAccess (s : State) (o : Origin) (cause a n kind : Nat) : State :=
  s.violate (s.loggingDie o cause (s.blameAt cause a n)) (plainViolation cause a o kind)

/-- The task on whose behalf a violation occurs. -/
def VlogEntry.ofTask (v : VlogEntry) (region q task : Nat) : VlogEntry :=
  { v with region := region, queue := q, task := task }

end Sys2Proof.Machine
end

