-- ==== Sys2Proof/Machine/Streams.lean ====
section
/-! DEFINITION. Stream contexts (R198 to R227): their fields, the image of a tensor end, arming, hasps,
staging, deadlines, and the pieces a stream may move next. -/

namespace Sys2Proof.Machine

open Sys2Proof

/-- A stream context, and one replaced. -/
def State.ctx (s : State) (n : Nat) : Ctx := Assoc.get {} s.store.ctxs n
def State.setCtx (s : State) (n : Nat) (c : Ctx) : State :=
  { s with store := { s.store with ctxs := Assoc.set s.store.ctxs n c } }

/-! The armed bytes (Table 2 of file 08). -/

def Ctx.at_ (c : Ctx) (o n : Nat) : Nat := leAt c.image o n
def Ctx.kind (c : Ctx) : Nat := c.at_ 0 1
def Ctx.srcEnd (c : Ctx) : Nat := c.at_ 1 1 % 4
def Ctx.snkEnd (c : Ctx) : Nat := c.at_ 1 1 / 4 % 4
def Ctx.persist (c : Ctx) : Bool := c.at_ 2 1 % 2 == 1
def Ctx.region (c : Ctx) : Nat := c.at_ 3 1
def Ctx.moveOp (c : Ctx) : Nat := c.at_ 4 1 % 16
def Ctx.gdim (c : Ctx) : Nat := c.at_ 4 1 / 16 % 8
def Ctx.perm (c : Ctx) : Nat := c.at_ 5 3
def Ctx.src (c : Ctx) : Nat := c.at_ 0x08 8
def Ctx.snk (c : Ctx) : Nat := c.at_ 0x10 8
def Ctx.idx (c : Ctx) : Nat := c.at_ 0x18 8
def Ctx.srcCores (c : Ctx) : Nat := c.at_ 0x20 4
def Ctx.snkCores (c : Ctx) : Nat := c.at_ 0x24 4
def Ctx.srcSlot (c : Ctx) : Nat := c.at_ 0x28 4
def Ctx.snkSlot (c : Ctx) : Nat := c.at_ 0x2C 4
def Ctx.srcSlots (c : Ctx) : Nat := c.at_ 0x30 2
def Ctx.snkSlots (c : Ctx) : Nat := c.at_ 0x32 2
def Ctx.rate (c : Ctx) : Nat := c.at_ 0x34 4
def Ctx.floor (c : Ctx) : Nat := c.at_ 0x38 4
def Ctx.borrowMax (c : Ctx) : Nat := c.at_ 0x3C 4
def Ctx.utype (c : Ctx) : Nat := c.at_ 0x40 1

/-- The home die of a context: number of its store die (R202). -/
def homeDie (n : Nat) : Nat := n % 8

/-- Armed or active. -/
def Ctx.live (c : Ctx) : Bool := c.state == .armed || c.state == .active

/-- Contexts that are not IDLE. -/
def State.busyCtxs (s : State) : List (Nat × Ctx) := s.store.ctxs.filter (fun e => e.2.state != .idle)

/-! The pool (R198, R211). -/

/-- Pages of a die's slice. -/
def State.slicePages (s : State) : Nat := s.store.pool * 4096

/-- Floors, and borrowed pages, of a die's contexts that are not IDLE. -/
def State.floors (s : State) (d : Nat) : Nat :=
  (s.busyCtxs.filter (fun e => homeDie e.1 == d)).foldl (fun n e => n + e.2.floor) 0
def State.borrowedPages (s : State) (d : Nat) : Nat :=
  (s.busyCtxs.filter (fun e => homeDie e.1 == d)).foldl (fun n e => n + e.2.borrowed) 0

/-- Free pages of the shared remainder (R211). -/
def State.remainder (s : State) (d : Nat) : Nat := s.slicePages - s.floors d - s.borrowedPages d

/-- The stream's unit in bytes (Table 1 of file 08). -/
def Ctx.unit (c : Ctx) : Nat :=
  if c.kind = 2 then (if c.srcEnd = 3 then c.srcSlot * c.srcSlots else c.srcSlot) else c.snkSlot

/-! The tensor end and the logical tensor (R201). -/

/-- The descriptor of the tensor end as read at arming, at the base of the pass (R222; that it is read once is a DESIGN
CHOICE, log 94). -/
def Ctx.tdesc (c : Ctx) : Desc :=
  let d := readDesc c.desc
  match c.passBase with
  | some b => { d with base := b }
  | none => d

/-- The index descriptor as read at arming. -/
def Ctx.xdesc (c : Ctx) : Desc := readDesc c.idesc

/-- π(d) of a PERM field. -/
def piOf (perm d : Nat) : Nat := perm / 2 ^ (3 * d) % 8

/-- The logical tensor that the ring image holds (R201): the result of a FETCH, the operand of a PUT. -/
def logical (c : Ctx) (t idx : Desc) : Desc :=
  let swap := piOf c.perm 0 == 1 && piOf c.perm 1 == 0
  let blk := if c.moveOp = 2 ∧ swap then 1 - t.blkdim else t.blkdim
  let dims := match c.moveOp with
    | 2 => (List.range 6).map (fun d =>
        if c.kind = 1 then t.dim (piOf c.perm d)
        else ((List.range 6).find? (fun e => piOf c.perm e == d)).elim 1 t.dim)
    | 3 => t.dims.set c.gdim idx.count
    | 4 => t.dims.set c.gdim idx.count
    | _ => t.dims
  { t with
    base := 0, dims := dims, strides := [0, 0, 0, 0, 0], compress := 0, bcast := 0, blkdim := blk,
    etype := if c.moveOp = 4 ∧ c.utype ≠ 0 then c.utype else t.etype
    scaleBase := 0, cap := 0 }

/-- The movement a stream applies (R201). MOVE_OP 0, for which Table 2 of file 08 says no more than "0 for none", is read as
COPY (DESIGN CHOICE, log 96). -/
def Ctx.movement (c : Ctx) : Movement :=
  let t := c.tdesc
  let i := c.xdesc
  let l := logical c t i
  { op := if c.moveOp = 0 then some .copy else moveOpOf c.moveOp
    gdim := c.gdim, perm := c.perm, idx := i
    src := if c.kind = 1 then t else l
    dst := if c.kind = 1 then l else t }

/-- The logical tensor of a stream. -/
def Ctx.ring (c : Ctx) : Desc := logical c c.tdesc c.xdesc

/-- Bytes of one row in the ring image, and the length of a pass (R201). -/
def Desc.imageRow (x : Desc) : Nat := roundUp x.rowBytes 64
def Desc.imageLen (x : Desc) : Nat := if x.empty then 0 else x.rows * x.imageRow

/-- LEN of a stream with a tensor end. -/
def Ctx.len (c : Ctx) : Nat := c.ring.imageLen

/-- Row n of a FETCH image, padded to 64 bytes. -/
def fetchRow (m : Movement) (rd : Nat → Byte) (flat : Option (List Byte)) (n : Nat) : List Byte :=
  let rb := m.dst.rowBytes
  padTo m.dst.imageRow
    (match flat with
     | some u => slice u (n * rb) rb
     | none => rowOfCodes m.dst.ty ((m.row rd n).map (·.code)))

/-- n bytes of a FETCH image from an offset; a compressed source that is inconsistent gives its address. The indices of a
GATHER, checked at arming and at the start of a pass, are read anew for each piece and clamped, in strict mode too: R182 does
not say when a stream reads them (DESIGN CHOICE, log 96). -/
def State.fetchSlice (s : State) (c : Ctx) (off n : Nat) : Except Nat (List Byte) :=
  let m := c.movement
  let w := m.dst.imageRow
  let rows := fun flat =>
    let r0 := off / w
    let bs := (unitsOf w off n).flatMap (fun r => fetchRow m s.byte flat r)
    slice bs (off - r0 * w) n
  if m.src.compress ≠ 0 then (decompress s.byte m.src).map (fun u => rows (some u))
  else .ok (rows none)

/-- The sink address of a byte of a PUT image; none for padding (R201). -/
def putPlace (m : Movement) (off : Nat) : Option Nat :=
  let w := m.src.imageRow
  let n := off / w
  let o := off % w
  if m.src.rows ≤ n ∨ m.src.rowBytes ≤ o then none
  else
    let idx := m.src.rowIdx n
    match m.op with
    | some .permute =>
      let at_ := fun i0 d => indexAt i0 idx (m.pi d)
      if m.pi 0 = 0 then some (m.dst.rowAddr ([1, 2, 3, 4, 5].map (at_ 0)) + o)
      else
        let es := etypeBits m.src.ty / 8
        let i0 := o / es
        some (m.dst.rowAddr ([1, 2, 3, 4, 5].map (at_ i0)) + at_ i0 0 * es + o % es)
    | _ => some (m.dst.rowAddr idx + o)

/-- (address, byte) writes of image bytes from an offset; unused elements of a last partial group are written as
zero codes (R167). -/
def putWrites (m : Movement) (off : Nat) : List Byte → List (Nat × Byte)
  | [] => []
  | b :: bs =>
    match putPlace m off with
    | some a => (a, m.src.usedByte (off % m.src.imageRow) b) :: putWrites m (off + 1) bs
    | none => putWrites m (off + 1) bs

/-- The scale byte's address of a row drained to PORT whose first byte has image offset p: R171 gives the row's place in
the scale array of the image's own tensor. Under PERMUTE the scale stays at that row of the sink while the codes go to
the permuted place; R171 does not say which tensor's row it means (DESIGN CHOICE, log 95). -/
def portScaleAddr (x : Desc) (p : Nat) : Nat :=
  let bb := match x.ty with | .mxe3m2 => 24 | .mxe2m3 => 24 | .mxfp4 => 16 | _ => 32
  x.scaleAddr (p % x.imageRow / bb * 32) (x.rowIdx (p / x.imageRow))

/-- The failed checks of a stream's descriptors, those of its indices apart (R172, R173, R201, R210). The overlap rule
compares the sink of a PUT with its index tensor: whether a store or core ring counts in it, which R204 calls a footprint,
R187 does not say, and the model counts none (DESIGN CHOICE, log 96). -/
def State.ctxFindings (s : State) (c : Ctx) : List Finding :=
  let m := c.movement
  let t := c.tdesc
  let dest := c.kind == 2
  let uses := m.usesIdx
  let port := c.srcEnd == 3
    && (t.rowBytes % 64 != 0 || (isMx t.ty && t.blkdim == 1))
  let form := t.formFindings dest ++ (if uses then m.idx.formFindings false else [])
    ++ (if m.shapeOk && !port then [] else [mkFinding 0x25 t.base])
  if m.dst.empty || m.src.empty then form
  else
    form ++ t.placeFindings s.places dest ++ (if uses then m.idx.placeFindings s.places false else [])
      ++ (if m.op == some .scatter && inWindow t.base then [mkFinding 0x24 t.base] else [])
      ++ (if dest && uses then
            t.prints.flatMap (fun w => m.idx.prints.filterMap (fun r => (overlap w r).map (mkFinding 0x26)))
          else [])

/-! Reads of a movement engine. -/

/-- The rows of a tensor as spans. -/
def Desc.rowSpans (x : Desc) : List (Nat × Nat) :=
  (List.range x.rows).map (fun n => (x.rowAddr (x.rowIdx n), x.rowBytes))

/-- The store die that answers for an address in a movement operation (log 19). -/
def moverDie (a : Nat) : Nat := 16 + storeDie a

/-- A read by an engine of the module: the bytes, or the cause and address of its error response (R415). It moves whole
spans by requests that meet R472 (log 53), but for register space, where R439 takes single accesses of 8 bytes. What such an
access of an engine gets is a free value (DESIGN CHOICE, log 53). -/
def State.moverRead (s : State) (a n : Nat) : State × Except (Nat × Nat) (List Byte) :=
  if n = 0 then (s, .ok [])
  else if s.target a == .none || s.idleWindow a || decide (s.targetEnd a < a + n) then (s, .error (0x30, a))
  else match s.firstOff a (a + n - 1), s.target a with
    | some x, _ => (s, .error (0x31, x))
    | none, .reg _ _ =>
      if sizeOk true a n then (s.useFree 1, .ok (leBytes 8 (Config.freeWord s.free).toNat)) else (s, .error (0x32, a))
    | none, t =>
      if (match t with | .window c off => (s.core c).windowBusy .plain off n false | _ => false) then (s, .error (0x33, a))
      else match s.memRead a n with
        | (s, .ok bs) => (s, .ok bs)
        | (s, .error x) => (s, .error (0x35, x))

/-- Spans read in order: the first error response, if any. -/
def State.moverReads (s : State) : List (Nat × Nat) → State × Option (Nat × Nat)
  | [] => (s, none)
  | (a, n) :: rest =>
    match s.moverRead a n with
    | (s, .ok _) => State.moverReads s rest
    | (s, .error e) => (s, some e)

/-- The checks of a stream with its descriptors read, at arming or as a pass begins (R172, R182, R185, R222): cause,
address and access kind of the violation. The index tensor is read where no other check fails. -/
def State.checkCtx (s : State) (c : Ctx) : State × Option (Nat × Nat × Nat) :=
  match worst (s.ctxFindings c) with
  | some f => (s, some (f.code, f.addr, 2))
  | none =>
    let m := c.movement
    if m.usesIdx && !m.dst.empty && !m.src.empty then
      match s.moverReads m.idx.rowSpans with
      | (s, some e) => (s, some (e.1, e.2, 0))
      | (s, none) => (s, (m.indexBad s.byte).map (fun a => (0x27, a, 2)))
    else (s, none)

/-- The descriptors of a stream that is being armed, read by its home die and checked: the context that holds them, or
the violation (R172, R199, R210, R341, R344). A RELAY has none. -/
def State.latch (s : State) (c : Ctx) : State × Except (Nat × Nat × Nat) Ctx :=
  if c.kind = 3 then (s, .ok c)
  else
    let spans := (if c.kind = 1 then c.src else c.snk) :: (if c.moveOp = 3 ∨ c.moveOp = 4 then [c.idx] else [])
    match s.moverReads (spans.map (fun a => (a, 64))) with
    | (s, some e) => (s, .error (e.1, e.2, 2))
    | (s, none) =>
      let c := { c with desc := s.bytes (spans.getD 0 0) 64, idesc := (spans[1]?).elim [] (fun a => s.bytes a 64) }
      match s.checkCtx c with
      | (s, some e) => (s, .error e)
      | (s, none) => (s, .ok c)

/-- Must the reads of arming wait: of the image at an address, the descriptors it names, or an index tensor (R346)? -/
def State.armWaits (s : State) (a : Nat) : Bool :=
  let c : Ctx := { image := s.bytes a 72 }
  let d : Ctx := { c with idesc := s.bytes c.idx 64 }
  s.accessWaits a 72 false
    || (c.kind != 3 && s.accessWaits (if c.kind = 1 then c.src else c.snk) 64 false)
    || (decide (c.moveOp = 3 ∨ c.moveOp = 4) && (s.accessWaits c.idx 64 false
        || d.xdesc.rowSpans.any (fun r => s.accessWaits r.1 r.2 false)))

/-! Arming (R204, R210). -/

/-- Is a slot size and count one R204 and R203 allow? -/
def slotOk (size count : Nat) : Bool :=
  size % 64 == 0 && decide (64 ≤ size ∧ size ≤ 1048576 ∧ 1 ≤ count ∧ count ≤ 256)

/-- ARM_FORMAT. -/
def Ctx.formatBad (c : Ctx) : Bool :=
  let ring := fun e => e == 1 || e == 2
  let ends := match c.kind with
    | 1 => c.srcEnd == 0 && ring c.snkEnd
    | 2 => c.snkEnd == 0 && c.srcEnd != 0
    | 3 => ring c.srcEnd && ring c.snkEnd
    | _ => false
  let ops := match c.kind with
    | 1 => [0, 1, 2, 3].contains c.moveOp
    | 2 => [0, 1, 2, 4].contains c.moveOp
    | _ => c.moveOp == 0
  !ends || !ops || decide (c.at_ 1 1 / 16 ≠ 0) || decide (c.at_ 2 1 / 2 ≠ 0) || decide (63 < c.region)
    || decide (c.at_ 4 1 / 128 ≠ 0) || decide (c.perm / 2 ^ 18 ≠ 0) || decide (c.at_ 0x41 7 ≠ 0)
    || (c.utype != 0 && !(c.kind == 2 && c.moveOp == 4))
    || (!([3, 4].contains c.moveOp) && c.idx != 0) || (c.srcEnd == 3 && c.src != 0)
    || (c.srcEnd != 0 && !(slotOk c.srcSlot c.srcSlots))
    || (c.snkEnd != 0 && !(slotOk c.snkSlot c.snkSlots))
    || c.rate == 0 || (c.kind == 3 && c.srcSlot % c.snkSlot != 0)

/-- Does a ring's end break the base or footprint rules of R204? -/
def State.ringBad (s : State) (e base slot slots cores : Nat) (single : Bool) : Bool :=
  match e with
  | 1 => base % 64 != 0 || decide (base < storeBase ∨ s.poolStart < base + slot * slots)
  | 2 =>
    base % 64 != 0 || decide (0x60000 < base + slot * slots) || !(rectOk cores)
      || (single && (rectOf cores).x0 != (rectOf cores).x1)
      || (single && (rectOf cores).y0 != (rectOf cores).y1)
  | _ => false

/-- ARM_SHARE: a store ring joined to a second stream on one side, or to one of another PERSIST or owner. -/
def State.shareBad (s : State) (c : Ctx) : Bool :=
  s.busyCtxs.any (fun e =>
    let o := e.2
    let unlike := o.persist != c.persist || (!c.persist && o.owner != c.owner)
    (c.srcEnd == 1 && o.srcEnd == 1 && o.src == c.src)
      || (c.snkEnd == 1 && o.snkEnd == 1 && o.snk == c.snk)
      || (c.srcEnd == 1 && o.snkEnd == 1 && o.snk == c.src && unlike)
      || (c.snkEnd == 1 && o.srcEnd == 1 && o.src == c.snk && unlike))

/-- The arming result of a context image (Table 4 of file 08). -/
def State.armCode (s : State) (n : Nat) (c : Ctx) : Nat :=
  if (s.ctx n).state != .idle then 1
  else if c.formatBad then 2
  else if s.ringBad c.srcEnd c.src c.srcSlot c.srcSlots c.srcCores true
      || s.ringBad c.snkEnd c.snk c.snkSlot c.snkSlots c.snkCores false then 3
  else if s.shareBad c then 4
  else if c.floor < ceilDiv c.unit 4096 then 5
  else if s.slicePages < s.floors (homeDie n) + c.floor then 6
  else 0

/-- A context as arming leaves it: position 0, hasps with every slot free, floor reserved (R206, R210,
R224). Pages borrowed, staged bytes and counts of an earlier pass are gone; DISCARDED stays. -/
def Ctx.rewound (c : Ctx) (st : CtxState) : Ctx :=
  { image := c.image, desc := c.desc, idesc := c.idesc, state := st, discarded := c.discarded, owner := c.owner, origin := c.origin,
    ownerEntry := c.ownerEntry,
    passBase := c.passBase, nextBase := c.nextBase, rearmBy := c.rearmBy, passBy := c.passBy,
    releasing := c.releasing, passNo := c.passNo + 1,
    hasp := if c.kind ≠ 2 ∧ c.snkEnd = 1 then [{ free := c.snkSlots }] else []
    srcHasp := { free := c.srcSlots } }

/-- A context back at IDLE. -/
def Ctx.emptied (c : Ctx) : Ctx := { discarded := c.discarded, passNo := c.passNo }

/-- A context armed from an image for an owner. -/
def armed (old : Ctx) (image : List Byte) (owner : Option (Nat × Nat)) (entry : Nat) : Ctx :=
  ({ image := image, owner := owner, ownerEntry := entry, discarded := old.discarded, passNo := old.passNo : Ctx }).rewound .armed

/-! Counting discarded bytes (R227). -/

/-- k bytes of a context discarded. -/
def State.discard (s : State) (n k : Nat) : State :=
  if k = 0 then s
  else
    let c := s.ctx n
    let d := homeDie n
    let x := c.discarded.addN k
    let y := (Assoc.get {} s.store.discarded d).addN k
    let s := s.setCtx n { c with discarded := x }
    let s := { s with store := { s.store with discarded := Assoc.set s.store.discarded d y } }
    if c.discarded.loses k || (Assoc.get {} s.store.discarded d).loses k then
      { s with store := { s.store with
          sc := Assoc.set s.store.sc d ((Assoc.get {} s.store.sc d).event 2) } }
    else s

/-- A stream's requests withdrawn from every queue. -/
def State.withdraw (s : State) (n : Nat) : State :=
  { s with store := { s.store with
      requests := s.store.requests.filter (fun r =>
        match r.kind with | .piece c _ _ _ => c != n | _ => true)
      borrows := s.store.borrows.filter (fun b => b.ctx != n)
      hposts := s.store.hposts.filter (fun h => h.ctx != n) } }

/-- Bytes staged for the next pass (R222), and in all: the virtual ring of a PORT source stands in staging (R211). -/
def Ctx.aheadLen (c : Ctx) : Nat := c.ahead.elim 0 (fun a => a.staged.length)
def Ctx.stagedLen (c : Ctx) : Nat := c.staged.length + c.portRing.length + c.aheadLen

/-- Bytes a context has staged and not delivered. -/
def Ctx.undelivered (c : Ctx) : Nat := c.staged.length + c.portRing.length + c.gathered.length

/-- The next pass not begun after all: its re-arm waits again, unless a later one does. -/
def Ctx.dropAhead (c : Ctx) : Ctx :=
  match c.ahead with
  | none => c
  | some a =>
    let back := a.rearmed && c.nextBase.isNone
    { c with
      ahead := none, nextBase := if back then a.base else c.nextBase
      rearmBy := if back then a.by_ else c.rearmBy }

/-- The next pass becomes the current one (R222). -/
def Ctx.promote (c : Ctx) (a : Ahead) : Ctx :=
  { (({ c with passBase := a.base, passBy := a.by_ } : Ctx).rewound .armed) with
    owner := some a.owner, ownerEntry := a.ownerEntry, staged := a.staged, pos := a.pos
    borrowed := min c.borrowed (ceilDiv a.staged.length 4096 - c.floor) }

/-- R224: a data stream as at arming, a persistent stream's pass at its own base. -/
def State.restoreCtx (s : State) (n : Nat) : State :=
  let s := (s.discard n ((s.ctx n).undelivered + (s.ctx n).aheadLen)).withdraw n
  s.setCtx n ((s.ctx n).dropAhead.rewound .armed)

/-- Is the task that a next pass has begun for still there? -/
def State.aheadOwned (s : State) (a : Ahead) : Bool :=
  match (Assoc.get {} s.ge.sqs a.owner.1).graph with
  | some g => g.entry == a.ownerEntry
      && g.tasks.any (fun e => e.1 == a.owner.2 && e.2.status == .ready)
  | none => false

/-- A stream's request out of its source withdrawn. -/
def State.withdrawFetch (s : State) (n : Nat) : State :=
  { s with store := { s.store with requests := s.store.requests.filter (fun r => match r.kind with
      | .piece c .fetch _ _ => c != n
      | _ => true) } }

/-- A next pass whose task has gone, if one has begun, is not begun after all; the current pass keeps its requests and
posts. -/
def State.loseAhead (s : State) (n : Nat) : State :=
  if (s.ctx n).ahead.isNone then s
  else
    let s := (s.discard n (s.ctx n).aheadLen).withdrawFetch n
    s.setCtx n (s.ctx n).dropAhead

/-- R220, R221: the settlement at commit. A next pass that has begun is the stream's pass from now on (R222). -/
def State.settleCtx (s : State) (n : Nat) : State :=
  let s := (s.discard n (s.ctx n).undelivered).withdraw n
  let c := s.ctx n
  if c.persist && !c.releasing then
    match c.ahead with
    | none => s.setCtx n (c.rewound .passEnd)
    | some a =>
      if s.aheadOwned a then s.setCtx n (c.promote a)
      else let s := s.loseAhead n; s.setCtx n ((s.ctx n).rewound .passEnd)
  else (s.discard n c.aheadLen).setCtx n c.emptied

/-! Hasps (R206 to R209). -/

/-- The stream that fills the store ring at an address. -/
def State.filler (s : State) (base : Nat) : Option Nat :=
  (s.busyCtxs.find? (fun e => e.2.snkEnd == 1 && e.2.snk == base && e.2.kind != 2)).map Prod.fst

/-- The hasp of the ring a stream empties: its own record's for a core ring, PORT or a ring that a port fills, the filler's for a store
ring (R206). -/
def State.srcHasp (s : State) (c : Ctx) : Hasp :=
  if c.srcEnd = 1 then
    match s.filler c.src with
    | some f => (s.ctx f).hasp.headD {}
    | none => c.srcHasp
  else c.srcHasp

/-- That hasp changed. -/
def State.setSrcHasp (s : State) (n : Nat) (f : Hasp → Hasp) : State :=
  let c := s.ctx n
  if c.srcEnd = 1 then
    match s.filler c.src with
    | some k => let x := s.ctx k; s.setCtx k { x with hasp := x.hasp.map f }
    | none => s.setCtx n { c with srcHasp := f c.srcHasp }
  else s.setCtx n { c with srcHasp := f c.srcHasp }

/-- FREE of the ring a stream fills: the smallest over the members (R208). -/
def Ctx.ringFree (c : Ctx) : Nat :=
  match c.hasp with
  | [] => 0
  | h :: hs => hs.foldl (fun n x => min n x.free) h.free

/-- FILL of that ring, as the record shows it. -/
def Ctx.ringFill (c : Ctx) : Nat :=
  match c.hasp with
  | [] => 0
  | h :: hs => hs.foldl (fun n x => min n x.fill) h.fill

/-! Pieces (R211, R214, R218, R219). -/

/-! Bytes of a ring in the central store lie on one die per piece: a piece ends where that die's 4 KiB do. -/

/-- Bytes of staging a stream may fill. -/
def Ctx.capacity (c : Ctx) : Nat := (c.floor + c.borrowed) * 4096

/-- A context as its source end stands: once a FETCH has read its whole image, that of the next pass, if it has
begun (R222). -/
def Ctx.fetchSide (c : Ctx) : Ctx :=
  match c.ahead with
  | some a => if c.len ≤ c.pos then { c with passBase := a.base, pos := a.pos } else c
  | none => c

/-- Does the source end work for the next pass? -/
def Ctx.fetchesAhead (c : Ctx) : Bool := c.ahead.isSome && decide (c.len ≤ c.pos)

/-- The place of byte off of a ring of slots in its space. -/
def ringPlace (base slot slots off : Nat) : Nat := base + off / slot % slots * slot + off % slot

/-- Bytes to the end of the 4 KiB line group of a store die that holds an address (R13, R202). -/
def toDieEnd (a : Nat) : Nat := 4096 - a % 4096

/-- The fabric address of the element bytes that image offset off of a FETCH takes (R201). -/
def fetchPlace (m : Movement) (rd : Nat → Byte) (off : Nat) : Nat :=
  let w := m.dst.imageRow
  let o := off % w
  let idx := m.dst.rowIdx (off / w)
  if m.op == some .permute && m.pi 0 != 0 then
    let es := etypeBits m.src.ty / 8
    let (k, ix) := m.srcElem rd (o / es) idx
    m.src.rowAddr ix + k * es + o % es
  else m.src.rowAddr (m.srcElem rd 0 idx).2 + o

/-- The bytes of a piece of n bytes at image offset off whose first byte lies at an address of a tensor: a piece of a
tensor in the central store ends with its row and where its die's 4 KiB do, so that the die that holds its bytes serves it
(R202). A compressed tensor, and one whose elements PERMUTE scatters, is served at its first byte's die (log 84). -/
def tensorCut (m : Movement) (w off a n : Nat) : Nat :=
  if (m.op == some .permute && m.pi 0 != 0) || a < storeBase || storeEnd ≤ a then n
  else min n (min (w - off % w) (toDieEnd a))

/-- The next piece out of the source end: image offset and length; none when there is none to move. Rows drained to PORT
arrive in staging by themselves (R211). -/
def State.fetchPiece (s : State) (c : Ctx) : Option (Nat × Nat) :=
  if !c.live || c.cancelled || c.srcEnd == 3 then none
  else if c.srcEnd = 0 then
    let c := c.fetchSide
    let m := c.movement
    let n := min 4096 (min (c.len - c.pos) (c.snkSlot - c.pos % c.snkSlot))
    if c.pos < c.len then
      some (c.pos, if m.src.compress ≠ 0 then n
        else tensorCut m m.dst.imageRow c.pos (fetchPlace m s.byte c.pos) n)
    else none
  else
    let o := c.pos % c.srcSlot
    let open_ := o != 0 || decide (1 ≤ (s.srcHasp c).fill)
    if !open_ || (c.srcEnd == 2 && !c.started) then none
    else
      let n := min 4096 (c.srcSlot - o)
      if c.srcEnd = 1 then
        some (c.pos, min n (toDieEnd (ringPlace c.src c.srcSlot c.srcSlots c.pos)))
      else some (c.pos, n)

/-- Does a PUT stream gather its bytes for the commit: a compressing sink or a SCATTER_ACC (R186, R190)? -/
def Ctx.gathers (c : Ctx) : Bool := c.kind == 2 && (c.moveOp == 4 || c.tdesc.compress != 0)

/-- The length of a FETCH pass with the zero bytes that fill its last slot (R201). -/
def Ctx.padded (c : Ctx) : Nat := roundUp c.len c.snkSlot

/-- Zero bytes that a stream delivers after what it has staged: the unused tail of a FETCH's last slot, once the source has
been read to its end. -/
def Ctx.zeros (c : Ctx) : Nat := if c.kind = 1 ∧ c.len ≤ c.pos then c.padded - max c.len c.delivered else 0

/-- Bytes ready to leave for the sink end: of a PORT source, those of the slots posted FILL and of the slot it has opened
(R206). -/
def Ctx.ready (c : Ctx) : Nat :=
  if c.srcEnd = 3 then
    let o := c.delivered % c.srcSlot
    if o = 0 ∧ c.srcHasp.fill = 0 then 0 else min (c.srcSlot - o) c.portRing.length
  else c.staged.length + c.zeros

/-- The first n of them. -/
def Ctx.outgoing (c : Ctx) (n : Nat) : List Byte :=
  if c.srcEnd = 3 then c.portRing.take n else padTo n c.staged

/-- The next piece into the sink end. Delivery into a core ring starts when the task does (R219), and so does delivery of
a persistent stream's pass into any ring (R222). Of a PUT, no piece reaches across the end of the image: what follows it
is ignored (R201). -/
def Ctx.deliverPiece (c : Ctx) : Option (Nat × Nat) :=
  if !c.live || c.cancelled || c.ready == 0 then none
  else if c.kind = 2 then
    let m := c.movement
    let n := min 4096 c.ready
    if !c.started then none
    else if c.len ≤ c.delivered then some (c.delivered, n)
    else
      let n := min n (c.len - c.delivered)
      some (c.delivered, if c.gathers then n
        else tensorCut m m.src.imageRow c.delivered ((putPlace m c.delivered).getD m.dst.base) n)
  else
    let o := c.delivered % c.snkSlot
    if ((c.snkEnd == 2 || c.persist) && !c.started) || (o == 0 && c.ringFree == 0 && c.reached.isEmpty) then none
    else
      let n := min 4096 (min c.ready (c.snkSlot - o))
      some (c.delivered,
        if c.snkEnd = 1 then min n (toDieEnd (ringPlace c.snk c.snkSlot c.snkSlots c.delivered)) else n)

/-- The fabric address of a piece's first byte; the local memory of one member for a multicast ring (R202, R215). -/
def State.pieceAddr (s : State) (c : Ctx) (dir : PieceDir) (off : Nat) : Nat :=
  let window := fun (core a : Nat) => windowBase + core * 0x80000 + a
  match dir with
  | .fetch =>
    let a := ringPlace c.src c.srcSlot c.srcSlots off
    match c.srcEnd with
    | 0 =>
      let m := c.fetchSide.movement
      if m.src.compress ≠ 0 then m.src.base else fetchPlace m s.byte off
    | 2 => window (c.srcCore.getD 0) a
    | _ => a
  | .deliver =>
    let a := ringPlace c.snk c.snkSlot c.snkSlots off
    match c.snkEnd with
    | 0 =>
      let m := c.movement
      if m.dst.compress ≠ 0 then m.dst.base else (putPlace m off).getD m.dst.base
    | 2 => window (c.members.headD 0) a
    | _ => a

/-- The store die that serves a piece: the one that holds its bytes where they lie in the central store (R202), else
the stream's home die; the spec names no die for the others (DESIGN CHOICE, log 84). -/
def State.pieceDie (s : State) (n a : Nat) : Nat :=
  match s.target a with
  | .store => storeDie a
  | _ => homeDie n

/-- OCC of R216: a stream that fills a ring counts the slots delivered and not freed, one that empties a ring
the slots free or held by the producer. A slot whose first piece has reached some of its members is in delivery. -/
def State.occ (s : State) (c : Ctx) : Nat :=
  if c.kind = 2 then
    let reading := ceilDiv c.pos c.srcSlot - c.freesPosted
    (c.srcSlots - (s.srcHasp c).fill - reading) * c.srcSlot
  else
    let out := ceilDiv (c.delivered + c.reachedLen) c.snkSlot - c.fillsPosted
    (c.snkSlots - c.ringFree - out) * c.snkSlot

/-- STORE_CFG of a store die. -/
def State.storeCfg (s : State) (d : Nat) : StoreCfg := Assoc.get {} s.store.cfg d

/-- The deadline of a stream's request issued now (R216): the owner of a next pass has not started. -/
def State.deadline (s : State) (n : Nat) (dir : PieceDir) : Word :=
  let c := s.ctx n
  let m := (s.storeCfg (homeDie n)).maxwait
  let tte := if c.started && !(dir == .fetch && c.fetchesAhead) then s.occ c / c.rate else m
  s.strike + BitVec.ofNat 64 (min tte m)

/-- Is deadline (d, t, context, address) a granted before b (R215)? -/
def earlier (a b : Word × Word × Nat × Nat) : Bool :=
  if a.1 ≠ b.1 then !(atOrAfter a.1 b.1)
  else if a.2.1 ≠ b.2.1 then !(atOrAfter a.2.1 b.2.1)
  else if a.2.2.1 ≠ b.2.2.1 then decide (a.2.2.1 < b.2.2.1)
  else decide (a.2.2.2 < b.2.2.2)

/-- The context number a request is ordered by. The spec gives requests of no stream none: they come after every context
(DESIGN CHOICE, log 95). -/
def ReqKind.ctxNo : ReqKind → Nat
  | .piece c _ _ _ => c
  | _ => 16384

/-- The key of R215. -/
def Request.key (r : Request) : Word × Word × Nat × Nat := (r.d, r.t, r.kind.ctxNo, r.addr)

/-- The request a queue grants next (R215). -/
def bestRequest : List Request → Option Request
  | [] => none
  | r :: rs =>
    match bestRequest rs with
    | none => some r
    | some b => if earlier b.key r.key then some b else some r

/-- A request removed from its queue. -/
def State.dropRequest (s : State) (r : Request) : State :=
  { s with store := { s.store with requests := s.store.requests.erase r } }

/-- The accesses of some originators withdrawn from the queues. -/
def State.dropAccesses (s : State) (which : Origin → Nat → Nat → Bool) : State :=
  { s with store := { s.store with requests := s.store.requests.filter (fun r => match r.kind with
      | .access o a n => !(which o a n)
      | _ => true) } }

/-- A place in the queues of the store dies: die, queue, and the address by which a request there is ordered. -/
abbrev Spot := Nat × DieQueue × Nat

/-- The places in one kind of queue that spans of bytes take: one at each store die that serves some of them, at its first
byte (R189, R202, R214). For external memory the spec names no die: the model takes that of R13 and R186 (DESIGN CHOICE, log
84). -/
def spotsOf (q : DieQueue) (spans : List (Nat × Nat)) : List Spot :=
  let at_ := spans.flatMap (fun r => ((unitsOf 4096 r.1 r.2).take 8).map (fun u => max r.1 (4096 * u)))
  (List.range 8).filterMap (fun d => (at_.find? (fun a => storeDie a == d)).map (fun a => (d, q, a)))

/-- The places of a movement operation: at the movement engine of each store die that has a chunk of what it writes, and in
the memory queue of each that serves bytes of external memory which it reads or writes (R186, R189, R214; which die serves
external memory is log 84's). -/
def engineSpots (reads writes : List (Nat × Nat)) : List Spot :=
  spotsOf .engine writes ++ spotsOf .memory ((reads ++ writes).filter (fun r => decide (r.1 < extEnd)))

/-- The spans of the destination that the updates in n image bytes from an offset go to (R184, R186). -/
def Movement.updateSpans (m : Movement) (rd : Nat → Byte) (off n : Nat) : List (Nat × Nat) :=
  if m.src.empty || m.dst.empty then []
  else
    let w := m.src.imageRow
    let ub := etypeBits m.src.ty
    let db := etypeBits m.dst.ty
    (unitsOf w off n).filterMap (fun r =>
      let lo := max off (r * w) - r * w
      let hi := min (off + n - r * w) m.src.rowBytes
      if m.src.rows ≤ r ∨ hi ≤ lo then none
      else
        let a := m.dst.rowAddr (m.scatterDest rd 0 (m.src.rowIdx r)).2
        some (a + lo * db / ub, ceilDiv (hi * db) ub - lo * db / ub))

/-- Memory with the index tensor of a SCATTER_ACC PUT as it was read before the first update (R185). -/
def State.indexByte (s : State) (c : Ctx) (a : Nat) : Byte :=
  match c.indexRead.find? (fun e => e.1 == a) with
  | some e => e.2
  | none => s.byte a

/-- The places that a piece waits in, each with the address it is ordered by (R202, R214, R215): of a multicast piece, one
for each compute die with a receiving core, at the window of its first one; of a SCATTER_ACC PUT's piece, one at each die
that serves a line its updates go to; else one, for its first byte. R214 names no queue for a piece to or from a store ring
or a store tensor that goes to no compute die: the engine's is a DESIGN CHOICE (log 84). -/
def State.pieceSpots (s : State) (n : Nat) (dir : PieceDir) (off len : Nat) : List Spot :=
  let c := s.ctx n
  let a := s.pieceAddr c dir off
  let die := s.pieceDie n a
  match dir, c.snkEnd with
  | .deliver, 2 =>
    ((c.members.map dieOfCore).eraseDups).map (fun d =>
      let first := (c.members.find? (fun k => dieOfCore k == d)).getD 0
      (die, .compute (Fin.ofNat 12 d), windowBase + first * 0x80000 + (a - windowBase) % 0x80000))
  | _, _ =>
    let updates := if dir == .deliver && c.moveOp == 4 then c.movement.updateSpans (s.indexByte c) off len else []
    if updates.isEmpty then
      match s.target a with
      | .ext => [(die, .memory, a)]
      | .window k _ => [(die, .compute (Fin.ofNat 12 (dieOfCore k)), a)]
      | _ => [(die, .engine, a)]
    else spotsOf (if s.target a == .ext then .memory else .engine) updates

/-- A request of no stream, with the deadline t + XWAIT of R216. -/
def State.spotRequest (s : State) (kind : ReqKind) (x : Spot) : Request :=
  { die := x.1, queue := x.2.1, kind := kind, t := s.strike
    d := s.strike + BitVec.ofNat 64 (s.storeCfg x.1).xwait, addr := x.2.2 }

/-- Is a request the next one that its queue grants (R215)? -/
def State.isNext (s : State) (r : Request) : Bool :=
  bestRequest (s.store.requests.filter (fun x => x.die == r.die && x.queue == r.queue)) == some r

/-- An access or a movement operation takes its turns in queues of the store dies: it stands in all of them from its first
attempt, each grants it when no other request there comes before it (R214, R215), and it is carried out once all have.
Where XWAIT exceeds MAXWAIT, R216's deadline lets a stream request that enters after t + MAXWAIT go first, against R217: the
model follows R216 (DESIGN CHOICE, log 95). -/
def State.turns (s : State) (kind : ReqKind) (spots : List Spot) : State × Bool :=
  let mine := fun (r : Request) => r.kind == kind
  let all := if s.store.requests.any mine then s.store.requests else s.store.requests ++ spots.map (s.spotRequest kind)
  let s := { s with store := { s.store with requests := all } }
  let rest := all.filter (fun r => !(mine r && s.isNext r))
  ({ s with store := { s.store with requests := rest } }, !(rest.any mine))

/-- The borrow request granted next (R211, R215). -/
def bestBorrow : List Borrow → Option Borrow
  | [] => none
  | r :: rs =>
    match bestBorrow rs with
    | none => some r
    | some b => if earlier (b.d, b.t, b.ctx, 0) (r.d, r.t, r.ctx, 0) then some b else some r

/-- Is the stream blocked on space (R226)? -/
def State.blockedOnSpace (s : State) (n : Nat) : Bool :=
  let c := s.ctx n
  let noRoom := match s.fetchPiece c with
    | some (_, k) => decide (c.capacity < c.stagedLen + k)
        && (decide (c.borrowMax ≤ c.borrowed) || s.remainder (homeDie n) == 0)
    | none => false
  let ringFull := c.live && !c.cancelled && c.kind != 2 && c.ready != 0 && c.reached.isEmpty
    && c.delivered % c.snkSlot == 0 && c.ringFree == 0 && (c.snkEnd == 1 || c.started)
  noRoom || ringFull

/-- Has the stream finished its pass: every byte of its image delivered, all that will be drained to a PORT delivered, or
cancelled (R206, R220, R223)? -/
def Ctx.passOver (c : Ctx) : Bool :=
  c.cancelled || (match c.kind with
    | 1 => decide (c.padded ≤ c.delivered)
    | 2 => decide (c.len ≤ c.delivered)
      || (c.srcEnd == 3 && c.portClosed && c.portRing.isEmpty && decide (c.srcHasp.fill = 0))
    | _ => false)

/-- Every byte of every slot posted FILL has been written (R220). -/
def State.written (s : State) (c : Ctx) : Bool :=
  c.cancelled || (c.staged.isEmpty && c.portRing.isEmpty && decide ((s.srcHasp c).fill = 0)
    && decide (c.srcEnd = 3 ∨ c.pos % c.srcSlot = 0))

/-- What the merge units write of an image, in image order, as far as it holds whole elements (R186, R241). -/
def scatterAll (m : Movement) (rd : Nat → Byte) (img : List Byte) : Assoc Byte × Nat :=
  let w := m.src.imageRow
  let es := if m.src.ty == .fwp then 192 else etypeBits m.src.ty / 8
  let per := if m.src.ty == .fwp then 32 else 1
  (List.range m.src.rows).foldl (fun acc n =>
    (List.range (m.src.dim 0)).foldl (fun acc i0 =>
      if img.length < n * w + (i0 / per + 1) * es then acc
      else
        let u := codeInRow m.src.ty (fun k => img.getD (n * w + k) 0) i0
        let (k, ix) := m.scatterDest rd i0 (m.src.rowIdx n)
        let rd' := fun a => Assoc.get (rd a) acc.1 a
        let (v, sat) := scatterElem m.dst.ty (m.dst.codeAt rd' k ix) m.src.ty u
        ((elemBytes m.dst k ix v).foldl (fun h w => Assoc.set h w.1 w.2) acc.1, acc.2 + b2n sat)) acc) ([], 0)

/-- The flat image of a compressing PUT (R190, R201): bytes that were never posted keep the earlier contents (R220). -/
def flatImage (m : Movement) (img : List Byte) (old : Nat → Byte) : List Byte :=
  (List.range m.src.rows).flatMap (fun n => (List.range m.src.rowBytes).map (fun o =>
    let i := n * m.src.imageRow + o
    if i < img.length then img.getD i 0 else old (n * m.src.rowBytes + o)))

/-- The earlier image of a compressed destination: that of its region, or free values where the region is none
(log 40). -/
def oldImage (x : Desc) (rd : Nat → Byte) : Nat → Byte :=
  match decompress rd { x with bcast := 0 } with
  | .ok u => fun i => u.getD i 0
  | .error _ => Config.keptByte

end Sys2Proof.Machine
end

