-- ==== Sys2Proof/Machine/Graphs.lean ====
section
/-! DEFINITION. Submission queues, entries and done records, sealed images (R119, R120) and the load of a
graph (R228 to R236, R402). -/

namespace Sys2Proof.Machine

open Sys2Proof

/-! Queues and records. -/

/-- A submission queue, and one replaced. -/
def State.sq (s : State) (q : Nat) : Sq := Assoc.get {} s.ge.sqs q
def State.setSq (s : State) (q : Nat) (x : Sq) : State :=
  { s with ge := { s.ge with sqs := Assoc.set s.ge.sqs q x } }

/-- A record of a submission queue, to the event queue that receives them (R228). -/
def State.toSq (s : State) (q : Nat) (r : Rec) : State :=
  s.toEq (s.sq q).eq { r with queue := q, region := (s.sq q).region, strike := s.strike }

/-- Does a done record of the queue that came to a full buffer still wait to be written, so that it takes no entry
(R358)? -/
def State.sqBlocked (s : State) (q : Nat) : Bool :=
  (s.eq (s.sq q).eq).pending.any (fun r => r.late && r.queue == q)

/-- ENTRY_DONE (Table 7 of file 09). -/
def State.entryDone (s : State) (q : Nat) (tag : BitVec 32) (no status aborted late : Nat) : State :=
  s.toSq q
    { type := 3, tag := tag, status := status
      payload := leBytes 8 no ++ leBytes 4 aborted ++ leBytes 4 late }

/-- The tag and the arguments of an entry (Table 1 of file 09). -/
def Entry.op (e : Entry) : Nat := leAt e.raw 0 1
def Entry.tag (e : Entry) : BitVec 32 := BitVec.ofNat 32 (leAt e.raw 4 4)
def Entry.arg (e : Entry) (n : Nat) : Nat := leAt e.raw (8 + 8 * n) 8

/-- The fields that Table 1 keeps zero. -/
def Entry.padOk (e : Entry) : Bool := leAt e.raw 1 3 == 0 && leAt e.raw 0x20 32 == 0

/-- The reserved bits of an entry of a queue are zero, and its OP is one of Table 2 (R230). The arguments of
a RESHARD are judged by R322. -/
def Entry.formOk (e : Entry) : Bool :=
  e.padOk &&
    (match e.op with
     | 1 => decide (e.arg 0 < 2 ^ 48 ∧ e.arg 0 % 64 = 0 ∧ e.arg 1 = 0 ∧ e.arg 2 = 0)
     | 2 =>
       let scope := e.arg 0 / 2 ^ 16
       decide (e.arg 0 % 2 ^ 16 < 4096 ∧ 1 ≤ scope ∧ scope ≤ 3)
         && (decide (scope = 1 ∧ e.arg 2 < 2 ^ 20) || e.arg 2 == 0) && (scope != 3 || e.arg 1 == 0)
     | 3 =>
       let cmd := e.arg 0 % 4
       decide (e.arg 0 < 2 ^ 30 ∧ e.arg 0 / 4 % 2 ^ 14 = 0 ∧ 1 ≤ cmd ∧ e.arg 2 = 0)
         && (if cmd = 3 then e.arg 1 == 0 else decide (e.arg 1 < 2 ^ 48 ∧ e.arg 1 % 64 = 0))
     | 4 => true
     | 5 => decide (e.arg 0 < 2 ^ 18 ∧ 2 ≤ e.arg 0 / 2 ^ 16 ∧ e.arg 2 = 0)
     | _ => false)

/-- The entry a queue takes next: the oldest read, while no graph is loaded, the queue runs and no done
record holds it back (R230, R253, R256, R358). -/
def State.front (s : State) (q : Nat) : Option Entry :=
  let x := s.sq q
  if x.graph.isSome || x.state != .running || s.sqBlocked q then none else x.entries.head?

/-- The queue without its oldest entry. -/
def State.popEntry (s : State) (q : Nat) : State :=
  let x := s.sq q
  s.setSq q { x with entries := x.entries.tail }

/-- The oldest entry completes with a status (R230). -/
def State.finishEntry (s : State) (q : Nat) (e : Entry) (status : Nat) : State :=
  (s.popEntry q).entryDone q e.tag e.no status 0 0

/-! Reads by a graph engine. -/

/-- The compute die of the graph engine that serves a queue (R251). -/
def State.hostDie (s : State) (q : Nat) : Nat := (s.region (s.sq q).region).host

/-- A violation of the graph engine of a die, on behalf of no task yet. -/
def geViolation (die cause addr : Nat) : VlogEntry :=
  { cause := cause, origin := die, addr := addr, strike := 0, unit := die, kind := 0, region := 0,
    queue := 0xFFF, task := 0, tag := 0 }

/-- n bytes from a fabric address, or the cause of the error response, whose violation is logged (R415). -/
def State.geRead (s : State) (die a n : Nat) : State × Except Nat (List Byte) :=
  match s.moverRead a n with
  | (s, .ok bs) => (s, .ok bs)
  | (s, .error (c, x)) => (s.violate (s.answerDie die c x) (geViolation die c x), .error c)

/-! Sealed images (R119, R120). -/

/-- Kind of binding slot n in an image header. -/
def slotKind (h : List Byte) (n : Nat) : Nat := leAt h 0x28 4 / 4 ^ n % 4
/-- Is slot n declared? -/
def slotDeclared (h : List Byte) (n : Nat) : Bool := leAt h 0x24 2 / 2 ^ n % 2 == 1

/-- Is an image header valid (R120)? -/
def headerOk (h : List Byte) : Bool :=
  let size := leAt h 0x10 8
  leAt h 0 4 == 0x4B524B5A && leAt h 4 2 == 1 && leAt h 6 2 == 128 && leAt h 8 4 == 0x4006
    && leAt h 0xC 2 == 1 && decide (size % 64 = 0 ∧ 64 ≤ size ∧ size ≤ 16777216)
    && decide (leAt h 0x20 4 ≤ 0x60000) && decide (leAt h 0x26 1 < 64) && decide (leAt h 0x27 1 < 8)
    && leAt h 0x2C 4 == 0 && leAt h 0x70 16 == 0
    && (List.range 16).all (fun n => slotDeclared h n == (slotKind h n != 0))

/-- An image read by a graph engine: its header, and whether it passes R120 with BODY_HASH. -/
def State.readImage (s : State) (die a : Nat) : State × List Byte × Bool :=
  match s.geRead die a 128 with
  | (s, .error _) => (s, [], false)
  | (s, .ok h) =>
    if headerOk h then
      match s.geRead die (a + 128) (leAt h 0x10 8) with
      | (s, .error _) => (s, h, false)
      | (s, .ok body) => (s, h, decide (sha256 body = slice h 0x30 32))
    else (s, h, false)

/-! Loading (R232 to R236). -/

/-- Why a graph is rejected: the reason of Table 10 and the failing task. -/
structure Reject where
  reason : Nat
  task : Nat := 0xFFFFFFFF
  deriving DecidableEq, Repr

/-- The reasons of Table 10 of file 09. -/
def rejHeader : Nat := 1
def rejFormat : Nat := 2
def rejOrder : Nat := 3
def rejRange : Nat := 4
def rejBind : Nat := 5

/-- Is a graph header one R232 allows? -/
def graphHeaderOk (h : List Byte) : Bool :=
  let n := leAt h 8 4
  leAt h 0 4 == 0x48474B5A && leAt h 4 2 == 1 && leAt h 6 2 == 256
    && decide (1 ≤ n ∧ n ≤ 1048576 ∧ leAt h 0xC 4 ≤ 4096 ∧ leAt h 0x10 8 % 64 = 0 ∧ 256 ≤ leAt h 0x10 8)
    && decide (leAt h 0x18 8 % 128 = 0 ∧ 256 ≤ leAt h 0x18 8)
    && leAt h 0x2C 4 == 0 && leAt h 0x38 200 == 0

/-- Bit n of CTRL (Table 4 of file 09). -/
def ctrlBit (c n : Nat) : Bool := c / 2 ^ n % 2 == 1

/-- An info slot field: 0 to 15, or 0x1F. -/
def infoOk (v : Nat) : Bool := decide (v ≤ 15 ∨ v = 0x1F)

/-- The field rules of a KERNEL record (R233): fields whose CTRL bit is 0 must be zero (log 15). -/
def kernelFormOk (r : List Byte) : Bool :=
  let at_ := leAt r
  let c := at_ 1 1
  decide (1 ≤ at_ 2 1 ∧ at_ 2 1 ≤ 120 ∧ 1 ≤ at_ 3 1 ∧ at_ 3 1 ≤ 90)
    && decide (1 ≤ at_ 4 1 ∧ at_ 2 1 * at_ 3 1 % at_ 4 1 = 0)
    && infoOk (at_ 5 1) && infoOk (at_ 6 1) && infoOk (at_ 7 1) && decide (at_ 8 1 ≤ 2)
    && (if ctrlBit c 5 then decide (at_ 9 1 ≤ 119 ∧ at_ 0xA 1 ≤ 89) else at_ 9 2 == 0)
    && (if ctrlBit c 2 then
          at_ 0xC 2 / 2 ^ 11 == 0 && decide (-170 ≤ signed 16 (at_ 0xE 2) ∧ signed 16 (at_ 0xE 2) ≤ 127)
        else !(ctrlBit c 3) && at_ 0xC 4 == 0)
    && decide (at_ 0x18 8 % 64 = 0) && (ctrlBit c 4 || at_ 0x20 8 == 0)
    && (if ctrlBit c 0 then decide (at_ 0x48 8 % 64 = 0) else at_ 0x48 8 == 0)
    && (ctrlBit c 0 || !(ctrlBit c 1))
    && (match at_ 8 1 with
        | 0 => at_ 0x30 8 == 0
        | 2 => at_ 0x30 8 / 2 ^ 20 % 2 ^ 12 == 0
        | _ => true)

/-- The field rules of a MOVE record (R233). -/
def moveFormOk (r : List Byte) : Bool :=
  let at_ := leAt r
  (at_ 1 1 == 0 || at_ 1 1 == 0x40) && at_ 2 14 == 0 && at_ 0x30 8 == 0 && at_ 0x48 8 == 0
    && decide (at_ 0x10 8 % 64 = 0 ∧ at_ 0x18 8 % 64 = 0 ∧ at_ 0x20 8 % 64 = 0)
    && at_ 0x28 8 / 2 ^ 7 % 2 == 0 && at_ 0x28 8 / 2 ^ 26 == 0

/-- The field rules of a WARD record: only PRED, FLAG, USER and CTRL.REPORT (R235). -/
def wardFormOk (r : List Byte) : Bool :=
  (leAt r 1 1 == 0 || leAt r 1 1 == 0x40) && leAt r 2 0x36 == 0 && leAt r 0x48 8 == 0

/-- The field rules that every record keeps. -/
def taskFormOk (r : List Byte) : Bool :=
  (match leAt r 0 1 with
   | 1 => kernelFormOk r
   | 2 => moveFormOk r
   | 3 => wardFormOk r
   | _ => false)
  && !(ctrlBit (leAt r 1 1) 7) && leAt r 0xB 1 == 0 && leAt r 0x58 40 == 0
  && decide (leAt r 0x38 4 % 4 = 0 ∧ leAt r 0x3C 4 ≤ 65536 ∧ leAt r 0x40 4 % 16 = 0 ∧ leAt r 0x44 4 ≤ 64)

/-- The entries of a flag list (R235). -/
def flagList (n : Nat) (bs : List Byte) : List FlagOp :=
  (List.range n).map (fun j =>
    { flag := leAt bs (16 * j) 2, op := leAt bs (16 * j + 2) 1, value := BitVec.ofNat 64 (leAt bs (16 * j + 8) 8) })
def flagListOk (n : Nat) (bs : List Byte) : Bool :=
  (List.range n).all (fun j =>
    decide (1 ≤ leAt bs (16 * j + 2) 1 ∧ leAt bs (16 * j + 2) 1 ≤ 3) && leAt bs (16 * j + 3) 5 == 0)

/-- The info slots of a record: GIDX, PIDX, GRECT. -/
def infoSlots (r : List Byte) : List Nat := [leAt r 5 1, leAt r 6 1, leAt r 7 1].filter (· != 0x1F)

/-- Does a binding table agree with an image header (R234, R236)? -/
def bindingOk (r h tab : List Byte) : Bool :=
  (List.range 16).all (fun n =>
    let v := leAt tab (8 * n) 8
    let k := if slotDeclared h n then slotKind h n else 0
    (!((infoSlots r).contains n) || (k == 2 && v == 0))
      && (match k with
          | 0 => v == 0
          | 1 => decide (v < 2 ^ 48)
          | 3 => decide (v < 2 ^ 62)
          | _ => true))
  && decide (leAt r 0x20 8 < 2 ^ 62 ∨ leAt r 0 1 ≠ 1)

/-- The kind a record's KIND names. -/
def kindOf (r : List Byte) : TaskKind :=
  match leAt r 0 1 with
  | 1 => .kernel
  | 2 => .move
  | _ => .ward

/-- A record as loaded. -/
def taskRecOf (r : List Byte) (preds : List Nat) (flags : List FlagOp) (bad : Bool)
    (binds : List (Nat × Nat)) : TaskRec :=
  { kind := kindOf r, ctrl := BitVec.ofNat 8 (leAt r 1 1), gangW := leAt r 2 1, gangH := leAt r 3 1
    split := leAt r 4 1, gidx := leAt r 5 1, pidx := leAt r 6 1, grect := leAt r 7 1
    launchMode := leAt r 8 1, pinX := leAt r 9 1, pinY := leAt r 0xA 1
    a := leAt r 0x10 8, b := leAt r 0x18 8, c := leAt r 0x20 8, d := leAt r 0x28 8
    launch := leAt r 0x30 8, preds := preds, flags := flags, cutCap := leAt r 0x48 8
    user := BitVec.ofNat 64 (leAt r 0x50 8), badImage := bad, binds := binds
    chunk := if ctrlBit (leAt r 1 1) 2 then 32 * (leAt r 0xC 2 % 2 ^ 11 + 1) else 0
    window := if ctrlBit (leAt r 1 1) 2 then signed 16 (leAt r 0xE 2) else 0 }

/-- What a graph load reads once: base, size, die, and the image table with each image's header and whether
the image passes R120. -/
structure Loading where
  base : Nat
  bytes : Nat
  die : Nat
  images : List (Nat × List Byte × Bool)
  deriving DecidableEq, Repr

/-- Each image of the image table read, in order (R236). -/
def State.readImages (s : State) (die : Nat) : List Nat → State × List (Nat × List Byte × Bool)
  | [] => (s, [])
  | a :: rest =>
    match s.readImage die a with
    | (s, h, ok) =>
      match State.readImages s die rest with
      | (s, l) => (s, (a, h, ok) :: l)

/-- The image and binding table of a KERNEL record (R234, R236): the whole image, its header and body, lies in the central
store. No rule names a check of the image address's
alignment: an image that is not aligned to 64 bytes loads and runs (DESIGN CHOICE, log 84). -/
def State.checkImage (s : State) (l : Loading) (r : List Byte) : State × Except Reject (Bool × List (Nat × Nat)) :=
  let a := leAt r 0x10 8
  match l.images.find? (fun e => e.1 == a) with
  | none => (s, .error { reason := rejRange })
  | some (_, h, ok) =>
    let n := 128 + (if headerOk h then leAt h 0x10 8 else 0)
    if s.target a != .store || decide (s.targetEnd a < a + n) then (s, .error { reason := rejRange })
    else match s.geRead l.die (leAt r 0x18 8) 128 with
      | (s, .error _) => (s, .error { reason := rejBind })
      | (s, .ok tab) =>
        if headerOk h && !(bindingOk r h tab) then (s, .error { reason := rejBind })
        else
          (s, .ok (!ok, (List.range 16).map (fun n =>
            (if slotDeclared h n then slotKind h n else 0, leAt tab (8 * n) 8))))

/-- Record i checked, with its lists. earlier: the tasks before it. -/
def State.loadTask (s : State) (l : Loading) (i : Nat) (r : List Byte) (earlier : List (Nat × Task)) :
    State × Except Reject Task :=
  let bad := fun (s : State) n => (s, Except.error { reason := n, task := i })
  let relRef := leAt r 0x30 8 % 2 ^ 20
  let rel := leAt r 0 1 == 1 && leAt r 8 1 == 2
  if !(taskFormOk r) then bad s rejFormat
  else if rel && decide (i ≤ relRef) then bad s rejOrder
  else if rel && !((earlier.find? (fun e => e.1 == relRef)).any (fun e => e.2.info.kind == .ward)) then
    bad s rejFormat
  else
    let np := leAt r 0x3C 4
    let nf := leAt r 0x44 4
    if l.bytes < leAt r 0x38 4 + 4 * np ∨ l.bytes < leAt r 0x40 4 + 16 * nf then bad s rejRange
    else match s.geRead l.die (l.base + leAt r 0x38 4) (4 * np) with
      | (s, .error _) => bad s rejRange
      | (s, .ok pl) =>
        let preds := (List.range np).map (fun j => leAt pl (4 * j) 4)
        if preds.any (fun p => decide (2 ^ 20 ≤ p)) then bad s rejFormat
        else if preds.any (fun p => decide (i ≤ p)) then bad s rejOrder
        else match s.geRead l.die (l.base + leAt r 0x40 4) (16 * nf) with
          | (s, .error _) => bad s rejRange
          | (s, .ok fl) =>
            if !(flagListOk nf fl) then bad s rejFormat
            else if kindOf r == .kernel then
              match s.checkImage l r with
              | (s, .error e) => (s, .error { e with task := i })
              | (s, .ok (bad, binds)) => (s, .ok { info := taskRecOf r preds (flagList nf fl) bad binds })
            else (s, .ok { info := taskRecOf r preds (flagList nf fl) false [] })

/-- Records i, i + 1, … checked in order, up to the first that fails. -/
def State.loadTasks (s : State) (l : Loading) (i : Nat) (acc : List (Nat × Task)) :
    List (List Byte) → State × Except Reject (List (Nat × Task))
  | [] => (s, .ok acc)
  | r :: rs =>
    match s.loadTask l i r acc with
    | (s, .error e) => (s, .error e)
    | (s, .ok t) => State.loadTasks s l (i + 1) (acc ++ [(i, t)]) rs

/-- The graph at a base, checked (R232 to R236). -/
def State.readGraph (s : State) (q : Nat) (e : Entry) : State × Except (Reject × Word) Graph :=
  let die := s.hostDie q
  let base := e.arg 0
  match s.geRead die base 256 with
  | (s, .error _) => (s, .error ({ reason := rejHeader }, 0))
  | (s, .ok h) =>
    let user := BitVec.ofNat 64 (leAt h 0x30 8)
    if !(graphHeaderOk h) then (s, .error ({ reason := rejHeader }, user))
    else
      let n := leAt h 8 4
      let ni := leAt h 0xC 4
      let size := leAt h 0x10 8
      if size < leAt h 0x18 8 + 128 * n ∨ size < leAt h 0x20 8 + 8 * ni then
        (s, .error ({ reason := rejRange }, user))
      else match s.geRead die (base + leAt h 0x20 8) (8 * ni) with
        | (s, .error _) => (s, .error ({ reason := rejRange }, user))
        | (s, .ok tab) =>
          match s.geRead die (base + leAt h 0x18 8) (128 * n) with
          | (s, .error _) => (s, .error ({ reason := rejRange }, user))
          | (s, .ok recs) =>
            match s.readImages die ((List.range ni).map (fun k => leAt tab (8 * k) 8)) with
            | (s, images) =>
              let l : Loading := { base := base, bytes := size, die := die, images := images }
              match s.loadTasks l 0 [] ((List.range n).map (fun i => slice recs (128 * i) 128)) with
              | (s, .error r) => (s, .error (r, user))
              | (s, .ok ts) =>
                (s, .ok
                  { entry := e.no, tag := e.tag, base := base, epoch := BitVec.ofNat 32 (leAt h 0x28 4)
                    user := user, count := n, tasks := ts })

/-! The recovery area (R402, R403). -/

/-- Bytes of the mirror of a graph of n tasks. -/
def mirrorBytes (n : Nat) : Nat := roundUp (4096 + ceilDiv n 2) 4096

/-- Bytes of a region's area, its mirrors and its journal records. -/
def Region.areaBytes (r : Region) : Nat := r.areaSize * 4096
def State.mirrors (s : State) (r : Nat) : Nat :=
  (s.ge.sqs.filterMap (fun e => if e.2.region = r then e.2.graph else none)).foldl
    (fun n g => n + mirrorBytes g.count) 0
def State.journalBytes (s : State) (r : Nat) : Nat :=
  320 * ((s.ge.journal ++ s.ge.undo).filter (fun j => j.region == r)).length

/-- Free bytes of a region's area. -/
def State.areaRoom (s : State) (r : Nat) : Nat :=
  (s.region r).areaBytes - s.mirrors r - s.journalBytes r

/-- The part of a region's area that holds the mirrors, or the journal, cannot be read: a line of it is poisoned, or it
reaches the pool or a store die that is off (R405, R412, log 16). -/
def State.areaBad (s : State) (r : Nat) (journal : Bool) : Bool :=
  let x := s.region r
  let m := x.areaBase + s.mirrors r
  let lo := if journal then m else x.areaBase
  let hi := if journal then x.areaBase + x.areaBytes else m
  (s.store.poison ++ s.store.bad).any (fun l => decide (lo ≤ 64 * l ∧ 64 * l < hi))
    || (decide (lo < hi) && (decide (s.poolStart < hi) || (s.firstOff lo (hi - 1)).isSome))

/-- GRAPH_DONE (Table 10 of file 09). -/
def State.graphDone (s : State) (q : Nat) (tag : BitVec 32) (entry status reason first : Nat) (user : Word)
    (counts : List Nat) : State :=
  s.toSq q
    { type := 2, tag := tag, status := status
      payload := (List.range 4).flatMap (fun n => leBytes 4 (counts.getD n 0)) ++ leBytes 4 first
        ++ [BitVec.ofNat 8 reason, 0, 0, 0] ++ leBytes 8 entry ++ leBytes 8 user.toNat }

/-- What a task record makes the load read beside itself: its lists, and the binding table of a KERNEL task. -/
def recordSpans (base : Nat) (r : List Byte) : List (Nat × Nat) :=
  [(base + leAt r 0x38 4, 4 * leAt r 0x3C 4), (base + leAt r 0x40 4, 16 * leAt r 0x44 4)]
    ++ (if kindOf r == .kernel then [(leAt r 0x18 8, 128)] else [])

/-- What the load of an image reads: its header and its body. -/
def State.imageSpan (s : State) (a : Nat) : Nat × Nat :=
  let h := s.bytes a 128
  (a, 128 + (if headerOk h then leAt h 0x10 8 else 0))

/-- What the load of the graph at an address reads (R236). -/
def State.graphSpans (s : State) (base : Nat) : List (Nat × Nat) :=
  let h := s.bytes base 256
  (base, 256) ::
    (if graphHeaderOk h then
      let n := leAt h 8 4
      let ni := leAt h 0xC 4
      let tab := s.bytes (base + leAt h 0x20 8) (8 * ni)
      let recs := s.bytes (base + leAt h 0x18 8) (128 * n)
      [(base + leAt h 0x20 8, 8 * ni), (base + leAt h 0x18 8, 128 * n)]
        ++ (List.range ni).map (fun k => s.imageSpan (leAt tab (8 * k) 8))
        ++ (List.range n).flatMap (fun i => recordSpans base (slice recs (128 * i) 128))
    else [])

/-- A region's recovery area reaches the pool, or a store die that is off: no write to it is answered well. -/
def State.areaLost (s : State) (r : Nat) : Bool :=
  let x := s.region r
  decide (0 < x.areaSize) && (decide (s.poolStart < x.areaBase + x.areaBytes)
    || (s.firstOff x.areaBase (x.areaBase + x.areaBytes - 1)).isSome)

end Sys2Proof.Machine
end

