-- ==== Sys2Proof/Machine/Links.lean ====
section
/-! DEFINITION. The torus ports (files 11 and 12): their state, packets and flits, and what happens when a port
changes state. The commands of the ports, in their family files, call these. -/

namespace Sys2Proof.Machine

open Sys2Proof

/-- A torus port, and one replaced. -/
def State.lport (s : State) (p : Nat) : Port := Assoc.get {} s.link.ports p
def State.setLport (s : State) (p : Nat) (x : Port) : State :=
  { s with link := { s.link with ports := Assoc.set s.link.ports p x } }

/-- The link die of a port (Table 1 of file 11). -/
def linkDie (p : Nat) : Nat := 48 + p / 4

/-- Axis and direction of a port: 0 plus, 1 minus. -/
def axisOf (p : Nat) : Nat := p / 2
def dirOf (p : Nat) : Nat := p % 2

/-- Is a cable present at a torus port's connector (R463, R464)? -/
def State.cabled (s : State) (p : Nat) : Bool := s.pins.cables.contains p

/-- Does the clock of a port's die run: LCLK is in no gap (R368)? -/
def State.portRuns (s : State) (p : Nat) : Bool := !(s.inGap (linkDie p))

/-- The event queue of a port's records (R295). -/
def Port.eq (x : Port) : Nat := bits x.sqCfg 8 8

/-- Active lanes of a port. -/
def Port.lanesUp (x : Port) : Nat := ((List.range 8).filter (fun n => bit x.lanes n)).length

/-- STATE as PORT_STATUS shows it (Table 3 of file 11). -/
def PortState.code : PortState → Nat
  | .disabled => 0 | .down => 1 | .training => 2 | .linkUp => 3 | .ready => 4 | .mismatch => 5

/-- One of the eight counters of Table 12 counts k events (R298). -/
def Port.count (x : Port) (n k : Nat) : Port :=
  let c := Assoc.get {} x.counters n
  { x with
    counters := Assoc.put {} x.counters n (c.addN k)
    sc := if c.loses k then x.sc.event 5 else x.sc }

/-! Virtual channels and packets (R284, R292). -/

/-- A virtual channel of a port, and one replaced. -/
def Port.vcOf (x : Port) : Vc → VcState
  | .req => x.req
  | .red => x.red
  | .rsp => x.rsp
def Port.setVc (x : Port) (v : Vc) (c : VcState) : Port :=
  match v with
  | .req => { x with req := c }
  | .red => { x with red := c }
  | .rsp => { x with rsp := c }

/-- The number of a virtual channel. -/
def vcNo : Vc → Nat
  | .req => 0 | .red => 1 | .rsp => 2

/-- A packet header (Table 6 of file 11). -/
structure Header where
  op : Nat
  etype : Nat := 0
  len : Nat := 0
  tag : Nat := 0
  status : Nat := 0
  addr : Nat := 0
  value : Nat := 0
  epoch : Nat := 0
  aux : Nat := 0
  deriving DecidableEq, Repr

/-- The 32 bytes of a header. -/
def Header.bytes (h : Header) : List Byte :=
  [BitVec.ofNat 8 h.op, BitVec.ofNat 8 h.etype] ++ leBytes 2 h.len ++ leBytes 2 h.tag ++ leBytes 2 h.status
    ++ leBytes 8 h.addr ++ leBytes 8 h.value ++ leBytes 4 h.epoch ++ leBytes 4 h.aux

/-- The header at the front of a byte string. -/
def headerOf (b : List Byte) : Header :=
  { op := leAt b 0 1, etype := leAt b 1 1, len := leAt b 2 2, tag := leAt b 4 2, status := leAt b 6 2
    addr := leAt b 8 8, value := leAt b 0x10 8, epoch := leAt b 0x18 4, aux := leAt b 0x1C 4 }

/-- Data bytes that follow a header: a GET carries none (Table 7 of file 11). -/
def Header.dataLen (h : Header) : Nat := if h.op = 2 then 0 else 64 * h.len

/-- A packet put at the end of a virtual channel's stream. -/
def Port.send (x : Port) (v : Vc) (h : Header) (data : List Byte) : Port :=
  let c := x.vcOf v
  x.setVc v { c with tx := c.tx ++ h.bytes ++ data }

/-- A packet that awaits COMPLETION or GET_RSP sent, under the next tag. -/
def Port.sendTagged (x : Port) (v : Vc) (h : Header) (data : List Byte) (who : PacketFor) : Port :=
  { (x.send v { h with tag := x.nextTag } data) with
    taken := x.taken ++ [{ tag := x.nextTag, vc := v, who := who }]
    nextTag := (x.nextTag + 1) % 65536 }

/-! Exchange channels (R301 to R306). -/

def Channel.valid (c : Channel) : Bool := bit c.a 63
def Channel.xmode (c : Channel) : Nat := bits c.a 56 2
def Channel.creditFlag (c : Channel) : Nat := bits c.a 32 16
def Channel.remoteCtx (c : Channel) : Nat := bits c.a 16 14
def Channel.localCtx (c : Channel) : Nat := bits c.a 0 14
def Channel.retFlag (c : Channel) : Nat := bits c.b 32 16
def Channel.rxCtx (c : Channel) : Nat := bits c.b 0 14

/-- A channel of a port, and one replaced. -/
def Port.channel (x : Port) (n : Nat) : Channel := Assoc.get {} x.channels n
def Port.setChannel (x : Port) (n : Nat) (c : Channel) : Port :=
  { x with channels := Assoc.put {} x.channels n c }

/-- The valid channels of the module: (port, channel). -/
def State.validChannels (s : State) : List (Nat × Nat) :=
  (List.range 8).flatMap (fun p =>
    ((List.range 16).filter (fun n => ((s.lport p).channel n).valid)).map (fun n => (p, n)))

/-- Does a context fill the send ring of a channel: one that is valid, or that an XCH_FAULT has stopped (R303, R306)? -/
def State.sendsRing (s : State) (k : Nat) : Bool :=
  (List.range 8).any (fun p => (List.range 16).any (fun n =>
    let c := (s.lport p).channel n
    (c.valid || c.faulted) && c.localCtx == k))

/-- Does a valid channel name a context as its LOCAL_CTX or RX_CTX (R308, R409)? -/
def State.exchangeCtx (s : State) (k : Nat) : Bool :=
  s.validChannels.any (fun (p, n) =>
    let c := (s.lport p).channel n
    c.localCtx == k || c.rxCtx == k)

/-- A pass of a receive context has ended: its port adds 1 to RET_FLAG on the neighbour (R304). -/
def State.returnFlags (s : State) (k : Nat) : State :=
  (s.validChannels.filter (fun (p, n) => ((s.lport p).channel n).rxCtx == k)).foldl (fun s (p, n) =>
    let x := s.lport p
    s.setLport p (x.sendTagged .req
      { op := 5, addr := (x.channel n).retFlag, value := 1, aux := 3 } [] .retFlag)) s

/-- A record to a port's event queue, and one that also goes to the module log. -/
def State.toPort (s : State) (p : Nat) (r : Rec) : State := s.toEq (s.lport p).eq { r with strike := s.strike }
def State.toPortLog (s : State) (p : Nat) (r : Rec) : State :=
  (s.toPort p r).mlog { r with strike := s.strike }

/-- LINK_DONE (R296). -/
def State.linkDone (s : State) (p : Nat) (user : Word) (op status : Nat) : State :=
  s.toPort p
    { type := 0x22, status := status
      payload := leBytes 8 user.toNat ++ [BitVec.ofNat 8 p, BitVec.ofNat 8 op] }

/-- LINK_STATE (R296). -/
def State.linkState (s : State) (p : Nat) : State :=
  let x := s.lport p
  s.toPortLog p
    { type := 0x20, status := x.state.code + 16 * x.lanesUp, payload := [BitVec.ofNat 8 x.lanes.toNat] }

/-- A channel faults: VALID clears and XCH_FAULT is written (R306). -/
def State.channelFault (s : State) (p n status : Nat) : State :=
  let x := s.lport p
  let c := x.channel n
  let s := s.setLport p (x.setChannel n
    { c with a := c.a &&& 0x7FFFFFFFFFFFFFFF, slot := false, flying := 0, clearing := none, faulted := true })
  s.toPortLog p
    { type := 0x24, status := status
      payload := [BitVec.ofNat 8 p, BitVec.ofNat 8 n, 0, 0, 0, 0, 0, 0] ++ leBytes 8 c.next }

/-! RESHARD_FAULT (R325). -/

/-- The RESHARD of an axis. -/
def State.reshardOf (s : State) (axis : Nat) : Option Reshard := Assoc.get none (s.link.reshards.map (fun e => (e.1, some e.2))) axis
def State.setReshard (s : State) (axis : Nat) (r : Reshard) : State :=
  { s with link := { s.link with reshards := Assoc.set s.link.reshards axis r } }

/-- Free bytes written over a span: its contents are undefined. -/
def State.scramble (s : State) (a n : Nat) : State :=
  (s.putBytes a ((List.range n).map (fun i => (Config.freeWord (s.free + i)).truncate 8))).useFree n

/-- RESHARD_FAULT: the record is written once, and every local DST span becomes undefined. -/
def State.reshardFault (s : State) (axis status : Nat) : State :=
  match s.reshardOf axis with
  | none => s
  | some r =>
    if r.fault.isSome then s
    else
      let s := s.setReshard axis { r with fault := some status }
      let rec_ : Rec := { type := 0x25, status := status, queue := r.q, region := (s.sq r.q).region, strike := s.strike }
      let s := (s.toEq (s.sq r.q).eq rec_).mlog rec_
      (r.list.filter (fun e => e.dir == 0)).foldl (fun s e => s.scramble e.dst (64 * e.units)) s

/-! States of a port (R282, R287, R289). -/

/-- A packet's sender learns its status: the descriptor's LINK_DONE, the channel's fault, or the RESHARD's. -/
def State.failTaken (s : State) (p : Nat) (t : Taken) (status : Nat) : State :=
  match t.who with
  | .descriptor user op _ _ => s.linkDone p user op status
  | .channel n => if ((s.lport p).channel n).valid then s.channelFault p n status else s
  | .reshard e => if (s.reshardOf (axisOf p)).any (fun r => r.epoch == e) then s.reshardFault (axisOf p) status else s
  | .retFlag => s

/-- The requests of a port at addresses that pass a test are withdrawn from the store dies' queues. -/
def State.dropTurns (s : State) (p : Nat) (which : Nat → Bool) : State :=
  s.dropAccesses (fun o a _ => match o with
    | .port x => x.val == p && which a
    | _ => false)

/-- Every packet taken and not completed completes with LINK_LOST, and the FREE counts the port holds
return (R282, R401). -/
def State.loseTaken (s : State) (p : Nat) : State :=
  let ts := (s.lport p).taken
  let s := (s.setLport p { s.lport p with taken := [], desc := none }).dropTurns p (fun _ => true)
  let s := ts.foldl (fun s t => s.failTaken p t 3) s
  let s := if (s.reshardOf (axisOf p)).isSome then s.reshardFault (axisOf p) 3 else s
  let x := s.lport p
  (Assoc.keys x.channels).foldl (fun s n =>
    let x := s.lport p
    let c := x.channel n
    if c.open_ then
      let s := s.setLport p (x.setChannel n { c with open_ := false, got := 0 })
      let k := s.ctx c.rxCtx
      s.setCtx c.rxCtx { k with srcHasp := { k.srcHasp with free := k.srcHasp.free + 1 } }
    else s) s

/-- A virtual channel after a link-layer reset. -/
def VcState.fresh : VcState := {}

/-- A link-layer reset (R287). -/
def Port.linkReset (x : Port) : Port :=
  { x with
    seq := 0, ack := 255, acked := 255, nak := false, replay := [], resend := 0, resends := 0, nakSeen := none
    fresh := true, heard := false, req := .fresh, red := .fresh, rsp := .fresh, ctrl := [], hello := none
    ctrlOut := [], desc := none }

/-- A port goes to a state that is not a retrain (R282, R287, R289, R296). -/
def State.portTo (s : State) (p : Nat) (st : PortState) : State :=
  let x := s.lport p
  let was := x.state == .ready || x.held
  let low := st == .down || st == .disabled
  let sc := if st == .down && x.state != .down then x.sc.event 0
    else if st == .mismatch && x.state != .mismatch then x.sc.event 3 else x.sc
  let s := s.setLport p { x with state := st, retrain := false, held := x.held && st == .linkUp, sc := sc }
  let stays := st == .ready || (st == .linkUp && x.held)
  let s := if was && !stays then s.loseTaken p else s
  let s := if low then s.setLport p (s.lport p).linkReset else s
  if (x.state == .ready) != (st == .ready) || (was && !stays) then s.linkState p else s

/-- A retrain begins (R280, R281): the link layer keeps its state. -/
def State.retrain (s : State) (p : Nat) : State :=
  let x := s.lport p
  let s := s.setLport p
    (({ x with state := PortState.training, retrain := true, held := x.held || x.state == .ready, resends := 0 } : Port).count 4 1)
  s.linkState p

end Sys2Proof.Machine
end

