-- ==== Sys2Proof/Machine/Tasks.lean ====
section
/-! DEFINITION. The life of a task (R237 to R257, R401 to R409): readiness, arming, placement, binding and
start, the lease journal, commit, ending, revocation and re-issue, and the end of a graph. -/

namespace Sys2Proof.Machine

open Sys2Proof

/-! Tasks of the loaded graph of a queue. -/

/-- The graph a queue has loaded. -/
def State.graph (s : State) (q : Nat) : Option Graph := (s.sq q).graph

/-- A task of the loaded graph, and one replaced. -/
def Graph.task (g : Graph) (t : Nat) : Option Task := (g.tasks.find? (fun e => e.1 == t)).map Prod.snd
def State.task (s : State) (q t : Nat) : Option Task := (s.graph q).bind (fun g => g.task t)
def State.setTask (s : State) (q t : Nat) (x : Task) : State :=
  let y := s.sq q
  s.setSq q { y with graph := y.graph.map (fun g =>
    { g with tasks := g.tasks.map (fun e => if e.1 = t then (t, x) else e) }) }

/-- The task has ended (R242). -/
def TStatus.ended : TStatus → Bool
  | .complete | .aborted | .failed | .skipped => true
  | _ => false

/-- STATUS of TASK_DONE (Table 7 of file 09). -/
def TStatus.code : TStatus → Nat
  | .aborted => 1 | .failed => 2 | .skipped => 3 | _ => 0

/-- Bits of CTRL (Table 4 of file 09). -/
def TaskRec.cut (r : TaskRec) : Bool := bit r.ctrl 0
def TaskRec.cutHold (r : TaskRec) : Bool := bit r.ctrl 1
def TaskRec.drainValid (r : TaskRec) : Bool := bit r.ctrl 4
def TaskRec.pin (r : TaskRec) : Bool := bit r.ctrl 5
def TaskRec.report (r : TaskRec) : Bool := bit r.ctrl 6

/-- The WARD task a REL launch names (R235, R246). -/
def TaskRec.rel (r : TaskRec) : Option Nat :=
  if r.kind == .kernel && r.launchMode == 2 then some (r.launch % 2 ^ 20) else none

/-- What a task depends on: its predecessors and its REL ward (R237, R246). -/
def TaskRec.deps (r : TaskRec) : List Nat := r.preds ++ r.rel.toList

/-- The region of a queue. -/
def State.regionOf (s : State) (q : Nat) : Nat := (s.sq q).region

/-- Stream slots of a KERNEL task: (binding slot, context, image address); the drain target is slot 16. -/
def TaskRec.streams (r : TaskRec) : List (Nat × Nat × Nat) :=
  let of := fun (n v : Nat) => (n, v / 2 ^ 48 % 2 ^ 14, v % 2 ^ 48)
  (List.range 16).filterMap (fun n =>
    match r.binds[n]? with
    | some (3, v) => some (of n v)
    | _ => none)
  ++ (if r.drainValid then [of 16 r.c] else [])

/-! Records. -/

/-- TASK_DONE, when R258 asks for it. -/
def State.taskDone (s : State) (q t : Nat) : State :=
  match s.graph q, s.task q t with
  | some g, some x =>
    if x.status == .complete && !x.info.report && x.nflags == 0 && x.residue == 0 && x.countA.n == 0
        && x.countB.n == 0 then s
    else s.toSq q
      { type := 1, tag := g.tag, status := x.status.code, task := t
        payload := [BitVec.ofNat 8 x.fate.exc, BitVec.ofNat 8 x.fate.cause] ++ leBytes 2 (min x.residue 0xFFFF)
          ++ leBytes 4 x.fate.instr ++ leBytes 2 x.fate.core
          ++ [BitVec.ofNat 8 x.fate.x, BitVec.ofNat 8 x.fate.y, x.nflags, 0, 0, 0]
          ++ leBytes 8 x.countA.word.toNat ++ leBytes 8 x.countB.word.toNat ++ leBytes 8 x.info.user.toNat }
  | _, _ => s

/-- CUT_REACHED (Table 7 of file 09). -/
def State.cutReached (s : State) (q cap size task : Nat) (hold : Bool) : State :=
  s.toSq q
    { type := 4, tag := ((s.graph q).map (fun g => g.tag)).getD 0, task := task
      payload := leBytes 8 cap ++ leBytes 8 size ++ [BitVec.ofNat 8 (b2n hold)] }

/-! The end of a graph (R237, R242, R256). -/

/-- Waiting tasks whose dependence ended other than COMPLETE end SKIPPED, in index order (R237, R246). -/
def State.skipTasks (s : State) (q : Nat) : List Nat → State
  | [] => s
  | t :: ts =>
    match s.task q t with
    | some x =>
      let lost := x.info.deps.any (fun p =>
        match s.task q p with
        | some y => y.status.ended && y.status != .complete
        | none => false)
      if x.status == .waiting && lost then
        State.skipTasks ((s.setTask q t { x with status := .skipped, fate := { cause := 0xF2 } }).taskDone q t) q ts
      else State.skipTasks s q ts
    | none => State.skipTasks s q ts

/-- CUT_REACHED of a cut hold, once the tasks that ran when it began have ended (R256). -/
def State.cutSettle (s : State) (q : Nat) : State :=
  let x := s.sq q
  match x.cutWait with
  | none => s
  | some (cap, size, t) =>
    if (x.graph.elim [] (fun g => g.tasks)).any (fun e => e.2.status == .running && x.cutRuns.contains e.1) then s
    else (s.setSq q { x with cutWait := none, cutRuns := [] }).cutReached q cap size t true

/-- Tasks of a status in a graph. -/
def Graph.count_ (g : Graph) (st : TStatus) : Nat := (g.tasks.filter (fun e => e.2.status == st)).length

/-- The lowest task that is not COMPLETE (Table 10 of file 09). -/
def Graph.firstBad (g : Graph) : Nat :=
  ((g.tasks.find? (fun e => e.2.status != .complete)).map Prod.fst).getD 0xFFFFFFFF

/-- The graph leaves the graph engine with its GRAPH_DONE (R242); an aborted or settled one counts its tasks
as they stand. -/
def State.closeGraph (s : State) (q status : Nat) : State :=
  match s.graph q with
  | none => s
  | some g =>
    let s := s.graphDone q g.tag g.entry status 0 g.firstBad g.user
      ([TStatus.complete, .aborted, .failed, .skipped].map g.count_)
    let x := s.sq q
    s.setSq q { x with graph := none, past := x.past ++ [(g.entry, g.tasks.map (fun e => e.2.status))] }

/-- After a task has ended: dependents are skipped, a cut hold may be reached, the graph may end. -/
def State.settleGraph (s : State) (q : Nat) : State :=
  let s := s.skipTasks q ((s.graph q).elim [] (fun g => g.tasks.map Prod.fst))
  let s := s.cutSettle q
  match s.graph q with
  | some g => if g.tasks.all (fun e => e.2.status.ended) then s.closeGraph q 0 else s
  | none => s

/-! Cores of a gang. -/

/-- A core stopped under R51: its engines, queues and registers are gone, its tiles are clear, its local
memory stays (R100). -/
def Core.stopped (k : Core) : Core := { lm := k.lm, lmErr := k.lmErr, corrected := k.corrected }

/-- Does the core hold a task? -/
def Core.runs (k : Core) (q t : Nat) : Bool :=
  match k.task with
  | some c => c.q == q && c.task == t
  | none => false

/-- The row of a core has no task from now on, as far as this core goes (R371). -/
def State.rowIdle (s : State) (c : Nat) : State :=
  if (Assoc.keys s.grid.ungated).contains (rowKey c) then
    { s with grid := { s.grid with ungated := Assoc.set s.grid.ungated (rowKey c) s.aclk } }
  else s

/-- A core's transfers and hasp posts withdrawn from the store dies (R224). -/
def State.withdrawCore (s : State) (c : Nat) : State :=
  { s with store := { s.store with
      requests := s.store.requests.filter (fun r => match r.kind with | .transfer k _ => k != c | _ => true)
      hposts := s.store.hposts.filter (fun h => h.core != c) } }

/-- A core of a task stopped. -/
def State.stopCore (s : State) (q t c : Nat) : State :=
  if (s.core c).runs q t then ((s.setCore c (s.core c).stopped).withdrawCore c).rowIdle c else s

/-- A core of a task that has committed: it is free, and its data queues are empty (R105, R241). -/
def State.freeCore (s : State) (q t c : Nat) : State :=
  if (s.core c).runs q t then (s.setCore c { s.core c with task := none, dq := [] }).rowIdle c else s

/-! The lease journal (R403). -/

/-- The outcome of the journal for an in-place write. -/
inductive Journaled where
  | ok (s : State)
  /-- the write waits until another task of the region commits or ends -/
  | waits
  /-- JOURNAL_FULL at this address -/
  | full (a : Nat)
  /-- an error response to the write: cause and address -/
  | bad (cause a : Nat)
  /-- an error response to the write of a journal record: the region faults with AREA_FAULT (R412) -/
  | area (r : Nat)
  deriving DecidableEq, Repr

/-- A granule read for a journal record (R344, R403): its contents, and the error marks of the units whose data is lost, which
go back with them. That the write goes on over lost data is a DESIGN CHOICE (log 95): the spec gives it no error response. -/
def State.record (s : State) (q t g : Nat) : State :=
  let units := (List.range 4).map (4 * g + ·)
  let s := units.foldl (fun s u => (s.memRead (64 * u) 64).1) s
  let poisoned := s.target (256 * g) == .ext && (s.port_ (s.portAt (256 * g))).poison.contains g
  let lost := units.filter (fun u => poisoned || s.ext.bad.contains u || s.store.poison.contains u)
  { s with ge := { s.ge with journal :=
      { region := s.regionOf q, q := q, task := t, granule := g, prior := s.bytes (256 * g) 256, lost := lost
        poisoned := poisoned } :: s.ge.journal } }

/-- Journal records for the granules that a task has not yet written in place. -/
def State.journal (s : State) (q t : Nat) : List Nat → Journaled
  | [] => .ok s
  | g :: gs =>
    let r := s.regionOf q
    let mine := fun (j : Journal) => j.q == q && j.task == t
    if s.ge.journal.any (fun j => mine j && j.granule == g) then State.journal s q t gs
    else if s.areaLost r then .area r
    else if s.areaRoom r < 320 then
      if s.ge.journal.any (fun j => j.region == r && !(mine j)) then .waits else .full (256 * g)
    else
      State.journal (s.record q t g) q t gs

/-- The granules of external memory and the central store that a list of writes touches. -/
def granulesOf (ws : List (Nat × Byte)) : List Nat :=
  ((ws.filter (fun w => decide (w.1 < windowBase))).map (fun w => w.1 / 256)).eraseDups

/-- Runs of bytes at consecutive addresses in a list of writes. -/
def runsOf : List (Nat × Byte) → List (Nat × List Byte)
  | [] => []
  | (a, b) :: ws =>
    match runsOf ws with
    | (x, bs) :: rs => if x = a + 1 then (a, b :: bs) :: rs else (a, [b]) :: (x, bs) :: rs
    | [] => [(a, [b])]

/-- Bytes written to memory, wherever they lie; a whole unit written clears its error marks (R99, R344, R419). A
write that does not cover an uncorrectable word of local memory is not made (R99). -/
def State.writeRun (s : State) (a : Nat) (bs : List Byte) : State :=
  match s.target a with
  | .ext => s.extWrite a bs
  | .store => s.storeWrite a bs
  | .window c off => (((s.core c).lmWrite off bs).map (s.setCore c)).getD s
  | _ => s.putBytes a bs
def State.writeAll (s : State) (ws : List (Nat × Byte)) : State :=
  (runsOf ws).foldl (fun s w => s.writeRun w.1 w.2) s

/-- What a write of a task to a core window is for: a delivery where the task runs on that core (R115). -/
def Core.useOf (k : Core) (q t : Nat) : WindowUse := if k.runs q t then .delivery 0 else .plain

/-- The error response to a run of bytes that a task writes, if any, as cause and address: no memory there any more, such
as the pool or a window that holds no logical core; a block that is off or gated; a window where another task runs, or
its tiles; part of an uncorrectable word of local memory (R18, R99, R115, R116, R199). -/
def State.runFault (s : State) (q t a : Nat) (bs : List Byte) : Option (Nat × Nat) :=
  let n := bs.length
  if s.target a == .none || decide (s.targetEnd a < a + n) || s.idleWindow a then some (0x30, a)
  else match s.firstOff a (a + n - 1), s.target a with
    | some x, _ => some (0x31, x)
    | none, .window c off =>
      if (s.core c).windowBusy ((s.core c).useOf q t) off n true then some (0x33, a)
      else if ((s.core c).lmWrite off bs).isNone then some (0x35, a) else none
    | none, _ => none

/-- The error response to writes of a task, if any. -/
def State.writeFault (s : State) (q t : Nat) (ws : List (Nat × Byte)) : Option (Nat × Nat) :=
  (runsOf ws).findSome? (fun w => s.runFault q t w.1 w.2)

/-- An in-place write of a task: refused, or journalled, then done. -/
def State.writeInPlace (s : State) (q t : Nat) (ws : List (Nat × Byte)) : Journaled :=
  match s.writeFault q t ws with
  | some e => .bad e.1 e.2
  | none =>
  match s.journal q t (granulesOf ws) with
  | .ok s => .ok (s.writeAll ws)
  | x => x

/-- The error marks of lost units put back. -/
def State.remark (s : State) (g : Nat) (lost : List Nat) (poisoned : Bool) : State :=
  if lost.isEmpty then s
  else match s.target (256 * g) with
    | .ext =>
      let m := s.portAt (256 * g)
      let p := s.port_ m
      let s := { s with ext := { s.ext with bad := s.ext.bad ++ lost.filter (fun u => !(s.ext.bad.contains u)) } }
      if poisoned && !(p.poison.contains g) && decide (p.poison.length < 64) then
        s.setPort_ m { p with poison := p.poison ++ [g] } else s
    | .store =>
      { s with store := { s.store with
          poison := s.store.poison ++ lost.filter (fun u => !(s.store.poison.contains u)) } }
    | _ => s

/-- A journal record written back: its contents and its error marks (R344, R403). Where the granule has become part of the
pool, or its block is off, the write gets an error response, which is logged (R18, R199). -/
def State.restore (s : State) (j : Journal) : State :=
  match s.runFault j.q j.task (256 * j.granule) j.prior with
  | some (cause, a) =>
    let die := s.hostDie j.q
    s.violate (s.answerDie die cause a)
      { (geViolation die cause a).ofTask j.region j.q j.task with kind := 1 }
  | none => (s.writeRun (256 * j.granule) j.prior).remark j.granule j.lost j.poisoned

/-- A journal record written back, or left until its granule need not wait: accesses to the granule wait for that (R346,
R376). -/
def State.undo (s : State) (j : Journal) : State :=
  if s.accessWaits (256 * j.granule) 256 true then { s with ge := { s.ge with undo := s.ge.undo ++ [j] } }
  else s.restore j

/-- The journal records of a task written back, latest first, and freed (R403). -/
def State.rollback (s : State) (q t : Nat) : State :=
  let mine := fun (j : Journal) => j.q == q && j.task == t
  let s := (s.ge.journal.filter mine).foldl State.undo s
  { s with ge := { s.ge with journal := s.ge.journal.filter (fun j => !(mine j)) } }

/-- The records that were left, tried again in their order. -/
def State.settleUndo (s : State) : State :=
  s.ge.undo.foldl State.undo { s with ge := { s.ge with undo := [] } }

/-- The journal records of a task freed (R241). -/
def State.freeJournal (s : State) (q t : Nat) : State :=
  { s with ge := { s.ge with journal := s.ge.journal.filter (fun j => !(j.q == q && j.task == t)) } }

/-! Revocation and the ends of a task (R224, R242, R401, R405). -/

/-- Entry number of the graph a queue has loaded. -/
def State.graphEntry (s : State) (q : Nat) : Nat := ((s.graph q).map (fun g => g.entry)).getD 0

/-- Does a task of a loaded graph own a context? -/
def State.ownedBy (s : State) (c : Ctx) (q t : Nat) : Bool :=
  c.owner == some (q, t) && c.ownerEntry == s.graphEntry q && (s.graph q).isSome

/-- Contexts a task owns. -/
def State.owned (s : State) (q t : Nat) : List Nat :=
  ((s.busyCtxs.filter (fun e => s.ownedBy e.2 q t)).map Prod.fst)

/-- The task that owns a context, while its graph is loaded. -/
def State.ownerTask (s : State) (c : Ctx) : Option (Nat × Nat × Task) :=
  c.owner.bind (fun (q, t) => if s.ownedBy c q t then (s.task q t).map (fun x => (q, t, x)) else none)

/-- The requests of a task's own movement operation, or of its commit, withdrawn from the queues of the store dies (R224,
R405). -/
def State.withdrawTask (s : State) (q t : Nat) : State :=
  { s with store := { s.store with requests := s.store.requests.filter (fun r => match r.kind with
      | .move a b => !(a == q && b == t)
      | .commit a b => !(a == q && b == t)
      | _ => true) } }

/-- The leases of a task revoked, in the order of R405. -/
def State.revoke (s : State) (q t : Nat) : State :=
  match s.task q t with
  | none => s
  | some x =>
    let s := (x.cores.foldl (fun s c => s.stopCore q t c) s).withdrawTask q t
    let s := s.rollback q t
    let s := s.setTask q t { x with
      cores := [], done := [], arrived := [], captured := false, moved := false, held := [], origin := (0, 0)
      residue := 0, nflags := 0, countA := {}, countB := {}, overdue := false }
    (s.owned q t).foldl State.restoreCtx s

/-- A persistent context of a task that ended other than COMPLETE: released where a RELEASE waits for that, else its pass,
rewound, is no task's from now on. R221 ends a pass at its task's commit and says nothing of one that never commits
(DESIGN CHOICE, log 95). -/
def Ctx.orphaned (c : Ctx) : Ctx :=
  if !c.persist then c else if c.releasing then c.emptied else { c with owner := none }

/-- A task ends other than COMPLETE: revoked if it had started or held leases (R242, R249). The counts of the
cores that had ended stay in its record. -/
def State.stopTask (s : State) (q t : Nat) (st : TStatus) (fate : TaskEnd) : State :=
  match s.task q t with
  | none => s
  | some x =>
    if x.status.ended then s
    else
      let s := s.revoke q t
      let s := (s.owned q t).foldl (fun s k => s.setCtx k (s.ctx k).orphaned) s
      match s.task q t with
      | none => s
      | some y =>
        (s.setTask q t { y with
          status := st, fate := fate, residue := x.residue, nflags := x.nflags, countA := x.countA
          countB := x.countB }).taskDone q t

/-- Had the revocation of a task to read a journal that is lost (R405)? -/
def State.journalLost (s : State) (q t : Nat) : Bool :=
  s.ge.journal.any (fun j => j.q == q && j.task == t) && s.areaBad (s.regionOf q) true

/-- The queues of a region. -/
def State.queuesOf (s : State) (r : Nat) : List Nat :=
  (s.ge.sqs.filter (fun e => e.2.enable && e.2.region == r)).map Prod.fst

/-- Tasks of a queue's graph that are ready or running. -/
def State.liveTasks (s : State) (q : Nat) : List Nat :=
  ((s.graph q).elim [] (fun g => g.tasks.filter (fun e => e.2.status == .running || e.2.status == .ready))).map
    Prod.fst

/-- A region faults (R253): its tasks end, its queues stop, REGION_FAULT is written. -/
def State.faultRegion (s : State) (r cause : Nat) : State :=
  let qs := s.queuesOf r
  let n := (qs.map (fun q => (s.liveTasks q).length)).foldl (· + ·) 0
  let s := qs.foldl (fun s q =>
    let s := (s.liveTasks q).foldl (fun s t => s.stopTask q t .aborted { cause := 0xF1 }) s
    let s := s.settleGraph q
    let x := s.sq q
    s.setSq q { x with state := .stopped, sc := x.sc.event 3 }) s
  let g := s.region r
  let regs := Assoc.set s.ge.regions r { g with cause := cause, sc := g.sc.event 1 }
  let s := { s with ge := { s.ge with regions := regs } }
  s.toRegion r { type := 7, strike := s.strike, status := cause, payload := leBytes 4 n }

/-- A task ends other than COMPLETE, and its graph goes on. -/
def State.endTask (s : State) (q t : Nat) (st : TStatus) (fate : TaskEnd) : State :=
  let lost := s.journalLost q t
  let s := (s.stopTask q t st fate).settleGraph q
  if lost then s.faultRegion (s.regionOf q) 3 else s

/-- A revoked task is made ready again, unless R409 excludes it; fate: what led to it, for the record (R113). -/
def State.reissue (s : State) (q t : Nat) (fate : TaskEnd := {}) : State :=
  match s.task q t with
  | none => s
  | some x =>
    if x.status.ended then s
    else if x.targeted then s.endTask q t .aborted { cause := 0xF0 }
    else if x.info.streams.any (fun e => s.exchangeCtx e.2.1) then s.endTask q t .failed { fate with cause := 0x38 }
    else s.setTask q t { x with status := .ready, readyAt := s.strike }

/-- A running or placed task revoked and re-issued (R407, R408). -/
def State.revokeAndReissue (s : State) (q t : Nat) : State :=
  if s.journalLost q t then (s.revoke q t).faultRegion (s.regionOf q) 3
  else (s.revoke q t).reissue q t

/-! A violation on behalf of a task (R172, R415). -/

/-- A violation of a movement engine or a stream on behalf of a task, own being its store die: the unit that answers logs
it, with the originator's die and engine, and the task fails with FABRIC_VIOLATION and the cause. -/
def State.taskViolation (s : State) (q t own cause addr kind : Nat) : State :=
  s.violate (s.answerDie own cause addr)
    { cause := cause, origin := own, addr := addr, strike := 0, unit := own - 16, kind := kind
      region := s.regionOf q, queue := q, task := t, tag := 0 }
def State.failTask (s : State) (q t own cause addr kind : Nat) : State :=
  (s.taskViolation q t own cause addr kind).endTask q t .failed { exc := excFabric, cause := cause }

/-! Readiness (R219, R237, R246). -/

/-- Every dependence of a task has committed, and every WAIT is met. -/
def State.depsMet (s : State) (q : Nat) (x : Task) : Bool :=
  x.info.deps.all (fun p => ((s.task q p).map (fun y => y.status == .complete)).getD false)
    && x.info.flags.all (fun f => f.op != 1 || s.waitMet f.flag f.value)

/-- The droop stretch and the ramp in force on a compute die (R247, R395). -/
def State.geCfg (s : State) (d : Nat) : GeCfg := Assoc.get {} s.ge.cfg d
def State.diePower (s : State) (d : Nat) : DiePower := Assoc.get {} s.power.dies d
def State.stretch (s : State) (d : Nat) : Nat := (s.diePower d).stretch

/-- The launch base fixed now, and the ramp of each die (R246, R247). -/
def State.fixLaunch (s : State) (q : Nat) (x : Task) : Task :=
  let r := x.info
  let ramps := (List.range 12).map (fun d => (s.geCfg d).ramp + s.stretch d)
  match r.rel with
  | some w =>
    let base := ((s.task q w).bind (fun y => y.release)).getD 0
    { x with launch := some (base + BitVec.ofNat 64 (r.launch / 2 ^ 32)), ramps := ramps }
  | none => if r.launchMode = 1 then { x with launch := some (BitVec.ofNat 64 r.launch), ramps := ramps } else x

/-- The slot strike of logical core (x, y) (R247). -/
def slotStrike (base : Word) (ramp x y : Nat) : Word :=
  base + BitVec.ofNat 64 ((8 * (y % 8) + x % 8) * ramp / 64)

/-- One stream slot armed for a task (R210, R219): none when the floor does not fit yet, else the state and
the failure that ends the task, if any. An image at address 0 names a persistent context already armed. -/
def State.armSlot (s : State) (q t k a : Nat) : Option (State × Option TaskEnd) :=
  let c := s.ctx k
  if c.state != .idle && s.ownedBy c q t then some (s, none)
  else if a = 0 then
    some (s, if c.state != .idle && c.persist then none else some { cause := 0x10 })
  else match s.geRead (s.hostDie q) a 72 with
    | (s, .error e) => some (s, some { exc := excFabric, cause := e })
    | (s, .ok image) =>
      let new := armed c image (some (q, t)) (s.graphEntry q)
      let code := s.armCode k new
      if code = 6 then none
      else if code ≠ 0 then some (s, some { cause := code })
      else if new.persist then some (s, some { cause := 2 })
      else if new.kind = 3 then some (s.setCtx k new, none)
      else match s.latch new with
        | (s, .error (cause, x, kind)) =>
          some (s.taskViolation q t (16 + homeDie k) cause x kind, some { exc := excFabric, cause := cause })
        | (s, .ok new) => some (s.setCtx k new, none)

/-- The stream slots armed in order: the flag says that all are armed; a failure ends the task. -/
def State.armSlots (s : State) (q t : Nat) : List (Nat × Nat × Nat) → State × Bool × Option TaskEnd
  | [] => (s, true, none)
  | (_, k, a) :: rest =>
    match s.armSlot q t k a with
    | none => (s, false, none)
    | some (s, some f) => (s, false, some f)
    | some (s, none) => State.armSlots s q t rest

/-- Must the arming of a task's streams wait for external memory (R346)? -/
def State.armHeld (s : State) (x : Task) : Bool :=
  x.info.kind == .kernel && x.info.streams.any (fun e => e.2.2 != 0 && s.armWaits e.2.2)

/-- The data streams of a ready task armed as far as floors allow (R210). -/
def State.armTask (s : State) (q t : Nat) : State :=
  match s.task q t with
  | none => s
  | some x =>
    match s.armSlots q t x.info.streams with
    | (s, _, some f) => s.endTask q t .failed f
    | (s, all, none) => s.setTask q t { x with armed := all }

/-- A task becomes ready (R237). -/
def State.makeReady (s : State) (q t : Nat) (x : Task) : State :=
  let x := s.fixLaunch q { x with status := .ready, readyAt := s.strike }
  let s := s.setTask q t x
  if x.info.kind == .kernel then s.armTask q t else s

/-! Placement (R238, R339). -/

/-- A die whose ACLK and NCLK run (R369). -/
def State.dieClocked (s : State) (d : Nat) : Bool := !(s.gated (4 + d)) && !(s.gated (16 + d))

/-- Does a region hold a logical core? -/
def State.inRegion (s : State) (r x y : Nat) : Bool := (s.region r).holds (dieOfXY x y) (y % 30)

/-- Is a logical core free for placement: no task on its site, no new row map waiting, clocks on (R238, R338)? -/
def State.freeXY (s : State) (x y : Nat) : Bool :=
  (s.rowMap (rowOfXY x y)).next.isNone && s.dieClocked (dieOfXY x y)
    && (match s.physOf x y with
        | some c => (s.core c).task.isNone && !(s.coreInReset c)
        | none => false)

/-- Does a gang fit with its origin at (x, y)? free: now, else ever. -/
def State.fitsAt (s : State) (free : Bool) (r : Nat) (t : TaskRec) (x y : Nat) : Bool :=
  decide (x + t.gangW ≤ 120 ∧ y + t.gangH ≤ 90)
    && ({ x0 := x, y0 := y, x1 := x + t.gangW - 1, y1 := y + t.gangH - 1 } : Rect).cells.all (fun p =>
      s.usable p.1 p.2 && s.inRegion r p.1 p.2 && (!free || s.freeXY p.1 p.2))
    && (!t.pin || (t.pinX == x && t.pinY == y))

/-- Does a gang fit somewhere? -/
def State.fits (s : State) (free : Bool) (r : Nat) (t : TaskRec) : Bool :=
  if t.pin then s.fitsAt free r t t.pinX t.pinY
  else (List.range 90).any (fun y => (List.range 120).any (fun x => s.fitsAt free r t x y))

/-- Has a pass of each persistent context of the task begun for it (R221, R222, R237)? -/
def State.passesBegun (s : State) (q t : Nat) (r : TaskRec) : Bool :=
  r.streams.all (fun (_, k, _) =>
    let c := s.ctx k
    !c.persist || (c.state == .armed && s.ownedBy c q t))

/-- May a task be placed, room apart (R210, R237, R256)? While its queue is STOPPED or CUT_HELD no KERNEL task of a loaded
graph starts; R253 says only that a STOPPED queue takes no entries, so that its MOVE and WARD tasks go on and its KERNEL
tasks wait for RESUME is a DESIGN CHOICE (log 95). -/
def State.placeable (s : State) (q t : Nat) (x : Task) : Bool :=
  x.info.kind == .kernel && x.status == .ready && x.armed && (s.sq q).state == .running
    && s.passesBegun q t x.info

/-- The placeable tasks of a region, in the order of R238: by queue, entry and index (log 17). -/
def State.readyOrder (s : State) (r : Nat) : List (Nat × Nat × Task) :=
  (s.queuesOf r).flatMap (fun q =>
    ((s.graph q).elim [] (fun g => g.tasks)).filterMap (fun e =>
      if s.placeable q e.1 e.2 then some (q, e.1, e.2) else none))

/-- Has a ready task waited PLACE_WAIT (R238)? -/
def State.waited (s : State) (r : Nat) (x : Task) : Bool :=
  x.overdue || atOrAfter s.strike (x.readyAt + BitVec.ofNat 64 (s.geCfg (s.region r).host).placeWait)

/-- May a later task go ahead of these earlier ones: none fits now, and the first has not waited too long? -/
def State.mayPass (s : State) (r : Nat) (earlier : List Task) : Bool :=
  match earlier with
  | [] => true
  | x :: _ => !(s.waited r x) && earlier.all (fun y => !(s.fits true r y.info))

/-- The physical sites of a gang, by gang index (R239). -/
def State.gangSites (s : State) (t : TaskRec) (x y : Nat) : List Nat :=
  ({ x0 := x, y0 := y, x1 := x + t.gangW - 1, y1 := y + t.gangH - 1 } : Rect).cells.map (fun p =>
    (s.physOf p.1 p.2).getD 0)

/-! Binding and start (R123, R205, R234, R239, R240). -/

/-- The core rectangles a context names, with the gang origin added for a data stream. -/
def Ctx.srcRect (c : Ctx) (o : Nat × Nat) : Rect := (rectOf c.srcCores).shift (if c.persist then (0, 0) else o)
def Ctx.snkRect (c : Ctx) (o : Nat × Nat) : Rect := (rectOf c.snkCores).shift (if c.persist then (0, 0) else o)

/-- The gang check of R204, made at binding (R210). -/
def Ctx.gangOk (c : Ctx) (o : Nat × Nat) (gang : Rect) : Bool :=
  (c.srcEnd != 2 || (c.srcRect o).inside gang) && (c.snkEnd != 2 || (c.snkRect o).inside gang)

/-- A context bound to a started task: its members and hasps stand as at the start of a pass. -/
def State.bindCtx (s : State) (q t k : Nat) (o : Nat × Nat) : State :=
  let c := s.ctx k
  let phys := fun (p : Nat × Nat) => (s.physOf p.1 p.2).getD 0
  let members := if c.snkEnd = 2 then (c.snkRect o).cells.map phys else []
  s.setCtx k { c with
    owner := some (q, t), ownerEntry := s.graphEntry q, started := true, state := .active, origin := o, members := members
    hasp := if c.snkEnd = 2 then members.map (fun _ => { free := c.snkSlots }) else c.hasp
    srcCore := if c.srcEnd = 2 then some (phys ((c.srcRect o).x0, (c.srcRect o).y0)) else none }

/-- Is the stream inbound to a core (R138, R205)? A RELAY between core rings is inbound to its members and
outbound from its source core (log 18). -/
def Ctx.inboundTo (c : Ctx) (core : Nat) : Bool :=
  c.snkEnd == 2 && !(c.srcEnd == 2 && c.srcCore == some core && !(c.members.contains core))

/-- The words of a stream slot: ring base, slot size, slot count, context number (R123, R205). A context without a core-ring
end, such as a persistent FETCH into a store ring, has outbound words: SRC, SRC_SLOT and SRC_SLOTS; R205 is silent on
them (DESIGN CHOICE, log 95). -/
def Ctx.bindWords (c : Ctx) (k core : Nat) : List Nat :=
  if c.inboundTo core then [c.snk, c.snkSlot, c.snkSlots, k] else [c.src, c.srcSlot, c.srcSlots, k]

/-- The 64 bytes of each tensor slot's descriptor, read by the graph engine; a failed read gives its cause. -/
def State.readTensors (s : State) (die : Nat) : List (Nat × Nat) → Nat → State × Except Nat (List (Nat × List Byte))
  | [], _ => (s, .ok [])
  | (1, v) :: rest, n =>
    match s.geRead die (v % 2 ^ 48) 64 with
    | (s, .error e) => (s, .error e)
    | (s, .ok bs) =>
      match State.readTensors s die rest (n + 1) with
      | (s, .ok l) => (s, .ok ((n, bs) :: l))
      | (s, .error e) => (s, .error e)
  | _ :: rest, n => State.readTensors s die rest (n + 1)

/-- The words of binding slot n of the core with gang index g (R234, R239, R240). -/
def State.slotWords (s : State) (r : TaskRec) (tensors : List (Nat × List Byte)) (gang : Rect) (g core n : Nat) :
    List Nat :=
  if n = r.gidx then [g]
  else if n = r.pidx then [g % r.split]
  else if n = r.grect then [gang.word]
  else match r.binds[n]? with
    | some (1, _) =>
      let bs := ((tensors.find? (fun e => e.1 == n)).map Prod.snd).getD []
      (List.range 8).map (fun i => leAt bs (8 * i) 8)
    | some (2, v) => [v]
    | some (3, v) => let k := v / 2 ^ 48 % 2 ^ 14; (s.ctx k).bindWords k core
    | _ => []

/-- A core as R114 and R240 leave it at task start. The loop counts, which R114 does not list, are 0, and a core of
the gang that is neither a member of a ring's rectangle nor its source has the handle as outbound, with a copy of
all slots (DESIGN CHOICE, log 84). -/
def State.startedCore (s : State) (q t : Nat) (x : Task) (tensors : List (Nat × List Byte)) (gang : Rect)
    (g core : Nat) : Core :=
  let words := fun n => s.slotWords x.info tensors gang g core n
  let r := x.info
  let kindAt := fun n => ((r.binds[n]?).map Prod.fst).getD 0
  let lx := gang.x0 + g % r.gangW
  let ly := gang.y0 + g / r.gangW
  let handle := fun (n : Nat) =>
    match r.binds[n]? with
    | some (3, v) =>
      let c := s.ctx (v / 2 ^ 48 % 2 ^ 14)
      ({ copy := if c.inboundTo core then 0 else c.srcSlots } : Handle)
    | _ => {}
  { (s.core core).stopped with
    task := some { q := q, task := t, gx := g % r.gangW, gy := g / r.gangW }
    bind := Assoc.putAll 0 [] ((List.range 16).flatMap (fun n =>
      (List.range 8).map (fun i => (8 * n + i, BitVec.ofNat 64 ((words n).getD i 0)))))
    kinds := Assoc.putAll 0 [] ((List.range 16).map (fun n => (n, kindAt n)))
    handles := Assoc.putAll {} [] ((List.range 16).map (fun n => (n, handle n)))
    slot := x.launch.map (fun l => slotStrike l (x.ramps.getD (dieOfXY lx ly) 0) lx ly) }

/-- A placed gang bound and started, or the failure of its binding. -/
def State.startTask (s : State) (q t : Nat) (x : Task) (ox oy : Nat) : State :=
  let r := x.info
  let gang : Rect := { x0 := ox, y0 := oy, x1 := ox + r.gangW - 1, y1 := oy + r.gangH - 1 }
  let sites := s.gangSites r ox oy
  if r.streams.any (fun e => !((s.ctx e.2.1).gangOk (ox, oy) gang)) then s.endTask q t .failed { cause := 3 }
  else match s.geRead (s.hostDie q) r.a 128 with
    | (s, .error _) => s.endTask q t .failed { exc := excImage, core := sites.headD 0, x := ox, y := oy }
    | (s, .ok h) =>
      if !(headerOk h) then
        s.endTask q t .failed { exc := excImage, core := sites.headD 0, x := ox, y := oy }
      else match s.readTensors (s.hostDie q) r.binds 0 with
        | (s, .error e) => s.endTask q t .failed { exc := excFabric, cause := e }
        | (s, .ok tensors) =>
          let s := r.streams.foldl (fun s e => s.bindCtx q t e.2.1 (ox, oy)) s
          let s := (List.range sites.length).foldl (fun s g =>
            let c := sites.getD g 0
            s.setCore c (s.startedCore q t x tensors gang g c)) s
          s.setTask q t { x with
            status := .running, origin := (ox, oy), cores := sites
            streams := r.streams.map (fun e => (e.2.1, e.1)) }

/-! Commit (R241). -/

/-- What a compressing PUT reads at the commit point: the earlier region of a sink whose image was not posted whole (R220). A
SCATTER_ACC PUT has read its indices and its lines before (R185, R186). -/
def State.finalReads (s : State) (c : Ctx) : List (Nat × Nat) :=
  let m := c.movement
  if m.src.empty || m.dst.empty || c.moveOp == 4 then []
  else if c.gathered.length < c.len then [m.dst.regionSpan s.byte]
  else []

/-- What a gathering PUT writes at the commit point, or COMP_OVERFLOW with its address. -/
def State.putFinal (s : State) (c : Ctx) : Except Nat (List (Nat × Byte)) :=
  let m := c.movement
  if m.src.empty || m.dst.empty then .ok []
  else if c.moveOp = 4 then .ok (scatterAll m (s.indexByte c) c.gathered).1
  else
    let r := compressRegion m.dst.compress m.dst.ty (flatImage m c.gathered (oldImage m.dst s.byte))
    if m.dst.cap * 64 < r.length then .error (m.dst.base + m.dst.cap * 64) else .ok (bytesAt m.dst.base r)

/-- The gathering PUTs of a task that are applied at its commit, in slot order. -/
def State.gathering (s : State) (x : Task) : List Nat :=
  (x.streams.map Prod.fst).filter (fun k => (s.ctx k).gathers && !(s.ctx k).cancelled)

/-- What they read: the first error response, with its context, cause and address. -/
def State.finalErrors (s : State) : List Nat → State × Option (Nat × Nat × Nat)
  | [] => (s, none)
  | k :: ks =>
    match s.moverReads (s.finalReads (s.ctx k)) with
    | (s, some (cause, a)) => (s, some (k, cause, a))
    | (s, none) => State.finalErrors s ks

/-- They write for a task; the first overflow, or error response to a write, stops it: its context, cause and address. What
has been written is undelivered no more (R227). -/
def State.putFinals (s : State) (q t : Nat) : List Nat → State × Option (Nat × Nat × Nat)
  | [] => (s, none)
  | k :: ks =>
    match s.putFinal (s.ctx k) with
    | .error a => (s, some (k, 0x28, a))
    | .ok ws =>
      match s.writeFault q t ws with
      | some e => (s, some (k, e.1, e.2))
      | none =>
        let s := s.writeAll ws
        State.putFinals (s.setCtx k { s.ctx k with gathered := [] }) q t ks

/-- Must the commit wait for what a gathering PUT reads or writes (R346, R347)? -/
def State.finalWaits (s : State) (k : Nat) : Bool :=
  let c := s.ctx k
  (s.finalReads c).any (fun r => s.accessWaits r.1 r.2 false)
    || (match s.putFinal c with
        | .ok ws => ws.any (fun w => s.accessWaits w.1 1 true)
        | .error _ => false)

/-- Has a core given back slots that its home die has not yet counted (R140, R209)? -/
def State.postsDue (s : State) (k : Nat) : Bool := s.store.hposts.any (fun h => h.ctx == k && h.k == .fill)

/-- Is a PUT of LOCAL_CTX's kind written: every slot of a send ring freed by its channel, or the stream cancelled (R223,
R303)? -/
def State.sendRingDone (s : State) (k : Nat) : Bool :=
  let c := s.ctx k
  !(s.sendsRing k) || c.cancelled
    || (decide (c.ringFill = 0 ∧ c.ringFree = c.snkSlots ∧ (s.srcHasp c).fill = 0 ∧ c.pos % c.srcSlot = 0)
      && c.staged.isEmpty)

/-- The commit point of a task is reached (R220, R241, R255, R303). -/
def State.commitDue (s : State) (q t : Nat) (x : Task) : Bool :=
  x.status == .running &&
    (match x.info.kind with
     | .kernel =>
       decide (x.done.length = x.cores.length) && x.cores.all (fun c => (s.core c).xfers.isEmpty)
         && (s.owned q t).all (fun k =>
           ((s.ctx k).kind != 2 || s.written (s.ctx k)) && s.sendRingDone k && !(s.postsDue k))
         && !((s.gathering x).any s.finalWaits) && !(x.held.any (fun w => s.accessWaits w.1 1 true))
         && (!x.info.cut || x.captured)
     | .move => x.moved && !(x.held.any (fun w => s.accessWaits w.1 1 true))
     | .ward => false)

/-- The turns that a task takes for its commit: those of what its compressing and SCATTER_ACC PUTs read and write, and of the
lines it holds (R189, R214). -/
def State.commitSpots (s : State) (x : Task) : List Spot :=
  let ks := s.gathering x
  let written := fun (k : Nat) => match s.putFinal (s.ctx k) with
    | .ok ws => runsOf ws
    | .error _ => []
  engineSpots (ks.flatMap (fun k => s.finalReads (s.ctx k)))
    ((ks.flatMap written ++ runsOf x.held).map (fun r => (r.1, r.2.length)))

/-- The commit point, in one step (R241): none of the outputs of a task that fails at it become visible. A mirror that
cannot be written faults the region (R404, R412). -/
def State.commit (s : State) (q t : Nat) (x : Task) : State :=
  if s.areaLost (s.regionOf q) then s.faultRegion (s.regionOf q) 4
  else match s.finalErrors (s.gathering x) with
  | (s, some (k, cause, a)) => s.failTask q t (16 + homeDie k) cause a 0
  | (s, none) =>
  match s.putFinals q t (s.gathering x), s.writeFault q t x.held with
  | (_, some (k, cause, a)), _ => s.failTask q t (16 + homeDie k) cause a 1
  | (_, none), some (cause, a) => s.failTask q t (moverDie a) cause a 1
  | (s, none), none =>
    let mine := s.owned q t
    let s := (s.writeAll x.held).freeJournal q t
    let s := s.applyFlags x.info.flags
    let s := (mine.filter (fun k => (s.ctx k).persist)).foldl State.returnFlags s
    let s := mine.foldl State.settleCtx s
    let s := x.cores.foldl (fun s c => s.freeCore q t c) s
    let s := (s.setTask q t { x with status := .complete, held := [] }).taskDone q t
    let s := if x.info.cutHold then
        let y := s.sq q
        s.setSq q { y with
          state := .cutHeld, sc := y.sc.event 2
          cutWait := some (x.info.cutCap, 417792 * x.cores.length, t)
          cutRuns := (y.graph.elim [] (fun g => g.tasks)).filterMap (fun e =>
            if e.2.status == .running then some e.1 else none) }
      else s
    s.settleGraph q

/-- A WARD task released at a strike boundary (R245), with the mirror of the graph as at every commit (R404). -/
def State.releaseWardTask (s : State) (q t : Nat) (x : Task) : State :=
  if s.areaLost (s.regionOf q) then s.faultRegion (s.regionOf q) 4
  else
  let s := s.applyFlags x.info.flags
  ((s.setTask q t { x with status := .complete, release := some (x.readyAt + 1) }).taskDone q t).settleGraph q

end Sys2Proof.Machine
end

