-- ==== Sys2Proof/Machine/ResetOps.lean ====
section
/-! DEFINITION. Resets (R374 to R382), core and die lockout (R405 to R412), and what a result of a core does to
the module (R113, R408). -/

namespace Sys2Proof.Machine

open Sys2Proof

/-! The reach table (Table 5 of file 15). -/

/-- The allowed reaches of a source, widest first. -/
def allowedReach : Nat → List Nat
  | 0 => [rPower]
  | 1 => [rPower, rModule]
  | 2 => [rPower, rModule, rFabric]
  | 3 => [rModule, rFabric, rDie]
  | 4 => [rPower, rModule]
  | 5 => [rPower, rModule, rDie]
  | 6 => [rModule, rFabric, rDie]
  | 7 => [rDie, rCore]
  | _ => [rFabric, rDie]

/-- The reach of a source: its fused code, or the widest reach allowed (R374). -/
def State.reachOf (s : State) (src : Nat) : Nat :=
  let c := bits s.boot.fuses.reach (3 * src) 3
  if (allowedReach src).contains c then c else (allowedReach src).headD rPower

/-- A DIE reach widened by its target (R375). -/
def widened (reach die : Nat) : Nat :=
  if reach = rDie then
    if 16 ≤ die ∧ die < 24 then rFabric else if die = 56 ∨ die = 60 then rModule else rDie
  else reach

/-- Does the management endpoint answer: SV is not in reset (R31, R379)? -/
def State.svUp (s : State) : Bool := !(s.dieInReset 60)

/-- Did the ROM find a fuse fault, so that the management endpoint answers with status only (R422)? -/
def State.statusOnly (s : State) : Bool := s.boot.stage == .failed && s.boot.fail == 1

/-- Does the management endpoint carry out commands? -/
def State.managing (s : State) : Bool := s.svUp && !(s.statusOnly)

/-- An answer on the management endpoint. -/
def State.answer (s : State) (m : Mgmt) : State := { s with out := { s.out with mgmt := some m } }

/-- A management command: while SV is in reset it does nothing, and after a fuse fault it is refused (R422). -/
def State.managed (s : State) (body : State) : Out :=
  .next (if s.svUp then (if s.statusOnly then s.answer .refused else body) else s)

/-- A management command that has an answer of its own after a fuse fault. -/
def State.asked (s : State) (body : State) : Out := .next (if s.svUp then body else s)

/-! Row maps (R336 to R340). -/

/-- The ACTIVE columns of a row with these failed sites: the 30 lowest that have not failed. -/
def activeOf (failed : BitVec 32) : BitVec 32 :=
  (((List.range 32).filter (fun n => !(bit failed n))).take 30).foldl (fun m n => m ||| (1 <<< n)) 0

/-- A row map built from its failed sites. -/
def rowMapOf (failed : BitVec 32) : RowMap := { failed := failed, active := activeOf failed }

/-- The row maps that the fuses give (R340, R422). -/
def Fuses.rowMaps (f : Fuses) : Assoc RowMap := f.sites.map (fun e => (e.1, rowMapOf e.2))

/-! What a unit in scope loses (R376). -/

/-- A clock node in scope: SRC and GATE 0, a change in progress abandoned (R377). -/
def ClockNode.inScope (n : ClockNode) : ClockNode := { lock := n.lock }

/-- The node's nominal frequency in kHz (Table 1 of file 15), and the one it has on REF (R373). -/
def nominalKhz (k : Nat) : Nat :=
  if k = 0 ∨ k = 2 then 25000 else if k = 1 then 20000 else if k = 3 then 100000
  else if k < 16 then 1750000 else if k < 28 then 2000000 else if k < 36 then 1500000
  else if k < 52 then 1333375 else if k < 54 then 1250000 else if k = 54 then 2400000
  else if k = 55 then 1000000 else if k < 60 then 156250 else if k = 60 then 200000
  else if k = 61 then 12500 else if k = 62 then 400000 else 800000
def State.refKhz (s : State) : Nat := if s.clock.crystal then 25000 else 20000

/-- Frequency of a node on a source: true is REF. AOCLK, node 0, has no PLL and runs from the reference (R9). -/
def State.nodeKhz (s : State) (k : Nat) (src : Bool) : Nat := if src || k == 0 then s.refKhz else nominalKhz k

/-- Would the pin carry more than 200 MHz (R373)? -/
def tooFast (khz div : Nat) : Bool := decide (200000 * 2 ^ div < khz)

/-- The clock nodes of a die. -/
def nodesOf (d : Nat) : List Nat :=
  if d < 12 then [4 + d, 16 + d] else if 16 ≤ d ∧ d < 24 then [12 + d]
  else if 32 ≤ d ∧ d < 48 then [4 + d] else if d = 48 ∨ d = 49 then [4 + d, 8 + d]
  else if d = 56 then [54, 55, 58, 59] else if d = 60 then [60, 61, 62, 63] else []

/-- The nodes in scope return to PLL ungated; CLKMON is disabled where that would make its pin too fast. -/
def State.resetNodes (s : State) (ks : List Nat) : State :=
  let c := s.clock
  let n := Assoc.get {} c.nodes c.monNode
  let back := ks.contains c.monNode && (n.src || n.switching.isSome)
  let fast := c.monEn && back && tooFast (s.nodeKhz c.monNode false) c.monDiv
  { s with clock := { c with
      nodes := Assoc.putAll {} c.nodes (ks.map (fun k => (k, (Assoc.get {} c.nodes k).inScope)))
      monEn := c.monEn && !fast } }

/-- The violation logs of dies in scope cleared (R416), and their register locks (R442). -/
def State.resetLogs (s : State) (ds : List Nat) : State :=
  { s with
    logs := { s.logs with vlogs := s.logs.vlogs.filter (fun e => !(ds.contains e.1)) }
    resets := { s.resets with locks := s.resets.locks.filter (fun d => !(ds.contains d)) } }

/-- A compute die's controllers at a reset of the die (R392, R394): the droop counter stands in SV's register
space and stays. -/
def DiePower.inScope (x : DiePower) : DiePower := { droops := x.droops }

/-- The units of a compute die: its cores, its graph engine's GE_CFG, its rows' clocks and its power
controllers. -/
def State.resetCompute (s : State) (d : Nat) : State :=
  { s with
    cores := s.cores.filter (fun e => dieOfCore e.1 != d)
    ge := { s.ge with cfg := Assoc.del s.ge.cfg d }
    grid := { s.grid with ungated := s.grid.ungated.filter (fun e => e.1 / 32 != d) }
    power := { s.power with dies := Assoc.put {} s.power.dies d (Assoc.get {} s.power.dies d).inScope } }

/-- Compute dies that are on. -/
def State.diesOn (s : State) : List Nat := (List.range 12).filter s.domOn

/-- 440 W in units of 1/16 W. -/
def fullBudget : Nat := 7040

/-- The pool and the budgets after a reset, and whenever the number of compute dies that are on changes (R391);
a die that has lost three regulator phases keeps its cap level at 8 or below (R384). -/
def State.resetPool (s : State) : State :=
  let dies := (List.range 12).foldl (fun m d =>
    let x := Assoc.get {} m d
    Assoc.put {} m d { x with
      budget := fullBudget
      c := if 3 ≤ Assoc.get 0 s.power.phases d then min x.c 8 else x.c }) s.power.dies
  { s with power := { s.power with dies := dies, pool := fullBudget * s.diesOn.length } }

/-- A domain change in progress in the scope of a reset is abandoned (R387). -/
def State.dropChange (s : State) (reach die : Nat) : State :=
  match s.power.change with
  | some (d, _) =>
    if (scopeDies reach die).any (fun x => domOf x == some d) then
      { s with power := { s.power with change := none } } else s
  | none => s

/-- The store dies: SRAM contents, error marks and spared banks stay. -/
def Store.inScope (x : Store) : Store :=
  { bad := x.bad, poison := x.poison, weak := x.weak, spared := x.spared, copying := x.copying
    waiting := x.waiting, spareless := x.spareless }

/-- A port in scope: it leaves READY (R282), no lane active (log 24); PORT_RINGID is kept (R288). -/
def State.resetPort (s : State) (p : Nat) : State :=
  let s := (s.setLport p { s.lport p with lanes := 0 }).portTo p .disabled
  let id := (s.lport p).ringCopy
  s.setLport p { ringid := id, ringCopy := id }
def State.resetLink (s : State) (l : Nat) : State :=
  ((List.range 4).map (· + 4 * l)).foldl State.resetPort s

/-- The channels of a memory-port die, by number. -/
def chansOf (m : Nat) : List Nat := (List.range 24).map (fun n => 16 * n + m)

/-- A channel's counters cleared (R447); its state stays. -/
def MemChannel.inScope (x : MemChannel) : MemChannel := { state := x.state }

/-- A memory-port die in scope: row redirects stay, and the patrol's place, since its channels self-refresh (R345). -/
def MemPort.inScope (p : MemPort) : MemPort :=
  { redirects := p.redirects, patrolChan := p.patrolChan, patrolBurst := p.patrolBurst }

def State.resetMem (s : State) (m : Nat) : State :=
  { s with ext := { s.ext with
      ports := Assoc.put {} s.ext.ports m (s.port_ m).inScope
      chans := Assoc.putAll {} s.ext.chans ((chansOf m).map (fun c => (c, (s.chan c).inScope))) } }

/-- Queues at a FABRIC episode: tasks that were not COMPLETE count as ABORTED, and the queue stops (R254). -/
def Sq.atFabric (x : Sq) : Sq :=
  if x.enable then
    { x with
      state := .stopped
      cutWait := none
      release := none
      graph := x.graph.map (fun g => { g with
        tasks := g.tasks.map (fun e =>
          (e.1, if e.2.status == .complete then e.2 else { e.2 with status := TStatus.aborted })) }) }
  else x

/-- Reach FABRIC. -/
def State.resetFabric (s : State) : State :=
  let s := s.resetLink 0
  let s := s.resetLink 1
  let s := (List.range 12).foldl State.resetCompute s
  let ds := scopeDies rFabric 0
  let s := (s.resetLogs ds).resetNodes (ds.flatMap nodesOf)
  { s with
    store := s.store.inScope
    link := { s.link with reshards := [] }
    ge := { s.ge with
      journal := [], undo := [], deadlocks := []
      sqs := s.ge.sqs.map (fun e => (e.1, e.2.atFabric)) } }

/-- A port that leaves READY in a MODULE episode: of its LINK_STATE records (R296), that to the module log, which the
episode keeps. -/
def State.leaveReady (s : State) (p : Nat) : State :=
  if (s.lport p).state == .ready || (s.lport p).held then
    s.mlog { type := 0x20, strike := s.strike, status := PortState.disabled.code, payload := [0] }
  else s

/-- Reach MODULE: all but the module log, RST_LAST, fuses, strike, memory contents, row maps, domains and what
stands outside the dies. The crystal is tried again where it is not the reference (R364, R365). -/
def State.resetModule (s : State) : State :=
  let s := (List.range 8).foldl State.leaveReady s
  let ns := s.clock.nodes.map (fun e => (e.1, e.2.inScope))
  { pending := s.pending, strike := s.strike, running := s.running, aclk := s.aclk, free := s.free, mem := s.mem
    store := s.store.inScope
    logs := { mlog := s.logs.mlog, mcount := s.logs.mcount }
    grid := { rows := s.grid.rows, diesOut := s.grid.diesOut, selfCheckBad := s.grid.selfCheckBad }
    ext := { s.ext with
      ports := (s.ext.ports.map (fun e => (e.1, e.2.inScope))).filter
        (fun e => e.2 != {})
      chans := (s.ext.chans.map (fun e => (e.1, e.2.inScope))).filter (fun e => e.2 != {}) }
    clock := { nodes := ns, crystal := s.clock.crystal, porEnded := s.clock.crystal, windows := 0 }
    resets := { s.resets with locks := [] }
    power := { ttrip := s.boot.fuses.ttripMax, state := s.power.state, req := s.power.req, phases := s.power.phases, input := s.power.input
               tripping := s.power.tripping, temps := s.power.temps }
    boot := { fuses := s.boot.fuses, flash := s.boot.flash, hostmemSet := s.boot.hostmemSet
              hostmem := s.boot.hostmemSet, cert := s.boot.cert }
    pins := { s.pins with i3c := none, frames := [] }
    out := {} }

/-- Reach POWER: only what is fused, in flash, or outside the dies stays, and POR begins (R363, R376). -/
def State.resetPower (s : State) : State :=
  { State.reset with
    pending := s.pending, aclk := s.aclk, free := s.free, running := false
    grid := { rows := s.boot.fuses.rowMaps, diesOut := s.grid.diesOut, selfCheckBad := s.grid.selfCheckBad }
    ext := { retired := s.ext.retired
             chans := match s.ext.retired with
               | some c => [(c, { state := .retired })]
               | none => [] }
    clock := { State.reset.clock with crystal := false, porEnded := false, windows := 0 }
    power := { ttrip := s.boot.fuses.ttripMax, input := s.power.input, phases := s.power.phases, tripping := s.power.tripping
               temps := s.power.temps }
    resets := { episodes := s.resets.episodes }
    boot := { fuses := s.boot.fuses, flash := s.boot.flash, hostmemSet := s.boot.hostmemSet
              hostmem := s.boot.hostmemSet, cert := s.boot.cert }
    pins := { s.pins with modId := s.pins.straps, i3c := none, tap := .idcode, boundary := 0, frames := [] } }

/-! Revocation of the tasks of a die, and adoption (R410 to R412). -/

/-- The running tasks that hold a core of a die. -/
def State.tasksOn (s : State) (d : Nat) : List (Nat × Nat) :=
  ((s.cores.filter (fun e => dieOfCore e.1 == d)).filterMap (fun e =>
    e.2.task.map (fun t => (t.q, t.task)))).eraseDups

/-- Dies of a region that can adopt it: not locked out, on and not in reset (R412). -/
def State.surviving (s : State) (r d : Nat) : List Nat :=
  (s.region r).dies.filter (fun x => x != d && !(s.grid.diesOut.contains x) && s.domOn x && !(s.dieInReset x))

/-- Is every die of a region locked out (R411)? -/
def State.allOut (s : State) (r : Nat) : Bool := (s.region r).dies.all s.grid.diesOut.contains

/-- Tasks of a region's queues that are running. -/
def State.runningOf (s : State) (r : Nat) : List (Nat × Nat) :=
  (s.queuesOf r).flatMap (fun q =>
    ((s.graph q).elim [] (fun g => g.tasks.filter (fun e => e.2.status == .running))).map (fun e => (q, e.1)))

/-- The running tasks of every queue. -/
def State.allRunning (s : State) : List (Nat × Nat) :=
  s.ge.sqs.flatMap (fun e => (e.2.graph.elim [] (fun g => g.tasks.filter (fun t => t.2.status == .running))).map
    (fun t => (e.1, t.1)))

/-- Of the tasks that ran when a region's die was lost, those that were re-issued (R409, R412). -/
def State.reissued (s : State) (r : Nat) (ran : List (Nat × Nat)) : Nat :=
  (ran.filter (fun t => s.regionOf t.1 == r && (s.task t.1 t.2).any (fun x => !x.status.ended))).length

/-- The graph-engine context of a region moves to another die (R412): every task that had not committed is
re-issued. ran: the tasks that ran when the die was lost. -/
def State.adopt (s : State) (r d n : Nat) (ran : List (Nat × Nat)) : State :=
  if s.areaBad r false then s.faultRegion r 2
  else
    let s := (s.runningOf r).foldl (fun s t => s.revokeAndReissue t.1 t.2) s
    let g := s.region r
    let regs := Assoc.set s.ge.regions r { g with host := n, sc := g.sc.event 2 }
    let s := { s with ge := { s.ge with regions := regs } }
    s.toRegion r
      { type := 0x31, strike := s.strike, status := n
        payload := [BitVec.ofNat 8 d, 0, 0, 0, 0, 0, 0, 0] ++ leBytes 4 (s.reissued r ran) }

/-- The regions after a compute die leaves the grid or its graph engine is reset: a region whose every die is locked
out faults; one whose context the die held is adopted by another die that runs, if there is one (R411, R412). -/
def State.regionsLose (s : State) (d : Nat) (ran : List (Nat × Nat)) : State :=
  (List.range 64).foldl (fun s r =>
    let g := s.region r
    if g.valid && g.dies.contains d then
      if s.allOut r then s.faultRegion r 1
      else if g.host = d then
        match s.surviving r d with
        | [] => s
        | n :: _ => s.adopt r d n ran
      else s
    else s) s

/-- The tasks of a compute die about to be reset are revoked and re-issued (R410). -/
def State.clearDie (s : State) (d : Nat) : State :=
  (s.tasksOn d).foldl (fun s t => s.revokeAndReissue t.1 t.2) s

/-- A compute die is lost to its tasks and its regions. -/
def State.loseDie (s : State) (d : Nat) : State := (s.clearDie d).regionsLose d s.allRunning

/-! Assertion (R377, R378, R380). -/

/-- Every unit in scope takes its reset values. A CORE reset reaches no die, so that the corrected-error count of the site
stays (R376, R447). -/
def State.resetScope (s : State) (reach die core : Nat) : State :=
  if reach = rPower then s.resetPower
  else if reach = rModule then s.resetModule
  else if reach = rFabric then s.resetFabric
  else if reach = rCore then
    { s with cores := Assoc.put {} s.cores core { corrected := (s.core core).corrected } }
  else
    let s := (s.resetLogs [die]).resetNodes (nodesOf die)
    if die < 12 then s.resetCompute die
    else if die = 48 ∨ die = 49 then s.resetLink (die - 48)
    else if 32 ≤ die ∧ die < 48 then s.resetMem (die - 32)
    else s

/-- What a source adds to its episode: itself; at reach POWER the reference starts up as well, so that source 0
asserts with it (R363, R374). -/
def Assertion.adds (a : Assertion) : List Assertion :=
  if a.reach = rPower ∧ a.src ≠ 0 then [a, { src := 0, reach := rPower, die := 0, core := 0, held := true }] else [a]

/-- The episode that a new assertion begins or joins: the union of those it overlaps, the widest reach. -/
def joined (a : Assertion) (handover : Bool) (es : List Episode) : Episode :=
  es.foldl (fun (x : Episode) (e : Episode) =>
    let wider := decide (e.reach < x.reach)
    { asserted := x.asserted ++ e.asserted
      reach := if wider then e.reach else x.reach
      die := if wider then e.die else x.die
      core := if wider then e.core else x.core
      handover := x.handover || e.handover
      released := 0 })
    { asserted := a.adds, reach := a.reach, die := a.die, core := a.core, handover := handover }

/-- A source asserts at a reach; one that asserts for a single cycle is not held. Groups that the episode it joins has
released are asserted again (R380). -/
def State.assertAt (s : State) (src reach die core : Nat) (held handover : Bool) : State :=
  let a : Assertion := { src := src, reach := reach, die := die, core := core, held := held }
  let meets := fun (e : Episode) => scopesMeet e.reach e.die e.core reach die core
  let es := s.resets.episodes
  let e := joined a handover (es.filter meets)
  let s := s.resetScope reach die core
  let s := if decide (rFabric < reach) && (es.filter meets).any (fun x => x.reach == rFabric && decide (0 < x.released))
    then s.resetFabric else s
  let s := (s.dropChange reach die).resetPool
  { s with resets := { s.resets with episodes := es.filter (fun x => !(meets x)) ++ [e] } }

/-- A source asserts with a target, at the reach of the reach table (R374, R375). A DIE reset of a compute die
first revokes its tasks and moves the regions its graph engine held. -/
def State.assert_ (s : State) (src die : Nat) (held : Bool) : State :=
  let r := widened (s.reachOf src) die
  let s := if r = rDie ∧ die < 12 then s.loseDie die else s
  s.assertAt src r die 0 held false

/-! Release (R378 to R381). -/

/-- The sources asserted in an episode, as RST_LAST.SOURCES shows them. -/
def Episode.sources (e : Episode) : BitVec 9 :=
  e.asserted.foldl (fun m a => m ||| (1 <<< a.src)) 0

/-- Every source of an episode has been released. -/
def Episode.quiet (e : Episode) : Bool := e.asserted.all (fun a => !a.held)

/-- R254 for one queue. -/
def State.settleQueue (s : State) (q : Nat) : State :=
  let x := s.sq q
  if !x.enable then s
  else
    let s := s.closeGraph q 2
    let s := x.entries.foldl (fun s e =>
      if e.op = 1 then s.graphDone q e.tag e.no 2 0 0xFFFFFFFF 0 [] else s.entryDone q e.tag e.no 5 0 0) s
    let x := s.sq q
    s.setSq q { x with entries := [], state := .stopped, sc := x.sc.event 3 }

/-- All memory zeroed by a handover (R360). -/
def State.zeroMemory (s : State) : State :=
  { s with
    mem := []
    store := { s.store with bad := [], poison := [], weak := [] }
    ext := { s.ext with weak := [], bad := [] } }

/-- Before any group of an episode is released: RST_LAST, its module-log entry, and the memory of a handover (R360,
R381). -/
def State.announce (s : State) (e : Episode) : State :=
  let s := { s with resets := { s.resets with
    reach := e.reach
    target := if e.reach = rDie then e.die else if e.reach = rCore then dieOfCore e.core else 0
    core := if e.reach = rCore then e.core else 0
    sources := e.sources } }
  let s := s.mlogOpen
    { type := 0, strike := s.strike, status := e.reach, payload := leBytes 2 e.sources.toNat }
  if e.handover then s.zeroMemory.mlogOpen { type := 0, strike := s.strike } else s

/-- The groups of an episode that are released one after the other (R379): the store dies of a FABRIC episode, then its
compute and link dies; another reach has one. -/
def Episode.groups (e : Episode) : Nat := if e.reach = rFabric then 2 else 1

/-- Is the clock of a die's fabric domain gated? ACLK of a compute die is a domain of its own: while it is gated, the
cores have no clock, and the rest of the die works (R369, R379). -/
def State.stillGated (s : State) (d : Nat) : Bool :=
  (nodesOf d).any (fun k => s.gated k && !(decide (4 ≤ k ∧ k < 16)))

/-- The first group of an episode that has more: its store dies, but for those whose clock is gated. -/
def State.firstGroup (s : State) (e : Episode) : State :=
  let s := s.announce e
  let kept := ((List.range 8).map (16 + ·)).filter (fun d => s.stillGated d && !(s.resets.held.contains d))
  { s with resets := { s.resets with
      episodes := s.resets.episodes.map (fun x => if x = e then { e with released := 1 } else x)
      held := s.resets.held ++ kept } }

/-- The dies that stay in reset at the end of an episode: every die but SV until boot releases it, after reach MODULE or
POWER; a die whose fabric domain is gated until it is ungated (R379). -/
def State.heldAfter (s : State) (e : Episode) : List Nat :=
  if e.reach = rPower ∨ e.reach = rModule then allDies.filter (· != 60)
  else if e.reach = rCore then []
  else (scopeDies e.reach e.die).filter s.stillGated

/-- TYPE of the firmware component of a die's kind (Table 3 of file 18). -/
def componentType (d : Nat) : Nat :=
  if d < 12 then 3 else if 16 ≤ d ∧ d < 24 then 4 else if 32 ≤ d ∧ d < 48 then 5
  else if d = 48 ∨ d = 49 then 6 else if d = 56 then 2 else 1

/-- The component that the running image has for a die: one that names it, else one for every die of its kind. -/
def State.componentOf (s : State) (d : Nat) : Option Nat :=
  let parts := ((s.boot.image.map (fun i => i.parts)).getD []).zipIdx
  let mine := parts.filter (fun p => p.1.1 == componentType d)
  ((mine.find? (fun p => p.1.2.1 == d)) <|> (mine.find? (fun p => p.1.2.1 == 0xFF))).map Prod.snd

/-- Dies leave reset with their component loaded (R427). -/
def State.wake (s : State) (ds : List Nat) : State :=
  let loads := ds.filterMap (fun d => (s.componentOf d).map (fun n => (d, n)))
  { s with
    resets := { s.resets with held := s.resets.held.filter (fun d => !(ds.contains d)) }
    boot := { s.boot with loaded := loads.foldl (fun m e => Assoc.set m e.1 e.2) s.boot.loaded } }

/-- Step 7 of boot: HD_LOADER at address 0 of host memory, HD and what else is on released, and STAGE RUNNING (R427). It
waits while the memory that the loader goes to must not be written (R346, R347). -/
def State.bootLast (s : State) : State :=
  let bs := ((((s.boot.image.map (fun i => i.parts)).getD []).find? (fun p => p.1 == 2)).map (fun p => p.2.2)).getD []
  if s.accessWaits 0 bs.length true then { s with boot := { s.boot with loading := true } }
  else
    let s := if bs.isEmpty then s else s.extWrite 0 bs
    let s := { s with boot := { s.boot with stage := .running, loading := false } }
    s.wake (allDies.filter (fun d => s.dieOn d))

/-- Step 7 tried again, if it waits. -/
def State.bootAgain (s : State) : State :=
  if s.boot.loading && s.domOn 18 && (s.boot.stage == .svFw || s.boot.stage == .running) then s.bootLast else s

/-- An episode released: RST_LAST, its module-log entry, the queues of a FABRIC episode, RESET_DONE. -/
def State.release (s : State) (e : Episode) : State :=
  let s := if e.released = 0 then s.announce e else s
  let held := s.heldAfter e
  let s := { s with resets := { s.resets with
    episodes := s.resets.episodes.filter (fun x => x != e)
    held := s.resets.held ++ held.filter (fun d => !(s.resets.held.contains d)) } }
  let s := if e.reach = rFabric ∨ e.reach = rDie then
    s.wake ((scopeDies e.reach e.die).filter (fun d => s.dieOn d && !(held.contains d))) else s
  let s := if e.reach = rFabric then (Assoc.keys s.ge.sqs).foldl State.settleQueue s else s
  if e.reach = rFabric ∨ e.reach = rDie then
    s.toEq0 { type := 0x2A, strike := s.strike, status := e.reach, payload := leBytes 2 e.sources.toNat }
  else s

/-! Core lockout (R338, R339, R406 to R409). -/

/-- Two bytes of the logical coordinates of a site; a site without any has none to show (log 14). -/
def State.xyBytes (s : State) (c : Nat) : List Byte :=
  match s.logicalOf c with
  | some (x, y) => [BitVec.ofNat 8 x, BitVec.ofNat 8 y]
  | none => [(Config.freeWord s.free).truncate 8, (Config.freeWord (s.free + 1)).truncate 8]

/-- A record to the event queue of every region that holds a row, and once to the module log. -/
def State.toRowRegions (s : State) (key : Nat) (r : Rec) : State :=
  ((List.range 64).foldl (fun s n =>
    if (s.region n).holds (key / 32) (key % 32) then s.toEq (s.region n).eq { r with region := n } else s) s).mlog r

/-- LOCKOUT of a core, with the coordinates that it had: to the region of its task, or to every region that holds its row. -/
def State.lockoutRec (s : State) (c trigger : Nat) (xy : List Byte) (t : Option (Nat × Nat)) : State :=
  let body := leBytes 2 c ++ xy ++ [0, BitVec.ofNat 8 (dieOfCore c)]
  let r : Rec := { type := 0x30, strike := s.strike, status := trigger, payload := body }
  match t with
  | some (q, k) => s.toRegion (s.regionOf q) { r with queue := q, task := k }
  | none => s.toRowRegions (rowKey c) r

/-- GRID_CHANGE of a removed logical core (R339, Table 7 of file 09). -/
def State.gridChange (s : State) (c x y : Nat) : State :=
  s.toRowRegions (rowKey c)
    { type := 8, strike := s.strike, payload := leBytes 2 c ++ [BitVec.ofNat 8 x, BitVec.ofNat 8 y] }

/-- Does a task run on a site of a row? -/
def State.rowBusy (s : State) (key : Nat) : Bool := s.cores.any (fun e => rowKey e.1 == key && e.2.task.isSome)

/-- A row map in force or waiting, given its failed sites (R338). -/
def RowMap.decide_ (m : RowMap) (busy : Bool) (failed : BitVec 32) : RowMap :=
  if busy then { m with next := some (failed, activeOf failed) } else rowMapOf failed

/-- Sites of a row map. -/
def ones (m : BitVec 32) : Nat := (activeCols m).length

/-- A site fails in its row map: a spare joins, or the row loses a logical core. -/
def State.failSite (s : State) (c : Nat) : State :=
  let key := rowKey c
  let m := s.rowMap key
  let was := m.decided
  if bit m.decidedFailed (colOfCore c) then s
  else
    let failed := m.decidedFailed ||| (1 <<< colOfCore c)
    let now := activeOf failed
    let s := { s with grid := { s.grid with
      rows := Assoc.put {} s.grid.rows key (m.decide_ (s.rowBusy key) failed) } }
    if !(bit was (colOfCore c)) then s
    else if ones now = ones was then s.repair 1 (key / 32) (key % 32)
    else
      let n := ones now
      let d := key / 32
      s.gridChange c (30 * (d % 4) + n) (30 * (d / 4) + key % 32)

/-- The task of a site. -/
def State.siteTask (s : State) (c : Nat) : Option (Nat × Nat) := (s.core c).task.map (fun t => (t.q, t.task))

/-- A core lockout (R407): steps 1 to 3 in their order, then the site held in reset by source 7 until step 4. LOCKOUT names
the coordinates that the site had before its row map changed. fate: what the record of a task that is not re-issued says. -/
def State.lockout (s : State) (c trigger : Nat) (fate : TaskEnd := {}) : State :=
  let t := s.siteTask c
  let s := match t with
    | some (q, k) => if s.journalLost q k then (s.revoke q k).faultRegion (s.regionOf q) 3 else s.revoke q k
    | none => s
  let xy := s.xyBytes c
  let s := (s.useFree 2).failSite c
  let s := match t with
    | some (q, k) => s.reissue q k fate
    | none => s
  let s := s.lockoutRec c trigger xy t
  let r := s.reachOf 7
  let s := if r = rDie then s.loseDie (dieOfCore c) else s
  s.assertAt 7 r (dieOfCore c) c true false

/-! Core exceptions (R113, R408). -/

/-- The second LM_UNCORRECTABLE of a site within 24 hours (R406)? -/
def State.repeats (s : State) (c : Nat) : Bool :=
  match Assoc.get none s.grid.lastUncorrectable c with
  | some t => decide ((s.strike - t).toNat < day)
  | none => false

/-- The line of local memory of a site written with zeros. -/
def State.zeroLine (s : State) (c line : Nat) : State :=
  match (s.core c).lmWrite line (List.replicate 64 0) with
  | some k => s.setCore c k
  | none => s

/-- The record of a task that ends by an exception of a core: code, core and instruction (Table 8 of file 04). -/
def State.exceptionEnd (s : State) (c code : Nat) (u : UnitId) (i : Nat) : TaskEnd :=
  let xy := (s.logicalOf c).getD (0, 0)
  { exc := code, instr := i + (if u == .execute then 2 ^ 31 else 0), core := c, x := xy.1, y := xy.2 }

/-- A core raises an exception: code, stream and instruction, failing line. A task that R409 does not re-issue
ends with the code (R113). -/
def State.coreExc (s : State) (c code : Nat) (u : UnitId) (i line : Nat) : State :=
  match s.siteTask c with
  | none => s
  | some (q, t) =>
    let fate := s.exceptionEnd c code u i
    if code = excUncorrectable then
      let again := s.repeats c
      let s := { s with grid := { s.grid with
        lastUncorrectable := Assoc.set s.grid.lastUncorrectable c (some s.strike) } }
      if again then s.lockout c 2 fate
      else if s.journalLost q t then ((s.revoke q t).zeroLine c line).faultRegion (s.regionOf q) 3
      else ((s.revoke q t).zeroLine c line).reissue q t fate
    else s.endTask q t .failed fate

/-- What a core answered, done to the module. -/
def State.coreRes (s : State) (c : Nat) : CoreRes → Out
  | .ok t k => .next ((s.setCore c k).at_ t)
  | .held k => .next (s.setCore c k)
  | .exc code u i k line => .next ((s.setCore c k).coreExc c code u i line)
  | .noop => .next s
  | .refuse => .refused .toolchainRejects

/-- Has a core no clock: ACLK of its die is gated, or gives no edge while its source is switched (R368, R369)? -/
def State.clockStopped (s : State) (c : Nat) : Bool :=
  let n := Assoc.get {} s.clock.nodes (4 + dieOfCore c)
  n.gate || n.switching.isSome

/-- What a core does with an attempt or an event: nothing while its clock is stopped (R368). -/
def State.clocked (s : State) (c : Nat) (f : Core → CoreRes) : CoreRes :=
  if s.clockStopped c then .noop else f (s.core c)

/-- One attempt or event of a core: f gets the core; a site that does not exist is a fault. -/
def State.onCore (s : State) (c : Nat) (f : Core → CoreRes) : Out :=
  if siteExists c then s.coreRes c (s.clocked c f) else .fault .noSuchUnit

/-- An instruction of a stream of a core: tried alone while it holds the stream (R94, R125, R147). -/
def State.onInstr (s : State) (c : Nat) (u : UnitId) (i : Instr) (f : Core → CoreRes) : Out :=
  s.onCore c (fun k => k.attempt u i f)

end Sys2Proof.Machine
end

