-- ==== Sys2Proof/Machine/Access.lean ====
section
/-! DEFINITION. Fabric accesses with their answers (R415), and accesses to registers (R439 to R443). -/

namespace Sys2Proof.Machine

open Sys2Proof

/-- An answer to a fabric access. -/
def State.respond (s : State) (r : Resp) : State := { s with out := { s.out with resp := some r } }

/-- An access refused: the violation is logged and the originator gets an error response (R415). -/
def State.refuse (s : State) (o : Origin) (cause a n : Nat) (write : Bool) : State :=
  (s.refuseAccess o cause a n (b2n write)).respond (.error cause)

/-- A fabric read of memory or a core window: refused, waiting, or answered. -/
def State.readAccess (s : State) (o : Origin) (use : WindowUse) (a n : Nat) : State :=
  if s.dieWaits a then s.respond .waits
  else match s.accessCause o use a n false with
    | some e => s.refuse o e a n false
    | none =>
      if s.accessWaits a n false then s.respond .waits
      else match s.memRead a n with
        | (s, .ok bs) => s.respond (.data bs)
        | (s, .error x) => s.refuse o 0x35 x 1 false

/-- A fabric write of memory or a core window. -/
def State.writeAccess (s : State) (o : Origin) (use : WindowUse) (a : Nat) (bs : List Byte) : State :=
  if s.dieWaits a then s.respond .waits
  else match s.accessCause o use a bs.length true with
    | some e => s.refuse o e a bs.length true
    | none =>
      if s.accessWaits a bs.length true then s.respond .waits
      else match s.memWrite a bs with
        | some s => s.respond .done
        | none => s.refuse o 0x35 a bs.length true


/-- The address of a register: offset in the register space of a die (R341). -/
def regAddr (die off : Nat) : Nat := regBase + die * 2 ^ 32 + off

/-- The registers that the operator sets through the management endpoint: PWR_CAP, PWR_DOM and each PORT_RINGID (R288, R386,
R398, R450). -/
def operatorSets (a : Nat) : Bool :=
  ([regAddr 60 0x320000, regAddr 60 0x320020]
    ++ (List.range 8).map (fun p => regAddr (48 + p / 4) (0x100000 + p % 4 * 0x1000 + 8))).contains a

/-- May the operator reach a register? Every other register is written by the job owner, or holds the job owner's data
(R31, R450). The operator reads what it sets and the service die's registers (DESIGN CHOICE, log 67). -/
def operatorReg (a : Nat) (write : Bool) : Bool :=
  operatorSets a || (!write && decide (regAddr 60 0 ≤ a ∧ a < regAddr 61 0))

/-- Does the management endpoint carry out an access of its party? It does nothing while SV is in reset, and answers with
status only after a fuse fault (R422). Accesses of the job owner do not come through it. -/
def State.endpointOpen (s : State) (o : Origin) (a : Nat) (write : Bool) : Bool :=
  o != .operator || (s.svUp && !s.statusOnly && operatorReg a write)

/-- An access to a register that the endpoint carries out is its body; it is refused where SV can answer. -/
def State.endpoint (s : State) (o : Origin) (a : Nat) (write : Bool) (body : State) : State :=
  if s.endpointOpen o a write then body else if s.svUp then s.answer .refused else s

/-- An access to a register: the endpoint turns it away, it waits while its die is in reset (log 20), it is refused as any
access is, or body is done. -/
def State.onReg (s : State) (o : Origin) (a : Nat) (write : Bool) (body : State → State) : State :=
  s.endpoint o a write
    (if s.dieWaits a then s.respond .waits
     else match s.accessCause o .plain a 8 write with
      | some e => s.refuse o e a 8 write
      | none => body s)

/-- A register write. -/
def State.onWrite (s : State) (o : Origin) (a : Nat) (body : State → State) : State :=
  s.onReg o a true (fun s => (body s).respond .done)

/-- A register write refused: it changes nothing and is recorded (R443). -/
def State.refuseWrite (s : State) (o : Origin) (a : Nat) (v : Word) : State := s.refused a v (originDie o)

/-- The turn of an access by the helm die at the store dies that serve it (R214, R216): a read of external memory waits for the memory
ports there, one of the central store for the delivery to the helm die. -/
def State.accessTurn (s : State) (o : Origin) (a n : Nat) : State × Bool :=
  match s.target a, splitsSpans o with
  | .ext, true => s.turns (.access o a n) (spotsOf .memory [(a, n)])
  | .store, true => s.turns (.access o a n) (spotsOf .helm [(a, n)])
  | _, _ => (s, true)

end Sys2Proof.Machine
end

