-- ==== Sys2Proof/Machine/LinkLayer.lean ====
section
/-! DEFINITION. The link layer of the torus ports: lanes, retrains, flits, HELLO, INIT and RESET_REQ (R278 to R291). -/

namespace Sys2Proof.Machine

open Sys2Proof

/-- Frames are locked, and the link layer runs (Table 3 of file 11). -/
def Port.flows (x : Port) : Bool := x.state == .linkUp || x.state == .ready || x.state == .mismatch

/-- A bit of PORT_STATUS set by an event. -/
def Port.event (x : Port) (b : Nat) : Port := { x with sc := x.sc.event b }

/-! Lanes and training (R280 to R282). -/

/-- Strikes in 1 ms. -/
def oneMs : Nat := 100000

/-- The symbols that a report adds. -/
def laneSymbols : LaneCause → Nat
  | .lostLock => 0
  | .corrected n => n

/-- A report on a lane at a strike: its symbols are counted, and kept with those of the last 1 ms (R280). -/
def Port.report (x : Port) (lane : Nat) (why : LaneCause) (t : Word) : Port :=
  let old := (Assoc.get [] x.symbols lane).filter (fun e => decide ((t - e.1).toNat < oneMs))
  let n := laneSymbols why
  { (x.count 0 n) with symbols := Assoc.put [] x.symbols lane (if n = 0 then old else old ++ [(t, n)]) }

/-- Symbols of a lane corrected in the last 1 ms. -/
def Port.symbolsOf (x : Port) (lane : Nat) : Nat := (Assoc.get [] x.symbols lane).foldl (fun n e => n + e.2) 0

/-- Is a lane spared after a report (R280)? -/
def Port.laneFails (x : Port) (lane : Nat) : LaneCause → Bool
  | .lostLock => true
  | .corrected _ => decide (16384 < x.symbolsOf lane)

/-- The port goes DOWN: no lane is active (log 24). -/
def State.portDown (s : State) (p : Nat) : State :=
  (s.setLport p { s.lport p with lanes := 0 }).portTo p .down

/-- A lane leaves the active set: a retrain starts, or the port goes DOWN below MINLANES. -/
def State.spareLane (s : State) (p lane : Nat) : State :=
  let x := s.lport p
  let y := (({ x with
    lanes := x.lanes &&& ~~~((1 : BitVec 8) <<< lane), symbols := Assoc.put [] x.symbols lane [] } : Port).count 5 1).event 1
  let s := (s.setLport p y).linkState p
  if y.lanesUp < y.minlanes then s.portDown p
  else if x.flows then s.retrain p
  else s

/-- LANE_SPARE (R280). Of a lane still within its limit the symbols are only counted. -/
def execLaneSpare (p lane : Fin 8) (why : LaneCause) (s : State) : Out :=
  let x := s.lport p.val
  s.happens (if s.portRuns p.val && (x.flows || x.state == .training) && bit x.lanes lane.val then
      let y := x.report lane.val why s.strike
      let s := s.setLport p.val y
      some (if y.laneFails lane.val why then s.spareLane p.val lane.val else s)
    else none)

/-! Frames (R279). -/

/-- The fields of a frame tag. -/
def tagSync (t : BitVec 40) : BitVec 16 := t.extractLsb' 24 16
def tagFcnt (t : BitVec 40) : BitVec 8 := t.extractLsb' 16 8
def tagLanes (t : BitVec 40) : BitVec 8 := t.extractLsb' 8 8

/-- The tag of the frame that a port sends. -/
def Port.frameTag (x : Port) : BitVec 40 := (0x5CA3 : BitVec 16) ++ x.fcnt ++ x.lanes ++ (0 : BitVec 8)

/-- The bytes of a frame: its tag, most significant byte first, then five flits. -/
def frameBytes (tag : BitVec 40) (flits : List (List Byte)) : List Byte :=
  (leBytes 5 tag.toNat).reverse ++ flits.flatten

/-- The lane that carries codeword symbol k: dealt round-robin over the active lanes, lowest first. -/
def Port.laneOf (x : Port) (k : Nat) : Option Nat :=
  let up := (List.range 8).filter (fun n => bit x.lanes n)
  up[k % up.length]?

/-- Do the tags of two frames decoded one after the other lock: SYNC in both, and FCNT that counts on (DESIGN CHOICE,
log 24: the spec gives no number of frames)? -/
def tagsLock (before tag : BitVec 40) : Bool :=
  tagSync before == 0x5CA3 && tagSync tag == 0x5CA3 && tagFcnt tag == tagFcnt before + 1

/-- A port in TRAINING reaches LINK_UP: its first flit is INIT if its state is fresh (R287). -/
def State.reachLinkUp (s : State) (p : Nat) : State :=
  let s := s.portTo p .linkUp
  let x := s.lport p
  if x.fresh then s.setLport p { x with ctrlOut := 3 :: x.ctrlOut } else s

/-- A port in TRAINING that locks on the frames of its neighbour: both ends use only the lanes that both keep active, and
below MINLANES the port goes DOWN (R279, R280). -/
def State.lockFrames (s : State) (p : Nat) (tag : BitVec 40) : State :=
  let x := s.lport p
  let y := { x with
    lanes := x.lanes &&& tagLanes tag, rxFcnt := tagFcnt tag, rxInFrame := 0, rxFirst := false, rxSecond := false }
  let s := s.setLport p y
  if y.lanesUp < y.minlanes then s.portDown p else s.reachLinkUp p

/-- Can a port lock: it trains, its connector holds a cable (R464), and the tags of two frames lock? -/
def State.mayLock (s : State) (l : FrameLock) : Bool :=
  s.portRuns l.port.val && (s.lport l.port.val).state == .training && s.cabled l.port.val && tagsLock l.before l.tag

/-- RETRAIN_END (R281). -/
def execRetrainEnd (l : FrameLock) (s : State) : Out :=
  let x := s.lport l.port.val
  s.happens (if s.mayLock l && x.retrain then
    some ((s.setLport l.port.val (x.event 2)).lockFrames l.port.val l.tag) else none)

/-- RETRAIN_TIMEOUT (R281). -/
def execRetrainTimeout (p : Fin 8) (s : State) : Out :=
  let x := s.lport p.val
  s.happens (if s.portRuns p.val && x.state == .training && x.retrain then some (s.portDown p.val) else none)

/-- A port begins training from DOWN or DISABLED: every lane is tried (R280), but with no cable none is driven (R464). -/
def State.train (s : State) (p : Nat) : State :=
  (s.setLport p { s.lport p with lanes := if s.cabled p then 0xFF else 0 }).portTo p .training

/-- TRAINING_RETRY (R282). -/
def execTrainingRetry (p : Fin 8) (s : State) : Out :=
  let x := s.lport p.val
  s.happens (if s.portRuns p.val && x.state == .down && x.enable then some (s.train p.val) else none)

/-- FRAMES_LOCKED (R279, R282, R287). -/
def execFramesLocked (l : FrameLock) (s : State) : Out :=
  s.happens (if s.mayLock l && !(s.lport l.port.val).retrain then some (s.lockFrames l.port.val l.tag) else none)

/-! Flits (R279, R283, R284). -/

/-- The header of a flit of a port. -/
def Port.flitHeader (x : Port) (seq : BitVec 8) (kind vc used : Nat) : Nat :=
  seq.toNat * 2 ^ 56 + x.ack.toNat * 2 ^ 48 + kind * 2 ^ 46 + vc * 2 ^ 44 + b2n x.nak * 2 ^ 43 + used * 2 ^ 36
    + x.rsp.freed.toNat * 2 ^ 16 + x.red.freed.toNat * 2 ^ 8 + x.req.freed.toNat

/-- The 256 bytes of a flit, byte 0 in the low bits. -/
def flitOf (header : Nat) (payload : List Byte) : BitVec 2048 :=
  let body := leBytes 8 header ++ padTo 240 payload
  BitVec.ofNat 2048 (ofLe (body ++ leBytes 8 (crc64 body).toNat))

/-- The bytes of a flit. -/
def flitBytes (f : BitVec 2048) : List Byte := leBytes 256 f.toNat

/-- A flit on the wire: every fifth ends a frame (R279). -/
def State.emit (s : State) (p : Fin 8) (x : Port) (f : BitVec 2048) : State :=
  let y := if x.inFrame = 4 then { x with inFrame := 0, fcnt := x.fcnt + 1 }
    else { x with inFrame := x.inFrame + 1 }
  let s := s.setLport p.val y
  { s with out := { s.out with flit := some (p, f), frameTag := x.frameTag } }

/-- The payload of a CTRL flit by subtype (R284, R289). -/
def Port.ctrlPayload (x : Port) (p sub : Nat) : List Byte :=
  if sub = 1 then
    [1, BitVec.ofNat 8 (axisOf p), BitVec.ofNat 8 (dirOf p), 0, 0, 0, 0, 0] ++ leBytes 8 x.ringid.toNat
  else [BitVec.ofNat 8 sub]

/-- Free credit of a virtual channel (R286). -/
def VcState.credit (c : VcState) : Nat := 128 - (c.s - c.cred).toNat

/-- The virtual channels with bytes to send and credit. -/
def Port.sendable (x : Port) : List Vc :=
  [Vc.req, .red, .rsp].filter (fun v => !(x.vcOf v).tx.isEmpty && decide (1 ≤ (x.vcOf v).credit))

/-- The next DATA flit of a virtual channel, put in the replay buffer. -/
def Port.takeData (x : Port) (v : Vc) : Port × Sent :=
  let c := x.vcOf v
  let bytes := c.tx.take 240
  let f : Sent := { seq := x.seq, vc := v, used := bytes.length / 16, payload := bytes }
  ({ (x.setVc v { c with tx := c.tx.drop 240, s := c.s + 1 }) with
      seq := x.seq + 1, replay := x.replay ++ [f], fresh := false }, f)

/-- A DATA flit sent. -/
def State.emitData (s : State) (p : Fin 8) (x : Port) (f : Sent) : State :=
  s.emit p x (flitOf (x.flitHeader f.seq 1 (vcNo f.vc) f.used) f.payload)

/-- One flit time of a port whose frames are locked: a resend, a new DATA flit, or a CTRL flit. Which virtual
channel goes first is open (log 25). -/
def State.sendFlit (s : State) (p : Fin 8) : State :=
  let x := s.lport p.val
  let ctrl :=
    match x.ctrlOut with
    | [] => s.emit p x (flitOf (x.flitHeader 0 0 0 0) [])
    | sub :: rest =>
      s.emit p { x with ctrlOut := rest } (flitOf (x.flitHeader 0 0 0 0) (x.ctrlPayload p.val sub))
  if x.state != .ready then ctrl
  else match x.replay[x.replay.length - x.resend]? with
    | some f => s.emitData p { x with resend := x.resend - 1 } f
    | none =>
      let vs := x.sendable
      if 120 ≤ x.replay.length then ctrl
      else match vs[(Config.freeWord s.free).toNat % vs.length]? with
        | some v => ((s.useFree 1).emitData p (x.takeData v).1 (x.takeData v).2)
        | none => ctrl

/-- FLIT_SEND (R284 to R286). With no cable the lanes are idle (R464). -/
def execFlitSend (p : Fin 8) (s : State) : Out :=
  s.happens (if (s.lport p.val).flows && s.cabled p.val && s.portRuns p.val then some (s.sendFlit p) else none)

/-! Receiving a flit (R285, R286). -/

/-- The fields of a flit header. -/
structure FlitHead where
  seq : BitVec 8
  ack : BitVec 8
  kind : Nat
  vc : Nat
  nak : Bool
  used : Nat
  rest : Nat
  rsp : BitVec 8
  red : BitVec 8
  req : BitVec 8
  deriving DecidableEq, Repr

/-- The header of 8 bytes. -/
def flitHead (bs : List Byte) : FlitHead :=
  let w := leAt bs 0 8
  { seq := BitVec.ofNat 8 (w / 2 ^ 56), ack := BitVec.ofNat 8 (w / 2 ^ 48), kind := w / 2 ^ 46 % 4
    vc := w / 2 ^ 44 % 4, nak := w / 2 ^ 43 % 2 == 1, used := w / 2 ^ 36 % 16
    rest := w / 2 ^ 40 % 8 + w / 2 ^ 24 % 2 ^ 12
    rsp := BitVec.ofNat 8 (w / 2 ^ 16), red := BitVec.ofNat 8 (w / 2 ^ 8), req := BitVec.ofNat 8 w }

/-- Is the payload of a CTRL flit one of R284 and R289? -/
def ctrlOk (pl : List Byte) : Bool :=
  match leAt pl 0 1 with
  | 0 | 3 => leAt pl 1 239 == 0
  | 1 => decide (leAt pl 1 1 ≤ 3 ∧ leAt pl 2 1 ≤ 1) && leAt pl 3 5 == 0 && leAt pl 16 224 == 0
  | 2 => true
  | _ => false

/-- A flit that holds no reserved value (R284). -/
def FlitHead.ok (h : FlitHead) (pl : List Byte) : Bool :=
  h.rest == 0 &&
    (match h.kind with
     | 0 => h.seq == 0 && h.vc == 0 && h.used == 0 && ctrlOk pl
     | 1 => decide (h.vc ≤ 2 ∧ 1 ≤ h.used)
     | _ => false)

/-- A flit lost: NAK is set until the next in order arrives good. -/
def Port.lose (x : Port) : Port := { x with nak := true }

/-- The acknowledgement of a good header: flits it passes leave the replay buffer. -/
def Port.acknowledge (x : Port) (a : BitVec 8) : Port :=
  let rest := x.replay.filter (fun f => after8 f.seq a)
  if after8 a x.acked && decide (rest.length < x.replay.length) then
    { x with replay := rest, acked := a, resend := min x.resend rest.length, resends := 0, nakSeen := none }
  else x

/-- The credits of a good header. -/
def Port.credits (x : Port) (h : FlitHead) : Port :=
  { x with
    req := { x.req with cred := h.req }, red := { x.red with cred := h.red }, rsp := { x.rsp with cred := h.rsp } }

/-- Every unacknowledged flit is sent again (R285). -/
def Port.resendAll (x : Port) : Port :=
  { (x.count 3 1) with resend := x.replay.length, resends := x.resends + 1 }

/-- The virtual channel a header names. -/
def vcNamed : Nat → Vc
  | 0 => .req
  | 1 => .red
  | _ => .rsp

/-- A good DATA flit: accepted if it is the next in order. -/
def Port.acceptData (x : Port) (h : FlitHead) (pl : List Byte) : Port :=
  if h.seq = x.ack + 1 then
    let v := vcNamed h.vc
    let c := x.vcOf v
    { (x.setVc v { c with rx := c.rx ++ pl.take (16 * h.used), slots := c.slots ++ [16 * h.used], used := c.used + 1 })
        with ack := h.seq, nak := false, fresh := false }
  else x

/-- A flit with a good CRC and no reserved value. -/
def Port.accept (x : Port) (h : FlitHead) (pl : List Byte) : Port :=
  let x := (x.acknowledge h.ack).credits h
  let x := if h.nak && x.nakSeen != some h.ack && !x.replay.isEmpty then
    { x.resendAll with nakSeen := some h.ack } else x
  if h.kind = 1 then x.acceptData h pl
  else if leAt pl 0 1 = 0 then x
  else { x with ctrl := x.ctrl ++ [(leAt pl 0 1, pl)] }

/-- A retrain after eight resends in a row. -/
def State.escalate (s : State) (p : Nat) : State := if 8 ≤ (s.lport p).resends then s.retrain p else s

/-- The frame's next flit: 0 and 1 lie in its first codeword, 3 and 4 in its second, and 2 in both (R279). A codeword is
counted as uncorrectable with the first lost flit that shows it to be (R298). -/
def Port.frameStep (x : Port) (ok : Bool) : Port :=
  let i := x.rxInFrame
  let first := !ok && !x.rxFirst && decide (i < 2)
  let second := !ok && !x.rxSecond && (decide (2 < i) || (decide (i = 2) && !x.rxFirst))
  let y := x.count 1 (b2n first + b2n second)
  if 4 ≤ i then { y with rxInFrame := 0, rxFcnt := x.rxFcnt + 1, rxFirst := false, rxSecond := false }
  else { y with rxInFrame := i + 1, rxFirst := x.rxFirst || first, rxSecond := x.rxSecond || second }

/-- A flit received. -/
def State.receiveFlit (s : State) (p : Nat) (f : BitVec 2048) (ok : Bool) : State :=
  let x := (s.lport p).frameStep ok
  let bs := flitBytes f
  let h := flitHead bs
  let pl := slice bs 8 240
  if !ok then s.setLport p x.lose
  else if crc64 (bs.take 248) != BitVec.ofNat 64 (leAt bs 248 8) || !(h.ok pl) then
    s.setLport p (x.lose.count 2 1)
  else (s.setLport p (x.accept h pl)).escalate p

/-- FLIT_RECEIVE (R283 to R286). A received INIT is acted on before the next flit. -/
def execFlitReceive (p : Fin 8) (flit : BitVec 2048) (codewordOk : Bool) (s : State) : Out :=
  let x := s.lport p.val
  s.happens (if x.flows && s.cabled p.val && s.portRuns p.val && !(x.ctrl.any (fun c => c.1 == 3)) then
    some (s.receiveFlit p.val flit codewordOk) else none)

/-- REPLAY_TIMEOUT (R285). -/
def execReplayTimeout (p : Fin 8) (s : State) : Out :=
  let x := s.lport p.val
  s.happens (if s.portRuns p.val && x.state == .ready && !x.replay.isEmpty then
    some ((s.setLport p.val x.resendAll).escalate p.val) else none)

/-! CTRL flits (R287 to R291). -/

/-- The oldest CTRL flit received and not evaluated, if it has a subtype. -/
def Port.ctrlFront (x : Port) (sub : Nat) : Option (List Byte) :=
  match x.ctrl with
  | (k, pl) :: _ => if k = sub then some pl else none
  | [] => none

/-- Does a HELLO pass the checks of R289? -/
def Port.helloOk (x : Port) (p : Nat) (h : Hello) : Bool :=
  h.axis == axisOf p && h.dir != dirOf p && h.ring == x.ringid && x.ringid != 0

/-- HELLO (R289). -/
def execHello (p : Fin 8) (s : State) : Out :=
  let x := s.lport p.val
  s.happens (if x.flows && s.portRuns p.val then (x.ctrlFront 1).map (fun pl =>
      let h : Hello := { axis := leAt pl 1 1, dir := leAt pl 2 1, ring := BitVec.ofNat 64 (leAt pl 8 8) }
      let s := s.setLport p.val { x with ctrl := x.ctrl.tail, hello := some h, heard := true }
      s.portTo p.val (if x.helloOk p.val h then .ready else .mismatch))
    else none)

/-- HELLO_SEND (R289). -/
def execHelloSend (p : Fin 8) (s : State) : Out :=
  let x := s.lport p.val
  s.happens (if x.flows && s.portRuns p.val && !(x.ctrlOut.contains 1) then
    some (s.setLport p.val { x with ctrlOut := x.ctrlOut ++ [1] }) else none)

/-- INIT received by a port whose state is not fresh: it leaves READY, its packets are lost, and its link layer
is reset. It sends no INIT of its own for that: only a port that comes to LINK_UP from TRAINING does (R287). -/
def State.initPort (s : State) (p : Nat) : State :=
  let x := s.lport p
  let was := x.state == .ready || x.held
  let s := if was then s.loseTaken p else s
  let y := s.lport p
  let s := s.setLport p
    { y.linkReset with heard := y.heard, state := if y.state == .ready then .linkUp else y.state, held := false }
  if was then s.linkState p else s

/-- INIT (R287). -/
def execInit (p : Fin 8) (s : State) : Out :=
  let x := s.lport p.val
  s.happens (if x.flows && s.portRuns p.val then (x.ctrlFront 3).map (fun _ =>
      if x.fresh then s.setLport p.val { x with ctrl := x.ctrl.tail } else s.initPort p.val)
    else none)

/-- INIT_SEND (R287). -/
def execInitSend (p : Fin 8) (s : State) : Out :=
  let x := s.lport p.val
  s.happens (if x.flows && s.portRuns p.val && !x.heard && !(x.ctrlOut.contains 3) then
    some (s.setLport p.val { x with ctrlOut := x.ctrlOut ++ [3] }) else none)

/-- The module-log record of a RESET_REQ (R291). -/
def State.logResetReq (s : State) (p : Nat) : State :=
  s.mlogOpen { type := 0, strike := s.strike, payload := [BitVec.ofNat 8 p] }

/-- Strikes in 10 ms. -/
def tenMs : Nat := 1000000

/-- RESET_REQ of the operator: refused unless READY, and within 10 ms of the last (R290). -/
def State.sendResetReq (s : State) (p : Nat) : State :=
  let x := s.lport p
  let soon := match x.lastReset with
    | some t => decide ((s.strike - t).toNat < tenMs)
    | none => false
  if x.state != .ready || soon then s.answer .refused
  else ((s.setLport p { x with ctrlOut := x.ctrlOut ++ [2], lastReset := some s.strike }).logResetReq p).answer .ok

/-- RESET_REQ (R290). -/
def execResetReq (p : Fin 8) (s : State) : Out := s.managed (s.sendResetReq p.val)

/-- A RESET_REQ received: source 6 asserts for one cycle, or it is counted (R291). -/
def State.takeResetReq (s : State) (p : Nat) : State :=
  let x := s.lport p
  let y := { x with ctrl := x.ctrl.tail }
  if x.state == .ready && x.rreset then ((s.setLport p y).logResetReq p).assert_ 6 (linkDie p) false
  else (s.setLport p ((y.count 7 1).event 4)).logResetReq p

/-- RESET_REQ_RECEIVE (R291). -/
def execResetReqReceive (p : Fin 8) (s : State) : Out :=
  let x := s.lport p.val
  s.happens (if x.flows && s.portRuns p.val then (x.ctrlFront 2).map (fun _ => s.takeResetReq p.val) else none)

end Sys2Proof.Machine
end

