-- ==== Sys2Proof/Machine/Packets.lean ====
section
/-! DEFINITION. The transaction layer of the torus ports: packets received, link descriptors, and the port registers (R288, R292 to R297, R304 to R306). -/

namespace Sys2Proof.Machine

open Sys2Proof

/-! Packets at the front of a virtual channel (R292 to R294). -/

/-- Bytes taken from the slots of a receive buffer: what is left of them, and how many are freed. -/
def eatSlots : Nat → List Nat → List Nat × Nat
  | _, [] => ([], 0)
  | n, b :: bs =>
    if n < b then ((b - n) :: bs, 0)
    else
      let r := eatSlots (n - b) bs
      (r.1, r.2 + 1)

/-- n received bytes applied: the slots they empty are freed (R286). -/
def VcState.consume (c : VcState) (n : Nat) : VcState :=
  let r := eatSlots n c.slots
  { c with rx := c.rx.drop n, slots := r.1, used := c.used - r.2, freed := c.freed + BitVec.ofNat 8 r.2 }

/-- The packet at the front of a virtual channel, once all of its bytes have arrived. -/
def Port.packet (x : Port) (v : Vc) : Option (Header × List Byte) :=
  let rx := (x.vcOf v).rx
  let h := headerOf rx
  if 32 ≤ rx.length ∧ 32 + h.dataLen ≤ rx.length then some (h, (rx.drop 32).take h.dataLen) else none

/-- The packet applied: its bytes leave the receive buffer. -/
def State.consume (s : State) (p : Nat) (v : Vc) (h : Header) : State :=
  let x := s.lport p
  s.setLport p (x.setVc v ((x.vcOf v).consume (32 + h.dataLen)))

/-- A packet answered: COMPLETION, or GET_RSP without data for a GET; an error is counted (R293, R294, R298). -/
def State.reply (s : State) (p : Nat) (v : Vc) (h : Header) (status : Nat) : State :=
  let s := s.consume p v h
  let x := (s.lport p).count 6 (if status = 0 then 0 else 1)
  s.setLport p (x.send .rsp { op := if h.op = 2 then 9 else 8, tag := h.tag, status := status } [])

/-- The operations a virtual channel carries (Table 7 of file 11). -/
def opsOf : Vc → List Nat
  | .req => [1, 2, 5]
  | .red => [1, 3, 4, 5]
  | .rsp => [8, 9]

/-- Packets at the front whose OP the virtual channel does not carry: answered BAD_PACKET, or dropped on RSP. -/
def State.skipBad (s : State) (p : Nat) (v : Vc) : Nat → State
  | 0 => s
  | n + 1 =>
    match (s.lport p).packet v with
    | some (h, _) =>
      if (opsOf v).contains h.op then s
      else State.skipBad (if v == .rsp then s.consume p v h else s.reply p v h 2) p v n
    | none => s

/-- The packet at the front done if it is the one a command names. -/
def State.onPacket (s : State) (p : Nat) (v : Vc) (op : Nat) (body : State → Header → List Byte → Option State) :
    Out :=
  if !(s.portRuns p) then .next s
  else
  let s := s.skipBad p v ((s.lport p).vcOf v).rx.length
  s.happens (((s.lport p).packet v).bind (fun (h, d) => if h.op = op then body s h d else none))

/-- A violation of a packet, logged by the receiving link die (R294, R415). -/
def State.packetViolation (s : State) (p : Fin 8) (cause addr : Nat) : State :=
  s.violate (linkDie p.val) (plainViolation cause addr (.port p) 3)

/-- An error response to an access of a link die: the unit that answers logs it (R415), and the access waits no more. -/
def State.portFails (s : State) (p : Fin 8) (cause addr : Nat) : State :=
  (s.dropTurns p.val (· == addr)).violate (s.answerDie (linkDie p.val) cause addr) (plainViolation cause addr (.port p) 3)

/-- The turn of a link die's access to memory at the store die that serves it (R214, R216, R295). For external memory the
spec names no die: the model takes that of R13 (DESIGN CHOICE, log 84). -/
def State.portTurn (s : State) (p : Fin 8) (a n : Nat) : State × Bool :=
  s.turns (.access (.port p) a n)
    (spotsOf (if s.target a == .ext then .memory else .link (Fin.ofNat 2 (p.val / 4))) [(a, n)])

/-- A packet refused with REMOTE_VIOLATION. -/
def State.refusePacket (s : State) (p : Fin 8) (v : Vc) (h : Header) (cause : Nat) : State :=
  ((s.dropTurns p.val (· == h.addr)).packetViolation p cause h.addr).reply p.val v h 1

/-- The cause that refuses a span of external memory or the central store. -/
def State.spanCause (s : State) (a n : Nat) : Option Nat :=
  if !((s.target a == .ext || s.target a == .store) && decide (a + n ≤ s.targetEnd a)) then some 0x30
  else if (s.firstOff a (a + n - 1)).isSome then some 0x31
  else none

/-- A data length of 1 to 64 units, and the fields that only some operations use. -/
def Header.lenOk (h : Header) : Bool := decide (1 ≤ h.len ∧ h.len ≤ 64)
def Header.addrOk (h : Header) : Bool := decide (h.addr < 2 ^ 48 ∧ h.addr % 64 = 0)

/-- Reserved fields of a PUT or a GET. -/
def Header.plainOk (h : Header) : Bool :=
  h.lenOk && h.addrOk && h.etype == 0 && h.status == 0 && h.value == 0 && h.epoch == 0 && h.aux == 0

/-- Data written at the address of a packet, with what follows it. -/
def State.writePacket (s : State) (p : Fin 8) (v : Vc) (h : Header) (d : List Byte) (after : State → State) :
    Option State :=
  match s.spanCause h.addr d.length with
  | some c => some (s.refusePacket p v h c)
  | none =>
    if s.dieWaits h.addr || s.accessWaits h.addr d.length true then none
    else match s.portTurn p h.addr d.length with
      | (s, false) => some s
      | (s, true) => (s.memWrite h.addr d).map (fun s => (after s).reply p.val v h 0)

/-- PUT (R292 to R294). -/
def execPut (p : Fin 8) (vc : Vc) (s : State) : Out :=
  s.onPacket p.val vc 1 (fun s h d =>
    if h.plainOk then s.writePacket p vc h d id else some (s.reply p.val vc h 2))

/-- What a GET answers. -/
def State.get (s : State) (p : Fin 8) (h : Header) : Option State :=
  let n := 64 * h.len
  if !h.plainOk then some (s.reply p.val .req h 2)
  else match s.spanCause h.addr n with
    | some c => some (s.refusePacket p .req h c)
    | none =>
      if s.dieWaits h.addr || s.accessWaits h.addr n false then none
      else match s.portTurn p h.addr n with
        | (s, false) => some s
        | (s, true) =>
        match s.memRead h.addr n with
        | (s, .error a) => some ((s.portFails p 0x35 a).reply p.val .req h 1)
        | (s, .ok bs) =>
          let s := s.consume p.val .req h
          some (s.setLport p.val ((s.lport p.val).send .rsp { op := 9, len := h.len, tag := h.tag } bs))

/-- GET (R292 to R294). -/
def execGet (p : Fin 8) (s : State) : Out := s.onPacket p.val .req 2 (fun s h _ => s.get p h)

/-- Does an EPOCH stand before the port's (R305)? -/
def Port.stale (x : Port) (h : Header) : Bool := after32 x.epoch (BitVec.ofNat 32 h.epoch)
/-- Is it after the port's, so that the packet is held? -/
def Port.early (x : Port) (h : Header) : Bool := after32 (BitVec.ofNat 32 h.epoch) x.epoch

/-- Reserved fields of a REDUCE_PUT. -/
def Header.reduceOk (h : Header) : Bool :=
  h.lenOk && decide (h.addr < 2 ^ 14) && (etypeOf h.etype).isSome && h.status == 0
    && decide (h.value < 2 ^ 20 ∧ h.value % 64 = 0) && h.aux == 0

/-- The valid channel of a port whose receive context is k. -/
def Port.channelFor (x : Port) (k : Nat) : Option Nat :=
  (List.range 16).find? (fun n => (x.channel n).valid && (x.channel n).rxCtx == k)

/-- A violation whose cause the manual does not name: it is a free value (log 23). -/
def State.refuseOpen (s : State) (p : Fin 8) (h : Header) : State :=
  (s.useFree 1).refusePacket p .red h ((Config.freeWord s.free).toNat % 256)

/-- Data into the slot that a channel's receive ring has open; FILL when the slot is full (R206, R293). -/
def State.reduce (s : State) (p n : Nat) (k : Nat) (h : Header) (d : List Byte) : Option State :=
  let x := s.lport p
  let c := x.channel n
  let r := s.ctx k
  if !c.open_ && (s.srcHasp r).free = 0 then none
  else
    let s := if c.open_ then s else s.setSrcHasp k (fun z => { z with free := z.free - 1 })
    let slot := ceilDiv r.pos r.srcSlot + (s.srcHasp r).fill
    let s := s.storeWrite (r.src + slot % r.srcSlots * r.srcSlot + h.value) d
    let got := c.got + d.length
    let full := decide (r.srcSlot ≤ got)
    let s := s.setLport p (x.setChannel n
      { c with open_ := !full, got := if full then 0 else got })
    some (if full then s.setSrcHasp k (fun z => { z with fill := z.fill + 1 }) else s)

/-- Is a context one that a REDUCE_PUT may fill: live, from a store ring that no stream fills (R293)? -/
def State.receives (s : State) (k : Nat) : Bool :=
  let r := s.ctx k
  r.live && r.srcEnd == 1 && (s.filler r.src).isNone

/-- What a REDUCE_PUT does (R293, R294, R305). A stale one that breaks another rule too is logged EPOCH_STALE, the one rule
of Table 6 of file 17 that it breaks (R415). -/
def State.reducePut (s : State) (p : Fin 8) (h : Header) (d : List Byte) : Option State :=
  let x := s.lport p.val
  if !h.reduceOk then some (s.reply p.val .red h 2)
  else if x.stale h then some ((s.dropTurns p.val (· == (s.ctx h.addr).src)).refusePacket p .red h 0x36)
  else match x.channelFor h.addr with
    | none => some (s.refuseOpen p h)
    | some n =>
      let left := s.dropTurns p.val (· == (s.ctx h.addr).src)
      if x.early h then none
      else if !(s.receives h.addr) || decide ((s.ctx h.addr).srcSlot < h.value + d.length) then
        some (left.refuseOpen p h)
      else
        let a := (s.ctx h.addr).src
        if s.dieWaits a || (!(x.channel n).open_ && decide ((s.srcHasp (s.ctx h.addr)).free = 0)) then none
        else match s.portTurn p a d.length with
          | (s, false) => some s
          | (s, true) => (s.reduce p.val n h.addr h d).map (fun s => s.reply p.val .red h 0)

/-- REDUCE_PUT (R305). -/
def execReducePut (p : Fin 8) (s : State) : Out := s.onPacket p.val .red 3 (fun s h d => s.reducePut p h d)

/-- Reserved fields of a PERMUTE. -/
def Header.permuteOk (h : Header) : Bool :=
  h.lenOk && h.addrOk && (etypeOf h.etype).isSome && h.status == 0 && h.value == 0 && h.aux == 0

/-- Units of a PERMUTE counted by the RESHARD of the axis, once PORT_EPOCH is its NEW_EPOCH (R323 steps 3 and 5). -/
def State.countUnits (s : State) (p n : Nat) : State :=
  match s.reshardOf (axisOf p) with
  | none => s
  | some r =>
    if r.step != .moves then s
    else s.setReshard (axisOf p)
      (if dirOf p = 0 then { r with gotPlus := r.gotPlus + n } else { r with gotMinus := r.gotMinus + n })

/-- PERMUTE (R305, R323). A stale one whose ADDR is refused as well is logged under the lower code (R415). -/
def execPermutePacket (p : Fin 8) (s : State) : Out :=
  s.onPacket p.val .red 4 (fun s h d =>
    let x := s.lport p.val
    if !h.permuteOk then some (s.reply p.val .red h 2)
    else if x.stale h then some (s.refusePacket p .red h ((s.spanCause h.addr d.length).getD 0x36))
    else if x.early h then none
    else s.writePacket p .red h d (fun s => s.countUnits p.val h.len))

/-- Reserved fields of a FLAG packet. -/
def Header.flagOk (h : Header) : Bool :=
  h.len == 0 && h.etype == 0 && h.status == 0 && h.epoch == 0 && decide (h.addr < 2 ^ 16)
    && (h.aux == 2 || h.aux == 3)

/-- FLAG packet (R244, R292). -/
def execFlagPacket (p : Fin 8) (vc : Vc) (s : State) : Out :=
  s.onPacket p.val vc 5 (fun s h _ =>
    if h.flagOk then some ((s.applyFlag h.aux h.addr (BitVec.ofNat 64 h.value)).reply p.val vc h 0)
    else some (s.reply p.val vc h 2))

/-! Responses (R293, R296, R303, R325). -/

/-- The packet that a response ends. -/
def Port.takenBy (x : Port) (tag : Nat) : Option Taken := x.taken.find? (fun t => t.tag == tag && t.ended.isNone)

/-- Reserved fields of a response (Tables 6 to 8 of file 11). One with a reserved value has no effect (R294). -/
def Header.responseOk (h : Header) : Bool :=
  h.etype == 0 && h.addr == 0 && h.value == 0 && h.epoch == 0 && h.aux == 0 && decide (h.status ≤ 4)

/-- Is LEN of a GET_RSP as requested, or 0 on error (Table 7 of file 11)? -/
def Taken.lenOk (t : Taken) (h : Header) : Bool :=
  match t.who with
  | .descriptor _ 2 _ n => h.len == (if h.status = 0 then n else 0)
  | _ => false

/-- Is a taken packet a descriptor of a virtual channel? -/
def Taken.inRing (t : Taken) (v : Vc) : Bool :=
  match t.who with
  | .descriptor _ _ _ _ => t.vc == v
  | _ => false

/-- The descriptors of a virtual channel that ended without being sent complete once none before them is left (R296). -/
def State.flushEnded (s : State) (p : Nat) (v : Vc) : Nat → State
  | 0 => s
  | k + 1 =>
    match (s.lport p).taken.find? (fun t => t.inRing v) with
    | none => s
    | some t =>
      match t.ended with
      | none => s
      | some status =>
        let x := s.lport p
        State.flushEnded ((s.setLport p { x with taken := x.taken.erase t }).failTaken p t status) p v k

/-- A packet of a channel's slot completed: with the last, the slot's FREE is posted (R303). -/
def State.slotDone (s : State) (p n : Nat) : State :=
  let x := s.lport p
  let c := x.channel n
  let left := c.flying - 1
  if left = 0 ∧ c.slot then
    let s := s.setLport p (x.setChannel n { c with flying := 0, slot := false, next := c.next + 1 })
    let k := s.ctx c.localCtx
    if k.passNo = c.inPass then
      s.setCtx c.localCtx { k with hasp := k.hasp.map (fun z => { z with free := z.free + 1 }) }
    else s
  else s.setLport p (x.setChannel n { c with flying := left })

/-- A packet of the RESHARD of an axis with this NEW_EPOCH completed; one of an earlier RESHARD counts for none. -/
def State.moveCompleted (s : State) (axis : Nat) (epoch : BitVec 32) : State :=
  match s.reshardOf axis with
  | some r => if r.epoch == epoch then s.setReshard axis { r with flying := r.flying - 1 } else s
  | none => s

/-- A taken packet ended with a status, its response applied. -/
def State.endTaken (s : State) (p : Nat) (t : Taken) (status : Nat) : State :=
  let x := s.lport p
  let s := s.setLport p { x with taken := x.taken.erase t }
  let s := if status ≠ 0 then s.failTaken p t status
    else match t.who with
      | .descriptor user op _ _ => s.linkDone p user op 0
      | .channel n => if ((s.lport p).channel n).valid then s.slotDone p n else s
      | .reshard e => s.moveCompleted (axisOf p) e
      | .retFlag => s
  s.flushEnded p t.vc x.taken.length

/-- COMPLETION (R293). One that answers no packet of the port, or holds a reserved value, is dropped. -/
def execCompletion (p : Fin 8) (s : State) : Out :=
  s.onPacket p.val .rsp 8 (fun s h _ =>
    let s := s.consume p.val .rsp h
    some (match (if h.responseOk && h.len == 0 then (s.lport p.val).takenBy h.tag else none) with
      | some t => s.endTaken p.val t h.status
      | none => s))

/-- The data of a GET written at its local address, or LOCAL_VIOLATION. -/
def State.landGet (s : State) (p : Fin 8) (h : Header) (t : Taken) (dst : Nat) (d : List Byte) : Option State :=
  match s.spanCause dst d.length with
  | some c => some (((s.portFails p c dst).consume p.val .rsp h).endTaken p.val t 4)
  | none =>
    if s.dieWaits dst || s.accessWaits dst d.length true then none
    else match s.portTurn p dst d.length with
      | (s, false) => some s
      | (s, true) => (s.memWrite dst d).map (fun s => (s.consume p.val .rsp h).endTaken p.val t 0)

/-- GET_RSP (R292). One that answers no GET of the port, or holds a reserved value, is dropped. -/
def execGetRsp (p : Fin 8) (s : State) : Out :=
  s.onPacket p.val .rsp 9 (fun s h d =>
    match (if h.responseOk then (s.lport p.val).takenBy h.tag else none) with
    | none => some (s.consume p.val .rsp h)
    | some t =>
      if !(t.lenOk h) then some (s.consume p.val .rsp h)
      else match t.who with
        | .descriptor _ _ dst _ =>
          if h.status = 0 then s.landGet p h t dst d else some ((s.consume p.val .rsp h).endTaken p.val t h.status)
        | _ => some (s.consume p.val .rsp h))

/-! Link descriptors (R295, R296). -/

/-- The depth of a port's send ring. -/
def Port.sqDepth (x : Port) : Nat := 2 ^ bits x.sqCfg 0 4

/-- Are the fields of a request those of its operation (Tables 6 and 7 of file 11)? -/
def Header.requestOk (h : Header) : Bool :=
  match h.op with
  | 1 | 2 => h.plainOk
  | 3 => h.reduceOk
  | 4 => h.permuteOk
  | 5 => h.flagOk
  | _ => false

/-- Is a descriptor one that can be sent: a request on REQ or RED without a reserved value, and zero where R295 says so
(log 26)? -/
def descOk (h : Header) (b : List Byte) : Bool :=
  decide (leAt b 48 1 ≤ 1) && leAt b 49 15 == 0 && h.tag == 0 && h.requestOk
    && (opsOf (vcNamed (leAt b 48 1))).contains h.op

/-- The head of the send ring advances. -/
def State.sqTaken (s : State) (p : Nat) : State :=
  let x := s.lport p
  s.setLport p { x with sqHead := x.sqHead + 1, desc := none }

/-- A descriptor's packet sent. -/
def State.sendDesc (s : State) (p : Nat) (h : Header) (v : Vc) (user : Word) (dst : Nat) (d : List Byte) : State :=
  let s := s.sqTaken p
  s.setLport p ((s.lport p).sendTagged v h d (.descriptor user h.op dst h.len))

/-- A descriptor that ends without being sent: it completes once none of its VC before it is left (R296). -/
def State.failDesc (s : State) (p : Nat) (h : Header) (v : Vc) (user : Word) (status : Nat) : State :=
  let s := s.sqTaken p
  let x := s.lport p
  let s := s.setLport p { x with
    taken := x.taken ++ [{ tag := 0, vc := v, who := .descriptor user h.op 0 0, ended := some status }] }
  s.flushEnded p v (x.taken.length + 1)

/-- A descriptor read from the ring carried out: FLAG has no local data, a GET's destination is checked, the
others' data are read. One with reserved values ends BAD_PACKET without being sent (log 26). A local address that is no
multiple of 64 is a MISALIGNED access (R472). -/
def State.doDesc (s : State) (p : Fin 8) (b : List Byte) : Option State :=
  let h := headerOf b
  let a := leAt b 32 8
  let user := BitVec.ofNat 64 (leAt b 40 8)
  let v := vcNamed (leAt b 48 1)
  let n := 64 * h.len
  if !(descOk h b) then some (s.failDesc p.val h v user 2)
  else if h.op = 5 then some (s.sendDesc p.val h v user 0 [])
  else match (s.spanCause a n).or (if a % 64 ≠ 0 then some 0x32 else none) with
    | some c => some ((s.portFails p c a).failDesc p.val h v user 4)
    | none =>
      if h.op = 2 then some (s.sendDesc p.val h v user a [])
      else if s.dieWaits a || s.accessWaits a n false then some s
      else match s.portTurn p a n with
        | (s, false) => some s
        | (s, true) =>
        match s.memRead a n with
        | (s, .error x) => some ((s.portFails p 0x35 x).failDesc p.val h v user 4)
        | (s, .ok d) => some (s.sendDesc p.val h v user 0 d)

/-- A descriptor that cannot be read ends LOCAL_VIOLATION, its USER, OP and VC free values. -/
def State.lostDesc (s : State) (p : Fin 8) (cause a : Nat) : State :=
  ((s.portFails p cause a).useFree 3).failDesc p.val { op := (Config.freeWord s.free).toNat % 256 }
    (vcNamed ((Config.freeWord (s.free + 2)).toNat % 2)) (Config.freeWord (s.free + 1)) 4

/-- The next descriptor taken: read, if it has not been, and carried out once its local data may be accessed. -/
def State.takeDesc (s : State) (p : Fin 8) : Option State :=
  let x := s.lport p.val
  let a := x.sqBase + x.sqHead.toNat % x.sqDepth * 64
  match x.desc with
  | some b => s.doDesc p b
  | none =>
    match s.spanCause a 64 with
    | some c => some (s.lostDesc p c a)
    | none =>
      if s.dieWaits a || s.accessWaits a 64 false then none
      else match s.portTurn p a 64 with
        | (s, false) => some s
        | (s, true) =>
        match s.memRead a 64 with
        | (s, .error y) => some (s.lostDesc p 0x35 y)
        | (s, .ok b) => (s.setLport p.val { s.lport p.val with desc := some b }).doDesc p b

/-- LINK_DESCRIPTOR (R282, R295). -/
def execLinkDescriptor (p : Fin 8) (s : State) : Out :=
  let x := s.lport p.val
  s.happens (if x.state == .ready && s.portRuns p.val && x.sqHead != x.sqTail then s.takeDesc p else none)

/-! Port registers (R288, R295, R297). -/

/-- The address of a register of a port (Table 1 of file 11). -/
def portAddr (p off : Nat) : Nat := regAddr (linkDie p) (0x100000 + p % 4 * 0x1000 + off)

/-- A write to PORT_CTL: ENABLE starts training or disables the port. -/
def State.putPortCtl (s : State) (p : Nat) (v : Word) : State :=
  let x := s.lport p
  let m := bits v 4 4
  let locked := s.resets.locks.contains (linkDie p)
  let y := { x with
    minlanes := if 6 ≤ m ∧ m ≤ 8 then m else x.minlanes
    rreset := if locked then x.rreset else bit v 1
    enable := bit v 0 }
  let s := s.setLport p y
  if y.enable && !x.enable then s.train p
  else if !y.enable && x.enable then (s.setLport p { y with lanes := 0 }).portTo p .disabled
  else s

/-- PORT_CTL written (R297). -/
def execPortCtl (o : Origin) (p : Fin 8) (v : BitVec 64) (s : State) : Out :=
  .next (s.onWrite o (portAddr p.val 0) (fun s => s.putPortCtl p.val v))

/-- PORT_SQ_TAIL written (R295). -/
def execPortSqTail (o : Origin) (p : Fin 8) (v : BitVec 64) (s : State) : Out :=
  .next (s.onWrite o (portAddr p.val 0x30) (fun s => s.setLport p.val { s.lport p.val with sqTail := v }))

/-- PORT_RINGID written through the management endpoint (R288): the service die keeps a copy. A port whose link die is off
or waits answers as for any register access (R277). -/
def execPortRingid (p : Fin 8) (v : BitVec 64) (s : State) : Out :=
  s.managed (s.onReg .operator (portAddr p.val 8) true (fun s =>
    (s.setLport p.val { s.lport p.val with ringid := v, ringCopy := v }).answer .ok))

end Sys2Proof.Machine
end

