-- ==== Sys2Proof/Machine/EventQueues.lean ====
section
/-! DEFINITION. Event queues, interrupts, the handover, host memory and the front-end ports (R351 to R362). -/

namespace Sys2Proof.Machine

open Sys2Proof

/-- The address of a register of an event queue (R355). -/
def eqAddr (e off : Nat) : Nat := regAddr 56 (0x200000 + 0x40 * e + off)

/-- Bytes of host memory in force (R351). -/
def State.hostBytes (s : State) : Nat := s.boot.hostmem * 2 ^ 30

/-- The RW fields of an EQ_CFG write; a DEPTH above 16 leaves the field as it is. -/
def EventQueue.withCfg (q : EventQueue) (v : Word) : EventQueue :=
  { q with
    enable := bit v 63, moderation := bits v 32 16, eiid := bits v 16 11, hart := bits v 8 5
    depth := if bits v 0 5 ≤ 16 then bits v 0 5 else q.depth }

/-- A write to EQ_CFG (R356): one that would enable a ring outside host memory is refused as a whole (R443). -/
def State.putEqCfg (s : State) (o : Origin) (e : Nat) (v : Word) : State :=
  let q := s.eq e
  let n := q.withCfg v
  if q.enable && n.enable then (if n.depth = q.depth then s.setEq e n else s)
  else if n.enable then
    let n := { n with head := 0, tail := 0, unsignalled := 0, ahead := 0 }
    if q.base + 64 * 2 ^ n.depth ≤ s.hostBytes then s.setEq e n
    else s.refuseWrite o (eqAddr e 8) v
  else s.setEq e n

/-- EQ_CFG written. -/
def execEqCfg (o : Origin) (e : Nat) (v : BitVec 64) (s : State) : Out :=
  if decide (e < 256) then .next (s.onWrite o (eqAddr e 8) (fun s => s.putEqCfg o e v)) else .fault .noSuchUnit

/-- A write to EQ_HEAD (R357). -/
def EventQueue.putHead (q : EventQueue) (v : Word) : EventQueue :=
  let h : BitVec 32 := v.truncate 32
  if (h - q.head).toNat ≤ (q.tail - q.head).toNat then { q with head := h } else { q with sc := q.sc.event 3 }

/-- EQ_HEAD written. -/
def execEqHead (o : Origin) (e : Nat) (v : BitVec 64) (s : State) : Out :=
  if decide (e < 256) then
    .next (s.onWrite o (eqAddr e 0x10) (fun s => s.setEq e ((s.eq e).putHead v)))
  else .fault .noSuchUnit

/-- The record a queue writes next, and the queue without it (R358): EVENTS_LOST before every record that found the ring
full. -/
def EventQueue.nextRec (q : EventQueue) (strike : Word) : Option (Rec × EventQueue) :=
  if q.lostSince ≠ {} ∧ (q.ahead = 0 ∨ q.pending = []) then
    some ({ type := 0x28, strike := strike, payload := leBytes 8 q.lostSince.word.toNat }, { q with lostSince := {}, ahead := 0 })
  else match q.pending with
    | r :: rest => some (r, { q with pending := rest, ahead := q.ahead - 1 })
    | [] => none

/-- PHASE of record n of a ring (R357). -/
def phaseOf (n depth : Nat) : Nat := 1 - n / 2 ^ depth % 2

/-- A record written to slot n mod depth; FULL is set by the one that fills the ring. -/
def State.writeRecord (s : State) (e : Nat) (r : Rec) (q : EventQueue) : State :=
  let n := q.tail.toNat
  let s := s.writeRun (q.base + n % 2 ^ q.depth * 64) (r.bytes (phaseOf n q.depth))
  let q := { q with tail := q.tail + 1, unsignalled := q.unsignalled + 1 }
  s.setEq e (if q.space = 0 then { q with sc := q.sc.event 0 } else q)

/-- Does the helm die work: on, not in reset, and its fabric clock in no gap (R368)? -/
def State.helmUp (s : State) : Bool := s.dieOn 56 && !(s.dieInReset 56) && !(s.inGap 56)

/-- EVENT_RECORD_WRITE (R357, R358). -/
def execEventRecordWrite (e : Nat) (s : State) : Out :=
  if decide (e < 256) then
    let q := s.eq e
    s.happens (if s.helmUp && q.enable && decide (0 < q.space) then
      (q.nextRec s.strike).bind (fun (r, q) =>
        let a := q.base + q.tail.toNat % 2 ^ q.depth * 64
        if s.dieWaits a || s.accessWaits a 64 true then none else some (s.writeRecord e r q))
      else none)
  else .fault .noSuchUnit

/-- May a queue send its MSI now (R359)? -/
def EventQueue.msiDue (q : EventQueue) (strike : Word) : Bool :=
  q.eiid != 0 && decide (0 < q.unsignalled) &&
    (match q.lastMsi with
     | some t => decide (q.moderation ≤ (strike - t).toNat)
     | none => true)

/-- An MSI sets its identity in the IMSIC of a hart, which has 2,047, numbered from 1 (R349). -/
def State.signal (s : State) (hart id : Nat) : State :=
  let now := Assoc.get [] s.imsic hart
  if id = 0 ∨ 2047 < id ∨ now.contains id then s else { s with imsic := Assoc.put [] s.imsic hart (now ++ [id]) }

/-- EVENT_INTERRUPT (R359): one MSI per record, or one for all of them under moderation. -/
def execEventInterrupt (e : Nat) (s : State) : Out :=
  if decide (e < 256) then
    let q := s.eq e
    s.happens (if s.helmUp && q.msiDue s.strike then
      let left := if q.moderation = 0 then q.unsignalled - 1 else 0
      let s := s.setEq e { q with unsignalled := left, lastMsi := some s.strike }
      some (({ s with out := { s.out with msi := some (q.hart, q.eiid) } } : State).signal q.hart q.eiid)
      else none)
  else .fault .noSuchUnit

/-! One job at a time (R360, R361). -/

/-- HANDOVER (R360): source 2 asserts at reach MODULE, or POWER where the fuses say so, and the episode zeroes
all memory before its release; busy during an update (R432). -/
def execHandover (s : State) : Out :=
  s.managed (if s.boot.update.isSome then s.answer .busy
    else (s.assertAt 2 (if s.reachOf 2 = rPower then rPower else rModule) 0 0 true true).answer .ok)

/-- HOSTMEM (R351): in force at the next reset of reach MODULE or POWER. -/
def execHostmem (gib : Nat) (s : State) : Out :=
  s.managed (if 128 ≤ gib ∧ gib ≤ 1024 ∧ gib % 64 = 0 then
    ({ s with boot := { s.boot with hostmemSet := gib } } : State).answer .ok else s.answer .refused)

/-! Front-end ports (R362). -/

/-- The hardware timestamp of a frame. The clock is helm software's own, so what it shows is a free value (log 95). -/
def State.stampFrame (s : State) (n : Fin 2) : State :=
  ({ s with out := { s.out with stamp := some (n, Config.freeWord s.free) } } : State).useFree 1

/-- The DMA of a front-end port moves a frame to memory with its timestamp, or its access is refused. -/
def State.dmaFrame (s : State) (n : Fin 2) (addr : Nat) (frame : List Byte) : Option State :=
  match s.spanCause addr frame.length with
  | some c => some (s.refuseAccess (.frontEnd n) c addr frame.length 1)
  | none =>
    if s.dieWaits addr || s.accessWaits addr frame.length true then none
    else match s.accessTurn (.frontEnd n) addr frame.length with
      | (s, false) => some s
      | (s, true) => (s.memWrite addr frame).map (fun s =>
      let f := Assoc.get {} s.pins.frames n.val
      ({ s with pins := { s.pins with frames := Assoc.put {} s.pins.frames n.val f.tick } } : State).stampFrame n)

/-- FRONT_END_FRAME (R362): frames of 1 to 9,216 bytes, where a cable is present (R464). -/
def execFrontEndFrame (n : Fin 2) (addr : Nat) (frame : List (BitVec 8)) (s : State) : Out :=
  s.happens (if s.helmUp && s.cabled (8 + n.val) && decide (0 < frame.length ∧ frame.length ≤ 9216) then s.dmaFrame n addr frame else none)

end Sys2Proof.Machine
end

