-- ==== Sys2Proof/Machine/RepairRecord.lean ====
section
/-! DEFINITION. The flash and the repair record in it (R420, R424, R437). -/

namespace Sys2Proof.Machine

open Sys2Proof

/-- Has a site failed in its row map? -/
def State.siteFailed (s : State) (c : Nat) : Bool := bit (s.rowMap (rowKey c)).decidedFailed (colOfCore c)

/-! Flash and the repair record (R424, R437). -/

/-- A byte of the flash; one that nothing has written is erased. -/
def State.flashByte (s : State) (a : Nat) : Byte := Assoc.get 0xFF s.boot.flash a
def State.flashBytes (s : State) (a n : Nat) : List Byte := readFrom s.flashByte a n

/-- Bytes programmed into the flash. -/
def State.program (s : State) (a : Nat) (bs : List Byte) : State :=
  { s with boot := { s.boot with flash := Assoc.putAll 0xFF s.boot.flash (bytesAt a bs) } }

/-- The addresses of copies A and B of the repair record. -/
def copyAddr (b : Bool) : Nat := if b then 0x3010000 else 0x3000000

/-- A repair record: its SEQUENCE and its entries. -/
structure RepairCopy where
  seq : BitVec 32
  entries : List RepairEntry
  deriving DecidableEq, Repr

/-- An entry's eight bytes, and the entry they hold. -/
def repairBytes (e : RepairEntry) : List Byte :=
  [BitVec.ofNat 8 e.kind, BitVec.ofNat 8 e.die, 0, 0] ++ leBytes 4 e.index
def repairEntry (b : List Byte) : RepairEntry := { kind := leAt b 0 1, die := leAt b 1 1, index := leAt b 4 4 }

/-- Header bytes 0 to 11 of a record. -/
def repairHead (seq : BitVec 32) (n : Nat) : List Byte := leBytes 4 0x52524B5A ++ leBytes 4 seq.toNat ++ leBytes 4 n

/-- A copy in flash, where it is valid (R437). -/
def State.repairCopy (s : State) (b : Bool) : Option RepairCopy :=
  let h := s.flashBytes (copyAddr b) 64
  let n := leAt h 8 4
  if leAt h 0 4 = 0x52524B5A ∧ n ≤ 8184 ∧ (slice h 16 48).all (· == 0) then
    let body := s.flashBytes (copyAddr b + 64) (8 * n)
    if leAt h 12 4 = (crc32 (slice h 0 12 ++ body)).toNat then
      some { seq := BitVec.ofNat 32 (leAt h 4 4)
             entries := (List.range n).map (fun i => repairEntry (slice body (8 * i) 8)) }
    else none
  else none

/-- Which copy holds the newest valid record, and the record. -/
def State.newestRepair (s : State) : Option (Bool × RepairCopy) :=
  match s.repairCopy false, s.repairCopy true with
  | some a, some b => if after32 b.seq a.seq then some (true, b) else some (false, a)
  | some a, none => some (false, a)
  | none, some b => some (true, b)
  | none, none => none

/-- A record written to the copy that does not hold the newest one, with SEQUENCE one greater. -/
def State.writeRepair (s : State) (es : List RepairEntry) : State :=
  let at_ := match s.newestRepair with
    | some (b, _) => copyAddr (!b)
    | none => copyAddr false
  let seq := match s.newestRepair with
    | some (_, r) => r.seq + 1
    | none => 1
  let body := es.flatMap repairBytes
  let h := repairHead seq es.length
  s.program at_ (h ++ leBytes 4 (crc32 (h ++ body)).toNat ++ List.replicate 48 0 ++ body)

/-- The entries of the newest valid record. -/
def State.repairs (s : State) : List RepairEntry := (s.newestRepair.map (fun r => r.2.entries)).getD []

/-- Entries removed from the record (R437). -/
def State.dropRepairs (s : State) (f : RepairEntry → Bool) : State :=
  if s.repairs.any f then s.writeRepair (s.repairs.filter (fun e => !(f e))) else s

/-- Has the module made a repair? -/
def State.repaired (s : State) (e : RepairEntry) : Bool :=
  if e.kind = 1 then siteExists e.index && dieOfCore e.index == e.die && s.siteFailed e.index
  else if e.kind = 2 then s.grid.diesOut.contains e.die && e.index == 0
  else if e.kind = 3 then s.ext.retired == some e.index && 32 + e.index % 16 == e.die
  else if e.kind = 4 then decide (16 ≤ e.die ∧ e.die < 24) && (Assoc.get [] s.store.spared (e.die - 16)).contains e.index
  else if e.kind = 5 then decide (32 ≤ e.die ∧ e.die < 48)
    && (s.port_ (e.die - 32)).redirects.any (fun r => r.done && r.chan * 2 ^ 24 + r.row == e.index)
  else false

end Sys2Proof.Machine
end

