-- ==== Sys2Proof/Machine/GridMem.lean ====
section
/-! DEFINITION. Events of the grid and of the memory-port dies: row maps, patrol, row redirects, repair and channel retirement (R338, R343 to R348). -/

namespace Sys2Proof.Machine

open Sys2Proof

/-- ROW_MAP_UPDATE: a decided map takes effect once no task runs on the row (R338). -/
def State.updateRow (s : State) (key : Nat) : Option State :=
  match (s.rowMap key).next with
  | some (failed, active) =>
    if s.rowBusy key then none
    else some { s with grid := { s.grid with
      rows := Assoc.put {} s.grid.rows key { failed := failed, active := active } } }
  | none => none

/-- ROW_MAP_UPDATE (R338). -/
def execRowMapUpdate (d : Fin 12) (row : Fin 30) (s : State) : Out :=
  s.happens (s.updateRow (d.val * 32 + row.val))

/-! Patrol (R345). -/

/-- Bursts of a channel, its share of the reserve included (R342, R343). -/
def channelBursts : Nat := 2 ^ 28

/-- The burst of the map that burst j of a channel holds now: of the map itself, or of the granules that have moved into
its share of the reserve; none where it holds nothing (R343, R347). -/
def State.burstOf (s : State) (c j : Nat) : Option Nat :=
  if j < 4 * channelGranules then
    if j / 4 < s.movedOf c then none else some (4 * (j / 4 * 384 + c) + j % 4)
  else (s.ext.retired <|> s.ext.retiring.map (fun r => r.chan)).bind (fun x =>
    let k := (j / 4 - channelGranules) * 383 + (if c < x then c else c - 1)
    if c ≠ x ∧ k < s.movedOf x then some (4 * (k * 384 + x) + j % 4) else none)

/-- The patrol's place after one burst: the next burst, then the next channel. -/
def MemPort.patrolOn (p : MemPort) : MemPort :=
  if p.patrolBurst + 1 < channelBursts then { p with patrolBurst := p.patrolBurst + 1 }
  else { p with patrolBurst := 0, patrolChan := (p.patrolChan + 1) % 24 }

/-- Is a channel retired, so that it is powered down and not patrolled (R347)? -/
def State.isRetired (s : State) (c : Nat) : Bool := s.ext.retired == some c

/-- One burst read by the patrol; a retired channel is passed over. -/
def State.scrub (s : State) (m : Nat) : State :=
  let p := s.port_ m
  let c := 16 * p.patrolChan + m
  if s.isRetired c then s.setPort_ m { p with patrolBurst := 0, patrolChan := (p.patrolChan + 1) % 24 }
  else
    let s := match s.burstOf c p.patrolBurst with
      | some b => (s.readBurst b).1
      | none => s
    s.setPort_ m (s.port_ m).patrolOn

/-- Does a memory-port die work: on, and not in reset? -/
def State.memUp (s : State) (m : Nat) : Bool := s.dieOn (32 + m) && !(s.dieInReset (32 + m))

/-- PATROL_SCRUB (R345): it pauses in self-refresh. -/
def execPatrolScrub (m : Fin 16) (s : State) : Out :=
  s.happens (if s.memUp m.val && !(s.port_ m.val).repairing && !s.fabricOpen then some (s.scrub m.val) else none)

/-! Row redirects (R346). -/

/-- Is a burst in a redirected row of a memory-port die? -/
def State.inRow (s : State) (m : Nat) (r : Redirect) (b : Nat) : Bool :=
  s.portAt (64 * b) == m && s.chanAt (64 * b) / 16 == r.chan && s.rowAt (64 * b) == r.row

/-- A row's copy completes: bursts that could be corrected are counted and copied corrected (R344, R346). -/
def State.redirectDone (s : State) (m : Nat) (r : Redirect) : State :=
  let c := 16 * r.chan + m
  let s := (s.ext.weak.filter (s.inRow m r)).foldl State.correctBurst s
  let p := s.port_ m
  let x := s.chan c
  let s := s.setPort_ m { p with redirects := p.redirects.map (fun y => if y = r then { y with done := true } else y) }
  let s := s.setChan c { x with sc := x.sc.event 2 }
  s.repair 3 (32 + m) r.row

/-- ROW_REDIRECT_DONE: the oldest copy in progress (R346). -/
def execRowRedirectDone (m : Fin 16) (s : State) : Out :=
  s.happens (if s.memUp m.val then
    ((s.port_ m.val).redirects.find? (fun r => !r.done)).map (fun r => s.redirectDone m.val r) else none)

/-- MEM_REPAIR of the operator (R346): refused for a die that is off or in reset, busy while it runs. -/
def State.memRepair (s : State) (m : Nat) : State :=
  if !(s.memUp m) then s.answer .refused
  else if (s.port_ m).repairing then s.answer .busy
  else (s.setPort_ m { s.port_ m with repairing := true }).answer .ok

/-- MEM_REPAIR (R346). -/
def execMemRepair (m : Fin 16) (s : State) : Out := s.managed (s.memRepair m.val)

/-- The repaired rows are written back from their entries, and the entries freed, here and in the repair
record (R346, R437). -/
def State.memRepaired (s : State) (m : Nat) : State :=
  let p := s.port_ m
  let gone := fun (e : RepairEntry) => e.kind == 5 && e.die == 32 + m
    && p.redirects.any (fun r => r.done && r.chan * 2 ^ 24 + r.row == e.index)
  (s.setPort_ m { p with repairing := false, redirects := p.redirects.filter (fun r => !r.done) }).dropRepairs gone

/-- MEM_REPAIR_END (R346). -/
def execMemRepairEnd (m : Fin 16) (s : State) : Out :=
  s.happens (if (s.port_ m.val).repairing then some (s.memRepaired m.val) else none)

/-! Channel retirement (R347, R348). -/

/-- CHANNEL_RETIRE of the operator: refused for a second channel (R348). -/
def execChannelRetire (ch : Nat) (s : State) : Out :=
  if decide (ch < 384) then
    s.managed (if s.ext.retiring.isSome || s.ext.retired.isSome || !(s.memUp (ch % 16)) then s.answer .refused
      else (s.retire ch).answer .ok)
  else .fault .noSuchUnit

/-- A granule's poison moves with it to the die that serves it now. Where that die's table is full its bursts stay
uncorrectable, so that every read of them meets the error and the full table again (R344). -/
def State.movePoison (s : State) (g was now : Nat) : State :=
  let p := s.port_ was
  if p.poison.contains g then
    let s := s.setPort_ was { p with poison := p.poison.filter (· != g) }
    let n := s.port_ now
    if n.poison.length < 64 then s.setPort_ now { n with poison := n.poison ++ [g] }
    else { s with ext := { s.ext with bad := s.ext.bad ++ (List.range 4).map (4 * g + ·) } }
  else s

/-- The granule under copy is read, its errors are corrected or poison it, and it is served from the reserve from now on,
poisoned granules as poisoned; a burst that is lost and in no poison table stays so (R344, R347). -/
def State.migrate (s : State) (r : Retiring) : State :=
  let g := r.pointer * 384 + r.chan
  let s := ((List.range 4).map (4 * g + ·)).foldl (fun s b => (s.readBurst b).1) s
  let kept := (s.port_ (r.chan % 16)).poison.contains g
  let s := { s with ext := { s.ext with
    bad := s.ext.bad.filter (fun b => b / 4 != g || !kept), retiring := some { r with pointer := r.pointer + 1 } } }
  let x := s.chan r.chan
  (s.setChan r.chan { x with migrated := x.migrated.tick }).movePoison g (r.chan % 16) (s.portAt (256 * g))

/-- GRANULE_MIGRATED: a granule moves, and the pointer and the migrated count advance (R347). -/
def execGranuleMigrated (s : State) : Out :=
  s.happens (match s.ext.retiring with
    | some r =>
      if r.pointer < channelGranules ∧ s.memUp (r.chan % 16) then some (s.migrate r) else none
    | none => none)

/-- The migration of a channel has ended. -/
def State.retired (s : State) (c : Nat) : State :=
  let s := s.setChan c { s.chan c with state := .retired }
  let s := { s with ext := { s.ext with retiring := none, retired := some c } }
  s.repair 5 (32 + c % 16) c

/-- CHANNEL_RETIRED (R347). -/
def execChannelRetired (s : State) : Out :=
  s.happens (match s.ext.retiring with
    | some r => if channelGranules ≤ r.pointer then some (s.retired r.chan) else none
    | none => none)

end Sys2Proof.Machine
end

