-- ==== Sys2Proof/Machine/Clocks.lean ====
section
/-! DEFINITION. The reference, the clock nodes, CLKMON and the row clocks (R363 to R373). -/

namespace Sys2Proof.Machine

open Sys2Proof

/-! The reference (R363 to R365). -/

/-- POR: power-on reset begins, and source 0 asserts (R363). -/
def execPor (s : State) : Out := .next (s.assertAt 0 rPower 0 0 true false)

/-- Every assertion of a source that satisfies a condition ends; its episode stays open (R378). -/
def State.dropSource (s : State) (src : Nat) (f : Assertion → Bool) : State :=
  { s with resets := { s.resets with
      episodes := s.resets.episodes.map (fun e => { e with
        asserted := e.asserted.map (fun a => if a.src = src && f a then { a with held := false } else a) }) } }

/-- POR ends: the strike counter runs from here on (R16, R363). -/
def State.endPor (s : State) : State :=
  ({ s with clock := { s.clock with porEnded := true }, running := true } : State).dropSource 0 (fun _ => true)

/-- Is the crystal being measured: POR has not ended, and the input is good (R363, R385)? -/
def State.measuring (s : State) : Bool := !s.clock.porEnded && s.power.input == .good

/-- One window measured: 16 good ones in a row make the crystal stable, and it becomes the reference. -/
def State.window (s : State) (ppm : Int) : State :=
  let n := if -1000 ≤ ppm ∧ ppm ≤ 1000 then s.clock.windows + 1 else 0
  let s := { s with clock := { s.clock with windows := n } }
  if 16 ≤ n then ({ s with clock := { s.clock with crystal := true } } : State).endPor else s

/-- CRYSTAL_WINDOW (R363). -/
def execCrystalWindow (ppm : Int) (s : State) : Out := s.happens (if s.measuring then some (s.window ppm) else none)

/-- CRYSTAL_TIMEOUT (R364). -/
def execCrystalTimeout (s : State) : Out :=
  s.happens (if s.measuring then
    some ({ s with clock := { s.clock with crystal := false, sc := s.clock.sc.event 1 } } : State).endPor else none)

/-- XTALLOST (R365). -/
def execXtallost (s : State) : Out :=
  s.happens (if s.clock.porEnded && s.clock.crystal then
    some (({ s with clock := { s.clock with crystal := false, sc := s.clock.sc.event 2 } } : State).mlogOpen
      { type := 0, strike := s.strike }) else none)

/-! Clock nodes (R366 to R370, R372). -/

/-- A node, and one replaced. -/
def State.node (s : State) (k : Nat) : ClockNode := Assoc.get {} s.clock.nodes k
def State.setNode (s : State) (k : Nat) (n : ClockNode) : State :=
  { s with clock := { s.clock with nodes := Assoc.put {} s.clock.nodes k n } }

/-- The register CLK_NODEk. -/
def clkAddr (k : Nat) : Nat := regAddr 60 (0x300000 + 8 * k)

/-- The die whose domain a node belongs to (Table 1 of file 15). -/
def dieOfNode (k : Nat) : Nat :=
  if k < 4 then 60 else if k < 16 then k - 4 else if k < 28 then k - 16 else if k < 36 then k - 12
  else if k < 54 then k - 4 else if k < 56 then 56 else if k < 58 then k - 8 else if k < 60 then 56 else 60

/-- May software gate a node, or switch its source (Table 1)? -/
def gateable (k : Nat) : Bool := decide ((4 ≤ k ∧ k < 28) ∨ k = 52 ∨ k = 53)
def switchable (k : Nat) : Bool := decide ((4 ≤ k ∧ k < 36) ∨ (52 ≤ k ∧ k < 56))

/-- Is a child of a node in use (R369)? -/
def State.childInUse (s : State) (k : Nat) : Bool :=
  if 4 ≤ k ∧ k < 16 then (Assoc.keys s.grid.ungated).any (fun r => r / 32 == k - 4)
  else if 16 ≤ k ∧ k < 28 then s.dieOn (k - 16) && !(s.node (k - 12)).gate
  else if k = 52 ∨ k = 53 then (List.range 4).any (fun i => (s.lport (4 * (k - 52) + i)).enable)
  else false

/-- A node's PLL is locked; nodes 0 to 2 have none and read 1 (Table 2). -/
def State.locked (s : State) (k : Nat) : Bool := decide (k < 3) || (s.node k).lock

/-- SRC as the register shows it: the value last accepted. -/
def ClockNode.srcReg (n : ClockNode) : Bool := n.switching.getD n.src

/-- REASON of a refused write of a node (Table 3), lowest first where several hold but BOTH and DOMAIN_OFF,
which are judged before the rest (log 27). -/
def State.nodeRefusal (s : State) (k : Nat) (gate src : Bool) : Option Nat :=
  let n := s.node k
  let dg := gate != n.gate
  let ds := src != n.srcReg
  if !dg && !ds then none
  else if dg && ds then some 5
  else if !(s.dieOn (dieOfNode k)) then some 6
  else if dg then
    if !gate then none
    else if s.childInUse k then some 1
    else if !(gateable k) then some 2
    else if n.switching.isSome then some 8
    else none
  else if !(switchable k) then some 3
  else if !src && !(s.locked k) then some 4
  else if s.clock.monEn && s.clock.monNode = k && tooFast (s.nodeKhz k src) s.clock.monDiv then some 7
  else if n.switching.isSome then some 8
  else none

/-- A clock write refused (R370, R372, R373). -/
def State.clockRefused (s : State) (o : Origin) (a : Nat) (v : Word) (last reason : Nat) : State :=
  ({ s with clock := { s.clock with lastNode := last, reason := reason, sc := s.clock.sc.event 0 } } : State).refuseWrite
    o a v

/-- A die that stayed in reset for a gated domain leaves it once its nodes are ungated (R379). -/
def State.ungated (s : State) (k : Nat) : State :=
  let d := dieOfNode k
  if s.resets.held.contains d && s.boot.stage == .running && !(s.stillGated d) then s.wake [d] else s

/-- A write to CLK_NODEk. -/
def State.putNode (s : State) (o : Origin) (k : Nat) (v : Word) : State :=
  let n := s.node k
  let gate := bit v 0
  let src := bit v 1
  match s.nodeRefusal k gate src with
  | some r => s.clockRefused o (clkAddr k) v k r
  | none =>
    if gate != n.gate then
      (s.setNode k (if n.switching.isSome then { n with heldUngate := true } else { n with gate := gate })).ungated k
    else if src != n.srcReg then s.setNode k { n with switching := some src }
    else s

/-- CLK_NODEk written, to switch its source (R368). -/
def execClkNodeSrc (o : Origin) (k : Fin 64) (v : BitVec 64) (s : State) : Out :=
  .next (s.onWrite o (clkAddr k.val) (fun s => s.putNode o k.val v))

/-- CLK_NODEk written, to gate the node (R370). -/
def execClkNodeGate (o : Origin) (k : Fin 64) (v : BitVec 64) (s : State) : Out :=
  .next (s.onWrite o (clkAddr k.val) (fun s => s.putNode o k.val v))

/-- CLK_NODEk written, to ungate the node (R370). -/
def execClkNodeUngate (o : Origin) (k : Fin 64) (v : BitVec 64) (s : State) : Out :=
  .next (s.onWrite o (clkAddr k.val) (fun s => s.putNode o k.val v))

/-- CLOCK_SWITCH_END (R368, R370). -/
def execClockSwitchEnd (k : Fin 64) (s : State) : Out :=
  let n := s.node k.val
  s.happens (n.switching.map (fun t =>
    (s.setNode k.val
      { n with src := t, switching := none, gate := n.gate && !n.heldUngate, heldUngate := false }).ungated k.val))

/-! CLKMON (R373). -/

/-- The register CLKMON_CTL. -/
def clkmonAddr : Nat := regAddr 60 0x300208

/-- A write to CLKMON_CTL. -/
def State.putClkmon (s : State) (o : Origin) (v : Word) : State :=
  let en := bit v 15
  let k := bits v 0 6
  let div := bits v 8 4
  if en && tooFast (s.nodeKhz k (s.node k).srcReg) div then s.clockRefused o clkmonAddr v 0xFF 7
  else { s with clock := { s.clock with monEn := en, monDiv := div, monNode := k } }

/-- CLKMON_CTL written. -/
def execClkmonCtl (o : Origin) (v : BitVec 64) (s : State) : Out :=
  .next (s.onWrite o clkmonAddr (fun s => s.putClkmon o v))

/-- What a pin of the management connector carries: nothing but a weak pull-up, or a driven level. -/
inductive PinLevel where
  | pullUp
  | low
  | high
  /-- a clock of khz ÷ 2^div -/
  | clock (khz div : Nat)
  deriving DecidableEq, Repr

/-- The CLKMON pin (R373, R383): the selected node divided by 2^DIV, low while the node is gated, in the gap of a switch
or its domain is off, and pulled up while EN is 0 or SV is in reset. -/
def State.clkmonPin (s : State) : PinLevel :=
  let c := s.clock
  let n := s.node c.monNode
  if !c.monEn || s.dieInReset 60 then .pullUp
  else if n.gate || n.switching.isSome || !(s.dieOn (dieOfNode c.monNode)) then .low
  else .clock (s.nodeKhz c.monNode n.src) c.monDiv

/-! Row clocks (R371). -/

/-- ROW_CLOCK_GATE: after 4,096 idle ACLK cycles, or in no region. -/
def execRowClockGate (d : Fin 12) (row : Fin 30) (s : State) : Out :=
  let key := d.val * 32 + row.val
  let idle := fun (since : Nat) => decide (since + 4096 ≤ s.aclk) || !(s.rowInRegion key)
  s.happens (if (Assoc.keys s.grid.ungated).contains key && !(s.rowBusy key)
      && idle (Assoc.get 0 s.grid.ungated key) then
    some { s with grid := { s.grid with ungated := Assoc.del s.grid.ungated key } } else none)

end Sys2Proof.Machine
end

