-- ==== Sys2Proof/Machine/PowerOps.lean ====
section
/-! DEFINITION. The issue-rate limiter and the activity estimate (R389 to R391), and the power domains (R17, R386,
R387, R427). -/

namespace Sys2Proof.Machine

open Sys2Proof

/-- The typical coefficients of Table 2, where the fuses list none for a die: BASE (1/16 W), then pJ per beat. -/
def typicalCoeff : List Nat := [1280, 229, 300, 200, 330, 18]
def State.coeff (s : State) (d : Nat) : List Nat := Assoc.get typicalCoeff s.boot.fuses.coeff d

/-- The part of a die's controllers that its levels depend on. -/
def DiePower.part (x : DiePower) : LevelPart := { c := x.c, mode := x.mode, droopAt := x.droopAt, h := x.h }

/-- A die's controllers after a change from x in the g-th group of 16 ACLK cycles: a changed level applies from the next
group, so the part at the start of this one is kept (R390). -/
def DiePower.after (x y : DiePower) (g : Nat) : DiePower :=
  if y.part = x.part ∨ x.past.map Prod.fst = some g then y else { y with past := some (g, x.part) }

/-- A compute die's controllers replaced. -/
def State.setDiePower (s : State) (d : Nat) (x : DiePower) : State :=
  { s with power := { s.power with dies := Assoc.put {} s.power.dies d ((s.diePower d).after x (s.aclk / 16)) } }

/-- Energy of one beat of an accumulate, in pJ (Table 2 of file 16). -/
def beatEnergy (co : List Nat) (a : Acc) : Nat :=
  let cls :=
    if halfFloat a.ct then 4
    else if a.ct == .mxfp4 && a.rt == .mxfp4 then 2
    else if a.ct == .mxfp4 || a.rt == .mxfp4 then 3 else 1
  co.getD cls 0 + (if a.comp then co.getD 5 0 else 0)

/-- The effective level of row group g of a die, from the die's part, the strike and h_m (R390). -/
def LevelPart.level (x : LevelPart) (g : Nat) (strike : Word) (hm : Nat) : Nat :=
  let k := if x.mode == .measTrusted then 12 else 16
  let v := match x.droopAt with
    | some t => if (strike - t).toNat < 200 then 8 else 16
    | none => 16
  min x.c (min k (min (Assoc.get 16 x.h g) (min hm v)))

/-- The effective level of a row group now (R390). -/
def State.groupLevel (s : State) (d g : Nat) : Nat := (s.diePower d).part.level g s.strike s.power.hm

/-- A value kept from the start of a group of 16 ACLK cycles, where cycle e lies in that group; the value now where not. -/
def atGroup {α : Type} (e : Nat) (past : Nat × α) (now : α) : α := if past.1 = e / 16 then past.2 else now

/-- The effective level that applies to a core's beats in cycle e: a new one applies from the next group of 16 ACLK cycles
(R390). -/
def State.beatLimit (s : State) (c e : Nat) : Nat :=
  let x := s.diePower (dieOfCore c)
  (atGroup e (x.past.getD (e / 16, x.part)) x.part).level (rowOfCore c / 6)
    (atGroup e s.power.tick s.strike) (atGroup e s.power.hmPast s.power.hm)

/-- The effective cap in watts (R391). -/
def State.capEff (s : State) : Nat :=
  let p := s.power
  if p.softcap ≠ 0 ∧ p.softcap < p.cap then p.softcap else p.cap

/-- An event that sets a bit of PWR_STATUS. -/
def State.powerEvent (s : State) (b : Nat) : State :=
  { s with power := { s.power with sc := s.power.sc.event b } }

/-! Power domains (R17, R386, R387, Table 1 of file 16). -/

/-- The order in which domains are switched on, and off (R17, R379, R387). -/
def domOrder : List Nat := [14, 15, 18, 12, 13] ++ List.range 12 ++ [16, 17]
def offOrder : List Nat := List.range 12 ++ [16, 17, 12, 13, 18, 14, 15]

/-- The domains a domain depends on, SV apart (R17). -/
def domNeeds (d : Nat) : List Nat :=
  if d < 12 ∨ d = 16 ∨ d = 17 then [12, 13] else if d = 12 ∨ d = 13 ∨ d = 18 then [14, 15] else []

/-- The domains that depend on a domain. -/
def domUsers (d : Nat) : List Nat := domOrder.filter (fun x => (domNeeds x).contains d)

/-- The dies of a domain. -/
def domDies (d : Nat) : List Nat := allDies.filter (fun x => domOf x == some d)

/-- Is a compute die or a link die's domain meant? -/
def computeDom (d : Nat) : Bool := decide (d < 12)
def linkDom (d : Nat) : Bool := decide (d = 16 ∨ d = 17)
def storeDom (d : Nat) : Bool := decide (d = 12 ∨ d = 13)

/-- Has a queue a graph loaded or an entry pending (R252)? -/
def Sq.busy (x : Sq) : Bool := x.graph.isSome || !(x.entries.isEmpty) || x.tail != x.head

/-- Does a queue of a region that contains a compute die hold a graph or an entry (R387)? -/
def State.dieBusy (s : State) (d : Nat) : Bool :=
  s.ge.sqs.any (fun e => e.2.enable && e.2.busy && (s.region e.2.region).dies.contains d)

/-- Does a recovery image run (R430)? -/
def State.recoveryRuns (s : State) : Bool := s.boot.image.any (fun i => i.recovery)

/-- Is the change of one domain refused, given the domains requested on (R387, R430)? -/
def State.changeRefused (s : State) (req : BitVec 20) (d : Nat) (on : Bool) : Bool :=
  if d = 19 then true
  else if on then
    !((domNeeds d).all (fun x => bit req x)) || (s.recoveryRuns && (computeDom d || linkDom d))
  else
    (domUsers d).any (fun x => bit req x)
      || (computeDom d && s.dieBusy d)
      || (linkDom d && (List.range 4).any (fun i => (s.lport (4 * (d - 16) + i)).state != .disabled))
      || (storeDom d && s.store.ctxs.any (fun e => e.1 % 8 / 4 == d - 12 && e.2.state != .idle))

/-- May a change start: the domains it depends on are on, or those that depend on it off? -/
def State.changeReady (s : State) (d : Nat) (on : Bool) : Bool :=
  ((domDies d).all (fun x => !(s.inEpisode x)))
    && (if on then (domNeeds d).all s.domOn else (domUsers d).all (fun x => !(s.domOn x)))

/-- The next domain to switch: offs first, each in its order (R387). -/
def State.nextDomain (s : State) : Option (Nat × Bool) :=
  match offOrder.find? (fun d => s.domOn d && !(bit s.power.req d) && s.changeReady d false) with
  | some d => some (d, false)
  | none =>
    (domOrder.find? (fun d => !(s.domOn d) && bit s.power.req d && s.changeReady d true)).map (fun d => (d, true))

/-- The next change starts, if none is in progress. -/
def State.startChange (s : State) : State :=
  if s.power.change.isSome then s else { s with power := { s.power with change := s.nextDomain } }

/-- A domain's bit of STATE. -/
def withBit {w : Nat} (m : BitVec w) (d : Nat) (on : Bool) : BitVec w :=
  if on then m ||| (1#w <<< d) else m &&& ~~~(1#w <<< d)

/-- The helm die loses its registers, and the queues what they hold (log 29). -/
def State.resetHelm (s : State) : State :=
  let s := (Assoc.keys s.ge.sqs).foldl (fun s q =>
    (s.liveTasks q).foldl (fun s t => s.revoke q t) s) s
  { ((s.dropAccesses (fun o _ _ => match o with | .helm _ => true | .frontEnd _ => true | _ => false)).resetLogs [56]) with
    imsic := []
    ge := { s.ge with sqs := [], regions := ({} : GraphEngines).regions, deadlocks := [] }
    logs := { s.logs with eqs := [], vlogs := s.logs.vlogs.filter (fun e => e.1 != 56) } }

/-- The store dies of a group lose their contents, flags and registers. -/
def State.resetGroup (s : State) (g : Nat) : State :=
  let mine := fun (d : Nat) => d / 4 == g
  let there := fun (a : Nat) => decide (storeBase ≤ a ∧ a < storeEnd) && mine (storeDie a)
  let x := s.store
  let s := (domDies (12 + g)).foldl (fun s d => (s.resetLogs [d]).resetNodes (nodesOf d)) s
  { s with
    mem := s.mem.filter (fun e => !(there e.1))
    store := { x with
      flags := x.flags.filter (fun e => !(mine (e.1 % 8)))
      ctxs := x.ctxs.filter (fun e => !(mine (e.1 % 8)))
      cfg := x.cfg.filter (fun e => !(mine e.1)), sc := x.sc.filter (fun e => !(mine e.1))
      discarded := x.discarded.filter (fun e => !(mine e.1)), stalls := x.stalls.filter (fun e => !(mine e.1))
      bad := x.bad.filter (fun l => !(mine (storeDie (64 * l))))
      poison := x.poison.filter (fun l => !(mine (storeDie (64 * l))))
      weak := x.weak.filter (fun l => !(mine (storeDie (64 * l)))) } }

/-- What a domain's dies hold when it comes on (Table 1 of file 16). -/
def State.enterDomain (s : State) (d : Nat) : State :=
  if d < 12 then ((s.resetLogs [d]).resetNodes (nodesOf d)).resetCompute d
  else if storeDom d then s.resetGroup (d - 12)
  else if linkDom d then ((s.resetLogs [32 + d]).resetNodes (nodesOf (32 + d))).resetLink (d - 16)
  else if d = 18 then s.resetHelm.resetNodes (nodesOf 56)
  else (domDies d).foldl (fun s x => ((s.resetLogs [x]).resetNodes (nodesOf x)).resetMem (x - 32)) s

/-- The PLLs of a domain lock, or lose lock. -/
def State.lockNodes (s : State) (d : Nat) (on : Bool) : State :=
  let ks := (domDies d).flatMap nodesOf
  { s with clock := { s.clock with
      nodes := Assoc.putAll {} s.clock.nodes (ks.map (fun k => (k, { Assoc.get {} s.clock.nodes k with lock := on }))) } }

/-- The domains that boot switches on: SDA, SDB, MPA, MPB, HD. -/
def bootDoms : List Nat := [12, 13, 14, 15, 18]

/-- Boot goes on to step 7 once its domains are on (R427, R428). -/
def State.bootOn (s : State) : State :=
  if s.boot.stage == .svFw && bootDoms.all s.domOn then s.bootLast else s

/-- Dies that go off lose their component. -/
def State.unload (s : State) (ds : List Nat) : State :=
  { s with boot := { s.boot with loaded := s.boot.loaded.filter (fun e => !(ds.contains e.1)) } }

/-- A domain is on, or off; HD switched on in service boots its loader (Table 1 of file 16): its bit, its dies, the pool, and what waited for it. -/
def State.domainDone (s : State) (d : Nat) (on : Bool) : State :=
  let s := { s with power := { s.power with change := none, state := withBit s.power.state d on } }
  let s := (if on then s.enterDomain d else s).lockNodes d on
  let s := if d < 12 then s.resetPool else s
  let s := if !on then s.unload (domDies d)
    else if d = 18 ∧ s.boot.stage = .svFw then s
    else if d = 18 ∧ s.boot.stage = .running then s.bootLast
    else s.wake (domDies d)
  s.startChange.bootOn

end Sys2Proof.Machine
end

