-- ==== Sys2Proof/Machine/Resets.lean ====
section
/-! DEFINITION. Reset sources and the release of an episode (R374 to R382, R414). -/

namespace Sys2Proof.Machine

open Sys2Proof

/-- Is a source asserted in an open episode? -/
def State.asserts (s : State) (src : Nat) : Bool :=
  s.resets.episodes.any (fun e => e.asserted.any (fun a => a.src == src && a.held))

/-- RESET_N low for a number of AOCLK cycles: a pulse of fewer than 4 is ignored (Table 5 of file 15). -/
def execResetN (lowCycles : Nat) (s : State) : Out :=
  s.happens (if 4 ≤ lowCycles && !(s.asserts 1) then some (s.assertAt 1 (s.reachOf 1) 0 0 true false) else none)

/-- The management reset command: source 2 asserts while it runs. -/
def execManagementReset (s : State) : Out :=
  s.managed ((s.assertAt 2 (s.reachOf 2) 0 0 true false).answer .ok)

/-- The register RST_REQ. -/
def rstReqAddr : Nat := regAddr 60 0x310000

/-- Is a value of RST_REQ accepted (R382)? -/
def State.rstReqOk (s : State) (v : Word) : Bool :=
  decide (bits v 56 8 = 0xA5 ∧ bits v 8 48 = 0) && (s.reachOf 3 != rDie || dieExists (bits v 0 8))

/-- A write to RST_REQ: an accepted one asserts source 3 for one cycle. -/
def State.putRstReq (s : State) (o : Origin) (v : Word) : State :=
  if s.rstReqOk v then s.assert_ 3 (bits v 0 8) false else s.refuseWrite o rstReqAddr v

/-- RST_REQ written. -/
def execRstReq (o : Origin) (v : BitVec 64) (s : State) : Out := .next (s.onWrite o rstReqAddr (fun s => s.putRstReq o v))

/-- A service-die fault asserts source 4 (R414). -/
def State.watchdogBites (s : State) : State := s.assertAt 4 (s.reachOf 4) 0 0 true false

/-- WATCHDOG: a timer that expires was armed at step 4 of boot (R427); the other causes may come at any time. -/
def execWatchdog (why : WatchdogCause) (s : State) : Out :=
  s.happens (if s.svUp && (s.boot.keys || why != .unserviced) then some s.watchdogBites else none)

/-- May a source be released: POR has ended, the sensors of a tripping die are cool, a core lockout is done? -/
def State.mayRelease (s : State) (src : Nat) (a : Assertion) : Bool :=
  if src = 0 then s.clock.porEnded && s.power.input == .good
  else if src = 5 then !(s.power.tripping.contains a.die)
  else true

/-- RESET_SOURCE_RELEASE (R378). -/
def execResetSourceRelease (src : Fin 9) (s : State) : Out :=
  .next (s.dropSource src.val (fun a => s.mayRelease src.val a))

/-- An episode released, and what waited for it: a domain change that its assertion abandoned (R387). -/
def State.releaseEpisode (s : State) (e : Episode) : State := (s.release e).startChange

/-- RESET_RELEASE (R379): the next group of an episode, once every source of the episode has been released. -/
def execResetRelease (episode : Nat) (s : State) : Out :=
  s.happens (match s.resets.episodes[episode]? with
    | some e =>
      if e.quiet then some (if e.released + 1 < e.groups then s.firstGroup e else s.releaseEpisode e) else none
    | none => none)

end Sys2Proof.Machine
end

