-- ==== Sys2Proof/Machine/PowerEvents.lean ====
section
/-! DEFINITION. The input stage, the power domains, the caps, the two loops and droop (R384 to R395, R398, R428, R461). -/

namespace Sys2Proof.Machine

open Sys2Proof

/-! The input stage (R384, R385, R461). -/

/-- The input leaves its range: every domain but SV goes off, and POR asserts. -/
def State.inputLost (s : State) (x : InputState) : State :=
  ({ s with power := { s.power with input := x } } : State).assertAt 0 rPower 0 0 true false

/-- INPUT_UNDERVOLTAGE (R385). -/
def execInputUndervoltage (s : State) : Out :=
  s.happens (if s.power.input == .under then none else some (s.inputLost .under))

/-- INPUT_OVERVOLTAGE (R385). -/
def execInputOvervoltage (s : State) : Out :=
  s.happens (if s.power.input == .over then none else some (s.inputLost .over))

/-- VIN_SENSE_LOSS: the input switch opens, and POR follows R385 (R461). -/
def execVinSenseLoss (s : State) : Out :=
  s.happens (if s.power.input == .noSense then none else some (s.inputLost .noSense))

/-- INPUT_RESTORED: the input has been within 54 to 63 V for 10 ms (R385). -/
def execInputRestored (s : State) : Out :=
  s.happens (if s.power.input == .good then none else some { s with power := { s.power with input := .good } })

/-- Is an input voltage outside 54 to 63 V, and within 50 to 66 V (R385)? -/
def vinOutside (cv : Nat) : Bool := decide ((5000 ≤ cv ∧ cv < 5400) ∨ (6300 < cv ∧ cv ≤ 6600))

/-- VINRANGE, in units of 10 mV (R385). -/
def execVinrange (centivolts : Nat) (s : State) : Out :=
  s.happens (if vinOutside centivolts then
    some (({ s with power := { s.power with vin := centivolts } } : State).powerEvent 7) else none)

/-- A free 16-bit number. -/
def State.free16 (s : State) : Nat := (Config.freeWord s.free).toNat % 2 ^ 16

/-- The die index of a domain's regulator in a REPAIR record; of a domain of several dies it is open (log 14). -/
def State.domainDie (s : State) (d : Nat) : Nat :=
  match domDies d with
  | [x] => x
  | _ => (Config.freeWord (s.free + 1)).toNat % 2 ^ 8

/-- A regulator drops a phase: counted, shown and logged; which phase is open (log 14). -/
def State.losePhase (s : State) (d : Nat) : State :=
  let n := Assoc.get 0 s.power.phases d + 1
  let s := ({ s with power := { s.power with phases := Assoc.put 0 s.power.phases d n } } : State).powerEvent 3
  let s := (s.useFree 2).repair 6 (s.domainDie d) s.free16
  let x := s.diePower d
  if d < 12 ∧ 3 ≤ n then s.setDiePower d { x with c := min x.c 8 } else s

/-- PHASE_FAIL (R384). -/
def execPhaseFail (domain : Fin 20) (s : State) : Out :=
  s.happens (if s.domOn domain.val then some (s.losePhase domain.val) else none)

/-! Domains (R386, R387, R428). -/

/-- The register PWR_DOM. -/
def pwrDomAddr : Nat := regAddr 60 0x320020

/-- The bits of REQ that an origin may write (R386). -/
def domMask : Origin → BitVec 20
  | .operator => 0xFFFFF
  | .helm _ => 0x30FFF
  | _ => 0

/-- One requested change: accepted into REQ, or refused and remembered. -/
def State.reqDomain (s : State) (want : BitVec 20) (on : Bool) (r : BitVec 20 × Bool) (d : Nat) : BitVec 20 × Bool :=
  if bit want d == on && bit r.1 d != on then
    if s.changeRefused r.1 d on then (r.1, true) else (withBit r.1 d on, r.2)
  else r

/-- The REQ that a write leads to, and whether a change was refused: offs first, in their order (R387). -/
def State.reqAfter (s : State) (want : BitVec 20) : BitVec 20 × Bool :=
  let r := (offOrder ++ [19]).foldl (s.reqDomain want false) (s.power.req, false)
  domOrder.foldl (s.reqDomain want true) r

/-- A write to PWR_DOM. -/
def State.putPwrDom (s : State) (o : Origin) (v : Word) : State :=
  let m := domMask o
  let want := (s.power.req &&& ~~~m) ||| (v.truncate 20 &&& m)
  let r := s.reqAfter want
  let s := { s with power := { s.power with req := r.1 } }
  let s := if r.2 then (s.powerEvent 0).refuseWrite o pwrDomAddr v else s
  s.startChange

/-- PWR_DOM written. -/
def execPwrDom (o : Origin) (v : BitVec 64) (s : State) : Out := .next (s.onWrite o pwrDomAddr (fun s => s.putPwrDom o v))

/-- DOMAIN_CHANGE_DONE (R387). -/
def execDomainChangeDone (s : State) : Out :=
  s.happens (s.power.change.map (fun c => s.domainDone c.1 c.2))

/-- A domain that has not come on is left off; boot goes on without it, or fails (R428). -/
def State.domainLeftOff (s : State) (d : Nat) : State :=
  let s := { s with
    power := { s.power with change := none, req := withBit s.power.req d false }
    boot := { s.boot with sc := s.boot.sc.event 0 } }
  let s := if bootDoms.contains d && s.boot.stage != .running && s.boot.stage != .failed then
    { s with boot := { s.boot with stage := .failed, fail := 7 } } else s
  s.startChange

/-- DOMAIN_ON_TIMEOUT (R428). -/
def execDomainOnTimeout (s : State) : Out :=
  s.happens (match s.power.change with
    | some (d, true) => some (s.domainLeftOff d)
    | _ => none)

/-! Caps (R391, R398). -/

/-- The register PWR_CAP. -/
def pwrCapAddr : Nat := regAddr 60 0x320000

/-- Are the fields of PWR_CAP in range (Table 4 of file 16)? -/
def State.capOk (s : State) (v : Word) : Bool :=
  let trip := bits v 32 8
  let throt := bits v 24 8
  decide (90 ≤ trip ∧ trip ≤ s.boot.fuses.ttripMax ∧ 70 ≤ throt ∧ throt + 5 ≤ trip
    ∧ 1000 ≤ bits v 0 13 ∧ bits v 0 13 ≤ 7800)

/-- PWR_CAP written through the management endpoint. -/
def State.putPwrCap (s : State) (v : Word) : State :=
  if s.capOk v then
    ({ s with power := { s.power with ttrip := bits v 32 8, tthrot := bits v 24 8, cap := bits v 0 13 } } : State).answer .ok
  else (s.refuseWrite .operator pwrCapAddr v).answer .refused

/-- PWR_CAP (R398). -/
def execPwrCap (v : BitVec 64) (s : State) : Out := s.managed (s.putPwrCap v)

/-! The fast loop (R389, R392). -/

/-- The estimate of one microsecond, in 1/16 W: BASE and the energy of the beats started, in pJ. -/
def estimate (base energy : Nat) : Nat := base + energy * 16 / 10 ^ 6

/-- The cap level after one step: p is the trimmed estimate, top the highest level. -/
def stepLevel (c p budget top : Nat) : Nat :=
  if budget < p then max 1 (c - 1) else if p * 16 < budget * 15 then min top (c + 1) else min top c

/-- The highest cap level of a die (R384). -/
def State.topLevel (s : State) (d : Nat) : Nat := if 3 ≤ Assoc.get 0 s.power.phases d then 8 else 16

/-- A die's controller after one microsecond. -/
def DiePower.microsecond (x : DiePower) (base top : Nat) : DiePower :=
  let e := estimate base x.energy
  { x with
    est := e, energy := 0, estSum := x.estSum + e, estCount := x.estCount + 1
    c := stepLevel x.c (e * x.trimNum / x.trimDen) x.budget top }

/-- Does a compute die work: on, and not in reset? -/
def State.dieUp (s : State) (d : Nat) : Bool := s.dieOn d && !(s.dieInReset d)

/-- BASE of a compute die. -/
def State.baseOf (s : State) (d : Nat) : Nat := (s.coeff d).headD 0

/-- FAST_LOOP (R392). -/
def execFastLoop (d : Fin 12) (s : State) : Out :=
  s.happens (if s.dieUp d.val then
    some (s.setDiePower d.val ((s.diePower d.val).microsecond (s.baseOf d.val) (s.topLevel d.val))) else none)

/-! The slow loop (R391 to R394). -/

/-- The die's mean estimate over the window; without one, its last estimate, or BASE (log 8). -/
def DiePower.mean (x : DiePower) (base : Nat) : Nat :=
  if x.estCount ≠ 0 then x.estSum / x.estCount else if x.est ≠ 0 then x.est else base

/-- Is a window in disagreement (R394)? -/
def disagrees (meas est : Nat) : Bool := decide (5 * est < 4 * meas ∨ 5 * meas < 4 * est)

/-- A quarter of the full-rate FP8 beat count of 1 ms: 900 cores at 1,750 MHz. -/
def quarterBeats : Nat := 393750000

/-- Is a measurement implausible (R394)? -/
def DiePower.implausible (x : DiePower) (meas base : Nat) : Bool :=
  meas == 0 || (decide (2 * meas < base) && decide (quarterBeats ≤ x.beats))

/-- meas / est limited to lo / lod and hi / hid. -/
def clampRatio (meas est lo lod hi hid : Nat) : Nat × Nat :=
  if meas * lod < lo * est then (lo, lod) else if hi * est < meas * hid then (hi, hid) else (meas, max est 1)

/-- trim_d in a mode (R391, R394). -/
def trimOf (m : PowerMode) (meas est : Nat) : Nat × Nat :=
  match m with
  | .normal => clampRatio meas est 4 5 5 4
  | .measTrusted => clampRatio meas est 1 4 4 1
  | .estTrusted => (1, 1)

/-- The mode of a die after a window: its runs are those after the window; a die already out of normal mode
decides nothing new. -/
def DiePower.modeAfter (x : DiePower) (meas base : Nat) : PowerMode :=
  if 50 ≤ x.disagree then
    if x.mode == .normal then (if x.implausible meas base then .estTrusted else .measTrusted) else x.mode
  else if 50 ≤ x.agree then .normal
  else x.mode

/-- The runs of windows in and out of disagreement. -/
def DiePower.runs (x : DiePower) (meas est : Nat) : DiePower :=
  if disagrees meas est then { x with disagree := x.disagree + 1, agree := 0 }
  else { x with agree := x.agree + 1, disagree := 0 }

/-- A die's controller after a window of the slow loop. -/
def DiePower.window (x : DiePower) (meas base : Nat) : DiePower :=
  let est := x.mean base
  let y := x.runs meas est
  let m := y.modeAfter meas base
  let t := trimOf m meas est
  { y with
    mode := m, trimNum := t.1, trimDen := t.2, meas := meas, meanEst := est
    estSum := 0, estCount := 0, beats := 0 }

/-- POWER_DISAGREE, where a die has just left normal mode (R394). -/
def State.tellDisagree (s : State) (d : Nat) (was : PowerMode) : State :=
  let x := s.diePower d
  if was == .normal && x.mode != .normal then
    let e := x.mode == .estTrusted
    let s := s.powerEvent 4
    let s := if e then s.powerEvent 5 else s
    s.toEq0Log
      { type := 0x2C, strike := s.strike, status := d + 256 * b2n e
        payload := leBytes 2 (x.meas / 16) ++ leBytes 2 (x.meanEst / 16) }
  else s

/-- One die's part of the slow loop. -/
def State.dieWindow (s : State) (d meas : Nat) : State :=
  let x := s.diePower d
  (s.setDiePower d (x.window meas (s.baseOf d))).tellDisagree d x.mode

/-- P_in as the supervisor takes it (R393), and the run of implausible windows. -/
def inputPower (run pIn sum : Nat) : Nat × Nat :=
  let n := if pIn < sum then run + 1 else 0
  (if 50 ≤ n then 11 * sum / 10 else pIn, n)

/-- The pool after one step (R391), in units of 1/16 W: draw is the sum of trim_d × est_d. -/
def poolAfter (pool draw cap pIn n : Nat) : Nat :=
  let a : Int := (min pool (draw + 320 * n) : Nat)
  let b : Int := a + ((16 * cap : Nat) - (pIn : Int)) / 2
  (min (max b ((1600 * n : Nat) : Int)) ((9600 * n : Nat) : Int)).toNat

/-- trim_d × est_d of a die. -/
def DiePower.drawn (x : DiePower) : Nat := x.meanEst * x.trimNum / x.trimDen

/-- The new pool and the budgets of the dies that are on. -/
def State.setPool (s : State) (pIn : Nat) : State :=
  let on := s.diesOn
  let draw := (on.map (fun d => (s.diePower d).drawn)).foldl (· + ·) 0
  let pool := poolAfter s.power.pool draw s.capEff pIn on.length
  let s := { s with power := { s.power with pool := pool } }
  on.foldl (fun s d => s.setDiePower d { s.diePower d with budget := pool / on.length }) s

/-- The run of windows at the cap floor, and what the 50th does (R392). -/
def State.floorWindow (s : State) (pIn : Nat) : State :=
  let on := s.diesOn
  let at_ := on.all (fun d => (s.diePower d).c == 1) && decide (16 * 102 * s.capEff < 100 * pIn)
  let n := if at_ then s.power.floorRun + 1 else 0
  let s := { s with power := { s.power with floorRun := n } }
  if n = 50 then (s.powerEvent 8).mlogOpen { type := 0, strike := s.strike } else s

/-- One window of the supervisor: readings in 1/16 W, the input voltage in units of 10 mV. -/
def State.supervise (s : State) (pIn vin : Nat) (meas : List Nat) (others : Nat) : State :=
  let on := s.diesOn
  let sum := (on.map (fun d => meas.getD d 0)).foldl (· + ·) others
  let p := inputPower s.power.implausible pIn sum
  let s := { s with power := { s.power with vin := vin, pin := p.1, implausible := p.2 } }
  let s := if p.2 = 50 then s.powerEvent 6 else s
  let s := on.foldl (fun s d => s.dieWindow d (meas.getD d 0)) s
  (s.setPool p.1).floorWindow p.1

/-- SLOW_LOOP (R391). -/
def execSlowLoop (pIn vin : Nat) (meas : List Nat) (others : Nat) (s : State) : Out :=
  s.happens (if s.svUp then some (s.supervise pIn vin meas others) else none)

/-! Droop (R395). -/

/-- A droop detector of a die fires. -/
def DiePower.droop (x : DiePower) (strike : Word) (step : Nat) : DiePower :=
  { x with
    droopAt := some strike, decayFrom := strike, droops := x.droops.tick
    stretch := min 6400 (x.stretch + step) }

/-- DROOP (R395). -/
def execDroop (d : Fin 12) (_g : Fin 5) (s : State) : Out :=
  s.happens (if s.dieUp d.val then
    some (s.setDiePower d.val ((s.diePower d.val).droop s.strike s.power.dstep)) else none)

/-- DROOP_DECAY: 100,000 strikes without a firing (R395). -/
def execDroopDecay (d : Fin 12) (s : State) : Out :=
  let x := s.diePower d.val
  s.happens (if s.dieUp d.val && decide (100000 ≤ (s.strike - x.decayFrom).toNat) then
    some (s.setDiePower d.val { x with stretch := x.stretch - s.power.dstep, decayFrom := s.strike }) else none)

end Sys2Proof.Machine
end

