-- ==== Sys2Proof/Machine/Thermal.lean ====
section
/-! DEFINITION. Temperature sensors, thermal levels and thermal trips (R396, R397). -/

namespace Sys2Proof.Machine

open Sys2Proof

/-- The number of a sensor: 5 d + g for a row group, 64 + index for the one of another die, 200 for the input stage. -/
def sensorNo : Sensor → Nat
  | .rowGroup d g => 5 * d.val + g.val
  | .die i => 64 + i
  | .inputStage => 200

/-- Does a sensor exist: other dies than the compute dies have one each? -/
def sensorExists : Sensor → Bool
  | .die i => dieExists i && decide (12 ≤ i)
  | _ => true

/-- The die of a sensor by its number; 0xFF for the input stage. -/
def dieOfSensor (n : Nat) : Nat := if n < 60 then n / 5 else if n = 200 then 0xFF else n - 64

/-- Its number within the die. -/
def sensorInDie (n : Nat) : Nat := if n < 60 then n % 5 else 0

/-- The sensors of a die, or of the input stage. -/
def sensorsOf (d : Nat) : List Nat :=
  if d < 12 then (List.range 5).map (· + 5 * d) else if d = 0xFF then [200] else [64 + d]

/-- The last reading of a sensor. -/
def State.temp (s : State) (n : Nat) : Nat := Assoc.get 0 s.power.temps n

/-- The hottest of some sensors: the first with the highest reading. -/
def State.hottest (s : State) (ns : List Nat) : Option Nat :=
  ns.foldl (fun m n => match m with
    | some k => if s.temp k < s.temp n then some n else some k
    | none => some n) none

/-- A THERMAL record. -/
def State.thermalRec (s : State) (n : Nat) (trip : Bool) : Rec :=
  { type := 0x2D, strike := s.strike, status := dieOfSensor n + 256 * b2n trip
    payload := [BitVec.ofNat 8 (sensorInDie n), BitVec.ofNat 8 (s.temp n)] }

/-- The reach of a trip (R397). -/
def State.tripReach (s : State) (die : Nat) : Nat :=
  let r := s.reachOf 5
  if die = 0xFF then (if r = rDie then rModule else r) else widened r die

/-- A thermal trip: the record before the reset, the source, and TRIP at DIE reach. -/
def State.trip (s : State) (n : Nat) : State :=
  let d := dieOfSensor n
  let r := s.tripReach d
  let x := s.thermalRec n true
  let s := if r = rPower ∨ r = rModule then s.mlog x else s.toEq0Log x
  let s := { s with power := { s.power with tripping := s.power.tripping ++ [d] } }
  if d = 0xFF then s.assertAt 5 r 0xFF 0 true false
  else
    let s := s.assert_ 5 d true
    if r = rDie then s.powerEvent 2 else s

/-- Does a die trip no longer: every sensor of it below TTRIP − 10 °C? -/
def State.cooled (s : State) (d : Nat) : Bool := (sensorsOf d).all (fun n => decide (s.temp n + 10 < s.power.ttrip))

/-- A reading: its run at or above TTRIP, the hottest sensor, dies that trip no longer, and a trip at the third. -/
def State.readSensor (s : State) (n celsius : Nat) : State :=
  let run := if s.power.ttrip ≤ celsius then Assoc.get 0 s.power.tripRun n + 1 else 0
  let s := { s with power := { s.power with
    temps := Assoc.put 0 s.power.temps n celsius, tripRun := Assoc.put 0 s.power.tripRun n run } }
  let h := s.hottest (Assoc.keys s.power.temps)
  let s := { s with power := { s.power with
    hotdie := (h.map dieOfSensor).getD 0, tmax := (h.map s.temp).getD 0
    tripping := s.power.tripping.filter (fun d => !(s.cooled d)) } }
  if run = 3 ∧ !(s.power.tripping.contains (dieOfSensor n)) then s.trip n else s

/-- THERMAL_SENSOR_READ: every sensor is read, whether its die is on or off (R396, R397). -/
def execThermalSensorRead (x : Sensor) (celsius : Nat) (s : State) : Out :=
  if sensorExists x then .next (s.readSensor (sensorNo x) celsius) else .fault .noSuchUnit

/-! Levels (R396). -/

/-- The sensors that drive h_m: those of the store, memory-port, link and helm dies and of the input stage. -/
def moduleSensors : List Nat :=
  (List.range 8).map (· + 80) ++ (List.range 16).map (· + 96) ++ [112, 113, 120, 200]

/-- A level after one step of its timer, for a reading. -/
def State.levelAfter (s : State) (h t : Nat) : Nat :=
  if s.power.tthrot < t then max 1 (h - 1) else if t + 3 < s.power.tthrot then min 16 (h + 1) else h

/-- A throttle starts: the level has first fallen below 16. -/
def State.throttle (s : State) (was now n : Nat) : State :=
  if was = 16 ∧ now < 16 then (s.powerEvent 1).toEq0Log (s.thermalRec n false) else s

/-- A row group's level steps. -/
def State.stepGroup (s : State) (d g : Nat) : State :=
  let x := s.diePower d
  let n := 5 * d + g
  let was := Assoc.get 16 x.h g
  let now := s.levelAfter was (s.temp n)
  (s.setDiePower d { x with h := Assoc.put 16 x.h g now }).throttle was now n

/-- The module's level steps. -/
def State.stepModule (s : State) : State :=
  let n := (s.hottest moduleSensors).getD 200
  let was := s.power.hm
  let now := s.levelAfter was (s.temp n)
  let g := s.aclk / 16
  let past := if now = was ∨ s.power.hmPast.1 = g then s.power.hmPast else (g, was)
  ({ s with power := { s.power with hm := now, hmPast := past } } : State).throttle was now n

/-- THERMAL_LEVEL_STEP (R396): SV's own sensor drives no level. -/
def execThermalLevelStep (x : Sensor) (s : State) : Out :=
  if sensorExists x then
    match x with
    | .rowGroup d g => s.happens (if s.dieUp d.val then some (s.stepGroup d.val g.val) else none)
    | .die i => s.happens (if s.svUp && i != 60 then some s.stepModule else none)
    | .inputStage => s.happens (if s.svUp then some s.stepModule else none)
  else .fault .noSuchUnit

end Sys2Proof.Machine
end

