-- ==== Sys2Proof/Machine/Lockouts.lean ====
section
/-! DEFINITION. Lockout of cores and dies, return of a die, escalation, configuration parity and store banks (R406 to R414, R419, R448, R449). -/

namespace Sys2Proof.Machine

open Sys2Proof

/-! Cores (R406, R407). -/

/-- CONTROL_PARITY_ERROR (R406). -/
def execControlParityError (c : Nat) (s : State) : Out :=
  if siteExists c then
    s.happens (if s.dieOn (dieOfCore c) && !(s.coreInReset c) && !(s.siteFailed c) then some (s.lockout c 1) else none)
  else .fault .noSuchUnit

/-- CORE_LOCKOUT of the operator (R406): refused for a site that has failed. -/
def execCoreLockout (c : Nat) (s : State) : Out :=
  if siteExists c then
    s.managed (if s.siteFailed c then s.answer .refused else (s.lockout c 4).answer .ok)
  else .fault .noSuchUnit

/-! Dies (R410 to R412). -/

/-- LOCKOUT of a die: to every region that holds it, and once to the module log. Core and coordinates are open
(log 14). -/
def State.dieLockoutRec (s : State) (d trigger : Nat) : State :=
  let f := fun (i : Nat) => (Config.freeWord (s.free + i)).toNat
  let r : Rec :=
    { type := 0x30, strike := s.strike, status := trigger
      payload := leBytes 2 (f 0 % 2 ^ 16)
        ++ [BitVec.ofNat 8 (f 1), BitVec.ofNat 8 (f 2), 1, BitVec.ofNat 8 d] }
  let s := s.useFree 3
  ((List.range 64).foldl (fun s n =>
    if (s.region n).dies.contains d then s.toEq (s.region n).eq { r with region := n } else s) s).mlog r

/-- A compute die leaves the grid: the record, its tasks, its regions, and source 8. -/
def State.lockDie (s : State) (d trigger : Nat) : State :=
  let s := { s with grid := { s.grid with diesOut := s.grid.diesOut ++ [d] } }
  let s := s.dieLockoutRec d trigger
  let s := if s.reachOf 8 = rDie then s else s.loseDie d
  s.assert_ 8 d true

/-- Source 8 on a die: a compute die that is not out is locked out; one that is out, whose tasks and regions have left it,
and any other die are reset (R410, R413). -/
def State.dieFault (s : State) (d trigger : Nat) : State :=
  if d < 12 then
    (if s.grid.diesOut.contains d then s.assertAt 8 (s.reachOf 8) d 0 true false else s.lockDie d trigger)
  else s.assert_ 8 d true

/-- The operator's DIE_LOCKOUT. -/
def State.operatorDie (s : State) (d : Nat) : State :=
  if s.grid.diesOut.contains d then s.answer .refused else (s.dieFault d 4).answer .ok

/-- DIE_LOCKOUT (R410): the operator's command, or a fault that the die detects. -/
def execDieLockout (idx : Nat) (why : DieFault) (s : State) : Out :=
  if dieExists idx then
    match why with
    | .operator => s.managed (s.operatorDie idx)
    | _ => s.happens (if s.dieUp idx then some (s.dieFault idx 5) else none)
  else .fault .noSuchUnit

/-- REPAIR_RECORD_WRITE (R420): a repair made and not yet recorded. -/
def execRepairRecordWrite (e : RepairEntry) (s : State) : Out :=
  s.happens (if s.svUp && s.repaired e && !(s.repairs.contains e) && decide (s.repairs.length < 8184) then
    some (s.writeRepair (s.repairs ++ [e])) else none)

/-- DIE_RETURN: a die that is out and has passed its self-check is re-admitted (R410, R437). -/
def State.returnDie (s : State) (d : Nat) (pass : Bool) : State :=
  if s.grid.diesOut.contains d && pass && !(s.dieInReset d) then
    let s := { s with grid := { s.grid with diesOut := s.grid.diesOut.filter (· != d) } }
    (s.dropRepairs (fun e => e.kind == 2 && e.die == d)).answer .ok
  else s.answer .refused

/-- DIE_RETURN (R410). -/
def execDieReturn (d : Fin 12) (pass : Bool) (s : State) : Out := s.managed (s.returnDie d.val pass)

/-! Escalation (R413). -/

/-- The escalation of an overrun step, where that step is still open. -/
def State.escalated (s : State) : RecoveryStep → Option State
  | .lockout c =>
    if s.resets.episodes.any (fun e => e.asserted.any (fun a => a.src == 7 && a.held && a.core == c)) then
      some (s.dieFault (dieOfCore c) 5) else none
  | .dieRecovery d =>
    if s.resets.episodes.any (fun e => e.asserted.any (fun a => a.src == 8 && a.held && a.die == d.val)) then
      some (s.assertAt 8 rFabric d.val 0 true false) else none
  | .episode k =>
    match s.resets.episodes[k]? with
    | some e => if e.reach = rPower ∨ e.reach = rModule then none else some s.watchdogBites
    | none => none

/-- RECOVERY_TIMEOUT (R413). -/
def execRecoveryTimeout (x : RecoveryStep) (s : State) : Out := s.happens (s.escalated x)

/-! Configuration parity (R448, R449). -/

/-- Does a block exist? -/
def parityBlockExists : ParityBlock → Bool
  | .queueGe q | .queueHd q => decide (q < 4096)
  | .regionGe r | .regionHd r => decide (r < 64)
  | .eventQueue e => decide (e < 256)
  | _ => true

/-- The die of a block. -/
def State.parityDie (s : State) : ParityBlock → Nat
  | .port p => linkDie p
  | .graphEngine d => d
  | .queueGe q => (s.region (s.sq q).region).host
  | .regionGe r => (s.region r).host
  | .store d => 16 + d
  | .memory m => 32 + m
  | .service => 60
  | _ => 56

/-- The configuration registers of a block (Tables 2 and 3 of file 19); those of a graph engine's copy are HD's. -/
def parityRegs : ParityBlock → List Nat
  | .port p =>
    let base := 0x100000 + p.val % 4 * 0x1000
    ([0, 8, 0x20, 0x28, 0x30] ++ (List.range 32).map (fun i => 0x200 + 8 * i)).map
      (fun o => regAddr (linkDie p.val) (base + o))
  | .graphEngine d => (0x100000 :: (List.range 30).map (fun r => 0x200000 + 8 * r)).map (regAddr d.val)
  | .queueGe q | .queueHd q => [0, 8].map (fun o => regAddr 56 (0x300000 + 0x40 * q + o))
  | .regionGe r | .regionHd r => [0, 8, 0x10].map (fun o => regAddr 56 (0x400000 + 0x40 * r + o))
  | .eventQueue e => [0, 8, 0x10].map (fun o => regAddr 56 (0x200000 + 0x40 * e + o))
  | .store d => [regAddr (16 + d.val) 0x0F0000]
  | .memory m => [regAddr (32 + m.val) 0x0F0000]
  | .service =>
    ((List.range 64).map (fun k => 0x300000 + 8 * k) ++ [0x300208, 0x310010, 0x320000, 0x320008, 0x320020, 0x340200]).map
      (regAddr 60)

/-- The address in a CONFIG_PARITY record: that of one of the block's configuration registers, of which the spec does not say
which it is: a free value picks it (log 28). -/
def State.parityAddr (s : State) (b : ParityBlock) : Nat :=
  (parityRegs b).getD ((Config.freeWord s.free).toNat % (parityRegs b).length) 0

/-- A port's safe state: DISABLED, and VALID of its channels clear. -/
def State.safePort (s : State) (p : Nat) : State :=
  let s := (s.setLport p { s.lport p with enable := false, lanes := 0 }).portTo p .disabled
  let x := s.lport p
  s.setLport p { x with channels := x.channels.map (fun e => (e.1, { e.2 with a := e.2.a &&& 0x7FFFFFFFFFFFFFFF })) }

/-- The safe state of a block (Table 2 of file 19). -/
def State.safe (s : State) : ParityBlock → State
  | .port p => s.safePort p
  | .graphEngine d => s.dieFault d 5
  | .queueGe q => s.dieFault (s.region (s.sq q).region).host 5
  | .regionGe r => s.dieFault (s.region r).host 5
  | .queueHd _ | .regionHd _ => s
  | .eventQueue e => s.setEq e { s.eq e with enable := false }
  | .store d => s.assert_ 8 (16 + d) true
  | .memory m => s.assertAt 8 rDie (32 + m) 0 true false
  | .service => s.watchdogBites

/-- A mismatch found. -/
def State.parityFound (s : State) (b : ParityBlock) : State :=
  let r : Rec := { type := 0x34, strike := s.strike, status := s.parityDie b, payload := leBytes 8 (s.parityAddr b) }
  ((s.useFree 1).toEq0Log r).safe b

/-- CONFIG_PARITY_SCAN (R448). -/
def execConfigParityScan (b : ParityBlock) (s : State) : Out :=
  if parityBlockExists b then s.happens (if s.dieUp (s.parityDie b) then some (s.parityFound b) else none)
  else .fault .noSuchUnit

/-! Store banks (R419). -/

/-- BANK_SPARE_DONE: the copy of a bank to a spare completes, and that of the next one begins. -/
def execBankSpareDone (d : Fin 8) (s : State) : Out :=
  s.happens (match Assoc.get none s.store.copying d.val with
    | some b =>
      if s.dieUp (16 + d.val) && !(s.inGap (16 + d.val)) then
        let x := s.store
        some (({ s with store := { x with
            copying := Assoc.put none x.copying d.val (Assoc.get [] x.waiting d.val).head?
            waiting := Assoc.put [] x.waiting d.val (Assoc.get [] x.waiting d.val).tail
            spared := Assoc.put [] x.spared d.val (Assoc.get [] x.spared d.val ++ [b]) } } : State).repair 2
          (16 + d.val) b)
      else none
    | none => none)

end Sys2Proof.Machine
end

