-- ==== Sys2Proof/Machine/Boot.lean ====
section
/-! DEFINITION. Boot, firmware, updates, identity and attestation (R422 to R438). -/

namespace Sys2Proof.Machine

open Sys2Proof

/-! Images (R425, R426). -/

/-- FAIL codes of BOOT_STATUS. -/
def failHeader : Nat := 2
def failKey : Nat := 3
def failSignature : Nat := 4
def failSvn : Nat := 5
def failComponent : Nat := 6

/-- 48 MiB and 8 MiB. -/
def slotSize : Nat := 48 * 2 ^ 20
def ramSize : Nat := 8 * 2 ^ 20

/-- A component entry of the header. -/
structure CompEntry where
  type : Nat
  target : Nat
  off : Nat
  size : Nat
  hash : List Byte
  zeros : Bool
  deriving DecidableEq, Repr

/-- Entry i of an image. -/
def compEntry (b : List Byte) (i : Nat) : CompEntry :=
  let e := slice b (0x20 + 48 * i) 48
  { type := leAt e 0 1, target := leAt e 1 1, off := leAt e 4 4, size := leAt e 8 4, hash := slice e 16 32
    zeros := leAt e 2 2 == 0 && leAt e 12 4 == 0 }

/-- The entries of an image. -/
def imageCount (b : List Byte) : Nat := leAt b 6 2
def imageSize (b : List Byte) : Nat := leAt b 0x10 8
def imageSvn (b : List Byte) : Nat := leAt b 0xC 4
def imageRecovery (b : List Byte) : Bool := leAt b 0x18 4 % 2 == 1
def imageEntries (b : List Byte) : List CompEntry := (List.range (imageCount b)).map (compEntry b)

/-- Is an entry well formed within an image of n bytes? -/
def CompEntry.ok (n : Nat) (e : CompEntry) : Bool :=
  e.zeros && decide (1 ≤ e.type ∧ e.type ≤ 6 ∧ e.off % 4096 = 0 ∧ e.off + e.size ≤ n)
    && (e.target == 0xFF || dieExists e.target)

/-- Do components lie in ascending order without overlap? -/
def compsAscend : List CompEntry → Bool
  | a :: b :: es => decide (a.off + a.size ≤ b.off) && compsAscend (b :: es)
  | _ => true

/-- Check 1 of R426: the fixed fields, the zeros, the ranges and the places of the components. -/
def imageHeaderOk (b : List Byte) : Bool :=
  let n := imageCount b
  leAt b 0 4 == 0x57464B5A && leAt b 4 2 == 1 && leAt b 8 4 == 0x4006
    && decide (2 ≤ n ∧ n ≤ 8 ∧ imageSvn b ≤ 63 ∧ leAt b 0x18 4 ≤ 1)
    && decide (imageSize b % 4096 = 0 ∧ imageSize b ≤ slotSize ∧ imageSize b ≤ b.length ∧ 1024 ≤ imageSize b)
    && (slice b (0x20 + 48 * n) (48 * (8 - n))).all (· == 0) && (slice b 0x220 480).all (· == 0)
    && (imageEntries b).all (CompEntry.ok (imageSize b)) && compsAscend (imageEntries b)

/-- Check 5 of R426: the types. -/
def imageTypesOk (b : List Byte) : Bool :=
  let es := imageEntries b
  let one := fun (t : Nat) => (es.filter (fun e => e.type == t)).length == 1
  let small := ((es.filter (fun e => e.type != 2)).map (fun e => e.size)).foldl (· + ·) 0
  one 1 && one 2 && decide (small ≤ ramSize)
    && (!(imageRecovery b) || (es.all (fun e => e.type == 1 || e.type == 2) && decide (imageSize b ≤ ramSize)))

/-- The root key slot whose key an image carries. -/
def Fuses.rootOf (f : Fuses) (b : List Byte) : Option Nat :=
  let h := sha256 (slice b 0x1A0 64)
  if h = f.rootHash0 ∧ !(bit f.rootRevoke 0) then some 0
  else if h = f.rootHash1 ∧ !(bit f.rootRevoke 1) then some 1
  else none

/-- Bits of MIN_SVN burnt. -/
def Fuses.svnBurnt (f : Fuses) : Nat := ((List.range 64).filter (fun n => bit f.minSvn n)).length

/-- The bytes of a component. -/
def CompEntry.bytes (b : List Byte) (e : CompEntry) : List Byte := slice b e.off e.size

/-- An image checked under R426: what runs, or the reason code of the first check it fails. -/
def Fuses.checkImage (f : Fuses) (b : List Byte) : Except Nat Image :=
  if !(imageHeaderOk b) then .error failHeader
  else match f.rootOf b with
    | none => .error failKey
    | some root =>
      if !(ecdsaVerify (slice b 0x1A0 64) (sha256 (slice b 0 0x1E0)) (slice b 0x1E0 64)) then .error failSignature
      else if imageSvn b < f.svnBurnt then .error failSvn
      else if !(imageTypesOk b) then .error failHeader
      else if (imageEntries b).all (fun e => sha256 (e.bytes b) == e.hash) then
        .ok { svn := imageSvn b, root := root, recovery := imageRecovery b
              parts := (imageEntries b).map (fun e => (e.type, e.target, e.bytes b)) }
      else .error failComponent

/-! Measurements and keys (R427, R433, R435). -/

/-- A measurement of 48 bytes: STAGE, TYPE, TARGET, and a SHA-256. -/
def measure (stage type target : Nat) (hash : List Byte) : List Byte :=
  [BitVec.ofNat 8 stage, BitVec.ofNat 8 type, BitVec.ofNat 8 target] ++ List.replicate 13 0 ++ padTo 32 hash

/-- The measurements of an image: its header, whose TARGET is open (log 30), and its components. -/
def imageMeasures (b : List Byte) (target : Nat) : List (List Byte) :=
  measure 0 0 target (sha256 (slice b 0 0x1E0))
    :: (imageEntries b).map (fun e => measure 0 e.type e.target (sha256 (e.bytes b)))

/-- The private scalar of the device: the first of the candidates from i on that is in range (R433). -/
def deviceKey (seed : List Byte) : Nat → Nat → Nat
  | 0, _ => 0
  | n + 1, i =>
    let k := ofBe (sha256 (beBytes 4 0x5A4B4944 ++ padTo 32 seed ++ beBytes 4 i))
    if 1 ≤ k ∧ k ≤ p256N - 1 then k else deviceKey seed n (i + 1)

/-- DEVID_PUB of the fuses (R433, R434). -/
def Fuses.devidPub (f : Fuses) : List Byte := p256Public (deviceKey f.seed 64 0)

/-! Boot (R427 to R430). -/

/-- The slot's bytes: as many as its header names, where that is possible. -/
def State.slotBytes (s : State) : List Byte :=
  let h := s.flashBytes 0 1024
  s.flashBytes 0 (if imageSize h ≤ slotSize then max 1024 (imageSize h) else 1024)

/-- One entry of a repair record taken up at boot (R340, R348, R420). -/
def State.takeRepair (es : List RepairEntry) (s : State) (e : RepairEntry) : State :=
  if e.kind = 1 then
    let key := rowKey e.index
    let m := s.rowMap key
    if siteExists e.index then
      { s with grid := { s.grid with
          rows := Assoc.put {} s.grid.rows key (rowMapOf (m.decidedFailed ||| (1 <<< colOfCore e.index))) } }
    else s
  else if e.kind = 2 then
    if s.grid.diesOut.contains e.die || decide (12 ≤ e.die) then s
    else { s with grid := { s.grid with diesOut := s.grid.diesOut ++ [e.die] } }
  else if e.kind = 3 then
    if s.ext.retired.isSome || decide (384 ≤ e.index) then s
    else
      ({ s with ext := { s.ext with retired := some e.index } } : State).setChan e.index
        { s.chan e.index with state := .retired }
  else if e.kind = 4 then
    let d := e.die - 16
    let bs := Assoc.get [] s.store.spared d
    if e.die < 16 ∨ 24 ≤ e.die ∨ (es.filter (· == e)).length ≤ (bs.filter (· == e.index)).length then s
    else { s with store := { s.store with spared := Assoc.put [] s.store.spared d (bs ++ [e.index]) } }
  else if e.kind = 5 then
    let m := e.die - 32
    let p := s.port_ m
    let r : Redirect := { chan := e.index / 2 ^ 24, row := e.index % 2 ^ 24, done := true }
    if e.die < 32 ∨ 48 ≤ e.die ∨ p.redirects.contains r then s
    else s.setPort_ m { p with redirects := p.redirects ++ [r] }
  else s

/-- Step 5: the repair record; with no valid copy, only the fused repairs apply (R437). -/
def State.buildRepairs (s : State) : State :=
  match s.newestRepair with
  | some (_, r) => r.entries.foldl (State.takeRepair r.entries) s
  | none => { s with boot := { s.boot with sc := s.boot.sc.event 0 } }

/-- MPA, MPB, SDA, SDB and HD requested on. -/
def State.requestBoot (s : State) : State :=
  ({ s with power := { s.power with req := bootDoms.foldl (fun m d => withBit m d true) s.power.req } } : State).startChange

/-- Dies of domains that the reset kept on leave reset (R427). -/
def State.wakeKept (s : State) (doms : List Nat) : State := s.wake ((doms.filter s.domOn).flatMap domDies)

/-- Steps 4 to 6 for an image that has passed its check (R427, R430). -/
def State.runImage (s : State) (i : Image) (b : List Byte) : State :=
  let s := { s with boot := { s.boot with
    image := some i, keys := true, stage := .svFw, recovery := []
    measures := imageMeasures b ((Config.freeWord s.free).toNat % 256) } }
  (((s.useFree 1).buildRepairs.wakeKept [14, 15, 12, 13]).requestBoot).bootOn

/-- The recovery load path begins (R429). -/
def State.awaitRecovery (s : State) (reason : Nat) : State :=
  (({ s with boot := { s.boot with stage := .recoveryWait, fail := reason } } : State).wakeKept bootDoms).requestBoot

/-- Boot from the slot. -/
def State.bootSlot (s : State) : State :=
  let s := { s with boot := { s.boot with pub := s.boot.fuses.devidPub } }
  let b := s.slotBytes
  match s.boot.fuses.checkImage b with
  | .error r => s.awaitRecovery r
  | .ok i =>
    if i.recovery then (s.useFree 1).awaitRecovery ((Config.freeWord s.free).toNat % 16)
    else s.runImage i b

/-- The fuse shadow failed its ECC (R422). -/
def State.fuseFault (s : State) : State := { s with boot := { s.boot with stage := .failed, fail := 1 } }

/-- BOOT (R427): once after a POWER or MODULE release. -/
def execBoot (s : State) : Out :=
  s.happens (if s.boot.stage == .rom && s.svUp then
    some (if s.boot.fuses.eccOk then s.bootSlot else s.fuseFault) else none)

/-- A recovery image that has arrived complete: it runs, or is discarded (R429). -/
def State.takeRecovery (s : State) (b : List Byte) : State × Bool :=
  match s.boot.fuses.checkImage b with
  | .ok i =>
    if i.recovery then (s.runImage i b, true)
    else (({ s with boot := { s.boot with recovery := [] } } : State).mlogOpen { type := 0, strike := s.strike }, false)
  | .error _ =>
    (({ s with boot := { s.boot with recovery := [] } } : State).mlogOpen { type := 0, strike := s.strike }, false)

/-- Bytes that make a recovery image complete: what its header names, at most 8 MiB. -/
def recoveryNeeds (b : List Byte) : Nat := if b.length < 1024 then 1024 else max 1024 (min ramSize (imageSize b))

/-- A block of FW_RECOVER. -/
def State.recoverBlock (s : State) (block : List Byte) : State :=
  if s.boot.stage != .recoveryWait || block.length != 256 then s.answer .refused
  else
    let b := s.boot.recovery ++ block
    if b.length < recoveryNeeds b then ({ s with boot := { s.boot with recovery := b } } : State).answer .ok
    else
      let r := s.takeRecovery b
      r.1.answer (if r.2 then .ok else .refused)

/-- FW_RECOVER (R429). -/
def execFwRecover (block : List (BitVec 8)) (s : State) : Out := s.managed (s.recoverBlock block)

/-- An answer on the recovery mailbox. -/
def State.mailed (s : State) (m : Mgmt) : State := { s with out := { s.out with mailbox := some m } }

/-- RECOVERY_MAILBOX: the HD mask ROM delivers an image; refused with BUSY while FW_RECOVER delivers one (R429). It
arrives whole, so it never makes FW_RECOVER wait. HD reaches SV only through the store dies. -/
def execRecoveryMailbox (image : List (BitVec 8)) (s : State) : Out :=
  s.happens (if s.boot.stage == .recoveryWait && s.svUp && s.dieUp 56 && s.domOn 12 && s.domOn 13 then
    some (if s.boot.recovery.isEmpty then
      let r := s.takeRecovery image
      r.1.mailed (if r.2 then .ok else .refused)
      else s.mailed .busy)
    else none)

/-! Updates (R431, R432) and fuses (R423). -/

/-- The first sector of the slot erased. -/
def State.eraseFirst (s : State) : State :=
  { s with boot := { s.boot with flash := s.boot.flash.filter (fun e => decide (0x10000 ≤ e.1)) } }

/-- UPD_FAIL, recorded with its reason. -/
def State.updateFailed (s : State) (reason : Nat) : State :=
  ({ s with boot := { s.boot with sc := s.boot.sc.event 2, update := none } } : State).mlogOpen
    { type := 0, strike := s.strike, status := reason }

/-- A read of memory by SV; an error response is logged (R18, R415). -/
def State.svRead (s : State) (a n : Nat) : State × Except Nat (List Byte) := s.geRead 60 a n

/-- Step 1 of an update: the image as read and checked, or a reason. -/
def State.stagedImage (s : State) (addr len : Nat) : State × Except Nat (List Byte) :=
  match s.svRead addr len with
  | (s, .error _) => (s, .error failComponent)
  | (s, .ok b) =>
    match s.boot.fuses.checkImage b with
    | .error r => (s, .error r)
    | .ok i => if i.recovery then (s, .error failHeader) else (s, .ok (b.take (imageSize b)))

/-- FW_COMMIT where nothing stands against it: steps 1 and 2. -/
def State.beginUpdate (s : State) (addr len : Nat) : State :=
  match s.stagedImage addr len with
  | (s, .error r) => (s.updateFailed r).answer .refused
  | (s, .ok b) =>
    (({ s with boot := { s.boot with update := some (addr, b) } } : State).eraseFirst).answer .ok

/-- FW_COMMIT of the operator. -/
def State.fwCommit (s : State) (addr len : Nat) : State :=
  if s.boot.update.isSome then s.answer .busy
  else if s.boot.image.isNone || addr % 4096 != 0 || decide (len = 0 ∨ slotSize < len ∨ s.hostBytes < addr + len) then
    s.answer .refused
  else if s.dieWaits addr || s.accessWaits addr len false then s.answer .busy
  else s.beginUpdate addr len

/-- FW_COMMIT (R431). -/
def execFwCommit (addr len : Nat) (s : State) : Out := s.managed (s.fwCommit addr len)

/-- Steps 3 and 4: the sectors from 0x1_0000 up, then sector 0, then the check of what the slot holds. Staged
bytes that have changed leave the slot without a valid image. -/
def State.endUpdate (s : State) (addr : Nat) (img : List Byte) : State :=
  match s.svRead addr img.length with
  | (s, .error _) => s.updateFailed failComponent
  | (s, .ok b) =>
    let s := s.program 0x10000 (b.drop 0x10000)
    if b = img then
      let s := s.program 0 (b.take 0x10000)
      match s.boot.fuses.checkImage s.slotBytes with
      | .ok _ => { s with boot := { s.boot with update := none, sc := s.boot.sc.event 1 } }
      | .error r => s.updateFailed r
    else s.updateFailed failComponent

/-- UPD_DONE (R431), once the staged image may be read (R346, R376). -/
def execUpdDone (s : State) : Out :=
  s.happens (if s.svUp then s.boot.update.bind (fun u =>
    if s.accessWaits u.1 u.2.length false then none else some (s.endUpdate u.1 u.2)) else none)

/-- The fuses replaced. -/
def State.burn (s : State) (f : Fuses) : State := { s with boot := { s.boot with fuses := f } }

/-- FW_SVN_BURN of the operator. -/
def State.svnBurn (s : State) : State :=
  if s.boot.update.isSome then s.answer .busy
  else match s.boot.image with
    | none => s.answer .refused
    | some i =>
      if i.recovery then s.answer .refused
      else
        let f := s.boot.fuses
        (s.burn { f with minSvn := f.minSvn ||| BitVec.ofNat 64 (2 ^ i.svn - 1) }).answer .ok

/-- FW_SVN_BURN (R423). -/
def execFwSvnBurn (s : State) : Out := s.managed s.svnBurn

/-- ROOT_REVOKE of the operator: refused for the slot in use, and where the other slot is revoked. -/
def State.revokeRoot (s : State) (n : Nat) : State :=
  let f := s.boot.fuses
  if s.boot.image.any (fun i => i.root == n) || bit f.rootRevoke (1 - n) then s.answer .refused
  else (s.burn { f with rootRevoke := f.rootRevoke ||| (1 <<< n) }).answer .ok

/-- ROOT_REVOKE (R423). -/
def execRootRevoke (slot : Fin 2) (s : State) : Out := s.managed (s.revokeRoot slot.val)

/-! Attestation (R434 to R436). -/

/-- RST_LAST (Table 10 of file 15). -/
def State.rstLast (s : State) : Nat :=
  let r := s.resets
  place 52 4 r.reach + place 40 8 r.target + place 24 14 r.core + r.sources.toNat

/-- FLAGS of a report: recovery, XTALFAIL, root slot. -/
def State.attestFlags (s : State) : Nat :=
  b2n s.recoveryRuns + 2 * b2n (s.clock.sc.has 1) + 4 * ((s.boot.image.map (fun i => i.root)).getD 0)

/-- A report without its signature (Table 5 of file 18). -/
def State.reportBody (s : State) (nonce : List Byte) : List Byte :=
  let f := s.boot.fuses
  leBytes 4 0x54414B5A ++ leBytes 2 1 ++ leBytes 2 s.boot.measures.length ++ leBytes 4 0x4006
    ++ leBytes 4 ((s.boot.image.map (fun i => i.svn)).getD 0) ++ leBytes 8 f.serial.toNat
    ++ leBytes 4 f.svnBurnt ++ leBytes 4 s.attestFlags ++ leBytes 8 s.strike.toNat ++ leBytes 8 s.rstLast
    ++ padTo 32 nonce ++ padTo 64 s.boot.pub ++ s.boot.measures.flatten

/-- A signed report: an ECDSA signature under the device key, whose nonce is open (log 11). -/
def State.report (s : State) (nonce : List Byte) : List Byte :=
  let b := s.reportBody nonce
  let z := ofBe (sha256 b)
  let k := (Config.nonce s.free (BitVec.ofNat 256 z)).toNat
  b ++ p256Sign (deviceKey s.boot.fuses.seed 64 0) (1 + k % (p256N - 1)) z

/-- ATTEST (R435): the nonce's bytes are those of a 256-bit number, most significant first. -/
def execAttest (nonce : BitVec 256) (s : State) : Out :=
  s.asked (if s.boot.keys then (s.useFree 1).answer (.data (s.report (beBytes 32 nonce.toNat)))
    else s.answer .notReady)

/-- DEVID_CERT (R434): the identity certificate; nothing but status after a fuse fault (R422). -/
def execDevidCert (s : State) : Out :=
  s.managed (s.answer (.data s.boot.cert))

/-- The registers ATT_CTL and ATT_EXTEND. -/
def attCtlAddr : Nat := regAddr 60 0x340200
def attExtendAddr : Nat := regAddr 60 0x340208

/-- Is a span of host memory there for SV, and must an access to it wait? -/
def State.hostThere (s : State) (a n : Nat) : Bool :=
  decide (a + n ≤ s.hostBytes) && (s.firstOff a (a + n - 1)).isNone
def State.hostWaits (s : State) (a n : Nat) (write : Bool) : Bool :=
  s.hostThere a n && (s.dieWaits a || s.accessWaits a n write)

/-- A report for HD: the nonce from the buffer, the report into it. -/
def State.attestTo (s : State) (a : Nat) : State :=
  match s.memRead (a + 0x30) 32 with
  | (s, .error _) => s
  | (s, .ok nonce) =>
    let s := (s.useFree 1).writeRun a (s.report nonce)
    { s with boot := { s.boot with attDone := true } }

/-- A write to ATT_CTL: bit 0 reads 1 once the report is written. -/
def State.putAttCtl (s : State) (v : Word) : State :=
  let a := bits v 6 42 * 64
  let s := { s with boot := { s.boot with attAddr := a, attDone := false } }
  if s.boot.keys && s.hostThere a (208 + 48 * s.boot.measures.length) then s.attestTo a else s

/-- A write to ATT_EXTEND: an entry of host memory appended, with its STAGE forced to 2 (R436). -/
def State.putAttExtend (s : State) (o : Origin) (v : Word) : State :=
  if 24 ≤ s.boot.measures.length then s.refuseWrite o attExtendAddr v
  else if !(s.hostThere v.toNat 48) then s
  else match s.memRead v.toNat 48 with
    | (s, .error _) => s
    | (s, .ok b) => { s with boot := { s.boot with measures := s.boot.measures ++ [2 :: b.drop 1] } }

/-- Must a write to ATT_CTL or ATT_EXTEND wait for the host memory that its effect reads or writes (R376, R435, R436)? -/
def State.attWaits (s : State) (a : Nat) (v : Word) : Bool :=
  if a = attCtlAddr then s.boot.keys && s.hostWaits (bits v 6 42 * 64) (208 + 48 * s.boot.measures.length) true
  else a == attExtendAddr && decide (s.boot.measures.length < 24) && s.hostWaits v.toNat 48 false

/-- A register write; one whose host memory holds accesses is answered waits, and its sender repeats it (log 20). -/
def State.onHostWrite (s : State) (o : Origin) (a : Nat) (v : Word) (body : State → State) : State :=
  s.onReg o a true (fun s => if s.attWaits a v then s.respond .waits else (body s).respond .done)

/-- ATT_CTL written (R435, R438). -/
def execAttCtl (o : Origin) (v : BitVec 64) (s : State) : Out :=
  .next (s.onHostWrite o attCtlAddr v (fun s => s.putAttCtl v))

/-- ATT_EXTEND written (R436, R438). -/
def execAttExtend (o : Origin) (v : BitVec 64) (s : State) : Out :=
  .next (s.onHostWrite o attExtendAddr v (fun s => s.putAttExtend o v))

end Sys2Proof.Machine
end

