-- ==== Sys2Proof/Machine/Control.lean ====
section
/-! DEFINITION. Branches, loops, strikes, wards and the end of a stream (R111, R112, R126 to R129, R143, R144). -/

namespace Sys2Proof.Machine

open Sys2Proof

/-- `br` (R126, R129). -/
def execBr (c : Nat) (u : UnitId) (target : Nat) (s : State) : Out :=
  s.onInstr c u (.br c u target) (fun k => k.branch u s.aclk [] true target)

/-- `brz` (R126). -/
def execBrz (c : Nat) (u : UnitId) (a : Fin 32) (target : Nat) (s : State) : Out :=
  s.onInstr c u (.brz c u a target) (fun k => k.branch u s.aclk [a] (decide (k.reg u a = 0)) target)

/-- `brnz` (R126). -/
def execBrnz (c : Nat) (u : UnitId) (a : Fin 32) (target : Nat) (s : State) : Out :=
  s.onInstr c u (.brnz c u a target) (fun k => k.branch u s.aclk [a] (decide (k.reg u a ≠ 0)) target)

/-- `brlt` (R126): signed. -/
def execBrlt (c : Nat) (u : UnitId) (a b : Fin 32) (target : Nat) (s : State) : Out :=
  s.onInstr c u (.brlt c u a b target) (fun k => k.branch u s.aclk [a, b] ((k.reg u a).slt (k.reg u b)) target)

/-- `brltu` (R126): unsigned. -/
def execBrltu (c : Nat) (u : UnitId) (a b : Fin 32) (target : Nat) (s : State) : Out :=
  s.onInstr c u (.brltu c u a b target) (fun k => k.branch u s.aclk [a, b] ((k.reg u a).ult (k.reg u b)) target)

/-- `breq` (R126). -/
def execBreq (c : Nat) (u : UnitId) (a b : Fin 32) (target : Nat) (s : State) : Out :=
  s.onInstr c u (.breq c u a b target)
    (fun k => k.branch u s.aclk [a, b] (decide (k.reg u a = k.reg u b)) target)

/-- `loop` (R127 to R129). -/
def execLoop (c : Nat) (u : UnitId) (n : Fin 4) (target : Nat) (s : State) : Out :=
  s.onInstr c u (.loop c u n target) (fun k => k.loop u s.aclk n target)

/-- `strk` (R111, R143). -/
def execStrk (c : Nat) (u : UnitId) (d : Fin 32) (s : State) : Out :=
  s.onInstr c u (.strk c u d) (fun k => k.move u s.aclk d (.imm (s.coreStrike c)))

/-- `swait` (R111, R143). -/
def execSwait (c : Nat) (u : UnitId) (x : Src) (s : State) : Out :=
  s.onInstr c u (.swait c u x) (fun k =>
    if srcOk u x then k.swait u s.aclk (s.coreStrike c) (srcRegs x) (k.src u x) else .refuse)

/-- `swait.rel` (R143). -/
def execSwaitRel (c : Nat) (u : UnitId) (b : Fin 32) (x : Src) (s : State) : Out :=
  s.onInstr c u (.swaitRel c u b x) (fun k =>
    if srcOk u x && regOk u b then
      k.swait u s.aclk (s.coreStrike c) (b.val :: srcRegs x) (k.reg u b + k.src u x)
    else .refuse)

/-- A stream's strike wait completes (R111). -/
def execStrikeWaitComplete (c : Nat) (u : UnitId) (s : State) : Out :=
  s.onCore c (fun k => k.strikeReached u s.aclk (s.coreStrike c))

/-- `ward` (R112, R144). -/
def execWard (c : Nat) (u : UnitId) (w : Fin 64) (s : State) : Out :=
  s.onInstr c u (.ward c u w) (fun k => k.ward u s.aclk w)

/-- `end` (R144). -/
def execEndStream (c : Nat) (u : UnitId) (s : State) : Out :=
  s.onInstr c u (.endStream c u) (fun k => k.endStream u s.aclk)

end Sys2Proof.Machine
end

