-- ==== Sys2Proof/Machine/CoreEvents.lean ====
section
/-! DEFINITION. Events of a core: deadlock, the end of its task, wards, and fabric accesses to its window (R52, R104, R105, R112, R115, R134, R248). -/

namespace Sys2Proof.Machine

open Sys2Proof

/-! Deadlock (R104, R134). -/

/-- Is a stream stalled on a data queue? -/
def Wait.onQueue : Wait → Bool
  | .push _ _ | .ldq _ _ _ | .popReg _ _ | .popDrop _ | .popVec _ _ | .popStore _ _ => true
  | _ => false

/-- Does an entry not yet poppable bar a deadlock: a load or a vector result in flight, or a scalar entry that no drain
holds, which is poppable within the 16 cycles that R104 gives (DEDUCED, log 56)? -/
def Core.inFlight (k : Core) (e : DqEntry) : Bool := !e.poppable && !(e.scalar && k.drainsOpen e.drainsBelow)

/-- The stream deadlocked on data queues, if any: each stream stalled on one or ended, one stalled, nothing in
flight to a queue (R104). -/
def Core.queueDeadlock (k : Core) : Option UnitId :=
  let idle := (List.range 4).all (fun q => (Assoc.get [] k.dq q).all (fun e => !(k.inFlight e)))
  let a := k.acc.wait.onQueue
  let e := k.exe.wait.onQueue
  if k.task.isSome && idle && (a || k.acc.ended) && (e || k.exe.ended) then
    if a then some .access else if e then some .execute else none
  else none

/-- Does an address stream never deliver n addresses to a consumer that waits, whatever its patterns still generate
(R134)? -/
def Core.starved (k : Core) (a : AStream) (n : Nat) : Bool :=
  let x := k.ag a
  decide ((x.settle (x.upTo + 32)).fifo.length < n)

/-- The instruction whose consumer underruns an address stream (R134). -/
def Core.underrun (k : Core) : Option Nat :=
  if !(k.acc.ended) || k.task.isNone then none
  else
    let vec := match k.exe.wait with
      | .retry (some a) => if k.starved a 1 then some k.exe.pc else none
      | _ => none
    let drain := match k.ope.heldDrain with
      | some d => if k.starved .drain d.addrCount then some d.instr else none
      | none => none
    let beat := match k.ope.q with
      | a :: _ =>
        if k.starved .col 1 || k.starved .row 1 || k.starved .scale a.scales then some a.instr else none
      | [] => none
    vec.or (drain.or beat)

/-- CORE_QUEUE_DEADLOCK (R104, R134): no earlier than it holds, within 16 cycles. -/
def execCoreQueueDeadlock (c : Nat) (s : State) : Out :=
  s.onCore c (fun k =>
    match k.queueDeadlock with
    | some u => k.raise u excDeadlock
    | none =>
      match k.underrun with
      | some i => .exc excDeadlock .execute i k
      | none => .noop)

/-! The end of a core's part of a task (R105). -/

/-- Both streams have ended, and every operation of the task has completed. -/
def Core.finished (k : Core) : Bool :=
  k.task.isSome && k.acc.ended && k.exe.ended && k.xfers.isEmpty && k.ope.q.isEmpty && k.ope.held.isNone
    && k.ope.filling.isEmpty && k.ope.drains.isEmpty && k.ope.heldDrain.isNone && k.ope.tileOps.isEmpty

/-- NFLAGS of one core (Table 8 of file 09). -/
def Core.nflags (k : Core) : BitVec 8 :=
  let any := fun (f : Xs → Bool) => k.vec.xs.any (fun e => f e.2)
  BitVec.ofNat 8 (b2n k.vec.sat + 2 * b2n k.vec.inv + 4 * b2n (any (·.low)) + 8 * b2n (any (·.high))
    + 16 * b2n (any (·.inv)) + 32 * b2n (k.vec.isat.n != 0 || k.vec.isat.ov))

/-- Two counters summed: the sum saturates, and an overflow of either stays (R258, R418). -/
def Counter.sum (a b : Counter) : Counter :=
  let x := a.addN b.n.toNat
  { x with ov := x.ov || b.ov }

/-- The last slot of a PORT ring posted when every gang core has ended (R206). -/
def Ctx.portClose (c : Ctx) : Ctx :=
  if c.srcEnd = 3 ∧ !c.portClosed then
    { c with
      portClosed := true
      srcHasp := if c.portArrived % c.srcSlot = 0 then c.srcHasp
        else { c.srcHasp with fill := c.srcHasp.fill + 1 } }
  else c

/-- A core's part of its task has ended. -/
def State.endCore (s : State) (c : Nat) (k : Core) (g : CoreTask) (x : Task) : State :=
  let left := ((List.range 4).map (fun q => (Assoc.get [] k.dq q).length)).foldl (· + ·) 0
  let i := g.gy * x.info.gangW + g.gx
  let y := { x with
    done := if x.done.contains i then x.done else x.done ++ [i]
    residue := x.residue + left
    nflags := x.nflags ||| k.nflags
    countA := x.countA.sum k.vec.isat }
  let s := (s.setTask g.q g.task y).setCore c { k with dq := [], ags := [] }
  let s := s.at_ k.vec.idleAt
  if y.done.length = x.cores.length then
    (x.streams.filter (fun e => e.2 == 16)).foldl (fun s e => s.setCtx e.1 (s.ctx e.1).portClose) s
  else s

/-- TASK_END on one core (R105). -/
def execTaskEnd (c : Nat) (s : State) : Out :=
  if siteExists c then
    let k := s.core c
    s.happens (if k.finished then
      k.task.bind (fun g => (s.task g.q g.task).bind (fun x =>
        if x.done.contains (g.gy * x.info.gangW + g.gx) then none else some (s.endCore c k g x)))
      else none)
  else .fault .noSuchUnit

/-! Wards (R112, R144, R248). -/

/-- The core's arrival at a ward reaches the graph engine (R112). -/
def execWardArrive (c : Nat) (s : State) : Out :=
  if siteExists c then
    let k := s.core c
    s.happens (if k.atWard.isSome && k.quiet && !k.arrived then
      k.task.bind (fun g => (s.task g.q g.task).map (fun x =>
        let s := s.setTask g.q g.task { x with
          arrived := x.arrived ++ [g.gy * x.info.gangW + g.gx], arrivedAt := s.strike }
        (s.setCore c { k with arrived := true }).at_ (max k.acc.visible k.exe.visible)))
      else none)
  else .fault .noSuchUnit

/-- The ramp of an instruction ward on a die, for a gang of n cores (R247). -/
def State.wardRamp (s : State) (d n : Nat) : Nat := (s.geCfg d).ramp * n / 10800 + s.stretch d

/-- The ward of a gang released (R248): at the first strike boundary after the last arrival. -/
def State.releaseGang (s : State) (q t : Nat) (x : Task) : State :=
  let base := x.arrivedAt + 1
  let s := s.setTask q t { x with arrived := [] }
  (List.range x.cores.length).foldl (fun s g =>
    let c := x.cores.getD g 0
    let lx := x.origin.1 + g % x.info.gangW
    let ly := x.origin.2 + g / x.info.gangW
    s.setCore c ((s.core c).releaseWard
      (slotStrike base (s.wardRamp (dieOfXY lx ly) x.cores.length) lx ly))) s

/-- WARD_RELEASE: every core of the gang has arrived, and the release strike is reached (R248). -/
def execWardRelease (q task : Nat) (s : State) : Out :=
  if decide (q < 4096) then
    s.happens ((s.task q task).bind (fun x =>
      if x.status == .running && decide (0 < x.cores.length ∧ x.arrived.length = x.cores.length)
          && atOrAfter s.strike (x.arrivedAt + 1) then some (s.releaseGang q task x) else none))
  else .fault .noSuchUnit

/-- The core's launch-slot strike is reached, and its hold ends (R112, R247). -/
def execLaunchSlotStrike (c : Nat) (s : State) : Out :=
  s.onCore c (fun k =>
    match k.slot with
    | some t => if atOrAfter (s.coreStrike c) t then .ok s.aclk { k with slot := none } else .noop
    | none => .noop)

/-! Core windows (R52, R115, R116). -/

/-- A use of a core window as the module sees it: a delivery counts as one only from a stream that the task on
the core owns. -/
def State.useOf (s : State) (c : Nat) : WindowUse → WindowUse
  | .delivery k =>
    match s.siteTask c with
    | some (q, t) => if s.ownedBy (s.ctx k) q t then .delivery k else .plain
    | none => .plain
  | u => u

/-- Is there a core window at this number and offset (R115, R341)? -/
def windowExists (c off : Nat) : Bool := decide (c < 12288 ∧ off < 0x80000)

/-- A fabric read of a core window (R52, R115, R116); the operator has no such command (R31). -/
def execCoreWindowRead (o : Origin) (c off len : Nat) (s : State) : Out :=
  if windowExists c off then
    .next (if o == .operator then s.answer .refused
      else s.readAccess o .plain (windowBase + c * 0x80000 + off) len)
  else .fault .noSuchUnit

/-- A fabric write of a core window (R115, R116); the operator has no such command (R31). -/
def execCoreWindowWrite (o : Origin) (use : WindowUse) (c off : Nat) (data : List (BitVec 8)) (s : State) : Out :=
  if windowExists c off then
    .next (if o == .operator then s.answer .refused
      else s.writeAccess o (s.useOf c use) (windowBase + c * 0x80000 + off) data)
  else .fault .noSuchUnit

end Sys2Proof.Machine
end

