-- ==== Sys2Proof/Machine/Entries.lean ====
section
/-! DEFINITION. Doorbells and the submission entries ABORT, STREAM, GRAPH and FLAG (R228 to R231, R249, R353, R354). -/

namespace Sys2Proof.Machine

open Sys2Proof

/-- The register SQ_DB of a queue (R353). -/
def sqDbAddr (q : Nat) : Nat := regAddr 56 (0x100000 + 8 * q)

/-! Reading entries (R230, R354). -/

/-- The bytes of entry n of a queue. One whose read fails has no content: its TAG is a free value and the rest
is zero (log 21). -/
def State.readEntry (s : State) (q n : Nat) : State × Entry :=
  let x := s.sq q
  match s.geRead (s.hostDie q) (x.base + n % 2 ^ x.depth * 64) 64 with
  | (s, .ok bs) => (s, { no := n, raw := bs })
  | (s, .error _) =>
    (s.useFree 1, { no := n, raw := [0, 0, 0, 0] ++ leBytes 4 (Config.freeWord s.free).toNat })

/-- k entries read from the head on, as far as their reads need not wait (R346). -/
def State.readEntries (s : State) (q : Nat) : Nat → State
  | 0 => s
  | k + 1 =>
    let x := s.sq q
    let n := x.head
    if s.accessWaits (x.base + n % 2 ^ x.depth * 64) 64 false then s
    else match s.readEntry q n with
    | (s, e) =>
      let x := s.sq q
      State.readEntries (s.setSq q { x with head := n + 1, entries := x.entries ++ [e] }) q k

/-- Every entry up to the accepted tail read, unless the queue has stopped taking entries (R230, R253). -/
def State.takeEntries (s : State) (q : Nat) : State :=
  let x := s.sq q
  if x.state == .running || x.state == .cutHeld then s.readEntries q (x.tail - x.head) else s

/-- Is a doorbell value one R354 accepts? -/
def Sq.doorbellOk (x : Sq) (v : Word) : Bool :=
  let t : BitVec 32 := v.truncate 32
  x.enable && v >>> 32 == 0 && after32 t (BitVec.ofNat 32 x.tail)
    && decide ((t - BitVec.ofNat 32 x.head).toNat ≤ 2 ^ x.depth)

/-- A doorbell (R353, R354). -/
def State.putSqDb (s : State) (o : Origin) (q : Nat) (v : Word) : State :=
  let x := s.sq q
  if x.doorbellOk v then
    let t : BitVec 32 := v.truncate 32
    (s.setSq q { x with tail := x.tail + (t - BitVec.ofNat 32 x.tail).toNat }).takeEntries q
  else (s.setSq q { x with sc := x.sc.event 0 }).refuseWrite o (sqDbAddr q) v

/-- SQ_DB written. -/
def execSqDb (o : Origin) (q : Nat) (v : BitVec 64) (s : State) : Out :=
  if decide (q < 4096) then .next (s.onWrite o (sqDbAddr q) (fun s => s.putSqDb o q v)) else .fault .noSuchUnit

/-! Entries in order (R230). -/

/-- Is an entry one with a reserved OP or a nonzero reserved field, other than an ABORT? -/
def Entry.bad (e : Entry) : Bool := e.op != 2 && !e.formOk

/-- The entries with a reserved OP or field that are next in order complete with BAD_ENTRY. -/
def State.dropBad (s : State) (q : Nat) : Nat → State
  | 0 => s
  | k + 1 =>
    match s.front q with
    | some e => if e.bad then State.dropBad (s.finishEntry q e 3) q k else s
    | none => s

/-- The entry a queue takes next, once its read need no longer wait, done if it is the one a command names: bad entries before it complete first. -/
def State.onEntry (s : State) (q : Nat) (mine : Entry → Bool) (body : State → Entry → Option State) : Out :=
  if decide (q < 4096) then
    let s := if (s.sq q).entries.isEmpty then s.takeEntries q else s
    let s := s.dropBad q (s.sq q).entries.length
    s.happens ((s.front q).bind (fun e => if mine e then body s e else none))
  else .fault .noSuchUnit

/-- FLAG (R244). -/
def execFlag (q : Nat) (s : State) : Out :=
  s.onEntry q (fun e => e.op == 5) (fun s e =>
    some ((s.applyFlag (e.arg 0 / 2 ^ 16) (e.arg 0 % 2 ^ 16) (BitVec.ofNat 64 (e.arg 1))).finishEntry q e 0))

/-! STREAM (R210, R222, R231). -/

/-- Command and context of a STREAM entry. -/
def Entry.streamCmd (e : Entry) : Nat := e.arg 0 % 4
def Entry.streamCtx (e : Entry) : Nat := e.arg 0 / 2 ^ 16

/-- The status of a STREAM entry whose descriptors, or whose image, could not be read or failed R172: the
arming codes have none for it, so it is a free value (log 22). -/
def State.openStatus (s : State) (q : Nat) (e : Entry) : State :=
  let v := (Config.freeWord s.free).toNat % 2 ^ 16
  (s.useFree 1).finishEntry q e v

/-- ARM: the result code for an image. -/
def State.streamCode (s : State) (n : Nat) (c : Ctx) : Nat :=
  if (s.ctx n).state != .idle then 1 else if !c.persist then 2 else s.armCode n c

/-- ARM of a persistent stream. -/
def State.streamArm (s : State) (q : Nat) (e : Entry) : Option State :=
  let n := e.streamCtx
  if s.armWaits (e.arg 1) then none
  else some <| match s.geRead (s.hostDie q) (e.arg 1) 72 with
  | (s, .error _) => s.openStatus q e
  | (s, .ok image) =>
    let c := armed (s.ctx n) image none 0
    let code := s.streamCode n c
    if code ≠ 0 then s.finishEntry q e (0x100 + code)
    else if c.kind = 3 then (s.setCtx n c).finishEntry q e 0x100
    else match s.latch c with
      | (s, .ok c) => (s.setCtx n c).finishEntry q e 0x100
      | (s, .error (cause, a, kind)) =>
        let own := 16 + homeDie n
        let v : VlogEntry :=
          { cause := cause, origin := own, addr := a, strike := 0, unit := homeDie n, kind := kind
            region := s.regionOf q, queue := q, task := 0, tag := 0 }
        (s.violate (s.answerDie own cause a) v).openStatus q e

/-- STREAM ARM. -/
def execStreamArm (q : Nat) (s : State) : Out :=
  s.onEntry q (fun e => e.op == 3 && e.streamCmd == 1) (fun s e => s.streamArm q e)

/-- STREAM REARM: the next base of a persistent stream. -/
def execStreamRearm (q : Nat) (s : State) : Out :=
  s.onEntry q (fun e => e.op == 3 && e.streamCmd == 2) (fun s e =>
    let n := e.streamCtx
    let c := s.ctx n
    let s := if c.persist then s.setCtx n { c with nextBase := some (e.arg 1), rearmBy := none } else s
    some (s.finishEntry q e 0x100))

/-- RELEASE of a persistent stream: at the end of its pass, or at once. -/
def State.releaseCtx (s : State) (n : Nat) : State :=
  let c := s.ctx n
  if !c.persist || c.state == .idle then s
  else if (s.ownerTask c).isSome && c.state != .passEnd then s.setCtx n { c with releasing := true }
  else
    let s := (s.discard n (c.undelivered + c.aheadLen)).withdraw n
    s.setCtx n (s.ctx n).emptied

/-- STREAM RELEASE: the entry completes when its effect has taken place (R230), at the end of a pass that runs. -/
def execStreamRelease (q : Nat) (s : State) : Out :=
  s.onEntry q (fun e => e.op == 3 && e.streamCmd == 3) (fun s e =>
    let n := e.streamCtx
    let finish := fun (s : State) => (s.setSq q { s.sq q with release := none }).finishEntry q e 0x100
    if (s.sq q).release == some n && (s.ctx n).releasing && (s.ownerTask (s.ctx n)).isSome then none
    else
      let s := if (s.sq q).release == some n && !((s.ctx n).releasing) then s else s.releaseCtx n
      some (if (s.ctx n).releasing then s.setSq q { s.sq q with release := some n } else finish s))

/-! ABORT (R230, R249). -/

/-- What an ABORT does: its status, or the tasks to end, and the graphs that wait to load of which a task or all will
end when they load. -/
inductive AbortPlan where
  | status (n late : Nat)
  | tasks (q : Nat) (ts : List Nat) (waiting : List (Entry × Option Nat))
  deriving DecidableEq, Repr

/-- NO_TARGET. -/
def noTarget : Nat := 4

/-- The plan for one task that has ended with a status. -/
def latePlan : TStatus → AbortPlan
  | .complete => .status 1 1
  | _ => .status 2 0

/-- Tasks of a graph that have not ended. -/
def Graph.unended (g : Graph) : List Nat := (g.tasks.filter (fun e => !e.2.status.ended)).map Prod.fst

/-- The plan of an ABORT of the loaded graph. -/
def Graph.abortPlan (g : Graph) (q scope t : Nat) : AbortPlan :=
  if scope = 1 then
    match g.task t with
    | none => .status noTarget 0
    | some x => if x.status.ended then latePlan x.status else .tasks q [t] []
  else .tasks q g.unended []

/-- The plan of an ABORT of a graph that has ended. -/
def pastPlan (sts : List TStatus) (scope t : Nat) : AbortPlan :=
  if scope = 1 then
    match sts[t]? with
    | none => .status noTarget 0
    | some st => latePlan st
  else .status 2 0

/-- GRAPH entries of a queue that have been read before an ABORT and not yet loaded. -/
def State.waitingGraphs (s : State) (q tq : Nat) (e : Entry) : List Entry :=
  (s.sq tq).entries.filter (fun x => x.op == 1 && x.formOk && (tq != q || decide (x.no < e.no)))

/-- Tasks of a graph that waits to load: none where it will be rejected. -/
def State.waitingCount (s : State) (tq : Nat) (x : Entry) : Nat :=
  match s.readGraph tq x with
  | (_, .ok g) => g.count
  | (_, .error _) => 0

/-- The plan of an ABORT entry of a queue. -/
def State.abortPlan (s : State) (q : Nat) (e : Entry) : AbortPlan :=
  let tq := e.arg 0 % 4096
  let scope := e.arg 0 / 2 ^ 16
  let y := s.sq tq
  let waits := s.waitingGraphs q tq e
  let loaded := y.graph.elim [] Graph.unended
  if !e.formOk then .status 3 0
  else if !y.enable || y.region != (s.sq q).region then .status noTarget 0
  else if scope = 3 then
    if y.graph.isNone && waits.isEmpty then .status 2 0
    else .tasks tq loaded (waits.map (fun x => (x, none)))
  else match y.graph.filter (fun g => g.entry == e.arg 1), waits.find? (fun x => x.no == e.arg 1) with
    | some g, _ => g.abortPlan tq scope (e.arg 2)
    | none, some x =>
      if scope = 1 then
        (if s.waitingCount tq x ≤ e.arg 2 then .status noTarget 0 else .tasks tq [] [(x, some (e.arg 2))])
      else .tasks tq [] [(x, none)]
    | none, none =>
      match y.past.find? (fun p => p.1 == e.arg 1) with
      | some p => pastPlan p.2 scope (e.arg 2)
      | none => .status noTarget 0

/-- Tasks ended ABORTED by an ABORT: all are targeted first, so that none is skipped or re-issued. -/
def State.abortTasks (s : State) (q : Nat) (ts : List Nat) : State :=
  let lost := ts.any (fun t => s.journalLost q t)
  let s := ts.foldl (fun s t =>
    match s.task q t with
    | some x => s.setTask q t { x with targeted := true }
    | none => s) s
  let s := ts.foldl (fun s t => s.stopTask q t .aborted { cause := 0xF0 }) s
  let s := s.settleGraph q
  if lost then s.faultRegion (s.regionOf q) 3 else s

/-- An entry removed, wherever it stands. -/
def State.takeOut (s : State) (q : Nat) (e : Entry) : State :=
  let x := s.sq q
  s.setSq q { x with entries := x.entries.erase e }

/-- Tasks of a graph that waits to load, counted for the done record. -/
def State.doomedCount (s : State) (q : Nat) (ws : List (Entry × Option Nat)) : Nat :=
  (ws.map (fun w => if w.2.isSome then 1 else s.waitingCount q w.1)).foldl (· + ·) 0

/-- Their tasks end ABORTED when the graph loads. -/
def State.doom (s : State) (q : Nat) (ws : List (Entry × Option Nat)) : State :=
  let x := s.sq q
  s.setSq q { x with doomed := x.doomed ++ ws.map (fun w => (w.1.no, w.2)) }

/-- An ABORT carried out. -/
def State.abort (s : State) (q : Nat) (e : Entry) : State :=
  match s.abortPlan q e with
  | .status n late => (s.takeOut q e).entryDone q e.tag e.no n 0 late
  | .tasks tq ts ws =>
    let n := s.doomedCount tq ws
    let s := (s.takeOut q e).doom tq ws
    (if ts.isEmpty then s else s.abortTasks tq ts).entryDone q e.tag e.no 2 (ts.length + n) 0

/-- ABORT: the first one read, whatever the queue is doing. -/
def execAbort (q : Nat) (s : State) : Out :=
  if decide (q < 4096) then
    let find := fun (s : State) => (s.sq q).entries.find? (fun e => e.op == 2)
    let s := if (find s).isSome then s else s.takeEntries q
    s.happens ((find s).map (fun e => s.abort q e))
  else .fault .noSuchUnit

/-! GRAPH (R236, R402). -/

/-- A GRAPH entry taken (R236): the graph loads, is rejected, or waits until it can be read and its mirror fits (R402).
While the area's size is 0 every graph is REJECTED with RANGE. A graph that would load, in an area to which no write is
answered well, faults the region with AREA_FAULT (R404, R412, log 62). -/
def State.takeGraph (s : State) (q : Nat) (e : Entry) : Option State :=
  let r := (s.sq q).region
  let zero := decide ((s.region r).areaSize = 0)
  if s.readsWait (s.graphSpans (e.arg 0)) then none
  else match s.readGraph q e with
  | (s, .error (rej, user)) =>
    some ((s.popEntry q).graphDone q e.tag e.no 1 (if zero then rejRange else rej.reason)
      (if zero then 0xFFFFFFFF else rej.task) user [])
  | (s, .ok g) =>
    if zero || decide ((s.region r).areaBytes < mirrorBytes g.count) then
      some ((s.popEntry q).graphDone q e.tag e.no 1 rejRange 0xFFFFFFFF g.user [])
    else if s.areaRoom r < mirrorBytes g.count then none
    else if s.areaLost r then some (s.faultRegion r 4)
    else
      let s := s.popEntry q
      some (s.setSq q { s.sq q with graph := some g })

/-- The tasks of a graph just loaded that an ABORT ended before. -/
def State.endDoomed (s : State) (q : Nat) : State :=
  match s.graph q with
  | none => s
  | some g =>
    let x := s.sq q
    let mine := x.doomed.filter (fun d => d.1 == g.entry)
    let ts := g.unended.filter (fun t => mine.any (fun d => d.2.isNone || d.2 == some t))
    let s := s.setSq q { x with doomed := x.doomed.filter (fun d => d.1 != g.entry) }
    if ts.isEmpty then s else s.abortTasks q ts

/-- GRAPH: the graph loads, is rejected, or waits until its mirror fits; a recovery area that cannot be written faults
its region (R412). -/
def execGraph (q : Nat) (s : State) : Out :=
  s.onEntry q (fun e => e.op == 1) (fun s e =>
    (s.takeGraph q e).map (fun s => s.endDoomed q))

end Sys2Proof.Machine
end

