-- ==== Sys2Proof/Machine/ExactSum.lean ====
section
/-! DEFINITION. The exact-sum instructions (R87 to R90, R109, R110, R163). -/

namespace Sys2Proof.Machine

open Sys2Proof

/-- The free values an exact sum may take: they are used up when its term is added (R88, log 3). -/
def State.withFree (s : State) (o : Out) : Out :=
  match o with
  | .next t => .next { t with free := s.free + 32 }
  | x => x

/-- `xclr` (R87, R163). -/
def execXclr (c : Nat) (x : Fin 8) (w : Src) (s : State) : Out :=
  s.onInstr c .execute (.xclr c x w) (fun k => k.xclr s.aclk (s.coreStrike c) x w)

/-- `xadd` (R88, R163). -/
def execXadd (c : Nat) (x : Fin 8) (a : Fin 32) (s : State) : Out :=
  s.withFree (s.onInstr c .execute (.xadd c x a) (fun k => k.xadd s.aclk (s.coreStrike c) s.free x a))

/-- `xaddp` (R88, R163). -/
def execXaddp (c : Nat) (x : Fin 8) (a f : Fin 32) (s : State) : Out :=
  s.withFree (s.onInstr c .execute (.xaddp c x a f) (fun k =>
    k.xaddp s.aclk (s.coreStrike c) s.free x a f))

/-- `xrd` (R89, R163). -/
def execXrd (c : Nat) (d : Fin 32) (x : Fin 8) (s : State) : Out :=
  s.onInstr c .execute (.xrd c d x) (fun k => k.xrd s.aclk (s.coreStrike c) d x)

/-- `xrdp` (R89, R163). -/
def execXrdp (c : Nat) (d f : Fin 32) (x : Fin 8) (s : State) : Out :=
  s.onInstr c .execute (.xrdp c d f x) (fun k => k.xrdp s.aclk (s.coreStrike c) d f x)

/-- `xsave` (R109, R163). -/
def execXsave (c : Nat) (x : Fin 8) (s : State) : Out :=
  s.onInstr c .execute (.xsave c x) (fun k => k.xsave s.aclk (s.coreStrike c) x)

/-- `xload` (R110, R163). -/
def execXload (c : Nat) (x : Fin 8) (s : State) : Out :=
  s.onInstr c .execute (.xload c x) (fun k => k.xload s.aclk (s.coreStrike c) x)

/-- `xaddi` (R110, R163). -/
def execXaddi (c : Nat) (x : Fin 8) (s : State) : Out :=
  s.onInstr c .execute (.xaddi c x) (fun k => k.xaddi s.aclk (s.coreStrike c) x)

/-- `xflags` (R163). -/
def execXflags (c : Nat) (d : Fin 32) (x : Fin 8) (s : State) : Out :=
  s.onInstr c .execute (.xflags c d x) (fun k => k.vscalar s.aclk (s.coreStrike c) d [xreg x] (k.xs x).flagWord)

end Sys2Proof.Machine
end

