-- ==== Sys2Proof/Machine/Exchange.lean ====
section
/-! DEFINITION. Exchange channels and the RESHARD of an axis (R301 to R306, R322 to R326). -/

namespace Sys2Proof.Machine

open Sys2Proof

/-! Channels (R301 to R306). -/

/-- The addresses of PORT_XCHnA and PORT_XCHnB. -/
def xchaAddr (p n : Nat) : Nat := portAddr p (0x200 + 16 * n)
def xchbAddr (p n : Nat) : Nat := portAddr p (0x208 + 16 * n)

/-- The RW bits of PORT_XCHnA and PORT_XCHnB. -/
def xchaMask : Word := 0x8300FFFF3FFF3FFF
def xchbMask : Word := 0x0000FFFF00003FFF

/-- A channel whose A register takes a value: with VALID set it starts afresh. -/
def Channel.putA (c : Channel) (v : Word) : Channel :=
  if bit v 63 then { a := v, b := c.b } else { c with a := v, clearing := none }

/-- A write to PORT_XCHnA (R302): ignored while VALID stays 1, deferred while a slot is outstanding. -/
def State.putXcha (s : State) (p n : Nat) (v : Word) : State :=
  let x := s.lport p
  let c := x.channel n
  let w := v &&& xchaMask
  if c.valid && bit w 63 then s
  else if c.valid && c.slot then s.setLport p (x.setChannel n { c with clearing := some w })
  else s.setLport p (x.setChannel n (c.putA w))

/-- PORT_XCHnA written. -/
def execPortXchna (o : Origin) (p : Fin 8) (n : Fin 16) (v : BitVec 64) (s : State) : Out :=
  .next (s.onWrite o (xchaAddr p.val n.val) (fun s => s.putXcha p.val n.val v))

/-- A write to PORT_XCHnB (R302): ignored while VALID is 1. -/
def State.putXchb (s : State) (p n : Nat) (v : Word) : State :=
  let x := s.lport p
  let c := x.channel n
  if c.valid then s else s.setLport p (x.setChannel n { c with b := v &&& xchbMask })

/-- PORT_XCHnB written. -/
def execPortXchnb (o : Origin) (p : Fin 8) (n : Fin 16) (v : BitVec 64) (s : State) : Out :=
  .next (s.onWrite o (xchbAddr p.val n.val) (fun s => s.putXchb p.val n.val v))

/-- VALID_CLEAR (R302). -/
def execValidClear (p : Fin 8) (n : Fin 16) (s : State) : Out :=
  let x := s.lport p.val
  let c := x.channel n.val
  s.happens (match c.clearing with
    | some w => if c.slot then none else some (s.setLport p.val (x.setChannel n.val (c.putA w)))
    | none => none)

/-- The position of a channel's next slot in the pass of its LOCAL_CTX. -/
def State.slotNo (s : State) (c : Channel) : Nat := if c.inPass = (s.ctx c.localCtx).passNo then c.next else 0

/-- ETYPE of the packets of a wire mode (Table 5 of file 12). -/
def xmodeType : Nat → Nat
  | 0 => 0x01
  | 1 => 0x41
  | 2 => 0x10
  | _ => 0x08

/-- The 4,096-byte packets of a slot from an offset on. -/
def State.sendSlot (s : State) (p n : Nat) (c : Channel) (off : Nat) : Nat → List Byte → State
  | 0, _ => s
  | k + 1, bs =>
    if bs.isEmpty then s
    else
      let d := bs.take 4096
      let x := s.lport p
      let h : Header :=
        { op := 3, etype := xmodeType c.xmode, len := d.length / 64, addr := c.remoteCtx, value := off
          epoch := x.epoch.toNat }
      State.sendSlot (s.setLport p (x.sendTagged .red h d (.channel n))) p n c (off + 4096) k (bs.drop 4096)

/-- A slot taken from the send ring and sent (R303, R304): none while it may not be. -/
def State.channelSlot (s : State) (p : Fin 8) (n : Nat) : Option State :=
  let x := s.lport p.val
  let c := x.channel n
  let k := s.ctx c.localCtx
  let i := s.slotNo c
  match s.ownerTask k with
  | none => none
  | some (q, _, _) =>
    let ge := ((s.graph q).map (fun g => g.epoch)).getD 0
    if k.ringFill = 0 ∨ (i = 0 ∧ !(s.waitMet c.creditFlag (BitVec.ofNat 64 c.passes))) then none
    else if after32 ge x.epoch then none
    else
      let stop := fun (s : State) =>
        (s.setLport p.val ((s.lport p.val).setChannel n { c with next := i, inPass := k.passNo })).channelFault p.val n 4
      let a := k.snk + i % k.snkSlots * k.snkSlot
      if after32 x.epoch ge then some (stop (s.dropTurns p.val (· == a)))
      else if s.dieWaits a then none
      else match s.portTurn p a k.snkSlot with
        | (s, false) => some s
        | (s, true) =>
        match s.memRead a k.snkSlot with
        | (s, .error e) => some (stop (s.portFails p 0x35 e))
        | (s, .ok bs) =>
          let s := s.setCtx c.localCtx { s.ctx c.localCtx with
            hasp := (s.ctx c.localCtx).hasp.map (fun z => { z with fill := z.fill - 1 }) }
          let x := s.lport p.val
          let c := { c with
            slot := true, flying := ceilDiv bs.length 4096, next := i, inPass := k.passNo
            passes := if i = 0 then c.passes + 1 else c.passes }
          some ((s.setLport p.val (x.setChannel n c)).sendSlot p.val n c 0 (ceilDiv bs.length 4096) bs)

/-- CHANNEL_SLOT_SEND (R303, R304, R306). -/
def execChannelSlotSend (p : Fin 8) (n : Fin 16) (s : State) : Out :=
  let x := s.lport p.val
  let c := x.channel n.val
  s.happens (if x.state == .ready && s.portRuns p.val && c.valid && c.clearing.isNone && !c.slot then s.channelSlot p n.val else none)

/-! RESHARD (R322, R323). -/

/-- The two ports of an axis. -/
def portsOf (axis : Nat) : List Nat := [2 * axis, 2 * axis + 1]

/-- An entry of a permute list, with its reserved bytes and codes checked. -/
def permEntry (b : List Byte) : PermEntry :=
  { src := leAt b 0 8, dst := leAt b 8 8, units := leAt b 0x10 4, dir := leAt b 0x14 1, etype := leAt b 0x15 1 }
def permEntryOk (b : List Byte) : Bool :=
  let e := permEntry b
  decide (e.src % 64 = 0 ∧ e.dst % 64 = 0 ∧ e.dst < 2 ^ 48 ∧ 1 ≤ e.units ∧ e.dir ≤ 2)
    && (etypeOf e.etype).isSome && leAt b 0x16 10 == 0

/-- Does a span lie in external memory or in the central store outside the pool? -/
def State.spanOk (s : State) (a n : Nat) : Bool :=
  (s.target a == .ext || s.target a == .store) && decide (a + n ≤ s.targetEnd a)

/-- Do two spans overlap? -/
def spansMeet (a n b m : Nat) : Bool := decide (a < b + m ∧ b < a + n)

/-- Units of a list of entries. -/
def unitSum (l : List PermEntry) : Nat := l.foldl (fun n e => n + e.units) 0

/-- The checks of a permute list's entries against its scratch region. -/
def State.permListOk (s : State) (scratch cap : Nat) (l : List PermEntry) : Bool :=
  s.spanOk scratch (64 * cap) && decide (unitSum l ≤ cap)
    && l.all (fun e =>
      s.spanOk e.src (64 * e.units) && s.spanOk e.dst (64 * e.units)
        && !(spansMeet scratch (64 * cap) e.src (64 * e.units))
        && !(e.dir == 0 && spansMeet scratch (64 * cap) e.dst (64 * e.units)))

/-- What the check of a RESHARD at an address reads: the header of its list and the entries. -/
def State.reshardSpans (s : State) (a : Nat) : List (Nat × Nat) :=
  let n := leAt (s.bytes a 64) 4 4
  (a, 64) :: (if leAt (s.bytes a 64) 0 4 = 0x50524B5A ∧ n ≤ 1048576 then [(a + 64, 32 * n)] else [])

/-- The RESHARD that an entry asks for, once its arguments, list and ports pass R323. -/
def State.readReshard (s : State) (q : Nat) (e : Entry) : State × Option Reshard :=
  let die := s.hostDie q
  let axis := e.arg 0 % 4
  let epoch := BitVec.ofNat 32 (e.arg 0 / 2 ^ 32)
  if e.arg 0 % 2 ^ 32 / 4 ≠ 0 ∨ 2 ^ 48 ≤ e.arg 1 ∨ e.arg 1 % 64 ≠ 0 ∨ e.arg 2 ≠ 0 then (s, none)
  else match s.geRead die (e.arg 1) 64 with
    | (s, .error _) => (s, none)
    | (s, .ok h) =>
      let n := leAt h 4 4
      if leAt h 0 4 ≠ 0x50524B5A ∨ n < 1 ∨ 1048576 < n ∨ leAt h 8 8 % 64 ≠ 0 ∨ leAt h 0x28 24 ≠ 0 then (s, none)
      else match s.geRead die (e.arg 1 + 64) (32 * n) with
        | (s, .error _) => (s, none)
        | (s, .ok b) =>
          let raw := (List.range n).map (fun i => slice b (32 * i) 32)
          let l := raw.map permEntry
          let up := fun d p => !(l.any (fun x => x.dir == d)) || (s.lport p).state == .ready
          if raw.all permEntryOk && s.permListOk (leAt h 8 8) (leAt h 0x10 8) l
              && after32 epoch (s.lport (2 * axis)).epoch && up 1 (2 * axis) && up 2 (2 * axis + 1) then
            (s, some
              { q := q, entry := e.no, step := .fence, epoch := epoch, scratch := leAt h 8 8, list := l
                inPlus := leAt h 0x18 8, inMinus := leAt h 0x20 8 })
          else (s, none)

/-- RESHARD (R322, R323): checked when it takes effect. It waits while another RESHARD of the axis runs; its
entry stays the queue's oldest until it completes. -/
def execReshard (q : Nat) (s : State) : Out :=
  s.onEntry q (fun e => e.op == 4) (fun s e =>
    if (s.reshardOf (e.arg 0 % 4)).isSome || s.link.reshards.any (fun r => r.2.q == q && r.2.entry == e.no)
        || s.readsWait (s.reshardSpans (e.arg 1))
    then none
    else match s.readReshard q e with
      | (s, none) => some (s.finishEntry q e 3)
      | (s, some r) => some (s.setReshard (e.arg 0 % 4) r))

/-- The contexts of the valid channels of an axis. -/
def State.axisCtxs (s : State) (axis : Nat) : List Nat :=
  ((s.validChannels).filter (fun (p, _) => axisOf p == axis)).flatMap (fun (p, n) =>
    let c := (s.lport p).channel n
    [c.localCtx, c.rxCtx])

/-- Have the exchange tasks of older epochs ended, and the channels' slots come back (R323 step 1)? -/
def State.fencePassed (s : State) (axis : Nat) (r : Reshard) : Bool :=
  let ks := s.axisCtxs axis
  (s.ge.sqs.all (fun e => match e.2.graph with
    | none => true
    | some g => !(after32 r.epoch g.epoch) || g.tasks.all (fun t =>
        t.2.status.ended || !(t.2.info.streams.any (fun x => ks.contains x.2.1)))))
    && (s.validChannels.filter (fun (p, _) => axisOf p == axis)).all (fun (p, n) => !((s.lport p).channel n).slot)

/-- EPOCH_FENCE (R323 step 1). -/
def execEpochFence (axis : Fin 4) (s : State) : Out :=
  s.happens ((s.reshardOf axis.val).bind (fun r =>
    if r.step == .fence && s.fencePassed axis.val r then some (s.setReshard axis.val { r with step := .copyOut })
    else none))

/-- Entries with the offset of each in the scratch region. -/
def packed (off : Nat) : List PermEntry → List (Nat × PermEntry)
  | [] => []
  | e :: es => (off, e) :: packed (off + 64 * e.units) es

/-- SRC spans copied into scratch, or the address of data that is lost. -/
def State.copySpans (s : State) (scratch : Nat) : List (Nat × PermEntry) → State × Option Nat
  | [] => (s, none)
  | (o, e) :: es =>
    match s.memRead e.src (64 * e.units) with
    | (s, .error a) => (s, some a)
    | (s, .ok bs) => State.copySpans (s.writeRun (scratch + o) bs) scratch es

/-- The PERMUTE packets of an entry: 64 units each, but for the last. -/
def State.sendPermute (s : State) (p : Nat) (r : Reshard) (e : PermEntry) (dst : Nat) : Nat → List Byte → State
  | 0, _ => s
  | k + 1, bs =>
    if bs.isEmpty then s
    else
      let d := bs.take 4096
      let h : Header :=
        { op := 4, etype := e.etype, len := d.length / 64, addr := dst, epoch := r.epoch.toNat }
      State.sendPermute (s.setLport p ((s.lport p).sendTagged .red h d (.reshard r.epoch))) p r e (dst + 4096) k (bs.drop 4096)

/-- One entry moved out of scratch (R323 step 4). -/
def State.moveEntry (s : State) (axis : Nat) (r : Reshard) (x : Nat × PermEntry) : State :=
  let e := x.2
  let bs := s.bytes (r.scratch + x.1) (64 * e.units)
  if e.dir = 0 then s.writeRun e.dst bs
  else s.sendPermute (2 * axis + (e.dir - 1)) r e e.dst (ceilDiv e.units 64) bs

/-- PORT_EPOCH of both ports of an axis. -/
def State.setEpoch (s : State) (axis : Nat) (v : BitVec 32) : State :=
  (portsOf axis).foldl (fun s p =>
    let x := s.lport p
    s.setLport p { x with epoch := v }) s

/-- Packets of the plus and minus entries. -/
def packetCount (l : List PermEntry) : Nat :=
  l.foldl (fun n e => n + (if e.dir = 0 then 0 else ceilDiv e.units 64)) 0

/-- Does a RESHARD's copy wait for external memory? -/
def State.reshardWaits (s : State) (r : Reshard) : Bool :=
  r.list.any (fun e => s.accessWaits e.src (64 * e.units) false
    || (e.dir == 0 && s.accessWaits e.dst (64 * e.units) true))
  || s.accessWaits r.scratch (64 * unitSum r.list) true

/-- Copy-out, epoch and moves (R323 steps 2 to 4). After a RESHARD_FAULT only the epoch advances (R325); data
lost in the copy is such a fault. -/
def State.copyOut (s : State) (axis : Nat) (r : Reshard) : State :=
  let done := fun (s : State) (r : Reshard) => (s.setEpoch axis r.epoch).setReshard axis { r with step := .moves }
  if r.fault.isSome then done s r
  else match s.copySpans r.scratch (packed 0 r.list) with
    | (s, some a) =>
      let die := s.hostDie r.q
      let s := s.violate (s.answerDie die 0x35 a) (geViolation die 0x35 a)
      let s := s.reshardFault axis 4
      done s ((s.reshardOf axis).getD r)
    | (s, none) =>
      let r := { r with flying := packetCount r.list }
      (packed 0 r.list).foldl (fun s x => s.moveEntry axis r x) (done s r)

/-- COPY_OUT (R323). -/
def execCopyOut (axis : Fin 4) (s : State) : Out :=
  s.happens ((s.reshardOf axis.val).bind (fun r =>
    if r.step == .copyOut && !(s.reshardWaits r) then some (s.copyOut axis.val r) else none))

/-- Is a RESHARD over (R323 step 5, R325)? -/
def Reshard.over (r : Reshard) : Bool :=
  r.step == .moves && (r.fault.isSome || decide (r.flying = 0 ∧ r.inPlus ≤ r.gotPlus ∧ r.inMinus ≤ r.gotMinus))

/-- RESHARD_COMPLETE (R323, R325). -/
def execReshardComplete (axis : Fin 4) (s : State) : Out :=
  s.happens ((s.reshardOf axis.val).bind (fun r =>
    if r.over then
      let s := { s with link := { s.link with reshards := Assoc.del s.link.reshards axis.val } }
      some (match (s.sq r.q).entries.find? (fun e => e.no == r.entry) with
        | some e => (s.takeOut r.q e).entryDone r.q e.tag e.no 0 0 0
        | none => s)
    else none))

end Sys2Proof.Machine
end

