-- ==== Sys2Proof/Machine/MoveTasks.lean ====
section
/-! DEFINITION. The movement operations of MOVE tasks (R166, R172 to R187, R240, R241). -/

namespace Sys2Proof.Machine

open Sys2Proof

/-- The source scale bytes that move or are read: those of the whole array, or of the gathered blocks (R181). -/
def Movement.scaleReads (m : Movement) (rd : Nat → Byte) : List (Nat × Nat) :=
  if !hasScales m.src.ty then []
  else if m.op == some .gather then
    (List.range m.dst.rows).flatMap (fun n =>
      (List.range (m.dst.dim 0)).map (fun i0 =>
        let (k, ix) := m.srcElem rd i0 (m.dst.rowIdx n)
        (m.src.scaleAddr k ix, 1)))
  else [(m.src.scaleBase, m.src.scaleCount)]

/-- What an operation reads: index, source rows, scale bytes, and the destination rows that updates go to. A
compressed source is read by its region. -/
def Movement.reads (m : Movement) (rd : Nat → Byte) : List (Nat × Nat) :=
  let rows :=
    if m.src.compress ≠ 0 then [m.src.regionSpan rd]
    else match m.op with
      | some .gather => (List.range m.dst.rows).map (fun n =>
          (m.src.rowAddr (m.srcElem rd 0 (m.dst.rowIdx n)).2, m.src.rowBytes))
      | some .scatter => m.src.rowSpans ++ (List.range m.src.rows).map (fun n =>
          (m.dst.rowAddr (m.scatterDest rd 0 (m.src.rowIdx n)).2, m.dst.rowBytes))
      | _ => m.src.rowSpans
  (if m.usesIdx then m.idx.rowSpans else []) ++ rows ++ m.scaleReads rd
    ++ (if m.readsScales then [(m.dst.scaleBase, m.dst.scaleCount)] else [])

/-- The MOVE fields of a task record (Table 4 of file 09) with its three descriptors. -/
def moveOf (r : TaskRec) (src dst idx : Desc) : Movement :=
  { op := moveOpOf (r.d % 16), gdim := r.d / 16 % 8, perm := r.d / 256, src := src, dst := dst, idx := idx }

/-- The descriptors of a MOVE task read by the engine. -/
def State.moveDescs (s : State) (r : TaskRec) : State × Except (Nat × Nat) Movement :=
  match s.moverRead r.a 64 with
  | (s, .error e) => (s, .error e)
  | (s, .ok a) =>
    match s.moverRead r.b 64 with
    | (s, .error e) => (s, .error e)
    | (s, .ok b) =>
      if r.d % 16 = 3 ∨ r.d % 16 = 4 then
        match s.moverRead r.c 64 with
        | (s, .error e) => (s, .error e)
        | (s, .ok c) => (s, .ok (moveOf r (readDesc a) (readDesc b) (readDesc c)))
      else (s, .ok (moveOf r (readDesc a) (readDesc b) (readDesc [])))

/-- A movement operation refused: the violation fails its task (R172). The unit that answers logs it (R415). -/
def State.moveFails (s : State) (q t cause a kind : Nat) : State :=
  s.failTask q t (moverDie a) cause a kind

/-- The operation has finished: its counts stand in the task (R177, R258). -/
def State.moveDone (s : State) (q t : Nat) (x : Task) (held : Assoc Byte) (sats nans : Nat) : State :=
  s.setTask q t { x with
    status := .running, moved := true, held := held
    countA := ({} : Counter).addN sats, countB := ({} : Counter).addN nans
    nflags := BitVec.ofNat 8 (32 * b2n (decide (0 < sats)) + 64 * b2n (decide (0 < nans))) }

/-- An accepted operation carried out: in place with its journal, or into held lines (R186, R241, R403); none
while it must wait. The access kind logged is write for COMP_OVERFLOW, read for COMP_FORMAT and descriptor for IDX_RANGE: no
rule gives it (DESIGN CHOICE, log 96). -/
def State.runMove (s : State) (q t : Nat) (x : Task) (m : Movement) : Option State :=
  if m.reads s.byte |>.any (fun r => s.accessWaits r.1 r.2 false) then none
  else match s.moverReads (m.reads s.byte) with
    | (s, some (cause, a)) => some (s.moveFails q t cause a 0)
    | (s, none) =>
      if m.op == some .scatter then
        let img := m.src.rowSpans.flatMap (fun r => padTo m.src.imageRow (s.bytes r.1 r.2))
        let r := scatterAll m s.byte img
        some (s.moveDone q t x r.1 r.2 0)
      else match m.apply s.byte with
        | .error (cause, a) => some (s.moveFails q t cause a (if cause = 0x28 then 1 else 0))
        | .ok r =>
          match s.writeFault q t r.writes with
          | some (cause, a) => some (s.moveFails q t cause a 1)
          | none =>
            if r.writes.any (fun w => s.accessWaits w.1 1 true) then none
            else match s.writeInPlace q t r.writes with
              | .ok s => some (s.moveDone q t x [] r.sats r.nans)
              | .waits => none
              | .full a => some (s.moveFails q t 0x37 a 1)
              | .bad cause a => some (s.moveFails q t cause a 1)
              | .area r => some (s.faultRegion r 4)

/-- The descriptors that a MOVE task names. -/
def TaskRec.descSpans (r : TaskRec) : List (Nat × Nat) :=
  (if r.d % 16 = 3 ∨ r.d % 16 = 4 then [r.a, r.b, r.c] else [r.a, r.b]).map (fun a => (a, 64))

/-- What an operation writes, as spans: the destination's rows, or its region where it is compressed. -/
def Movement.writeSpans (m : Movement) : List (Nat × Nat) :=
  if m.dst.compress ≠ 0 then [(m.dst.base, m.dst.cap * 64)] else m.dst.rowSpans

/-- The turns of an accepted operation. -/
def Movement.spots (m : Movement) (rd : Nat → Byte) : List Spot := engineSpots (m.reads rd) m.writeSpans

/-- An accepted operation takes its turns, then it is carried out. -/
def State.moveTurn (s : State) (q t : Nat) (x : Task) (m : Movement) : Option State :=
  match s.turns (.move q t) (m.spots s.byte) with
  | (s, true) => s.runMove q t x m
  | (s, false) => some s

/-- A MOVE task that is ready starts, its operation having this code: the descriptors are read and checked,
then it is carried out (R172, R240). Reserved codes are judged with COPY. -/
def State.startMove (s : State) (op q t : Nat) : Option State :=
  (s.task q t).bind (fun x =>
    let code := x.info.d % 16
    let mine := code = op ∨ (op = 1 ∧ !([1, 2, 3, 4].contains code))
    if x.info.kind == .move && x.status == .ready && decide mine
        && !(x.info.descSpans.any (fun r => s.accessWaits r.1 r.2 false)) then
      match s.moveDescs x.info with
      | (s, .error (cause, a)) => some (s.moveFails q t cause a 2)
      | (s, .ok m) =>
        match worst (m.findings s.byte s.places) with
        | some f => some (s.failTask q t (moverDie f.addr) f.code f.addr 2)
        | none => if m.nothing then some (s.moveDone q t x [] 0 0) else s.moveTurn q t x m
    else none)

/-- COPY of a MOVE task (R172 to R178, R189 to R197). -/
def execCopy (q task : Nat) (s : State) : Out :=
  if decide (q < 4096) then s.happens (s.startMove 1 q task) else .fault .noSuchUnit

/-- PERMUTE of a MOVE task (R179, R180). -/
def execPermute (q task : Nat) (s : State) : Out :=
  if decide (q < 4096) then s.happens (s.startMove 2 q task) else .fault .noSuchUnit

/-- GATHER of a MOVE task (R181 to R183). -/
def execGather (q task : Nat) (s : State) : Out :=
  if decide (q < 4096) then s.happens (s.startMove 3 q task) else .fault .noSuchUnit

/-- SCATTER_ACC of a MOVE task (R184 to R186). -/
def execScatterAcc (q task : Nat) (s : State) : Out :=
  if decide (q < 4096) then s.happens (s.startMove 4 q task) else .fault .noSuchUnit

end Sys2Proof.Machine
end

