-- ==== Sys2Proof/Machine/Transfers.lean ====
section
/-! DEFINITION. Transfers (R107, R135 to R137). -/

namespace Sys2Proof.Machine

open Sys2Proof

/-! Transfers (R107, R135 to R137). -/

/-- A transfer at issue: a busy tag holds the stream; the checks come in the order of R135 and R137; a length
of 0 completes at once, after the checks of length, alignment and rectangle; a span of 0 bytes has no last byte,
so the range check never fails (DESIGN CHOICE: which checks a length of 0 meets, log 84). extra: the rectangle
check, for a multicast. -/
def Core.startTransfer (k : Core) (now : Nat) (tag : Fin 8) (kind : XferKind) (l f n : Fin 32) (extra : Bool) :
    CoreRes :=
  k.issue .access now [l.val, f.val, n.val] (fun t =>
    if (Assoc.keys k.xfers).contains tag.val then k.stall .access none
    else
      let lm := k.reg .access l
      let far := k.reg .access f
      let len := (k.reg .access n).toNat
      if len % 64 ≠ 0 ∨ 1048576 < len then k.raise .access excIllegal
      else if lm.toNat % 64 ≠ 0 ∨ (kind ≠ .multicast ∧ far.toNat % 64 ≠ 0) then k.raise .access excMisaligned
      else if 0 < len ∧ lmSize < lm.toNat + len then k.raise .access excRange
      else if !extra then k.raise .access excIllegal
      else if len = 0 then k.ok1 .access t 1 1 []
      else
        let x : Transfer := { kind := kind, lm := lm, far := far, len := len, instr := k.acc.pc }
        ({ k with xfers := Assoc.set k.xfers tag.val x }).ok1 .access t 1 1 [])

/-- The places in die queues where a transfer waits (R12, R214), one at each store die that serves some of its bytes: none
for a mesh transfer or an address that no store die serves. The spec names no store die for external memory: the model
takes SD((a / 4096) mod 8), the die that R13 gives a store address (DESIGN CHOICE, log 84). -/
def State.transferSpots (s : State) (c far len : Nat) : List Spot :=
  match s.target far with
  | .ext => spotsOf .memory [(far, len)]
  | .store => spotsOf (.compute (Fin.ofNat 12 (dieOfCore c))) [(far, len)]
  | _ => []

/-- A transfer that was issued asks its store dies for service, with the deadline of R216. -/
def State.askTransfer (s : State) (c tag : Nat) : State :=
  match (s.core c).xfers.find? (fun e => e.1 == tag) with
  | some (_, x) =>
    if x.kind == .multicast then s
    else
      let asks := (s.transferSpots c x.far.toNat x.len).map (s.spotRequest (.transfer c tag))
      { s with store := { s.store with requests := s.store.requests ++ asks } }
  | none => s

/-- A transfer instruction: the core's part, then its request when it took a tag. -/
def State.transfer (s : State) (i : Instr) (c : Nat) (tag : Fin 8) (kind : XferKind) (l f n : Fin 32)
    (extra : Bool) : Out :=
  if siteExists c then
    let k := s.core c
    match s.clocked c (fun k => k.attempt .access i (fun k => k.startTransfer s.aclk tag kind l f n extra)) with
    | .ok t k' =>
      let s' := (s.setCore c k').at_ t
      .next (if (Assoc.keys k'.xfers).length = (Assoc.keys k.xfers).length then s' else s'.askTransfer c tag.val)
    | r => s.coreRes c r
  else .fault .noSuchUnit

/-- `xget` (R135, R136). -/
def execXget (c : Nat) (tag : Fin 8) (l f n : Fin 32) (s : State) : Out :=
  s.transfer (.xget c tag l f n) c tag .get l f n true

/-- `xput` (R135, R136). -/
def execXput (c : Nat) (tag : Fin 8) (l f n : Fin 32) (s : State) : Out :=
  s.transfer (.xput c tag l f n) c tag .put l f n true

/-- The gang rectangle of the task on a core. -/
def State.gangOf (s : State) (c : Nat) : Option Rect :=
  (s.siteTask c).bind (fun (q, t) => (s.task q t).map (fun x =>
    { x0 := x.origin.1, y0 := x.origin.2, x1 := x.origin.1 + x.info.gangW - 1
      y1 := x.origin.2 + x.info.gangH - 1 }))

/-- Is a rectangle operand ordered, with every core in the gang (R137)? -/
def State.multicastOk (s : State) (c w : Nat) : Bool :=
  rectOk w && (match s.gangOf c with | some g => (rectOf w).inside g | none => false)

/-- `xput.mc` (R135, R137). -/
def execXputMc (c : Nat) (tag : Fin 8) (l r n : Fin 32) (s : State) : Out :=
  s.transfer (.xputMc c tag l r n) c tag .multicast l r n
    (s.multicastOk c ((s.core c).reg .access r).toNat)

/-- Is no transfer of a tag, or none at all, outstanding? -/
def Core.xferIdle (k : Core) : Option (Fin 8) → Bool
  | some t => !((Assoc.keys k.xfers).contains t.val)
  | none => k.xfers.isEmpty

/-- A wait for transfers (R135): of one tag, or of all. -/
def Core.xferWait (k : Core) (now : Nat) (tag : Option (Fin 8)) : CoreRes :=
  k.issue .access now [] (fun t =>
    if k.xferIdle tag then k.ok1 .access t 1 1 []
    else .held (k.setStream .access { k.acc with wait := .tag tag }))

/-- `xwait` (R135). -/
def execXwait (c : Nat) (tag : Fin 8) (s : State) : Out :=
  s.onInstr c .access (.xwait c tag) (fun k => k.xferWait s.aclk (some tag))

/-- `xwait.all` (R135). -/
def execXwaitAll (c : Nat) (s : State) : Out :=
  s.onInstr c .access (.xwaitAll c) (fun k => k.xferWait s.aclk none)

/-- The access stream goes on from a transfer wait that is over. -/
def Core.serveXfer (k : Core) (t : Nat) : Core :=
  match k.acc.wait with
  | .tag tag => if k.xferIdle tag then k.done .access t 1 1 [] else k
  | _ => k

/-- How a transfer can end now. -/
inductive XferEnd where
  | done (s : State)
  /-- an error response: cause, address, whether it was a write -/
  | error (s : State) (cause a : Nat) (write : Bool)
  /-- the core's own local memory has an uncorrectable word there: its line (R99) -/
  | lost (s : State) (line : Nat)
  | waits
  deriving DecidableEq, Repr

/-- Bytes moved to the local memory of several sites. -/
def State.writeSites (s : State) (lm : Nat) (bs : List Byte) : List Nat → Option State
  | [] => some s
  | c :: cs => ((s.core c).lmWrite lm bs).bind (fun k => State.writeSites (s.setCore c k) lm bs cs)

/-- A write by a core's transfer to memory: journalled (R403), or a mesh write to another core's window. -/
def State.transferWrite (s : State) (c a : Nat) (bs : List Byte) : XferEnd :=
  match s.siteTask c, s.target a with
  | some (q, t), .ext | some (q, t), .store =>
    match s.writeInPlace q t (bytesAt a bs) with
    | .ok s => .done s
    | .waits => .waits
    | .full x => .error s 0x37 x true
    | .bad e x => .error s e x true
    | .area r => .done (s.faultRegion r 4)
  | _, _ =>
    match s.memWrite a bs with
    | some s => .done s
    | none => .error s 0x35 a true

/-- What a transfer does when it is served: every byte is moved, or an error response comes (R136). -/
def State.runTransfer (s : State) (c : Nat) (x : Transfer) : XferEnd :=
  let far := x.far.toNat
  let lm := x.lm.toNat
  match x.kind with
  | .get =>
    match s.accessCause (.core c) (.mesh c) far x.len false with
    | some e => .error s e far false
    | none =>
      if s.accessWaits far x.len false then .waits
      else match s.memRead far x.len with
        | (s, .error a) => .error s 0x35 a false
        | (s, .ok bs) =>
          match (s.core c).lmWrite lm bs with
          | some k => .done (s.setCore c k)
          | none => .error s 0x35 far false
  | .put =>
    match s.accessCause (.core c) (.mesh c) far x.len true with
    | some e => .error s e far true
    | none =>
      if s.accessWaits far x.len true then .waits
      else match (s.core c).lmRead lm x.len with
        | none => .lost s ((s.core c).badLine lm x.len)
        | some (k, bs) => (s.setCore c k).transferWrite c far bs
  | .multicast =>
    match (s.core c).lmRead lm x.len with
    | none => .lost s ((s.core c).badLine lm x.len)
    | some (k, bs) =>
      let sites := (rectOf far).cells.map (fun p => (s.physOf p.1 p.2).getD 0)
      match (s.setCore c k).writeSites lm bs sites with
      | some s => .done s
      | none => .error s 0x35 (windowBase + c * 0x80000 + lm) true

/-- Does a transfer still wait in a die queue? -/
def State.transferAsked (s : State) (c tag : Nat) : Bool :=
  s.store.requests.any (fun r => r.kind == .transfer c tag)

/-- A transfer of a core that its store die has served, if any. -/
def State.served (s : State) (c tag : Nat) : Option Transfer :=
  if s.transferAsked c tag then none else ((s.core c).xfers.find? (fun e => e.1 == tag)).map Prod.snd

/-- A transfer completes (R136): its bytes are at their destination and its tag is free. -/
def execTransferComplete (c : Nat) (tag : Fin 8) (s : State) : Out :=
  if siteExists c then
    s.happens ((s.served c tag.val).bind (fun x =>
      match s.runTransfer c x with
      | .done s =>
        let k := s.core c
        some (s.setCore c (({ k with xfers := Assoc.del k.xfers tag.val }).serveXfer s.aclk))
      | _ => none))
  else .fault .noSuchUnit

/-- A transfer receives an error response (R136): the violation is logged and the core raises
FABRIC_VIOLATION. A put that meets an uncorrectable word of its own core's local memory raises LM_UNCORRECTABLE
(R99). -/
def execTransferErrorResponse (c : Nat) (tag : Fin 8) (s : State) : Out :=
  if siteExists c then
    s.happens ((s.served c tag.val).bind (fun x =>
      match s.runTransfer c x with
      | .error s cause a write =>
        let v := plainViolation cause a (.core c) (b2n write)
        let v := match s.siteTask c with | some (q, t) => v.ofTask (s.regionOf q) q t | none => v
        some ((s.violate (s.loggingDie (.core c) cause (s.blameAt cause a x.len)) v).coreExc c excFabric .access x.instr 0)
      | .lost s line => some (s.coreExc c excUncorrectable .access x.instr line)
      | _ => none))
  else .fault .noSuchUnit

end Sys2Proof.Machine
end

