-- ==== Sys2Proof/Machine/StoreEvents.lean ====
section
/-! DEFINITION. Events of the store dies: requests, grants, borrowing, posts, passes and stalls (R198 to R226, R457). -/

namespace Sys2Proof.Machine

open Sys2Proof

/-- The register STORE_CFG of a store die (R457). -/
def storeCfgAddr (d : Nat) : Nat := regAddr (16 + d) 0x0F0000

/-- A write to STORE_CFG (R198, R199, R443, R457). -/
def State.putStoreCfg (s : State) (o : Origin) (d : Nat) (v : Word) : State :=
  let c : StoreCfg := { stallwin := bits v 40 24, maxwait := bits v 24 16, xwait := bits v 8 16 }
  let pool := bits v 0 6
  if c.stallwin < 1000 ∨ c.maxwait < 100 ∨ c.xwait < 1 ∨ 32 < pool then s.refuseWrite o (storeCfgAddr d) v
  else if pool ≠ s.store.pool ∧ !s.busyCtxs.isEmpty then
    let sc := Assoc.set s.store.sc d ((Assoc.get {} s.store.sc d).event 0)
    { s with store := { s.store with sc := sc } }.refuseWrite o (storeCfgAddr d) v
  else { s with store := { s.store with pool := pool, cfg := Assoc.put {} s.store.cfg d c } }

/-- STORE_CFG written. -/
def execStoreCfg (o : Origin) (d : Fin 8) (v : BitVec 64) (s : State) : Out :=
  .next (s.onWrite o (storeCfgAddr d.val) (fun s => s.putStoreCfg o d.val v))

/-- The graph engine retries the arming of a ready task, once nothing it reads has to wait (R210, R346). -/
def execArmingRetry (q task : Nat) (s : State) : Out :=
  if decide (q < 4096) then
    s.happens ((s.task q task).bind (fun x =>
      if x.info.kind == .kernel && x.status == .ready && !x.armed && !(s.armHeld x) then some (s.armTask q task) else none))
  else .fault .noSuchUnit

/-! Requests (R211, R214, R216, R218). -/

/-- Is a piece of a stream pending in a direction? -/
def State.pieceAsked (s : State) (n : Nat) (dir : PieceDir) : Bool :=
  s.store.requests.any (fun r => match r.kind with | .piece c d _ _ => c == n && d == dir | _ => false)

/-- A piece's request entered in its queues, with its deadline and the address of its bytes (R214 to R216). -/
def State.askPiece (s : State) (n : Nat) (dir : PieceDir) (off len : Nat) : State :=
  let ask := fun (x : Spot) =>
    ({ die := x.1, queue := x.2.1, kind := .piece n dir off len, t := s.strike, d := s.deadline n dir, addr := x.2.2 } :
      Request)
  { s with store := { s.store with requests := s.store.requests ++ (s.pieceSpots n dir off len).map ask } }

/-- A borrow request for one page (R211). -/
def State.askBorrow (s : State) (n : Nat) : Option State :=
  let c := s.ctx n
  if c.borrowed < c.borrowMax ∧ !(s.store.borrows.any (fun b => b.ctx == n)) then
    let b : Borrow := { ctx := n, t := s.strike, d := s.deadline n .fetch }
    some { s with store := { s.store with borrows := s.store.borrows ++ [b] } }
  else none

/-- May a stream's pass move bytes: a persistent stream's only once it belongs to a task (R221)? -/
def Ctx.inPass (c : Ctx) : Bool := !c.persist || c.owner.isSome

/-- The home die issues a stream request, or a borrow request where staging is full. -/
def State.request (s : State) (n : Nat) (dir : PieceDir) : Option State :=
  let c := s.ctx n
  if s.pieceAsked n dir || !c.inPass then none
  else match dir with
    | .fetch =>
      match s.fetchPiece c with
      | some (off, len) =>
        if c.stagedLen + len ≤ c.capacity then some (s.askPiece n dir off len) else s.askBorrow n
      | none => none
    | .deliver =>
      match c.deliverPiece with
      | some (off, len) => some (s.askPiece n dir off len)
      | none => none

/-- An event of the home die of a stream: nothing in the gap of a switch of its SCLK (R368). -/
def State.onCtx (s : State) (ctx : Nat) (f : Ctx → Option State) : Out :=
  if decide (ctx < 16384) then s.happens (if s.inGap (16 + homeDie ctx) then none else f (s.ctx ctx))
  else .fault .noSuchUnit

/-- STREAM_REQUEST (R211, R216, R218). -/
def execStreamRequest (ctx : Nat) (dir : PieceDir) (s : State) : Out := s.onCtx ctx (fun _ => s.request ctx dir)

/-! Grants (R207, R214, R215). -/

/-- A byte of the stream has moved: its stall window and its owner's episode are over (R226). -/
def State.moved (s : State) (n : Nat) : State :=
  let c := s.ctx n
  let s := s.setCtx n { c with blocked := none }
  { s with store := { s.store with stalled := s.store.stalled.filter (fun o => c.owner != some o) } }

/-- What a granted piece did. -/
inductive Piece where
  | done (s : State)
  /-- the pass's owner fails: cause, address, access kind -/
  | bad (s : State) (cause a kind : Nat)
  | waits
  deriving DecidableEq, Repr

/-- What a FETCH piece reads of its source. -/
def Movement.pieceReads (m : Movement) (rd : Nat → Byte) (off n : Nat) : List (Nat × Nat) :=
  if m.src.compress ≠ 0 then [m.src.regionSpan rd]
  else if m.op == some .permute && m.pi 0 != 0 then m.src.rowSpans
  else
    (if m.usesIdx then m.idx.rowSpans else [])
      ++ (unitsOf m.dst.imageRow off n).map (fun r =>
        (m.src.rowAddr (m.srcElem rd 0 (m.dst.rowIdx r)).2, m.src.rowBytes))

/-- Bytes staged: the position of the pass that fetches advances. -/
def State.stage (s : State) (n : Nat) (bs : List Byte) : State :=
  let c := s.ctx n
  match c.ahead with
  | some a =>
    if c.fetchesAhead then
      s.setCtx n { c with ahead := some { a with staged := a.staged ++ bs, pos := a.pos + bs.length } }
    else s.setCtx n { c with staged := c.staged ++ bs, pos := c.pos + bs.length }
  | none => s.setCtx n { c with staged := c.staged ++ bs, pos := c.pos + bs.length }

/-- The slot that a piece of a ring source opens takes its FILL (R206). -/
def State.openSource (s : State) (n off : Nat) : State :=
  if off % (s.ctx n).srcSlot = 0 then s.setSrcHasp n (fun h => { h with fill := h.fill - 1 }) else s

/-- A piece moved from the source end into staging. -/
def State.fetch (s : State) (n off len : Nat) : Piece :=
  let c := s.ctx n
  match c.srcEnd with
  | 0 =>
    let c := c.fetchSide
    let m := c.movement
    let rs := m.pieceReads s.byte off len
    if rs.any (fun r => s.accessWaits r.1 r.2 false) then .waits
    else match s.moverReads rs with
      | (s, some (cause, a)) => .bad s cause a 0
      | (s, none) =>
        match s.fetchSlice c off len with
        | .error a => .bad s 0x29 a 0
        | .ok bs => .done (s.stage n bs)
  | 1 =>
    let a := ringPlace c.src c.srcSlot c.srcSlots off
    if s.accessWaits a len false then .waits
    else match s.memRead a len with
    | (s, .error x) => .bad s 0x35 x 0
    | (s, .ok bs) => .done ((s.openSource n off).stage n bs)
  | 2 =>
    let core := c.srcCore.getD 0
    let a := ringPlace c.src c.srcSlot c.srcSlots off
    match (s.core core).lmRead a len with
    | none => .bad s 0x35 (windowBase + core * 0x80000 + a) 0
    | some (k, bs) => .done (((s.setCore core k).openSource n off).stage n bs)
  | _ => .waits

/-- A context after len bytes have left its staging: pages return (R211). How staged bytes fill the pages a stream holds is
open: they stand in them one after the other, so that the pages in use are those bytes over 4,096, rounded up (DESIGN CHOICE,
log 96). -/
def Ctx.unstage (c : Ctx) (len : Nat) : Ctx :=
  let c := if c.srcEnd = 3 then { c with portRing := c.portRing.drop len, pos := c.pos + len }
    else { c with staged := c.staged.drop len }
  { c with
    delivered := c.delivered + len
    borrowed := min c.borrowed (ceilDiv c.stagedLen 4096 - c.floor) }

/-- The scale bytes of PORT rows within the pass whose first byte lies in a piece (R166, R171, R201). -/
def Ctx.scalesIn (c : Ctx) (m : Movement) (off len : Nat) : List (Nat × Byte) :=
  if isMx m.dst.ty then
    (c.portScales.filter (fun e => decide (off ≤ e.1 ∧ e.1 < off + len ∧ e.1 < m.src.imageLen))).map (fun e =>
      (portScaleAddr m.dst e.1, e.2))
  else []

/-- Before its first update a SCATTER_ACC PUT reads the whole index tensor, checks it and keeps it (R185). -/
def State.takeIndex (s : State) (n : Nat) : Piece :=
  let c := s.ctx n
  let m := c.movement
  let rs := m.idx.rowSpans
  if !c.indexRead.isEmpty then .done s
  else if s.readsWait rs then .waits
  else match s.moverReads rs with
    | (s, some (cause, a)) => .bad s cause a 0
    | (s, none) =>
      match m.indexBad s.byte with
      | some a => .bad s 0x27 a 2
      | none => .done (s.setCtx n { c with indexRead := rs.flatMap (fun r => bytesAt r.1 (s.bytes r.1 r.2)) })

/-- The updates of a piece reach their lines: each is read at its first update (R186). -/
def State.takeUpdates (s : State) (n off len : Nat) : Piece :=
  match s.takeIndex n with
  | .done s =>
    let c := s.ctx n
    let rs := c.movement.updateSpans (s.indexByte c) off len
    if s.readsWait rs then .waits
    else match s.moverReads rs with
      | (s, some (cause, a)) => .bad s cause a 0
      | (s, none) => .done s
  | r => r

/-- A PUT's piece: gathered for the commit, or written in place by its owner. -/
def State.putPiece (s : State) (n off len : Nat) : Piece :=
  let c := s.ctx n
  let m := c.movement
  let bs := c.outgoing len
  if c.gathers then
    match (if c.moveOp = 4 ∧ off < c.len then s.takeUpdates n off len else .done s) with
    | .done s =>
      let c := s.ctx n
      .done (s.setCtx n { c.unstage len with gathered := c.gathered ++ bs })
    | r => r
  else
    let s := if c.srcEnd = 3 then s.openSource n off else s
    let ws := putWrites m off bs ++ (if c.srcEnd = 3 then c.scalesIn m off len else [])
    if ws.any (fun w => s.accessWaits w.1 1 true) then .waits
    else match c.owner with
      | none => .waits
      | some (q, t) =>
        match s.writeInPlace q t ws with
        | .ok s => .done (s.setCtx n ((s.ctx n).unstage len))
        | .waits => .waits
        | .full a => .bad s 0x37 a 1
        | .bad cause a => .bad s cause a 1
        | .area r => .done (s.faultRegion r 4)

/-- The FREE of the slot that a piece opens in the ring it fills, taken (R206). -/
def Ctx.openSink (c : Ctx) (off : Nat) : Ctx :=
  if off % c.snkSlot = 0 then { c with hasp := c.hasp.map (fun h => { h with free := h.free - 1 }) } else c

/-- A piece that has reached the sites of one compute die: it opens its slot with the first of them and leaves staging with
the last (R206, R208). -/
def Ctx.reach (c : Ctx) (off len : Nat) (sites : List Nat) (last : Bool) : Ctx :=
  let c := if c.reached.isEmpty then c.openSink off else c
  if last then { c.unstage len with reached := [], reachedLen := 0 }
  else { c with reached := c.reached ++ sites, reachedLen := len }

/-- A piece moved out of staging into the ring it fills: a store ring's bytes are journalled for the pass's owner
(R400, R403); those of a core ring go to the sites of one compute die at a time. -/
def State.ringPiece (s : State) (n off len : Nat) (sites : List Nat) (last : Bool) : Piece :=
  let c := s.ctx n
  let bs := c.outgoing len
  let a := ringPlace c.snk c.snkSlot c.snkSlots off
  let left := fun (s : State) => s.setCtx n ((s.ctx n).reach off len sites last)
  if c.snkEnd = 1 then
    if s.accessWaits a bs.length true then .waits
    else match s.ownerTask c with
    | none => .done (left (s.storeWrite a bs))
    | some (q, t, _) =>
      match s.writeInPlace q t (bytesAt a bs) with
      | .ok s => .done (left s)
      | .waits => .waits
      | .full x => .bad s 0x37 x 1
      | .bad cause x => .bad s cause x 1
      | .area r => .done (s.faultRegion r 4)
  else match s.writeSites a bs sites with
    | some s => .done (left s)
    | none => .bad s 0x35 (windowBase + sites.headD 0 * 0x80000 + a) 1

/-- The pass of a context ends in a violation: its owner fails (R172), or the task whose next pass it is, where the piece
was fetched for that one (R222). The unit that answers logs it (R415). -/
def State.ctxFails (s : State) (n : Nat) (ahead : Bool) (cause a kind : Nat) : State :=
  let own := 16 + homeDie n
  let c := s.ctx n
  match (if ahead then c.ahead.map Ahead.owner else (s.ownerTask c).map (fun o => (o.1, o.2.1))) with
  | some (q, t) => let s := s.failTask q t own cause a kind; if ahead then s.loseAhead n else s
  | none => s.violate (s.answerDie own cause a)
      { cause := cause, origin := own, addr := a, strike := 0, unit := homeDie n, kind := kind, region := 0,
        queue := 0xFFF, task := 0, tag := 0 }

/-- Members of a ring that a delivery of one queue reaches. -/
def Ctx.sitesOf (c : Ctx) : DieQueue → List Nat
  | .compute d => c.members.filter (fun k => dieOfCore k == d.val)
  | _ => c.members

/-- A granted request carried out; one whose stream can no longer move the piece is dropped. An access or a movement
operation is carried out by its own command, which takes its turn there. -/
def State.serve (s : State) (r : Request) : Option State :=
  match r.kind with
  | .piece n dir off len =>
    let c := s.ctx n
    let now := match dir with
      | .fetch => if c.stagedLen + len ≤ c.capacity then s.fetchPiece c else none
      | .deliver => c.deliverPiece
    if now.any (fun p => p.1 == off && decide (len ≤ p.2)) then
      match (match dir with
        | .fetch => s.fetch n off len
        | .deliver =>
          let last := !((s.dropRequest r).pieceAsked n dir)
          if c.kind = 2 then (if last then s.putPiece n off len else .done s)
          else s.ringPiece n off len (c.sitesOf r.queue) last) with
      | .done s => some ((s.dropRequest r).moved n)
      | .bad s cause a kind =>
        some ((s.dropRequest r).ctxFails n (dir == .fetch && (s.ctx n).fetchesAhead) cause a kind)
      | .waits => none
    else some (s.dropRequest r)
  | .transfer _ _ => some (s.dropRequest r)
  | .access _ _ _ => none
  | .move q t => if (s.task q t).any (fun x => x.status == .ready) then none else some (s.dropRequest r)
  | .commit q t => if (s.task q t).any (fun x => x.status == .running) then none else some (s.dropRequest r)

/-- REQUEST_GRANT: the request with the smallest deadline in one queue of a store die (R215). -/
def execRequestGrant (d : Fin 8) (queue : DieQueue) (s : State) : Out :=
  s.happens (if s.inGap (16 + d.val) then none
    else (bestRequest (s.store.requests.filter (fun r => r.die == d.val && r.queue == queue))).bind (fun r => s.serve r))

/-! Borrowing (R211, R212). -/

/-- Streams whose borrowed pages a request with a deadline may take back, latest deadline first (R212). The deadline that
ranks such a stream is the one that a request of it would have now: R212 does not say which (DESIGN CHOICE, log 96). -/
def State.reclaimable (s : State) (b : Borrow) : List Nat :=
  ((s.busyCtxs.filter (fun e =>
    homeDie e.1 == homeDie b.ctx && e.1 != b.ctx && !e.2.started && decide (0 < e.2.borrowed)
      && earlier (b.d, b.t, b.ctx, 0) (s.deadline e.1 .fetch, s.strike, e.1, 0))).map Prod.fst).reverse

/-- One page taken back: the latest staged bytes beyond the pages left are discarded, those of a next pass first, to be
fetched again; bytes of slots whose FREE has been posted are kept. -/
def State.reclaim (s : State) (n : Nat) : Option State :=
  let c := s.ctx n
  let keep := (c.floor + c.borrowed - 1) * 4096
  let drop := c.stagedLen - keep
  let dropA := min drop c.aheadLen
  let dropC := drop - dropA
  let back := c.pos - dropC
  if c.srcEnd ≠ 0 ∧ back < c.freesPosted * c.srcSlot then none
  else
    let s := s.discard n drop
    let s := if c.srcEnd = 0 then s
      else s.setSrcHasp n (fun h =>
        { h with fill := h.fill + (ceilDiv c.pos c.srcSlot - ceilDiv back c.srcSlot) })
    let s := s.withdrawFetch n
    some (s.setCtx n { s.ctx n with
      staged := c.staged.take (c.staged.length - dropC), pos := back, borrowed := c.borrowed - 1
      ahead := c.ahead.map (fun a =>
        { a with staged := a.staged.take (a.staged.length - dropA), pos := a.pos - dropA }) })

/-- BORROW_GRANT (R211, R212). -/
def State.borrowGrant (s : State) (d : Nat) : Option State :=
  (bestBorrow (s.store.borrows.filter (fun b => homeDie b.ctx == d))).bind (fun b =>
    let give := fun (s : State) =>
      let c := s.ctx b.ctx
      let s := s.setCtx b.ctx { c with borrowed := c.borrowed + 1 }
      { s with store := { s.store with borrows := s.store.borrows.erase b } }
    if 0 < s.remainder d then some (give s)
    else ((s.reclaimable b).findSome? (fun n => s.reclaim n)).map give)

/-- BORROW_GRANT: one free page, or one taken back, to the request with the smallest deadline. -/
def execBorrowGrant (d : Fin 8) (s : State) : Out :=
  s.happens (if s.inGap (16 + d.val) then none else s.borrowGrant d.val)

/-! Posts (R206 to R208). -/

/-- Is the next slot of the ring a stream fills complete (R207)? -/
def Ctx.fillDue (c : Ctx) : Bool :=
  c.kind != 2 && c.live && decide (0 < c.snkSlot ∧ (c.fillsPosted + 1) * c.snkSlot ≤ c.delivered)

/-- Members that the piece in delivery has reached and whose FILL it completes, before the others' (R208). -/
def Ctx.fillEarly (c : Ctx) : List Nat :=
  if (c.fillsPosted + 1) * c.snkSlot ≤ c.delivered + c.reachedLen then
    c.reached.filter (fun k => !(c.early.contains k))
  else []

/-- FILL counted for some members of the ring a stream fills; a store ring has one count. -/
def Ctx.countFill (c : Ctx) (to_ : Nat → Bool) : List Hasp :=
  (List.range c.hasp.length).map (fun i =>
    let h := c.hasp.getD i {}
    if (c.members[i]?).all to_ then { h with fill := h.fill + 1 } else h)

/-- SLOT_FILL_POST: the FILL of the next slot to every member that has not had it, or, while a piece is on its way to other
compute dies, to those it has reached (R207, R208). -/
def execSlotFillPost (ctx : Nat) (s : State) : Out :=
  s.onCtx ctx (fun c =>
    if c.fillDue then
      some (s.setCtx ctx { c with
        fillsPosted := c.fillsPosted + 1, hasp := c.countFill (fun k => !(c.early.contains k)), early := [] })
    else if c.live && !c.fillEarly.isEmpty then
      some (s.setCtx ctx { c with hasp := c.countFill c.fillEarly.contains, early := c.early ++ c.fillEarly })
    else none)

/-- May the next slot of the ring a stream empties be freed: every byte of it has been read (R207), and, for a RELAY,
every sink slot cut from it has been delivered (R204)? -/
def Ctx.freeDue (c : Ctx) : Bool :=
  c.srcEnd != 0 && c.live && decide (0 < c.srcSlot) &&
    (decide ((c.freesPosted + 1) * c.srcSlot ≤ (if c.kind = 3 then c.delivered else c.pos))
      || (c.srcEnd == 3 && c.portClosed && decide (c.pos = c.portArrived ∧ c.freesPosted * c.srcSlot < c.pos)))

/-- SLOT_FREE_POST (R207). -/
def execSlotFreePost (ctx : Nat) (s : State) : Out :=
  s.onCtx ctx (fun c =>
    if c.freeDue then
      some ((s.setCtx ctx { c with freesPosted := c.freesPosted + 1 }).setSrcHasp ctx
        (fun h => { h with free := h.free + 1 }))
    else none)

/-! Passes of persistent streams (R221, R222). -/

/-- The ready task that a new pass of a context would belong to: the first by queue and index that has no pass of it. -/
def State.nextOwner (s : State) (n : Nat) : Option (Nat × Nat) :=
  (s.ge.sqs.flatMap (fun e =>
    (e.2.graph.elim [] (fun g => g.tasks)).filterMap (fun t =>
      if t.2.info.kind == .kernel && t.2.status == .ready && t.2.info.streams.any (fun x => x.2.1 == n)
          && !(s.ownedBy (s.ctx n) e.1 t.1) then
        some (e.1, t.1) else none))).head?

/-- May a new pass begin as the stream's current one? -/
def State.passFree (s : State) (c : Ctx) : Bool :=
  c.persist && (c.state == .passEnd || (c.state == .armed && (s.ownerTask c).isNone))

/-- May the next pass begin beside the current one: a FETCH that has issued its last transfer (R222)? A ring that a
PUT or RELAY empties starts afresh only when the current pass ends (R221), so their next pass has nothing to fetch. -/
def State.aheadFree (s : State) (n : Nat) : Bool :=
  let c := s.ctx n
  c.persist && c.kind == 1 && c.live && !c.cancelled && !c.releasing && (s.ownerTask c).isSome
    && !(c.ahead.any s.aheadOwned) && decide (c.len ≤ c.pos) && !(s.pieceAsked n .fetch)

/-- The task that issued a re-arm fails at its use if it still runs, in the same graph (R142). -/
def State.failRearm (s : State) (by_ : Option (Nat × Nat × Nat)) (cause : Nat) : State :=
  match by_ with
  | some (q, t, entry) =>
    match s.task q t with
    | some x => if x.status == .running && s.graphEntry q == entry then s.endTask q t .failed { exc := excFabric, cause := cause } else s
    | none => s
  | none => s

/-- The base of a pass that begins now (R222). -/
def Ctx.baseNext (c : Ctx) : Option Nat := match c.nextBase with | some b => some b | none => c.passBase

/-- Must the checks of a pass that begins wait for its index tensor (R346)? -/
def State.passHeld (s : State) (c : Ctx) : Bool :=
  c.movement.usesIdx && c.xdesc.rowSpans.any (fun r => s.accessWaits r.1 r.2 false)

/-- A pass begins for a task: its base, and the descriptor checked again (R222). -/
def State.beginPass (s : State) (n q t : Nat) : State :=
  let c := s.ctx n
  let c := { c with
    passBase := c.baseNext
    nextBase := none, passBy := c.rearmBy, rearmBy := none, owner := some (q, t)
    ownerEntry := s.graphEntry q }
  let s := s.setCtx n (c.rewound .armed)
  if c.kind = 3 then s
  else match s.checkCtx (s.ctx n) with
    | (s, none) => s
    | (s, some (cause, a, kind)) => (s.failTask q t (16 + homeDie n) cause a kind).failRearm c.passBy cause

/-- The next pass begins fetching while the current one delivers (R142, R222). -/
def State.beginAhead (s : State) (n q t : Nat) : State :=
  let s := s.loseAhead n
  let c := s.ctx n
  let a : Ahead :=
    { owner := (q, t), ownerEntry := s.graphEntry q, base := c.baseNext, rearmed := c.nextBase.isSome, by_ := c.rearmBy }
  let s := s.setCtx n { c with ahead := some a, nextBase := none, rearmBy := none }
  match s.checkCtx { c with passBase := a.base } with
  | (s, none) => s
  | (s, some (cause, x, kind)) => ((s.failTask q t (16 + homeDie n) cause x kind).loseAhead n).failRearm a.by_ cause

/-- PASS_START (R222). -/
def execPassStart (ctx : Nat) (s : State) : Out :=
  s.onCtx ctx (fun c =>
    if s.passHeld c then none
    else if s.passFree c then (s.nextOwner ctx).map (fun o => s.beginPass ctx o.1 o.2)
    else if s.aheadFree ctx then (s.nextOwner ctx).map (fun o => s.beginAhead ctx o.1 o.2)
    else none)

/-! Stall detection (R226). -/

/-- The stall set of a task. -/
def State.stallSet (s : State) (q t : Nat) : List Nat :=
  (s.owned q t).filter (fun n => (s.ctx n).live && !(s.ctx n).passOver)

/-- STREAM_STALL counted and shown by a store die, with CNTOV where its counter saturates (R226, R227, R457). -/
def Store.countStall (st : Store) (d : Nat) : Store :=
  let n := Assoc.get {} st.stalls d
  let sc := (Assoc.get {} st.sc d).event 1
  { st with stalls := Assoc.set st.stalls d n.tick, sc := Assoc.set st.sc d (if n.loses 1 then sc.event 2 else sc) }

/-- STREAM_STALL written, counted and shown by the home dies of its streams (R226, R227, R457). -/
def State.stall (s : State) (q t : Nat) (ns : List Nat) : State :=
  let st := ((ns.map homeDie).eraseDups).foldl Store.countStall s.store
  let s := { s with store := { st with stalled := st.stalled ++ [(q, t)] } }
  s.toRegion (s.regionOf q)
    { type := 6, tag := ((s.graph q).map (fun g => g.tag)).getD 0, strike := s.strike, queue := q, task := t
      payload := leBytes 2 ns.length ++ [0, 0, 0, 0, 0, 0]
        ++ (List.range 8).flatMap (fun i => leBytes 2 (ns.getD i 0xFFFF)) }

/-- STREAM_STALL (R226). -/
def execStreamStall (q task : Nat) (s : State) : Out :=
  if decide (q < 4096) then
    let ns := s.stallSet q task
    let past := ns.all (fun n => match (s.ctx n).blocked with
      | some t => atOrAfter s.strike t
      | none => false)
    s.happens (if !ns.isEmpty && past && !(s.store.stalled.contains (q, task)) then some (s.stall q task ns)
      else none)
  else .fault .noSuchUnit

/-- The stall windows of the streams at a strike: one begins when a stream is first blocked on space. -/
def State.watchStalls (s : State) : State :=
  (s.store.ctxs.filter (fun e => e.2.live)).foldl (fun s e =>
    let c := s.ctx e.1
    if s.blockedOnSpace e.1 then
      if c.blocked.isSome then s
      else s.setCtx e.1 { c with
        blocked := some (s.strike + BitVec.ofNat 64 (s.storeCfg (homeDie e.1)).stallwin) }
    else if c.blocked.isSome then s.setCtx e.1 { c with blocked := none }
    else s) s

end Sys2Proof.Machine
end

