-- ==== Sys2Proof/Machine/GraphEvents.lean ====
section
/-! DEFINITION. Events of the graph engines: readiness, placement, commit, release, deadlock, capture; and the strike and the heartbeat (R16, R237 to R259). -/

namespace Sys2Proof.Machine

open Sys2Proof

/-- The strike at the start of the group of 16 ACLK cycles in which it now advances (R390). -/
def State.tickFrom (s : State) : Nat × Word :=
  if s.power.tick.1 = s.aclk / 16 then s.power.tick else (s.aclk / 16, s.strike)

/-- The tasks of the region that come before a task in the order of R238. -/
def State.before (s : State) (q t : Nat) : List Task :=
  ((s.readyOrder (s.regionOf q)).takeWhile (fun e => !(e.1 == q && e.2.1 == t))).map (fun e => e.2.2)

/-! Cross-queue deadlock (R250). -/

/-- The flags that unended tasks of a queue's graph wait for in vain. -/
def State.unmet (s : State) (q : Nat) : List Nat :=
  ((s.graph q).elim [] (fun g => g.tasks)).flatMap (fun e =>
    if e.2.status.ended then []
    else (e.2.info.flags.filter (fun f => f.op == 1 && !(s.waitMet f.flag f.value))).map (fun f => f.flag))

/-- May a task of a queue still run on, or start now? -/
def State.canRun (s : State) (q t : Nat) (x : Task) : Bool :=
  match x.status with
  | .running => true
  | .waiting => s.depsMet q x
  | .ready => x.info.kind != .kernel || (s.placeable q t x && s.fits true (s.regionOf q) x.info
      && s.mayPass (s.regionOf q) (s.before q t))
  | _ => false

/-- Is a queue flag-blocked: a WAIT is unmet, no task runs and none could be placed? -/
def State.flagBlocked (s : State) (q : Nat) : Bool :=
  !((s.unmet q).isEmpty)
    && ((s.graph q).elim [] (fun g => g.tasks)).all (fun e => !(s.canRun q e.1 e.2))

/-- Would a queue change a flag: in an unended task, or in a FLAG entry it has read? -/
def State.willSet (s : State) (q f : Nat) : Bool :=
  ((s.graph q).elim [] (fun g => g.tasks)).any (fun e =>
    !e.2.status.ended && e.2.info.flags.any (fun x => (x.op == 2 || x.op == 3) && x.flag == f))
  || (s.sq q).entries.any (fun e => e.op == 5 && e.formOk && e.arg 0 % 2 ^ 16 == f)

/-- Each queue waits on its flag, which the next queue would change; the last one's, the first. -/
def State.waitEdges (s : State) (first : Nat) : List (Nat × Nat) → Bool
  | [] => true
  | [(q, f)] => (s.unmet q).contains f && s.willSet first f
  | (q, f) :: (q', f') :: rest =>
    (s.unmet q).contains f && s.willSet q' f && State.waitEdges s first ((q', f') :: rest)

/-- Is a list of (queue, flag) a cycle of flag-blocked queues, its lowest queue first? -/
def State.isCycle (s : State) (cycle : List (Nat × Nat)) : Bool :=
  let qs := cycle.map Prod.fst
  !cycle.isEmpty && decide (qs.eraseDups = qs) && qs.all (fun q => decide (q < 4096 ∧ qs.headD 0 ≤ q))
    && qs.all s.flagBlocked && s.waitEdges (qs.headD 0) cycle

/-- The reported cycles that still stand: one that has been broken and forms again is a new cycle, and is raised again. -/
def State.pruneDeadlocks (s : State) : State :=
  { s with ge := { s.ge with deadlocks := s.ge.deadlocks.filter s.isCycle } }

/-- What a strike brings beside its count: the stall windows are judged (R226), reported deadlocks that have been broken are
forgotten (R250), and writes of the module that had to wait are tried again: earlier contents of granules (R403), and the
loader of HD (R427). -/
def State.atStrike (s : State) : State := s.watchStalls.pruneDeadlocks.settleUndo.bootAgain

/-- STRIKE_TICK (R16): the strike counter advances by one, with what a strike brings. -/
def execStrikeTick (s : State) : Out :=
  s.happens (if s.running then
    some ({ s with strike := s.strike + 1, power := { s.power with tick := s.tickFrom } } : State).atStrike else none)

/-- SERVICE_HEARTBEAT (R259). -/
def execServiceHeartbeat (s : State) : Out :=
  s.happens (if s.svUp then some { s with heartbeat := s.heartbeat + 1 } else none)

/-- A task's event: nothing where the task is not there or its condition does not hold. -/
def State.onTask (s : State) (q t : Nat) (f : Task → Option State) : Out :=
  if decide (q < 4096) then s.happens ((s.task q t).bind f) else .fault .noSuchUnit

/-- TASK_READY, once nothing that the arming of its streams reads has to wait (R219, R237, R246, R346). -/
def execTaskReady (q task : Nat) (s : State) : Out :=
  s.onTask q task (fun x =>
    if x.status == .waiting && s.depsMet q x && !(s.armHeld x) then some (s.makeReady q task x) else none)

/-! Placement (R238, R240, R371, R406). -/

/-- The gated rows of a gang's sites. -/
def State.gatedRows (s : State) (sites : List Nat) : List Nat :=
  ((sites.map rowKey).eraseDups).filter (fun r => !((Assoc.keys s.grid.ungated).contains r))

/-- Row clocks ungated (R371). -/
def State.ungate (s : State) (rows : List Nat) : State :=
  { s with grid := { s.grid with
      ungated := rows.foldl (fun m r => Assoc.set m r s.aclk) s.grid.ungated } }

/-- Sites of rows just ungated that fail their self-check. -/
def State.failingSites (s : State) (rows : List Nat) : List Nat :=
  s.grid.selfCheckBad.filter (fun c =>
    rows.contains (rowKey c) && siteExists c && !(bit (s.rowMap (rowKey c)).decidedFailed (colOfCore c)))

/-- A gang put on its rectangle: its rows are ungated and checked, and the task starts. -/
def State.putGang (s : State) (q t : Nat) (x : Task) (ox oy : Nat) : State :=
  let rows := s.gatedRows (s.gangSites x.info ox oy)
  let bad := s.failingSites rows
  let s := s.ungate rows
  if bad.isEmpty then (if rows.isEmpty then s else s.at_ (s.aclk + 32)).startTask q t x ox oy
  else bad.foldl (fun s c => s.lockout c 3) s

/-- What the start of a task reads: the header of its image and its tensor descriptors (R240). -/
def TaskRec.startSpans (r : TaskRec) : List (Nat × Nat) :=
  (r.a, 128) :: (r.binds.filter (fun b => b.1 == 1)).map (fun b => (b.2 % 2 ^ 48, 64))

/-- TASK_PLACE at an origin, once its start can read what it reads; a task whose image is bad ends where it would be placed
(R236). -/
def State.placeTask (s : State) (q t ox oy : Nat) (x : Task) : Option State :=
  let r := s.regionOf q
  if !(s.placeable q t x) then none
  else if !(s.fits false r x.info) then some (s.endTask q t .failed { cause := 0x11 })
  else if s.fitsAt true r x.info ox oy && s.mayPass r (s.before q t) then
    if x.info.badImage then some (s.endTask q t .failed { exc := excImage })
    else if s.readsWait x.info.startSpans then none else some (s.putGang q t x ox oy)
  else none

/-- TASK_PLACE (R236, R238, R240). -/
def execTaskPlace (q task x y : Nat) (s : State) : Out := s.onTask q task (fun k => s.placeTask q task x y k)

/-- PLACE_WAIT_EXPIRY: no later task goes ahead of the first ready task of a region any more (R238). -/
def execPlaceWaitExpiry (r : Nat) (s : State) : Out :=
  if decide (r < 64) then
    s.happens ((s.readyOrder r).head?.bind (fun e =>
      if s.waited r e.2.2 then some (s.setTask e.1 e.2.1 { e.2.2 with overdue := true }) else none))
  else .fault .noSuchUnit

/-- TASK_COMMIT (R241): the commit point, once what becomes visible at it has had its turns. -/
def execTaskCommit (q task : Nat) (s : State) : Out :=
  s.onTask q task (fun x =>
    if s.commitDue q task x then
      match s.turns (.commit q task) (s.commitSpots x) with
      | (s, true) => some (s.commit q task x)
      | (s, false) => some s
    else none)

/-- WARD_TASK_RELEASE (R245). -/
def execWardTaskRelease (q task : Nat) (s : State) : Out :=
  s.onTask q task (fun x =>
    if x.info.kind == .ward && x.status == .ready && atOrAfter s.strike (x.readyAt + 1) then
      some (s.releaseWardTask q task x) else none)

/-- (queue, flag) pairs in rising order of queue. -/
def sortPairs (ps : List (Nat × Nat)) : List (Nat × Nat) :=
  ps.foldl (fun acc p => (acc.takeWhile (fun x => decide (x.1 ≤ p.1))) ++ [p]
    ++ (acc.dropWhile (fun x => decide (x.1 ≤ p.1)))) []

/-- QUEUE_DEADLOCK written and shown by each queue. -/
def State.deadlock (s : State) (cycle : List (Nat × Nat)) : State :=
  let ps := sortPairs cycle
  let r : Rec :=
    { type := 5, strike := s.strike, status := cycle.length
      payload := [BitVec.ofNat 8 (min 8 ps.length), 0, 0, 0, 0, 0, 0, 0]
        ++ (List.range 8).flatMap (fun i =>
          leBytes 2 ((ps.map Prod.fst).getD i 0xFFFF) ++ leBytes 2 ((ps.map Prod.snd).getD i 0xFFFF)) }
  let s := ps.foldl (fun s p =>
    let x := s.sq p.1
    (s.setSq p.1 { x with sc := x.sc.event 1 }).toSq p.1 r) s
  s.mlog r

/-- QUEUE_DEADLOCK: a cycle that has not been reported (R250). -/
def execQueueDeadlock (cycle : List (Nat × Nat)) (s : State) : Out :=
  let old := s.ge.deadlocks.filter s.isCycle
  s.happens (if s.isCycle cycle && !(old.any (fun c => c.map Prod.fst == cycle.map Prod.fst)) then
    some (({ s with ge := { s.ge with deadlocks := old ++ [cycle] } } : State).deadlock cycle) else none)

/-! Cut points (R255). -/

/-- Bytes of the capture of one core. -/
def captureBytes : Nat := 417792

/-- The captures of a gang's cores, by gang index, or the address of local memory that could not be read. -/
def State.captures (s : State) : List Nat → State × Except Nat (List (List Byte))
  | [] => (s, .ok [])
  | c :: cs =>
    match (s.core c).windowRead 0 captureBytes with
    | none => (s, .error (windowBase + c * 0x80000))
    | some (k, bs) =>
      match State.captures (s.setCore c k) cs with
      | (s, .ok rest) => (s, .ok (bs :: rest))
      | (s, .error a) => (s, .error a)

/-- The cause that refuses a capture buffer, with its address. -/
def State.captureBad (s : State) (a n : Nat) : Option (Nat × Nat) :=
  let ok := (s.target a == .ext || s.target a == .store) && decide (a + n ≤ s.targetEnd a)
  if !ok then some (0x30, a) else (s.firstOff a (a + n - 1)).map (fun x => (0x31, x))

/-- A violation of the graph engine for a task, which fails. -/
def State.geFails (s : State) (q t cause a : Nat) : State :=
  let die := s.hostDie q
  let v := (geViolation die cause a).ofTask (s.regionOf q) q t
  (s.violate (s.answerDie die cause a) { v with kind := 1 }).endTask q t .failed { exc := excFabric, cause := cause }

/-- The captures of a cut task written, and CUT_REACHED where the queue is not held. -/
def State.capture (s : State) (q t : Nat) (x : Task) : Option State :=
  let n := captureBytes * x.cores.length
  match s.captureBad x.info.cutCap n with
  | some (cause, a) => some (s.geFails q t cause a)
  | none =>
    if s.accessWaits x.info.cutCap n true then none
    else match s.captures x.cores with
      | (s, .error a) => some (s.geFails q t 0x35 a)
      | (s, .ok bss) =>
        let s := s.writeAll (bytesAt x.info.cutCap bss.flatten)
        let s := s.setTask q t { x with captured := true }
        some (if x.info.cutHold then s else s.cutReached q x.info.cutCap n t false)

/-- CUT_CAPTURE (R255). -/
def execCutCapture (q task : Nat) (s : State) : Out :=
  s.onTask q task (fun x =>
    if x.info.kind == .kernel && x.info.cut && x.status == .running && !x.captured
        && decide (x.done.length = x.cores.length) then s.capture q task x else none)

end Sys2Proof.Machine
end

