-- ==== Sys2Proof/Machine/Hasps.lean ====
section
/-! DEFINITION. Hasps and stream control of a core (R138 to R142, R206 to R209, R223). -/

namespace Sys2Proof.Machine

open Sys2Proof

/-- The stream context of a handle. -/
def Core.ctxOf (k : Core) (h : Fin 16) : Nat := (k.bindWord h.val 3).toNat

/-- Is a handle's stream inbound to the core (R138)? -/
def State.inbound (s : State) (c : Nat) (h : Fin 16) : Bool :=
  (s.ctx ((s.core c).ctxOf h)).inboundTo c

/-- A hasp with counts taken from, or added to, one of its counts. -/
def Hasp.take (x : Hasp) (k : HaspKind) (n : Nat) : Hasp :=
  match k with | .fill => { x with fill := x.fill - n } | .free => { x with free := x.free - n }
def Hasp.add (x : Hasp) (k : HaspKind) (n : Nat) : Hasp :=
  match k with | .fill => { x with fill := x.fill + n } | .free => { x with free := x.free + n }
def Hasp.count (x : Hasp) (k : HaspKind) : Nat := match k with | .fill => x.fill | .free => x.free

/-- The hasp that a core sees of a context: its own member's, or the source ring's (R206, R208). -/
def Ctx.haspOf (x : Ctx) (c : Nat) : Hasp :=
  if x.inboundTo c then x.hasp.getD (x.members.idxOf c) {} else x.srcHasp
def Ctx.setHaspOf (x : Ctx) (c : Nat) (f : Hasp → Hasp) : Ctx :=
  if x.inboundTo c then
    let i := x.members.idxOf c
    { x with hasp := x.hasp.set i (f (x.hasp.getD i {})) }
  else { x with srcHasp := f x.srcHasp }

/-- A context's hasp of a core changed. -/
def State.onHasp (s : State) (k c : Nat) (f : Hasp → Hasp) : State :=
  s.setCtx k ((s.ctx k).setHaspOf c f)

/-- `hwait` on the core (R138, R139). -/
def Core.hwait (k : Core) (now : Nat) (inb : Bool) (h : Fin 16) (kind : HaspKind) (cnt : Nat) : CoreRes :=
  k.issue .access now [] (fun t =>
    if !(k.haspOk h kind (waitKind inb) cnt) then k.raise .access excIllegal
    else if cnt ≤ (k.handle h).copy then (k.takeHasp h cnt).ok1 .access t 1 1 []
    else .held (k.setStream .access { k.acc with wait := .hasp h kind cnt }))

/-- `hwait` (R138 to R140): the counts are taken at the core and at the home die. -/
def execHwait (c : Nat) (h : Fin 16) (k : HaspKind) (cnt : Imm) (s : State) : Out :=
  if siteExists c then
    let x := s.core c
    let n := (x.imm cnt).toNat
    match s.clocked c (fun x => x.attempt .access (.hwait c h k cnt)
        (fun x => x.hwait s.aclk (s.inbound c h) h k n)) with
    | .ok t y => .next (((s.setCore c y).at_ t).onHasp (x.ctxOf h) c (fun z => z.take k n))
    | r => s.coreRes c r
  else .fault .noSuchUnit

/-- `hpost` on the core (R138, R139). -/
def Core.hpost (k : Core) (now : Nat) (inb : Bool) (h : Fin 16) (kind : HaspKind) (cnt : Nat) : CoreRes :=
  k.issue .access now [] (fun t =>
    if k.haspOk h kind (postKind inb) cnt && decide (cnt ≤ (k.handle h).held) then
      (k.giveHasp h cnt).ok1 .access t 1 1 []
    else k.raise .access excIllegal)

/-- `hpost` (R138, R139): the post goes to the home die. -/
def execHpost (c : Nat) (h : Fin 16) (k : HaspKind) (cnt : Imm) (s : State) : Out :=
  if siteExists c then
    let x := s.core c
    let n := (x.imm cnt).toNat
    match s.clocked c (fun x => x.attempt .access (.hpost c h k cnt)
        (fun x => x.hpost s.aclk (s.inbound c h) h k n)) with
    | .ok t y =>
      let s := (s.setCore c y).at_ t
      .next { s with store := { s.store with
        hposts := s.store.hposts ++ [{ ctx := x.ctxOf h, core := c, k := k, cnt := n }] } }
    | r => s.coreRes c r
  else .fault .noSuchUnit

/-- `hslot` (R139). -/
def execHslot (c : Nat) (d : Fin 32) (h : Fin 16) (idx : Imm) (s : State) : Out :=
  s.onInstr c .access (.hslot c d h idx) (fun k => k.hslot s.aclk d h idx)

/-- A stream cancelled (R141, R223): its staged bytes are discarded and its pages return. -/
def State.cancel (s : State) (n : Nat) : State :=
  let s := s.discard n ((s.ctx n).undelivered + (s.ctx n).aheadLen)
  let s := { s with store := { s.store with
    requests := s.store.requests.filter (fun r => match r.kind with | .piece c _ _ _ => c != n | _ => true)
    borrows := s.store.borrows.filter (fun b => b.ctx != n) } }
  s.setCtx n { (s.ctx n).dropAhead with
    cancelled := true, staged := [], portRing := [], portScales := [], gathered := [], borrowed := 0
    blocked := none }

/-- `scancel` (R141, R223). -/
def execScancel (c : Nat) (h : Fin 16) (s : State) : Out :=
  if siteExists c then
    let x := s.core c
    let r := s.clocked c (fun x => x.attempt .access (.scancel c h) (fun x => x.issue .access s.aclk [] (fun t =>
      if x.isHandle h then x.ok1 .access t 1 1 [] else x.raise .access excIllegal)))
    match r with
    | .ok t y => .next (((s.setCore c y).at_ t).cancel (x.ctxOf h))
    | r => s.coreRes c r
  else .fault .noSuchUnit

/-- `srearm` (R142, R222): a persistent stream's next base, replacing one that waits. A stream that is not
persistent with a base that is not aligned breaks two checks that the spec orders nowhere: ILLEGAL_OPERAND is
raised (DESIGN CHOICE, log 84). Where the stream already fetches its next pass ahead, the base is for the pass after that one:
the spec does not say which pass is then the next (DESIGN CHOICE, log 95). -/
def execSrearm (c : Nat) (h : Fin 16) (a : Fin 32) (s : State) : Out :=
  if siteExists c then
    let x := s.core c
    let n := x.ctxOf h
    let base := (x.reg .access a).toNat
    let r := s.clocked c (fun x => x.attempt .access (.srearm c h a) (fun x => x.issue .access s.aclk [a.val] (fun t =>
      if !(x.isHandle h) || !((s.ctx n).persist) then x.raise .access excIllegal
      else if base % 64 ≠ 0 then x.raise .access excMisaligned
      else x.ok1 .access t 1 1 [])))
    match r with
    | .ok t y =>
      let s := (s.setCore c y).at_ t
      .next (s.setCtx n { s.ctx n with nextBase := some base, rearmBy := (s.siteTask c).map (fun o => (o.1, o.2, s.graphEntry o.1)) })
    | r => s.coreRes c r
  else .fault .noSuchUnit

/-- The handles of a core that name a context. -/
def Core.handlesOf (k : Core) (n : Nat) : List (Fin 16) :=
  (List.ofFn (fun (h : Fin 16) => h)).filter (fun h => k.isHandle h && k.ctxOf h == n)

/-- The home die's count reaches the core's copy, and a wait that it satisfies completes (R139, R209). -/
def State.forward (s : State) (n c : Nat) (h : Fin 16) : State :=
  let k := s.core c
  let kind := waitKind (s.inbound c h)
  let k := k.setHandle h { k.handle h with copy := ((s.ctx n).haspOf c).count kind }
  match k.acc.wait with
  | .hasp h' kd cnt =>
    if h' = h ∧ cnt ≤ (k.handle h).copy then
      (s.setCore c ((k.takeHasp h cnt).done .access (max s.aclk k.acc.nextIssue) 1 1 [])).onHasp n c
        (fun z => z.take kd cnt)
    else s.setCore c k
  | _ => s.setCore c k

/-- A context's count forwarded to a core (R209); nothing in the gap of a switch of the home die's SCLK (R368). -/
def execHaspForward (ctx c : Nat) (s : State) : Out :=
  if siteExists c && decide (ctx < 16384) then
    s.happens (match (if s.inGap (16 + homeDie ctx) then [] else (s.core c).handlesOf ctx) with
      | [] => none
      | hs => some (hs.foldl (fun s h => s.forward ctx c h) s))
  else .fault .noSuchUnit

/-- The oldest `hpost` of a core for a context applied at the home die (R208, R209). -/
def execHpostApply (ctx c : Nat) (s : State) : Out :=
  if siteExists c && decide (ctx < 16384) then
    s.happens (if s.inGap (16 + homeDie ctx) then none
      else (s.store.hposts.find? (fun h => h.ctx == ctx && h.core == c)).map (fun h =>
        let s := { s with store := { s.store with hposts := s.store.hposts.erase h } }
        s.onHasp ctx c (fun z => z.add h.k h.cnt)))
  else .fault .noSuchUnit

end Sys2Proof.Machine
end

