-- ==== Sys2Proof/Machine/RegRead.lean ====
section
/-! DEFINITION. What each register reads (files 08, 11 to 19): reserved bits, and offsets of a block that hold no register, read zero (R440). -/

namespace Sys2Proof.Machine

open Sys2Proof

/-! Violation logs and event queues (R355, R416). -/

/-- Entry i of a violation log, word w (Table 8 of file 17). -/
def VlogEntry.word (v : VlogEntry) (w : Nat) : Nat :=
  if w = 0 then place 56 8 v.cause + place 48 8 v.origin + place 0 48 v.addr
  else if w = 1 then v.strike.toNat
  else if w = 2 then place 48 16 v.unit + place 40 8 v.kind + place 32 6 v.region + place 20 12 v.queue + place 0 20 v.task
  else 0

/-- A register of a violation log. -/
def Vlog.read (l : Vlog) (o : Nat) : Nat :=
  if o = 0 then l.sc.word + l.entries.length
  else if o = 8 then l.ovf.word.toNat
  else if 0x100 ≤ o then ((l.entries[(o - 0x100) / 32]?).map (fun v => v.word (o % 32 / 8))).getD 0
  else 0

/-- A register of an event queue. -/
def EventQueue.read (q : EventQueue) (o : Nat) : Nat :=
  if o = 0 then q.base
  else if o = 8 then
    place 63 1 (b2n q.enable) + place 32 16 q.moderation + place 16 11 q.eiid + place 8 5 q.hart + place 0 5 q.depth
  else if o = 0x10 then q.head.toNat
  else if o = 0x18 then q.tail.toNat
  else if o = 0x20 then q.sc.word
  else if o = 0x28 then q.lost.word.toNat
  else 0

/-! Submission queues and regions (R452, R455). -/

/-- STATE of SQ_STATUS. -/
def SqState.code : SqState → Nat
  | .disabled => 0 | .running => 1 | .cutHeld => 2 | .stopped => 3

/-- A register of a submission queue. -/
def Sq.read (x : Sq) (o : Nat) : Nat :=
  if o = 0 then x.base
  else if o = 8 then place 63 1 (b2n x.enable) + place 48 6 x.region + place 32 8 x.eq + place 0 5 x.depth
  else if o = 0x10 then place 32 32 x.tail + place 0 32 x.head
  else if o = 0x18 then x.sc.word + place 52 4 x.state.code
  else 0

/-- A register of a region. -/
def Region.read (r : Region) (o : Nat) : Nat :=
  if o = 0 then r.def_.toNat
  else if o = 8 then r.areaBase
  else if o = 0x10 then r.areaSize
  else if o = 0x18 then r.sc.word + place 52 4 r.host + place 8 8 r.cause
  else 0

/-! Store dies (R203, R457 to R459). -/

/-- STATE of a context. -/
def CtxState.code : CtxState → Nat
  | .idle => 0 | .armed => 1 | .active => 2 | .passEnd => 3

/-- The hasps that lie in a context: of the ring it fills, else of the one it empties where no stream fills that
(R206). -/
def State.ctxHasps (s : State) (c : Ctx) : List Hasp :=
  if c.state == .idle then []
  else if c.kind ≠ 2 then (if c.hasp.isEmpty then [{ free := c.snkSlots }] else c.hasp)
  else if c.srcEnd = 1 ∧ (s.filler c.src).isSome then []
  else [c.srcHasp]

/-- FILL as the record shows it: of members that hold different counts, a free value (log 31). -/
def State.shownFill (s : State) (c : Ctx) : Nat :=
  match s.ctxHasps c with
  | [] => 0
  | h :: hs => if hs.all (fun x => x.fill == h.fill) then h.fill else (Config.freeWord s.free).toNat % 2 ^ 16

/-- FREE as the record shows it: the smallest over the members (R208). -/
def State.shownFree (s : State) (c : Ctx) : Nat :=
  match s.ctxHasps c with
  | [] => 0
  | h :: hs => hs.foldl (fun m x => min m x.free) h.free

/-- The 128 bytes of a context's record (Table 2 of file 08). -/
def State.ctxRecord (s : State) (c : Ctx) : List Byte :=
  let live := c.state != .idle
  let pages := if live then c.floor + c.borrowed else 0
  padTo 0x48 c.image ++ [BitVec.ofNat 8 c.state.code, 0] ++ leBytes 2 (s.shownFill c) ++ leBytes 2 (s.shownFree c)
    ++ [0, 0] ++ leBytes 8 c.pos
    ++ leBytes 8 ((c.nextBase.map (fun b => place 63 1 1 + place 0 48 b)).getD 0)
    ++ leBytes 4 pages ++ leBytes 4 (if live then c.borrowed else 0) ++ leBytes 8 c.discarded.word.toNat
    ++ leBytes 8 ((c.owner.map (fun o => place 0 12 o.1 + place 12 20 o.2)).getD 0) ++ leBytes 8 0

/-- A register of store die number d. -/
def State.readStore (s : State) (d o : Nat) : Nat :=
  let x := s.store
  if o = 0x0F0000 then
    let c := Assoc.get {} x.cfg d
    place 40 24 c.stallwin + place 24 16 c.maxwait + place 8 16 c.xwait + place 0 6 x.pool
  else if o = 0x0F0010 then (Assoc.get {} x.sc d).word + place 24 24 (s.remainder d)
  else if o = 0x0F0100 then (Assoc.get {} x.discarded d).word.toNat
  else if o = 0x0F0108 then (Assoc.get {} x.stalls d).word.toNat
  else if 0x200000 ≤ o ∧ o < 0x210000 then (s.flag ((o - 0x200000) / 8 * 8 + d)).toNat
  else if 0x400000 ≤ o then
    leAt (s.ctxRecord (s.ctx ((o - 0x400000) / 128 * 8 + d))) (o % 128) 8
  else 0

/-! Compute, memory-port and link dies (R297, R301, R307, R336, R348, R451). -/

/-- A register of a compute die. -/
def State.readCompute (s : State) (d o : Nat) : Nat :=
  if o = 0x100000 then place 16 16 (s.geCfg d).placeWait + place 0 16 (s.geCfg d).ramp
  else if 0x200000 ≤ o then
    let m := s.rowMap (d * 32 + (o - 0x200000) / 8)
    place 32 32 m.failed.toNat + m.active.toNat
  else 0

/-- STATE of MEM_CHn. -/
def ChanState.code : ChanState → Nat
  | .active => 0 | .retiring => 1 | .retired => 2

/-- A register of memory-port die number m. -/
def State.readMem (s : State) (m o : Nat) : Nat :=
  let p := s.port_ m
  if o = 0x0F0000 then place 32 16 p.retireCe + place 0 8 p.scrubHours
  else if 0x100000 ≤ o then
    let n := (o - 0x100000) / 0x40
    let x := s.chan (16 * n + m)
    match o % 0x40 with
    | 0 => x.sc.word + place 52 4 x.state.code + place 40 6 (p.redirects.filter (fun r => r.chan == n)).length
    | 8 => x.ce.word.toNat
    | 16 => x.ue.word.toNat
    | 24 => x.migrated.word.toNat
    | _ => 0
  else 0

/-- A register of a port, at an offset of its block. -/
def Port.read (x : Port) (o : Nat) : Nat :=
  if o = 0 then place 4 4 x.minlanes + place 1 1 (b2n x.rreset) + b2n x.enable
  else if o = 8 then x.ringid.toNat
  else if o = 0x10 then
    x.sc.word + place 40 8 x.lanes.toNat + place 36 4 x.lanesUp + place 32 4 x.state.code
  else if o = 0x20 then x.sqBase
  else if o = 0x28 then x.sqCfg.toNat
  else if o = 0x30 then x.sqTail.toNat
  else if o = 0x38 then x.sqHead.toNat
  else if o = 0x40 then x.epoch.toNat
  else if 0x100 ≤ o ∧ o < 0x140 then (Assoc.get {} x.counters ((o - 0x100) / 8)).word.toNat
  else if 0x200 ≤ o ∧ o < 0x300 then
    let c := x.channel ((o - 0x200) / 16)
    if o % 16 = 0 then c.a.toNat else c.b.toNat
  else 0

/-! The helm die and the service die. -/

/-- A register of the helm die (R351, R353, R450). -/
def State.readHelm (s : State) (o : Nat) : Nat :=
  if o = 0 then s.boot.hostmem
  else if 0x100000 ≤ o ∧ o < 0x108000 then place 0 32 (s.sq ((o - 0x100000) / 8)).tail
  else if 0x200000 ≤ o ∧ o < 0x204000 then (s.eq ((o - 0x200000) / 0x40)).read (o % 0x40)
  else if 0x300000 ≤ o ∧ o < 0x340000 then (s.sq ((o - 0x300000) / 0x40)).read (o % 0x40)
  else if 0x400000 ≤ o then (s.region ((o - 0x400000) / 0x40)).read (o % 0x40)
  else 0

/-- A clock register (Tables 2 to 4 of file 15). -/
def State.readClock (s : State) (o : Nat) : Nat :=
  let c := s.clock
  if o < 0x200 then
    let k := o / 8
    let n := s.node k
    8 * b2n (s.locked k) + 2 * b2n n.srcReg + b2n n.gate
  else if o = 0x200 then c.sc.word + place 40 8 c.lastNode + place 32 4 c.reason
  else if o = 0x208 then place 15 1 (b2n c.monEn) + place 8 4 c.monDiv + place 0 6 c.monNode
  else 0

/-- RST_REACH (R374). -/
def State.rstReach (s : State) : Nat :=
  ((List.range 9).map (fun n => place (3 * n) 3 (s.reachOf n))).foldl (· + ·) 0

/-- MODE of PWR_CDd. -/
def PowerMode.code : PowerMode → Nat
  | .normal => 0 | .measTrusted => 1 | .estTrusted => 2

/-- PWR_CDd (Table 9 of file 16). -/
def State.pwrCd (s : State) (d : Nat) : Nat :=
  let x := s.diePower d
  ((List.range 5).map (fun g => place (36 + 4 * g) 4 (s.groupLevel d g - 1))).foldl (· + ·) 0
    + place 32 4 (x.c - 1) + place 30 2 x.mode.code + place 12 12 (x.meas / 16) + place 0 12 (x.meanEst / 16)

/-- A power register (Tables 4 to 9 of file 16). -/
def State.readPower (s : State) (o : Nat) : Nat :=
  let p := s.power
  if o = 0 then place 32 8 p.ttrip + place 24 8 p.tthrot + place 0 13 p.cap
  else if o = 8 then place 32 13 p.softcap + place 16 11 p.dstep
  else if o = 0x10 then p.sc.word + place 48 8 p.hotdie + place 40 8 p.tmax
  else if o = 0x18 then place 16 16 p.vin + place 0 16 (p.pin / 16)
  else if o = 0x20 then place 32 20 p.state.toNat + p.req.toNat
  else if 0x100 ≤ o ∧ o < 0x160 then s.pwrCd ((o - 0x100) / 8)
  else if 0x180 ≤ o then (s.diePower ((o - 0x180) / 8)).droops.word.toNat
  else 0

/-- STAGE of BOOT_STATUS. -/
def Stage.code : Stage → Nat
  | .rom => 0 | .recoveryWait => 1 | .svFw => 2 | .running => 3 | .failed => 4

/-- A boot or identity register (R438, Table 6 of file 18). -/
def State.readBoot (s : State) (o : Nat) : Nat :=
  let b := s.boot
  if o = 0 then
    b.sc.word + place 48 8 b.fuses.svnBurnt + place 40 8 ((b.image.map (fun i => i.svn)).getD 0)
      + place 36 4 b.stage.code + place 32 4 b.fail + place 4 1 ((b.image.map (fun i => i.root)).getD 0)
      + place 3 1 (b2n s.recoveryRuns)
  else if 0x100 ≤ o ∧ o < 0x140 then ofBe (slice b.pub (o - 0x100) 8)
  else if o = 0x200 then b.attAddr + b2n b.attDone
  else 0

/-- A word of the module log (R417). -/
def State.readMlog (s : State) (o : Nat) : Nat :=
  match s.logs.mlog.find? (fun e => e.1 == o / 64) with
  | some (_, r) => leAt (r.bytes 0) (o % 64) 8
  | none => 0

/-- A register of the service die. -/
def State.readService (s : State) (o : Nat) : Nat :=
  if 0x300000 ≤ o ∧ o < 0x300210 then s.readClock (o - 0x300000)
  else if o = 0x310008 then s.rstLast
  else if o = 0x310010 then s.rstReach
  else if 0x320000 ≤ o ∧ o < 0x3201E0 then s.readPower (o - 0x320000)
  else if o = 0x330000 then s.logs.mcount.word.toNat
  else if 0x340000 ≤ o ∧ o < 0x340210 then s.readBoot (o - 0x340000)
  else if 0x380000 ≤ o then s.readMlog (o - 0x380000)
  else 0

/-- The register at an offset of a die's register space (R450). -/
def State.readReg (s : State) (d o : Nat) : Nat :=
  if 0x0E0000 ≤ o ∧ o < 0x0E0300 then (s.vlog d).read (o - 0x0E0000)
  else if d < 12 then s.readCompute d o
  else if d < 24 then s.readStore (d - 16) o
  else if d < 48 then s.readMem (d - 32) o
  else if d < 50 then (s.lport (4 * (d - 48) + (o - 0x100000) / 0x1000)).read (o % 0x1000)
  else if d = 56 then s.readHelm o
  else s.readService o

end Sys2Proof.Machine
end

