-- ==== Sys2Proof/Machine/Registers.lean ====
section
/-! DEFINITION. Writes to registers, write-backs, and fabric accesses (R252, R439 to R443, R446, R451 to R456). -/

namespace Sys2Proof.Machine

open Sys2Proof

/-! Write-back (R416, R446). -/

/-- A write-back of a violation log: the entries present at the read go, and OVF. -/
def Vlog.writeBack (l : Vlog) (w : BitVec 8) : Vlog :=
  { l with
    entries := l.entries.filter (fun e => !(Sc.clears l.sc.seq w e.tag))
    sc := l.sc.writeBack w }

/-- A violation log replaced. -/
def State.setVlog (s : State) (d : Nat) (l : Vlog) : State :=
  { s with logs := { s.logs with vlogs := Assoc.set s.logs.vlogs d l } }

/-- A region replaced. -/
def State.setRegion (s : State) (r : Nat) (x : Region) : State :=
  { s with ge := { s.ge with regions := Assoc.set s.ge.regions r x } }

/-- A write-back on the helm die. -/
def State.clearHelm (s : State) (o : Nat) (w : BitVec 8) : State :=
  if 0x200000 ≤ o ∧ o < 0x204000 ∧ o % 0x40 = 0x20 then
    let e := (o - 0x200000) / 0x40
    s.setEq e { s.eq e with sc := (s.eq e).sc.writeBack w }
  else if 0x300000 ≤ o ∧ o < 0x340000 ∧ o % 0x40 = 0x18 then
    let q := (o - 0x300000) / 0x40
    s.setSq q { s.sq q with sc := (s.sq q).sc.writeBack w }
  else if 0x400000 ≤ o ∧ o % 0x40 = 0x18 then
    let r := (o - 0x400000) / 0x40
    s.setRegion r { s.region r with sc := (s.region r).sc.writeBack w }
  else s

/-- A write-back on the service die. -/
def State.clearService (s : State) (o : Nat) (w : BitVec 8) : State :=
  if o = 0x300200 then { s with clock := { s.clock with sc := s.clock.sc.writeBack w } }
  else if o = 0x320010 then { s with power := { s.power with sc := s.power.sc.writeBack w } }
  else if o = 0x340000 then { s with boot := { s.boot with sc := s.boot.sc.writeBack w } }
  else s

/-- A write-back of SEQ to the status register at an offset of a die; a register without SC fields is not
changed. -/
def State.clearReg (s : State) (d o : Nat) (v : Word) : State :=
  let w : BitVec 8 := BitVec.ofNat 8 (bits v 56 8)
  if o = 0x0E0000 then s.setVlog d ((s.vlog d).writeBack w)
  else if 16 ≤ d ∧ d < 24 ∧ o = 0x0F0010 then
    { s with store := { s.store with
        sc := Assoc.set s.store.sc (d - 16) ((Assoc.get {} s.store.sc (d - 16)).writeBack w) } }
  else if 32 ≤ d ∧ d < 48 ∧ 0x100000 ≤ o ∧ o % 0x40 = 0 then
    let c := 16 * ((o - 0x100000) / 0x40) + (d - 32)
    s.setChan c { s.chan c with sc := (s.chan c).sc.writeBack w }
  else if (d = 48 ∨ d = 49) ∧ 0x100000 ≤ o ∧ o % 0x1000 = 0x10 then
    let p := 4 * (d - 48) + (o - 0x100000) / 0x1000
    s.setLport p { s.lport p with sc := (s.lport p).sc.writeBack w }
  else if d = 56 then s.clearHelm o w
  else if d = 60 then s.clearService o w
  else s

/-! Submission queues (R252 to R254, R453, R454). -/

/-- Is a queue of a region busy (R252)? -/
def State.regionBusy (s : State) (r : Nat) : Bool := (s.queuesOf r).any (fun q => (s.sq q).busy)

/-- The address of a register of a submission queue. -/
def sqAddr (q off : Nat) : Nat := regAddr 56 (0x300000 + 0x40 * q + off)

/-- The fields of SQ_CFG. -/
def Sq.withCfg (x : Sq) (v : Word) : Sq :=
  { x with enable := bit v 63, region := bits v 48 6, eq := bits v 32 8, depth := bits v 0 5 }

/-- A queue as setting ENABLE leaves it: entry numbers, head and tail at 0. -/
def Sq.started (x : Sq) : Sq :=
  { base := x.base, enable := true, region := x.region, eq := x.eq, depth := x.depth, state := .running, sc := x.sc }

/-- May a queue be enabled (R453)? -/
def State.mayEnable (s : State) (x : Sq) : Bool :=
  !(s.regionBusy x.region) && (s.region x.region).valid && decide (x.base + 64 * 2 ^ x.depth ≤ s.hostBytes)

/-- A write to SQ_CFG (R453). -/
def State.putSqCfg (s : State) (o : Origin) (q : Nat) (v : Word) : State :=
  let x := s.sq q
  let n := x.withCfg v
  if 16 < n.depth then s.refuseWrite o (sqAddr q 8) v
  else if x.enable then
    if n.enable then s
    else if x.busy then s.refuseWrite o (sqAddr q 8) v
    else s.setSq q { n with state := .disabled }
  else if n.enable then
    if s.mayEnable n then s.setSq q n.started else s.refuseWrite o (sqAddr q 8) v
  else s.setSq q n

/-- SQ_CFG written. -/
def execSqCfg (o : Origin) (q : Nat) (v : BitVec 64) (s : State) : Out :=
  if decide (q < 4096) then .next (s.onWrite o (sqAddr q 8) (fun s => s.putSqCfg o q v)) else .fault .noSuchUnit

/-- A write to SQ_CTL: RESUME of a queue that is held or stopped (R454). -/
def State.putSqCtl (s : State) (o : Origin) (q : Nat) (v : Word) : State :=
  let x := s.sq q
  if v >>> 1 ≠ 0 then s.refuseWrite o (sqAddr q 0x20) v
  else if bit v 0 && (x.state == .cutHeld || x.state == .stopped) then
    (s.setSq q { x with state := .running }).takeEntries q
  else s

/-- SQ_CTL written. -/
def execResume (o : Origin) (q : Nat) (v : BitVec 64) (s : State) : Out :=
  if decide (q < 4096) then .next (s.onWrite o (sqAddr q 0x20) (fun s => s.putSqCtl o q v)) else .fault .noSuchUnit

/-- A write to SQ_BASE: ignored while ENABLE is 1. -/
def State.putSqBase (s : State) (q : Nat) (v : Word) : State :=
  let x := s.sq q
  if x.enable then s else s.setSq q { x with base := bits v 12 36 * 4096 }

/-! Regions (R252, R455, R456). -/

/-- The address of a register of a region. -/
def regionAddr (r off : Nat) : Nat := regAddr 56 (0x400000 + 0x40 * r + off)

/-- The RW bits of REG_DEF, and those other than EQ. -/
def defMask : Word := 0xC000FF1F1F0F0FFF
def defRest : Word := 0xC000001F1F0F0FFF

/-- Are the fields of a REG_DEF in range, and those that its KIND does not use zero? -/
def defOk (v : Word) : Bool :=
  let y1 := bits v 32 5
  let y0 := bits v 24 5
  let die := bits v 16 4
  let dies := bits v 0 12
  if bit v 62 then y1 == 0 && y0 == 0 && die == 0 && dies != 0
  else decide (y1 ≤ 29 ∧ y0 ≤ y1 ∧ die ≤ 11) && dies == 0

/-- Do two regions overlap: do they hold a row in common? -/
def regionsMeet (a b : Region) : Bool :=
  (List.range 12).any (fun d => (List.range 30).any (fun y => a.holds d y && b.holds d y))

/-- Is a new definition of a region refused? -/
def State.defRefused (s : State) (r : Nat) (v : Word) : Bool :=
  let x := s.region r
  let n : Region := { def_ := v }
  !(defOk v)
    || (List.range 64).any (fun k => k != r && regionsMeet n (s.region k))
    || ((v &&& defRest) != (x.def_ &&& defRest) && s.regionBusy r)

/-- A write to the block of a region refused: REFUSED is set, and the refusal recorded. -/
def State.regionRefused (s : State) (o : Origin) (r off : Nat) (v : Word) : State :=
  let x := s.region r
  (s.setRegion r { x with sc := x.sc.event 0 }).refuseWrite o (regionAddr r off) v

/-- The compute die that holds the context of a region as it is defined: its lowest-numbered die, of those that are
not locked out where there is one (R251, R412). -/
def State.hostOf (s : State) (x : Region) : Nat :=
  match x.dies.filter (fun d => !(s.grid.diesOut.contains d)) with
  | d :: _ => d
  | [] => x.dies.headD 0

/-- A write to REG_DEF; one that changes only EQ leaves the context where it is. -/
def State.putRegDef (s : State) (o : Origin) (r : Nat) (v : Word) : State :=
  let x := s.region r
  let w := v &&& defMask
  if s.defRefused r w then s.regionRefused o r 0 v
  else if (w &&& defRest) = (x.def_ &&& defRest) then s.setRegion r { x with def_ := w }
  else s.setRegion r { x with def_ := w, host := s.hostOf { x with def_ := w } }

/-- REG_DEF written. -/
def execRegDef (o : Origin) (r : Nat) (v : BitVec 64) (s : State) : Out :=
  if decide (r < 64) then .next (s.onWrite o (regionAddr r 0) (fun s => s.putRegDef o r v)) else .fault .noSuchUnit

/-- Has a queue of a region a graph loaded? -/
def State.graphLoaded (s : State) (r : Nat) : Bool := (s.queuesOf r).any (fun q => (s.sq q).graph.isSome)

/-- Does a recovery area lie wholly in the central store and outside the pool? One of size 0 does. -/
def State.areaOk (s : State) (base size : Nat) : Bool :=
  size == 0 || decide (storeBase ≤ base ∧ base + size * 4096 ≤ s.poolStart)

/-- A recovery area replaced, or refused (R456). -/
def State.putArea (s : State) (o : Origin) (r off : Nat) (v : Word) (base size : Nat) : State :=
  if s.graphLoaded r || !(s.areaOk base size) then s.regionRefused o r off v
  else s.setRegion r { s.region r with areaBase := base, areaSize := size }

/-- A write to REG_AREA_BASE, and to REG_AREA_SIZE. -/
def State.putAreaBase (s : State) (o : Origin) (r : Nat) (v : Word) : State :=
  s.putArea o r 8 v (bits v 12 36 * 4096) (s.region r).areaSize
def State.putAreaSize (s : State) (o : Origin) (r : Nat) (v : Word) : State :=
  s.putArea o r 0x10 v (s.region r).areaBase (bits v 0 32)

/-- REG_AREA_BASE written. -/
def execRegAreaBase (o : Origin) (r : Nat) (v : BitVec 64) (s : State) : Out :=
  if decide (r < 64) then .next (s.onWrite o (regionAddr r 8) (fun s => s.putAreaBase o r v)) else .fault .noSuchUnit

/-- REG_AREA_SIZE written. -/
def execRegAreaSize (o : Origin) (r : Nat) (v : BitVec 64) (s : State) : Out :=
  if decide (r < 64) then .next (s.onWrite o (regionAddr r 0x10) (fun s => s.putAreaSize o r v))
  else .fault .noSuchUnit

/-! Writes by block (R441, R443, R450). -/

/-- A write to a register of store die number d. -/
def State.writeStore (s : State) (o : Origin) (d off : Nat) (v : Word) : State :=
  if off = 0x0F0000 then s.putStoreCfg o d v else s.clearReg (16 + d) off v

/-- A write to a register of a memory-port die: MEM_CFG (Table 5 of file 13). -/
def State.writeMem (s : State) (m off : Nat) (v : Word) : State :=
  if off = 0x0F0000 then s.setPort_ m { s.port_ m with retireCe := bits v 32 16, scrubHours := bits v 0 8 }
  else s.clearReg (32 + m) off v

/-- A write to a register of a port. -/
def State.writePort (s : State) (o : Origin) (p off : Nat) (v : Word) : State :=
  let x := s.lport p
  if off = 0 then s.putPortCtl p v
  else if off = 8 then
    (match o with
     | .operator => s.setLport p { x with ringid := v, ringCopy := v }
     | _ => s)
  else if off = 0x20 then
    if v.toNat % 64 = 0 then s.setLport p { x with sqBase := v.toNat } else s.refuseWrite o (portAddr p 0x20) v
  else if off = 0x28 then s.setLport p { x with sqCfg := v &&& 0xFF0F }
  else if off = 0x30 then s.setLport p { x with sqTail := v }
  else if 0x200 ≤ off ∧ off < 0x300 then
    (if off % 16 = 0 then s.putXcha p ((off - 0x200) / 16) v else s.putXchb p ((off - 0x200) / 16) v)
  else s.clearReg (linkDie p) (0x100000 + p % 4 * 0x1000 + off) v

/-- A write to EQ_BASE: ignored while ENABLE is 1 (R356). -/
def State.putEqBase (s : State) (e : Nat) (v : Word) : State :=
  let q := s.eq e
  if q.enable then s else s.setEq e { q with base := bits v 12 36 * 4096 }

/-- A write to a register of the helm die. -/
def State.writeHelm (s : State) (o : Origin) (off : Nat) (v : Word) : State :=
  if 0x100000 ≤ off ∧ off < 0x108000 then s.putSqDb o ((off - 0x100000) / 8) v
  else if 0x200000 ≤ off ∧ off < 0x204000 then
    let e := (off - 0x200000) / 0x40
    match off % 0x40 with
    | 0 => s.putEqBase e v
    | 8 => s.putEqCfg o e v
    | 16 => s.setEq e ((s.eq e).putHead v)
    | _ => s.clearReg 56 off v
  else if 0x300000 ≤ off ∧ off < 0x340000 then
    let q := (off - 0x300000) / 0x40
    match off % 0x40 with
    | 0 => s.putSqBase q v
    | 8 => s.putSqCfg o q v
    | 32 => s.putSqCtl o q v
    | _ => s.clearReg 56 off v
  else if 0x400000 ≤ off then
    let r := (off - 0x400000) / 0x40
    match off % 0x40 with
    | 0 => s.putRegDef o r v
    | 8 => s.putAreaBase o r v
    | 16 => s.putAreaSize o r v
    | _ => s.clearReg 56 off v
  else s

/-- A write to PWR_CFG (Table 5 of file 16). -/
def State.putPwrCfg (s : State) (o : Origin) (v : Word) : State :=
  let cap := bits v 32 13
  if (cap = 0 ∨ (1000 ≤ cap ∧ cap ≤ 7800)) ∧ bits v 16 11 ≤ 1600 then
    { s with power := { s.power with softcap := cap, dstep := bits v 16 11 } }
  else s.refuseWrite o (regAddr 60 0x320008) v

/-- A write to a register of the service die: PWR_CAP takes writes of the operator only (R361, R398). -/
def State.writeService (s : State) (o : Origin) (off : Nat) (v : Word) : State :=
  if 0x300000 ≤ off ∧ off < 0x300200 then s.putNode o ((off - 0x300000) / 8) v
  else if off = 0x300208 then s.putClkmon o v
  else if off = 0x310000 then s.putRstReq o v
  else if off = 0x320000 then
    (match o with
     | .operator => s.putPwrCap v
     | _ => s)
  else if off = 0x320008 then s.putPwrCfg o v
  else if off = 0x320020 then s.putPwrDom o v
  else if off = 0x340200 then s.putAttCtl v
  else if off = 0x340208 then s.putAttExtend o v
  else s.clearReg 60 off v

/-- A write to a register of a compute die: GE_CFG; row maps ignore writes (R336, R451). -/
def State.writeCompute (s : State) (d off : Nat) (v : Word) : State :=
  if off = 0x100000 then
    { s with ge := { s.ge with cfg := Assoc.put {} s.ge.cfg d { placeWait := bits v 16 16, ramp := bits v 0 16 } } }
  else s.clearReg d off v

/-- A write to the register at an offset of a die's register space; a read-only register ignores it. -/
def State.writeReg (s : State) (o : Origin) (d off : Nat) (v : Word) : State :=
  if d < 12 then s.writeCompute d off v
  else if d < 24 then s.writeStore o (d - 16) off v
  else if d < 48 then s.writeMem (d - 32) off v
  else if d < 50 then
    if 0x100000 ≤ off then s.writePort o (4 * (d - 48) + (off - 0x100000) / 0x1000) (off % 0x1000) v
    else s.clearReg d off v
  else if d = 56 then (if off < 0x100000 then s.clearReg d off v else s.writeHelm o off v)
  else s.writeService o off v

/-- Does an address lie in register space? -/
def inRegSpace (a : Nat) : Bool := decide (regBase ≤ a ∧ a < regBase + 64 * 2 ^ 32)

/-- What a write to a register does, by its address. -/
def State.putReg (s : State) (o : Origin) (a : Nat) (v : Word) : State :=
  match s.target a with
  | .reg d off => s.writeReg o d off v
  | _ => s

/-- REGISTER_WRITE (R443). -/
def execRegisterWrite (o : Origin) (addr : Nat) (v : BitVec 64) (s : State) : Out :=
  if inRegSpace addr then .next (s.onHostWrite o addr v (fun s => s.putReg o addr v)) else .fault .noSuchUnit

/-- What a write-back does, by its address. -/
def State.putBack (s : State) (a : Nat) (v : Word) : State :=
  match s.target a with
  | .reg d off => s.clearReg d off v
  | _ => s

/-- WRITE_BACK (R446). -/
def execWriteBack (o : Origin) (addr : Nat) (v : BitVec 64) (s : State) : Out :=
  if inRegSpace addr then .next (s.onWrite o addr (fun s => s.putBack addr v)) else .fault .noSuchUnit

/-- REG_LOCK of the operator (R442). -/
def execRegLock (idx : Nat) (s : State) : Out :=
  if dieExists idx then
    s.managed (({ s with resets := { s.resets with
      locks := if s.resets.locks.contains idx then s.resets.locks else s.resets.locks ++ [idx] } } : State).answer .ok)
  else .fault .noSuchUnit

/-! Fabric accesses (R335, R341, R415, R439, R472). -/

/-- Does an originator exist? -/
def originExists : Origin → Bool
  | .core c => siteExists c
  | _ => true

/-- A register read or written by an access of a size. -/
def State.accessReg (s : State) (o : Origin) (a n : Nat) (data : Option (List Byte)) : State :=
  s.endpoint o a data.isSome
    (if s.dieWaits a then s.respond .waits
     else match s.accessCause o .plain a n data.isSome, data, s.target a with
      | some e, d, _ => s.refuse o e a n d.isSome
      | none, none, .reg d off => (s.useFree 1).respond (.data (leBytes 8 (s.readReg d off)))
      | none, some bs, _ =>
        let v := BitVec.ofNat 64 (ofLe bs)
        if s.attWaits a v then s.respond .waits else (s.putReg o a v).respond .done
      | none, none, _ => s)

/-- The attributes of physical memory that the helm die's harts see (R350). -/
inductive MemAttribute where
  /-- main memory, cacheable and coherent -/
  | coherent
  /-- main memory, cacheable and not coherent with accesses on the fabric -/
  | incoherent
  /-- input and output, uncacheable and strongly ordered -/
  | io
  deriving DecidableEq, Repr

/-- The fixed attributes of an address of a hart, which is a fabric address (R349, R350): host memory, job memory and the
central store, register space; none for a core window, which R350 does not name, and where nothing is mapped. -/
def State.attribute (s : State) (a : Nat) : Option MemAttribute :=
  match s.target a with
  | .ext => some (if a < s.hostBytes then .coherent else .incoherent)
  | .store => some .incoherent
  | .reg _ _ => some .io
  | .window _ _ | .none => none

/-- The bytes that a front-end port has read are a frame of 1 to 9,216 bytes on its wire, where a cable is present (R362,
R464). A longer read, or one without a cable, moves no frame. Which of its reads are descriptors is the operating
environment's affair, so that every read is a frame is a DESIGN CHOICE (log 95). -/
def State.transmit (s : State) (o : Origin) : State :=
  match o, s.out.resp with
  | .frontEnd k, some (.data bs) =>
    if s.cabled (8 + k.val) && decide (0 < bs.length ∧ bs.length ≤ 9216) then
      ({ s with out := { s.out with frame := some (k, bs) } } : State).stampFrame k else s
  | _, _ => s

/-- A fabric access of n bytes: the operator has none outside register space (R31). An access that nothing refuses or
holds takes its turn at its store die; until that comes it is answered waits, and its sender repeats it (log 20). -/
def State.fabric (s : State) (o : Origin) (a n : Nat) (data : Option (List Byte)) : State :=
  if inRegSpace a then s.accessReg o a n data
  else if o == .operator then s.answer .refused
  else
    let bad := (s.accessCause o .plain a n data.isSome).isSome && !(s.dieWaits a)
    let s := if bad then s.dropAccesses (fun x b m => x == o && b == a && m == n) else s
    let held := bad || s.dieWaits a || s.accessWaits a n data.isSome
    match (if held then (s, true) else s.accessTurn o a n), data with
    | (s, false), _ => s.respond .waits
    | (s, true), none => (s.readAccess o .plain a n).transmit o
    | (s, true), some bs => s.writeAccess o .plain a bs

/-- FABRIC_ACCESS (R341): a read of len bytes, or a write of the bytes given. -/
def execFabricAccess (o : Origin) (addr len : Nat) (data : Option (List (BitVec 8))) (s : State) : Out :=
  if originExists o then
    let n := (data.map List.length).getD len
    s.happens (if 0 < n then some (s.fabric o addr n data) else none)
  else .fault .noSuchUnit

end Sys2Proof.Machine
end

