-- ==== Sys2Proof/Machine/Interfaces.lean ====
section
/-! DEFINITION. Connectors, the management endpoint and the test port (R461 to R468). -/

namespace Sys2Proof.Machine

open Sys2Proof

/-- The number of a connector: 0 to 7 for the torus ports, 8 and 9 for FE0 and FE1. -/
def connectorNo : Connector → Nat
  | .torus p => p.val
  | .frontEnd n => 8 + n.val

/-- The die of a connector's port. -/
def connectorDie (k : Nat) : Nat := if k < 8 then linkDie k else 56

/-- CBL_PWR: is the 3.3 V supply of a connector's cable on? It is while a cable is present and the port's die is on
(R463). -/
def State.cablePowered (s : State) (k : Nat) : Bool := s.pins.cables.contains k && s.dieOn (connectorDie k)

/-- A torus port that trains while its cable comes or goes: its lanes are tried from then on, or none is driven (R280, R464). -/
def State.cableMoved (s : State) (k : Nat) (present : Bool) : State :=
  if k < 8 ∧ (s.lport k).state = .training ∧ !(s.lport k).retrain then
    s.setLport k { s.lport k with lanes := if present then 0xFF else 0 }
  else s

/-- CBL_PRSNT_N, at a level: low means present (R463). -/
def execCblPrsntN (x : Connector) (level : Bool) (s : State) : Out :=
  let k := connectorNo x
  let rest := s.pins.cables.filter (· != k)
  .next (({ s with pins := { s.pins with cables := if level then rest else rest ++ [k] } } : State).cableMoved k (!level))

/-- ALERT_N: driven low, true, while STAGE is RECOVERY_WAIT or FAILED, and at no other time (R422, R428, R429, R467). -/
def State.alertLow (s : State) : Bool := s.boot.stage == .recoveryWait || s.boot.stage == .failed

/-- PWR_GOOD: driven high by the input stage while its 12 V bus is within 5 % (R384). The bus follows the input (DESIGN
CHOICE, log 88). -/
def State.pwrGood (s : State) : Bool := s.power.input == .good

/-- Is a single-ended pin of a die an input with a weak pull-up: the die is in reset, or its firmware has not been loaded
and so has not configured it (R383)? This is no statement about the pins that mgmtPin gives. -/
def State.pinsFloat (s : State) (d : Nat) : Bool :=
  s.dieInReset d || (if d = 60 then !s.boot.keys else !((Assoc.keys s.boot.loaded).contains d))

/-- The signals of the management connector that carry a level (Table 2 of file 20). -/
inductive MgmtPin where
  | resetN
  | pwrGood
  | alertN
  | mgmtScl
  | mgmtSda
  | clkmon
  | modId (n : Fin 4)
  | tck
  | tms
  | tdi
  | trstN
  | tdo
  | prsntN
  deriving DecidableEq, Repr

/-- The signals of a cable's sideband that the module drives (Table 3 of file 20). -/
inductive CablePin where
  | pwr
  | scl
  | sda
  deriving DecidableEq, Repr

/-- A pin that a die drives on a connector. -/
inductive DrivenPin where
  | mgmt (p : MgmtPin)
  | lane (connector lane : Nat)
  | cable (connector : Nat) (name : CablePin)
  deriving DecidableEq, Repr

/-- The pins that the boundary chain covers, in order from TDI: those that SV, HD, LD0 and LD1 drive on the connectors
(R460, R462, R463, R468). The order within a die is open: the model takes that of the tables (DESIGN CHOICE, log 91). -/
def boundaryChain : List DrivenPin :=
  let port := fun (k lanes : Nat) =>
    (List.range lanes).map (DrivenPin.lane k) ++ [CablePin.pwr, .scl, .sda].map (DrivenPin.cable k)
  [MgmtPin.alertN, .mgmtScl, .mgmtSda, .clkmon].map DrivenPin.mgmt
    ++ [8, 9].flatMap (fun k => port k 4) ++ (List.range 8).flatMap (fun k => port k 8)

/-- What the boundary register drives on a pin of the chain: the level of its cell, while the TAP holds EXTEST (R468). -/
def State.cellOf (s : State) (p : DrivenPin) : Option PinLevel :=
  if s.pins.tap == .extest && boundaryChain.contains p then
    some (if bit s.pins.boundary (boundaryChain.idxOf p) then .high else .low)
  else none

/-- What the module drives on a signal of the management connector outside a transfer (R383, R462, R467, R468): under EXTEST
the boundary register's cell; else TDO is high impedance with a weak pull-up, PRSNT_N is tied to ground, ALERT_N is released
or low. -/
def State.mgmtPin (s : State) (p : MgmtPin) : PinLevel :=
  match s.cellOf (.mgmt p) with
  | some l => l
  | none =>
    match p with
    | .pwrGood => if s.pwrGood then .high else .low
    | .alertN => if s.alertLow then .low else .pullUp
    | .clkmon => s.clkmonPin
    | .prsntN => .low
    | _ => .pullUp

/-- CBL_PWR as driven: by the boundary register under EXTEST, else on while the cable has its supply (R463, R468). -/
def State.cablePwr (s : State) (k : Nat) : PinLevel :=
  match s.cellOf (.cable k .pwr) with
  | some l => l
  | none => if s.cablePowered k then .high else .low

/-- Do the lanes of a connector's port hold electrical idle with their receivers terminated: no cable is present, whatever
ENABLE holds (R464), the die is off or in reset (R383), or a torus port is DISABLED? Under EXTEST the boundary register drives
them (R468). -/
def State.lanesIdle (s : State) (k : Nat) : Bool :=
  s.pins.tap != .extest && (!(s.pins.cables.contains k) || !(s.dieOn (connectorDie k)) || s.dieInReset (connectorDie k)
    || (decide (k < 8) && (s.lport k).state == .disabled))

/-- The management endpoint's static address, from the straps as sampled at the end of the supply phase (R465), and the one
it answers at (R466). -/
def State.staticAddress (s : State) : BitVec 7 := 0x40 + s.pins.modId.setWidth 7
def State.endpointAddress (s : State) : BitVec 7 := s.pins.i3c.getD s.staticAddress

/-- The endpoint in another mode: a command in progress, which can only be an image half delivered by FW_RECOVER, is
abandoned (R429, R466). An address assigned anew in I3C mode changes no mode. -/
def State.i3cMode (s : State) (m : Option (BitVec 7)) : State :=
  { s with
    pins := { s.pins with i3c := m }
    boot := if s.pins.i3c.isSome == m.isSome then s.boot else { s.boot with recovery := [] } }

/-- DYNAMIC_ADDRESS: SETDASA or ENTDAA moves the endpoint into I3C mode (R466). -/
def execDynamicAddress (a : Fin 128) (s : State) : Out :=
  .next (if s.svUp && s.clock.porEnded then s.i3cMode (some (BitVec.ofNat 7 a.val)) else s)

/-- RSTDAA: back to SMBus mode (R466). -/
def execRstdaa (s : State) : Out := .next (if s.svUp then s.i3cMode none else s)

/-- What IDCODE reads (R468): version 1, part 0x4006, manufacturer code 0x2D5. -/
def tapIdcode : BitVec 32 := (1 : BitVec 4) ++ (0x4006 : BitVec 16) ++ (0x2D5 : BitVec 11) ++ (1 : BitVec 1)

/-- What the TAP's data register captures: the identity, or the bypass bit; SAMPLE and EXTEST capture the pins of the chain in
the boundary register, so that this gives no number for them. -/
def TapInstr.captured : TapInstr → Option (BitVec 32)
  | .idcode => some tapIdcode
  | .bypass => some 0
  | .sample | .extest => none

/-- Does PWR_DOM.STATE show SV alone on? -/
def State.svAlone (s : State) : Bool := s.power.state == 0x80000

/-- EXTEST loaded: the pins of the chain carry what the cells hold. No command of the block shifts or preloads the cells, so
that what they hold is a free value (log 91). -/
def State.loadExtest (s : State) : State :=
  let cells := (Config.freeWord s.free ++ Config.freeWord (s.free + 1)).setWidth 106
  ({ s with pins := { s.pins with tap := .extest, boundary := cells } } : State).useFree 2

/-- EXTEST, loaded into the TAP where SV alone is on; BYPASS otherwise (R468). While TRST_N is low the TAP is held
in reset. -/
def execExtest (s : State) : Out :=
  s.happens (if s.pins.trstN then
    some (if s.svAlone then s.loadExtest else { s with pins := { s.pins with tap := .bypass } }) else none)

/-- TRST_N at a level: low resets the TAP, which then holds IDCODE (R462, R468; PRESUMED from IEEE 1149.1, log 91). -/
def execTrstN (level : Bool) (s : State) : Out :=
  .next { s with pins := { s.pins with trstN := level, tap := if level then s.pins.tap else .idcode } }

end Sys2Proof.Machine
end

