-- ==== Sys2Proof/Machine/LocalMem.lean ====
section
/-! DEFINITION. Local memory, data queues and address streams (R97, R101 to R103, R130 to R133, R149, R150). -/

namespace Sys2Proof.Machine

open Sys2Proof

/-- `ld.b` to `ld.d` (R97, R130). -/
def execLd (c : Nat) (size : Fin 4) (d b : Fin 32) (imm : Imm) (s : State) : Out :=
  s.onInstr c .access (.ld c size d b imm) (fun k => k.load s.aclk size.val false d b imm)

/-- `ld.bs` to `ld.ws` (R97, R130). -/
def execLdSigned (c : Nat) (size : Fin 3) (d b : Fin 32) (imm : Imm) (s : State) : Out :=
  s.onInstr c .access (.ldSigned c size d b imm) (fun k => k.load s.aclk size.val true d b imm)

/-- `st.b` to `st.d` (R97, R130). -/
def execSt (c : Nat) (size : Fin 4) (a b : Fin 32) (imm : Imm) (s : State) : Out :=
  s.onInstr c .access (.st c size a b imm) (fun k => k.store s.aclk size.val a b imm)

/-- `ldq` (R101, R130). -/
def execLdq (c : Nat) (q : Fin 4) (b : Fin 32) (imm lines : Imm) (s : State) : Out :=
  s.onInstr c .access (.ldq c q b imm lines) (fun k => k.loadQueue s.aclk q b imm lines)

/-- `pushq` of either stream (R101, R102, R130, R149). -/
def execPushq (c : Nat) (u : UnitId) (q : Fin 4) (x : Src) (s : State) : Out :=
  s.onInstr c u (.pushq c u q x) (fun k =>
    if srcOk u x then k.push u s.aclk q (srcRegs x) [scalarEntry (k.src u x)] else .refuse)

/-- `popq` of either stream (R101, R130, R149). -/
def execPopq (c : Nat) (u : UnitId) (d : Fin 32) (q : Fin 4) (s : State) : Out :=
  s.onInstr c u (.popq c u d q) (fun k => if regOk u d then k.pop u s.aclk q [d.val] (.popReg d q) else .refuse)

/-- `popq.drop` of either stream (R130, R149). -/
def execPopqDrop (c : Nat) (u : UnitId) (q : Fin 4) (s : State) : Out :=
  s.onInstr c u (.popqDrop c u q) (fun k => k.pop u s.aclk q [] (.popDrop q))

/-- `stq` (R130). -/
def execStq (c : Nat) (b : Fin 32) (imm : Imm) (s : State) : Out :=
  s.onInstr c .access (.stq c b imm) (fun k => k.storeQueue s.aclk b imm)

/-- A data-queue entry becomes poppable (R101, R102). -/
def execDqEntryPoppable (c : Nat) (q : Fin 4) (s : State) : Out :=
  s.onCore c (fun k => k.entryPoppable s.aclk q)

/-- `popv` (R149). -/
def execPopv (c : Nat) (d : Fin 32) (q : Fin 4) (s : State) : Out :=
  s.onInstr c .execute (.popv c d q) (fun k => k.pop .execute s.aclk q [vreg d] (.popVec d q))

/-- `pushv` (R149): two entries. -/
def execPushv (c : Nat) (a : Fin 32) (s : State) : Out :=
  s.onInstr c .execute (.pushv c a) (fun k =>
    let bs := laneBytes (k.vx a)
    k.push .execute s.aclk 3 [vreg a] [bs.take 64, bs.drop 64])

/-- `owait` (R103, R150). -/
def execOwait (c : Nat) (n : Fin 2) (s : State) : Out :=
  s.onInstr c .execute (.owait c n) (fun k => k.issue .execute s.aclk [] (fun t =>
    if k.owaitOver n then k.ok1 .execute t 1 1 []
    else .held (k.setStream .execute { k.exe with wait := .owait n })))

/-- `agen` (R131, R132). -/
def execAgen (c : Nat) (a : AStream) (b : Fin 32) (dims : List (Src × Src)) (s : State) : Out :=
  s.onInstr c .access (.agen c a b dims) (fun k => k.agen s.aclk a b dims)

/-- `apush` (R133). -/
def execApush (c : Nat) (a : AStream) (r : Fin 32) (s : State) : Out :=
  s.onInstr c .access (.apush c a r) (fun k => k.apush s.aclk a r)

end Sys2Proof.Machine
end

