-- ==== Sys2Proof/Machine/Ope.lean ====
section
/-! DEFINITION. The outer-product engine, tiles and drains as commands (file 02, R151 to R157). -/

namespace Sys2Proof.Machine

open Sys2Proof

/-- `opa` (R39, R43, R50, R151, R152). -/
def execOpa (c : Nat) (t : Fin 4) (ct rt : EType) (init comp : Bool) (k : Src) (s : State) : Out :=
  s.onInstr c .execute (.opa c t ct rt init comp k) (fun x => x.opa s.aclk t ct rt init comp k)

/-- The engine accepts the accumulate that the execute stream holds at (R38). -/
def execAccumulateAccept (c : Nat) (s : State) : Out :=
  s.onCore c (fun k => k.acceptHeld s.aclk)

/-- The beat of the accumulate at the edge counted in its die's estimate (R389). -/
def State.countBeat (s : State) (c : Nat) (a : Option Acc) : State :=
  match a with
  | none => s
  | some a =>
    let d := dieOfCore c
    let x := s.diePower d
    s.setDiePower d { x with energy := x.energy + beatEnergy (s.coeff d) a, beats := x.beats + 1 }

/-- The drain target of the task that runs on a core (R156). -/
def State.drainTarget (s : State) (c : Nat) : Option Nat :=
  (s.siteTask c).bind (fun (q, t) => (s.task q t).bind (fun x =>
    (x.streams.find? (fun e => e.2 == 16)).map Prod.fst))

/-- Row bytes that the slots of a PORT ring still take: the open slot's rest and the free slots (R206). -/
def Ctx.portRoom (c : Ctx) : Nat :=
  (c.srcSlot - c.portArrived % c.srcSlot) % c.srcSlot + c.srcHasp.free * c.srcSlot

/-- The row bytes that a core's drain target will take from it with no wait, whatever the other cores of the gang send
meanwhile: at most 64 bytes a cycle each, for as long as two drains last (R58, R206; log 86). -/
def State.drainRoom (s : State) (c : Nat) : Nat :=
  match s.drainTarget c with
  | none => 0
  | some k =>
    let x := s.ctx k
    let others := ((s.siteTask c).bind (fun (q, t) => (s.task q t).map (fun y => y.cores.length - 1))).getD 0
    if x.live then x.portRoom - others * 16384 else 0

/-- The next beat of a core as it would enter the edge now (R33 to R46, R96), under the level of R390. -/
def State.nextBeat (s : State) (c : Nat) : CoreRes :=
  s.clocked c (fun k => k.beat s.aclk (s.beatLimit c) (s.coreStrike c) (s.drainRoom c))

/-- The next beat enters the edge, and its energy is counted. -/
def execBeatEdgeEntry (c : Nat) (s : State) : Out :=
  if siteExists c then
    match s.nextBeat c with
    | .ok t k' => .next (((s.setCore c k').at_ t).countBeat c (s.core c).ope.q.head?)
    | r => s.coreRes c r
  else .fault .noSuchUnit

/-- A tile's last beat is final in every cell (R35, R53). -/
def execAccumulateFinal (c : Nat) (t : Fin 4) (s : State) : Out :=
  s.onCore c (fun k => k.accFinal t)

/-- `tclr` (R49, R153). -/
def execTclr (c : Nat) (t : Fin 4) (s : State) : Out :=
  s.onInstr c .execute (.tclr c t) (fun k => k.tileOp s.aclk t none)

/-- `tstat` (R48, R153). -/
def execTstat (c : Nat) (d : Fin 32) (t : Fin 4) (s : State) : Out :=
  s.onInstr c .execute (.tstat c d t) (fun k => k.tileOp s.aclk t (some d))

/-- `drain` (R55, R57, R154, R156, R157). -/
def execDrain (c : Nat) (t : Fin 4) (dst : DrainDst) (ot : EType) (fn : Fn) (comb : Comb) (op : SecondOp)
    (alpha : Option (Fin 32)) (clr : Bool) (flags : Option (Fin 32)) (s : State) : Out :=
  s.onInstr c .execute (.drain c t dst ot fn comb op alpha clr flags)
    (fun k => k.issueDrain s.aclk t dst ot fn comb op alpha clr flags (s.drainTarget c).isSome)

/-- The drain path takes the drain that the execute stream holds at (R58, R60, R155). -/
def execDrainTake (c : Nat) (s : State) : Out := s.onCore c (fun k => k.takeDrain s.aclk)

/-- A ROW operand read ends (R58). -/
def execRowOperandRead (c : Nat) (s : State) : Out := s.onCore c (fun k => k.rowRead)

/-- The drain in progress samples its next row (R58 to R60). -/
def execDrainRowSample (c : Nat) (s : State) : Out := s.onCore c (fun k => k.drainSample)

/-- Row bytes arrive at the drain target: FREE taken for each slot opened, FILL posted for each completed
(R206); the scale of a row's first byte is kept with its image offset (R171). -/
def Ctx.portTake (c : Ctx) (bs : List Byte) (scale : Option Byte) : Ctx :=
  let n := bs.length
  let a := c.portArrived
  let opened := ceilDiv (a + n) c.srcSlot - ceilDiv a c.srcSlot
  let closed := (a + n) / c.srcSlot - a / c.srcSlot
  { c with
    portRing := c.portRing ++ bs
    portArrived := a + n
    srcHasp := { fill := c.srcHasp.fill + closed, free := c.srcHasp.free - opened }
    portScales := c.portScales ++ (scale.map (fun x => (a, x))).toList }

/-- A row due in cycle u, to PORT: as many of its bytes as the target has room for; a row that finds no room for
all of it is held, and is written when there is room (R60, R156). -/
def State.writeRowPort (s : State) (c k : Nat) (d : Drain) (bs : List Byte) (sc : Byte) (u : Nat) : State :=
  let x := s.ctx k
  let n := min bs.length x.portRoom
  let core := s.core c
  if n = 0 ∨ !x.live then s.setCore c (core.setDrain { d with blocked := true })
  else
    let first := decide (bs.length = rowOut d.ot)
    let s := s.setCtx k (x.portTake (bs.take n) (if first && isMx d.ot then some sc else none))
    let w := if d.blocked then max s.aclk u else u
    if n = bs.length then (s.setCore c ((core.rowWritten d).heldWrite u w)).at_ w
    else
      let rows := match d.rows with
        | (_, _, t) :: rest => (bs.drop n, sc, t) :: rest
        | [] => []
      s.setCore c (core.setDrain { d with rows := rows, blocked := true })

/-- The state in the cycle u in which the next row of a drain is due: with its last row, which is converted by then, the
drain reports its flags, even where the write is held (R59). -/
def State.rowDue (s : State) (c : Nat) (d : Drain) (u : Nat) : State × Drain :=
  if d.written = 31 ∧ d.flags.isSome then
    ((s.setCore c ((s.core c).reportFlags d u)).at_ u, { d with flags := none })
  else (s, d)

/-- Does a beat that can enter read its operands in or before cycle u? Such reads come before a write due in that cycle,
which they may hold (R60, R98). -/
def State.readsFirst (s : State) (c u : Nat) : Bool :=
  match s.nextBeat c with
  | .ok e _ => decide (e ≤ u + 2)
  | _ => false

/-- A sampled row is written: to local memory, once the operand reads up to that cycle are done, or to the drain port (R59,
R60, R155, R156). -/
def execDrainRowWrite (c : Nat) (s : State) : Out :=
  if siteExists c then
    match (if s.clockStopped c then none else (s.core c).nextWrite) with
    | none => .next s
    | some (d, bs, sc, u) =>
      if d.dst == .lm && s.readsFirst c ((s.core c).rowAt d bs.length u) then .next s
      else
      let (s, d) := s.rowDue c d u
      match d.dst with
      | .lm => s.coreRes c ((s.core c).writeRowLm s.aclk d bs sc u)
      | .port => s.happens ((s.drainTarget c).map (fun x => s.writeRowPort c x d bs sc u))
  else .fault .noSuchUnit

end Sys2Proof.Machine
end

