-- ==== Sys2Proof/Machine/Scalar.lean ====
section
/-! DEFINITION. The scalar instructions of both streams (R123, R126, R128, R148). -/

namespace Sys2Proof.Machine

open Sys2Proof

/-- `li` (R126, R148). -/
def execLi (c : Nat) (u : UnitId) (d : Fin 32) (v : Imm) (s : State) : Out :=
  s.onInstr c u (.li c u d v) (fun k => k.move u s.aclk d (.imm (k.imm v)))

/-- `mov` between general registers (R126). -/
def execMov (c : Nat) (u : UnitId) (d a : Fin 32) (s : State) : Out :=
  s.onInstr c u (.mov c u d a) (fun k => k.move u s.aclk d (.reg a))

/-- `mov LCNTn, src` (R126, R128). -/
def execMovLcnt (c : Nat) (u : UnitId) (n : Fin 4) (x : Src) (s : State) : Out :=
  s.onInstr c u (.movLcnt c u n x) (fun k => k.setCount u s.aclk n x)

/-- `mov GAd, LCNTn` and `mov GAd, LRUNn` (R126). -/
def execMovCount (c : Nat) (u : UnitId) (d : Fin 32) (run : Bool) (n : Fin 4) (s : State) : Out :=
  s.onInstr c u (.movCount c u d run n) (fun k => k.getCount u s.aclk d run n)

/-- `add` (R126). -/
def execAdd (c : Nat) (u : UnitId) (d a : Fin 32) (x : Src) (s : State) : Out :=
  s.onInstr c u (.add c u d a x) (fun k => k.alu u s.aclk 1 d a x (fun x y => x + y))

/-- `sub` (R126). -/
def execSub (c : Nat) (u : UnitId) (d a : Fin 32) (x : Src) (s : State) : Out :=
  s.onInstr c u (.sub c u d a x) (fun k => k.alu u s.aclk 1 d a x (fun x y => x - y))

/-- `and` (R126). -/
def execAnd (c : Nat) (u : UnitId) (d a : Fin 32) (x : Src) (s : State) : Out :=
  s.onInstr c u (.and c u d a x) (fun k => k.alu u s.aclk 1 d a x (fun x y => x &&& y))

/-- `or` (R126). -/
def execOr (c : Nat) (u : UnitId) (d a : Fin 32) (x : Src) (s : State) : Out :=
  s.onInstr c u (.or c u d a x) (fun k => k.alu u s.aclk 1 d a x (fun x y => x ||| y))

/-- `xor` (R126). -/
def execXor (c : Nat) (u : UnitId) (d a : Fin 32) (x : Src) (s : State) : Out :=
  s.onInstr c u (.xor c u d a x) (fun k => k.alu u s.aclk 1 d a x (fun x y => x ^^^ y))

/-- `shl` (R126). -/
def execShl (c : Nat) (u : UnitId) (d a : Fin 32) (x : Src) (s : State) : Out :=
  s.onInstr c u (.shl c u d a x) (fun k => k.alu u s.aclk 1 d a x (fun x y => x <<< bits y 0 6))

/-- `shr` (R126). -/
def execShr (c : Nat) (u : UnitId) (d a : Fin 32) (x : Src) (s : State) : Out :=
  s.onInstr c u (.shr c u d a x) (fun k => k.alu u s.aclk 1 d a x (fun x y => x >>> bits y 0 6))

/-- `sra` (R126). -/
def execSra (c : Nat) (u : UnitId) (d a : Fin 32) (x : Src) (s : State) : Out :=
  s.onInstr c u (.sra c u d a x) (fun k => k.alu u s.aclk 1 d a x (fun x y => x.sshiftRight (bits y 0 6)))

/-- `min` (R126). -/
def execMin (c : Nat) (u : UnitId) (d a : Fin 32) (x : Src) (s : State) : Out :=
  s.onInstr c u (.min c u d a x) (fun k => k.alu u s.aclk 1 d a x (fun x y => if x.slt y then x else y))

/-- `max` (R126). -/
def execMax (c : Nat) (u : UnitId) (d a : Fin 32) (x : Src) (s : State) : Out :=
  s.onInstr c u (.max c u d a x) (fun k => k.alu u s.aclk 1 d a x (fun x y => if x.slt y then y else x))

/-- `minu` (R126). -/
def execMinu (c : Nat) (u : UnitId) (d a : Fin 32) (x : Src) (s : State) : Out :=
  s.onInstr c u (.minu c u d a x) (fun k => k.alu u s.aclk 1 d a x (fun x y => if x.ult y then x else y))

/-- `maxu` (R126). -/
def execMaxu (c : Nat) (u : UnitId) (d a : Fin 32) (x : Src) (s : State) : Out :=
  s.onInstr c u (.maxu c u d a x) (fun k => k.alu u s.aclk 1 d a x (fun x y => if x.ult y then y else x))

/-- `seq` (R126). -/
def execSeq (c : Nat) (u : UnitId) (d a : Fin 32) (x : Src) (s : State) : Out :=
  s.onInstr c u (.seq c u d a x) (fun k => k.alu u s.aclk 1 d a x (fun x y => if x = y then 1 else 0))

/-- `slt` (R126). -/
def execSlt (c : Nat) (u : UnitId) (d a : Fin 32) (x : Src) (s : State) : Out :=
  s.onInstr c u (.slt c u d a x) (fun k => k.alu u s.aclk 1 d a x (fun x y => if x.slt y then 1 else 0))

/-- `sltu` (R126). -/
def execSltu (c : Nat) (u : UnitId) (d a : Fin 32) (x : Src) (s : State) : Out :=
  s.onInstr c u (.sltu c u d a x) (fun k => k.alu u s.aclk 1 d a x (fun x y => if x.ult y then 1 else 0))

/-- `mul` (R126, class AM). -/
def execMul (c : Nat) (u : UnitId) (d a : Fin 32) (x : Src) (s : State) : Out :=
  s.onInstr c u (.mul c u d a x) (fun k => k.alu u s.aclk 3 d a x (fun x y => x * y))

/-- `ldbind` (R123, R126). -/
def execLdbind (c : Nat) (d : Fin 32) (slot : Fin 16) (word : Fin 8) (s : State) : Out :=
  s.onInstr c .access (.ldbind c d slot word) (fun k => k.ldbind s.aclk d slot word)

end Sys2Proof.Machine
end

