-- ==== Sys2Proof/Machine/VecArith.lean ====
section
/-! DEFINITION. Vector loads and stores, arithmetic, logic and lanes (R158 to R160). -/

namespace Sys2Proof.Machine

open Sys2Proof

/-- `vld` and its forms (R97, R158). -/
def execVld (c : Nat) (d : Fin 32) (w : VWidth) (s : State) : Out :=
  s.onInstr c .execute (.vld c d w) (fun k => k.vld s.aclk (s.coreStrike c) d w)

/-- `vst` and its forms (R97, R158). -/
def execVst (c : Nat) (a : Fin 32) (w : VWidth) (s : State) : Out :=
  s.onInstr c .execute (.vst c a w) (fun k => k.vst s.aclk (s.coreStrike c) a w)

/-- `vadd` (R79, R159). -/
def execVadd (c : Nat) (d a : Fin 32) (b : VSrc) (s : State) : Out :=
  s.onInstr c .execute (.vadd c d a b) (fun k => k.vbin s.aclk (s.coreStrike c) clsVA true d a b (fadd))

/-- `vsub` (R79, R159). -/
def execVsub (c : Nat) (d a : Fin 32) (b : VSrc) (s : State) : Out :=
  s.onInstr c .execute (.vsub c d a b) (fun k => k.vbin s.aclk (s.coreStrike c) clsVA true d a b (fsub))

/-- `vmul` (R79, R159). -/
def execVmul (c : Nat) (d a : Fin 32) (b : VSrc) (s : State) : Out :=
  s.onInstr c .execute (.vmul c d a b) (fun k => k.vbin s.aclk (s.coreStrike c) clsVA true d a b (fmul))

/-- `vmin` (R79, R159). -/
def execVmin (c : Nat) (d a : Fin 32) (b : VSrc) (s : State) : Out :=
  s.onInstr c .execute (.vmin c d a b) (fun k => k.vbin s.aclk (s.coreStrike c) clsVA true d a b (fmin))

/-- `vmax` (R79, R159). -/
def execVmax (c : Nat) (d a : Fin 32) (b : VSrc) (s : State) : Out :=
  s.onInstr c .execute (.vmax c d a b) (fun k => k.vbin s.aclk (s.coreStrike c) clsVA true d a b (fmax))

/-- `vfma` (R159). -/
def execVfma (c : Nat) (d a : Fin 32) (b : VSrc) (x : Fin 32) (s : State) : Out :=
  s.onInstr c .execute (.vfma c d a b x) (fun k => k.vfma s.aclk (s.coreStrike c) d a b x)

/-- `viadd` (R159, R160). -/
def execViadd (c : Nat) (d a : Fin 32) (b : VSrc) (s : State) : Out :=
  s.onInstr c .execute (.viadd c d a b) (fun k => k.viadd s.aclk (s.coreStrike c) d a b)

/-- `vabs` (R159). -/
def execVabs (c : Nat) (d a : Fin 32) (s : State) : Out :=
  s.onInstr c .execute (.vabs c d a) (fun k => k.vun s.aclk (s.coreStrike c) clsVL false d a (fabs))

/-- `vneg` (R159). -/
def execVneg (c : Nat) (d a : Fin 32) (s : State) : Out :=
  s.onInstr c .execute (.vneg c d a) (fun k => k.vun s.aclk (s.coreStrike c) clsVL false d a (fneg))

/-- `vmov` (R159). -/
def execVmov (c : Nat) (d a : Fin 32) (s : State) : Out :=
  s.onInstr c .execute (.vmov c d a) (fun k => k.vun s.aclk (s.coreStrike c) clsVL false d a (fun x => x))

/-- `vand` (R79, R159). -/
def execVand (c : Nat) (d a : Fin 32) (b : VSrc) (s : State) : Out :=
  s.onInstr c .execute (.vand c d a b)
    (fun k => k.vbin s.aclk (s.coreStrike c) clsVL false d a b (fun x y => x &&& y))

/-- `vor` (R79, R159). -/
def execVor (c : Nat) (d a : Fin 32) (b : VSrc) (s : State) : Out :=
  s.onInstr c .execute (.vor c d a b)
    (fun k => k.vbin s.aclk (s.coreStrike c) clsVL false d a b (fun x y => x ||| y))

/-- `vxor` (R79, R159). -/
def execVxor (c : Nat) (d a : Fin 32) (b : VSrc) (s : State) : Out :=
  s.onInstr c .execute (.vxor c d a b)
    (fun k => k.vbin s.aclk (s.coreStrike c) clsVL false d a b (fun x y => x ^^^ y))

/-- `vshl` (R159). -/
def execVshl (c : Nat) (d a : Fin 32) (n : Src) (s : State) : Out :=
  s.onInstr c .execute (.vshl c d a n)
    (fun k => k.vshift s.aclk (s.coreStrike c) d a n (fun n ls => ls.map (fun (x : Lane) => x <<< n)))

/-- `vshr` (R159). -/
def execVshr (c : Nat) (d a : Fin 32) (n : Src) (s : State) : Out :=
  s.onInstr c .execute (.vshr c d a n)
    (fun k => k.vshift s.aclk (s.coreStrike c) d a n (fun n ls => ls.map (fun (x : Lane) => x >>> n)))

/-- `vsra` (R159). -/
def execVsra (c : Nat) (d a : Fin 32) (n : Src) (s : State) : Out :=
  s.onInstr c .execute (.vsra c d a n)
    (fun k => k.vshift s.aclk (s.coreStrike c) d a n (fun n ls => ls.map (fun (x : Lane) => x.sshiftRight n)))

/-- `vcmp.eq`, `vcmp.lt`, `vcmp.le` (R159). -/
def execVcmp (c : Nat) (rel : Rel) (d a : Fin 32) (b : VSrc) (s : State) : Out :=
  s.onInstr c .execute (.vcmp c rel d a b)
    (fun k => k.vbin s.aclk (s.coreStrike c) clsVL false d a b (fun x y => maskOf (relHolds rel x y)))

/-- `vsel` (R159). -/
def execVsel (c : Nat) (d m a b : Fin 32) (s : State) : Out :=
  s.onInstr c .execute (.vsel c d m a b) (fun k => k.vsel s.aclk (s.coreStrike c) d m a b)

/-- `vrot` (R159). -/
def execVrot (c : Nat) (d a : Fin 32) (n : Src) (s : State) : Out :=
  s.onInstr c .execute (.vrot c d a n) (fun k => k.vshift s.aclk (s.coreStrike c) d a n rotate)

/-- `vbcast` (R159). -/
def execVbcast (c : Nat) (d : Fin 32) (x : Src) (s : State) : Out :=
  s.onInstr c .execute (.vbcast c d x) (fun k => k.vbcast s.aclk (s.coreStrike c) d x)

/-- `vlane` (R159). -/
def execVlane (c : Nat) (d a : Fin 32) (n : Src) (s : State) : Out :=
  s.onInstr c .execute (.vlane c d a n) (fun k =>
    if shiftOk n then
      k.vscalar s.aclk (s.coreStrike c) d (vreg a :: srcRegs n) (((k.vx a).getD (k.shiftBy n) 0).zeroExtend 64)
    else .refuse)

/-- `vany` (R159). -/
def execVany (c : Nat) (d a : Fin 32) (s : State) : Out :=
  s.onInstr c .execute (.vany c d a) (fun k =>
    k.vscalar s.aclk (s.coreStrike c) d [vreg a] (if (k.vx a).any (fun x => x != 0) then 1 else 0))

/-- `vall` (R159). -/
def execVall (c : Nat) (d a : Fin 32) (s : State) : Out :=
  s.onInstr c .execute (.vall c d a) (fun k =>
    k.vscalar s.aclk (s.coreStrike c) d [vreg a] (if (k.vx a).all (fun x => x != 0) then 1 else 0))

/-- `vexp2` (R61, R159). -/
def execVexp2 (c : Nat) (d a : Fin 32) (s : State) : Out :=
  s.onInstr c .execute (.vexp2 c d a) (fun k => k.vun s.aclk (s.coreStrike c) clsVT true d a exp2c)

/-- `vlog2` (R61, R159). -/
def execVlog2 (c : Nat) (d a : Fin 32) (s : State) : Out :=
  s.onInstr c .execute (.vlog2 c d a) (fun k => k.vun s.aclk (s.coreStrike c) clsVT true d a log2c)

/-- `vrcp` (R61, R159). -/
def execVrcp (c : Nat) (d a : Fin 32) (s : State) : Out :=
  s.onInstr c .execute (.vrcp c d a) (fun k => k.vun s.aclk (s.coreStrike c) clsVT true d a rcp)

/-- `vstat` (R160). -/
def execVstat (c : Nat) (d : Fin 32) (s : State) : Out :=
  s.onInstr c .execute (.vstat c d) (fun k => k.vstat s.aclk d false)

/-- `vstat.clr` (R160). -/
def execVstatClr (c : Nat) (d : Fin 32) (s : State) : Out :=
  s.onInstr c .execute (.vstatClr c d) (fun k => k.vstat s.aclk d true)

end Sys2Proof.Machine
end

