-- ==== Sys2Proof/Machine/VecConv.lean ====
section
/-! DEFINITION. Vector conversions and full-width partials (R161, R162). -/

namespace Sys2Proof.Machine

open Sys2Proof

/-- `vcvt` (R80, R82, R161). -/
def execVcvt (c : Nat) (d a : Fin 32) (t : EType) (s : State) : Out :=
  s.onInstr c .execute (.vcvt c d a t) (fun k => k.vcvt s.aclk (s.coreStrike c) d a t)

/-- `vcvt.mx` (R81, R161). -/
def execVcvtMx (c : Nat) (d g a : Fin 32) (t : EType) (s : State) : Out :=
  s.onInstr c .execute (.vcvtMx c d g a t) (fun k => k.vcvtMx s.aclk (s.coreStrike c) d g a t)

/-- `vcvt.bfx` (R86, R161). -/
def execVcvtBfx (c : Nat) (d a g : Fin 32) (s : State) : Out :=
  s.onInstr c .execute (.vcvtBfx c d a g) (fun k => k.vcvtBfx s.aclk (s.coreStrike c) d a g)

/-- `vext` (R161). -/
def execVext (c : Nat) (d a : Fin 32) (t : EType) (s : State) : Out :=
  s.onInstr c .execute (.vext c d a t) (fun k => k.vext s.aclk (s.coreStrike c) d a t)

/-- `vext.mx` (R161). -/
def execVextMx (c : Nat) (d a g : Fin 32) (t : EType) (s : State) : Out :=
  s.onInstr c .execute (.vextMx c d a g t) (fun k => k.vextMx s.aclk (s.coreStrike c) d a g t)

/-- `vcvt.f32` (R161). -/
def execVcvtF32 (c : Nat) (d a : Fin 32) (s : State) : Out :=
  s.onInstr c .execute (.vcvtF32 c d a) (fun k => k.vcvtF32 s.aclk (s.coreStrike c) d a)

/-- `vpadd` (R84, R162). -/
def execVpadd (c : Nat) (s1 f1 s2 f2 : Fin 32) (s : State) : Out :=
  s.onInstr c .execute (.vpadd c s1 f1 s2 f2) (fun k => k.vpadd s.aclk (s.coreStrike c) s1 f1 s2 f2)

/-- `vpfold` (R77, R162). -/
def execVpfold (c : Nat) (d a f : Fin 32) (s : State) : Out :=
  s.onInstr c .execute (.vpfold c d a f) (fun k => k.vpfold s.aclk (s.coreStrike c) d a f)

end Sys2Proof.Machine
end

