-- ==== Sys2Proof/Machine/Dispatch.lean ====
section
/-! DEFINITION. What each command does: one arm per constructor of Instr. -/

namespace Sys2Proof.Machine

open Sys2Proof

def exec (i : Instr) (s : State) : Host.Outcome State Fault Refusal :=
  match i with
  | .strikeTick => Sys2Proof.Machine.execStrikeTick s
  | .li c u d v => Sys2Proof.Machine.execLi c u d v s
  | .mov c u d a => Sys2Proof.Machine.execMov c u d a s
  | .movLcnt c u n x => Sys2Proof.Machine.execMovLcnt c u n x s
  | .movCount c u d run n => Sys2Proof.Machine.execMovCount c u d run n s
  | .add c u d a x => Sys2Proof.Machine.execAdd c u d a x s
  | .sub c u d a x => Sys2Proof.Machine.execSub c u d a x s
  | .and c u d a x => Sys2Proof.Machine.execAnd c u d a x s
  | .or c u d a x => Sys2Proof.Machine.execOr c u d a x s
  | .xor c u d a x => Sys2Proof.Machine.execXor c u d a x s
  | .shl c u d a x => Sys2Proof.Machine.execShl c u d a x s
  | .shr c u d a x => Sys2Proof.Machine.execShr c u d a x s
  | .sra c u d a x => Sys2Proof.Machine.execSra c u d a x s
  | .min c u d a x => Sys2Proof.Machine.execMin c u d a x s
  | .max c u d a x => Sys2Proof.Machine.execMax c u d a x s
  | .minu c u d a x => Sys2Proof.Machine.execMinu c u d a x s
  | .maxu c u d a x => Sys2Proof.Machine.execMaxu c u d a x s
  | .seq c u d a x => Sys2Proof.Machine.execSeq c u d a x s
  | .slt c u d a x => Sys2Proof.Machine.execSlt c u d a x s
  | .sltu c u d a x => Sys2Proof.Machine.execSltu c u d a x s
  | .mul c u d a x => Sys2Proof.Machine.execMul c u d a x s
  | .ldbind c d slot word => Sys2Proof.Machine.execLdbind c d slot word s
  | .br c u target => Sys2Proof.Machine.execBr c u target s
  | .brz c u a target => Sys2Proof.Machine.execBrz c u a target s
  | .brnz c u a target => Sys2Proof.Machine.execBrnz c u a target s
  | .brlt c u a b target => Sys2Proof.Machine.execBrlt c u a b target s
  | .brltu c u a b target => Sys2Proof.Machine.execBrltu c u a b target s
  | .breq c u a b target => Sys2Proof.Machine.execBreq c u a b target s
  | .loop c u n target => Sys2Proof.Machine.execLoop c u n target s
  | .ld c size d b imm => Sys2Proof.Machine.execLd c size d b imm s
  | .ldSigned c size d b imm => Sys2Proof.Machine.execLdSigned c size d b imm s
  | .st c size a b imm => Sys2Proof.Machine.execSt c size a b imm s
  | .ldq c q b imm lines => Sys2Proof.Machine.execLdq c q b imm lines s
  | .pushq c u q x => Sys2Proof.Machine.execPushq c u q x s
  | .popq c u d q => Sys2Proof.Machine.execPopq c u d q s
  | .popqDrop c u q => Sys2Proof.Machine.execPopqDrop c u q s
  | .stq c b imm => Sys2Proof.Machine.execStq c b imm s
  | .dqEntryPoppable c q => Sys2Proof.Machine.execDqEntryPoppable c q s
  | .agen c a b dims => Sys2Proof.Machine.execAgen c a b dims s
  | .apush c a r => Sys2Proof.Machine.execApush c a r s
  | .xget c tag l f n => Sys2Proof.Machine.execXget c tag l f n s
  | .xput c tag l f n => Sys2Proof.Machine.execXput c tag l f n s
  | .xputMc c tag l r n => Sys2Proof.Machine.execXputMc c tag l r n s
  | .xwait c tag => Sys2Proof.Machine.execXwait c tag s
  | .xwaitAll c => Sys2Proof.Machine.execXwaitAll c s
  | .transferComplete c tag => Sys2Proof.Machine.execTransferComplete c tag s
  | .transferErrorResponse c tag => Sys2Proof.Machine.execTransferErrorResponse c tag s
  | .hwait c h k cnt => Sys2Proof.Machine.execHwait c h k cnt s
  | .hpost c h k cnt => Sys2Proof.Machine.execHpost c h k cnt s
  | .hslot c d h idx => Sys2Proof.Machine.execHslot c d h idx s
  | .scancel c h => Sys2Proof.Machine.execScancel c h s
  | .srearm c h a => Sys2Proof.Machine.execSrearm c h a s
  | .strk c u d => Sys2Proof.Machine.execStrk c u d s
  | .swait c u x => Sys2Proof.Machine.execSwait c u x s
  | .swaitRel c u b x => Sys2Proof.Machine.execSwaitRel c u b x s
  | .strikeWaitComplete c u => Sys2Proof.Machine.execStrikeWaitComplete c u s
  | .ward c u w => Sys2Proof.Machine.execWard c u w s
  | .endStream c u => Sys2Proof.Machine.execEndStream c u s
  | .popv c d q => Sys2Proof.Machine.execPopv c d q s
  | .pushv c a => Sys2Proof.Machine.execPushv c a s
  | .owait c n => Sys2Proof.Machine.execOwait c n s
  | .opa c t ct rt init comp k => Sys2Proof.Machine.execOpa c t ct rt init comp k s
  | .accumulateAccept c => Sys2Proof.Machine.execAccumulateAccept c s
  | .beatEdgeEntry c => Sys2Proof.Machine.execBeatEdgeEntry c s
  | .accumulateFinal c t => Sys2Proof.Machine.execAccumulateFinal c t s
  | .tclr c t => Sys2Proof.Machine.execTclr c t s
  | .tstat c d t => Sys2Proof.Machine.execTstat c d t s
  | .drain c t dst ot fn comb op alpha clr flags => Sys2Proof.Machine.execDrain c t dst ot fn comb op alpha clr flags s
  | .drainTake c => Sys2Proof.Machine.execDrainTake c s
  | .rowOperandRead c => Sys2Proof.Machine.execRowOperandRead c s
  | .drainRowSample c => Sys2Proof.Machine.execDrainRowSample c s
  | .drainRowWrite c => Sys2Proof.Machine.execDrainRowWrite c s
  | .vld c d w => Sys2Proof.Machine.execVld c d w s
  | .vst c a w => Sys2Proof.Machine.execVst c a w s
  | .vadd c d a b => Sys2Proof.Machine.execVadd c d a b s
  | .vsub c d a b => Sys2Proof.Machine.execVsub c d a b s
  | .vmul c d a b => Sys2Proof.Machine.execVmul c d a b s
  | .vmin c d a b => Sys2Proof.Machine.execVmin c d a b s
  | .vmax c d a b => Sys2Proof.Machine.execVmax c d a b s
  | .vfma c d a b x => Sys2Proof.Machine.execVfma c d a b x s
  | .viadd c d a b => Sys2Proof.Machine.execViadd c d a b s
  | .vabs c d a => Sys2Proof.Machine.execVabs c d a s
  | .vneg c d a => Sys2Proof.Machine.execVneg c d a s
  | .vmov c d a => Sys2Proof.Machine.execVmov c d a s
  | .vand c d a b => Sys2Proof.Machine.execVand c d a b s
  | .vor c d a b => Sys2Proof.Machine.execVor c d a b s
  | .vxor c d a b => Sys2Proof.Machine.execVxor c d a b s
  | .vshl c d a n => Sys2Proof.Machine.execVshl c d a n s
  | .vshr c d a n => Sys2Proof.Machine.execVshr c d a n s
  | .vsra c d a n => Sys2Proof.Machine.execVsra c d a n s
  | .vcmp c rel d a b => Sys2Proof.Machine.execVcmp c rel d a b s
  | .vsel c d m a b => Sys2Proof.Machine.execVsel c d m a b s
  | .vrot c d a n => Sys2Proof.Machine.execVrot c d a n s
  | .vbcast c d x => Sys2Proof.Machine.execVbcast c d x s
  | .vlane c d a n => Sys2Proof.Machine.execVlane c d a n s
  | .vany c d a => Sys2Proof.Machine.execVany c d a s
  | .vall c d a => Sys2Proof.Machine.execVall c d a s
  | .vexp2 c d a => Sys2Proof.Machine.execVexp2 c d a s
  | .vlog2 c d a => Sys2Proof.Machine.execVlog2 c d a s
  | .vrcp c d a => Sys2Proof.Machine.execVrcp c d a s
  | .vstat c d => Sys2Proof.Machine.execVstat c d s
  | .vstatClr c d => Sys2Proof.Machine.execVstatClr c d s
  | .vcvt c d a t => Sys2Proof.Machine.execVcvt c d a t s
  | .vcvtMx c d g a t => Sys2Proof.Machine.execVcvtMx c d g a t s
  | .vcvtBfx c d a g => Sys2Proof.Machine.execVcvtBfx c d a g s
  | .vext c d a t => Sys2Proof.Machine.execVext c d a t s
  | .vextMx c d a g t => Sys2Proof.Machine.execVextMx c d a g t s
  | .vcvtF32 c d a => Sys2Proof.Machine.execVcvtF32 c d a s
  | .vpadd c s1 f1 s2 f2 => Sys2Proof.Machine.execVpadd c s1 f1 s2 f2 s
  | .vpfold c d a f => Sys2Proof.Machine.execVpfold c d a f s
  | .xclr c x w => Sys2Proof.Machine.execXclr c x w s
  | .xadd c x a => Sys2Proof.Machine.execXadd c x a s
  | .xaddp c x a f => Sys2Proof.Machine.execXaddp c x a f s
  | .xrd c d x => Sys2Proof.Machine.execXrd c d x s
  | .xrdp c d f x => Sys2Proof.Machine.execXrdp c d f x s
  | .xsave c x => Sys2Proof.Machine.execXsave c x s
  | .xload c x => Sys2Proof.Machine.execXload c x s
  | .xaddi c x => Sys2Proof.Machine.execXaddi c x s
  | .xflags c d x => Sys2Proof.Machine.execXflags c d x s
  | .coreQueueDeadlock c => Sys2Proof.Machine.execCoreQueueDeadlock c s
  | .taskEnd c => Sys2Proof.Machine.execTaskEnd c s
  | .wardArrive c => Sys2Proof.Machine.execWardArrive c s
  | .wardRelease q task => Sys2Proof.Machine.execWardRelease q task s
  | .launchSlotStrike c => Sys2Proof.Machine.execLaunchSlotStrike c s
  | .coreWindowRead o c off len => Sys2Proof.Machine.execCoreWindowRead o c off len s
  | .coreWindowWrite o use c off data => Sys2Proof.Machine.execCoreWindowWrite o use c off data s
  | .copy q task => Sys2Proof.Machine.execCopy q task s
  | .permute q task => Sys2Proof.Machine.execPermute q task s
  | .gather q task => Sys2Proof.Machine.execGather q task s
  | .scatterAcc q task => Sys2Proof.Machine.execScatterAcc q task s
  | .storeCfg o d v => Sys2Proof.Machine.execStoreCfg o d v s
  | .armingRetry q task => Sys2Proof.Machine.execArmingRetry q task s
  | .streamRequest ctx dir => Sys2Proof.Machine.execStreamRequest ctx dir s
  | .requestGrant d queue => Sys2Proof.Machine.execRequestGrant d queue s
  | .borrowGrant d => Sys2Proof.Machine.execBorrowGrant d s
  | .slotFillPost ctx => Sys2Proof.Machine.execSlotFillPost ctx s
  | .slotFreePost ctx => Sys2Proof.Machine.execSlotFreePost ctx s
  | .haspForward ctx c => Sys2Proof.Machine.execHaspForward ctx c s
  | .hpostApply ctx c => Sys2Proof.Machine.execHpostApply ctx c s
  | .passStart ctx => Sys2Proof.Machine.execPassStart ctx s
  | .streamStall q task => Sys2Proof.Machine.execStreamStall q task s
  | .sqDb o q v => Sys2Proof.Machine.execSqDb o q v s
  | .graph q => Sys2Proof.Machine.execGraph q s
  | .abort q => Sys2Proof.Machine.execAbort q s
  | .streamArm q => Sys2Proof.Machine.execStreamArm q s
  | .streamRearm q => Sys2Proof.Machine.execStreamRearm q s
  | .streamRelease q => Sys2Proof.Machine.execStreamRelease q s
  | .reshard q => Sys2Proof.Machine.execReshard q s
  | .flag q => Sys2Proof.Machine.execFlag q s
  | .taskReady q task => Sys2Proof.Machine.execTaskReady q task s
  | .taskPlace q task x y => Sys2Proof.Machine.execTaskPlace q task x y s
  | .placeWaitExpiry r => Sys2Proof.Machine.execPlaceWaitExpiry r s
  | .taskCommit q task => Sys2Proof.Machine.execTaskCommit q task s
  | .wardTaskRelease q task => Sys2Proof.Machine.execWardTaskRelease q task s
  | .queueDeadlock cycle => Sys2Proof.Machine.execQueueDeadlock cycle s
  | .cutCapture q task => Sys2Proof.Machine.execCutCapture q task s
  | .serviceHeartbeat => Sys2Proof.Machine.execServiceHeartbeat s
  | .laneSpare p lane why => Sys2Proof.Machine.execLaneSpare p lane why s
  | .retrainEnd p => Sys2Proof.Machine.execRetrainEnd p s
  | .retrainTimeout p => Sys2Proof.Machine.execRetrainTimeout p s
  | .trainingRetry p => Sys2Proof.Machine.execTrainingRetry p s
  | .flitSend p => Sys2Proof.Machine.execFlitSend p s
  | .flitReceive p flit codewordOk => Sys2Proof.Machine.execFlitReceive p flit codewordOk s
  | .replayTimeout p => Sys2Proof.Machine.execReplayTimeout p s
  | .hello p => Sys2Proof.Machine.execHello p s
  | .helloSend p => Sys2Proof.Machine.execHelloSend p s
  | .init p => Sys2Proof.Machine.execInit p s
  | .initSend p => Sys2Proof.Machine.execInitSend p s
  | .resetReq p => Sys2Proof.Machine.execResetReq p s
  | .resetReqReceive p => Sys2Proof.Machine.execResetReqReceive p s
  | .put p vc => Sys2Proof.Machine.execPut p vc s
  | .get p => Sys2Proof.Machine.execGet p s
  | .reducePut p => Sys2Proof.Machine.execReducePut p s
  | .permutePacket p => Sys2Proof.Machine.execPermutePacket p s
  | .flagPacket p vc => Sys2Proof.Machine.execFlagPacket p vc s
  | .completion p => Sys2Proof.Machine.execCompletion p s
  | .getRsp p => Sys2Proof.Machine.execGetRsp p s
  | .linkDescriptor p => Sys2Proof.Machine.execLinkDescriptor p s
  | .portCtl o p v => Sys2Proof.Machine.execPortCtl o p v s
  | .portSqTail o p v => Sys2Proof.Machine.execPortSqTail o p v s
  | .portRingid p v => Sys2Proof.Machine.execPortRingid p v s
  | .portXchna o p n v => Sys2Proof.Machine.execPortXchna o p n v s
  | .portXchnb o p n v => Sys2Proof.Machine.execPortXchnb o p n v s
  | .validClear p n => Sys2Proof.Machine.execValidClear p n s
  | .channelSlotSend p n => Sys2Proof.Machine.execChannelSlotSend p n s
  | .epochFence axis => Sys2Proof.Machine.execEpochFence axis s
  | .copyOut axis => Sys2Proof.Machine.execCopyOut axis s
  | .reshardComplete axis => Sys2Proof.Machine.execReshardComplete axis s
  | .rowMapUpdate d row => Sys2Proof.Machine.execRowMapUpdate d row s
  | .fabricAccess o addr len data => Sys2Proof.Machine.execFabricAccess o addr len data s
  | .patrolScrub m => Sys2Proof.Machine.execPatrolScrub m s
  | .rowRedirectDone m => Sys2Proof.Machine.execRowRedirectDone m s
  | .memRepair m => Sys2Proof.Machine.execMemRepair m s
  | .memRepairEnd m => Sys2Proof.Machine.execMemRepairEnd m s
  | .channelRetire ch => Sys2Proof.Machine.execChannelRetire ch s
  | .channelRetired => Sys2Proof.Machine.execChannelRetired s
  | .eqCfg o e v => Sys2Proof.Machine.execEqCfg o e v s
  | .eqHead o e v => Sys2Proof.Machine.execEqHead o e v s
  | .eventRecordWrite e => Sys2Proof.Machine.execEventRecordWrite e s
  | .eventInterrupt e => Sys2Proof.Machine.execEventInterrupt e s
  | .handover => Sys2Proof.Machine.execHandover s
  | .hostmem gib => Sys2Proof.Machine.execHostmem gib s
  | .por => Sys2Proof.Machine.execPor s
  | .crystalWindow ppm => Sys2Proof.Machine.execCrystalWindow ppm s
  | .crystalTimeout => Sys2Proof.Machine.execCrystalTimeout s
  | .xtallost => Sys2Proof.Machine.execXtallost s
  | .clkNodeSrc o k v => Sys2Proof.Machine.execClkNodeSrc o k v s
  | .clockSwitchEnd k => Sys2Proof.Machine.execClockSwitchEnd k s
  | .clkNodeGate o k v => Sys2Proof.Machine.execClkNodeGate o k v s
  | .clkNodeUngate o k v => Sys2Proof.Machine.execClkNodeUngate o k v s
  | .clkmonCtl o v => Sys2Proof.Machine.execClkmonCtl o v s
  | .rowClockGate d row => Sys2Proof.Machine.execRowClockGate d row s
  | .resetN lowCycles => Sys2Proof.Machine.execResetN lowCycles s
  | .managementReset => Sys2Proof.Machine.execManagementReset s
  | .rstReq o v => Sys2Proof.Machine.execRstReq o v s
  | .watchdog why => Sys2Proof.Machine.execWatchdog why s
  | .resetSourceRelease src => Sys2Proof.Machine.execResetSourceRelease src s
  | .resetRelease episode => Sys2Proof.Machine.execResetRelease episode s
  | .inputUndervoltage => Sys2Proof.Machine.execInputUndervoltage s
  | .inputOvervoltage => Sys2Proof.Machine.execInputOvervoltage s
  | .inputRestored => Sys2Proof.Machine.execInputRestored s
  | .vinrange centivolts => Sys2Proof.Machine.execVinrange centivolts s
  | .phaseFail domain => Sys2Proof.Machine.execPhaseFail domain s
  | .pwrDom o v => Sys2Proof.Machine.execPwrDom o v s
  | .domainChangeDone => Sys2Proof.Machine.execDomainChangeDone s
  | .pwrCap v => Sys2Proof.Machine.execPwrCap v s
  | .slowLoop pIn vin meas others => Sys2Proof.Machine.execSlowLoop pIn vin meas others s
  | .fastLoop d => Sys2Proof.Machine.execFastLoop d s
  | .droop d g => Sys2Proof.Machine.execDroop d g s
  | .droopDecay d => Sys2Proof.Machine.execDroopDecay d s
  | .thermalSensorRead x celsius => Sys2Proof.Machine.execThermalSensorRead x celsius s
  | .thermalLevelStep x => Sys2Proof.Machine.execThermalLevelStep x s
  | .controlParityError c => Sys2Proof.Machine.execControlParityError c s
  | .coreLockout c => Sys2Proof.Machine.execCoreLockout c s
  | .dieLockout idx why => Sys2Proof.Machine.execDieLockout idx why s
  | .dieReturn d pass => Sys2Proof.Machine.execDieReturn d pass s
  | .recoveryTimeout x => Sys2Proof.Machine.execRecoveryTimeout x s
  | .configParityScan b => Sys2Proof.Machine.execConfigParityScan b s
  | .bankSpareDone d => Sys2Proof.Machine.execBankSpareDone d s
  | .repairRecordWrite e => Sys2Proof.Machine.execRepairRecordWrite e s
  | .boot => Sys2Proof.Machine.execBoot s
  | .fwRecover block => Sys2Proof.Machine.execFwRecover block s
  | .recoveryMailbox image => Sys2Proof.Machine.execRecoveryMailbox image s
  | .fwCommit addr len => Sys2Proof.Machine.execFwCommit addr len s
  | .updDone => Sys2Proof.Machine.execUpdDone s
  | .fwSvnBurn => Sys2Proof.Machine.execFwSvnBurn s
  | .rootRevoke slot => Sys2Proof.Machine.execRootRevoke slot s
  | .attest nonce => Sys2Proof.Machine.execAttest nonce s
  | .devidCert => Sys2Proof.Machine.execDevidCert s
  | .attCtl o v => Sys2Proof.Machine.execAttCtl o v s
  | .attExtend o v => Sys2Proof.Machine.execAttExtend o v s
  | .regLock idx => Sys2Proof.Machine.execRegLock idx s
  | .registerWrite o addr v => Sys2Proof.Machine.execRegisterWrite o addr v s
  | .writeBack o addr v => Sys2Proof.Machine.execWriteBack o addr v s
  | .sqCfg o q v => Sys2Proof.Machine.execSqCfg o q v s
  | .resume o q v => Sys2Proof.Machine.execResume o q v s
  | .regDef o r v => Sys2Proof.Machine.execRegDef o r v s
  | .regAreaBase o r v => Sys2Proof.Machine.execRegAreaBase o r v s
  | .regAreaSize o r v => Sys2Proof.Machine.execRegAreaSize o r v s
  | .vinSenseLoss => Sys2Proof.Machine.execVinSenseLoss s
  | .cblPrsntN x level => Sys2Proof.Machine.execCblPrsntN x level s
  | .dynamicAddress a => Sys2Proof.Machine.execDynamicAddress a s
  | .rstdaa => Sys2Proof.Machine.execRstdaa s
  | .extest => Sys2Proof.Machine.execExtest s
  | .framesLocked p => Sys2Proof.Machine.execFramesLocked p s
  | .granuleMigrated => Sys2Proof.Machine.execGranuleMigrated s
  | .domainOnTimeout => Sys2Proof.Machine.execDomainOnTimeout s
  | .trstN level => Sys2Proof.Machine.execTrstN level s
  | .frontEndFrame n addr frame => Sys2Proof.Machine.execFrontEndFrame n addr frame s

end Sys2Proof.Machine
end

