-- ==== Sys2Proof/Machine/Step.lean ====
section
/-! DEFINITION. One step of the module: the command at the front of the queue, or one ACLK cycle when none
waits (log 2). -/

namespace Sys2Proof.Machine

open Sys2Proof

/-- One step. -/
def step (s : State) : Host.Outcome State Fault Refusal :=
  match s.pending with
  | [] => .next { s with aclk := s.aclk + 1 }
  | c :: rest => exec c { s with pending := rest }

/-- The state with the command a word spells at the front of its queue. The opcode table gives no bits, so no
word spells a command. -/
def State.withFetchWord (s : State) (nbits w : Nat) : State :=
  match decodeTableWord nbits w with
  | some c => { s with pending := c :: s.pending }
  | none => s

end Sys2Proof.Machine
end

