-- ==== Sys2Proof/Machine/KernelLib.lean ====
section
/-! DEFINITION. The arithmetic that the manual fixes for kernels of the Rildiby library, whose bits a compatible part
must return: the parts of a split and their chunks (R85, R90), tied and master weights (R266, R270), drop-out (R267 to R269), and the hops
of a gradient exchange (R309 to R317). No command of the block computes them: kernels do, out of instructions. -/

namespace Sys2Proof.Machine

open Sys2Proof

/-! Splits (R85, R90). -/

/-- The range of part p when n things in order are split into parts: the first, and the one after the last. -/
def partRange (n parts p : Nat) : Nat × Nat := (p * n / parts, (p + 1) * n / parts)

/-- The K steps of part p, counted from 0 (R85), and the chunks of part p when nc chunks are split (R90). -/
def partSteps (k parts p : Nat) : Nat × Nat := partRange k parts p
def partChunks (nc parts p : Nat) : Nat × Nat := partRange nc parts p

/-- The full-width partial of a range of steps accumulated from INIT in one tile. -/
def accumulated (comp : Bool) (term : Nat → Fl) (r : Nat × Nat) : Cell :=
  ((List.range (r.2 - r.1)).map (· + r.1)).foldl (fun c k => (cellStep comp c (term k)).cell) (initCell false)

/-- Partials combined in order, as one chain (R85 step 3). -/
def joinPartials : List Cell → Cell
  | [] => {}
  | c :: cs => cs.foldl (fun x y => (partialAdd x y).cell) c

/-- A reduction of k steps split into parts (R85): a chain over the parts' partials, folded last. -/
def splitReduction (comp : Bool) (term : Nat → Fl) (k parts : Nat) : Lane :=
  let c := joinPartials ((List.range parts).map (fun p => accumulated comp term (partSteps k parts p)))
  (fold c.s c.f).1

/-- The chunks of k steps, and the steps of chunk j: the last chunk may be shorter (R90). -/
def chunkCount (k c : Nat) : Nat := (k + c - 1) / c
def chunkSteps (k c j : Nat) : Nat × Nat := (j * c, min ((j + 1) * c) k)

/-- One lane of an exact-sum register (R87). -/
structure ExactLane where
  n : BitVec 256 := 0
  low : Bool := false
  high : Bool := false
  inv : Bool := false
  deriving DecidableEq, Repr

/-- A term added to a lane (R88), and two lanes of one W combined by exact addition (R90). -/
def ExactLane.plus (w : Int) (l : ExactLane) (x : Fl) : ExactLane :=
  let r := exactAdd w l.n x
  { n := r.1, low := l.low || r.2.1, high := l.high || r.2.2.1, inv := l.inv || r.2.2.2 }
def ExactLane.join (a b : ExactLane) : ExactLane :=
  { n := a.n + b.n, low := a.low || b.low, high := a.high || b.high, inv := a.inv || b.inv }

/-- The lane of a range of chunks: each chunk's partial is one term. -/
def exactChunks (comp : Bool) (term : Nat → Fl) (w : Int) (k c : Nat) (r : Nat × Nat) : ExactLane :=
  ((List.range (r.2 - r.1)).map (· + r.1)).foldl (fun l j =>
    let p := accumulated comp term (chunkSteps k c j)
    l.plus w (partialTerm p.s p.f)) {}

/-- A split reduction in exact-sum mode with chunk length c and window base w (R90). -/
def exactReduction (comp : Bool) (term : Nat → Fl) (w : Int) (k c parts : Nat) : ExactLane :=
  ((List.range parts).map (fun p => exactChunks comp term w k c (partChunks (chunkCount k c) parts p))).foldl
    ExactLane.join {}

/-- Its readout (R89). -/
def ExactLane.readout (w : Int) (l : ExactLane) : Cell :=
  if l.high || l.inv then { s := nan32, f := 0 } else (exactRead w l.n).1

/-! Weights (R266, R270). -/

/-- FP32 gradient regions of a tied weight added in rising use index (R266). -/
def tiedSum : List Lane → Lane
  | [] => 0
  | g :: gs => gs.foldl fadd g

/-- Full-width gradient regions of a tied weight added in rising use index, and folded last (R266). -/
def tiedPartials (gs : List Cell) : Lane := (fold (joinPartials gs).s (joinPartials gs).f).1

/-- The master value of a weight from its two halves, and the halves of a value (R270). -/
def masterValue (hi lo : BitVec 16) : Lane := hi ++ lo
def masterHalves (v : Lane) : BitVec 16 × BitVec 16 := (v.extractLsb' 16 16, v.extractLsb' 0 16)

/-! The three-pass split (R69). -/

/-- The BF16 planes of an FP32 value: hi, and lo = x − hi. -/
def splitPlanes (x : Lane) : BitVec 16 × BitVec 16 :=
  match dec32 x with
  | .nan => (0x7FC0, 0)
  | .inf s => (if s then 0xFF80 else 0x7F80, 0)
  | .fin .. =>
    let hi := (cvtFloat .bf16 fmtBF16 x).code
    (BitVec.ofNat 16 hi, BitVec.ofNat 16 (cvtFloat .bf16 fmtBF16 (fsub x (widen .bf16 hi))).code)

/-- The planes that the three passes multiply, in order: low of a by high of b, high by low, high by high (R42). -/
def splitPasses (a b : Lane) : List (BitVec 16 × BitVec 16) :=
  let x := splitPlanes a
  let y := splitPlanes b
  [(x.2, y.1), (x.1, y.2), (x.1, y.1)]

/-! Drop-out (R267 to R269). -/

/-- One word pair of a round of drop_word. -/
def dropPair (k : List (BitVec 16)) (r j : Nat) (a b : BitVec 16) : List (BitVec 16) :=
  let a' := (a.rotateRight 7 + b) ^^^ k.getD ((r + j) % 4) 0 ^^^ BitVec.ofNat 16 (256 * r + j)
  [a', b.rotateLeft 2 ^^^ a']

/-- One round: the four pairs, then the permutation of the words. -/
def dropRound (k w : List (BitVec 16)) (r : Nat) : List (BitVec 16) :=
  let x := (List.range 4).flatMap (fun j => dropPair k r j (w.getD (2 * j) 0) (w.getD (2 * j + 1) 0))
  [2, 7, 4, 1, 6, 3, 0, 5].map (fun i => x.getD i 0)

/-- The words a number is cut into, least significant first. -/
def words16 (n x : Nat) : List (BitVec 16) := (List.range n).map (fun i => BitVec.ofNat 16 (x / 2 ^ (16 * i)))

/-- The words before the first round. -/
def dropStart (layer step : BitVec 32) (e : Word) : List (BitVec 16) :=
  words16 4 e.toNat ++ words16 2 step.toNat ++ words16 2 layer.toNat

/-- drop_word (R268). -/
def dropWord (key : Word) (layer step : BitVec 32) (e : Word) : BitVec 32 :=
  let w := (List.range 10).foldl (dropRound (words16 4 key.toNat)) (dropStart layer step e)
  let pick := fun (ns : List Nat) => ns.foldl (fun x i => x ^^^ w.getD i 0) (0 : BitVec 16)
  pick [0, 2, 4, 6] ++ pick [1, 3, 5, 7]

/-- Is an element of a drop-out site kept (R267)? -/
def dropKeeps (key : Word) (layer step threshold : BitVec 32) (e : Word) : Bool :=
  decide (threshold.toNat ≤ (dropWord key layer step e).toNat)

/-- The mask applied to a value (R269). -/
def dropMask (keep : Bool) (scale x : Lane) : Lane := if keep then fmul x scale else 0

/-- dZ of a fused site: the drain's derivative, then the mask (R264, R269). -/
def dropDeriv (keep : Bool) (scale : Lane) (f : Fn) (a z : Lane) : Lane :=
  dropMask keep scale (fmul a (applyDeriv f z))

/-! Chains, max bytes and agreed scales (R309, R311, R313). -/

/-- The positions that reduce into the segment of an owner, in chain order: the minus chain and the plus chain. -/
def minusChain (len owner : Nat) : List Nat :=
  let b := len - 1 - (len - 1) / 2
  (List.range b).map (fun i => (owner + len - b + i) % len)
def plusChain (len owner : Nat) : List Nat :=
  let a := (len - 1) / 2
  (List.range a).map (fun i => (owner + a - i) % len)

/-- The max byte of a block (R311). -/
def maxByte (vs : List Lane) : Nat :=
  if vs.any isNan32 then 0xFF
  else match dec32 (amax vs) with
    | .fin _ m e => if m = 0 then 0 else (max 1 (min 254 (ilog2 m e + 127))).toNat
    | _ => 0

/-- m′: the table byte of a block, or the largest usable byte of the table, or 127 (R313). -/
def effectiveByte (table : List Nat) (m : Nat) : Nat :=
  if 1 ≤ m ∧ m ≤ 254 then m
  else match table.filter (fun x => decide (1 ≤ x ∧ x ≤ 254)) with
    | [] => 127
    | x :: xs => xs.foldl max x

/-- ⌈log₂ n⌉. -/
def ceilLog2 (n : Nat) : Nat := if n ≤ 1 then 0 else Nat.log2 (n - 1) + 1

/-- The agreed scales of BLOCK8 for a ring of a length, and of EXACT for a headroom (R313). -/
def block8Scale (m len : Nat) : Nat := min 246 (m + ceilLog2 len - 7)
def exactScale (m headroom : Nat) : Nat := min 253 (m + headroom)

/-! BLOCK8 (R315). -/

/-- q8: the E4M3 code of v × 2^(127 − c), with its saturation and NaN. -/
def q8 (c : Nat) (v : Lane) : Conv :=
  match dec32 v with
  | .fin s m e =>
    let k := roundCode fmtE4M3 m (e + 127 - c)
    if maxCode fmtE4M3 < k then { code := maxCode fmtE4M3 + signCode fmtE4M3 s, sat := true }
    else { code := k + signCode fmtE4M3 s }
  | _ => cvtFloat .e4m3 fmtE4M3 v

/-- deq8: value(k) × 2^(c − 127). -/
def deq8 (c k : Nat) : Lane := round32Fl (scaleFl (decodeEl .e4m3 k) c)

/-- What a chain member sums: its contribution, and what came in unless it is the first. -/
def chainSum (incoming : Option Lane) (a : Lane) : Lane :=
  match incoming with
  | none => a
  | some d => fadd d a

/-- What the owner sums: its contribution and what came in, in the order it became visible. -/
def ownerSum (incoming : List Lane) (a : Lane) : Lane := incoming.foldl fadd a

/-- The code that a chain member sends, and the result that an owner's sum gives at every position. -/
def chainCode (c : Nat) (incoming : Option Nat) (a : Lane) : Conv := q8 c (chainSum (incoming.map (deq8 c)) a)
def ownerCode (c : Nat) (incoming : List Nat) (a : Lane) : Conv := q8 c (ownerSum (incoming.map (deq8 c)) a)

/-! EXACT (R314, R316). -/

/-- The saturations and NaN elements of a slot (R315, R316). -/
structure Tally where
  sat : Nat := 0
  nans : Nat := 0
  deriving DecidableEq, Repr

/-- Two tallies added. -/
def Tally.add (a b : Tally) : Tally := { sat := a.sat + b.sat, nans := a.nans + b.nans }

/-- The tally of a conversion. -/
def Conv.tally (k : Conv) : Tally := { sat := b2n k.sat, nans := b2n k.nan }

/-- Integers added with the saturation of viadd: the sum, and whether it saturated. -/
def boundedSum (a b : Int) : Int × Bool :=
  let lim : Int := 2 ^ 31 - 1
  if a + b < -lim then (-lim, true) else if lim < a + b then (lim, true) else (a + b, false)

/-- A contribution of several micro-batch gradients at exponent code X, with the saturations of its conversions and sums
and the NaNs its conversions met (R86). -/
def exactContribution (x : Nat) (gs : List Lane) : Int × Tally :=
  gs.foldl (fun acc g =>
    let k := toBfx g x
    let r := boundedSum acc.1 (signed 32 k.code)
    (r.1, (acc.2.add k.tally).add { sat := b2n r.2 })) (0, {})

/-- An accumulated block element rescaled from exponent code X_A to X (R314). -/
def rescale (n : Int) (old new : Nat) : Int × Bool := boundedSum ((⟨n, (old : Int) - new⟩ : Dy).roundAt 0) 0

/-- The result of an integer sum: rn(n × 2^(X − 157)). -/
def exactResult (x : Nat) (n : Int) : Lane := roundDy ⟨n, (x : Int) - 157⟩ false

/-! ONEBIT (R317). -/

/-- The BF16 scale of a block: the conversion of rn(S × 2⁻⁵). -/
def onebitScale (vs : List Lane) : Conv :=
  let sum := match vs.map fabs with
    | [] => 0
    | x :: xs => xs.foldl fadd x
  cvtFloat .bf16 fmtBF16 (fmul sum 0x3D000000)

/-- The sign word of a block: element n at bit n. -/
def signWord (vs : List Lane) : Nat :=
  (vs.zipIdx.map (fun v => if bit v.1 31 then 2 ^ v.2 else 0)).foldl (· + ·) 0

/-- deq1: plus or minus the scale widened to FP32. -/
def deq1 (scale : Nat) (neg : Bool) : Lane :=
  let w := widen .bf16 scale
  if neg then fneg w else w

/-- The error memory after an encoding of v as w: rn(v − deq1(w)). -/
def errorAfter (scale : Nat) (v : Lane) : Lane := fsub v (deq1 scale (bit v 31))

/-! Wire units (R310). -/

/-- Bytes of a wire unit by XMODE, and of a slot of u units with its trailer. -/
def unitBytes : Nat → Nat
  | 0 => 2112
  | 1 => 8256
  | 2 => 448
  | _ => 64
def wireSlot (xmode u : Nat) : Nat := u * unitBytes xmode + 64

/-- The trailer of a slot: QSQ, SAT and NANS (Table 6 of file 12). -/
def trailerBytes (qsq : Lane) (sat nans : Nat) : List Byte :=
  leBytes 4 qsq.toNat ++ leBytes 4 sat ++ leBytes 4 nans ++ List.replicate 52 0

end Sys2Proof.Machine
end

