-- ==== Sys2Proof/WellFormed.lean ====
section
/-! DEFINITION. Well-formed commands: the operand ranges that the rules give and the types of Syntax.lean do
not already hold. A command outside them is judged by its own meaning, which answers a fault or a refusal by
name; Safety.lean says what a safe run is. -/

namespace Sys2Proof

/-- A core site of R6: die below 12, row below 30. -/
def siteWf (c : Nat) : Bool := decide (c / 1024 < 12) && decide (c / 32 % 32 < 30)

/-- A general register of a stream: GA0 to GA31, GE0 to GE15 (R93, R145). -/
def regWf (u : UnitId) (r : Fin 32) : Bool := u == .access || decide (r.val < 16)

/-- A scalar source of a stream. -/
def srcWf (u : UnitId) : Src → Bool
  | .reg r => regWf u r
  | .imm _ | .bind _ => true

/-- A queue a stream may push to; it pops from the others (Table 4 of file 04). -/
def pushWf (u : UnitId) (q : Fin 4) : Bool := (u == .access) == decide (q.val < 3)

/-- The second operand of a vector instruction. -/
def vsrcWf : VSrc → Bool
  | .vec _ => true
  | .scalar x => srcWf .execute x

/-- A shift count: a register GE0 to GE15, a literal 0 to 31, or a scalar binding (R159). -/
def shiftWf : Src → Bool
  | .reg r => decide (r.val < 16)
  | .imm v => decide (v.toNat < 32)
  | .bind _ => true

/-- A submission queue and a task index (R228, R232). -/
def queueWf (q : Nat) : Bool := decide (q < 4096)
def taskWf (q t : Nat) : Bool := queueWf q && decide (t < 2 ^ 20)

/-- A stream context (R203). -/
def ctxWf (k : Nat) : Bool := decide (k < 16384)

/-- A die of R4. -/
def dieWf (d : Nat) : Bool := decide (d < 12 ∨ (16 ≤ d ∧ d < 24) ∨ (32 ≤ d ∧ d < 50) ∨ d = 56 ∨ d = 60)

/-- A register window address (R439). -/
def regAddrWf (a : Nat) : Bool := decide (0x300000000000 ≤ a ∧ a < 0x304000000000)

/-- An origin of a fabric access. -/
def originWf : Origin → Bool
  | .core c => siteWf c
  | _ => true

/-- A temperature sensor of R396. -/
def sensorWf : Sensor → Bool
  | .die i => dieWf i && decide (12 ≤ i)
  | _ => true

/-- A block of configuration registers (R448). -/
def parityWf : ParityBlock → Bool
  | .queueGe q | .queueHd q => queueWf q
  | .regionGe r | .regionHd r => decide (r < 64)
  | .eventQueue e => decide (e < 256)
  | .port _ | .graphEngine _ | .store _ | .memory _ | .service => true

/-- Is a command well-formed? -/
def Instr.wf : Instr → Bool
  | .li c u d _ => siteWf c && regWf u d
  | .mov c u d a => siteWf c && regWf u d && regWf u a
  | .movLcnt c u _ x => siteWf c && srcWf u x
  | .movCount c u d _ _ => siteWf c && regWf u d
  | .add c u d a x | .sub c u d a x | .and c u d a x | .or c u d a x | .xor c u d a x | .shl c u d a x
  | .shr c u d a x | .sra c u d a x | .min c u d a x | .max c u d a x | .minu c u d a x | .maxu c u d a x
  | .seq c u d a x | .slt c u d a x | .sltu c u d a x | .mul c u d a x =>
    siteWf c && regWf u d && regWf u a && srcWf u x
  | .brz c u a _ | .brnz c u a _ => siteWf c && regWf u a
  | .brlt c u a b _ | .brltu c u a b _ | .breq c u a b _ => siteWf c && regWf u a && regWf u b
  | .loop c _ _ _ => siteWf c
  | .ldq c q _ _ _ => siteWf c && pushWf .access q
  | .pushq c u q x => siteWf c && pushWf u q && srcWf u x
  | .popq c u d q => siteWf c && !(pushWf u q) && regWf u d
  | .popqDrop c u q => siteWf c && !(pushWf u q)
  | .popv c _ q => siteWf c && !(pushWf .execute q)
  | .agen c _ _ dims => siteWf c && decide (1 ≤ dims.length ∧ dims.length ≤ 4)
  | .swait c u x => siteWf c && srcWf u x
  | .swaitRel c u b x => siteWf c && regWf u b && srcWf u x
  | .strk c u d => siteWf c && regWf u d
  | .opa c _ _ _ _ _ k => siteWf c && srcWf .execute k
  | .tstat c d _ => siteWf c && regWf .execute d
  | .drain c _ _ _ _ _ _ a _ f => siteWf c && (a.toList ++ f.toList).all (regWf .execute)
  | .vadd c _ _ b | .vsub c _ _ b | .vmul c _ _ b | .vmin c _ _ b | .vmax c _ _ b | .viadd c _ _ b
  | .vand c _ _ b | .vor c _ _ b | .vxor c _ _ b | .vcmp c _ _ _ b => siteWf c && vsrcWf b
  | .vfma c _ _ b _ => siteWf c && vsrcWf b
  | .vshl c _ _ n | .vshr c _ _ n | .vsra c _ _ n | .vrot c _ _ n => siteWf c && shiftWf n
  | .vlane c d _ n => siteWf c && regWf .execute d && shiftWf n
  | .vbcast c _ x => siteWf c && srcWf .execute x
  | .vany c d _ | .vall c d _ => siteWf c && regWf .execute d
  | .vstat c d | .vstatClr c d => siteWf c && regWf .execute d
  | .vst c _ w => siteWf c && w != .i16 && w != .i8
  | .vcvtMx c _ g _ _ | .vcvtBfx c _ _ g | .vextMx c _ _ g _ => siteWf c && regWf .execute g
  | .xclr c _ w => siteWf c && srcWf .execute w
  | .xflags c d _ => siteWf c && regWf .execute d
  | .graph q | .abort q | .streamArm q | .streamRearm q | .streamRelease q | .reshard q | .flag q => queueWf q
  | .taskReady q t | .taskPlace q t _ _ | .taskCommit q t | .wardTaskRelease q t | .cutCapture q t
  | .copy q t | .permute q t | .gather q t | .scatterAcc q t | .armingRetry q t | .streamStall q t
  | .wardRelease q t => taskWf q t
  | .streamRequest k _ | .slotFillPost k | .slotFreePost k | .passStart k => ctxWf k
  | .haspForward k c | .hpostApply k c => ctxWf k && siteWf c
  | .coreLockout c | .controlParityError c | .taskEnd c | .wardArrive c | .coreQueueDeadlock c
  | .launchSlotStrike c => siteWf c
  | .ldbind c _ _ _ | .br c _ _ | .ld c _ _ _ _ | .ldSigned c _ _ _ _ | .st c _ _ _ _ | .stq c _ _
  | .dqEntryPoppable c _ | .apush c _ _ | .xget c _ _ _ _ | .xput c _ _ _ _ | .xputMc c _ _ _ _ | .xwait c _
  | .xwaitAll c | .transferComplete c _ | .transferErrorResponse c _ | .hwait c _ _ _ | .hpost c _ _ _
  | .hslot c _ _ _ | .scancel c _ | .srearm c _ _ | .strikeWaitComplete c _ | .ward c _ _ | .endStream c _
  | .pushv c _ | .owait c _ | .accumulateAccept c | .beatEdgeEntry c | .accumulateFinal c _ | .tclr c _
  | .drainTake c | .rowOperandRead c | .drainRowSample c | .drainRowWrite c | .vld c _ _ | .vabs c _ _
  | .vneg c _ _ | .vmov c _ _ | .vsel c _ _ _ _ | .vexp2 c _ _ | .vlog2 c _ _ | .vrcp c _ _ | .vcvt c _ _ _
  | .vext c _ _ _ | .vcvtF32 c _ _ | .vpadd c _ _ _ _ | .vpfold c _ _ _ | .xadd c _ _ | .xaddp c _ _ _
  | .xrd c _ _ | .xrdp c _ _ _ | .xsave c _ | .xload c _ | .xaddi c _ => siteWf c
  | .coreWindowRead o c off len => originWf o && siteWf c && decide (off + len ≤ 0x80000)
  | .coreWindowWrite o _ c off data => originWf o && siteWf c && decide (off + data.length ≤ 0x80000)
  | .dieLockout d _ => dieWf d
  | .regLock d => dieWf d
  | .channelRetire n => decide (n < 384)
  | .sqDb o q _ | .sqCfg o q _ | .resume o q _ => originWf o && queueWf q
  | .regDef o r _ | .regAreaBase o r _ | .regAreaSize o r _ => originWf o && decide (r < 64)
  | .placeWaitExpiry r => decide (r < 64)
  | .eqCfg o e _ | .eqHead o e _ => originWf o && decide (e < 256)
  | .eventRecordWrite e | .eventInterrupt e => decide (e < 256)
  | .registerWrite o a _ | .writeBack o a _ => originWf o && regAddrWf a
  | .fabricAccess o _ len data => originWf o && decide (0 < len) && data.all (fun bs => bs.length == len)
  | .storeCfg o _ _ | .portCtl o _ _ | .portSqTail o _ _ | .portXchna o _ _ _ | .portXchnb o _ _ _
  | .clkNodeSrc o _ _ | .clkNodeGate o _ _ | .clkNodeUngate o _ _ | .clkmonCtl o _ | .rstReq o _ | .pwrDom o _
  | .attCtl o _ | .attExtend o _ => originWf o
  | .thermalSensorRead x _ | .thermalLevelStep x => sensorWf x
  | .configParityScan b => parityWf b
  | .queueDeadlock cycle => cycle.all (fun p => taskWf p.1 p.2)
  | .recoveryTimeout (.lockout c) => siteWf c
  | .fwRecover block => block.length == 256
  | .frontEndFrame _ _ frame => decide (0 < frame.length ∧ frame.length ≤ 9216)
  | .recoveryTimeout _ | .strikeTick | .requestGrant _ _ | .borrowGrant _ | .serviceHeartbeat | .laneSpare _ _ _
  | .retrainEnd _ | .retrainTimeout _ | .trainingRetry _ | .flitSend _ | .flitReceive _ _ _ | .replayTimeout _
  | .hello _ | .helloSend _ | .init _ | .initSend _ | .resetReq _ | .resetReqReceive _ | .put _ _ | .get _
  | .reducePut _ | .permutePacket _ | .flagPacket _ _ | .completion _ | .getRsp _ | .linkDescriptor _
  | .portRingid _ _ | .validClear _ _ | .channelSlotSend _ _ | .epochFence _ | .copyOut _ | .reshardComplete _
  | .rowMapUpdate _ _ | .patrolScrub _ | .rowRedirectDone _ | .memRepair _ | .memRepairEnd _ | .channelRetired
  | .handover | .hostmem _ | .por | .crystalWindow _ | .crystalTimeout | .xtallost | .clockSwitchEnd _
  | .rowClockGate _ _ | .resetN _ | .managementReset | .watchdog _ | .resetSourceRelease _ | .resetRelease _
  | .inputUndervoltage | .inputOvervoltage | .inputRestored | .vinrange _ | .phaseFail _ | .domainChangeDone
  | .pwrCap _ | .slowLoop _ _ _ _ | .fastLoop _ | .droop _ _ | .droopDecay _ | .dieReturn _ _ | .bankSpareDone _
  | .repairRecordWrite _ | .boot | .recoveryMailbox _ | .fwCommit _ _ | .updDone | .fwSvnBurn | .rootRevoke _
  | .attest _ | .devidCert | .vinSenseLoss | .cblPrsntN _ _ | .dynamicAddress _ | .rstdaa | .extest
  | .framesLocked _ | .granuleMigrated | .domainOnTimeout | .trstN _ => true

end Sys2Proof
end

