-- ==== Sys2Proof/Safety.lean ====
section
/-! DEFINITION. What a safe state is, and the words in which claims say what a step changes and what it leaves:
the forms of the state that every step keeps, when an instruction of a core issues, and the frames of a core. -/

namespace Sys2Proof.Machine

open Sys2Proof

/-- External memory and the central store stand in canonical form: addresses strictly rising, no byte 0
listed (log 5). -/
def Memory.wf (m : Assoc Byte) : Bool := Assoc.wf 0 m

/-- The flags stand in canonical form. -/
def flagsWf (s : State) : Bool := Assoc.wf 0 s.store.flags

/-- A step that answers a next state. -/
def Runs (s : State) : Prop := ∃ t, step s = .next t

/-- Nothing of the module differs but core site c and the cycle count. -/
def State.onlyCore (s t : State) (c : Nat) : Prop :=
  t = { s with cores := t.cores, aclk := t.aclk } ∧ ∀ e, e ≠ c → t.core e = s.core e

/-- A core site that exists and whose clock runs (R368). -/
abbrev State.siteRuns (s : State) (c : Nat) : Prop := siteExists c = true ∧ s.clockStopped c = false

/-- An instruction of stream u of core c over these interlocked registers issues in ACLK cycle t (R94): the
site exists and its clock runs (R368), a task runs on it, the stream has not ended, waits for nothing and holds no
instruction to try again, and t is the first cycle in which the issue interval and every register allow it. -/
abbrev State.issues (s : State) (c : Nat) (u : UnitId) (regs : List Nat) (t : Nat) : Prop :=
  siteExists c = true ∧ s.clockStopped c = false ∧ ((s.core c).stream u).again = none
    ∧ (s.core c).mayIssue u = true ∧ (s.core c).issueTime u s.aclk regs = some t

/-- A vector instruction issues: no launch-slot strike holds the vector engine (R112). -/
abbrev State.vissues (s : State) (c : Nat) (regs : List Nat) (t : Nat) : Prop :=
  s.issues c .execute regs t ∧ (s.core c).vecHeld (s.coreStrike c) = false

/-- A stream has gone to its next instruction, which may issue from cycle n on: the index and the loops as
Stream.advance gives them (R94, R127), no wait, and its end, its loop counts, its event waits and the
visibility of its writes as before. -/
def Stream.wentOn (a b : Stream) (n : Nat) : Prop :=
  b.pc = a.advance.pc ∧ b.loops = a.advance.loops ∧ b.lrun = a.advance.lrun ∧ b.nextIssue = n ∧ b.wait = .none
    ∧ b.again = a.again ∧ b.ended = a.ended ∧ b.lcnt = a.lcnt ∧ b.busy = a.busy ∧ b.visible = a.visible

/-- A register's ready cycle is t, and every other one's is as before. -/
def Stream.readyAt (a b : Stream) (regs : List Nat) (t : Nat) : Prop :=
  ∀ n, Assoc.get 0 b.ready n = if regs.contains n then t else Assoc.get 0 a.ready n

/-- No general register of the core differs. -/
def Core.sameRegs (k k' : Core) : Prop := ∀ u r, k'.reg u r = k.reg u r

/-- No general register of the core differs but register d of stream u, which holds v. -/
def Core.setsReg (k k' : Core) (u : UnitId) (d : Fin 32) (v : Word) : Prop :=
  k'.reg u d = v ∧ ∀ w r, (w ≠ u ∨ r ≠ d) → k'.reg w r = k.reg w r

/-- Nothing of the core differs but stream u. -/
def Core.onlyStream (k k' : Core) (u : UnitId) : Prop := k' = k.setStream u (k'.stream u)

/-- No vector register differs but those listed with their new lanes. -/
def Core.setsVx (k k' : Core) (vs : List (Fin 32 × List Lane)) : Prop :=
  (∀ p ∈ vs, k'.vx p.1 = p.2) ∧ ∀ v, v ∉ vs.map Prod.fst → k'.vx v = k.vx v

/-- Nothing of the core differs but the execute stream and the vector engine. -/
def Core.onlyVector (k k' : Core) : Prop := k' = { k with exe := k'.exe, vec := k'.vec }

/-- What every completed vector instruction of a class leaves: the stream at its next instruction after the
class's interval, its results ready after the class's latency, the engine busy until then (R147). -/
def Core.vectorDone (k k' : Core) (t : Nat) (c : VClass) (writes : List Nat) : Prop :=
  k.exe.wentOn k'.exe (t + c.int) ∧ k.exe.readyAt k'.exe writes (t + c.lat)
    ∧ k'.vec.idleAt = max k.vec.idleAt (t + c.lat)

/-- No exact-sum register differs. -/
def Core.sameXs (k k' : Core) : Prop := ∀ x, k'.xs x = k.xs x

/-- VSTAT is as before. -/
def Core.sameVstat (k k' : Core) : Prop :=
  k'.vec.sat = k.vec.sat ∧ k'.vec.inv = k.vec.inv ∧ k'.vec.isat = k.vec.isat

/-- Local memory differs only in the bytes of one span, which hold bs (R97). -/
def Core.writesLm (k k' : Core) (a : Nat) (bs : List Byte) : Prop :=
  ∀ n, Assoc.get 0 k'.lm n = if a ≤ n ∧ n < a + bs.length then bs.getD (n - a) 0 else Assoc.get 0 k.lm n

/-- A stream does not wait on a data queue. -/
abbrev Core.offQueues (k : Core) (u : UnitId) : Prop :=
  (k.stream u).wait.onQueue = false

/-- An access to a register at an address reaches it: it need not wait for its die, nothing refuses the access
(R415, R439), and where the operator makes it, the management endpoint carries it out (R31, R422). -/
abbrev State.regOpen (s : State) (o : Origin) (a : Nat) (write : Bool) : Prop :=
  s.dieWaits a = false ∧ s.accessCause o .plain a 8 write = none ∧ s.endpointOpen o a write = true

/-- The byte at an address after writes in order over its old value. -/
def lastWrite : List (Nat × Byte) → Nat → Byte → Byte
  | [], _, b => b
  | (x, v) :: ws, a, b => lastWrite ws a (if x = a then v else b)

end Sys2Proof.Machine
end

