-- ==== Sys2Proof/Certificates/Slice0/Obligations.lean ====
section
/-! DEFINITION. The statements for the provers. -/

open Sys2Proof Sys2Proof.Machine

/-- One step runs the command at the front of the queue on the state with the rest of the queue, and on an
empty queue it advances the count of ACLK cycles (the model's own, log 2). -/
def Claims.StepRunsFrontCommand : Prop :=
  ∀ (s : State),
    (∀ (c : Instr) (rest : List Instr), s.pending = c :: rest → step s = exec c { s with pending := rest })
      ∧ (s.pending = [] → step s = .next { s with aclk := s.aclk + 1 })

/-! Scalar and control instructions (files 05 and 06). -/

/-- The two-operand scalar instructions: what each computes (R126), as integers where the manual says signed
or unsigned, and its class's latency. -/
def aluRows (c : Nat) (u : UnitId) (d a : Fin 32) (x : Src) : List (Instr × (Word → Word → Word) × Nat) :=
  [(.add c u d a x, fun p q => p + q, 1), (.sub c u d a x, fun p q => p - q, 1),
   (.and c u d a x, fun p q => p &&& q, 1), (.or c u d a x, fun p q => p ||| q, 1),
   (.xor c u d a x, fun p q => p ^^^ q, 1),
   (.shl c u d a x, fun p q => BitVec.ofNat 64 (p.toNat * 2 ^ (q.toNat % 64)), 1),
   (.shr c u d a x, fun p q => BitVec.ofNat 64 (p.toNat / 2 ^ (q.toNat % 64)), 1),
   (.sra c u d a x, fun p q => BitVec.ofInt 64 (p.toInt / 2 ^ (q.toNat % 64)), 1),
   (.min c u d a x, fun p q => BitVec.ofInt 64 (Min.min p.toInt q.toInt), 1),
   (.max c u d a x, fun p q => BitVec.ofInt 64 (Max.max p.toInt q.toInt), 1),
   (.minu c u d a x, fun p q => BitVec.ofNat 64 (Min.min p.toNat q.toNat), 1),
   (.maxu c u d a x, fun p q => BitVec.ofNat 64 (Max.max p.toNat q.toNat), 1),
   (.seq c u d a x, fun p q => if p = q then 1 else 0, 1),
   (.slt c u d a x, fun p q => if p.toInt < q.toInt then 1 else 0, 1),
   (.sltu c u d a x, fun p q => if p.toNat < q.toNat then 1 else 0, 1),
   (.mul c u d a x, fun p q => BitVec.ofNat 64 (p.toNat * q.toNat), 3)]

/-- Every two-operand scalar instruction that issues completes: its destination holds what R126 says, the
stream goes on, and nothing else of the module changes. A form that names a register its stream does not have
is rejected by name. -/
def Claims.ScalarAluResult : Prop :=
  ∀ (s : State) (c : Nat) (u : UnitId) (d a : Fin 32) (x : Src), ∀ row ∈ aluRows c u d a x,
    (regOk u d = true → regOk u a = true → srcOk u x = true →
      ∀ t, s.issues c u (d.val :: a.val :: srcRegs x) t →
        ∃ s', exec row.1 s = .next s' ∧ s.onlyCore s' c ∧ s'.aclk = max s.aclk t
          ∧ (s.core c).onlyStream (s'.core c) u
          ∧ (s.core c).setsReg (s'.core c) u d (row.2.1 ((s.core c).reg u a) ((s.core c).src u x))
          ∧ ((s.core c).stream u).wentOn ((s'.core c).stream u) (t + 1)
          ∧ ((s.core c).stream u).readyAt ((s'.core c).stream u) [d.val] (t + row.2.2))
    ∧ (s.siteRuns c → (regOk u d && regOk u a && srcOk u x) = false →
        exec row.1 s = .refused .toolchainRejects)

/-- The instructions that set a general register to one value: the registers they name beside the destination
and the value (R111, R123, R126). -/
def moveRows (s : State) (c : Nat) (u : UnitId) (d a : Fin 32) (v : Imm) (n : Fin 4) (slot : Fin 16)
    (word : Fin 8) : List (Instr × UnitId × List Nat × Word) :=
  let k := s.core c
  [(.li c u d v, u, [], k.imm v), (.mov c u d a, u, [a.val], k.reg u a),
   (.movCount c u d false n, u, [lreg n], (Assoc.get 0 (k.stream u).lcnt n.val).zeroExtend 64),
   (.movCount c u d true n, u, [lreg n], (Assoc.get 0 (k.stream u).lrun n.val).zeroExtend 64),
   (.ldbind c d slot word, .access, [], k.bindWord slot.val word.val), (.strk c u d, u, [], s.coreStrike c)]

/-- li, mov, mov from a loop count, ldbind and strk, issued, set their destination and nothing else. strk reads the core's
copy of the strike counter. -/
def Claims.ScalarMoveResult : Prop :=
  ∀ (s : State) (c : Nat) (u : UnitId) (d a : Fin 32) (v : Imm) (n : Fin 4) (slot : Fin 16) (word : Fin 8),
    ∀ row ∈ moveRows s c u d a v n slot word, regOk u d = true → regOk u a = true →
      ∀ t, s.issues c row.2.1 (d.val :: row.2.2.1) t →
        ∃ s', exec row.1 s = .next s' ∧ s.onlyCore s' c ∧ s'.aclk = max s.aclk t
          ∧ (s.core c).onlyStream (s'.core c) row.2.1
          ∧ (s.core c).setsReg (s'.core c) row.2.1 d row.2.2.2
          ∧ ((s.core c).stream row.2.1).wentOn ((s'.core c).stream row.2.1) (t + 1)
          ∧ ((s.core c).stream row.2.1).readyAt ((s'.core c).stream row.2.1) [d.val] (t + 1)

/-- mov to a loop count sets LCNTn to bits [31:0] of its source and changes no other count and no general
register (R124, R126). -/
def Claims.LoopCountSet : Prop :=
  ∀ (s : State) (c : Nat) (u : UnitId) (n : Fin 4) (x : Src) (t : Nat), srcOk u x = true →
    s.issues c u (lreg n :: srcRegs x) t →
      ∃ s', exec (.movLcnt c u n x) s = .next s' ∧ s.onlyCore s' c
        ∧ (s.core c).onlyStream (s'.core c) u ∧ (s.core c).sameRegs (s'.core c)
        ∧ Assoc.get 0 ((s'.core c).stream u).lcnt n.val = ((s.core c).src u x).truncate 32
        ∧ (∀ m, m ≠ n.val →
            Assoc.get 0 ((s'.core c).stream u).lcnt m = Assoc.get 0 ((s.core c).stream u).lcnt m)
        ∧ ((s'.core c).stream u).pc = ((s.core c).stream u).advance.pc
        ∧ ((s'.core c).stream u).lrun = ((s.core c).stream u).advance.lrun

/-- The branches, the registers they compare and their conditions (R126). -/
def branchRows (k : Core) (c : Nat) (u : UnitId) (a b : Fin 32) (target : Nat) :
    List (Instr × List (Fin 32) × Bool) :=
  let x := k.reg u a
  let y := k.reg u b
  [(.br c u target, [], true), (.brz c u a target, [a], decide (x.toNat = 0)),
   (.brnz c u a target, [a], decide (x.toNat ≠ 0)), (.brlt c u a b target, [a, b], decide (x.toInt < y.toInt)),
   (.brltu c u a b target, [a, b], decide (x.toNat < y.toNat)),
   (.breq c u a b target, [a, b], decide (x.toNat = y.toNat))]

/-- Does a branch to an index leave a loop (R129)? -/
def leavesLoop (target : Nat) (b : LoopBody) : Bool := !(decide (b.start ≤ target ∧ target < b.stop))

/-- A branch that issues goes to its target in 3 cycles when its condition holds, ending every loop whose body
does not hold the target, innermost first, with the ended loops' running counts 0 (R129); else the stream goes
to the next instruction. No register changes. -/
def Claims.BranchResult : Prop :=
  ∀ (s : State) (c : Nat) (u : UnitId) (a b : Fin 32) (target t : Nat),
    ∀ row ∈ branchRows (s.core c) c u a b target, row.2.1.all (regOk u) = true →
      s.issues c u (row.2.1.map Fin.val) t →
        ∃ s', exec row.1 s = .next s' ∧ s.onlyCore s' c ∧ (s.core c).onlyStream (s'.core c) u
          ∧ (s.core c).sameRegs (s'.core c)
          ∧ (row.2.2 = false → ((s.core c).stream u).wentOn ((s'.core c).stream u) (t + 1))
          ∧ (row.2.2 = true →
              let x := (s.core c).stream u
              let y := (s'.core c).stream u
              y.pc = target ∧ y.nextIssue = t + 3 ∧ y.wait = .none ∧ y.lcnt = x.lcnt
                ∧ y.loops = x.loops.dropWhile (leavesLoop target)
                ∧ ∀ n, Assoc.get 0 y.lrun n =
                    if (x.loops.takeWhile (leavesLoop target)).any (fun b => b.level.val == n) then 0
                    else Assoc.get 0 x.lrun n)

/-- loop, issued: LRUNn takes LCNTn; at a count of 0 the body is skipped, and where it ends with the body of an active loop
that loop goes on; else the loop becomes the innermost one and its body begins (R127 to R129). A level already active raises an exception that ends the task, and a
body the toolchain never seals is rejected by name (R121, R127). -/
def Claims.LoopResult : Prop :=
  ∀ (s : State) (c : Nat) (u : UnitId) (n : Fin 4) (target : Nat),
    let x := (s.core c).stream u
    let cnt := Assoc.get 0 x.lcnt n.val
    (s.siteRuns c → bodyOk x.pc target x.loops = false →
        exec (.loop c u n target) s = .refused .toolchainRejects)
    ∧ ∀ t, s.issues c u [lreg n] t → bodyOk x.pc target x.loops = true →
      (x.loops.any (fun b => b.level == n) = false →
        ∃ s', exec (.loop c u n target) s = .next s' ∧ s.onlyCore s' c
          ∧ (s.core c).onlyStream (s'.core c) u ∧ (s.core c).sameRegs (s'.core c)
          ∧ (cnt ≠ 0 →
              let y := (s'.core c).stream u
              y.pc = x.pc + 1 ∧ y.loops = { level := n, start := x.pc + 1, stop := target } :: x.loops
                ∧ y.nextIssue = t + 1 ∧ y.lcnt = x.lcnt
                ∧ ∀ m, Assoc.get 0 y.lrun m = if m = n.val then cnt else Assoc.get 0 x.lrun m)
          ∧ (cnt = 0 →
              let y := (s'.core c).stream u
              y.nextIssue = t + 3 ∧ y.lcnt = x.lcnt
                ∧ ((∀ b rest, x.loops = b :: rest → target < b.stop) → y.pc = target ∧ y.loops = x.loops
                    ∧ ∀ m, Assoc.get 0 y.lrun m = if m = n.val then 0 else Assoc.get 0 x.lrun m)
                ∧ (∀ b rest, x.loops = b :: rest → target = b.stop → Assoc.get 0 x.lrun b.level.val ≠ 1 →
                    y.pc = b.start ∧ y.loops = x.loops
                      ∧ Assoc.get 0 y.lrun b.level.val = Assoc.get 0 x.lrun b.level.val - 1)))
      ∧ (x.loops.any (fun b => b.level == n) = true →
          exec (.loop c u n target) s = .next ((s.setCore c (s.core c)).coreExc c excIllegal u x.pc 0))

/-- The stream n instructions on, none of them a branch. -/
def advanceN : Nat → Stream → Stream
  | 0, st => st
  | n + 1, st => advanceN n st.advance

/-- A loop of count n over a body of straight-line instructions runs the body n times and no more: after n
times the body's length the stream stands behind the body, out of the loop, and it stood in the body at every
index before (R127, R128). -/
def Claims.LoopRunsItsCount : Prop :=
  ∀ (st : Stream) (b : LoopBody) (n : BitVec 32), st.loops = [b] → b.start < b.stop → st.pc = b.start →
    Assoc.get 0 st.lrun b.level.val = n → n ≠ 0 →
      let len := b.stop - b.start
      let out := advanceN (n.toNat * len) st
      out.pc = b.stop ∧ out.loops = [] ∧ Assoc.get 0 out.lrun b.level.val = 0
        ∧ ∀ m, m < n.toNat * len → (advanceN m st).pc = b.start + m % len ∧ (advanceN m st).loops = [b]

/-! Strikes, wards and the end of a stream. -/

/-- swait and swait.rel complete at once when the core's copy of the strike counter is at or after their strike in modular order,
else the stream waits for that strike; the wait completes when the counter reaches it (R111, R143). -/
def Claims.StrikeWaits : Prop :=
  ∀ (s : State) (c : Nat) (u : UnitId) (b : Fin 32) (x : Src),
    (∀ row ∈ [(Instr.swait c u x, srcRegs x, (s.core c).src u x),
          (Instr.swaitRel c u b x, b.val :: srcRegs x, (s.core c).reg u b + (s.core c).src u x)],
      ∀ t, regOk u b = true → srcOk u x = true → s.issues c u row.2.1 t →
        ∃ s', exec row.1 s = .next s' ∧ s.onlyCore s' c ∧ (s.core c).onlyStream (s'.core c) u
          ∧ (s.core c).sameRegs (s'.core c)
          ∧ ((s.coreStrike c - row.2.2).toNat < 2 ^ 63 →
              ((s.core c).stream u).wentOn ((s'.core c).stream u) (t + 1))
          ∧ (2 ^ 63 ≤ (s.coreStrike c - row.2.2).toNat →
              (s'.core c).stream u = { (s.core c).stream u with wait := .strike row.2.2 }))
    ∧ (∀ v, s.siteRuns c → ((s.core c).stream u).wait = .strike v → (s.coreStrike c - v).toNat < 2 ^ 63 →
        ∃ s', exec (.strikeWaitComplete c u) s = .next s' ∧ s.onlyCore s' c
          ∧ (s.core c).onlyStream (s'.core c) u ∧ (s.core c).sameRegs (s'.core c)
          ∧ ((s.core c).stream u).wentOn ((s'.core c).stream u)
              (max s.aclk ((s.core c).stream u).nextIssue + 1))

/-- ward makes its stream wait at the ward and end ends it, unless the two streams mismatch (R112, R144). -/
def Claims.WardAndEndOfStream : Prop :=
  ∀ (s : State) (c : Nat) (u : UnitId) (t : Nat), s.issues c u [] t →
    (∀ w, (s.core c).wardClash u (some w) = false →
      ∃ s', exec (.ward c u w) s = .next s' ∧ s.onlyCore s' c ∧ (s.core c).onlyStream (s'.core c) u
        ∧ (s'.core c).stream u = { (s.core c).stream u with wait := .ward w, nextIssue := t + 1 })
    ∧ ((s.core c).wardClash u none = false →
      ∃ s', exec (.endStream c u) s = .next s' ∧ s.onlyCore s' c ∧ (s.core c).onlyStream (s'.core c) u
        ∧ (s'.core c).stream u =
            { (s.core c).stream u with wait := .none, ended := true, loops := [], nextIssue := t + 1 })

/-! Local memory, data queues and address streams. -/

/-- A load that issues, whose address is aligned and in range and meets no uncorrectable word, sets its
destination to the bytes at its address, zero-extended or sign-extended, and leaves local memory (R97, R130). -/
def Claims.LoadResult : Prop :=
  ∀ (s : State) (c : Nat) (d b : Fin 32) (imm : Imm) (t : Nat), s.issues c .access [d.val, b.val] t →
    let a := ((s.core c).reg .access b + (((s.core c).imm imm).truncate 32 : BitVec 32).signExtend 64).toNat
    ∀ (n : Nat), a % 2 ^ n = 0 → a + 2 ^ n ≤ 0x60000 → (s.core c).uncorrectable a (2 ^ n) = false →
      let v := ofLe ((s.core c).lmBytes a (2 ^ n))
      let good := fun (i : Instr) (w : Word) =>
        ∃ s', exec i s = .next s' ∧ s.onlyCore s' c ∧ (s.core c).setsReg (s'.core c) .access d w
          ∧ (s'.core c).lm = (s.core c).lm ∧ (s'.core c).exe = (s.core c).exe
          ∧ (s.core c).acc.wentOn (s'.core c).acc (t + 1) ∧ (s.core c).acc.readyAt (s'.core c).acc [d.val] (t + 4)
      (∀ z : Fin 4, z.val = n → good (.ld c z d b imm) (BitVec.ofNat 64 v))
        ∧ (∀ z : Fin 3, z.val = n →
            good (.ldSigned c z d b imm) ((BitVec.ofNat (8 * 2 ^ n) v).signExtend 64))

/-- A store that issues, aligned, in range and off every uncorrectable word, writes the low bytes of its
register at its address and no other byte of local memory, and no register (R97, R130). -/
def Claims.StoreResult : Prop :=
  ∀ (s : State) (c : Nat) (z : Fin 4) (a b : Fin 32) (imm : Imm) (t : Nat),
    s.issues c .access [a.val, b.val] t →
      let x := ((s.core c).reg .access b + (((s.core c).imm imm).truncate 32 : BitVec 32).signExtend 64).toNat
      x % 2 ^ z.val = 0 → x + 2 ^ z.val ≤ 0x60000 → (s.core c).uncorrectable x (2 ^ z.val) = false →
        ∃ s', exec (.st c z a b imm) s = .next s' ∧ s.onlyCore s' c ∧ (s.core c).sameRegs (s'.core c)
          ∧ (s.core c).writesLm (s'.core c) x (leBytes (2 ^ z.val) ((s.core c).reg .access a).toNat)
          ∧ (s'.core c).exe = (s.core c).exe ∧ (s'.core c).dq = (s.core c).dq
          ∧ (s'.core c).acc.pc = (s.core c).acc.advance.pc ∧ (s'.core c).acc.nextIssue = t + 1

/-- A load, store, stq or ldq that issues with an address that is not aligned to its size, or else beyond local
memory, raises MISALIGNED or LM_RANGE (R97, R113, R130); that alignment is judged first is the model's reading (log 41), and
that stq is judged before its entry is there (log 95). An ldq with a legal number of lines, the first count of them in range
and off uncorrectable words, with room for one more, raises LM_RANGE at the line after them, which ends beyond local
memory. -/
def Claims.BadLocalAddressRaises : Prop :=
  ∀ (s : State) (c : Nat) (d b : Fin 32) (imm : Imm) (t : Nat), s.issues c .access [d.val, b.val] t →
    let a := ((s.core c).reg .access b + (((s.core c).imm imm).truncate 32 : BitVec 32).signExtend 64).toNat
    (∀ (n code : Nat),
      ((a % 2 ^ n ≠ 0 ∧ code = 2) ∨ (a % 2 ^ n = 0 ∧ 0x60000 < a + 2 ^ n ∧ code = 3)) →
        let out : Out := .next ((s.setCore c (s.core c)).coreExc c code .access (s.core c).acc.pc 0)
        (∀ z : Fin 4, z.val = n → exec (.ld c z d b imm) s = out ∧ exec (.st c z d b imm) s = out)
          ∧ (∀ z : Fin 3, z.val = n → exec (.ldSigned c z d b imm) s = out)
          ∧ (n = 6 → exec (.stq c b imm) s = out))
    ∧ (∀ (q : Fin 4) (cnt : Imm) (m : Nat), q.val < 3 → ((s.core c).imm cnt).toNat ≤ 16 →
        m < ((s.core c).imm cnt).toNat →
        (a % 64 ≠ 0 → exec (.ldq c q b imm cnt) s =
          .next ((s.setCore c (s.core c)).coreExc c 2 .access (s.core c).acc.pc 0))
          ∧ (a % 64 = 0 → (m = 0 ∨ a + 64 * m ≤ 0x60000) → 0x60000 < a + 64 * (m + 1) →
              (s.core c).offQueues .execute → (s.core c).uncorrectable a (64 * m) = false →
              ((s.core c).queue q).length + m < 16 →
              ∃ k', k'.lm = (s.core c).lm ∧ (s.core c).sameRegs k'
                ∧ exec (.ldq c q b imm cnt) s = .next ((s.setCore c k').coreExc c 3 .access (s.core c).acc.pc 0)))

/-- A push that issues with room in its queue appends its entries, not yet poppable, in order: one with the
register's eight bytes for pushq, two with a vector register's lanes for pushv (R101, R102, R130, R149). -/
def Claims.PushResult : Prop :=
  ∀ (s : State) (c : Nat) (u : UnitId) (q : Fin 4) (x : Src) (a : Fin 32),
    ∀ row ∈ [(Instr.pushq c u q x, u, q, srcRegs x, [leBytes 8 ((s.core c).src u x).toNat ++ List.replicate 56 0]),
        (Instr.pushv c a, UnitId.execute, 3, [vreg a],
          [(laneBytes ((s.core c).vx a)).take 64, (laneBytes ((s.core c).vx a)).drop 64])],
      ∀ t, srcOk u x = true → pushes row.2.1 row.2.2.1 = true → s.issues c row.2.1 row.2.2.2.1 t →
        (s.core c).offQueues (other row.2.1) →
        ((s.core c).queue row.2.2.1).length + row.2.2.2.2.length ≤ 16 →
          ∃ s', exec row.1 s = .next s' ∧ s.onlyCore s' c ∧ (s.core c).sameRegs (s'.core c)
            ∧ ((s'.core c).queue row.2.2.1).map (fun e => (e.data, e.poppable)) =
                ((s.core c).queue row.2.2.1).map (fun e => (e.data, e.poppable))
                  ++ row.2.2.2.2.map (fun d => (d, false))
            ∧ (∀ p, p ≠ row.2.2.1 → (s'.core c).queue p = (s.core c).queue p)
            ∧ (s'.core c).lm = (s.core c).lm ∧ (s'.core c).vec = (s.core c).vec
            ∧ ((s.core c).stream row.2.1).wentOn ((s'.core c).stream row.2.1) (t + row.2.2.2.2.length)

/-- ldq, issued with a legal number of lines, an aligned address, room, and every line in range and off
uncorrectable words, pushes the lines in address order (R101, R130). -/
def Claims.LdqResult : Prop :=
  ∀ (s : State) (c : Nat) (q : Fin 4) (b : Fin 32) (imm cnt : Imm) (t : Nat),
    q.val < 3 → s.issues c .access [b.val] t → (s.core c).offQueues .execute →
      let a := ((s.core c).reg .access b + (((s.core c).imm imm).truncate 32 : BitVec 32).signExtend 64).toNat
      let lines := ((s.core c).imm cnt).toNat
      1 ≤ lines → lines ≤ 16 → a % 64 = 0 → a + 64 * lines ≤ 0x60000 →
      (s.core c).uncorrectable a (64 * lines) = false → ((s.core c).queue q).length + lines ≤ 16 →
        ∃ s', exec (.ldq c q b imm cnt) s = .next s' ∧ s.onlyCore s' c ∧ (s.core c).sameRegs (s'.core c)
          ∧ ((s'.core c).queue q).map (fun e => e.data) = ((s.core c).queue q).map (fun e => e.data)
              ++ (List.range lines).map (fun j => (s.core c).lmBytes (a + 64 * j) 64)
          ∧ (∀ p, p ≠ q → (s'.core c).queue p = (s.core c).queue p) ∧ (s'.core c).lm = (s.core c).lm
          ∧ (s.core c).acc.wentOn (s'.core c).acc (t + lines)

/-- A pop that issues with its entries poppable takes them from the front: popq puts the first eight bytes
into its register, popq.drop discards, popv takes two entries as 32 lanes, stq stores one at its address
(R101, R130, R149). -/
def Claims.PopResult : Prop :=
  ∀ (s : State) (c : Nat) (u : UnitId) (d : Fin 32) (q : Fin 4) (t : Nat),
    (pushes u q = false → (s.core c).offQueues (other u) → ∀ e es, (s.core c).queue q = e :: es →
      e.poppable = true →
        (regOk u d = true → s.issues c u [d.val] t →
          ∃ s', exec (.popq c u d q) s = .next s' ∧ s.onlyCore s' c ∧ (s'.core c).queue q = es
            ∧ (s.core c).setsReg (s'.core c) u d (BitVec.ofNat 64 (leAt e.data 0 8))
            ∧ ((s.core c).stream u).wentOn ((s'.core c).stream u) (t + 1))
        ∧ (s.issues c u [] t →
          ∃ s', exec (.popqDrop c u q) s = .next s' ∧ s.onlyCore s' c ∧ (s'.core c).queue q = es
            ∧ (s.core c).sameRegs (s'.core c)
            ∧ ((s.core c).stream u).wentOn ((s'.core c).stream u) (t + 1)))
    ∧ (q.val < 3 → (s.core c).offQueues .access → s.issues c .execute [vreg d] t →
        ∀ e f es, (s.core c).queue q = e :: f :: es → e.poppable = true → f.poppable = true →
          ∃ s', exec (.popv c d q) s = .next s' ∧ s.onlyCore s' c ∧ (s'.core c).queue q = es
            ∧ (s.core c).sameRegs (s'.core c) ∧ (s.core c).setsVx (s'.core c) [(d, lanesOf 4 (e.data ++ f.data))]
            ∧ (s.core c).exe.wentOn (s'.core c).exe (t + 2))
    ∧ (∀ (b : Fin 32) (imm : Imm), s.issues c .access [b.val] t → (s.core c).offQueues .execute →
        let a := ((s.core c).reg .access b + (((s.core c).imm imm).truncate 32 : BitVec 32).signExtend 64).toNat
        a % 64 = 0 → a + 64 ≤ 0x60000 → ∀ e es, (s.core c).queue 3 = e :: es → e.poppable = true →
          e.data.length = 64 →
          ∃ s', exec (.stq c b imm) s = .next s' ∧ s.onlyCore s' c ∧ (s'.core c).queue 3 = es
            ∧ (s.core c).sameRegs (s'.core c) ∧ (s.core c).writesLm (s'.core c) a e.data)

/-- The first entry that is not poppable becomes so, no earlier than its push allows and once the drains
issued before it have written their rows (R101, R102); owait completes when no more than n accumulates are
still to enter the edge (R103, R150). -/
def Claims.EntryPoppableAndOwait : Prop :=
  ∀ (s : State) (c : Nat),
    (∀ (q : Fin 4) (front : List DqEntry) (e : DqEntry) (back : List DqEntry), s.siteRuns c →
      (s.core c).queue q = front ++ e :: back → front.all (fun x => x.poppable) = true → e.poppable = false →
      (s.core c).drainsOpen e.drainsBelow = false → (s.core c).offQueues .access → (s.core c).offQueues .execute →
        ∃ s', exec (.dqEntryPoppable c q) s = .next s' ∧ s.onlyCore s' c
          ∧ s'.aclk = max s.aclk e.at_
          ∧ s'.core c = (s.core c).setQueue q (front ++ { e with poppable := true } :: back))
    ∧ (∀ (n : Fin 2) (t : Nat), s.issues c .execute [] t →
        (s.core c).ope.q.length + (if (s.core c).ope.held.isSome then 1 else 0) ≤ n.val →
        ∃ s', exec (.owait c n) s = .next s' ∧ s.onlyCore s' c ∧ (s.core c).onlyStream (s'.core c) .execute
          ∧ (s.core c).sameRegs (s'.core c) ∧ (s.core c).exe.wentOn (s'.core c).exe (t + 1))

/-- The index of an address in a pattern, from its index in each dimension, the first dimension fastest. -/
def mixedIndex : List (Nat × Int) → List Nat → Nat
  | (n, _) :: ds, i :: is => i + n * mixedIndex ds is
  | _, _ => 0

/-- The sum of index times stride over the dimensions of a pattern. -/
def strideSum : List (Nat × Int) → List Nat → Int
  | (_, st) :: ds, i :: is => i * st + strideSum ds is
  | _, _ => 0

/-- The addresses of a pattern: with the first dimension fastest, the address at index i of each dimension is
the base plus the sum of i times that dimension's stride, modulo 2⁶⁴ (R131). -/
def Claims.PatternAddresses : Prop :=
  ∀ (p : Pattern) (is : List Nat), is.length = p.dims.length → (∀ x ∈ List.zip is p.dims, x.1 < x.2.1) →
    p.addr (mixedIndex p.dims is) = p.base + BitVec.ofInt 64 (strideSum p.dims is)
      ∧ mixedIndex p.dims is < p.total

/-- agen with nonzero counts puts its pattern behind those of its address stream, and apush puts one address behind them,
which no cycle before the second after its issue generates; nothing else of the core's address streams changes (R131 to R133). -/
def Claims.AddressStreamResult : Prop :=
  ∀ (s : State) (c : Nat) (a : AStream) (b : Fin 32) (dims : List (Src × Src)) (t : Nat),
    let k := s.core c
    (s.issues c .access (b.val :: dims.flatMap (fun p => srcRegs p.1 ++ srcRegs p.2)) t →
      1 ≤ dims.length → dims.length ≤ 4 →
      let ds := dims.map (fun p =>
        ((k.src .access p.1).toNat % 2 ^ 32, ((k.src .access p.2).truncate 32 : BitVec 32).toInt))
      (∀ d ∈ ds, d.1 ≠ 0) → ((k.ag a).settle t).patterns.length < 2 →
        ∃ s', exec (.agen c a b dims) s = .next s' ∧ s.onlyCore s' c ∧ k.sameRegs (s'.core c)
          ∧ ((s'.core c).ag a).patterns = ((k.ag a).settle t).patterns ++ [{ base := k.reg .access b, dims := ds }]
          ∧ ((s'.core c).ag a).fifo = ((k.ag a).settle t).fifo
          ∧ (∀ o, o ≠ a → (s'.core c).ag o = k.ag o) ∧ k.acc.wentOn (s'.core c).acc (t + 1))
    ∧ (s.issues c .access [b.val] t → ((k.ag a).settle t).fifo.length < 32 →
        ∃ s', exec (.apush c a b) s = .next s' ∧ s.onlyCore s' c ∧ k.sameRegs (s'.core c)
          ∧ ((s'.core c).ag a).patterns = ((k.ag a).settle t).patterns ++ [{ base := k.reg .access b, dims := [] }]
          ∧ ((s'.core c).ag a).fifo = ((k.ag a).settle t).fifo
          ∧ (((k.ag a).settle t).patterns = [] → t + 1 ≤ ((s'.core c).ag a).upTo)
          ∧ (∀ o, o ≠ a → (s'.core c).ag o = k.ag o) ∧ k.acc.wentOn (s'.core c).acc (t + 1))

/-- A stream that an instruction holds, because it could not issue, tries that instruction alone: sent again once
its registers allow, it does what it would have done and the stream goes on; every other instruction of these shapes
sent to the stream meanwhile does nothing (R94, R125, R147). -/
def Claims.HeldStreamRetries : Prop :=
  ∀ (s : State) (c : Nat) (u : UnitId) (d a : Fin 32) (x : Src), ∀ row ∈ aluRows c u d a x,
    s.siteRuns c → regOk u d = true → regOk u a = true → srcOk u x = true →
      let k := s.core c
      let free := k.setStream u { k.stream u with wait := .none, again := none }
      ((k.stream u).again = some row.1 → ∀ t, free.mayIssue u = true →
          free.issueTime u s.aclk (d.val :: a.val :: srcRegs x) = some t →
          ∃ s', exec row.1 s = .next s' ∧ s.onlyCore s' c ∧ s'.aclk = max s.aclk t
            ∧ k.setsReg (s'.core c) u d (row.2.1 (k.reg u a) (k.src u x))
            ∧ (free.stream u).wentOn ((s'.core c).stream u) (t + 1))
      ∧ ((k.stream u).again ≠ some row.1 → (k.stream u).wait ≠ .none → exec row.1 s = .next s)

/-! Transfers (R135 to R137). -/

/-- What a transfer instruction leaves, when it takes its tag: the transfer outstanding under the tag, and a
request at each store die that serves some of its bytes, at the first of them; no register, no memory and no other tag
changes. -/
def takesTag (s s' : State) (c : Nat) (tag : Fin 8) (x : Transfer) (t : Nat) : Prop :=
  let k := s.core c
  let k' := s'.core c
  s' = { s with cores := s'.cores, aclk := max s.aclk t
                store := { s.store with requests := s'.store.requests } }
    ∧ (∀ e, e ≠ c → s'.core e = s.core e) ∧ k' = { k with acc := k'.acc, xfers := k'.xfers }
    ∧ (∀ n, Assoc.get { kind := .get, lm := 0, far := 0, len := 0, instr := 0 } k'.xfers n =
        if n = tag.val then x else Assoc.get { kind := .get, lm := 0, far := 0, len := 0, instr := 0 } k.xfers n)
    ∧ k.sameRegs k' ∧ k.acc.wentOn k'.acc (t + 1)
    ∧ s'.store.requests = s.store.requests ++
        ((if x.kind = .multicast then [] else s.transferSpots c x.far.toNat x.len).map (fun p =>
          { die := p.1, queue := p.2.1, kind := .transfer c tag.val, t := s.strike
            d := s.strike + BitVec.ofNat 64 (s.storeCfg p.1).xwait, addr := p.2.2 }))

/-- xget, xput and xput.mc, issued with a free tag, a length that is a multiple of 64 bytes up to 1,048,576,
aligned addresses, a local span in range and, for xput.mc, an ordered rectangle inside the gang, take their
tag; one of length 0 completes and takes none (R135 to R137). The queue of a store die in which a transfer to or from external
memory waits, and that a length of 0 meets no range check, are the model's choice (log 84). -/
def Claims.TransferIssue : Prop :=
  ∀ (s : State) (c : Nat) (tag : Fin 8) (l f n : Fin 32) (t : Nat),
    let k := s.core c
    let lm := k.reg .access l
    let far := k.reg .access f
    let len := (k.reg .access n).toNat
    s.issues c .access [l.val, f.val, n.val] t → tag.val ∉ Assoc.keys k.xfers →
      len % 64 = 0 → len ≤ 1048576 → lm.toNat % 64 = 0 → (0 < len → lm.toNat + len ≤ 0x60000) →
        ∀ row ∈ [(Instr.xget c tag l f n, XferKind.get, decide (far.toNat % 64 = 0)),
            (Instr.xput c tag l f n, XferKind.put, decide (far.toNat % 64 = 0)),
            (Instr.xputMc c tag l f n, XferKind.multicast, s.multicastOk c far.toNat)], row.2.2 = true →
          ∃ s', exec row.1 s = .next s'
            ∧ (len ≠ 0 → takesTag s s' c tag { kind := row.2.1, lm := lm, far := far, len := len
                                               instr := k.acc.pc } t)
            ∧ (len = 0 → s.onlyCore s' c ∧ (s'.core c).xfers = k.xfers ∧ k.acc.wentOn (s'.core c).acc (t + 1))

/-- xwait and xwait.all complete when no transfer of the tag, or none at all, is outstanding; else the access
stream waits (R135). -/
def Claims.TransferWaits : Prop :=
  ∀ (s : State) (c : Nat) (t : Nat), s.issues c .access [] t →
    ∀ row ∈ (Instr.xwaitAll c, (none : Option (Fin 8)), decide ((s.core c).xfers = []))
        :: (List.ofFn (fun tag : Fin 8 => tag)).map (fun tag =>
          (Instr.xwait c tag, some tag, !((Assoc.keys (s.core c).xfers).contains tag.val))),
      ∃ s', exec row.1 s = .next s' ∧ s.onlyCore s' c ∧ (s.core c).onlyStream (s'.core c) .access
        ∧ (s.core c).sameRegs (s'.core c)
        ∧ (row.2.2 = true → (s.core c).acc.wentOn (s'.core c).acc (t + 1))
        ∧ (row.2.2 = false → (s'.core c).acc = { (s.core c).acc with wait := .tag row.2.1 })

/-- An xget from sound external memory that its store die has served completes: its bytes stand in local
memory, its tag is free, and memory is as before (R136). An xput to external memory whose journal has room completes with
the bytes of local memory at its address, and no other byte differs (R136, R403). An xget whose address is refused gets an error response
instead: the violation is logged and the core raises FABRIC_VIOLATION at the instruction that issued it (R113,
R136, R415). -/
def Claims.TransferEnds : Prop :=
  ∀ (s : State) (c : Nat) (tag : Fin 8) (x : Transfer), siteExists c = true →
    s.transferAsked c tag.val = false → (s.core c).xfers.find? (fun e => e.1 == tag.val) = some (tag.val, x) →
    (x.kind = .put → x.far.toNat + x.len ≤ extEnd → s.accessCause (.core c) (.mesh c) x.far.toNat x.len true = none →
      s.accessWaits x.far.toNat x.len true = false → (s.core c).lmErr = [] → ∀ q t s2, s.siteTask c = some (q, t) →
      let bs := (s.core c).lmBytes x.lm.toNat x.len
      s.writeFault q t (bytesAt x.far.toNat bs) = none →
      s.journal q t (granulesOf (bytesAt x.far.toNat bs)) = .ok s2 →
        ∃ s', exec (.transferComplete c tag) s = .next s' ∧ s'.ge.journal = s2.ge.journal
          ∧ (∀ a, s'.byte a = lastWrite (bytesAt x.far.toNat bs) a (s.byte a)) ∧ (s'.core c).lm = (s.core c).lm
          ∧ (s'.core c).xfers = Assoc.del (s.core c).xfers tag.val ∧ (s.core c).sameRegs (s'.core c)
          ∧ (∀ e, e ≠ c → s'.core e = s.core e))
    ∧ (x.kind = .get →
      (x.far.toNat + x.len ≤ extEnd → s.accessCause (.core c) (.mesh c) x.far.toNat x.len false = none →
        s.accessWaits x.far.toNat x.len false = false →
        s.readBursts (unitsOf 64 x.far.toNat x.len) = (s, none) →
        x.lm.toNat % 8 = 0 → x.len % 8 = 0 →
          ∃ s', exec (.transferComplete c tag) s = .next s'
            ∧ s' = { s with cores := s'.cores } ∧ (∀ e, e ≠ c → s'.core e = s.core e)
            ∧ (s.core c).writesLm (s'.core c) x.lm.toNat (s.bytes x.far.toNat x.len)
            ∧ (s'.core c).xfers = Assoc.del (s.core c).xfers tag.val ∧ (s.core c).sameRegs (s'.core c))
      ∧ (∀ cause q t y, s.accessCause (.core c) (.mesh c) x.far.toNat x.len false = some cause →
          s.siteTask c = some (q, t) → s.task q t = some y → y.status = .running → s.journalLost q t = false →
          ∃ v : VlogEntry, v.cause = cause ∧ v.addr = x.far.toNat ∧ v.origin = dieOfCore c ∧ v.unit = c
            ∧ v.kind = 0 ∧ v.queue = q ∧ v.task = t
            ∧ exec (.transferErrorResponse c tag) s =
                .next ((s.violate (s.loggingDie (.core c) cause (s.blameAt cause x.far.toNat x.len)) v).coreExc c 7 .access x.instr 0)))

/-! Hasps and stream control (R138 to R142, R206 to R209). -/

/-- hwait with the count its handle may wait on, between 1 and the slot count, completes at once when the
core's copy holds that many: the copy falls and the held count rises by it, and the home die's count falls
(R138, R139). Short of it the access stream waits. -/
def Claims.HaspWait : Prop :=
  ∀ (s : State) (c : Nat) (h : Fin 16) (kind : HaspKind) (v : Imm) (t : Nat),
    let k := s.core c
    let cnt := (k.imm v).toNat
    s.issues c .access [] t → k.isHandle h = true → kind = (if s.inbound c h then .fill else .free) →
      1 ≤ cnt → cnt ≤ k.slots h →
        (cnt ≤ (k.handle h).copy →
          ∃ s', exec (.hwait c h kind v) s = .next s'
            ∧ s' = { s with cores := s'.cores, aclk := max s.aclk t, store := { s.store with ctxs := s'.store.ctxs } }
            ∧ (∀ e, e ≠ c → s'.core e = s.core e)
            ∧ (s'.core c).handle h = { k.handle h with
                copy := (k.handle h).copy - cnt, held := (k.handle h).held + cnt }
            ∧ (∀ g, g ≠ h → (s'.core c).handle g = k.handle g) ∧ k.sameRegs (s'.core c)
            ∧ k.acc.wentOn (s'.core c).acc (t + 1)
            ∧ s'.ctx (k.ctxOf h) = (s.ctx (k.ctxOf h)).setHaspOf c (fun z => z.take kind cnt)
            ∧ (∀ m, m ≠ k.ctxOf h → s'.ctx m = s.ctx m))
        ∧ ((k.handle h).copy < cnt →
          ∃ s', exec (.hwait c h kind v) s = .next s' ∧ s.onlyCore s' c
            ∧ s'.core c = { k with acc := { k.acc with wait := .hasp h kind cnt } })

/-- hpost of counts the handle holds advances its position over the ring, lowers its held count and sends the
post to the home die (R139); the home die, with its clock running, applies the oldest post of a core for a context (R208, R209, R368). -/
def Claims.HaspPost : Prop :=
  ∀ (s : State) (c : Nat),
    (∀ (h : Fin 16) (kind : HaspKind) (v : Imm) (t : Nat),
      let k := s.core c
      let cnt := (k.imm v).toNat
      s.issues c .access [] t → k.isHandle h = true → kind = (if s.inbound c h then .free else .fill) →
        1 ≤ cnt → cnt ≤ k.slots h → cnt ≤ (k.handle h).held →
          ∃ s', exec (.hpost c h kind v) s = .next s'
            ∧ s' = { s with
                cores := s'.cores, aclk := max s.aclk t
                store := { s.store with hposts := s.store.hposts ++
                  [{ ctx := k.ctxOf h, core := c, k := kind, cnt := cnt }] } }
            ∧ (∀ e, e ≠ c → s'.core e = s.core e)
            ∧ (s'.core c).handle h = { k.handle h with
                pos := ((k.handle h).pos + cnt) % k.slots h, held := (k.handle h).held - cnt }
            ∧ (∀ g, g ≠ h → (s'.core c).handle g = k.handle g) ∧ k.acc.wentOn (s'.core c).acc (t + 1))
    ∧ (∀ (ctx : Nat) (x : Hpost), siteExists c = true → ctx < 16384 → s.inGap (16 + homeDie ctx) = false →
        s.store.hposts.find? (fun p => p.ctx == ctx && p.core == c) = some x →
          ∃ s', exec (.hpostApply ctx c) s = .next s'
            ∧ s' = { s with store := { s.store with hposts := s.store.hposts.erase x, ctxs := s'.store.ctxs } }
            ∧ s'.ctx ctx = (s.ctx ctx).setHaspOf c (fun z => z.add x.k x.cnt)
            ∧ (∀ m, m ≠ ctx → s'.ctx m = s.ctx m))

/-- hslot sets its register to the ring base plus (position + index) mod the slot count times the slot size;
srearm gives a persistent stream its next base, kept with the task that issued it and its graph; scancel cancels a stream;
a count forwarded by a home die whose clock runs reaches the core's copy (R139, R141, R142, R209, R222, R223, R368). -/
def Claims.HandleControl : Prop :=
  ∀ (s : State) (c : Nat) (h : Fin 16) (d a : Fin 32) (v : Imm) (t : Nat),
    let k := s.core c
    let idx := (k.imm v).toNat
    (s.issues c .access [d.val] t → k.isHandle h = true → idx < k.slots h →
      ∃ s', exec (.hslot c d h v) s = .next s' ∧ s.onlyCore s' c
        ∧ k.setsReg (s'.core c) .access d (k.bindWord h.val 0
            + BitVec.ofNat 64 (((k.handle h).pos + idx) % k.slots h) * k.bindWord h.val 1)
        ∧ k.acc.readyAt (s'.core c).acc [d.val] (t + 2) ∧ k.acc.wentOn (s'.core c).acc (t + 1))
    ∧ (s.issues c .access [a.val] t → k.isHandle h = true → (s.ctx (k.ctxOf h)).persist = true →
        (k.reg .access a).toNat % 64 = 0 →
      ∃ s', exec (.srearm c h a) s = .next s' ∧ (s'.ctx (k.ctxOf h)).nextBase = some (k.reg .access a).toNat
        ∧ (s'.ctx (k.ctxOf h)).rearmBy = (s.siteTask c).map (fun o => (o.1, o.2, s.graphEntry o.1)) ∧ (∀ m, m ≠ k.ctxOf h → s'.ctx m = s.ctx m)
        ∧ s'.mem = s.mem ∧ k.acc.wentOn (s'.core c).acc (t + 1))
    ∧ (s.issues c .access [] t → k.isHandle h = true →
      ∃ s', exec (.scancel c h) s = .next s' ∧ (s'.ctx (k.ctxOf h)).cancelled = true
        ∧ (s'.ctx (k.ctxOf h)).staged = [] ∧ (s'.ctx (k.ctxOf h)).borrowed = 0
        ∧ (∀ m, m ≠ k.ctxOf h → s'.ctx m = s.ctx m) ∧ s'.mem = s.mem ∧ s'.ge = s.ge
        ∧ k.acc.wentOn (s'.core c).acc (t + 1))
    ∧ (∀ ctx, siteExists c = true → ctx < 16384 → s.inGap (16 + homeDie ctx) = false → k.handlesOf ctx = [h] →
        k.acc.wait = .none →
      ∃ s', exec (.haspForward ctx c) s = .next s' ∧ s.onlyCore s' c
        ∧ (s'.core c).handle h = { k.handle h with
            copy := ((s.ctx ctx).haspOf c).count (if s.inbound c h then .fill else .free) }
        ∧ k.sameRegs (s'.core c) ∧ (s'.core c).acc = k.acc)

/-! The outer-product engine (file 02, R151 to R157). -/

/-- opa with a legal pairing, a count that is not 0, and INIT or a tile whose mode will match, issued while
a place of the engine is free (two accumulates in hand, or one and the last beat of another still at the edge, leave
none), is accepted behind them (R38, R39, R43, R50, R152); a pairing
outside Table 2 raises ILLEGAL (R39, R151). With no place the stream holds, and the engine accepts the held
accumulate in the first cycle in which one is free (R38). -/
def Claims.AccumulateIssue : Prop :=
  ∀ (s : State) (c : Nat) (t : Fin 4) (ct rt : EType) (init comp : Bool) (x : Src) (cy : Nat),
    let k := s.core c
    let n := (k.src .execute x).toNat % 2 ^ 32
    let v := k.tile t
    (srcOk .execute x = true → s.issues c .execute (srcRegs x) cy →
      (∀ p, pairing ct rt = some p → n ≠ 0 →
        (init = true ∨ v.nextClr = true ∨ (v.nextComp = comp ∧ v.nextInt = p.int)) →
          let a : Acc := { ord := k.ope.ord, tile := t, ct := ct, rt := rt, init := init, comp := comp, k := n
                           instr := k.exe.pc }
          ∃ s', exec (.opa c t ct rt init comp x) s = .next s' ∧ s.onlyCore s' c ∧ k.sameRegs (s'.core c)
            ∧ ((s'.core c).tile t).nextClr = false ∧ ((s'.core c).tile t).nextComp = comp
            ∧ ((s'.core c).tile t).nextInt = p.int ∧ ((s'.core c).tile t).cells = v.cells
            ∧ (s'.core c).ope.ord = k.ope.ord + 1
            ∧ (k.ope.places cy < 2 → (s'.core c).ope.q = k.ope.q ++ [{ a with accepted := cy }]
                ∧ k.exe.wentOn (s'.core c).exe (cy + 1))
            ∧ (2 ≤ k.ope.places cy → (s'.core c).ope.q = k.ope.q ∧ (s'.core c).ope.held = some a
                ∧ (s'.core c).exe.wait = .accumulate ∧ (s'.core c).exe.pc = k.exe.pc))
      ∧ (pairing ct rt = none →
          exec (.opa c t ct rt init comp x) s = .next ((s.setCore c k).coreExc c 1 .execute k.exe.pc 0)))
    ∧ (∀ a, s.siteRuns c → k.ope.held = some a → k.ope.q.length < 2 →
        let at_ := if k.ope.q = [] then s.aclk else max s.aclk k.ope.freeAt
        ∃ s', exec (.accumulateAccept c) s = .next s' ∧ s.onlyCore s' c ∧ k.sameRegs (s'.core c)
          ∧ s'.aclk = max s.aclk at_
          ∧ (s'.core c).ope.q = k.ope.q ++ [{ a with accepted := at_ }] ∧ (s'.core c).ope.held = none
          ∧ k.exe.wentOn (s'.core c).exe (at_ + 1))

/-- One rank-one step of an accumulate acts on every cell alone: cell (i, j) takes the step of column value i
and row value j, and STEPS counts one (R33, R44, R67, R71). -/
def Claims.RankOneStep : Prop :=
  ∀ (v : Tile) (int comp fresh : Bool) (as bs : List Fl), as.length = 32 → bs.length = 32 →
    let w := v.step int comp fresh as bs
    (∀ i j, i < 32 → j < 32 →
      Assoc.get {} w.cells (32 * i + j) =
        (stepCell int comp fresh (Assoc.get {} v.cells (32 * i + j)) (as.getD i .nan) (bs.getD j .nan)).cell)
      ∧ (∀ n, 1024 ≤ n → Assoc.get {} w.cells n = {}) ∧ w.steps = v.steps.tick
      ∧ (w.sat = true ↔ v.sat = true ∨ ∃ i j, i < 32 ∧ j < 32 ∧
          (stepCell int comp fresh (Assoc.get {} v.cells (32 * i + j)) (as.getD i .nan) (bs.getD j .nan)).sat = true)

/-- A beat whose operand addresses are there, aligned, in range and clear of drain rows and uncorrectable
words, enters the edge: of a pairing without block scales and with one step a beat, it takes one address from
COL and one from ROW and acts on the tile as one rank-one step of the values they hold, INIT's first beat
starting anew, and after the last beat a drain of the tile may sample from 33 cycles and a beat period on (R33, R36,
R44, R65, R96; Table 6 of file 02). -/
def Claims.BeatResult : Prop :=
  ∀ (s : State) (c : Nat) (a : Acc) (rest : List Acc) (x y : Word) (xs ys : List Word) (e : Nat),
    let k := s.core c
    let p := a.pair
    s.siteRuns c → k.ope.q = a :: rest → k.slot = none → isMx a.ct = false → isMx a.rt = false →
      p.steps = 1 → k.edgeFrom s.aclk a = some e → k.openDrain a.tile a.ord = none → k.ope.drains = [] →
      2 ≤ e → k.ope.begun e = false → k.writes = [] → k.exe.wait = .none →
      ((k.ag .col).settle (e - 3)).fifo = x :: xs → ((k.ag .row).settle (e - 3)).fifo = y :: ys →
      operandCheck a.ct a.rt x = none → operandCheck a.rt a.ct y = none →
      k.lmErr = [] →
        ∃ s', exec (.beatEdgeEntry c) s = .next s' ∧ s'.mem = s.mem ∧ s'.ge = s.ge ∧ s'.aclk = max s.aclk e
          ∧ (∀ f, f ≠ c → s'.core f = s.core f)
          ∧ (s'.core c).lm = k.lm ∧ k.sameRegs (s'.core c)
          ∧ ((s'.core c).ag .col).fifo = xs ∧ ((s'.core c).ag .row).fifo = ys
          ∧ (s'.core c).tile a.tile =
              (let w := (if a.beats = 0 then (k.tile a.tile).begin a else k.tile a.tile).step p.int a.comp
                (a.init && a.beats == 0)
                (operandVals a.ct (k.lmBytes x.toNat (operandBytes a.ct a.rt)) 0 [])
                (operandVals a.rt (k.lmBytes y.toNat (operandBytes a.rt a.ct)) 0 [])
               if a.beats + 1 = a.total then { w with drainFrom := e + p.p + 33 } else w)
          ∧ (∀ t, t ≠ a.tile → (s'.core c).tile t = k.tile t)
          ∧ (s'.diePower (dieOfCore c)).beats = (s.diePower (dieOfCore c)).beats + 1

/-- tclr makes every cell of an idle tile +0 with its flags, STEPS and STOV clear and CLR set, and the next operation
on the tile acts in a later cycle; tstat of an idle tile puts the tile status word into its register and leaves the tile (R48, R49, R153). An accumulate is final
no earlier than 64 cycles and a beat period after its last beat (R35, R53). -/
def Claims.TileClearStatusFinal : Prop :=
  ∀ (s : State) (c : Nat) (t : Fin 4) (d : Fin 32) (cy : Nat),
    let k := s.core c
    (k.ope.tileOps = [] → (∀ o, k.tileBusy t o = false) →
      (s.issues c .execute [] cy →
        ∃ s', exec (.tclr c t) s = .next s' ∧ s.onlyCore s' c ∧ k.sameRegs (s'.core c)
          ∧ (s'.core c).tile t = { from_ := max (max cy (k.tile t).from_) (k.tile t).opFrom + 1 } ∧ (∀ z, z ≠ t → (s'.core c).tile z = k.tile z)
          ∧ k.exe.wentOn (s'.core c).exe (cy + 1))
      ∧ (regOk .execute d = true → s.issues c .execute [d.val] cy → d.val ∉ k.exe.busy →
        ∃ s', exec (.tstat c d t) s = .next s' ∧ s.onlyCore s' c
          ∧ k.setsReg (s'.core c) .execute d (k.tile t).word
          ∧ (∀ z, (s'.core c).tile z = k.tile z) ∧ k.exe.readyAt (s'.core c).exe [d.val]
              (max (max cy (k.tile t).from_) (k.tile t).opFrom + 2)))
    ∧ (∀ a, s.siteRuns c → k.ope.filling = [a] → a.tile = t → k.ope.tileOps = [] →
        ∃ s', exec (.accumulateFinal c t) s = .next s' ∧ s.onlyCore s' c
          ∧ s'.aclk = max s.aclk (a.edge + a.pair.p + 64) ∧ s'.core c = { k with ope := { k.ope with filling := [] } })

/-- A drain with legal options issues and holds its stream (R154, R157); the drain path takes it when fewer
than two drains still sample and its addresses are there, aligned and in range (R60, R155); its ROW operand is
read once, in its type's lanes (R58). -/
def Claims.DrainIssueAndTake : Prop :=
  ∀ (s : State) (c : Nat),
    let k := s.core c
    (∀ (t : Fin 4) (dst : DrainDst) (ot : EType) (fn : Fn) (comb : Comb) (op : SecondOp) (al : Option (Fin 32))
        (clr : Bool) (fl : Option (Fin 32)) (cy : Nat),
      (∀ r ∈ al.toList ++ fl.toList, r.val < 16) →
      s.issues c .execute ((al.toList ++ fl.toList).map Fin.val) cy →
      let alpha : Lane := (al.map (fun r => ((k.reg .execute r).truncate 32 : Lane))).getD 0x3F800000
      (dst = .lm ∨ (s.drainTarget c).isSome = true) →
        (drainOk (k.tile t).nextInt ot fn comb op alpha = true →
          ∃ s', exec (.drain c t dst ot fn comb op al clr fl) s = .next s' ∧ s.onlyCore s' c
            ∧ k.sameRegs (s'.core c) ∧ (s'.core c).tiles = k.tiles ∧ (s'.core c).exe.wait = .drain
            ∧ (s'.core c).exe.pc = k.exe.pc
            ∧ (s'.core c).ope.heldDrain = some
                { ord := k.ope.ord, tile := t, dst := dst, ot := ot, fn := fn, comb := comb, op := op
                  alpha := alpha, clr := clr, flags := fl, instr := k.exe.pc, int := (k.tile t).nextInt })
        ∧ (drainOk (k.tile t).nextInt ot fn comb op alpha = false →
            exec (.drain c t dst ot fn comb op al clr fl) s
              = .next ((s.setCore c k).coreExc c 1 .execute k.exe.pc 0)))
    ∧ (∀ (d : Drain), s.siteRuns c → k.ope.heldDrain = some d →
        (k.ope.drains.filter (fun x => decide (x.sampled < 32))).length < 2 →
        let now := if (k.ope.drains.filter (fun x => decide (x.sampled < 32))).length = 0 then s.aclk
          else max s.aclk k.ope.placeAt
        let fifo := ((k.ag .drain).settle now).fifo
        let got := d.withAddrs (fifo.take d.addrCount)
        d.addrCount ≤ fifo.length → drainCheck got.2 = none →
          ∃ s', exec (.drainTake c) s = .next s' ∧ s.onlyCore s' c ∧ k.sameRegs (s'.core c)
            ∧ (s'.core c).ope.heldDrain = none
            ∧ (s'.core c).ope.drains = k.ope.drains ++ [{ got.1 with takenAt := now }]
            ∧ ((s'.core c).ag .drain).fifo = fifo.drop d.addrCount
            ∧ (d.clr = true → ((s'.core c).tile d.tile).nextClr = true)
            ∧ (∀ z, ((s'.core c).tile z).cells = (k.tile z).cells)
            ∧ (s'.core c).exe.nextIssue = now + 1)
    ∧ (∀ (d : Drain) (ty : EType), s.siteRuns c → k.ope.drains.find? Drain.needsRow = some d →
        d.op = .row ty → k.drainAhead d.ord d.opBase.toNat (opSpan d.op) = false → k.lmErr = [] →
          let t := max d.takenAt (k.visibleAt d.ord d.opBase.toNat (opSpan d.op)) + (opSpan d.op + 63) / 64
          ∃ s', exec (.rowOperandRead c) s = .next s' ∧ s.onlyCore s' c ∧ s'.aclk = max s.aclk t
            ∧ (s'.core c).lm = k.lm ∧ (s'.core c).tiles = k.tiles
            ∧ (s'.core c).ope.drains = k.ope.drains.map (fun x => if x.ord = d.ord then
                { d with rowOp := some (opLanes ty (k.lmBytes d.opBase.toNat (opSpan d.op))), rowOpAt := t } else x))

/-- The drain in progress samples its next row, through the drain path's steps, and clears the row's cells
when asked (R56, R58, R59); with its last row it leaves the tile CLR with STEPS 0 when asked (R59). When its last row
is due, converted by then, it reports the tile's flags as they stand to its register and clears them, and also where
the outbound port holds the row (R59, R154; which cycle counts, and that a later tile clear changes nothing of them, is
the model's reading, DEDUCED in log 38). A sampled row is written to local memory at its place, byte by byte, and to
nothing else, in the first cycle in which no read of the operand port holds it, once every beat that can read its operands
up to that cycle has entered the edge (R58 to R60, R98; log 86). -/
def Claims.DrainRows : Prop :=
  ∀ (s : State) (c : Nat) (d : Drain) (more : List Drain),
    let k := s.core c
    s.siteRuns c → k.ope.drains = d :: more → k.lmErr = [] →
      (∀ t, d.sampled < 31 → d.op = .absent → d.shadow = none → (∀ w ∈ k.nextWrite, t < w.2.2.2) →
        k.sampleAt d = some t → (∀ x ∈ more, x.ord ≠ d.ord) →
          let cells := Assoc.span {} (k.tile d.tile).cells (32 * d.sampled) 32
          let out := drainRow d cells (List.replicate 32 0)
          ∃ s', exec (.drainRowSample c) s = .next s' ∧ s.onlyCore s' c ∧ s'.aclk = max s.aclk t
            ∧ k.sameRegs (s'.core c) ∧ (s'.core c).lm = k.lm
            ∧ ((s'.core c).ope.drains.head?.map (fun x => (x.sampled, x.rows)))
                = some (d.sampled + 1, d.rows ++ [(out.1, out.2.1, t)])
            ∧ (s'.core c).ope.drains.tail = more
            ∧ (∀ n, Assoc.get {} ((s'.core c).tile d.tile).cells n =
                if d.clr = true ∧ 32 * d.sampled ≤ n ∧ n < 32 * d.sampled + 32 then {}
                else Assoc.get {} (k.tile d.tile).cells n)
            ∧ (∀ z, z ≠ d.tile → (s'.core c).tile z = k.tile z))
      ∧ (∀ t, d.sampled = 31 → d.op = .absent → d.shadow = none → (∀ w ∈ k.nextWrite, t < w.2.2.2) →
          k.sampleAt d = some t → k.ope.tileOps = [] → k.ope.reportsAhead d = false →
          let v := k.tile d.tile
          let out := drainRow d (Assoc.span {} v.cells (32 * 31) 32) (List.replicate 32 0)
          ∃ s', exec (.drainRowSample c) s = .next s' ∧ s.onlyCore s' c ∧ k.sameRegs (s'.core c)
            ∧ ((s'.core c).tile d.tile).sat = v.sat ∧ ((s'.core c).tile d.tile).inv = (v.inv || out.2.2.2)
            ∧ ((s'.core c).tile d.tile).dsat = (v.dsat || out.2.2.1)
            ∧ ((s'.core c).tile d.tile).raised = v.raised
            ∧ ((s'.core c).tile d.tile).clr = (v.clr || d.clr)
            ∧ ((s'.core c).tile d.tile).steps = (if d.clr then {} else v.steps)
            ∧ (s'.core c).ope.nextLong = t + d.r)
      ∧ (∀ row sc t r, d.written = 31 → d.rows = [(row, sc, t)] → d.flags = some r → isMx d.ot = false →
          let v := k.tile d.tile
          let u := t + d.latency
          let sat := v.sat || v.raised.any (fun e => decide (e.1 ≤ u) && e.2.1)
          let inv := v.inv || v.raised.any (fun e => decide (e.1 ≤ u) && e.2.2.1)
          let dsat := v.dsat || v.raised.any (fun e => decide (e.1 ≤ u) && e.2.2.2)
          let word := d.kept.getD (BitVec.ofNat 64 (2 * sat.toNat + 4 * inv.toNat + 8 * dsat.toNat))
          let told := fun (s' : State) => k.setsReg (s'.core c) .execute r word
            ∧ Assoc.get 0 (s'.core c).exe.ready r.val = u ∧ r.val ∉ (s'.core c).exe.busy
            ∧ (d.kept.isSome = true → (s'.core c).tile d.tile = v)
            ∧ (d.kept = none → (s'.core c).tile d.tile
                = { v with sat := false, inv := false, dsat := false
                           raised := v.raised.filter (fun e => decide (u < e.1)) })
            ∧ (∀ z, z ≠ d.tile → (s'.core c).tile z = k.tile z)
          (d.dst = .lm → (∀ x ∈ more, x.ord ≠ d.ord) →
            s.readsFirst c (k.ope.bankFree (linesOf (d.dstBase.toNat + 31 * row.length) row.length) u) = false →
            ∃ s', exec (.drainRowWrite c) s = .next s' ∧ s.onlyCore s' c ∧ told s'
              ∧ k.writesLm (s'.core c) (d.dstBase.toNat + 31 * row.length) row
              ∧ (s'.core c).ope.drains.length = more.length)
          ∧ (∀ n, d.dst = .port → s.drainTarget c = some n → (s.ctx n).portRoom = 0 →
            ∃ s', exec (.drainRowWrite c) s = .next s' ∧ s.onlyCore s' c ∧ told s' ∧ (s'.core c).lm = k.lm
              ∧ (s'.core c).ope.drains.head?.map (fun x => (x.rows, x.blocked)) = some (d.rows, true)))
      ∧ (∀ row sc t more', d.dst = .lm → d.rows = (row, sc, t) :: more' → isMx d.ot = false → d.written < 31 →
          (∀ x ∈ more, x.ord ≠ d.ord) →
          let u := t + d.latency
          let w := k.ope.bankFree (linesOf (d.dstBase.toNat + d.written * row.length) row.length) u
          s.readsFirst c w = false →
          ∃ s', exec (.drainRowWrite c) s = .next s' ∧ s.onlyCore s' c ∧ k.sameRegs (s'.core c)
            ∧ s'.aclk = max s.aclk w ∧ k.writesLm (s'.core c) (d.dstBase.toNat + d.written * row.length) row
            ∧ (s'.core c).tiles = k.tiles
            ∧ ((s'.core c).ope.drains.head?.map (fun x => (x.written, x.rows)))
                = some (d.written + 1, more'.map (fun r => (r.1, r.2.1, r.2.2 + (w - u)))))

/-! The vector engine (R145 to R163). -/

/-- A vector instruction that wrote vector registers and left the other state of the engine: the engine's
VSTAT takes the flags given. -/
def vectorResult (s s' : State) (c t : Nat) (cls : VClass) (writes : List Nat) (vs : List (Fin 32 × List Lane))
    (sat inv : Bool) (count : Nat) : Prop :=
  let k := s.core c
  let k' := s'.core c
  s.onlyCore s' c ∧ s'.aclk = max s.aclk t ∧ k.onlyVector k' ∧ k.sameXs k' ∧ k.setsVx k' vs
    ∧ k.vectorDone k' t cls writes ∧ k'.vec.sat = (k.vec.sat || sat) ∧ k'.vec.inv = (k.vec.inv || inv)
    ∧ k'.vec.isat = k.vec.isat.addN count

/-- Lane by lane: lane i of the result is f of lane i of each operand. -/
def lanes2 (f : Lane → Lane → Lane) (a b : List Lane) : List Lane := List.zipWith f a b

/-- The lane-by-lane instructions of two operands (R159): class, whether NaN results set VSTAT.INV, what a lane
computes. -/
def vbinRows (c : Nat) (d a : Fin 32) (b : VSrc) : List (Instr × VClass × Bool × (Lane → Lane → Lane)) :=
  [(.vadd c d a b, clsVA, true, fadd), (.vsub c d a b, clsVA, true, fsub), (.vmul c d a b, clsVA, true, fmul),
   (.vmin c d a b, clsVA, true, fmin), (.vmax c d a b, clsVA, true, fmax),
   (.vand c d a b, clsVL, false, fun x y => x &&& y), (.vor c d a b, clsVL, false, fun x y => x ||| y),
   (.vxor c d a b, clsVL, false, fun x y => x ^^^ y),
   (.vcmp c .eq d a b, clsVL, false, fun x y => if feq x y then 0xFFFFFFFF else 0),
   (.vcmp c .lt d a b, clsVL, false, fun x y => if flt x y then 0xFFFFFFFF else 0),
   (.vcmp c .le d a b, clsVL, false, fun x y => if flt x y || feq x y then 0xFFFFFFFF else 0)]

/-- A lane-by-lane instruction of two operands, issued, sets its destination and, for the binary32 operations,
VSTAT.INV when a lane result is NaN; no other vector register, general register, exact sum or byte of local
memory changes. A scalar operand that the execute unit does not have is rejected by name. -/
def Claims.VectorBinaryResult : Prop :=
  ∀ (s : State) (c : Nat) (d a : Fin 32) (b : VSrc), ∀ row ∈ vbinRows c d a b,
    (vsrcOk b = true → ∀ t, s.vissues c (vreg d :: vreg a :: vsrcRegs b) t →
      let r := lanes2 row.2.2.2 ((s.core c).vx a) ((s.core c).vsrc b)
      ∃ s', exec row.1 s = .next s' ∧ (s.core c).sameRegs (s'.core c)
        ∧ vectorResult s s' c t row.2.1 [vreg d] [(d, r)] false (row.2.2.1 && r.any isNan32) 0)
    ∧ (s.siteRuns c → vsrcOk b = false → exec row.1 s = .refused .toolchainRejects)

/-- The lane-by-lane instructions of one operand. -/
def vunRows (c : Nat) (d a : Fin 32) : List (Instr × VClass × Bool × (Lane → Lane)) :=
  [(.vabs c d a, clsVL, false, fun x => BitVec.ofNat 32 (x.toNat % 2 ^ 31)),
   (.vneg c d a, clsVL, false, fun x => x ^^^ 0x80000000), (.vmov c d a, clsVL, false, fun x => x),
   (.vexp2 c d a, clsVT, true, exp2c), (.vlog2 c d a, clsVT, true, log2c), (.vrcp c d a, clsVT, true, rcp),
   (.vcvtF32 c d a, clsVC, true, ofInt32)]

/-- The instructions that move lanes of one vector register by a number from 0 to 31. -/
def vshiftRows (c : Nat) (d a : Fin 32) (n : Src) : List (Instr × (Nat → List Lane → List Lane)) :=
  [(.vshl c d a n, fun n ls => ls.map (fun x => BitVec.ofNat 32 (x.toNat * 2 ^ n))),
   (.vshr c d a n, fun n ls => ls.map (fun x => BitVec.ofNat 32 (x.toNat / 2 ^ n))),
   (.vsra c d a n, fun n ls => ls.map (fun x => BitVec.ofInt 32 (x.toInt / 2 ^ n))),
   (.vrot c d a n, fun n ls => (List.range 32).map (fun i => ls.getD ((i + n) % 32) 0))]

/-- The instructions of one vector operand, the shifts and the rotation by bits [4:0] of their source, and
vbcast and vsel, issued, set their destination only (R159). -/
def Claims.VectorUnaryResult : Prop :=
  ∀ (s : State) (c : Nat) (d a : Fin 32) (t : Nat),
    let k := s.core c
    (∀ row ∈ vunRows c d a, s.vissues c [vreg d, vreg a] t →
      let r := (k.vx a).map row.2.2.2
      ∃ s', exec row.1 s = .next s' ∧ k.sameRegs (s'.core c)
        ∧ vectorResult s s' c t row.2.1 [vreg d] [(d, r)] false (row.2.2.1 && r.any isNan32) 0)
    ∧ (∀ (n : Src), ∀ row ∈ vshiftRows c d a n, shiftOk n = true →
        s.vissues c (vreg d :: vreg a :: srcRegs n) t →
          ∃ s', exec row.1 s = .next s' ∧ k.sameRegs (s'.core c)
            ∧ vectorResult s s' c t clsVL [vreg d] [(d, row.2 ((k.src .execute n).toNat % 32) (k.vx a))] false false 0)
    ∧ (∀ (x : Src), srcOk .execute x = true → s.vissues c (vreg d :: srcRegs x) t →
        ∃ s', exec (.vbcast c d x) s = .next s' ∧ k.sameRegs (s'.core c)
          ∧ vectorResult s s' c t clsVL [vreg d]
              [(d, List.replicate 32 (BitVec.ofNat 32 (k.src .execute x).toNat))] false false 0)
    ∧ (∀ (m b : Fin 32), s.vissues c [vreg d, vreg m, vreg a, vreg b] t →
        ∃ s' r, exec (.vsel c d m a b) s = .next s' ∧ k.sameRegs (s'.core c)
          ∧ vectorResult s s' c t clsVL [vreg d] [(d, r)] false false 0
          ∧ ∀ (i j : Nat) (x y z : Lane), (k.vx m)[i]? = some x → (k.vx a)[i]? = some y → (k.vx b)[i]? = some z →
              ∃ w, r[i]? = some w ∧ w.getLsbD j = if x.getLsbD j then y.getLsbD j else z.getLsbD j)

/-- viadd adds as signed integers and saturates at 0x7FFF_FFFF and 0x8000_0001, counting the saturated lanes
in ISAT; vfma rounds the exact a × b + x once per lane (R159, R160). -/
def Claims.VectorAddAndFma : Prop :=
  ∀ (s : State) (c : Nat) (d a : Fin 32) (b : VSrc) (t : Nat), vsrcOk b = true →
    let k := s.core c
    (s.vissues c (vreg d :: vreg a :: vsrcRegs b) t →
      let sums := List.zipWith (fun (x y : Lane) => x.toInt + y.toInt) (k.vx a) (k.vsrc b)
      ∃ s', exec (.viadd c d a b) s = .next s' ∧ k.sameRegs (s'.core c)
        ∧ vectorResult s s' c t clsVA [vreg d]
            [(d, sums.map (fun n => BitVec.ofInt 32 (Max.max (-(2 ^ 31 - 1)) (Min.min (2 ^ 31 - 1) n))))] false false
            (sums.filter (fun n => decide (n < -(2 ^ 31 - 1) ∨ 2 ^ 31 - 1 < n))).length)
    ∧ (∀ x, s.vissues c (vreg d :: vreg a :: vreg x :: vsrcRegs b) t →
        let r := List.zipWith (fun p z => ffma p.1 p.2 z) (List.zip (k.vx a) (k.vsrc b)) (k.vx x)
        ∃ s', exec (.vfma c d a b x) s = .next s' ∧ k.sameRegs (s'.core c)
          ∧ vectorResult s s' c t clsVA [vreg d] [(d, r)] false (r.any isNan32) 0)

/-- The vector instructions whose result is a scalar register: lane n of a register, whether any or every lane
is not 0, and the flags of an exact sum (R159, R163). -/
def vscalarRows (k : Core) (c : Nat) (d a : Fin 32) (n : Src) (x : Fin 8) : List (Instr × List Nat × Word) :=
  [(.vlane c d a n, vreg a :: srcRegs n,
      BitVec.ofNat 64 ((k.vx a).getD ((k.src .execute n).toNat % 32) 0).toNat),
   (.vany c d a, [vreg a], if ∃ l ∈ k.vx a, l ≠ 0 then 1 else 0),
   (.vall c d a, [vreg a], if ∀ l ∈ k.vx a, l ≠ 0 then 1 else 0),
   (.xflags c d x, [xreg x], (k.xs x).flagWord)]

/-- They set their scalar destination and nothing else; vstat reads the VSTAT word, after every earlier vector
instruction has completed, and vstat.clr clears SAT and INV as well but not ISAT (R160). -/
def Claims.VectorToScalar : Prop :=
  ∀ (s : State) (c : Nat) (d a : Fin 32) (n : Src) (x : Fin 8) (t : Nat), d.val < 16 →
    let k := s.core c
    (∀ row ∈ vscalarRows k c d a n x, shiftOk n = true → s.vissues c (d.val :: row.2.1) t →
      ∃ s', exec row.1 s = .next s' ∧ k.setsReg (s'.core c) .execute d row.2.2
        ∧ vectorResult s s' c t clsVL [d.val] [] false false 0)
    ∧ (∀ clr : Bool, s.issues c .execute [d.val] t →
        ∃ s', exec (if clr then .vstatClr c d else .vstat c d) s = .next s' ∧ s.onlyCore s' c
          ∧ k.setsReg (s'.core c) .execute d (BitVec.ofNat 64 (k.vec.isat.n.toNat * 2 ^ 16
              + (if k.vec.isat.ov then 8 else 0) + (if k.vec.inv then 4 else 0) + (if k.vec.sat then 2 else 0)))
          ∧ (s'.core c).vec = (if clr then { k.vec with sat := false, inv := false } else k.vec)
          ∧ (s'.core c).exe.nextIssue = max t k.vec.idleAt + 1)

/-- The lane of a load of n bytes, extended as the width says. -/
def loadedLane (w : VWidth) (bs : List Byte) (i : Nat) : Lane :=
  match w with
  | .w32 => BitVec.ofNat 32 (leAt bs (4 * i) 4)
  | .u16 => (BitVec.ofNat 16 (leAt bs (2 * i) 2)).zeroExtend 32
  | .i16 => (BitVec.ofNat 16 (leAt bs (2 * i) 2)).signExtend 32
  | .u8 => (BitVec.ofNat 8 (leAt bs i 1)).zeroExtend 32
  | .i8 => (BitVec.ofNat 8 (leAt bs i 1)).signExtend 32

/-- vld, vst, xsave, xload and xaddi take the next address of their stream; with it there, aligned, in range
and clear of drain rows and error marks, a load gives the bytes of local memory and a store writes them: 32
lanes in the width, or the 1,088-byte image of an exact sum (R95, R109, R110, R158, R163). -/
def Claims.VectorLoadStore : Prop :=
  ∀ (s : State) (c : Nat) (d : Fin 32) (w : VWidth) (x : Fin 8) (t : Nat) (a : Word) (rest : List Word),
    let k := s.core c
    k.lmErr = [] → k.ope.drains = [] → k.writes = [] → s.aclk ≤ t →
    (((k.ag .vload).settle t).fifo = a :: rest →
      (s.vissues c [vreg d] t → a.toNat % (if widthBytes w = 1 then 32 else 64) = 0 →
          a.toNat + 32 * widthBytes w ≤ 0x60000 →
        ∃ s', exec (.vld c d w) s = .next s' ∧ s.onlyCore s' c ∧ k.sameRegs (s'.core c) ∧ (s'.core c).lm = k.lm
          ∧ ((s'.core c).ag .vload).fifo = rest ∧ k.vectorDone (s'.core c) t clsEL [vreg d]
          ∧ k.setsVx (s'.core c) [(d, (List.range 32).map
              (loadedLane w (k.lmBytes a.toNat (32 * widthBytes w))))])
      ∧ (s.vissues c [xreg x] t → a.toNat % 64 = 0 → a.toNat + 1088 ≤ 0x60000 →
        let img := xsOfImage (k.lmBytes a.toNat 1088)
        (∃ s', exec (.xload c x) s = .next s' ∧ s.onlyCore s' c ∧ k.sameRegs (s'.core c) ∧ (s'.core c).lm = k.lm
          ∧ (s'.core c).xs x = img ∧ (∀ y, y ≠ x → (s'.core c).xs y = k.xs y)
          ∧ ((s'.core c).ag .vload).fifo = rest)
        ∧ (img.w = (k.xs x).w →
          ∃ s', exec (.xaddi c x) s = .next s' ∧ s.onlyCore s' c ∧ k.sameRegs (s'.core c) ∧ (s'.core c).lm = k.lm
            ∧ (∀ i, i < 32 → Assoc.get 0 ((s'.core c).xs x).n i = Assoc.get 0 (k.xs x).n i + Assoc.get 0 img.n i)
            ∧ ((s'.core c).xs x).w = img.w ∧ ((s'.core c).xs x).low = ((k.xs x).low || img.low)
            ∧ ((s'.core c).xs x).high = ((k.xs x).high || img.high)
            ∧ ((s'.core c).xs x).inv = ((k.xs x).inv || img.inv)
            ∧ (∀ y, y ≠ x → (s'.core c).xs y = k.xs y))))
    ∧ (((k.ag .vstore).settle t).fifo = a :: rest →
      (s.vissues c [vreg d] t → w ≠ .i16 → w ≠ .i8 → (k.vx d).length = 32 →
          a.toNat % (if widthBytes w = 1 then 32 else 64) = 0 → a.toNat + 32 * widthBytes w ≤ 0x60000 →
        ∃ s', exec (.vst c d w) s = .next s' ∧ s.onlyCore s' c ∧ k.sameRegs (s'.core c)
          ∧ (∀ v, (s'.core c).vx v = k.vx v) ∧ ((s'.core c).ag .vstore).fifo = rest
          ∧ k.writesLm (s'.core c) a.toNat ((k.vx d).flatMap (fun l => leBytes (widthBytes w) l.toNat)))
      ∧ (s.vissues c [xreg x] t → a.toNat % 64 = 0 → a.toNat + 1088 ≤ 0x60000 →
        ∃ s', exec (.xsave c x) s = .next s' ∧ s.onlyCore s' c ∧ k.sameRegs (s'.core c) ∧ k.sameXs (s'.core c)
          ∧ k.writesLm (s'.core c) a.toNat (k.xs x).image))

/-- The conversions of R161 between binary32 lanes and the element types: what each lane becomes, which
saturations and NaNs it notes, and the block scale that vcvt.mx gives. -/
def Claims.VectorConvertResult : Prop :=
  ∀ (s : State) (c : Nat) (d a g : Fin 32) (ty : EType) (t : Nat), g.val < 16 →
    let k := s.core c
    let conv := fun (f : Lane → Conv) => (k.vx a).map f
    let codes := fun (cs : List Conv) => cs.map (fun x => BitVec.ofNat 32 x.code)
    let sats := fun (cs : List Conv) => (cs.filter (fun x => x.sat)).length
    (s.vissues c [vreg d, vreg a] t →
      (ty ∈ [EType.e4m3, .e5m2, .bf16, .fp16, .int8, .int32] →
        let cs := conv (fun x => (convert ty x).getD { code := 0 })
        ∃ s', exec (.vcvt c d a ty) s = .next s' ∧ k.sameRegs (s'.core c)
          ∧ vectorResult s s' c t clsVC [vreg d] [(d, codes cs)] (decide (sats cs ≠ 0)) (cs.any (fun x => x.nan))
              (if ty = .int8 ∨ ty = .int32 then sats cs else 0))
      ∧ (ty ∈ [EType.e4m3, .e5m2, .int8, .bf16, .fp16, .mhi] →
        let r := (k.vx a).map (fun x => widen ty (x.toNat % 2 ^ etypeBits ty))
        ∃ s', exec (.vext c d a ty) s = .next s' ∧ k.sameRegs (s'.core c)
          ∧ vectorResult s s' c t clsVC [vreg d] [(d, r)] false (r.any isNan32) 0))
    ∧ (isMx ty = true →
      (s.vissues c [vreg d, g.val, vreg a] t →
        let b := mxBlock ty (k.vx a)
        ∃ s', exec (.vcvtMx c d g a ty) s = .next s' ∧ k.setsReg (s'.core c) .execute g (BitVec.ofNat 64 b.scale)
          ∧ vectorResult s s' c t clsVC [vreg d, g.val] [(d, codes b.elems)] b.sat b.nan 0)
      ∧ (s.vissues c [vreg d, vreg a, g.val] t →
        let r := (k.vx a).map (fun x =>
          widenMx ty (x.toNat % 2 ^ etypeBits ty) ((k.reg .execute g).toNat % 256))
        ∃ s', exec (.vextMx c d a g ty) s = .next s' ∧ k.sameRegs (s'.core c)
          ∧ vectorResult s s' c t clsVC [vreg d] [(d, r.map Prod.fst)] (r.any Prod.snd)
              ((r.map Prod.fst).any isNan32) 0))
    ∧ (s.vissues c [vreg d, vreg a, g.val] t → (k.reg .execute g).toNat % 256 ≠ 255 →
        let cs := conv (fun x => toBfx x ((k.reg .execute g).toNat % 256))
        ∃ s', exec (.vcvtBfx c d a g) s = .next s' ∧ k.sameRegs (s'.core c)
          ∧ vectorResult s s' c t clsVC [vreg d] [(d, codes cs)] (decide (sats cs ≠ 0)) (cs.any (fun x => x.nan))
              (sats cs))

/-- An element type outside its list, or a BFX exponent of 255, raises ILLEGAL in a conversion (R161). -/
def Claims.BadConversionRaises : Prop :=
  ∀ (s : State) (c : Nat) (d a g : Fin 32) (ty : EType) (t : Nat), g.val < 16 →
    let out : Out := .next ((s.setCore c (s.core c)).coreExc c 1 .execute (s.core c).exe.pc 0)
    (s.vissues c [vreg d, vreg a] t →
      (ty ∉ [EType.e4m3, .e5m2, .bf16, .fp16, .int8, .int32] → exec (.vcvt c d a ty) s = out)
      ∧ (ty ∉ [EType.e4m3, .e5m2, .int8, .bf16, .fp16, .mhi] → exec (.vext c d a ty) s = out))
    ∧ (isMx ty = false →
      (s.vissues c [vreg d, g.val, vreg a] t → exec (.vcvtMx c d g a ty) s = out)
      ∧ (s.vissues c [vreg d, vreg a, g.val] t → exec (.vextMx c d a g ty) s = out))
    ∧ (s.vissues c [vreg d, vreg a, g.val] t → ((s.core c).reg .execute g).toNat % 256 = 255 →
        exec (.vcvtBfx c d a g) s = out)

/-- The 8-bit float types keep every finite value through vext and back through vcvt: the conversion of a
code's binary32 value is the code, without saturation, for every code that is no NaN and no infinity (R80, R82,
R161). -/
def Claims.NarrowFloatsRoundTrip : Prop :=
  ∀ ty ∈ [EType.e4m3, .e5m2], ∀ n < 256, (decodeEl ty n).isNan = false → (decodeEl ty n).isInf = false →
    convert ty (widen ty n) = some { code := n }

/-! Exact sums and full-width partials (R87 to R90, R162, R163). -/

/-- The exact sum of a list of terms and each of the flags LOW, HIGH and INV that it raises do not depend on the order of
the terms; and a split reduction in exact-sum mode has the same sum and flags for every number of parts (R87, R88, R90). -/
def Claims.ExactSumOrderFree : Prop :=
  (∀ (w : Int) (ts us : List Fl), List.Perm ts us →
    let run := fun (xs : List Fl) => xs.foldl (fun (n : BitVec 256 × Bool × Bool × Bool) x =>
      let r := exactAdd w n.1 x
      (r.1, n.2.1 || r.2.1, n.2.2.1 || r.2.2.1, n.2.2.2 || r.2.2.2)) (0, false, false, false)
    run ts = run us)
  ∧ ∀ (comp : Bool) (term : Nat → Fl) (w : Int) (k c parts : Nat), 0 < parts →
      exactReduction comp term w k c parts = exactReduction comp term w k c 1

/-- xclr with a window from −170 to 127 clears an exact sum and sets its W; xadd and xaddp add one term to
every lane and set LOW, HIGH and INV where a lane's add does; xrd and xrdp read the sum without changing N; nothing else of the engine
changes (R87 to R89, R163). -/
def Claims.ExactSumInstructions : Prop :=
  ∀ (s : State) (c : Nat) (x : Fin 8) (t : Nat),
    let k := s.core c
    let rest := fun (s' : State) => k.sameRegs (s'.core c) ∧ k.sameVstat (s'.core c)
      ∧ (∀ y, y ≠ x → (s'.core c).xs y = k.xs y) ∧ (s'.core c).lm = k.lm
    let add := fun (terms : List Fl) (i : Nat) =>
      exactAdd (k.xs x).w (Assoc.get 0 (k.xs x).n i) (terms.getD i .nan)
    (∀ (w : Src), srcOk .execute w = true → s.vissues c (xreg x :: srcRegs w) t →
      let v := ((k.src .execute w).truncate 16 : BitVec 16).toInt
      (-170 ≤ v ∧ v ≤ 127 →
        ∃ s', exec (.xclr c x w) s = .next s' ∧ s.onlyCore s' c ∧ rest s' ∧ (s'.core c).xs x = { w := v }
          ∧ (∀ r, (s'.core c).vx r = k.vx r))
      ∧ ((v < -170 ∨ 127 < v) →
          exec (.xclr c x w) s = .next ((s.setCore c k).coreExc c 1 .execute k.exe.pc 0)))
    ∧ (∀ (a f : Fin 32), (k.xs x).terms + 1 < 2 ^ 55 →
        ∀ row ∈ [(Instr.xadd c x a, [xreg x, vreg a], (k.vx a).map dec32),
            (Instr.xaddp c x a f, [xreg x, vreg a, vreg f],
              (partialsOf (k.vx a) (k.vx f)).map (fun p => partialTerm p.s p.f))], s.vissues c row.2.1 t →
          ∃ s', exec row.1 s = .next s' ∧ s' = { s with cores := s'.cores, aclk := s'.aclk, free := s'.free }
            ∧ (∀ e, e ≠ c → s'.core e = s.core e) ∧ rest s' ∧ (∀ r, (s'.core c).vx r = k.vx r)
            ∧ (∀ i, i < 32 → Assoc.get 0 ((s'.core c).xs x).n i = (add row.2.2 i).1)
            ∧ ((s'.core c).xs x).w = (k.xs x).w ∧ ((s'.core c).xs x).terms = (k.xs x).terms + 1
            ∧ (((s'.core c).xs x).low = true ↔ (k.xs x).low = true ∨ ∃ i, i < 32 ∧ (add row.2.2 i).2.1 = true)
            ∧ (((s'.core c).xs x).high = true ↔ (k.xs x).high = true ∨ ∃ i, i < 32 ∧ (add row.2.2 i).2.2.1 = true)
            ∧ (((s'.core c).xs x).inv = true ↔ (k.xs x).inv = true ∨ ∃ i, i < 32 ∧ (add row.2.2 i).2.2.2 = true))
    ∧ (∀ (d f : Fin 32), d ≠ f →
        ∀ row ∈ [(Instr.xrd c d x, [vreg d, xreg x], [(d, (k.xs x).readout.1.map (fun p => p.s))]),
            (Instr.xrdp c d f x, [vreg d, vreg f, xreg x], [(d, (k.xs x).readout.1.map (fun p => p.s)),
              (f, (k.xs x).readout.1.map (fun p => p.f.signExtend 32))])], s.vissues c row.2.1 t →
          ∃ s', exec row.1 s = .next s' ∧ s.onlyCore s' c ∧ rest s' ∧ k.setsVx (s'.core c) row.2.2
            ∧ ((s'.core c).xs x).n = (k.xs x).n ∧ ((s'.core c).xs x).w = (k.xs x).w)

/-- vpadd adds two full-width partials lane by lane into the first pair and vpfold folds one into binary32;
both note what saturated and what is NaN (R77, R84, R162). -/
def Claims.PartialInstructions : Prop :=
  ∀ (s : State) (c : Nat) (a f b g d : Fin 32) (t : Nat),
    let k := s.core c
    (a ≠ f → s.vissues c [vreg a, vreg f, vreg b, vreg g] t →
      let r := List.zipWith partialAdd (partialsOf (k.vx a) (k.vx f)) (partialsOf (k.vx b) (k.vx g))
      ∃ s', exec (.vpadd c a f b g) s = .next s' ∧ k.sameRegs (s'.core c)
        ∧ vectorResult s s' c t clsVP [vreg a, vreg f]
            [(a, r.map (fun o => o.cell.s)), (f, r.map (fun o => o.cell.f.signExtend 32))]
            (r.any (fun o => o.sat)) ((r.map (fun o => o.cell.s)).any isNan32) 0)
    ∧ (s.vissues c [vreg d, vreg a, vreg f] t →
      let r := (partialsOf (k.vx a) (k.vx f)).map (fun p => fold p.s p.f)
      ∃ s', exec (.vpfold c d a f) s = .next s' ∧ k.sameRegs (s'.core c)
        ∧ vectorResult s s' c t clsVP [vreg d] [(d, r.map Prod.fst)] (r.any Prod.snd)
            ((r.map Prod.fst).any isNan32) 0)

/-! Events of a core (files 04, 06 and 09). -/

/-- Streams stalled on data queues for good raise DEADLOCK, a consumer that no address will reach too (R104,
R134); the launch-slot strike of a core ends its hold when the counter is at or after it (R112, R247). That the exception of
a queue deadlock names the next instruction of the stalled stream, and a scalar entry held behind a drain does not bar it, is
the model's reading, DEDUCED (log 56). -/
def Claims.CoreDeadlockAndSlot : Prop :=
  ∀ (s : State) (c : Nat), s.siteRuns c →
    let k := s.core c
    (∀ u, k.queueDeadlock = some u →
      exec (.coreQueueDeadlock c) s = .next ((s.setCore c k).coreExc c 4 u (k.stream u).pc 0))
    ∧ (∀ i, k.queueDeadlock = none → k.underrun = some i →
      exec (.coreQueueDeadlock c) s = .next ((s.setCore c k).coreExc c 4 .execute i 0))
    ∧ (∀ v, k.slot = some v → (s.coreStrike c - v).toNat < 2 ^ 63 →
      ∃ s', exec (.launchSlotStrike c) s = .next s' ∧ s.onlyCore s' c ∧ s'.core c = { k with slot := none })

/-- A core exception other than LM_UNCORRECTABLE of a core without a lost journal leaves every byte of its
local memory, when the failed task holds no other core, has written nothing in place and is not the last of its
graph, and the core stands free of the task with its tiles clear (R51, R100, R113). -/
def Claims.CoreExceptionFreesCore : Prop :=
  ∀ (s : State) (c code q t i line : Nat) (u : UnitId) (x : Task) (g : Graph),
    s.siteTask c = some (q, t) → s.graph q = some g → s.task q t = some x → x.status = .running → x.cores = [c] →
    s.ge.journal = [] → s.store.ctxs = [] → (s.sq q).cutWait = none → x.info.streams = [] → code ≠ 6 →
    (g.tasks.map Prod.fst).Nodup → (∃ e ∈ g.tasks, e.1 ≠ t ∧ e.2.status = .running) →
      let s' := s.coreExc c code u i line
      (s'.core c).task = none ∧ (s'.core c).lm = (s.core c).lm ∧ (s'.core c).tiles = [] ∧ (s'.core c).dq = []
        ∧ (∀ e, e ≠ c → s'.core e = s.core e) ∧ s'.mem = s.mem
        ∧ (s'.task q t).map (fun y => y.status) = some .failed
        ∧ (s'.task q t).map (fun y => (y.fate.exc, y.fate.core)) = some (code, c)

/-- A load that meets an uncorrectable word of local memory raises LM_UNCORRECTABLE. Where it is the site's first within
24 hours, the task is revoked and made ready again and does not end: its core holds no task, the failing line reads zero and
every other byte of local memory stands, the site is not locked out, no record is written, and the error stays in the site's
history. The second within 24 hours locks the core out (R99, R113, R406, R408). -/
def Claims.UncorrectableReissues : Prop :=
  ∀ (s : State) (c q t t0 : Nat) (x : Task) (z : Fin 4) (d b : Fin 32) (imm : Imm),
    s.issues c .access [d.val, b.val] t0 →
      let k := s.core c
      let a := (k.reg .access b + ((k.imm imm).truncate 32 : BitVec 32).signExtend 64).toNat
      let line := 64 * (a / 64)
      a % 2 ^ z.val = 0 → a + 2 ^ z.val ≤ 0x60000 → k.uncorrectable a (2 ^ z.val) = true →
      s.siteTask c = some (q, t) → s.task q t = some x → x.status = .running → x.targeted = false → x.cores = [c] →
      s.ge.journal = [] → s.store.ctxs = [] → x.info.streams = [] →
        (s.repeats c = false →
          ∃ s' y, exec (.ld c z d b imm) s = .next s' ∧ s'.task q t = some y ∧ y.status = .ready
            ∧ y.readyAt = s.strike ∧ y.cores = [] ∧ y.info = x.info ∧ (s'.core c).task = none
            ∧ (∀ j, j < 64 → Assoc.get 0 (s'.core c).lm (line + j) = 0) ∧ (s'.core c).uncorrectable line 64 = false
            ∧ (∀ i, (i < line ∨ line + 64 ≤ i) → Assoc.get 0 (s'.core c).lm i = Assoc.get 0 k.lm i)
            ∧ (∀ e, e ≠ c → s'.core e = s.core e) ∧ s'.grid.rows = s.grid.rows ∧ s'.resets = s.resets
            ∧ s'.logs = s.logs ∧ s'.mem = s.mem ∧ Assoc.get none s'.grid.lastUncorrectable c = some s.strike)
        ∧ (s.repeats c = true →
          ∃ s', exec (.ld c z d b imm) s = .next s' ∧ s'.siteFailed c = true ∧ s'.coreInReset c = true
            ∧ (s'.core c).task = none)

/-- The end of a core's part of its task: the gang index joins the ended ones, the entries left in its data
queues join the task's residue, its numeric flags the task's, and its queues are empty (R105, R258). -/
def Claims.TaskEndResult : Prop :=
  ∀ (s : State) (c : Nat) (g : CoreTask) (x : Task), siteExists c = true → (s.core c).task = some g →
    (s.core c).finished = true → s.task g.q g.task = some x → (g.gy * x.info.gangW + g.gx) ∉ x.done →
      let k := s.core c
      ∃ s' y, exec (.taskEnd c) s = .next s' ∧ s'.task g.q g.task = some y
        ∧ y.done = x.done ++ [g.gy * x.info.gangW + g.gx] ∧ y.status = x.status
        ∧ y.residue = x.residue + (k.queue 0).length + (k.queue 1).length + (k.queue 2).length + (k.queue 3).length
        ∧ y.nflags = x.nflags ||| k.nflags ∧ s'.core c = { k with dq := [], ags := [] }
        ∧ (∀ e, e ≠ c → s'.core e = s.core e) ∧ s'.mem = s.mem ∧ k.vec.idleAt ≤ s'.aclk

/-- A core whose streams wait at one ward, with everything before it done, arrives at its graph engine once; a
running gang that has arrived whole is released one strike after the last arrival, each core's streams going on
under a launch slot of its own (R112, R144, R248). -/
def Claims.WardArrivalAndRelease : Prop :=
  ∀ (s : State),
    (∀ (c : Nat) (w : Fin 64) (g : CoreTask) (x : Task), siteExists c = true → (s.core c).task = some g →
      s.task g.q g.task = some x → (s.core c).acc.wait = .ward w → (s.core c).exe.wait = .ward w →
      (s.core c).quiet = true → (s.core c).arrived = false →
        ∃ s' y, exec (.wardArrive c) s = .next s' ∧ s'.task g.q g.task = some y
          ∧ y.arrived = x.arrived ++ [g.gy * x.info.gangW + g.gx] ∧ y.arrivedAt = s.strike
          ∧ s'.core c = { s.core c with arrived := true } ∧ (∀ e, e ≠ c → s'.core e = s.core e) ∧ s'.mem = s.mem)
    ∧ (∀ (q t : Nat) (x : Task), q < 4096 → s.task q t = some x → x.status = .running → x.cores ≠ [] →
      x.arrived.length = x.cores.length → x.cores.Nodup → (s.strike - (x.arrivedAt + 1)).toNat < 2 ^ 63 →
        ∃ s' y, exec (.wardRelease q t) s = .next s' ∧ s'.task q t = some y ∧ y.arrived = []
          ∧ (∀ i c, x.cores[i]? = some c →
              let lx := x.origin.1 + i % x.info.gangW
              let ly := x.origin.2 + i / x.info.gangW
              (s'.core c).acc.wait = .none ∧ (s'.core c).exe.wait = .none ∧ (s'.core c).arrived = false
                ∧ (s'.core c).slot = some (slotStrike (x.arrivedAt + 1)
                    (s.wardRamp (dieOfXY lx ly) x.cores.length) lx ly))
          ∧ (∀ c, c ∉ x.cores → s'.core c = s.core c) ∧ s'.mem = s.mem)

/-- A read or write of a core window that is not refused is answered: a read of local memory gives its bytes
and a write puts them, where no roll-back of those bytes is still due (R115, R341). One that is refused is entered in the violation log of the die that answers
and in the module log, answers the cause, and writes nothing (R415, R416). The operator has no such command: its read or write is refused (R31). -/
def Claims.CoreWindowAccess : Prop :=
  ∀ (s : State) (o : Origin) (use : WindowUse) (c off : Nat) (data : List Byte),
    let a := 0x200000000000 + c * 0x80000 + off
    siteExists c = true → data ≠ [] → off + data.length ≤ 0x60000 → s.dieWaits a = false → (s.core c).lmErr = [] →
      let logged := fun (s' : State) (cause kind n : Nat) =>
        let d := s.loggingDie o cause (s.blameAt cause a n)
        s'.vlog d = (s.vlog d).enter { plainViolation cause a o kind with strike := s.strike }
          ∧ (∀ e, e ≠ d → s'.vlog e = s.vlog e) ∧ s'.logs.mcount = s.logs.mcount.tick
          ∧ (Assoc.get { type := 0 } s'.logs.mlog (s.logs.mcount.n.toNat % 4096)).type = 0x32
          ∧ (Assoc.get { type := 0 } s'.logs.mlog (s.logs.mcount.n.toNat % 4096)).status = cause
      (∀ len, exec (.coreWindowRead .operator c off len) s = .next (s.answer .refused))
      ∧ exec (.coreWindowWrite .operator use c off data) s = .next (s.answer .refused)
      ∧ (o ≠ .operator →
      (∀ len, off + len ≤ 0x60000 → 0 < len → s.undoHeld a len = false → s.accessCause o .plain a len false = none →
        ∃ s', exec (.coreWindowRead o c off len) s = .next s'
          ∧ s'.out.resp = some (.data ((s.core c).lmBytes off len))
          ∧ (∀ e n, Assoc.get 0 (s'.core e).lm n = Assoc.get 0 (s.core e).lm n) ∧ s'.mem = s.mem)
      ∧ (∀ len cause, s.accessCause o .plain a len false = some cause →
        ∃ s', exec (.coreWindowRead o c off len) s = .next s' ∧ s'.out.resp = some (.error cause)
          ∧ logged s' cause 0 len ∧ s'.cores = s.cores ∧ s'.mem = s.mem)
      ∧ (s.undoHeld a data.length = false → s.accessCause o (s.useOf c use) a data.length true = none →
        ∃ s', exec (.coreWindowWrite o use c off data) s = .next s' ∧ s'.out.resp = some .done
          ∧ (s.core c).writesLm (s'.core c) off data ∧ (∀ e, e ≠ c → s'.core e = s.core e) ∧ s'.mem = s.mem)
      ∧ (∀ cause, s.accessCause o (s.useOf c use) a data.length true = some cause →
        ∃ s', exec (.coreWindowWrite o use c off data) s = .next s' ∧ s'.out.resp = some (.error cause)
          ∧ logged s' cause 1 data.length ∧ s'.cores = s.cores ∧ s'.mem = s.mem))

/-! MOVE tasks and the central store (files 07 and 08). -/

/-- A ready MOVE task whose descriptors read well and break no rule, whose sources are sound, whose outputs may
be written now and whose journal has room, with no other request in the store dies' queues to come before it, carries
its operation out: COPY, PERMUTE and GATHER write their bytes
in place, each address holding the last byte written to it and every other byte of memory as before;
SCATTER_ACC keeps its result in held lines and changes no memory until the commit. The task has moved, with its
saturations and NaNs counted (R172, R177, R186, R240, R241, R403). -/
def Claims.MoveOperationResult : Prop :=
  ∀ (s : State) (q t : Nat) (x : Task) (m : Movement), q < 4096 → s.task q t = some x → x.info.kind = .move →
    x.status = .ready → x.info.descSpans.any (fun r => s.accessWaits r.1 r.2 false) = false → s.store.requests = [] →
    s.moveDescs x.info = (s, .ok m) → worst (m.findings s.byte s.places) = none →
    m.nothing = false → (m.reads s.byte).any (fun r => s.accessWaits r.1 r.2 false) = false →
    s.moverReads (m.reads s.byte) = (s, none) →
      (∀ row ∈ [(Instr.copy q t, 1), (Instr.permute q t, 2), (Instr.gather q t, 3)], x.info.d % 16 = row.2 →
        m.op ≠ some .scatter → ∀ r s2, m.apply s.byte = .ok r → (∀ w ∈ r.writes, w.1 < extEnd) →
          r.writes.any (fun w => s.accessWaits w.1 1 true) = false → s.writeFault q t r.writes = none →
          s.journal q t (granulesOf r.writes) = .ok s2 →
            ∃ s' y, exec row.1 s = .next s' ∧ s'.task q t = some y ∧ y.moved = true ∧ y.status = .running
              ∧ y.held = [] ∧ y.countA = ({} : Counter).addN r.sats ∧ y.countB = ({} : Counter).addN r.nans
              ∧ (∀ a, s'.byte a = lastWrite r.writes a (s.byte a)) ∧ s'.cores = s.cores
              ∧ s'.ge.journal = s2.ge.journal)
      ∧ (x.info.d % 16 = 4 → m.op = some .scatter →
          ∃ s' y, exec (.scatterAcc q t) s = .next s' ∧ s'.task q t = some y ∧ y.moved = true
            ∧ y.status = .running ∧ s'.mem = s.mem ∧ s'.cores = s.cores
            ∧ y.held = (scatterAll m s.byte
                (m.src.rowSpans.flatMap (fun r => padTo m.src.imageRow (s.bytes r.1 r.2)))).1)

/-- A write to STORE_CFG of legal fields sets the windows of its die and the pool of the module, which changes
only while no stream stands armed: with a context that is not IDLE a change of POOL is refused as a whole, shown in POOLREF
and recorded (R199). Illegal fields change nothing and are recorded (R198, R443, R457). -/
def Claims.StoreConfigWrite : Prop :=
  ∀ (s : State) (o : Origin) (d : Fin 8) (v : BitVec 64), s.regOpen o (storeCfgAddr d.val) true →
    let stall := v.toNat / 2 ^ 40
    let wait := v.toNat / 2 ^ 24 % 2 ^ 16
    let xw := v.toNat / 2 ^ 8 % 2 ^ 16
    let pool := v.toNat % 2 ^ 6
    (1000 ≤ stall → 100 ≤ wait → 1 ≤ xw → pool ≤ 32 → (pool = s.store.pool ∨ s.busyCtxs = []) →
      ∃ s', exec (.storeCfg o d v) s = .next s' ∧ s'.out.resp = some .done ∧ s'.store.pool = pool
        ∧ s'.storeCfg d.val = { stallwin := stall, maxwait := wait, xwait := xw }
        ∧ (∀ e, e ≠ d.val → s'.storeCfg e = s.storeCfg e) ∧ s'.store.ctxs = s.store.ctxs ∧ s'.mem = s.mem
        ∧ s'.logs = s.logs)
    ∧ (1000 ≤ stall → 100 ≤ wait → 1 ≤ xw → pool ≤ 32 → pool ≠ s.store.pool → s.busyCtxs ≠ [] →
      ∃ s', exec (.storeCfg o d v) s = .next s' ∧ s'.out.resp = some .done
        ∧ s'.store = { s.store with sc := s'.store.sc } ∧ (Assoc.get {} s'.store.sc d.val).has 0 = true
        ∧ (∀ e, e ≠ d.val → Assoc.get {} s'.store.sc e = Assoc.get {} s.store.sc e)
        ∧ s'.logs.mcount = s.logs.mcount.tick
        ∧ (Assoc.get { type := 0 } s'.logs.mlog (s.logs.mcount.n.toNat % 4096)).type = 0x35)
    ∧ ((stall < 1000 ∨ wait < 100 ∨ xw < 1 ∨ 32 < pool) →
      ∃ s', exec (.storeCfg o d v) s = .next s' ∧ s'.store = s.store ∧ s'.out.resp = some .done
        ∧ s'.logs.mcount = s.logs.mcount.tick)

/-- A stream's home die asks for its next piece: out of its source when its staging has room for it, and out of
staging into its sink; the request waits, with its deadline, in the piece's queues. A fetched piece, and one into a sink that is
neither a multicast ring nor a SCATTER_ACC's, waits in one queue, ordered by the address of its first byte, at the store die
that holds it where it lies in the central store, and at the stream's home die otherwise; one into a multicast ring waits at
that die in the queue of each compute die with a receiving core; one of a SCATTER_ACC PUT waits at each die that serves a
line its updates go to (R184, R202, R211, R214 to R216; that the home die serves the other pieces, and the engine's queue those that
go to no compute die, is the model's choice, log 84). -/
def Claims.StreamRequestEntered : Prop :=
  ∀ (s : State) (ctx off len : Nat), ctx < 16384 → s.inGap (16 + ctx % 8) = false → ((s.ctx ctx).persist = false ∨ (s.ctx ctx).owner.isSome = true) →
    let c := s.ctx ctx
    let asks := fun (dir : PieceDir) =>
      s.pieceAsked ctx dir = false →
        let a := s.pieceAddr c dir off
        let die := if s.target a = .store then a / 4096 % 8 else ctx % 8
        let ask := fun (x : Spot) =>
          ({ die := x.1, queue := x.2.1, kind := .piece ctx dir off len, t := s.strike
             d := s.deadline ctx dir, addr := x.2.2 } : Request)
        let spots := s.pieceSpots ctx dir off len
        exec (.streamRequest ctx dir) s =
            .next { s with store := { s.store with requests := s.store.requests ++ spots.map ask } }
          ∧ (dir = .fetch ∨ (c.snkEnd ≠ 2 ∧ c.moveOp ≠ 4) → spots = [(die, (match s.target a with
              | .ext => .memory
              | .window k _ => .compute (Fin.ofNat 12 (dieOfCore k))
              | _ => .engine), a)])
          ∧ (dir = .deliver → c.snkEnd = 2 → (∀ x ∈ spots, x.1 = die)
              ∧ ∀ k : Fin 12, (∃ x ∈ spots, x.2.1 = .compute k) ↔ ∃ m ∈ c.members, dieOfCore m % 12 = k.val)
    (s.fetchPiece c = some (off, len) → c.stagedLen + len ≤ c.capacity → asks .fetch)
      ∧ (c.deliverPiece = some (off, len) → asks .deliver)

/-- A grant goes to a request of its die and queue whose deadline is not after that of any other one there,
for deadlines within half the strike range (R215). A granted piece out of a ring in the central store that holds no error and lies in no recovery area moves its bytes into staging; a
granted piece of a stream into such a ring, which the journal of the pass's owner has room for, moves them out of
staging into the ring's place for them. The request leaves its queue and no other byte of memory changes (R206, R207,
R211, R403). -/
def Claims.GrantMovesPiece : Prop :=
  ∀ (s : State) (d : Fin 8) (queue : DieQueue) (r : Request) (ctx off len : Nat),
    bestRequest (s.store.requests.filter (fun r => r.die == d.val && r.queue == queue)) = some r →
    s.store.poison = [] → s.store.bad = [] → s.store.weak = [] → s.inGap (16 + d.val) = false →
      let c := s.ctx ctx
      (r ∈ s.store.requests ∧ r.die = d.val ∧ r.queue = queue)
      ∧ (∀ base : Word, (∀ x ∈ s.store.requests, (x.d - base).toNat < 2 ^ 62) →
          ∀ x ∈ s.store.requests, x.die = d.val → x.queue = queue → (r.d - base).toNat ≤ (x.d - base).toNat)
      ∧ (r.kind = .piece ctx .fetch off len → c.srcEnd = 1 → s.fetchPiece c = some (off, len) →
          c.ahead = none → c.stagedLen + len ≤ c.capacity →
          let a := ringPlace c.src c.srcSlot c.srcSlots off
          s.target a = .store → s.accessWaits a len false = false → (∀ i, i < len → s.inArea (a + i) = false) →
            ∃ s', exec (.requestGrant d queue) s = .next s' ∧ (s'.ctx ctx).staged = c.staged ++ s.bytes a len
              ∧ (s'.ctx ctx).pos = c.pos + len ∧ s'.store.requests = s.store.requests.erase r ∧ s'.mem = s.mem
              ∧ (∀ n, n ≠ ctx → (s'.ctx n).staged = (s.ctx n).staged ∧ (s'.ctx n).pos = (s.ctx n).pos))
      ∧ (r.kind = .piece ctx .deliver off len → c.kind = 3 → c.srcEnd ≠ 3 → c.snkEnd = 1 → c.deliverPiece = some (off, len) →
          len ≤ c.staged.length →
          let a := ringPlace c.snk c.snkSlot c.snkSlots off
          let ws := bytesAt a (c.staged.take len)
          (∀ i, i < len → a + i < windowBase) → s.accessWaits a len true = false → (s.dropRequest r).pieceAsked ctx .deliver = false →
          (s.ownerTask c = none ∨ ∃ q t x s2, s.ownerTask c = some (q, t, x) ∧ s.writeFault q t ws = none
            ∧ s.journal q t (granulesOf ws) = .ok s2) →
            ∃ s', exec (.requestGrant d queue) s = .next s' ∧ (s'.ctx ctx).staged = c.staged.drop len
              ∧ (s'.ctx ctx).delivered = c.delivered + len ∧ s'.store.requests = s.store.requests.erase r
              ∧ (∀ n, s'.byte n = lastWrite ws n (s.byte n)))

/-- A borrow request that a free page of its die meets gives its stream one page more; a home die posts FILL
for each complete slot of the ring a stream fills, to every member, and FREE for each slot it has read out
(R206 to R208, R211). -/
def Claims.BorrowAndPosts : Prop :=
  ∀ (s : State),
    (∀ (d : Fin 8) (b : Borrow), s.inGap (16 + d.val) = false → bestBorrow (s.store.borrows.filter (fun b => homeDie b.ctx == d.val)) = some b →
      0 < s.remainder d.val →
        ∃ s', exec (.borrowGrant d) s = .next s' ∧ (s'.ctx b.ctx).borrowed = (s.ctx b.ctx).borrowed + 1
          ∧ s'.store.borrows = s.store.borrows.erase b ∧ (∀ n, n ≠ b.ctx → s'.ctx n = s.ctx n) ∧ s'.mem = s.mem)
    ∧ (∀ ctx, ctx < 16384 → s.inGap (16 + homeDie ctx) = false →
        let c := s.ctx ctx
        (c.fillDue = true → c.early = [] →
          ∃ s', exec (.slotFillPost ctx) s = .next s' ∧ s' = { s with store := { s.store with ctxs := s'.store.ctxs } }
            ∧ (s'.ctx ctx).fillsPosted = c.fillsPosted + 1
            ∧ (s'.ctx ctx).hasp = c.hasp.map (fun h => { h with fill := h.fill + 1 })
            ∧ (∀ n, n ≠ ctx → s'.ctx n = s.ctx n))
        ∧ (c.freeDue = true →
          ∃ s', exec (.slotFreePost ctx) s = .next s' ∧ (s'.ctx ctx).freesPosted = c.freesPosted + 1
            ∧ s'.mem = s.mem ∧ s'.cores = s.cores))

/-- A pass of a persistent stream begins for the first ready task that names it, which of those the model reads so (DEDUCED,
log 51): at the re-armed base where one
waits, counted from nothing moved, its descriptor checked again; where a check fails, the task fails, and a re-arm's
task with it (R142); that of a FETCH whose current pass has issued its last transfer begins beside it, and
the current pass goes on (R221, R222). A ready task whose slots can all be armed now is armed by the
retry (R210). -/
def Claims.PassStartAndArming : Prop :=
  ∀ (s : State),
    (∀ (ctx q t : Nat), ctx < 16384 → s.inGap (16 + homeDie ctx) = false → s.passHeld (s.ctx ctx) = false →
      s.passFree (s.ctx ctx) = true → s.nextOwner ctx = some (q, t) →
        let c := s.ctx ctx
        let base := if c.nextBase.isSome then c.nextBase else c.passBase
        let c1 := Ctx.rewound { c with
          passBase := base, nextBase := none, passBy := c.rearmBy, rearmBy := none, owner := some (q, t)
          ownerEntry := s.graphEntry q } .armed
        let s1 := s.setCtx ctx c1
        (c.kind = 3 ∨ s1.checkCtx c1 = (s1, none) →
          exec (.passStart ctx) s = .next s1 ∧ c1.state = .armed ∧ c1.owner = some (q, t) ∧ c1.passBase = base
            ∧ c1.nextBase = none ∧ c1.pos = 0 ∧ c1.delivered = 0 ∧ c1.staged = [])
        ∧ (∀ s2 cause a kind, c.kind ≠ 3 → s1.checkCtx c1 = (s2, some (cause, a, kind)) →
          exec (.passStart ctx) s =
            .next ((s2.failTask q t (16 + homeDie ctx) cause a kind).failRearm c.rearmBy cause)))
    ∧ (∀ (ctx q t : Nat), ctx < 16384 → s.inGap (16 + homeDie ctx) = false → s.passHeld (s.ctx ctx) = false →
      s.passFree (s.ctx ctx) = false → s.aheadFree ctx = true →
      s.nextOwner ctx = some (q, t) → (s.ctx ctx).ahead = none →
        let c := s.ctx ctx
        let base := if c.nextBase.isSome then c.nextBase else c.passBase
        let a : Ahead := { owner := (q, t), ownerEntry := s.graphEntry q, base := base
                           rearmed := c.nextBase.isSome, by_ := c.rearmBy }
        let s1 := s.setCtx ctx { c with ahead := some a, nextBase := none, rearmBy := none }
        s1.checkCtx { c with ahead := some a, nextBase := none, rearmBy := none, passBase := base } = (s1, none) →
          exec (.passStart ctx) s = .next s1)
    ∧ (∀ (q t : Nat) (x : Task) (s1 : State), q < 4096 → s.task q t = some x → x.info.kind = .kernel →
        x.status = .ready → x.armed = false → s.armHeld x = false → s.armSlots q t x.info.streams = (s1, true, none) →
        s1.task q t = some x →
          ∃ s', exec (.armingRetry q t) s = .next s' ∧ s'.task q t = some { x with armed := true }
            ∧ s'.store = s1.store)

/-- A task all of whose live streams have stood blocked on space past their windows has its stall reported once
to its region's event queue and the module log, and counted and shown by the home dies of its streams (R226,
R227, R457). -/
def Claims.StreamStallReported : Prop :=
  ∀ (s : State) (q t : Nat), q < 4096 → s.stallSet q t ≠ [] → (q, t) ∉ s.store.stalled →
    (∀ n ∈ s.stallSet q t, ∃ w, (s.ctx n).blocked = some w ∧ (s.strike - w).toNat < 2 ^ 63) →
      ∃ s', exec (.streamStall q t) s = .next s' ∧ s'.store.stalled = s.store.stalled ++ [(q, t)]
        ∧ (∀ d, Assoc.get {} s'.store.stalls d = if ∃ n ∈ s.stallSet q t, homeDie n = d
            then (Assoc.get {} s.store.stalls d).tick else Assoc.get {} s.store.stalls d)
        ∧ (∀ d, (Assoc.get {} s'.store.sc d).has 1 =
            (decide (∃ n ∈ s.stallSet q t, homeDie n = d) || (Assoc.get {} s.store.sc d).has 1))
        ∧ (∀ n ∈ s.stallSet q t, (Assoc.get {} s.store.stalls (homeDie n)).loses 1 = true →
            (Assoc.get {} s'.store.sc (homeDie n)).has 2 = true)
        ∧ (let e := (s.region (s.regionOf q)).eq
           let r := Assoc.get { type := 0 } s'.logs.mlog (s.logs.mcount.n.toNat % 4096)
           s'.eq e = if (s.eq e).enable then (s.eq e).take r else { s.eq e with lost := (s.eq e).lost.tick })
        ∧ s'.logs.mcount = s.logs.mcount.tick
        ∧ ((Assoc.get { type := 0 } s'.logs.mlog (s.logs.mcount.n.toNat % 4096)).type = 6
            ∧ (Assoc.get { type := 0 } s'.logs.mlog (s.logs.mcount.n.toNat % 4096)).queue = q
            ∧ (Assoc.get { type := 0 } s'.logs.mlog (s.logs.mcount.n.toNat % 4096)).task = t)
        ∧ s'.store.ctxs = s.store.ctxs ∧ s'.mem = s.mem

/-! Submission queues, graphs and tasks (file 09). -/

/-- STRIKE_TICK advances the strike counter by one, modulo 2⁶⁴, while it counts, and changes besides only the
stall windows of the stream contexts, the strike from which groups of cycles count, and the reported deadlocks, of which
those that no longer stand are forgotten (log 95), where no roll-back and no load of HD waits; a roll-back of one granule of
external memory that waited writes the granule's earlier bytes once its write need not wait (R346, R403; that it is tried at a
strike is the model's choice, log 94). While the counter does not count nothing happens (R16, R226, R250, R390). SERVICE_HEARTBEAT advances the heartbeat by one modulo 2³² and changes nothing else (R259). -/
def Claims.StrikeAndHeartbeat : Prop :=
  ∀ (s : State),
    (s.running = true → ∃ s', exec .strikeTick s = .next s' ∧ s'.strike = s.strike + 1
      ∧ s'.power.tick = (if s.power.tick.1 = s.aclk / 16 then s.power.tick else (s.aclk / 16, s.strike))
      ∧ (s.ge.undo = [] → s.boot.loading = false →
          s' = { s with
            strike := s'.strike, store := { s.store with ctxs := s'.store.ctxs }, power := { s.power with tick := s'.power.tick }
            ge := { s.ge with deadlocks := s'.ge.deadlocks } }
          ∧ s'.ge.deadlocks = s.ge.deadlocks.filter s'.isCycle
          ∧ (∀ n, { s'.ctx n with blocked := none } = { s.ctx n with blocked := none }))
      ∧ (∀ j : Journal, s.ge.undo = [j] → s.boot.loading = false → j.prior.length = 256 → 256 * j.granule + 256 ≤ extEnd →
          let free := { s with ge := { s.ge with undo := [] } }
          free.accessWaits (256 * j.granule) 256 true = false →
          free.runFault j.q j.task (256 * j.granule) j.prior = none →
          s'.ge.undo = [] ∧ (∀ a, s'.byte a = lastWrite (bytesAt (256 * j.granule) j.prior) a (s.byte a))))
    ∧ (s.running = false → exec .strikeTick s = .next s)
    ∧ (s.dieInReset 60 = false → exec .serviceHeartbeat s = .next { s with heartbeat := s.heartbeat + 1 })

/-- A doorbell whose value lies ahead of the tail and within the ring, with its upper half 0, moves the tail of
an enabled queue, and a queue that takes entries reads them all in order where none of these reads has to wait; any other value
changes neither tail nor entries, sets the queue's error bit and is recorded (R228, R230, R353, R354). -/
def Claims.DoorbellResult : Prop :=
  ∀ (s : State) (o : Origin) (q : Nat) (v : BitVec 64), q < 4096 → s.regOpen o (sqDbAddr q) true →
    let x := s.sq q
    let t : BitVec 32 := v.truncate 32
    let ahead := (t - BitVec.ofNat 32 x.tail).toNat
    (x.enable = true → v.toNat < 2 ^ 32 → 1 ≤ ahead → ahead ≤ 2 ^ 31 - 1 →
      (t - BitVec.ofNat 32 x.head).toNat ≤ 2 ^ x.depth → x.head ≤ x.tail →
        ∃ s', exec (.sqDb o q v) s = .next s' ∧ s'.out.resp = some .done ∧ (s'.sq q).tail = x.tail + ahead
          ∧ ((x.state = .running ∨ x.state = .cutHeld) →
              (∀ i, x.head ≤ i → i < x.tail + ahead →
                s.accessWaits (x.base + i % 2 ^ x.depth * 64) 64 false = false) →
              s.ext.weak = [] → s.ext.bad = [] → s.store.weak = [] → s.store.bad = [] →
              (s'.sq q).head = x.tail + ahead
              ∧ ∃ new, (s'.sq q).entries = x.entries ++ new ∧ new.map (fun e => e.no) =
                  (List.range (x.tail + ahead - x.head)).map (fun i => x.head + i))
          ∧ (x.state = .stopped → (s'.sq q).entries = x.entries ∧ (s'.sq q).head = x.head)
          ∧ (∀ p, p ≠ q → s'.sq p = s.sq p) ∧ s'.mem = s.mem)
    ∧ ((x.enable = false ∨ 2 ^ 32 ≤ v.toNat ∨ ahead = 0 ∨ 2 ^ 31 ≤ ahead
        ∨ 2 ^ x.depth < (t - BitVec.ofNat 32 x.head).toNat) →
      ∃ s', exec (.sqDb o q v) s = .next s' ∧ s'.sq q = { x with sc := x.sc.event 0 }
        ∧ (∀ p, p ≠ q → s'.sq p = s.sq p) ∧ s'.mem = s.mem ∧ s'.logs.mcount = s.logs.mcount.tick
        ∧ s'.out.resp = some .done)

/-- The one done record of an entry, generated for the event queue of its submission queue when that queue is
enabled, behind the records that wait (R228, R358). -/
def answersEntry (s s' : State) (q : Nat) (type status : Nat) (tag : BitVec 32) : Prop :=
  (s.eq (s.sq q).eq).enable = true →
    ∃ r : Rec, (s'.eq (s.sq q).eq).pending = (s.eq (s.sq q).eq).pending ++ [r] ∧ r.type = type
      ∧ r.status = status ∧ r.tag = tag ∧ r.queue = q ∧ r.strike = s.strike

/-- The entry at the front of a queue that takes entries is a good one. -/
def nextEntry (s : State) (q : Nat) (e : Entry) : Prop :=
  q < 4096 ∧ s.front q = some e ∧ e.bad = false

/-- FLAG sets its flag, or adds to it modulo 2⁶⁴, and completes with status 0; no other flag changes (R230,
R243, R244). -/
def Claims.FlagEntryResult : Prop :=
  ∀ (s : State) (q : Nat) (e : Entry), nextEntry s q e → e.op = 5 →
    let f := e.arg 0 % 2 ^ 16
    let v := BitVec.ofNat 64 (e.arg 1)
    ∃ s', exec (.flag q) s = .next s'
      ∧ s'.flag f = (if e.arg 0 / 2 ^ 16 = 2 then v else s.flag f + v)
      ∧ (∀ n, n ≠ f → s'.flag n = s.flag n) ∧ answersEntry s s' q 3 0 e.tag
      ∧ (s'.sq q).entries = (s.sq q).entries.tail ∧ (∀ p, p ≠ q → s'.sq p = s.sq p)
      ∧ s'.mem = s.mem ∧ s'.cores = s.cores ∧ s'.store.ctxs = s.store.ctxs

/-- A GRAPH entry whose graph reads well and keeps every rule, and whose mirror fits the region's area now,
leaves the queue and its graph is loaded; one that breaks a rule, or whose mirror exceeds the area, completes with its one
GRAPH_DONE, status REJECTED, and loads nothing, as does every graph while the area's size is 0; while the mirror has no room
the entry waits (R232, R236, R402). A graph that would load into an area that cannot be written loads nothing, and the region
faults with AREA_FAULT (R404, R412; log 62). -/
def Claims.GraphEntryResult : Prop :=
  ∀ (s s1 : State) (q : Nat) (e : Entry), nextEntry s q e → e.op = 1 →
    s.readsWait (s.graphSpans (e.arg 0)) = false →
    (∀ g, s.readGraph q e = (s1, .ok g) → s1.sq q = s.sq q → (s.region (s.sq q).region).areaSize ≠ 0 →
      (mirrorBytes g.count ≤ (s1.region (s.sq q).region).areaBytes →
       mirrorBytes g.count ≤ s1.areaRoom (s.sq q).region →
        (s1.areaLost (s.sq q).region = false → (∀ d ∈ (s.sq q).doomed, d.1 ≠ g.entry) →
          ∃ s', exec (.graph q) s = .next s' ∧ s'.graph q = some g ∧ (s'.sq q).entries = (s.sq q).entries.tail
            ∧ (∀ p, p ≠ q → s'.sq p = s1.sq p) ∧ s'.mem = s1.mem)
        ∧ (s1.areaLost (s.sq q).region = true → (s.sq q).enable = true →
          ∃ s', exec (.graph q) s = .next s' ∧ s'.graph q = none ∧ (s'.region (s.sq q).region).cause = 4
            ∧ (s'.sq q).state = .stopped))
      ∧ (mirrorBytes g.count ≤ (s1.region (s.sq q).region).areaBytes →
          s1.areaRoom (s.sq q).region < mirrorBytes g.count → exec (.graph q) s = .next s)
      ∧ ((s1.region (s.sq q).region).areaBytes < mirrorBytes g.count →
          ∃ s', exec (.graph q) s = .next s' ∧ s'.graph q = none ∧ (s'.sq q).entries = (s.sq q).entries.tail
            ∧ answersEntry s1 s' q 2 1 e.tag ∧ s'.mem = s1.mem))
    ∧ (∀ res, s.readGraph q e = (s1, res) → s1.sq q = s.sq q → (s.region (s.sq q).region).areaSize = 0 →
        ∃ s', exec (.graph q) s = .next s' ∧ s'.graph q = none ∧ (s'.sq q).entries = (s.sq q).entries.tail
          ∧ answersEntry s1 s' q 2 1 e.tag ∧ s'.mem = s1.mem)
    ∧ (∀ r user, s.readGraph q e = (s1, .error (r, user)) → s1.sq q = s.sq q →
        (s.region (s.sq q).region).areaSize ≠ 0 →
        ∃ s', exec (.graph q) s = .next s' ∧ s'.graph q = none ∧ (s'.sq q).entries = (s.sq q).entries.tail
          ∧ answersEntry s1 s' q 2 1 e.tag ∧ s'.mem = s1.mem)

/-- STREAM REARM gives a persistent stream its next base; RELEASE of one whose pass no task uses makes it idle, and of
one in use completes when the pass has ended; ARM of a stream-to-stream image that the arming rules accept arms its context. Each completes with its code
(R210, R222, R231). -/
def Claims.StreamEntryResult : Prop :=
  ∀ (s : State) (q : Nat) (e : Entry), nextEntry s q e → e.op = 3 →
    let n := e.streamCtx
    let done := fun (s' : State) => answersEntry s s' q 3 0x100 e.tag
      ∧ (s'.sq q).entries = (s.sq q).entries.tail ∧ (∀ m, m ≠ n → s'.ctx m = s.ctx m) ∧ s'.mem = s.mem
    (e.streamCmd = 2 → (s.ctx n).persist = true →
      ∃ s', exec (.streamRearm q) s = .next s' ∧ done s'
        ∧ s'.ctx n = { s.ctx n with nextBase := some (e.arg 1), rearmBy := none })
    ∧ (e.streamCmd = 3 → (s.ctx n).persist = true → (s.ctx n).state = .passEnd → (s.ctx n).staged = [] →
        (s.sq q).release = none →
      ∃ s', exec (.streamRelease q) s = .next s' ∧ done s' ∧ (s'.ctx n).state = .idle ∧ (s'.ctx n).image = [])
    ∧ (e.streamCmd = 3 → (s.ctx n).persist = true → (s.ctx n).state = .active →
        (s.ownerTask (s.ctx n)).isSome = true → (s.sq q).release = none →
      ∃ s', exec (.streamRelease q) s = .next s' ∧ s'.ctx n = { s.ctx n with releasing := true }
        ∧ s'.sq q = { s.sq q with release := some n } ∧ (∀ m, m ≠ n → s'.ctx m = s.ctx m) ∧ s'.logs = s.logs
        ∧ s'.mem = s.mem)
    ∧ (e.streamCmd = 3 → (s.sq q).release = some n → (s.ctx n).releasing = false →
      ∃ s', exec (.streamRelease q) s = .next s' ∧ done s' ∧ s'.ctx n = s.ctx n ∧ (s'.sq q).release = none)
    ∧ (∀ image, e.streamCmd = 1 → s.armWaits (e.arg 1) = false → s.geRead (s.hostDie q) (e.arg 1) 72 = (s, .ok image) →
        let c := armed (s.ctx n) image none 0
        (s.ctx n).state = .idle → c.persist = true → c.kind = 3 → s.armCode n c = 0 →
          ∃ s', exec (.streamArm q) s = .next s' ∧ done s' ∧ s'.ctx n = c)

/-- ABORT of a task of the loaded graph that is COMPLETE is late and changes no task; ABORT of a waiting or
ready task without leases ends it ABORTED. The entry leaves the queue wherever it stands and completes with its one
done record, last of the records that follow: ABORT_LATE with one task late, or ABORT_DONE with one task aborted (R230,
R242, R249, R258). -/
def Claims.AbortEntryResult : Prop :=
  ∀ (s : State) (q : Nat) (e : Entry) (g : Graph) (x : Task), q < 4096 →
    (s.sq q).entries.find? (fun e => e.op == 2) = some e → e.formOk = true → e.arg 0 % 4096 = q →
    e.arg 0 / 2 ^ 16 = 1 → (s.sq q).enable = true → s.graph q = some g → g.entry = e.arg 1 →
    g.task (e.arg 2) = some x →
      (x.status = .complete →
        ∃ s', exec (.abort q) s = .next s' ∧ s'.graph q = some g ∧ (s'.sq q).entries = (s.sq q).entries.erase e
          ∧ answersEntry s s' q 3 1 e.tag ∧ s'.mem = s.mem ∧ s'.cores = s.cores)
      ∧ ((x.status = .ready ∨ x.status = .waiting) → x.cores = [] → s.ge.journal = [] → s.store.ctxs = [] → (s.sq q).cutWait = none →
          (g.tasks.map Prod.fst).Nodup → (∃ p ∈ g.tasks, p.1 ≠ e.arg 2 ∧ p.2.status = .running) →
          ∃ s', exec (.abort q) s = .next s' ∧ (s'.task q (e.arg 2)).map (fun y => y.status) = some .aborted
            ∧ (s'.task q (e.arg 2)).map (fun y => y.fate.cause) = some 0xF0
            ∧ ((s.eq (s.sq q).eq).enable = true → ∃ (more : List Rec) (r : Rec),
                (s'.eq (s.sq q).eq).pending = (s.eq (s.sq q).eq).pending ++ more ++ [r] ∧ r.type = 3 ∧ r.status = 2
                  ∧ r.tag = e.tag ∧ r.queue = q
                  ∧ r.payload = leBytes 8 e.no ++ leBytes 4 1 ++ leBytes 4 0)
            ∧ (s'.sq q).entries = (s.sq q).entries.erase e ∧ s'.mem = s.mem)

/-- A waiting task whose dependences have all committed and whose WAIT flags are all met becomes ready at the
strike; a task one of whose dependences has not committed, or one of whose flags is not met, stays as it is (R237,
R244). -/
def Claims.TaskReadyResult : Prop :=
  ∀ (s : State) (q t : Nat) (x : Task), q < 4096 → s.task q t = some x → x.status = .waiting →
    ((∀ p ∈ x.info.deps, ∃ y, s.task q p = some y ∧ y.status = .complete) →
      (∀ f ∈ x.info.flags, f.op = 1 → (s.flag f.flag - f.value).toNat < 2 ^ 63) →
      (x.info.kind ≠ .kernel ∨ x.info.streams = []) →
        ∃ s' y, exec (.taskReady q t) s = .next s' ∧ s'.task q t = some y ∧ y.status = .ready
          ∧ y.readyAt = s.strike ∧ y.info = x.info ∧ (x.info.kind = .kernel → y.armed = true)
          ∧ s'.mem = s.mem ∧ s'.cores = s.cores ∧ s'.logs = s.logs ∧ (∀ p, p ≠ q → s'.sq p = s.sq p))
    ∧ ((∃ f ∈ x.info.flags, f.op = 1 ∧ 2 ^ 63 ≤ (s.flag f.flag - f.value).toNat) →
        exec (.taskReady q t) s = .next s)
    ∧ ((∃ p ∈ x.info.deps, ∀ y, s.task q p = some y → y.status ≠ .complete) →
        exec (.taskReady q t) s = .next s)

/-- A placeable task without streams, whose gang fits its free rectangle, that no earlier task keeps back and
whose rows run, is bound and started there when its image header is good and its tensor descriptors read: it
runs, every site of the rectangle holds it with its place in the gang, cleared streams, queues, tiles and
registers, and its local memory as it was; no other core changes (R100, R114, R238 to R240; that the loop counts start at 0
is the model's choice, log 84). The first ready
task that has waited too long is marked so (R238). -/
def Claims.TaskPlaceResult : Prop :=
  ∀ (s : State) (q t : Nat) (x : Task), q < 4096 → s.task q t = some x →
    (∀ (ox oy : Nat) (h : List Byte) (tensors : List (Nat × List Byte)), s.placeable q t x = true →
      s.readsWait x.info.startSpans = false → x.info.badImage = false → s.fits false (s.regionOf q) x.info = true →
      s.fitsAt true (s.regionOf q) x.info ox oy = true → s.mayPass (s.regionOf q) (s.before q t) = true →
      s.gatedRows (s.gangSites x.info ox oy) = [] → x.info.streams = [] →
      s.geRead (s.hostDie q) x.info.a 128 = (s, .ok h) → headerOk h = true →
      s.readTensors (s.hostDie q) x.info.binds 0 = (s, .ok tensors) → (s.gangSites x.info ox oy).Nodup →
        let sites := s.gangSites x.info ox oy
        ∃ s' y, exec (.taskPlace q t ox oy) s = .next s' ∧ s'.task q t = some y ∧ y.status = .running
          ∧ y.origin = (ox, oy) ∧ y.cores = sites ∧ s'.mem = s.mem
          ∧ (∀ i c, sites[i]? = some c →
              (s'.core c).task = some { q := q, task := t, gx := i % x.info.gangW, gy := i / x.info.gangW }
                ∧ (s'.core c).lm = (s.core c).lm ∧ (s'.core c).acc = {} ∧ (s'.core c).exe = {}
                ∧ (s'.core c).dq = [] ∧ (s'.core c).tiles = [] ∧ (s'.core c).xfers = [] ∧ (s'.core c).vec = {})
          ∧ (∀ c, c ∉ sites → s'.core c = s.core c))
    ∧ (∀ r rest, r < 64 → s.readyOrder r = (q, t, x) :: rest → s.waited r x = true →
        ∃ s', exec (.placeWaitExpiry r) s = .next s' ∧ s'.task q t = some { x with overdue := true }
          ∧ s'.cores = s.cores ∧ s'.mem = s.mem ∧ s'.store = s.store)

/-- The commit point of a MOVE task that has moved, that of a KERNEL task without streams whose cores have all ended,
and the release of a ready WARD task one strike after it became ready: the task is COMPLETE, its held lines stand in memory and
no other byte differs, its SET and ADD flags are applied in order, and its journal is free; the cores of a KERNEL task hold no
task from then on and have empty data queues; while another task of the graph runs, the graph stays loaded (R105, R186,
R241, R244, R245, R255, R403). Where the recovery area cannot be written, none of this happens: the region faults with cause
AREA_FAULT and its queues stop (R404, R412; which area cannot be written is the model's choice, log 62). What becomes visible at
the commit takes its turns in the queues of the store dies first, where no other request waits here (R214; log 84). -/
def Claims.TaskCommitResult : Prop :=
  ∀ (s : State) (q t : Nat) (x : Task) (g : Graph), q < 4096 → s.task q t = some x → s.graph q = some g →
    (g.tasks.map Prod.fst).Nodup → (∃ p ∈ g.tasks, p.1 ≠ t ∧ p.2.status = .running) → (s.sq q).cutWait = none →
      (x.info.kind = .move → x.status = .running → x.moved = true → x.streams = [] → x.cores = [] →
        x.info.ctrl = 0 → s.store.ctxs = [] → (∀ w ∈ x.held, w.1 < extEnd ∧ s.accessWaits w.1 1 true = false) →
        (s.store.requests = [] ∨ x.held = [] ∧ ∀ r ∈ s.store.requests, r.kind ≠ .commit q t) →
        s.areaLost (s.regionOf q) = false → s.writeFault q t x.held = none →
          ∃ s', exec (.taskCommit q t) s = .next s' ∧ (s'.task q t).map (fun y => y.status) = some .complete
            ∧ (∀ a, s'.byte a = lastWrite x.held a (s.byte a))
            ∧ (∀ n, s'.flag n = (s.applyFlags x.info.flags).flag n)
            ∧ (∀ j ∈ s'.ge.journal, ¬(j.q = q ∧ j.task = t)) ∧ s'.cores = s.cores)
      ∧ (x.info.kind = .kernel → x.status = .running → x.streams = [] → x.info.cutHold = false →
        (x.info.cut = true → x.captured = true) → s.store.ctxs = [] → x.done.length = x.cores.length →
        (∀ c ∈ x.cores, (s.core c).xfers = [] ∧ (s.core c).runs q t = true) →
        (∀ w ∈ x.held, w.1 < extEnd ∧ s.accessWaits w.1 1 true = false) →
        (s.store.requests = [] ∨ x.held = [] ∧ ∀ r ∈ s.store.requests, r.kind ≠ .commit q t) →
        s.areaLost (s.regionOf q) = false → s.writeFault q t x.held = none →
          ∃ s', exec (.taskCommit q t) s = .next s' ∧ (s'.task q t).map (fun y => y.status) = some .complete
            ∧ (∀ a, s'.byte a = lastWrite x.held a (s.byte a))
            ∧ (∀ n, s'.flag n = (s.applyFlags x.info.flags).flag n)
            ∧ (∀ j ∈ s'.ge.journal, ¬(j.q = q ∧ j.task = t))
            ∧ (∀ c ∈ x.cores, s'.core c = { s.core c with task := none, dq := [] })
            ∧ (∀ c, c ∉ x.cores → s'.core c = s.core c))
      ∧ ((x.info.kind = .move ∧ x.status = .running ∧ x.moved = true
            ∧ (∀ w ∈ x.held, s.accessWaits w.1 1 true = false)) →
        s.store.requests = [] → s.areaLost (s.regionOf q) = true → (s.sq q).enable = true →
          ∃ s', exec (.taskCommit q t) s = .next s' ∧ (s'.region (s.regionOf q)).cause = 4
            ∧ (s'.sq q).state = .stopped ∧ (∀ n, s'.flag n = s.flag n))
      ∧ (x.info.kind = .ward → x.status = .ready → (s.strike - (x.readyAt + 1)).toNat < 2 ^ 63 →
        s.areaLost (s.regionOf q) = false →
          ∃ s', exec (.wardTaskRelease q t) s = .next s'
            ∧ (s'.task q t).map (fun y => (y.status, y.release)) = some (.complete, some (x.readyAt + 1))
            ∧ (∀ n, s'.flag n = (s.applyFlags x.info.flags).flag n) ∧ s'.mem = s.mem ∧ s'.cores = s.cores)

/-- A cycle of queues, each blocked on a flag that the next one would change, is reported once: every queue of
it shows its deadlock bit and the module log gets one record (R250). A cut task whose cores have all ended is
captured: the images of its cores stand one after another in its buffer and no other byte of memory changes
(R255). -/
def Claims.DeadlockAndCapture : Prop :=
  ∀ (s : State),
    (∀ (cycle : List (Nat × Nat)), s.isCycle cycle = true → s.ge.deadlocks = [] →
      ∃ s', exec (.queueDeadlock cycle) s = .next s' ∧ s'.ge.deadlocks = [cycle]
        ∧ (∀ p ∈ cycle, (s'.sq p.1).sc.has 1 = true) ∧ (∀ n, n ∉ cycle.map Prod.fst → s'.sq n = s.sq n)
        ∧ s'.logs.mcount = s.logs.mcount.tick ∧ s'.mem = s.mem ∧ s'.cores = s.cores)
    ∧ (∀ (q t : Nat) (x : Task) (bss : List (List Byte)), q < 4096 → s.task q t = some x →
        x.info.kind = .kernel → x.info.cut = true → x.status = .running → x.captured = false →
        x.done.length = x.cores.length → s.captureBad x.info.cutCap (417792 * x.cores.length) = none →
        s.accessWaits x.info.cutCap (417792 * x.cores.length) true = false →
        (s.captures x.cores).2 = .ok bss → x.info.cutCap + bss.flatten.length ≤ extEnd →
          ∃ s' y, exec (.cutCapture q t) s = .next s' ∧ s'.task q t = some y ∧ y.captured = true
            ∧ y.status = .running
            ∧ (∀ a, a < windowBase → s'.byte a = lastWrite (bytesAt x.info.cutCap bss.flatten) a (s.byte a)))

/-! The torus ports (file 11). -/

/-- A lane that loses lock, or reports more than 16,384 corrected symbols, leaves the active set of a port that
trains or runs: with MINLANES lanes left a running port retrains, below them the port goes DOWN. Symbols within the limit
are counted and change nothing else. Training ends when the connector holds a cable and the tags of two frames lock,
with the lanes that both ends keep: the port goes to LINK_UP, or to DOWN below MINLANES; a retrain that times out ends
DOWN, and an enabled port that is DOWN tries again with every lane its cable has (R279 to R282, R287, R368, R464; the two
tags and the lanes of a port with no cable are the model's choice, log 24). No other port changes, and in the gap of a switch
of the port's clock none of this happens. -/
def Claims.LanesAndTraining : Prop :=
  ∀ (s : State) (p : Fin 8),
    (s.portRuns p.val = false → (∀ lane why, exec (.laneSpare p lane why) s = .next s)
      ∧ exec (.retrainTimeout p) s = .next s ∧ exec (.trainingRetry p) s = .next s
      ∧ ∀ before tag, exec (.retrainEnd ⟨p, before, tag⟩) s = .next s ∧ exec (.framesLocked ⟨p, before, tag⟩) s = .next s)
    ∧ (s.portRuns p.val = true →
    let x := s.lport p.val
    let port := fun (s' : State) (good : Port → Prop) =>
      good (s'.lport p.val) ∧ (∀ r, r ≠ p.val → s'.lport r = s.lport r)
    let upOf := fun (m : BitVec 8) => ((List.range 8).filter (fun n => m.getLsbD n)).length
    (∀ (lane : Fin 8) (why : LaneCause), (why = .lostLock ∨ ∃ n, why = .corrected n ∧ 16384 < n) →
      (x.flows = true ∨ x.state = .training) → x.lanes.getLsbD lane.val = true →
        let left := x.lanes &&& ~~~((1 : BitVec 8) <<< lane.val)
        (x.minlanes ≤ upOf left → x.flows = true → ∃ s', exec (.laneSpare p lane why) s = .next s' ∧ port s' (fun y =>
            y.state = .training ∧ y.retrain = true ∧ y.lanes = left))
          ∧ (upOf left < x.minlanes → ∃ s', exec (.laneSpare p lane why) s = .next s' ∧ port s' (fun y => y.state = .down)))
    ∧ (∀ (lane : Fin 8) (n : Nat), (x.flows = true ∨ x.state = .training) → x.lanes.getLsbD lane.val = true →
        (x.report lane.val (.corrected n) s.strike).symbolsOf lane.val ≤ 16384 →
        ∃ s', exec (.laneSpare p lane (.corrected n)) s = .next s' ∧ port s' (fun y => y.state = x.state ∧ y.lanes = x.lanes
          ∧ Assoc.get {} y.counters 0 = (Assoc.get {} x.counters 0).addN n))
    ∧ (∀ (before tag : BitVec 40), x.state = .training → p.val ∈ s.pins.cables → tagSync before = 0x5CA3 →
        tagSync tag = 0x5CA3 → tagFcnt tag = tagFcnt before + 1 →
        let both := x.lanes &&& tagLanes tag
        (x.retrain = true →
          (x.minlanes ≤ upOf both → ∃ s', exec (.retrainEnd ⟨p, before, tag⟩) s = .next s' ∧ port s' (fun y =>
            y.state = .linkUp ∧ y.retrain = false ∧ y.lanes = both))
          ∧ (upOf both < x.minlanes → ∃ s', exec (.retrainEnd ⟨p, before, tag⟩) s = .next s' ∧ port s' (fun y => y.state = .down ∧ y.lanes = 0)))
        ∧ (x.retrain = false →
          (x.minlanes ≤ upOf both → ∃ s', exec (.framesLocked ⟨p, before, tag⟩) s = .next s' ∧ port s' (fun y =>
            y.state = .linkUp ∧ y.lanes = both ∧ (x.fresh = true → 3 ∈ y.ctrlOut)))
          ∧ (upOf both < x.minlanes → ∃ s', exec (.framesLocked ⟨p, before, tag⟩) s = .next s' ∧ port s' (fun y => y.state = .down ∧ y.lanes = 0))))
    ∧ (x.state = .training → x.retrain = true → ∃ s', exec (.retrainTimeout p) s = .next s' ∧ port s' (fun y => y.state = .down))
    ∧ (x.state = .down → x.enable = true → ∃ s', exec (.trainingRetry p) s = .next s' ∧ port s' (fun y =>
        y.state = .training ∧ y.retrain = false ∧ y.lanes = (if p.val ∈ s.pins.cables then 0xFF else 0))))

/-- A port whose frames are locked, with a cable at its connector, sends a flit each flit time: outside READY a CTRL flit, and in READY, with
nothing to send again and room in the replay buffer, the next DATA flit of a virtual channel that has bytes and
credit, which stays in the replay buffer until it is acknowledged; with no cable its lanes are idle, and in the gap of a
switch of its clock it sends nothing (R279, R284 to R286, R368, R464). That a DATA flit goes before a CTRL flit that waits is
the model's choice (log 25). -/
def Claims.FlitSent : Prop :=
  ∀ (s : State) (p : Fin 8),
    let x := s.lport p.val
    (p.val ∉ s.pins.cables ∨ s.portRuns p.val = false → exec (.flitSend p) s = .next s)
    ∧ (p.val ∈ s.pins.cables → s.portRuns p.val = true → x.flows = true → x.state ≠ .ready → ∀ sub rest, x.ctrlOut = sub :: rest →
      ∃ s', exec (.flitSend p) s = .next s' ∧ (s'.lport p.val).ctrlOut = rest
        ∧ s'.out.flit = some (p, flitOf (x.flitHeader 0 0 0 0) (x.ctrlPayload p.val sub))
        ∧ s'.out.frameTag = (0x5CA3 : BitVec 16) ++ x.fcnt ++ x.lanes ++ (0 : BitVec 8)
        ∧ (∀ r, r ≠ p.val → s'.lport r = s.lport r) ∧ s'.mem = s.mem)
    ∧ (∀ v, p.val ∈ s.pins.cables → s.portRuns p.val = true → x.state = .ready → x.resend = 0 → x.replay.length < 120 → x.sendable = [v] →
      let bytes := (x.vcOf v).tx.take 240
      ∃ s', exec (.flitSend p) s = .next s' ∧ (s'.lport p.val).seq = x.seq + 1
        ∧ ((s'.lport p.val).vcOf v).tx = (x.vcOf v).tx.drop 240 ∧ ((s'.lport p.val).vcOf v).s = (x.vcOf v).s + 1
        ∧ (s'.lport p.val).replay = x.replay ++
            [{ seq := x.seq, vc := v, used := bytes.length / 16, payload := bytes }]
        ∧ s'.out.flit = some (p, flitOf (x.flitHeader x.seq 1 (vcNo v) (bytes.length / 16)) bytes)
        ∧ (∀ r, r ≠ p.val → s'.lport r = s.lport r) ∧ s'.mem = s.mem)

/-- A DATA flit that one port sends, received by another with no damage and next in its order, is accepted: the
bytes in use join the receive buffer of its virtual channel, and it is acknowledged from then on; the header,
the payload and the check code survive the 256 bytes of the flit (R283 to R286). One that the codec could not
correct is lost: NAK is set, its codeword is counted once, and nothing joins a buffer (R279, R283, R285, R298). -/
def Claims.FlitReceived : Prop :=
  ∀ (s : State) (p : Fin 8),
    let y := s.lport p.val
    let i := y.rxInFrame
    p.val ∈ s.pins.cables → s.portRuns p.val = true → y.flows = true → (∀ c ∈ y.ctrl, c.1 ≠ 3) →
      (∀ (x : Port) (v : Vc) (seq : BitVec 8) (used : Nat) (payload : List Byte), 1 ≤ used → used ≤ 15 →
        payload.length = 16 * used → seq = y.ack + 1 →
          let f := flitOf (x.flitHeader seq 1 (vcNo v) used) payload
          ∃ s', exec (.flitReceive p f true) s = .next s'
            ∧ ((s'.lport p.val).vcOf v).rx = (y.vcOf v).rx ++ payload ∧ (s'.lport p.val).ack = seq
            ∧ (s'.lport p.val).nak = false ∧ (∀ w, w ≠ v → ((s'.lport p.val).vcOf w).rx = (y.vcOf w).rx)
            ∧ (∀ r, r ≠ p.val → s'.lport r = s.lport r) ∧ s'.mem = s.mem)
      ∧ (∀ f, ∃ s', exec (.flitReceive p f false) s = .next s' ∧ (s'.lport p.val).nak = true
          ∧ (s'.lport p.val).ack = y.ack ∧ (∀ w, ((s'.lport p.val).vcOf w).rx = (y.vcOf w).rx)
          ∧ Assoc.get {} (s'.lport p.val).counters 1 = (Assoc.get {} y.counters 1).addN
              (if (i < 2 ∧ y.rxFirst = false) ∨ (2 < i ∧ y.rxSecond = false)
                ∨ (i = 2 ∧ y.rxFirst = false ∧ y.rxSecond = false) then 1 else 0))

/-- A port in READY with unacknowledged flits sends them all again when its replay timer ends (R285); HELLO and
INIT are queued to send; a received HELLO of the other direction of the axis with the port's ring identifier
makes the port READY, any other MISMATCH; INIT of a fresh port only leaves the queue, and otherwise resets its
link layer (R287, R289). -/
def Claims.LinkControl : Prop :=
  ∀ (s : State) (p : Fin 8),
    let x := s.lport p.val
    (s.portRuns p.val = true → x.state = .ready → x.replay ≠ [] → x.resends < 7 →
      ∃ s', exec (.replayTimeout p) s = .next s' ∧ (s'.lport p.val).resend = x.replay.length
        ∧ (s'.lport p.val).replay = x.replay ∧ (s'.lport p.val).resends = x.resends + 1
        ∧ (∀ r, r ≠ p.val → s'.lport r = s.lport r))
    ∧ (x.flows = true → s.portRuns p.val = true →
      (1 ∉ x.ctrlOut → ∃ s', exec (.helloSend p) s = .next s' ∧ (s'.lport p.val) = { x with ctrlOut := x.ctrlOut ++ [1] })
      ∧ (3 ∉ x.ctrlOut → x.heard = false →
          ∃ s', exec (.initSend p) s = .next s' ∧ (s'.lport p.val) = { x with ctrlOut := x.ctrlOut ++ [3] })
      ∧ (∀ pl rest, x.ctrl = (1, pl) :: rest →
          ∃ s', exec (.hello p) s = .next s' ∧ (s'.lport p.val).heard = true
            ∧ (∀ r, r ≠ p.val → s'.lport r = s.lport r)
            ∧ (s'.lport p.val).state =
                (if leAt pl 1 1 = p.val / 2 ∧ leAt pl 2 1 ≠ p.val % 2
                    ∧ BitVec.ofNat 64 (leAt pl 8 8) = x.ringid ∧ x.ringid ≠ 0 then .ready else .mismatch))
      ∧ (∀ pl rest, x.ctrl = (3, pl) :: rest →
          ∃ s', exec (.init p) s = .next s' ∧ (∀ r, r ≠ p.val → s'.lport r = s.lport r)
            ∧ (x.fresh = true → s'.lport p.val = { x with ctrl := rest })
            ∧ (x.fresh = false → (s'.lport p.val).fresh = true ∧ (s'.lport p.val).heard = x.heard
                ∧ (s'.lport p.val).seq = 0
                ∧ (s'.lport p.val).ack = 255 ∧ (s'.lport p.val).replay = []
                ∧ (s'.lport p.val).state = (if x.state = .ready then .linkUp else x.state))))

/-- RESET_REQ of the operator goes out of a READY port that sent none in the last 10 ms, and is refused
otherwise; one received without RRESET_EN, or outside READY, is counted and shown and resets nothing, and one
that is let through asserts source 6 at the port's link die (R290, R291). -/
def Claims.ResetRequests : Prop :=
  ∀ (s : State) (p : Fin 8),
    let x := s.lport p.val
    (s.managing = true → x.state = .ready → (∀ t, x.lastReset = some t → 1000000 ≤ (s.strike - t).toNat) →
      ∃ s', exec (.resetReq p) s = .next s' ∧ s'.out.mgmt = some .ok ∧ (s'.lport p.val).ctrlOut = x.ctrlOut ++ [2]
        ∧ (s'.lport p.val).lastReset = some s.strike ∧ (∀ r, r ≠ p.val → s'.lport r = s.lport r))
    ∧ (s.managing = true →
        (x.state ≠ .ready ∨ ∃ t, x.lastReset = some t ∧ (s.strike - t).toNat < 1000000) →
        exec (.resetReq p) s = .next { s with out := { s.out with mgmt := some .refused } })
    ∧ (∀ pl rest, x.flows = true → s.portRuns p.val = true → x.ctrl = (2, pl) :: rest →
        (¬(x.state = .ready ∧ x.rreset = true) →
          ∃ s', exec (.resetReqReceive p) s = .next s' ∧ (s'.lport p.val).ctrl = rest
            ∧ Assoc.get {} (s'.lport p.val).counters 7 = (Assoc.get {} x.counters 7).addN 1
            ∧ (s'.lport p.val).sc.has 4 = true ∧ s'.resets = s.resets ∧ s'.cores = s.cores)
        ∧ (x.state = .ready → x.rreset = true → s.resets.episodes = [] →
          ∃ s' e, exec (.resetReqReceive p) s = .next s' ∧ s'.resets.episodes = [e]
            ∧ e.asserted = [{ src := 6, reach := widened (s.reachOf 6) (48 + p.val / 4), die := 48 + p.val / 4
                              core := 0, held := false }]))

/-! Transactions (R292 to R297). -/

/-- The packet at the front of a virtual channel, one of an operation the channel carries. -/
def frontPacket (s : State) (p : Fin 8) (v : Vc) (op : Nat) (h : Header) (d : List Byte) : Prop :=
  (s.lport p.val).packet v = some (h, d) ∧ h.op = op ∧ op ∈ opsOf v

/-- The bytes that an answer adds to the RSP channel of a port. -/
def replies (s s' : State) (p : Fin 8) (h : Header) (d : List Byte) : Prop :=
  ((s'.lport p.val).vcOf .rsp).tx = ((s.lport p.val).vcOf .rsp).tx ++ h.bytes ++ d

/-- With no other request in the store dies' queues to come before it, a PUT to memory that exists, is on and does not wait writes its data there and nothing else and is answered
COMPLETION 0; a GET is answered with the bytes it names; a FLAG packet sets or adds to its flag; a packet whose
reserved fields are not zero, or whose address is no multiple of 64, is answered BAD_PACKET and does nothing (R244, R292 to
R294; that such an address makes a packet bad is the model's reading, DEDUCED, log 54). -/
def Claims.RequestPackets : Prop :=
  ∀ (s : State) (p : Fin 8) (v : Vc) (h : Header) (d : List Byte), v ≠ .rsp → s.portRuns p.val = true →
    (frontPacket s p v 1 h d → s.store.requests = [] → h.plainOk = true → s.spanCause h.addr d.length = none → s.dieWaits h.addr = false →
      s.accessWaits h.addr d.length true = false → h.addr + d.length ≤ windowBase →
        ∃ s', exec (.put p v) s = .next s' ∧ replies s s' p { op := 8, tag := h.tag } []
          ∧ (∀ a, s'.byte a = lastWrite (bytesAt h.addr d) a (s.byte a)) ∧ s'.cores = s.cores
          ∧ (∀ r, r ≠ p.val → s'.lport r = s.lport r))
    ∧ (frontPacket s p v 1 h d → h.plainOk = false →
        ∃ s', exec (.put p v) s = .next s' ∧ replies s s' p { op := 8, tag := h.tag, status := 2 } []
          ∧ s'.mem = s.mem ∧ s'.cores = s.cores)
    ∧ (v = .req → frontPacket s p v 2 h d → s.store.requests = [] → h.plainOk = true → s.spanCause h.addr (64 * h.len) = none →
        s.dieWaits h.addr = false → s.accessWaits h.addr (64 * h.len) false = false →
        (∀ bs, s.memRead h.addr (64 * h.len) = (s, .ok bs) →
          ∃ s', exec (.get p) s = .next s' ∧ replies s s' p { op := 9, len := h.len, tag := h.tag } bs
            ∧ s'.mem = s.mem ∧ s'.cores = s.cores ∧ (∀ r, r ≠ p.val → s'.lport r = s.lport r)))
    ∧ (frontPacket s p v 5 h d → h.flagOk = true →
        ∃ s', exec (.flagPacket p v) s = .next s' ∧ replies s s' p { op := 8, tag := h.tag } []
          ∧ s'.flag h.addr = (if h.aux = 2 then BitVec.ofNat 64 h.value else s.flag h.addr + BitVec.ofNat 64 h.value)
          ∧ (∀ n, n ≠ h.addr → s'.flag n = s.flag n) ∧ s'.mem = s.mem ∧ s'.cores = s.cores)

/-- A REDUCE_PUT of the port's epoch for a receive ring with a slot open writes its data at its place in the
slot; a PERMUTE of the epoch writes its data at its address and counts its units for the RESHARD of the axis, once that has
begun its moves under the epoch; one
of an earlier epoch is refused as a violation, answered VIOLATION whatever its channel or address, and one of a later epoch is
held (R293, R294, R305, R323). -/
def Claims.ReducePackets : Prop :=
  ∀ (s : State) (p : Fin 8) (h : Header) (d : List Byte), s.portRuns p.val = true →
    let x := s.lport p.val
    (∀ n, frontPacket s p .red 3 h d → s.store.requests = [] → h.reduceOk = true → x.channelFor h.addr = some n → x.stale h = false →
      x.early h = false → s.receives h.addr = true → h.value + d.length ≤ (s.ctx h.addr).srcSlot →
      s.dieWaits (s.ctx h.addr).src = false → (x.channel n).open_ = true →
      (x.channel n).got + d.length < (s.ctx h.addr).srcSlot →
        let c := s.ctx h.addr
        let a := c.src + (ceilDiv c.pos c.srcSlot + (s.srcHasp c).fill) % c.srcSlots * c.srcSlot + h.value
        a + d.length ≤ windowBase →
        ∃ s', exec (.reducePut p) s = .next s' ∧ replies s s' p { op := 8, tag := h.tag } []
          ∧ (∀ b, s'.byte b = lastWrite (bytesAt a d) b (s.byte b))
          ∧ ((s'.lport p.val).channel n).got = (x.channel n).got + d.length ∧ s'.store.ctxs = s.store.ctxs)
    ∧ (∀ r, frontPacket s p .red 4 h d → s.store.requests = [] → h.permuteOk = true → x.stale h = false → x.early h = false →
        s.spanCause h.addr d.length = none → s.dieWaits h.addr = false →
        s.accessWaits h.addr d.length true = false → h.addr + d.length ≤ windowBase →
        s.reshardOf (p.val / 2) = some r →
          ∃ s', exec (.permutePacket p) s = .next s' ∧ replies s s' p { op := 8, tag := h.tag } []
            ∧ (∀ a, s'.byte a = lastWrite (bytesAt h.addr d) a (s.byte a))
            ∧ s'.reshardOf (p.val / 2) = some (if r.step ≠ .moves then r
                else if p.val % 2 = 0 then { r with gotPlus := r.gotPlus + h.len }
                else { r with gotMinus := r.gotMinus + h.len }))
    ∧ (frontPacket s p .red 4 h d → h.permuteOk = true → x.stale h = true →
        ∃ s', exec (.permutePacket p) s = .next s' ∧ replies s s' p { op := 8, tag := h.tag, status := 1 } []
          ∧ s'.mem = s.mem ∧ s'.logs.mcount = s.logs.mcount.tick)
    ∧ (frontPacket s p .red 3 h d → h.reduceOk = true → x.stale h = true →
        ∃ s', exec (.reducePut p) s = .next s' ∧ replies s s' p { op := 8, tag := h.tag, status := 1 } []
          ∧ s'.mem = s.mem ∧ s'.logs.mcount = s.logs.mcount.tick)
    ∧ (frontPacket s p .red 4 h d → h.permuteOk = true → x.stale h = false → x.early h = true →
        exec (.permutePacket p) s = .next s)
    ∧ (frontPacket s p .red 3 h d → h.reduceOk = true → x.stale h = false → x.early h = true →
        (x.channelFor h.addr).isSome = true → exec (.reducePut p) s = .next s)

/-- A good COMPLETION or GET_RSP ends the packet it answers: a descriptor gets its LINK_DONE with status 0, and
a GET's data, of the length it asked for, stand at its local address; a response that holds a reserved value ends
nothing; a READY port takes its next descriptor from its send ring and sends it: a FLAG or a GET without data, a PUT,
REDUCE_PUT or PERMUTE with the data at its local address (R292, R293, R295, R296). -/
def Claims.ResponsesAndDescriptors : Prop :=
  ∀ (s : State) (p : Fin 8) (h : Header) (d : List Byte) (t : Taken) (user : Word) (op dst n : Nat),
    s.portRuns p.val = true →
    let x := s.lport p.val
    let done := fun (s' : State) => (s'.lport p.val).taken = x.taken.erase t
      ∧ ((s.eq x.eq).enable = true → (s.eq x.eq).pending.length < (s.eq x.eq).space →
          ∃ r : Rec, (s'.eq x.eq).pending = (s.eq x.eq).pending ++ [r] ∧ r.type = 0x22 ∧ r.status = 0
            ∧ leAt r.payload 0 8 = user.toNat)
    (t.who = .descriptor user op dst n → x.takenBy h.tag = some t → (∀ z ∈ x.taken, z.ended = none) →
      s.store.requests = [] →
      (frontPacket s p .rsp 8 h d → h.responseOk = true → h.len = 0 → h.status = 0 →
        ∃ s', exec (.completion p) s = .next s' ∧ done s' ∧ s'.mem = s.mem ∧ s'.cores = s.cores)
      ∧ (frontPacket s p .rsp 9 h d → h.responseOk = true → op = 2 → h.len = n → h.status = 0 → d ≠ [] → s.spanCause dst d.length = none →
          s.dieWaits dst = false → s.accessWaits dst d.length true = false → dst + d.length ≤ windowBase →
          ∃ s', exec (.getRsp p) s = .next s' ∧ done s'
            ∧ (∀ a, s'.byte a = lastWrite (bytesAt dst d) a (s.byte a)) ∧ s'.cores = s.cores))
    ∧ (∀ (z : Header) (bs : List Byte), z.responseOk = false →
        (frontPacket s p .rsp 8 z bs →
          ∃ s', exec (.completion p) s = .next s' ∧ (s'.lport p.val).taken = x.taken ∧ s'.mem = s.mem
            ∧ s'.logs = s.logs)
        ∧ (frontPacket s p .rsp 9 z bs →
          ∃ s', exec (.getRsp p) s = .next s' ∧ (s'.lport p.val).taken = x.taken ∧ s'.mem = s.mem
            ∧ s'.logs = s.logs))
    ∧ (∀ b, x.state = .ready → x.sqHead ≠ x.sqTail → x.desc = none → s.store.requests = [] →
        let a := x.sqBase + x.sqHead.toNat % 2 ^ (bits x.sqCfg 0 4) * 64
        s.spanCause a 64 = none → s.dieWaits a = false → s.accessWaits a 64 false = false →
        s.memRead a 64 = (s, .ok b) → descOk (headerOf b) b = true →
          let v := vcNamed (leAt b 48 1)
          let h := headerOf b
          let near := leAt b 32 8
          let read := s.setLport p.val { x with desc := some b }
          let sends := fun (bs : List Byte) (to_ : Nat) =>
            ∃ s', exec (.linkDescriptor p) s = .next s' ∧ (s'.lport p.val).sqHead = x.sqHead + 1
              ∧ ((s'.lport p.val).vcOf v).tx = (x.vcOf v).tx ++ ({ h with tag := x.nextTag } : Header).bytes ++ bs
              ∧ (s'.lport p.val).taken = x.taken ++
                  [{ tag := x.nextTag, vc := v, who := .descriptor (BitVec.ofNat 64 (leAt b 40 8)) h.op to_ h.len }]
              ∧ (∀ r, r ≠ p.val → s'.lport r = s.lport r) ∧ s'.mem = s.mem
          (h.op = 5 → sends [] 0)
            ∧ (s.spanCause near (64 * h.len) = none → near % 64 = 0 →
                (h.op = 2 → sends [] near)
                ∧ (∀ bs, h.op ∈ [1, 3, 4] → s.dieWaits near = false → s.accessWaits near (64 * h.len) false = false →
                    read.memRead near (64 * h.len) = (read, .ok bs) → sends bs 0)))

/-- PORT_SQ_TAIL, PORT_RINGID and PORT_CTL written: the tail and the ring identifier are as written, ENABLE
starts the training of a disabled port, MINLANES takes a legal value only, and a locked link die keeps RRESET_EN
(R288, R295, R297, R442; the lanes that a port begins to train with a cable and without one are the model's choice, log 24). -/
def Claims.PortRegisters : Prop :=
  ∀ (s : State) (o : Origin) (p : Fin 8) (v : BitVec 64),
    let x := s.lport p.val
    let base := portAddr p.val
    (s.regOpen o (base 0x30) true →
      ∃ s', exec (.portSqTail o p v) s = .next s' ∧ s'.lport p.val = { x with sqTail := v }
        ∧ s'.out.resp = some .done ∧ (∀ r, r ≠ p.val → s'.lport r = s.lport r))
    ∧ (s.managing = true → s.regOpen .operator (base 8) true →
      ∃ s', exec (.portRingid p v) s = .next s' ∧ s'.lport p.val = { x with ringid := v, ringCopy := v }
        ∧ s'.out.mgmt = some .ok ∧ (∀ r, r ≠ p.val → s'.lport r = s.lport r))
    ∧ (s.regOpen o (base 0) true → v.getLsbD 0 = true → x.enable = false → x.state = .disabled → x.held = false →
      ∃ s', exec (.portCtl o p v) s = .next s' ∧ (s'.lport p.val).enable = true
        ∧ (s'.lport p.val).state = .training
        ∧ (s'.lport p.val).lanes = (if p.val ∈ s.pins.cables then 0xFF else 0)
        ∧ (s'.lport p.val).minlanes = (if 6 ≤ v.toNat / 16 % 16 ∧ v.toNat / 16 % 16 ≤ 8 then v.toNat / 16 % 16
            else x.minlanes)
        ∧ (s'.lport p.val).rreset = (if 48 + p.val / 4 ∈ s.resets.locks then x.rreset else v.getLsbD 1)
        ∧ s'.out.resp = some .done ∧ (∀ r, r ≠ p.val → s'.lport r = s.lport r))

/-! Exchange channels and RESHARD (file 12). -/

/-- PORT_XCHnA and PORT_XCHnB take their fields while VALID is 0; while VALID is 1 a write to B, or one to A that
leaves VALID set, is ignored, and a write to A that clears VALID waits while a slot is outstanding, until
VALID_CLEAR (R302). A channel set VALID starts with its counts and slot afresh, which is the model's reading (DEDUCED, log
61). -/
def Claims.ChannelRegisters : Prop :=
  ∀ (s : State) (o : Origin) (p : Fin 8) (n : Fin 16) (v : BitVec 64),
    let c := (s.lport p.val).channel n.val
    let after := fun (s' : State) (c' : Channel) => (s'.lport p.val).channel n.val = c'
      ∧ (∀ m, m ≠ n.val → (s'.lport p.val).channel m = (s.lport p.val).channel m)
      ∧ (∀ r, r ≠ p.val → s'.lport r = s.lport r) ∧ s'.mem = s.mem ∧ s'.store = s.store
    (s.regOpen o (xchaAddr p.val n.val) true →
      (c.valid = false → v.getLsbD 63 = true →
        ∃ s', exec (.portXchna o p n v) s = .next s'
          ∧ after s' { a := v &&& 0x8300FFFF3FFF3FFF, b := c.b })
      ∧ (c.valid = true → v.getLsbD 63 = false → c.slot = true →
        ∃ s', exec (.portXchna o p n v) s = .next s'
          ∧ after s' { c with clearing := some (v &&& 0x8300FFFF3FFF3FFF) })
      ∧ (c.valid = true → v.getLsbD 63 = false → c.slot = false →
        ∃ s', exec (.portXchna o p n v) s = .next s'
          ∧ after s' { c with a := v &&& 0x8300FFFF3FFF3FFF, clearing := none })
      ∧ (c.valid = true → v.getLsbD 63 = true → ∃ s', exec (.portXchna o p n v) s = .next s' ∧ after s' c)
      ∧ (c.valid = false → v.getLsbD 63 = false →
        ∃ s', exec (.portXchna o p n v) s = .next s'
          ∧ after s' { c with a := v &&& 0x8300FFFF3FFF3FFF, clearing := none }))
    ∧ (s.regOpen o (xchbAddr p.val n.val) true →
        ∃ s', exec (.portXchnb o p n v) s = .next s'
          ∧ after s' (if c.valid then c else { c with b := v &&& 0x0000FFFF00003FFF }))
    ∧ (∀ w, c.clearing = some w → c.slot = false → w.getLsbD 63 = false →
        ∃ s', exec (.validClear p n) s = .next s' ∧ after s' { c with a := w, clearing := none })

/-- A valid idle channel of a READY port whose local context has a filled slot, whose credit flag lets the pass
begin, and whose graph's epoch is the port's, with no other request of the central store before it, takes the slot and sends its bytes as REDUCE_PUT packets to the
remote context: a slot of at most 4,096 bytes is one packet (R303, R304, R306). -/
def Claims.ChannelSlotSent : Prop :=
  ∀ (s : State) (p : Fin 8) (n : Fin 16) (q t : Nat) (x : Task) (g : Graph) (bs : List Byte),
    let y := s.lport p.val
    let c := y.channel n.val
    let k := s.ctx c.localCtx
    let i := s.slotNo c
    let a := k.snk + i % k.snkSlots * k.snkSlot
    y.state = .ready → s.portRuns p.val = true → c.valid = true → c.clearing = none → c.slot = false → s.ownerTask k = some (q, t, x) →
      s.graph q = some g → k.ringFill ≠ 0 → (i ≠ 0 ∨ s.waitMet c.creditFlag (BitVec.ofNat 64 c.passes) = true) →
      g.epoch = y.epoch → s.dieWaits a = false → s.store.requests = [] → s.memRead a k.snkSlot = (s, .ok bs) → bs ≠ [] →
      bs.length ≤ 4096 →
        let h : Header := { op := 3, etype := xmodeType c.xmode, len := bs.length / 64, tag := y.nextTag
                            addr := c.remoteCtx, value := 0, epoch := y.epoch.toNat }
        ∃ s', exec (.channelSlotSend p n) s = .next s'
          ∧ ((s'.lport p.val).vcOf .red).tx = (y.vcOf .red).tx ++ h.bytes ++ bs
          ∧ (s'.lport p.val).taken = y.taken ++ [{ tag := y.nextTag, vc := .red, who := .channel n.val }]
          ∧ ((s'.lport p.val).channel n.val).slot = true ∧ ((s'.lport p.val).channel n.val).flying = 1
          ∧ (s'.ctx c.localCtx).hasp = k.hasp.map (fun z => { z with fill := z.fill - 1 })
          ∧ (∀ m, m ≠ c.localCtx → s'.ctx m = s.ctx m) ∧ s'.mem = s.mem

/-- RESHARD: an entry whose list passes its checks opens the RESHARD of its axis and stays in its queue, one
that fails completes BAD_ENTRY; the fence passes once the older exchange tasks have ended; the copy-out of local
entries leaves each DST span with the bytes its SRC span held and advances the epoch of both ports; the RESHARD
completes its entry once its units have come and its packets are answered (R322, R323). -/
def Claims.ReshardLife : Prop :=
  ∀ (s : State) (axis : Fin 4) (r : Reshard),
    (∀ (q : Nat) (e : Entry) (s1 : State), nextEntry s q e → e.op = 4 → e.arg 0 % 4 = axis.val →
      s.readsWait (s.reshardSpans (e.arg 1)) = false → s.reshardOf axis.val = none → (∀ x ∈ s.link.reshards, ¬(x.2.q = q ∧ x.2.entry = e.no)) →
        (s.readReshard q e = (s1, some r) →
          ∃ s', exec (.reshard q) s = .next s' ∧ s'.reshardOf axis.val = some r ∧ s'.sq q = s1.sq q ∧ s'.mem = s1.mem)
        ∧ (s.readReshard q e = (s1, none) →
          ∃ s', exec (.reshard q) s = .next s' ∧ s'.link = s1.link
            ∧ (s'.sq q).entries = (s1.sq q).entries.tail ∧ answersEntry s1 s' q 3 3 e.tag))
    ∧ (s.reshardOf axis.val = some r →
      (r.step = .fence → s.fencePassed axis.val r = true →
        ∃ s', exec (.epochFence axis) s = .next s' ∧ s'.reshardOf axis.val = some { r with step := .copyOut }
          ∧ s'.link.ports = s.link.ports ∧ s'.mem = s.mem)
      ∧ (∀ e1, r.step = .copyOut → r.fault = none → r.list = [e1] → e1.dir = 0 → s.reshardWaits r = false →
          s.memRead e1.src (64 * e1.units) = (s, .ok (s.bytes e1.src (64 * e1.units))) →
          e1.dst + 64 * e1.units ≤ extEnd → r.scratch + 64 * e1.units ≤ extEnd →
          (r.scratch + 64 * e1.units ≤ e1.dst ∨ e1.dst + 64 * e1.units ≤ r.scratch) →
          ∃ s', exec (.copyOut axis) s = .next s'
            ∧ (∀ i, i < 64 * e1.units → s'.byte (e1.dst + i) = s.byte (e1.src + i))
            ∧ (∀ a, (a < r.scratch ∨ r.scratch + 64 * e1.units ≤ a) →
                (a < e1.dst ∨ e1.dst + 64 * e1.units ≤ a) → s'.byte a = s.byte a)
            ∧ (s'.lport (2 * axis.val)).epoch = r.epoch ∧ (s'.lport (2 * axis.val + 1)).epoch = r.epoch
            ∧ s'.reshardOf axis.val = some { r with step := .moves, flying := 0 })
      ∧ (∀ e, r.step = .moves → r.fault = none → r.flying = 0 → r.inPlus ≤ r.gotPlus → r.inMinus ≤ r.gotMinus →
          (s.sq r.q).entries.find? (fun x => x.no == r.entry) = some e →
          ∃ s', exec (.reshardComplete axis) s = .next s' ∧ s'.reshardOf axis.val = none
            ∧ (s'.sq r.q).entries = (s.sq r.q).entries.erase e ∧ answersEntry s s' r.q 3 0 e.tag
            ∧ s'.link.ports = s.link.ports ∧ s'.mem = s.mem))

/-! The grid, external memory and the front end (files 13 and 14). -/

/-- ROW_MAP_UPDATE: a decided row map takes effect once no task runs on the row, and only that row's map
changes; while a task runs on it nothing happens (R338). -/
def Claims.RowMapTakesEffect : Prop :=
  ∀ (s : State) (d : Fin 12) (row : Fin 30) (f a : BitVec 32),
    let key := d.val * 32 + row.val
    (s.rowMap key).next = some (f, a) →
      (s.rowBusy key = false →
        ∃ s', exec (.rowMapUpdate d row) s = .next s' ∧ s'.rowMap key = { failed := f, active := a }
          ∧ (∀ k, k ≠ key → s'.rowMap k = s.rowMap k)
          ∧ s' = { s with grid := { s.grid with rows := s'.grid.rows } })
      ∧ (s.rowBusy key = true → exec (.rowMapUpdate d row) s = .next s)

/-- A fabric access of the helm die, a front-end port or a core to external memory that nothing refuses and nothing delays,
with no request of the central store before it: a
write makes every byte of its span the byte given and leaves every other byte, and answers DONE; a read of
bursts without an error mark answers with the bytes and changes nothing but the answer and, where a front-end port with a cable
reads 1 to 9,216 bytes, the frame on its wire with its timestamp, a free value (R13, R341, R344, R362, R464, R472, log 95). -/
def Claims.FabricMemoryAccess : Prop :=
  ∀ (s : State) (o : Origin) (a : Nat) (bs : List Byte),
    let n := bs.length
    originExists o = true → o ≠ .operator → 0 < n → a + n ≤ extEnd → s.dieWaits a = false → s.store.requests = [] →
      (s.accessCause o .plain a n true = none → s.accessWaits a n true = false →
        ∃ s', exec (.fabricAccess o a n (some bs)) s = .next s' ∧ s'.out.resp = some .done
          ∧ (∀ i, i < n → s'.byte (a + i) = bs.getD i 0)
          ∧ (∀ x, x < a ∨ a + n ≤ x → s'.byte x = s.byte x)
          ∧ (∀ b, s'.ext.bad.contains b = true → s.ext.bad.contains b = true)
          ∧ (∀ b, a ≤ 64 * b → 64 * b + 64 ≤ a + n → s'.ext.bad.contains b = false)
          ∧ s'.cores = s.cores ∧ s'.logs = s.logs)
      ∧ (s.accessCause o .plain a n false = none → s.accessWaits a n false = false →
        (∀ b ∈ unitsOf 64 a n, s.readBurst b = (s, false)) →
          ∃ fr st fv, exec (.fabricAccess o a n none) s
              = .next { s with out := { s.out with resp := some (.data (s.bytes a n)), frame := fr, stamp := st }, free := fv }
            ∧ (∀ k, o = .frontEnd k → s.cabled (8 + k.val) = true → n ≤ 9216 →
                fr = some (k, s.bytes a n) ∧ st = some (k, Config.freeWord s.free) ∧ fv = s.free + 1)
            ∧ ((∀ k, o = .frontEnd k → s.cabled (8 + k.val) = false ∨ 9216 < n) →
                fr = s.out.frame ∧ st = s.out.stamp ∧ fv = s.free))

/-- A fabric access that is refused answers an error with the lowest cause that holds, changes no memory, and
enters one violation into the log of the die that answers, found by the first address of a block that is off where that is the
cause and by the span's own address otherwise, and one record into the module log (R415, R416, R417). -/
def Claims.RefusedAccess : Prop :=
  ∀ (s : State) (o : Origin) (a n e : Nat) (data : Option (List (BitVec 8))),
    originExists o = true → o ≠ .operator → (data = none ∨ ∃ bs, data = some bs ∧ bs.length = n) → 0 < n →
      s.dieWaits a = false → s.accessCause o .plain a n data.isSome = some e →
        ∃ s', exec (.fabricAccess o a n data) s = .next s' ∧ s'.out.resp = some (.error e)
          ∧ (let die := s.loggingDie o e (s.blameAt e a n)
             s'.vlog die = (s.vlog die).enter { plainViolation e a o (b2n data.isSome) with strike := s.strike }
               ∧ (∀ d, d ≠ die → s'.vlog d = s.vlog d))
          ∧ s'.logs.mcount = s.logs.mcount.tick ∧ s'.mem = s.mem ∧ s'.cores = s.cores ∧ s'.store = { s.store with requests := s'.store.requests }
          ∧ s'.ext = s.ext ∧ s'.logs.eqs = s.logs.eqs

/-- PATROL_SCRUB reads the burst its place names, where a granule lies there, and a burst without an error changes
nothing but the place, which goes on to the next burst of the channel and then to the next channel; it passes a
retired channel over, and does nothing in the self-refresh of a FABRIC episode. Every burst of external memory is
some place of some die's patrol, on a channel that is not retired, whatever granules have moved (R345, R347). -/
def Claims.PatrolReadsEveryBurst : Prop :=
  (∀ (s : State) (m : Fin 16),
    let p := s.port_ m.val
    let c := 16 * p.patrolChan + m.val
    let goes := fun (q : MemPort) => ∃ s', exec (.patrolScrub m) s = .next s' ∧ s'.port_ m.val = q
      ∧ (∀ k, k ≠ m.val → s'.port_ k = s.port_ k) ∧ s' = { s with ext := { s.ext with ports := s'.ext.ports } }
    (s.memUp m.val = true → p.repairing = false → s.fabricOpen = false →
      (s.ext.retired ≠ some c → (∀ b, s.burstOf c p.patrolBurst = some b → s.readBurst b = (s, false)) →
        goes p.patrolOn)
      ∧ (s.ext.retired = some c → goes { p with patrolBurst := 0, patrolChan := (p.patrolChan + 1) % 24 }))
    ∧ (s.fabricOpen = true → exec (.patrolScrub m) s = .next s))
  ∧ (∀ (s : State) (b : Nat), b < extEnd / 64 → (s.ext.retired = none ∨ s.ext.retiring = none) →
      ∃ m c j, m < 16 ∧ c < 24 ∧ j < channelBursts ∧ s.burstOf (16 * c + m) j = some b
        ∧ s.ext.retired ≠ some (16 * c + m))

/-- A read of a burst that a correctable error marks counts and heals it; one with an uncorrectable error counts
it and poisons the burst's granule, where the table of 64 has room, so that every later read of the granule is
lost (R344). -/
def Claims.BurstErrors : Prop :=
  ∀ (s : State) (b : Nat),
    let a := 64 * b
    let c := s.chanAt a
    let m := s.portAt a
    (s.port_ m).poison.contains (b / 4) = false →
      (s.ext.bad.contains b = false → s.ext.weak.contains b = true → ∀ s', s.readBurst b = (s', false) →
        (s'.chan c).ce = (s.chan c).ce.tick ∧ (s'.chan c).sc.has 0 = true ∧ s'.ext.weak.contains b = false
          ∧ s'.mem = s.mem)
      ∧ (s.ext.bad.contains b = true → (s.readBurst b).2 = true
        ∧ ((s.readBurst b).1.chan c).ue = (s.chan c).ue.tick ∧ ((s.readBurst b).1.chan c).sc.has 1 = true
        ∧ (s.readBurst b).1.mem = s.mem
        ∧ ((s.port_ m).poison.length < 64 → ((s.readBurst b).1.port_ m).poison.contains (b / 4) = true))

/-- Row redirects and repair: a completed copy corrects every burst of the row that could be corrected, marks its entry
done and is recorded; MEM_REPAIR answers OK once
and BUSY while it runs, and its end leaves the entries whose copy is not done (R346). -/
def Claims.RedirectAndRepair : Prop :=
  ∀ (s : State) (m : Fin 16),
    let p := s.port_ m.val
    (∀ r, s.memUp m.val = true → p.redirects.find? (fun x => !x.done) = some r →
      ∃ s', exec (.rowRedirectDone m) s = .next s' ∧ s'.mem = s.mem
        ∧ (s'.chan (16 * r.chan + m.val)).sc.has 2 = true
        ∧ (∀ b, s.inRow m.val r b = true → s'.ext.weak.contains b = false)
        ∧ (s.ext.weak.filter (s.inRow m.val r) = [] →
          (s'.port_ m.val).redirects = p.redirects.map (fun y => if y = r then { y with done := true } else y)
          ∧ s'.logs.mcount = s.logs.mcount.tick ∧ (∀ k, k ≠ m.val → s'.port_ k = s.port_ k)))
    ∧ (s.managing = true → s.memUp m.val = true →
        (p.repairing = false → ∃ s', exec (.memRepair m) s = .next s' ∧ s'.out.mgmt = some .ok
          ∧ s'.port_ m.val = { p with repairing := true } ∧ s'.mem = s.mem
          ∧ (∀ k, k ≠ m.val → s'.port_ k = s.port_ k))
        ∧ (p.repairing = true →
            exec (.memRepair m) s = .next { s with out := { s.out with mgmt := some .busy } }))
    ∧ (p.repairing = true → ∃ s', exec (.memRepairEnd m) s = .next s'
        ∧ s'.port_ m.val = { p with repairing := false, redirects := p.redirects.filter (fun r => !r.done) }
        ∧ s'.mem = s.mem ∧ (∀ k, k ≠ m.val → s'.port_ k = s.port_ k))

/-- Retirement of a channel: the operator's command begins it where no channel has begun, and a second one is
refused; each granule advances the pointer and the migrated count by one and is served from another channel from then on,
as poisoned where it was, or with its bursts uncorrectable where the table of its new die is full (log 95), and a burst that is
lost and in no table stays so, while every other granule stays where it is; after the last the channel is retired (R344,
R347, R348). -/
def Claims.ChannelRetirement : Prop :=
  ∀ (s : State) (c : Nat),
    (c < 384 → s.managing = true → s.memUp (c % 16) = true →
      (s.ext.retiring = none → s.ext.retired = none →
        ∃ s', exec (.channelRetire c) s = .next s' ∧ s'.ext.retiring = some { chan := c, pointer := 0 }
          ∧ (s'.chan c).state = .retiring ∧ s'.out.mgmt = some .ok ∧ s'.mem = s.mem
          ∧ (∀ k, k ≠ c → s'.chan k = s.chan k))
      ∧ (s.ext.retiring ≠ none ∨ s.ext.retired ≠ none →
        exec (.channelRetire c) s = .next { s with out := { s.out with mgmt := some .refused } }))
    ∧ (∀ r, s.ext.retiring = some r →
      (r.pointer < channelGranules → s.memUp (r.chan % 16) = true → r.chan < 384 → s.ext.retired = none →
        let g := r.pointer * 384 + r.chan
        ∃ s', exec .granuleMigrated s = .next s'
          ∧ s'.ext.retiring = some { chan := r.chan, pointer := r.pointer + 1 }
          ∧ (s'.chan r.chan).migrated = (s.chan r.chan).migrated.tick ∧ s'.mem = s.mem
          ∧ s'.chanAt (256 * g) ≠ r.chan ∧ (∀ h, h ≠ g → s'.chanAt (256 * h) = s.chanAt (256 * h))
          ∧ ((s.port_ (r.chan % 16)).poison.contains g = true →
              ((s.port_ (s'.portAt (256 * g))).poison.length < 64 →
                (s'.port_ (s'.portAt (256 * g))).poison.contains g = true)
              ∧ (64 ≤ (s.port_ (s'.portAt (256 * g))).poison.length → s'.portAt (256 * g) ≠ r.chan % 16 →
                ∀ i, i < 4 → s'.ext.bad.contains (4 * g + i) = true))
          ∧ ((s.port_ (r.chan % 16)).poison.contains g = false → 64 ≤ (s.port_ (r.chan % 16)).poison.length →
              ∀ i, i < 4 → s.ext.bad.contains (4 * g + i) = true → s'.ext.bad.contains (4 * g + i) = true)
          ∧ ((∀ i, i < 4 → s.readBurst (4 * g + i) = (s, false)) →
              s'.chan r.chan = { s.chan r.chan with migrated := (s.chan r.chan).migrated.tick }
              ∧ (∀ k, k ≠ r.chan → s'.chan k = s.chan k) ∧ s'.ext.ports = s.ext.ports))
      ∧ (channelGranules ≤ r.pointer →
        ∃ s', exec .channelRetired s = .next s' ∧ s'.ext.retiring = none ∧ s'.ext.retired = some r.chan
          ∧ (s'.chan r.chan).state = .retired ∧ s'.logs.mcount = s.logs.mcount.tick ∧ s'.mem = s.mem
          ∧ (∀ k, k ≠ r.chan → s'.chan k = s.chan k)))

/-! Event queues, the handover and host memory (file 14). -/

/-- A write to EQ_CFG enables a queue with HEAD and TAIL 0, or disables one and sets its fields, and changes no other queue; one
that would enable a ring that does not lie in host memory is refused: it changes no queue and is recorded (R355, R356, R443).
That records which wait stay with a queue whose ENABLE changes is the model's choice (log 48). -/
def Claims.EventQueueConfigured : Prop :=
  ∀ (s : State) (o : Origin) (e : Nat) (v : BitVec 64), e < 256 →
    let q := s.eq e
    let frame := fun (s' : State) => (∀ k, k ≠ e → s'.eq k = s.eq k) ∧ s'.mem = s.mem ∧ s'.out.resp = some .done
    s.regOpen o (eqAddr e 8) true →
      (q.enable = false → v.getLsbD 63 = true → bits v 0 5 ≤ 16 →
        q.base + 64 * 2 ^ bits v 0 5 ≤ s.hostBytes →
          ∃ s', exec (.eqCfg o e v) s = .next s' ∧ frame s'
            ∧ s'.eq e = { q with
                enable := true, moderation := bits v 32 16, eiid := bits v 16 11, hart := bits v 8 5
                depth := bits v 0 5, head := 0, tail := 0, unsignalled := 0, ahead := 0 })
      ∧ (q.enable = false → v.getLsbD 63 = true → bits v 0 5 ≤ 16 →
        s.hostBytes < q.base + 64 * 2 ^ bits v 0 5 →
          ∃ s', exec (.eqCfg o e v) s = .next s' ∧ frame s' ∧ s'.eq e = q ∧ s'.logs.mcount = s.logs.mcount.tick)
      ∧ (v.getLsbD 63 = false → bits v 0 5 ≤ 16 → ∃ s', exec (.eqCfg o e v) s = .next s' ∧ frame s'
          ∧ (s'.eq e).enable = false ∧ (s'.eq e).depth = bits v 0 5
          ∧ s'.eq e = { q with
              enable := false, moderation := bits v 32 16, eiid := bits v 16 11, hart := bits v 8 5, depth := bits v 0 5 })

/-- Record n, counted from 0 since enable, is written to slot n mod 2^DEPTH with PHASE bit
1 − (⌊n / 2^DEPTH⌋ mod 2), and no other byte of memory changes. A head write within the range from the current head
to EQ_TAIL moves the head; one outside is ignored and sets HEADERR (R357). The ring is full, and takes no record, when
(EQ_TAIL − EQ_HEAD) mod 2³² equals the depth (R357, R358; that the event of a write does nothing then is log 13). -/
def Claims.EventRing : Prop :=
  ∀ (s : State) (e : Nat), e < 256 →
    let q := s.eq e
    (∀ (r : Rec) (rest : List Rec),
      let n := q.tail.toNat
      let a := q.base + n % 2 ^ q.depth * 64
      s.helmUp = true → q.enable = true → (q.tail - q.head).toNat < 2 ^ q.depth → q.lostSince = {} →
        q.pending = r :: rest → a + 64 ≤ extEnd → s.dieWaits a = false → s.accessWaits a 64 true = false →
          ∃ s', exec (.eventRecordWrite e) s = .next s'
            ∧ (∀ i, i < 64 → s'.byte (a + i) = (r.bytes (1 - n / 2 ^ q.depth % 2)).getD i 0)
            ∧ (∀ x, x < a ∨ a + 64 ≤ x → s'.byte x = s.byte x)
            ∧ (s'.eq e).tail = q.tail + 1 ∧ (s'.eq e).head = q.head ∧ (s'.eq e).pending = rest
            ∧ (s'.eq e).unsignalled = q.unsignalled + 1 ∧ (∀ k, k ≠ e → s'.eq k = s.eq k))
    ∧ ((q.tail - q.head).toNat = 2 ^ q.depth → exec (.eventRecordWrite e) s = .next s)
    ∧ (∀ (o : Origin) (v : BitVec 64), s.regOpen o (eqAddr e 0x10) true →
        let h : BitVec 32 := v.truncate 32
        let frame := fun (s' : State) => (∀ k, k ≠ e → s'.eq k = s.eq k) ∧ s'.mem = s.mem ∧ s'.out.resp = some .done
        ((h - q.head).toNat ≤ (q.tail - q.head).toNat →
          ∃ s', exec (.eqHead o e v) s = .next s' ∧ frame s' ∧ s'.eq e = { q with head := h })
        ∧ ((q.tail - q.head).toNat < (h - q.head).toNat →
          ∃ s', exec (.eqHead o e v) s = .next s' ∧ frame s' ∧ s'.eq e = { q with sc := q.sc.event 3 }))

/-- EVENT_INTERRUPT sends the MSI of a queue that has records to signal: without moderation one for each record,
with it one for all, at most once in MOD strikes, and sets that identity in the hart's IMSIC; an EIID of 0 sends
none (R349, R359). -/
def Claims.EventInterruptSent : Prop :=
  ∀ (s : State) (e : Nat), e < 256 → s.helmUp = true →
    let q := s.eq e
    let due := q.eiid ≠ 0 ∧ 0 < q.unsignalled ∧ (∀ t, q.lastMsi = some t → q.moderation ≤ (s.strike - t).toNat)
    (due → ∃ s', exec (.eventInterrupt e) s = .next s' ∧ s'.out.msi = some (q.hart, q.eiid)
      ∧ s'.eq e = { q with
          unsignalled := if q.moderation = 0 then q.unsignalled - 1 else 0, lastMsi := some s.strike }
      ∧ (q.eiid ≤ 2047 → (Assoc.get [] s'.imsic q.hart).contains q.eiid = true)
      ∧ (∀ h i, (h ≠ q.hart ∨ i ≠ q.eiid) →
          (Assoc.get [] s'.imsic h).contains i = (Assoc.get [] s.imsic h).contains i)
      ∧ (∀ k, k ≠ e → s'.eq k = s.eq k) ∧ s'.mem = s.mem)
    ∧ (¬due → exec (.eventInterrupt e) s = .next s)

/-- HANDOVER begins an episode of source 2 at reach MODULE that zeroes memory before its release; HOSTMEM sets
the host memory of the next reset, and refuses a size that is no multiple of 64 GiB between 128 and 1,024; a
frame of a front-end port with a cable, and no request of the central store before it, lands whole at its address,
is counted and has a timestamp, a free value (R351, R360, R362, R464; log 95). -/
def Claims.HandoverHostMemoryAndFrames : Prop :=
  ∀ (s : State),
    (s.managing = true → s.boot.update = none → s.reachOf 2 ≠ rPower →
      ∃ s', exec .handover s = .next s' ∧ s'.out.mgmt = some .ok
        ∧ (∃ e ∈ s'.resets.episodes, e.handover = true ∧ (∃ a ∈ e.asserted, a.src = 2 ∧ a.reach = rModule)))
    ∧ (s.managing = true → s.boot.update.isSome = true →
        exec .handover s = .next { s with out := { s.out with mgmt := some .busy } })
    ∧ (∀ gib, s.managing = true → 128 ≤ gib → gib ≤ 1024 → gib % 64 = 0 →
        exec (.hostmem gib) s = .next { s with
          boot := { s.boot with hostmemSet := gib }, out := { s.out with mgmt := some .ok } })
    ∧ (∀ gib, s.managing = true → (gib < 128 ∨ 1024 < gib ∨ gib % 64 ≠ 0) →
        exec (.hostmem gib) s = .next { s with out := { s.out with mgmt := some .refused } })
    ∧ (∀ (n : Fin 2) (a : Nat) (f : List Byte), s.helmUp = true → s.cabled (8 + n.val) = true → s.store.requests = [] → 0 < f.length → f.length ≤ 9216 →
        a + f.length ≤ extEnd → s.firstOff a (a + f.length - 1) = none → s.dieWaits a = false →
        s.accessWaits a f.length true = false →
          ∃ s', exec (.frontEndFrame n a f) s = .next s'
            ∧ (∀ i, i < f.length → s'.byte (a + i) = f.getD i 0)
            ∧ (∀ x, x < a ∨ a + f.length ≤ x → s'.byte x = s.byte x)
            ∧ Assoc.get {} s'.pins.frames n.val = (Assoc.get {} s.pins.frames n.val).tick
            ∧ s'.out.stamp = some (n, Config.freeWord s.free)
            ∧ (∀ k, k ≠ n.val → Assoc.get {} s'.pins.frames k = Assoc.get {} s.pins.frames k))

/-! The reference, the clock nodes and resets (file 15). -/

/-- A source asserts in an open episode at a reach, with its target, and every die in the scope of that reach is
in reset (R375, R377). -/
def asserting (s : State) (src reach die core : Nat) (held : Bool) : Prop :=
  (∃ e ∈ s.resets.episodes, { src := src, reach := reach, die := die, core := core, held := held } ∈ e.asserted)
    ∧ ∀ d ∈ scopeDies reach die, s.dieInReset d = true

/-- Power-on reset measures the crystal: the sixteenth good window in a row makes it the reference and ends POR,
and the strike counter runs; a bad window starts the count again; a timeout ends POR on the oscillator and sets
the failure field; a lost crystal is recorded (R363, R364, R365). That memory, which is not kept, reads 0 after it is the
model's choice (log 5). -/
def Claims.ReferenceStartsUp : Prop :=
  ∀ (s : State),
    (∃ s', exec .por s = .next s' ∧ asserting s' 0 rPower 0 0 true ∧ s'.clock.porEnded = false
        ∧ s'.running = false ∧ s'.cores = [] ∧ s'.mem = [] ∧ s'.boot.fuses = s.boot.fuses
        ∧ s'.boot.flash = s.boot.flash)
    ∧ (∀ ppm : Int, s.measuring = true →
        (-1000 ≤ ppm → ppm ≤ 1000 → s.clock.windows + 1 < 16 → exec (.crystalWindow ppm) s
          = .next { s with clock := { s.clock with windows := s.clock.windows + 1 } })
        ∧ (ppm < -1000 ∨ 1000 < ppm →
            exec (.crystalWindow ppm) s = .next { s with clock := { s.clock with windows := 0 } })
        ∧ (-1000 ≤ ppm → ppm ≤ 1000 → 16 ≤ s.clock.windows + 1 →
            ∃ s', exec (.crystalWindow ppm) s = .next s' ∧ s'.clock.crystal = true ∧ s'.clock.porEnded = true
              ∧ s'.running = true ∧ s'.mem = s.mem ∧ s'.power = s.power ∧ s'.boot = s.boot
              ∧ s'.resets.episodes.length = s.resets.episodes.length))
    ∧ (s.measuring = true → ∃ s', exec .crystalTimeout s = .next s' ∧ s'.clock.crystal = false
        ∧ s'.clock.porEnded = true ∧ s'.running = true ∧ s'.clock.sc.has 1 = true ∧ s'.mem = s.mem)
    ∧ (s.clock.porEnded = true → s.clock.crystal = true →
        ∃ s', exec .xtallost s = .next s' ∧ s'.clock = { s.clock with crystal := false, sc := s.clock.sc.event 2 }
          ∧ s'.logs.mcount = s.logs.mcount.tick ∧ s'.mem = s.mem ∧ s'.resets = s.resets)

/-- The three rows that write CLK_NODE, each with its command. -/
def clkWrites (o : Origin) (k : Fin 64) (v : BitVec 64) : List Instr :=
  [.clkNodeSrc o k v, .clkNodeGate o k v, .clkNodeUngate o k v]

/-- A write to CLK_NODE that changes nothing leaves the clocks and is no refusal; an accepted one gates or ungates its node, or
begins the switch of its source, which CLOCK_SWITCH_END ends, and an ungating held during a switch takes effect
with it; a refused write changes no node, and shows its node and its reason (R368, R370, R372). -/
def Claims.ClockNodeWrites : Prop :=
  ∀ (s : State) (o : Origin) (k : Fin 64) (v : BitVec 64),
    let n := s.node k.val
    let after := fun (s' : State) (n' : ClockNode) => s'.node k.val = n'
      ∧ (∀ j, j ≠ k.val → s'.node j = s.node j) ∧ s'.mem = s.mem ∧ s'.power = s.power ∧ s'.cores = s.cores
    (s.regOpen o (clkAddr k.val) true → ∀ c ∈ clkWrites o k v,
      (∀ r, s.nodeRefusal k.val (v.getLsbD 0) (v.getLsbD 1) = some r →
        ∃ s', exec c s = .next s' ∧ after s' n ∧ s'.clock.lastNode = k.val ∧ s'.clock.reason = r
          ∧ s'.clock.sc.has 0 = true ∧ s'.logs.mcount = s.logs.mcount.tick)
      ∧ (s.nodeRefusal k.val (v.getLsbD 0) (v.getLsbD 1) = none → n.switching = none →
          (v.getLsbD 0 ≠ n.gate → ∃ s', exec c s = .next s' ∧ after s' { n with gate := v.getLsbD 0 })
          ∧ (v.getLsbD 0 = n.gate → v.getLsbD 1 ≠ n.src →
              ∃ s', exec c s = .next s' ∧ after s' { n with switching := some (v.getLsbD 1) }))
      ∧ (v.getLsbD 0 = n.gate → v.getLsbD 1 = n.srcReg →
          ∃ s', exec c s = .next s' ∧ after s' n ∧ s'.clock = s.clock ∧ s'.logs = s.logs)
      ∧ (n.gate = true → v.getLsbD 0 = false → v.getLsbD 1 = n.srcReg → n.switching.isSome = true →
          s.dieOn (dieOfNode k.val) = true →
          ∃ s', exec c s = .next s' ∧ after s' { n with heldUngate := true }))
    ∧ (∀ t, n.switching = some t → ∃ s', exec (.clockSwitchEnd k) s = .next s'
        ∧ after s' { n with src := t, switching := none, gate := n.gate && !n.heldUngate, heldUngate := false })

/-- A write is refused with BOTH where it would change gate and source, with DOMAIN_OFF where the node's domain
is off, whatever other refusal holds as well, which is the model's choice (log 27); a node whose children are in use is not gated; and no write to a node outside the gateable set gates it
(R368, R369, R370). -/
def Claims.ClockRefusals : Prop :=
  ∀ (s : State) (k : Nat) (gate src : Bool),
    let n := s.node k
    (gate ≠ n.gate → src ≠ n.srcReg → s.nodeRefusal k gate src = some 5)
    ∧ ((gate ≠ n.gate) ≠ (src ≠ n.srcReg) → s.dieOn (dieOfNode k) = false → s.nodeRefusal k gate src = some 6)
    ∧ (gate = true → n.gate = false → src = n.srcReg → s.nodeRefusal k gate src = none →
        gateable k = true ∧ s.childInUse k = false ∧ n.switching = none)
    ∧ (gate = n.gate → src ≠ n.srcReg → s.nodeRefusal k gate src = none →
        switchable k = true ∧ (src = false → s.locked k = true) ∧ n.switching = none)

/-- A write to CLKMON_CTL that would drive the pin above 200 MHz is refused with reason 7 and changes no field
of it; any other is taken (R373). -/
def Claims.ClockMonitor : Prop :=
  ∀ (s : State) (o : Origin) (v : BitVec 64), s.regOpen o clkmonAddr true →
    let khz := s.nodeKhz (bits v 0 6) (s.node (bits v 0 6)).srcReg
    let fast := v.getLsbD 15 = true ∧ 200000 * 2 ^ bits v 8 4 < khz
    (¬fast → ∃ s', exec (.clkmonCtl o v) s = .next s'
      ∧ s'.clock = { s.clock with monEn := v.getLsbD 15, monDiv := bits v 8 4, monNode := bits v 0 6 }
      ∧ s'.logs = s.logs ∧ s'.mem = s.mem)
    ∧ (fast → ∃ s', exec (.clkmonCtl o v) s = .next s'
      ∧ s'.clock = { s.clock with lastNode := 0xFF, reason := 7, sc := s.clock.sc.event 0 }
      ∧ s'.logs.mcount = s.logs.mcount.tick ∧ s'.mem = s.mem)

/-- ROW_CLOCK_GATE stops the clock of a row on which no task has run for 4,096 ACLK cycles or that lies in no
region, and no other row's (R371). -/
def Claims.RowClockGated : Prop :=
  ∀ (s : State) (d : Fin 12) (row : Fin 30),
    let key := d.val * 32 + row.val
    (Assoc.keys s.grid.ungated).contains key = true → s.rowBusy key = false →
      (s.rowInRegion key = false ∨ Assoc.get 0 s.grid.ungated key + 4096 ≤ s.aclk →
        ∃ s', exec (.rowClockGate d row) s = .next s' ∧ (Assoc.keys s'.grid.ungated).contains key = false
          ∧ (∀ k, k ≠ key → (Assoc.keys s'.grid.ungated).contains k = (Assoc.keys s.grid.ungated).contains k)
          ∧ s' = { s with grid := { s.grid with ungated := s'.grid.ungated } })
      ∧ (s.rowInRegion key = true → s.aclk < Assoc.get 0 s.grid.ungated key + 4096 →
          exec (.rowClockGate d row) s = .next s)

/-- Each reset source, where its condition holds, asserts at its reach and puts every die in the scope of that
reach in reset: RESET_N low for four cycles or more, the management command, an accepted RST_REQ, and a service
fault; a shorter pulse and a refused RST_REQ assert nothing (R374, R375, R377, R382, R414). -/
def Claims.ResetSourcesAssert : Prop :=
  ∀ (s : State),
    (∀ n, s.asserts 1 = false →
      (4 ≤ n → ∃ s', exec (.resetN n) s = .next s' ∧ asserting s' 1 (s.reachOf 1) 0 0 true)
      ∧ (n < 4 → exec (.resetN n) s = .next s))
    ∧ (s.managing = true → ∃ s', exec .managementReset s = .next s' ∧ asserting s' 2 (s.reachOf 2) 0 0 true)
    ∧ (∀ (o : Origin) (v : BitVec 64), s.regOpen o rstReqAddr true →
        (s.rstReqOk v = true → ∃ s', exec (.rstReq o v) s = .next s'
          ∧ asserting s' 3 (widened (s.reachOf 3) (bits v 0 8)) (bits v 0 8) 0 false)
        ∧ (s.rstReqOk v = false → ∃ s', exec (.rstReq o v) s = .next s' ∧ s'.resets = s.resets
          ∧ s'.logs.mcount = s.logs.mcount.tick ∧ s'.mem = s.mem ∧ s'.cores = s.cores))
    ∧ (∀ why, s.svUp = true → (s.boot.keys = true ∨ why ≠ .unserviced) →
        ∃ s', exec (.watchdog why) s = .next s' ∧ asserting s' 4 (s.reachOf 4) 0 0 true)

/-- A reset of reach MODULE leaves memory, the records of the module log, the strike counter, the fuses and the flash, and
takes every core, graph engine, port and event queue to its reset state. A port that leaves READY writes its LINK_STATE to the
module log, and nothing else does (R296, R376). -/
def Claims.ModuleResetScope : Prop :=
  ∀ (s : State), s.managing = true → s.reachOf 2 = rModule →
    let left := (List.range 8).filter (fun p => (s.lport p).state == .ready || (s.lport p).held)
    ∃ s', exec .managementReset s = .next s' ∧ s'.mem = s.mem
      ∧ (left = [] → s'.logs.mlog = s.logs.mlog ∧ s'.logs.mcount = s.logs.mcount)
      ∧ (∀ p, left = [p] → s'.logs.mcount = s.logs.mcount.tick
          ∧ s'.logs.mlog = Assoc.set s.logs.mlog (s.logs.mcount.n.toNat % 4096)
              { type := 0x20, strike := s.strike, status := PortState.disabled.code, payload := [0] })
      ∧ s'.strike = s.strike ∧ s'.boot.fuses = s.boot.fuses
      ∧ s'.boot.flash = s.boot.flash ∧ s'.grid.rows = s.grid.rows
      ∧ (∀ c, s'.core c = {}) ∧ s'.ge = {} ∧ s'.link = {} ∧ s'.logs.eqs = [] ∧ s'.logs.vlogs = []
      ∧ (∀ n, s'.flag n = 0) ∧ (∀ n, s'.ctx n = {})

/-- A reset of reach FABRIC while no RESHARD is open leaves memory, and takes every core, every port, every stream
context and every flag to its reset state; a port keeps its ring identity (R288, R376). -/
def Claims.FabricResetScope : Prop :=
  ∀ (s : State), s.managing = true → s.reachOf 2 = rFabric → s.link.reshards = [] →
    ∃ s', exec .managementReset s = .next s' ∧ s'.mem = s.mem
      ∧ s'.strike = s.strike ∧ s'.grid.rows = s.grid.rows ∧ s'.boot.fuses = s.boot.fuses
      ∧ (∀ c, siteExists c = true → s'.core c = {}) ∧ (∀ n, s'.flag n = 0) ∧ (∀ n, s'.ctx n = {})
      ∧ (∀ p, p < 8 → s'.lport p = { ringid := (s.lport p).ringCopy, ringCopy := (s.lport p).ringCopy })

/-- RESET_SOURCE_RELEASE ends every assertion of its source that may end, and leaves the episodes open; source 0
stays while POR has not ended or the input is not good, source 5 while its die trips (R378). -/
def Claims.SourceRelease : Prop :=
  ∀ (s : State) (src : Fin 9), ∃ s', exec (.resetSourceRelease src) s = .next s'
    ∧ s' = { s with resets := { s.resets with episodes := s'.resets.episodes } }
    ∧ s'.resets.episodes.map (fun e => (e.reach, e.die, e.core, e.handover))
        = s.resets.episodes.map (fun e => (e.reach, e.die, e.core, e.handover))
    ∧ (∀ e ∈ s'.resets.episodes, ∀ a ∈ e.asserted, a.src = src.val → s.mayRelease src.val a = true → a.held = false)
    ∧ (∀ e ∈ s.resets.episodes, ∀ a ∈ e.asserted, (a.src ≠ src.val ∨ s.mayRelease src.val a = false) →
        ∃ e' ∈ s'.resets.episodes, a ∈ e'.asserted)

/-- An episode is released once none of its sources is held: RST_LAST shows its reach and sources, the module
log takes one record of it, and a handover's episode zeroes all memory; with a source held nothing happens. The
groups of a FABRIC episode go one after the other: its store dies leave reset first, its compute and link dies stay
until the next command. After reach MODULE or POWER every die but SV stays in reset until boot releases it, and after
reach DIE one whose fabric clock is gated does (R360, R378, R379, R381). -/
def Claims.EpisodeReleased : Prop :=
  ∀ (s : State) (k : Nat) (e : Episode), s.resets.episodes[k]? = some e →
    let shown := fun (s' : State) => s'.resets.reach = e.reach ∧ s'.resets.sources = e.sources
      ∧ s'.resets.core = (if e.reach = rCore then e.core else 0)
      ∧ s'.resets.target = (if e.reach = rDie then e.die else if e.reach = rCore then dieOfCore e.core else 0)
      ∧ (e.handover = true → ∀ a, a < windowBase → s'.byte a = 0)
      ∧ (e.handover = false → s'.mem = s.mem ∧ s'.logs.mcount = s.logs.mcount.tick)
      ∧ s'.cores = s.cores ∧ s'.strike = s.strike
    (e.quiet = false → exec (.resetRelease k) s = .next s)
    ∧ (e.quiet = true → e.released = 0 → e.reach ≠ rFabric →
      ∃ s', exec (.resetRelease k) s = .next s' ∧ e ∉ s'.resets.episodes ∧ shown s'
        ∧ (∀ x ∈ s.resets.episodes, x ≠ e → x ∈ s'.resets.episodes)
        ∧ (e.reach = rPower ∨ e.reach = rModule → ∀ d ∈ allDies, d ≠ 60 → s'.dieInReset d = true)
        ∧ (e.reach = rDie → s.stillGated e.die = true → s'.dieInReset e.die = true))
    ∧ (e.quiet = true → e.released = 0 → e.reach = rFabric →
      ∃ s', exec (.resetRelease k) s = .next s' ∧ shown s'
        ∧ s'.resets.episodes = s.resets.episodes.map (fun x => if x = e then { e with released := 1 } else x)
        ∧ (∀ d ∈ List.range 12 ++ [48, 49], s'.dieInReset d = true)
        ∧ (s.resets.episodes = [e] → s.resets.held = [] →
          ∀ d, 16 ≤ d → d < 24 → s'.dieInReset d = s.stillGated d))
    ∧ (e.quiet = true → e.released = 1 → e.reach = rFabric →
      ∃ s', exec (.resetRelease k) s = .next s' ∧ e ∉ s'.resets.episodes)

/-! Power and temperature (file 16). -/

/-- An input that leaves its range, or whose sensing is lost, asserts power-on reset: only SV stays on, and
nothing of memory is kept; a restored input is marked; a reading outside the working range is shown (R385,
R461). That memory reads 0 from then on is the model's choice (log 5). -/
def Claims.InputStage : Prop :=
  ∀ (s : State),
    (∀ c x, (c, x) ∈ [(Instr.inputUndervoltage, InputState.under), (.inputOvervoltage, .over), (.vinSenseLoss, .noSense)] →
      (s.power.input ≠ x → ∃ s', exec c s = .next s' ∧ asserting s' 0 rPower 0 0 true ∧ s'.power.input = x
        ∧ s'.power.state = 0x80000 ∧ s'.mem = [] ∧ s'.cores = [] ∧ s'.running = false
        ∧ s'.boot.fuses = s.boot.fuses ∧ s'.boot.flash = s.boot.flash)
      ∧ (s.power.input = x → exec c s = .next s))
    ∧ (s.power.input ≠ .good →
        exec .inputRestored s = .next { s with power := { s.power with input := .good } })
    ∧ (∀ cv, (5000 ≤ cv ∧ cv < 5400) ∨ (6300 < cv ∧ cv ≤ 6600) →
        exec (.vinrange cv) s = .next { s with power := { s.power with vin := cv, sc := s.power.sc.event 7 } })

/-- A regulator phase lost is counted, shown and recorded; a compute die that has lost three holds its cap level
at 8 or below (R384). -/
def Claims.PhaseLost : Prop :=
  ∀ (s : State) (d : Fin 20), s.domOn d.val = true →
    let n := Assoc.get 0 s.power.phases d.val + 1
    ∃ s', exec (.phaseFail d) s = .next s' ∧ Assoc.get 0 s'.power.phases d.val = n
      ∧ (∀ k, k ≠ d.val → Assoc.get 0 s'.power.phases k = Assoc.get 0 s.power.phases k)
      ∧ s'.power.sc.has 3 = true ∧ s'.logs.mcount = s.logs.mcount.tick ∧ s'.mem = s.mem
      ∧ s'.diePower d.val
          = { s.diePower d.val with
              c := if d.val < 12 ∧ 3 ≤ n then min (s.diePower d.val).c 8 else (s.diePower d.val).c
              past := (s'.diePower d.val).past }
      ∧ (∀ k, k ≠ d.val → s'.diePower k = s.diePower k)

/-- A write of the operator to PWR_DOM that asks for one more domain: accepted, its request bit is set and no
other; refused, for a domain whose own needs are not requested, no request changes and the refusal is shown and
recorded (R386, R387). -/
def Claims.DomainRequested : Prop :=
  ∀ (s : State) (v : BitVec 64) (d : Nat), s.regOpen .operator pwrDomAddr true → d < 19 →
    s.power.req.getLsbD d = false → v.truncate 20 = s.power.req ||| (1#20 <<< d) →
      ((∀ x ∈ domNeeds d, s.power.req.getLsbD x = true) → s.recoveryRuns = false →
        ∃ s', exec (.pwrDom .operator v) s = .next s' ∧ s'.power.req = v.truncate 20
          ∧ s'.power.state = s.power.state ∧ s'.logs = s.logs ∧ s'.mem = s.mem ∧ s'.cores = s.cores)
      ∧ ((∃ x ∈ domNeeds d, s.power.req.getLsbD x = false) →
        ∃ s', exec (.pwrDom .operator v) s = .next s' ∧ s'.power.req = s.power.req
          ∧ s'.power.sc.has 0 = true ∧ s'.logs.mcount = s.logs.mcount.tick ∧ s'.mem = s.mem)

/-- A domain change that completes shows in STATE and in no other bit of it, and the cores of a compute die that
comes on hold their reset values; one that does not come on is left off, and a domain
that boot needs fails the boot (R386, R387, R428); that its request is withdrawn with it is the model's reading (log 65). -/
def Claims.DomainChangeEnds : Prop :=
  ∀ (s : State) (d : Nat) (on : Bool), s.power.change = some (d, on) → d < 20 →
    (∃ s', exec .domainChangeDone s = .next s' ∧ s'.domOn d = on
      ∧ (∀ k, k ≠ d → s'.domOn k = s.domOn k)
      ∧ ((∀ i, s.boot.image = some i → ∀ p ∈ i.parts, p.2.2.length ≤ ramSize) →
          d < 12 → on = true → ∀ c, dieOfCore c = d → s'.core c = {})
      ∧ s'.power.req = s.power.req)
    ∧ (on = true → ∃ s', exec .domainOnTimeout s = .next s' ∧ s'.power.state = s.power.state
      ∧ s'.power.req.getLsbD d = false ∧ (∀ k, k ≠ d → s'.power.req.getLsbD k = s.power.req.getLsbD k)
      ∧ s'.boot.sc.has 0 = true
      ∧ (bootDoms.contains d = true → s.boot.stage = .svFw → s'.boot.stage = .failed ∧ s'.boot.fail = 7)
      ∧ s'.mem = s.mem ∧ s'.cores = s.cores)

/-- PWR_CAP is taken where every field is in range, and refused, changing none, where one is not (R391, R398). -/
def Claims.PowerCap : Prop :=
  ∀ (s : State) (v : BitVec 64), s.managing = true →
    (s.capOk v = true → exec (.pwrCap v) s = .next { s with
      power := { s.power with ttrip := bits v 32 8, tthrot := bits v 24 8, cap := bits v 0 13 }
      out := { s.out with mgmt := some .ok } })
    ∧ (s.capOk v = false → ∃ s', exec (.pwrCap v) s = .next s' ∧ s'.power = s.power
      ∧ s'.out.mgmt = some .refused ∧ s'.logs.mcount = s.logs.mcount.tick ∧ s'.mem = s.mem)

/-- FAST_LOOP: the cap level of a die falls by one, to 1 at the least, where its trimmed estimate exceeds its
budget, rises by one where it is below 15/16 of it, and stays otherwise; no other die's controller changes
(R389, R392). -/
def Claims.FastLoopStep : Prop :=
  ∀ (s : State) (d : Fin 12), s.dieUp d.val = true → Assoc.get 0 s.power.phases d.val < 3 →
    let x := s.diePower d.val
    let est := (s.coeff d.val).headD 0 + x.energy * 16 / 10 ^ 6
    let p := est * x.trimNum / x.trimDen
    1 ≤ x.c → x.c ≤ 16 →
      ∃ s', exec (.fastLoop d) s = .next s' ∧ (s'.diePower d.val).est = est ∧ (s'.diePower d.val).energy = 0
        ∧ (x.budget < p → (s'.diePower d.val).c = (if x.c = 1 then 1 else x.c - 1))
        ∧ (p * 16 < x.budget * 15 → (s'.diePower d.val).c = (if x.c = 16 then 16 else x.c + 1))
        ∧ (p ≤ x.budget → x.budget * 15 ≤ p * 16 → (s'.diePower d.val).c = x.c)
        ∧ (s'.diePower d.val).budget = x.budget ∧ (∀ k, k ≠ d.val → s'.diePower k = s.diePower k)
        ∧ s' = { s with power := { s.power with dies := s'.power.dies } }

/-- SLOW_LOOP, with its readings, the effective cap and the mean estimates of the window: the pool is cut to what the compute
dies that are on draw, each by its trimmed estimate, and 20 W more for each, moves by half the distance of the input power from
the cap, and stays between 100 W and 600 W for each die, the same share of it being the budget of each. The trim of a die in
normal mode is the ratio of its reading to its estimate, from 0.8 to 1.25. An input power below the sum of the readings in 50
windows in a row is taken as 1.1 of that sum. A die that was in normal mode for fewer than 49 windows of disagreement stays in it
(R391, R393, R394; the estimate of a window without one is the model's choice, log 8). -/
def Claims.SlowLoopStep : Prop :=
  ∀ (s : State) (pIn vin : Nat) (meas : List Nat) (others : Nat), s.svUp = true →
    let n := s.diesOn.length
    ∃ s', exec (.slowLoop pIn vin meas others) s = .next s'
      ∧ 1600 * n ≤ s'.power.pool ∧ s'.power.pool ≤ 9600 * n ∧ s'.power.vin = vin
      ∧ (let sum := (s.diesOn.map (fun d => meas.getD d 0)).sum + others
         let low := if pIn < sum then s.power.implausible + 1 else 0
         let p := if 50 ≤ low then 11 * sum / 10 else pIn
         let cap := if s.power.softcap ≠ 0 ∧ s.power.softcap < s.power.cap then s.power.softcap else s.power.cap
         let draw := (s.diesOn.map (fun d =>
           (s'.diePower d).meanEst * (s'.diePower d).trimNum / (s'.diePower d).trimDen)).sum
         let cut : Int := (min s.power.pool (draw + 320 * n) : Nat)
         s'.power.pin = p ∧ s'.power.implausible = low
           ∧ s'.power.pool
              = (min (max (cut + ((16 * cap : Nat) - (p : Int)) / 2) (1600 * n : Nat)) (9600 * n : Nat)).toNat)
      ∧ (∀ d ∈ s.diesOn,
          let x := s.diePower d
          let y := s'.diePower d
          let m := meas.getD d 0
          (x.estCount ≠ 0 → y.meanEst = x.estSum / x.estCount)
            ∧ (y.mode = .normal →
                (5 * m < 4 * y.meanEst → (y.trimNum, y.trimDen) = (4, 5))
                ∧ (5 * y.meanEst < 4 * m → (y.trimNum, y.trimDen) = (5, 4))
                ∧ (4 * y.meanEst ≤ 5 * m → 4 * m ≤ 5 * y.meanEst → 0 < y.meanEst →
                    (y.trimNum, y.trimDen) = (m, y.meanEst))))
      ∧ (∀ d ∈ s.diesOn, (s'.diePower d).budget = s'.power.pool / n ∧ (s'.diePower d).meas = meas.getD d 0
          ∧ (s'.diePower d).c = (s.diePower d).c
          ∧ ((s.diePower d).mode = .normal → (s.diePower d).disagree < 49 → (s'.diePower d).mode = .normal))
      ∧ (∀ d, d ∉ s.diesOn → s'.diePower d = s.diePower d)
      ∧ s'.power.cap = s.power.cap ∧ s'.mem = s.mem ∧ s'.cores = s.cores

/-- A droop counts, sets the strike that holds the die at level 8, and lengthens the launch ramp by DSTEP up to
6,400 strikes; 100,000 strikes without one shorten it by DSTEP (R395). -/
def Claims.DroopStep : Prop :=
  ∀ (s : State) (d : Fin 12) (g : Fin 5), s.dieUp d.val = true →
    let x := s.diePower d.val
    let frame := fun (s' : State) => (∀ k, k ≠ d.val → s'.diePower k = s.diePower k)
      ∧ s' = { s with power := { s.power with dies := s'.power.dies } }
    (∃ s', exec (.droop d g) s = .next s' ∧ frame s' ∧ (s'.diePower d.val).droops = x.droops.tick
      ∧ (s'.diePower d.val).stretch = min 6400 (x.stretch + s.power.dstep) ∧ (s'.diePower d.val).c = x.c
      ∧ s'.groupLevel d.val g.val ≤ 8)
    ∧ (100000 ≤ (s.strike - x.decayFrom).toNat → ∃ s', exec (.droopDecay d) s = .next s' ∧ frame s'
      ∧ s'.diePower d.val = { x with stretch := x.stretch - s.power.dstep, decayFrom := s.strike })
    ∧ ((s.strike - x.decayFrom).toNat < 100000 → exec (.droopDecay d) s = .next s)

/-- A temperature reading is kept; the third in a row at or above TTRIP makes its die trip and asserts source 5,
and fewer assert nothing (R396, R397). -/
def Claims.TemperatureRead : Prop :=
  ∀ (s : State) (x : Sensor) (t : Nat), sensorExists x = true →
    let n := sensorNo x
    (t < s.power.ttrip ∨ Assoc.get 0 s.power.tripRun n ≠ 2 →
      ∃ s', exec (.thermalSensorRead x t) s = .next s' ∧ s'.temp n = t
        ∧ (∀ k, k ≠ n → s'.temp k = s.temp k)
        ∧ Assoc.get 0 s'.power.tripRun n = (if s.power.ttrip ≤ t then Assoc.get 0 s.power.tripRun n + 1 else 0)
        ∧ s' = { s with power := { s.power with
            temps := s'.power.temps, tripRun := s'.power.tripRun, hotdie := s'.power.hotdie, tmax := s'.power.tmax
            tripping := s'.power.tripping } })
    ∧ (s.power.ttrip ≤ t → Assoc.get 0 s.power.tripRun n = 2 → dieOfSensor n ≠ 0xFF →
        s.power.tripping.contains (dieOfSensor n) = false →
        ∃ s', exec (.thermalSensorRead x t) s = .next s'
          ∧ asserting s' 5 (widened (s.reachOf 5) (dieOfSensor n)) (dieOfSensor n) 0 true
          ∧ s'.power.tripping.contains (dieOfSensor n) = true)
    ∧ (s.power.ttrip ≤ t → Assoc.get 0 s.power.tripRun n = 2 → x = .inputStage →
        s.power.tripping.contains 0xFF = false →
        ∃ s', exec (.thermalSensorRead x t) s = .next s' ∧ asserting s' 5 (s.tripReach 0xFF) 0xFF 0 true
          ∧ s'.power.tripping.contains 0xFF = true)

/-- A thermal level falls by one, to 1 at the least, where the sensor reads above TTHROT, rises by one, to 16 at
the most, where it reads more than 3 °C below, and stays otherwise; no other level changes (R396). -/
def Claims.ThermalLevelStep : Prop :=
  ∀ (s : State) (d : Fin 12) (g : Fin 5), s.dieUp d.val = true →
    let h := Assoc.get 16 (s.diePower d.val).h g.val
    let t := s.temp (5 * d.val + g.val)
    1 ≤ h → h ≤ 16 →
      ∃ s', exec (.thermalLevelStep (.rowGroup d g)) s = .next s'
        ∧ Assoc.get 16 (s'.diePower d.val).h g.val
            = (if s.power.tthrot < t then (if h = 1 then 1 else h - 1)
               else if t + 3 < s.power.tthrot then (if h = 16 then 16 else h + 1) else h)
        ∧ (∀ k, k ≠ g.val → Assoc.get 16 (s'.diePower d.val).h k = Assoc.get 16 (s.diePower d.val).h k)
        ∧ (∀ k, k ≠ d.val → s'.diePower k = s.diePower k) ∧ s'.power.hm = s.power.hm ∧ s'.mem = s.mem
        ∧ s'.cores = s.cores

/-- The level that every row group shares steps in the same way by the hottest sensor of the store, memory-port,
link and helm dies and of the input stage (R396). -/
def Claims.ModuleThermalLevel : Prop :=
  ∀ (s : State) (x : Sensor) (t : Nat), s.svUp = true →
    (x = .inputStage ∨ ∃ i, x = .die i ∧ i ≠ 60 ∧ sensorExists x = true) →
      (∀ n ∈ moduleSensors, s.temp n ≤ t) → (∃ n ∈ moduleSensors, s.temp n = t) →
        1 ≤ s.power.hm → s.power.hm ≤ 16 →
          ∃ s', exec (.thermalLevelStep x) s = .next s'
            ∧ s'.power.hm
                = (if s.power.tthrot < t then (if s.power.hm = 1 then 1 else s.power.hm - 1)
                   else if t + 3 < s.power.tthrot then (if s.power.hm = 16 then 16 else s.power.hm + 1)
                   else s.power.hm)
            ∧ s'.power.dies = s.power.dies ∧ s'.mem = s.mem ∧ s'.cores = s.cores

/-! Faults, lockout and repair (file 17). -/

/-- A core is locked out by its parity error or by the operator: its site has failed, and its row's map is the one decided
for the failed sites with this one added, in force at once where no task runs on the row; the site is in reset and holds no
task, and where no task ran on it and it was not in reset no memory and no other core changes; a failed site is refused
(R336, R338, R406, R407). -/
def Claims.CoreLockedOut : Prop :=
  ∀ (s : State) (c : Nat), siteExists c = true →
    let failed : BitVec 32 := (s.rowMap (rowKey c)).decidedFailed ||| (1 <<< colOfCore c)
    let out := fun (s' : State) => s'.siteFailed c = true ∧ s'.coreInReset c = true ∧ (s'.core c).task = none
      ∧ (s'.rowMap (rowKey c)).decidedFailed = failed ∧ (s'.rowMap (rowKey c)).decided = activeOf failed
      ∧ (s.rowBusy (rowKey c) = false → s'.rowMap (rowKey c) = rowMapOf failed)
      ∧ (∀ k, k ≠ rowKey c → s'.rowMap k = s.rowMap k)
      ∧ (s.reachOf 7 = rCore → s.siteTask c = none → s.coreInReset c = false → s'.mem = s.mem ∧ ∀ e, e ≠ c → s'.core e = s.core e)
    (s.siteFailed c = false →
      (s.dieOn (dieOfCore c) = true → s.coreInReset c = false →
        ∃ s', exec (.controlParityError c) s = .next s' ∧ out s')
      ∧ (s.managing = true → ∃ s', exec (.coreLockout c) s = .next s' ∧ out s' ∧ s'.out.mgmt = some .ok))
    ∧ (s.siteFailed c = true → s.managing = true →
        exec (.coreLockout c) s = .next { s with out := { s.out with mgmt := some .refused } })

/-- A failed site is replaced by the row's next spare while one remains: the map that follows keeps 30 active
columns, none of them failed, and they are the lowest that have not failed (R336, R337). -/
def Claims.SpareReplacesSite : Prop :=
  ∀ (failed : BitVec 32),
    let good := (List.range 32).filter (fun n => !(failed.getLsbD n))
    activeCols (activeOf failed) = good.take 30
      ∧ (good.length ≥ 30 → (activeCols (activeOf failed)).length = 30)
      ∧ (∀ n, (activeOf failed).getLsbD n = true → failed.getLsbD n = false)

/-- A compute die is locked out by a fault it detects or by the operator: it leaves the grid, its cores hold no
task and it is in reset; the operator is refused for a die that is out; a die that is out, passes its self-check
and is not in reset returns, and any other return is refused (R410). -/
def Claims.DieLockedOutAndReturned : Prop :=
  ∀ (s : State) (d : Fin 12),
    let out := fun (s' : State) => s'.grid.diesOut.contains d.val = true ∧ s'.dieInReset d.val = true
      ∧ ∀ c, dieOfCore c = d.val → s'.core c = {}
    (s.grid.diesOut.contains d.val = false →
      (s.managing = true → ∃ s', exec (.dieLockout d.val .operator) s = .next s' ∧ out s' ∧ s'.out.mgmt = some .ok)
      ∧ (∀ why, why ≠ .operator → s.dieUp d.val = true →
          ∃ s', exec (.dieLockout d.val why) s = .next s' ∧ out s'))
    ∧ (s.grid.diesOut.contains d.val = true → s.managing = true →
        exec (.dieLockout d.val .operator) s = .next { s with out := { s.out with mgmt := some .refused } })
    ∧ (s.managing = true → s.grid.diesOut.contains d.val = true → s.dieInReset d.val = false →
        ∃ s', exec (.dieReturn d true) s = .next s' ∧ s'.out.mgmt = some .ok
          ∧ s'.grid = { s.grid with diesOut := s.grid.diesOut.filter (· != d.val) }
          ∧ s'.mem = s.mem ∧ s'.cores = s.cores)
    ∧ (∀ pass, s.managing = true → (s.grid.diesOut.contains d.val = false ∨ pass = false ∨ s.dieInReset d.val = true) →
        exec (.dieReturn d pass) s = .next { s with out := { s.out with mgmt := some .refused } })

/-- A recovery step that overruns escalates: a lockout to the lockout of its die, the recovery of a die to a
reset of reach FABRIC, and an open episode narrower than MODULE to the service watchdog; the lockout of a core of a die that is
out already asserts source 8 on that die (R413). -/
def Claims.RecoveryEscalates : Prop :=
  ∀ (s : State),
    (∀ c, dieOfCore c < 12 → s.grid.diesOut.contains (dieOfCore c) = false →
      (∃ e ∈ s.resets.episodes, ∃ a ∈ e.asserted, a.src = 7 ∧ a.held = true ∧ a.core = c) →
        ∃ s', exec (.recoveryTimeout (.lockout c)) s = .next s' ∧ s'.grid.diesOut.contains (dieOfCore c) = true
          ∧ s'.dieInReset (dieOfCore c) = true)
    ∧ (∀ c, dieOfCore c < 12 → s.grid.diesOut.contains (dieOfCore c) = true →
      (∃ e ∈ s.resets.episodes, ∃ a ∈ e.asserted, a.src = 7 ∧ a.held = true ∧ a.core = c) →
        ∃ s', exec (.recoveryTimeout (.lockout c)) s = .next s'
          ∧ asserting s' 8 (s.reachOf 8) (dieOfCore c) 0 true)
    ∧ (∀ d : Fin 12, (∃ e ∈ s.resets.episodes, ∃ a ∈ e.asserted, a.src = 8 ∧ a.held = true ∧ a.die = d.val) →
        ∃ s', exec (.recoveryTimeout (.dieRecovery d)) s = .next s' ∧ asserting s' 8 rFabric d.val 0 true)
    ∧ (∀ k e, s.resets.episodes[k]? = some e → e.reach ≠ rPower → e.reach ≠ rModule →
        ∃ s', exec (.recoveryTimeout (.episode k)) s = .next s' ∧ asserting s' 4 (s.reachOf 4) 0 0 true)

/-- A configuration register found corrupt: a CONFIG_PARITY record, with the die of the block and the address of one of
its configuration registers (which one is a free value, log 28), goes to the module log, and to event queue 0 where that
queue is enabled; then the block takes its safe state: an event queue is disabled, a port is disabled with every channel's VALID clear, a graph engine's die is locked
out, a store die, a memory-port die and the service die are reset, and the helm die's copies of a queue or a
region change nothing else (R448, R449). -/
def Claims.ParityMakesSafe : Prop :=
  ∀ (s : State) (b : ParityBlock), parityBlockExists b = true → s.dieUp (s.parityDie b) = true →
    ∃ (t s' : State) (a : Nat), exec (.configParityScan b) s = .next s' ∧ s' = t.safe b ∧ a ∈ parityRegs b
      ∧ t = { s with free := t.free, logs := t.logs }
      ∧ t.logs.mcount = s.logs.mcount.tick ∧
      let r : Rec := { type := 0x34, strike := s.strike, status := s.parityDie b, payload := leBytes 8 a }
      t.logs.mlog = Assoc.set s.logs.mlog (s.logs.mcount.n.toNat % 4096) r
      ∧ ((s.eq 0).enable = true → t.eq 0 = (s.eq 0).take r) ∧ (∀ e, e ≠ 0 → t.eq e = s.eq e) ∧
      match b with
      | .eventQueue e => (s'.eq e).enable = false ∧ s'.logs.mlog = t.logs.mlog ∧ s'.logs.mcount = s.logs.mcount.tick
          ∧ s'.mem = s.mem
      | .port p => (s'.lport p.val).enable = false ∧ (s'.lport p.val).state = .disabled
          ∧ ∀ n, ((s'.lport p.val).channel n).valid = false
      | .graphEngine d => s.grid.diesOut.contains d.val = false →
          s'.grid.diesOut.contains d.val = true ∧ s'.dieInReset d.val = true
      | .queueGe q => let d := (s.region (s.sq q).region).host
          d < 12 → s.grid.diesOut.contains d = false → s'.grid.diesOut.contains d = true ∧ s'.dieInReset d = true
      | .regionGe r => let d := (s.region r).host
          d < 12 → s.grid.diesOut.contains d = false → s'.grid.diesOut.contains d = true ∧ s'.dieInReset d = true
      | .queueHd _ | .regionHd _ => s' = t
      | .store d => asserting s' 8 (widened (s.reachOf 8) (16 + d.val)) (16 + d.val) 0 true
      | .memory m => asserting s' 8 rDie (32 + m.val) 0 true
      | .service => asserting s' 4 (s.reachOf 4) 0 0 true

/-- A bank copied to a spare is spared and recorded, and the copy of the next bank that waits begins; a repair made and not yet recorded is added at the end of
the repair record, whose newest valid copy then holds it behind the entries it held (R419, R420, R437). -/
def Claims.RepairsRecorded : Prop :=
  ∀ (s : State),
    (∀ (d : Fin 8) (b : Nat), Assoc.get none s.store.copying d.val = some b → s.dieUp (16 + d.val) = true →
      s.inGap (16 + d.val) = false →
      ∃ s', exec (.bankSpareDone d) s = .next s'
        ∧ Assoc.get [] s'.store.spared d.val = Assoc.get [] s.store.spared d.val ++ [b]
        ∧ Assoc.get none s'.store.copying d.val = (Assoc.get [] s.store.waiting d.val).head?
        ∧ Assoc.get [] s'.store.waiting d.val = (Assoc.get [] s.store.waiting d.val).tail ∧ s'.logs.mcount = s.logs.mcount.tick ∧ s'.mem = s.mem)
    ∧ (∀ e : RepairEntry, s.svUp = true → s.repaired e = true → s.repairs.contains e = false →
        s.repairs.length < 8184 → e.die < 256 → e.index < 2 ^ 32 →
          ∃ s', exec (.repairRecordWrite e) s = .next s' ∧ s'.repairs = s.repairs ++ [e]
            ∧ s' = { s with boot := { s.boot with flash := s'.boot.flash } }
            ∧ ∀ a, a < 0x3000000 → s'.flashByte a = s.flashByte a)

/-! Boot, firmware and identity (file 18). -/

/-- BOOT: fuses whose shadow fails its check end in FAILED with reason 1; a slot that fails its check waits for a
recovery image with the reason of the first check it fails, and requests the store, memory-port and helm domains;
a valid slot's image runs with its measurements taken (R422, R426, R427, R429, R435). -/
def Claims.BootOutcome : Prop :=
  ∀ (s : State), s.boot.stage = .rom → s.svUp = true →
    let asks := fun (s' : State) => ∀ d ∈ bootDoms, s'.power.req.getLsbD d = true
    (s.boot.fuses.eccOk = false →
      exec .boot s = .next { s with boot := { s.boot with stage := .failed, fail := 1 } })
    ∧ (∀ r, s.boot.fuses.eccOk = true → s.boot.fuses.checkImage s.slotBytes = .error r →
        ∃ s', exec .boot s = .next s' ∧ s'.boot.stage = .recoveryWait ∧ s'.boot.fail = r ∧ asks s'
          ∧ s'.boot.image = s.boot.image ∧ s'.boot.keys = s.boot.keys ∧ s'.boot.fuses = s.boot.fuses
          ∧ s'.mem = s.mem)
    ∧ (∀ i, s.boot.fuses.eccOk = true → s.boot.fuses.checkImage s.slotBytes = .ok i → i.recovery = false →
        ∃ s', exec .boot s = .next s' ∧ (s'.boot.stage = .svFw ∨ s'.boot.stage = .running)
          ∧ s'.boot.image = some i ∧ s'.boot.keys = true ∧ asks s' ∧ s'.boot.fuses = s.boot.fuses
          ∧ s'.boot.measures.length = 1 + imageCount s.slotBytes)

/-- The checks of an image come in their order: a header out of form is HEADER, then a key no root slot holds is
KEY, a wrong signature SIGNATURE, a version below the burnt minimum SVN, and a hash that fails COMPONENT; an
image that passes is that of its header (R426). -/
def Claims.ImageChecks : Prop :=
  ∀ (f : Fuses) (b : List Byte),
    (imageHeaderOk b = false → f.checkImage b = .error 2)
    ∧ (imageHeaderOk b = true → f.rootOf b = none → f.checkImage b = .error 3)
    ∧ (∀ r, imageHeaderOk b = true → f.rootOf b = some r →
        ecdsaVerify (slice b 0x1A0 64) (sha256 (slice b 0 0x1E0)) (slice b 0x1E0 64) = false →
          f.checkImage b = .error 4)
    ∧ (∀ i, f.checkImage b = .ok i → i.svn = imageSvn b ∧ f.svnBurnt ≤ i.svn ∧ f.rootOf b = some i.root
        ∧ i.recovery = imageRecovery b ∧ i.parts.length = imageCount b
        ∧ ∀ e ∈ imageEntries b, sha256 (e.bytes b) = e.hash)

/-- Recovery: FW_RECOVER is refused outside RECOVERY_WAIT, and takes blocks until the image is complete; a
complete image that passes the check with RECOVERY set runs, from either source, and one that fails is discarded,
recorded, and waited for again; while FW_RECOVER delivers one the mailbox is answered BUSY (R429). -/
def Claims.RecoveryImages : Prop :=
  ∀ (s : State),
    let runs := fun (s' : State) (i : Image) => s'.boot.image = some i ∧ s'.boot.keys = true
      ∧ (s'.boot.stage = .svFw ∨ s'.boot.stage = .running) ∧ s'.boot.fuses = s.boot.fuses
    let discards := fun (s' : State) => s'.boot = { s.boot with recovery := [] }
      ∧ s'.logs.mcount = s.logs.mcount.tick ∧ s'.mem = s.mem
    (∀ blk : List (BitVec 8), s.managing = true →
      (s.boot.stage ≠ .recoveryWait → exec (.fwRecover blk) s
        = .next { s with out := { s.out with mgmt := some .refused } })
      ∧ (s.boot.stage = .recoveryWait → blk.length = 256 →
          let b := s.boot.recovery ++ blk
          (b.length < recoveryNeeds b → exec (.fwRecover blk) s = .next { s with
            boot := { s.boot with recovery := b }, out := { s.out with mgmt := some .ok } })
          ∧ (∀ i, recoveryNeeds b ≤ b.length → s.boot.fuses.checkImage b = .ok i → i.recovery = true →
              ∃ s', exec (.fwRecover blk) s = .next s' ∧ runs s' i ∧ s'.out.mgmt = some .ok)
          ∧ (∀ r, recoveryNeeds b ≤ b.length → s.boot.fuses.checkImage b = .error r →
              ∃ s', exec (.fwRecover blk) s = .next s' ∧ discards s')))
    ∧ (∀ b : List (BitVec 8), s.boot.stage = .recoveryWait → s.svUp = true → s.dieUp 56 = true →
        s.domOn 12 = true → s.domOn 13 = true → s.boot.recovery = [] →
          (∀ i, s.boot.fuses.checkImage b = .ok i → i.recovery = true →
            ∃ s', exec (.recoveryMailbox b) s = .next s' ∧ runs s' i)
          ∧ (∀ r, s.boot.fuses.checkImage b = .error r →
              ∃ s', exec (.recoveryMailbox b) s = .next s' ∧ discards s' ∧ s'.out.mailbox = some .refused))
    ∧ (∀ b : List (BitVec 8), s.boot.stage = .recoveryWait → s.svUp = true → s.dieUp 56 = true →
        s.domOn 12 = true → s.domOn 13 = true → s.boot.recovery ≠ [] → exec (.recoveryMailbox b) s
          = .next { s with out := { s.out with mailbox := some .busy } })

/-- FW_COMMIT: BUSY while an update runs; an image that reads well and passes its check without RECOVERY erases
the slot's first sector and no other byte of the flash; one that fails, one with RECOVERY set, and one that cannot be read
set UPD_FAIL, are recorded, and leave the flash (R429, R431, R432). -/
def Claims.UpdateBegins : Prop :=
  ∀ (s s1 : State) (addr len : Nat) (b : List Byte), s.managing = true →
    (s.boot.update.isSome = true →
      exec (.fwCommit addr len) s = .next { s with out := { s.out with mgmt := some .busy } })
    ∧ (s.boot.update = none → (s.boot.image = none ∨ addr % 4096 ≠ 0 ∨ len = 0 ∨ slotSize < len ∨ s.hostBytes < addr + len) →
        exec (.fwCommit addr len) s = .next { s with out := { s.out with mgmt := some .refused } })
    ∧ (s.boot.update = none → s.boot.image.isSome = true → addr % 4096 = 0 → 0 < len → len ≤ slotSize →
        addr + len ≤ s.hostBytes → s.dieWaits addr = false → s.accessWaits addr len false = false →
        let fails := ∃ s', exec (.fwCommit addr len) s = .next s'
          ∧ s'.boot = { s1.boot with sc := s1.boot.sc.event 2, update := none } ∧ s'.out.mgmt = some .refused
          ∧ s'.logs.mcount = s1.logs.mcount.tick ∧ s'.mem = s1.mem
        ((∃ e, s.geRead 60 addr len = (s1, .error e)) → fails)
        ∧ (s.geRead 60 addr len = (s1, .ok b) →
          (∀ i, s1.boot.fuses.checkImage b = .ok i → i.recovery = false →
            ∃ s', exec (.fwCommit addr len) s = .next s' ∧ s'.out.mgmt = some .ok
              ∧ s'.boot.update = some (addr, b.take (imageSize b))
              ∧ (∀ a, s'.flashByte a = if a < 0x10000 then 0xFF else s1.flashByte a)
              ∧ s'.boot.image = s1.boot.image ∧ s'.boot.fuses = s1.boot.fuses ∧ s'.mem = s1.mem)
          ∧ ((∃ i, s1.boot.fuses.checkImage b = .ok i ∧ i.recovery = true) → fails)
          ∧ (∀ r, s1.boot.fuses.checkImage b = .error r → fails)))

/-- UPD_DONE: staged bytes that have not changed stand in the slot, which passes its check, and UPD_DONE is set;
bytes that have changed leave the slot's first sector as it was, bytes that cannot be read leave all of it, and UPD_FAIL is set
and recorded (R431). -/
def Claims.UpdateEnds : Prop :=
  ∀ (s s1 : State) (addr : Nat) (img b : List Byte) (i : Image), s.svUp = true →
    s.boot.update = some (addr, img) → s.accessWaits addr img.length false = false →
    ((∃ e, s.geRead 60 addr img.length = (s1, .error e)) →
      ∃ s', exec .updDone s = .next s' ∧ s'.boot = { s1.boot with sc := s1.boot.sc.event 2, update := none }
        ∧ s'.logs.mcount = s1.logs.mcount.tick ∧ s'.mem = s1.mem)
    ∧ (s.geRead 60 addr img.length = (s1, .ok b) →
      (b = img → s1.boot.fuses.checkImage img = .ok i → imageSize img = img.length →
        ∃ s', exec .updDone s = .next s' ∧ s'.slotBytes = img
          ∧ s'.boot.fuses.checkImage s'.slotBytes = .ok i ∧ s'.boot.sc = s1.boot.sc.event 1
          ∧ s'.boot.update = none ∧ s'.boot.image = s1.boot.image ∧ s'.mem = s1.mem)
      ∧ (b ≠ img → ∃ s', exec .updDone s = .next s' ∧ (∀ a, a < 0x10000 → s'.flashByte a = s1.flashByte a)
          ∧ s'.boot.sc = s1.boot.sc.event 2 ∧ s'.boot.update = none ∧ s'.logs.mcount = s1.logs.mcount.tick
          ∧ s'.mem = s1.mem))

/-- Only FW_SVN_BURN and ROOT_REVOKE of the operator burn fuses in service: FW_SVN_BURN raises MIN_SVN to the SVN
of the running image and is refused while a recovery image runs; ROOT_REVOKE revokes one root key slot, and is
refused for the slot that verified the running image and when the other slot is already revoked (R423). -/
def Claims.FuseBurns : Prop :=
  ∀ (s : State), s.managing = true →
    let f := s.boot.fuses
    let refused : Host.Outcome State Fault Refusal := .next { s with out := { s.out with mgmt := some .refused } }
    (∀ i, s.boot.update = none → s.boot.image = some i →
      (i.recovery = true → exec .fwSvnBurn s = refused)
      ∧ (i.recovery = false → i.svn ≤ 63 → ∃ s', exec .fwSvnBurn s = .next s'
          ∧ s' = { s with boot := { s.boot with fuses := s'.boot.fuses }, out := { s.out with mgmt := some .ok } }
          ∧ s'.boot.fuses = { f with minSvn := s'.boot.fuses.minSvn }
          ∧ (∀ n, s'.boot.fuses.minSvn.getLsbD n = (f.minSvn.getLsbD n || decide (n < i.svn)))
          ∧ i.svn ≤ s'.boot.fuses.svnBurnt))
    ∧ (∀ n : Fin 2, ((∃ i, s.boot.image = some i ∧ i.root = n.val) ∨ f.rootRevoke.getLsbD (1 - n.val) = true →
          exec (.rootRevoke n) s = refused)
      ∧ ((∀ i, s.boot.image = some i → i.root ≠ n.val) → f.rootRevoke.getLsbD (1 - n.val) = false →
          exec (.rootRevoke n) s = .next { s with
            boot := { s.boot with fuses := { f with rootRevoke := f.rootRevoke ||| (1 <<< n.val) } }
            out := { s.out with mgmt := some .ok } }))

/-- ATTEST answers the report over its nonce, signed by ECDSA over P-256 with SHA-256 under the device key for some
number k that the model leaves free (log 11), and NOT_READY before the keys are there; DEVID_CERT answers the
certificate (R433, R434, R435); that DEVID_CERT, the management reset and FW_SVN_BURN are refused after a fuse fault, where R422
has the ROM answer with status only, is the model's reading (log 36). -/
def Claims.Attestation : Prop :=
  ∀ (s : State) (nonce : BitVec 256), s.svUp = true →
    (s.boot.keys = true → ∃ s' k, exec (.attest nonce) s = .next s' ∧ 1 ≤ k ∧ k < p256N
      ∧ let body := s.reportBody (beBytes 32 nonce.toNat)
        s'.out.mgmt = some (.data (body
          ++ p256Sign (deviceKey s.boot.fuses.seed 64 0) k (ofBe (sha256 body))))
      ∧ s' = { s with free := s.free + 1, out := s'.out })
    ∧ (s.boot.keys = false →
        exec (.attest nonce) s = .next { s with out := { s.out with mgmt := some .notReady } })
    ∧ (s.managing = true →
        exec .devidCert s = .next { s with out := { s.out with mgmt := some (.data s.boot.cert) } })
    ∧ (s.statusOnly = true →
        exec .devidCert s = .next { s with out := { s.out with mgmt := some .refused } }
          ∧ exec .managementReset s = .next { s with out := { s.out with mgmt := some .refused } }
          ∧ exec .fwSvnBurn s = .next { s with out := { s.out with mgmt := some .refused } })

/-- ATT_CTL writes the report over the nonce in its buffer and shows that it has; ATT_EXTEND appends an entry
from host memory with its STAGE forced to 2, and is refused once 24 entries stand; while the host memory holds
accesses either is answered WAITS and does nothing, which is the model's choice of an answer (log 20) (R435, R436, R438). -/
def Claims.AttestationRegisters : Prop :=
  ∀ (s : State) (o : Origin) (v : BitVec 64),
    let a := bits v 6 42 * 64
    let r := s.reportBody (s.bytes (a + 0x30) 32)
    (s.regOpen o attCtlAddr true → s.boot.keys = false → exec (.attCtl o v) s = .next { s with
        boot := { s.boot with attAddr := a, attDone := false }, out := { s.out with resp := some .done } })
    ∧ (s.regOpen o attCtlAddr true → s.boot.keys = true → s.hostThere a (208 + 48 * s.boot.measures.length) = true →
        s.hostWaits a (208 + 48 * s.boot.measures.length) true = false →
        a + r.length + 64 ≤ extEnd → (∀ b ∈ unitsOf 64 (a + 0x30) 32, s.readBurst b = (s, false)) →
          ∃ s', exec (.attCtl o v) s = .next s' ∧ s'.boot.attAddr = a ∧ s'.boot.attDone = true
            ∧ (∀ i, i < r.length → s'.byte (a + i) = r.getD i 0)
            ∧ (∀ x, x < a ∨ a + r.length + 64 ≤ x → s'.byte x = s.byte x) ∧ s'.boot.measures = s.boot.measures)
    ∧ (s.regOpen o attExtendAddr true → s.boot.measures.length < 24 → s.hostThere v.toNat 48 = true →
        s.hostWaits v.toNat 48 false = false →
        v.toNat + 48 ≤ extEnd → (∀ b ∈ unitsOf 64 v.toNat 48, s.readBurst b = (s, false)) →
          ∃ s', exec (.attExtend o v) s = .next s'
            ∧ s'.boot = { s.boot with measures := s.boot.measures ++ [2 :: (s.bytes v.toNat 48).drop 1] }
            ∧ s'.mem = s.mem ∧ s'.logs = s.logs)
    ∧ (s.regOpen o attCtlAddr true → s.boot.keys = true → s.hostWaits a (208 + 48 * s.boot.measures.length) true = true →
        exec (.attCtl o v) s = .next { s with out := { s.out with resp := some .waits } })
    ∧ (s.regOpen o attExtendAddr true → s.boot.measures.length < 24 → s.hostWaits v.toNat 48 false = true →
        exec (.attExtend o v) s = .next { s with out := { s.out with resp := some .waits } })
    ∧ (s.regOpen o attExtendAddr true → 24 ≤ s.boot.measures.length →
        ∃ s', exec (.attExtend o v) s = .next s' ∧ s'.boot = s.boot ∧ s'.logs.mcount = s.logs.mcount.tick
          ∧ s'.mem = s.mem)

/-! Registers (file 19). -/

/-- A register has one meaning: the row that names it and REGISTER_WRITE at its address do the same (R439, R443,
R450). The operator writes PWR_CAP, PWR_DOM and PORT_RINGID alone: its write of any other register is refused and changes
nothing (R31; that the endpoint answers REFUSED is log 67). -/
def Claims.RegisterHasOneMeaning : Prop :=
  ∀ (s : State) (o : Origin) (v : BitVec 64),
    let same := fun (a : Nat) (c : Instr) => exec (.registerWrite o a v) s = exec c s
    (∀ q, q < 4096 → same (sqDbAddr q) (.sqDb o q v) ∧ same (sqAddr q 8) (.sqCfg o q v)
      ∧ same (sqAddr q 0x20) (.resume o q v))
    ∧ (∀ e, e < 256 → same (eqAddr e 8) (.eqCfg o e v) ∧ same (eqAddr e 0x10) (.eqHead o e v))
    ∧ (∀ r, r < 64 → same (regionAddr r 0) (.regDef o r v) ∧ same (regionAddr r 8) (.regAreaBase o r v)
        ∧ same (regionAddr r 0x10) (.regAreaSize o r v))
    ∧ (∀ k : Fin 64, same (clkAddr k.val) (.clkNodeSrc o k v))
    ∧ same clkmonAddr (.clkmonCtl o v) ∧ same rstReqAddr (.rstReq o v) ∧ same pwrDomAddr (.pwrDom o v)
    ∧ same attCtlAddr (.attCtl o v) ∧ same attExtendAddr (.attExtend o v)
    ∧ (∀ d : Fin 8, same (storeCfgAddr d.val) (.storeCfg o d v))
    ∧ (∀ p : Fin 8, same (portAddr p.val 0) (.portCtl o p v) ∧ same (portAddr p.val 0x30) (.portSqTail o p v)
        ∧ ∀ n : Fin 16, same (xchaAddr p.val n.val) (.portXchna o p n v)
            ∧ same (xchbAddr p.val n.val) (.portXchnb o p n v))
    ∧ (∀ a, s.svUp = true → inRegSpace a = true → a ≠ regAddr 60 0x320000 → a ≠ regAddr 60 0x320020 →
        (∀ p, p < 8 → a ≠ portAddr p 8) →
          exec (.registerWrite .operator a v) s = .next { s with out := { s.out with mgmt := some .refused } })

/-- REGISTER_WRITE to GE_CFG of a compute die sets its two fields and no other state but the answer (R451). -/
def Claims.GraphEngineConfig : Prop :=
  ∀ (s : State) (o : Origin) (d : Fin 12) (v : BitVec 64), s.regOpen o (regAddr d.val 0x100000) true →
    ∃ s', exec (.registerWrite o (regAddr d.val 0x100000) v) s = .next s'
      ∧ Assoc.get {} s'.ge.cfg d.val = { placeWait := bits v 16 16, ramp := bits v 0 16 }
      ∧ (∀ k, k ≠ d.val → Assoc.get {} s'.ge.cfg k = Assoc.get {} s.ge.cfg k)
      ∧ s' = { s with ge := { s.ge with cfg := s'.ge.cfg }, out := { s.out with resp := some .done } }

/-- SQ_CFG and SQ_CTL: a disabled queue of a valid region with no busy queue is enabled, empty and RUNNING; an
enabled queue with a graph or an entry is not disabled, and the refusal is recorded; RESUME makes a held or
stopped queue run (R252, R453, R454). -/
def Claims.QueueConfigured : Prop :=
  ∀ (s : State) (o : Origin) (q : Nat) (v : BitVec 64), q < 4096 →
    let x := s.sq q
    let others := fun (s' : State) => (∀ k, k ≠ q → s'.sq k = s.sq k) ∧ s'.mem = s.mem ∧ s'.out.resp = some .done
    (s.regOpen o (sqAddr q 8) true → bits v 0 5 ≤ 16 →
      (x.enable = false → v.getLsbD 63 = true → s.mayEnable (x.withCfg v) = true →
        ∃ s', exec (.sqCfg o q v) s = .next s' ∧ others s'
          ∧ s'.sq q = { base := x.base, enable := true, region := bits v 48 6, eq := bits v 32 8
                        depth := bits v 0 5, state := .running, sc := x.sc })
      ∧ (x.enable = true → v.getLsbD 63 = false →
          (x.busy = false → ∃ s', exec (.sqCfg o q v) s = .next s' ∧ others s' ∧ (s'.sq q).state = .disabled
            ∧ (s'.sq q).enable = false)
          ∧ (x.busy = true → ∃ s', exec (.sqCfg o q v) s = .next s' ∧ others s' ∧ s'.sq q = x
            ∧ s'.logs.mcount = s.logs.mcount.tick)))
    ∧ (s.regOpen o (sqAddr q 0x20) true →
        ((x.state = .cutHeld ∨ x.state = .stopped) →
          ∃ s', exec (.resume o q 1) s = .next s' ∧ (s'.sq q).state = .running ∧ (s'.sq q).graph = x.graph
            ∧ (s'.sq q).tail = x.tail ∧ others s')
        ∧ ((x.state = .running ∨ x.state = .disabled) →
          exec (.resume o q 1) s = .next { s with out := { s.out with resp := some .done } })
        ∧ (2 ≤ v.toNat → ∃ s', exec (.resume o q v) s = .next s' ∧ others s' ∧ s'.sq q = x
          ∧ s'.logs.mcount = s.logs.mcount.tick))

/-- The registers of a region: a definition that nothing refuses is taken, one that is refused changes only the
REFUSED field and is recorded; a recovery area that lies in the central store outside the pool, or whose size is 0, is taken
while no graph is loaded; one that does not, or any while a graph is loaded, is refused (R252, R455, R456). The die that leads
a region, on which a definition is judged, is the model's reading (log 66). -/
def Claims.RegionConfigured : Prop :=
  ∀ (s : State) (o : Origin) (r : Nat) (v : BitVec 64), r < 64 →
    let x := s.region r
    let others := fun (s' : State) => (∀ k, k ≠ r → s'.region k = s.region k) ∧ s'.mem = s.mem
      ∧ s'.ge.sqs = s.ge.sqs ∧ s'.out.resp = some .done
    let refused := fun (s' : State) => others s' ∧ s'.region r = { x with sc := x.sc.event 0 }
      ∧ s'.logs.mcount = s.logs.mcount.tick
    (s.regOpen o (regionAddr r 0) true →
      (s.defRefused r (v &&& defMask) = false → ∃ s', exec (.regDef o r v) s = .next s' ∧ others s'
        ∧ (s'.region r).def_ = v &&& defMask ∧ (s'.region r).areaBase = x.areaBase
        ∧ (s'.region r).areaSize = x.areaSize)
      ∧ (s.defRefused r (v &&& defMask) = true → ∃ s', exec (.regDef o r v) s = .next s' ∧ refused s'))
    ∧ (s.regOpen o (regionAddr r 8) true →
      let base := bits v 12 36 * 4096
      (s.graphLoaded r = false → (x.areaSize = 0 ∨ (storeBase ≤ base ∧ base + x.areaSize * 4096 ≤ s.poolStart)) →
        ∃ s', exec (.regAreaBase o r v) s = .next s' ∧ others s' ∧ s'.region r = { x with areaBase := base })
      ∧ ((s.graphLoaded r = true
            ∨ (x.areaSize ≠ 0 ∧ (base < storeBase ∨ s.poolStart < base + x.areaSize * 4096))) →
          ∃ s', exec (.regAreaBase o r v) s = .next s' ∧ refused s'))
    ∧ (s.regOpen o (regionAddr r 0x10) true →
      let size := bits v 0 32
      (s.graphLoaded r = false →
        (size = 0 ∨ (storeBase ≤ x.areaBase ∧ x.areaBase + size * 4096 ≤ s.poolStart)) →
          ∃ s', exec (.regAreaSize o r v) s = .next s' ∧ others s' ∧ s'.region r = { x with areaSize := size })
      ∧ ((s.graphLoaded r = true
            ∨ (size ≠ 0 ∧ (x.areaBase < storeBase ∨ s.poolStart < x.areaBase + size * 4096))) →
          ∃ s', exec (.regAreaSize o r v) s = .next s' ∧ refused s'))

/-- Two regions that hold a logical row in common are not defined together (R251, R455). -/
def Claims.RegionsStayApart : Prop :=
  ∀ (s : State) (o : Origin) (r k : Nat) (v : BitVec 64) (d y : Nat), r < 64 → k < 64 → k ≠ r → d < 12 → y < 30 →
    s.regOpen o (regionAddr r 0) true →
      ({ def_ := v &&& defMask } : Region).holds d y = true → (s.region k).holds d y = true →
        ∃ s', exec (.regDef o r v) s = .next s' ∧ (s'.region r).def_ = (s.region r).def_

/-- REG_LOCK sets a die's lock; a write to PORT_CTL of a locked link die then leaves the field that a lock
protects as it was, and takes the rest (R442). -/
def Claims.RegisterLock : Prop :=
  ∀ (s : State) (idx : Nat), dieExists idx = true → s.managing = true →
    ∃ s', exec (.regLock idx) s = .next s' ∧ s'.resets.locks.contains idx = true
      ∧ (∀ d, d ≠ idx → s'.resets.locks.contains d = s.resets.locks.contains d)
      ∧ s' = { s with resets := { s.resets with locks := s'.resets.locks }, out := { s.out with mgmt := some .ok } }
      ∧ ∀ (o : Origin) (p : Fin 8) (v : BitVec 64), linkDie p.val = idx → s'.regOpen o (portAddr p.val 0) true →
          ∃ t, exec (.portCtl o p v) s' = .next t ∧ (t.lport p.val).rreset = (s'.lport p.val).rreset

/-! Pins and the test port (file 20). -/

/-- A connector's cable is present while its pin is low, and powered while a cable is present and the port's die
is on; no other connector changes. A torus port in its first training tries all its lanes from the moment a cable is
there, and none without one, which is the model's choice (log 24); no other port changes (R280, R463, R464). -/
def Claims.CablePresence : Prop :=
  ∀ (s : State) (x : Connector) (level : Bool),
    let k := connectorNo x
    let trains := k < 8 ∧ (s.lport k).state = .training ∧ (s.lport k).retrain = false
    ∃ s', exec (.cblPrsntN x level) s = .next s' ∧ s'.pins.cables.contains k = !level
      ∧ s'.cablePowered k = (!level && s.dieOn (connectorDie k))
      ∧ (∀ j, j ≠ k → s'.pins.cables.contains j = s.pins.cables.contains j ∧ s'.cablePowered j = s.cablePowered j)
      ∧ s' = { s with pins := { s.pins with cables := s'.pins.cables }, link := s'.link }
      ∧ (trains → s'.lport k = { s.lport k with lanes := if level then 0 else 0xFF })
      ∧ (∀ p, p ≠ k → s'.lport p = s.lport p) ∧ (¬trains → s'.link = s.link)

/-- The endpoint takes its dynamic address and gives it up at RSTDAA, and a change of its mode abandons an image that
FW_RECOVER has half delivered; EXTEST reaches the pins only while SV alone is on, where each pin of the chain carries the level
of its cell of the boundary register, a free value, and is BYPASS otherwise; TRST_N low resets the TAP (R429, R462, R466, R468), which then holds IDCODE, as IEEE 1149.1 has it and the manual does not say (log 91). -/
def Claims.EndpointAndTestPort : Prop :=
  ∀ (s : State),
    (∀ a : Fin 128, s.svUp = true → s.clock.porEnded = true → exec (.dynamicAddress a) s
      = .next { s with
          pins := { s.pins with i3c := some (BitVec.ofNat 7 a.val) }
          boot := if s.pins.i3c.isSome then s.boot else { s.boot with recovery := [] } })
    ∧ (s.svUp = true → exec .rstdaa s = .next { s with
          pins := { s.pins with i3c := none }
          boot := if s.pins.i3c.isSome then { s.boot with recovery := [] } else s.boot })
    ∧ (s.pins.trstN = true → s.power.state ≠ 0x80000 →
        exec .extest s = .next { s with pins := { s.pins with tap := .bypass } })
    ∧ (s.pins.trstN = true → s.power.state = 0x80000 → ∃ s', exec .extest s = .next s'
        ∧ s' = { s with pins := { s.pins with tap := .extest, boundary := s'.pins.boundary }, free := s.free + 2 }
        ∧ (∀ i, i < 106 → boundaryChain[i]?.bind s'.cellOf =
            some (if s'.pins.boundary.getLsbD i then .high else .low)))
    ∧ (s.pins.trstN = false → exec .extest s = .next s)
    ∧ exec (.trstN false) s = .next { s with pins := { s.pins with trstN := false, tap := .idcode } }
    ∧ exec (.trstN true) s = .next { s with pins := { s.pins with trstN := true } }

/-! The whole machine. -/

/-- After reset only SV is on, the strike counter stands at 0, no core holds a task, no stream context is armed,
every flag is 0, every submission and event queue is disabled, every port is DISABLED, region 0 is the twelve
compute dies, and boot has not begun (R16, R17, R203, R243, R251, R355, R363, R427). That the power-on reset has left no record
and no open episode is the model's own state (logs 4 and 9). -/
def Claims.ResetState : Prop :=
  State.reset.pending = [] ∧ State.reset.strike = 0
    ∧ (∀ d, State.reset.domOn d = true ↔ d = 19) ∧ (∀ c, (State.reset.core c).task = none)
    ∧ (∀ n, (State.reset.ctx n).state = .idle) ∧ (∀ n, State.reset.flag n = 0)
    ∧ (∀ q, (State.reset.sq q).enable = false) ∧ (∀ e, (State.reset.eq e).enable = false)
    ∧ (∀ p, (State.reset.lport p).state = .disabled) ∧ (State.reset.region 0).dies = List.range 12
    ∧ (∀ r, r ≠ 0 → (State.reset.region r).valid = false) ∧ State.reset.boot.stage = .rom
    ∧ State.reset.resets.sources = 1 ∧ State.reset.resets.episodes = [] ∧ State.reset.logs.mlog = []
    ∧ Memory.wf State.reset.mem = true

/-- Every step keeps external memory and the central store in canonical form, a form that is the model's own (log 5). -/
def Claims.MemoryStaysCanonical : Prop :=
  ∀ (s t : State), Memory.wf s.mem = true → step s = .next t → Memory.wf t.mem = true

/-- The queue of commands is served first in, first out: a step takes the front command off and leaves the rest as
it stands, whatever the command does; an empty queue stays empty. The queue is the model's own (log 1). -/
def Claims.QueueIsServedInOrder : Prop :=
  ∀ (s t : State), step s = .next t → t.pending = s.pending.tail

/-- No fuse bit is ever cleared, and no step changes a fuse but MIN_SVN and ROOT_REVOKE (R423). -/
def Claims.FuseBitsStay : Prop :=
  ∀ (s t : State), step s = .next t →
    (∀ n, s.boot.fuses.minSvn.getLsbD n = true → t.boot.fuses.minSvn.getLsbD n = true)
    ∧ (∀ n, s.boot.fuses.rootRevoke.getLsbD n = true → t.boot.fuses.rootRevoke.getLsbD n = true)
    ∧ t.boot.fuses = { s.boot.fuses with minSvn := t.boot.fuses.minSvn, rootRevoke := t.boot.fuses.rootRevoke }
    ∧ (t.boot.fuses ≠ s.boot.fuses →
        ∃ c, s.pending.head? = some c ∧ (c = .fwSvnBurn ∨ ∃ n, c = .rootRevoke n))

/-- The value of a finite binary32 word, as a rational. -/
def ratOf (s : Bool) (m : Nat) (e : Int) : ℚ := (if s then -1 else 1) * (m : ℚ) * (2 : ℚ) ^ e

/-- Conversion from FP32 to INT8 or INT32: the value rounds to the nearest integer, with ties to even, and
saturates at the type's limits; an infinity saturates, and NaN becomes 0 (R82). -/
def Claims.IntegerConversionRounds : Prop :=
  ∀ (x : Lane), ∀ row ∈ [(EType.int8, 8, (-128 : Int), (127 : Int)), (.int32, 32, -(2 ^ 31), 2 ^ 31 - 1)],
    ∃ c, convert row.1 x = some c ∧
      let n : Int := signed row.2.1 c.code
      c.code < 2 ^ row.2.1 ∧
      match dec32 x with
      | .nan => n = 0
      | .inf s => n = if s then row.2.2.1 else row.2.2.2
      | .fin s m e => ∃ r : Int, |(r : ℚ) - ratOf s m e| ≤ 1 / 2 ∧ (|(r : ℚ) - ratOf s m e| = 1 / 2 → r % 2 = 0)
          ∧ n = Max.max row.2.2.1 (Min.min row.2.2.2 r)

/-- The status registers with SC fields that a write-back reaches, and the fields each holds: of event queue e,
submission queue q, region r, store die d, port p, channel n of memory-port die m, and the clock, power and boot
status. -/
def statusRegs (e q r : Nat) (d p : Fin 8) (m : Fin 16) (n : Fin 24) : List (Nat × (State → Sc)) :=
  [(eqAddr e 0x20, fun s => (s.eq e).sc), (sqAddr q 0x18, fun s => (s.sq q).sc),
   (regionAddr r 0x18, fun s => (s.region r).sc),
   (regAddr (16 + d.val) 0x0F0010, fun s => Assoc.get {} s.store.sc d.val),
   (portAddr p.val 0x10, fun s => (s.lport p.val).sc),
   (regAddr (32 + m.val) (0x100000 + 0x40 * n.val), fun s => (s.chan (16 * n.val + m.val)).sc),
   (regAddr 60 0x300200, fun s => s.clock.sc), (regAddr 60 0x320010, fun s => s.power.sc),
   (regAddr 60 0x340000, fun s => s.boot.sc)]

/-- A write of SEQ value w to a status register is accepted only if (SEQ − w) mod 256 < 128, and then clears every
SC field whose tag is not later than w, in the window from SEQ − 127 to SEQ, and no other; one that is not accepted
clears nothing. An event gives its field the next value of SEQ as its tag, so that a field set after the read that
returned w stays set (R446). Of a violation log it takes the entries that the read showed, and leaves the others in order
(R416). -/
def Claims.StatusWriteBack : Prop :=
  (∀ (s : State) (o : Origin) (v : BitVec 64) (e q r : Nat) (d p : Fin 8) (m : Fin 16) (n : Fin 24),
    e < 256 → q < 4096 → r < 64 → ∀ row ∈ statusRegs e q r d p m n, s.regOpen o row.1 true →
      let x := row.2 s
      let w : BitVec 8 := BitVec.ofNat 8 (bits v 56 8)
      let gone := fun (tag : BitVec 8) => (x.seq - w).toNat < 128 ∧ (x.seq - w).toNat ≤ (x.seq - tag).toNat
      ∃ s', exec (.writeBack o row.1 v) s = .next s' ∧ (row.2 s').seq = x.seq
        ∧ (∀ b, (row.2 s').has b = true ↔ ∃ t ∈ x.tags, t.1 = b ∧ ¬gone t.2)
        ∧ s'.mem = s.mem ∧ s'.cores = s.cores ∧ s'.logs.mlog = s.logs.mlog)
  ∧ (∀ (s : State) (o : Origin) (v : BitVec 64) (d : Nat), dieExists d = true →
      s.regOpen o (regAddr d 0x0E0000) true →
      let x := s.vlog d
      let w : BitVec 8 := BitVec.ofNat 8 (bits v 56 8)
      let gone := fun (tag : BitVec 8) =>
        (x.sc.seq - w).toNat < 128 ∧ (x.sc.seq - w).toNat ≤ (x.sc.seq - tag).toNat
      ∃ s', exec (.writeBack o (regAddr d 0x0E0000) v) s = .next s' ∧ (s'.vlog d).sc.seq = x.sc.seq
        ∧ List.Sublist (s'.vlog d).entries x.entries ∧ (∀ e, e ∈ (s'.vlog d).entries ↔ e ∈ x.entries ∧ ¬gone e.tag)
        ∧ (∀ b, (s'.vlog d).sc.has b = true ↔ ∃ t ∈ x.sc.tags, t.1 = b ∧ ¬gone t.2)
        ∧ (∀ k, k ≠ d → s'.vlog k = s.vlog k) ∧ s'.mem = s.mem ∧ s'.cores = s.cores ∧ s'.logs.mlog = s.logs.mlog)
  ∧ (∀ (y : Sc) (b : Nat), (∀ t ∈ y.tags, (y.seq - t.2).toNat ≤ 127) →
      let x := y.event b
      x.seq = y.seq + 1 ∧ (∀ t ∈ x.tags, (x.seq - t.2).toNat ≤ 127)
        ∧ (x.writeBack y.seq).has b = true ∧ (∀ f, f ≠ b → (x.writeBack y.seq).has f = false))

/-- Columns whose bit is set in a map. -/
def countOf (m : BitVec 32) : Nat := ((List.range 32).filter (fun n => m.getLsbD n)).length

/-- The two conditions of R337 on a map: ACTIVE and FAILED share no bit, and ACTIVE holds min(30, 32 − the number
of FAILED bits) sites. -/
def rowMapGood (failed active : BitVec 32) : Prop :=
  active &&& failed = 0 ∧ countOf active = Min.min 30 (32 - countOf failed)

/-- The row maps of a state satisfy R337: each map in force, and each decided map that waits. -/
def rowMapsGood (s : State) : Prop :=
  ∀ key, rowMapGood (s.rowMap key).failed (s.rowMap key).active
    ∧ ∀ f a, (s.rowMap key).next = some (f, a) → rowMapGood f a

/-- A row map always satisfies two conditions: ACTIVE and FAILED share no bit, and ACTIVE holds
min(30, 32 − the number of FAILED bits) sites. They hold at reset, and every step of the machine keeps them
(R337). -/
def Claims.RowMapsAlwaysGood : Prop :=
  rowMapsGood State.reset ∧ ∀ (s t : State), rowMapsGood s → step s = .next t → rowMapsGood t

/-- The logical coordinates of an active site are x = 30 × (n mod 4) + its rank among the row's active sites and
y = 30 × ⌊n / 4⌋ + its row, within 120 × 90; a site that is not active has none; and the site of logical
coordinates is the one that has them (R6, R7, R8). -/
def Claims.LogicalCoordinates : Prop :=
  ∀ (s : State) (c : Nat), siteExists c = true →
    let n := c / 1024
    let row := c / 32 % 32
    let active := fun (i : Nat) => (s.rowMap (c / 32)).active.getLsbD i
    let rank := ((List.range (c % 32)).filter active).length
    (active (c % 32) = true → s.logicalOf c = some (30 * (n % 4) + rank, 30 * (n / 4) + row))
    ∧ (active (c % 32) = false → s.logicalOf c = none)
    ∧ (countOf (s.rowMap (c / 32)).active ≤ 30 → ∀ x y, s.logicalOf c = some (x, y) →
        x < 120 ∧ y < 90 ∧ s.physOf x y = some c)

/-! The obligations: each is the claims of one part of the manual together. -/

/-- A step runs the front command on the rest of the queue; an empty queue idles one cycle (model choice, log
2). -/
def Obligations.StepRunsFrontCommand : Prop :=
  Claims.StepRunsFrontCommand

/-- Scalar instructions: results, frames and refused forms. Where it says that nothing happens because a
condition does not hold, that is the model's choice (log 13). The refusal of forms that the toolchain never
seals is the model's choice (log 33). -/
def Obligations.ScalarInstructionResults : Prop :=
  Claims.ScalarAluResult ∧ Claims.ScalarMoveResult

/-- Loop counts, branches and hardware loops; a loop runs its body exactly its count of times. Where it says
that nothing happens because a condition does not hold, that is the model's choice (log 13). The refusal of
forms that the toolchain never seals is the model's choice (log 33). -/
def Obligations.ControlFlowResults : Prop :=
  Claims.LoopCountSet ∧ Claims.BranchResult ∧ Claims.LoopResult ∧ Claims.LoopRunsItsCount

/-- Strike waits, wards, the end of a stream, and a stream held by an instruction it must try again. Where it
says that nothing happens because a condition does not hold, that is the model's choice (log 13). -/
def Obligations.StreamsWaitAndEnd : Prop :=
  Claims.StrikeWaits ∧ Claims.WardAndEndOfStream ∧ Claims.HeldStreamRetries

/-- Loads and stores of local memory, and the exceptions of a bad address. Where it says that nothing happens
because a condition does not hold, that is the model's choice (log 13). -/
def Obligations.LocalMemoryAccesses : Prop :=
  Claims.LoadResult ∧ Claims.StoreResult ∧ Claims.BadLocalAddressRaises

/-- Data queues: pushes, line loads, pops, when an entry is poppable, owait. Where it says that nothing happens
because a condition does not hold, that is the model's choice (log 13). -/
def Obligations.DataQueueResults : Prop :=
  Claims.PushResult ∧ Claims.LdqResult ∧ Claims.PopResult ∧ Claims.EntryPoppableAndOwait

/-- Address patterns and what agen and apush put into an address stream. Where it says that nothing happens
because a condition does not hold, that is the model's choice (log 13). -/
def Obligations.AddressStreamResults : Prop :=
  Claims.PatternAddresses ∧ Claims.AddressStreamResult

/-- Mesh transfers: issue, waits, completion and error responses. Where it says that nothing happens because a
condition does not hold, that is the model's choice (log 13). -/
def Obligations.MeshTransfers : Prop :=
  Claims.TransferIssue ∧ Claims.TransferWaits ∧ Claims.TransferEnds

/-- hwait, hpost, hslot, scancel and srearm. Where it says that nothing happens because a condition does not
hold, that is the model's choice (log 13). -/
def Obligations.HaspsAndStreamControl : Prop :=
  Claims.HaspWait ∧ Claims.HaspPost ∧ Claims.HandleControl

/-- An accumulate is queued, steps through beats, and a rank-one step adds exactly its products. Where it says
that nothing happens because a condition does not hold, that is the model's choice (log 13). -/
def Obligations.OuterProductSteps : Prop :=
  Claims.AccumulateIssue ∧ Claims.BeatResult ∧ Claims.RankOneStep

/-- Tile clear and status, accumulate end, and the life of a drain. Where it says that nothing happens because a
condition does not hold, that is the model's choice (log 13). -/
def Obligations.TilesAndDrains : Prop :=
  Claims.TileClearStatusFinal ∧ Claims.DrainIssueAndTake ∧ Claims.DrainRows

/-- Lane-by-lane vector instructions: results, VSTAT, frames and refused forms. Where it says that nothing
happens because a condition does not hold, that is the model's choice (log 13). The refusal of forms that the
toolchain never seals is the model's choice (log 33). -/
def Obligations.VectorLaneResults : Prop :=
  Claims.VectorBinaryResult ∧ Claims.VectorUnaryResult ∧ Claims.VectorAddAndFma

/-- Vector instructions with scalar results, and vector loads, stores and exact-sum images. Where it says that
nothing happens because a condition does not hold, that is the model's choice (log 13). -/
def Obligations.VectorScalarsLoadsAndStores : Prop :=
  Claims.VectorToScalar ∧ Claims.VectorLoadStore

/-- Vector conversions, the exceptions they raise, and the round trip of 8-bit floats. Where it says that
nothing happens because a condition does not hold, that is the model's choice (log 13). -/
def Obligations.VectorConversions : Prop :=
  Claims.VectorConvertResult ∧ Claims.BadConversionRaises ∧ Claims.NarrowFloatsRoundTrip

/-- FP32 to INT8 and INT32 rounds to nearest, ties to even, and saturates; NaN becomes 0. -/
def Obligations.IntegerConversionRounds : Prop :=
  Claims.IntegerConversionRounds

/-- An exact sum and its flags depend neither on the order of the terms nor on the number of parts. -/
def Obligations.ExactSumOrderFree : Prop :=
  Claims.ExactSumOrderFree

/-- Exact-sum instructions and full-width partials. Where it says that nothing happens because a condition does
not hold, that is the model's choice (log 13). -/
def Obligations.ExactSumsAndPartials : Prop :=
  Claims.ExactSumInstructions ∧ Claims.PartialInstructions

/-- Queue deadlock (which instruction it names is log 56), launch slots, core exceptions and the end of a task
on a core. Where it says that nothing happens because a condition does not hold, that is the model's choice (log
13). -/
def Obligations.CoreExceptionsAndTaskEnd : Prop :=
  Claims.CoreDeadlockAndSlot ∧ Claims.CoreExceptionFreesCore ∧ Claims.UncorrectableReissues ∧ Claims.TaskEndResult

/-- Ward arrival and release over a gang, and accesses to a core window. Where it says that nothing happens
because a condition does not hold, that is the model's choice (log 13). -/
def Obligations.WardsAndCoreWindows : Prop :=
  Claims.WardArrivalAndRelease ∧ Claims.CoreWindowAccess

/-- COPY, PERMUTE, GATHER and SCATTER_ACC of a MOVE task. Where it says that nothing happens because a condition
does not hold, that is the model's choice (log 13). -/
def Obligations.MoveOperations : Prop :=
  Claims.MoveOperationResult

/-- STORE_CFG, arming, pass starts (whose pass it is: log 51) and reported stalls of streams. Where it says that
nothing happens because a condition does not hold, that is the model's choice (log 13). -/
def Obligations.StreamSetup : Prop :=
  Claims.StoreConfigWrite ∧ Claims.PassStartAndArming ∧ Claims.StreamStallReported

/-- A stream request, its grant, borrowing and the posts of hasps. Where it says that nothing happens because a
condition does not hold, that is the model's choice (log 13). -/
def Obligations.StreamPieces : Prop :=
  Claims.StreamRequestEntered ∧ Claims.GrantMovesPiece ∧ Claims.BorrowAndPosts

/-- STRIKE_TICK advances the strike counter, and with it stall windows, deadlocks and waiting writes;
SERVICE_HEARTBEAT advances the heartbeat. Where it says that nothing happens because a condition does not hold,
that is the model's choice (log 13). -/
def Obligations.StrikeAndHeartbeat : Prop :=
  Claims.StrikeAndHeartbeat

/-- A doorbell moves the tail and the queue reads its entries, or is ignored and recorded. Where it says that
nothing happens because a condition does not hold, that is the model's choice (log 13). -/
def Obligations.SubmissionDoorbell : Prop :=
  Claims.DoorbellResult

/-- FLAG, GRAPH, STREAM and ABORT entries. Where it says that nothing happens because a condition does not hold,
that is the model's choice (log 13). -/
def Obligations.SubmissionEntries : Prop :=
  Claims.FlagEntryResult ∧ Claims.GraphEntryResult ∧ Claims.StreamEntryResult ∧ Claims.AbortEntryResult

/-- A task becomes ready, is placed on its rectangle, and commits. Where it says that nothing happens because a
condition does not hold, that is the model's choice (log 13). -/
def Obligations.TaskLife : Prop :=
  Claims.TaskReadyResult ∧ Claims.TaskPlaceResult ∧ Claims.TaskCommitResult

/-- Queue deadlocks and the capture of a task at a cut. Where it says that nothing happens because a condition
does not hold, that is the model's choice (log 13). -/
def Obligations.DeadlocksAndCutCapture : Prop :=
  Claims.DeadlockAndCapture

/-- Lanes, training, HELLO and INIT exchanges, and resets over a link. Where it says that nothing happens
because a condition does not hold, that is the model's choice (log 13). -/
def Obligations.PortStates : Prop :=
  Claims.LanesAndTraining ∧ Claims.LinkControl ∧ Claims.ResetRequests

/-- A flit sent, and a flit received. Where it says that nothing happens because a condition does not hold, that
is the model's choice (log 13). -/
def Obligations.FlitsOfALink : Prop :=
  Claims.FlitSent ∧ Claims.FlitReceived

/-- Request, reduce and response packets, and link descriptors. Where it says that nothing happens because a
condition does not hold, that is the model's choice (log 13). -/
def Obligations.PacketsOfALink : Prop :=
  Claims.RequestPackets ∧ Claims.ReducePackets ∧ Claims.ResponsesAndDescriptors

/-- Port registers and exchange channel registers. Where it says that nothing happens because a condition does
not hold, that is the model's choice (log 13). -/
def Obligations.PortAndChannelRegisters : Prop :=
  Claims.PortRegisters ∧ Claims.ChannelRegisters

/-- An exchange channel sends a slot, and the life of a RESHARD. Where it says that nothing happens because a
condition does not hold, that is the model's choice (log 13). -/
def Obligations.ExchangeAndReshard : Prop :=
  Claims.ChannelSlotSent ∧ Claims.ReshardLife

/-- Fabric reads and writes of external memory, and refused accesses. Where it says that nothing happens because
a condition does not hold, that is the model's choice (log 13). -/
def Obligations.FabricAccesses : Prop :=
  Claims.FabricMemoryAccess ∧ Claims.RefusedAccess

/-- Correctable and uncorrectable bursts, and the patrol that reads every burst. Where it says that nothing
happens because a condition does not hold, that is the model's choice (log 13). -/
def Obligations.ExternalMemoryErrors : Prop :=
  Claims.BurstErrors ∧ Claims.PatrolReadsEveryBurst

/-- Row redirects, MEM_REPAIR and the retirement of a channel. Where it says that nothing happens because a
condition does not hold, that is the model's choice (log 13). -/
def Obligations.MemoryRepairAndRetirement : Prop :=
  Claims.RedirectAndRepair ∧ Claims.ChannelRetirement

/-- Logical coordinates, spare remap, row map updates and row clocks. Where it says that nothing happens because
a condition does not hold, that is the model's choice (log 13). -/
def Obligations.GridRows : Prop :=
  Claims.LogicalCoordinates ∧ Claims.SpareReplacesSite ∧ Claims.RowMapTakesEffect ∧ Claims.RowClockGated

/-- Row maps satisfy R337 at reset, and every step keeps them so. -/
def Obligations.RowMapsAlwaysGood : Prop :=
  Claims.RowMapsAlwaysGood

/-- Event queue configuration and interrupts. Where it says that nothing happens because a condition does not
hold, that is the model's choice (log 13). -/
def Obligations.EventQueuesAndInterrupts : Prop :=
  Claims.EventQueueConfigured ∧ Claims.EventInterruptSent

/-- Event records go to their slots with their phase; head writes; the full ring. Where it says that nothing
happens because a condition does not hold, that is the model's choice (log 13). -/
def Obligations.EventRing : Prop :=
  Claims.EventRing

/-- Handover, host memory size and front-end frames. Where it says that nothing happens because a condition does
not hold, that is the model's choice (log 13). -/
def Obligations.HandoverHostMemoryAndFrames : Prop :=
  Claims.HandoverHostMemoryAndFrames

/-- Power-on reset (memory then reads 0, log 5), the crystal, its timeout and its loss. Where it says that
nothing happens because a condition does not hold, that is the model's choice (log 13). -/
def Obligations.ReferenceStartsUp : Prop :=
  Claims.ReferenceStartsUp

/-- Clock nodes: accepted and refused writes, switches, and the clock monitor. Where it says that nothing
happens because a condition does not hold, that is the model's choice (log 13). -/
def Obligations.ClockNodes : Prop :=
  Claims.ClockNodeWrites ∧ Claims.ClockRefusals ∧ Claims.ClockMonitor

/-- Reset sources assert at their reach, are released, and the episode ends. Where it says that nothing happens
because a condition does not hold, that is the model's choice (log 13). -/
def Obligations.ResetEpisodes : Prop :=
  Claims.ResetSourcesAssert ∧ Claims.SourceRelease ∧ Claims.EpisodeReleased

/-- What a reset of reach MODULE or FABRIC keeps and clears. Where it says that nothing happens because a
condition does not hold, that is the model's choice (log 13). -/
def Obligations.ResetScopes : Prop :=
  Claims.ModuleResetScope ∧ Claims.FabricResetScope

/-- The input stage (lost memory reads 0, log 5) and lost regulator phases. Where it says that nothing happens
because a condition does not hold, that is the model's choice (log 13). -/
def Obligations.InputAndPhases : Prop :=
  Claims.InputStage ∧ Claims.PhaseLost

/-- Domain requests, domain changes and the on-timeout. Where it says that nothing happens because a condition
does not hold, that is the model's choice (log 13). -/
def Obligations.PowerDomains : Prop :=
  Claims.DomainRequested ∧ Claims.DomainChangeEnds

/-- PWR_CAP, the fast loop, the slow loop and droop. Where it says that nothing happens because a condition does
not hold, that is the model's choice (log 13). -/
def Obligations.PowerLoops : Prop :=
  Claims.PowerCap ∧ Claims.FastLoopStep ∧ Claims.SlowLoopStep ∧ Claims.DroopStep

/-- Temperature readings, thermal trips and thermal levels. Where it says that nothing happens because a
condition does not hold, that is the model's choice (log 13). -/
def Obligations.Temperatures : Prop :=
  Claims.TemperatureRead ∧ Claims.ThermalLevelStep ∧ Claims.ModuleThermalLevel

/-- Lockout of cores and dies, and the return of a die. Where it says that nothing happens because a condition
does not hold, that is the model's choice (log 13). -/
def Obligations.Lockouts : Prop :=
  Claims.CoreLockedOut ∧ Claims.DieLockedOutAndReturned

/-- Escalation, configuration parity, spared banks and the repair record. Where it says that nothing happens
because a condition does not hold, that is the model's choice (log 13). -/
def Obligations.RecoveryAndRepairs : Prop :=
  Claims.RecoveryEscalates ∧ Claims.ParityMakesSafe ∧ Claims.RepairsRecorded

/-- Boot, the checks of an image, and recovery images. Where it says that nothing happens because a condition
does not hold, that is the model's choice (log 13). -/
def Obligations.BootAndRecovery : Prop :=
  Claims.BootOutcome ∧ Claims.ImageChecks ∧ Claims.RecoveryImages

/-- FW_COMMIT and the end of an update. Where it says that nothing happens because a condition does not hold,
that is the model's choice (log 13). -/
def Obligations.FirmwareUpdates : Prop :=
  Claims.UpdateBegins ∧ Claims.UpdateEnds

/-- Only the operator burns fuses, MIN_SVN and ROOT_REVOKE alone, and no step clears a fuse bit. Where it says
that nothing happens because a condition does not hold, that is the model's choice (log 13). -/
def Obligations.FusesOnlyGrow : Prop :=
  Claims.FuseBurns ∧ Claims.FuseBitsStay

/-- ATTEST, DEVID_CERT, ATT_CTL and ATT_EXTEND (the number k of a signature is free, log 11). Where it says that
nothing happens because a condition does not hold, that is the model's choice (log 13). -/
def Obligations.AttestationReports : Prop :=
  Claims.Attestation ∧ Claims.AttestationRegisters

/-- A register has one meaning; GE_CFG; the register lock. Where it says that nothing happens because a
condition does not hold, that is the model's choice (log 13). -/
def Obligations.RegisterWrites : Prop :=
  Claims.RegisterHasOneMeaning ∧ Claims.GraphEngineConfig ∧ Claims.RegisterLock

/-- A write-back clears the fields read and none set since. Where it says that nothing happens because a
condition does not hold, that is the model's choice (log 13). -/
def Obligations.StatusWriteBack : Prop :=
  Claims.StatusWriteBack

/-- Registers of submission queues and regions. Where it says that nothing happens because a condition does not
hold, that is the model's choice (log 13). -/
def Obligations.QueuesAndRegions : Prop :=
  Claims.QueueConfigured ∧ Claims.RegionConfigured ∧ Claims.RegionsStayApart

/-- Cables (lanes in training: log 24), the management endpoint and the test port (logs 24, 91). Where it says
that nothing happens because a condition does not hold, that is the model's choice (log 13). -/
def Obligations.PinsAndTestPort : Prop :=
  Claims.CablePresence ∧ Claims.EndpointAndTestPort

/-- The state after power-on reset (no open episode and no record: logs 4 and 9). -/
def Obligations.ResetState : Prop :=
  Claims.ResetState

/-- Every step serves the queue in order and keeps memory in canonical form (both are the model's own, logs 1
and 5). -/
def Obligations.StepKeepsQueueAndMemory : Prop :=
  Claims.QueueIsServedInOrder ∧ Claims.MemoryStaysCanonical
end

