-- ==== Sys2Proof/Laws/Assoc.lean ====
section
/-! SUPPORT. Laws of sparse maps: reading after writing, and the canonical form. -/

namespace Sys2Proof.Machine

open Sys2Proof

variable {α : Type}

@[simp] theorem Assoc.get_nil (d : α) (n : Nat) : Assoc.get d [] n = d := rfl

theorem Assoc.get_cons (d : α) (k : Nat) (v : α) (m : Assoc α) (n : Nat) :
    Assoc.get d ((k, v) :: m) n = if k = n then v else Assoc.get d m n := rfl

/-- A key that a map does not list reads as the unlisted value. -/
theorem Assoc.get_of_not_mem (d : α) (m : Assoc α) (n : Nat) (h : ∀ e ∈ m, e.1 ≠ n) : Assoc.get d m n = d := by
  induction m with
  | nil => rfl
  | cons e m ih =>
    obtain ⟨k, v⟩ := e
    rw [Assoc.get_cons, if_neg (h (k, v) (by simp))]
    exact ih (fun e he => h e (by simp [he]))

/-- Dropping entries of other keys changes no reading of a key. -/
theorem Assoc.get_filter (d : α) (m : Assoc α) (f : Nat × α → Bool) (n : Nat) (h : ∀ v, f (n, v) = true) :
    Assoc.get d (m.filter f) n = Assoc.get d m n := by
  induction m with
  | nil => rfl
  | cons e m ih =>
    obtain ⟨k, v⟩ := e
    by_cases hk : k = n
    · subst hk
      rw [List.filter_cons_of_pos (h v), Assoc.get_cons, Assoc.get_cons, if_pos rfl, if_pos rfl]
    · by_cases hf : f (k, v) = true
      · rw [List.filter_cons_of_pos hf, Assoc.get_cons, Assoc.get_cons, if_neg hk, if_neg hk, ih]
      · rw [List.filter_cons_of_neg hf, Assoc.get_cons, if_neg hk, ih]

@[simp] theorem Assoc.get_del_same (d : α) (m : Assoc α) (n : Nat) : Assoc.get d (Assoc.del m n) n = d :=
  Assoc.get_of_not_mem d _ n (by simp [Assoc.del])

theorem Assoc.get_del_other (d : α) (m : Assoc α) {n k : Nat} (h : k ≠ n) :
    Assoc.get d (Assoc.del m n) k = Assoc.get d m k :=
  Assoc.get_filter d m _ k (by simp [h])

theorem Assoc.get_ins_same (d : α) (m : Assoc α) (n : Nat) (v : α) (h : ∀ e ∈ m, e.1 ≠ n) :
    Assoc.get d (Assoc.ins n v m) n = v := by
  induction m with
  | nil => simp [Assoc.ins, Assoc.get_cons]
  | cons e m ih =>
    obtain ⟨k, w⟩ := e
    have hk : k ≠ n := h (k, w) (by simp)
    unfold Assoc.ins
    split
    · simp [Assoc.get_cons]
    · rw [Assoc.get_cons, if_neg hk]
      exact ih (fun e he => h e (by simp [he]))

theorem Assoc.get_ins_other (d : α) (m : Assoc α) {n k : Nat} (v : α) (h : k ≠ n) :
    Assoc.get d (Assoc.ins n v m) k = Assoc.get d m k := by
  induction m with
  | nil => simp [Assoc.ins, Assoc.get_cons, Ne.symm h]
  | cons e m ih =>
    obtain ⟨j, w⟩ := e
    unfold Assoc.ins
    split
    · simp [Assoc.get_cons, Ne.symm h]
    · rw [Assoc.get_cons, Assoc.get_cons, ih]

/-- A key reads as what was last set. -/
@[simp] theorem Assoc.get_set_same (d : α) (m : Assoc α) (n : Nat) (v : α) :
    Assoc.get d (Assoc.set m n v) n = v :=
  Assoc.get_ins_same d _ n v (by simp [Assoc.del])

/-- Setting a key leaves every other key. -/
theorem Assoc.get_set_other (d : α) (m : Assoc α) {n k : Nat} (v : α) (h : k ≠ n) :
    Assoc.get d (Assoc.set m n v) k = Assoc.get d m k := by
  rw [Assoc.set, Assoc.get_ins_other d _ v h, Assoc.get_del_other d m h]

/-- Reading after setting, for every key. -/
theorem Assoc.get_set (d : α) (m : Assoc α) (n k : Nat) (v : α) :
    Assoc.get d (Assoc.set m n v) k = if k = n then v else Assoc.get d m k := by
  split
  · next h => subst h; simp
  · next h => exact Assoc.get_set_other d m v h

/-- A key reads as what was last put. -/
@[simp] theorem Assoc.get_put_same [DecidableEq α] (d : α) (m : Assoc α) (n : Nat) (v : α) :
    Assoc.get d (Assoc.put d m n v) n = v := by
  unfold Assoc.put
  split
  · next h => rw [Assoc.get_del_same, h]
  · simp

/-- Putting a key leaves every other key. -/
theorem Assoc.get_put_other [DecidableEq α] (d : α) (m : Assoc α) {n k : Nat} (v : α) (h : k ≠ n) :
    Assoc.get d (Assoc.put d m n v) k = Assoc.get d m k := by
  unfold Assoc.put
  split
  · exact Assoc.get_del_other d m h
  · exact Assoc.get_set_other d m v h

/-- Reading after putting, for every key. -/
theorem Assoc.get_put [DecidableEq α] (d : α) (m : Assoc α) (n k : Nat) (v : α) :
    Assoc.get d (Assoc.put d m n v) k = if k = n then v else Assoc.get d m k := by
  split
  · next h => subst h; simp
  · next h => exact Assoc.get_put_other d m v h

/-! The canonical form. -/

/-- The keys rise strictly: as a statement about pairs. -/
theorem Assoc.sorted_iff (m : Assoc α) : Assoc.sorted m = true ↔ m.Pairwise (fun a b => a.1 < b.1) := by
  induction m with
  | nil => simp [Assoc.sorted]
  | cons e m ih =>
    obtain ⟨k, v⟩ := e
    cases m with
    | nil => simp [Assoc.sorted]
    | cons e2 m =>
      obtain ⟨j, w⟩ := e2
      simp only [Assoc.sorted, Bool.and_eq_true, decide_eq_true_eq, List.pairwise_cons] at ih ⊢
      rw [ih]
      constructor
      · rintro ⟨h, hj, hp⟩
        refine ⟨?_, hj, hp⟩
        intro a ha
        rcases List.mem_cons.mp ha with rfl | ha
        · exact h
        · exact lt_trans h (hj a ha)
      · rintro ⟨hk, hj, hp⟩
        exact ⟨hk (j, w) (by simp), hj, hp⟩

theorem Assoc.sorted_filter (m : Assoc α) (f : Nat × α → Bool) (h : Assoc.sorted m = true) :
    Assoc.sorted (m.filter f) = true :=
  (Assoc.sorted_iff _).mpr (((Assoc.sorted_iff m).mp h).filter f)

theorem Assoc.mem_ins (n : Nat) (v : α) (m : Assoc α) (e : Nat × α) :
    e ∈ Assoc.ins n v m ↔ e = (n, v) ∨ e ∈ m := by
  induction m with
  | nil => simp [Assoc.ins]
  | cons x m ih =>
    obtain ⟨k, w⟩ := x
    unfold Assoc.ins
    split
    · simp
    · simp only [List.mem_cons, ih]; tauto

theorem Assoc.sorted_ins (n : Nat) (v : α) (m : Assoc α) (h : Assoc.sorted m = true) (hn : ∀ e ∈ m, e.1 ≠ n) :
    Assoc.sorted (Assoc.ins n v m) = true := by
  rw [Assoc.sorted_iff] at h ⊢
  induction m with
  | nil => simp [Assoc.ins]
  | cons x m ih =>
    obtain ⟨k, w⟩ := x
    have hk : k ≠ n := hn (k, w) (by simp)
    rw [List.pairwise_cons] at h
    unfold Assoc.ins
    split
    · next hlt =>
      rw [List.pairwise_cons, List.pairwise_cons]
      refine ⟨?_, h.1, h.2⟩
      intro a ha
      rcases List.mem_cons.mp ha with rfl | ha
      · exact hlt
      · exact lt_trans hlt (h.1 a ha)
    · next hlt =>
      rw [List.pairwise_cons]
      refine ⟨?_, ih h.2 (fun e he => hn e (by simp [he]))⟩
      intro a ha
      rcases (Assoc.mem_ins n v m a).mp ha with rfl | ha
      · show k < n; omega
      · exact h.1 a ha

/-- Setting a key keeps the keys rising. -/
theorem Assoc.sorted_set (m : Assoc α) (n : Nat) (v : α) (h : Assoc.sorted m = true) :
    Assoc.sorted (Assoc.set m n v) = true :=
  Assoc.sorted_ins n v _ (Assoc.sorted_filter m _ h) (by simp [Assoc.del])

variable [DecidableEq α]

theorem Assoc.wf_nil (d : α) : Assoc.wf d ([] : Assoc α) = true := rfl

/-- The canonical form survives the removal of entries. -/
theorem Assoc.wf_filter (d : α) (m : Assoc α) (f : Nat × α → Bool) (h : Assoc.wf d m = true) :
    Assoc.wf d (m.filter f) = true := by
  simp only [Assoc.wf, Bool.and_eq_true, List.all_eq_true] at h ⊢
  exact ⟨Assoc.sorted_filter m f h.1, fun e he => h.2 e (List.mem_of_mem_filter he)⟩

/-- Putting a value keeps the canonical form. -/
theorem Assoc.wf_put (d : α) (m : Assoc α) (n : Nat) (v : α) (h : Assoc.wf d m = true) :
    Assoc.wf d (Assoc.put d m n v) = true := by
  unfold Assoc.put
  split
  · exact Assoc.wf_filter d m _ h
  · next hv =>
    simp only [Assoc.wf, Bool.and_eq_true, List.all_eq_true] at h ⊢
    refine ⟨Assoc.sorted_set m n v h.1, fun e he => ?_⟩
    rcases (Assoc.mem_ins n v _ e).mp he with rfl | he
    · simpa using hv
    · exact h.2 e (List.mem_of_mem_filter he)

/-- Putting values in order keeps the canonical form. -/
theorem Assoc.wf_putAll (d : α) (kvs : List (Nat × α)) (m : Assoc α) (h : Assoc.wf d m = true) :
    Assoc.wf d (Assoc.putAll d m kvs) = true := by
  induction kvs generalizing m with
  | nil => exact h
  | cons e kvs ih =>
    obtain ⟨k, v⟩ := e
    exact ih _ (Assoc.wf_put d m k v h)

/-- Two maps in canonical form that read alike are the same data. -/
theorem Assoc.ext_of_wf (d : α) (m m' : Assoc α) (h : Assoc.wf d m = true) (h' : Assoc.wf d m' = true)
    (he : ∀ n, Assoc.get d m n = Assoc.get d m' n) : m = m' := by
  induction m generalizing m' with
  | nil =>
    cases m' with
    | nil => rfl
    | cons e m' =>
      obtain ⟨k, v⟩ := e
      have := he k
      simp only [Assoc.get_nil, Assoc.get_cons, if_true] at this
      simp only [Assoc.wf, List.all_cons, Bool.and_eq_true, decide_eq_true_eq] at h'
      exact absurd this.symm h'.2.1
  | cons e m ih =>
    obtain ⟨k, v⟩ := e
    have hs := h
    simp only [Assoc.wf, Bool.and_eq_true, List.all_cons, decide_eq_true_eq, Assoc.sorted_iff,
      List.pairwise_cons] at hs
    cases m' with
    | nil =>
      have := he k
      simp only [Assoc.get_nil, Assoc.get_cons, if_true] at this
      exact absurd this hs.2.1
    | cons e' m' =>
      obtain ⟨k', v'⟩ := e'
      have hs' := h'
      simp only [Assoc.wf, Bool.and_eq_true, List.all_cons, decide_eq_true_eq, Assoc.sorted_iff,
        List.pairwise_cons] at hs'
      have low : ∀ n, n < k → Assoc.get d ((k, v) :: m) n = d := fun n hn =>
        Assoc.get_of_not_mem d _ n (by
          intro e he
          rcases List.mem_cons.mp he with rfl | he
          · show k ≠ n; omega
          · have : k < e.1 := hs.1.1 e he; omega)
      have low' : ∀ n, n < k' → Assoc.get d ((k', v') :: m') n = d := fun n hn =>
        Assoc.get_of_not_mem d _ n (by
          intro e he
          rcases List.mem_cons.mp he with rfl | he
          · show k' ≠ n; omega
          · have : k' < e.1 := hs'.1.1 e he; omega)
      have hk : k = k' := by
        rcases Nat.lt_trichotomy k k' with hlt | heq | hlt
        · have := he k
          rw [low' k hlt, Assoc.get_cons, if_pos rfl] at this
          exact absurd this hs.2.1
        · exact heq
        · have := he k'
          rw [low k' hlt, Assoc.get_cons, if_pos rfl] at this
          exact absurd this.symm hs'.2.1
      subst hk
      have hv : v = v' := by
        have := he k
        simpa [Assoc.get_cons] using this
      subst hv
      have tail : m = m' := by
        apply ih
        · simp only [Assoc.wf, Bool.and_eq_true, Assoc.sorted_iff]
          exact ⟨hs.1.2, hs.2.2⟩
        · simp only [Assoc.wf, Bool.and_eq_true, Assoc.sorted_iff]
          exact ⟨hs'.1.2, hs'.2.2⟩
        · intro n
          by_cases hn : k = n
          · subst hn
            rw [Assoc.get_of_not_mem d m k (fun e he => by have : k < e.1 := hs.1.1 e he; omega),
              Assoc.get_of_not_mem d m' k (fun e he => by have : k < e.1 := hs'.1.1 e he; omega)]
          · have := he n
            rwa [Assoc.get_cons, Assoc.get_cons, if_neg hn, if_neg hn] at this
      rw [tail]

end Sys2Proof.Machine
end

