-- ==== Sys2Proof/Laws/State.lean ====
section
/-! SUPPORT. What each named update of the state leaves: one lemma per field per update, and reading back what was
written. -/

namespace Sys2Proof.Machine

open Sys2Proof

variable (s : State)

/-! setCore: changes cores. -/

@[simp] theorem State.setCore_pending (c : Nat) (k : Core) : (s.setCore c k).pending = s.pending := rfl
@[simp] theorem State.setCore_strike (c : Nat) (k : Core) : (s.setCore c k).strike = s.strike := rfl
@[simp] theorem State.setCore_running (c : Nat) (k : Core) : (s.setCore c k).running = s.running := rfl
@[simp] theorem State.setCore_heartbeat (c : Nat) (k : Core) : (s.setCore c k).heartbeat = s.heartbeat := rfl
@[simp] theorem State.setCore_aclk (c : Nat) (k : Core) : (s.setCore c k).aclk = s.aclk := rfl
@[simp] theorem State.setCore_free (c : Nat) (k : Core) : (s.setCore c k).free = s.free := rfl
@[simp] theorem State.setCore_mem (c : Nat) (k : Core) : (s.setCore c k).mem = s.mem := rfl
@[simp] theorem State.setCore_store (c : Nat) (k : Core) : (s.setCore c k).store = s.store := rfl
@[simp] theorem State.setCore_ge (c : Nat) (k : Core) : (s.setCore c k).ge = s.ge := rfl
@[simp] theorem State.setCore_link (c : Nat) (k : Core) : (s.setCore c k).link = s.link := rfl
@[simp] theorem State.setCore_logs (c : Nat) (k : Core) : (s.setCore c k).logs = s.logs := rfl
@[simp] theorem State.setCore_grid (c : Nat) (k : Core) : (s.setCore c k).grid = s.grid := rfl
@[simp] theorem State.setCore_ext (c : Nat) (k : Core) : (s.setCore c k).ext = s.ext := rfl
@[simp] theorem State.setCore_clock (c : Nat) (k : Core) : (s.setCore c k).clock = s.clock := rfl
@[simp] theorem State.setCore_resets (c : Nat) (k : Core) : (s.setCore c k).resets = s.resets := rfl
@[simp] theorem State.setCore_power (c : Nat) (k : Core) : (s.setCore c k).power = s.power := rfl
@[simp] theorem State.setCore_boot (c : Nat) (k : Core) : (s.setCore c k).boot = s.boot := rfl
@[simp] theorem State.setCore_pins (c : Nat) (k : Core) : (s.setCore c k).pins = s.pins := rfl
@[simp] theorem State.setCore_imsic (c : Nat) (k : Core) : (s.setCore c k).imsic = s.imsic := rfl
@[simp] theorem State.setCore_out (c : Nat) (k : Core) : (s.setCore c k).out = s.out := rfl

/-! at_: changes aclk. -/

@[simp] theorem State.at_pending (t : Nat) : (s.at_ t).pending = s.pending := rfl
@[simp] theorem State.at_strike (t : Nat) : (s.at_ t).strike = s.strike := rfl
@[simp] theorem State.at_running (t : Nat) : (s.at_ t).running = s.running := rfl
@[simp] theorem State.at_heartbeat (t : Nat) : (s.at_ t).heartbeat = s.heartbeat := rfl
@[simp] theorem State.at_free (t : Nat) : (s.at_ t).free = s.free := rfl
@[simp] theorem State.at_cores (t : Nat) : (s.at_ t).cores = s.cores := rfl
@[simp] theorem State.at_mem (t : Nat) : (s.at_ t).mem = s.mem := rfl
@[simp] theorem State.at_store (t : Nat) : (s.at_ t).store = s.store := rfl
@[simp] theorem State.at_ge (t : Nat) : (s.at_ t).ge = s.ge := rfl
@[simp] theorem State.at_link (t : Nat) : (s.at_ t).link = s.link := rfl
@[simp] theorem State.at_logs (t : Nat) : (s.at_ t).logs = s.logs := rfl
@[simp] theorem State.at_grid (t : Nat) : (s.at_ t).grid = s.grid := rfl
@[simp] theorem State.at_ext (t : Nat) : (s.at_ t).ext = s.ext := rfl
@[simp] theorem State.at_clock (t : Nat) : (s.at_ t).clock = s.clock := rfl
@[simp] theorem State.at_resets (t : Nat) : (s.at_ t).resets = s.resets := rfl
@[simp] theorem State.at_power (t : Nat) : (s.at_ t).power = s.power := rfl
@[simp] theorem State.at_boot (t : Nat) : (s.at_ t).boot = s.boot := rfl
@[simp] theorem State.at_pins (t : Nat) : (s.at_ t).pins = s.pins := rfl
@[simp] theorem State.at_imsic (t : Nat) : (s.at_ t).imsic = s.imsic := rfl
@[simp] theorem State.at_out (t : Nat) : (s.at_ t).out = s.out := rfl

/-! useFree: changes free. -/

@[simp] theorem State.useFree_pending (n : Nat) : (s.useFree n).pending = s.pending := rfl
@[simp] theorem State.useFree_strike (n : Nat) : (s.useFree n).strike = s.strike := rfl
@[simp] theorem State.useFree_running (n : Nat) : (s.useFree n).running = s.running := rfl
@[simp] theorem State.useFree_heartbeat (n : Nat) : (s.useFree n).heartbeat = s.heartbeat := rfl
@[simp] theorem State.useFree_aclk (n : Nat) : (s.useFree n).aclk = s.aclk := rfl
@[simp] theorem State.useFree_cores (n : Nat) : (s.useFree n).cores = s.cores := rfl
@[simp] theorem State.useFree_mem (n : Nat) : (s.useFree n).mem = s.mem := rfl
@[simp] theorem State.useFree_store (n : Nat) : (s.useFree n).store = s.store := rfl
@[simp] theorem State.useFree_ge (n : Nat) : (s.useFree n).ge = s.ge := rfl
@[simp] theorem State.useFree_link (n : Nat) : (s.useFree n).link = s.link := rfl
@[simp] theorem State.useFree_logs (n : Nat) : (s.useFree n).logs = s.logs := rfl
@[simp] theorem State.useFree_grid (n : Nat) : (s.useFree n).grid = s.grid := rfl
@[simp] theorem State.useFree_ext (n : Nat) : (s.useFree n).ext = s.ext := rfl
@[simp] theorem State.useFree_clock (n : Nat) : (s.useFree n).clock = s.clock := rfl
@[simp] theorem State.useFree_resets (n : Nat) : (s.useFree n).resets = s.resets := rfl
@[simp] theorem State.useFree_power (n : Nat) : (s.useFree n).power = s.power := rfl
@[simp] theorem State.useFree_boot (n : Nat) : (s.useFree n).boot = s.boot := rfl
@[simp] theorem State.useFree_pins (n : Nat) : (s.useFree n).pins = s.pins := rfl
@[simp] theorem State.useFree_imsic (n : Nat) : (s.useFree n).imsic = s.imsic := rfl
@[simp] theorem State.useFree_out (n : Nat) : (s.useFree n).out = s.out := rfl

/-! mlog: changes logs. -/

@[simp] theorem State.mlog_pending (r : Rec) : (s.mlog r).pending = s.pending := rfl
@[simp] theorem State.mlog_strike (r : Rec) : (s.mlog r).strike = s.strike := rfl
@[simp] theorem State.mlog_running (r : Rec) : (s.mlog r).running = s.running := rfl
@[simp] theorem State.mlog_heartbeat (r : Rec) : (s.mlog r).heartbeat = s.heartbeat := rfl
@[simp] theorem State.mlog_aclk (r : Rec) : (s.mlog r).aclk = s.aclk := rfl
@[simp] theorem State.mlog_free (r : Rec) : (s.mlog r).free = s.free := rfl
@[simp] theorem State.mlog_cores (r : Rec) : (s.mlog r).cores = s.cores := rfl
@[simp] theorem State.mlog_mem (r : Rec) : (s.mlog r).mem = s.mem := rfl
@[simp] theorem State.mlog_store (r : Rec) : (s.mlog r).store = s.store := rfl
@[simp] theorem State.mlog_ge (r : Rec) : (s.mlog r).ge = s.ge := rfl
@[simp] theorem State.mlog_link (r : Rec) : (s.mlog r).link = s.link := rfl
@[simp] theorem State.mlog_grid (r : Rec) : (s.mlog r).grid = s.grid := rfl
@[simp] theorem State.mlog_ext (r : Rec) : (s.mlog r).ext = s.ext := rfl
@[simp] theorem State.mlog_clock (r : Rec) : (s.mlog r).clock = s.clock := rfl
@[simp] theorem State.mlog_resets (r : Rec) : (s.mlog r).resets = s.resets := rfl
@[simp] theorem State.mlog_power (r : Rec) : (s.mlog r).power = s.power := rfl
@[simp] theorem State.mlog_boot (r : Rec) : (s.mlog r).boot = s.boot := rfl
@[simp] theorem State.mlog_pins (r : Rec) : (s.mlog r).pins = s.pins := rfl
@[simp] theorem State.mlog_imsic (r : Rec) : (s.mlog r).imsic = s.imsic := rfl
@[simp] theorem State.mlog_out (r : Rec) : (s.mlog r).out = s.out := rfl

/-! mlogOpen: changes logs and free. -/

@[simp] theorem State.mlogOpen_pending (r : Rec) : (s.mlogOpen r).pending = s.pending := rfl
@[simp] theorem State.mlogOpen_strike (r : Rec) : (s.mlogOpen r).strike = s.strike := rfl
@[simp] theorem State.mlogOpen_running (r : Rec) : (s.mlogOpen r).running = s.running := rfl
@[simp] theorem State.mlogOpen_heartbeat (r : Rec) : (s.mlogOpen r).heartbeat = s.heartbeat := rfl
@[simp] theorem State.mlogOpen_aclk (r : Rec) : (s.mlogOpen r).aclk = s.aclk := rfl
@[simp] theorem State.mlogOpen_cores (r : Rec) : (s.mlogOpen r).cores = s.cores := rfl
@[simp] theorem State.mlogOpen_mem (r : Rec) : (s.mlogOpen r).mem = s.mem := rfl
@[simp] theorem State.mlogOpen_store (r : Rec) : (s.mlogOpen r).store = s.store := rfl
@[simp] theorem State.mlogOpen_ge (r : Rec) : (s.mlogOpen r).ge = s.ge := rfl
@[simp] theorem State.mlogOpen_link (r : Rec) : (s.mlogOpen r).link = s.link := rfl
@[simp] theorem State.mlogOpen_grid (r : Rec) : (s.mlogOpen r).grid = s.grid := rfl
@[simp] theorem State.mlogOpen_ext (r : Rec) : (s.mlogOpen r).ext = s.ext := rfl
@[simp] theorem State.mlogOpen_clock (r : Rec) : (s.mlogOpen r).clock = s.clock := rfl
@[simp] theorem State.mlogOpen_resets (r : Rec) : (s.mlogOpen r).resets = s.resets := rfl
@[simp] theorem State.mlogOpen_power (r : Rec) : (s.mlogOpen r).power = s.power := rfl
@[simp] theorem State.mlogOpen_boot (r : Rec) : (s.mlogOpen r).boot = s.boot := rfl
@[simp] theorem State.mlogOpen_pins (r : Rec) : (s.mlogOpen r).pins = s.pins := rfl
@[simp] theorem State.mlogOpen_imsic (r : Rec) : (s.mlogOpen r).imsic = s.imsic := rfl
@[simp] theorem State.mlogOpen_out (r : Rec) : (s.mlogOpen r).out = s.out := rfl

/-! setEq: changes logs. -/

@[simp] theorem State.setEq_pending (e : Nat) (q : EventQueue) : (s.setEq e q).pending = s.pending := rfl
@[simp] theorem State.setEq_strike (e : Nat) (q : EventQueue) : (s.setEq e q).strike = s.strike := rfl
@[simp] theorem State.setEq_running (e : Nat) (q : EventQueue) : (s.setEq e q).running = s.running := rfl
@[simp] theorem State.setEq_heartbeat (e : Nat) (q : EventQueue) : (s.setEq e q).heartbeat = s.heartbeat := rfl
@[simp] theorem State.setEq_aclk (e : Nat) (q : EventQueue) : (s.setEq e q).aclk = s.aclk := rfl
@[simp] theorem State.setEq_free (e : Nat) (q : EventQueue) : (s.setEq e q).free = s.free := rfl
@[simp] theorem State.setEq_cores (e : Nat) (q : EventQueue) : (s.setEq e q).cores = s.cores := rfl
@[simp] theorem State.setEq_mem (e : Nat) (q : EventQueue) : (s.setEq e q).mem = s.mem := rfl
@[simp] theorem State.setEq_store (e : Nat) (q : EventQueue) : (s.setEq e q).store = s.store := rfl
@[simp] theorem State.setEq_ge (e : Nat) (q : EventQueue) : (s.setEq e q).ge = s.ge := rfl
@[simp] theorem State.setEq_link (e : Nat) (q : EventQueue) : (s.setEq e q).link = s.link := rfl
@[simp] theorem State.setEq_grid (e : Nat) (q : EventQueue) : (s.setEq e q).grid = s.grid := rfl
@[simp] theorem State.setEq_ext (e : Nat) (q : EventQueue) : (s.setEq e q).ext = s.ext := rfl
@[simp] theorem State.setEq_clock (e : Nat) (q : EventQueue) : (s.setEq e q).clock = s.clock := rfl
@[simp] theorem State.setEq_resets (e : Nat) (q : EventQueue) : (s.setEq e q).resets = s.resets := rfl
@[simp] theorem State.setEq_power (e : Nat) (q : EventQueue) : (s.setEq e q).power = s.power := rfl
@[simp] theorem State.setEq_boot (e : Nat) (q : EventQueue) : (s.setEq e q).boot = s.boot := rfl
@[simp] theorem State.setEq_pins (e : Nat) (q : EventQueue) : (s.setEq e q).pins = s.pins := rfl
@[simp] theorem State.setEq_imsic (e : Nat) (q : EventQueue) : (s.setEq e q).imsic = s.imsic := rfl
@[simp] theorem State.setEq_out (e : Nat) (q : EventQueue) : (s.setEq e q).out = s.out := rfl

/-! toEq: changes logs. -/

@[simp] theorem State.toEq_pending (e : Nat) (r : Rec) : (s.toEq e r).pending = s.pending := rfl
@[simp] theorem State.toEq_strike (e : Nat) (r : Rec) : (s.toEq e r).strike = s.strike := rfl
@[simp] theorem State.toEq_running (e : Nat) (r : Rec) : (s.toEq e r).running = s.running := rfl
@[simp] theorem State.toEq_heartbeat (e : Nat) (r : Rec) : (s.toEq e r).heartbeat = s.heartbeat := rfl
@[simp] theorem State.toEq_aclk (e : Nat) (r : Rec) : (s.toEq e r).aclk = s.aclk := rfl
@[simp] theorem State.toEq_free (e : Nat) (r : Rec) : (s.toEq e r).free = s.free := rfl
@[simp] theorem State.toEq_cores (e : Nat) (r : Rec) : (s.toEq e r).cores = s.cores := rfl
@[simp] theorem State.toEq_mem (e : Nat) (r : Rec) : (s.toEq e r).mem = s.mem := rfl
@[simp] theorem State.toEq_store (e : Nat) (r : Rec) : (s.toEq e r).store = s.store := rfl
@[simp] theorem State.toEq_ge (e : Nat) (r : Rec) : (s.toEq e r).ge = s.ge := rfl
@[simp] theorem State.toEq_link (e : Nat) (r : Rec) : (s.toEq e r).link = s.link := rfl
@[simp] theorem State.toEq_grid (e : Nat) (r : Rec) : (s.toEq e r).grid = s.grid := rfl
@[simp] theorem State.toEq_ext (e : Nat) (r : Rec) : (s.toEq e r).ext = s.ext := rfl
@[simp] theorem State.toEq_clock (e : Nat) (r : Rec) : (s.toEq e r).clock = s.clock := rfl
@[simp] theorem State.toEq_resets (e : Nat) (r : Rec) : (s.toEq e r).resets = s.resets := rfl
@[simp] theorem State.toEq_power (e : Nat) (r : Rec) : (s.toEq e r).power = s.power := rfl
@[simp] theorem State.toEq_boot (e : Nat) (r : Rec) : (s.toEq e r).boot = s.boot := rfl
@[simp] theorem State.toEq_pins (e : Nat) (r : Rec) : (s.toEq e r).pins = s.pins := rfl
@[simp] theorem State.toEq_imsic (e : Nat) (r : Rec) : (s.toEq e r).imsic = s.imsic := rfl
@[simp] theorem State.toEq_out (e : Nat) (r : Rec) : (s.toEq e r).out = s.out := rfl

/-! toRegion: changes logs. -/

@[simp] theorem State.toRegion_pending (n : Nat) (r : Rec) : (s.toRegion n r).pending = s.pending := rfl
@[simp] theorem State.toRegion_strike (n : Nat) (r : Rec) : (s.toRegion n r).strike = s.strike := rfl
@[simp] theorem State.toRegion_running (n : Nat) (r : Rec) : (s.toRegion n r).running = s.running := rfl
@[simp] theorem State.toRegion_heartbeat (n : Nat) (r : Rec) : (s.toRegion n r).heartbeat = s.heartbeat := rfl
@[simp] theorem State.toRegion_aclk (n : Nat) (r : Rec) : (s.toRegion n r).aclk = s.aclk := rfl
@[simp] theorem State.toRegion_free (n : Nat) (r : Rec) : (s.toRegion n r).free = s.free := rfl
@[simp] theorem State.toRegion_cores (n : Nat) (r : Rec) : (s.toRegion n r).cores = s.cores := rfl
@[simp] theorem State.toRegion_mem (n : Nat) (r : Rec) : (s.toRegion n r).mem = s.mem := rfl
@[simp] theorem State.toRegion_store (n : Nat) (r : Rec) : (s.toRegion n r).store = s.store := rfl
@[simp] theorem State.toRegion_ge (n : Nat) (r : Rec) : (s.toRegion n r).ge = s.ge := rfl
@[simp] theorem State.toRegion_link (n : Nat) (r : Rec) : (s.toRegion n r).link = s.link := rfl
@[simp] theorem State.toRegion_grid (n : Nat) (r : Rec) : (s.toRegion n r).grid = s.grid := rfl
@[simp] theorem State.toRegion_ext (n : Nat) (r : Rec) : (s.toRegion n r).ext = s.ext := rfl
@[simp] theorem State.toRegion_clock (n : Nat) (r : Rec) : (s.toRegion n r).clock = s.clock := rfl
@[simp] theorem State.toRegion_resets (n : Nat) (r : Rec) : (s.toRegion n r).resets = s.resets := rfl
@[simp] theorem State.toRegion_power (n : Nat) (r : Rec) : (s.toRegion n r).power = s.power := rfl
@[simp] theorem State.toRegion_boot (n : Nat) (r : Rec) : (s.toRegion n r).boot = s.boot := rfl
@[simp] theorem State.toRegion_pins (n : Nat) (r : Rec) : (s.toRegion n r).pins = s.pins := rfl
@[simp] theorem State.toRegion_imsic (n : Nat) (r : Rec) : (s.toRegion n r).imsic = s.imsic := rfl
@[simp] theorem State.toRegion_out (n : Nat) (r : Rec) : (s.toRegion n r).out = s.out := rfl

/-! refused: changes logs. -/

@[simp] theorem State.refused_pending (a : Nat) (v : Word) (d : Nat) : (s.refused a v d).pending = s.pending := rfl
@[simp] theorem State.refused_strike (a : Nat) (v : Word) (d : Nat) : (s.refused a v d).strike = s.strike := rfl
@[simp] theorem State.refused_running (a : Nat) (v : Word) (d : Nat) : (s.refused a v d).running = s.running := rfl
@[simp] theorem State.refused_heartbeat (a : Nat) (v : Word) (d : Nat) : (s.refused a v d).heartbeat = s.heartbeat :=
  rfl
@[simp] theorem State.refused_aclk (a : Nat) (v : Word) (d : Nat) : (s.refused a v d).aclk = s.aclk := rfl
@[simp] theorem State.refused_free (a : Nat) (v : Word) (d : Nat) : (s.refused a v d).free = s.free := rfl
@[simp] theorem State.refused_cores (a : Nat) (v : Word) (d : Nat) : (s.refused a v d).cores = s.cores := rfl
@[simp] theorem State.refused_mem (a : Nat) (v : Word) (d : Nat) : (s.refused a v d).mem = s.mem := rfl
@[simp] theorem State.refused_store (a : Nat) (v : Word) (d : Nat) : (s.refused a v d).store = s.store := rfl
@[simp] theorem State.refused_ge (a : Nat) (v : Word) (d : Nat) : (s.refused a v d).ge = s.ge := rfl
@[simp] theorem State.refused_link (a : Nat) (v : Word) (d : Nat) : (s.refused a v d).link = s.link := rfl
@[simp] theorem State.refused_grid (a : Nat) (v : Word) (d : Nat) : (s.refused a v d).grid = s.grid := rfl
@[simp] theorem State.refused_ext (a : Nat) (v : Word) (d : Nat) : (s.refused a v d).ext = s.ext := rfl
@[simp] theorem State.refused_clock (a : Nat) (v : Word) (d : Nat) : (s.refused a v d).clock = s.clock := rfl
@[simp] theorem State.refused_resets (a : Nat) (v : Word) (d : Nat) : (s.refused a v d).resets = s.resets := rfl
@[simp] theorem State.refused_power (a : Nat) (v : Word) (d : Nat) : (s.refused a v d).power = s.power := rfl
@[simp] theorem State.refused_boot (a : Nat) (v : Word) (d : Nat) : (s.refused a v d).boot = s.boot := rfl
@[simp] theorem State.refused_pins (a : Nat) (v : Word) (d : Nat) : (s.refused a v d).pins = s.pins := rfl
@[simp] theorem State.refused_imsic (a : Nat) (v : Word) (d : Nat) : (s.refused a v d).imsic = s.imsic := rfl
@[simp] theorem State.refused_out (a : Nat) (v : Word) (d : Nat) : (s.refused a v d).out = s.out := rfl

/-! refuseWrite: changes logs. -/

@[simp] theorem State.refuseWrite_pending (o : Origin) (a : Nat) (v : Word) : (s.refuseWrite o a v).pending = s.pending :=
  rfl
@[simp] theorem State.refuseWrite_strike (o : Origin) (a : Nat) (v : Word) : (s.refuseWrite o a v).strike = s.strike :=
  rfl
@[simp] theorem State.refuseWrite_running (o : Origin) (a : Nat) (v : Word) : (s.refuseWrite o a v).running = s.running :=
  rfl
@[simp] theorem State.refuseWrite_heartbeat (o : Origin) (a : Nat) (v : Word) : (s.refuseWrite o a v).heartbeat = s.heartbeat :=
  rfl
@[simp] theorem State.refuseWrite_aclk (o : Origin) (a : Nat) (v : Word) : (s.refuseWrite o a v).aclk = s.aclk :=
  rfl
@[simp] theorem State.refuseWrite_free (o : Origin) (a : Nat) (v : Word) : (s.refuseWrite o a v).free = s.free :=
  rfl
@[simp] theorem State.refuseWrite_cores (o : Origin) (a : Nat) (v : Word) : (s.refuseWrite o a v).cores = s.cores :=
  rfl
@[simp] theorem State.refuseWrite_mem (o : Origin) (a : Nat) (v : Word) : (s.refuseWrite o a v).mem = s.mem := rfl
@[simp] theorem State.refuseWrite_store (o : Origin) (a : Nat) (v : Word) : (s.refuseWrite o a v).store = s.store :=
  rfl
@[simp] theorem State.refuseWrite_ge (o : Origin) (a : Nat) (v : Word) : (s.refuseWrite o a v).ge = s.ge := rfl
@[simp] theorem State.refuseWrite_link (o : Origin) (a : Nat) (v : Word) : (s.refuseWrite o a v).link = s.link :=
  rfl
@[simp] theorem State.refuseWrite_grid (o : Origin) (a : Nat) (v : Word) : (s.refuseWrite o a v).grid = s.grid :=
  rfl
@[simp] theorem State.refuseWrite_ext (o : Origin) (a : Nat) (v : Word) : (s.refuseWrite o a v).ext = s.ext := rfl
@[simp] theorem State.refuseWrite_clock (o : Origin) (a : Nat) (v : Word) : (s.refuseWrite o a v).clock = s.clock :=
  rfl
@[simp] theorem State.refuseWrite_resets (o : Origin) (a : Nat) (v : Word) : (s.refuseWrite o a v).resets = s.resets :=
  rfl
@[simp] theorem State.refuseWrite_power (o : Origin) (a : Nat) (v : Word) : (s.refuseWrite o a v).power = s.power :=
  rfl
@[simp] theorem State.refuseWrite_boot (o : Origin) (a : Nat) (v : Word) : (s.refuseWrite o a v).boot = s.boot :=
  rfl
@[simp] theorem State.refuseWrite_pins (o : Origin) (a : Nat) (v : Word) : (s.refuseWrite o a v).pins = s.pins :=
  rfl
@[simp] theorem State.refuseWrite_imsic (o : Origin) (a : Nat) (v : Word) : (s.refuseWrite o a v).imsic = s.imsic :=
  rfl
@[simp] theorem State.refuseWrite_out (o : Origin) (a : Nat) (v : Word) : (s.refuseWrite o a v).out = s.out := rfl

/-! violate: changes logs. -/

@[simp] theorem State.violate_pending (d : Nat) (v : VlogEntry) : (s.violate d v).pending = s.pending := rfl
@[simp] theorem State.violate_strike (d : Nat) (v : VlogEntry) : (s.violate d v).strike = s.strike := rfl
@[simp] theorem State.violate_running (d : Nat) (v : VlogEntry) : (s.violate d v).running = s.running := rfl
@[simp] theorem State.violate_heartbeat (d : Nat) (v : VlogEntry) : (s.violate d v).heartbeat = s.heartbeat := rfl
@[simp] theorem State.violate_aclk (d : Nat) (v : VlogEntry) : (s.violate d v).aclk = s.aclk := rfl
@[simp] theorem State.violate_free (d : Nat) (v : VlogEntry) : (s.violate d v).free = s.free := rfl
@[simp] theorem State.violate_cores (d : Nat) (v : VlogEntry) : (s.violate d v).cores = s.cores := rfl
@[simp] theorem State.violate_mem (d : Nat) (v : VlogEntry) : (s.violate d v).mem = s.mem := rfl
@[simp] theorem State.violate_store (d : Nat) (v : VlogEntry) : (s.violate d v).store = s.store := rfl
@[simp] theorem State.violate_ge (d : Nat) (v : VlogEntry) : (s.violate d v).ge = s.ge := rfl
@[simp] theorem State.violate_link (d : Nat) (v : VlogEntry) : (s.violate d v).link = s.link := rfl
@[simp] theorem State.violate_grid (d : Nat) (v : VlogEntry) : (s.violate d v).grid = s.grid := rfl
@[simp] theorem State.violate_ext (d : Nat) (v : VlogEntry) : (s.violate d v).ext = s.ext := rfl
@[simp] theorem State.violate_clock (d : Nat) (v : VlogEntry) : (s.violate d v).clock = s.clock := rfl
@[simp] theorem State.violate_resets (d : Nat) (v : VlogEntry) : (s.violate d v).resets = s.resets := rfl
@[simp] theorem State.violate_power (d : Nat) (v : VlogEntry) : (s.violate d v).power = s.power := rfl
@[simp] theorem State.violate_boot (d : Nat) (v : VlogEntry) : (s.violate d v).boot = s.boot := rfl
@[simp] theorem State.violate_pins (d : Nat) (v : VlogEntry) : (s.violate d v).pins = s.pins := rfl
@[simp] theorem State.violate_imsic (d : Nat) (v : VlogEntry) : (s.violate d v).imsic = s.imsic := rfl
@[simp] theorem State.violate_out (d : Nat) (v : VlogEntry) : (s.violate d v).out = s.out := rfl

/-! refuseAccess: changes logs. -/

@[simp] theorem State.refuseAccess_pending (o : Origin) (x a n k : Nat) : (s.refuseAccess o x a n k).pending = s.pending :=
  rfl
@[simp] theorem State.refuseAccess_strike (o : Origin) (x a n k : Nat) : (s.refuseAccess o x a n k).strike = s.strike :=
  rfl
@[simp] theorem State.refuseAccess_running (o : Origin) (x a n k : Nat) : (s.refuseAccess o x a n k).running = s.running :=
  rfl
@[simp] theorem State.refuseAccess_heartbeat (o : Origin) (x a n k : Nat) : (s.refuseAccess o x a n k).heartbeat = s.heartbeat :=
  rfl
@[simp] theorem State.refuseAccess_aclk (o : Origin) (x a n k : Nat) : (s.refuseAccess o x a n k).aclk = s.aclk := rfl
@[simp] theorem State.refuseAccess_free (o : Origin) (x a n k : Nat) : (s.refuseAccess o x a n k).free = s.free := rfl
@[simp] theorem State.refuseAccess_cores (o : Origin) (x a n k : Nat) : (s.refuseAccess o x a n k).cores = s.cores :=
  rfl
@[simp] theorem State.refuseAccess_mem (o : Origin) (x a n k : Nat) : (s.refuseAccess o x a n k).mem = s.mem := rfl
@[simp] theorem State.refuseAccess_store (o : Origin) (x a n k : Nat) : (s.refuseAccess o x a n k).store = s.store :=
  rfl
@[simp] theorem State.refuseAccess_ge (o : Origin) (x a n k : Nat) : (s.refuseAccess o x a n k).ge = s.ge := rfl
@[simp] theorem State.refuseAccess_link (o : Origin) (x a n k : Nat) : (s.refuseAccess o x a n k).link = s.link := rfl
@[simp] theorem State.refuseAccess_grid (o : Origin) (x a n k : Nat) : (s.refuseAccess o x a n k).grid = s.grid := rfl
@[simp] theorem State.refuseAccess_ext (o : Origin) (x a n k : Nat) : (s.refuseAccess o x a n k).ext = s.ext := rfl
@[simp] theorem State.refuseAccess_clock (o : Origin) (x a n k : Nat) : (s.refuseAccess o x a n k).clock = s.clock :=
  rfl
@[simp] theorem State.refuseAccess_resets (o : Origin) (x a n k : Nat) : (s.refuseAccess o x a n k).resets = s.resets :=
  rfl
@[simp] theorem State.refuseAccess_power (o : Origin) (x a n k : Nat) : (s.refuseAccess o x a n k).power = s.power :=
  rfl
@[simp] theorem State.refuseAccess_boot (o : Origin) (x a n k : Nat) : (s.refuseAccess o x a n k).boot = s.boot := rfl
@[simp] theorem State.refuseAccess_pins (o : Origin) (x a n k : Nat) : (s.refuseAccess o x a n k).pins = s.pins := rfl
@[simp] theorem State.refuseAccess_imsic (o : Origin) (x a n k : Nat) : (s.refuseAccess o x a n k).imsic = s.imsic :=
  rfl
@[simp] theorem State.refuseAccess_out (o : Origin) (x a n k : Nat) : (s.refuseAccess o x a n k).out = s.out := rfl

/-! setVlog: changes logs. -/

@[simp] theorem State.setVlog_pending (d : Nat) (l : Vlog) : (s.setVlog d l).pending = s.pending := rfl
@[simp] theorem State.setVlog_strike (d : Nat) (l : Vlog) : (s.setVlog d l).strike = s.strike := rfl
@[simp] theorem State.setVlog_running (d : Nat) (l : Vlog) : (s.setVlog d l).running = s.running := rfl
@[simp] theorem State.setVlog_heartbeat (d : Nat) (l : Vlog) : (s.setVlog d l).heartbeat = s.heartbeat := rfl
@[simp] theorem State.setVlog_aclk (d : Nat) (l : Vlog) : (s.setVlog d l).aclk = s.aclk := rfl
@[simp] theorem State.setVlog_free (d : Nat) (l : Vlog) : (s.setVlog d l).free = s.free := rfl
@[simp] theorem State.setVlog_cores (d : Nat) (l : Vlog) : (s.setVlog d l).cores = s.cores := rfl
@[simp] theorem State.setVlog_mem (d : Nat) (l : Vlog) : (s.setVlog d l).mem = s.mem := rfl
@[simp] theorem State.setVlog_store (d : Nat) (l : Vlog) : (s.setVlog d l).store = s.store := rfl
@[simp] theorem State.setVlog_ge (d : Nat) (l : Vlog) : (s.setVlog d l).ge = s.ge := rfl
@[simp] theorem State.setVlog_link (d : Nat) (l : Vlog) : (s.setVlog d l).link = s.link := rfl
@[simp] theorem State.setVlog_grid (d : Nat) (l : Vlog) : (s.setVlog d l).grid = s.grid := rfl
@[simp] theorem State.setVlog_ext (d : Nat) (l : Vlog) : (s.setVlog d l).ext = s.ext := rfl
@[simp] theorem State.setVlog_clock (d : Nat) (l : Vlog) : (s.setVlog d l).clock = s.clock := rfl
@[simp] theorem State.setVlog_resets (d : Nat) (l : Vlog) : (s.setVlog d l).resets = s.resets := rfl
@[simp] theorem State.setVlog_power (d : Nat) (l : Vlog) : (s.setVlog d l).power = s.power := rfl
@[simp] theorem State.setVlog_boot (d : Nat) (l : Vlog) : (s.setVlog d l).boot = s.boot := rfl
@[simp] theorem State.setVlog_pins (d : Nat) (l : Vlog) : (s.setVlog d l).pins = s.pins := rfl
@[simp] theorem State.setVlog_imsic (d : Nat) (l : Vlog) : (s.setVlog d l).imsic = s.imsic := rfl
@[simp] theorem State.setVlog_out (d : Nat) (l : Vlog) : (s.setVlog d l).out = s.out := rfl

/-! respond: changes out. -/

@[simp] theorem State.respond_pending (r : Resp) : (s.respond r).pending = s.pending := rfl
@[simp] theorem State.respond_strike (r : Resp) : (s.respond r).strike = s.strike := rfl
@[simp] theorem State.respond_running (r : Resp) : (s.respond r).running = s.running := rfl
@[simp] theorem State.respond_heartbeat (r : Resp) : (s.respond r).heartbeat = s.heartbeat := rfl
@[simp] theorem State.respond_aclk (r : Resp) : (s.respond r).aclk = s.aclk := rfl
@[simp] theorem State.respond_free (r : Resp) : (s.respond r).free = s.free := rfl
@[simp] theorem State.respond_cores (r : Resp) : (s.respond r).cores = s.cores := rfl
@[simp] theorem State.respond_mem (r : Resp) : (s.respond r).mem = s.mem := rfl
@[simp] theorem State.respond_store (r : Resp) : (s.respond r).store = s.store := rfl
@[simp] theorem State.respond_ge (r : Resp) : (s.respond r).ge = s.ge := rfl
@[simp] theorem State.respond_link (r : Resp) : (s.respond r).link = s.link := rfl
@[simp] theorem State.respond_logs (r : Resp) : (s.respond r).logs = s.logs := rfl
@[simp] theorem State.respond_grid (r : Resp) : (s.respond r).grid = s.grid := rfl
@[simp] theorem State.respond_ext (r : Resp) : (s.respond r).ext = s.ext := rfl
@[simp] theorem State.respond_clock (r : Resp) : (s.respond r).clock = s.clock := rfl
@[simp] theorem State.respond_resets (r : Resp) : (s.respond r).resets = s.resets := rfl
@[simp] theorem State.respond_power (r : Resp) : (s.respond r).power = s.power := rfl
@[simp] theorem State.respond_boot (r : Resp) : (s.respond r).boot = s.boot := rfl
@[simp] theorem State.respond_pins (r : Resp) : (s.respond r).pins = s.pins := rfl
@[simp] theorem State.respond_imsic (r : Resp) : (s.respond r).imsic = s.imsic := rfl

/-! answer: changes out. -/

@[simp] theorem State.answer_pending (m : Mgmt) : (s.answer m).pending = s.pending := rfl
@[simp] theorem State.answer_strike (m : Mgmt) : (s.answer m).strike = s.strike := rfl
@[simp] theorem State.answer_running (m : Mgmt) : (s.answer m).running = s.running := rfl
@[simp] theorem State.answer_heartbeat (m : Mgmt) : (s.answer m).heartbeat = s.heartbeat := rfl
@[simp] theorem State.answer_aclk (m : Mgmt) : (s.answer m).aclk = s.aclk := rfl
@[simp] theorem State.answer_free (m : Mgmt) : (s.answer m).free = s.free := rfl
@[simp] theorem State.answer_cores (m : Mgmt) : (s.answer m).cores = s.cores := rfl
@[simp] theorem State.answer_mem (m : Mgmt) : (s.answer m).mem = s.mem := rfl
@[simp] theorem State.answer_store (m : Mgmt) : (s.answer m).store = s.store := rfl
@[simp] theorem State.answer_ge (m : Mgmt) : (s.answer m).ge = s.ge := rfl
@[simp] theorem State.answer_link (m : Mgmt) : (s.answer m).link = s.link := rfl
@[simp] theorem State.answer_logs (m : Mgmt) : (s.answer m).logs = s.logs := rfl
@[simp] theorem State.answer_grid (m : Mgmt) : (s.answer m).grid = s.grid := rfl
@[simp] theorem State.answer_ext (m : Mgmt) : (s.answer m).ext = s.ext := rfl
@[simp] theorem State.answer_clock (m : Mgmt) : (s.answer m).clock = s.clock := rfl
@[simp] theorem State.answer_resets (m : Mgmt) : (s.answer m).resets = s.resets := rfl
@[simp] theorem State.answer_power (m : Mgmt) : (s.answer m).power = s.power := rfl
@[simp] theorem State.answer_boot (m : Mgmt) : (s.answer m).boot = s.boot := rfl
@[simp] theorem State.answer_pins (m : Mgmt) : (s.answer m).pins = s.pins := rfl
@[simp] theorem State.answer_imsic (m : Mgmt) : (s.answer m).imsic = s.imsic := rfl

/-! setPort_: changes ext. -/

@[simp] theorem State.setPort_pending (m : Nat) (p : MemPort) : (s.setPort_ m p).pending = s.pending := rfl
@[simp] theorem State.setPort_strike (m : Nat) (p : MemPort) : (s.setPort_ m p).strike = s.strike := rfl
@[simp] theorem State.setPort_running (m : Nat) (p : MemPort) : (s.setPort_ m p).running = s.running := rfl
@[simp] theorem State.setPort_heartbeat (m : Nat) (p : MemPort) : (s.setPort_ m p).heartbeat = s.heartbeat := rfl
@[simp] theorem State.setPort_aclk (m : Nat) (p : MemPort) : (s.setPort_ m p).aclk = s.aclk := rfl
@[simp] theorem State.setPort_free (m : Nat) (p : MemPort) : (s.setPort_ m p).free = s.free := rfl
@[simp] theorem State.setPort_cores (m : Nat) (p : MemPort) : (s.setPort_ m p).cores = s.cores := rfl
@[simp] theorem State.setPort_mem (m : Nat) (p : MemPort) : (s.setPort_ m p).mem = s.mem := rfl
@[simp] theorem State.setPort_store (m : Nat) (p : MemPort) : (s.setPort_ m p).store = s.store := rfl
@[simp] theorem State.setPort_ge (m : Nat) (p : MemPort) : (s.setPort_ m p).ge = s.ge := rfl
@[simp] theorem State.setPort_link (m : Nat) (p : MemPort) : (s.setPort_ m p).link = s.link := rfl
@[simp] theorem State.setPort_logs (m : Nat) (p : MemPort) : (s.setPort_ m p).logs = s.logs := rfl
@[simp] theorem State.setPort_grid (m : Nat) (p : MemPort) : (s.setPort_ m p).grid = s.grid := rfl
@[simp] theorem State.setPort_clock (m : Nat) (p : MemPort) : (s.setPort_ m p).clock = s.clock := rfl
@[simp] theorem State.setPort_resets (m : Nat) (p : MemPort) : (s.setPort_ m p).resets = s.resets := rfl
@[simp] theorem State.setPort_power (m : Nat) (p : MemPort) : (s.setPort_ m p).power = s.power := rfl
@[simp] theorem State.setPort_boot (m : Nat) (p : MemPort) : (s.setPort_ m p).boot = s.boot := rfl
@[simp] theorem State.setPort_pins (m : Nat) (p : MemPort) : (s.setPort_ m p).pins = s.pins := rfl
@[simp] theorem State.setPort_imsic (m : Nat) (p : MemPort) : (s.setPort_ m p).imsic = s.imsic := rfl
@[simp] theorem State.setPort_out (m : Nat) (p : MemPort) : (s.setPort_ m p).out = s.out := rfl

/-! setChan: changes ext. -/

@[simp] theorem State.setChan_pending (c : Nat) (x : MemChannel) : (s.setChan c x).pending = s.pending := rfl
@[simp] theorem State.setChan_strike (c : Nat) (x : MemChannel) : (s.setChan c x).strike = s.strike := rfl
@[simp] theorem State.setChan_running (c : Nat) (x : MemChannel) : (s.setChan c x).running = s.running := rfl
@[simp] theorem State.setChan_heartbeat (c : Nat) (x : MemChannel) : (s.setChan c x).heartbeat = s.heartbeat := rfl
@[simp] theorem State.setChan_aclk (c : Nat) (x : MemChannel) : (s.setChan c x).aclk = s.aclk := rfl
@[simp] theorem State.setChan_free (c : Nat) (x : MemChannel) : (s.setChan c x).free = s.free := rfl
@[simp] theorem State.setChan_cores (c : Nat) (x : MemChannel) : (s.setChan c x).cores = s.cores := rfl
@[simp] theorem State.setChan_mem (c : Nat) (x : MemChannel) : (s.setChan c x).mem = s.mem := rfl
@[simp] theorem State.setChan_store (c : Nat) (x : MemChannel) : (s.setChan c x).store = s.store := rfl
@[simp] theorem State.setChan_ge (c : Nat) (x : MemChannel) : (s.setChan c x).ge = s.ge := rfl
@[simp] theorem State.setChan_link (c : Nat) (x : MemChannel) : (s.setChan c x).link = s.link := rfl
@[simp] theorem State.setChan_logs (c : Nat) (x : MemChannel) : (s.setChan c x).logs = s.logs := rfl
@[simp] theorem State.setChan_grid (c : Nat) (x : MemChannel) : (s.setChan c x).grid = s.grid := rfl
@[simp] theorem State.setChan_clock (c : Nat) (x : MemChannel) : (s.setChan c x).clock = s.clock := rfl
@[simp] theorem State.setChan_resets (c : Nat) (x : MemChannel) : (s.setChan c x).resets = s.resets := rfl
@[simp] theorem State.setChan_power (c : Nat) (x : MemChannel) : (s.setChan c x).power = s.power := rfl
@[simp] theorem State.setChan_boot (c : Nat) (x : MemChannel) : (s.setChan c x).boot = s.boot := rfl
@[simp] theorem State.setChan_pins (c : Nat) (x : MemChannel) : (s.setChan c x).pins = s.pins := rfl
@[simp] theorem State.setChan_imsic (c : Nat) (x : MemChannel) : (s.setChan c x).imsic = s.imsic := rfl
@[simp] theorem State.setChan_out (c : Nat) (x : MemChannel) : (s.setChan c x).out = s.out := rfl

/-! setCtx: changes store. -/

@[simp] theorem State.setCtx_pending (n : Nat) (c : Ctx) : (s.setCtx n c).pending = s.pending := rfl
@[simp] theorem State.setCtx_strike (n : Nat) (c : Ctx) : (s.setCtx n c).strike = s.strike := rfl
@[simp] theorem State.setCtx_running (n : Nat) (c : Ctx) : (s.setCtx n c).running = s.running := rfl
@[simp] theorem State.setCtx_heartbeat (n : Nat) (c : Ctx) : (s.setCtx n c).heartbeat = s.heartbeat := rfl
@[simp] theorem State.setCtx_aclk (n : Nat) (c : Ctx) : (s.setCtx n c).aclk = s.aclk := rfl
@[simp] theorem State.setCtx_free (n : Nat) (c : Ctx) : (s.setCtx n c).free = s.free := rfl
@[simp] theorem State.setCtx_cores (n : Nat) (c : Ctx) : (s.setCtx n c).cores = s.cores := rfl
@[simp] theorem State.setCtx_mem (n : Nat) (c : Ctx) : (s.setCtx n c).mem = s.mem := rfl
@[simp] theorem State.setCtx_ge (n : Nat) (c : Ctx) : (s.setCtx n c).ge = s.ge := rfl
@[simp] theorem State.setCtx_link (n : Nat) (c : Ctx) : (s.setCtx n c).link = s.link := rfl
@[simp] theorem State.setCtx_logs (n : Nat) (c : Ctx) : (s.setCtx n c).logs = s.logs := rfl
@[simp] theorem State.setCtx_grid (n : Nat) (c : Ctx) : (s.setCtx n c).grid = s.grid := rfl
@[simp] theorem State.setCtx_ext (n : Nat) (c : Ctx) : (s.setCtx n c).ext = s.ext := rfl
@[simp] theorem State.setCtx_clock (n : Nat) (c : Ctx) : (s.setCtx n c).clock = s.clock := rfl
@[simp] theorem State.setCtx_resets (n : Nat) (c : Ctx) : (s.setCtx n c).resets = s.resets := rfl
@[simp] theorem State.setCtx_power (n : Nat) (c : Ctx) : (s.setCtx n c).power = s.power := rfl
@[simp] theorem State.setCtx_boot (n : Nat) (c : Ctx) : (s.setCtx n c).boot = s.boot := rfl
@[simp] theorem State.setCtx_pins (n : Nat) (c : Ctx) : (s.setCtx n c).pins = s.pins := rfl
@[simp] theorem State.setCtx_imsic (n : Nat) (c : Ctx) : (s.setCtx n c).imsic = s.imsic := rfl
@[simp] theorem State.setCtx_out (n : Nat) (c : Ctx) : (s.setCtx n c).out = s.out := rfl

/-! setSq: changes ge. -/

@[simp] theorem State.setSq_pending (q : Nat) (x : Sq) : (s.setSq q x).pending = s.pending := rfl
@[simp] theorem State.setSq_strike (q : Nat) (x : Sq) : (s.setSq q x).strike = s.strike := rfl
@[simp] theorem State.setSq_running (q : Nat) (x : Sq) : (s.setSq q x).running = s.running := rfl
@[simp] theorem State.setSq_heartbeat (q : Nat) (x : Sq) : (s.setSq q x).heartbeat = s.heartbeat := rfl
@[simp] theorem State.setSq_aclk (q : Nat) (x : Sq) : (s.setSq q x).aclk = s.aclk := rfl
@[simp] theorem State.setSq_free (q : Nat) (x : Sq) : (s.setSq q x).free = s.free := rfl
@[simp] theorem State.setSq_cores (q : Nat) (x : Sq) : (s.setSq q x).cores = s.cores := rfl
@[simp] theorem State.setSq_mem (q : Nat) (x : Sq) : (s.setSq q x).mem = s.mem := rfl
@[simp] theorem State.setSq_store (q : Nat) (x : Sq) : (s.setSq q x).store = s.store := rfl
@[simp] theorem State.setSq_link (q : Nat) (x : Sq) : (s.setSq q x).link = s.link := rfl
@[simp] theorem State.setSq_logs (q : Nat) (x : Sq) : (s.setSq q x).logs = s.logs := rfl
@[simp] theorem State.setSq_grid (q : Nat) (x : Sq) : (s.setSq q x).grid = s.grid := rfl
@[simp] theorem State.setSq_ext (q : Nat) (x : Sq) : (s.setSq q x).ext = s.ext := rfl
@[simp] theorem State.setSq_clock (q : Nat) (x : Sq) : (s.setSq q x).clock = s.clock := rfl
@[simp] theorem State.setSq_resets (q : Nat) (x : Sq) : (s.setSq q x).resets = s.resets := rfl
@[simp] theorem State.setSq_power (q : Nat) (x : Sq) : (s.setSq q x).power = s.power := rfl
@[simp] theorem State.setSq_boot (q : Nat) (x : Sq) : (s.setSq q x).boot = s.boot := rfl
@[simp] theorem State.setSq_pins (q : Nat) (x : Sq) : (s.setSq q x).pins = s.pins := rfl
@[simp] theorem State.setSq_imsic (q : Nat) (x : Sq) : (s.setSq q x).imsic = s.imsic := rfl
@[simp] theorem State.setSq_out (q : Nat) (x : Sq) : (s.setSq q x).out = s.out := rfl

/-! setRegion: changes ge. -/

@[simp] theorem State.setRegion_pending (r : Nat) (x : Region) : (s.setRegion r x).pending = s.pending := rfl
@[simp] theorem State.setRegion_strike (r : Nat) (x : Region) : (s.setRegion r x).strike = s.strike := rfl
@[simp] theorem State.setRegion_running (r : Nat) (x : Region) : (s.setRegion r x).running = s.running := rfl
@[simp] theorem State.setRegion_heartbeat (r : Nat) (x : Region) : (s.setRegion r x).heartbeat = s.heartbeat := rfl
@[simp] theorem State.setRegion_aclk (r : Nat) (x : Region) : (s.setRegion r x).aclk = s.aclk := rfl
@[simp] theorem State.setRegion_free (r : Nat) (x : Region) : (s.setRegion r x).free = s.free := rfl
@[simp] theorem State.setRegion_cores (r : Nat) (x : Region) : (s.setRegion r x).cores = s.cores := rfl
@[simp] theorem State.setRegion_mem (r : Nat) (x : Region) : (s.setRegion r x).mem = s.mem := rfl
@[simp] theorem State.setRegion_store (r : Nat) (x : Region) : (s.setRegion r x).store = s.store := rfl
@[simp] theorem State.setRegion_link (r : Nat) (x : Region) : (s.setRegion r x).link = s.link := rfl
@[simp] theorem State.setRegion_logs (r : Nat) (x : Region) : (s.setRegion r x).logs = s.logs := rfl
@[simp] theorem State.setRegion_grid (r : Nat) (x : Region) : (s.setRegion r x).grid = s.grid := rfl
@[simp] theorem State.setRegion_ext (r : Nat) (x : Region) : (s.setRegion r x).ext = s.ext := rfl
@[simp] theorem State.setRegion_clock (r : Nat) (x : Region) : (s.setRegion r x).clock = s.clock := rfl
@[simp] theorem State.setRegion_resets (r : Nat) (x : Region) : (s.setRegion r x).resets = s.resets := rfl
@[simp] theorem State.setRegion_power (r : Nat) (x : Region) : (s.setRegion r x).power = s.power := rfl
@[simp] theorem State.setRegion_boot (r : Nat) (x : Region) : (s.setRegion r x).boot = s.boot := rfl
@[simp] theorem State.setRegion_pins (r : Nat) (x : Region) : (s.setRegion r x).pins = s.pins := rfl
@[simp] theorem State.setRegion_imsic (r : Nat) (x : Region) : (s.setRegion r x).imsic = s.imsic := rfl
@[simp] theorem State.setRegion_out (r : Nat) (x : Region) : (s.setRegion r x).out = s.out := rfl

/-! setLport: changes link. -/

@[simp] theorem State.setLport_pending (p : Nat) (x : Port) : (s.setLport p x).pending = s.pending := rfl
@[simp] theorem State.setLport_strike (p : Nat) (x : Port) : (s.setLport p x).strike = s.strike := rfl
@[simp] theorem State.setLport_running (p : Nat) (x : Port) : (s.setLport p x).running = s.running := rfl
@[simp] theorem State.setLport_heartbeat (p : Nat) (x : Port) : (s.setLport p x).heartbeat = s.heartbeat := rfl
@[simp] theorem State.setLport_aclk (p : Nat) (x : Port) : (s.setLport p x).aclk = s.aclk := rfl
@[simp] theorem State.setLport_free (p : Nat) (x : Port) : (s.setLport p x).free = s.free := rfl
@[simp] theorem State.setLport_cores (p : Nat) (x : Port) : (s.setLport p x).cores = s.cores := rfl
@[simp] theorem State.setLport_mem (p : Nat) (x : Port) : (s.setLport p x).mem = s.mem := rfl
@[simp] theorem State.setLport_store (p : Nat) (x : Port) : (s.setLport p x).store = s.store := rfl
@[simp] theorem State.setLport_ge (p : Nat) (x : Port) : (s.setLport p x).ge = s.ge := rfl
@[simp] theorem State.setLport_logs (p : Nat) (x : Port) : (s.setLport p x).logs = s.logs := rfl
@[simp] theorem State.setLport_grid (p : Nat) (x : Port) : (s.setLport p x).grid = s.grid := rfl
@[simp] theorem State.setLport_ext (p : Nat) (x : Port) : (s.setLport p x).ext = s.ext := rfl
@[simp] theorem State.setLport_clock (p : Nat) (x : Port) : (s.setLport p x).clock = s.clock := rfl
@[simp] theorem State.setLport_resets (p : Nat) (x : Port) : (s.setLport p x).resets = s.resets := rfl
@[simp] theorem State.setLport_power (p : Nat) (x : Port) : (s.setLport p x).power = s.power := rfl
@[simp] theorem State.setLport_boot (p : Nat) (x : Port) : (s.setLport p x).boot = s.boot := rfl
@[simp] theorem State.setLport_pins (p : Nat) (x : Port) : (s.setLport p x).pins = s.pins := rfl
@[simp] theorem State.setLport_imsic (p : Nat) (x : Port) : (s.setLport p x).imsic = s.imsic := rfl
@[simp] theorem State.setLport_out (p : Nat) (x : Port) : (s.setLport p x).out = s.out := rfl

/-! setReshard: changes link. -/

@[simp] theorem State.setReshard_pending (n : Nat) (r : Reshard) : (s.setReshard n r).pending = s.pending := rfl
@[simp] theorem State.setReshard_strike (n : Nat) (r : Reshard) : (s.setReshard n r).strike = s.strike := rfl
@[simp] theorem State.setReshard_running (n : Nat) (r : Reshard) : (s.setReshard n r).running = s.running := rfl
@[simp] theorem State.setReshard_heartbeat (n : Nat) (r : Reshard) : (s.setReshard n r).heartbeat = s.heartbeat :=
  rfl
@[simp] theorem State.setReshard_aclk (n : Nat) (r : Reshard) : (s.setReshard n r).aclk = s.aclk := rfl
@[simp] theorem State.setReshard_free (n : Nat) (r : Reshard) : (s.setReshard n r).free = s.free := rfl
@[simp] theorem State.setReshard_cores (n : Nat) (r : Reshard) : (s.setReshard n r).cores = s.cores := rfl
@[simp] theorem State.setReshard_mem (n : Nat) (r : Reshard) : (s.setReshard n r).mem = s.mem := rfl
@[simp] theorem State.setReshard_store (n : Nat) (r : Reshard) : (s.setReshard n r).store = s.store := rfl
@[simp] theorem State.setReshard_ge (n : Nat) (r : Reshard) : (s.setReshard n r).ge = s.ge := rfl
@[simp] theorem State.setReshard_logs (n : Nat) (r : Reshard) : (s.setReshard n r).logs = s.logs := rfl
@[simp] theorem State.setReshard_grid (n : Nat) (r : Reshard) : (s.setReshard n r).grid = s.grid := rfl
@[simp] theorem State.setReshard_ext (n : Nat) (r : Reshard) : (s.setReshard n r).ext = s.ext := rfl
@[simp] theorem State.setReshard_clock (n : Nat) (r : Reshard) : (s.setReshard n r).clock = s.clock := rfl
@[simp] theorem State.setReshard_resets (n : Nat) (r : Reshard) : (s.setReshard n r).resets = s.resets := rfl
@[simp] theorem State.setReshard_power (n : Nat) (r : Reshard) : (s.setReshard n r).power = s.power := rfl
@[simp] theorem State.setReshard_boot (n : Nat) (r : Reshard) : (s.setReshard n r).boot = s.boot := rfl
@[simp] theorem State.setReshard_pins (n : Nat) (r : Reshard) : (s.setReshard n r).pins = s.pins := rfl
@[simp] theorem State.setReshard_imsic (n : Nat) (r : Reshard) : (s.setReshard n r).imsic = s.imsic := rfl
@[simp] theorem State.setReshard_out (n : Nat) (r : Reshard) : (s.setReshard n r).out = s.out := rfl

/-! setNode: changes clock. -/

@[simp] theorem State.setNode_pending (k : Nat) (n : ClockNode) : (s.setNode k n).pending = s.pending := rfl
@[simp] theorem State.setNode_strike (k : Nat) (n : ClockNode) : (s.setNode k n).strike = s.strike := rfl
@[simp] theorem State.setNode_running (k : Nat) (n : ClockNode) : (s.setNode k n).running = s.running := rfl
@[simp] theorem State.setNode_heartbeat (k : Nat) (n : ClockNode) : (s.setNode k n).heartbeat = s.heartbeat := rfl
@[simp] theorem State.setNode_aclk (k : Nat) (n : ClockNode) : (s.setNode k n).aclk = s.aclk := rfl
@[simp] theorem State.setNode_free (k : Nat) (n : ClockNode) : (s.setNode k n).free = s.free := rfl
@[simp] theorem State.setNode_cores (k : Nat) (n : ClockNode) : (s.setNode k n).cores = s.cores := rfl
@[simp] theorem State.setNode_mem (k : Nat) (n : ClockNode) : (s.setNode k n).mem = s.mem := rfl
@[simp] theorem State.setNode_store (k : Nat) (n : ClockNode) : (s.setNode k n).store = s.store := rfl
@[simp] theorem State.setNode_ge (k : Nat) (n : ClockNode) : (s.setNode k n).ge = s.ge := rfl
@[simp] theorem State.setNode_link (k : Nat) (n : ClockNode) : (s.setNode k n).link = s.link := rfl
@[simp] theorem State.setNode_logs (k : Nat) (n : ClockNode) : (s.setNode k n).logs = s.logs := rfl
@[simp] theorem State.setNode_grid (k : Nat) (n : ClockNode) : (s.setNode k n).grid = s.grid := rfl
@[simp] theorem State.setNode_ext (k : Nat) (n : ClockNode) : (s.setNode k n).ext = s.ext := rfl
@[simp] theorem State.setNode_resets (k : Nat) (n : ClockNode) : (s.setNode k n).resets = s.resets := rfl
@[simp] theorem State.setNode_power (k : Nat) (n : ClockNode) : (s.setNode k n).power = s.power := rfl
@[simp] theorem State.setNode_boot (k : Nat) (n : ClockNode) : (s.setNode k n).boot = s.boot := rfl
@[simp] theorem State.setNode_pins (k : Nat) (n : ClockNode) : (s.setNode k n).pins = s.pins := rfl
@[simp] theorem State.setNode_imsic (k : Nat) (n : ClockNode) : (s.setNode k n).imsic = s.imsic := rfl
@[simp] theorem State.setNode_out (k : Nat) (n : ClockNode) : (s.setNode k n).out = s.out := rfl

/-! setDiePower: changes power. -/

@[simp] theorem State.setDiePower_pending (d : Nat) (x : DiePower) : (s.setDiePower d x).pending = s.pending := rfl
@[simp] theorem State.setDiePower_strike (d : Nat) (x : DiePower) : (s.setDiePower d x).strike = s.strike := rfl
@[simp] theorem State.setDiePower_running (d : Nat) (x : DiePower) : (s.setDiePower d x).running = s.running := rfl
@[simp] theorem State.setDiePower_heartbeat (d : Nat) (x : DiePower) : (s.setDiePower d x).heartbeat = s.heartbeat :=
  rfl
@[simp] theorem State.setDiePower_aclk (d : Nat) (x : DiePower) : (s.setDiePower d x).aclk = s.aclk := rfl
@[simp] theorem State.setDiePower_free (d : Nat) (x : DiePower) : (s.setDiePower d x).free = s.free := rfl
@[simp] theorem State.setDiePower_cores (d : Nat) (x : DiePower) : (s.setDiePower d x).cores = s.cores := rfl
@[simp] theorem State.setDiePower_mem (d : Nat) (x : DiePower) : (s.setDiePower d x).mem = s.mem := rfl
@[simp] theorem State.setDiePower_store (d : Nat) (x : DiePower) : (s.setDiePower d x).store = s.store := rfl
@[simp] theorem State.setDiePower_ge (d : Nat) (x : DiePower) : (s.setDiePower d x).ge = s.ge := rfl
@[simp] theorem State.setDiePower_link (d : Nat) (x : DiePower) : (s.setDiePower d x).link = s.link := rfl
@[simp] theorem State.setDiePower_logs (d : Nat) (x : DiePower) : (s.setDiePower d x).logs = s.logs := rfl
@[simp] theorem State.setDiePower_grid (d : Nat) (x : DiePower) : (s.setDiePower d x).grid = s.grid := rfl
@[simp] theorem State.setDiePower_ext (d : Nat) (x : DiePower) : (s.setDiePower d x).ext = s.ext := rfl
@[simp] theorem State.setDiePower_clock (d : Nat) (x : DiePower) : (s.setDiePower d x).clock = s.clock := rfl
@[simp] theorem State.setDiePower_resets (d : Nat) (x : DiePower) : (s.setDiePower d x).resets = s.resets := rfl
@[simp] theorem State.setDiePower_boot (d : Nat) (x : DiePower) : (s.setDiePower d x).boot = s.boot := rfl
@[simp] theorem State.setDiePower_pins (d : Nat) (x : DiePower) : (s.setDiePower d x).pins = s.pins := rfl
@[simp] theorem State.setDiePower_imsic (d : Nat) (x : DiePower) : (s.setDiePower d x).imsic = s.imsic := rfl
@[simp] theorem State.setDiePower_out (d : Nat) (x : DiePower) : (s.setDiePower d x).out = s.out := rfl

/-! powerEvent: changes power. -/

@[simp] theorem State.powerEvent_pending (b : Nat) : (s.powerEvent b).pending = s.pending := rfl
@[simp] theorem State.powerEvent_strike (b : Nat) : (s.powerEvent b).strike = s.strike := rfl
@[simp] theorem State.powerEvent_running (b : Nat) : (s.powerEvent b).running = s.running := rfl
@[simp] theorem State.powerEvent_heartbeat (b : Nat) : (s.powerEvent b).heartbeat = s.heartbeat := rfl
@[simp] theorem State.powerEvent_aclk (b : Nat) : (s.powerEvent b).aclk = s.aclk := rfl
@[simp] theorem State.powerEvent_free (b : Nat) : (s.powerEvent b).free = s.free := rfl
@[simp] theorem State.powerEvent_cores (b : Nat) : (s.powerEvent b).cores = s.cores := rfl
@[simp] theorem State.powerEvent_mem (b : Nat) : (s.powerEvent b).mem = s.mem := rfl
@[simp] theorem State.powerEvent_store (b : Nat) : (s.powerEvent b).store = s.store := rfl
@[simp] theorem State.powerEvent_ge (b : Nat) : (s.powerEvent b).ge = s.ge := rfl
@[simp] theorem State.powerEvent_link (b : Nat) : (s.powerEvent b).link = s.link := rfl
@[simp] theorem State.powerEvent_logs (b : Nat) : (s.powerEvent b).logs = s.logs := rfl
@[simp] theorem State.powerEvent_grid (b : Nat) : (s.powerEvent b).grid = s.grid := rfl
@[simp] theorem State.powerEvent_ext (b : Nat) : (s.powerEvent b).ext = s.ext := rfl
@[simp] theorem State.powerEvent_clock (b : Nat) : (s.powerEvent b).clock = s.clock := rfl
@[simp] theorem State.powerEvent_resets (b : Nat) : (s.powerEvent b).resets = s.resets := rfl
@[simp] theorem State.powerEvent_boot (b : Nat) : (s.powerEvent b).boot = s.boot := rfl
@[simp] theorem State.powerEvent_pins (b : Nat) : (s.powerEvent b).pins = s.pins := rfl
@[simp] theorem State.powerEvent_imsic (b : Nat) : (s.powerEvent b).imsic = s.imsic := rfl
@[simp] theorem State.powerEvent_out (b : Nat) : (s.powerEvent b).out = s.out := rfl

/-! burn: changes boot. -/

@[simp] theorem State.burn_pending (f : Fuses) : (s.burn f).pending = s.pending := rfl
@[simp] theorem State.burn_strike (f : Fuses) : (s.burn f).strike = s.strike := rfl
@[simp] theorem State.burn_running (f : Fuses) : (s.burn f).running = s.running := rfl
@[simp] theorem State.burn_heartbeat (f : Fuses) : (s.burn f).heartbeat = s.heartbeat := rfl
@[simp] theorem State.burn_aclk (f : Fuses) : (s.burn f).aclk = s.aclk := rfl
@[simp] theorem State.burn_free (f : Fuses) : (s.burn f).free = s.free := rfl
@[simp] theorem State.burn_cores (f : Fuses) : (s.burn f).cores = s.cores := rfl
@[simp] theorem State.burn_mem (f : Fuses) : (s.burn f).mem = s.mem := rfl
@[simp] theorem State.burn_store (f : Fuses) : (s.burn f).store = s.store := rfl
@[simp] theorem State.burn_ge (f : Fuses) : (s.burn f).ge = s.ge := rfl
@[simp] theorem State.burn_link (f : Fuses) : (s.burn f).link = s.link := rfl
@[simp] theorem State.burn_logs (f : Fuses) : (s.burn f).logs = s.logs := rfl
@[simp] theorem State.burn_grid (f : Fuses) : (s.burn f).grid = s.grid := rfl
@[simp] theorem State.burn_ext (f : Fuses) : (s.burn f).ext = s.ext := rfl
@[simp] theorem State.burn_clock (f : Fuses) : (s.burn f).clock = s.clock := rfl
@[simp] theorem State.burn_resets (f : Fuses) : (s.burn f).resets = s.resets := rfl
@[simp] theorem State.burn_power (f : Fuses) : (s.burn f).power = s.power := rfl
@[simp] theorem State.burn_pins (f : Fuses) : (s.burn f).pins = s.pins := rfl
@[simp] theorem State.burn_imsic (f : Fuses) : (s.burn f).imsic = s.imsic := rfl
@[simp] theorem State.burn_out (f : Fuses) : (s.burn f).out = s.out := rfl

/-! program: changes boot. -/

@[simp] theorem State.program_pending (a : Nat) (bs : List Byte) : (s.program a bs).pending = s.pending := rfl
@[simp] theorem State.program_strike (a : Nat) (bs : List Byte) : (s.program a bs).strike = s.strike := rfl
@[simp] theorem State.program_running (a : Nat) (bs : List Byte) : (s.program a bs).running = s.running := rfl
@[simp] theorem State.program_heartbeat (a : Nat) (bs : List Byte) : (s.program a bs).heartbeat = s.heartbeat := rfl
@[simp] theorem State.program_aclk (a : Nat) (bs : List Byte) : (s.program a bs).aclk = s.aclk := rfl
@[simp] theorem State.program_free (a : Nat) (bs : List Byte) : (s.program a bs).free = s.free := rfl
@[simp] theorem State.program_cores (a : Nat) (bs : List Byte) : (s.program a bs).cores = s.cores := rfl
@[simp] theorem State.program_mem (a : Nat) (bs : List Byte) : (s.program a bs).mem = s.mem := rfl
@[simp] theorem State.program_store (a : Nat) (bs : List Byte) : (s.program a bs).store = s.store := rfl
@[simp] theorem State.program_ge (a : Nat) (bs : List Byte) : (s.program a bs).ge = s.ge := rfl
@[simp] theorem State.program_link (a : Nat) (bs : List Byte) : (s.program a bs).link = s.link := rfl
@[simp] theorem State.program_logs (a : Nat) (bs : List Byte) : (s.program a bs).logs = s.logs := rfl
@[simp] theorem State.program_grid (a : Nat) (bs : List Byte) : (s.program a bs).grid = s.grid := rfl
@[simp] theorem State.program_ext (a : Nat) (bs : List Byte) : (s.program a bs).ext = s.ext := rfl
@[simp] theorem State.program_clock (a : Nat) (bs : List Byte) : (s.program a bs).clock = s.clock := rfl
@[simp] theorem State.program_resets (a : Nat) (bs : List Byte) : (s.program a bs).resets = s.resets := rfl
@[simp] theorem State.program_power (a : Nat) (bs : List Byte) : (s.program a bs).power = s.power := rfl
@[simp] theorem State.program_pins (a : Nat) (bs : List Byte) : (s.program a bs).pins = s.pins := rfl
@[simp] theorem State.program_imsic (a : Nat) (bs : List Byte) : (s.program a bs).imsic = s.imsic := rfl
@[simp] theorem State.program_out (a : Nat) (bs : List Byte) : (s.program a bs).out = s.out := rfl

/-! The records that may reach event queue 0. -/

@[simp] theorem State.toEq0_pending (r : Rec) : (s.toEq0 r).pending = s.pending := by
  unfold State.toEq0; split <;> rfl
@[simp] theorem State.toEq0_strike (r : Rec) : (s.toEq0 r).strike = s.strike := by
  unfold State.toEq0; split <;> rfl
@[simp] theorem State.toEq0_running (r : Rec) : (s.toEq0 r).running = s.running := by
  unfold State.toEq0; split <;> rfl
@[simp] theorem State.toEq0_heartbeat (r : Rec) : (s.toEq0 r).heartbeat = s.heartbeat := by
  unfold State.toEq0; split <;> rfl
@[simp] theorem State.toEq0_aclk (r : Rec) : (s.toEq0 r).aclk = s.aclk := by
  unfold State.toEq0; split <;> rfl
@[simp] theorem State.toEq0_free (r : Rec) : (s.toEq0 r).free = s.free := by
  unfold State.toEq0; split <;> rfl
@[simp] theorem State.toEq0_cores (r : Rec) : (s.toEq0 r).cores = s.cores := by
  unfold State.toEq0; split <;> rfl
@[simp] theorem State.toEq0_mem (r : Rec) : (s.toEq0 r).mem = s.mem := by
  unfold State.toEq0; split <;> rfl
@[simp] theorem State.toEq0_store (r : Rec) : (s.toEq0 r).store = s.store := by
  unfold State.toEq0; split <;> rfl
@[simp] theorem State.toEq0_ge (r : Rec) : (s.toEq0 r).ge = s.ge := by
  unfold State.toEq0; split <;> rfl
@[simp] theorem State.toEq0_link (r : Rec) : (s.toEq0 r).link = s.link := by
  unfold State.toEq0; split <;> rfl
@[simp] theorem State.toEq0_grid (r : Rec) : (s.toEq0 r).grid = s.grid := by
  unfold State.toEq0; split <;> rfl
@[simp] theorem State.toEq0_ext (r : Rec) : (s.toEq0 r).ext = s.ext := by
  unfold State.toEq0; split <;> rfl
@[simp] theorem State.toEq0_clock (r : Rec) : (s.toEq0 r).clock = s.clock := by
  unfold State.toEq0; split <;> rfl
@[simp] theorem State.toEq0_resets (r : Rec) : (s.toEq0 r).resets = s.resets := by
  unfold State.toEq0; split <;> rfl
@[simp] theorem State.toEq0_power (r : Rec) : (s.toEq0 r).power = s.power := by
  unfold State.toEq0; split <;> rfl
@[simp] theorem State.toEq0_boot (r : Rec) : (s.toEq0 r).boot = s.boot := by
  unfold State.toEq0; split <;> rfl
@[simp] theorem State.toEq0_pins (r : Rec) : (s.toEq0 r).pins = s.pins := by
  unfold State.toEq0; split <;> rfl
@[simp] theorem State.toEq0_imsic (r : Rec) : (s.toEq0 r).imsic = s.imsic := by
  unfold State.toEq0; split <;> rfl
@[simp] theorem State.toEq0_out (r : Rec) : (s.toEq0 r).out = s.out := by
  unfold State.toEq0; split <;> rfl
@[simp] theorem State.toEq0Log_pending (r : Rec) : (s.toEq0Log r).pending = s.pending := State.toEq0_pending s r
@[simp] theorem State.toEq0Log_strike (r : Rec) : (s.toEq0Log r).strike = s.strike := State.toEq0_strike s r
@[simp] theorem State.toEq0Log_running (r : Rec) : (s.toEq0Log r).running = s.running := State.toEq0_running s r
@[simp] theorem State.toEq0Log_heartbeat (r : Rec) : (s.toEq0Log r).heartbeat = s.heartbeat :=
  State.toEq0_heartbeat s r
@[simp] theorem State.toEq0Log_aclk (r : Rec) : (s.toEq0Log r).aclk = s.aclk := State.toEq0_aclk s r
@[simp] theorem State.toEq0Log_free (r : Rec) : (s.toEq0Log r).free = s.free := State.toEq0_free s r
@[simp] theorem State.toEq0Log_cores (r : Rec) : (s.toEq0Log r).cores = s.cores := State.toEq0_cores s r
@[simp] theorem State.toEq0Log_mem (r : Rec) : (s.toEq0Log r).mem = s.mem := State.toEq0_mem s r
@[simp] theorem State.toEq0Log_store (r : Rec) : (s.toEq0Log r).store = s.store := State.toEq0_store s r
@[simp] theorem State.toEq0Log_ge (r : Rec) : (s.toEq0Log r).ge = s.ge := State.toEq0_ge s r
@[simp] theorem State.toEq0Log_link (r : Rec) : (s.toEq0Log r).link = s.link := State.toEq0_link s r
@[simp] theorem State.toEq0Log_grid (r : Rec) : (s.toEq0Log r).grid = s.grid := State.toEq0_grid s r
@[simp] theorem State.toEq0Log_ext (r : Rec) : (s.toEq0Log r).ext = s.ext := State.toEq0_ext s r
@[simp] theorem State.toEq0Log_clock (r : Rec) : (s.toEq0Log r).clock = s.clock := State.toEq0_clock s r
@[simp] theorem State.toEq0Log_resets (r : Rec) : (s.toEq0Log r).resets = s.resets := State.toEq0_resets s r
@[simp] theorem State.toEq0Log_power (r : Rec) : (s.toEq0Log r).power = s.power := State.toEq0_power s r
@[simp] theorem State.toEq0Log_boot (r : Rec) : (s.toEq0Log r).boot = s.boot := State.toEq0_boot s r
@[simp] theorem State.toEq0Log_pins (r : Rec) : (s.toEq0Log r).pins = s.pins := State.toEq0_pins s r
@[simp] theorem State.toEq0Log_imsic (r : Rec) : (s.toEq0Log r).imsic = s.imsic := State.toEq0_imsic s r
@[simp] theorem State.toEq0Log_out (r : Rec) : (s.toEq0Log r).out = s.out := State.toEq0_out s r
@[simp] theorem State.repair_pending (a d w : Nat) : (s.repair a d w).pending = s.pending :=
  State.toEq0Log_pending s _
@[simp] theorem State.repair_strike (a d w : Nat) : (s.repair a d w).strike = s.strike := State.toEq0Log_strike s _
@[simp] theorem State.repair_running (a d w : Nat) : (s.repair a d w).running = s.running :=
  State.toEq0Log_running s _
@[simp] theorem State.repair_heartbeat (a d w : Nat) : (s.repair a d w).heartbeat = s.heartbeat :=
  State.toEq0Log_heartbeat s _
@[simp] theorem State.repair_aclk (a d w : Nat) : (s.repair a d w).aclk = s.aclk := State.toEq0Log_aclk s _
@[simp] theorem State.repair_free (a d w : Nat) : (s.repair a d w).free = s.free := State.toEq0Log_free s _
@[simp] theorem State.repair_cores (a d w : Nat) : (s.repair a d w).cores = s.cores := State.toEq0Log_cores s _
@[simp] theorem State.repair_mem (a d w : Nat) : (s.repair a d w).mem = s.mem := State.toEq0Log_mem s _
@[simp] theorem State.repair_store (a d w : Nat) : (s.repair a d w).store = s.store := State.toEq0Log_store s _
@[simp] theorem State.repair_ge (a d w : Nat) : (s.repair a d w).ge = s.ge := State.toEq0Log_ge s _
@[simp] theorem State.repair_link (a d w : Nat) : (s.repair a d w).link = s.link := State.toEq0Log_link s _
@[simp] theorem State.repair_grid (a d w : Nat) : (s.repair a d w).grid = s.grid := State.toEq0Log_grid s _
@[simp] theorem State.repair_ext (a d w : Nat) : (s.repair a d w).ext = s.ext := State.toEq0Log_ext s _
@[simp] theorem State.repair_clock (a d w : Nat) : (s.repair a d w).clock = s.clock := State.toEq0Log_clock s _
@[simp] theorem State.repair_resets (a d w : Nat) : (s.repair a d w).resets = s.resets := State.toEq0Log_resets s _
@[simp] theorem State.repair_power (a d w : Nat) : (s.repair a d w).power = s.power := State.toEq0Log_power s _
@[simp] theorem State.repair_boot (a d w : Nat) : (s.repair a d w).boot = s.boot := State.toEq0Log_boot s _
@[simp] theorem State.repair_pins (a d w : Nat) : (s.repair a d w).pins = s.pins := State.toEq0Log_pins s _
@[simp] theorem State.repair_imsic (a d w : Nat) : (s.repair a d w).imsic = s.imsic := State.toEq0Log_imsic s _
@[simp] theorem State.repair_out (a d w : Nat) : (s.repair a d w).out = s.out := State.toEq0Log_out s _

/-! Reading back. -/

@[simp] theorem State.core_setCore (c : Nat) (k : Core) : (s.setCore c k).core c = k :=
  Assoc.get_set_same _ _ _ _
theorem State.core_setCore_other {c j : Nat} (k : Core) (h : j ≠ c) : (s.setCore c k).core j = s.core j :=
  Assoc.get_set_other _ _ _ h
@[simp] theorem State.eq_setEq (e : Nat) (q : EventQueue) : (s.setEq e q).eq e = q :=
  Assoc.get_set_same _ _ _ _
theorem State.eq_setEq_other {e j : Nat} (q : EventQueue) (h : j ≠ e) : (s.setEq e q).eq j = s.eq j :=
  Assoc.get_set_other _ _ _ h
@[simp] theorem State.ctx_setCtx (n : Nat) (c : Ctx) : (s.setCtx n c).ctx n = c :=
  Assoc.get_set_same _ _ _ _
theorem State.ctx_setCtx_other {n j : Nat} (c : Ctx) (h : j ≠ n) : (s.setCtx n c).ctx j = s.ctx j :=
  Assoc.get_set_other _ _ _ h
@[simp] theorem State.sq_setSq (q : Nat) (x : Sq) : (s.setSq q x).sq q = x :=
  Assoc.get_set_same _ _ _ _
theorem State.sq_setSq_other {q j : Nat} (x : Sq) (h : j ≠ q) : (s.setSq q x).sq j = s.sq j :=
  Assoc.get_set_other _ _ _ h
@[simp] theorem State.region_setRegion (r : Nat) (x : Region) : (s.setRegion r x).region r = x :=
  Assoc.get_set_same _ _ _ _
theorem State.region_setRegion_other {r j : Nat} (x : Region) (h : j ≠ r) : (s.setRegion r x).region j = s.region j :=
  Assoc.get_set_other _ _ _ h
@[simp] theorem State.lport_setLport (p : Nat) (x : Port) : (s.setLport p x).lport p = x :=
  Assoc.get_set_same _ _ _ _
theorem State.lport_setLport_other {p j : Nat} (x : Port) (h : j ≠ p) : (s.setLport p x).lport j = s.lport j :=
  Assoc.get_set_other _ _ _ h
@[simp] theorem State.port__setPort_ (m : Nat) (p : MemPort) : (s.setPort_ m p).port_ m = p :=
  Assoc.get_set_same _ _ _ _
theorem State.port__setPort__other {m j : Nat} (p : MemPort) (h : j ≠ m) : (s.setPort_ m p).port_ j = s.port_ j :=
  Assoc.get_set_other _ _ _ h
@[simp] theorem State.chan_setChan (c : Nat) (x : MemChannel) : (s.setChan c x).chan c = x :=
  Assoc.get_set_same _ _ _ _
theorem State.chan_setChan_other {c j : Nat} (x : MemChannel) (h : j ≠ c) : (s.setChan c x).chan j = s.chan j :=
  Assoc.get_set_other _ _ _ h
@[simp] theorem State.vlog_setVlog (d : Nat) (l : Vlog) : (s.setVlog d l).vlog d = l :=
  Assoc.get_set_same _ _ _ _
theorem State.vlog_setVlog_other {d j : Nat} (l : Vlog) (h : j ≠ d) : (s.setVlog d l).vlog j = s.vlog j :=
  Assoc.get_set_other _ _ _ h
@[simp] theorem State.node_setNode (k : Nat) (n : ClockNode) : (s.setNode k n).node k = n :=
  Assoc.get_put_same _ _ _ _
theorem State.node_setNode_other {k j : Nat} (n : ClockNode) (h : j ≠ k) : (s.setNode k n).node j = s.node j :=
  Assoc.get_put_other _ _ _ h
@[simp] theorem State.diePower_setDiePower (d : Nat) (x : DiePower) :
    (s.setDiePower d x).diePower d = (s.diePower d).after x (s.aclk / 16) :=
  Assoc.get_put_same _ _ _ _
theorem State.diePower_setDiePower_other {d j : Nat} (x : DiePower) (h : j ≠ d) : (s.setDiePower d x).diePower j = s.diePower j :=
  Assoc.get_put_other _ _ _ h

end Sys2Proof.Machine
end

