-- ==== Sys2Proof/Laws/Memory.lean ====
section
/-! SUPPORT. Laws of memory: what a write leaves at every address, and that every memory operation keeps the
canonical form of Memory.wf. -/

namespace Sys2Proof.Machine

open Sys2Proof

/-! Reading after writing. -/

/-- A byte written reads as written, and every other byte as before. -/
theorem State.byte_setByte (s : State) (a : Nat) (b : Byte) (x : Nat) :
    (s.setByte a b).byte x = if x = a then b else s.byte x := by
  unfold State.setByte
  split
  · next ha =>
    unfold State.byte
    by_cases hx : windowBase ≤ x ∧ x < regBase
    · rw [if_pos hx, if_pos hx]
      by_cases hc : (x - windowBase) / 0x80000 = (a - windowBase) / 0x80000
      · rw [hc, State.core_setCore]
        by_cases hxa : x = a
        · subst hxa; simp [Core.lmPut, Assoc.putSpan]
        · rw [if_neg hxa]
          simp only [Core.lmPut, Assoc.putSpan]
          rw [Assoc.get_put_other]
          intro hm
          apply hxa
          have h1 := Nat.div_add_mod (x - windowBase) 0x80000
          have h2 := Nat.div_add_mod (a - windowBase) 0x80000
          omega
      · rw [State.core_setCore_other s _ hc, if_neg (fun h => hc (by rw [h]))]
    · rw [if_neg hx, if_neg hx, if_neg (fun h : x = a => hx (h ▸ ha)), State.setCore_mem]
  · next ha =>
    unfold State.byte
    by_cases hx : windowBase ≤ x ∧ x < regBase
    · rw [if_pos hx, if_pos hx, if_neg (fun h : x = a => ha (h ▸ hx))]; rfl
    · rw [if_neg hx, if_neg hx]
      exact Assoc.get_put 0 s.mem a x b

/-- After writes in order, each byte is the last one written there. -/
theorem State.byte_setBytes (ws : List (Nat × Byte)) (s : State) (x : Nat) :
    (s.setBytes ws).byte x = lastWrite ws x (s.byte x) := by
  induction ws generalizing s with
  | nil => rfl
  | cons w ws ih =>
    obtain ⟨a, b⟩ := w
    show (State.setBytes (s.setByte a b) ws).byte x = lastWrite ws x (if a = x then b else s.byte x)
    rw [ih, State.byte_setByte]
    congr 1
    by_cases h : x = a
    · simp [h]
    · simp [h, Ne.symm h]

theorem lastWrite_bytesAt (bs : List Byte) (a x : Nat) (d : Byte) :
    lastWrite (bytesAt a bs) x d = if a ≤ x ∧ x < a + bs.length then bs.getD (x - a) 0 else d := by
  induction bs generalizing a d with
  | nil => simp [bytesAt, lastWrite]
  | cons b bs ih =>
    simp only [bytesAt, lastWrite, ih, List.length_cons]
    by_cases h : a = x
    · subst h; simp
    · by_cases h1 : a + 1 ≤ x ∧ x < a + 1 + bs.length
      · rw [if_pos h1, if_pos (by omega)]
        obtain ⟨k, rfl⟩ : ∃ k, x = a + (k + 1) := ⟨x - a - 1, by omega⟩
        have e1 : a + (k + 1) - (a + 1) = k := by omega
        have e2 : a + (k + 1) - a = k + 1 := by omega
        rw [e1, e2]; rfl
      · rw [if_neg h1, if_neg h, if_neg (by omega)]

/-- Consecutive bytes written stand at their addresses, and every other byte is as before. -/
theorem State.byte_putBytes (s : State) (a : Nat) (bs : List Byte) (x : Nat) :
    (s.putBytes a bs).byte x = if a ≤ x ∧ x < a + bs.length then bs.getD (x - a) 0 else s.byte x := by
  rw [State.putBytes, State.byte_setBytes, lastWrite_bytesAt]

/-! The canonical form. -/

theorem State.wf_setByte (s : State) (a : Nat) (b : Byte) (h : Memory.wf s.mem = true) :
    Memory.wf (s.setByte a b).mem = true := by
  unfold State.setByte
  split
  · exact h
  · exact Assoc.wf_put 0 s.mem a b h

theorem State.wf_setBytes (ws : List (Nat × Byte)) (s : State) (h : Memory.wf s.mem = true) :
    Memory.wf (s.setBytes ws).mem = true := by
  induction ws generalizing s with
  | nil => exact h
  | cons w ws ih => exact ih _ (State.wf_setByte s w.1 w.2 h)

theorem State.wf_putBytes (s : State) (a : Nat) (bs : List Byte) (h : Memory.wf s.mem = true) :
    Memory.wf (s.putBytes a bs).mem = true := State.wf_setBytes _ s h

/-- A fold of updates that each leave memory leaves it. -/
theorem foldl_mem {β : Type} (f : State → β → State) (hf : ∀ s x, (f s x).mem = s.mem) (l : List β) (s : State) :
    (l.foldl f s).mem = s.mem := by
  induction l generalizing s with
  | nil => rfl
  | cons x l ih => rw [List.foldl_cons, ih, hf]

/-- A fold of updates that each keep the canonical form keeps it. -/
theorem foldl_wf {β : Type} (f : State → β → State)
    (hf : ∀ s x, Memory.wf s.mem = true → Memory.wf (f s x).mem = true) (l : List β) (s : State)
    (h : Memory.wf s.mem = true) : Memory.wf (l.foldl f s).mem = true := by
  induction l generalizing s with
  | nil => exact h
  | cons x l ih => exact ih _ (hf s x h)

theorem State.wf_extWrite (s : State) (a : Nat) (bs : List Byte) (h : Memory.wf s.mem = true) :
    Memory.wf (s.extWrite a bs).mem = true := by
  unfold State.extWrite
  apply State.wf_putBytes
  refine Eq.trans (congrArg Memory.wf ?_) h
  exact foldl_mem _ (fun s x => by dsimp only; split <;> rfl) _ s

theorem State.wf_storeWrite (s : State) (a : Nat) (bs : List Byte) (h : Memory.wf s.mem = true) :
    Memory.wf (s.storeWrite a bs).mem = true := State.wf_putBytes _ a bs h

theorem State.wf_writeRun (s : State) (a : Nat) (bs : List Byte) (h : Memory.wf s.mem = true) :
    Memory.wf (s.writeRun a bs).mem = true := by
  unfold State.writeRun
  split
  · exact State.wf_extWrite s a bs h
  · exact State.wf_storeWrite s a bs h
  · next c off _ =>
    cases hw : (s.core c).lmWrite off bs with
    | none => exact h
    | some k => exact h
  · exact State.wf_putBytes s a bs h

theorem State.wf_writeAll (s : State) (ws : List (Nat × Byte)) (h : Memory.wf s.mem = true) :
    Memory.wf (s.writeAll ws).mem = true :=
  foldl_wf (fun s (w : Nat × List Byte) => s.writeRun w.1 w.2) (fun s w h => State.wf_writeRun s w.1 w.2 h)
    (runsOf ws) s h

theorem State.wf_scramble (s : State) (a n : Nat) (h : Memory.wf s.mem = true) :
    Memory.wf (s.scramble a n).mem = true := State.wf_putBytes s a _ h

/-- A write of memory that answers keeps the canonical form. -/
theorem State.wf_memWrite (s t : State) (a : Nat) (bs : List Byte) (h : Memory.wf s.mem = true)
    (ht : s.memWrite a bs = some t) : Memory.wf t.mem = true := by
  unfold State.memWrite at ht
  split at ht
  · obtain rfl := Option.some.inj ht; exact State.wf_extWrite s a bs h
  · obtain rfl := Option.some.inj ht; exact State.wf_storeWrite s a bs h
  · obtain ⟨k, _, rfl⟩ := Option.map_eq_some_iff.mp ht; exact h
  · obtain rfl := Option.some.inj ht; exact h

theorem State.wf_zeroMemory (s : State) : Memory.wf s.zeroMemory.mem = true := rfl

theorem State.wf_resetGroup (s : State) (g : Nat) (h : Memory.wf s.mem = true) :
    Memory.wf (s.resetGroup g).mem = true := by
  unfold State.resetGroup
  apply Assoc.wf_filter
  refine Eq.trans (congrArg Memory.wf ?_) h
  exact foldl_mem (fun s d => (s.resetLogs [d]).resetNodes (nodesOf d)) (fun s x => rfl) _ s

/-- Memory after reset has the canonical form. -/
theorem State.wf_reset : Memory.wf State.reset.mem = true := rfl

/-! Reads change no memory. -/

theorem mem_ite {p : Prop} [Decidable p] {a b s : State} (ha : a.mem = s.mem) (hb : b.mem = s.mem) :
    (if p then a else b).mem = s.mem := by split <;> assumption

@[simp] theorem State.retire_mem (s : State) (c : Nat) : (s.retire c).mem = s.mem := by
  unfold State.retire; split
  · rfl
  · simp

@[simp] theorem State.weakRow_mem (s : State) (a : Nat) : (s.weakRow a).mem = s.mem := by
  unfold State.weakRow; simp [apply_ite State.mem]

@[simp] theorem State.correctBurst_mem (s : State) (b : Nat) : (s.correctBurst b).mem = s.mem := by
  unfold State.correctBurst
  refine mem_ite ((State.retire_mem _ _).trans ?_) ?_ <;> exact mem_ite (State.weakRow_mem _ _) rfl

@[simp] theorem State.poisonBurst_mem (s : State) (b : Nat) : (s.poisonBurst b).mem = s.mem := by
  unfold State.poisonBurst; simp [apply_ite State.mem]

@[simp] theorem State.readBurst_mem (s : State) (b : Nat) : (s.readBurst b).1.mem = s.mem := by
  unfold State.readBurst; split
  · rfl
  · split
    · exact State.poisonBurst_mem s b
    · split
      · exact State.correctBurst_mem s b
      · rfl

@[simp] theorem State.readBursts_mem (bs : List Nat) (s : State) : (s.readBursts bs).1.mem = s.mem := by
  induction bs generalizing s with
  | nil => rfl
  | cons b bs ih =>
    unfold State.readBursts
    have h := State.readBurst_mem s b
    split
    · next s' e => rw [e] at h; exact h
    · next s' e => rw [e] at h; rw [ih]; exact h

@[simp] theorem State.spareBank_mem (s : State) (b : Nat) : (s.spareBank b).mem = s.mem := by
  unfold State.spareBank; simp [apply_ite State.mem]

@[simp] theorem State.correctLine_mem (s : State) (l : Nat) : (s.correctLine l).mem = s.mem := by
  unfold State.correctLine; simp [apply_ite State.mem]

@[simp] theorem State.poisonLine_mem (s : State) (l : Nat) : (s.poisonLine l).mem = s.mem := by
  unfold State.poisonLine; simp

@[simp] theorem State.readLines_mem (ls : List Nat) (s : State) : (s.readLines ls).1.mem = s.mem := by
  induction ls generalizing s with
  | nil => rfl
  | cons l ls ih =>
    unfold State.readLines
    split
    · rfl
    · split
      · simp
      · rw [ih]; split <;> simp

/-- A read of memory leaves external memory and the central store. -/
@[simp] theorem State.memRead_mem (s : State) (a n : Nat) : (s.memRead a n).1.mem = s.mem := by
  unfold State.memRead
  split
  · have h := State.readBursts_mem (unitsOf 64 a n) s
    split
    · next e => rw [e] at h; exact h
    · next e => rw [e] at h; exact h
  · have h := State.readLines_mem (unitsOf 64 a n) s
    split
    · next e => rw [e] at h; exact h
    · next s1 e =>
      rw [e] at h
      unfold State.veil
      dsimp only
      split
      · exact h
      · exact h
  · split <;> rfl
  · rfl

end Sys2Proof.Machine
end

