-- ==== Sys2Proof/Laws/Ops.lean ====
section
/-! SUPPORT. What each shared operation of the machine can do, said once: the ways a command of a core, an event, a
management command, a register access, an entry and a packet can answer. -/

namespace Sys2Proof.Machine

open Sys2Proof

/-! Cores. -/

@[simp] theorem Core.stream_setStream (k : Core) (u : UnitId) (st : Stream) : (k.setStream u st).stream u = st := by
  cases u <;> rfl

theorem Core.stream_setStream_other (k : Core) {u w : UnitId} (st : Stream) (h : w ≠ u) :
    (k.setStream u st).stream w = k.stream w := by cases u <;> cases w <;> first | rfl | exact absurd rfl h

@[simp] theorem Core.setStream_lm (k : Core) (u : UnitId) (st : Stream) : (k.setStream u st).lm = k.lm := by
  cases u <;> rfl
@[simp] theorem Core.setStream_dq (k : Core) (u : UnitId) (st : Stream) : (k.setStream u st).dq = k.dq := by
  cases u <;> rfl
@[simp] theorem Core.setStream_vec (k : Core) (u : UnitId) (st : Stream) : (k.setStream u st).vec = k.vec := by
  cases u <;> rfl
@[simp] theorem Core.setStream_ope (k : Core) (u : UnitId) (st : Stream) : (k.setStream u st).ope = k.ope := by
  cases u <;> rfl
@[simp] theorem Core.setStream_task (k : Core) (u : UnitId) (st : Stream) : (k.setStream u st).task = k.task := by
  cases u <;> rfl
@[simp] theorem Core.setStream_tiles (k : Core) (u : UnitId) (st : Stream) : (k.setStream u st).tiles = k.tiles := by
  cases u <;> rfl
@[simp] theorem Core.setStream_ags (k : Core) (u : UnitId) (st : Stream) : (k.setStream u st).ags = k.ags := by
  cases u <;> rfl
@[simp] theorem Core.setStream_xfers (k : Core) (u : UnitId) (st : Stream) : (k.setStream u st).xfers = k.xfers := by
  cases u <;> rfl
@[simp] theorem Core.setStream_handles (k : Core) (u : UnitId) (st : Stream) :
    (k.setStream u st).handles = k.handles := by cases u <;> rfl

@[simp] theorem Core.reg_setReg (k : Core) (u : UnitId) (r : Fin 32) (v : Word) : (k.setReg u r v).reg u r = v := by
  simp [Core.reg, Core.setReg]

/-- Writing a register leaves every other register of both streams. -/
theorem Core.reg_setReg_other (k : Core) (u w : UnitId) (r q : Fin 32) (v : Word) (h : w ≠ u ∨ q ≠ r) :
    (k.setReg u r v).reg w q = k.reg w q := by
  unfold Core.reg Core.setReg
  by_cases hw : w = u
  · subst hw
    rw [Core.stream_setStream]
    exact Assoc.get_put_other 0 _ v (fun e => (h.resolve_left (by simp)) (Fin.ext e))
  · rw [Core.stream_setStream_other k _ hw]

/-- An instruction that issues at cycle t is its body at t. -/
theorem Core.issue_eq (k : Core) (u : UnitId) (now : Nat) (regs : List Nat) (body : Nat → CoreRes) (t : Nat)
    (hm : k.mayIssue u = true) (ht : k.issueTime u now regs = some t) : k.issue u now regs body = body t := by
  simp [Core.issue, hm, ht]

/-- One attempt to issue is nothing, a wait of the stream, or the body at the issue cycle. -/
theorem Core.issue_cases (k : Core) (u : UnitId) (now : Nat) (regs : List Nat) (body : Nat → CoreRes) :
    (k.mayIssue u = false ∧ k.issue u now regs body = .noop)
      ∨ (k.mayIssue u = true ∧ k.issueTime u now regs = none
          ∧ k.issue u now regs body = .held (k.setStream u { k.stream u with wait := .retry none }))
      ∨ ∃ t, k.mayIssue u = true ∧ k.issueTime u now regs = some t ∧ k.issue u now regs body = body t := by
  unfold Core.issue
  cases hm : k.mayIssue u
  · simp
  · cases ht : k.issueTime u now regs
    · simp [Core.stall]
    · simp

/-- An instruction sent to a stream that holds none to try again is its body where it issues. -/
theorem Core.attempt_fresh (k k' : Core) (u : UnitId) (i : Instr) (f : Core → CoreRes) (t : Nat)
    (ha : (k.stream u).again = none) (hf : f k = .ok t k') : k.attempt u i f = .ok t k' := by
  simp [Core.attempt, ha, hf]

/-- An instruction of a core whose clock runs that issues in cycle t, from a stream that holds none to try again. -/
theorem State.onInstr_ok (s : State) (c : Nat) (u : UnitId) (i : Instr) (f : Core → CoreRes) (k' : Core) (t : Nat)
    (hs : siteExists c = true) (hc : s.clockStopped c = false) (ha : ((s.core c).stream u).again = none)
    (hf : f (s.core c) = .ok t k') : s.onInstr c u i f = s.coreRes c (.ok t k') := by
  simp [State.onInstr, State.onCore, State.clocked, hs, hc, Core.attempt_fresh _ k' u i f t ha hf]

/-- The issue cycle is at or after the present, the stream's interval, and every register's ready cycle. -/
theorem Core.issueTime_le (k : Core) (u : UnitId) (now t : Nat) (regs : List Nat)
    (h : k.issueTime u now regs = some t) :
    now ≤ t ∧ (k.stream u).nextIssue ≤ t ∧ ∀ r ∈ regs, Assoc.get 0 (k.stream u).ready r ≤ t := by
  have fold : ∀ (l : List Nat) (a : Nat),
      a ≤ l.foldl (fun t r => max t (Assoc.get 0 (k.stream u).ready r)) a
        ∧ ∀ r ∈ l, Assoc.get 0 (k.stream u).ready r
            ≤ l.foldl (fun t r => max t (Assoc.get 0 (k.stream u).ready r)) a := by
    intro l
    induction l with
    | nil => intro a; simp
    | cons x l ih =>
      intro a
      obtain ⟨h1, h2⟩ := ih (max a (Assoc.get 0 (k.stream u).ready x))
      refine ⟨le_trans (le_max_left _ _) h1, fun r hr => ?_⟩
      rcases List.mem_cons.mp hr with rfl | hr
      · exact le_trans (le_max_right _ _) h1
      · exact h2 r hr
  unfold Core.issueTime at h
  dsimp only at h
  split at h
  · cases h
  · obtain rfl := Option.some.inj h
    obtain ⟨h1, h2⟩ := fold regs (max now (k.stream u).nextIssue)
    exact ⟨le_trans (le_max_left _ _) h1, le_trans (le_max_right _ _) h1, h2⟩

/-- What a command of a core answers: a fault for a site that does not exist, and else by the core's answer. -/
theorem State.onCore_cases (s : State) (c : Nat) (f : Core → CoreRes) :
    (siteExists c = false ∧ s.onCore c f = .fault .noSuchUnit)
      ∨ (siteExists c = true ∧ s.clockStopped c = true ∧ s.onCore c f = .next s)
      ∨ (siteExists c = true ∧ s.clockStopped c = false
        ∧ ((∃ t k, f (s.core c) = .ok t k ∧ s.onCore c f = .next ((s.setCore c k).at_ t))
        ∨ (∃ k, f (s.core c) = .held k ∧ s.onCore c f = .next (s.setCore c k))
        ∨ (∃ code u i k line, f (s.core c) = .exc code u i k line
            ∧ s.onCore c f = .next ((s.setCore c k).coreExc c code u i line))
        ∨ (f (s.core c) = .noop ∧ s.onCore c f = .next s)
        ∨ (f (s.core c) = .refuse ∧ s.onCore c f = .refused .toolchainRejects))) := by
  unfold State.onCore State.clocked
  cases h : siteExists c
  · simp
  · right
    cases hc : s.clockStopped c
    · refine .inr ⟨rfl, rfl, ?_⟩
      cases hf : f (s.core c) <;> simp [State.coreRes]
    · exact .inl ⟨rfl, rfl, rfl⟩

theorem State.onCore_ok (s : State) (c : Nat) (f : Core → CoreRes) (t : Nat) (k : Core)
    (hc : siteExists c = true) (hs : s.clockStopped c = false) (hf : f (s.core c) = .ok t k) :
    s.onCore c f = .next ((s.setCore c k).at_ t) := by
  simp [State.onCore, State.clocked, hc, hs, hf, State.coreRes]

theorem State.onCore_exc (s : State) (c : Nat) (f : Core → CoreRes) (code : Nat) (u : UnitId) (i : Nat) (k : Core)
    (line : Nat) (hc : siteExists c = true) (hs : s.clockStopped c = false)
    (hf : f (s.core c) = .exc code u i k line) :
    s.onCore c f = .next ((s.setCore c k).coreExc c code u i line) := by
  simp [State.onCore, State.clocked, hc, hs, hf, State.coreRes]

/-- A core replaced and the cycle count moved on is a change of that core only. -/
theorem State.onlyCore_setCore_at (s : State) (c t : Nat) (k : Core) : s.onlyCore ((s.setCore c k).at_ t) c :=
  ⟨rfl, fun _ h => State.core_setCore_other s k h⟩

/-! Events and management commands. -/

@[simp] theorem State.happens_some (s t : State) : s.happens (some t) = .next t := rfl
@[simp] theorem State.happens_none (s : State) : s.happens none = .next s := rfl

/-- An event answers a next state: what it makes, or the state as it was. -/
theorem State.happens_cases (s t : State) (o : Option State) (h : s.happens o = .next t) :
    o = some t ∨ (o = none ∧ t = s) := by
  cases o with
  | none => exact .inr ⟨rfl, (Host.Outcome.next.inj h).symm⟩
  | some x => exact .inl (congrArg some (Host.Outcome.next.inj h))

/-- A management command does its part, is refused after a fuse fault, or does nothing while SV is in reset. -/
theorem State.managed_cases (s t b : State) (h : s.managed b = .next t) :
    (s.managing = true ∧ t = b) ∨ (s.svUp = true ∧ s.statusOnly = true ∧ t = s.answer .refused)
      ∨ (s.svUp = false ∧ t = s) := by
  unfold State.managed at h
  have := Host.Outcome.next.inj h
  unfold State.managing
  cases hs : s.svUp <;> cases ho : s.statusOnly <;> simp [hs, ho] at this <;> simp [this]

theorem State.managed_up (s b : State) (h : s.managing = true) : s.managed b = .next b := by
  have ⟨h1, h2⟩ : s.svUp = true ∧ s.statusOnly = false := by simpa [State.managing] using h
  simp [State.managed, h1, h2]

/-! Accesses to registers. -/

/-- A write to an open register does its body and answers DONE. -/
theorem State.onWrite_open (s : State) (o : Origin) (a : Nat) (body : State → State) (h : s.regOpen o a true) :
    s.onWrite o a body = (body s).respond .done := by
  simp [State.onWrite, State.onReg, State.endpoint, h.1, h.2.1, h.2.2]

/-- A write to a register is turned away by the management endpoint, waits, is refused, or does its body. -/
theorem State.onWrite_cases (s : State) (o : Origin) (a : Nat) (body : State → State) :
    (s.endpointOpen o a true = false ∧ (s.onWrite o a body = s.answer .refused ∨ s.onWrite o a body = s))
      ∨ s.onWrite o a body = s.respond .waits
      ∨ (∃ e, s.accessCause o .plain a 8 true = some e ∧ s.onWrite o a body = s.refuse o e a 8 true)
      ∨ s.onWrite o a body = (body s).respond .done := by
  unfold State.onWrite State.onReg State.endpoint
  cases ho : s.endpointOpen o a true
  · exact .inl ⟨rfl, by cases s.svUp <;> simp⟩
  · right
    rw [if_pos rfl]
    split
    · exact .inl rfl
    · split
      · next e he => exact .inr (.inl ⟨e, he, rfl⟩)
      · exact .inr (.inr rfl)

/-! Entries, tasks and packets. -/

/-- A command of an entry: a fault for a queue that does not exist, and else, behind the bad entries before it,
the body's state or nothing. -/
theorem State.onEntry_cases (s : State) (q : Nat) (mine : Entry → Bool) (body : State → Entry → Option State) :
    let s0 := if (s.sq q).entries.isEmpty then s.takeEntries q else s
    let s1 := s0.dropBad q (s0.sq q).entries.length
    (¬q < 4096 ∧ s.onEntry q mine body = .fault .noSuchUnit)
      ∨ (q < 4096 ∧ ((∃ e t, s1.front q = some e ∧ mine e = true ∧ body s1 e = some t ∧ s.onEntry q mine body = .next t)
          ∨ s.onEntry q mine body = .next s1)) := by
  intro s0 s1
  have e1 : s.onEntry q mine body = if decide (q < 4096) then
      s1.happens ((s1.front q).bind (fun e => if mine e then body s1 e else none)) else .fault .noSuchUnit := rfl
  by_cases hq : q < 4096
  · right
    refine ⟨hq, ?_⟩
    rw [e1]
    simp only [hq, decide_true, if_true]
    cases hf : s1.front q with
    | none => right; rfl
    | some e =>
      cases hm : mine e with
      | false => right; simp [hm]
      | true =>
        cases hb : body s1 e with
        | none => right; simp [hm, hb]
        | some t => left; exact ⟨e, t, rfl, hm, hb, by simp [hm, hb]⟩
  · left
    exact ⟨hq, by rw [e1]; simp [hq]⟩

/-- A command of a task does its part where the task is there and may do it, and nothing otherwise. -/
theorem State.onTask_cases (s t : State) (q k : Nat) (f : Task → Option State) (h : s.onTask q k f = .next t) :
    (∃ x, s.task q k = some x ∧ f x = some t) ∨ t = s := by
  unfold State.onTask at h
  split at h
  · rcases State.happens_cases s t _ h with h | ⟨_, h⟩
    · obtain ⟨x, hx, hf⟩ := Option.bind_eq_some_iff.mp h
      exact .inl ⟨x, hx, hf⟩
    · exact .inr h
  · cases h

/-- A command of a stream's home die does its part where the die's clock runs and the stream may do it, and nothing
otherwise. -/
theorem State.onCtx_cases (s t : State) (n : Nat) (f : Ctx → Option State) (h : s.onCtx n f = .next t) :
    (s.inGap (16 + homeDie n) = false ∧ f (s.ctx n) = some t) ∨ t = s := by
  unfold State.onCtx at h
  split at h
  · rcases State.happens_cases s t _ h with h | ⟨_, h⟩
    · cases hg : s.inGap (16 + homeDie n)
      · exact .inl ⟨rfl, by simpa [hg] using h⟩
      · simp [hg] at h
    · exact .inr h
  · cases h

end Sys2Proof.Machine
end

