-- ==== Sys2Proof/Machine/ExchangeLib.lean ====
section
/-! DEFINITION. What the exchange kernels of the Rildiby library do with a bucket (R309 to R320): who sends which way,
contributions, the hop of each wire mode over the elements of a slot, wire units, scale tables, and the statistics
record. No command of the block computes them: kernels do, out of instructions. -/

namespace Sys2Proof.Machine

open Sys2Proof

/-! Who sends (R309). Ports are numbered as dirOf: 0 plus, 1 minus. -/

/-- The sends that reduce into the segment of an owner: position and port, each chain in order. -/
def reduceSends (len owner : Nat) : List (Nat × Nat) :=
  (minusChain len owner).map (fun p => (p, 0)) ++ (plusChain len owner).map (fun p => (p, 1))

/-- The sends that carry the owner's result on, position and port: the owner on both sides, forwarded up to the position
before the last of each. A side without a position carries nothing, so that each direction of a port carries L − 1
segments (DEDUCED, log 90). -/
def resultSends (len owner : Nat) : List (Nat × Nat) :=
  let a := (len - 1) / 2
  let b := len - 1 - a
  (List.range a).map (fun i => ((owner + i) % len, 0)) ++ (List.range b).map (fun i => ((owner + len - i) % len, 1))

/-! Contributions (R314). -/

/-- Every-Nth-step in BLOCK8 and ONEBIT at step t: the accumulator after it, and the contribution if the step exchanges. -/
def everyNth (n t : Nat) (acc g : Lane) : Lane × Option Lane :=
  if t % n = 0 then (0, some (fadd acc g)) else (fadd acc g, none)

/-- A block of the EXACT accumulator: its integers, the exponent code that they stand at, and what the slot that carries it
in the next pass has to count. -/
structure ExactBlock where
  ns : List Int
  x : Nat := 0
  owed : Tally := {}
  deriving DecidableEq, Repr

/-- A step of every-Nth-step in EXACT at the agreed exponent code x: each element is rescaled, and the integers of its
gradients are added. The block after it, and what it contributes if the step exchanges, with the tally of every step
since the last exchange. -/
def exactNth (n t x : Nat) (a : ExactBlock) (gs : List (List Lane)) : ExactBlock × Option (List Int × Tally) :=
  let r := (a.ns.zip gs).map (fun e =>
    let old := rescale e.1 a.x x
    let new := exactContribution x e.2
    let sum := boundedSum old.1 new.1
    (sum.1, new.2.add { sat := b2n old.2 + b2n sum.2 }))
  let ns := r.map Prod.fst
  let owed := (r.map Prod.snd).foldl Tally.add a.owed
  if t % n = 0 then ({ ns := ns.map (fun _ => 0), x := x }, some (ns, owed)) else ({ ns := ns, x := x, owed := owed }, none)

/-- The contribution of ONEBIT: the plain or every-Nth value and the error memory. -/
def onebitContribution (g e : Lane) : Lane := fadd g e

/-! Max bytes and scale tables (R311, R312). -/

/-- What a position sends of two max bytes: the larger. -/
def maxHop (own incoming : List Nat) : List Nat := (own.zip incoming).map (fun e => max e.1 e.2)

/-- The maximum of the positions of a ring, which no order changes. -/
def ringMax : List (List Nat) → List Nat
  | [] => []
  | m :: ms => ms.foldl maxHop m

/-- A scale table after a pass: the gathered bytes written from a block on. -/
def tableAfter (table : List Nat) (block : Nat) (gathered : List Nat) : List Nat :=
  table.take block ++ gathered ++ table.drop (block + gathered.length)

/-- Must a setup pass run before the next pass of a bucket? -/
def setupDue (first resharded : Bool) (nans : Nat) : Bool := first || resharded || decide (nans ≠ 0)

/-! The hop of each mode over the elements of a slot (R315 to R317). -/

/-- BLOCK8 at a position over (scale, incoming codes, contribution): the codes sent, whose deq8 every position takes as
the result, and the tally. A chain member has one incoming code, or none if it is the first. -/
def block8Hop (es : List (Nat × List Nat × Lane)) : List Nat × Tally :=
  let ks := es.map (fun e => ownerCode e.1 e.2.1 e.2.2)
  (ks.map (·.code), (ks.map Conv.tally).foldl Tally.add {})

/-- EXACT at a position, over the integers that came in and its own, and the tally of its own: the integers sent, and the
tally of the position. -/
def exactHop (own : Tally) (es : List (List Int × Int)) : List Int × Tally :=
  let rs := es.map (fun e => e.1.foldl (fun acc n =>
    let r := boundedSum acc.1 n
    (r.1, acc.2 + b2n r.2)) (e.2, 0))
  (rs.map Prod.fst, own.add { sat := (rs.map Prod.snd).foldl (· + ·) 0 })

/-- ONEBIT at a position over one block of 32 sums: the scale and sign word sent, the error memory after it, the tally. -/
def onebitHop (vs : List Lane) : Nat × Nat × List Lane × Tally :=
  let k := onebitScale vs
  (k.code, signWord vs, vs.map (errorAfter k.code), k.tally)

/-! Wire units and slots (R310). -/

/-- The bytes of a unit of each mode, from its codes, integers, or sign words and scales, and its max bytes. -/
def byteList (ns : List Nat) : List Byte := ns.map (BitVec.ofNat 8)
def block8Unit (codes maxes : List Nat) : List Byte := byteList codes ++ byteList maxes
def exactUnit (ns : List Int) (maxes : List Nat) : List Byte :=
  ns.flatMap (fun n => leBytes 4 (BitVec.ofInt 32 n).toNat) ++ byteList maxes
def onebitUnit (signs scales maxes : List Nat) : List Byte :=
  signs.flatMap (leBytes 4) ++ scales.flatMap (leBytes 2) ++ byteList maxes
def setupUnit (maxes : List Nat) : List Byte := byteList maxes

/-- A trailer (Table 6 of file 12). -/
structure Trailer where
  qsq : Lane := 0
  tally : Tally := {}
  deriving DecidableEq, Repr

/-- A slot: its units and its trailer. -/
def slotBytes (units : List (List Byte)) (t : Trailer) : List Byte :=
  units.flatten ++ trailerBytes t.qsq t.tally.sat t.tally.nans

/-- A trailer summed along the chain: what came in, in the order that the mode gives, and the position's own. -/
def Trailer.sum (own : Trailer) (incoming : List Trailer) : Trailer :=
  incoming.foldl (fun t i => { qsq := fadd t.qsq i.qsq, tally := t.tally.add i.tally }) own

/-- The order in which an owner adds the trailers of its chains: EXACT takes the minus chain's first, the others the order
in which the slots became visible (R315, R316). -/
def trailerOrder (xmode : Nat) (minus plus : List Trailer) (plusFirst : Bool) : List Trailer :=
  if xmode ≠ 1 ∧ plusFirst then plus ++ minus else minus ++ plus

/-! Modes (R318). -/

/-- How results of a mode compare across runs or ring lengths. -/
inductive Sameness where
  | identical
  | identicalUnsaturated
  | mayDiffer
  | differ
  deriving DecidableEq, Repr

/-- What a mode allows and promises (Table 7 of file 12). -/
structure ModeRules where
  everyNth : Bool
  exactAccumulator : Bool
  errorMemory : Bool
  acrossRuns : Sameness
  acrossRings : Sameness
  deriving DecidableEq, Repr

/-- Table 7 of file 12; SETUP carries no data. -/
def modeRules : Nat → Option ModeRules
  | 0 => some
    { everyNth := true, exactAccumulator := false, errorMemory := false, acrossRuns := .mayDiffer, acrossRings := .differ }
  | 1 => some
    { everyNth := true, exactAccumulator := true, errorMemory := false, acrossRuns := .identical
      acrossRings := .identicalUnsaturated }
  | 2 => some
    { everyNth := true, exactAccumulator := false, errorMemory := true, acrossRuns := .mayDiffer, acrossRings := .differ }
  | _ => none

/-! Statistics (R320). -/

/-- The readout of an exact-sum register of window base w that holds the squares of values: a NaN once an add has set
HIGH or INV (R89). -/
def squareNorm (w : Int) (vs : List Lane) : Lane :=
  let r := vs.foldl (fun (acc : BitVec 256 × Bool) v =>
    let a := exactAdd w acc.1 ((dec32 v).mul (dec32 v))
    (a.1, acc.2 || a.2.2.1 || a.2.2.2)) (0, false)
  if r.2 then 0x7FC00000 else (exactRead w r.1).1.s

/-- The squared norm of a slot's contributions. -/
def ownTrailer (w : Int) (contributions : List Lane) (t : Tally) : Trailer :=
  { qsq := squareNorm w contributions, tally := t }

/-- QSUM: the QSQ of the final trailers added in slot order. -/
def qsum : List Lane → Lane
  | [] => 0
  | q :: qs => qs.foldl fadd q

/-- A pass of a bucket as its statistics record shows it: what the job gives it, and its final trailers and results. -/
structure PassStats where
  bucket : Nat
  epoch : Nat
  step : Nat
  len : Nat
  xmode : Nat
  everyNth : Bool
  blocal : Nat
  elems : Nat
  deriving DecidableEq, Repr

/-- The saturations and NaN elements of a pass: saturating counters of 48 bits (R418). -/
def passCounter (ns : List Nat) : Counter := ns.foldl Counter.addN {}

/-- The 64 bytes of a statistics record (Table 8 of file 12). A pass with any SAT or NANS reports it there (R318). -/
def statsRecord (p : PassStats) (w : Int) (trailers : List Trailer) (results : List Lane) : List Byte :=
  leBytes 4 p.bucket ++ leBytes 4 p.epoch ++ leBytes 8 p.step ++ leBytes 2 p.len
    ++ [BitVec.ofNat 8 (p.xmode + 128 * b2n p.everyNth), 0] ++ leBytes 4 p.blocal
    ++ leBytes 4 (qsum (trailers.map (·.qsq))).toNat ++ leBytes 4 (squareNorm w results).toNat
    ++ leBytes 8 (passCounter (trailers.map (·.tally.sat))).word.toNat
    ++ leBytes 8 (passCounter (trailers.map (·.tally.nans))).word.toNat
    ++ leBytes 8 p.elems ++ leBytes 8 0

end Sys2Proof.Machine
end

