-- ==== Sys2Proof/Tests/Slice0.lean ====
section
/-! SUPPORT. The modeller's own tests: ill-formed commands are refused, the hypotheses of the statements are met
by concrete states, and a few worked values of the manual come out. -/

namespace Sys2Proof.Tests

open Sys2Proof Sys2Proof.Machine

set_option Elab.async false

/-! Well-formedness: for each check, terms that it refuses. -/

/-- No core site has ID 12,288: its die would be 12. -/
def badSite : List Instr :=
  let c := 12288
  [.li c .access 0 (.lit 0), .mov c .access 0 0, .movLcnt c .access 0 (.imm 0), .movCount c .access 0 true 0,
   .add c .access 0 0 (.imm 0), .mul c .execute 0 0 (.imm 0), .ldbind c 0 0 0, .br c .access 0,
   .brz c .access 0 0, .breq c .access 0 0 0, .loop c .access 0 0, .ld c 0 0 0 (.lit 0), .ldSigned c 0 0 0 (.lit 0),
   .st c 0 0 0 (.lit 0), .ldq c 0 0 (.lit 0) (.lit 1), .pushq c .access 0 (.imm 0), .popq c .execute 0 0, .popqDrop c .execute 0,
   .stq c 0 (.lit 0), .dqEntryPoppable c 0, .agen c .col 0 [(.imm 1, .imm 0)], .apush c .col 0, .xget c 0 0 0 0,
   .xwait c 0, .transferComplete c 0, .hwait c 0 .fill (.lit 1), .hslot c 0 0 (.lit 0), .scancel c 0, .srearm c 0 0,
   .strk c .access 0, .swait c .access (.imm 0), .swaitRel c .access 0 (.imm 0), .strikeWaitComplete c .access,
   .ward c .access 0, .endStream c .access, .popv c 0 0, .pushv c 0, .owait c 0,
   .opa c 0 .fp32 .fp32 true false (.imm 1), .accumulateAccept c, .beatEdgeEntry c, .accumulateFinal c 0,
   .tclr c 0, .tstat c 0 0, .drain c 0 .lm .fp32 .ident .none .absent none true none, .drainTake c,
   .rowOperandRead c, .drainRowSample c, .drainRowWrite c, .vld c 0 .w32, .vst c 0 .w32, .vadd c 0 0 (.vec 0),
   .vfma c 0 0 (.vec 0) 0, .vabs c 0 0, .vshl c 0 0 (.imm 0), .vcmp c .eq 0 0 (.vec 0), .vsel c 0 0 0 0,
   .vbcast c 0 (.imm 0), .vlane c 0 0 (.imm 0), .vany c 0 0, .vexp2 c 0 0, .vstat c 0, .vstatClr c 0,
   .vcvt c 0 0 .bf16, .vcvtMx c 0 0 0 .mxfp4, .vcvtBfx c 0 0 0, .vext c 0 0 .bf16, .vpadd c 0 1 2 3,
   .vpfold c 0 0 0, .xclr c 0 (.imm 0), .xadd c 0 0, .xaddp c 0 0 0, .xrd c 0 0, .xsave c 0, .xflags c 0 0,
   .coreQueueDeadlock c, .taskEnd c, .wardArrive c, .launchSlotStrike c, .coreWindowRead .operator c 0 8,
   .coreWindowWrite .operator .plain c 0 [0], .haspForward 0 c, .hpostApply 0 c, .controlParityError c,
   .coreLockout c, .recoveryTimeout (.lockout c), .fabricAccess (.core c) 0 8 none]

theorem test_wf_site : badSite.all (fun i => !i.wf) = true := by decide +kernel

/-- A compute die has 30 rows: no site lies in row 30. -/
theorem test_wf_row : (Instr.li 960 .access 0 (.lit 0)).wf = false := by decide

/-- The execute stream has registers GE0 to GE15. -/
def badReg : List Instr :=
  [.li 0 .execute 16 (.lit 0), .mov 0 .execute 0 16, .movCount 0 .execute 16 true 0, .add 0 .execute 16 0 (.imm 0),
   .sub 0 .execute 0 16 (.imm 0), .brz 0 .execute 16 0, .breq 0 .execute 0 16 0, .popq 0 .execute 16 0,
   .swaitRel 0 .execute 16 (.imm 0), .strk 0 .execute 16, .tstat 0 16 0, .vlane 0 16 0 (.imm 0), .vany 0 16 0,
   .vstat 0 16, .vcvtMx 0 0 16 0 .mxfp4, .vcvtBfx 0 0 0 16, .vextMx 0 0 0 16 .mxfp4, .xflags 0 16 0,
   .drain 0 0 .lm .fp32 .ident .none .absent (some 16) true none,
   .drain 0 0 .lm .fp32 .ident .none .absent none true (some 16)]

theorem test_wf_register : badReg.all (fun i => !i.wf) = true := by decide

/-- A scalar source of the execute stream is a register it has, or an immediate. -/
def badSource : List Instr :=
  [.movLcnt 0 .execute 0 (.reg 16), .add 0 .execute 0 0 (.reg 16), .pushq 0 .execute 3 (.reg 16),
   .swait 0 .execute (.reg 16), .opa 0 0 .fp32 .fp32 true false (.reg 16), .vadd 0 0 0 (.scalar (.reg 16)),
   .vfma 0 0 0 (.scalar (.reg 16)) 0, .vbcast 0 0 (.reg 16), .xclr 0 0 (.reg 16)]

theorem test_wf_source : badSource.all (fun i => !i.wf) = true := by decide

/-- The access stream pushes to DQ0 to DQ2 and pops DQ3; the execute stream the other way round. -/
def badQueue : List Instr :=
  [.ldq 0 3 0 (.lit 0) (.lit 1), .pushq 0 .access 3 (.imm 0), .pushq 0 .execute 0 (.imm 0), .popq 0 .access 0 0,
   .popq 0 .execute 0 3, .popqDrop 0 .access 1, .popqDrop 0 .execute 3, .popv 0 0 3]

theorem test_wf_queue : badQueue.all (fun i => !i.wf) = true := by decide

/-- An address pattern has one to four dimensions. -/
theorem test_wf_dims : (Instr.agen 0 .col 0 []).wf = false
    ∧ (Instr.agen 0 .col 0 (List.replicate 5 (.imm 1, .imm 0))).wf = false := by decide

/-- A vector shift counts by a register of the execute stream or a literal from 0 to 31. -/
theorem test_wf_shift : (Instr.vshl 0 0 0 (.imm 32)).wf = false ∧ (Instr.vrot 0 0 0 (.reg 16)).wf = false := by decide

/-- A vector store has no signed width. -/
theorem test_wf_store_width : (Instr.vst 0 0 .i16).wf = false ∧ (Instr.vst 0 0 .i8).wf = false := by decide

/-- A core window ends at its 512 KiB. -/
theorem test_wf_window : (Instr.coreWindowRead .operator 0 0x7FFFF 2).wf = false
    ∧ (Instr.coreWindowWrite .operator .plain 0 0x80000 [0]).wf = false := by decide

/-- There are 4,096 submission queues, and a task index has 20 bits. -/
def badTask : List Instr :=
  [.graph 4096, .abort 4096, .flag 4096, .reshard 4096, .streamArm 4096, .taskReady 4096 0, .copy 0 0x100000,
   .taskPlace 0 0x100000 0 0, .sqDb .operator 4096 0, .sqCfg .operator 4096 0, .resume .operator 4096 0,
   .queueDeadlock [(0, 0), (4096, 0)]]

theorem test_wf_task : badTask.all (fun i => !i.wf) = true := by decide

/-- There are 16,384 stream contexts, 64 regions, 256 event queues and 384 channels. -/
def badUnit : List Instr :=
  [.streamRequest 16384 .fetch, .slotFillPost 16384, .passStart 16384, .haspForward 16384 0, .regDef .operator 64 0,
   .regAreaBase .operator 64 0, .placeWaitExpiry 64, .eqCfg .operator 256 0, .eventRecordWrite 256,
   .channelRetire 384, .configParityScan (.eventQueue 256), .configParityScan (.queueGe 4096),
   .configParityScan (.regionHd 64)]

theorem test_wf_unit : badUnit.all (fun i => !i.wf) = true := by decide

/-- The dies of Table 2 of file 01; a compute die has no sensor of its own. -/
theorem test_wf_die : (Instr.dieLockout 12 .operator).wf = false ∧ (Instr.regLock 24).wf = false
    ∧ (Instr.thermalSensorRead (.die 3) 0).wf = false ∧ (Instr.thermalLevelStep (.die 50)).wf = false := by decide

/-- Register accesses stay in the register window, and an access carries as many bytes as it says. -/
theorem test_wf_access : (Instr.registerWrite .operator 0 0).wf = false ∧ (Instr.writeBack .operator 0 0).wf = false
    ∧ (Instr.fabricAccess .operator 0 2 (some [0])).wf = false ∧ (Instr.fabricAccess .operator 0 0 none).wf = false
    ∧ (Instr.storeCfg (.core 12288) 0 0).wf = false := by decide

/-- A block of a recovery image has 256 bytes, a frame at most 9,216. -/
theorem test_wf_block : (Instr.fwRecover [0]).wf = false ∧ (Instr.frontEndFrame 0 0 []).wf = false
    ∧ (Instr.frontEndFrame 0 0 (List.replicate 9217 0)).wf = false := by decide +kernel

/-- Well-formed commands pass. -/
theorem test_wf_accepts : (Instr.li 959 .execute 15 (.lit 0)).wf = true ∧ (Instr.taskReady 4095 0xFFFFF).wf = true
    ∧ (Instr.dieLockout 60 .operator).wf = true ∧ (Instr.vshl 0 0 0 (.imm 31)).wf = true := by decide

/-- The table gives no row bits, so no word spells a command and the queue stays as it is. -/
theorem test_decode_none : decodeTableWord 16 0 = none
    ∧ (State.reset.withFetchWord 16 0).pending = [] := by decide +kernel

/-! The hypotheses of the statements are met. Each theorem shows a state and operands that meet those of the
statement it names, clause by clause. -/

/-- The core of site 0, busy with task 0 of queue 0, with a change. -/
def busy (f : Core → Core) : State :=
  { State.reset with cores := [(0, f { task := some { q := 0, task := 0, gx := 0, gy := 0 } })] }

/-- A busy core whose access stream has GA1 = v. -/
def ga1 (v : Word) : State := busy (fun k => { k with acc := { gr := [(1, v)] } })

theorem test_hyp_ScalarAluResult :
    regOk .access 31 = true ∧ regOk .access 0 = true ∧ srcOk .access (.reg 7) = true
      ∧ (busy id).issues 0 .access [31, 0, 7] 0
      ∧ siteExists 12157 = true ∧ State.reset.siteRuns 12157 ∧ (regOk .execute 16 && regOk .execute 0 && srcOk .execute (.imm 0)) = false := by
  decide +kernel

theorem test_hyp_ScalarMoveResult : regOk .execute 15 = true ∧ (busy id).issues 0 .execute [15, 0] 0 := by
  decide +kernel

theorem test_hyp_LoopCountSet :
    srcOk .access (.imm 3) = true ∧ (busy id).issues 0 .access [lreg 3] 0 := by decide +kernel

theorem test_hyp_BranchResult :
    ([1, 0] : List (Fin 32)).all (regOk .access) = true ∧ (ga1 0).issues 0 .access [1, 0] 0
      ∧ (branchRows ((ga1 0).core 0) 0 .access 1 0 9).map (fun r => r.2.2)
          = [true, true, false, false, false, true] := by decide +kernel

/-- A core whose access stream stands at instruction 4 with the count of level 0 at n and loops ls. -/
def looping (n : BitVec 32) (ls : List LoopBody) : State :=
  busy (fun k => { k with acc := { pc := 4, lcnt := [(0, n)], lrun := [(0, n)], loops := ls } })

theorem test_hyp_LoopResult :
    (looping 1 []).siteRuns 0 ∧ bodyOk 4 4 [] = false ∧ bodyOk 4 8 [] = true
      ∧ (looping 1 []).issues 0 .access [lreg 0] 0 ∧ (looping 0 []).issues 0 .access [lreg 0] 0
      ∧ bodyOk 4 8 [{ level := 0, start := 2, stop := 20 }] = true
      ∧ (looping 1 [{ level := 0, start := 2, stop := 20 }]).issues 0 .access [lreg 0] 0
      ∧ (looping 0 [{ level := 1, start := 2, stop := 20 }]).issues 0 .access [lreg 0] 0
      ∧ bodyOk 4 8 [{ level := 1, start := 2, stop := 20 }] = true
      ∧ (looping 0 [{ level := 1, start := 2, stop := 8 }]).issues 0 .access [lreg 0] 0
      ∧ bodyOk 4 8 [{ level := 1, start := 2, stop := 8 }] = true
      ∧ Assoc.get 0 (((looping 0 [{ level := 1, start := 2, stop := 8 }]).core 0).stream .access).lrun 1 ≠ 1 := by
  decide +kernel

theorem test_hyp_LoopRunsItsCount :
    let st : Stream := { pc := 2, loops := [{ level := 0, start := 2, stop := 3 }], lrun := [(0, 1)] }
    (2 < 3) ∧ st.pc = 2 ∧ Assoc.get 0 st.lrun 0 = 1 ∧ (1 : BitVec 32) ≠ 0 := by decide +kernel

theorem test_hyp_StrikeWaits :
    (busy id).issues 0 .access [1, 0] 0 ∧ (busy id).issues 0 .execute [0] 0
      ∧ (busy id).coreStrike 0 = 0 ∧ ((0 : Word) - 0).toNat < 2 ^ 63 ∧ 2 ^ 63 ≤ ((0 : Word) - 1).toNat
      ∧ (busy id).siteRuns 0 ∧ (((busy (fun k => { k with acc := { wait := .strike 0 } })).core 0).stream .access).wait = .strike 0 := by
  decide +kernel

/-- The access stream of site 0 holds an addition that could not issue. -/
theorem test_hyp_HeldStreamRetries :
    let i : Instr := .add 0 .access 31 0 (.reg 7)
    let s := busy (fun k => { k with acc := { wait := .popReg 7 3, again := some i } })
    let k := s.core 0
    let free := k.setStream .access { k.stream .access with wait := .none, again := none }
    s.siteRuns 0 ∧ regOk .access 31 = true ∧ srcOk .access (.reg 7) = true ∧ (k.stream .access).again = some i
      ∧ free.mayIssue .access = true ∧ free.issueTime .access s.aclk [31, 0, 7] = some 0
      ∧ (k.stream .access).again ≠ some (.sub 0 .access 31 0 (.reg 7)) ∧ (k.stream .access).wait ≠ .none := by
  decide +kernel

theorem test_hyp_WardAndEndOfStream :
    (busy id).issues 0 .access [] 0 ∧ ((busy id).core 0).wardClash .access (some 63) = false
      ∧ ((busy id).core 0).wardClash .access none = false := by decide +kernel

theorem test_hyp_LoadStore :
    (ga1 0x5FFF8).issues 0 .access [0, 1] 0
      ∧ (let a := (((ga1 0x5FFF8).core 0).reg .access 1 + (0 : BitVec 32).signExtend 64).toNat
         a % 2 ^ 3 = 0 ∧ a + 2 ^ 3 ≤ 0x60000 ∧ ((ga1 0x5FFF8).core 0).uncorrectable a (2 ^ 3) = false) := by
  decide +kernel

theorem test_hyp_BadLocalAddressRaises :
    (ga1 0x60000).issues 0 .access [0, 1] 0 ∧ (ga1 1).issues 0 .access [0, 1] 0
      ∧ (let a := (((ga1 0x60000).core 0).reg .access 1 + (0 : BitVec 32).signExtend 64).toNat
         a % 2 ^ 0 = 0 ∧ 0x60000 < a + 2 ^ 0)
      ∧ (((ga1 1).core 0).reg .access 1 + (0 : BitVec 32).signExtend 64).toNat % 2 ^ 1 ≠ 0 := by decide +kernel

/-- An ldq of 16 lines of which one, or none, lies in local memory. -/
theorem test_hyp_BadLocalAddressRaises_ldq :
    let at_ := fun (v : Word) (m : Nat) =>
      let s := ga1 v
      let k := s.core 0
      let a := (k.reg .access 1 + ((k.imm (.lit 0)).truncate 32 : BitVec 32).signExtend 64).toNat
      s.issues 0 .access [0, 1] 0 ∧ (k.imm (.lit 16)).toNat ≤ 16 ∧ m < (k.imm (.lit 16)).toNat ∧ a % 64 = 0
        ∧ (m = 0 ∨ a + 64 * m ≤ 0x60000) ∧ 0x60000 < a + 64 * (m + 1) ∧ k.offQueues .execute
        ∧ k.uncorrectable a (64 * m) = false ∧ (k.queue 2).length + m < 16
    at_ 0x5FFC0 1 ∧ at_ 0x60000 0 ∧ at_ 0x8000000000000000 0 := by decide +kernel

/-- A busy core with n entries in a data queue, poppable or not. -/
def queued (q n : Nat) (b : Bool) : State :=
  busy (fun k => { k with dq := [(q, List.replicate n { data := List.replicate 64 1, poppable := b })] })

theorem test_hyp_PushResult :
    srcOk .access (.imm 1) = true ∧ pushes .access 2 = true ∧ (queued 2 15 false).issues 0 .access [] 0
      ∧ ((queued 2 15 false).core 0).offQueues .execute ∧ (((queued 2 15 false).core 0).queue 2).length + 1 ≤ 16
      ∧ pushes .execute 3 = true ∧ (queued 3 14 false).issues 0 .execute [vreg 0] 0
      ∧ ((queued 3 14 false).core 0).offQueues .access
      ∧ (((queued 3 14 false).core 0).queue 3).length + 2 ≤ 16 := by decide +kernel

theorem test_hyp_LdqResult :
    (ga1 0x5FC00).issues 0 .access [1] 0 ∧ ((ga1 0x5FC00).core 0).offQueues .execute
      ∧ (let a := (((ga1 0x5FC00).core 0).reg .access 1 + (0 : BitVec 32).signExtend 64).toNat
         a % 64 = 0 ∧ a + 64 * 16 ≤ 0x60000 ∧ ((ga1 0x5FC00).core 0).uncorrectable a (64 * 16) = false
           ∧ (((ga1 0x5FC00).core 0).queue 0).length + 16 ≤ 16) := by decide +kernel

theorem test_hyp_PopResult :
    pushes .execute 0 = false ∧ ((queued 0 2 true).core 0).offQueues .access
      ∧ ((queued 0 2 true).core 0).queue 0
          = [{ data := List.replicate 64 1, poppable := true }, { data := List.replicate 64 1, poppable := true }]
      ∧ regOk .execute 15 = true ∧ (queued 0 2 true).issues 0 .execute [15] 0
      ∧ (queued 0 2 true).issues 0 .execute [] 0 ∧ (queued 0 2 true).issues 0 .execute [vreg 31] 0 := by
  decide +kernel

theorem test_hyp_PopResult_stq :
    (queued 3 1 true).issues 0 .access [1] 0 ∧ ((queued 3 1 true).core 0).offQueues .execute
      ∧ ((queued 3 1 true).core 0).queue 3 = [{ data := List.replicate 64 1, poppable := true }]
      ∧ (let a := (((queued 3 1 true).core 0).reg .access 1 + (0x5FFC0 : BitVec 32).signExtend 64).toNat
         a % 64 = 0 ∧ a + 64 ≤ 0x60000) := by decide +kernel

theorem test_hyp_EntryPoppableAndOwait :
    (queued 0 1 false).siteRuns 0 ∧ ((queued 0 1 false).core 0).queue 0 = [] ++ [{ data := List.replicate 64 1, poppable := false }]
      ∧ ((queued 0 1 false).core 0).drainsOpen 0 = false
      ∧ ((queued 0 1 false).core 0).offQueues .access ∧ ((queued 0 1 false).core 0).offQueues .execute
      ∧ (busy id).issues 0 .execute [] 0
      ∧ ((busy id).core 0).ope.q.length + (if ((busy id).core 0).ope.held.isSome then 1 else 0) ≤ 0 := by
  decide +kernel

theorem test_hyp_PatternAddresses :
    let p : Pattern := { base := 0, dims := [(2, 64), (3, -128)] }
    [1, 2].length = p.dims.length ∧ (∀ x ∈ List.zip [1, 2] p.dims, x.1 < x.2.1) := by decide +kernel

theorem test_hyp_AddressStreamResult :
    (busy id).issues 0 .access [1] 0 ∧ ((((busy id).core 0).ag .col).settle 0).patterns.length < 2
      ∧ ((((busy id).core 0).ag .col).settle 0).fifo.length < 32
      ∧ (let ds := ([(.imm 1, .imm 0)] : List (Src × Src)).map (fun p =>
          ((((busy id).core 0).src .access p.1).toNat % 2 ^ 32,
            ((((busy id).core 0).src .access p.2).truncate 32 : BitVec 32).toInt))
         ∀ d ∈ ds, d.1 ≠ 0) := by decide +kernel

/-- A busy core in which GA1, GA2, GA3 hold a local address, a fabric address and a length. -/
def transferring (l f n : Word) : State :=
  busy (fun k => { k with acc := { gr := [(1, l), (2, f), (3, n)] } })

theorem test_hyp_TransferIssue :
    (transferring 0x5F000 0x40 4096).issues 0 .access [1, 2, 3] 0
      ∧ 0 ∉ Assoc.keys ((transferring 0x5F000 0x40 4096).core 0).xfers
      ∧ 4096 % 64 = 0 ∧ 0x5F000 % 64 = 0 ∧ 0x5F000 + 4096 ≤ 0x60000 ∧ 0x40 % 64 = 0
      ∧ (transferring 0 0 0).issues 0 .access [1, 2, 3] 0 := by decide +kernel

theorem test_hyp_TransferWaits :
    (busy id).issues 0 .access [] 0
      ∧ (busy (fun k => { k with xfers := [(7, { kind := .get, lm := 0, far := 0, len := 64, instr := 0 })] })).issues
          0 .access [] 0 := by decide +kernel

/-- Every domain is on. -/
def powered (s : State) : State := { s with power := { state := 0xFFFFF, req := 0xFFFFF } }

/-- A busy core with an xget of 64 bytes from a fabric address under tag 0. -/
def getting (far : Word) : State :=
  powered (busy (fun k => { k with xfers := [(0, { kind := .get, lm := 0, far := far, len := 64, instr := 5 })] }))

/-- A task record with nothing in it, of a kind. -/
def bare (k : TaskKind) : TaskRec :=
  { kind := k, ctrl := 0, gangW := 1, gangH := 1, split := 1, gidx := 16, pidx := 16, grect := 16, launchMode := 0,
    pinX := 0, pinY := 0, a := 0, b := 0, c := 0, d := 0, launch := 0, preds := [], flags := [], cutCap := 0,
    user := 0, badImage := false }

/-- A task of a kind and status with a change. -/
def aTask (k : TaskKind) (st : TStatus) (f : Task → Task) : Task := f { info := bare k, status := st }

/-- Queue 0 runs, with a graph of these tasks. -/
def graphed (s : State) (ts : List (Nat × Task)) : State :=
  let g : Graph := { entry := 0, tag := 0, base := 0, epoch := 0, user := 0, count := ts.length, tasks := ts }
  { s with ge := { s.ge with sqs := [(0, { enable := true, depth := 4, state := .running, graph := some g })] } }

/-- Task 0 runs on site 0, task 1 runs elsewhere. -/
def running (s : State) : State :=
  graphed s [(0, aTask .kernel .running (fun x => { x with cores := [0] })), (1, aTask .kernel .running id)]

/-- Region 0 with a recovery area of four pages. -/
def withArea (s : State) : State :=
  { s with ge := { s.ge with
      regions := [(0, { def_ := 0xC000000000000FFF, areaBase := storeBase, areaSize := 4 })] } }

/-- The rectangle of the one core of its gang. -/
theorem test_hyp_TransferIssue_multicast :
    let s := running (transferring 0x5F000 0 4096)
    s.issues 0 .access [1, 2, 3] 0 ∧ s.multicastOk 0 ((s.core 0).reg .access 2).toNat = true := by decide +kernel

theorem test_hyp_TransferEnds :
    siteExists 0 = true ∧ (getting 64).transferAsked 0 0 = false
      ∧ ((getting 64).core 0).xfers.find? (fun e => e.1 == 0)
          = some (0, { kind := .get, lm := 0, far := 64, len := 64, instr := 5 })
      ∧ (getting 64).accessCause (.core 0) (.mesh 0) 64 64 false = none
      ∧ (getting 64).accessWaits 64 64 false = false
      ∧ (getting 64).readBursts (unitsOf 64 64 64) = (getting 64, none) := by decide +kernel

/-- An xput of 64 bytes to external memory by a task whose region's area has room for its journal record. -/
theorem test_hyp_TransferEnds_put :
    let x : Transfer := { kind := .put, lm := 0, far := 64, len := 64, instr := 5 }
    let s := withArea (running (powered (busy (fun k => { k with xfers := [(0, x)] }))))
    let ws := bytesAt 64 ((s.core 0).lmBytes 0 64)
    s.transferAsked 0 0 = false ∧ (s.core 0).xfers.find? (fun e => e.1 == 0) = some (0, x) ∧ 64 + 64 ≤ extEnd
      ∧ s.accessCause (.core 0) (.mesh 0) 64 64 true = none ∧ s.accessWaits 64 64 true = false
      ∧ (s.core 0).lmErr = [] ∧ s.siteTask 0 = some (0, 0) ∧ s.writeFault 0 0 ws = none
      ∧ (match s.journal 0 0 (granulesOf ws) with | .ok _ => true | _ => false) = true := by decide +kernel

theorem test_hyp_TransferEnds_error :
    let s := running (getting 0xF00000000000)
    s.transferAsked 0 0 = false ∧ (s.core 0).xfers.find? (fun e => e.1 == 0)
        = some (0, { kind := .get, lm := 0, far := 0xF00000000000, len := 64, instr := 5 })
      ∧ s.accessCause (.core 0) (.mesh 0) 0xF00000000000 64 false = some 0x30
      ∧ s.siteTask 0 = some (0, 0) ∧ (s.task 0 0).map (fun y => y.status) = some .running
      ∧ s.journalLost 0 0 = false := by decide +kernel

/-- 72 bytes of a stream context image with fields (offset, size, value). -/
def ctxImage (fs : List (Nat × Nat × Nat)) : List Byte :=
  (List.range 72).map (fun i => ((fs.find? (fun f => decide (f.1 ≤ i ∧ i < f.1 + f.2.1))).map
    (fun f => BitVec.ofNat 8 (f.2.2 / 256 ^ (i - f.1)))).getD 0)

/-- A FETCH into a core ring of two slots of 64 bytes at 0x1000. -/
def fetchImage : List Byte :=
  ctxImage [(0, 1, 1), (1, 1, 8), (0x10, 8, 0x1000), (0x2C, 4, 64), (0x32, 2, 2), (0x34, 4, 1), (0x38, 4, 1)]

/-- A core with a stream in binding slot 0 of context 5, and hasp counts. -/
def handled (image : List Byte) (members : List Nat) (h : Handle) : State :=
  { busy (fun k => { k with
      bind := [(0, 0x1000), (1, 64), (2, 2), (3, 5)], kinds := [(0, 3)], handles := [(0, h)] }) with
    store := { ctxs := [(5, { image := image, state := .active, members := members, started := true
                              hasp := members.map (fun _ => { fill := 2 }), srcHasp := { free := 2 } })] } }

theorem test_hyp_HaspWait :
    let s := handled fetchImage [0] { copy := 2 }
    s.issues 0 .access [] 0 ∧ (s.core 0).isHandle 0 = true ∧ s.inbound 0 0 = true
      ∧ 2 ≤ (s.core 0).slots 0 ∧ 2 ≤ ((s.core 0).handle 0).copy
      ∧ ((handled fetchImage [0] { copy := 1 }).core 0 |>.handle 0).copy < 2 := by decide +kernel

theorem test_hyp_HaspPost :
    let s := handled fetchImage [0] { held := 2 }
    s.issues 0 .access [] 0 ∧ (s.core 0).isHandle 0 = true ∧ s.inbound 0 0 = true ∧ s.inGap (16 + homeDie 5) = false
      ∧ 2 ≤ (s.core 0).slots 0 ∧ 2 ≤ ((s.core 0).handle 0).held
      ∧ (let t : State := { s with store := { s.store with hposts := [{ ctx := 5, core := 0, k := .free, cnt := 2 }] } }
         t.store.hposts.find? (fun p => p.ctx == 5 && p.core == 0)
           = some { ctx := 5, core := 0, k := .free, cnt := 2 }) := by decide +kernel

theorem test_hyp_HandleControl :
    let s := handled (ctxImage [(0, 1, 1), (1, 1, 8), (2, 1, 1), (0x2C, 4, 64)]) [0] {}
    s.issues 0 .access [31] 0 ∧ s.issues 0 .access [] 0 ∧ (s.core 0).isHandle 0 = true ∧ 1 < (s.core 0).slots 0
      ∧ (s.ctx ((s.core 0).ctxOf 0)).persist = true ∧ ((s.core 0).reg .access 31).toNat % 64 = 0
      ∧ (s.core 0).handlesOf 5 = [0] ∧ (s.core 0).acc.wait = .none ∧ s.inGap (16 + homeDie 5) = false := by
  decide +kernel

/-! The outer-product engine. -/

/-- An accumulate of BF16 pairs into tile 0. -/
def anAcc : Acc := { ord := 0, tile := 0, ct := .bf16, rt := .bf16, init := true, comp := false, k := 1, instr := 0 }

theorem test_hyp_AccumulateIssue :
    srcOk .execute (.imm 1) = true ∧ (busy id).issues 0 .execute [] 0
      ∧ (pairing .bf16 .bf16).isSome = true ∧ pairing .fp32 .int8 = none
      ∧ ((busy id).core 0).ope.places 0 < 2
      ∧ (let s := busy (fun k => { k with ope := { q := [anAcc, anAcc] } })
         s.issues 0 .execute [] 0 ∧ 2 ≤ (s.core 0).ope.places 0)
      ∧ (let s := busy (fun k => { k with ope := { q := [anAcc], freeAt := 9 } })
         s.issues 0 .execute [] 0 ∧ 2 ≤ (s.core 0).ope.places 0)
      ∧ (let s := busy (fun k => { k with ope := { q := [anAcc], held := some anAcc } })
         s.siteRuns 0 ∧ (s.core 0).ope.held = some anAcc ∧ (s.core 0).ope.q.length < 2) := by decide +kernel

theorem test_hyp_RankOneStep :
    (List.replicate 32 Fl.nan).length = 32 := by decide

theorem test_hyp_BeatResult :
    let s := busy (fun k => { k with
      slotOrd := 0, ope := { q := [anAcc], group := 1 }, ags := [(0, { fifo := [0] }), (1, { fifo := [0x1000] })] })
    let k := s.core 0
    s.siteRuns 0 ∧ k.writes = [] ∧ anAcc.pair.steps = 1 ∧ k.ope.q = [anAcc] ∧ k.slot = none ∧ isMx anAcc.ct = false
      ∧ (∃ e, k.edgeFrom s.aclk anAcc = some e ∧ 2 ≤ e ∧ k.ope.begun e = false
          ∧ ((k.ag .col).settle (e - 3)).fifo = [0] ∧ ((k.ag .row).settle (e - 3)).fifo = [0x1000])
      ∧ k.openDrain 0 0 = none ∧ k.ope.drains = [] ∧ k.exe.wait = .none
      ∧ operandCheck .bf16 .bf16 0 = none ∧ operandCheck .bf16 .bf16 0x1000 = none ∧ k.lmErr = [] := by
  and_intros
  all_goals first | exact ⟨3, by decide +kernel⟩ | decide +kernel

theorem test_hyp_TileClearStatusFinal :
    ((busy id).core 0).ope.tileOps = [] ∧ (∀ o, ((busy id).core 0).tileBusy 3 o = false)
      ∧ (busy id).issues 0 .execute [] 0 ∧ regOk .execute 15 = true ∧ (busy id).issues 0 .execute [15] 0
      ∧ 15 ∉ ((busy id).core 0).exe.busy ∧ (busy (fun k => { k with ope := { filling := [anAcc] } })).siteRuns 0
      ∧ ((busy (fun k => { k with ope := { filling := [anAcc] } })).core 0).ope.filling = [anAcc] :=
  by and_intros <;> first | exact fun _ => rfl | decide +kernel

/-- A drain of tile 0 to local memory as binary32. -/
def aDrain : Drain :=
  { ord := 1, tile := 0, dst := .lm, ot := .fp32, fn := .ident, comb := .none, op := .absent, alpha := 0x3F800000,
    clr := true, flags := none, instr := 0, int := false }

theorem test_hyp_DrainIssueAndTake :
    (busy id).issues 0 .execute [] 0
      ∧ drainOk (((busy id).core 0).tile 0).nextInt .fp32 .ident .none .absent 0x3F800000 = true
      ∧ drainOk (((busy id).core 0).tile 0).nextInt .mhi .ident .none .absent 0x3F800000 = false
      ∧ (let s := busy (fun k => { k with ope := { heldDrain := some aDrain }, ags := [(3, { fifo := [0x2000] })] })
         let k := s.core 0
         let fifo := ((k.ag .drain).settle s.aclk).fifo
         s.siteRuns 0 ∧ k.ope.heldDrain = some aDrain ∧ (k.ope.drains.filter (fun x => decide (x.sampled < 32))).length < 2
           ∧ aDrain.addrCount ≤ fifo.length
           ∧ drainCheck (aDrain.withAddrs (fifo.take aDrain.addrCount)).2 = none)
      ∧ (let d := { aDrain with op := .row .fp32, opBase := 0x3000, comb := .bias }
         let k := (busy (fun k => { k with ope := { drains := [d] } })).core 0
         k.ope.drains.find? Drain.needsRow = some d ∧ k.drainAhead d.ord d.opBase.toNat (opSpan d.op) = false
           ∧ k.lmErr = []) := by decide +kernel

theorem test_hyp_DrainRows :
    let s := busy (fun k => { k with ope := { drains := [aDrain] } })
    let k := s.core 0
    s.siteRuns 0 ∧ k.ope.drains = [aDrain] ∧ k.lmErr = [] ∧ aDrain.sampled < 31 ∧ aDrain.op = .absent
      ∧ aDrain.shadow = none ∧ k.nextWrite = none ∧ (k.sampleAt aDrain).isSome = true := by decide +kernel

/-- The last row, with the flags reported. -/
theorem test_hyp_DrainRows_last :
    let d : Drain := { aDrain with sampled := 31, flags := some 15 }
    let k := (busy (fun k => { k with ope := { drains := [d] } })).core 0
    k.ope.drains = [d] ∧ d.sampled = 31 ∧ d.shadow = none ∧ k.nextWrite = none ∧ (k.sampleAt d).isSome = true
      ∧ d.flags = some 15 ∧ k.ope.tileOps = [] ∧ k.ope.reportsAhead d = false := by decide +kernel

/-- A row that waits to be written, with no beat to come. -/
theorem test_hyp_DrainRows_write :
    let d : Drain := { aDrain with sampled := 31, written := 30, rows := [(List.replicate 128 0, 0, 0)] }
    let s := busy (fun k => { k with ope := { drains := [d] } })
    d.dst = .lm ∧ d.rows = (List.replicate 128 0, 0, 0) :: [] ∧ isMx d.ot = false ∧ d.written < 31
      ∧ (s.core 0).ope.drains = [d]
      ∧ s.readsFirst 0 ((s.core 0).ope.bankFree (linesOf (d.dstBase.toNat + d.written * 128) 128) d.latency) = false := by
  decide +kernel

/-- The last row waits to be written and reports the flags: to local memory, with the word already taken or not, and to
a port whose ring has no free slot. -/
theorem test_hyp_DrainRows_report :
    let d : Drain := { aDrain with sampled := 32, written := 31, rows := [(List.replicate 128 0, 0, 0)], flags := some 15 }
    let s := fun (d : Drain) => { graphed (busy (fun k => { k with ope := { drains := [d] } }))
        [(0, aTask .kernel .running (fun x => { x with cores := [0], streams := [(9, 16)] }))] with
      store := { ctxs := [(9, { image := ctxImage [(0, 1, 2), (0x28, 4, 128), (0x30, 2, 1)] })] } }
    let p := { d with dst := .port }
    (s d).siteRuns 0 ∧ ((s d).core 0).ope.drains = [d] ∧ ((s d).core 0).lmErr = [] ∧ d.written = 31
      ∧ d.rows = [(List.replicate 128 0, 0, 0)] ∧ d.flags = some 15 ∧ isMx d.ot = false ∧ d.kept = none
      ∧ ({ d with kept := some 2 } : Drain).kept.isSome = true
      ∧ (s d).readsFirst 0 (((s d).core 0).ope.bankFree (linesOf (d.dstBase.toNat + 31 * 128) 128) d.latency) = false
      ∧ (s p).siteRuns 0 ∧ ((s p).core 0).ope.drains = [p] ∧ (s p).drainTarget 0 = some 9
      ∧ ((s p).ctx 9).portRoom = 0 := by decide +kernel

/-! The vector engine. -/

theorem test_hyp_VectorBinaryResult :
    vsrcOk (.scalar (.reg 15)) = true ∧ (busy id).vissues 0 [vreg 31, vreg 0, 15] 0
      ∧ (busy id).siteRuns 0 ∧ vsrcOk (.scalar (.reg 16)) = false := by decide +kernel

theorem test_hyp_VectorUnaryResult :
    (busy id).vissues 0 [vreg 31, vreg 0] 0 ∧ shiftOk (.imm 31) = true ∧ shiftOk (.reg 15) = true
      ∧ (busy id).vissues 0 (vreg 31 :: vreg 0 :: srcRegs (.reg 15)) 0 ∧ srcOk .execute (.reg 15) = true
      ∧ (busy id).vissues 0 (vreg 31 :: srcRegs (.reg 15)) 0
      ∧ (busy id).vissues 0 [vreg 31, vreg 1, vreg 2, vreg 3] 0 := by decide +kernel

theorem test_hyp_VectorAddAndFma :
    vsrcOk (.vec 0) = true ∧ (busy id).vissues 0 (vreg 1 :: vreg 2 :: vsrcRegs (.vec 0)) 0
      ∧ (busy id).vissues 0 (vreg 1 :: vreg 2 :: vreg 3 :: vsrcRegs (.vec 0)) 0 := by decide +kernel

theorem test_hyp_VectorToScalar :
    ((15 : Fin 32).val < 16) ∧ shiftOk (.imm 31) = true ∧ (busy id).vissues 0 (15 :: vreg 0 :: srcRegs (.imm 31)) 0
      ∧ (busy id).vissues 0 [15, xreg 7] 0 ∧ (busy id).issues 0 .execute [15] 0 := by decide +kernel

/-- A core with one address in VLOAD and one in VSTORE. -/
def vaddr (l s : Word) : State := busy (fun k => { k with ags := [(4, { fifo := [l] }), (5, { fifo := [s] })] })

theorem test_hyp_VectorLoadStore :
    let s := vaddr 0x5FBC0 0x5FF80
    let k := s.core 0
    k.lmErr = [] ∧ k.ope.drains = [] ∧ k.writes = [] ∧ ((k.ag .vload).settle 0).fifo = [0x5FBC0]
      ∧ ((k.ag .vstore).settle 0).fifo = [0x5FF80] ∧ s.vissues 0 [vreg 31] 0 ∧ s.vissues 0 [xreg 7] 0
      ∧ 0x5FBC0 + 1088 ≤ 0x60000 ∧ 0x5FBC0 % 64 = 0 ∧ 0x5FF80 % 64 = 0 ∧ 0x5FF80 + 128 ≤ 0x60000
      ∧ (k.vx 31).length = 32 ∧ (xsOfImage (k.lmBytes 0x5FBC0 1088)).w = (k.xs 7).w
      ∧ (((vaddr 0 0x40).core 0).ag .vstore).fifo = [0x40] ∧ 0x40 + 1088 ≤ 0x60000 := by decide +kernel

theorem test_hyp_VectorConvertResult :
    ((15 : Fin 32).val < 16) ∧ (busy id).vissues 0 [vreg 1, vreg 2] 0 ∧ isMx .mxint8 = true
      ∧ (busy id).vissues 0 [vreg 1, 15, vreg 2] 0 ∧ (busy id).vissues 0 [vreg 1, vreg 2, 15] 0
      ∧ (((busy id).core 0).reg .execute 15).toNat % 256 ≠ 255 := by decide +kernel

theorem test_hyp_BadConversionRaises :
    let s := busy (fun k => { k with exe := { gr := [(15, 255)] } })
    s.vissues 0 [vreg 1, vreg 2] 0 ∧ isMx .bfx32 = false ∧ s.vissues 0 [vreg 1, 15, vreg 2] 0
      ∧ s.vissues 0 [vreg 1, vreg 2, 15] 0 ∧ ((s.core 0).reg .execute 15).toNat % 256 = 255
      ∧ EType.mhi ∉ [EType.e4m3, .e5m2, .bf16, .fp16, .int8, .int32]
      ∧ EType.int32 ∉ [EType.e4m3, .e5m2, .int8, .bf16, .fp16, .mhi] := by decide +kernel

theorem test_hyp_NarrowFloatsRoundTrip :
    (decodeEl .e5m2 0x7B).isNan = false ∧ (decodeEl .e5m2 0x7B).isInf = false := by decide +kernel

theorem test_hyp_ExactSumOrderFree :
    List.Perm [Fl.fin false 1 0, .fin true 3 (-2), .nan] [.nan, .fin false 1 0, .fin true 3 (-2)] ∧ 0 < 4 := by decide

theorem test_hyp_ExactSumInstructions :
    srcOk .execute (.imm 127) = true ∧ (busy id).vissues 0 (xreg 7 :: srcRegs (.imm 127)) 0
      ∧ ((127 : BitVec 64).truncate 16 : BitVec 16).toInt = 127
      ∧ 127 < ((128 : BitVec 64).truncate 16 : BitVec 16).toInt
      ∧ ((busy id).core 0 |>.xs 7).terms + 1 < 2 ^ 55 ∧ (busy id).vissues 0 [xreg 7, vreg 0] 0
      ∧ (busy id).vissues 0 [xreg 7, vreg 0, vreg 1] 0 ∧ (busy id).vissues 0 [vreg 0, xreg 7] 0
      ∧ (busy id).vissues 0 [vreg 0, vreg 1, xreg 7] 0 ∧ (0 : Fin 32) ≠ 1 := by decide +kernel

theorem test_hyp_PartialInstructions :
    (0 : Fin 32) ≠ 1 ∧ (busy id).vissues 0 [vreg 0, vreg 1, vreg 2, vreg 3] 0
      ∧ (busy id).vissues 0 [vreg 4, vreg 0, vreg 1] 0 := by decide +kernel

/-! Events of a core, MOVE tasks and streams. -/

theorem test_hyp_CoreDeadlockAndSlot :
    let blocked := fun (k : Core) => { k with acc := { wait := .popReg 0 3 }, exe := { wait := .popReg 0 0 } }
    (busy blocked).siteRuns 0 ∧ ((busy blocked).core 0).queueDeadlock = some .access
      ∧ ((busy id).core 0).queueDeadlock = none
      ∧ (((busy (fun k => { k with acc := { ended := true }, ope := { q := [anAcc] } })).core 0).underrun).isSome = true
      ∧ (let s := busy (fun k => { k with slot := some 0 })
         (s.core 0).slot = some 0 ∧ s.coreStrike 0 = 0 ∧ ((0 : Word) - 0).toNat < 2 ^ 63) := by decide +kernel

theorem test_hyp_CoreExceptionFreesCore :
    let s := running (busy id)
    s.siteTask 0 = some (0, 0) ∧ (∃ g x, s.graph 0 = some g ∧ s.task 0 0 = some x ∧ x.status = .running
        ∧ x.cores = [0] ∧ x.info.streams = [] ∧ (g.tasks.map Prod.fst).Nodup
        ∧ ∃ e ∈ g.tasks, e.1 ≠ 0 ∧ e.2.status = .running)
      ∧ s.ge.journal = [] ∧ s.store.ctxs = [] ∧ (s.sq 0).cutWait = none ∧ 7 ≠ 6 := by
  refine ⟨by decide +kernel, ⟨_, _, rfl, rfl, rfl, rfl, ?_⟩, ?_⟩ <;> decide +kernel

theorem test_hyp_TaskEndResult :
    let s := running (busy (fun k => { k with acc := { ended := true }, exe := { ended := true } }))
    siteExists 0 = true ∧ (s.core 0).task = some { q := 0, task := 0, gx := 0, gy := 0 } ∧ (s.core 0).finished = true
      ∧ (s.task 0 0).map (fun x => x.done) = some [] := by decide +kernel

theorem test_hyp_WardArrivalAndRelease :
    let s := running (busy (fun k => { k with acc := { wait := .ward 63 }, exe := { wait := .ward 63 } }))
    (s.core 0).acc.wait = .ward 63 ∧ (s.core 0).exe.wait = .ward 63 ∧ (s.core 0).quiet = true
      ∧ (s.core 0).arrived = false ∧ (s.task 0 0).isSome = true
      ∧ (let t := graphed { busy id with strike := 1 }
          [(0, aTask .kernel .running (fun x => { x with cores := [0], arrived := [0] }))]
         (t.task 0 0).map (fun x => (x.status, x.cores, x.arrived.length, x.cores.Nodup))
             = some (.running, [0], 1, True) ∧ (t.strike - ((t.task 0 0).map (fun x => x.arrivedAt)).getD 0 - 1).toNat < 2 ^ 63) :=
  by and_intros <;> first | (simp [State.task, State.graph, graphed, Graph.task, State.sq, aTask, Assoc.get]; done) | decide +kernel

/-- The clock of row 0 of die 0 runs. -/
def clocked (s : State) : State := { s with grid := { s.grid with ungated := [(0, 0)] } }

theorem test_hyp_CoreWindowAccess :
    let s := clocked (powered State.reset)
    siteExists 0 = true ∧ Origin.helm 0 ≠ .operator ∧ 0x5FFFF + ([1] : List Byte).length ≤ 0x60000 ∧ s.dieInReset (dieOfCore 0) = false
      ∧ (s.core 0).lmErr = [] ∧ s.undoHeld (0x200000000000 + 0x5FFF8) 8 = false
      ∧ s.accessCause (.helm 0) .plain (0x200000000000 + 0x5FFF8) 8 false = none
      ∧ s.accessCause (.core 5) .plain (0x200000000000 + 0x5FFFF) 8 false = some 0x32
      ∧ s.accessCause (.helm 0) .plain (0x200000000000 + 0x5FFFF) 8 false = none
      ∧ s.accessCause (.helm 0) (s.useOf 0 .plain) (0x200000000000 + 0x5FFF8) 8 true = none
      ∧ (let b := clocked (powered (busy id))
         b.accessCause (.helm 0) (b.useOf 0 .plain) 0x200000000000 8 true = some 0x33) := by decide +kernel

/-- 64 bytes of a tensor descriptor of INT32 or another type. -/
def descBytes (base etype rank : Nat) (dims strides : List Nat) : List Byte :=
  leBytes 8 (base + etype * 2 ^ 48 + rank * 2 ^ 56) ++ dims.flatMap (leBytes 4) ++ strides.flatMap (leBytes 4)
    ++ List.replicate 12 0

/-- Memory with descriptors at 0x1000, 0x1040 and 0x1080, and one ready MOVE task of an operation. -/
def moving (op : Nat) (a b c : List Byte) (perm : Nat) : State :=
  graphed ((powered State.reset).putBytes 0x1000 (a ++ b ++ c))
    [(0, aTask .move .ready (fun x => { x with info := { x.info with
      a := 0x1000, b := 0x1040, c := 0x1080, d := op + 16 + 256 * perm } }))]

/-- Two rows of two elements at a base. -/
def twoRows (base etype : Nat) : List Byte := descBytes base etype 2 [2, 2, 1, 1, 1, 1] [1, 0, 0, 0, 0]
def oneRow (base etype n : Nat) : List Byte := descBytes base etype 1 [n, 1, 1, 1, 1, 1] [0, 0, 0, 0, 0]

/-- The premises of the statement on MOVE operations, computed: task and descriptors, no finding, no wait, the
reads sound, and, but for SCATTER_ACC, the writes in external memory and in the journal. -/
def moveMeets (s : State) (op : MoveOp) : Bool :=
  match s.task 0 0 with
  | none => false
  | some x =>
    match s.moveDescs x.info with
    | (s', .ok m) =>
      decide (s' = s) && !(x.info.descSpans.any (fun r => s.accessWaits r.1 r.2 false))
        && decide (s.store.requests = []) && (worst (m.findings s.byte s.places)).isNone && !m.nothing && m.op == some op
        && !((m.reads s.byte).any (fun r => s.accessWaits r.1 r.2 false))
        && decide (s.moverReads (m.reads s.byte) = (s, none))
        && (op == .scatter ||
          match m.apply s.byte with
          | .ok r => r.writes.all (fun w => decide (w.1 < extEnd)) && !(r.writes.any (fun w => s.accessWaits w.1 1 true))
              && (s.writeFault 0 0 r.writes).isNone && (match s.journal 0 0 (granulesOf r.writes) with | .ok _ => true | _ => false)
          | .error _ => false)
    | _ => false

theorem test_hyp_MoveOperationResult_copy :
    moveMeets (withArea (moving 1 (twoRows 0x2000 (etypeCode .fp32)) (twoRows 0x3000 (etypeCode .fp32)) [] 0)) .copy
      = true := by decide +kernel

theorem test_hyp_MoveOperationResult_permute :
    moveMeets (withArea (moving 2 (twoRows 0x2000 (etypeCode .fp32)) (twoRows 0x3000 (etypeCode .fp32)) [] 0o543201))
      .permute = true := by decide +kernel

theorem test_hyp_MoveOperationResult_gather :
    moveMeets (withArea (moving 3 (twoRows 0x2000 (etypeCode .fp32)) (twoRows 0x3000 (etypeCode .fp32))
      (oneRow 0x4000 (etypeCode .int32) 2) 0)) .gather = true := by decide +kernel

theorem test_hyp_MoveOperationResult_scatter :
    moveMeets (withArea (moving 4 (twoRows 0x2000 (etypeCode .fp32)) (twoRows 0x3000 (etypeCode .fp32))
      (oneRow 0x4000 (etypeCode .int32) 2) 0)) .scatter = true := by decide +kernel

/-- A stream between two store rings of two slots of 64 bytes. -/
def storeRings : List Byte :=
  ctxImage [(0, 1, 3), (1, 1, 5), (0x08, 8, 0x100000001000), (0x10, 8, 0x100000002000), (0x28, 4, 64), (0x2C, 4, 64),
    (0x30, 2, 2), (0x32, 2, 2), (0x34, 4, 1), (0x38, 4, 1)]

/-- Context 8 moves between store rings, with a change. -/
def ringed (f : Ctx → Ctx) : State :=
  { powered State.reset with store := { ctxs :=
      [(8, f { image := storeRings, state := .active, hasp := [{ free := 2 }], srcHasp := { fill := 1, free := 1 } })] } }

theorem test_hyp_StoreConfigWrite :
    let s := powered State.reset
    let b := ringed id
    s.regOpen (.helm 0) (storeCfgAddr 7) true ∧ b.regOpen (.helm 0) (storeCfgAddr 7) true
      ∧ (let v := (1000 * 2 ^ 40 + 100 * 2 ^ 24 + 1 * 2 ^ 8 + 32 : Nat)
         1000 ≤ v / 2 ^ 40 ∧ 100 ≤ v / 2 ^ 24 % 2 ^ 16 ∧ 1 ≤ v / 2 ^ 8 % 2 ^ 16 ∧ v % 2 ^ 6 ≤ 32
           ∧ v % 2 ^ 6 ≠ b.store.pool)
      ∧ s.busyCtxs = [] ∧ b.busyCtxs ≠ [] ∧ 0 / 2 ^ 40 < 1000 := by decide +kernel

/-- The request of context 8's piece in a direction. -/
def ringReq (dir : PieceDir) : Request :=
  { die := 0, queue := .engine, kind := .piece 8 dir 0 64, t := 0, d := 0, addr := 0 }
def asked (s : State) (r : Request) : State := { s with store := { s.store with requests := [r] } }

theorem test_hyp_StreamRequestEntered :
    let s := ringed id
    let t := ringed (fun c => { c with staged := List.replicate 64 1 })
    s.inGap 16 = false ∧ (s.ctx 8).persist = false ∧ s.fetchPiece (s.ctx 8) = some (0, 64) ∧ (s.ctx 8).stagedLen + 64 ≤ (s.ctx 8).capacity
      ∧ s.pieceAsked 8 .fetch = false ∧ (t.ctx 8).deliverPiece = some (0, 64) ∧ t.pieceAsked 8 .deliver = false := by
  decide +kernel

theorem test_hyp_GrantMovesPiece :
    let s := asked (ringed id) (ringReq .fetch)
    bestRequest (s.store.requests.filter (fun r => r.die == 0 && r.queue == .engine)) = some (ringReq .fetch)
      ∧ s.store.poison = [] ∧ s.store.bad = [] ∧ s.store.weak = [] ∧ s.inGap 16 = false ∧ s.ge.regions ≠ []
      ∧ (let a := ringPlace (s.ctx 8).src (s.ctx 8).srcSlot (s.ctx 8).srcSlots 0
         s.accessWaits a 64 false = false ∧ ∀ i, i < 64 → s.inArea (a + i) = false) ∧ (s.ctx 8).srcEnd = 1
      ∧ s.fetchPiece (s.ctx 8) = some (0, 64) ∧ (s.ctx 8).ahead = none ∧ (s.ctx 8).stagedLen + 64 ≤ (s.ctx 8).capacity
      ∧ s.target (ringPlace (s.ctx 8).src (s.ctx 8).srcSlot (s.ctx 8).srcSlots 0) = .store
      ∧ (∀ x ∈ s.store.requests, (x.d - 0).toNat < 2 ^ 62) := by decide +kernel

theorem test_hyp_GrantMovesPiece_deliver :
    let s := asked (ringed (fun c => { c with staged := List.replicate 64 1, pos := 64 })) (ringReq .deliver)
    bestRequest (s.store.requests.filter (fun r => r.die == 0 && r.queue == .engine)) = some (ringReq .deliver)
      ∧ (s.ctx 8).kind = 3 ∧ (s.ctx 8).srcEnd ≠ 3 ∧ (s.ctx 8).snkEnd = 1 ∧ (s.ctx 8).deliverPiece = some (0, 64)
      ∧ 64 ≤ (s.ctx 8).staged.length
      ∧ (let a := ringPlace (s.ctx 8).snk (s.ctx 8).snkSlot (s.ctx 8).snkSlots 0
         a + 64 ≤ windowBase ∧ s.accessWaits a 64 true = false)
      ∧ (s.dropRequest (ringReq .deliver)).pieceAsked 8 .deliver = false ∧ s.ownerTask (s.ctx 8) = none := by
  decide +kernel

/-- The stream's owner runs; the journal of its region has room for the granule written. -/
theorem test_hyp_GrantMovesPiece_owned :
    let s := withArea (graphed (asked (ringed (fun c => { c with staged := List.replicate 64 1, pos := 64, owner := some (0, 0) }))
      (ringReq .deliver)) [(0, aTask .kernel .running id)])
    let ws := bytesAt 0x100000002000 (List.replicate 64 1)
    (s.ownerTask (s.ctx 8)).map (fun o => (o.1, o.2.1)) = some (0, 0) ∧ s.writeFault 0 0 ws = none
      ∧ (match s.journal 0 0 (granulesOf ws) with | .ok _ => true | _ => false) = true := by decide +kernel

theorem test_hyp_BorrowAndPosts :
    let b : Borrow := { ctx := 8, t := 0, d := 0 }
    bestBorrow ([b].filter (fun b => homeDie b.ctx == 0)) = some b ∧ 0 < (ringed id).remainder 0
      ∧ (ringed id).inGap 16 = false
      ∧ (let c := (ringed (fun c => { c with delivered := 64 })).ctx 8; c.fillDue = true ∧ c.early = [])
      ∧ ((ringed (fun c => { c with pos := 64, delivered := 64 })).ctx 8).freeDue = true
      ∧ ((ringed (fun c => { c with pos := 64 })).ctx 8).freeDue = false := by decide +kernel

/-- A persistent stream between store rings, between passes. -/
def persistent (f : Ctx → Ctx) : State :=
  ringed (fun c => f { c with
    image := storeRings.set 2 1, state := .passEnd, nextBase := some 0x100000003000 })

/-- A ready KERNEL task whose binding slot 0 names a context. -/
def binder (s : State) (ctx : Nat) : State :=
  graphed s [(0, aTask .kernel .ready (fun x => { x with info := { x.info with binds := [(3, ctx * 2 ^ 48)] } }))]

theorem test_hyp_PassStartAndArming :
    (let s := binder (persistent id) 8
     s.inGap 16 = false ∧ s.passHeld (s.ctx 8) = false ∧ s.passFree (s.ctx 8) = true ∧ s.nextOwner 8 = some (0, 0)
       ∧ (s.ctx 8).kind = 3)
      ∧ (let s := graphed State.reset [(0, aTask .kernel .ready id)]
         ∃ x, s.task 0 0 = some x ∧ x.info.kind = .kernel ∧ x.status = .ready ∧ x.armed = false
           ∧ s.armHeld x = false ∧ s.armSlots 0 0 x.info.streams = (s, true, none)) :=
  ⟨by decide +kernel, ⟨_, rfl, rfl, rfl, rfl, by decide +kernel, by decide +kernel⟩⟩

/-- A persistent FETCH of a tensor of 16 elements into a core ring, with this descriptor latched; a ready task names
it, and task 0 has it where it runs. -/
def refetching (desc : List Byte) (f : Ctx → Ctx) : State :=
    let image := ctxImage [(0, 1, 1), (1, 1, 8), (2, 1, 1), (8, 8, 0x1000), (0x10, 8, 0x1000), (0x2C, 4, 64), (0x32, 2, 2),
      (0x34, 4, 1), (0x38, 4, 1)]
    let task := fun (st : TStatus) => aTask .kernel st (fun x => { x with info := { x.info with
      binds := [(3, 8 * 2 ^ 48)] } })
    { graphed (powered State.reset) [(0, task .running), (1, task .ready)] with store := { ctxs := [(8, f
      { image := image, desc := desc, state := .active, owner := some (0, 0), started := true, pos := 64
        members := [0] })] } }

theorem test_hyp_PassStartAndArming_ahead :
    let s := refetching (oneRow 0x4000 (etypeCode .fp32) 16) id
    let c := s.ctx 8
    let a : Ahead := { owner := (0, 1), ownerEntry := s.graphEntry 0, base := none, rearmed := false, by_ := none }
    s.inGap 16 = false ∧ s.passHeld c = false ∧ s.passFree c = false ∧ s.aheadFree 8 = true
      ∧ s.nextOwner 8 = some (0, 1) ∧ c.ahead = none ∧ c.nextBase = none ∧ c.passBase = none ∧ c.rearmBy = none
      ∧ (let t := s.setCtx 8 { c with ahead := some a }
         (t.checkCtx { c with ahead := some a }).2 = none ∧ (t.checkCtx { c with ahead := some a }).1 = t) := by
  decide +kernel

/-- The first pass of the same stream, with a sound descriptor and with one of no element type. -/
theorem test_hyp_PassStartAndArming_checked :
    let at_ := fun (desc : List Byte) => refetching desc (fun c => { c with state := .passEnd, owner := none, pos := 0 })
    let begun := fun (s : State) => s.setCtx 8 (Ctx.rewound { s.ctx 8 with
      owner := some (0, 1), ownerEntry := s.graphEntry 0 } .armed)
    let good := at_ (oneRow 0x4000 (etypeCode .fp32) 16)
    let bad := at_ (oneRow 0x4000 0xEE 16)
    good.passFree (good.ctx 8) = true ∧ good.nextOwner 8 = some (0, 1) ∧ (good.ctx 8).kind = 1
      ∧ bad.passFree (bad.ctx 8) = true ∧ bad.nextOwner 8 = some (0, 1) ∧ bad.passHeld (bad.ctx 8) = false
      ∧ (begun good).checkCtx ((begun good).ctx 8) = (begun good, none)
      ∧ ((begun bad).checkCtx ((begun bad).ctx 8)).2.isSome = true := by decide +kernel

theorem test_hyp_StreamStallReported :
    let s := graphed (ringed (fun c => { c with owner := some (0, 0), blocked := some 0 }))
      [(0, aTask .kernel .running id)]
    s.stallSet 0 0 = [8] ∧ (0, 0) ∉ s.store.stalled ∧ (s.ctx 8).blocked = some 0 ∧ (s.strike - 0).toNat < 2 ^ 63 := by
  decide +kernel

/-! Submission queues, graphs and tasks. -/

/-- 64 bytes of a submission entry: OP, arguments. -/
def entryRaw (op a0 a1 a2 : Nat) : List Byte :=
  leBytes 8 op ++ leBytes 8 a0 ++ leBytes 8 a1 ++ leBytes 8 a2 ++ List.replicate 32 0
def entryOf (op a0 a1 a2 : Nat) : Entry := { no := 0, raw := entryRaw op a0 a1 a2 }

/-- Queue 0 runs with one entry read, no graph. -/
def entered (s : State) (op a0 a1 a2 : Nat) : State :=
  { s with ge := { s.ge with sqs := [(0, { enable := true, depth := 4, head := 1, tail := 1, state := .running
                                           entries := [entryOf op a0 a1 a2] })] } }

/-- The last with a roll-back of granule 16 that waited. -/
theorem test_hyp_StrikeAndHeartbeat :
    State.reset.running = true ∧ State.reset.dieInReset 60 = false ∧ State.reset.ge.undo = [] ∧ State.reset.boot.loading = false
      ∧ ({ State.reset with running := false } : State).running = false
      ∧ (let j : Journal := { region := 0, q := 0, task := 0, granule := 16, prior := List.replicate 256 1 }
         let s := powered State.reset
         let u : State := { s with ge := { s.ge with undo := [j] } }
         u.running = true ∧ u.ge.undo = [j] ∧ u.boot.loading = false ∧ j.prior.length = 256
           ∧ 256 * j.granule + 256 ≤ extEnd ∧ s.ge.undo = [] ∧ s.accessWaits (256 * j.granule) 256 true = false
           ∧ s.runFault j.q j.task (256 * j.granule) j.prior = none) := by decide +kernel

theorem test_hyp_DoorbellResult :
    let s := { powered State.reset with ge := { sqs := [(0, { enable := true, depth := 16, state := .running })] } }
    let r := { powered State.reset with ge := { sqs := [(0, { enable := true, depth := 1, state := .running })] } }
    s.regOpen (.helm 0) (sqDbAddr 0) true ∧ (s.sq 0).enable = true ∧ r.ext.weak = [] ∧ r.ext.bad = []
      ∧ r.store.weak = [] ∧ r.store.bad = [] ∧ r.regOpen (.helm 0) (sqDbAddr 0) true
      ∧ ((2 : BitVec 32) - BitVec.ofNat 32 (r.sq 0).head).toNat ≤ 2 ^ (r.sq 0).depth
      ∧ (∀ i, i < 2 → r.accessWaits ((r.sq 0).base + i % 2 ^ (r.sq 0).depth * 64) 64 false = false)
      ∧ ((65536 : BitVec 32) - BitVec.ofNat 32 (s.sq 0).head).toNat ≤ 2 ^ (s.sq 0).depth
      ∧ 2 ^ (s.sq 0).depth < ((65537 : BitVec 32) - BitVec.ofNat 32 (s.sq 0).head).toNat
      ∧ (s.sq 4095).enable = false ∧ s.regOpen (.helm 0) (sqDbAddr 4095) true := by decide +kernel

theorem test_hyp_FlagEntryResult :
    let s := entered State.reset 5 (3 * 2 ^ 16 + 0xFFFF) 7 0
    s.front 0 = some (entryOf 5 (3 * 2 ^ 16 + 0xFFFF) 7 0) ∧ (entryOf 5 (3 * 2 ^ 16 + 0xFFFF) 7 0).bad = false
      ∧ (entryOf 5 (3 * 2 ^ 16 + 0xFFFF) 7 0).op = 5 := by decide +kernel

/-- A graph header without a task fails the header checks. -/
theorem test_hyp_GraphEntryResult_rejected :
    let s := entered (withArea (powered State.reset)) 1 0x1000 0 0
    s.front 0 = some (entryOf 1 0x1000 0 0) ∧ s.readsWait (s.graphSpans 0x1000) = false
      ∧ (s.region (s.sq 0).region).areaSize ≠ 0
      ∧ (let z := entered (powered State.reset) 1 0x1000 0 0
         z.readsWait (z.graphSpans 0x1000) = false
           ∧ (match z.readGraph 0 (entryOf 1 0x1000 0 0) with | (s1, _) => decide (s1.sq 0 = z.sq 0)) = true)
      ∧ ((entered (powered State.reset) 1 0x1000 0 0).region 0).areaSize = 0 ∧ (entryOf 1 0x1000 0 0).bad = false
      ∧ (match s.readGraph 0 (entryOf 1 0x1000 0 0) with
         | (s1, .error _) => decide (s1.sq 0 = s.sq 0)
         | _ => false) = true := by decide +kernel

theorem test_hyp_StreamEntryResult :
    let e := entryOf 3 (8 * 2 ^ 16 + 2) 0x100000003000 0
    let r := entryOf 3 (8 * 2 ^ 16 + 3) 0 0
    (entered (persistent id) 3 (8 * 2 ^ 16 + 2) 0x100000003000 0).front 0 = some e ∧ e.bad = false ∧ e.op = 3
      ∧ e.streamCmd = 2 ∧ ((persistent id).ctx 8).persist = true ∧ r.bad = false ∧ r.streamCmd = 3
      ∧ ((persistent id).ctx 8).state = .passEnd ∧ ((persistent id).ctx 8).staged = []
      ∧ (let s := graphed (persistent (fun c => { c with state := .active, owner := some (0, 0) }))
          [(0, aTask .kernel .running id)]
         (s.ctx 8).state = .active ∧ (s.ownerTask (s.ctx 8)).isSome = true ∧ (s.sq 0).release = none)
      ∧ (let s := entered (persistent id) 3 (8 * 2 ^ 16 + 3) 0 0
         let t : State := { s with ge := { s.ge with sqs := [(0, { s.sq 0 with release := some 8 })] } }
         t.front 0 = some r ∧ (t.sq 0).release = some 8 ∧ (t.ctx 8).releasing = false) := by decide +kernel

theorem test_hyp_StreamEntryResult_arm :
    let image := storeRings.set 2 1
    let s := entered ((powered State.reset).putBytes 0x1000 image) 3 (8 * 2 ^ 16 + 1) 0x1000 0
    let e := entryOf 3 (8 * 2 ^ 16 + 1) 0x1000 0
    let c := armed (s.ctx 8) image none 0
    s.front 0 = some e ∧ e.bad = false ∧ e.streamCmd = 1 ∧ s.armWaits 0x1000 = false ∧ s.geRead (s.hostDie 0) (e.arg 1) 72 = (s, .ok image)
      ∧ (s.ctx 8).state = .idle ∧ c.persist = true ∧ c.kind = 3 ∧ s.armCode 8 c = 0 := by decide +kernel

/-- A state whose queue 0 has read one more entry. -/
def withEntry (s : State) (e : Entry) : State :=
  { s with ge := { s.ge with sqs := [(0, { s.sq 0 with entries := [e] })] } }

theorem test_hyp_AbortEntryResult :
    let e := entryOf 2 (1 * 2 ^ 16) 0 0
    let done := withEntry (graphed State.reset [(0, aTask .kernel .complete id)]) e
    let live := withEntry (graphed State.reset [(0, aTask .kernel .ready id), (1, aTask .kernel .running id)]) e
    e.formOk = true ∧ e.arg 0 % 4096 = 0 ∧ e.arg 0 / 2 ^ 16 = 1 ∧ done.sqBlocked 0 = false
      ∧ (done.sq 0).entries.find? (fun e => e.op == 2) = some e ∧ (done.sq 0).enable = true
      ∧ (done.task 0 0).map (fun x => x.status) = some .complete
      ∧ (live.graph 0).map (fun g => (g.entry, g.tasks.map Prod.fst)) = some (e.arg 1, [0, 1])
      ∧ (live.task 0 0).map (fun x => (x.status, x.cores)) = some (.ready, [])
      ∧ ((withEntry (graphed State.reset [(0, aTask .kernel .waiting id), (1, aTask .kernel .running id)]) e).task 0
          0).map (fun x => (x.status, x.cores)) = some (.waiting, [])
      ∧ live.ge.journal = [] ∧ live.store.ctxs = [] ∧ (live.sq 0).cutWait = none := by decide +kernel

theorem test_hyp_TaskReadyResult :
    let waits := fun (v : Word) => graphed State.reset [(0, aTask .kernel .complete id), (1, aTask .kernel .waiting
      (fun x => { x with info := { x.info with preds := [0], flags := [{ flag := 0xFFFF, op := 1, value := v }] } }))]
    ((waits 0).task 0 1).map (fun x => (x.status, x.info.deps, x.info.streams)) = some (.waiting, [0], [])
      ∧ ((waits 0).task 0 0).map (fun x => x.status) = some .complete
      ∧ ((graphed State.reset [(0, aTask .kernel .ready id)]).task 0 0).map (fun x => x.status) ≠ some .complete
      ∧ ((waits 0).flag 0xFFFF - 0).toNat < 2 ^ 63 ∧ 2 ^ 63 ≤ ((waits 1).flag 0xFFFF - 1).toNat := by decide +kernel

/-- A valid image header at 0x1000. -/
def imageHeader : List Byte :=
  leBytes 4 0x4B524B5A ++ leBytes 2 1 ++ leBytes 2 128 ++ leBytes 4 0x4006 ++ leBytes 4 1 ++ leBytes 8 64
    ++ List.replicate 104 0

/-- A ready gang of 2 × 1 with that image, on rows that run. -/
def placing : State :=
  graphed (clocked ((powered State.reset).putBytes 0x1000 imageHeader))
    [(0, aTask .kernel .ready (fun x => { x with armed := true, info := { x.info with a := 0x1000, gangW := 2 } }))]

theorem test_hyp_TaskPlaceResult :
    ∃ x, placing.task 0 0 = some x ∧ placing.placeable 0 0 x = true ∧ x.info.badImage = false
      ∧ placing.fits false 0 x.info = true ∧ placing.fitsAt true 0 x.info 28 0 = true
      ∧ placing.mayPass 0 (placing.before 0 0) = true ∧ placing.gatedRows (placing.gangSites x.info 28 0) = []
      ∧ x.info.streams = [] ∧ placing.geRead (placing.hostDie 0) x.info.a 128 = (placing, .ok imageHeader)
      ∧ headerOk imageHeader = true ∧ placing.readTensors (placing.hostDie 0) x.info.binds 0 = (placing, .ok [])
      ∧ (placing.gangSites x.info 28 0).Nodup ∧ (∃ rest, placing.readyOrder 0 = (0, 0, x) :: rest)
      ∧ ({ placing with strike := 10000 } : State).waited 0 x = true
      ∧ placing.readsWait x.info.startSpans = false :=
  ⟨_, rfl, by and_intros <;> first | exact ⟨[], by decide +kernel⟩ | decide +kernel⟩

theorem test_hyp_TaskCommitResult :
    let s := graphed { powered State.reset with strike := 1 } [(0, aTask .move .running (fun x => { x with
        moved := true, held := [(extEnd - 1, 1)] })), (1, aTask .ward .ready id), (2, aTask .kernel .running id)]
    (s.task 0 0).map (fun x => (x.info.kind, x.status, x.moved)) = some (.move, .running, true)
      ∧ (s.task 0 0).map (fun x => (x.streams, x.cores)) = some ([], [])
      ∧ s.accessWaits (extEnd - 1) 1 true = false ∧ s.areaLost (s.regionOf 0) = false ∧ s.store.requests = []
      ∧ s.writeFault 0 0 [(extEnd - 1, 1)] = none
      ∧ (s.task 0 1).map (fun x => (x.info.kind, x.status, x.readyAt)) = some (.ward, .ready, 0)
      ∧ (s.strike - (0 + 1)).toNat < 2 ^ 63 ∧ s.store.ctxs = [] ∧ (s.sq 0).cutWait = none
      ∧ (s.graph 0).map (fun g => decide ((g.tasks.map Prod.fst).Nodup)) = some true := by decide +kernel

/-- A KERNEL task whose one core has ended. -/
theorem test_hyp_TaskCommitResult_kernel :
    let s := graphed (powered (busy id)) [(0, aTask .kernel .running (fun x => { x with
        cores := [0], done := [0], held := [(extEnd - 1, 1)] })), (2, aTask .kernel .running id)]
    (s.task 0 0).map (fun x => (x.status, x.streams, x.info.cutHold)) = some (.running, [], false)
      ∧ (s.task 0 0).map (fun x => (x.info.cut, x.done.length, x.cores)) = some (false, 1, [0])
      ∧ s.store.ctxs = [] ∧ (s.core 0).xfers = [] ∧ (s.core 0).runs 0 0 = true ∧ (s.sq 0).cutWait = none
      ∧ s.accessWaits (extEnd - 1) 1 true = false ∧ s.areaLost (s.regionOf 0) = false
      ∧ s.writeFault 0 0 [(extEnd - 1, 1)] = none ∧ s.store.requests = [] := by decide +kernel

/-- A recovery area on store dies that are off: nothing is committed. -/
theorem test_hyp_TaskCommitResult_lost :
    let s := withArea (graphed { State.reset with strike := 1 } [(0, aTask .move .running (fun x => { x with
        moved := true, held := [(0x1000, 1)] })), (2, aTask .kernel .running id)])
    s.areaLost (s.regionOf 0) = true ∧ (s.sq 0).enable = true ∧ (s.sq 0).cutWait = none ∧ s.store.requests = []
      ∧ s.accessWaits 0x1000 1 true = false := by decide +kernel

/-- A load of site 0, whose task runs, of an uncorrectable word at 0x40, with an earlier error or none. -/
theorem test_hyp_UncorrectableReissues :
    let at_ := fun (last : List (Nat × Option Word)) =>
      let s := running (busy (fun k => { k with acc := { gr := [(1, 0x40)] }, lmErr := [(8, true)] }))
      { s with grid := { s.grid with lastUncorrectable := last } }
    let s := at_ []
    let t := at_ [(0, some 0)]
    s.issues 0 .access [2, 1] 0 ∧ (s.core 0).reg .access 1 = 0x40 ∧ (s.core 0).uncorrectable 0x40 4 = true
      ∧ s.siteTask 0 = some (0, 0)
      ∧ (s.task 0 0).map (fun x => (x.status, x.targeted)) = some (.running, false)
      ∧ (s.task 0 0).map (fun x => (x.cores, x.info.streams)) = some ([0], [])
      ∧ s.ge.journal = [] ∧ s.store.ctxs = [] ∧ s.repeats 0 = false
      ∧ t.issues 0 .access [2, 1] 0 ∧ t.repeats 0 = true ∧ (t.core 0).uncorrectable 0x40 4 = true := by decide +kernel

/-- Queues 0 and 1 each wait for a flag that the other's waiting task would set. -/
def crossed : State :=
  let g := fun (w u : Nat) => ({ entry := 0, tag := 0, base := 0, epoch := 0, user := 0, count := 1, tasks :=
    [(0, aTask .move .waiting (fun x => { x with info := { x.info with flags :=
      [{ flag := w, op := 1, value := 1 }, { flag := u, op := 2, value := 1 }] } }))] } : Graph)
  let sq := fun (w u : Nat) => ({ enable := true, state := .running, graph := some (g w u) } : Sq)
  { State.reset with ge := { State.reset.ge with sqs := [(0, sq 5 6), (1, sq 6 5)] } }

theorem test_hyp_DeadlockAndCapture :
    crossed.isCycle [(0, 5), (1, 6)] = true ∧ crossed.ge.deadlocks = [] := by decide +kernel

/-- A cut task of no core whose buffer lies in external memory. -/
theorem test_hyp_DeadlockAndCapture_capture :
    let s := graphed (powered State.reset) [(0, aTask .kernel .running (fun x => { x with
      info := { x.info with ctrl := 1, cutCap := 0x10000 } }))]
    ∃ x, s.task 0 0 = some x ∧ x.info.kind = .kernel ∧ x.info.cut = true ∧ x.status = .running ∧ x.captured = false
      ∧ x.done.length = x.cores.length ∧ s.captureBad x.info.cutCap (417792 * x.cores.length) = none
      ∧ s.accessWaits x.info.cutCap (417792 * x.cores.length) true = false
      ∧ (s.captures x.cores).2 = .ok [] ∧ x.info.cutCap + ([] : List (List Byte)).flatten.length ≤ extEnd :=
  ⟨_, rfl, by and_intros <;> decide +kernel⟩

/-- A graph of one WARD task. -/
def wardGraph : List Byte :=
  leBytes 4 0x48474B5A ++ leBytes 2 1 ++ leBytes 2 256 ++ leBytes 8 1 ++ leBytes 8 384 ++ leBytes 8 256
    ++ List.replicate 224 0 ++ leBytes 8 3 ++ List.replicate 120 0

/-- Queue 0 has that graph as its next entry, and region 0 an area of so many pages. -/
def offered (base pages : Nat) : State :=
  let s := entered ((powered State.reset).putBytes 0x1000 wardGraph) 1 0x1000 0 0
  { s with ge := { s.ge with regions := [(0, { def_ := 0xC000000000000FFF, areaBase := base, areaSize := pages })] } }

/-- The graph reads well, and of the state after its reading this holds. -/
def offers (s : State) (p : State → Graph → Bool) : Bool :=
  s.front 0 == some (entryOf 1 0x1000 0 0) && !(s.readsWait (s.graphSpans 0x1000)) && (s.region 0).areaSize != 0
    && match s.readGraph 0 (entryOf 1 0x1000 0 0) with
      | (s1, .ok g) => decide (s1.sq 0 = s.sq 0) && p s1 g
      | _ => false

/-- The graph loads; the area reaches the pool; the area is smaller than the mirror. -/
theorem test_hyp_GraphEntryResult_loaded :
    let fits := fun (s1 : State) (g : Graph) =>
      decide (mirrorBytes g.count ≤ (s1.region 0).areaBytes ∧ mirrorBytes g.count ≤ s1.areaRoom 0)
    (offered storeBase 4).sq 0 = { (offered storeBase 4).sq 0 with region := 0, doomed := [], enable := true }
      ∧ offers (offered storeBase 4) (fun s1 g => fits s1 g && !(s1.areaLost 0)) = true
      ∧ offers (offered (State.reset.poolStart - 4096) 4) (fun s1 g => fits s1 g && s1.areaLost 0) = true
      ∧ offers (offered storeBase 1) (fun s1 g => decide ((s1.region 0).areaBytes < mirrorBytes g.count)) = true := by
  decide +kernel

/-- Another queue's graph of 16,384 tasks leaves no room in the area. -/
theorem test_hyp_GraphEntryResult_waits :
    let s := offered storeBase 4
    let g : Graph := { entry := 0, tag := 0, base := 0, epoch := 0, user := 0, count := 16384, tasks := [] }
    let t : State := { s with ge := { s.ge with sqs := s.ge.sqs ++ [(1, { graph := some g })] } }
    offers t (fun s1 g => decide (mirrorBytes g.count ≤ (s1.region 0).areaBytes ∧ s1.areaRoom 0 < mirrorBytes g.count))
      = true := by decide +kernel

/-! The torus ports. -/

/-- Port 2 with a change, its die on. -/
def ported (f : Port → Port) : State :=
  { powered State.reset with
    link := { ports := [(2, f { state := .ready, enable := true, lanes := 0xFF })] }, pins := { cables := [2] } }

theorem test_hyp_LanesAndTraining :
    let x := (ported id).lport 2
    (ported id).portRuns 2 = true ∧ x.flows = true ∧ x.lanes.getLsbD 7 = true
      ∧ ({ ported id with clock := { nodes := [(52, { switching := some true })] } } : State).portRuns 2 = false
      ∧ x.minlanes ≤ ((List.range 8).filter (fun n => (x.lanes &&& ~~~((1 : BitVec 8) <<< 7)).getLsbD n)).length
      ∧ ((List.range 8).filter (fun n => ((0x3F : BitVec 8) &&& ~~~((1 : BitVec 8) <<< 0)).getLsbD n)).length < x.minlanes
      ∧ (x.report 7 (.corrected 16384) 0).symbolsOf 7 = 16384
      ∧ ((ported (fun p => { p with state := .training, retrain := true })).lport 2).retrain = true
      ∧ 2 ∈ (ported id).pins.cables
      ∧ (let before : BitVec 40 := 0x5CA3FFFF00
         let tag : BitVec 40 := 0x5CA3003F00
         tagSync before = 0x5CA3 ∧ tagSync tag = 0x5CA3 ∧ tagFcnt tag = tagFcnt before + 1
           ∧ x.minlanes ≤ ((List.range 8).filter (fun n => (x.lanes &&& tagLanes tag).getLsbD n)).length
           ∧ ((List.range 8).filter (fun n => ((0x3E : BitVec 8) &&& tagLanes tag).getLsbD n)).length < x.minlanes)
      ∧ ((ported (fun p => { p with state := .training })).lport 2).state = .training
      ∧ ((ported (fun p => { p with state := .down })).lport 2).enable = true := by decide +kernel

theorem test_hyp_FlitSent :
    let u := (ported (fun p => { p with state := .linkUp, ctrlOut := [1] })).lport 2
    let x := (ported (fun p => { p with req := { tx := List.replicate 16 1 } })).lport 2
    (ported id).portRuns 2 = true
      ∧ ({ ported id with clock := { nodes := [(52, { switching := some true })] } } : State).portRuns 2 = false
      ∧ 2 ∈ (ported id).pins.cables ∧ 2 ∉ (powered State.reset).pins.cables
      ∧ u.flows = true ∧ u.state ≠ .ready ∧ u.ctrlOut = [1] ∧ x.state = .ready ∧ x.resend = 0
      ∧ x.replay.length < 120 ∧ x.sendable = [.req] := by decide +kernel

theorem test_hyp_FlitReceived :
    let y := (ported id).lport 2
    (ported id).portRuns 2 = true ∧ 2 ∈ (ported id).pins.cables ∧ y.flows = true ∧ (∀ c ∈ y.ctrl, c.1 ≠ 3) ∧ (List.replicate 240 (1 : Byte)).length = 16 * 15
      ∧ (0 : BitVec 8) = y.ack + 1 := by decide +kernel

theorem test_hyp_LinkControl :
    let f : Sent := { seq := 0, vc := .req, used := 1, payload := List.replicate 16 1 }
    let x := (ported (fun p => { p with replay := [f], resends := 6 })).lport 2
    let y := (ported (fun p => { p with state := .linkUp, ctrl := [(1, List.replicate 240 0)] })).lport 2
    let z := (ported (fun p => { p with state := .linkUp, fresh := false, ctrl := [(3, List.replicate 240 0)] })).lport 2
    (ported id).portRuns 2 = true ∧ x.state = .ready ∧ x.replay ≠ [] ∧ x.resends < 7 ∧ x.flows = true ∧ 1 ∉ x.ctrlOut ∧ 3 ∉ x.ctrlOut
      ∧ x.fresh = true ∧ x.heard = false ∧ y.flows = true ∧ y.ctrl = [(1, List.replicate 240 0)]
      ∧ z.fresh = false ∧ z.ctrl = [(3, List.replicate 240 0)] ∧ z.flows = true := by decide +kernel

theorem test_hyp_ResetRequests :
    let s := ported (fun p => { p with ctrl := [(2, List.replicate 240 0)] })
    let r := ported (fun p => { p with rreset := true, ctrl := [(2, List.replicate 240 0)] })
    s.managing = true ∧ s.portRuns 2 = true ∧ (s.lport 2).state = .ready ∧ (s.lport 2).lastReset = none ∧ (s.lport 2).flows = true
      ∧ (s.lport 2).rreset = false ∧ (r.lport 2).rreset = true ∧ r.resets.episodes = []
      ∧ (ported (fun p => { p with lastReset := some 0 })).strike.toNat < 1000000
      ∧ (s.lport 7).state ≠ .ready := by decide +kernel

/-- A packet at the front of a virtual channel of port 2. -/
def received (s : State) (v : Vc) (h : Header) (d : List Byte) : State :=
  let x := s.lport 2
  let y : VcState := { rx := h.bytes ++ d, used := 1, slots := [(h.bytes ++ d).length] }
  { s with link := { s.link with ports := [(2, x.setVc v y)] } }

theorem test_hyp_RequestPackets :
    let d := List.replicate 64 (1 : Byte)
    let put : Header := { op := 1, tag := 9, addr := 0x1000, len := 1 }
    let bad : Header := { op := 1, tag := 9, addr := 0x1000, len := 1, value := 1 }
    let odd : Header := { op := 1, tag := 9, addr := 0x1010, len := 1 }
    let get : Header := { op := 2, tag := 9, addr := 0x1000, len := 1 }
    let flag : Header := { op := 5, tag := 9, addr := 0xFFFF, value := 3, aux := 2 }
    let s := received (ported id) .req put d
    s.portRuns 2 = true ∧ s.store.requests = [] ∧ (s.lport 2).packet .req = some (put, d) ∧ 1 ∈ opsOf .req ∧ put.plainOk = true
      ∧ s.spanCause put.addr d.length = none ∧ s.dieWaits put.addr = false
      ∧ s.accessWaits put.addr d.length true = false ∧ put.addr + d.length ≤ windowBase
      ∧ ((received (ported id) .req bad d).lport 2).packet .req = some (bad, d) ∧ bad.plainOk = false
      ∧ ((received (ported id) .req odd d).lport 2).packet .req = some (odd, d) ∧ odd.plainOk = false
      ∧ ((received (ported id) .req get []).lport 2).packet .req = some (get, []) ∧ 2 ∈ opsOf .req
      ∧ get.plainOk = true ∧ s.memRead get.addr 64 = (s, .ok (List.replicate 64 0))
      ∧ ((received (ported id) .req flag []).lport 2).packet .req = some (flag, []) ∧ 5 ∈ opsOf .req
      ∧ flag.flagOk = true := by decide +kernel

/-- Slots of 128 bytes between store rings; context 8 is filled by the port. -/
def wideRings : List Byte :=
  ctxImage [(0, 1, 3), (1, 1, 5), (0x08, 8, 0x100000001000), (0x10, 8, 0x100000002000), (0x28, 4, 128),
    (0x2C, 4, 128), (0x30, 2, 2), (0x32, 2, 2), (0x34, 4, 1), (0x38, 4, 1)]

/-- A valid channel with these A and B registers, and more. -/
def chanA (local_ remote flag : Nat) : Word := BitVec.ofNat 64 (2 ^ 63 + flag * 2 ^ 32 + remote * 2 ^ 16 + local_)

theorem test_hyp_ReducePackets :
    let c : Channel := { a := chanA 9 7 0, b := 8, open_ := true }
    let s : State := { ported (fun p => { p with channels := [(3, c)], epoch := 5 }) with
      store := { ctxs := [(8, { image := wideRings, state := .active, srcHasp := { free := 1 } })] } }
    let h : Header := { op := 3, etype := 0x01, tag := 4, addr := 8, len := 1, value := 0, epoch := 5 }
    let d := List.replicate 64 (1 : Byte)
    let x := s.lport 2
    (received s .red h d).store.requests = [] ∧ (received s .red h d).portRuns 2 = true
      ∧ x.stale { h with epoch := 4 } = true ∧ ({ h with epoch := 4 } : Header).reduceOk = true
      ∧ x.early { h with epoch := 6 } = true ∧ x.stale { h with epoch := 6 } = false
      ∧ ((received s .red { h with epoch := 4 } d).lport 2).packet .red = some ({ h with epoch := 4 }, d)
      ∧ ((received s .red { h with epoch := 6 } d).lport 2).packet .red = some ({ h with epoch := 6 }, d)
      ∧ ((received s .red h d).lport 2).packet .red = some (h, d) ∧ 3 ∈ opsOf .red ∧ h.reduceOk = true
      ∧ x.channelFor 8 = some 3 ∧ x.stale h = false ∧ x.early h = false ∧ s.receives 8 = true
      ∧ h.value + d.length ≤ (s.ctx 8).srcSlot ∧ s.dieWaits (s.ctx 8).src = false ∧ (x.channel 3).open_ = true
      ∧ (x.channel 3).got + d.length < (s.ctx 8).srcSlot ∧ (s.ctx 8).src + 256 ≤ windowBase := by decide +kernel

/-- A RESHARD of the axis of port 2 with one local entry of one unit. -/
def localMove : Reshard :=
  { q := 0, entry := 0, step := .fence, epoch := 6, scratch := 0x5000
    list := [{ src := 0x2000, dst := 0x3000, units := 1, dir := 0, etype := 0x01 }], inPlus := 0, inMinus := 0 }
def resharding (f : Reshard → Reshard) : State :=
  let s := entered (ported (fun p => { p with epoch := 5 })) 4 (1 + 6 * 2 ^ 32) 0x1000 0
  { s with link := { s.link with reshards := [(1, f localMove)] } }

theorem test_hyp_ReducePackets_permute :
    let s := resharding id
    let h : Header := { op := 4, etype := 0x01, tag := 4, addr := 0x3000, len := 1, epoch := 5 }
    let old : Header := { h with epoch := 4 }
    let new : Header := { h with epoch := 6 }
    let d := List.replicate 64 (1 : Byte)
    let x := s.lport 2
    (received s .red h d).store.requests = [] ∧ s.portRuns 2 = true
      ∧ ((received s .red h d).lport 2).packet .red = some (h, d) ∧ 4 ∈ opsOf .red ∧ h.permuteOk = true
      ∧ x.stale h = false ∧ x.early h = false ∧ s.spanCause 0x3000 64 = none ∧ s.dieWaits 0x3000 = false
      ∧ s.accessWaits 0x3000 64 true = false ∧ (s.reshardOf 1).map (fun r => r.step) = some .fence
      ∧ ((resharding (fun r => { r with step := .moves })).reshardOf 1).map (fun r => r.step) = some .moves
      ∧ ((received s .red old d).lport 2).packet .red = some (old, d) ∧ old.permuteOk = true ∧ x.stale old = true
      ∧ ((received s .red new d).lport 2).packet .red = some (new, d) ∧ new.permuteOk = true
      ∧ x.stale new = false ∧ x.early new = true := by decide +kernel

theorem test_hyp_ResponsesAndDescriptors :
    let t : Taken := { tag := 9, vc := .req, who := .descriptor 77 2 0x4000 1 }
    let s := ported (fun p => { p with taken := [t] })
    let done : Header := { op := 8, tag := 9 }
    let get : Header := { op := 9, tag := 9, len := 1 }
    let odd : Header := { op := 8, tag := 9, value := 1 }
    let oddGet : Header := { op := 9, tag := 9, status := 5 }
    let d := List.replicate 64 (1 : Byte)
    s.portRuns 2 = true ∧ (s.lport 2).takenBy 9 = some t ∧ (∀ z ∈ (s.lport 2).taken, z.ended = none) ∧ s.store.requests = []
      ∧ done.responseOk = true ∧ get.responseOk = true ∧ odd.responseOk = false ∧ oddGet.responseOk = false
      ∧ ((received s .rsp odd []).lport 2).packet .rsp = some (odd, [])
      ∧ ((received s .rsp oddGet []).lport 2).packet .rsp = some (oddGet, [])
      ∧ ((received s .rsp done []).lport 2).packet .rsp = some (done, []) ∧ 8 ∈ opsOf .rsp
      ∧ ((received s .rsp get d).lport 2).packet .rsp = some (get, d) ∧ 9 ∈ opsOf .rsp ∧ d ≠ []
      ∧ s.spanCause 0x4000 64 = none ∧ s.dieWaits 0x4000 = false ∧ s.accessWaits 0x4000 64 true = false
      ∧ 0x4000 + 64 ≤ windowBase := by decide +kernel

/-- A descriptor of a FLAG packet on REQ. -/
def flagDesc : List Byte := ({ op := 5, addr := 3, value := 1, aux := 3 } : Header).bytes ++ List.replicate 32 0

/-- A descriptor of 64 bytes of an operation on a virtual channel, its local address 0x4000. -/
def nearDesc (op vc etype : Nat) : List Byte :=
  ({ op := op, etype := etype, addr := 0x2000, len := 1 } : Header).bytes ++ leBytes 8 0x4000 ++ leBytes 8 77 ++ leBytes 1 vc
    ++ List.replicate 15 0

theorem test_hyp_ResponsesAndDescriptors_ring :
    let s := (ported (fun p => { p with sqBase := 0x1000, sqCfg := 4, sqTail := 17, sqHead := 16 })).putBytes 0x1000 flagDesc
    let x := s.lport 2
    let a := x.sqBase + x.sqHead.toNat % 2 ^ (bits x.sqCfg 0 4) * 64
    s.portRuns 2 = true ∧ x.state = .ready ∧ x.sqHead ≠ x.sqTail ∧ x.desc = none ∧ s.store.requests = [] ∧ s.spanCause a 64 = none ∧ s.dieWaits a = false
      ∧ s.accessWaits a 64 false = false ∧ s.memRead a 64 = (s, .ok flagDesc)
      ∧ descOk (headerOf flagDesc) flagDesc = true ∧ (headerOf flagDesc).op = 5 := by decide +kernel

/-- A PUT, a GET, a REDUCE_PUT and a PERMUTE to send. -/
theorem test_hyp_ResponsesAndDescriptors_data :
    let at_ := fun (b : List Byte) =>
      (ported (fun p => { p with sqBase := 0x1000, sqCfg := 4, sqTail := 17, sqHead := 16 })).putBytes 0x1000 b
    let rows := [nearDesc 1 0 0, nearDesc 2 0 0, nearDesc 3 1 1, nearDesc 4 1 1]
    (rows.map (fun b => (headerOf b).op)) = [1, 2, 3, 4]
      ∧ rows.all (fun b =>
        let s := at_ b
        let read := s.setLport 2 { s.lport 2 with desc := some b }
        decide (s.memRead 0x1000 64 = (s, .ok b)) && descOk (headerOf b) b && (leAt b 32 8 == 0x4000)
          && ((headerOf b).len == 1) && (s.spanCause 0x4000 64).isNone && !(s.dieWaits 0x4000)
          && !(s.accessWaits 0x4000 64 false)
          && decide (read.memRead 0x4000 64 = (read, .ok (s.bytes 0x4000 64)))) = true := by decide +kernel

theorem test_hyp_PortRegisters :
    let s := ported (fun p => { p with enable := false, state := .disabled })
    s.regOpen (.helm 0) (portAddr 2 0x30) true ∧ s.managing = true ∧ s.regOpen .operator (portAddr 2 8) true ∧ s.regOpen (.helm 0) (portAddr 2 0) true
      ∧ (s.lport 2).enable = false ∧ (s.lport 2).state = .disabled ∧ (s.lport 2).held = false := by decide +kernel

theorem test_hyp_ChannelRegisters :
    let s := fun (c : Channel) => ported (fun p => { p with channels := [(15, c)] })
    let live : Channel := { a := chanA 9 7 0 }
    (0x8000000000070009 : Word).getLsbD 63 = true ∧ (9 : Word).getLsbD 63 = false
      ∧ (s {}).regOpen (.helm 0) (xchaAddr 2 15) true ∧ (s {}).regOpen (.helm 0) (xchbAddr 2 15) true
      ∧ (((s {}).lport 2).channel 15).valid = false ∧ (((s live).lport 2).channel 15).valid = true
      ∧ (((s live).lport 2).channel 15).slot = false
      ∧ (((s { live with slot := true }).lport 2).channel 15).slot = true
      ∧ (((s { live with clearing := some 0 }).lport 2).channel 15).clearing = some 0 := by decide +kernel

/-- Context 9 delivers into a store ring that channel 3 of port 2 sends; task 0 of queue 0 owns it. -/
def sending : State :=
  let s := graphed (ported (fun p => { p with channels := [(3, { a := chanA 9 7 0 })] })) [(0, aTask .kernel .running id)]
  { s with store := { ctxs := [(9,
      { image := wideRings, state := .active, hasp := [{ fill := 1, free := 1 }], owner := some (0, 0) })] } }

theorem test_hyp_ChannelSlotSent :
    let s := sending
    let y := s.lport 2
    let c := y.channel 3
    let k := s.ctx c.localCtx
    s.portRuns 2 = true ∧ y.state = .ready ∧ c.valid = true ∧ c.clearing = none ∧ c.slot = false
      ∧ (s.ownerTask k).map (fun o => (o.1, o.2.1)) = some (0, 0) ∧ (s.graph 0).map (fun g => g.epoch) = some y.epoch
      ∧ k.ringFill ≠ 0 ∧ s.waitMet c.creditFlag (BitVec.ofNat 64 c.passes) = true
      ∧ s.dieWaits k.snk = false ∧ s.store.requests = [] ∧ s.memRead k.snk k.snkSlot = (s, .ok (List.replicate 128 0)) := by decide +kernel

/-- A permute list of one local entry. -/
def permList (magic : Nat) : List Byte :=
  leBytes 4 magic ++ leBytes 4 1 ++ leBytes 8 0x5000 ++ leBytes 8 1 ++ List.replicate 40 0
    ++ leBytes 8 0x2000 ++ leBytes 8 0x3000 ++ leBytes 4 1 ++ leBytes 1 0 ++ leBytes 1 1 ++ List.replicate 10 0

theorem test_hyp_ReshardLife_opens :
    let s := fun (magic : Nat) => entered (ported (fun p => { p with epoch := 5 }) |>.putBytes 0x1000 (permList magic))
      4 (1 + 6 * 2 ^ 32) 0x1000 0
    let e := entryOf 4 (1 + 6 * 2 ^ 32) 0x1000 0
    (s 0x50524B5A).readsWait ((s 0x50524B5A).reshardSpans 0x1000) = false ∧ (s 0).readsWait ((s 0).reshardSpans 0x1000) = false ∧ (s 0x50524B5A).front 0 = some e ∧ e.bad = false ∧ e.op = 4 ∧ e.arg 0 % 4 = 1 ∧ (s 0).reshardOf 1 = none
      ∧ (s 0).link.reshards = [] ∧ ((s 0x50524B5A).readReshard 0 e).2.isSome = true
      ∧ ((s 0).readReshard 0 e).2 = none ∧ (s 0).front 0 = some e := by decide +kernel

theorem test_hyp_ReshardLife :
    let s := resharding id
    let t := resharding (fun r => { r with step := .copyOut })
    let u := resharding (fun r => { r with step := .moves })
    s.reshardOf 1 = some localMove ∧ s.fencePassed 1 localMove = true
      ∧ t.reshardOf 1 = some { localMove with step := .copyOut } ∧ t.reshardWaits localMove = false
      ∧ t.memRead 0x2000 64 = (t, .ok (t.bytes 0x2000 64)) ∧ 0x3000 + 64 ≤ localMove.scratch
      ∧ u.reshardOf 1 = some { localMove with step := .moves }
      ∧ (u.sq 0).entries.find? (fun x => x.no == 0) = some (entryOf 4 (1 + 6 * 2 ^ 32) 0x1000 0) := by decide +kernel

/-! The grid and external memory. -/

/-- Row 29 of die 11 has a decided map; a task may run on it. -/
def mapped (runs : Bool) : State :=
  { State.reset with
    grid := { rows := [(381, { next := some (1, 0x7FFFFFFE) })] }
    cores := if runs then [(12192, { task := some { q := 0, task := 0, gx := 0, gy := 0 } })] else [] }

theorem test_hyp_RowMapTakesEffect :
    ((mapped false).rowMap 381).next = some (1, 0x7FFFFFFE) ∧ (mapped false).rowBusy 381 = false
      ∧ (mapped true).rowBusy 381 = true := by decide +kernel

theorem test_hyp_FabricMemoryAccess :
    let s := powered State.reset
    originExists (.helm 0) = true ∧ 0x100 + 4 ≤ extEnd ∧ s.dieWaits 0x100 = false ∧ s.store.requests = []
      ∧ s.accessCause (.helm 0) .plain 0x100 4 true = none ∧ s.accessWaits 0x100 4 true = false
      ∧ s.accessCause (.helm 0) .plain 0x100 4 false = none ∧ s.accessWaits 0x100 4 false = false
      ∧ (unitsOf 64 0x100 4).all (fun b => decide (s.readBurst b = (s, false))) = true
      ∧ (let k : Fin 2 := 1
         originExists (.frontEnd k) = true ∧ s.accessCause (.frontEnd k) .plain 0x100 4 false = none
           ∧ s.cabled (8 + k.val) = false
           ∧ (({ s with pins := { s.pins with cables := [9] } } : State).cabled (8 + k.val)) = true) := by
  decide +kernel

theorem test_hyp_RefusedAccess :
    let s := powered State.reset
    originExists (.core 0) = true ∧ s.dieWaits 0x800000000000 = false
      ∧ s.accessCause (.core 0) .plain 0x800000000000 8 false = some 0x30 := by decide +kernel

theorem test_hyp_PatrolReadsEveryBurst :
    let s := powered State.reset
    let moved : State := { s with ext := { retired := some 15 } }
    let fabric : State := { s with resets := { s.resets with episodes :=
      [{ asserted := [], reach := rFabric, die := 0, core := 0 }] } }
    s.memUp 15 = true ∧ (s.port_ 15).repairing = false ∧ s.fabricOpen = false ∧ s.burstOf 15 0 = some 60
      ∧ s.readBurst 60 = (s, false) ∧ s.ext.retired ≠ some 15 ∧ moved.ext.retired = some 15 ∧ moved.memUp 15 = true
      ∧ fabric.fabricOpen = true ∧ moved.burstOf 14 (4 * channelGranules) = some (4 * (14 * 384 + 15))
      ∧ 60 < extEnd / 64 ∧ s.ext.retiring = none := by decide +kernel

/-- Error marks on burst 9. -/
def marked (weak bad : List Nat) : State := { powered State.reset with ext := { weak := weak, bad := bad } }

theorem test_hyp_BurstErrors :
    ((marked [9] []).port_ ((marked [9] []).portAt (64 * 9))).poison.contains (9 / 4) = false
      ∧ (marked [9] []).ext.weak.contains 9 = true ∧ ((marked [9] []).readBurst 9).2 = false
      ∧ (marked [] [9]).ext.bad.contains 9 = true
      ∧ ((marked [] [9]).port_ ((marked [] [9]).portAt (64 * 9))).poison.length < 64 := by decide +kernel

theorem test_hyp_RedirectAndRepair :
    let s : State := { powered State.reset with ext := { ports :=
      [(3, { repairing := true, redirects := [{ chan := 2, row := 7 }] })] } }
    let b := (7 * 8 * 384 + 35) * 4
    let t : State := { s with ext := { s.ext with weak := [b] } }
    s.ext.weak.filter (s.inRow 3 { chan := 2, row := 7 }) = [] ∧ t.inRow 3 { chan := 2, row := 7 } b = true
      ∧ s.memUp 3 = true ∧ (s.port_ 3).redirects.find? (fun x => !x.done) = some { chan := 2, row := 7 }
      ∧ s.managing = true ∧ (s.port_ 3).repairing = true ∧ (s.port_ 4).repairing = false ∧ s.memUp 4 = true := by
  decide +kernel

theorem test_hyp_ChannelRetirement :
    let s := powered State.reset
    let t : State := { s with ext := { retiring := some { chan := 383, pointer := channelGranules - 1 } } }
    let u : State := { s with ext := { retiring := some { chan := 383, pointer := channelGranules } } }
    let p : State := { t with ext := { t.ext with ports :=
      [(15, { poison := [(channelGranules - 1) * 384 + 383] })] } }
    (t.ext.retired = none ∧ (p.port_ (383 % 16)).poison.contains ((channelGranules - 1) * 384 + 383) = true
        ∧ t.readBurst (4 * ((channelGranules - 1) * 384 + 383)) = (t, false))
      ∧ (let g := (channelGranules - 1) * 384 + 383
         let full : MemPort := { poison := List.range 64 }
         let m := (t.migrate { chan := 383, pointer := channelGranules - 1 }).portAt (256 * g)
         let at_ := fun (ps : List (Nat × MemPort)) => ({ t with ext := { t.ext with ports := ps } } : State)
         m ≠ 15 ∧ 64 ≤ ((at_ [(m, full), (15, { poison := [g] })]).port_ m).poison.length
           ∧ ((at_ [(m, full), (15, { poison := [g] })]).port_ 15).poison.contains g = true
           ∧ ((at_ [(15, full)]).port_ 15).poison.contains g = false
           ∧ 64 ≤ ((at_ [(15, full)]).port_ 15).poison.length
           ∧ ((marked [] [4 * g]).ext.bad.contains (4 * g)) = true)
      ∧ s.managing = true ∧ s.memUp 15 = true ∧ s.ext.retiring = none ∧ s.ext.retired = none ∧ t.ext.retiring ≠ none
      ∧ channelGranules - 1 < channelGranules ∧ t.memUp (383 % 16) = true ∧ u.ext.retiring ≠ none := by decide +kernel

/-! Event queues, the handover, front-end frames. -/

/-- Event queue 255 enabled with a ring of two records at 0x10000, with a change. -/
def eqd (f : EventQueue → EventQueue) : State :=
  let s := powered State.reset
  { s with logs := { s.logs with eqs := [(255, f { base := 0x10000, enable := true, depth := 1 })] } }

theorem test_hyp_EventQueueConfigured :
    let s := eqd (fun q => { q with enable := false })
    let v : Word := 0x800000000000000B
    s.regOpen (.helm 0) (eqAddr 255 8) true ∧ (s.eq 255).enable = false ∧ v.getLsbD 63 = true ∧ bits v 0 5 ≤ 16
      ∧ (s.eq 255).base + 64 * 2 ^ bits v 0 5 ≤ s.hostBytes
      ∧ (let t := eqd (fun q => { q with enable := false, base := 2 ^ 40 })
         t.hostBytes < (t.eq 255).base + 64 * 2 ^ bits v 0 5 ∧ t.regOpen (.helm 0) (eqAddr 255 8) true
           ∧ (t.eq 255).enable = false) ∧ (0xB : Word).getLsbD 63 = false ∧ bits (0xB : Word) 0 5 ≤ 16 := by decide +kernel

theorem test_hyp_EventRing :
    let r : Rec := { type := 1, payload := [] }
    let s := eqd (fun q => { q with tail := 3, head := 2, pending := [r] })
    let full := eqd (fun q => { q with tail := 3, head := 1 })
    let q := s.eq 255
    let a := q.base + q.tail.toNat % 2 ^ q.depth * 64
    s.helmUp = true ∧ q.enable = true ∧ (q.tail - q.head).toNat < 2 ^ q.depth ∧ q.lostSince = {} ∧ q.pending = [r]
      ∧ a + 64 ≤ extEnd ∧ s.dieWaits a = false ∧ s.accessWaits a 64 true = false
      ∧ ((full.eq 255).tail - (full.eq 255).head).toNat = 2 ^ (full.eq 255).depth
      ∧ s.regOpen (.helm 0) (eqAddr 255 0x10) true
      ∧ ((BitVec.truncate 32 (3 : Word)) - q.head).toNat ≤ (q.tail - q.head).toNat
      ∧ (q.tail - q.head).toNat < ((BitVec.truncate 32 (4 : Word)) - q.head).toNat := by decide +kernel

theorem test_hyp_EventInterruptSent :
    let s := eqd (fun q => { q with unsignalled := 1, eiid := 5, moderation := 100 })
    s.helmUp = true ∧ (s.eq 255).eiid ≠ 0 ∧ (s.eq 255).eiid ≤ 2047 ∧ 0 < (s.eq 255).unsignalled ∧ (s.eq 255).lastMsi = none
      ∧ (eqd id).helmUp = true ∧ ((eqd id).eq 255).eiid = 0 := by decide +kernel

theorem test_hyp_HandoverHostMemoryAndFrames :
    let s : State := { powered State.reset with pins := { cables := [8] } }
    let u : State := { s with boot := { s.boot with update := some (0, []) } }
    s.cabled 8 = true ∧ s.store.requests = [] ∧ s.managing = true ∧ s.boot.update = none ∧ s.reachOf 2 ≠ rPower ∧ u.managing = true ∧ u.boot.update.isSome = true
      ∧ (1024 % 64 = 0) ∧ (1025 % 64 ≠ 0) ∧ s.helmUp = true ∧ s.firstOff 0x1003 (0x1003 + 60 - 1) = none
      ∧ s.dieWaits 0x1003 = false ∧ s.accessWaits 0x1003 60 true = false := by decide +kernel

/-! The reference, clocks and resets. -/

/-- Power-on reset measures the crystal, n good windows so far. -/
def measured (n : Nat) : State := { State.reset with clock := { State.reset.clock with porEnded := false, windows := n } }

theorem test_hyp_ReferenceStartsUp :
    (measured 0).measuring = true ∧ (measured 0).clock.windows + 1 < 16 ∧ (measured 15).measuring = true
      ∧ 16 ≤ (measured 15).clock.windows + 1 ∧ State.reset.clock.porEnded = true
      ∧ State.reset.clock.crystal = true := by decide +kernel

/-- Node 4 with a change, every domain on. -/
def noded (f : ClockNode → ClockNode) : State :=
  let s := powered State.reset
  { s with clock := { s.clock with nodes := [(4, f { lock := true })] } }

theorem test_hyp_ClockNodeWrites :
    let s := noded id
    s.regOpen (.helm 0) (clkAddr 4) true ∧ s.nodeRefusal 4 true true = some 5 ∧ s.nodeRefusal 4 true false = none
      ∧ (s.node 4).switching = none ∧ (s.node 4).gate = false ∧ s.nodeRefusal 4 false true = none
      ∧ (s.node 4).src = false ∧ (s.node 4).srcReg = false
      ∧ (let t := noded (fun n => { n with gate := true, switching := some true })
         (t.node 4).gate = true ∧ (t.node 4).srcReg = true ∧ (t.node 4).switching = some true
           ∧ t.dieOn (dieOfNode 4) = true) := by decide +kernel

theorem test_hyp_ClockRefusals :
    ((noded id).node 4).srcReg = false ∧ State.reset.dieOn (dieOfNode 4) = false
      ∧ (State.reset.node 4).gate = false ∧ (noded id).nodeRefusal 4 true false = none
      ∧ (noded id).nodeRefusal 4 false true = none := by decide +kernel

theorem test_hyp_ClockMonitor :
    let s := powered State.reset
    let fast : Word := 0x8004
    s.regOpen (.helm 0) clkmonAddr true ∧ fast.getLsbD 15 = true
      ∧ 200000 * 2 ^ bits fast 8 4 < s.nodeKhz (bits fast 0 6) (s.node (bits fast 0 6)).srcReg
      ∧ s.nodeKhz 0 (s.node 0).srcReg ≤ 200000 := by decide +kernel

theorem test_hyp_RowClockGated :
    let s := clocked State.reset
    let t : State := { s with aclk := 4096 }
    (Assoc.keys s.grid.ungated).contains 0 = true ∧ s.rowBusy 0 = false ∧ s.rowInRegion 0 = true
      ∧ s.aclk < Assoc.get 0 s.grid.ungated 0 + 4096 ∧ Assoc.get 0 t.grid.ungated 0 + 4096 ≤ t.aclk := by decide +kernel

theorem test_hyp_ResetSourcesAssert :
    let s := powered State.reset
    State.reset.asserts 1 = false ∧ s.managing = true ∧ s.svUp = true ∧ s.regOpen (.helm 0) rstReqAddr true
      ∧ s.rstReqOk 0xA500000000000000 = true ∧ s.rstReqOk 0xA400000000000000 = false := by decide +kernel

/-- The fuses give source 2 a reach. -/
def reaching (r : Nat) : State :=
  { State.reset with boot := { State.reset.boot with fuses :=
    { State.reset.boot.fuses with reach := BitVec.ofNat 27 (r * 2 ^ 6) } } }

theorem test_hyp_ModuleResetScope :
    let left := fun (s : State) => (List.range 8).filter (fun p => (s.lport p).state == .ready || (s.lport p).held)
    (reaching rModule).managing = true ∧ (reaching rModule).reachOf 2 = rModule ∧ left (reaching rModule) = []
      ∧ left { reaching rModule with link := (ported (fun p => { p with state := .ready })).link } = [2] := by
  decide +kernel

theorem test_hyp_FabricResetScope :
    (reaching rFabric).managing = true ∧ (reaching rFabric).reachOf 2 = rFabric
      ∧ (reaching rFabric).link.reshards = [] := by decide +kernel

/-- One open episode of source 1. -/
def resetting (held handover : Bool) : State :=
  { State.reset with resets := { State.reset.resets with episodes :=
    [{ asserted := [{ src := 1, reach := rModule, die := 0, core := 0, held := held }], reach := rModule, die := 0
       core := 0, handover := handover }] } }

theorem test_hyp_SourceRelease :
    (resetting true false).resets.episodes.length = 1
      ∧ (resetting true false).mayRelease 1 { src := 1, reach := rModule, die := 0, core := 0, held := true } = true := by
  decide +kernel

theorem test_hyp_EpisodeReleased :
    ((resetting true false).resets.episodes[0]?).map Episode.quiet = some false
      ∧ ((resetting false true).resets.episodes[0]?).map (fun e => (e.quiet, decide (e.reach ≠ rFabric), e.handover))
          = some (true, true, true)
      ∧ ((resetting false false).resets.episodes[0]?).map (fun e => (e.quiet, e.handover)) = some (true, false) := by
  decide +kernel

/-- One open FABRIC episode of no source, so many groups of which have left reset; and one of reach DIE at a die whose
clock is gated. -/
def freeing (released : Nat) : State :=
  { powered State.reset with resets := { episodes :=
    [{ asserted := [], reach := rFabric, die := 0, core := 0, released := released }] } }

theorem test_hyp_EpisodeReleased_fabric :
    ((freeing 0).resets.episodes[0]?).map (fun e => (e.quiet, e.released, decide (e.reach = rFabric))) = some (true, 0, true)
      ∧ (freeing 0).resets.episodes = [{ asserted := [], reach := rFabric, die := 0, core := 0 }]
      ∧ (freeing 0).resets.held = []
      ∧ ((freeing 1).resets.episodes[0]?).map (fun e => (e.quiet, e.released)) = some (true, 1)
      ∧ ({ powered State.reset with clock := { nodes := [(16, { gate := true })] } } : State).stillGated (dieOfNode 16)
          = true := by decide +kernel

/-! Power and temperature. -/

theorem test_hyp_InputStage :
    State.reset.power.input = .good
      ∧ ({ State.reset with power := { State.reset.power with input := .under } } : State).power.input ≠ .good := by
  decide +kernel

theorem test_hyp_PhaseLost : (powered State.reset).domOn 19 = true ∧ (powered State.reset).domOn 0 = true := by
  decide +kernel

theorem test_hyp_DomainRequested :
    let v : BitVec 64 := 0x84000
    let w : BitVec 64 := 0x80001
    State.reset.regOpen .operator pwrDomAddr true ∧ State.reset.power.req.getLsbD 14 = false
      ∧ v.truncate 20 = State.reset.power.req ||| (1#20 <<< 14)
      ∧ (∀ x ∈ domNeeds 14, State.reset.power.req.getLsbD x = true) ∧ State.reset.recoveryRuns = false
      ∧ State.reset.power.req.getLsbD 0 = false ∧ w.truncate 20 = State.reset.power.req ||| (1#20 <<< 0)
      ∧ (∃ x ∈ domNeeds 0, State.reset.power.req.getLsbD x = false) := by decide +kernel

theorem test_hyp_DomainChangeEnds :
    let s : State := { State.reset with
      power := { State.reset.power with change := some (12, true) }, boot := { State.reset.boot with stage := .svFw } }
    s.power.change = some (12, true) ∧ bootDoms.contains 12 = true ∧ s.boot.stage = .svFw ∧ s.boot.image = none := by
  decide +kernel

theorem test_hyp_PowerCap :
    let v := fun (trip throt cap : Nat) => BitVec.ofNat 64 (trip * 2 ^ 32 + throt * 2 ^ 24 + cap)
    State.reset.managing = true ∧ State.reset.capOk (v 115 95 7800) = true ∧ State.reset.capOk (v 115 95 7801) = false
      ∧ State.reset.capOk (v 90 86 1000) = false ∧ State.reset.capOk (v 90 85 1000) = true := by decide +kernel

theorem test_hyp_FastLoopStep :
    let s := powered State.reset
    s.dieUp 11 = true ∧ Assoc.get 0 s.power.phases 11 < 3 ∧ (s.diePower 11).c = 16 := by decide +kernel

theorem test_hyp_SlowLoopStep :
    let s := powered State.reset
    s.svUp = true ∧ s.diesOn = List.range 12 ∧ (s.diePower 0).mode = .normal
      ∧ (s.diePower 0).disagree < 49
      ∧ (({ s with power := { s.power with dies := [(0, { estCount := 1, estSum := 400 })] } } : State).diePower 0).estCount ≠ 0 := by
  decide +kernel

theorem test_hyp_DroopStep :
    let s := powered State.reset
    s.dieUp 0 = true ∧ 100000 ≤ (({ s with strike := 100000 } : State).strike - (s.diePower 0).decayFrom).toNat
      ∧ (s.strike - (s.diePower 0).decayFrom).toNat < 100000 := by decide +kernel

theorem test_hyp_TemperatureRead :
    let s := powered State.reset
    let t : State := { s with power := { s.power with tripRun := [(sensorNo (.rowGroup 11 4), 2)] } }
    sensorExists (.rowGroup 11 4) = true
      ∧ Assoc.get 0 s.power.tripRun (sensorNo (.rowGroup 11 4)) ≠ 2
      ∧ t.power.ttrip ≤ 115 ∧ Assoc.get 0 t.power.tripRun (sensorNo (.rowGroup 11 4)) = 2
      ∧ dieOfSensor (sensorNo (.rowGroup 11 4)) ≠ 0xFF
      ∧ (let u : State := { s with power := { s.power with tripRun := [(sensorNo .inputStage, 2)] } }
         sensorExists .inputStage = true
           ∧ Assoc.get 0 u.power.tripRun (sensorNo .inputStage) = 2 ∧ u.power.tripping.contains 0xFF = false)
      ∧ dieOfSensor (sensorNo (.rowGroup 11 4)) = 11 ∧ t.power.tripping.contains 11 = false := by decide +kernel

theorem test_hyp_ThermalLevelStep :
    let s := powered State.reset
    s.dieUp 0 = true ∧ Assoc.get 16 (s.diePower 0).h 4 = 16 := by decide +kernel

theorem test_hyp_ModuleThermalLevel :
    let s : State := { powered State.reset with power := { temps := [(200, 96)] } }
    s.svUp = true ∧ sensorExists (.die 49) = true ∧ (∀ n ∈ moduleSensors, s.temp n ≤ 96)
      ∧ (∃ n ∈ moduleSensors, s.temp n = 96) ∧ s.power.hm = 16 := by decide +kernel

/-! Row maps, lockouts and repair. -/

theorem test_hyp_StatusWriteBack :
    let s := eqd (fun q => { q with sc := { seq := 2, tags := [(0, 1), (3, 2)] } })
    s.regOpen (.helm 0) (eqAddr 255 0x20) true ∧ ((s.eq 255).sc.seq - 1).toNat < 128
      ∧ (s.eq 255).sc.has 0 = true ∧ (∀ t ∈ (s.eq 255).sc.tags, ((s.eq 255).sc.seq - t.2).toNat ≤ 127)
      ∧ dieExists 16 = true ∧ s.regOpen (.helm 0) (regAddr 16 0x0E0000) true := by
  decide +kernel

theorem test_hyp_RowMapsAlwaysGood :
    countOf (State.reset.rowMap 0).active = 30 ∧ (State.reset.rowMap 0).active &&& (State.reset.rowMap 0).failed = 0
      ∧ countOf (activeOf 0xFFFFFFFF) = 0 ∧ countOf (activeOf 3) = 30 ∧ countOf (activeOf 7) = 29 := by decide +kernel

theorem test_hyp_LogicalCoordinates :
    siteExists 12221 = true ∧ (State.reset.rowMap (12221 / 32)).active.getLsbD (12221 % 32) = true
      ∧ State.reset.logicalOf 12221 = some (119, 89)
      ∧ (State.reset.rowMap (12223 / 32)).active.getLsbD (12223 % 32) = false := by decide +kernel

theorem test_hyp_CoreLockedOut :
    let s := powered State.reset
    let t : State := { s with grid := { rows := [(0, rowMapOf 1)] } }
    siteExists 0 = true ∧ s.siteFailed 0 = false ∧ s.dieOn (dieOfCore 0) = true ∧ s.coreInReset 0 = false
      ∧ s.managing = true ∧ s.reachOf 7 = rCore ∧ s.siteTask 0 = none ∧ s.rowBusy (rowKey 0) = false ∧ t.siteFailed 0 = true ∧ t.managing = true := by
  decide +kernel

theorem test_hyp_DieLockedOutAndReturned :
    let s := powered State.reset
    let t : State := { s with grid := { diesOut := [11] } }
    s.grid.diesOut.contains 11 = false ∧ s.managing = true ∧ s.dieUp 11 = true ∧ t.grid.diesOut.contains 11 = true
      ∧ t.managing = true ∧ t.dieInReset 11 = false := by decide +kernel

/-- One open episode of a source with a target. -/
def asserted (src reach die core : Nat) : State :=
  { State.reset with resets := { State.reset.resets with episodes :=
    [{ asserted := [{ src := src, reach := reach, die := die, core := core, held := true }], reach := reach, die := die
       core := core }] } }

theorem test_hyp_RecoveryEscalates :
    dieOfCore 5 < 12 ∧ (asserted 7 rCore 0 5).grid.diesOut.contains (dieOfCore 5) = false
      ∧ (∃ e ∈ (asserted 7 rCore 0 5).resets.episodes, ∃ a ∈ e.asserted, a.src = 7 ∧ a.held = true ∧ a.core = 5)
      ∧ ({ asserted 7 rCore 0 5 with grid := { diesOut := [0] } } : State).grid.diesOut.contains (dieOfCore 5) = true
      ∧ (∃ e ∈ (asserted 8 rDie 3 0).resets.episodes, ∃ a ∈ e.asserted, a.src = 8 ∧ a.held = true ∧ a.die = 3)
      ∧ ((asserted 8 rDie 3 0).resets.episodes[0]?).map (fun e => decide (e.reach ≠ rPower ∧ e.reach ≠ rModule))
          = some true := by decide +kernel

theorem test_hyp_ParityMakesSafe :
    let s := powered State.reset
    [ParityBlock.eventQueue 255, .port 7, .graphEngine 11, .queueGe 4095, .queueHd 4095, .regionGe 63, .regionHd 63,
      .store 7, .memory 15, .service].all (fun b => parityBlockExists b && s.dieUp (s.parityDie b)) = true
      ∧ (s.region (s.sq 4095).region).host = 0 ∧ s.grid.diesOut.contains 0 = false := by decide +kernel

theorem test_hyp_RepairsRecorded :
    let s := powered State.reset
    let t : State := { s with store := { copying := [(7, some 63)], waiting := [(7, [5])] } }
    let u : State := { s with grid := { diesOut := [11] } }
    let e : RepairEntry := { kind := 2, die := 11, index := 0 }
    Assoc.get none t.store.copying 7 = some 63 ∧ t.dieUp 23 = true ∧ t.inGap 23 = false ∧ u.svUp = true ∧ u.repaired e = true
      ∧ u.repairs = [] ∧ e.index < 2 ^ 32 := by decide +kernel

/-! Boot, firmware and identity. The image below was signed outside the model with the private key 3. -/

/-- The first 32 bytes of the header of an image of 4,096 bytes with two empty components, SVN 1. -/
def fwFields (recovery : Nat) : List Byte :=
  leBytes 4 0x57464B5A ++ leBytes 2 1 ++ leBytes 2 2 ++ leBytes 4 0x4006 ++ leBytes 4 1 ++ leBytes 8 4096
    ++ leBytes 4 recovery ++ leBytes 4 0

/-- A component entry of no bytes at offset 4,096: its hash is SHA-256 of the empty string. -/
def fwEntry (type : Nat) : List Byte :=
  leBytes 1 type ++ leBytes 1 60 ++ leBytes 2 0 ++ leBytes 4 4096 ++ leBytes 8 0
    ++ beBytes 32 0xE3B0C44298FC1C149AFBF4C8996FB92427AE41E4649B934CA495991B7852B855

/-- 3 × G. -/
def fwKey : List Byte :=
  beBytes 32 0x5ecbe4d1a6330a44c8f7ef951d4bf165e6c6b721efada985fb41661bc6e7fd6c
    ++ beBytes 32 0x8734640c4998ff7e374b06ce1a64a2ecd82ab036384fb83d9a79b127a27d5032

/-- The image with its signature: r, which is the x coordinate of 2 × G, and s; the rest filled. -/
def fwImage (recovery sig : Nat) (fill : Byte) : List Byte :=
  fwFields recovery ++ fwEntry 1 ++ fwEntry 2 ++ List.replicate 288 0 ++ fwKey
    ++ beBytes 32 0x7cf27b188d034f7e8a52380304b51ac3c08969e277f21b35a60b48fc47669978
    ++ beBytes 32 sig ++ List.replicate 480 0 ++ List.replicate 3072 fill
def fwImageSig : Nat := 0xa39ae6fee9e537774f7f60fe007eff2ac9f8277b1097db348ae1b53b136363f5
def fwRecoverySig : Nat := 0xc56081782c06ee2b8ef09b6a93a2f5a68cbc47298a0ffd5c77a666b132f44b59

/-- Fuses that hold the SHA-256 of the key. -/
def keyed : Fuses :=
  { rootHash0 := beBytes 32 0x4977227b955a0c90988fdc01b5623170ab8e313fe064162240d6cf4bdac7e65e }

/-- An image's parts, once it has passed its check. -/
def fwRuns (recovery : Bool) : Image :=
  { svn := 1, root := 0, recovery := recovery, parts := [(1, 60, []), (2, 60, [])] }

/-- The signed image passes: hash, key, ECDSA over P-256 and the six checks of R426. -/
theorem test_checkImage_good :
    keyed.checkImage (fwImage 0 fwImageSig 0) = .ok (fwRuns false) := by decide +kernel

theorem test_checkImage_flash :
    keyed.checkImage (fwImage 0 fwImageSig 0xFF) = .ok (fwRuns false) := by decide +kernel

theorem test_checkImage_recovery :
    keyed.checkImage (fwImage 1 fwRecoverySig 0) = .ok (fwRuns true) := by decide +kernel

/-- The signature of another header fails with SIGNATURE. -/
theorem test_checkImage_signature : keyed.checkImage (fwImage 0 fwRecoverySig 0) = .error 4 := by decide +kernel

/-- SHA-256 of "abc", the worked example of the standard. -/
theorem test_sha256_abc : sha256 [0x61, 0x62, 0x63]
    = beBytes 32 0xBA7816BF8F01CFEA414140DE5DAE2223B00361A396177A9CB410FF61F20015AD := by decide +kernel

theorem test_hyp_ImageChecks :
    imageHeaderOk [] = false ∧ imageHeaderOk (fwImage 0 0 0) = true ∧ ({} : Fuses).rootOf (fwImage 0 0 0) = none
      ∧ keyed.rootOf (fwImage 0 0 0) = some 0 := by decide +kernel

/-- Bytes at consecutive addresses as a map, the unlisted byte left out. -/
def spread (d : Byte) (a : Nat) : List Byte → Assoc Byte
  | [] => []
  | b :: bs => if b = d then spread d (a + 1) bs else (a, b) :: spread d (a + 1) bs

theorem get_spread_below (d : Byte) (bs : List Byte) (a x : Nat) (h : x < a) : Assoc.get d (spread d a bs) x = d := by
  induction bs generalizing a with
  | nil => rfl
  | cons b bs ih =>
    unfold spread
    split
    · exact ih (a + 1) (by omega)
    · rw [Assoc.get, if_neg (by omega)]
      exact ih (a + 1) (by omega)

theorem get_spread (d : Byte) (bs : List Byte) (a i : Nat) : Assoc.get d (spread d a bs) (a + i) = bs.getD i d := by
  induction bs generalizing a i with
  | nil => rfl
  | cons b bs ih =>
    unfold spread
    cases i with
    | zero =>
      split
      · next h => rw [get_spread_below d bs (a + 1) (a + 0) (by omega)]; simp [h]
      · rw [Assoc.get, if_pos (by omega)]; simp
    | succ i =>
      have e : a + (i + 1) = a + 1 + i := by omega
      split
      · rw [e, ih]; simp
      · rw [Assoc.get, if_neg (by omega), e, ih]; simp

theorem readFrom_spread (rd : Nat → Byte) (d : Byte) (bs : List Byte) (a n : Nat) (hn : n ≤ bs.length)
    (h : ∀ i, i < bs.length → rd (a + i) = bs.getD i d) : readFrom rd a n = bs.take n := by
  induction n generalizing a bs with
  | zero => simp [readFrom]
  | succ n ih =>
    cases bs with
    | nil => simp at hn
    | cons b bs =>
      have h0 := h 0 (by simp)
      simp only [readFrom, List.take_succ_cons]
      rw [ih bs (a + 1) (by simpa using hn) (fun i hi => by
        have := h (i + 1) (by simpa using hi)
        rw [Nat.add_assoc, Nat.add_comm 1 i, this]; simp)]
      rw [show rd a = b by simpa using h0]

/-- With no error mark, poison or redirect, every burst reads well. -/
theorem readBursts_clean (s : State) (h : s.ext = {}) (l : List Nat) : s.readBursts l = (s, none) := by
  induction l with
  | nil => rfl
  | cons b l ih =>
    have hb : s.readBurst b = (s, false) := by simp [State.readBurst, State.port_, h, Assoc.get]
    simp only [State.readBursts, hb]
    exact ih

/-- A read of external memory that holds some bytes gives them. -/
theorem memRead_spread (s : State) (a n : Nat) (bs : List Byte) (he : s.ext = {}) (ht : s.target a = .ext)
    (hm : s.mem = spread 0 a bs) (hn : n ≤ bs.length) (hw : a + bs.length ≤ windowBase) :
    s.memRead a n = (s, .ok (bs.take n)) := by
  have hb : s.bytes a n = bs.take n := readFrom_spread s.byte 0 bs a n hn (fun i hi => by
    rw [State.byte, if_neg (by omega), hm, get_spread])
  simp only [State.memRead, ht, readBursts_clean s he, hb]

/-- The slot of the flash holds the good image. -/
def flashed : State :=
  { powered State.reset with boot := { State.reset.boot with
      fuses := keyed, flash := spread 0xFF 0 (fwImage 0 fwImageSig 0xFF) } }

theorem test_hyp_BootOutcome :
    flashed.boot.stage = .rom ∧ flashed.svUp = true ∧ flashed.boot.fuses.eccOk = true
      ∧ flashed.slotBytes = fwImage 0 fwImageSig 0xFF ∧ (fwRuns false).recovery = false := by
  have hl : (fwImage 0 fwImageSig 0xFF).length = 4096 := by decide +kernel
  have hr : ∀ n, n ≤ 4096 → flashed.flashBytes 0 n = (fwImage 0 fwImageSig 0xFF).take n := fun n hn =>
    readFrom_spread flashed.flashByte 0xFF (fwImage 0 fwImageSig 0xFF) 0 n (by rw [hl]; exact hn)
      (fun i _ => get_spread 0xFF (fwImage 0 fwImageSig 0xFF) 0 i)
  refine ⟨rfl, by decide +kernel, rfl, ?_, rfl⟩
  have hs : imageSize ((fwImage 0 fwImageSig 0xFF).take 1024) = 4096 := by decide +kernel
  unfold State.slotBytes
  simp only []
  rw [hr 1024 (by decide), hs, if_pos (by decide), Nat.max_eq_right (by decide), hr 4096 (Nat.le_refl _)]
  exact List.take_of_length_le (by omega)

theorem test_hyp_BootOutcome_fails :
    State.reset.boot.fuses.checkImage State.reset.slotBytes = .error 2 ∧ State.reset.svUp = true
      ∧ ({ State.reset.boot.fuses with eccOk := false } : Fuses).eccOk = false := by decide +kernel

/-- Boot waits for a recovery image, of which some bytes have come. -/
def waiting (got : List Byte) : State :=
  { powered State.reset with boot :=
      { State.reset.boot with fuses := keyed, stage := .recoveryWait, recovery := got } }

theorem test_hyp_RecoveryImages :
    let b := fwImage 1 fwRecoverySig 0
    let s := waiting (b.take 3840)
    s.managing = true ∧ s.boot.stage = .recoveryWait ∧ (b.drop 3840).length = 256
      ∧ s.boot.recovery ++ b.drop 3840 = b ∧ recoveryNeeds b = b.length ∧ s.boot.fuses = keyed
      ∧ keyed.checkImage b = .ok (fwRuns true) ∧ (fwRuns true).recovery = true :=
  ⟨by decide +kernel, rfl, by decide +kernel, List.take_append_drop _ _, by decide +kernel, rfl,
    test_checkImage_recovery, rfl⟩

theorem test_hyp_RecoveryImages_fails :
    (List.replicate 256 (0 : Byte)).length < recoveryNeeds (List.replicate 256 0)
      ∧ (waiting []).dieUp 56 = true ∧ (waiting []).domOn 12 = true ∧ (waiting []).domOn 13 = true
      ∧ (waiting []).svUp = true ∧ (waiting []).boot.recovery = []
      ∧ keyed.checkImage [] = .error 2 ∧ (waiting (List.replicate 768 0)).boot.stage = .recoveryWait
      ∧ recoveryNeeds (List.replicate 1024 0) ≤ 1024 ∧ keyed.checkImage (List.replicate 1024 0) = .error 2
      ∧ State.reset.boot.stage ≠ .recoveryWait ∧ (waiting [0]).boot.recovery ≠ [] := by decide +kernel

/-- The module runs its image; bytes are staged at 0x1000 of host memory. -/
def updating (u : Option (Nat × List Byte)) (b : List Byte) : State :=
  let s := powered State.reset
  { s with
    mem := spread 0 0x1000 b
    boot := { s.boot with fuses := keyed, stage := .running, image := some (fwRuns false), keys := true, update := u } }

theorem updating_read (u : Option (Nat × List Byte)) (b : List Byte) (hb : b.length = 4096) :
    (updating u b).memRead 0x1000 4096 = (updating u b, .ok b) := by
  have h := memRead_spread (updating u b) 0x1000 4096 b rfl rfl rfl (by omega) (by rw [hb]; decide)
  rw [h, List.take_of_length_le (by omega)]

/-- A read by the service die of memory that is on and reads well. -/
theorem geRead_good (s : State) (die a n : Nat) (bs : List Byte) (hn : n ≠ 0) (ht : s.target a = .ext)
    (hl : a + n ≤ s.targetEnd a) (ho : s.firstOff a (a + n - 1) = none) (hr : s.memRead a n = (s, .ok bs)) :
    s.geRead die a n = (s, .ok bs) := by
  have hi : s.idleWindow a = false := by simp [State.idleWindow, ht]
  simp [State.geRead, State.moverRead, hn, ht, hi, Nat.not_lt.mpr hl, ho, hr]

theorem updating_geRead (u : Option (Nat × List Byte)) (b : List Byte) (hb : b.length = 4096)
    (hl : 0x1000 + 4096 ≤ (updating u b).targetEnd 0x1000)
    (ho : (updating u b).firstOff 0x1000 (0x1000 + 4096 - 1) = none) :
    (updating u b).geRead 60 0x1000 4096 = (updating u b, .ok b) :=
  geRead_good _ _ _ _ _ (by decide) rfl hl ho (updating_read u b hb)

theorem test_hyp_UpdateBegins :
    let s := updating none (fwImage 0 fwImageSig 0)
    s.managing = true ∧ s.boot.update = none ∧ s.boot.image.isSome = true ∧ 0x1000 + 4096 ≤ s.hostBytes
      ∧ s.dieWaits 0x1000 = false ∧ s.accessWaits 0x1000 4096 false = false
      ∧ s.geRead 60 0x1000 4096 = (s, .ok (fwImage 0 fwImageSig 0)) ∧ s.boot.fuses = keyed
      ∧ keyed.checkImage (fwImage 0 fwImageSig 0) = .ok (fwRuns false) := by
  refine ⟨?_, rfl, rfl, ?_, ?_, ?_, updating_geRead _ _ ?_ ?_ ?_, rfl, test_checkImage_good⟩ <;> decide +kernel

theorem test_hyp_UpdateBegins_fails :
    let b := fwImage 0 fwRecoverySig 0
    let s := updating none b
    s.boot.update = none ∧ s.geRead 60 0x1000 4096 = (s, .ok b) ∧ s.boot.fuses = keyed
      ∧ keyed.checkImage b = .error 4 ∧ (updating (some (0, [])) []).boot.update.isSome = true := by
  refine ⟨rfl, updating_geRead _ _ ?_ ?_ ?_, rfl, test_checkImage_signature, rfl⟩ <;> decide +kernel

/-- An image with RECOVERY set. -/
theorem test_hyp_UpdateBegins_recovery :
    let b := fwImage 1 fwRecoverySig 0
    let s := updating none b
    s.boot.update = none ∧ s.geRead 60 0x1000 4096 = (s, .ok b) ∧ keyed.checkImage b = .ok (fwRuns true)
      ∧ (fwRuns true).recovery = true := by
  refine ⟨rfl, updating_geRead _ _ ?_ ?_ ?_, test_checkImage_recovery, rfl⟩ <;> decide +kernel

/-- Bytes in memory whose port is off cannot be read, by FW_COMMIT and at the end of an update. -/
theorem test_hyp_UpdateBegins_off :
    let u := fun (x : Option (Nat × List Byte)) => { updating x [] with power := { state := 0x80000, req := 0x80000 } }
    (match ((u none).geRead 60 0x1000 4096).2 with | .error _ => true | _ => false) = true
      ∧ (u none).managing = true ∧ (u none).dieWaits 0x1000 = false ∧ (u none).accessWaits 0x1000 4096 false = false
      ∧ (u none).boot.image.isSome = true ∧ 0x1000 + 4096 ≤ (u none).hostBytes
      ∧ (let s := u (some (0x1000, [0]))
         s.svUp = true ∧ s.accessWaits 0x1000 1 false = false
           ∧ (match (s.geRead 60 0x1000 1).2 with | .error _ => true | _ => false) = true) := by decide +kernel

theorem test_hyp_UpdateEnds :
    let img := fwImage 0 fwImageSig 0
    let s := updating (some (0x1000, img)) img
    s.svUp = true ∧ s.boot.update = some (0x1000, img) ∧ s.accessWaits 0x1000 4096 false = false
      ∧ s.geRead 60 0x1000 4096 = (s, .ok img)
      ∧ img.length = 4096 ∧ s.boot.fuses.checkImage img = .ok (fwRuns false) ∧ imageSize img = img.length := by
  refine ⟨?_, rfl, ?_, updating_geRead _ _ ?_ ?_ ?_, ?_, test_checkImage_good, ?_⟩ <;> decide +kernel

theorem test_hyp_UpdateEnds_fails :
    let img := fwImage 0 fwImageSig 0
    let b := fwImage 0 fwRecoverySig 0
    let s := updating (some (0x1000, img)) b
    s.boot.update = some (0x1000, img) ∧ s.geRead 60 0x1000 4096 = (s, .ok b) ∧ b ≠ img := by
  refine ⟨rfl, updating_geRead _ _ ?_ ?_ ?_, ?_⟩ <;> decide +kernel

theorem test_hyp_FuseBurns :
    let s := updating none []
    let r : State := { s with boot := { s.boot with image := some (fwRuns true) } }
    s.managing = true ∧ s.boot.update = none ∧ s.boot.image = some (fwRuns false) ∧ r.boot.image = some (fwRuns true)
      ∧ (fwRuns false).root ≠ 1 ∧ s.boot.fuses.rootRevoke.getLsbD 0 = false
      ∧ ({ s.boot.fuses with rootRevoke := 1 } : Fuses).rootRevoke.getLsbD 0 = true := by decide +kernel

theorem test_hyp_Attestation :
    State.reset.svUp = true ∧ State.reset.managing = true ∧ (updating none []).svUp = true
      ∧ (updating none []).boot.keys = true ∧ State.reset.boot.keys = false
      ∧ State.reset.fuseFault.svUp = true ∧ State.reset.fuseFault.statusOnly = true := by decide +kernel

theorem test_hyp_AttestationRegisters :
    let s := updating none []
    let full : State := { s with boot := { s.boot with measures := List.replicate 24 [] } }
    s.regOpen (.helm 0) attCtlAddr true ∧ s.boot.keys = true ∧ s.hostThere 0x1000 208 = true
      ∧ s.hostWaits 0x1000 208 true = false
      ∧ (unitsOf 64 0x1030 32).all (fun b => decide (s.readBurst b = (s, false))) = true
      ∧ 0x1000 + (s.reportBody (s.bytes 0x1030 32)).length + 64 ≤ extEnd
      ∧ s.regOpen (.helm 0) attExtendAddr true ∧ s.boot.measures.length < 24 ∧ s.hostThere 0x2000 48 = true
      ∧ s.hostWaits 0x2000 48 false = false
      ∧ (unitsOf 64 0x2000 48).all (fun b => decide (s.readBurst b = (s, false))) = true
      ∧ (let t : State := { s with ext := { ports := (List.range 16).map (fun m => (m, { repairing := true })) } }
         t.hostWaits 0x1000 208 true = true ∧ t.hostWaits 0x2000 48 false = true)
      ∧ 24 ≤ full.boot.measures.length ∧ (powered State.reset).boot.keys = false := by decide +kernel

/-! Registers, pins and the whole machine. -/

theorem test_hyp_GraphEngineConfig : (powered State.reset).regOpen (.helm 0) (regAddr 11 0x100000) true := by
  decide +kernel

theorem test_hyp_QueueConfigured :
    let s := powered State.reset
    let v : BitVec 64 := 0x8000000000000004
    let t := entered s 5 0 0 0
    s.regOpen (.helm 0) (sqAddr 4095 8) true ∧ bits v 0 5 ≤ 16 ∧ (s.sq 4095).enable = false ∧ v.getLsbD 63 = true
      ∧ s.mayEnable ((s.sq 4095).withCfg v) = true ∧ (t.sq 0).enable = true ∧ (t.sq 0).busy = true
      ∧ ((graphed s []).sq 0).enable = true ∧ s.regOpen (.helm 0) (sqAddr 0 0x20) true ∧ (t.sq 0).state = .running
      ∧ (let u : State := { s with ge := { sqs := [(0, { enable := true, state := .cutHeld })] } }
         (u.sq 0).state = .cutHeld ∧ (u.sq 0).enable = true ∧ (u.sq 0).busy = false) := by decide +kernel

theorem test_hyp_RegionConfigured :
    let s := powered State.reset
    let v : BitVec 64 := 0xC000000000000FFF
    s.regOpen (.helm 0) (regionAddr 63 0) true ∧ s.defRefused 63 (v &&& defMask) = true
      ∧ s.defRefused 0 (v &&& defMask) = false ∧ s.regOpen (.helm 0) (regionAddr 0 8) true
      ∧ s.graphLoaded 0 = false ∧ (s.region 0).areaSize = 0 ∧ s.regOpen (.helm 0) (regionAddr 0 0x10) true
      ∧ (graphed s []).graphLoaded 0 = true
      ∧ (let t := withArea s
         (t.region 0).areaSize ≠ 0 ∧ t.graphLoaded 0 = false ∧ t.regOpen (.helm 0) (regionAddr 0 8) true
           ∧ storeBase ≤ (t.region 0).areaBase ∧ (t.region 0).areaBase + 4 * 4096 ≤ t.poolStart
           ∧ t.poolStart < bits (0xF00000000000 : BitVec 64) 12 36 * 4096 + 4 * 4096
           ∧ bits (0x1000 : BitVec 64) 12 36 * 4096 < storeBase
           ∧ t.poolStart < (t.region 0).areaBase + (2 ^ 32 - 1) * 4096) := by decide +kernel

theorem test_hyp_RegionsStayApart :
    let s := powered State.reset
    s.regOpen (.helm 0) (regionAddr 63 0) true
      ∧ ({ def_ := (0xC000000000000FFF : BitVec 64) &&& defMask } : Region).holds 11 29 = true
      ∧ (s.region 0).holds 11 29 = true := by decide +kernel

/-- The operator writes a register that is not one of its own. -/
theorem test_hyp_RegisterHasOneMeaning :
    State.reset.svUp = true ∧ inRegSpace (sqDbAddr 0) = true ∧ sqDbAddr 0 ≠ regAddr 60 0x320000
      ∧ sqDbAddr 0 ≠ regAddr 60 0x320020 ∧ (∀ p, p < 8 → sqDbAddr 0 ≠ portAddr p 8) := by decide +kernel

theorem test_hyp_RegisterLock :
    let s := powered State.reset
    let t : State := { s with resets := { s.resets with locks := [49] } }
    dieExists 49 = true ∧ s.managing = true ∧ linkDie 7 = 49 ∧ t.regOpen (.helm 0) (portAddr 7 0) true := by decide +kernel

theorem test_hyp_EndpointAndTestPort :
    State.reset.svUp = true ∧ State.reset.clock.porEnded = true ∧ State.reset.pins.trstN = true
      ∧ ({ State.reset.pins with trstN := false } : Pins).trstN = false ∧ State.reset.pins.i3c = none ∧ State.reset.power.state = 0x80000
      ∧ (powered State.reset).power.state ≠ 0x80000 ∧ (powered State.reset).pins.trstN = true := by
  decide +kernel

theorem test_hyp_CablePresence :
    let x := (ported (fun p => { p with state := .training })).lport 2
    x.state = .training ∧ x.retrain = false ∧ ((ported id).lport 2).state ≠ .training := by decide +kernel

/-- A step that answers a next state: the front command runs, the rest waits. -/
theorem test_step_front :
    step { State.reset with pending := [.extest, .rstdaa] } = exec .extest { State.reset with pending := [.rstdaa] }
      ∧ step State.reset = .next { State.reset with aclk := 1 } := ⟨rfl, rfl⟩

/-- Its outcome is next, so the statements about a step that answers next are not empty. -/
theorem test_step_runs : (match step { State.reset with pending := [.extest, .rstdaa] } with
    | .next t => decide (t.pending = [.rstdaa]) && Memory.wf t.mem
    | _ => false) = true := by decide +kernel

/-! Worked examples of the manual. -/

/-- File 01, naming one core: the site of CD5 at row 17, column 9. -/
theorem test_example_core : State.reset.logicalOf 5673 = some (39, 47) ∧ State.reset.physOf 39 47 = some 5673 := by
  decide +kernel

/-- File 03, three small terms: the products are 3 × 2⁻²⁷; PLAIN keeps 1.0. -/
theorem test_example_terms :
    let t : Fl := .fin false 3 (-27)
    let c1 := (compStep { s := 0x3F800000, f := 0 } t).cell
    let c2 := (compStep c1 t).cell
    let c3 := (compStep c2 t).cell
    c1 = { s := 0x3F800000, f := 0x1800 } ∧ c2 = { s := 0x3F800000, f := 0x3000 }
      ∧ c3 = { s := 0x3F800001, f := 0xC800 } ∧ (fold c3.s c3.f).1 = 0x3F800001
      ∧ (plainStep { s := 0x3F800000, f := 0 } t).cell.s = 0x3F800000 := by decide +kernel

/-- File 03, renormalisation across a binade. -/
theorem test_example_binade :
    (compStep { s := 0x3FFFFFFF, f := 0x2000 } (.fin false 3 (-24))).cell = { s := 0x40000000, f := 0x3000 } := by
  decide +kernel

/-- File 03, one value into MXFP8: 300.0 at the head of a row of zeros. -/
theorem test_example_mxfp8 :
    (mxBlock .mxe4m3 (0x43960000 :: List.replicate 31 0)).scale = 0x7F
      ∧ (mxBlock .mxe4m3 (0x43960000 :: List.replicate 31 0)).elems.head?.map (fun c => c.code) = some 0x79 := by decide +kernel

/-- File 13, one address before its channel retires. -/
theorem test_example_channel : channelOf 0x01234500 = 69 ∧ portOf 0x01234500 = 5 ∧ chanOffset 0x01234500 = 0xC200 := by
  decide

/-- File 14, finding a record: record 1,299 of a ring of 512. -/
theorem test_example_phase : phaseOf 1299 9 = 1 ∧ 0x100000 + 1299 % 2 ^ 9 * 64 = 0x1044C0 := by decide

/-- File 17, a row that runs short: column 20, then column 3. -/
theorem test_example_row :
    activeOf 0x1000 = 0x7FFFEFFF ∧ activeOf 0x00101000 = 0xFFEFEFFF ∧ activeOf 0x00101008 = 0xFFEFEFF7 := by
  decide +kernel

/-- File 19, a write-back after two newer events: bits 0 DOWN, 1 RETRAIN, 2 SPARED. -/
theorem test_example_write_back :
    let x : Sc := { seq := 0x43, tags := [(0, 0x42), (1, 0x43), (2, 0x41)] }
    (x.writeBack 0x41).has 2 = false ∧ (x.writeBack 0x41).has 0 = true ∧ (x.writeBack 0x41).has 1 = true := by
  decide +kernel

/-- File 07, zero-run coding of a short tensor: the payload of one compression unit. -/
theorem test_example_zero_run :
    zrunPayload 2 [0x80, 0x3F, 0, 0, 0, 0, 0, 0, 0, 0, 0, 0x40, 0, 0x80, 0, 0]
      = [0x00, 0x80, 0x80, 0x3F, 0x03, 0x00, 0x02, 0x80, 0x00, 0x40, 0x00, 0x80, 0x00, 0x00] := by decide +kernel

/-- File 10, Table 3: the words after rounds 0 and 1 of drop_word, with every input zero. -/
theorem test_example_drop_rounds :
    let k := words16 4 0
    let r0 := dropRound k (dropStart 0 0 0) 0
    r0 = [1, 3, 2, 0, 3, 1, 0, 2]
      ∧ dropRound k r0 1 = [0x501, 0x109, 0x703, 0x30F, 0x101, 0x501, 0x303, 0x707] := by decide +kernel

/-- File 12, one hop of a BLOCK8 exchange: scale 113, code 0x6C in, 0.0064 added, code 0x75 out. -/
theorem test_example_hop :
    block8Scale 117 8 = 113 ∧ (chainCode 113 (some 0x6C) 0x3BD1B717).code = 0x75
      ∧ (chainCode 113 (some 0x6C) 0x3BD1B717).sat = false ∧ deq8 113 0x75 = 0x3C500000 := by decide +kernel

/-- R309: on a ring of five, two positions on each side reduce into the segment of position 3. -/
theorem test_chains : minusChain 5 3 = [1, 2] ∧ plusChain 5 3 = [0, 4] ∧ plusChain 2 0 = [] := by decide +kernel

/-- R310 and R311: a slot of 16 units with its trailer, and the max bytes of zeros and of an infinity. -/
theorem test_wire :
    wireSlot 0 16 = 33856 ∧ (trailerBytes 0 1 2).length = 64 ∧ maxByte [0, 0x80000000] = 0
      ∧ maxByte [0x3F800000, 0x7F800000] = 254 := by decide +kernel

end Sys2Proof.Tests
end

section
/-! Rounding a dyadic number to the nearest integer, ties to even, and the saturating conversion of FP32 to an
integer code (R82). -/

namespace Sys2Proof.Machine

open Sys2Proof

/-- The exact rational value of a dyadic number. -/
def Dy.toRat (a : Dy) : ℚ := (a.m : ℚ) * (2 : ℚ) ^ a.e

/-- r is an integer nearest to x, and the even one where two are equally near. -/
def IsNearestEven (x : ℚ) (r : Int) : Prop :=
  |(r : ℚ) - x| ≤ 1 / 2 ∧ (|(r : ℚ) - x| = 1 / 2 → r % 2 = 0)

theorem isNearestEven_intCast (r : Int) : IsNearestEven r r := by
  simp [IsNearestEven]

/-- Rounding to nearest even does not depend on the sign. -/
theorem IsNearestEven.neg {x : ℚ} {r : Int} (h : IsNearestEven x r) : IsNearestEven (-x) (-r) := by
  obtain ⟨hnear, htie⟩ := h
  have hdist : |((-r : Int) : ℚ) - -x| = |(r : ℚ) - x| := by
    rw [Int.cast_neg, neg_sub_neg, abs_sub_comm]
  refine ⟨hdist ▸ hnear, fun h => ?_⟩
  have := htie (hdist ▸ h)
  omega

/-- An integer at the distance t / b of x is nearest where t is at most half of b, half only for an even integer. -/
theorem isNearestEven_of_abs_sub_eq {x : ℚ} {r : Int} {t b : Nat} (hb : 0 < b) (hdist : |(r : ℚ) - x| = (t : ℚ) / b)
    (hle : 2 * t ≤ b) (htie : 2 * t = b → r % 2 = 0) : IsNearestEven x r := by
  have hbQ : (0 : ℚ) < b := by exact_mod_cast hb
  have hleQ : (2 * t : ℚ) ≤ b := by exact_mod_cast hle
  unfold IsNearestEven
  rw [hdist, div_le_iff₀ hbQ, div_eq_iff hbQ.ne']
  refine ⟨by linarith, fun h => htie ?_⟩
  have : (2 * t : ℚ) = b := by linarith
  exact_mod_cast this

/-- Down: q is nearest to q + r / b where r is at most half of b, half only for an even q. -/
theorem isNearestEven_floor {b r : Nat} (q : Nat) (hb : 0 < b) (hr : 2 * r ≤ b) (htie : 2 * r = b → q % 2 = 0) :
    IsNearestEven (((b * q + r : Nat) : ℚ) / b) q := by
  refine isNearestEven_of_abs_sub_eq (t := r) hb ?_ hr (by omega)
  have hbQ : (b : ℚ) ≠ 0 := by exact_mod_cast hb.ne'
  have hsub : ((q : Int) : ℚ) - ((b * q + r : Nat) : ℚ) / b = -(r / b) := by
    push_cast
    field_simp
    ring
  rw [hsub, abs_neg, abs_of_nonneg (by positivity)]

/-- Up: q + 1 is nearest to q + r / b where r is at least half of b, half only for an odd q. -/
theorem isNearestEven_floor_add_one {b r : Nat} (q : Nat) (hb : 0 < b) (hlt : r < b) (hr : b ≤ 2 * r)
    (htie : 2 * r = b → q % 2 = 1) : IsNearestEven (((b * q + r : Nat) : ℚ) / b) (q + 1 : Nat) := by
  refine isNearestEven_of_abs_sub_eq (t := b - r) hb ?_ (by omega) (by omega)
  have hbQ : (b : ℚ) ≠ 0 := by exact_mod_cast hb.ne'
  have hsub : (((q + 1 : Nat) : Int) : ℚ) - ((b * q + r : Nat) : ℚ) / b = ((b - r : Nat) : ℚ) / b := by
    rw [Nat.cast_sub hlt.le]
    push_cast
    field_simp
    ring
  rw [hsub, abs_of_nonneg (by positivity)]

/-- `rneNat` rounds n / 2^k to nearest even: the remainder decides, and at a tie the parity of the quotient. -/
theorem rneNat_isNearestEven (n k : Nat) : IsNearestEven ((n : ℚ) / 2 ^ k) (rneNat n k) := by
  have hb : 0 < 2 ^ k := by positivity
  have hlt : n % 2 ^ k < 2 ^ k := Nat.mod_lt n hb
  have hn : (n : ℚ) / 2 ^ k = ((2 ^ k * (n / 2 ^ k) + n % 2 ^ k : Nat) : ℚ) / ((2 ^ k : Nat) : ℚ) := by
    rw [Nat.div_add_mod, Nat.cast_pow, Nat.cast_ofNat]
  rw [hn]
  simp only [rneNat]
  generalize n / 2 ^ k = q
  generalize n % 2 ^ k = r at hlt
  split_ifs with hlow hhigh hk heven
  · exact isNearestEven_floor q hb hlow.le (by omega)
  · exact isNearestEven_floor_add_one q hb hlt hhigh.le (by omega)
  · subst hk
    omega
  · exact isNearestEven_floor q hb (by omega) fun _ => heven
  · exact isNearestEven_floor_add_one q hb hlt (by omega) fun _ => by omega

theorem Dy.toRat_of_exponent_nonneg (a : Dy) (h : 0 ≤ a.e) : a.toRat = ((a.m * pow2 a.e : Int) : ℚ) := by
  rw [Dy.toRat, pow2, ← Int.toNat_of_nonneg h, zpow_natCast, Int.toNat_natCast]
  push_cast
  rfl

theorem Dy.toRat_of_exponent_neg (a : Dy) (h : a.e < 0) : a.toRat = (a.m : ℚ) / 2 ^ (-a.e).toNat := by
  have he : a.e = -((-a.e).toNat : Int) := by omega
  rw [Dy.toRat, he, zpow_neg, zpow_natCast, ← he, div_eq_mul_inv]

/-- `Dy.roundAt` on the integers rounds to nearest even. -/
theorem Dy.roundAt_zero_isNearestEven (a : Dy) : IsNearestEven a.toRat (a.roundAt 0) := by
  unfold Dy.roundAt
  split_ifs with he hneg
  · rw [a.toRat_of_exponent_nonneg he, sub_zero]
    exact isNearestEven_intCast _
  · have hm : (a.m : ℚ) = -(a.m.natAbs : ℚ) := by
      rw [← Int.cast_natCast, Int.ofNat_natAbs_of_nonpos hneg.le, Int.cast_neg, neg_neg]
    rw [a.toRat_of_exponent_neg (by omega), hm, neg_div, zero_sub]
    exact (rneNat_isNearestEven _ _).neg
  · have hm : (a.m : ℚ) = (a.m.natAbs : ℚ) := by
      rw [← Int.cast_natCast, Int.natAbs_of_nonneg (by omega)]
    rw [a.toRat_of_exponent_neg (by omega), hm, zero_sub]
    exact rneNat_isNearestEven _ _

theorem toRat_dy_fin (s : Bool) (m : Nat) (e : Int) : (Fl.fin s m e).dy.toRat = ratOf s m e := by
  cases s <;> simp [Fl.dy, Dy.toRat, ratOf]

@[simp] theorem Dy.scale_zero (a : Dy) : a.scale 0 = a := by
  simp [Dy.scale]

theorem signed_toNat {w : Nat} (b : BitVec w) (hw : 0 < w) : signed w b.toNat = b.toInt := by
  have hpow : 2 ^ w = 2 * 2 ^ (w - 1) := by
    rw [← Nat.pow_succ', Nat.succ_eq_add_one, Nat.sub_add_cancel hw]
  have htop : 2 ^ (w - 1) ≤ b.toNat ↔ ¬2 * b.toNat < 2 ^ w := by omega
  simp only [signed, BitVec.toInt_eq_toNat_cond, BitVec.toNat_mod_cancel, htop, ite_not, Nat.cast_pow, Nat.cast_ofNat]

/-- Limits that a w-bit two's-complement code can hold, in order. -/
structure CodeLimits (w : Nat) (lo hi : Int) : Prop where
  width : 0 < w
  least : -(2 ^ (w - 1)) ≤ lo
  ordered : lo ≤ hi
  greatest : hi < 2 ^ (w - 1)

/-- `clampInt` encodes the number clamped to the limits. -/
theorem clampInt_code {lo hi : Int} (w : Nat) (n : Int) (h : lo ≤ hi) :
    (clampInt w lo hi n).1 = (BitVec.ofInt w (max lo (min hi n))).toNat := by
  unfold clampInt
  split_ifs with hlo hhi
  · rw [max_eq_left (by omega)]
  · rw [min_eq_left (by omega), max_eq_right h]
  · rw [min_eq_right (by omega), max_eq_right (by omega)]

section
variable {w : Nat} {lo hi : Int} (L : CodeLimits w lo hi)
include L

/-- A number within the limits reads back from its code. -/
theorem CodeLimits.signed_ofInt {n : Int} (hlo : lo ≤ n) (hhi : n ≤ hi) :
    signed w (BitVec.ofInt w n).toNat = n := by
  obtain ⟨hw, hleast, -, hgreatest⟩ := L
  rw [signed_toNat _ hw]
  exact BitVec.toInt_ofInt_eq_self hw (by omega) (by omega)

theorem CodeLimits.clampInt_lt (n : Int) : (clampInt w lo hi n).1 < 2 ^ w := by
  rw [clampInt_code w n L.ordered]
  exact BitVec.isLt _

theorem CodeLimits.signed_clampInt (n : Int) : signed w (clampInt w lo hi n).1 = max lo (min hi n) := by
  rw [clampInt_code w n L.ordered]
  exact L.signed_ofInt (le_max_left _ _) (max_le L.ordered (min_le_left _ _))

end

theorem cvtInt_of_nan (w : Nat) (lo hi k : Int) {x : Lane} (hx : dec32 x = .nan) :
    cvtInt w lo hi x k = { code := 0, nan := true } := by
  simp only [cvtInt, hx]

theorem cvtInt_of_inf (w : Nat) (lo hi k : Int) {x : Lane} {s : Bool} (hx : dec32 x = .inf s) :
    cvtInt w lo hi x k = { code := (BitVec.ofInt w (if s then lo else hi)).toNat, sat := true } := by
  simp only [cvtInt, hx]

theorem cvtInt_of_fin (w : Nat) (lo hi k : Int) {x : Lane} {s : Bool} {m : Nat} {e : Int}
    (hx : dec32 x = .fin s m e) :
    cvtInt w lo hi x k =
      { code := (clampInt w lo hi (((Fl.fin s m e).dy.scale k).roundAt 0)).1
        sat := (clampInt w lo hi (((Fl.fin s m e).dy.scale k).roundAt 0)).2 } := by
  simp only [cvtInt, hx]

theorem signed_zero (w : Nat) : signed w 0 = 0 := by
  simp [signed]

/-- The integer that a conversion to [lo, hi] gives for a decoded value (R82). -/
def IsConverted (lo hi : Int) (v : Fl) (n : Int) : Prop :=
  match v with
  | .nan => n = 0
  | .inf s => n = if s then lo else hi
  | .fin s m e => ∃ r : Int, IsNearestEven (ratOf s m e) r ∧ n = max lo (min hi r)

/-- `cvtInt` gives a w-bit code, whose signed value is the rounded and saturated one. -/
theorem CodeLimits.cvtInt_isConverted {w : Nat} {lo hi : Int} (L : CodeLimits w lo hi) (x : Lane) :
    (cvtInt w lo hi x).code < 2 ^ w ∧ IsConverted lo hi (dec32 x) (signed w (cvtInt w lo hi x).code) := by
  cases hx : dec32 x with
  | nan =>
    rw [cvtInt_of_nan w lo hi 0 hx]
    exact ⟨by positivity, signed_zero w⟩
  | inf s =>
    rw [cvtInt_of_inf w lo hi 0 hx]
    refine ⟨BitVec.isLt _, ?_⟩
    cases s
    · exact L.signed_ofInt L.ordered le_rfl
    · exact L.signed_ofInt le_rfl L.ordered
  | fin s m e =>
    rw [cvtInt_of_fin w lo hi 0 hx, Dy.scale_zero]
    refine ⟨L.clampInt_lt _, _, ?_, L.signed_clampInt _⟩
    rw [← toRat_dy_fin]
    exact Dy.roundAt_zero_isNearestEven _

theorem codeLimits_int8 : CodeLimits 8 (-128) 127 := by
  constructor <;> norm_num

theorem codeLimits_int32 : CodeLimits 32 (-(2 ^ 31)) (2 ^ 31 - 1) := by
  constructor <;> norm_num

/-- Settles O15: `convert` is `cvtInt` at the limits of the type, and those limits fit the code. -/
theorem integerConversionRounds : Obligations.IntegerConversionRounds := by
  unfold Obligations.IntegerConversionRounds Claims.IntegerConversionRounds
  intro x row hrow
  have hcvt : ∃ c, convert row.1 x = some c ∧ c.code < 2 ^ row.2.1 ∧
      IsConverted row.2.2.1 row.2.2.2 (dec32 x) (signed row.2.1 c.code) := by
    simp only [List.mem_cons, List.not_mem_nil, or_false] at hrow
    obtain rfl | rfl := hrow
    · exact ⟨_, rfl, codeLimits_int8.cvtInt_isConverted x⟩
    · exact ⟨_, rfl, codeLimits_int32.cvtInt_isConverted x⟩
  obtain ⟨c, hc, hlt, hval⟩ := hcvt
  refine ⟨c, hc, hlt, ?_⟩
  revert hval
  cases dec32 x with
  | nan => exact id
  | inf s => exact id
  | fin s m e =>
    rintro ⟨r, ⟨hnear, htie⟩, hn⟩
    exact ⟨r, hnear, htie, hn⟩

end Sys2Proof.Machine
end


section
/-! Row maps keep R337. Four operations write the table of row maps: a MODULE reset (`State.resetScope`), the failure of
a site (`State.failSite`), a row map update (`State.updateRow`) and the repair record at boot (`State.takeRepair`). Each
writes a map that the algorithm of R338 computes from failed sites, or one it computed before; every other operation
leaves the table. -/

namespace Sys2Proof.Machine

open Sys2Proof

/-! Row maps that satisfy R337, as a property of the table of rows: what it takes to keep it, entry by entry. -/

/-- A row map that satisfies R337, in force and in what it has decided (R338). -/
def RowMap.Good (m : RowMap) : Prop :=
  rowMapGood m.failed m.active ∧ ∀ f a, m.next = some (f, a) → rowMapGood f a

/-- A table of rows each of whose maps satisfies R337. -/
def RowsGood (rows : Assoc RowMap) : Prop := ∀ key, RowMap.Good (Assoc.get {} rows key)

theorem rowMapsGood_iff (s : State) : rowMapsGood s ↔ RowsGood s.grid.rows := Iff.rfl

/-- The bits of a map built by setting one column after the other. -/
theorem bit_foldl_or_shift (l : List Nat) (m : BitVec 32) {n : Nat} (hn : n < 32) :
    bit (l.foldl (fun (m : BitVec 32) n => m ||| ((1 <<< n : Nat) : BitVec 32)) m) n =
      (bit m n || decide (n ∈ l)) := by
  induction l generalizing m with
  | nil => simp
  | cons k l ih =>
    have hbit : bit (m ||| ((1 <<< k : Nat) : BitVec 32)) n = (bit m n || decide (n = k)) := by
      rw [BitVec.natCast_eq_ofNat, bit, BitVec.getLsbD_or, BitVec.getLsbD_ofNat, Nat.one_shiftLeft, Nat.testBit_two_pow]
      simp [bit, hn, eq_comm]
    rw [List.foldl_cons, ih, hbit, Bool.or_assoc]
    simp

/-- The columns of a row that have not failed, lowest first. -/
def workingCols (failed : BitVec 32) : List Nat := (List.range 32).filter (fun n => !(bit failed n))

theorem bit_activeOf (failed : BitVec 32) {n : Nat} (hn : n < 32) :
    bit (activeOf failed) n = decide (n ∈ (workingCols failed).take 30) := by
  have hzero : bit (0 : BitVec 32) n = false := by simp [bit]
  rw [activeOf, bit_foldl_or_shift _ _ hn, hzero, Bool.false_or, workingCols]

theorem length_workingCols (failed : BitVec 32) : (workingCols failed).length = 32 - countOf failed := by
  have h := List.length_eq_countP_add_countP (fun n => bit failed n) (l := List.range 32)
  simp only [List.countP_eq_length_filter, List.length_range] at h
  simp only [workingCols, countOf]
  unfold bit at *
  grind

/-- ACTIVE and the list of columns it is built from have the same members, each once. -/
theorem countOf_activeOf (failed : BitVec 32) : countOf (activeOf failed) = Min.min 30 (32 - countOf failed) := by
  have hnodup : ((workingCols failed).take 30).Nodup := (List.nodup_range.filter _).sublist (List.take_sublist _ _)
  have hperm : ((List.range 32).filter (fun n => (activeOf failed).getLsbD n)).Perm ((workingCols failed).take 30) := by
    refine (List.perm_ext_iff_of_nodup (List.nodup_range.filter _) hnodup).mpr fun n => ?_
    have hlt : n ∈ (workingCols failed).take 30 → n < 32 := fun h =>
      List.mem_range.mp (List.mem_filter.mp (List.mem_of_mem_take h)).1
    have hbit : n < 32 → _ := fun hn => bit_activeOf failed hn
    simp only [bit] at hbit
    grind
  rw [countOf, hperm.length_eq, List.length_take, length_workingCols]

theorem bit_activeOf_failed (failed : BitVec 32) {n : Nat} (hn : n < 32) (hf : bit failed n = true) :
    bit (activeOf failed) n = false := by
  rw [bit_activeOf failed hn, decide_eq_false_iff_not]
  intro hmem
  have hworks := (List.mem_filter.mp (List.mem_of_mem_take hmem)).2
  simp [hf] at hworks

/-- A map built from its failed sites satisfies R337, whatever the sites. -/
theorem rowMapGood_activeOf (failed : BitVec 32) : rowMapGood failed (activeOf failed) := by
  refine ⟨BitVec.eq_of_getLsbD_eq fun n hn => ?_, countOf_activeOf failed⟩
  have hdisjoint := bit_activeOf_failed failed hn
  simp only [bit] at hdisjoint
  cases hf : failed.getLsbD n <;> simp [hf, hdisjoint]

theorem RowMap.good_default : RowMap.Good {} := by
  have hactive : activeOf 0 = 0x3FFFFFFF := by decide
  exact ⟨hactive ▸ rowMapGood_activeOf 0, by simp⟩

theorem rowMapOf_good (failed : BitVec 32) : (rowMapOf failed).Good :=
  ⟨rowMapGood_activeOf failed, by simp [rowMapOf]⟩

theorem RowMap.decide_good {m : RowMap} (hm : m.Good) (busy : Bool) (failed : BitVec 32) :
    (m.decide_ busy failed).Good := by
  cases busy
  · exact rowMapOf_good failed
  · refine ⟨hm.1, fun f a h => ?_⟩
    obtain ⟨rfl, rfl⟩ : failed = f ∧ activeOf failed = a := by simpa [RowMap.decide_] using h
    exact rowMapGood_activeOf failed

theorem rowsGood_nil : RowsGood [] := fun _ => RowMap.good_default

theorem RowsGood.put {rows : Assoc RowMap} (h : RowsGood rows) (key : Nat) {m : RowMap} (hm : m.Good) :
    RowsGood (Assoc.put {} rows key m) := fun k => by
  rw [Assoc.get_put]
  split
  · exact hm
  · exact h k

/-- The row maps that the fuses give satisfy R337: each is built from its failed sites (R340). -/
theorem Fuses.rowMaps_good (f : Fuses) : RowsGood f.rowMaps := by
  unfold Fuses.rowMaps
  induction f.sites with
  | nil => exact rowsGood_nil
  | cons e es ih =>
    intro key
    rw [List.map_cons, Assoc.get_cons]
    split
    · exact rowMapOf_good e.2
    · exact ih key

/-! How a goal about the rows passes through a choice and a fold. -/

@[simp] theorem rows_ite (p : Prop) [Decidable p] (a b : State) :
    (if p then a else b).grid.rows = if p then a.grid.rows else b.grid.rows :=
  apply_ite (fun s : State => s.grid.rows) p a b

@[simp] theorem rowsGood_ite (p : Prop) [Decidable p] (a b : Assoc RowMap) :
    RowsGood (if p then a else b) ↔ if p then RowsGood a else RowsGood b := by split <;> rfl

/-- A fold of updates that each leave the rows leaves them. -/
@[simp] theorem foldl_rows {β : Type} (f : State → β → State) (l : List β) (s : State)
    (hf : ∀ s x, (f s x).grid.rows = s.grid.rows) : (l.foldl f s).grid.rows = s.grid.rows := by
  induction l generalizing s with
  | nil => rfl
  | cons x l ih => rw [List.foldl_cons, ih, hf]

/-- A fold of updates that each keep the rows good keeps them good. -/
theorem foldl_rowsGood {β : Type} (f : State → β → State)
    (hf : ∀ s x, RowsGood s.grid.rows → RowsGood (f s x).grid.rows) (l : List β) (s : State)
    (h : RowsGood s.grid.rows) : RowsGood (l.foldl f s).grid.rows := by
  induction l generalizing s with
  | nil => exact h
  | cons x l ih => exact ih _ (hf s x h)

/-- The state that a pair names has the rows of the pair's state. -/
theorem rows_of_fst {α : Type} {p : State × α} {t : State} {x : α} (h : p = (t, x)) :
    t.grid.rows = p.1.grid.rows := by rw [h]

theorem rows_setCore (s : State) (c : Nat) (k : Core) : (s.setCore c k).grid.rows = s.grid.rows := by rfl

/-! The frame of each operation: the rows it leaves. First the flags, and the bytes of the module. -/

@[simp] theorem State.applyFlag_rows (s : State) (op n : Nat) (v : Word) :
    (s.applyFlag op n v).grid.rows = s.grid.rows := by
  unfold State.applyFlag
  split <;> simp

@[simp] theorem State.applyFlags_rows (s : State) (fs : List FlagOp) : (s.applyFlags fs).grid.rows = s.grid.rows := by
  simp [State.applyFlags]

@[simp] theorem State.setByte_rows (s : State) (a : Nat) (b : Byte) : (s.setByte a b).grid.rows = s.grid.rows := by
  simp [State.setByte]

@[simp] theorem State.setBytes_rows (s : State) (ws : List (Nat × Byte)) :
    (s.setBytes ws).grid.rows = s.grid.rows := by simp [State.setBytes]

@[simp] theorem State.putBytes_rows (s : State) (a : Nat) (bs : List Byte) :
    (s.putBytes a bs).grid.rows = s.grid.rows := by simp [State.putBytes]

/-! Cores, the bursts of external memory and the lines of the stores. -/

@[simp] theorem State.retire_rows (s : State) (c : Nat) : (s.retire c).grid.rows = s.grid.rows := by
  simp [State.retire]

@[simp] theorem State.weakRow_rows (s : State) (a : Nat) : (s.weakRow a).grid.rows = s.grid.rows := by
  simp [State.weakRow]

@[simp] theorem State.correctBurst_rows (s : State) (b : Nat) : (s.correctBurst b).grid.rows = s.grid.rows := by
  unfold State.correctBurst
  dsimp only
  repeat' split
  all_goals simp

@[simp] theorem State.poisonBurst_rows (s : State) (b : Nat) : (s.poisonBurst b).grid.rows = s.grid.rows := by
  simp [State.poisonBurst]

@[simp] theorem State.readBurst_rows (s : State) (b : Nat) : (s.readBurst b).1.grid.rows = s.grid.rows := by
  unfold State.readBurst
  repeat' split
  all_goals simp

@[simp] theorem State.readBursts_rows (s : State) (bs : List Nat) :
    (s.readBursts bs).1.grid.rows = s.grid.rows := by
  induction bs generalizing s with
  | nil => rfl
  | cons b bs ih =>
    unfold State.readBursts
    split
    · next h => simp [rows_of_fst h]
    · next h => simp [ih, rows_of_fst h]

@[simp] theorem State.extWrite_rows (s : State) (a : Nat) (bs : List Byte) :
    (s.extWrite a bs).grid.rows = s.grid.rows := by simp [State.extWrite]

@[simp] theorem State.spareBank_rows (s : State) (bank : Nat) : (s.spareBank bank).grid.rows = s.grid.rows := by
  simp [State.spareBank]

@[simp] theorem State.correctLine_rows (s : State) (l : Nat) : (s.correctLine l).grid.rows = s.grid.rows := by
  simp [State.correctLine]

@[simp] theorem State.poisonLine_rows (s : State) (l : Nat) : (s.poisonLine l).grid.rows = s.grid.rows := by
  simp [State.poisonLine]

@[simp] theorem State.readLines_rows (s : State) (ls : List Nat) :
    (s.readLines ls).1.grid.rows = s.grid.rows := by
  induction ls generalizing s with
  | nil => rfl
  | cons l ls ih =>
    unfold State.readLines
    split
    · rfl
    · split <;> simp [ih]

@[simp] theorem State.storeWrite_rows (s : State) (a : Nat) (bs : List Byte) :
    (s.storeWrite a bs).grid.rows = s.grid.rows := by simp [State.storeWrite]

@[simp] theorem State.veil_rows (s : State) (a : Nat) (bs : List Byte) : (s.veil a bs).1.grid.rows = s.grid.rows := by
  unfold State.veil
  dsimp only
  split <;> simp

@[simp] theorem State.memRead_rows (s : State) (a n : Nat) : (s.memRead a n).1.grid.rows = s.grid.rows := by
  unfold State.memRead
  split <;> grind [State.veil_rows, State.readBursts_rows, State.readLines_rows, State.setCore_grid]

theorem State.memWrite_rows {s t : State} {a : Nat} {bs : List Byte} (h : s.memWrite a bs = some t) :
    t.grid.rows = s.grid.rows := by
  unfold State.memWrite at h
  split at h
  · obtain rfl := Option.some.inj h; simp
  · obtain rfl := Option.some.inj h; simp
  · obtain ⟨k, -, rfl⟩ := Option.map_eq_some_iff.mp h; simp
  · obtain rfl := Option.some.inj h; rfl

/-! Stream contexts. -/

@[simp] theorem State.moverRead_rows (s : State) (a n : Nat) : (s.moverRead a n).1.grid.rows = s.grid.rows := by
  unfold State.moverRead
  split <;> grind [State.memRead_rows, State.useFree_grid]

@[simp] theorem State.moverReads_rows (s : State) (l : List (Nat × Nat)) :
    (s.moverReads l).1.grid.rows = s.grid.rows := by
  induction l generalizing s with
  | nil => rfl
  | cons x l ih =>
    unfold State.moverReads
    split
    · next h => simp [ih, rows_of_fst h]
    · next h => simp [rows_of_fst h]

@[simp] theorem State.checkCtx_rows (s : State) (c : Ctx) : (s.checkCtx c).1.grid.rows = s.grid.rows := by
  unfold State.checkCtx
  split <;> grind [State.moverReads_rows]

@[simp] theorem State.latch_rows (s : State) (c : Ctx) : (s.latch c).1.grid.rows = s.grid.rows := by
  unfold State.latch
  split <;> grind [State.moverReads_rows, State.checkCtx_rows]

@[simp] theorem State.discard_rows (s : State) (n k : Nat) : (s.discard n k).grid.rows = s.grid.rows := by
  simp [State.discard]

@[simp] theorem State.withdraw_rows (s : State) (n : Nat) : (s.withdraw n).grid.rows = s.grid.rows := by rfl

@[simp] theorem State.restoreCtx_rows (s : State) (n : Nat) : (s.restoreCtx n).grid.rows = s.grid.rows := by
  simp [State.restoreCtx]

@[simp] theorem State.withdrawFetch_rows (s : State) (n : Nat) : (s.withdrawFetch n).grid.rows = s.grid.rows := by
  rfl

@[simp] theorem State.loseAhead_rows (s : State) (n : Nat) : (s.loseAhead n).grid.rows = s.grid.rows := by
  simp [State.loseAhead]

@[simp] theorem State.settleCtx_rows (s : State) (n : Nat) : (s.settleCtx n).grid.rows = s.grid.rows := by
  unfold State.settleCtx
  dsimp only
  repeat' split
  all_goals simp

@[simp] theorem State.setSrcHasp_rows (s : State) (n : Nat) (f : Hasp → Hasp) :
    (s.setSrcHasp n f).grid.rows = s.grid.rows := by
  unfold State.setSrcHasp
  dsimp only
  repeat' split
  all_goals simp

@[simp] theorem State.dropRequest_rows (s : State) (r : Request) : (s.dropRequest r).grid.rows = s.grid.rows := by
  rfl

@[simp] theorem State.dropAccesses_rows (s : State) (which : Origin → Nat → Nat → Bool) :
    (s.dropAccesses which).grid.rows = s.grid.rows := by rfl

@[simp] theorem State.turns_rows (s : State) (kind : ReqKind) (spots : List Spot) :
    (s.turns kind spots).1.grid.rows = s.grid.rows := by rfl

/-! Submission queues, entries and the load of a graph. -/

@[simp] theorem State.toSq_rows (s : State) (q : Nat) (r : Rec) : (s.toSq q r).grid.rows = s.grid.rows := by rfl

@[simp] theorem State.entryDone_rows (s : State) (q : Nat) (tag : BitVec 32) (no status aborted late : Nat) :
    (s.entryDone q tag no status aborted late).grid.rows = s.grid.rows := by rfl

@[simp] theorem State.popEntry_rows (s : State) (q : Nat) : (s.popEntry q).grid.rows = s.grid.rows := by rfl

@[simp] theorem State.finishEntry_rows (s : State) (q : Nat) (e : Entry) (status : Nat) :
    (s.finishEntry q e status).grid.rows = s.grid.rows := by rfl

@[simp] theorem State.geRead_rows (s : State) (die a n : Nat) : (s.geRead die a n).1.grid.rows = s.grid.rows := by
  unfold State.geRead
  split <;> grind [State.moverRead_rows, State.violate_grid]

@[simp] theorem State.readImage_rows (s : State) (die a : Nat) : (s.readImage die a).1.grid.rows = s.grid.rows := by
  unfold State.readImage
  split <;> grind [State.geRead_rows]

@[simp] theorem State.readImages_rows (s : State) (die : Nat) (l : List Nat) :
    (s.readImages die l).1.grid.rows = s.grid.rows := by
  induction l generalizing s with
  | nil => rfl
  | cons a l ih => simp [State.readImages, ih]

@[simp] theorem State.checkImage_rows (s : State) (l : Loading) (r : List Byte) :
    (s.checkImage l r).1.grid.rows = s.grid.rows := by
  unfold State.checkImage
  split <;> grind [State.geRead_rows]

@[simp] theorem State.loadTask_rows (s : State) (l : Loading) (i : Nat) (r : List Byte) (earlier : List (Nat × Task)) :
    (s.loadTask l i r earlier).1.grid.rows = s.grid.rows := by
  unfold State.loadTask
  dsimp only
  repeat' split
  all_goals grind [State.geRead_rows, State.checkImage_rows]

@[simp] theorem State.loadTasks_rows (s : State) (l : Loading) (i : Nat) (acc : List (Nat × Task))
    (rs : List (List Byte)) : (s.loadTasks l i acc rs).1.grid.rows = s.grid.rows := by
  induction rs generalizing s i acc with
  | nil => rfl
  | cons r rs ih =>
    unfold State.loadTasks
    split
    · next h => simp [rows_of_fst h]
    · next h => simp [ih, rows_of_fst h]

@[simp] theorem State.readGraph_rows (s : State) (q : Nat) (e : Entry) :
    (s.readGraph q e).1.grid.rows = s.grid.rows := by
  unfold State.readGraph
  dsimp only
  split <;> grind [State.geRead_rows, State.loadTasks_rows, State.readImages_rows]

@[simp] theorem State.graphDone_rows (s : State) (q : Nat) (tag : BitVec 32) (entry status reason first : Nat)
    (user : Word) (counts : List Nat) :
    (s.graphDone q tag entry status reason first user counts).grid.rows = s.grid.rows := by rfl

/-! The torus ports: what a fault, a loss of power or a retrain ends. -/

@[simp] theorem State.returnFlags_rows (s : State) (k : Nat) : (s.returnFlags k).grid.rows = s.grid.rows :=
  foldl_rows _ _ s fun _ _ => rfl

@[simp] theorem State.linkDone_rows (s : State) (p : Nat) (user : Word) (op status : Nat) :
    (s.linkDone p user op status).grid.rows = s.grid.rows := by rfl

@[simp] theorem State.linkState_rows (s : State) (p : Nat) : (s.linkState p).grid.rows = s.grid.rows := by rfl

@[simp] theorem State.channelFault_rows (s : State) (p n status : Nat) :
    (s.channelFault p n status).grid.rows = s.grid.rows := by rfl

@[simp] theorem State.scramble_rows (s : State) (a n : Nat) : (s.scramble a n).grid.rows = s.grid.rows := by
  simp [State.scramble]

@[simp] theorem State.reshardFault_rows (s : State) (axis status : Nat) :
    (s.reshardFault axis status).grid.rows = s.grid.rows := by
  unfold State.reshardFault
  split <;> simp

@[simp] theorem State.failTaken_rows (s : State) (p : Nat) (t : Taken) (status : Nat) :
    (s.failTaken p t status).grid.rows = s.grid.rows := by
  unfold State.failTaken
  split <;> simp

@[simp] theorem State.dropTurns_rows (s : State) (p : Nat) (which : Nat → Bool) :
    (s.dropTurns p which).grid.rows = s.grid.rows := by rfl

@[simp] theorem State.loseTaken_rows (s : State) (p : Nat) : (s.loseTaken p).grid.rows = s.grid.rows := by
  simp [State.loseTaken]

@[simp] theorem State.portTo_rows (s : State) (p : Nat) (st : PortState) :
    (s.portTo p st).grid.rows = s.grid.rows := by simp [State.portTo]

@[simp] theorem State.retrain_rows (s : State) (p : Nat) : (s.retrain p).grid.rows = s.grid.rows := by rfl

/-! The life of a task, its cores and its journal. -/

@[simp] theorem State.setTask_rows (s : State) (q t : Nat) (x : Task) :
    (s.setTask q t x).grid.rows = s.grid.rows := by rfl

@[simp] theorem State.taskDone_rows (s : State) (q t : Nat) : (s.taskDone q t).grid.rows = s.grid.rows := by
  unfold State.taskDone
  split <;> simp

@[simp] theorem State.cutReached_rows (s : State) (q cap size task : Nat) (hold : Bool) :
    (s.cutReached q cap size task hold).grid.rows = s.grid.rows := by rfl

@[simp] theorem State.skipTasks_rows (s : State) (q : Nat) (ts : List Nat) :
    (s.skipTasks q ts).grid.rows = s.grid.rows := by
  induction ts generalizing s with
  | nil => rfl
  | cons t ts ih =>
    unfold State.skipTasks
    split
    · dsimp only; split <;> simp [ih]
    · simp [ih]

@[simp] theorem State.cutSettle_rows (s : State) (q : Nat) : (s.cutSettle q).grid.rows = s.grid.rows := by
  unfold State.cutSettle
  dsimp only
  split <;> simp

@[simp] theorem State.closeGraph_rows (s : State) (q status : Nat) :
    (s.closeGraph q status).grid.rows = s.grid.rows := by
  unfold State.closeGraph
  split <;> simp

@[simp] theorem State.settleGraph_rows (s : State) (q : Nat) : (s.settleGraph q).grid.rows = s.grid.rows := by
  unfold State.settleGraph
  dsimp only
  split <;> simp

@[simp] theorem State.rowIdle_rows (s : State) (c : Nat) : (s.rowIdle c).grid.rows = s.grid.rows := by
  simp [State.rowIdle]

@[simp] theorem State.withdrawCore_rows (s : State) (c : Nat) : (s.withdrawCore c).grid.rows = s.grid.rows := by
  rfl

@[simp] theorem State.stopCore_rows (s : State) (q t c : Nat) : (s.stopCore q t c).grid.rows = s.grid.rows := by
  simp [State.stopCore]

@[simp] theorem State.freeCore_rows (s : State) (q t c : Nat) : (s.freeCore q t c).grid.rows = s.grid.rows := by
  simp [State.freeCore]

@[simp] theorem State.record_rows (s : State) (q t g : Nat) : (s.record q t g).grid.rows = s.grid.rows := by
  simp [State.record]

@[simp] theorem State.writeRun_rows (s : State) (a : Nat) (bs : List Byte) :
    (s.writeRun a bs).grid.rows = s.grid.rows := by
  unfold State.writeRun
  split
  · simp
  · simp
  · next c off _ => cases (s.core c).lmWrite off bs <;> simp
  · simp

@[simp] theorem State.writeAll_rows (s : State) (ws : List (Nat × Byte)) :
    (s.writeAll ws).grid.rows = s.grid.rows := by simp [State.writeAll]

@[simp] theorem State.remark_rows (s : State) (g : Nat) (lost : List Nat) (poisoned : Bool) :
    (s.remark g lost poisoned).grid.rows = s.grid.rows := by
  unfold State.remark
  repeat' split
  all_goals simp

@[simp] theorem State.restore_rows (s : State) (j : Journal) : (s.restore j).grid.rows = s.grid.rows := by
  unfold State.restore
  split <;> simp

@[simp] theorem State.undo_rows (s : State) (j : Journal) : (s.undo j).grid.rows = s.grid.rows := by
  simp [State.undo]

@[simp] theorem State.rollback_rows (s : State) (q t : Nat) : (s.rollback q t).grid.rows = s.grid.rows := by
  simp [State.rollback]

@[simp] theorem State.settleUndo_rows (s : State) : (s.settleUndo).grid.rows = s.grid.rows := by
  simp [State.settleUndo]

@[simp] theorem State.freeJournal_rows (s : State) (q t : Nat) : (s.freeJournal q t).grid.rows = s.grid.rows := by
  rfl

@[simp] theorem State.withdrawTask_rows (s : State) (q t : Nat) : (s.withdrawTask q t).grid.rows = s.grid.rows := by
  rfl

@[simp] theorem State.revoke_rows (s : State) (q t : Nat) : (s.revoke q t).grid.rows = s.grid.rows := by
  unfold State.revoke
  split <;> simp

@[simp] theorem State.stopTask_rows (s : State) (q t : Nat) (st : TStatus) (fate : TaskEnd) :
    (s.stopTask q t st fate).grid.rows = s.grid.rows := by
  unfold State.stopTask
  split
  · rfl
  · split
    · rfl
    · have hdropped := foldl_rows (fun s k => s.setCtx k (s.ctx k).orphaned) ((s.revoke q t).owned q t) (s.revoke q t)
        fun _ _ => rfl
      dsimp only
      split <;> simp [hdropped]

@[simp] theorem State.faultRegion_rows (s : State) (r cause : Nat) :
    (s.faultRegion r cause).grid.rows = s.grid.rows := by simp [State.faultRegion]

@[simp] theorem State.endTask_rows (s : State) (q t : Nat) (st : TStatus) (fate : TaskEnd) :
    (s.endTask q t st fate).grid.rows = s.grid.rows := by simp [State.endTask]

@[simp] theorem State.reissue_rows (s : State) (q t : Nat) (fate : TaskEnd) :
    (s.reissue q t fate).grid.rows = s.grid.rows := by
  unfold State.reissue
  split <;> simp

@[simp] theorem State.revokeAndReissue_rows (s : State) (q t : Nat) :
    (s.revokeAndReissue q t).grid.rows = s.grid.rows := by simp [State.revokeAndReissue]

@[simp] theorem State.taskViolation_rows (s : State) (q t own cause addr kind : Nat) :
    (s.taskViolation q t own cause addr kind).grid.rows = s.grid.rows := by rfl

@[simp] theorem State.failTask_rows (s : State) (q t own cause addr kind : Nat) :
    (s.failTask q t own cause addr kind).grid.rows = s.grid.rows := by simp [State.failTask]

theorem State.armSlot_rows {s u : State} {q t k a : Nat} {e : Option TaskEnd}
    (h : s.armSlot q t k a = some (u, e)) : u.grid.rows = s.grid.rows := by
  unfold State.armSlot at h
  dsimp only at h
  split at h
  · cases h; rfl
  · split at h
    · cases h; rfl
    · split at h
      · next hread => cases h; simp [rows_of_fst hread]
      · next hread =>
        split at h
        · cases h
        · split at h
          · cases h; simp [rows_of_fst hread]
          · split at h
            · cases h; simp [rows_of_fst hread]
            · split at h
              · cases h; simp [rows_of_fst hread]
              · split at h <;> next hlatch => cases h; simp [rows_of_fst hlatch, rows_of_fst hread]

@[simp] theorem State.armSlots_rows (s : State) (q t : Nat) (l : List (Nat × Nat × Nat)) :
    (s.armSlots q t l).1.grid.rows = s.grid.rows := by
  induction l generalizing s with
  | nil => rfl
  | cons x l ih =>
    unfold State.armSlots
    split
    · rfl
    · next h => exact State.armSlot_rows h
    · next h => rw [ih, State.armSlot_rows h]

@[simp] theorem State.armTask_rows (s : State) (q t : Nat) : (s.armTask q t).grid.rows = s.grid.rows := by
  unfold State.armTask
  split <;> grind [State.setTask_rows, State.endTask_rows, State.armSlots_rows]

@[simp] theorem State.makeReady_rows (s : State) (q t : Nat) (x : Task) :
    (s.makeReady q t x).grid.rows = s.grid.rows := by simp [State.makeReady]

@[simp] theorem State.bindCtx_rows (s : State) (q t k : Nat) (o : Nat × Nat) :
    (s.bindCtx q t k o).grid.rows = s.grid.rows := by rfl

@[simp] theorem State.readTensors_rows (s : State) (die : Nat) (l : List (Nat × Nat)) (n : Nat) :
    (s.readTensors die l n).1.grid.rows = s.grid.rows := by
  induction l generalizing s n with
  | nil => rfl
  | cons x l ih =>
    obtain ⟨k, v⟩ := x
    unfold State.readTensors
    split
    · contradiction
    · next hl =>
      obtain ⟨-, rfl⟩ := List.cons.inj hl
      split
      · next hread => simp [rows_of_fst hread]
      · next t bs hread =>
        split <;> next htensors => simp [rows_of_fst htensors, ih, rows_of_fst hread]
    · next hl =>
      obtain ⟨-, rfl⟩ := List.cons.inj hl
      exact ih s _

@[simp] theorem State.startTask_rows (s : State) (q t : Nat) (x : Task) (ox oy : Nat) :
    (s.startTask q t x ox oy).grid.rows = s.grid.rows := by
  unfold State.startTask
  dsimp only
  split
  · simp
  · split
    · next hread => simp [rows_of_fst hread]
    · next hread =>
      split
      · simp [rows_of_fst hread]
      · split
        · next htensors => simp [rows_of_fst htensors, rows_of_fst hread]
        · next htensors =>
          rw [State.setTask_rows, foldl_rows _ _ _ fun s g => rows_setCore s _ _]
          simp [rows_of_fst htensors, rows_of_fst hread]

@[simp] theorem State.finalErrors_rows (s : State) (ks : List Nat) :
    (s.finalErrors ks).1.grid.rows = s.grid.rows := by
  induction ks generalizing s with
  | nil => rfl
  | cons k ks ih =>
    unfold State.finalErrors
    split
    · next h => simp [rows_of_fst h]
    · next h => simp [ih, rows_of_fst h]

@[simp] theorem State.putFinals_rows (s : State) (q t : Nat) (ks : List Nat) :
    (s.putFinals q t ks).1.grid.rows = s.grid.rows := by
  induction ks generalizing s with
  | nil => rfl
  | cons k ks ih =>
    unfold State.putFinals
    split
    · rfl
    · split
      · rfl
      · simp [ih]

@[simp] theorem State.commit_rows (s : State) (q t : Nat) (x : Task) : (s.commit q t x).grid.rows = s.grid.rows := by
  unfold State.commit
  split
  · simp
  · split
    · next hread => simp [rows_of_fst hread]
    · next hread =>
      split
      · simp [rows_of_fst hread]
      · simp [rows_of_fst hread]
      · next hput _ => simp [rows_of_fst hput, rows_of_fst hread]

@[simp] theorem State.releaseWardTask_rows (s : State) (q t : Nat) (x : Task) :
    (s.releaseWardTask q t x).grid.rows = s.grid.rows := by simp [State.releaseWardTask]

/-! Resets, the loss of a die, and records of a lockout. -/

@[simp] theorem State.resetNodes_rows (s : State) (ks : List Nat) : (s.resetNodes ks).grid.rows = s.grid.rows := by
  rfl

@[simp] theorem State.resetLogs_rows (s : State) (ds : List Nat) : (s.resetLogs ds).grid.rows = s.grid.rows := by
  rfl

@[simp] theorem State.resetCompute_rows (s : State) (d : Nat) : (s.resetCompute d).grid.rows = s.grid.rows := by
  rfl

@[simp] theorem State.resetPool_rows (s : State) : (s.resetPool).grid.rows = s.grid.rows := by rfl

@[simp] theorem State.dropChange_rows (s : State) (reach die : Nat) :
    (s.dropChange reach die).grid.rows = s.grid.rows := by
  unfold State.dropChange
  split <;> simp

@[simp] theorem State.resetPort_rows (s : State) (p : Nat) : (s.resetPort p).grid.rows = s.grid.rows := by
  simp [State.resetPort]

@[simp] theorem State.resetLink_rows (s : State) (l : Nat) : (s.resetLink l).grid.rows = s.grid.rows := by
  simp [State.resetLink]

@[simp] theorem State.resetMem_rows (s : State) (m : Nat) : (s.resetMem m).grid.rows = s.grid.rows := by rfl

@[simp] theorem State.resetFabric_rows (s : State) : (s.resetFabric).grid.rows = s.grid.rows := by
  simp [State.resetFabric]

@[simp] theorem State.leaveReady_rows (s : State) (p : Nat) : (s.leaveReady p).grid.rows = s.grid.rows := by
  simp [State.leaveReady]

@[simp] theorem State.resetModule_rows (s : State) : (s.resetModule).grid.rows = s.grid.rows := by
  simp [State.resetModule]

@[simp] theorem State.adopt_rows (s : State) (r d n : Nat) (ran : List (Nat × Nat)) :
    (s.adopt r d n ran).grid.rows = s.grid.rows := by simp [State.adopt]

@[simp] theorem State.regionsLose_rows (s : State) (d : Nat) (ran : List (Nat × Nat)) :
    (s.regionsLose d ran).grid.rows = s.grid.rows := by
  refine foldl_rows _ _ s fun s r => ?_
  dsimp only
  split
  · split
    · simp
    · split
      · split <;> simp
      · rfl
  · rfl

@[simp] theorem State.clearDie_rows (s : State) (d : Nat) : (s.clearDie d).grid.rows = s.grid.rows := by
  simp [State.clearDie]

@[simp] theorem State.loseDie_rows (s : State) (d : Nat) : (s.loseDie d).grid.rows = s.grid.rows := by
  simp [State.loseDie]

@[simp] theorem State.settleQueue_rows (s : State) (q : Nat) : (s.settleQueue q).grid.rows = s.grid.rows := by
  simp [State.settleQueue]

@[simp] theorem State.zeroMemory_rows (s : State) : (s.zeroMemory).grid.rows = s.grid.rows := by rfl

@[simp] theorem State.announce_rows (s : State) (e : Episode) : (s.announce e).grid.rows = s.grid.rows := by
  simp [State.announce]

@[simp] theorem State.firstGroup_rows (s : State) (e : Episode) : (s.firstGroup e).grid.rows = s.grid.rows := by
  simp [State.firstGroup]

@[simp] theorem State.wake_rows (s : State) (ds : List Nat) : (s.wake ds).grid.rows = s.grid.rows := by rfl

@[simp] theorem State.bootLast_rows (s : State) : (s.bootLast).grid.rows = s.grid.rows := by
  simp [State.bootLast]

@[simp] theorem State.bootAgain_rows (s : State) : (s.bootAgain).grid.rows = s.grid.rows := by
  simp [State.bootAgain]

@[simp] theorem State.release_rows (s : State) (e : Episode) : (s.release e).grid.rows = s.grid.rows := by
  simp [State.release]

@[simp] theorem State.toRowRegions_rows (s : State) (key : Nat) (r : Rec) :
    (s.toRowRegions key r).grid.rows = s.grid.rows := by simp [State.toRowRegions]

@[simp] theorem State.lockoutRec_rows (s : State) (c trigger : Nat) (xy : List Byte) (t : Option (Nat × Nat)) :
    (s.lockoutRec c trigger xy t).grid.rows = s.grid.rows := by
  unfold State.lockoutRec
  split <;> simp

@[simp] theorem State.gridChange_rows (s : State) (c x y : Nat) : (s.gridChange c x y).grid.rows = s.grid.rows := by
  simp [State.gridChange]

@[simp] theorem State.zeroLine_rows (s : State) (c line : Nat) : (s.zeroLine c line).grid.rows = s.grid.rows := by
  unfold State.zeroLine
  split <;> simp

/-! Accesses through the fabric. -/

@[simp] theorem State.refuse_rows (s : State) (o : Origin) (cause a n : Nat) (write : Bool) :
    (s.refuse o cause a n write).grid.rows = s.grid.rows := by rfl

@[simp] theorem State.readAccess_rows (s : State) (o : Origin) (use : WindowUse) (a n : Nat) :
    (s.readAccess o use a n).grid.rows = s.grid.rows := by
  unfold State.readAccess
  split <;> grind [State.memRead_rows, State.refuse_rows, State.respond_grid]

@[simp] theorem State.writeAccess_rows (s : State) (o : Origin) (use : WindowUse) (a : Nat) (bs : List Byte) :
    (s.writeAccess o use a bs).grid.rows = s.grid.rows := by
  unfold State.writeAccess
  split <;> grind [State.refuse_rows, State.memWrite_rows, State.respond_grid]

@[simp] theorem State.accessTurn_rows (s : State) (o : Origin) (a n : Nat) :
    (s.accessTurn o a n).1.grid.rows = s.grid.rows := by
  unfold State.accessTurn
  split <;> simp

/-! The link layer. -/

@[simp] theorem State.portDown_rows (s : State) (p : Nat) : (s.portDown p).grid.rows = s.grid.rows := by
  simp [State.portDown]

@[simp] theorem State.spareLane_rows (s : State) (p lane : Nat) : (s.spareLane p lane).grid.rows = s.grid.rows := by
  simp [State.spareLane]

@[simp] theorem State.reachLinkUp_rows (s : State) (p : Nat) : (s.reachLinkUp p).grid.rows = s.grid.rows := by
  simp [State.reachLinkUp]

@[simp] theorem State.lockFrames_rows (s : State) (p : Nat) (tag : BitVec 40) :
    (s.lockFrames p tag).grid.rows = s.grid.rows := by simp [State.lockFrames]

@[simp] theorem State.train_rows (s : State) (p : Nat) : (s.train p).grid.rows = s.grid.rows := by
  simp [State.train]

@[simp] theorem State.emit_rows (s : State) (p : Fin 8) (x : Port) (f : BitVec 2048) :
    (s.emit p x f).grid.rows = s.grid.rows := by rfl

@[simp] theorem State.emitData_rows (s : State) (p : Fin 8) (x : Port) (f : Sent) :
    (s.emitData p x f).grid.rows = s.grid.rows := by rfl

@[simp] theorem State.sendFlit_rows (s : State) (p : Fin 8) : (s.sendFlit p).grid.rows = s.grid.rows := by
  unfold State.sendFlit
  dsimp only
  repeat' split
  all_goals simp

@[simp] theorem State.escalate_rows (s : State) (p : Nat) : (s.escalate p).grid.rows = s.grid.rows := by
  simp [State.escalate]

@[simp] theorem State.receiveFlit_rows (s : State) (p : Nat) (f : BitVec 2048) (ok : Bool) :
    (s.receiveFlit p f ok).grid.rows = s.grid.rows := by simp [State.receiveFlit]

@[simp] theorem State.initPort_rows (s : State) (p : Nat) : (s.initPort p).grid.rows = s.grid.rows := by
  simp [State.initPort]

@[simp] theorem State.logResetReq_rows (s : State) (p : Nat) : (s.logResetReq p).grid.rows = s.grid.rows := by
  rfl

@[simp] theorem State.sendResetReq_rows (s : State) (p : Nat) : (s.sendResetReq p).grid.rows = s.grid.rows := by
  simp [State.sendResetReq]

/-! The transaction layer: packets and link descriptors. -/

@[simp] theorem State.consume_rows (s : State) (p : Nat) (v : Vc) (h : Header) :
    (s.consume p v h).grid.rows = s.grid.rows := by rfl

@[simp] theorem State.reply_rows (s : State) (p : Nat) (v : Vc) (h : Header) (status : Nat) :
    (s.reply p v h status).grid.rows = s.grid.rows := by rfl

@[simp] theorem State.skipBad_rows (s : State) (p : Nat) (v : Vc) (n : Nat) :
    (s.skipBad p v n).grid.rows = s.grid.rows := by
  induction n generalizing s with
  | zero => rfl
  | succ n ih =>
    unfold State.skipBad
    split
    · split <;> simp [ih]
    · rfl

@[simp] theorem State.portFails_rows (s : State) (p : Fin 8) (cause addr : Nat) :
    (s.portFails p cause addr).grid.rows = s.grid.rows := by rfl

@[simp] theorem State.portTurn_rows (s : State) (p : Fin 8) (a n : Nat) :
    (s.portTurn p a n).1.grid.rows = s.grid.rows := by rfl

@[simp] theorem State.refusePacket_rows (s : State) (p : Fin 8) (v : Vc) (h : Header) (cause : Nat) :
    (s.refusePacket p v h cause).grid.rows = s.grid.rows := by rfl

theorem State.writePacket_rows {s t : State} {p : Fin 8} {v : Vc} {h : Header} {d : List Byte} {after : State → State}
    (hafter : ∀ s, (after s).grid.rows = s.grid.rows) (hres : s.writePacket p v h d after = some t) :
    t.grid.rows = s.grid.rows := by
  unfold State.writePacket at hres
  split at hres
  · obtain rfl := Option.some.inj hres; simp
  · split at hres
    · cases hres
    · split at hres
      · next hturn => obtain rfl := Option.some.inj hres; simp [rows_of_fst hturn]
      · next hturn =>
        obtain ⟨u, hwrite, rfl⟩ := Option.map_eq_some_iff.mp hres
        simp [hafter, State.memWrite_rows hwrite, rows_of_fst hturn]

theorem State.get_rows {s t : State} {p : Fin 8} {h : Header} (hres : s.get p h = some t) :
    t.grid.rows = s.grid.rows := by
  unfold State.get at hres
  dsimp only at hres
  split at hres
  · obtain rfl := Option.some.inj hres; simp
  · split at hres
    · obtain rfl := Option.some.inj hres; simp
    · split at hres
      · cases hres
      · split at hres
        · next hturn => obtain rfl := Option.some.inj hres; simp [rows_of_fst hturn]
        · next hturn =>
          split at hres <;> next hread =>
            obtain rfl := Option.some.inj hres
            simp [rows_of_fst hread, rows_of_fst hturn]

@[simp] theorem State.refuseOpen_rows (s : State) (p : Fin 8) (h : Header) :
    (s.refuseOpen p h).grid.rows = s.grid.rows := by rfl

theorem State.reduce_rows {s t : State} {p n : Nat} {k : Nat} {h : Header} {d : List Byte}
    (hres : s.reduce p n k h d = some t) : t.grid.rows = s.grid.rows := by
  unfold State.reduce at hres
  dsimp only at hres
  split at hres
  · cases hres
  · obtain rfl := Option.some.inj hres; simp

theorem State.reducePut_rows {s t : State} {p : Fin 8} {h : Header} {d : List Byte}
    (hres : s.reducePut p h d = some t) : t.grid.rows = s.grid.rows := by
  unfold State.reducePut at hres
  dsimp only at hres
  split at hres
  · obtain rfl := Option.some.inj hres; simp
  · split at hres
    · obtain rfl := Option.some.inj hres; simp
    · split at hres
      · obtain rfl := Option.some.inj hres; simp
      · split at hres
        · cases hres
        · split at hres
          · obtain rfl := Option.some.inj hres; simp
          · split at hres
            · cases hres
            · split at hres
              · next hturn => obtain rfl := Option.some.inj hres; simp [rows_of_fst hturn]
              · next hturn =>
                obtain ⟨u, hred, rfl⟩ := Option.map_eq_some_iff.mp hres
                simp [State.reduce_rows hred, rows_of_fst hturn]

@[simp] theorem State.countUnits_rows (s : State) (p n : Nat) : (s.countUnits p n).grid.rows = s.grid.rows := by
  unfold State.countUnits
  split <;> simp

@[simp] theorem State.flushEnded_rows (s : State) (p : Nat) (v : Vc) (n : Nat) :
    (s.flushEnded p v n).grid.rows = s.grid.rows := by
  induction n generalizing s with
  | zero => rfl
  | succ n ih =>
    unfold State.flushEnded
    split
    · rfl
    · split <;> simp [ih]

@[simp] theorem State.slotDone_rows (s : State) (p n : Nat) : (s.slotDone p n).grid.rows = s.grid.rows := by
  simp [State.slotDone]

@[simp] theorem State.moveCompleted_rows (s : State) (axis : Nat) (epoch : BitVec 32) :
    (s.moveCompleted axis epoch).grid.rows = s.grid.rows := by
  unfold State.moveCompleted
  split <;> simp

@[simp] theorem State.endTaken_rows (s : State) (p : Nat) (t : Taken) (status : Nat) :
    (s.endTaken p t status).grid.rows = s.grid.rows := by
  unfold State.endTaken
  repeat' split
  all_goals simp

theorem State.landGet_rows {s u : State} {p : Fin 8} {h : Header} {t : Taken} {dst : Nat} {d : List Byte}
    (hres : s.landGet p h t dst d = some u) : u.grid.rows = s.grid.rows := by
  unfold State.landGet at hres
  split at hres
  · obtain rfl := Option.some.inj hres; simp
  · split at hres
    · cases hres
    · split at hres
      · next hturn => obtain rfl := Option.some.inj hres; simp [rows_of_fst hturn]
      · next hturn =>
        obtain ⟨v, hwrite, rfl⟩ := Option.map_eq_some_iff.mp hres
        simp [State.memWrite_rows hwrite, rows_of_fst hturn]

@[simp] theorem State.sqTaken_rows (s : State) (p : Nat) : (s.sqTaken p).grid.rows = s.grid.rows := by rfl

@[simp] theorem State.sendDesc_rows (s : State) (p : Nat) (h : Header) (v : Vc) (user : Word) (dst : Nat)
    (d : List Byte) : (s.sendDesc p h v user dst d).grid.rows = s.grid.rows := by rfl

@[simp] theorem State.failDesc_rows (s : State) (p : Nat) (h : Header) (v : Vc) (user : Word) (status : Nat) :
    (s.failDesc p h v user status).grid.rows = s.grid.rows := by simp [State.failDesc]

theorem State.doDesc_rows {s t : State} {p : Fin 8} {b : List Byte} (hres : s.doDesc p b = some t) :
    t.grid.rows = s.grid.rows := by
  unfold State.doDesc at hres
  dsimp only at hres
  split at hres
  · obtain rfl := Option.some.inj hres; simp
  · split at hres
    · obtain rfl := Option.some.inj hres; simp
    · split at hres
      · obtain rfl := Option.some.inj hres; simp
      · split at hres
        · obtain rfl := Option.some.inj hres; simp
        · split at hres
          · obtain rfl := Option.some.inj hres; rfl
          · split at hres
            · next hturn => obtain rfl := Option.some.inj hres; simp [rows_of_fst hturn]
            · next hturn =>
              split at hres <;> next hread =>
                obtain rfl := Option.some.inj hres
                simp [rows_of_fst hread, rows_of_fst hturn]

@[simp] theorem State.lostDesc_rows (s : State) (p : Fin 8) (cause a : Nat) :
    (s.lostDesc p cause a).grid.rows = s.grid.rows := by simp [State.lostDesc]

theorem State.takeDesc_rows {s t : State} {p : Fin 8} (hres : s.takeDesc p = some t) : t.grid.rows = s.grid.rows := by
  unfold State.takeDesc at hres
  dsimp only at hres
  split at hres
  · exact State.doDesc_rows hres
  · split at hres
    · obtain rfl := Option.some.inj hres; simp
    · split at hres
      · cases hres
      · split at hres
        · next hturn => obtain rfl := Option.some.inj hres; simp [rows_of_fst hturn]
        · next hturn =>
          split at hres
          · next hread => obtain rfl := Option.some.inj hres; simp [rows_of_fst hread, rows_of_fst hturn]
          · next hread => simp [State.doDesc_rows hres, rows_of_fst hread, rows_of_fst hturn]

@[simp] theorem State.putPortCtl_rows (s : State) (p : Nat) (v : Word) :
    (s.putPortCtl p v).grid.rows = s.grid.rows := by simp [State.putPortCtl]

/-! Event queues and front-end ports. -/

@[simp] theorem State.putEqCfg_rows (s : State) (o : Origin) (e : Nat) (v : Word) :
    (s.putEqCfg o e v).grid.rows = s.grid.rows := by simp [State.putEqCfg]

@[simp] theorem State.writeRecord_rows (s : State) (e : Nat) (r : Rec) (q : EventQueue) :
    (s.writeRecord e r q).grid.rows = s.grid.rows := by simp [State.writeRecord]

@[simp] theorem State.signal_rows (s : State) (hart id : Nat) : (s.signal hart id).grid.rows = s.grid.rows := by
  simp [State.signal]

@[simp] theorem State.stampFrame_rows (s : State) (n : Fin 2) : (s.stampFrame n).grid.rows = s.grid.rows := by
  rfl

theorem State.dmaFrame_rows {s t : State} {n : Fin 2} {addr : Nat} {frame : List Byte}
    (hres : s.dmaFrame n addr frame = some t) : t.grid.rows = s.grid.rows := by
  unfold State.dmaFrame at hres
  split at hres
  · obtain rfl := Option.some.inj hres; simp
  · split at hres
    · cases hres
    · split at hres
      · next hturn => obtain rfl := Option.some.inj hres; simp [rows_of_fst hturn]
      · next hturn =>
        obtain ⟨u, hwrite, rfl⟩ := Option.map_eq_some_iff.mp hres
        simp [State.memWrite_rows hwrite, rows_of_fst hturn]

/-! The repair record and the memory-port dies. -/

@[simp] theorem State.writeRepair_rows (s : State) (es : List RepairEntry) :
    (s.writeRepair es).grid.rows = s.grid.rows := by rfl

@[simp] theorem State.dropRepairs_rows (s : State) (f : RepairEntry → Bool) :
    (s.dropRepairs f).grid.rows = s.grid.rows := by simp [State.dropRepairs]

@[simp] theorem State.scrub_rows (s : State) (m : Nat) : (s.scrub m).grid.rows = s.grid.rows := by
  unfold State.scrub
  dsimp only
  repeat' split
  all_goals simp

@[simp] theorem State.redirectDone_rows (s : State) (m : Nat) (r : Redirect) :
    (s.redirectDone m r).grid.rows = s.grid.rows := by simp [State.redirectDone]

@[simp] theorem State.memRepair_rows (s : State) (m : Nat) : (s.memRepair m).grid.rows = s.grid.rows := by
  simp [State.memRepair]

@[simp] theorem State.memRepaired_rows (s : State) (m : Nat) : (s.memRepaired m).grid.rows = s.grid.rows := by
  simp [State.memRepaired]

@[simp] theorem State.movePoison_rows (s : State) (g was now : Nat) :
    (s.movePoison g was now).grid.rows = s.grid.rows := by simp [State.movePoison]

@[simp] theorem State.migrate_rows (s : State) (r : Retiring) : (s.migrate r).grid.rows = s.grid.rows := by
  simp [State.migrate]

@[simp] theorem State.retired_rows (s : State) (c : Nat) : (s.retired c).grid.rows = s.grid.rows := by
  simp [State.retired]

/-! The reference and the clock nodes. -/

@[simp] theorem State.dropSource_rows (s : State) (src : Nat) (f : Assertion → Bool) :
    (s.dropSource src f).grid.rows = s.grid.rows := by rfl

@[simp] theorem State.endPor_rows (s : State) : (s.endPor).grid.rows = s.grid.rows := by rfl

@[simp] theorem State.window_rows (s : State) (ppm : Int) : (s.window ppm).grid.rows = s.grid.rows := by
  simp [State.window]

@[simp] theorem State.clockRefused_rows (s : State) (o : Origin) (a : Nat) (v : Word) (last reason : Nat) :
    (s.clockRefused o a v last reason).grid.rows = s.grid.rows := by rfl

@[simp] theorem State.ungated_rows (s : State) (k : Nat) : (s.ungated k).grid.rows = s.grid.rows := by
  simp [State.ungated]

@[simp] theorem State.putNode_rows (s : State) (o : Origin) (k : Nat) (v : Word) :
    (s.putNode o k v).grid.rows = s.grid.rows := by
  unfold State.putNode
  dsimp only
  split <;> simp

@[simp] theorem State.putClkmon_rows (s : State) (o : Origin) (v : Word) :
    (s.putClkmon o v).grid.rows = s.grid.rows := by simp [State.putClkmon]

/-! Power domains and the release of an episode. -/

@[simp] theorem State.startChange_rows (s : State) : (s.startChange).grid.rows = s.grid.rows := by
  simp [State.startChange]

@[simp] theorem State.resetHelm_rows (s : State) : (s.resetHelm).grid.rows = s.grid.rows := by
  simp [State.resetHelm]

@[simp] theorem State.resetGroup_rows (s : State) (g : Nat) : (s.resetGroup g).grid.rows = s.grid.rows := by
  simp [State.resetGroup]

@[simp] theorem State.enterDomain_rows (s : State) (d : Nat) : (s.enterDomain d).grid.rows = s.grid.rows := by
  simp [State.enterDomain]

@[simp] theorem State.lockNodes_rows (s : State) (d : Nat) (on : Bool) :
    (s.lockNodes d on).grid.rows = s.grid.rows := by rfl

@[simp] theorem State.bootOn_rows (s : State) : (s.bootOn).grid.rows = s.grid.rows := by simp [State.bootOn]

@[simp] theorem State.unload_rows (s : State) (ds : List Nat) : (s.unload ds).grid.rows = s.grid.rows := by rfl

@[simp] theorem State.domainDone_rows (s : State) (d : Nat) (on : Bool) :
    (s.domainDone d on).grid.rows = s.grid.rows := by simp [State.domainDone]

@[simp] theorem State.releaseEpisode_rows (s : State) (e : Episode) :
    (s.releaseEpisode e).grid.rows = s.grid.rows := by simp [State.releaseEpisode]

/-! The input stage, the caps and the two loops. -/

@[simp] theorem State.losePhase_rows (s : State) (d : Nat) : (s.losePhase d).grid.rows = s.grid.rows := by
  simp [State.losePhase]

@[simp] theorem State.putPwrDom_rows (s : State) (o : Origin) (v : Word) :
    (s.putPwrDom o v).grid.rows = s.grid.rows := by simp [State.putPwrDom]

@[simp] theorem State.domainLeftOff_rows (s : State) (d : Nat) : (s.domainLeftOff d).grid.rows = s.grid.rows := by
  simp [State.domainLeftOff]

@[simp] theorem State.putPwrCap_rows (s : State) (v : Word) : (s.putPwrCap v).grid.rows = s.grid.rows := by
  simp [State.putPwrCap]

@[simp] theorem State.tellDisagree_rows (s : State) (d : Nat) (was : PowerMode) :
    (s.tellDisagree d was).grid.rows = s.grid.rows := by simp [State.tellDisagree]

@[simp] theorem State.dieWindow_rows (s : State) (d meas : Nat) : (s.dieWindow d meas).grid.rows = s.grid.rows := by
  simp [State.dieWindow]

@[simp] theorem State.setPool_rows (s : State) (pIn : Nat) : (s.setPool pIn).grid.rows = s.grid.rows :=
  foldl_rows _ _ _ fun _ _ => rfl

@[simp] theorem State.floorWindow_rows (s : State) (pIn : Nat) : (s.floorWindow pIn).grid.rows = s.grid.rows := by
  simp [State.floorWindow]

@[simp] theorem State.supervise_rows (s : State) (pIn vin : Nat) (meas : List Nat) (others : Nat) :
    (s.supervise pIn vin meas others).grid.rows = s.grid.rows := by simp [State.supervise]

/-! Thermal levels, lockout and the return of a die. -/

@[simp] theorem State.throttle_rows (s : State) (was now n : Nat) :
    (s.throttle was now n).grid.rows = s.grid.rows := by simp [State.throttle]

@[simp] theorem State.stepGroup_rows (s : State) (d g : Nat) : (s.stepGroup d g).grid.rows = s.grid.rows := by
  simp [State.stepGroup]

@[simp] theorem State.stepModule_rows (s : State) : (s.stepModule).grid.rows = s.grid.rows := by
  simp [State.stepModule]

@[simp] theorem State.dieLockoutRec_rows (s : State) (d trigger : Nat) :
    (s.dieLockoutRec d trigger).grid.rows = s.grid.rows := by simp [State.dieLockoutRec]

@[simp] theorem State.returnDie_rows (s : State) (d : Nat) (pass : Bool) :
    (s.returnDie d pass).grid.rows = s.grid.rows := by simp [State.returnDie]

@[simp] theorem State.safePort_rows (s : State) (p : Nat) : (s.safePort p).grid.rows = s.grid.rows := by
  simp [State.safePort]

/-! Boot, updates and attestation. -/

@[simp] theorem State.requestBoot_rows (s : State) : (s.requestBoot).grid.rows = s.grid.rows := by
  simp [State.requestBoot]

@[simp] theorem State.wakeKept_rows (s : State) (doms : List Nat) : (s.wakeKept doms).grid.rows = s.grid.rows := by
  rfl

@[simp] theorem State.awaitRecovery_rows (s : State) (reason : Nat) :
    (s.awaitRecovery reason).grid.rows = s.grid.rows := by simp [State.awaitRecovery]

@[simp] theorem State.fuseFault_rows (s : State) : (s.fuseFault).grid.rows = s.grid.rows := by rfl

@[simp] theorem State.mailed_rows (s : State) (m : Mgmt) : (s.mailed m).grid.rows = s.grid.rows := by rfl

@[simp] theorem State.eraseFirst_rows (s : State) : (s.eraseFirst).grid.rows = s.grid.rows := by rfl

@[simp] theorem State.updateFailed_rows (s : State) (reason : Nat) :
    (s.updateFailed reason).grid.rows = s.grid.rows := by rfl

@[simp] theorem State.svRead_rows (s : State) (a n : Nat) : (s.svRead a n).1.grid.rows = s.grid.rows := by
  simp [State.svRead]

@[simp] theorem State.stagedImage_rows (s : State) (addr len : Nat) :
    (s.stagedImage addr len).1.grid.rows = s.grid.rows := by
  unfold State.stagedImage
  split <;> grind [State.svRead_rows]

@[simp] theorem State.beginUpdate_rows (s : State) (addr len : Nat) :
    (s.beginUpdate addr len).grid.rows = s.grid.rows := by
  unfold State.beginUpdate
  split <;> grind [State.stagedImage_rows, State.eraseFirst_rows, State.updateFailed_rows, State.answer_grid]

@[simp] theorem State.fwCommit_rows (s : State) (addr len : Nat) : (s.fwCommit addr len).grid.rows = s.grid.rows := by
  simp [State.fwCommit]

@[simp] theorem State.endUpdate_rows (s : State) (addr : Nat) (img : List Byte) :
    (s.endUpdate addr img).grid.rows = s.grid.rows := by
  unfold State.endUpdate
  split <;> grind [State.svRead_rows, State.updateFailed_rows, State.program_grid]

@[simp] theorem State.svnBurn_rows (s : State) : (s.svnBurn).grid.rows = s.grid.rows := by
  unfold State.svnBurn
  repeat' split
  all_goals simp

@[simp] theorem State.revokeRoot_rows (s : State) (n : Nat) : (s.revokeRoot n).grid.rows = s.grid.rows := by
  simp [State.revokeRoot]

@[simp] theorem State.attestTo_rows (s : State) (a : Nat) : (s.attestTo a).grid.rows = s.grid.rows := by
  unfold State.attestTo
  split <;> grind [State.memRead_rows, State.writeRun_rows, State.useFree_grid]

@[simp] theorem State.putAttCtl_rows (s : State) (v : Word) : (s.putAttCtl v).grid.rows = s.grid.rows := by
  simp [State.putAttCtl]

@[simp] theorem State.putAttExtend_rows (s : State) (o : Origin) (v : Word) :
    (s.putAttExtend o v).grid.rows = s.grid.rows := by
  unfold State.putAttExtend
  split
  · simp
  · split
    · rfl
    · split <;> next hread => simp [rows_of_fst hread]

/-! The end of a task on its cores. -/

@[simp] theorem State.endCore_rows (s : State) (c : Nat) (k : Core) (g : CoreTask) (x : Task) :
    (s.endCore c k g x).grid.rows = s.grid.rows := by
  unfold State.endCore
  dsimp only
  rw [rows_ite, foldl_rows _ _ _ fun _ _ => by simp]
  simp

@[simp] theorem State.releaseGang_rows (s : State) (q t : Nat) (x : Task) :
    (s.releaseGang q t x).grid.rows = s.grid.rows :=
  foldl_rows _ _ _ fun _ _ => rfl

/-! Doorbells and the entries STREAM, GRAPH and ABORT. -/

@[simp] theorem State.readEntry_rows (s : State) (q n : Nat) : (s.readEntry q n).1.grid.rows = s.grid.rows := by
  unfold State.readEntry
  dsimp only
  split <;> grind [State.geRead_rows, State.useFree_grid]

@[simp] theorem State.readEntries_rows (s : State) (q n : Nat) : (s.readEntries q n).grid.rows = s.grid.rows := by
  induction n generalizing s with
  | zero => rfl
  | succ n ih =>
    unfold State.readEntries
    dsimp only
    split <;> simp [ih]

@[simp] theorem State.takeEntries_rows (s : State) (q : Nat) : (s.takeEntries q).grid.rows = s.grid.rows := by
  simp [State.takeEntries]

@[simp] theorem State.putSqDb_rows (s : State) (o : Origin) (q : Nat) (v : Word) :
    (s.putSqDb o q v).grid.rows = s.grid.rows := by simp [State.putSqDb]

@[simp] theorem State.dropBad_rows (s : State) (q n : Nat) : (s.dropBad q n).grid.rows = s.grid.rows := by
  induction n generalizing s with
  | zero => rfl
  | succ n ih =>
    unfold State.dropBad
    split
    · split <;> simp [ih]
    · rfl

@[simp] theorem State.openStatus_rows (s : State) (q : Nat) (e : Entry) :
    (s.openStatus q e).grid.rows = s.grid.rows := by rfl

theorem State.streamArm_rows {s t : State} {q : Nat} {e : Entry} (hres : s.streamArm q e = some t) :
    t.grid.rows = s.grid.rows := by
  unfold State.streamArm at hres
  dsimp only at hres
  split at hres
  · cases hres
  · obtain rfl := Option.some.inj hres
    split
    · next hread => simp [rows_of_fst hread]
    · next hread =>
      split
      · simp [rows_of_fst hread]
      · split
        · simp [rows_of_fst hread]
        · split <;> next hlatch => simp [rows_of_fst hlatch, rows_of_fst hread]

@[simp] theorem State.releaseCtx_rows (s : State) (n : Nat) : (s.releaseCtx n).grid.rows = s.grid.rows := by
  simp [State.releaseCtx]

@[simp] theorem State.abortTasks_rows (s : State) (q : Nat) (ts : List Nat) :
    (s.abortTasks q ts).grid.rows = s.grid.rows := by
  unfold State.abortTasks
  dsimp only
  rw [rows_ite, State.faultRegion_rows, ite_self, State.settleGraph_rows, foldl_rows _ _ _ (by simp)]
  refine foldl_rows _ _ s fun s t => ?_
  split <;> simp

@[simp] theorem State.takeOut_rows (s : State) (q : Nat) (e : Entry) : (s.takeOut q e).grid.rows = s.grid.rows := by
  rfl

@[simp] theorem State.doom_rows (s : State) (q : Nat) (ws : List (Entry × Option Nat)) :
    (s.doom q ws).grid.rows = s.grid.rows := by rfl

@[simp] theorem State.abort_rows (s : State) (q : Nat) (e : Entry) : (s.abort q e).grid.rows = s.grid.rows := by
  unfold State.abort
  split <;> simp

theorem State.takeGraph_rows {s t : State} {q : Nat} {e : Entry} (hres : s.takeGraph q e = some t) :
    t.grid.rows = s.grid.rows := by
  unfold State.takeGraph at hres
  dsimp only at hres
  split at hres
  · cases hres
  · split at hres
    · next hread => obtain rfl := Option.some.inj hres; simp [rows_of_fst hread]
    · next hread =>
      split at hres
      · obtain rfl := Option.some.inj hres; simp [rows_of_fst hread]
      · split at hres
        · cases hres
        · split at hres <;> obtain rfl := Option.some.inj hres <;> simp [rows_of_fst hread]

@[simp] theorem State.endDoomed_rows (s : State) (q : Nat) : (s.endDoomed q).grid.rows = s.grid.rows := by
  unfold State.endDoomed
  split <;> simp

/-! Exchange channels and the RESHARD of an axis. -/

@[simp] theorem State.putXcha_rows (s : State) (p n : Nat) (v : Word) :
    (s.putXcha p n v).grid.rows = s.grid.rows := by simp [State.putXcha]

@[simp] theorem State.putXchb_rows (s : State) (p n : Nat) (v : Word) :
    (s.putXchb p n v).grid.rows = s.grid.rows := by simp [State.putXchb]

@[simp] theorem State.sendSlot_rows (s : State) (p n : Nat) (c : Channel) (off k : Nat) (bs : List Byte) :
    (s.sendSlot p n c off k bs).grid.rows = s.grid.rows := by
  induction k generalizing s off bs with
  | zero => rfl
  | succ k ih =>
    unfold State.sendSlot
    split <;> simp [ih]

theorem State.channelSlot_rows {s t : State} {p : Fin 8} {n : Nat} (hres : s.channelSlot p n = some t) :
    t.grid.rows = s.grid.rows := by
  unfold State.channelSlot at hres
  dsimp only at hres
  split at hres
  · cases hres
  · split at hres
    · cases hres
    · split at hres
      · cases hres
      · split at hres
        · obtain rfl := Option.some.inj hres; simp
        · split at hres
          · cases hres
          · split at hres
            · next hturn => obtain rfl := Option.some.inj hres; simp [rows_of_fst hturn]
            · next hturn =>
              split at hres <;> next hread =>
                obtain rfl := Option.some.inj hres
                simp [rows_of_fst hread, rows_of_fst hturn]

@[simp] theorem State.readReshard_rows (s : State) (q : Nat) (e : Entry) :
    (s.readReshard q e).1.grid.rows = s.grid.rows := by
  unfold State.readReshard
  split <;> grind [State.geRead_rows]

@[simp] theorem State.copySpans_rows (s : State) (scratch : Nat) (es : List (Nat × PermEntry)) :
    (s.copySpans scratch es).1.grid.rows = s.grid.rows := by
  induction es generalizing s with
  | nil => rfl
  | cons e es ih =>
    unfold State.copySpans
    split
    · next h => simp [rows_of_fst h]
    · next h => simp [ih, rows_of_fst h]

@[simp] theorem State.sendPermute_rows (s : State) (p : Nat) (r : Reshard) (e : PermEntry) (dst k : Nat)
    (bs : List Byte) : (s.sendPermute p r e dst k bs).grid.rows = s.grid.rows := by
  induction k generalizing s dst bs with
  | zero => rfl
  | succ k ih =>
    unfold State.sendPermute
    split <;> simp [ih]

@[simp] theorem State.moveEntry_rows (s : State) (axis : Nat) (r : Reshard) (x : Nat × PermEntry) :
    (s.moveEntry axis r x).grid.rows = s.grid.rows := by simp [State.moveEntry]

@[simp] theorem State.setEpoch_rows (s : State) (axis : Nat) (v : BitVec 32) :
    (s.setEpoch axis v).grid.rows = s.grid.rows := by rfl

@[simp] theorem State.copyOut_rows (s : State) (axis : Nat) (r : Reshard) :
    (s.copyOut axis r).grid.rows = s.grid.rows := by
  unfold State.copyOut
  dsimp only
  split
  · simp
  · split
    · next hcopy => simp [rows_of_fst hcopy]
    · next hcopy => simp [rows_of_fst hcopy]

/-! Movement operations and journalled writes. -/

@[simp] theorem State.moveDescs_rows (s : State) (r : TaskRec) : (s.moveDescs r).1.grid.rows = s.grid.rows := by
  unfold State.moveDescs
  split <;> grind [State.moverRead_rows]

@[simp] theorem State.moveFails_rows (s : State) (q t cause a kind : Nat) :
    (s.moveFails q t cause a kind).grid.rows = s.grid.rows := by simp [State.moveFails]

@[simp] theorem State.moveDone_rows (s : State) (q t : Nat) (x : Task) (held : Assoc Byte) (sats nans : Nat) :
    (s.moveDone q t x held sats nans).grid.rows = s.grid.rows := by rfl

/-- The state that a journalled write goes on with has the rows given. -/
def Journaled.Keeps (j : Journaled) (rows : Assoc RowMap) : Prop :=
  match j with
  | .ok t => t.grid.rows = rows
  | _ => True

theorem State.journal_keeps (s : State) (q t : Nat) (gs : List Nat) : (s.journal q t gs).Keeps s.grid.rows := by
  induction gs generalizing s with
  | nil => exact rfl
  | cons g gs ih =>
    unfold State.journal
    dsimp only
    split
    · exact ih s
    · split
      · trivial
      · split
        · split <;> trivial
        · simpa using ih (s.record q t g)

theorem State.writeInPlace_rows {s u : State} {q t : Nat} {ws : List (Nat × Byte)}
    (h : s.writeInPlace q t ws = .ok u) : u.grid.rows = s.grid.rows := by
  have hjournal := s.journal_keeps q t (granulesOf ws)
  unfold State.writeInPlace at h
  split at h
  · cases h
  · split at h
    · next hok =>
      rw [hok] at hjournal
      obtain rfl := Journaled.ok.inj h
      simpa [Journaled.Keeps] using hjournal
    · next hnot => exact absurd h (hnot u)

theorem State.runMove_rows {s u : State} {q t : Nat} {x : Task} {m : Movement}
    (hres : s.runMove q t x m = some u) : u.grid.rows = s.grid.rows := by
  unfold State.runMove at hres
  split at hres
  · cases hres
  · split at hres
    · next hread => obtain rfl := Option.some.inj hres; simp [rows_of_fst hread]
    · next hread =>
      split at hres
      · obtain rfl := Option.some.inj hres; simp [rows_of_fst hread]
      · split at hres
        · obtain rfl := Option.some.inj hres; simp [rows_of_fst hread]
        · split at hres
          · obtain rfl := Option.some.inj hres; simp [rows_of_fst hread]
          · split at hres
            · cases hres
            · split at hres
              · next hwrite =>
                obtain rfl := Option.some.inj hres
                simp [State.writeInPlace_rows hwrite, rows_of_fst hread]
              · cases hres
              · obtain rfl := Option.some.inj hres; simp [rows_of_fst hread]
              · obtain rfl := Option.some.inj hres; simp [rows_of_fst hread]
              · obtain rfl := Option.some.inj hres; simp [rows_of_fst hread]

theorem State.moveTurn_rows {s u : State} {q t : Nat} {x : Task} {m : Movement}
    (hres : s.moveTurn q t x m = some u) : u.grid.rows = s.grid.rows := by
  unfold State.moveTurn at hres
  split at hres
  · next hturn => simp [State.runMove_rows hres, rows_of_fst hturn]
  · next hturn => obtain rfl := Option.some.inj hres; simp [rows_of_fst hturn]

theorem State.startMove_rows {s u : State} {op q t : Nat} (hres : s.startMove op q t = some u) :
    u.grid.rows = s.grid.rows := by
  obtain ⟨x, -, hres⟩ := Option.bind_eq_some_iff.mp hres
  dsimp only at hres
  split at hres
  · split at hres
    · next hread => obtain rfl := Option.some.inj hres; simp [rows_of_fst hread]
    · next hread =>
      split at hres
      · obtain rfl := Option.some.inj hres; simp [rows_of_fst hread]
      · split at hres
        · obtain rfl := Option.some.inj hres; simp [rows_of_fst hread]
        · simp [State.moveTurn_rows hres, rows_of_fst hread]
  · cases hres

/-! Transfers. -/

@[simp] theorem State.askTransfer_rows (s : State) (c tag : Nat) : (s.askTransfer c tag).grid.rows = s.grid.rows := by
  unfold State.askTransfer
  split <;> simp

theorem State.writeSites_rows {s t : State} {lm : Nat} {bs : List Byte} {cs : List Nat}
    (h : s.writeSites lm bs cs = some t) : t.grid.rows = s.grid.rows := by
  induction cs generalizing s with
  | nil => obtain rfl := Option.some.inj h; rfl
  | cons c cs ih =>
    obtain ⟨k, -, hk⟩ := Option.bind_eq_some_iff.mp h
    simpa using ih hk

/-! The store dies: requests, grants, borrowing, passes and stalls. -/

@[simp] theorem State.putStoreCfg_rows (s : State) (o : Origin) (d : Nat) (v : Word) :
    (s.putStoreCfg o d v).grid.rows = s.grid.rows := by simp [State.putStoreCfg]

@[simp] theorem State.askPiece_rows (s : State) (n : Nat) (dir : PieceDir) (off len : Nat) :
    (s.askPiece n dir off len).grid.rows = s.grid.rows := by rfl

theorem State.askBorrow_rows {s t : State} {n : Nat} (hres : s.askBorrow n = some t) : t.grid.rows = s.grid.rows := by
  unfold State.askBorrow at hres
  dsimp only at hres
  split at hres
  · obtain rfl := Option.some.inj hres; rfl
  · cases hres

theorem State.request_rows {s t : State} {n : Nat} {dir : PieceDir} (hres : s.request n dir = some t) :
    t.grid.rows = s.grid.rows := by
  unfold State.request at hres
  dsimp only at hres
  split at hres
  · cases hres
  · split at hres
    · split at hres
      · split at hres
        · obtain rfl := Option.some.inj hres; simp
        · exact State.askBorrow_rows hres
      · cases hres
    · split at hres
      · obtain rfl := Option.some.inj hres; simp
      · cases hres

@[simp] theorem State.moved_rows (s : State) (n : Nat) : (s.moved n).grid.rows = s.grid.rows := by rfl

@[simp] theorem State.stage_rows (s : State) (n : Nat) (bs : List Byte) : (s.stage n bs).grid.rows = s.grid.rows := by
  unfold State.stage
  dsimp only
  split <;> simp

@[simp] theorem State.openSource_rows (s : State) (n off : Nat) : (s.openSource n off).grid.rows = s.grid.rows := by
  simp [State.openSource]

@[simp] theorem State.ctxFails_rows (s : State) (n : Nat) (ahead : Bool) (cause a kind : Nat) :
    (s.ctxFails n ahead cause a kind).grid.rows = s.grid.rows := by
  unfold State.ctxFails
  dsimp only
  split <;> simp

/-- Each state that a piece's answer carries has the rows given. -/
def Piece.Keeps (p : Piece) (rows : Assoc RowMap) : Prop :=
  match p with
  | .done t => t.grid.rows = rows
  | .bad t _ _ _ => t.grid.rows = rows
  | .waits => True

theorem State.fetch_keeps (s : State) (n off len : Nat) : (s.fetch n off len).Keeps s.grid.rows := by
  unfold State.fetch
  dsimp only
  split
  · split
    · trivial
    · split
      · next hread => simp [Piece.Keeps, rows_of_fst hread]
      · next hread => split <;> simp [Piece.Keeps, rows_of_fst hread]
  · split
    · trivial
    · split <;> next hread => simp [Piece.Keeps, rows_of_fst hread]
  · split <;> simp [Piece.Keeps]
  · trivial

theorem State.takeIndex_keeps (s : State) (n : Nat) : (s.takeIndex n).Keeps s.grid.rows := by
  unfold State.takeIndex
  dsimp only
  split
  · exact rfl
  · split
    · trivial
    · split
      · next hread => simp [Piece.Keeps, rows_of_fst hread]
      · next hread => split <;> simp [Piece.Keeps, rows_of_fst hread]

theorem State.takeUpdates_keeps (s : State) (n off len : Nat) : (s.takeUpdates n off len).Keeps s.grid.rows := by
  have hindex := s.takeIndex_keeps n
  unfold State.takeUpdates
  split
  · next hdone =>
    rw [hdone] at hindex
    dsimp only
    split
    · trivial
    · split <;> next hread => simpa [Piece.Keeps, rows_of_fst hread] using hindex
  · exact hindex

theorem State.putPiece_keeps (s : State) (n off len : Nat) : (s.putPiece n off len).Keeps s.grid.rows := by
  have hopened : ∀ p : Prop, ∀ [Decidable p], (if p then s.openSource n off else s).grid.rows = s.grid.rows := by
    simp
  unfold State.putPiece
  dsimp only
  split
  · have hpiece : (if (s.ctx n).moveOp = 4 ∧ off < (s.ctx n).len then s.takeUpdates n off len
        else Piece.done s).Keeps s.grid.rows := by
      split
      · exact s.takeUpdates_keeps n off len
      · exact rfl
    split
    · next hdone =>
      rw [hdone] at hpiece
      simpa [Piece.Keeps] using hpiece
    · exact hpiece
  · have hrows := hopened ((s.ctx n).srcEnd = 3)
    generalize (if (s.ctx n).srcEnd = 3 then s.openSource n off else s) = u at hrows ⊢
    generalize putWrites _ _ _ ++ _ = ws
    split
    · trivial
    · split
      · trivial
      · split
        · next hwrite => simp [Piece.Keeps, State.writeInPlace_rows hwrite, hrows]
        · trivial
        · simp [Piece.Keeps, hrows]
        · simp [Piece.Keeps, hrows]
        · simp [Piece.Keeps, hrows]

theorem State.ringPiece_keeps (s : State) (n off len : Nat) (sites : List Nat) (last : Bool) :
    (s.ringPiece n off len sites last).Keeps s.grid.rows := by
  unfold State.ringPiece
  dsimp only
  split
  · split
    · trivial
    · split
      · simp [Piece.Keeps]
      · split
        · next hwrite => simp [Piece.Keeps, State.writeInPlace_rows hwrite]
        · trivial
        · simp [Piece.Keeps]
        · simp [Piece.Keeps]
        · simp [Piece.Keeps]
  · split
    · next hwrite => simp [Piece.Keeps, State.writeSites_rows hwrite]
    · simp [Piece.Keeps]

/-- What a request of a piece tries. -/
def State.pieceOf (s : State) (r : Request) (n : Nat) (dir : PieceDir) (off len : Nat) : Piece :=
  match dir with
  | .fetch => s.fetch n off len
  | .deliver =>
    let last := !((s.dropRequest r).pieceAsked n dir)
    if (s.ctx n).kind = 2 then (if last then s.putPiece n off len else .done s)
    else s.ringPiece n off len ((s.ctx n).sitesOf r.queue) last

theorem State.pieceOf_keeps (s : State) (r : Request) (n : Nat) (dir : PieceDir) (off len : Nat) :
    (s.pieceOf r n dir off len).Keeps s.grid.rows := by
  unfold State.pieceOf
  cases dir with
  | fetch => exact s.fetch_keeps n off len
  | deliver =>
    dsimp only
    split
    · split
      · exact s.putPiece_keeps n off len
      · exact rfl
    · exact s.ringPiece_keeps n off len _ _

/-- What follows the answer of a piece. -/
def Piece.next (done : State → State) (bad : State → Nat → Nat → Nat → State) (p : Piece) : Option State :=
  match p with
  | .done u => some (done u)
  | .bad u cause a kind => some (bad u cause a kind)
  | .waits => none

theorem Piece.next_rows {p : Piece} {rows : Assoc RowMap} (h : p.Keeps rows) {done : State → State}
    {bad : State → Nat → Nat → Nat → State} (hdone : ∀ u, (done u).grid.rows = u.grid.rows)
    (hbad : ∀ u cause a kind, (bad u cause a kind).grid.rows = u.grid.rows) {t : State}
    (ht : p.next done bad = some t) : t.grid.rows = rows := by
  cases p with
  | done u => obtain rfl := Option.some.inj ht; rw [hdone, h]
  | bad u cause a kind => obtain rfl := Option.some.inj ht; rw [hbad, h]
  | waits => cases ht

/-- A granted request does its piece, and is dropped, or waits. -/
theorem State.serve_rows {s t : State} {r : Request} (hres : s.serve r = some t) : t.grid.rows = s.grid.rows := by
  unfold State.serve at hres
  split at hres
  · next n dir off len _ =>
    have hpiece := Piece.next_rows (s.pieceOf_keeps r n dir off len) (t := t)
      (done := fun u => (u.dropRequest r).moved n)
      (bad := fun u cause a kind =>
        (u.dropRequest r).ctxFails n (dir == .fetch && (u.ctx n).fetchesAhead) cause a kind) (by simp) (by simp)
    cases dir with
    | fetch =>
      dsimp only at hres
      generalize Option.any _ _ = fits at hres
      split at hres
      · exact hpiece hres
      · obtain rfl := Option.some.inj hres; simp
    | deliver =>
      dsimp only at hres
      split at hres
      · exact hpiece hres
      · obtain rfl := Option.some.inj hres; simp
  · obtain rfl := Option.some.inj hres; simp
  · cases hres
  · split at hres
    · cases hres
    · obtain rfl := Option.some.inj hres; simp
  · split at hres
    · cases hres
    · obtain rfl := Option.some.inj hres; simp

theorem State.reclaim_rows {s t : State} {n : Nat} (hres : s.reclaim n = some t) : t.grid.rows = s.grid.rows := by
  unfold State.reclaim at hres
  dsimp only at hres
  split at hres
  · cases hres
  · obtain rfl := Option.some.inj hres; simp

theorem State.borrowGrant_rows {s t : State} {d : Nat} (hres : s.borrowGrant d = some t) :
    t.grid.rows = s.grid.rows := by
  obtain ⟨b, -, hres⟩ := Option.bind_eq_some_iff.mp hres
  dsimp only at hres
  split at hres
  · obtain rfl := Option.some.inj hres; simp
  · obtain ⟨u, hfound, rfl⟩ := Option.map_eq_some_iff.mp hres
    obtain ⟨n, -, hreclaim⟩ := List.exists_of_findSome?_eq_some hfound
    simp [State.reclaim_rows hreclaim]

@[simp] theorem State.failRearm_rows (s : State) (by_ : Option (Nat × Nat × Nat)) (cause : Nat) :
    (s.failRearm by_ cause).grid.rows = s.grid.rows := by
  unfold State.failRearm
  repeat' split
  all_goals simp

@[simp] theorem State.beginPass_rows (s : State) (n q t : Nat) : (s.beginPass n q t).grid.rows = s.grid.rows := by
  unfold State.beginPass
  dsimp only
  split <;> grind [State.failTask_rows, State.failRearm_rows, State.checkCtx_rows, State.setCtx_grid]

@[simp] theorem State.beginAhead_rows (s : State) (n q t : Nat) : (s.beginAhead n q t).grid.rows = s.grid.rows := by
  unfold State.beginAhead
  dsimp only
  split <;> grind [State.failTask_rows, State.failRearm_rows, State.checkCtx_rows, State.loseAhead_rows,
    State.setCtx_grid]

@[simp] theorem State.stall_rows (s : State) (q t : Nat) (ns : List Nat) :
    (s.stall q t ns).grid.rows = s.grid.rows := by rfl

@[simp] theorem State.watchStalls_rows (s : State) : (s.watchStalls).grid.rows = s.grid.rows := by
  simp [State.watchStalls]

/-! The graph engines and the strike. -/

@[simp] theorem State.pruneDeadlocks_rows (s : State) : (s.pruneDeadlocks).grid.rows = s.grid.rows := by rfl

@[simp] theorem State.atStrike_rows (s : State) : (s.atStrike).grid.rows = s.grid.rows := by
  simp [State.atStrike]

@[simp] theorem State.ungate_rows (s : State) (rows : List Nat) : (s.ungate rows).grid.rows = s.grid.rows := by
  rfl

@[simp] theorem State.deadlock_rows (s : State) (cycle : List (Nat × Nat)) :
    (s.deadlock cycle).grid.rows = s.grid.rows :=
  foldl_rows _ _ s fun s p => State.toSq_rows (s.setSq p.1 _) p.1 _

/-- The recursion is opened by hand: `unfold` would have Lean reduce the read of the 417,792 bytes of a core. -/
@[simp] theorem State.captures_rows (s : State) (cs : List Nat) : (s.captures cs).1.grid.rows = s.grid.rows := by
  delta State.captures
  dsimp only [List.brecOn]
  induction cs generalizing s with
  | nil => rfl
  | cons c cs ih =>
    dsimp only [List.brecOn.go, State.captures._f] at ih ⊢
    generalize (s.core c).windowRead 0 captureBytes = read
    cases read with
    | none => rfl
    | some r =>
      dsimp only
      split <;> next hread => exact (rows_of_fst hread).trans (ih (s.setCore c r.1))

@[simp] theorem State.geFails_rows (s : State) (q t cause a : Nat) :
    (s.geFails q t cause a).grid.rows = s.grid.rows := by simp [State.geFails]

theorem State.capture_rows {s u : State} {q t : Nat} {x : Task} (hres : s.capture q t x = some u) :
    u.grid.rows = s.grid.rows := by
  unfold State.capture at hres
  dsimp only at hres
  split at hres
  · obtain rfl := Option.some.inj hres; simp
  · split at hres
    · cases hres
    · split at hres <;> next hread =>
        obtain rfl := Option.some.inj hres
        simp [rows_of_fst hread]

/-! Hasps. -/

@[simp] theorem State.onHasp_rows (s : State) (k c : Nat) (f : Hasp → Hasp) :
    (s.onHasp k c f).grid.rows = s.grid.rows := by rfl

@[simp] theorem State.cancel_rows (s : State) (n : Nat) : (s.cancel n).grid.rows = s.grid.rows := by
  simp [State.cancel]

@[simp] theorem State.forward_rows (s : State) (n c : Nat) (h : Fin 16) :
    (s.forward n c h).grid.rows = s.grid.rows := by
  unfold State.forward
  dsimp only
  split <;> simp

/-! Writes to registers and write-backs. -/

@[simp] theorem State.clearHelm_rows (s : State) (o : Nat) (w : BitVec 8) :
    (s.clearHelm o w).grid.rows = s.grid.rows := by simp [State.clearHelm]

@[simp] theorem State.clearService_rows (s : State) (o : Nat) (w : BitVec 8) :
    (s.clearService o w).grid.rows = s.grid.rows := by simp [State.clearService]

@[simp] theorem State.clearReg_rows (s : State) (d o : Nat) (v : Word) :
    (s.clearReg d o v).grid.rows = s.grid.rows := by simp [State.clearReg]

@[simp] theorem State.putSqCfg_rows (s : State) (o : Origin) (q : Nat) (v : Word) :
    (s.putSqCfg o q v).grid.rows = s.grid.rows := by simp [State.putSqCfg]

@[simp] theorem State.putSqCtl_rows (s : State) (o : Origin) (q : Nat) (v : Word) :
    (s.putSqCtl o q v).grid.rows = s.grid.rows := by simp [State.putSqCtl]

@[simp] theorem State.putSqBase_rows (s : State) (q : Nat) (v : Word) :
    (s.putSqBase q v).grid.rows = s.grid.rows := by simp [State.putSqBase]

@[simp] theorem State.regionRefused_rows (s : State) (o : Origin) (r off : Nat) (v : Word) :
    (s.regionRefused o r off v).grid.rows = s.grid.rows := by rfl

@[simp] theorem State.putRegDef_rows (s : State) (o : Origin) (r : Nat) (v : Word) :
    (s.putRegDef o r v).grid.rows = s.grid.rows := by simp [State.putRegDef]

@[simp] theorem State.putArea_rows (s : State) (o : Origin) (r off : Nat) (v : Word) (base size : Nat) :
    (s.putArea o r off v base size).grid.rows = s.grid.rows := by simp [State.putArea]

@[simp] theorem State.putAreaBase_rows (s : State) (o : Origin) (r : Nat) (v : Word) :
    (s.putAreaBase o r v).grid.rows = s.grid.rows := by simp [State.putAreaBase]

@[simp] theorem State.putAreaSize_rows (s : State) (o : Origin) (r : Nat) (v : Word) :
    (s.putAreaSize o r v).grid.rows = s.grid.rows := by simp [State.putAreaSize]

@[simp] theorem State.writeStore_rows (s : State) (o : Origin) (d off : Nat) (v : Word) :
    (s.writeStore o d off v).grid.rows = s.grid.rows := by simp [State.writeStore]

@[simp] theorem State.writeMem_rows (s : State) (m off : Nat) (v : Word) :
    (s.writeMem m off v).grid.rows = s.grid.rows := by simp [State.writeMem]

@[simp] theorem State.writePort_rows (s : State) (o : Origin) (p off : Nat) (v : Word) :
    (s.writePort o p off v).grid.rows = s.grid.rows := by
  unfold State.writePort
  repeat' split
  all_goals simp

@[simp] theorem State.putEqBase_rows (s : State) (e : Nat) (v : Word) :
    (s.putEqBase e v).grid.rows = s.grid.rows := by simp [State.putEqBase]

@[simp] theorem State.writeHelm_rows (s : State) (o : Origin) (off : Nat) (v : Word) :
    (s.writeHelm o off v).grid.rows = s.grid.rows := by
  unfold State.writeHelm
  repeat' split
  all_goals simp

@[simp] theorem State.putPwrCfg_rows (s : State) (o : Origin) (v : Word) :
    (s.putPwrCfg o v).grid.rows = s.grid.rows := by simp [State.putPwrCfg]

@[simp] theorem State.writeCompute_rows (s : State) (d off : Nat) (v : Word) :
    (s.writeCompute d off v).grid.rows = s.grid.rows := by simp [State.writeCompute]

@[simp] theorem State.putBack_rows (s : State) (a : Nat) (v : Word) : (s.putBack a v).grid.rows = s.grid.rows := by
  unfold State.putBack
  split <;> simp

@[simp] theorem State.transmit_rows (s : State) (o : Origin) : (s.transmit o).grid.rows = s.grid.rows := by
  unfold State.transmit
  split <;> simp

/-! Connectors, the management endpoint and the test port. -/

@[simp] theorem State.cableMoved_rows (s : State) (k : Nat) (present : Bool) :
    (s.cableMoved k present).grid.rows = s.grid.rows := by simp [State.cableMoved]

@[simp] theorem State.i3cMode_rows (s : State) (m : Option (BitVec 7)) : (s.i3cMode m).grid.rows = s.grid.rows := by
  rfl

@[simp] theorem State.loadExtest_rows (s : State) : (s.loadExtest).grid.rows = s.grid.rows := by rfl

/-! Beats and drains. -/

@[simp] theorem State.countBeat_rows (s : State) (c : Nat) (a : Option Acc) :
    (s.countBeat c a).grid.rows = s.grid.rows := by
  unfold State.countBeat
  split <;> simp

@[simp] theorem State.writeRowPort_rows (s : State) (c k : Nat) (d : Drain) (bs : List Byte) (sc : Byte)
    (u : Nat) : (s.writeRowPort c k d bs sc u).grid.rows = s.grid.rows := by simp [State.writeRowPort]

@[simp] theorem State.rowDue_rows (s : State) (c : Nat) (d : Drain) (u : Nat) :
    (s.rowDue c d u).1.grid.rows = s.grid.rows := by
  unfold State.rowDue
  split <;> simp

/-! Register accesses: what the body of an access keeps good, the access keeps good. -/

section
variable {s : State} (hs : RowsGood s.grid.rows)
include hs

@[simp] theorem State.endpoint_rowsGood {o : Origin} {a : Nat} {write : Bool} {body : State}
    (hb : RowsGood body.grid.rows) :
    RowsGood (s.endpoint o a write body).grid.rows := by
  unfold State.endpoint
  split
  · exact hb
  · split <;> simpa using hs

@[simp] theorem State.onReg_rowsGood {o : Origin} {a : Nat} {write : Bool} {body : State → State}
    (hb : RowsGood (body s).grid.rows) : RowsGood (s.onReg o a write body).grid.rows := by
  refine State.endpoint_rowsGood hs ?_
  split
  · simpa using hs
  · split
    · simpa using hs
    · exact hb

@[simp] theorem State.onWrite_rowsGood {o : Origin} {a : Nat} {body : State → State}
    (hb : RowsGood (body s).grid.rows) : RowsGood (s.onWrite o a body).grid.rows :=
  State.onReg_rowsGood hs (by simpa using hb)

@[simp] theorem State.onHostWrite_rowsGood {o : Origin} {a : Nat} {v : Word} {body : State → State}
    (hb : RowsGood (body s).grid.rows) : RowsGood (s.onHostWrite o a v body).grid.rows := by
  refine State.onReg_rowsGood hs ?_
  split
  · simpa using hs
  · simpa using hb

/-! Resets: rows stay, or are built from the fuses (R340, R376). -/

@[simp] theorem State.resetScope_rowsGood {reach die core : Nat} :
    RowsGood (s.resetScope reach die core).grid.rows := by
  unfold State.resetScope
  split
  · exact Fuses.rowMaps_good _
  · repeat' split
    all_goals simpa using hs

@[simp] theorem State.assertAt_rowsGood {src reach die core : Nat} {held handover : Bool} :
    RowsGood (s.assertAt src reach die core held handover).grid.rows := by
  have hreset : RowsGood (s.resetScope reach die core).grid.rows := State.resetScope_rowsGood hs
  unfold State.assertAt
  dsimp only
  simp only [State.resetPool_rows, State.dropChange_rows, rows_ite, State.resetFabric_rows, ite_self]
  exact hreset

@[simp] theorem State.assert_rowsGood {src die : Nat} {held : Bool} : RowsGood (s.assert_ src die held).grid.rows := by
  unfold State.assert_
  exact State.assertAt_rowsGood (by simpa using hs)

@[simp] theorem State.watchdogBites_rowsGood : RowsGood s.watchdogBites.grid.rows := State.assertAt_rowsGood hs

@[simp] theorem State.putRstReq_rowsGood {o : Origin} {v : Word} : RowsGood (s.putRstReq o v).grid.rows := by
  unfold State.putRstReq
  split
  · exact State.assert_rowsGood hs
  · simpa using hs

@[simp] theorem State.takeResetReq_rowsGood {p : Nat} : RowsGood (s.takeResetReq p).grid.rows := by
  unfold State.takeResetReq
  dsimp only
  split
  · exact State.assert_rowsGood (by simpa using hs)
  · simpa using hs

@[simp] theorem State.inputLost_rowsGood {x : InputState} : RowsGood (s.inputLost x).grid.rows :=
  State.assertAt_rowsGood (by exact hs)

@[simp] theorem State.trip_rowsGood {n : Nat} : RowsGood (s.trip n).grid.rows := by
  unfold State.trip
  extract_lets d r x recorded power tripped asserted
  have htripped : RowsGood tripped.grid.rows := by simpa [tripped, recorded] using hs
  have hasserted : RowsGood asserted.grid.rows := State.assert_rowsGood htripped
  split
  · exact State.assertAt_rowsGood htripped
  · split
    · simpa using hasserted
    · exact hasserted

@[simp] theorem State.readSensor_rowsGood {n celsius : Nat} : RowsGood (s.readSensor n celsius).grid.rows := by
  unfold State.readSensor
  extract_lets run power measured hot tripping known
  have hu : RowsGood known.grid.rows := hs
  split
  · exact State.trip_rowsGood hu
  · exact hu

/-! Lockouts, repair and row map updates: the maps they put are built from failed sites, or were decided before
(R338). -/

@[simp] theorem State.failSite_rowsGood {c : Nat} : RowsGood (s.failSite c).grid.rows := by
  have hput : ∀ busy failed,
      RowsGood (Assoc.put {} s.grid.rows (rowKey c) ((s.rowMap (rowKey c)).decide_ busy failed)) :=
    fun busy failed => hs.put _ (RowMap.decide_good (hs (rowKey c)) busy failed)
  unfold State.failSite
  dsimp only
  split
  · exact hs
  · split
    · exact hput _ _
    · split
      · rw [State.repair_grid]
        exact hput _ _
      · rw [State.gridChange_rows]
        exact hput _ _

@[simp] theorem State.lockout_rowsGood {c trigger : Nat} {fate : TaskEnd} :
    RowsGood (s.lockout c trigger fate).grid.rows := by
  have hfail : ∀ u : State, u.grid.rows = s.grid.rows → RowsGood ((u.useFree 2).failSite c).grid.rows :=
    fun u hu => State.failSite_rowsGood (by simpa [hu] using hs)
  unfold State.lockout
  dsimp only
  refine State.assertAt_rowsGood ?_
  rw [rows_ite, State.loseDie_rows, ite_self, State.lockoutRec_rows]
  cases s.siteTask c with
  | none => exact hfail _ rfl
  | some site =>
    rw [State.reissue_rows]
    exact hfail _ (by simp)

@[simp] theorem State.coreExc_rowsGood {c code : Nat} {u : UnitId} {i line : Nat} :
    RowsGood (s.coreExc c code u i line).grid.rows := by
  unfold State.coreExc
  split
  · exact hs
  · dsimp only
    split
    · split
      · exact State.lockout_rowsGood (by exact hs)
      · split <;> simpa using hs
    · simpa using hs

theorem State.updateRow_rowsGood {t : State} {key : Nat} (h : s.updateRow key = some t) : RowsGood t.grid.rows := by
  unfold State.updateRow at h
  split at h
  · next failed active hnext =>
    split at h
    · cases h
    · obtain rfl := Option.some.inj h
      exact hs.put _ ⟨(hs key).2 _ _ hnext, by simp⟩
  · cases h

@[simp] theorem State.lockDie_rowsGood {d trigger : Nat} : RowsGood (s.lockDie d trigger).grid.rows := by
  unfold State.lockDie
  exact State.assert_rowsGood (by simpa using hs)

@[simp] theorem State.dieFault_rowsGood {d trigger : Nat} : RowsGood (s.dieFault d trigger).grid.rows := by
  unfold State.dieFault
  split
  · split
    · exact State.assertAt_rowsGood hs
    · exact State.lockDie_rowsGood hs
  · exact State.assert_rowsGood hs

@[simp] theorem State.operatorDie_rowsGood {d : Nat} : RowsGood (s.operatorDie d).grid.rows := by
  unfold State.operatorDie
  split
  · simpa using hs
  · rw [State.answer_grid]
    exact State.dieFault_rowsGood hs

theorem State.escalated_rowsGood {t : State} {x : RecoveryStep} (h : s.escalated x = some t) :
    RowsGood t.grid.rows := by
  cases x with
  | lockout c =>
    dsimp only [State.escalated] at h
    split at h
    · obtain rfl := Option.some.inj h
      exact State.dieFault_rowsGood hs
    · cases h
  | dieRecovery d =>
    dsimp only [State.escalated] at h
    split at h
    · obtain rfl := Option.some.inj h
      exact State.assertAt_rowsGood hs
    · cases h
  | episode k =>
    dsimp only [State.escalated] at h
    split at h
    · split at h
      · cases h
      · obtain rfl := Option.some.inj h
        exact State.watchdogBites_rowsGood hs
    · cases h

@[simp] theorem State.safe_rowsGood {b : ParityBlock} : RowsGood (s.safe b).grid.rows := by
  cases b with
  | port p => simpa [State.safe] using hs
  | graphEngine d => exact State.dieFault_rowsGood hs
  | queueGe q => exact State.dieFault_rowsGood hs
  | regionGe r => exact State.dieFault_rowsGood hs
  | queueHd _ => exact hs
  | regionHd _ => exact hs
  | eventQueue e => exact hs
  | store d => exact State.assert_rowsGood hs
  | memory m => exact State.assertAt_rowsGood hs
  | service => exact State.watchdogBites_rowsGood hs

@[simp] theorem State.parityFound_rowsGood {b : ParityBlock} : RowsGood (s.parityFound b).grid.rows :=
  State.safe_rowsGood (by simpa [State.parityFound] using hs)

/-! Boot: the repair record puts maps built from failed sites (R340). -/

@[simp] theorem State.takeRepair_rowsGood {es : List RepairEntry} {e : RepairEntry} :
    RowsGood (s.takeRepair es e).grid.rows := by
  unfold State.takeRepair
  split
  · dsimp only
    split
    · exact hs.put _ (rowMapOf_good _)
    · exact hs
  · dsimp only
    repeat' split
    all_goals simpa using hs

@[simp] theorem State.buildRepairs_rowsGood : RowsGood s.buildRepairs.grid.rows := by
  unfold State.buildRepairs
  split
  · exact foldl_rowsGood _ (fun s e h => State.takeRepair_rowsGood h) _ s hs
  · exact hs

@[simp] theorem State.runImage_rowsGood {i : Image} {b : List Byte} : RowsGood (s.runImage i b).grid.rows := by
  unfold State.runImage
  simp only [State.bootOn_rows, State.requestBoot_rows, State.wakeKept_rows]
  exact State.buildRepairs_rowsGood hs

@[simp] theorem State.bootSlot_rowsGood : RowsGood s.bootSlot.grid.rows := by
  unfold State.bootSlot
  dsimp only
  split
  · simp [hs]
  · split
    · simp [hs]
    · simp [hs]

@[simp] theorem State.takeRecovery_rowsGood {b : List Byte} : RowsGood (s.takeRecovery b).1.grid.rows := by
  unfold State.takeRecovery
  split
  · split
    · dsimp only
      exact State.runImage_rowsGood hs
    · exact hs
  · exact hs

@[simp] theorem State.recoverBlock_rowsGood {block : List Byte} : RowsGood (s.recoverBlock block).grid.rows := by
  unfold State.recoverBlock
  split
  · simpa using hs
  · dsimp only
    split
    · simpa using hs
    · exact State.takeRecovery_rowsGood hs

/-! Placement and register writes. -/

@[simp] theorem State.putGang_rowsGood {q t : Nat} {x : Task} {ox oy : Nat} :
    RowsGood (s.putGang q t x ox oy).grid.rows := by
  unfold State.putGang
  dsimp only
  split
  · split <;> simpa using hs
  · exact foldl_rowsGood _ (fun s c h => State.lockout_rowsGood h) _ _ (by simpa using hs)

theorem State.placeTask_rowsGood {u : State} {q t ox oy : Nat} {x : Task} (h : s.placeTask q t ox oy x = some u) :
    RowsGood u.grid.rows := by
  unfold State.placeTask at h
  dsimp only at h
  split at h
  · cases h
  · split at h
    · obtain rfl := Option.some.inj h
      simpa using hs
    · split at h
      · split at h
        · obtain rfl := Option.some.inj h
          simpa using hs
        · split at h
          · cases h
          · obtain rfl := Option.some.inj h
            exact State.putGang_rowsGood hs
      · cases h

@[simp] theorem State.writeService_rowsGood {o : Origin} {off : Nat} {v : Word} :
    RowsGood (s.writeService o off v).grid.rows := by
  unfold State.writeService
  repeat' split
  all_goals simp [hs]

@[simp] theorem State.writeReg_rowsGood {o : Origin} {d off : Nat} {v : Word} :
    RowsGood (s.writeReg o d off v).grid.rows := by
  unfold State.writeReg
  repeat' split
  all_goals simp [hs]

@[simp] theorem State.putReg_rowsGood {o : Origin} {a : Nat} {v : Word} : RowsGood (s.putReg o a v).grid.rows := by
  unfold State.putReg
  split
  · exact State.writeReg_rowsGood hs
  · exact hs

@[simp] theorem State.accessReg_rowsGood {o : Origin} {a n : Nat} {data : Option (List Byte)} :
    RowsGood (s.accessReg o a n data).grid.rows := by
  refine State.endpoint_rowsGood hs ?_
  split
  · simpa using hs
  · split
    · simpa using hs
    · simpa using hs
    · dsimp only
      split
      · simpa using hs
      · simpa using State.putReg_rowsGood hs
    · exact hs

@[simp] theorem State.fabric_rowsGood {o : Origin} {a n : Nat} {data : Option (List Byte)} :
    RowsGood (s.fabric o a n data).grid.rows := by
  unfold State.fabric
  split
  · exact State.accessReg_rowsGood hs
  · split
    · simpa using hs
    · extract_lets bad u held
      have hu : RowsGood u.grid.rows := by simpa [u] using hs
      have hturn : (if held = true then (u, true) else u.accessTurn o a n).1.grid.rows = u.grid.rows := by
        split <;> simp
      split
      · next h => simpa [rows_of_fst h, hturn] using hu
      · next h => simpa [rows_of_fst h, hturn] using hu
      · next h => simpa [rows_of_fst h, hturn] using hu

end

/-! Outcomes: what a command answers, when the state it starts from has good rows. -/

/-- The next state that an outcome gives, if any, has good rows. -/
def Out.Good (o : Out) : Prop :=
  match o with
  | .next t => RowsGood t.grid.rows
  | _ => True

@[simp] theorem Out.good_next (t : State) : Out.Good (.next t) ↔ RowsGood t.grid.rows := Iff.rfl
@[simp] theorem Out.good_fault (f : Fault) : Out.Good (.fault f) := trivial

theorem Out.Good.next {o : Out} (h : Out.Good o) {t : State} (ht : o = .next t) : RowsGood t.grid.rows := by
  subst ht
  exact h

/-- A command of a unit that the module may not have. -/
@[simp] theorem Out.good_ite (p : Prop) [Decidable p] (a b : Out) :
    Out.Good (if p then a else b) ↔ if p then Out.Good a else Out.Good b := by split <;> rfl

/-- The state that an event makes, if it happens, has good rows. -/
def SomeGood (o : Option State) : Prop := ∀ t, o = some t → RowsGood t.grid.rows

@[simp] theorem someGood_none : SomeGood none := fun _ h => by cases h

@[simp] theorem someGood_some (t : State) : SomeGood (some t) ↔ RowsGood t.grid.rows := by simp [SomeGood]

@[simp] theorem someGood_ite (p : Prop) [Decidable p] (a b : Option State) :
    SomeGood (if p then a else b) ↔ if p then SomeGood a else SomeGood b := by split <;> rfl

@[simp] theorem someGood_map {α : Type} {o : Option α} {f : α → State} (h : ∀ a, RowsGood (f a).grid.rows) :
    SomeGood (o.map f) := by
  cases o with
  | none => exact someGood_none
  | some a => exact (someGood_some _).mpr (h a)

@[simp] theorem someGood_bind {α : Type} {o : Option α} {f : α → Option State} (h : ∀ a, SomeGood (f a)) :
    SomeGood (o.bind f) := by
  cases o with
  | none => exact someGood_none
  | some a => exact h a

/-- An event that leaves the rows leaves them good. -/
theorem someGood_of_rows {s : State} (hs : RowsGood s.grid.rows) {o : Option State}
    (h : ∀ t, o = some t → t.grid.rows = s.grid.rows) : SomeGood o := fun t ht => by rwa [h t ht]

section
variable {s : State} (hs : RowsGood s.grid.rows)
include hs

@[simp] theorem State.happens_good {o : Option State} : Out.Good (s.happens o) ↔ SomeGood o := by
  cases o with
  | none => simpa using hs
  | some t => simp

@[simp] theorem State.managed_good {b : State} (hb : RowsGood b.grid.rows) : Out.Good (s.managed b) := by
  unfold State.managed
  rw [Out.good_next]
  split
  · split
    · simpa using hs
    · exact hb
  · exact hs

@[simp] theorem State.asked_good {b : State} (hb : RowsGood b.grid.rows) : Out.Good (s.asked b) := by
  unfold State.asked
  rw [Out.good_next]
  split
  · exact hb
  · exact hs

@[simp] theorem State.coreRes_good {c : Nat} {r : CoreRes} : Out.Good (s.coreRes c r) := by
  cases r with
  | ok t k => exact hs
  | held k => exact hs
  | exc code u i k line =>
    have hset : RowsGood (s.setCore c k).grid.rows := hs
    exact State.coreExc_rowsGood hset
  | noop => exact hs
  | refuse => trivial

@[simp] theorem State.onCore_good {c : Nat} {f : Core → CoreRes} : Out.Good (s.onCore c f) := by
  simp [State.onCore, hs]

@[simp] theorem State.onInstr_good {c : Nat} {u : UnitId} {i : Instr} {f : Core → CoreRes} :
    Out.Good (s.onInstr c u i f) := State.onCore_good hs

@[simp] theorem State.transfer_good {i : Instr} {c : Nat} {tag : Fin 8} {kind : XferKind} {l f n : Fin 32}
    {extra : Bool} : Out.Good (s.transfer i c tag kind l f n extra) := by
  unfold State.transfer
  split
  · dsimp only
    split
    · simp [hs]
    · exact State.coreRes_good hs
  · trivial

theorem State.onPacket_good {p : Nat} {v : Vc} {op : Nat} {body : State → Header → List Byte → Option State}
    (hbody : ∀ u h d, RowsGood u.grid.rows → SomeGood (body u h d)) : Out.Good (s.onPacket p v op body) := by
  unfold State.onPacket
  split
  · exact hs
  · have hskip : RowsGood (s.skipBad p v ((s.lport p).vcOf v).rx.length).grid.rows := by simpa using hs
    exact (State.happens_good hskip).mpr (someGood_bind fun x => by simp [hbody _ x.1 x.2 hskip])

theorem State.onEntry_good {q : Nat} {mine : Entry → Bool} {body : State → Entry → Option State}
    (hbody : ∀ u e, RowsGood u.grid.rows → SomeGood (body u e)) : Out.Good (s.onEntry q mine body) := by
  have htaken : RowsGood (if (s.sq q).entries.isEmpty then s.takeEntries q else s).grid.rows := by simpa using hs
  rcases s.onEntry_cases q mine body with ⟨-, h⟩ | ⟨-, ⟨e, t, -, -, ht, h⟩ | h⟩ <;> rw [h]
  · trivial
  · exact hbody _ e (by rw [State.dropBad_rows]; exact htaken) t ht
  · rw [Out.good_next, State.dropBad_rows]
    exact htaken

@[simp] theorem State.onTask_good {q t : Nat} {f : Task → Option State} (hf : ∀ x, SomeGood (f x)) :
    Out.Good (s.onTask q t f) := by
  simp [State.onTask, hs, hf]

@[simp] theorem State.onCtx_good {n : Nat} {f : Ctx → Option State} (hf : ∀ c, SomeGood (f c)) :
    Out.Good (s.onCtx n f) := by
  simp [State.onCtx, hs, hf]

omit hs in
@[simp] theorem State.withFree_good {o : Out} (ho : Out.Good o) : Out.Good (s.withFree o) := by
  cases o with
  | next t => exact ho
  | fault f => trivial
  | refused r => trivial

end

/-! What the events of movement operations and of transfers end in. -/

/-- Each state that the end of a transfer carries has the rows given. -/
def XferEnd.Keeps (x : XferEnd) (rows : Assoc RowMap) : Prop :=
  match x with
  | .done t => t.grid.rows = rows
  | .error t _ _ _ => t.grid.rows = rows
  | .lost t _ => t.grid.rows = rows
  | .waits => True

theorem State.transferWrite_keeps (s : State) (c a : Nat) (bs : List Byte) :
    (s.transferWrite c a bs).Keeps s.grid.rows := by
  have htask : ∀ q t, XferEnd.Keeps (match s.writeInPlace q t (bytesAt a bs) with
      | .ok s => .done s
      | .waits => .waits
      | .full x => .error s 0x37 x true
      | .bad e x => .error s e x true
      | .area r => .done (s.faultRegion r 4)) s.grid.rows := by
    intro q t
    split
    · next hwrite => exact State.writeInPlace_rows hwrite
    · trivial
    · exact rfl
    · exact rfl
    · simp [XferEnd.Keeps]
  unfold State.transferWrite
  split
  · exact htask _ _
  · exact htask _ _
  · split
    · next hwrite => exact State.memWrite_rows hwrite
    · exact rfl

theorem State.runTransfer_keeps (s : State) (c : Nat) (x : Transfer) : (s.runTransfer c x).Keeps s.grid.rows := by
  unfold State.runTransfer
  dsimp only
  split
  · split
    · exact rfl
    · split
      · trivial
      · split
        · next hread => simp [XferEnd.Keeps, rows_of_fst hread]
        · next hread => split <;> simp [XferEnd.Keeps, rows_of_fst hread]
  · split
    · exact rfl
    · split
      · trivial
      · split
        · exact rfl
        · next k bs _ => exact (s.setCore c k).transferWrite_keeps c _ bs
  · split
    · exact rfl
    · next k bs _ =>
      split
      · next hwrite => exact (State.writeSites_rows hwrite).trans (rows_setCore s c k)
      · exact rfl

theorem State.startMove_good {s : State} (hs : RowsGood s.grid.rows) {op q t : Nat} :
    Out.Good (if decide (q < 4096) then s.happens (s.startMove op q t) else .fault .noSuchUnit) := by
  split
  · exact (State.happens_good hs).mpr (someGood_of_rows hs fun _ h => State.startMove_rows h)
  · trivial

/-! What each command answers, given a state with good rows. -/

section
variable {s : State} (hs : RowsGood s.grid.rows)
include hs

/-! The link layer. -/

theorem execLaneSpare_good {p lane : Fin 8} {why : LaneCause} : Out.Good (execLaneSpare p lane why s) := by
  simp [execLaneSpare, hs]

theorem execRetrainEnd_good {l : FrameLock} : Out.Good (execRetrainEnd l s) := by simp [execRetrainEnd, hs]

theorem execRetrainTimeout_good {p : Fin 8} : Out.Good (execRetrainTimeout p s) := by
  simp [execRetrainTimeout, hs]

theorem execTrainingRetry_good {p : Fin 8} : Out.Good (execTrainingRetry p s) := by simp [execTrainingRetry, hs]

theorem execFramesLocked_good {l : FrameLock} : Out.Good (execFramesLocked l s) := by
  simp [execFramesLocked, hs]

theorem execFlitSend_good {p : Fin 8} : Out.Good (execFlitSend p s) := by simp [execFlitSend, hs]

theorem execFlitReceive_good {p : Fin 8} {flit : BitVec 2048} {codewordOk : Bool} :
    Out.Good (execFlitReceive p flit codewordOk s) := by simp [execFlitReceive, hs]

theorem execReplayTimeout_good {p : Fin 8} : Out.Good (execReplayTimeout p s) := by simp [execReplayTimeout, hs]

theorem execHello_good {p : Fin 8} : Out.Good (execHello p s) := by simp [execHello, hs]

theorem execHelloSend_good {p : Fin 8} : Out.Good (execHelloSend p s) := by simp [execHelloSend, hs]

theorem execInit_good {p : Fin 8} : Out.Good (execInit p s) := by simp [execInit, hs]

theorem execInitSend_good {p : Fin 8} : Out.Good (execInitSend p s) := by simp [execInitSend, hs]

theorem execResetReq_good {p : Fin 8} : Out.Good (execResetReq p s) := by simp [execResetReq, hs]

theorem execResetReqReceive_good {p : Fin 8} : Out.Good (execResetReqReceive p s) := by
  simp [execResetReqReceive, hs]

/-! The transaction layer. -/

theorem execPut_good {p : Fin 8} {vc : Vc} : Out.Good (execPut p vc s) := by
  refine State.onPacket_good hs fun u h d hu => ?_
  split
  · exact someGood_of_rows hu fun _ ht => State.writePacket_rows (fun _ => rfl) ht
  · simp [hu]

theorem execGet_good {p : Fin 8} : Out.Good (execGet p s) :=
  State.onPacket_good hs fun _ _ _ hu => someGood_of_rows hu fun _ ht => State.get_rows ht

theorem execReducePut_good {p : Fin 8} : Out.Good (execReducePut p s) :=
  State.onPacket_good hs fun _ _ _ hu => someGood_of_rows hu fun _ ht => State.reducePut_rows ht

theorem execPermutePacket_good {p : Fin 8} : Out.Good (execPermutePacket p s) := by
  refine State.onPacket_good hs fun u h d hu => ?_
  have hwrite : SomeGood (u.writePacket p .red h d (fun s => s.countUnits p.val h.len)) :=
    someGood_of_rows hu fun _ ht => State.writePacket_rows (fun s => s.countUnits_rows p.val h.len) ht
  simp [hu, hwrite]

theorem execFlagPacket_good {p : Fin 8} {vc : Vc} : Out.Good (execFlagPacket p vc s) :=
  State.onPacket_good hs fun u h d hu => by simp [hu]

theorem execCompletion_good {p : Fin 8} : Out.Good (execCompletion p s) := by
  refine State.onPacket_good hs fun u h d hu => (someGood_some _).mpr ?_
  split <;> simpa using hu

theorem execGetRsp_good {p : Fin 8} : Out.Good (execGetRsp p s) := by
  refine State.onPacket_good hs fun u h d hu => ?_
  have hland : ∀ t dst, SomeGood (u.landGet p h t dst d) := fun t dst =>
    someGood_of_rows hu fun _ ht => State.landGet_rows ht
  split
  · simp [hu]
  · split
    · simp [hu]
    · split <;> simp [hu, hland]

theorem execLinkDescriptor_good {p : Fin 8} : Out.Good (execLinkDescriptor p s) := by
  have htake : SomeGood (s.takeDesc p) := someGood_of_rows hs fun _ h => State.takeDesc_rows h
  simp [execLinkDescriptor, hs, htake]

theorem execPortCtl_good {o : Origin} {p : Fin 8} {v : BitVec 64} : Out.Good (execPortCtl o p v s) := by
  simp [execPortCtl, hs]

theorem execPortSqTail_good {o : Origin} {p : Fin 8} {v : BitVec 64} : Out.Good (execPortSqTail o p v s) :=
  State.onWrite_rowsGood hs (by exact hs)

theorem execPortRingid_good {p : Fin 8} {v : BitVec 64} : Out.Good (execPortRingid p v s) := by
  refine State.managed_good hs (State.onReg_rowsGood hs ?_)
  rwa [State.answer_grid]

/-! Event queues, the handover and the front-end ports. -/

theorem execEqCfg_good {o : Origin} {e : Nat} {v : BitVec 64} : Out.Good (execEqCfg o e v s) := by
  simp [execEqCfg, hs]

theorem execEqHead_good {o : Origin} {e : Nat} {v : BitVec 64} : Out.Good (execEqHead o e v s) := by
  unfold execEqHead
  split
  · exact State.onWrite_rowsGood hs (by exact hs)
  · trivial

theorem execEventRecordWrite_good {e : Nat} : Out.Good (execEventRecordWrite e s) := by
  simp [execEventRecordWrite, hs]

theorem execEventInterrupt_good {e : Nat} : Out.Good (execEventInterrupt e s) := by
  simp [execEventInterrupt, hs]

theorem execHandover_good : Out.Good (execHandover s) := by simp [execHandover, hs]

theorem execHostmem_good {gib : Nat} : Out.Good (execHostmem gib s) := by simp [execHostmem, hs]

theorem execFrontEndFrame_good {n : Fin 2} {addr : Nat} {frame : List (BitVec 8)} :
    Out.Good (execFrontEndFrame n addr frame s) := by
  have hframe : SomeGood (s.dmaFrame n addr frame) := someGood_of_rows hs fun _ h => State.dmaFrame_rows h
  simp [execFrontEndFrame, hs, hframe]

/-! Row maps and the memory-port dies. -/

theorem execRowMapUpdate_good {d : Fin 12} {row : Fin 30} : Out.Good (execRowMapUpdate d row s) :=
  (State.happens_good hs).mpr fun _ h => State.updateRow_rowsGood hs h

theorem execPatrolScrub_good {m : Fin 16} : Out.Good (execPatrolScrub m s) := by simp [execPatrolScrub, hs]

theorem execRowRedirectDone_good {m : Fin 16} : Out.Good (execRowRedirectDone m s) := by
  simp [execRowRedirectDone, hs]

theorem execMemRepair_good {m : Fin 16} : Out.Good (execMemRepair m s) := by simp [execMemRepair, hs]

theorem execMemRepairEnd_good {m : Fin 16} : Out.Good (execMemRepairEnd m s) := by simp [execMemRepairEnd, hs]

theorem execChannelRetire_good {ch : Nat} : Out.Good (execChannelRetire ch s) := by simp [execChannelRetire, hs]

theorem execGranuleMigrated_good : Out.Good (execGranuleMigrated s) := by
  unfold execGranuleMigrated
  split <;> simp [hs]

theorem execChannelRetired_good : Out.Good (execChannelRetired s) := by
  unfold execChannelRetired
  split <;> simp [hs]

/-! The reference, the clock nodes and the row clocks. -/

theorem execPor_good : Out.Good (execPor s) := by simp [execPor, hs]

theorem execCrystalWindow_good {ppm : Int} : Out.Good (execCrystalWindow ppm s) := by
  simp [execCrystalWindow, hs]

theorem execCrystalTimeout_good : Out.Good (execCrystalTimeout s) := by simp [execCrystalTimeout, hs]

theorem execXtallost_good : Out.Good (execXtallost s) := by simp [execXtallost, hs]

theorem execClkNodeSrc_good {o : Origin} {k : Fin 64} {v : BitVec 64} : Out.Good (execClkNodeSrc o k v s) := by
  simp [execClkNodeSrc, hs]

theorem execClkNodeGate_good {o : Origin} {k : Fin 64} {v : BitVec 64} :
    Out.Good (execClkNodeGate o k v s) := by simp [execClkNodeGate, hs]

theorem execClkNodeUngate_good {o : Origin} {k : Fin 64} {v : BitVec 64} :
    Out.Good (execClkNodeUngate o k v s) := by simp [execClkNodeUngate, hs]

theorem execClockSwitchEnd_good {k : Fin 64} : Out.Good (execClockSwitchEnd k s) := by
  simp [execClockSwitchEnd, hs]

theorem execClkmonCtl_good {o : Origin} {v : BitVec 64} : Out.Good (execClkmonCtl o v s) := by
  simp [execClkmonCtl, hs]

theorem execRowClockGate_good {d : Fin 12} {row : Fin 30} : Out.Good (execRowClockGate d row s) := by
  simp [execRowClockGate, hs]

/-! Resets. -/

theorem execResetN_good {lowCycles : Nat} : Out.Good (execResetN lowCycles s) := by simp [execResetN, hs]

theorem execManagementReset_good : Out.Good (execManagementReset s) :=
  State.managed_good hs (by simp [hs])

theorem execRstReq_good {o : Origin} {v : BitVec 64} : Out.Good (execRstReq o v s) := by simp [execRstReq, hs]

theorem execWatchdog_good {why : WatchdogCause} : Out.Good (execWatchdog why s) := by simp [execWatchdog, hs]

theorem execResetSourceRelease_good {src : Fin 9} : Out.Good (execResetSourceRelease src s) := by
  simp [execResetSourceRelease, hs]

theorem execResetRelease_good {episode : Nat} : Out.Good (execResetRelease episode s) := by
  unfold execResetRelease
  split <;> simp [hs]

/-! The input stage, the power domains and the loops. -/

theorem execInputUndervoltage_good : Out.Good (execInputUndervoltage s) := by simp [execInputUndervoltage, hs]

theorem execInputOvervoltage_good : Out.Good (execInputOvervoltage s) := by simp [execInputOvervoltage, hs]

theorem execVinSenseLoss_good : Out.Good (execVinSenseLoss s) := by simp [execVinSenseLoss, hs]

theorem execInputRestored_good : Out.Good (execInputRestored s) := by simp [execInputRestored, hs]

theorem execVinrange_good {centivolts : Nat} : Out.Good (execVinrange centivolts s) := by
  simp [execVinrange, hs]

theorem execPhaseFail_good {domain : Fin 20} : Out.Good (execPhaseFail domain s) := by simp [execPhaseFail, hs]

theorem execPwrDom_good {o : Origin} {v : BitVec 64} : Out.Good (execPwrDom o v s) := by simp [execPwrDom, hs]

theorem execDomainChangeDone_good : Out.Good (execDomainChangeDone s) := by simp [execDomainChangeDone, hs]

theorem execDomainOnTimeout_good : Out.Good (execDomainOnTimeout s) := by
  unfold execDomainOnTimeout
  split <;> simp [hs]

theorem execPwrCap_good {v : BitVec 64} : Out.Good (execPwrCap v s) := by simp [execPwrCap, hs]

theorem execFastLoop_good {d : Fin 12} : Out.Good (execFastLoop d s) := by simp [execFastLoop, hs]

theorem execSlowLoop_good {pIn vin : Nat} {meas : List Nat} {others : Nat} :
    Out.Good (execSlowLoop pIn vin meas others s) := by simp [execSlowLoop, hs]

theorem execDroop_good {d : Fin 12} {_g : Fin 5} : Out.Good (execDroop d _g s) := by simp [execDroop, hs]

theorem execDroopDecay_good {d : Fin 12} : Out.Good (execDroopDecay d s) := by simp [execDroopDecay, hs]

/-! Temperature, lockouts and repair. -/

theorem execThermalSensorRead_good {x : Sensor} {celsius : Nat} :
    Out.Good (execThermalSensorRead x celsius s) := by simp [execThermalSensorRead, hs]

theorem execThermalLevelStep_good {x : Sensor} : Out.Good (execThermalLevelStep x s) := by
  unfold execThermalLevelStep
  split
  · cases x <;> simp [hs]
  · trivial

theorem execControlParityError_good {c : Nat} : Out.Good (execControlParityError c s) := by
  simp [execControlParityError, hs]

theorem execCoreLockout_good {c : Nat} : Out.Good (execCoreLockout c s) := by simp [execCoreLockout, hs]

theorem execDieLockout_good {idx : Nat} {why : DieFault} : Out.Good (execDieLockout idx why s) := by
  unfold execDieLockout
  split
  · split <;> simp [hs]
  · trivial

theorem execRepairRecordWrite_good {e : RepairEntry} : Out.Good (execRepairRecordWrite e s) := by
  simp [execRepairRecordWrite, hs]

theorem execDieReturn_good {d : Fin 12} {pass : Bool} : Out.Good (execDieReturn d pass s) := by
  simp [execDieReturn, hs]

theorem execRecoveryTimeout_good {x : RecoveryStep} : Out.Good (execRecoveryTimeout x s) :=
  (State.happens_good hs).mpr fun _ h => State.escalated_rowsGood hs h

theorem execConfigParityScan_good {b : ParityBlock} : Out.Good (execConfigParityScan b s) := by
  simp [execConfigParityScan, hs]

theorem execBankSpareDone_good {d : Fin 8} : Out.Good (execBankSpareDone d s) := by
  unfold execBankSpareDone
  split <;> simp [hs]

/-! Boot, firmware and identity. -/

theorem execBoot_good : Out.Good (execBoot s) := by simp [execBoot, hs]

theorem execFwRecover_good {block : List (BitVec 8)} : Out.Good (execFwRecover block s) := by
  simp [execFwRecover, hs]

theorem execRecoveryMailbox_good {image : List (BitVec 8)} : Out.Good (execRecoveryMailbox image s) := by
  simp [execRecoveryMailbox, hs]

theorem execFwCommit_good {addr len : Nat} : Out.Good (execFwCommit addr len s) := by simp [execFwCommit, hs]

theorem execUpdDone_good : Out.Good (execUpdDone s) := by simp [execUpdDone, hs]

theorem execFwSvnBurn_good : Out.Good (execFwSvnBurn s) := by simp [execFwSvnBurn, hs]

theorem execRootRevoke_good {slot : Fin 2} : Out.Good (execRootRevoke slot s) := by simp [execRootRevoke, hs]

theorem execAttest_good {nonce : BitVec 256} : Out.Good (execAttest nonce s) := by simp [execAttest, hs]

theorem execDevidCert_good : Out.Good (execDevidCert s) := State.managed_good hs (by simp [hs])

theorem execAttCtl_good {o : Origin} {v : BitVec 64} : Out.Good (execAttCtl o v s) := by simp [execAttCtl, hs]

theorem execAttExtend_good {o : Origin} {v : BitVec 64} : Out.Good (execAttExtend o v s) := by
  simp [execAttExtend, hs]

/-! Tasks, wards and windows of a core. -/

theorem execTaskEnd_good {c : Nat} : Out.Good (execTaskEnd c s) := by simp [execTaskEnd, hs]

theorem execWardArrive_good {c : Nat} : Out.Good (execWardArrive c s) := by simp [execWardArrive, hs]

theorem execWardRelease_good {q task : Nat} : Out.Good (execWardRelease q task s) := by
  simp [execWardRelease, hs]

theorem execCoreWindowRead_good {o : Origin} {c off len : Nat} :
    Out.Good (execCoreWindowRead o c off len s) := by simp [execCoreWindowRead, hs]

theorem execCoreWindowWrite_good {o : Origin} {use : WindowUse} {c off : Nat} {data : List (BitVec 8)} :
    Out.Good (execCoreWindowWrite o use c off data s) := by simp [execCoreWindowWrite, hs]

/-! Doorbells and submission entries. -/

theorem execSqDb_good {o : Origin} {q : Nat} {v : BitVec 64} : Out.Good (execSqDb o q v s) := by
  simp [execSqDb, hs]

theorem execFlag_good {q : Nat} : Out.Good (execFlag q s) :=
  State.onEntry_good hs fun u e hu => by simp [hu]

theorem execStreamArm_good {q : Nat} : Out.Good (execStreamArm q s) :=
  State.onEntry_good hs fun _ _ hu => someGood_of_rows hu fun _ h => State.streamArm_rows h

theorem execStreamRearm_good {q : Nat} : Out.Good (execStreamRearm q s) :=
  State.onEntry_good hs fun u e hu => by simp [hu]

theorem execStreamRelease_good {q : Nat} : Out.Good (execStreamRelease q s) :=
  State.onEntry_good hs fun u e hu => by simp [hu]

theorem execAbort_good {q : Nat} : Out.Good (execAbort q s) := by simp [execAbort, hs]

theorem execGraph_good {q : Nat} : Out.Good (execGraph q s) := by
  refine State.onEntry_good hs fun u e hu => someGood_of_rows hu fun t ht => ?_
  obtain ⟨v, hv, rfl⟩ := Option.map_eq_some_iff.mp ht
  rw [State.endDoomed_rows, State.takeGraph_rows hv]

/-! Exact-sum instructions that take free values. -/

theorem execXadd_good {c : Nat} {x : Fin 8} {a : Fin 32} : Out.Good (execXadd c x a s) := by simp [execXadd, hs]

theorem execXaddp_good {c : Nat} {x : Fin 8} {a f : Fin 32} : Out.Good (execXaddp c x a f s) := by
  simp [execXaddp, hs]

/-! Exchange channels and the RESHARD of an axis. -/

theorem execPortXchna_good {o : Origin} {p : Fin 8} {n : Fin 16} {v : BitVec 64} :
    Out.Good (execPortXchna o p n v s) := by simp [execPortXchna, hs]

theorem execPortXchnb_good {o : Origin} {p : Fin 8} {n : Fin 16} {v : BitVec 64} :
    Out.Good (execPortXchnb o p n v s) := by simp [execPortXchnb, hs]

theorem execValidClear_good {p : Fin 8} {n : Fin 16} : Out.Good (execValidClear p n s) := by
  unfold execValidClear
  dsimp only
  split <;> simp [hs]

theorem execChannelSlotSend_good {p : Fin 8} {n : Fin 16} : Out.Good (execChannelSlotSend p n s) := by
  have hslot : SomeGood (s.channelSlot p n.val) := someGood_of_rows hs fun _ h => State.channelSlot_rows h
  simp [execChannelSlotSend, hs, hslot]

theorem execReshard_good {q : Nat} : Out.Good (execReshard q s) := by
  refine State.onEntry_good hs fun u e hu => ?_
  split
  · exact someGood_none
  · split <;> next hread => simpa [rows_of_fst hread] using hu

theorem execEpochFence_good {axis : Fin 4} : Out.Good (execEpochFence axis s) := by simp [execEpochFence, hs]

theorem execCopyOut_good {axis : Fin 4} : Out.Good (execCopyOut axis s) := by simp [execCopyOut, hs]

theorem execReshardComplete_good {axis : Fin 4} : Out.Good (execReshardComplete axis s) := by
  refine (State.happens_good hs).mpr (someGood_bind fun r => ?_)
  split
  · rw [someGood_some]
    split <;> simpa using hs
  · exact someGood_none

/-! MOVE tasks. -/

theorem execCopy_good {q task : Nat} : Out.Good (execCopy q task s) := State.startMove_good hs

theorem execPermute_good {q task : Nat} : Out.Good (execPermute q task s) := State.startMove_good hs

theorem execGather_good {q task : Nat} : Out.Good (execGather q task s) := State.startMove_good hs

theorem execScatterAcc_good {q task : Nat} : Out.Good (execScatterAcc q task s) :=
  State.startMove_good hs

/-! Transfers. -/

theorem execXget_good {c : Nat} {tag : Fin 8} {l f n : Fin 32} : Out.Good (execXget c tag l f n s) := by
  simp [execXget, hs]

theorem execXput_good {c : Nat} {tag : Fin 8} {l f n : Fin 32} : Out.Good (execXput c tag l f n s) := by
  simp [execXput, hs]

theorem execXputMc_good {c : Nat} {tag : Fin 8} {l r n : Fin 32} : Out.Good (execXputMc c tag l r n s) := by
  simp [execXputMc, hs]

theorem execTransferComplete_good {c : Nat} {tag : Fin 8} : Out.Good (execTransferComplete c tag s) := by
  unfold execTransferComplete
  split
  · refine (State.happens_good hs).mpr (someGood_bind fun x => ?_)
    have hrun := s.runTransfer_keeps c x
    split
    · next hdone =>
      rw [hdone] at hrun
      exact (someGood_some _).mpr ((congrArg RowsGood hrun).mpr hs)
    · exact someGood_none
  · trivial

theorem execTransferErrorResponse_good {c : Nat} {tag : Fin 8} :
    Out.Good (execTransferErrorResponse c tag s) := by
  unfold execTransferErrorResponse
  split
  · refine (State.happens_good hs).mpr (someGood_bind fun x => ?_)
    have hrun := s.runTransfer_keeps c x
    split
    · next u cause a write herror =>
      rw [herror] at hrun
      refine (someGood_some _).mpr (State.coreExc_rowsGood ?_)
      rw [State.violate_grid]
      exact (congrArg RowsGood hrun).mpr hs
    · next u line hlost =>
      rw [hlost] at hrun
      exact (someGood_some _).mpr (State.coreExc_rowsGood ((congrArg RowsGood hrun).mpr hs))
    · exact someGood_none
  · trivial

/-! The store dies. -/

theorem execStoreCfg_good {o : Origin} {d : Fin 8} {v : BitVec 64} : Out.Good (execStoreCfg o d v s) := by
  simp [execStoreCfg, hs]

theorem execArmingRetry_good {q task : Nat} : Out.Good (execArmingRetry q task s) := by
  simp [execArmingRetry, hs]

theorem execStreamRequest_good {ctx : Nat} {dir : PieceDir} : Out.Good (execStreamRequest ctx dir s) :=
  State.onCtx_good hs fun _ => someGood_of_rows hs fun _ h => State.request_rows h

theorem execRequestGrant_good {d : Fin 8} {queue : DieQueue} : Out.Good (execRequestGrant d queue s) := by
  have hserve : ∀ r, SomeGood (s.serve r) := fun r => someGood_of_rows hs fun _ h => State.serve_rows h
  simp [execRequestGrant, hs, hserve]

theorem execBorrowGrant_good {d : Fin 8} : Out.Good (execBorrowGrant d s) := by
  have hgrant : SomeGood (s.borrowGrant d.val) := someGood_of_rows hs fun _ h => State.borrowGrant_rows h
  simp [execBorrowGrant, hs, hgrant]

theorem execSlotFillPost_good {ctx : Nat} : Out.Good (execSlotFillPost ctx s) := by simp [execSlotFillPost, hs]

theorem execSlotFreePost_good {ctx : Nat} : Out.Good (execSlotFreePost ctx s) := by simp [execSlotFreePost, hs]

theorem execPassStart_good {ctx : Nat} : Out.Good (execPassStart ctx s) := by simp [execPassStart, hs]

theorem execStreamStall_good {q task : Nat} : Out.Good (execStreamStall q task s) := by
  simp [execStreamStall, hs]

/-! The strike and the graph engines. -/

theorem execStrikeTick_good : Out.Good (execStrikeTick s) := by simp [execStrikeTick, hs]

theorem execServiceHeartbeat_good : Out.Good (execServiceHeartbeat s) := by simp [execServiceHeartbeat, hs]

theorem execTaskReady_good {q task : Nat} : Out.Good (execTaskReady q task s) := by simp [execTaskReady, hs]

theorem execTaskPlace_good {q task x y : Nat} : Out.Good (execTaskPlace q task x y s) :=
  State.onTask_good hs fun _ _ h => State.placeTask_rowsGood hs h

theorem execPlaceWaitExpiry_good {r : Nat} : Out.Good (execPlaceWaitExpiry r s) := by
  simp [execPlaceWaitExpiry, hs]

theorem execTaskCommit_good {q task : Nat} : Out.Good (execTaskCommit q task s) := by
  refine State.onTask_good hs fun x => ?_
  split
  · split <;> next hturn => simpa [rows_of_fst hturn] using hs
  · exact someGood_none

theorem execWardTaskRelease_good {q task : Nat} : Out.Good (execWardTaskRelease q task s) := by
  simp [execWardTaskRelease, hs]

theorem execQueueDeadlock_good {cycle : List (Nat × Nat)} : Out.Good (execQueueDeadlock cycle s) := by
  simp [execQueueDeadlock, hs]

theorem execCutCapture_good {q task : Nat} : Out.Good (execCutCapture q task s) := by
  have hcapture : ∀ x, SomeGood (s.capture q task x) := fun x => someGood_of_rows hs fun _ h => State.capture_rows h
  simp [execCutCapture, hs, hcapture]

/-! Hasps and stream control. -/

theorem execHwait_good {c : Nat} {h : Fin 16} {k : HaspKind} {cnt : Imm} :
    Out.Good (execHwait c h k cnt s) := by
  unfold execHwait
  dsimp only
  repeat' split
  all_goals simp [hs]

theorem execHpost_good {c : Nat} {h : Fin 16} {k : HaspKind} {cnt : Imm} :
    Out.Good (execHpost c h k cnt s) := by
  unfold execHpost
  dsimp only
  repeat' split
  all_goals simp [hs]

theorem execScancel_good {c : Nat} {h : Fin 16} : Out.Good (execScancel c h s) := by
  unfold execScancel
  dsimp only
  repeat' split
  all_goals simp [hs]

theorem execSrearm_good {c : Nat} {h : Fin 16} {a : Fin 32} : Out.Good (execSrearm c h a s) := by
  unfold execSrearm
  dsimp only
  repeat' split
  all_goals simp [hs]

theorem execHaspForward_good {ctx c : Nat} : Out.Good (execHaspForward ctx c s) := by
  unfold execHaspForward
  split
  · refine (State.happens_good hs).mpr ?_
    split
    · exact someGood_none
    · rwa [someGood_some, foldl_rows _ _ _ fun u h => State.forward_rows u ctx c h]
  · trivial

theorem execHpostApply_good {ctx c : Nat} : Out.Good (execHpostApply ctx c s) := by simp [execHpostApply, hs]

/-! Writes to registers and accesses through the fabric. -/

theorem execSqCfg_good {o : Origin} {q : Nat} {v : BitVec 64} : Out.Good (execSqCfg o q v s) := by
  simp [execSqCfg, hs]

theorem execResume_good {o : Origin} {q : Nat} {v : BitVec 64} : Out.Good (execResume o q v s) := by
  simp [execResume, hs]

theorem execRegDef_good {o : Origin} {r : Nat} {v : BitVec 64} : Out.Good (execRegDef o r v s) := by
  simp [execRegDef, hs]

theorem execRegAreaBase_good {o : Origin} {r : Nat} {v : BitVec 64} : Out.Good (execRegAreaBase o r v s) := by
  simp [execRegAreaBase, hs]

theorem execRegAreaSize_good {o : Origin} {r : Nat} {v : BitVec 64} : Out.Good (execRegAreaSize o r v s) := by
  simp [execRegAreaSize, hs]

theorem execRegisterWrite_good {o : Origin} {addr : Nat} {v : BitVec 64} :
    Out.Good (execRegisterWrite o addr v s) := by simp [execRegisterWrite, hs]

theorem execWriteBack_good {o : Origin} {addr : Nat} {v : BitVec 64} : Out.Good (execWriteBack o addr v s) := by
  simp [execWriteBack, hs]

theorem execRegLock_good {idx : Nat} : Out.Good (execRegLock idx s) := by
  unfold execRegLock
  split
  · refine State.managed_good hs ?_
    rwa [State.answer_grid]
  · trivial

theorem execFabricAccess_good {o : Origin} {addr len : Nat} {data : Option (List (BitVec 8))} :
    Out.Good (execFabricAccess o addr len data s) := by simp [execFabricAccess, hs]

/-! Connectors, the management endpoint and the test port. -/

theorem execCblPrsntN_good {x : Connector} {level : Bool} : Out.Good (execCblPrsntN x level s) := by
  simp [execCblPrsntN, hs]

theorem execDynamicAddress_good {a : Fin 128} : Out.Good (execDynamicAddress a s) := by
  simp [execDynamicAddress, hs]

theorem execRstdaa_good : Out.Good (execRstdaa s) := by simp [execRstdaa, hs]

theorem execExtest_good : Out.Good (execExtest s) := by simp [execExtest, hs]

theorem execTrstN_good {level : Bool} : Out.Good (execTrstN level s) := by simp [execTrstN, hs]

/-! The outer-product engine. -/

theorem execBeatEdgeEntry_good {c : Nat} : Out.Good (execBeatEdgeEntry c s) := by
  unfold execBeatEdgeEntry
  split
  · split
    · rw [Out.good_next, State.countBeat_rows]
      exact hs
    · exact State.coreRes_good hs
  · trivial

theorem execDrainRowWrite_good {c : Nat} : Out.Good (execDrainRowWrite c s) := by
  unfold execDrainRowWrite
  dsimp only
  repeat' split
  all_goals simp [hs]

end

/-- Every command keeps the rows good: an instruction of a core by what the core answers, and every other by its own
lemma. -/
theorem exec_good (i : Instr) {s : State} (hs : RowsGood s.grid.rows) : Out.Good (exec i s) := by
  cases i with
  | li | mov | movLcnt | movCount | add | sub | and | or | xor | shl | shr | sra | min | max | minu | maxu
  | seq | slt | sltu | mul | ldbind | br | brz | brnz | brlt | brltu | breq | loop | ld | ldSigned | st | ldq
  | pushq | popq | popqDrop | stq | agen | apush | xwait | xwaitAll | hslot | strk | swait | swaitRel | ward
  | endStream | popv | pushv | owait | opa | tclr | tstat | drain | vld | vst | vadd | vsub | vmul | vmin
  | vmax | vfma | viadd | vabs | vneg | vmov | vand | vor | vxor | vshl | vshr | vsra | vcmp | vsel | vrot
  | vbcast | vlane | vany | vall | vexp2 | vlog2 | vrcp | vstat | vstatClr | vcvt | vcvtMx | vcvtBfx | vext
  | vextMx | vcvtF32 | vpadd | vpfold | xclr | xrd | xrdp | xsave | xload | xaddi | xflags =>
    exact State.onInstr_good hs
  | dqEntryPoppable | strikeWaitComplete | accumulateAccept | accumulateFinal | drainTake | rowOperandRead
  | drainRowSample | coreQueueDeadlock | launchSlotStrike =>
    exact State.onCore_good hs
  | strikeTick => exact execStrikeTick_good hs
  | xget => exact execXget_good hs
  | xput => exact execXput_good hs
  | xputMc => exact execXputMc_good hs
  | transferComplete => exact execTransferComplete_good hs
  | transferErrorResponse => exact execTransferErrorResponse_good hs
  | hwait => exact execHwait_good hs
  | hpost => exact execHpost_good hs
  | scancel => exact execScancel_good hs
  | srearm => exact execSrearm_good hs
  | beatEdgeEntry => exact execBeatEdgeEntry_good hs
  | drainRowWrite => exact execDrainRowWrite_good hs
  | xadd => exact execXadd_good hs
  | xaddp => exact execXaddp_good hs
  | taskEnd => exact execTaskEnd_good hs
  | wardArrive => exact execWardArrive_good hs
  | wardRelease => exact execWardRelease_good hs
  | coreWindowRead => exact execCoreWindowRead_good hs
  | coreWindowWrite => exact execCoreWindowWrite_good hs
  | copy => exact execCopy_good hs
  | permute => exact execPermute_good hs
  | gather => exact execGather_good hs
  | scatterAcc => exact execScatterAcc_good hs
  | storeCfg => exact execStoreCfg_good hs
  | armingRetry => exact execArmingRetry_good hs
  | streamRequest => exact execStreamRequest_good hs
  | requestGrant => exact execRequestGrant_good hs
  | borrowGrant => exact execBorrowGrant_good hs
  | slotFillPost => exact execSlotFillPost_good hs
  | slotFreePost => exact execSlotFreePost_good hs
  | haspForward => exact execHaspForward_good hs
  | hpostApply => exact execHpostApply_good hs
  | passStart => exact execPassStart_good hs
  | streamStall => exact execStreamStall_good hs
  | sqDb => exact execSqDb_good hs
  | graph => exact execGraph_good hs
  | abort => exact execAbort_good hs
  | streamArm => exact execStreamArm_good hs
  | streamRearm => exact execStreamRearm_good hs
  | streamRelease => exact execStreamRelease_good hs
  | reshard => exact execReshard_good hs
  | flag => exact execFlag_good hs
  | taskReady => exact execTaskReady_good hs
  | taskPlace => exact execTaskPlace_good hs
  | placeWaitExpiry => exact execPlaceWaitExpiry_good hs
  | taskCommit => exact execTaskCommit_good hs
  | wardTaskRelease => exact execWardTaskRelease_good hs
  | queueDeadlock => exact execQueueDeadlock_good hs
  | cutCapture => exact execCutCapture_good hs
  | serviceHeartbeat => exact execServiceHeartbeat_good hs
  | laneSpare => exact execLaneSpare_good hs
  | retrainEnd => exact execRetrainEnd_good hs
  | retrainTimeout => exact execRetrainTimeout_good hs
  | trainingRetry => exact execTrainingRetry_good hs
  | flitSend => exact execFlitSend_good hs
  | flitReceive => exact execFlitReceive_good hs
  | replayTimeout => exact execReplayTimeout_good hs
  | hello => exact execHello_good hs
  | helloSend => exact execHelloSend_good hs
  | init => exact execInit_good hs
  | initSend => exact execInitSend_good hs
  | resetReq => exact execResetReq_good hs
  | resetReqReceive => exact execResetReqReceive_good hs
  | put => exact execPut_good hs
  | get => exact execGet_good hs
  | reducePut => exact execReducePut_good hs
  | permutePacket => exact execPermutePacket_good hs
  | flagPacket => exact execFlagPacket_good hs
  | completion => exact execCompletion_good hs
  | getRsp => exact execGetRsp_good hs
  | linkDescriptor => exact execLinkDescriptor_good hs
  | portCtl => exact execPortCtl_good hs
  | portSqTail => exact execPortSqTail_good hs
  | portRingid => exact execPortRingid_good hs
  | portXchna => exact execPortXchna_good hs
  | portXchnb => exact execPortXchnb_good hs
  | validClear => exact execValidClear_good hs
  | channelSlotSend => exact execChannelSlotSend_good hs
  | epochFence => exact execEpochFence_good hs
  | copyOut => exact execCopyOut_good hs
  | reshardComplete => exact execReshardComplete_good hs
  | rowMapUpdate => exact execRowMapUpdate_good hs
  | fabricAccess => exact execFabricAccess_good hs
  | patrolScrub => exact execPatrolScrub_good hs
  | rowRedirectDone => exact execRowRedirectDone_good hs
  | memRepair => exact execMemRepair_good hs
  | memRepairEnd => exact execMemRepairEnd_good hs
  | channelRetire => exact execChannelRetire_good hs
  | channelRetired => exact execChannelRetired_good hs
  | eqCfg => exact execEqCfg_good hs
  | eqHead => exact execEqHead_good hs
  | eventRecordWrite => exact execEventRecordWrite_good hs
  | eventInterrupt => exact execEventInterrupt_good hs
  | handover => exact execHandover_good hs
  | hostmem => exact execHostmem_good hs
  | por => exact execPor_good hs
  | crystalWindow => exact execCrystalWindow_good hs
  | crystalTimeout => exact execCrystalTimeout_good hs
  | xtallost => exact execXtallost_good hs
  | clkNodeSrc => exact execClkNodeSrc_good hs
  | clockSwitchEnd => exact execClockSwitchEnd_good hs
  | clkNodeGate => exact execClkNodeGate_good hs
  | clkNodeUngate => exact execClkNodeUngate_good hs
  | clkmonCtl => exact execClkmonCtl_good hs
  | rowClockGate => exact execRowClockGate_good hs
  | resetN => exact execResetN_good hs
  | managementReset => exact execManagementReset_good hs
  | rstReq => exact execRstReq_good hs
  | watchdog => exact execWatchdog_good hs
  | resetSourceRelease => exact execResetSourceRelease_good hs
  | resetRelease => exact execResetRelease_good hs
  | inputUndervoltage => exact execInputUndervoltage_good hs
  | inputOvervoltage => exact execInputOvervoltage_good hs
  | inputRestored => exact execInputRestored_good hs
  | vinrange => exact execVinrange_good hs
  | phaseFail => exact execPhaseFail_good hs
  | pwrDom => exact execPwrDom_good hs
  | domainChangeDone => exact execDomainChangeDone_good hs
  | pwrCap => exact execPwrCap_good hs
  | slowLoop => exact execSlowLoop_good hs
  | fastLoop => exact execFastLoop_good hs
  | droop d g => exact execDroop_good (_g := g) hs
  | droopDecay => exact execDroopDecay_good hs
  | thermalSensorRead => exact execThermalSensorRead_good hs
  | thermalLevelStep => exact execThermalLevelStep_good hs
  | controlParityError => exact execControlParityError_good hs
  | coreLockout => exact execCoreLockout_good hs
  | dieLockout => exact execDieLockout_good hs
  | dieReturn => exact execDieReturn_good hs
  | recoveryTimeout => exact execRecoveryTimeout_good hs
  | configParityScan => exact execConfigParityScan_good hs
  | bankSpareDone => exact execBankSpareDone_good hs
  | repairRecordWrite => exact execRepairRecordWrite_good hs
  | boot => exact execBoot_good hs
  | fwRecover => exact execFwRecover_good hs
  | recoveryMailbox => exact execRecoveryMailbox_good hs
  | fwCommit => exact execFwCommit_good hs
  | updDone => exact execUpdDone_good hs
  | fwSvnBurn => exact execFwSvnBurn_good hs
  | rootRevoke => exact execRootRevoke_good hs
  | attest => exact execAttest_good hs
  | devidCert => exact execDevidCert_good hs
  | attCtl => exact execAttCtl_good hs
  | attExtend => exact execAttExtend_good hs
  | regLock => exact execRegLock_good hs
  | registerWrite => exact execRegisterWrite_good hs
  | writeBack => exact execWriteBack_good hs
  | sqCfg => exact execSqCfg_good hs
  | resume => exact execResume_good hs
  | regDef => exact execRegDef_good hs
  | regAreaBase => exact execRegAreaBase_good hs
  | regAreaSize => exact execRegAreaSize_good hs
  | vinSenseLoss => exact execVinSenseLoss_good hs
  | cblPrsntN => exact execCblPrsntN_good hs
  | dynamicAddress => exact execDynamicAddress_good hs
  | rstdaa => exact execRstdaa_good hs
  | extest => exact execExtest_good hs
  | framesLocked => exact execFramesLocked_good hs
  | granuleMigrated => exact execGranuleMigrated_good hs
  | domainOnTimeout => exact execDomainOnTimeout_good hs
  | trstN => exact execTrstN_good hs
  | frontEndFrame => exact execFrontEndFrame_good hs

/-! The step of the machine, and the obligation. -/

theorem step_good {s : State} (hs : RowsGood s.grid.rows) : Out.Good (step s) := by
  unfold step
  split
  · exact hs
  · next i rest _ =>
    have hpopped : RowsGood ({ s with pending := rest } : State).grid.rows := hs
    exact exec_good i hpopped

/-- Settles O37: the rows at reset are the unlisted map, which the algorithm gives for no failed site, and every command
keeps the rows good. -/
theorem rowMapsAlwaysGood : Obligations.RowMapsAlwaysGood := by
  unfold Obligations.RowMapsAlwaysGood Claims.RowMapsAlwaysGood
  refine ⟨(rowMapsGood_iff _).mpr rowsGood_nil, fun s t hs ht => (rowMapsGood_iff t).mpr ?_⟩
  exact (step_good ((rowMapsGood_iff s).mp hs)).next ht

end Sys2Proof.Machine
end

section
/-! PROOF. O53: no step but FW_SVN_BURN and ROOT_REVOKE changes a fuse, and these two set bits alone (R423).

`State.burn` alone writes the fuses; every other operation carries them along, a reset included. The first part says
so once for each operation (`State.X_fuses`). The commands follow: `exec_fuses` for those that do not burn, and the
burns themselves. -/

namespace Sys2Proof.Machine

@[simp] theorem fuses_ite (p : Prop) [Decidable p] (a b : State) :
    (if p then a else b).boot.fuses = if p then a.boot.fuses else b.boot.fuses :=
  apply_ite (fun s : State => s.boot.fuses) p a b

/-- A fold of updates that each leave the fuses leaves them. -/
@[simp] theorem foldl_fuses {β : Type} (f : State → β → State) (l : List β) (s : State)
    (hf : ∀ s x, (f s x).boot.fuses = s.boot.fuses) : (l.foldl f s).boot.fuses = s.boot.fuses := by
  induction l generalizing s with
  | nil => rfl
  | cons x l ih => rw [List.foldl_cons, ih, hf]

/-- The state that a pair names has the fuses of the pair's state. -/
theorem fuses_of_fst {α : Type} {p : State × α} {t : State} {x : α} (h : p = (t, x)) :
    t.boot.fuses = p.1.boot.fuses := by rw [h]

/-! Outcomes: the state that an event makes, and the next state that a command answers. -/

/-- The state that an event makes, if it happens, has the fuses given. -/
def SomeFuses (f : Fuses) (o : Option State) : Prop := ∀ t, o = some t → t.boot.fuses = f

/-- The next state that a command answers, if any, has the fuses given. -/
def NextFuses (f : Fuses) (o : Out) : Prop := ∀ t, o = .next t → t.boot.fuses = f

section
variable {f : Fuses}

@[simp] theorem someFuses_none : SomeFuses f none := fun _ h => by cases h

@[simp] theorem someFuses_some (t : State) : SomeFuses f (some t) ↔ t.boot.fuses = f := by simp [SomeFuses]

@[simp] theorem someFuses_ite (p : Prop) [Decidable p] (a b : Option State) :
    SomeFuses f (if p then a else b) ↔ if p then SomeFuses f a else SomeFuses f b := by split <;> rfl

@[simp] theorem someFuses_bind {α : Type} {o : Option α} {g : α → Option State} (h : ∀ a, SomeFuses f (g a)) :
    SomeFuses f (o.bind g) := by
  cases o with
  | none => exact someFuses_none
  | some a => exact h a

@[simp] theorem someFuses_map {α : Type} {o : Option α} {g : α → State} (h : ∀ a, (g a).boot.fuses = f) :
    SomeFuses f (o.map g) := by
  cases o with
  | none => exact someFuses_none
  | some a => exact (someFuses_some _).mpr (h a)

theorem SomeFuses.map {o : Option State} {g : State → State} (h : SomeFuses f o)
    (hg : ∀ t, (g t).boot.fuses = t.boot.fuses) : SomeFuses f (o.map g) := by
  cases o with
  | none => exact someFuses_none
  | some t => exact (someFuses_some _).mpr ((hg t).trans (h t rfl))

@[simp] theorem nextFuses_next (t : State) : NextFuses f (.next t) ↔ t.boot.fuses = f := by simp [NextFuses]

@[simp] theorem nextFuses_fault (r : Fault) : NextFuses f (.fault r) := fun _ h => by cases h

@[simp] theorem nextFuses_refused (r : Refusal) : NextFuses f (.refused r) := fun _ h => by cases h

@[simp] theorem nextFuses_ite (p : Prop) [Decidable p] (a b : Out) :
    NextFuses f (if p then a else b) ↔ if p then NextFuses f a else NextFuses f b := by split <;> rfl

end

section
variable (s : State)

/-! The frame of each operation: the fuses it leaves. First the flags, and the bytes of the module. -/

@[simp] theorem State.applyFlag_fuses (op n : Nat) (v : Word) : (s.applyFlag op n v).boot.fuses = s.boot.fuses := by
  unfold State.applyFlag
  split <;> simp

@[simp] theorem State.applyFlags_fuses (fs : List FlagOp) : (s.applyFlags fs).boot.fuses = s.boot.fuses := by
  simp [State.applyFlags]

@[simp] theorem State.putBytes_fuses (a : Nat) (bs : List Byte) : (s.putBytes a bs).boot.fuses = s.boot.fuses := by
  simp [State.putBytes, State.setBytes, State.setByte]

/-! Cores, the bursts of external memory and the lines of the stores. -/

@[simp] theorem State.retire_fuses (c : Nat) : (s.retire c).boot.fuses = s.boot.fuses := by simp [State.retire]

@[simp] theorem State.weakRow_fuses (a : Nat) : (s.weakRow a).boot.fuses = s.boot.fuses := by simp [State.weakRow]

@[simp] theorem State.correctBurst_fuses (b : Nat) : (s.correctBurst b).boot.fuses = s.boot.fuses := by
  unfold State.correctBurst
  dsimp only
  repeat' split
  all_goals simp

@[simp] theorem State.poisonBurst_fuses (b : Nat) : (s.poisonBurst b).boot.fuses = s.boot.fuses := by
  simp [State.poisonBurst]

@[simp] theorem State.readBurst_fuses (b : Nat) : (s.readBurst b).1.boot.fuses = s.boot.fuses := by
  unfold State.readBurst
  repeat' split
  all_goals simp

@[simp] theorem State.readBursts_fuses (bs : List Nat) : (s.readBursts bs).1.boot.fuses = s.boot.fuses := by
  induction bs generalizing s with
  | nil => rfl
  | cons b bs ih => grind [State.readBursts, State.readBurst_fuses]

@[simp] theorem State.extWrite_fuses (a : Nat) (bs : List Byte) : (s.extWrite a bs).boot.fuses = s.boot.fuses := by
  simp [State.extWrite]

@[simp] theorem State.spareBank_fuses (bank : Nat) : (s.spareBank bank).boot.fuses = s.boot.fuses := by
  simp [State.spareBank]

@[simp] theorem State.correctLine_fuses (l : Nat) : (s.correctLine l).boot.fuses = s.boot.fuses := by
  simp [State.correctLine]

@[simp] theorem State.poisonLine_fuses (l : Nat) : (s.poisonLine l).boot.fuses = s.boot.fuses := by
  simp [State.poisonLine]

@[simp] theorem State.readLines_fuses (ls : List Nat) : (s.readLines ls).1.boot.fuses = s.boot.fuses := by
  induction ls generalizing s with
  | nil => rfl
  | cons l ls ih => grind [State.readLines, State.poisonLine_fuses, State.correctLine_fuses]

@[simp] theorem State.storeWrite_fuses (a : Nat) (bs : List Byte) :
    (s.storeWrite a bs).boot.fuses = s.boot.fuses := by simp [State.storeWrite]

@[simp] theorem State.veil_fuses (a : Nat) (bs : List Byte) : (s.veil a bs).1.boot.fuses = s.boot.fuses := by
  unfold State.veil
  dsimp only
  split <;> simp

@[simp] theorem State.memRead_fuses (a n : Nat) : (s.memRead a n).1.boot.fuses = s.boot.fuses := by
  unfold State.memRead
  split <;> grind [State.veil_fuses, State.readBursts_fuses, State.readLines_fuses, State.setCore_boot]

theorem State.memWrite_fuses {s t : State} {a : Nat} {bs : List Byte} (h : s.memWrite a bs = some t) :
    t.boot.fuses = s.boot.fuses := by
  unfold State.memWrite at h
  grind [Option.map_eq_some_iff, State.extWrite_fuses, State.storeWrite_fuses, State.setCore_boot]

/-! Stream contexts. -/

@[simp] theorem State.moverRead_fuses (a n : Nat) : (s.moverRead a n).1.boot.fuses = s.boot.fuses := by
  unfold State.moverRead
  split <;> grind [State.memRead_fuses, State.useFree_boot]

@[simp] theorem State.moverReads_fuses (l : List (Nat × Nat)) : (s.moverReads l).1.boot.fuses = s.boot.fuses := by
  induction l generalizing s with
  | nil => rfl
  | cons x l ih => grind [State.moverReads, State.moverRead_fuses]

@[simp] theorem State.checkCtx_fuses (c : Ctx) : (s.checkCtx c).1.boot.fuses = s.boot.fuses := by
  unfold State.checkCtx
  split <;> grind [State.moverReads_fuses]

@[simp] theorem State.latch_fuses (c : Ctx) : (s.latch c).1.boot.fuses = s.boot.fuses := by
  unfold State.latch
  split <;> grind [State.moverReads_fuses, State.checkCtx_fuses]

@[simp] theorem State.discard_fuses (n k : Nat) : (s.discard n k).boot.fuses = s.boot.fuses := by simp [State.discard]

@[simp] theorem State.withdraw_fuses (n : Nat) : (s.withdraw n).boot.fuses = s.boot.fuses := by rfl

@[simp] theorem State.restoreCtx_fuses (n : Nat) : (s.restoreCtx n).boot.fuses = s.boot.fuses := by
  simp [State.restoreCtx]

@[simp] theorem State.withdrawFetch_fuses (n : Nat) : (s.withdrawFetch n).boot.fuses = s.boot.fuses := by rfl

@[simp] theorem State.loseAhead_fuses (n : Nat) : (s.loseAhead n).boot.fuses = s.boot.fuses := by
  simp [State.loseAhead]

@[simp] theorem State.settleCtx_fuses (n : Nat) : (s.settleCtx n).boot.fuses = s.boot.fuses := by
  unfold State.settleCtx
  dsimp only
  repeat' split
  all_goals simp

@[simp] theorem State.setSrcHasp_fuses (n : Nat) (f : Hasp → Hasp) :
    (s.setSrcHasp n f).boot.fuses = s.boot.fuses := by
  unfold State.setSrcHasp
  dsimp only
  repeat' split
  all_goals simp

@[simp] theorem State.dropRequest_fuses (r : Request) : (s.dropRequest r).boot.fuses = s.boot.fuses := by rfl

@[simp] theorem State.dropAccesses_fuses (which : Origin → Nat → Nat → Bool) :
    (s.dropAccesses which).boot.fuses = s.boot.fuses := by rfl

@[simp] theorem State.turns_fuses (kind : ReqKind) (spots : List Spot) :
    (s.turns kind spots).1.boot.fuses = s.boot.fuses := by rfl

/-! Submission queues, entries and the load of a graph. -/

@[simp] theorem State.toSq_fuses (q : Nat) (r : Rec) : (s.toSq q r).boot.fuses = s.boot.fuses := by rfl

@[simp] theorem State.entryDone_fuses (q : Nat) (tag : BitVec 32) (no status aborted late : Nat) :
    (s.entryDone q tag no status aborted late).boot.fuses = s.boot.fuses := by rfl

@[simp] theorem State.popEntry_fuses (q : Nat) : (s.popEntry q).boot.fuses = s.boot.fuses := by rfl

@[simp] theorem State.finishEntry_fuses (q : Nat) (e : Entry) (status : Nat) :
    (s.finishEntry q e status).boot.fuses = s.boot.fuses := by rfl

@[simp] theorem State.geRead_fuses (die a n : Nat) : (s.geRead die a n).1.boot.fuses = s.boot.fuses := by
  unfold State.geRead
  split <;> grind [State.moverRead_fuses, State.violate_boot]

@[simp] theorem State.readImage_fuses (die a : Nat) : (s.readImage die a).1.boot.fuses = s.boot.fuses := by
  unfold State.readImage
  split <;> grind [State.geRead_fuses]

@[simp] theorem State.readImages_fuses (die : Nat) (l : List Nat) :
    (s.readImages die l).1.boot.fuses = s.boot.fuses := by
  induction l generalizing s with
  | nil => rfl
  | cons a l ih => simp [State.readImages, ih]

@[simp] theorem State.checkImage_fuses (l : Loading) (r : List Byte) :
    (s.checkImage l r).1.boot.fuses = s.boot.fuses := by
  unfold State.checkImage
  split <;> grind [State.geRead_fuses]

@[simp] theorem State.loadTask_fuses (l : Loading) (i : Nat) (r : List Byte) (earlier : List (Nat × Task)) :
    (s.loadTask l i r earlier).1.boot.fuses = s.boot.fuses := by
  unfold State.loadTask
  dsimp only
  repeat' split
  all_goals grind [State.geRead_fuses, State.checkImage_fuses]

@[simp] theorem State.loadTasks_fuses (l : Loading) (i : Nat) (acc : List (Nat × Task)) (rs : List (List Byte)) :
    (s.loadTasks l i acc rs).1.boot.fuses = s.boot.fuses := by
  induction rs generalizing s i acc with
  | nil => rfl
  | cons r rs ih => grind [State.loadTasks, State.loadTask_fuses]

@[simp] theorem State.readGraph_fuses (q : Nat) (e : Entry) : (s.readGraph q e).1.boot.fuses = s.boot.fuses := by
  unfold State.readGraph
  dsimp only
  split <;> grind [State.geRead_fuses, State.loadTasks_fuses, State.readImages_fuses]

@[simp] theorem State.graphDone_fuses (q : Nat) (tag : BitVec 32) (entry status reason first : Nat) (user : Word)
    (counts : List Nat) : (s.graphDone q tag entry status reason first user counts).boot.fuses = s.boot.fuses := by
  rfl

/-! The torus ports: what a fault, a loss of power or a retrain ends. -/

@[simp] theorem State.returnFlags_fuses (k : Nat) : (s.returnFlags k).boot.fuses = s.boot.fuses :=
  foldl_fuses _ _ s fun _ _ => rfl

@[simp] theorem State.linkDone_fuses (p : Nat) (user : Word) (op status : Nat) :
    (s.linkDone p user op status).boot.fuses = s.boot.fuses := by rfl

@[simp] theorem State.linkState_fuses (p : Nat) : (s.linkState p).boot.fuses = s.boot.fuses := by rfl

@[simp] theorem State.channelFault_fuses (p n status : Nat) :
    (s.channelFault p n status).boot.fuses = s.boot.fuses := by rfl

@[simp] theorem State.scramble_fuses (a n : Nat) : (s.scramble a n).boot.fuses = s.boot.fuses := by
  simp [State.scramble]

@[simp] theorem State.reshardFault_fuses (axis status : Nat) :
    (s.reshardFault axis status).boot.fuses = s.boot.fuses := by
  unfold State.reshardFault
  split <;> simp

@[simp] theorem State.failTaken_fuses (p : Nat) (t : Taken) (status : Nat) :
    (s.failTaken p t status).boot.fuses = s.boot.fuses := by
  unfold State.failTaken
  split <;> simp

@[simp] theorem State.dropTurns_fuses (p : Nat) (which : Nat → Bool) :
    (s.dropTurns p which).boot.fuses = s.boot.fuses := by rfl

@[simp] theorem State.loseTaken_fuses (p : Nat) : (s.loseTaken p).boot.fuses = s.boot.fuses := by
  simp [State.loseTaken]

@[simp] theorem State.portTo_fuses (p : Nat) (st : PortState) : (s.portTo p st).boot.fuses = s.boot.fuses := by
  simp [State.portTo]

@[simp] theorem State.retrain_fuses (p : Nat) : (s.retrain p).boot.fuses = s.boot.fuses := by rfl

/-! The life of a task, its cores and its journal. -/

@[simp] theorem State.setTask_fuses (q t : Nat) (x : Task) : (s.setTask q t x).boot.fuses = s.boot.fuses := by rfl

@[simp] theorem State.taskDone_fuses (q t : Nat) : (s.taskDone q t).boot.fuses = s.boot.fuses := by
  unfold State.taskDone
  split <;> simp

@[simp] theorem State.cutReached_fuses (q cap size task : Nat) (hold : Bool) :
    (s.cutReached q cap size task hold).boot.fuses = s.boot.fuses := by rfl

@[simp] theorem State.skipTasks_fuses (q : Nat) (ts : List Nat) : (s.skipTasks q ts).boot.fuses = s.boot.fuses := by
  induction ts generalizing s with
  | nil => rfl
  | cons t ts ih => grind [State.skipTasks, State.setTask_fuses, State.taskDone_fuses]

@[simp] theorem State.cutSettle_fuses (q : Nat) : (s.cutSettle q).boot.fuses = s.boot.fuses := by
  unfold State.cutSettle
  dsimp only
  split <;> simp

@[simp] theorem State.closeGraph_fuses (q status : Nat) : (s.closeGraph q status).boot.fuses = s.boot.fuses := by
  unfold State.closeGraph
  split <;> simp

@[simp] theorem State.settleGraph_fuses (q : Nat) : (s.settleGraph q).boot.fuses = s.boot.fuses := by
  unfold State.settleGraph
  dsimp only
  split <;> simp

@[simp] theorem State.rowIdle_fuses (c : Nat) : (s.rowIdle c).boot.fuses = s.boot.fuses := by simp [State.rowIdle]

@[simp] theorem State.stopCore_fuses (q t c : Nat) : (s.stopCore q t c).boot.fuses = s.boot.fuses := by
  simp [State.stopCore, State.withdrawCore]

@[simp] theorem State.freeCore_fuses (q t c : Nat) : (s.freeCore q t c).boot.fuses = s.boot.fuses := by
  simp [State.freeCore]

@[simp] theorem State.record_fuses (q t g : Nat) : (s.record q t g).boot.fuses = s.boot.fuses := by
  simp [State.record]

@[simp] theorem State.writeRun_fuses (a : Nat) (bs : List Byte) : (s.writeRun a bs).boot.fuses = s.boot.fuses := by
  unfold State.writeRun
  split
  · simp
  · simp
  · next c off _ => cases (s.core c).lmWrite off bs <;> simp
  · simp

@[simp] theorem State.writeAll_fuses (ws : List (Nat × Byte)) : (s.writeAll ws).boot.fuses = s.boot.fuses := by
  simp [State.writeAll]

@[simp] theorem State.remark_fuses (g : Nat) (lost : List Nat) (poisoned : Bool) :
    (s.remark g lost poisoned).boot.fuses = s.boot.fuses := by
  unfold State.remark
  repeat' split
  all_goals simp

@[simp] theorem State.restore_fuses (j : Journal) : (s.restore j).boot.fuses = s.boot.fuses := by
  unfold State.restore
  split <;> simp

@[simp] theorem State.undo_fuses (j : Journal) : (s.undo j).boot.fuses = s.boot.fuses := by simp [State.undo]

@[simp] theorem State.rollback_fuses (q t : Nat) : (s.rollback q t).boot.fuses = s.boot.fuses := by
  simp [State.rollback]

@[simp] theorem State.freeJournal_fuses (q t : Nat) : (s.freeJournal q t).boot.fuses = s.boot.fuses := by rfl

@[simp] theorem State.withdrawTask_fuses (q t : Nat) : (s.withdrawTask q t).boot.fuses = s.boot.fuses := by rfl

@[simp] theorem State.revoke_fuses (q t : Nat) : (s.revoke q t).boot.fuses = s.boot.fuses := by
  unfold State.revoke
  split <;> simp

@[simp] theorem State.stopTask_fuses (q t : Nat) (st : TStatus) (fate : TaskEnd) :
    (s.stopTask q t st fate).boot.fuses = s.boot.fuses := by
  unfold State.stopTask
  split
  · rfl
  · split
    · rfl
    · have hdropped := foldl_fuses (fun s k => s.setCtx k (s.ctx k).orphaned) ((s.revoke q t).owned q t)
        (s.revoke q t) fun _ _ => rfl
      dsimp only
      split <;> simp [hdropped]

@[simp] theorem State.faultRegion_fuses (r cause : Nat) : (s.faultRegion r cause).boot.fuses = s.boot.fuses := by
  simp [State.faultRegion]

@[simp] theorem State.endTask_fuses (q t : Nat) (st : TStatus) (fate : TaskEnd) :
    (s.endTask q t st fate).boot.fuses = s.boot.fuses := by simp [State.endTask]

@[simp] theorem State.reissue_fuses (q t : Nat) (fate : TaskEnd) :
    (s.reissue q t fate).boot.fuses = s.boot.fuses := by
  unfold State.reissue
  split <;> simp

@[simp] theorem State.revokeAndReissue_fuses (q t : Nat) : (s.revokeAndReissue q t).boot.fuses = s.boot.fuses := by
  simp [State.revokeAndReissue]

@[simp] theorem State.taskViolation_fuses (q t own cause addr kind : Nat) :
    (s.taskViolation q t own cause addr kind).boot.fuses = s.boot.fuses := by rfl

@[simp] theorem State.failTask_fuses (q t own cause addr kind : Nat) :
    (s.failTask q t own cause addr kind).boot.fuses = s.boot.fuses := by simp [State.failTask]

theorem State.armSlot_fuses {s u : State} {q t k a : Nat} {e : Option TaskEnd} (h : s.armSlot q t k a = some (u, e)) :
    u.boot.fuses = s.boot.fuses := by
  unfold State.armSlot at h
  grind [State.geRead_fuses, State.setCtx_boot, State.latch_fuses, State.taskViolation_fuses]

@[simp] theorem State.armSlots_fuses (q t : Nat) (l : List (Nat × Nat × Nat)) :
    (s.armSlots q t l).1.boot.fuses = s.boot.fuses := by
  induction l generalizing s with
  | nil => rfl
  | cons x l ih => grind [State.armSlots, State.armSlot_fuses]

@[simp] theorem State.armTask_fuses (q t : Nat) : (s.armTask q t).boot.fuses = s.boot.fuses := by
  unfold State.armTask
  split <;> grind [State.setTask_fuses, State.endTask_fuses, State.armSlots_fuses]

@[simp] theorem State.bindCtx_fuses (q t k : Nat) (o : Nat × Nat) :
    (s.bindCtx q t k o).boot.fuses = s.boot.fuses := by rfl

@[simp] theorem State.readTensors_fuses (die : Nat) (l : List (Nat × Nat)) (n : Nat) :
    (s.readTensors die l n).1.boot.fuses = s.boot.fuses := by
  induction l generalizing s n with
  | nil => rfl
  | cons x l ih =>
    obtain ⟨k, v⟩ := x
    by_cases hk : k = 1
    · grind [State.readTensors, State.geRead_fuses]
    · simp [State.readTensors, hk, ih]

@[simp] theorem State.startTask_fuses (q t : Nat) (x : Task) (ox oy : Nat) :
    (s.startTask q t x ox oy).boot.fuses = s.boot.fuses := by
  unfold State.startTask
  dsimp only
  split
  · simp
  · split
    · next hread => simp [fuses_of_fst hread]
    · next hread =>
      split
      · simp [fuses_of_fst hread]
      · split
        · next htensors => simp [fuses_of_fst htensors, fuses_of_fst hread]
        · next htensors =>
          rw [State.setTask_fuses, foldl_fuses _ _ _ fun _ _ => by simp]
          simp [fuses_of_fst htensors, fuses_of_fst hread]

@[simp] theorem State.finalErrors_fuses (ks : List Nat) : (s.finalErrors ks).1.boot.fuses = s.boot.fuses := by
  induction ks generalizing s with
  | nil => rfl
  | cons k ks ih => grind [State.finalErrors, State.moverReads_fuses]

@[simp] theorem State.putFinals_fuses (q t : Nat) (ks : List Nat) :
    (s.putFinals q t ks).1.boot.fuses = s.boot.fuses := by
  induction ks generalizing s with
  | nil => rfl
  | cons k ks ih => grind [State.putFinals, State.writeAll_fuses, State.setCtx_boot]

@[simp] theorem State.commit_fuses (q t : Nat) (x : Task) : (s.commit q t x).boot.fuses = s.boot.fuses := by
  unfold State.commit
  split
  · simp
  · split
    · next hread => simp [fuses_of_fst hread]
    · next hread =>
      split
      · simp [fuses_of_fst hread]
      · simp [fuses_of_fst hread]
      · next hput _ => simp [fuses_of_fst hput, fuses_of_fst hread]

/-! Resets, the loss of a die, and records of a lockout. -/

@[simp] theorem State.resetNodes_fuses (ks : List Nat) : (s.resetNodes ks).boot.fuses = s.boot.fuses := by rfl

@[simp] theorem State.resetLogs_fuses (ds : List Nat) : (s.resetLogs ds).boot.fuses = s.boot.fuses := by rfl

@[simp] theorem State.resetCompute_fuses (d : Nat) : (s.resetCompute d).boot.fuses = s.boot.fuses := by rfl

@[simp] theorem State.dropChange_fuses (reach die : Nat) : (s.dropChange reach die).boot.fuses = s.boot.fuses := by
  unfold State.dropChange
  split <;> simp

@[simp] theorem State.resetLink_fuses (l : Nat) : (s.resetLink l).boot.fuses = s.boot.fuses := by
  simp [State.resetLink, State.resetPort]

@[simp] theorem State.resetFabric_fuses : (s.resetFabric).boot.fuses = s.boot.fuses := by simp [State.resetFabric]

@[simp] theorem State.adopt_fuses (r d n : Nat) (ran : List (Nat × Nat)) :
    (s.adopt r d n ran).boot.fuses = s.boot.fuses := by simp [State.adopt]

@[simp] theorem State.regionsLose_fuses (d : Nat) (ran : List (Nat × Nat)) :
    (s.regionsLose d ran).boot.fuses = s.boot.fuses := by
  refine foldl_fuses _ _ s fun s r => ?_
  dsimp only
  split
  · split
    · simp
    · split
      · split <;> simp
      · rfl
  · rfl

@[simp] theorem State.loseDie_fuses (d : Nat) : (s.loseDie d).boot.fuses = s.boot.fuses := by
  simp [State.loseDie, State.clearDie]

@[simp] theorem State.announce_fuses (e : Episode) : (s.announce e).boot.fuses = s.boot.fuses := by
  simp [State.announce, State.zeroMemory]

@[simp] theorem State.wake_fuses (ds : List Nat) : (s.wake ds).boot.fuses = s.boot.fuses := by rfl

@[simp] theorem State.bootLast_fuses : (s.bootLast).boot.fuses = s.boot.fuses := by simp [State.bootLast]

@[simp] theorem State.release_fuses (e : Episode) : (s.release e).boot.fuses = s.boot.fuses := by
  simp [State.release, State.settleQueue]

@[simp] theorem State.toRowRegions_fuses (key : Nat) (r : Rec) :
    (s.toRowRegions key r).boot.fuses = s.boot.fuses := by simp [State.toRowRegions]

@[simp] theorem State.lockoutRec_fuses (c trigger : Nat) (xy : List Byte) (t : Option (Nat × Nat)) :
    (s.lockoutRec c trigger xy t).boot.fuses = s.boot.fuses := by
  unfold State.lockoutRec
  split <;> simp

@[simp] theorem State.zeroLine_fuses (c line : Nat) : (s.zeroLine c line).boot.fuses = s.boot.fuses := by
  unfold State.zeroLine
  split <;> simp

/-! Accesses through the fabric. -/

@[simp] theorem State.refuse_fuses (o : Origin) (cause a n : Nat) (write : Bool) :
    (s.refuse o cause a n write).boot.fuses = s.boot.fuses := by rfl

@[simp] theorem State.readAccess_fuses (o : Origin) (use : WindowUse) (a n : Nat) :
    (s.readAccess o use a n).boot.fuses = s.boot.fuses := by
  unfold State.readAccess
  split <;> grind [State.memRead_fuses, State.refuse_fuses, State.respond_boot]

@[simp] theorem State.writeAccess_fuses (o : Origin) (use : WindowUse) (a : Nat) (bs : List Byte) :
    (s.writeAccess o use a bs).boot.fuses = s.boot.fuses := by
  unfold State.writeAccess
  split <;> grind [State.refuse_fuses, State.memWrite_fuses, State.respond_boot]

@[simp] theorem State.accessTurn_fuses (o : Origin) (a n : Nat) :
    (s.accessTurn o a n).1.boot.fuses = s.boot.fuses := by
  unfold State.accessTurn
  split <;> simp

/-! The link layer. -/

@[simp] theorem State.portDown_fuses (p : Nat) : (s.portDown p).boot.fuses = s.boot.fuses := by simp [State.portDown]

@[simp] theorem State.lockFrames_fuses (p : Nat) (tag : BitVec 40) :
    (s.lockFrames p tag).boot.fuses = s.boot.fuses := by simp [State.lockFrames, State.reachLinkUp]

@[simp] theorem State.train_fuses (p : Nat) : (s.train p).boot.fuses = s.boot.fuses := by simp [State.train]

@[simp] theorem State.emit_fuses (p : Fin 8) (x : Port) (f : BitVec 2048) :
    (s.emit p x f).boot.fuses = s.boot.fuses := by rfl

@[simp] theorem State.emitData_fuses (p : Fin 8) (x : Port) (f : Sent) :
    (s.emitData p x f).boot.fuses = s.boot.fuses := by rfl

@[simp] theorem State.sendFlit_fuses (p : Fin 8) : (s.sendFlit p).boot.fuses = s.boot.fuses := by
  unfold State.sendFlit
  dsimp only
  repeat' split
  all_goals simp

@[simp] theorem State.escalate_fuses (p : Nat) : (s.escalate p).boot.fuses = s.boot.fuses := by simp [State.escalate]

/-! The transaction layer: packets and link descriptors. -/

@[simp] theorem State.consume_fuses (p : Nat) (v : Vc) (h : Header) :
    (s.consume p v h).boot.fuses = s.boot.fuses := by rfl

@[simp] theorem State.reply_fuses (p : Nat) (v : Vc) (h : Header) (status : Nat) :
    (s.reply p v h status).boot.fuses = s.boot.fuses := by rfl

@[simp] theorem State.skipBad_fuses (p : Nat) (v : Vc) (n : Nat) : (s.skipBad p v n).boot.fuses = s.boot.fuses := by
  induction n generalizing s with
  | zero => rfl
  | succ n ih => grind [State.skipBad, State.consume_fuses, State.reply_fuses]

@[simp] theorem State.portFails_fuses (p : Fin 8) (cause addr : Nat) :
    (s.portFails p cause addr).boot.fuses = s.boot.fuses := by rfl

@[simp] theorem State.portTurn_fuses (p : Fin 8) (a n : Nat) : (s.portTurn p a n).1.boot.fuses = s.boot.fuses := by
  rfl

@[simp] theorem State.refusePacket_fuses (p : Fin 8) (v : Vc) (h : Header) (cause : Nat) :
    (s.refusePacket p v h cause).boot.fuses = s.boot.fuses := by rfl

@[simp] theorem State.writePacket_fuses (p : Fin 8) (v : Vc) (h : Header) (d : List Byte) (after : State → State)
    (hafter : ∀ s, (after s).boot.fuses = s.boot.fuses) : SomeFuses s.boot.fuses (s.writePacket p v h d after) := by
  intro t hres
  unfold State.writePacket at hres
  grind [Option.map_eq_some_iff, State.refusePacket_fuses, State.portTurn_fuses, State.memWrite_fuses,
    State.reply_fuses]

@[simp] theorem State.get_fuses (p : Fin 8) (h : Header) : SomeFuses s.boot.fuses (s.get p h) := by
  intro t hres
  unfold State.get at hres
  grind [State.reply_fuses, State.refusePacket_fuses, State.portTurn_fuses, State.memRead_fuses,
    State.portFails_fuses, State.consume_fuses, State.setLport_boot]

@[simp] theorem State.refuseOpen_fuses (p : Fin 8) (h : Header) : (s.refuseOpen p h).boot.fuses = s.boot.fuses := by
  rfl

theorem State.reduce_fuses {s t : State} {p n : Nat} {k : Nat} {h : Header} {d : List Byte}
    (hres : s.reduce p n k h d = some t) : t.boot.fuses = s.boot.fuses := by
  unfold State.reduce at hres
  grind [State.setSrcHasp_fuses, State.storeWrite_fuses, State.setLport_boot]

@[simp] theorem State.reducePut_fuses (p : Fin 8) (h : Header) (d : List Byte) :
    SomeFuses s.boot.fuses (s.reducePut p h d) := by
  intro t hres
  unfold State.reducePut at hres
  grind [Option.map_eq_some_iff, State.reply_fuses, State.dropTurns_fuses, State.refusePacket_fuses,
    State.refuseOpen_fuses, State.portTurn_fuses, State.reduce_fuses]

@[simp] theorem State.countUnits_fuses (p n : Nat) : (s.countUnits p n).boot.fuses = s.boot.fuses := by
  unfold State.countUnits
  split <;> simp

@[simp] theorem State.flushEnded_fuses (p : Nat) (v : Vc) (n : Nat) :
    (s.flushEnded p v n).boot.fuses = s.boot.fuses := by
  induction n generalizing s with
  | zero => rfl
  | succ n ih => grind [State.flushEnded, State.failTaken_fuses, State.setLport_boot]

@[simp] theorem State.slotDone_fuses (p n : Nat) : (s.slotDone p n).boot.fuses = s.boot.fuses := by
  simp [State.slotDone]

@[simp] theorem State.moveCompleted_fuses (axis : Nat) (epoch : BitVec 32) :
    (s.moveCompleted axis epoch).boot.fuses = s.boot.fuses := by
  unfold State.moveCompleted
  split <;> simp

@[simp] theorem State.endTaken_fuses (p : Nat) (t : Taken) (status : Nat) :
    (s.endTaken p t status).boot.fuses = s.boot.fuses := by
  unfold State.endTaken
  repeat' split
  all_goals simp

@[simp] theorem State.landGet_fuses (p : Fin 8) (h : Header) (t : Taken) (dst : Nat) (d : List Byte) :
    SomeFuses s.boot.fuses (s.landGet p h t dst d) := by
  intro u hres
  unfold State.landGet at hres
  grind [Option.map_eq_some_iff, State.portFails_fuses, State.consume_fuses, State.endTaken_fuses,
    State.portTurn_fuses, State.memWrite_fuses]

@[simp] theorem State.sqTaken_fuses (p : Nat) : (s.sqTaken p).boot.fuses = s.boot.fuses := by rfl

@[simp] theorem State.sendDesc_fuses (p : Nat) (h : Header) (v : Vc) (user : Word) (dst : Nat) (d : List Byte) :
    (s.sendDesc p h v user dst d).boot.fuses = s.boot.fuses := by rfl

@[simp] theorem State.failDesc_fuses (p : Nat) (h : Header) (v : Vc) (user : Word) (status : Nat) :
    (s.failDesc p h v user status).boot.fuses = s.boot.fuses := by simp [State.failDesc]

theorem State.doDesc_fuses {s t : State} {p : Fin 8} {b : List Byte} (hres : s.doDesc p b = some t) :
    t.boot.fuses = s.boot.fuses := by
  unfold State.doDesc at hres
  grind [State.failDesc_fuses, State.sendDesc_fuses, State.portFails_fuses, State.portTurn_fuses, State.memRead_fuses]

@[simp] theorem State.lostDesc_fuses (p : Fin 8) (cause a : Nat) :
    (s.lostDesc p cause a).boot.fuses = s.boot.fuses := by simp [State.lostDesc]

@[simp] theorem State.takeDesc_fuses (p : Fin 8) : SomeFuses s.boot.fuses (s.takeDesc p) := by
  intro t hres
  unfold State.takeDesc at hres
  grind [State.doDesc_fuses, State.lostDesc_fuses, State.portTurn_fuses, State.memRead_fuses, State.setLport_boot]

@[simp] theorem State.putPortCtl_fuses (p : Nat) (v : Word) : (s.putPortCtl p v).boot.fuses = s.boot.fuses := by
  simp [State.putPortCtl]

/-! Event queues and front-end ports. -/

@[simp] theorem State.putEqCfg_fuses (o : Origin) (e : Nat) (v : Word) :
    (s.putEqCfg o e v).boot.fuses = s.boot.fuses := by simp [State.putEqCfg]

@[simp] theorem State.stampFrame_fuses (n : Fin 2) : (s.stampFrame n).boot.fuses = s.boot.fuses := by rfl

@[simp] theorem State.dmaFrame_fuses (n : Fin 2) (addr : Nat) (frame : List Byte) :
    SomeFuses s.boot.fuses (s.dmaFrame n addr frame) := by
  intro t hres
  unfold State.dmaFrame at hres
  grind [Option.map_eq_some_iff, State.refuseAccess_boot, State.accessTurn_fuses, State.memWrite_fuses,
    State.stampFrame_fuses]

/-! The repair record and the memory-port dies. -/

@[simp] theorem State.program_fuses (a : Nat) (bs : List Byte) : (s.program a bs).boot.fuses = s.boot.fuses := by rfl

@[simp] theorem State.dropRepairs_fuses (f : RepairEntry → Bool) : (s.dropRepairs f).boot.fuses = s.boot.fuses := by
  simp [State.dropRepairs, State.writeRepair]

@[simp] theorem State.scrub_fuses (m : Nat) : (s.scrub m).boot.fuses = s.boot.fuses := by
  unfold State.scrub
  dsimp only
  repeat' split
  all_goals simp

@[simp] theorem State.movePoison_fuses (g was now : Nat) : (s.movePoison g was now).boot.fuses = s.boot.fuses := by
  simp [State.movePoison]

@[simp] theorem State.migrate_fuses (r : Retiring) : (s.migrate r).boot.fuses = s.boot.fuses := by
  simp [State.migrate]

@[simp] theorem State.retired_fuses (c : Nat) : (s.retired c).boot.fuses = s.boot.fuses := by simp [State.retired]

/-! The reference and the clock nodes. -/

@[simp] theorem State.dropSource_fuses (src : Nat) (f : Assertion → Bool) :
    (s.dropSource src f).boot.fuses = s.boot.fuses := by rfl

@[simp] theorem State.window_fuses (ppm : Int) : (s.window ppm).boot.fuses = s.boot.fuses := by
  simp [State.window, State.endPor]

@[simp] theorem State.clockRefused_fuses (o : Origin) (a : Nat) (v : Word) (last reason : Nat) :
    (s.clockRefused o a v last reason).boot.fuses = s.boot.fuses := by rfl

@[simp] theorem State.ungated_fuses (k : Nat) : (s.ungated k).boot.fuses = s.boot.fuses := by simp [State.ungated]

@[simp] theorem State.putNode_fuses (o : Origin) (k : Nat) (v : Word) :
    (s.putNode o k v).boot.fuses = s.boot.fuses := by
  unfold State.putNode
  dsimp only
  split <;> simp

@[simp] theorem State.putClkmon_fuses (o : Origin) (v : Word) : (s.putClkmon o v).boot.fuses = s.boot.fuses := by
  simp [State.putClkmon]

/-! Power domains and the release of an episode. -/

@[simp] theorem State.startChange_fuses : (s.startChange).boot.fuses = s.boot.fuses := by simp [State.startChange]

@[simp] theorem State.bootOn_fuses : (s.bootOn).boot.fuses = s.boot.fuses := by simp [State.bootOn]

@[simp] theorem State.resetMem_fuses (m : Nat) : (s.resetMem m).boot.fuses = s.boot.fuses := by rfl

@[simp] theorem State.enterDomain_fuses (d : Nat) : (s.enterDomain d).boot.fuses = s.boot.fuses := by
  simp [State.enterDomain, State.resetHelm, State.resetGroup]

@[simp] theorem State.domainDone_fuses (d : Nat) (on : Bool) : (s.domainDone d on).boot.fuses = s.boot.fuses := by
  simp [State.domainDone, State.resetPool, State.lockNodes, State.unload]

/-! The input stage, the caps and the two loops. -/

@[simp] theorem State.putPwrDom_fuses (o : Origin) (v : Word) : (s.putPwrDom o v).boot.fuses = s.boot.fuses := by
  simp [State.putPwrDom]

@[simp] theorem State.putPwrCap_fuses (v : Word) : (s.putPwrCap v).boot.fuses = s.boot.fuses := by
  simp [State.putPwrCap]

@[simp] theorem State.setPool_fuses (pIn : Nat) : (s.setPool pIn).boot.fuses = s.boot.fuses :=
  foldl_fuses _ _ _ fun _ _ => rfl

/-! Thermal levels, lockout and the return of a die. -/

@[simp] theorem State.throttle_fuses (was now n : Nat) : (s.throttle was now n).boot.fuses = s.boot.fuses := by
  simp [State.throttle]

@[simp] theorem State.safePort_fuses (p : Nat) : (s.safePort p).boot.fuses = s.boot.fuses := by simp [State.safePort]

/-! Boot, updates and attestation. -/

@[simp] theorem State.requestBoot_fuses : (s.requestBoot).boot.fuses = s.boot.fuses := by simp [State.requestBoot]

@[simp] theorem State.awaitRecovery_fuses (reason : Nat) : (s.awaitRecovery reason).boot.fuses = s.boot.fuses := by
  simp [State.awaitRecovery, State.wakeKept]

@[simp] theorem State.eraseFirst_fuses : (s.eraseFirst).boot.fuses = s.boot.fuses := by rfl

@[simp] theorem State.updateFailed_fuses (reason : Nat) : (s.updateFailed reason).boot.fuses = s.boot.fuses := by rfl

@[simp] theorem State.svRead_fuses (a n : Nat) : (s.svRead a n).1.boot.fuses = s.boot.fuses := by simp [State.svRead]

@[simp] theorem State.stagedImage_fuses (addr len : Nat) : (s.stagedImage addr len).1.boot.fuses = s.boot.fuses := by
  unfold State.stagedImage
  split <;> grind [State.svRead_fuses]

@[simp] theorem State.beginUpdate_fuses (addr len : Nat) : (s.beginUpdate addr len).boot.fuses = s.boot.fuses := by
  unfold State.beginUpdate
  split <;> grind [State.stagedImage_fuses, State.eraseFirst_fuses, State.updateFailed_fuses, State.answer_boot]

@[simp] theorem State.endUpdate_fuses (addr : Nat) (img : List Byte) :
    (s.endUpdate addr img).boot.fuses = s.boot.fuses := by
  unfold State.endUpdate
  split <;> grind [State.svRead_fuses, State.updateFailed_fuses, State.program_fuses]

@[simp] theorem State.attestTo_fuses (a : Nat) : (s.attestTo a).boot.fuses = s.boot.fuses := by
  unfold State.attestTo
  split <;> grind [State.memRead_fuses, State.writeRun_fuses, State.useFree_boot]

@[simp] theorem State.putAttCtl_fuses (v : Word) : (s.putAttCtl v).boot.fuses = s.boot.fuses := by
  simp [State.putAttCtl]

@[simp] theorem State.putAttExtend_fuses (o : Origin) (v : Word) :
    (s.putAttExtend o v).boot.fuses = s.boot.fuses := by
  unfold State.putAttExtend
  split
  · simp
  · split
    · rfl
    · split <;> next hread => simp [fuses_of_fst hread]

/-! The end of a task on its cores. -/

@[simp] theorem State.endCore_fuses (c : Nat) (k : Core) (g : CoreTask) (x : Task) :
    (s.endCore c k g x).boot.fuses = s.boot.fuses := by
  unfold State.endCore
  dsimp only
  rw [fuses_ite, foldl_fuses _ _ _ fun _ _ => by simp]
  simp

@[simp] theorem State.releaseGang_fuses (q t : Nat) (x : Task) : (s.releaseGang q t x).boot.fuses = s.boot.fuses :=
  foldl_fuses _ _ _ fun _ _ => rfl

/-! Doorbells and the entries STREAM, GRAPH and ABORT. -/

@[simp] theorem State.readEntry_fuses (q n : Nat) : (s.readEntry q n).1.boot.fuses = s.boot.fuses := by
  unfold State.readEntry
  dsimp only
  split <;> grind [State.geRead_fuses, State.useFree_boot]

@[simp] theorem State.readEntries_fuses (q n : Nat) : (s.readEntries q n).boot.fuses = s.boot.fuses := by
  induction n generalizing s with
  | zero => rfl
  | succ n ih => grind [State.readEntries, State.readEntry_fuses, State.setSq_boot]

@[simp] theorem State.takeEntries_fuses (q : Nat) : (s.takeEntries q).boot.fuses = s.boot.fuses := by
  simp [State.takeEntries]

@[simp] theorem State.putSqDb_fuses (o : Origin) (q : Nat) (v : Word) :
    (s.putSqDb o q v).boot.fuses = s.boot.fuses := by simp [State.putSqDb]

@[simp] theorem State.dropBad_fuses (q n : Nat) : (s.dropBad q n).boot.fuses = s.boot.fuses := by
  induction n generalizing s with
  | zero => rfl
  | succ n ih => grind [State.dropBad, State.finishEntry_fuses]

@[simp] theorem State.openStatus_fuses (q : Nat) (e : Entry) : (s.openStatus q e).boot.fuses = s.boot.fuses := by rfl

@[simp] theorem State.streamArm_fuses (q : Nat) (e : Entry) : SomeFuses s.boot.fuses (s.streamArm q e) := by
  intro t hres
  unfold State.streamArm at hres
  grind [State.geRead_fuses, State.openStatus_fuses, State.finishEntry_fuses, State.setCtx_boot, State.latch_fuses,
    State.violate_boot]

@[simp] theorem State.abortTasks_fuses (q : Nat) (ts : List Nat) : (s.abortTasks q ts).boot.fuses = s.boot.fuses := by
  unfold State.abortTasks
  dsimp only
  rw [fuses_ite, State.faultRegion_fuses, ite_self, State.settleGraph_fuses, foldl_fuses _ _ _ (by simp)]
  refine foldl_fuses _ _ s fun s t => ?_
  split <;> simp

@[simp] theorem State.takeOut_fuses (q : Nat) (e : Entry) : (s.takeOut q e).boot.fuses = s.boot.fuses := by rfl

@[simp] theorem State.doom_fuses (q : Nat) (ws : List (Entry × Option Nat)) :
    (s.doom q ws).boot.fuses = s.boot.fuses := by rfl

@[simp] theorem State.abort_fuses (q : Nat) (e : Entry) : (s.abort q e).boot.fuses = s.boot.fuses := by
  unfold State.abort
  split <;> simp

@[simp] theorem State.takeGraph_fuses (q : Nat) (e : Entry) : SomeFuses s.boot.fuses (s.takeGraph q e) := by
  intro t hres
  unfold State.takeGraph at hres
  grind [State.readGraph_fuses, State.popEntry_fuses, State.graphDone_fuses, State.faultRegion_fuses,
    State.setSq_boot]

@[simp] theorem State.endDoomed_fuses (q : Nat) : (s.endDoomed q).boot.fuses = s.boot.fuses := by
  unfold State.endDoomed
  split <;> simp

/-! Exchange channels and the RESHARD of an axis. -/

@[simp] theorem State.putXcha_fuses (p n : Nat) (v : Word) : (s.putXcha p n v).boot.fuses = s.boot.fuses := by
  simp [State.putXcha]

@[simp] theorem State.putXchb_fuses (p n : Nat) (v : Word) : (s.putXchb p n v).boot.fuses = s.boot.fuses := by
  simp [State.putXchb]

@[simp] theorem State.sendSlot_fuses (p n : Nat) (c : Channel) (off k : Nat) (bs : List Byte) :
    (s.sendSlot p n c off k bs).boot.fuses = s.boot.fuses := by
  induction k generalizing s off bs with
  | zero => rfl
  | succ k ih => grind [State.sendSlot, State.setLport_boot]

@[simp] theorem State.channelSlot_fuses (p : Fin 8) (n : Nat) : SomeFuses s.boot.fuses (s.channelSlot p n) := by
  intro t hres
  unfold State.channelSlot at hres
  grind [State.setLport_boot, State.channelFault_fuses, State.dropTurns_fuses, State.portTurn_fuses,
    State.memRead_fuses, State.portFails_fuses, State.setCtx_boot, State.sendSlot_fuses]

@[simp] theorem State.readReshard_fuses (q : Nat) (e : Entry) : (s.readReshard q e).1.boot.fuses = s.boot.fuses := by
  unfold State.readReshard
  split <;> grind [State.geRead_fuses]

@[simp] theorem State.copySpans_fuses (scratch : Nat) (es : List (Nat × PermEntry)) :
    (s.copySpans scratch es).1.boot.fuses = s.boot.fuses := by
  induction es generalizing s with
  | nil => rfl
  | cons e es ih => grind [State.copySpans, State.memRead_fuses, State.writeRun_fuses]

@[simp] theorem State.sendPermute_fuses (p : Nat) (r : Reshard) (e : PermEntry) (dst k : Nat) (bs : List Byte) :
    (s.sendPermute p r e dst k bs).boot.fuses = s.boot.fuses := by
  induction k generalizing s dst bs with
  | zero => rfl
  | succ k ih => grind [State.sendPermute, State.setLport_boot]

@[simp] theorem State.moveEntry_fuses (axis : Nat) (r : Reshard) (x : Nat × PermEntry) :
    (s.moveEntry axis r x).boot.fuses = s.boot.fuses := by simp [State.moveEntry]

@[simp] theorem State.setEpoch_fuses (axis : Nat) (v : BitVec 32) :
    (s.setEpoch axis v).boot.fuses = s.boot.fuses := by rfl

@[simp] theorem State.copyOut_fuses (axis : Nat) (r : Reshard) : (s.copyOut axis r).boot.fuses = s.boot.fuses := by
  unfold State.copyOut
  dsimp only
  split
  · simp
  · split
    · next hcopy => simp [fuses_of_fst hcopy]
    · next hcopy => simp [fuses_of_fst hcopy]

/-! Movement operations and journalled writes. -/

@[simp] theorem State.moveDescs_fuses (r : TaskRec) : (s.moveDescs r).1.boot.fuses = s.boot.fuses := by
  unfold State.moveDescs
  split <;> grind [State.moverRead_fuses]

@[simp] theorem State.moveFails_fuses (q t cause a kind : Nat) :
    (s.moveFails q t cause a kind).boot.fuses = s.boot.fuses := by simp [State.moveFails]

@[simp] theorem State.moveDone_fuses (q t : Nat) (x : Task) (held : Assoc Byte) (sats nans : Nat) :
    (s.moveDone q t x held sats nans).boot.fuses = s.boot.fuses := by rfl

/-- The state that a journalled write goes on with has the fuses given. -/
def Journaled.HasFuses (j : Journaled) (f : Fuses) : Prop :=
  match j with
  | .ok t => t.boot.fuses = f
  | _ => True

theorem State.journal_hasFuses (q t : Nat) (gs : List Nat) : (s.journal q t gs).HasFuses s.boot.fuses := by
  induction gs generalizing s with
  | nil => rfl
  | cons g gs ih => grind [State.journal, Journaled.HasFuses, State.record_fuses]

theorem State.writeInPlace_fuses {s u : State} {q t : Nat} {ws : List (Nat × Byte)}
    (h : s.writeInPlace q t ws = .ok u) : u.boot.fuses = s.boot.fuses := by
  unfold State.writeInPlace at h
  grind [Journaled.HasFuses, State.journal_hasFuses, State.writeAll_fuses]

theorem State.runMove_fuses {s u : State} {q t : Nat} {x : Task} {m : Movement} (hres : s.runMove q t x m = some u) :
    u.boot.fuses = s.boot.fuses := by
  unfold State.runMove at hres
  grind [State.moverReads_fuses, State.moveFails_fuses, State.moveDone_fuses, State.writeInPlace_fuses,
    State.faultRegion_fuses]

theorem State.moveTurn_fuses {s u : State} {q t : Nat} {x : Task} {m : Movement}
    (hres : s.moveTurn q t x m = some u) : u.boot.fuses = s.boot.fuses := by
  unfold State.moveTurn at hres
  grind [State.turns_fuses, State.runMove_fuses]

@[simp] theorem State.startMove_fuses (op q t : Nat) : SomeFuses s.boot.fuses (s.startMove op q t) := by
  intro u hres
  unfold State.startMove at hres
  grind [Option.bind_eq_some_iff, State.moveDescs_fuses, State.moveFails_fuses, State.failTask_fuses,
    State.moveDone_fuses, State.moveTurn_fuses]

/-! Transfers. -/

@[simp] theorem State.askTransfer_fuses (c tag : Nat) : (s.askTransfer c tag).boot.fuses = s.boot.fuses := by
  unfold State.askTransfer
  split <;> simp

theorem State.writeSites_fuses {s t : State} {lm : Nat} {bs : List Byte} {cs : List Nat}
    (h : s.writeSites lm bs cs = some t) : t.boot.fuses = s.boot.fuses := by
  induction cs generalizing s with
  | nil => grind [State.writeSites]
  | cons c cs ih => grind [State.writeSites, Option.bind_eq_some_iff, State.setCore_boot]

/-! The store dies: requests, grants, borrowing, passes and stalls. -/

@[simp] theorem State.putStoreCfg_fuses (o : Origin) (d : Nat) (v : Word) :
    (s.putStoreCfg o d v).boot.fuses = s.boot.fuses := by simp [State.putStoreCfg]

@[simp] theorem State.askPiece_fuses (n : Nat) (dir : PieceDir) (off len : Nat) :
    (s.askPiece n dir off len).boot.fuses = s.boot.fuses := by rfl

theorem State.askBorrow_fuses {s t : State} {n : Nat} (hres : s.askBorrow n = some t) :
    t.boot.fuses = s.boot.fuses := by grind [State.askBorrow]

@[simp] theorem State.request_fuses (n : Nat) (dir : PieceDir) : SomeFuses s.boot.fuses (s.request n dir) := by
  intro t hres
  unfold State.request at hres
  grind [State.askPiece_fuses, State.askBorrow_fuses]

@[simp] theorem State.moved_fuses (n : Nat) : (s.moved n).boot.fuses = s.boot.fuses := by rfl

@[simp] theorem State.stage_fuses (n : Nat) (bs : List Byte) : (s.stage n bs).boot.fuses = s.boot.fuses := by
  unfold State.stage
  dsimp only
  split <;> simp

@[simp] theorem State.openSource_fuses (n off : Nat) : (s.openSource n off).boot.fuses = s.boot.fuses := by
  simp [State.openSource]

@[simp] theorem State.ctxFails_fuses (n : Nat) (ahead : Bool) (cause a kind : Nat) :
    (s.ctxFails n ahead cause a kind).boot.fuses = s.boot.fuses := by
  unfold State.ctxFails
  dsimp only
  split <;> simp

/-- Each state that a piece's answer carries has the fuses given. -/
def Piece.HasFuses (p : Piece) (f : Fuses) : Prop :=
  match p with
  | .done t => t.boot.fuses = f
  | .bad t _ _ _ => t.boot.fuses = f
  | .waits => True

theorem State.fetch_hasFuses (n off len : Nat) : (s.fetch n off len).HasFuses s.boot.fuses := by
  unfold State.fetch
  grind [Piece.HasFuses, State.moverReads_fuses, State.stage_fuses, State.memRead_fuses, State.openSource_fuses,
    State.setCore_boot]

theorem State.takeIndex_hasFuses (n : Nat) : (s.takeIndex n).HasFuses s.boot.fuses := by
  unfold State.takeIndex
  grind [Piece.HasFuses, State.moverReads_fuses, State.setCtx_boot]

theorem State.takeUpdates_hasFuses (n off len : Nat) : (s.takeUpdates n off len).HasFuses s.boot.fuses := by
  unfold State.takeUpdates
  grind [Piece.HasFuses, State.takeIndex_hasFuses, State.moverReads_fuses]

theorem State.putPiece_hasFuses (n off len : Nat) : (s.putPiece n off len).HasFuses s.boot.fuses := by
  unfold State.putPiece
  grind [Piece.HasFuses, State.takeUpdates_hasFuses, State.setCtx_boot, State.openSource_fuses,
    State.writeInPlace_fuses, State.faultRegion_fuses]

theorem State.ringPiece_hasFuses (n off len : Nat) (sites : List Nat) (last : Bool) :
    (s.ringPiece n off len sites last).HasFuses s.boot.fuses := by
  unfold State.ringPiece
  grind [Piece.HasFuses, State.setCtx_boot, State.storeWrite_fuses, State.writeInPlace_fuses, State.faultRegion_fuses,
    State.writeSites_fuses]

theorem State.pieceOf_hasFuses (r : Request) (n : Nat) (dir : PieceDir) (off len : Nat) :
    (s.pieceOf r n dir off len).HasFuses s.boot.fuses := by
  unfold State.pieceOf
  grind [Piece.HasFuses, State.fetch_hasFuses, State.putPiece_hasFuses, State.ringPiece_hasFuses]

theorem Piece.next_fuses {p : Piece} {f : Fuses} (h : p.HasFuses f) {done : State → State}
    {bad : State → Nat → Nat → Nat → State} (hdone : ∀ u, (done u).boot.fuses = u.boot.fuses)
    (hbad : ∀ u cause a kind, (bad u cause a kind).boot.fuses = u.boot.fuses) {t : State}
    (ht : p.next done bad = some t) : t.boot.fuses = f := by
  cases p with
  | done u => obtain rfl := Option.some.inj ht; rw [hdone, h]
  | bad u cause a kind => obtain rfl := Option.some.inj ht; rw [hbad, h]
  | waits => cases ht

/-- A granted request does its piece, and is dropped, or waits. -/
@[simp] theorem State.serve_fuses (r : Request) : SomeFuses s.boot.fuses (s.serve r) := by
  intro t hres
  unfold State.serve at hres
  split at hres
  · next n dir off len _ =>
    have hpiece := Piece.next_fuses (s.pieceOf_hasFuses r n dir off len) (t := t)
      (done := fun u => (u.dropRequest r).moved n)
      (bad := fun u cause a kind =>
        (u.dropRequest r).ctxFails n (dir == .fetch && (u.ctx n).fetchesAhead) cause a kind) (by simp) (by simp)
    cases dir with
    | fetch =>
      dsimp only at hres
      generalize Option.any _ _ = fits at hres
      split at hres
      · exact hpiece hres
      · obtain rfl := Option.some.inj hres; simp
    | deliver =>
      dsimp only at hres
      split at hres
      · exact hpiece hres
      · obtain rfl := Option.some.inj hres; simp
  · obtain rfl := Option.some.inj hres; simp
  · cases hres
  · split at hres
    · cases hres
    · obtain rfl := Option.some.inj hres; simp
  · split at hres
    · cases hres
    · obtain rfl := Option.some.inj hres; simp

theorem State.reclaim_fuses {s t : State} {n : Nat} (hres : s.reclaim n = some t) : t.boot.fuses = s.boot.fuses := by
  unfold State.reclaim at hres
  grind [State.discard_fuses, State.setSrcHasp_fuses, State.withdrawFetch_fuses, State.setCtx_boot]

@[simp] theorem State.borrowGrant_fuses (d : Nat) : SomeFuses s.boot.fuses (s.borrowGrant d) := by
  intro t hres
  obtain ⟨b, -, hres⟩ := Option.bind_eq_some_iff.mp hres
  dsimp only at hres
  split at hres
  · obtain rfl := Option.some.inj hres; simp
  · obtain ⟨u, hfound, rfl⟩ := Option.map_eq_some_iff.mp hres
    obtain ⟨n, -, hreclaim⟩ := List.exists_of_findSome?_eq_some hfound
    simp [State.reclaim_fuses hreclaim]

@[simp] theorem State.failRearm_fuses (by_ : Option (Nat × Nat × Nat)) (cause : Nat) :
    (s.failRearm by_ cause).boot.fuses = s.boot.fuses := by
  unfold State.failRearm
  repeat' split
  all_goals simp

@[simp] theorem State.beginPass_fuses (n q t : Nat) : (s.beginPass n q t).boot.fuses = s.boot.fuses := by
  unfold State.beginPass
  dsimp only
  split <;> grind [State.failTask_fuses, State.failRearm_fuses, State.checkCtx_fuses, State.setCtx_boot]

@[simp] theorem State.beginAhead_fuses (n q t : Nat) : (s.beginAhead n q t).boot.fuses = s.boot.fuses := by
  unfold State.beginAhead
  dsimp only
  split <;> grind [State.failTask_fuses, State.failRearm_fuses, State.checkCtx_fuses, State.loseAhead_fuses,
    State.setCtx_boot]

@[simp] theorem State.stall_fuses (q t : Nat) (ns : List Nat) : (s.stall q t ns).boot.fuses = s.boot.fuses := by rfl

/-! The graph engines and the strike. -/

@[simp] theorem State.deadlock_fuses (cycle : List (Nat × Nat)) : (s.deadlock cycle).boot.fuses = s.boot.fuses :=
  foldl_fuses _ _ s fun s p => State.toSq_fuses (s.setSq p.1 _) p.1 _

/-- The recursion is opened by hand: `unfold` would have Lean reduce the read of the 417,792 bytes of a core. -/
@[simp] theorem State.captures_fuses (s : State) (cs : List Nat) : (s.captures cs).1.boot.fuses = s.boot.fuses := by
  delta State.captures
  dsimp only [List.brecOn]
  induction cs generalizing s with
  | nil => rfl
  | cons c cs ih =>
    dsimp only [List.brecOn.go, State.captures._f] at ih ⊢
    generalize (s.core c).windowRead 0 captureBytes = read
    cases read with
    | none => rfl
    | some r =>
      dsimp only
      split <;> next hread => exact (fuses_of_fst hread).trans (ih (s.setCore c r.1))

@[simp] theorem State.geFails_fuses (q t cause a : Nat) : (s.geFails q t cause a).boot.fuses = s.boot.fuses := by
  simp [State.geFails]

@[simp] theorem State.capture_fuses (q t : Nat) (x : Task) : SomeFuses s.boot.fuses (s.capture q t x) := by
  intro u hres
  unfold State.capture at hres
  dsimp only at hres
  split at hres
  · obtain rfl := Option.some.inj hres; simp
  · split at hres
    · cases hres
    · split at hres <;> next hread =>
        obtain rfl := Option.some.inj hres
        simp [fuses_of_fst hread]

/-! Hasps. -/

@[simp] theorem State.onHasp_fuses (k c : Nat) (f : Hasp → Hasp) : (s.onHasp k c f).boot.fuses = s.boot.fuses := by
  rfl

@[simp] theorem State.forward_fuses (n c : Nat) (h : Fin 16) : (s.forward n c h).boot.fuses = s.boot.fuses := by
  unfold State.forward
  dsimp only
  split <;> simp

/-! Writes to registers and write-backs. -/

@[simp] theorem State.clearReg_fuses (d o : Nat) (v : Word) : (s.clearReg d o v).boot.fuses = s.boot.fuses := by
  simp [State.clearReg, State.clearHelm, State.clearService]

@[simp] theorem State.putSqCfg_fuses (o : Origin) (q : Nat) (v : Word) :
    (s.putSqCfg o q v).boot.fuses = s.boot.fuses := by simp [State.putSqCfg]

@[simp] theorem State.putSqCtl_fuses (o : Origin) (q : Nat) (v : Word) :
    (s.putSqCtl o q v).boot.fuses = s.boot.fuses := by simp [State.putSqCtl]

@[simp] theorem State.putSqBase_fuses (q : Nat) (v : Word) : (s.putSqBase q v).boot.fuses = s.boot.fuses := by
  simp [State.putSqBase]

@[simp] theorem State.putRegDef_fuses (o : Origin) (r : Nat) (v : Word) :
    (s.putRegDef o r v).boot.fuses = s.boot.fuses := by simp [State.putRegDef, State.regionRefused]

@[simp] theorem State.putArea_fuses (o : Origin) (r off : Nat) (v : Word) (base size : Nat) :
    (s.putArea o r off v base size).boot.fuses = s.boot.fuses := by simp [State.putArea, State.regionRefused]

@[simp] theorem State.putAreaBase_fuses (o : Origin) (r : Nat) (v : Word) :
    (s.putAreaBase o r v).boot.fuses = s.boot.fuses := by simp [State.putAreaBase]

@[simp] theorem State.putAreaSize_fuses (o : Origin) (r : Nat) (v : Word) :
    (s.putAreaSize o r v).boot.fuses = s.boot.fuses := by simp [State.putAreaSize]

@[simp] theorem State.writePort_fuses (o : Origin) (p off : Nat) (v : Word) :
    (s.writePort o p off v).boot.fuses = s.boot.fuses := by
  unfold State.writePort
  repeat' split
  all_goals simp

@[simp] theorem State.putEqBase_fuses (e : Nat) (v : Word) : (s.putEqBase e v).boot.fuses = s.boot.fuses := by
  simp [State.putEqBase]

@[simp] theorem State.writeHelm_fuses (o : Origin) (off : Nat) (v : Word) :
    (s.writeHelm o off v).boot.fuses = s.boot.fuses := by
  unfold State.writeHelm
  repeat' split
  all_goals simp

@[simp] theorem State.putPwrCfg_fuses (o : Origin) (v : Word) : (s.putPwrCfg o v).boot.fuses = s.boot.fuses := by
  simp [State.putPwrCfg]

@[simp] theorem State.putBack_fuses (a : Nat) (v : Word) : (s.putBack a v).boot.fuses = s.boot.fuses := by
  unfold State.putBack
  split <;> simp

@[simp] theorem State.transmit_fuses (o : Origin) : (s.transmit o).boot.fuses = s.boot.fuses := by
  unfold State.transmit
  split <;> simp

/-! Connectors, the management endpoint and the test port. -/

@[simp] theorem State.i3cMode_fuses (m : Option (BitVec 7)) : (s.i3cMode m).boot.fuses = s.boot.fuses := by
  unfold State.i3cMode
  split <;> rfl

/-! Beats and drains. -/

@[simp] theorem State.countBeat_fuses (c : Nat) (a : Option Acc) : (s.countBeat c a).boot.fuses = s.boot.fuses := by
  unfold State.countBeat
  split <;> simp

@[simp] theorem State.rowDue_fuses (c : Nat) (d : Drain) (u : Nat) :
    (s.rowDue c d u).1.boot.fuses = s.boot.fuses := by
  unfold State.rowDue
  split <;> simp

/-! Register accesses: what the body leaves, the access leaves. -/

@[simp] theorem State.endpoint_fuses {s body : State} {o : Origin} {a : Nat} {write : Bool}
    (hb : body.boot.fuses = s.boot.fuses) : (s.endpoint o a write body).boot.fuses = s.boot.fuses := by
  simp [State.endpoint, hb]

@[simp] theorem State.onReg_fuses {s : State} {o : Origin} {a : Nat} {write : Bool} {body : State → State}
    (hb : (body s).boot.fuses = s.boot.fuses) : (s.onReg o a write body).boot.fuses = s.boot.fuses := by
  refine State.endpoint_fuses ?_
  split
  · simp
  · split <;> simp [hb]

@[simp] theorem State.onWrite_fuses {s : State} {o : Origin} {a : Nat} {body : State → State}
    (hb : (body s).boot.fuses = s.boot.fuses) : (s.onWrite o a body).boot.fuses = s.boot.fuses := by
  simp [State.onWrite, hb]

@[simp] theorem State.onHostWrite_fuses {s : State} {o : Origin} {a : Nat} {v : Word} {body : State → State}
    (hb : (body s).boot.fuses = s.boot.fuses) : (s.onHostWrite o a v body).boot.fuses = s.boot.fuses := by
  simp [State.onHostWrite, hb]

/-! Resets. -/

@[simp] theorem State.assertAt_fuses (src reach die core : Nat) (held handover : Bool) :
    (s.assertAt src reach die core held handover).boot.fuses = s.boot.fuses := by
  simp [State.assertAt, State.resetPool, State.resetScope, State.resetMem, State.resetModule, State.leaveReady,
    State.resetPower]

@[simp] theorem State.assert_fuses (src die : Nat) (held : Bool) :
    (s.assert_ src die held).boot.fuses = s.boot.fuses := by simp [State.assert_]

@[simp] theorem State.watchdogBites_fuses : s.watchdogBites.boot.fuses = s.boot.fuses := by simp [State.watchdogBites]

@[simp] theorem State.putRstReq_fuses (o : Origin) (v : Word) : (s.putRstReq o v).boot.fuses = s.boot.fuses := by
  simp [State.putRstReq]

@[simp] theorem State.inputLost_fuses (x : InputState) : (s.inputLost x).boot.fuses = s.boot.fuses := by
  simp [State.inputLost]

/-! Lockouts. -/

@[simp] theorem State.failSite_fuses (c : Nat) : (s.failSite c).boot.fuses = s.boot.fuses := by
  simp [State.failSite, State.gridChange]

@[simp] theorem State.lockout_fuses (c trigger : Nat) (fate : TaskEnd) :
    (s.lockout c trigger fate).boot.fuses = s.boot.fuses := by
  unfold State.lockout
  cases s.siteTask c <;> simp

@[simp] theorem State.coreExc_fuses (c code : Nat) (u : UnitId) (i line : Nat) :
    (s.coreExc c code u i line).boot.fuses = s.boot.fuses := by
  unfold State.coreExc
  split <;> simp

@[simp] theorem State.dieFault_fuses (d trigger : Nat) : (s.dieFault d trigger).boot.fuses = s.boot.fuses := by
  simp [State.dieFault, State.lockDie, State.dieLockoutRec]

@[simp] theorem State.safe_fuses (b : ParityBlock) : (s.safe b).boot.fuses = s.boot.fuses := by
  cases b <;> simp [State.safe]

/-! Boot. -/

@[simp] theorem State.takeRepair_fuses (s : State) (es : List RepairEntry) (e : RepairEntry) :
    (s.takeRepair es e).boot.fuses = s.boot.fuses := by simp [State.takeRepair]

@[simp] theorem State.buildRepairs_fuses : s.buildRepairs.boot.fuses = s.boot.fuses := by
  unfold State.buildRepairs
  split <;> simp

@[simp] theorem State.runImage_fuses (i : Image) (b : List Byte) : (s.runImage i b).boot.fuses = s.boot.fuses := by
  simp [State.runImage, State.wakeKept]

@[simp] theorem State.bootSlot_fuses : s.bootSlot.boot.fuses = s.boot.fuses := by
  unfold State.bootSlot
  dsimp only
  split <;> simp

@[simp] theorem State.takeRecovery_fuses (b : List Byte) : (s.takeRecovery b).1.boot.fuses = s.boot.fuses := by
  unfold State.takeRecovery
  repeat' split
  all_goals simp

@[simp] theorem State.putGang_fuses (q t : Nat) (x : Task) (ox oy : Nat) :
    (s.putGang q t x ox oy).boot.fuses = s.boot.fuses := by
  unfold State.putGang
  dsimp only
  repeat' split
  all_goals simp [State.ungate]

@[simp] theorem State.writeService_fuses (o : Origin) (off : Nat) (v : Word) :
    (s.writeService o off v).boot.fuses = s.boot.fuses := by
  unfold State.writeService
  repeat' split
  all_goals simp

@[simp] theorem State.writeReg_fuses (o : Origin) (d off : Nat) (v : Word) :
    (s.writeReg o d off v).boot.fuses = s.boot.fuses := by
  simp [State.writeReg, State.writeStore, State.writeMem, State.writeCompute]

@[simp] theorem State.putReg_fuses (o : Origin) (a : Nat) (v : Word) :
    (s.putReg o a v).boot.fuses = s.boot.fuses := by
  unfold State.putReg
  split <;> simp

@[simp] theorem State.accessReg_fuses (o : Origin) (a n : Nat) (data : Option (List Byte)) :
    (s.accessReg o a n data).boot.fuses = s.boot.fuses := by
  refine State.endpoint_fuses ?_
  repeat' split
  all_goals simp

@[simp] theorem State.fabric_fuses (o : Origin) (a n : Nat) (data : Option (List Byte)) :
    (s.fabric o a n data).boot.fuses = s.boot.fuses := by
  unfold State.fabric
  split
  · simp
  · split
    · simp
    · extract_lets bad u held
      have hu : u.boot.fuses = s.boot.fuses := by simp [u]
      have hturn : (if held = true then (u, true) else u.accessTurn o a n).1.boot.fuses = s.boot.fuses := by
        split <;> simp [hu]
      split <;> next h => simpa [fuses_of_fst h] using hturn

@[simp] theorem State.updateRow_fuses (key : Nat) : SomeFuses s.boot.fuses (s.updateRow key) := by
  unfold State.updateRow
  repeat' split
  all_goals simp

@[simp] theorem State.escalated_fuses (x : RecoveryStep) : SomeFuses s.boot.fuses (s.escalated x) := by
  intro t h
  unfold State.escalated at h
  grind [State.dieFault_fuses, State.assertAt_fuses, State.watchdogBites_fuses]

@[simp] theorem State.placeTask_fuses (q t ox oy : Nat) (x : Task) :
    SomeFuses s.boot.fuses (s.placeTask q t ox oy x) := by simp [State.placeTask]

end

section
variable {f : Fuses} {s : State} (hs : s.boot.fuses = f)
include hs

@[simp] theorem State.happens_fuses (o : Option State) : NextFuses f (s.happens o) ↔ SomeFuses f o := by
  cases o <;> simp [hs]

@[simp] theorem State.managed_fuses {b : State} (hb : b.boot.fuses = f) : NextFuses f (s.managed b) := by
  simp [State.managed, hs, hb]

@[simp] theorem State.asked_fuses {b : State} (hb : b.boot.fuses = f) : NextFuses f (s.asked b) := by
  simp [State.asked, hs, hb]

@[simp] theorem State.coreRes_fuses (c : Nat) (r : CoreRes) : NextFuses f (s.coreRes c r) := by
  cases r <;> simp [State.coreRes, hs]

@[simp] theorem State.onCore_fuses (c : Nat) (g : Core → CoreRes) : NextFuses f (s.onCore c g) := by
  simp [State.onCore, hs]

@[simp] theorem State.onInstr_fuses (c : Nat) (u : UnitId) (i : Instr) (g : Core → CoreRes) :
    NextFuses f (s.onInstr c u i g) := State.onCore_fuses hs c _

@[simp] theorem State.transfer_fuses (i : Instr) (c : Nat) (tag : Fin 8) (kind : XferKind) (l m n : Fin 32)
    (extra : Bool) : NextFuses f (s.transfer i c tag kind l m n extra) := by
  unfold State.transfer
  split
  · dsimp only
    split <;> simp [hs]
  · simp

@[simp] theorem State.onPacket_fuses (p : Nat) (v : Vc) (op : Nat) {body : State → Header → List Byte → Option State}
    (hbody : ∀ u h d, SomeFuses u.boot.fuses (body u h d)) : NextFuses f (s.onPacket p v op body) := by
  have hf : ∀ u h d, u.boot.fuses = f → SomeFuses f (body u h d) := fun u h d hu => hu ▸ hbody u h d
  simp [State.onPacket, hs, hf]

@[simp] theorem State.onEntry_fuses (q : Nat) (mine : Entry → Bool) {body : State → Entry → Option State}
    (hbody : ∀ u e, SomeFuses u.boot.fuses (body u e)) : NextFuses f (s.onEntry q mine body) := by
  have hf : ∀ u e, u.boot.fuses = f → SomeFuses f (body u e) := fun u e hu => hu ▸ hbody u e
  simp [State.onEntry, hs, hf]

@[simp] theorem State.onTask_fuses (q t : Nat) {g : Task → Option State} (hg : ∀ x, SomeFuses f (g x)) :
    NextFuses f (s.onTask q t g) := by simp [State.onTask, hs, hg]

@[simp] theorem State.onCtx_fuses (n : Nat) {g : Ctx → Option State} (hg : ∀ c, SomeFuses f (g c)) :
    NextFuses f (s.onCtx n g) := by simp [State.onCtx, hs, hg]

omit hs in
@[simp] theorem State.withFree_fuses (o : Out) : NextFuses f (s.withFree o) ↔ NextFuses f o := by
  cases o <;> simp [State.withFree]

end

/-! What each command answers. First the commands whose answer takes a case split of its own. -/

section
variable {s : State}

/-! Packets and entries. -/

theorem execPut_fuses {p : Fin 8} {vc : Vc} : NextFuses s.boot.fuses (execPut p vc s) := by
  refine State.onPacket_fuses rfl _ _ _ fun u h d => ?_
  have hwrite : SomeFuses u.boot.fuses (u.writePacket p vc h d id) := u.writePacket_fuses p vc h d id fun _ => rfl
  simp [hwrite]

theorem execCompletion_fuses {p : Fin 8} : NextFuses s.boot.fuses (execCompletion p s) := by
  refine State.onPacket_fuses rfl _ _ _ fun u h d => (someFuses_some _).mpr ?_
  split <;> simp

theorem execGetRsp_fuses {p : Fin 8} : NextFuses s.boot.fuses (execGetRsp p s) := by
  refine State.onPacket_fuses rfl _ _ _ fun u h d => ?_
  split
  · simp
  · split
    · simp
    · split <;> simp

theorem execGraph_fuses {q : Nat} : NextFuses s.boot.fuses (execGraph q s) := by
  refine State.onEntry_fuses rfl _ _ fun u e => SomeFuses.map (u.takeGraph_fuses q e) fun t => ?_
  simp

theorem execReshard_fuses {q : Nat} : NextFuses s.boot.fuses (execReshard q s) := by
  refine State.onEntry_fuses rfl _ _ fun u e => ?_
  split
  · simp
  · split <;> next hread => simp [fuses_of_fst hread]

theorem execReshardComplete_fuses {axis : Fin 4} : NextFuses s.boot.fuses (execReshardComplete axis s) := by
  refine (State.happens_fuses rfl _).mpr (someFuses_bind fun r => ?_)
  dsimp only
  split
  · split <;> simp
  · simp

theorem execTaskCommit_fuses {q t : Nat} : NextFuses s.boot.fuses (execTaskCommit q t s) := by
  refine State.onTask_fuses rfl _ _ fun x => ?_
  split
  · split <;> next hturns => simp [fuses_of_fst hturns]
  · simp

/-! Registers whose body is one update of the state. -/

theorem execPortSqTail_fuses {o : Origin} {p : Fin 8} {v : BitVec 64} :
    NextFuses s.boot.fuses (execPortSqTail o p v s) :=
  (nextFuses_next _).mpr (State.onWrite_fuses rfl)

theorem execPortRingid_fuses {p : Fin 8} {v : BitVec 64} : NextFuses s.boot.fuses (execPortRingid p v s) :=
  State.managed_fuses rfl (State.onReg_fuses rfl)

theorem execEqHead_fuses {o : Origin} {e : Nat} {v : BitVec 64} : NextFuses s.boot.fuses (execEqHead o e v s) := by
  unfold execEqHead
  split
  · exact (nextFuses_next _).mpr (State.onWrite_fuses rfl)
  · simp

theorem execRegLock_fuses {idx : Nat} : NextFuses s.boot.fuses (execRegLock idx s) := by
  unfold execRegLock
  split
  · exact State.managed_fuses rfl rfl
  · simp

theorem execDevidCert_fuses : NextFuses s.boot.fuses (execDevidCert s) := State.managed_fuses rfl rfl

/-! The end of a domain change, a step of a thermal level, the lockout of a die. -/

theorem execDomainChangeDone_fuses : NextFuses s.boot.fuses (execDomainChangeDone s) :=
  (State.happens_fuses rfl _).mpr (someFuses_map fun c => s.domainDone_fuses c.1 c.2)

theorem execThermalLevelStep_fuses {x : Sensor} : NextFuses s.boot.fuses (execThermalLevelStep x s) := by
  cases x <;> simp [execThermalLevelStep, State.stepGroup, State.stepModule]

theorem execDieLockout_fuses {i : Nat} {why : DieFault} : NextFuses s.boot.fuses (execDieLockout i why s) := by
  cases why <;> simp [execDieLockout, State.operatorDie]

/-! A hasp forwarded, and a row of a drain. -/

theorem execHaspForward_fuses {x c : Nat} : NextFuses s.boot.fuses (execHaspForward x c s) := by
  unfold execHaspForward
  split
  · refine (State.happens_fuses rfl _).mpr ?_
    split <;> simp
  · simp

theorem execDrainRowWrite_fuses {c : Nat} : NextFuses s.boot.fuses (execDrainRowWrite c s) := by
  unfold execDrainRowWrite
  split
  · split
    · simp
    · dsimp only
      split
      · simp
      · split <;> simp [State.writeRowPort]
  · simp

/-! The ends of a transfer. -/

/-- Each state that the end of a transfer carries has the fuses given. -/
def XferEnd.HasFuses (x : XferEnd) (f : Fuses) : Prop :=
  match x with
  | .done t => t.boot.fuses = f
  | .error t _ _ _ => t.boot.fuses = f
  | .lost t _ => t.boot.fuses = f
  | .waits => True

theorem State.transferWrite_hasFuses (s : State) (c a : Nat) (bs : List Byte) :
    (s.transferWrite c a bs).HasFuses s.boot.fuses := by
  unfold State.transferWrite
  grind [XferEnd.HasFuses, State.writeInPlace_fuses, State.memWrite_fuses, State.faultRegion_fuses]

theorem State.runTransfer_hasFuses (s : State) (c : Nat) (x : Transfer) :
    (s.runTransfer c x).HasFuses s.boot.fuses := by
  unfold State.runTransfer
  grind [XferEnd.HasFuses, State.transferWrite_hasFuses, State.memRead_fuses, State.writeSites_fuses,
    State.setCore_boot]

theorem execTransferComplete_fuses {c : Nat} {tag : Fin 8} :
    NextFuses s.boot.fuses (execTransferComplete c tag s) := by
  unfold execTransferComplete
  split
  · refine (State.happens_fuses rfl _).mpr (someFuses_bind fun x => ?_)
    have hend := s.runTransfer_hasFuses c x
    split <;> simp_all [XferEnd.HasFuses]
  · simp

theorem execTransferErrorResponse_fuses {c : Nat} {tag : Fin 8} :
    NextFuses s.boot.fuses (execTransferErrorResponse c tag s) := by
  unfold execTransferErrorResponse
  split
  · refine (State.happens_fuses rfl _).mpr (someFuses_bind fun x => ?_)
    have hend := s.runTransfer_hasFuses c x
    split <;> simp_all [XferEnd.HasFuses]
  · simp

end

/-! Every command but the two that burn. -/

/-- The commands that burn fuses: FW_SVN_BURN and ROOT_REVOKE of the operator (R423). -/
def BurnsFuses (i : Instr) : Prop := i = .fwSvnBurn ∨ ∃ n, i = .rootRevoke n

/-- Every other command leaves the fuses as they are. -/
theorem exec_fuses (i : Instr) (s : State) (hi : ¬BurnsFuses i) : NextFuses s.boot.fuses (exec i s) := by
  cases i with
  | li | mov | movLcnt | movCount | add | sub | and | or | xor | shl | shr | sra | min | max | minu | maxu
  | seq | slt | sltu | mul | ldbind | br | brz | brnz | brlt | brltu | breq | loop | ld | ldSigned | st | ldq
  | pushq | popq | popqDrop | stq | agen | apush | xwait | xwaitAll | hslot | strk | swait | swaitRel | ward
  | endStream | popv | pushv | owait | opa | tclr | tstat | drain | vld | vst | vadd | vsub | vmul | vmin
  | vmax | vfma | viadd | vabs | vneg | vmov | vand | vor | vxor | vshl | vshr | vsra | vcmp | vsel | vrot
  | vbcast | vlane | vany | vall | vexp2 | vlog2 | vrcp | vstat | vstatClr | vcvt | vcvtMx | vcvtBfx | vext
  | vextMx | vcvtF32 | vpadd | vpfold | xclr | xrd | xrdp | xsave | xload | xaddi | xflags =>
    exact State.onInstr_fuses rfl _ _ _ _
  | dqEntryPoppable | strikeWaitComplete | accumulateAccept | accumulateFinal | drainTake | rowOperandRead
  | drainRowSample | coreQueueDeadlock | launchSlotStrike => exact State.onCore_fuses rfl _ _
  | xadd | xaddp => simp [exec, execXadd, execXaddp]
  | xget | xput | xputMc => simp [exec, execXget, execXput, execXputMc]
  | laneSpare | retrainEnd | retrainTimeout | trainingRetry | framesLocked | flitSend | flitReceive | replayTimeout
  | hello | helloSend | init | initSend | resetReq | resetReqReceive =>
    simp [exec, execLaneSpare, State.spareLane, execRetrainEnd, execRetrainTimeout, execTrainingRetry,
      execFramesLocked, execFlitSend, execFlitReceive, State.receiveFlit, execReplayTimeout, execHello,
      execHelloSend, execInit, State.initPort, execInitSend, execResetReq, State.sendResetReq, execResetReqReceive,
      State.takeResetReq, State.logResetReq]
  | get | reducePut | permutePacket | flagPacket | linkDescriptor | portCtl =>
    simp [exec, execGet, execReducePut, execPermutePacket, execFlagPacket, execLinkDescriptor, execPortCtl]
  | portSqTail => exact execPortSqTail_fuses
  | eqHead => exact execEqHead_fuses
  | put => exact execPut_fuses
  | completion => exact execCompletion_fuses
  | getRsp => exact execGetRsp_fuses
  | portRingid => exact execPortRingid_fuses
  | eqCfg | eventRecordWrite | eventInterrupt | handover | hostmem | frontEndFrame =>
    simp [exec, execEqCfg, execEventRecordWrite, State.writeRecord, execEventInterrupt, State.signal, execHandover,
      execHostmem, execFrontEndFrame]
  | rowMapUpdate | patrolScrub | rowRedirectDone | memRepair | memRepairEnd | channelRetire =>
    simp [exec, execRowMapUpdate, execPatrolScrub, execRowRedirectDone, State.redirectDone, execMemRepair,
      State.memRepair, execMemRepairEnd, State.memRepaired, execChannelRetire]
  | por | crystalWindow | crystalTimeout | xtallost | clkNodeSrc | clkNodeGate | clkNodeUngate | clockSwitchEnd
  | clkmonCtl | rowClockGate =>
    simp [exec, execPor, execCrystalWindow, execCrystalTimeout, State.endPor, execXtallost, execClkNodeSrc,
      execClkNodeGate, execClkNodeUngate, execClockSwitchEnd, execClkmonCtl, execRowClockGate]
  | resetN | managementReset | rstReq | watchdog | resetSourceRelease =>
    simp [exec, execResetN, execManagementReset, execRstReq, execWatchdog, execResetSourceRelease]
  | inputUndervoltage | inputOvervoltage | vinSenseLoss | inputRestored | vinrange | phaseFail | pwrDom | pwrCap
  | fastLoop | slowLoop | droop | droopDecay =>
    simp [exec, execInputUndervoltage, execInputOvervoltage, execVinSenseLoss, execInputRestored, execVinrange,
      execPhaseFail, State.losePhase, execPwrDom, execPwrCap, execFastLoop, execSlowLoop, State.supervise,
      State.dieWindow, State.tellDisagree, State.floorWindow, execDroop, execDroopDecay]
  | domainChangeDone => exact execDomainChangeDone_fuses
  | thermalSensorRead | controlParityError | coreLockout | repairRecordWrite | dieReturn | recoveryTimeout
  | configParityScan =>
    simp [exec, execThermalSensorRead, State.readSensor, State.trip, execControlParityError, execCoreLockout,
      execRepairRecordWrite, State.writeRepair, execDieReturn, State.returnDie, execRecoveryTimeout,
      execConfigParityScan, State.parityFound]
  | thermalLevelStep => exact execThermalLevelStep_fuses
  | dieLockout => exact execDieLockout_fuses
  | boot | fwRecover | recoveryMailbox | fwCommit | updDone | attest | attCtl | attExtend =>
    simp [exec, execBoot, State.fuseFault, execFwRecover, State.recoverBlock, execRecoveryMailbox, State.mailed,
      execFwCommit, State.fwCommit, execUpdDone, execAttest, execAttCtl, execAttExtend]
  | devidCert => exact execDevidCert_fuses
  | taskEnd | wardArrive | wardRelease | coreWindowRead | coreWindowWrite =>
    simp [exec, execTaskEnd, execWardArrive, execWardRelease, execCoreWindowRead, execCoreWindowWrite]
  | sqDb | flag | streamArm | streamRearm | streamRelease | abort =>
    simp [exec, execSqDb, execFlag, execStreamArm, execStreamRearm, execStreamRelease, State.releaseCtx, execAbort]
  | graph => exact execGraph_fuses
  | portXchna | portXchnb | channelSlotSend | epochFence | copyOut =>
    simp [exec, execPortXchna, execPortXchnb, execChannelSlotSend, execEpochFence, execCopyOut]
  | reshard => exact execReshard_fuses
  | copy | permute | gather | scatterAcc => simp [exec, execCopy, execPermute, execGather, execScatterAcc]
  | reshardComplete => exact execReshardComplete_fuses
  | transferComplete => exact execTransferComplete_fuses
  | transferErrorResponse => exact execTransferErrorResponse_fuses
  | storeCfg | armingRetry | streamRequest | requestGrant | borrowGrant | slotFillPost | slotFreePost | passStart
  | streamStall =>
    simp [exec, execStoreCfg, execArmingRetry, execStreamRequest, execRequestGrant, execBorrowGrant,
      execSlotFillPost, execSlotFreePost, execPassStart, execStreamStall]
  | strikeTick | serviceHeartbeat | taskReady | taskPlace | placeWaitExpiry | wardTaskRelease | queueDeadlock
  | cutCapture =>
    simp [exec, execStrikeTick, State.atStrike, State.settleUndo, State.bootAgain, State.watchStalls,
      State.pruneDeadlocks, execServiceHeartbeat, execTaskReady, State.makeReady, execTaskPlace, execPlaceWaitExpiry,
      execWardTaskRelease, State.releaseWardTask, execQueueDeadlock, execCutCapture]
  | taskCommit => exact execTaskCommit_fuses
  | haspForward => exact execHaspForward_fuses
  | hpostApply | sqCfg | resume | regDef | regAreaBase | regAreaSize =>
    simp [exec, execHpostApply, execSqCfg, execResume, execRegDef, execRegAreaBase, execRegAreaSize]
  | registerWrite | writeBack | fabricAccess | cblPrsntN | dynamicAddress | rstdaa | extest | trstN =>
    simp [exec, execRegisterWrite, execWriteBack, execFabricAccess, execCblPrsntN, State.cableMoved,
      execDynamicAddress, execRstdaa, execExtest, State.loadExtest, execTrstN]
  | regLock => exact execRegLock_fuses
  | drainRowWrite => exact execDrainRowWrite_fuses
  | granuleMigrated | channelRetired | resetRelease | domainOnTimeout | bankSpareDone | validClear =>
    dsimp only [exec, execGranuleMigrated, execChannelRetired, execResetRelease, execDomainOnTimeout,
      execBankSpareDone, execValidClear]
    split <;> simp [State.firstGroup, State.releaseEpisode, State.domainLeftOff]
  | hwait | hpost | scancel | srearm | beatEdgeEntry =>
    dsimp only [exec, execHwait, execHpost, execScancel, execSrearm, execBeatEdgeEntry]
    split
    · split <;> simp [State.cancel]
    · simp
  | fwSvnBurn => exact absurd (.inl rfl) hi
  | rootRevoke n => exact absurd (.inr ⟨n, rfl⟩) hi

/-! The two commands that burn. A burn is a bitwise or, so it clears nothing (R423). -/

/-- What burning may do to the fuses: set bits of MIN_SVN and of ROOT_REVOKE, and nothing else. -/
structure Fuses.Grows (f g : Fuses) : Prop where
  minSvn : ∀ n, f.minSvn.getLsbD n = true → g.minSvn.getLsbD n = true
  rootRevoke : ∀ n, f.rootRevoke.getLsbD n = true → g.rootRevoke.getLsbD n = true
  rest : g = { f with minSvn := g.minSvn, rootRevoke := g.rootRevoke }

/-- MIN_SVN with its bits below the given SVN burnt. -/
def Fuses.raiseSvn (f : Fuses) (svn : Nat) : Fuses :=
  { f with minSvn := f.minSvn ||| BitVec.ofNat 64 (2 ^ svn - 1) }

/-- A root key slot revoked. -/
def Fuses.revoke (f : Fuses) (slot : Nat) : Fuses := { f with rootRevoke := f.rootRevoke ||| (1 <<< slot) }

theorem Fuses.grows_refl (f : Fuses) : f.Grows f := ⟨fun _ h => h, fun _ h => h, rfl⟩

theorem Fuses.grows_raiseSvn (f : Fuses) (svn : Nat) : f.Grows (f.raiseSvn svn) :=
  ⟨fun n h => by simp [Fuses.raiseSvn, h], fun _ h => h, rfl⟩

theorem Fuses.grows_revoke (f : Fuses) (slot : Nat) : f.Grows (f.revoke slot) :=
  ⟨fun _ h => h, fun n h => by simp [Fuses.revoke, h], rfl⟩

theorem Fuses.getLsbD_raiseSvn (f : Fuses) {svn : Nat} (hsvn : svn ≤ 63) (n : Nat) :
    (f.raiseSvn svn).minSvn.getLsbD n = (f.minSvn.getLsbD n || decide (n < svn)) := by
  have hlow : (decide (n < 64) && decide (n < svn)) = decide (n < svn) := by grind
  simp [Fuses.raiseSvn, BitVec.getLsbD_ofNat, Nat.testBit_two_pow_sub_one, hlow]

/-- The bits of MIN_SVN below the SVN are burnt, and there are as many as the SVN says. -/
theorem Fuses.le_svnBurnt_raiseSvn (f : Fuses) {svn : Nat} (hsvn : svn ≤ 63) : svn ≤ (f.raiseSvn svn).svnBurnt := by
  have hburnt : (List.range svn).filter (fun n => bit (f.raiseSvn svn).minSvn n) = List.range svn :=
    List.filter_eq_self.mpr fun n hn => by simp [bit, f.getLsbD_raiseSvn hsvn, List.mem_range.mp hn]
  have hsub : (List.range svn).Sublist (List.range 64) := List.range_sublist.mpr (by omega)
  calc svn = ((List.range svn).filter (fun n => bit (f.raiseSvn svn).minSvn n)).length := by simp [hburnt]
    _ ≤ (f.raiseSvn svn).svnBurnt := (hsub.filter _).length_le

section
variable {s : State}

theorem State.svnBurn_refused {i : Image} (hupdate : s.boot.update = none) (himage : s.boot.image = some i)
    (hrec : i.recovery = true) : s.svnBurn = s.answer .refused := by
  simp [State.svnBurn, hupdate, himage, hrec]

theorem State.svnBurn_burns {i : Image} (hupdate : s.boot.update = none) (himage : s.boot.image = some i)
    (hrec : i.recovery = false) : s.svnBurn = (s.burn (s.boot.fuses.raiseSvn i.svn)).answer .ok := by
  simp [State.svnBurn, hupdate, himage, hrec, Fuses.raiseSvn]

/-- ROOT_REVOKE spares the slot in use, and the last slot that is not revoked. -/
theorem State.revokeRoot_refused {slot : Nat}
    (h : (∃ i, s.boot.image = some i ∧ i.root = slot) ∨ s.boot.fuses.rootRevoke.getLsbD (1 - slot) = true) :
    s.revokeRoot slot = s.answer .refused := by
  have hspared : (s.boot.image.any (fun i => i.root == slot) || bit s.boot.fuses.rootRevoke (1 - slot)) = true := by
    simpa [bit, Option.any_eq_true] using h
  simp [State.revokeRoot, hspared]

theorem State.revokeRoot_burns {slot : Nat} (hroot : ∀ i, s.boot.image = some i → i.root ≠ slot)
    (hother : s.boot.fuses.rootRevoke.getLsbD (1 - slot) = false) :
    s.revokeRoot slot = (s.burn (s.boot.fuses.revoke slot)).answer .ok := by
  have hfree : (s.boot.image.any (fun i => i.root == slot) || bit s.boot.fuses.rootRevoke (1 - slot)) = false := by
    simpa [bit, Option.any_eq_false] using And.intro hroot hother
  simp [State.revokeRoot, hfree, Fuses.revoke]

theorem State.svnBurn_grows : s.boot.fuses.Grows s.svnBurn.boot.fuses := by
  unfold State.svnBurn
  split
  · exact Fuses.grows_refl _
  · split
    · exact Fuses.grows_refl _
    · split
      · exact Fuses.grows_refl _
      · exact Fuses.grows_raiseSvn _ _

theorem State.revokeRoot_grows (slot : Nat) : s.boot.fuses.Grows (s.revokeRoot slot).boot.fuses := by
  unfold State.revokeRoot
  dsimp only
  split
  · exact Fuses.grows_refl _
  · exact Fuses.grows_revoke _ _

theorem State.managed_grows {b t : State} (hb : s.boot.fuses.Grows b.boot.fuses) (h : s.managed b = .next t) :
    s.boot.fuses.Grows t.boot.fuses := by
  obtain rfl := Host.Outcome.next.inj h
  split
  · split
    · exact Fuses.grows_refl _
    · exact hb
  · exact Fuses.grows_refl _

theorem exec_grows {i : Instr} {t : State} (h : exec i s = .next t) : s.boot.fuses.Grows t.boot.fuses := by
  by_cases hi : BurnsFuses i
  · obtain rfl | ⟨slot, rfl⟩ := hi
    · exact State.managed_grows State.svnBurn_grows h
    · exact State.managed_grows (State.revokeRoot_grows slot.val) h
  · rw [exec_fuses i s hi t h]
    exact Fuses.grows_refl _

end

/-! The obligation. -/

/-- FW_SVN_BURN and ROOT_REVOKE do what R423 says. -/
theorem fuseBurns : Claims.FuseBurns := by
  intro s hs
  have hsvn : exec .fwSvnBurn s = .next s.svnBurn := s.managed_up _ hs
  have hrevoke : ∀ n : Fin 2, exec (.rootRevoke n) s = .next (s.revokeRoot n.val) := fun n => s.managed_up _ hs
  refine ⟨fun i hupdate himage => ⟨fun hrec => ?_, fun hrec hmax => ?_⟩,
    fun n => ⟨fun hspared => ?_, fun hroot hother => ?_⟩⟩
  · rw [hsvn, State.svnBurn_refused hupdate himage hrec]
    rfl
  · refine ⟨_, hsvn, ?_⟩
    rw [State.svnBurn_burns hupdate himage hrec]
    exact ⟨rfl, rfl, s.boot.fuses.getLsbD_raiseSvn hmax, s.boot.fuses.le_svnBurnt_raiseSvn hmax⟩
  · rw [hrevoke, State.revokeRoot_refused hspared]
    rfl
  · rw [hrevoke, State.revokeRoot_burns hroot hother]
    rfl

/-- A step lets the clock run, or takes a command off the queue and answers it; the command alone can burn. -/
theorem fuseBitsStay : Claims.FuseBitsStay := by
  intro s t h
  unfold step at h
  split at h
  · obtain rfl := Host.Outcome.next.inj h
    exact ⟨fun _ h => h, fun _ h => h, rfl, fun h => absurd rfl h⟩
  · next i rest hpending =>
    have hgrows : s.boot.fuses.Grows t.boot.fuses := exec_grows (s := { s with pending := rest }) h
    refine ⟨hgrows.minSvn, hgrows.rootRevoke, hgrows.rest, fun hne => ⟨i, by simp [hpending], ?_⟩⟩
    by_contra hi
    exact hne (exec_fuses i { s with pending := rest } hi t h)

/-- Settles O53: what the two commands burn, and that every other command leaves the fuses as they are. -/
theorem fusesOnlyGrow : Obligations.FusesOnlyGrow := by
  unfold Obligations.FusesOnlyGrow
  exact ⟨fuseBurns, fuseBitsStay⟩

end Sys2Proof.Machine
end

section
/-! PROOF. O56: a write-back clears what its SEQ value covers and nothing else, for every status register with SC fields
(R446) and for the violation logs (R416).

The parts: what a write-back does to SC fields; which addresses name a register; what `State.clearReg` leaves; one lemma
per status register, which says that a write-back at its address reaches its own fields. -/

namespace Sys2Proof.Machine

open Sys2Proof

/-! SC fields (R445, R446). -/

/-- What the model clears is what R446 says. -/
theorem Sc.clears_iff (seq w tag : BitVec 8) :
    Sc.clears seq w tag = true ↔ (seq - w).toNat < 128 ∧ (seq - w).toNat ≤ (seq - tag).toNat := by
  rw [Sc.clears, Bool.and_eq_true, decide_eq_true_eq, decide_eq_true_eq]
  rfl

@[simp] theorem Sc.writeBack_seq (x : Sc) (w : BitVec 8) : (x.writeBack w).seq = x.seq := rfl

/-- The fields that a write-back leaves set are those that it does not clear. -/
theorem Sc.has_writeBack (x : Sc) (w : BitVec 8) (b : Nat) :
    (x.writeBack w).has b = true ↔ ∃ t ∈ x.tags, t.1 = b ∧ ¬Sc.clears x.seq w t.2 = true := by
  simp [Sc.has, Sc.writeBack, and_comm]

@[simp] theorem Sc.event_seq (y : Sc) (b : Nat) : (y.event b).seq = y.seq + 1 := rfl

/-- After an event every field has a tag it had before, kept within 127 of SEQ, but the field of the event, whose tag is
SEQ. -/
theorem Sc.mem_event_tags (y : Sc) (b : Nat) (t : Nat × BitVec 8) :
    t ∈ (y.event b).tags
      ↔ (∃ u ∈ y.tags, u.1 ≠ b ∧ t = (u.1, Sc.keep (y.seq + 1) u.2)) ∨ t = (b, y.seq + 1) := by
  simp only [Sc.event, List.mem_append, List.mem_map, List.mem_filter, List.mem_singleton, bne_iff_ne, and_assoc,
    eq_comm (a := t)]

/-- A tag kept lags SEQ by at most 127 (R445). -/
theorem Sc.age_keep_le (seq tag : BitVec 8) : (seq - Sc.keep seq tag).toNat ≤ 127 := by
  unfold Sc.keep Sc.age
  split
  · assumption
  · bv_omega

/-- A tag within 127 of SEQ lies behind the next SEQ, and stays behind it when it is kept. -/
theorem Sc.keep_behind {seq tag : BitVec 8} (h : (seq - tag).toNat ≤ 127) :
    1 ≤ (seq + 1 - Sc.keep (seq + 1) tag).toNat := by
  unfold Sc.keep Sc.age
  split <;> bv_omega

theorem Sc.event_tags_le (y : Sc) (b : Nat) : ∀ t ∈ (y.event b).tags, ((y.event b).seq - t.2).toNat ≤ 127 := by
  intro t ht
  obtain ⟨u, _, _, rfl⟩ | rfl := (Sc.mem_event_tags y b t).mp ht
  · exact Sc.age_keep_le _ _
  · simp

/-- The SEQ value read before an event lies one behind. -/
theorem Sc.event_seq_sub (y : Sc) (b : Nat) : ((y.event b).seq - y.seq).toNat = 1 := by
  rw [Sc.event_seq]
  bv_omega

/-- A write-back of the SEQ value read before an event clears the tags that lie behind the new SEQ. -/
theorem Sc.event_clears_iff (y : Sc) (b : Nat) (tag : BitVec 8) :
    Sc.clears (y.event b).seq y.seq tag = true ↔ 1 ≤ ((y.event b).seq - tag).toNat := by
  rw [Sc.clears_iff, Sc.event_seq_sub]
  exact and_iff_right (by decide)

/-- A write-back of the SEQ value read before an event leaves the field of the event set. -/
theorem Sc.event_writeBack_has (y : Sc) (b : Nat) : ((y.event b).writeBack y.seq).has b = true := by
  refine (Sc.has_writeBack _ _ _).mpr ⟨(b, y.seq + 1), (Sc.mem_event_tags y b _).mpr (.inr rfl), rfl, ?_⟩
  rw [Sc.event_clears_iff, Sc.event_seq, BitVec.sub_self]
  decide

/-- A write-back of the SEQ value read before an event clears every field but that of the event. -/
theorem Sc.event_writeBack_clears {y : Sc} (b : Nat) (hy : ∀ t ∈ y.tags, (y.seq - t.2).toNat ≤ 127) {f : Nat}
    (hf : f ≠ b) : ((y.event b).writeBack y.seq).has f = false := by
  rw [← Bool.not_eq_true, Sc.has_writeBack]
  rintro ⟨t, ht, rfl, hkept⟩
  obtain ⟨u, hu, _, rfl⟩ | rfl := (Sc.mem_event_tags y b t).mp ht
  · exact hkept ((Sc.event_clears_iff y b _).mpr (Sc.keep_behind (hy u hu)))
  · exact hf rfl

/-! Violation logs (R416). -/

@[simp] theorem Vlog.writeBack_sc (l : Vlog) (w : BitVec 8) : (l.writeBack w).sc = l.sc.writeBack w := rfl

theorem Vlog.writeBack_sublist (l : Vlog) (w : BitVec 8) : List.Sublist (l.writeBack w).entries l.entries :=
  List.filter_sublist

theorem Vlog.mem_writeBack_entries (l : Vlog) (w : BitVec 8) (e : VlogEntry) :
    e ∈ (l.writeBack w).entries ↔ e ∈ l.entries ∧ ¬Sc.clears l.sc.seq w e.tag = true := by
  simp [Vlog.writeBack]

/-! Addresses of registers (R341, R450). -/

/-- A register lies at an offset of a die: in one of the die's blocks. -/
structure RegAt (die off : Nat) : Prop where
  die_exists : dieExists die = true
  offset : off < 2 ^ 32
  block : ∃ b ∈ regBlocks die, b.1 ≤ off ∧ off < b.1 + b.2

theorem lt_of_dieExists {d : Nat} (h : dieExists d = true) : d < 64 := by
  simp only [dieExists, decide_eq_true_eq] at h
  omega

theorem State.poolStart_le (s : State) : s.poolStart ≤ storeEnd := Nat.sub_le _ _

theorem RegAt.bounds {die off : Nat} (h : RegAt die off) :
    regBase ≤ regAddr die off ∧ regAddr die off < regBase + 64 * 2 ^ 32 := by
  have hdie := lt_of_dieExists h.die_exists
  have hoff := h.offset
  unfold regAddr
  omega

theorem RegAt.inRegSpace {die off : Nat} (h : RegAt die off) : inRegSpace (regAddr die off) = true :=
  decide_eq_true h.bounds

/-- The address of a register leads to that register: register space lies past external memory, the central store and
the core windows. -/
theorem State.target_regAddr (s : State) {die off : Nat} (h : RegAt die off) :
    s.target (regAddr die off) = .reg die off := by
  have hspace := h.bounds
  have hpool := s.poolStart_le
  have hoff := h.offset
  have hblock : (regBlocks die).any (fun b => decide (b.1 ≤ off ∧ off < b.1 + b.2)) = true := by
    simpa using h.block
  have hdie : (regAddr die off - regBase) / 2 ^ 32 = die := by unfold regAddr; omega
  have hrest : (regAddr die off - regBase) % 2 ^ 32 = off := by unfold regAddr; omega
  unfold State.target
  rw [if_neg, if_neg, if_neg, if_pos hspace]
  · simp only [hdie, hrest, h.die_exists, hblock, Bool.and_self, if_true]
  all_goals
    simp only [regBase, extEnd, storeBase, storeEnd, windowBase] at *
    omega

/-- WRITE_BACK to an open register clears there and answers DONE. -/
theorem exec_writeBack_open {s : State} {o : Origin} {die off : Nat} (v : BitVec 64) (h : RegAt die off)
    (hopen : s.regOpen o (regAddr die off) true) :
    exec (.writeBack o (regAddr die off) v) s = .next ((s.clearReg die off v).respond .done) := by
  show execWriteBack o (regAddr die off) v s = _
  rw [execWriteBack, if_pos h.inRegSpace, State.onWrite_open s o _ _ hopen, State.putBack, State.target_regAddr s h]

/-! What `State.clearReg` leaves unchanged. -/

@[simp] theorem State.clearReg_mem (s : State) (d o : Nat) (v : Word) : (s.clearReg d o v).mem = s.mem := by
  simp [State.clearReg, State.clearHelm, State.clearService, apply_ite State.mem]

@[simp] theorem State.clearReg_cores (s : State) (d o : Nat) (v : Word) : (s.clearReg d o v).cores = s.cores := by
  simp [State.clearReg, State.clearHelm, State.clearService, apply_ite State.cores]

@[simp] theorem State.setEq_mlog (s : State) (e : Nat) (q : EventQueue) : (s.setEq e q).logs.mlog = s.logs.mlog := rfl

@[simp] theorem State.setVlog_mlog (s : State) (d : Nat) (l : Vlog) : (s.setVlog d l).logs.mlog = s.logs.mlog := rfl

@[simp] theorem State.clearReg_mlog (s : State) (d o : Nat) (v : Word) :
    (s.clearReg d o v).logs.mlog = s.logs.mlog := by
  simp [State.clearReg, State.clearHelm, State.clearService, apply_ite (fun t : State => t.logs.mlog)]

/-! Which unit `State.clearReg` reaches. -/

/-- The SEQ value that a word writes back (R445). -/
def writtenSeq (v : Word) : BitVec 8 := BitVec.ofNat 8 (bits v 56 8)

theorem State.clearReg_vlog (s : State) (d : Nat) (v : Word) :
    s.clearReg d 0x0E0000 v = s.setVlog d ((s.vlog d).writeBack (writtenSeq v)) := by
  rw [State.clearReg, if_pos rfl]
  rfl

theorem State.clearReg_helm (s : State) {o : Nat} (v : Word) (ho : o ≠ 0x0E0000) :
    s.clearReg 56 o v = s.clearHelm o (writtenSeq v) := by
  simp [State.clearReg, writtenSeq, ho]

theorem State.clearReg_service (s : State) {o : Nat} (v : Word) (ho : o ≠ 0x0E0000) :
    s.clearReg 60 o v = s.clearService o (writtenSeq v) := by
  simp [State.clearReg, writtenSeq, ho]

/-- The SC fields that f reads are those of the register at an address: a write-back there is one to them. -/
def ReadsFieldsAt (a : Nat) (f : State → Sc) : Prop :=
  ∃ die off, a = regAddr die off ∧ RegAt die off
    ∧ ∀ (s : State) (v : Word), f ((s.clearReg die off v).respond .done) = (f s).writeBack (writtenSeq v)

theorem eqStatus_readsFieldsAt {e : Nat} (he : e < 256) : ReadsFieldsAt (eqAddr e 0x20) (fun s => (s.eq e).sc) := by
  refine ⟨56, _, rfl, ⟨by decide, by omega, (0x200000, 0x4000), by decide, by omega, by omega⟩, fun s v => ?_⟩
  have hindex : (0x200000 + 0x40 * e + 0x20 - 0x200000) / 0x40 = e := by omega
  rw [State.clearReg_helm s v (by omega), State.clearHelm, if_pos (by omega)]
  simp only [hindex]
  exact congrArg EventQueue.sc (State.eq_setEq s e _)

theorem sqStatus_readsFieldsAt {q : Nat} (hq : q < 4096) : ReadsFieldsAt (sqAddr q 0x18) (fun s => (s.sq q).sc) := by
  refine ⟨56, _, rfl, ⟨by decide, by omega, (0x300000, 0x40000), by decide, by omega, by omega⟩, fun s v => ?_⟩
  have hindex : (0x300000 + 0x40 * q + 0x18 - 0x300000) / 0x40 = q := by omega
  rw [State.clearReg_helm s v (by omega), State.clearHelm, if_neg (by omega), if_pos (by omega)]
  simp only [hindex]
  exact congrArg Sq.sc (State.sq_setSq s q _)

theorem regionStatus_readsFieldsAt {r : Nat} (hr : r < 64) :
    ReadsFieldsAt (regionAddr r 0x18) (fun s => (s.region r).sc) := by
  refine ⟨56, _, rfl, ⟨by decide, by omega, (0x400000, 0x1000), by decide, by omega, by omega⟩, fun s v => ?_⟩
  have hindex : (0x400000 + 0x40 * r + 0x18 - 0x400000) / 0x40 = r := by omega
  rw [State.clearReg_helm s v (by omega), State.clearHelm, if_neg (by omega), if_neg (by omega), if_pos (by omega)]
  simp only [hindex]
  exact congrArg Region.sc (State.region_setRegion s r _)

theorem storeStatus_readsFieldsAt (d : Fin 8) :
    ReadsFieldsAt (regAddr (16 + d.val) 0x0F0010) (fun s => Assoc.get {} s.store.sc d.val) := by
  have hplace : dieExists (16 + d.val) = true ∧ (0x0F0000, 0x110) ∈ regBlocks (16 + d.val) := by decide +revert
  refine ⟨_, _, rfl, ⟨hplace.1, by omega, _, hplace.2, by omega, by omega⟩, fun s v => ?_⟩
  rw [State.clearReg, if_neg (by omega), if_pos (by omega), Nat.add_sub_cancel_left]
  exact Assoc.get_set_same _ _ _ _

theorem portStatus_readsFieldsAt (p : Fin 8) :
    ReadsFieldsAt (portAddr p.val 0x10) (fun s => (s.lport p.val).sc) := by
  have hplace : dieExists (linkDie p.val) = true ∧ (0x100000, 0x4000) ∈ regBlocks (linkDie p.val) := by decide +revert
  refine ⟨_, _, rfl, ⟨hplace.1, by omega, _, hplace.2, by omega, by omega⟩, fun s v => ?_⟩
  have hindex : 4 * (linkDie p.val - 48) + (0x100000 + p.val % 4 * 0x1000 + 0x10 - 0x100000) / 0x1000 = p.val := by
    unfold linkDie
    omega
  have hdie : linkDie p.val = 48 ∨ linkDie p.val = 49 := by
    unfold linkDie
    omega
  rw [State.clearReg, if_neg (by omega), if_neg (by omega), if_neg (by omega), if_pos ⟨hdie, by omega, by omega⟩]
  simp only [hindex]
  exact congrArg Port.sc (State.lport_setLport s p.val _)

theorem chanStatus_readsFieldsAt (m : Fin 16) (n : Fin 24) :
    ReadsFieldsAt (regAddr (32 + m.val) (0x100000 + 0x40 * n.val)) (fun s => (s.chan (16 * n.val + m.val)).sc) := by
  have hplace : dieExists (32 + m.val) = true ∧ (0x100000, 0x600) ∈ regBlocks (32 + m.val) := by decide +revert
  refine ⟨_, _, rfl, ⟨hplace.1, by omega, _, hplace.2, by omega, by omega⟩, fun s v => ?_⟩
  have hindex : 16 * ((0x100000 + 0x40 * n.val - 0x100000) / 0x40) + (32 + m.val - 32) = 16 * n.val + m.val := by omega
  rw [State.clearReg, if_neg (by omega), if_neg (by omega), if_pos (by omega)]
  simp only [hindex]
  exact congrArg MemChannel.sc (State.chan_setChan s _ _)

theorem clockStatus_readsFieldsAt : ReadsFieldsAt (regAddr 60 0x300200) (fun s => s.clock.sc) := by
  refine ⟨_, _, rfl, ⟨by decide, by decide, (0x300000, 0x210), by decide, by decide, by decide⟩, fun s v => ?_⟩
  rw [State.clearReg_service s v (by decide), State.clearService, if_pos rfl]
  rfl

theorem powerStatus_readsFieldsAt : ReadsFieldsAt (regAddr 60 0x320010) (fun s => s.power.sc) := by
  refine ⟨_, _, rfl, ⟨by decide, by decide, (0x320000, 0x1E0), by decide, by decide, by decide⟩, fun s v => ?_⟩
  rw [State.clearReg_service s v (by decide), State.clearService, if_neg (by decide), if_pos rfl]
  rfl

theorem bootStatus_readsFieldsAt : ReadsFieldsAt (regAddr 60 0x340000) (fun s => s.boot.sc) := by
  refine ⟨_, _, rfl, ⟨by decide, by decide, (0x340000, 0x210), by decide, by decide, by decide⟩, fun s v => ?_⟩
  rw [State.clearReg_service s v (by decide), State.clearService, if_neg (by decide), if_neg (by decide), if_pos rfl]
  rfl

/-- Every status register with SC fields is reached at its address. -/
theorem statusRegs_readsFieldsAt {e q r : Nat} (he : e < 256) (hq : q < 4096) (hr : r < 64) (d p : Fin 8) (m : Fin 16)
    (n : Fin 24) : ∀ row ∈ statusRegs e q r d p m n, ReadsFieldsAt row.1 row.2 := by
  simp only [statusRegs, List.forall_mem_cons, List.not_mem_nil, false_implies, implies_true, and_true]
  exact ⟨eqStatus_readsFieldsAt he, sqStatus_readsFieldsAt hq, regionStatus_readsFieldsAt hr,
    storeStatus_readsFieldsAt d, portStatus_readsFieldsAt p, chanStatus_readsFieldsAt m n, clockStatus_readsFieldsAt,
    powerStatus_readsFieldsAt, bootStatus_readsFieldsAt⟩

theorem vlogStatus_regAt {d : Nat} (hd : dieExists d = true) : RegAt d 0x0E0000 :=
  ⟨hd, by decide, (0x0E0000, 0x300), List.mem_cons_self, by decide, by decide⟩

/-! The obligation. -/

/-- Settles O56: each status register and violation log is reached at its own address, and loses what R446 says. -/
theorem statusWriteBack : Obligations.StatusWriteBack := by
  unfold Obligations.StatusWriteBack Claims.StatusWriteBack
  dsimp only
  simp only [← Sc.clears_iff]
  refine ⟨fun s o v e q r d p m n he hq hr row hrow hopen => ?_, fun s o v d hd hopen => ?_, fun y b hy => ?_⟩
  · obtain ⟨die, off, haddr, hreg, hfields⟩ := statusRegs_readsFieldsAt he hq hr d p m n row hrow
    rw [haddr] at hopen ⊢
    refine ⟨_, exec_writeBack_open v hreg hopen, ?_⟩
    rw [hfields]
    exact ⟨rfl, Sc.has_writeBack _ _, s.clearReg_mem die off v, s.clearReg_cores die off v, s.clearReg_mlog die off v⟩
  · have hlog : ((s.clearReg d 0x0E0000 v).respond .done).vlog d = (s.vlog d).writeBack (writtenSeq v) := by
      rw [State.clearReg_vlog]
      exact State.vlog_setVlog s d _
    have hothers : ∀ k, k ≠ d → ((s.clearReg d 0x0E0000 v).respond .done).vlog k = s.vlog k := fun k hk => by
      rw [State.clearReg_vlog]
      exact State.vlog_setVlog_other s _ hk
    refine ⟨_, exec_writeBack_open v (vlogStatus_regAt hd) hopen, ?_⟩
    rw [hlog]
    exact ⟨rfl, Vlog.writeBack_sublist _ _, Vlog.mem_writeBack_entries _ _, Sc.has_writeBack _ _, hothers,
      s.clearReg_mem d _ v, s.clearReg_cores d _ v, s.clearReg_mlog d _ v⟩
  · exact ⟨rfl, Sc.event_tags_le y b, Sc.event_writeBack_has y b, fun f hf => Sc.event_writeBack_clears b hy hf⟩

end Sys2Proof.Machine
end


section
/-! PROOF. O60: a step serves the queue of commands in order and keeps memory in canonical form.

No operation touches the queue: `step` alone takes its front command off. So the two parts of the statement are one
frame, said once for each operation: most leave both the queue and memory as they are (`State.X_still`),
  and the others
write memory byte by byte, which keeps its form (`State.X_keeps`). The commands follow (`exec_keeps`). -/

namespace Sys2Proof.Machine

open Sys2Proof

/-- The queue and memory of a state are those of an earlier one. -/
@[reducible, simp] def State.Still (t s : State) : Prop := t.pending = s.pending ∧ t.mem = s.mem

/-- A queue that is that of an earlier state, and a memory in canonical form if the earlier one was. -/
structure Kept (s₀ : State) (queue : List Instr) (mem : Assoc Byte) : Prop where
  queue : queue = s₀.pending
  form : Memory.wf s₀.mem = true → Memory.wf mem = true

/-- A state whose queue is that of an earlier state,
  and whose memory is in canonical form if the earlier one was. -/
@[reducible, simp] def State.Keeps (t s₀ : State) : Prop := Kept s₀ t.pending t.mem

@[simp] theorem State.keeps_refl (s : State) : s.Keeps s := ⟨rfl, id⟩

/-- What leaves the queue and memory of a state keeps what that state keeps. -/
theorem State.Still.keeps {s₀ s t : State} (ht : t.Still s) (hs : s.Keeps s₀) : t.Keeps s₀ := by
  simpa [ht.1, ht.2] using hs

@[simp] theorem pending_ite (p : Prop) [Decidable p] (a b : State) :
    (if p then a else b).pending = if p then a.pending else b.pending := apply_ite State.pending p a b

@[simp] theorem mem_ite_eq (p : Prop) [Decidable p] (a b : State) :
    (if p then a else b).mem = if p then a.mem else b.mem := apply_ite State.mem p a b

/-- A fold of updates that each leave the queue and memory leaves them. -/
@[simp] theorem foldl_still {β : Type} (f : State → β → State) (l : List β) (s : State)
    (hf : ∀ s x, (f s x).Still s) : (l.foldl f s).Still s := by
  induction l generalizing s with
  | nil => exact ⟨rfl, rfl⟩
  | cons x l ih =>
    obtain ⟨hpending, hmem⟩ := ih (f s x)
    exact ⟨hpending.trans (hf s x).1, hmem.trans (hf s x).2⟩

section
variable {s₀ : State}

@[simp] theorem kept_ite (p : Prop) [Decidable p] (a b : List Instr) (x y : Assoc Byte) :
    Kept s₀ (if p then a else b) (if p then x else y) ↔ if p then Kept s₀ a x else Kept s₀ b y := by split <;> rfl

/-- A fold of updates that each keep the queue and the form of memory keeps them. -/
theorem foldl_keeps {β : Type} {f : State → β → State} (hf : ∀ s x, s.Keeps s₀ → (f s x).Keeps s₀) (l : List β)
    {s : State} (h : s.Keeps s₀) : (l.foldl f s).Keeps s₀ := by
  induction l generalizing s with
  | nil => exact h
  | cons x l ih => exact ih (hf s x h)

/-- The state that a pair names is still as the pair's state. -/
theorem still_of_fst {α : Type} {p : State × α} {t : State} {x : α} (h : p = (t, x)) : t.Still p.1 := by simp [h]

/-! Outcomes: the state that an event makes, and the next state that a command answers. -/

/-- The state that an event makes, if it happens, keeps the queue and the form of memory. -/
def SomeKeeps (s₀ : State) (o : Option State) : Prop := ∀ t, o = some t → t.Keeps s₀

/-- The next state that a command answers, if any, keeps the queue and the form of memory. -/
def NextKeeps (s₀ : State) (o : Out) : Prop := ∀ t, o = .next t → t.Keeps s₀

@[simp] theorem someKeeps_none : SomeKeeps s₀ none := fun _ h => by cases h

@[simp] theorem someKeeps_some (t : State) : SomeKeeps s₀ (some t) ↔ t.Keeps s₀ := by simp [SomeKeeps]

@[simp] theorem someKeeps_ite (p : Prop) [Decidable p] (a b : Option State) :
    SomeKeeps s₀ (if p then a else b) ↔ if p then SomeKeeps s₀ a else SomeKeeps s₀ b := by split <;> rfl

@[simp] theorem someKeeps_bind {α : Type} {o : Option α} {g : α → Option State} (h : ∀ a, SomeKeeps s₀ (g a)) :
    SomeKeeps s₀ (o.bind g) := by
  cases o with
  | none => exact someKeeps_none
  | some a => exact h a

@[simp] theorem someKeeps_map {α : Type} {o : Option α} {g : α → State} (h : ∀ a, (g a).Keeps s₀) :
    SomeKeeps s₀ (o.map g) := by
  cases o with
  | none => exact someKeeps_none
  | some a => exact (someKeeps_some _).mpr (h a)

@[simp] theorem nextKeeps_next (t : State) : NextKeeps s₀ (.next t) ↔ t.Keeps s₀ := by simp [NextKeeps]

@[simp] theorem nextKeeps_fault (x : Fault) : NextKeeps s₀ (.fault x) := fun _ h => by cases h

@[simp] theorem nextKeeps_refused (x : Refusal) : NextKeeps s₀ (.refused x) := fun _ h => by cases h

@[simp] theorem nextKeeps_ite (p : Prop) [Decidable p] (a b : Out) :
    NextKeeps s₀ (if p then a else b) ↔ if p then NextKeeps s₀ a else NextKeeps s₀ b := by split <;> rfl

end

section
variable (s : State) {s₀ : State}

@[simp] theorem State.setByte_keeps (a : Nat) (b : Byte) (h : s.Keeps s₀) : (s.setByte a b).Keeps s₀ :=
  ⟨by rw [← h.queue]; unfold State.setByte; split <;> rfl, fun w => State.wf_setByte s a b (h.form w)⟩

/-! The frame of each operation. First the flags, and the bytes of the module. -/

@[simp] theorem State.applyFlag_still (op n : Nat) (v : Word) : (s.applyFlag op n v).Still s := by
  unfold State.applyFlag
  split <;> simp

@[simp] theorem State.applyFlags_still (fs : List FlagOp) : (s.applyFlags fs).Still s := by
  simp [State.applyFlags]

@[simp] theorem State.putBytes_keeps (a : Nat) (bs : List Byte) (h₀ : s.Keeps s₀) : (s.putBytes a bs).Keeps s₀ :=
  foldl_keeps (fun s w h => State.setByte_keeps s w.1 w.2 h) _ h₀

/-! Cores, the bursts of external memory and the lines of the stores. -/

@[simp] theorem State.retire_still (c : Nat) : (s.retire c).Still s := by simp [State.retire]

@[simp] theorem State.weakRow_still (a : Nat) : (s.weakRow a).Still s := by simp [State.weakRow]

@[simp] theorem State.correctBurst_still (b : Nat) : (s.correctBurst b).Still s := by
  unfold State.correctBurst
  dsimp only
  repeat' split
  all_goals simp

@[simp] theorem State.poisonBurst_still (b : Nat) : (s.poisonBurst b).Still s := by
  simp [State.poisonBurst]

@[simp] theorem State.readBurst_still (b : Nat) : (s.readBurst b).1.Still s := by
  unfold State.readBurst
  repeat' split
  all_goals simp

@[simp] theorem State.readBursts_still (bs : List Nat) : (s.readBursts bs).1.Still s := by
  induction bs generalizing s with
  | nil => exact ⟨rfl, rfl⟩
  | cons b bs ih => grind [State.readBursts, State.readBurst_still]

@[simp] theorem State.extWrite_keeps (a : Nat) (bs : List Byte) (h₀ : s.Keeps s₀) : (s.extWrite a bs).Keeps s₀ := by
  simp [State.extWrite, h₀]

@[simp] theorem State.spareBank_still (bank : Nat) : (s.spareBank bank).Still s := by
  simp [State.spareBank]

@[simp] theorem State.correctLine_still (l : Nat) : (s.correctLine l).Still s := by
  simp [State.correctLine]

@[simp] theorem State.poisonLine_still (l : Nat) : (s.poisonLine l).Still s := by
  simp [State.poisonLine]

@[simp] theorem State.readLines_still (ls : List Nat) : (s.readLines ls).1.Still s := by
  induction ls generalizing s with
  | nil => exact ⟨rfl, rfl⟩
  | cons l ls ih => grind [State.readLines, State.poisonLine_still, State.correctLine_still]

@[simp] theorem State.storeWrite_keeps (a : Nat) (bs : List Byte) (h₀ : s.Keeps s₀) :
    (s.storeWrite a bs).Keeps s₀ := by simp [State.storeWrite, h₀]

@[simp] theorem State.veil_still (a : Nat) (bs : List Byte) : (s.veil a bs).1.Still s := by
  unfold State.veil
  dsimp only
  split <;> simp

@[simp] theorem State.memRead_still (a n : Nat) : (s.memRead a n).1.Still s := by
  unfold State.memRead
  split <;> grind [State.veil_still, State.readBursts_still, State.readLines_still, State.setCore_pending,
    State.setCore_mem]

theorem State.memWrite_keeps {s t : State} {a : Nat} {bs : List Byte} (h : s.memWrite a bs = some t) (h₀ : s.Keeps s₀) :
    t.Keeps s₀ := by
  unfold State.memWrite at h
  grind [Option.map_eq_some_iff, State.extWrite_keeps, State.storeWrite_keeps, State.setCore_pending,
    State.setCore_mem]

/-! Stream contexts. -/

@[simp] theorem State.moverRead_still (a n : Nat) : (s.moverRead a n).1.Still s := by
  unfold State.moverRead
  split <;> grind [State.memRead_still, State.useFree_pending, State.useFree_mem]

@[simp] theorem State.moverReads_still (l : List (Nat × Nat)) : (s.moverReads l).1.Still s := by
  induction l generalizing s with
  | nil => exact ⟨rfl, rfl⟩
  | cons x l ih => grind [State.moverReads, State.moverRead_still]

@[simp] theorem State.checkCtx_still (c : Ctx) : (s.checkCtx c).1.Still s := by
  unfold State.checkCtx
  split <;> grind [State.moverReads_still]

@[simp] theorem State.latch_still (c : Ctx) : (s.latch c).1.Still s := by
  unfold State.latch
  split <;> grind [State.moverReads_still, State.checkCtx_still]

@[simp] theorem State.discard_still (n k : Nat) : (s.discard n k).Still s := by simp [State.discard]

@[simp] theorem State.withdraw_still (n : Nat) : (s.withdraw n).Still s := ⟨rfl, rfl⟩

@[simp] theorem State.restoreCtx_still (n : Nat) : (s.restoreCtx n).Still s := by
  simp [State.restoreCtx]

@[simp] theorem State.withdrawFetch_still (n : Nat) : (s.withdrawFetch n).Still s := ⟨rfl, rfl⟩

@[simp] theorem State.loseAhead_still (n : Nat) : (s.loseAhead n).Still s := by
  simp [State.loseAhead]

@[simp] theorem State.settleCtx_still (n : Nat) : (s.settleCtx n).Still s := by
  unfold State.settleCtx
  dsimp only
  repeat' split
  all_goals simp

@[simp] theorem State.setSrcHasp_still (n : Nat) (f : Hasp → Hasp) :
    (s.setSrcHasp n f).Still s := by
  unfold State.setSrcHasp
  dsimp only
  repeat' split
  all_goals simp

@[simp] theorem State.dropRequest_still (r : Request) : (s.dropRequest r).Still s := ⟨rfl, rfl⟩

@[simp] theorem State.dropAccesses_still (which : Origin → Nat → Nat → Bool) :
    (s.dropAccesses which).Still s := ⟨rfl, rfl⟩

@[simp] theorem State.turns_still (kind : ReqKind) (spots : List Spot) :
    (s.turns kind spots).1.Still s := ⟨rfl, rfl⟩

/-! Submission queues, entries and the load of a graph. -/

@[simp] theorem State.toSq_still (q : Nat) (r : Rec) : (s.toSq q r).Still s := ⟨rfl, rfl⟩

@[simp] theorem State.entryDone_still (q : Nat) (tag : BitVec 32) (no status aborted late : Nat) :
    (s.entryDone q tag no status aborted late).Still s := ⟨rfl, rfl⟩

@[simp] theorem State.popEntry_still (q : Nat) : (s.popEntry q).Still s := ⟨rfl, rfl⟩

@[simp] theorem State.finishEntry_still (q : Nat) (e : Entry) (status : Nat) :
    (s.finishEntry q e status).Still s := ⟨rfl, rfl⟩

@[simp] theorem State.geRead_still (die a n : Nat) : (s.geRead die a n).1.Still s := by
  unfold State.geRead
  split <;> grind [State.moverRead_still, State.violate_pending, State.violate_mem]

@[simp] theorem State.readImage_still (die a : Nat) : (s.readImage die a).1.Still s := by
  unfold State.readImage
  split <;> grind [State.geRead_still]

@[simp] theorem State.readImages_still (die : Nat) (l : List Nat) :
    (s.readImages die l).1.Still s := by
  induction l generalizing s with
  | nil => exact ⟨rfl, rfl⟩
  | cons a l ih => simp [State.readImages, ih]

@[simp] theorem State.checkImage_still (l : Loading) (r : List Byte) :
    (s.checkImage l r).1.Still s := by
  unfold State.checkImage
  split <;> grind [State.geRead_still]

@[simp] theorem State.loadTask_still (l : Loading) (i : Nat) (r : List Byte) (earlier : List (Nat × Task)) :
    (s.loadTask l i r earlier).1.Still s := by
  unfold State.loadTask
  dsimp only
  repeat' split
  all_goals grind [State.geRead_still, State.checkImage_still]

@[simp] theorem State.loadTasks_still (l : Loading) (i : Nat) (acc : List (Nat × Task)) (rs : List (List Byte)) :
    (s.loadTasks l i acc rs).1.Still s := by
  induction rs generalizing s i acc with
  | nil => exact ⟨rfl, rfl⟩
  | cons r rs ih => grind [State.loadTasks, State.loadTask_still]

@[simp] theorem State.readGraph_still (q : Nat) (e : Entry) : (s.readGraph q e).1.Still s := by
  unfold State.readGraph
  dsimp only
  split <;> grind [State.geRead_still, State.loadTasks_still, State.readImages_still]

@[simp] theorem State.graphDone_still (q : Nat) (tag : BitVec 32) (entry status reason first : Nat) (user : Word)
    (counts : List Nat) : (s.graphDone q tag entry status reason first user counts).Still s := ⟨rfl, rfl⟩

/-! The torus ports: what a fault, a loss of power or a retrain ends. -/

@[simp] theorem State.returnFlags_still (k : Nat) : (s.returnFlags k).Still s :=
  foldl_still _ _ s fun _ _ => ⟨rfl, rfl⟩

@[simp] theorem State.linkDone_still (p : Nat) (user : Word) (op status : Nat) :
    (s.linkDone p user op status).Still s := ⟨rfl, rfl⟩

@[simp] theorem State.linkState_still (p : Nat) : (s.linkState p).Still s := ⟨rfl, rfl⟩

@[simp] theorem State.channelFault_still (p n status : Nat) :
    (s.channelFault p n status).Still s := ⟨rfl, rfl⟩

@[simp] theorem State.scramble_keeps (a n : Nat) (h₀ : s.Keeps s₀) : (s.scramble a n).Keeps s₀ := by
  simp [State.scramble, h₀]

@[simp] theorem State.reshardFault_keeps (axis status : Nat) (h₀ : s.Keeps s₀) :
    (s.reshardFault axis status).Keeps s₀ := by
  unfold State.reshardFault
  split
  · exact h₀
  · split
    · exact h₀
    · exact foldl_keeps (fun s e h => s.scramble_keeps e.dst (64 * e.units) h) _ h₀

@[simp] theorem State.failTaken_keeps (p : Nat) (t : Taken) (status : Nat) (h₀ : s.Keeps s₀) :
    (s.failTaken p t status).Keeps s₀ := by
  unfold State.failTaken
  split
  · exact h₀
  · split <;> exact h₀
  · split
    · exact s.reshardFault_keeps _ status h₀
    · exact h₀
  · exact h₀

@[simp] theorem State.dropTurns_still (p : Nat) (which : Nat → Bool) :
    (s.dropTurns p which).Still s := ⟨rfl, rfl⟩

@[simp] theorem State.loseTaken_keeps (p : Nat) (h₀ : s.Keeps s₀) : (s.loseTaken p).Keeps s₀ := by
  unfold State.loseTaken
  have hfailed := foldl_keeps (fun s t h => State.failTaken_keeps s p t 3 h) (s.lport p).taken
    (s := (s.setLport p { s.lport p with taken := [], desc := none }).dropTurns p (fun _ => true)) h₀
  dsimp only
  refine foldl_keeps (fun s n h => ?_) _ ?_
  · split <;> exact h
  · split
    · exact State.reshardFault_keeps _ _ _ hfailed
    · exact hfailed

@[simp] theorem State.portTo_keeps (p : Nat) (st : PortState) (h₀ : s.Keeps s₀) : (s.portTo p st).Keeps s₀ := by
  unfold State.portTo
  extract_lets x was low sc changed stays lost reset
  have hlost : lost.Keeps s₀ := by
    unfold lost
    split
    · exact changed.loseTaken_keeps p h₀
    · exact h₀
  have hreset : reset.Keeps s₀ := by
    unfold reset
    split <;> exact hlost
  split <;> exact hreset

@[simp] theorem State.retrain_still (p : Nat) : (s.retrain p).Still s := ⟨rfl, rfl⟩

/-! The life of a task, its cores and its journal. -/

@[simp] theorem State.setTask_still (q t : Nat) (x : Task) : (s.setTask q t x).Still s := ⟨rfl, rfl⟩

@[simp] theorem State.taskDone_still (q t : Nat) : (s.taskDone q t).Still s := by
  unfold State.taskDone
  split <;> simp

@[simp] theorem State.cutReached_still (q cap size task : Nat) (hold : Bool) :
    (s.cutReached q cap size task hold).Still s := ⟨rfl, rfl⟩

@[simp] theorem State.skipTasks_still (q : Nat) (ts : List Nat) : (s.skipTasks q ts).Still s := by
  induction ts generalizing s with
  | nil => exact ⟨rfl, rfl⟩
  | cons t ts ih => grind [State.skipTasks, State.setTask_still, State.taskDone_still]

@[simp] theorem State.cutSettle_still (q : Nat) : (s.cutSettle q).Still s := by
  unfold State.cutSettle
  dsimp only
  split <;> simp

@[simp] theorem State.closeGraph_still (q status : Nat) : (s.closeGraph q status).Still s := by
  unfold State.closeGraph
  split <;> simp

@[simp] theorem State.settleGraph_still (q : Nat) : (s.settleGraph q).Still s := by
  unfold State.settleGraph
  dsimp only
  split <;> simp

@[simp] theorem State.rowIdle_still (c : Nat) : (s.rowIdle c).Still s := by simp [State.rowIdle]

@[simp] theorem State.stopCore_still (q t c : Nat) : (s.stopCore q t c).Still s := by
  simp [State.stopCore, State.withdrawCore]

@[simp] theorem State.freeCore_still (q t c : Nat) : (s.freeCore q t c).Still s := by
  simp [State.freeCore]

@[simp] theorem State.record_still (q t g : Nat) : (s.record q t g).Still s := by
  simp [State.record]

@[simp] theorem State.writeRun_keeps (a : Nat) (bs : List Byte) (h₀ : s.Keeps s₀) : (s.writeRun a bs).Keeps s₀ := by
  unfold State.writeRun
  split
  · simp [h₀]
  · simp [h₀]
  · next c off _ => cases (s.core c).lmWrite off bs <;> simp [h₀]
  · simp [h₀]

@[simp] theorem State.writeAll_keeps (ws : List (Nat × Byte)) (h₀ : s.Keeps s₀) : (s.writeAll ws).Keeps s₀ :=
  foldl_keeps (fun s w h => State.writeRun_keeps s w.1 w.2 h) _ h₀

@[simp] theorem State.remark_still (g : Nat) (lost : List Nat) (poisoned : Bool) :
    (s.remark g lost poisoned).Still s := by
  unfold State.remark
  repeat' split
  all_goals simp

@[simp] theorem State.restore_keeps (j : Journal) (h₀ : s.Keeps s₀) : (s.restore j).Keeps s₀ := by
  unfold State.restore
  split <;> simp [h₀]

@[simp] theorem State.undo_keeps (j : Journal) (h₀ : s.Keeps s₀) : (s.undo j).Keeps s₀ := by
  grind [State.undo, State.restore_keeps]

@[simp] theorem State.rollback_keeps (q t : Nat) (h₀ : s.Keeps s₀) : (s.rollback q t).Keeps s₀ :=
  foldl_keeps (f := State.undo) (fun s j h => s.undo_keeps j h) _ h₀

@[simp] theorem State.freeJournal_still (q t : Nat) : (s.freeJournal q t).Still s := ⟨rfl, rfl⟩

@[simp] theorem State.withdrawTask_still (q t : Nat) : (s.withdrawTask q t).Still s := ⟨rfl, rfl⟩

@[simp] theorem State.revoke_keeps (q t : Nat) (h₀ : s.Keeps s₀) : (s.revoke q t).Keeps s₀ := by
  unfold State.revoke
  split <;> simp [h₀]

@[simp] theorem State.stopTask_keeps (q t : Nat) (st : TStatus) (fate : TaskEnd) (h₀ : s.Keeps s₀) :
    (s.stopTask q t st fate).Keeps s₀ := by
  unfold State.stopTask
  split
  · exact h₀
  · split
    · exact h₀
    · have hdropped : (((s.revoke q t).owned q t).foldl (fun s k => s.setCtx k (s.ctx k).orphaned)
          (s.revoke q t)).Keeps s₀ := foldl_keeps (fun _ _ h => by exact h) _ (s.revoke_keeps q t h₀)
      dsimp only
      split
      · exact hdropped
      · simpa using hdropped

@[simp] theorem State.faultRegion_keeps (k cause : Nat) (h₀ : s.Keeps s₀) : (s.faultRegion k cause).Keeps s₀ := by
  refine foldl_keeps (fun s q h => ?_) (s.queuesOf k) h₀
  simpa using foldl_keeps (fun s t h => State.stopTask_keeps s q t .aborted { cause := 0xF1 } h) (s.liveTasks q) h

@[simp] theorem State.endTask_keeps (q t : Nat) (st : TStatus) (fate : TaskEnd) (h₀ : s.Keeps s₀) :
    (s.endTask q t st fate).Keeps s₀ := by
  grind [State.endTask, State.stopTask_keeps, State.settleGraph_still, State.faultRegion_keeps]

@[simp] theorem State.reissue_keeps (q t : Nat) (fate : TaskEnd) (h₀ : s.Keeps s₀) :
    (s.reissue q t fate).Keeps s₀ := by
  grind [State.reissue, State.endTask_keeps, State.setTask_still]

@[simp] theorem State.revokeAndReissue_keeps (q t : Nat) (h₀ : s.Keeps s₀) : (s.revokeAndReissue q t).Keeps s₀ := by
  grind [State.revokeAndReissue, State.revoke_keeps, State.reissue_keeps, State.faultRegion_keeps]

@[simp] theorem State.taskViolation_still (q t own cause addr kind : Nat) :
    (s.taskViolation q t own cause addr kind).Still s := ⟨rfl, rfl⟩

@[simp] theorem State.failTask_keeps (q t own cause addr kind : Nat) (h₀ : s.Keeps s₀) :
    (s.failTask q t own cause addr kind).Keeps s₀ := by simp [State.failTask, h₀]

theorem State.armSlot_still {s u : State} {q t k a : Nat} {e : Option TaskEnd} (h : s.armSlot q t k a = some (u, e)) :
    
    u.Still s := by
  unfold State.armSlot at h
  have hread := s.geRead_still (s.hostDie q) a 72
  repeat' split at h
  all_goals grind [State.setCtx_pending, State.setCtx_mem, State.latch_still, State.taskViolation_still]

@[simp] theorem State.armSlots_still (q t : Nat) (l : List (Nat × Nat × Nat)) :
    (s.armSlots q t l).1.Still s := by
  induction l generalizing s with
  | nil => exact ⟨rfl, rfl⟩
  | cons x l ih => grind [State.armSlots, State.armSlot_still]

@[simp] theorem State.armTask_keeps (q t : Nat) (h₀ : s.Keeps s₀) : (s.armTask q t).Keeps s₀ := by
  unfold State.armTask
  split <;> grind [State.setTask_still, State.endTask_keeps, State.armSlots_still]

@[simp] theorem State.bindCtx_still (q t k : Nat) (o : Nat × Nat) :
    (s.bindCtx q t k o).Still s := ⟨rfl, rfl⟩

@[simp] theorem State.readTensors_still (die : Nat) (l : List (Nat × Nat)) (n : Nat) :
    (s.readTensors die l n).1.Still s := by
  induction l generalizing s n with
  | nil => exact ⟨rfl, rfl⟩
  | cons x l ih =>
    obtain ⟨k, v⟩ := x
    by_cases hk : k = 1
    · grind [State.readTensors, State.geRead_still]
    · simp [State.readTensors, hk, ih]

@[simp] theorem State.startTask_keeps (q t : Nat) (x : Task) (ox oy : Nat) (h₀ : s.Keeps s₀) :
    (s.startTask q t x ox oy).Keeps s₀ := by
  unfold State.startTask
  dsimp only
  split
  · simp [h₀]
  · split
    · next hread => simp [still_of_fst hread, h₀]
    · next hread =>
      split
      · simp [still_of_fst hread, h₀]
      · split
        · next htensors => simp [still_of_fst htensors, still_of_fst hread, h₀]
        · next htensors =>
          refine State.Still.keeps (State.setTask_still _ q t _) ?_
          refine foldl_keeps (fun _ _ h => by exact h) _ (foldl_keeps (fun _ _ h => by exact h) _ ?_)
          simp [still_of_fst htensors, still_of_fst hread, h₀]

@[simp] theorem State.finalErrors_still (ks : List Nat) : (s.finalErrors ks).1.Still s := by
  induction ks generalizing s with
  | nil => exact ⟨rfl, rfl⟩
  | cons k ks ih => grind [State.finalErrors, State.moverReads_still]

@[simp] theorem State.putFinals_keeps (q t : Nat) (ks : List Nat) (h₀ : s.Keeps s₀) :
    (s.putFinals q t ks).1.Keeps s₀ := by
  induction ks generalizing s with
  | nil => exact h₀
  | cons k ks ih => grind [State.putFinals, State.writeAll_keeps, State.setCtx_pending, State.setCtx_mem]

@[simp] theorem State.commit_keeps (q t : Nat) (x : Task) (h₀ : s.Keeps s₀) : (s.commit q t x).Keeps s₀ := by
  unfold State.commit
  split
  · simp [h₀]
  · split
    · next hread => simp [still_of_fst hread, h₀]
    · next hread =>
      split
      · simp [still_of_fst hread, h₀]
      · simp [still_of_fst hread, h₀]
      · next hput _ => simp [still_of_fst hput, still_of_fst hread, h₀]

/-! Resets, the loss of a die, and records of a lockout. -/

@[simp] theorem State.resetNodes_still (ks : List Nat) : (s.resetNodes ks).Still s := ⟨rfl, rfl⟩

@[simp] theorem State.resetLogs_still (ds : List Nat) : (s.resetLogs ds).Still s := ⟨rfl, rfl⟩

@[simp] theorem State.resetCompute_still (d : Nat) : (s.resetCompute d).Still s := ⟨rfl, rfl⟩

@[simp] theorem State.dropChange_still (reach die : Nat) : (s.dropChange reach die).Still s := by
  unfold State.dropChange
  split <;> simp

@[simp] theorem State.resetPort_keeps (p : Nat) (h₀ : s.Keeps s₀) : (s.resetPort p).Keeps s₀ :=
  State.Still.keeps ⟨rfl, rfl⟩
    (State.portTo_keeps (s.setLport p { s.lport p with lanes := 0 }) p .disabled h₀)

@[simp] theorem State.resetLink_keeps (l : Nat) (h₀ : s.Keeps s₀) : (s.resetLink l).Keeps s₀ :=
  foldl_keeps (f := State.resetPort) (fun s p h => s.resetPort_keeps p h) _ h₀

@[simp] theorem State.resetFabric_keeps (h₀ : s.Keeps s₀) :
    (s.resetFabric).Keeps s₀ := by simp [State.resetFabric, h₀]

@[simp] theorem State.adopt_keeps (r d n : Nat) (ran : List (Nat × Nat)) (h₀ : s.Keeps s₀) :
    (s.adopt r d n ran).Keeps s₀ := by
  unfold State.adopt
  split
  · exact s.faultRegion_keeps r 2 h₀
  · exact foldl_keeps (fun s t h => State.revokeAndReissue_keeps s t.1 t.2 h) (s.runningOf r) h₀

@[simp] theorem State.regionsLose_keeps (d : Nat) (ran : List (Nat × Nat)) (h₀ : s.Keeps s₀) :
    (s.regionsLose d ran).Keeps s₀ := by
  refine foldl_keeps (fun s r h => ?_) _ h₀
  grind [State.faultRegion_keeps, State.adopt_keeps]

@[simp] theorem State.loseDie_keeps (d : Nat) (h₀ : s.Keeps s₀) : (s.loseDie d).Keeps s₀ :=
  State.regionsLose_keeps _ d _ (foldl_keeps (fun s t h => State.revokeAndReissue_keeps s t.1 t.2 h) _ h₀)

@[simp] theorem State.announce_keeps (e : Episode) (h₀ : s.Keeps s₀) : (s.announce e).Keeps s₀ := by
  unfold State.announce
  dsimp only
  split
  · exact ⟨h₀.queue, fun _ => rfl⟩
  · exact h₀

@[simp] theorem State.wake_still (ds : List Nat) : (s.wake ds).Still s := ⟨rfl, rfl⟩

@[simp] theorem State.bootLast_keeps (h₀ : s.Keeps s₀) : (s.bootLast).Keeps s₀ := by
  grind [State.bootLast, State.extWrite_keeps, State.wake_still]

@[simp] theorem State.settleQueue_still (q : Nat) : (s.settleQueue q).Still s := by
  simp [State.settleQueue]

@[simp] theorem State.release_keeps (e : Episode) (h₀ : s.Keeps s₀) : (s.release e).Keeps s₀ := by
  unfold State.release
  have hannounced : (if e.released = 0 then s.announce e else s).Keeps s₀ := by
    split
    · exact s.announce_keeps e h₀
    · exact h₀
  dsimp only
  split
  · split
    · simpa using hannounced
    · simpa using hannounced
  · simpa using hannounced

@[simp] theorem State.toRowRegions_still (key : Nat) (r : Rec) :
    (s.toRowRegions key r).Still s := by simp [State.toRowRegions]

@[simp] theorem State.lockoutRec_still (c trigger : Nat) (xy : List Byte) (t : Option (Nat × Nat)) :
    (s.lockoutRec c trigger xy t).Still s := by
  unfold State.lockoutRec
  split <;> simp

@[simp] theorem State.zeroLine_still (c line : Nat) : (s.zeroLine c line).Still s := by
  unfold State.zeroLine
  split <;> simp

/-! Accesses through the fabric. -/

@[simp] theorem State.refuse_still (o : Origin) (cause a n : Nat) (write : Bool) :
    (s.refuse o cause a n write).Still s := ⟨rfl, rfl⟩

@[simp] theorem State.readAccess_still (o : Origin) (use : WindowUse) (a n : Nat) :
    (s.readAccess o use a n).Still s := by
  unfold State.readAccess
  split <;> grind [State.memRead_still, State.refuse_still, State.respond_pending, State.respond_mem]

@[simp] theorem State.writeAccess_keeps (o : Origin) (use : WindowUse) (a : Nat) (bs : List Byte) (h₀ : s.Keeps s₀) :
    
    (s.writeAccess o use a bs).Keeps s₀ := by
  unfold State.writeAccess
  split <;> grind [State.refuse_still, State.memWrite_keeps, State.respond_pending, State.respond_mem]

@[simp] theorem State.accessTurn_still (o : Origin) (a n : Nat) :
    (s.accessTurn o a n).1.Still s := by
  unfold State.accessTurn
  split <;> simp

/-! The link layer. -/

@[simp] theorem State.portDown_keeps (p : Nat) (h₀ : s.Keeps s₀) : (s.portDown p).Keeps s₀ :=
  State.portTo_keeps (s.setLport p { s.lport p with lanes := 0 }) p .down h₀

@[simp] theorem State.lockFrames_keeps (p : Nat) (tag : BitVec 40) (h₀ : s.Keeps s₀) :
    (s.lockFrames p tag).Keeps s₀ := by
  grind [State.lockFrames, State.reachLinkUp, State.portDown_keeps, State.portTo_keeps, State.setLport_pending,
    State.setLport_mem]

@[simp] theorem State.train_keeps (p : Nat) (h₀ : s.Keeps s₀) : (s.train p).Keeps s₀ :=
  State.portTo_keeps (s.setLport p { s.lport p with lanes := if s.cabled p then 0xFF else 0 }) p .training h₀

@[simp] theorem State.emit_still (p : Fin 8) (x : Port) (f : BitVec 2048) :
    (s.emit p x f).Still s := ⟨rfl, rfl⟩

@[simp] theorem State.emitData_still (p : Fin 8) (x : Port) (f : Sent) :
    (s.emitData p x f).Still s := ⟨rfl, rfl⟩

@[simp] theorem State.sendFlit_still (p : Fin 8) : (s.sendFlit p).Still s := by
  unfold State.sendFlit
  dsimp only
  repeat' split
  all_goals simp

@[simp] theorem State.escalate_still (p : Nat) : (s.escalate p).Still s := by simp [State.escalate]

/-! The transaction layer: packets and link descriptors. -/

@[simp] theorem State.consume_still (p : Nat) (v : Vc) (h : Header) :
    (s.consume p v h).Still s := ⟨rfl, rfl⟩

@[simp] theorem State.reply_still (p : Nat) (v : Vc) (h : Header) (status : Nat) :
    (s.reply p v h status).Still s := ⟨rfl, rfl⟩

@[simp] theorem State.skipBad_still (p : Nat) (v : Vc) (n : Nat) : (s.skipBad p v n).Still s := by
  induction n generalizing s with
  | zero => exact ⟨rfl, rfl⟩
  | succ n ih => grind [State.skipBad, State.consume_still, State.reply_still]

@[simp] theorem State.portFails_still (p : Fin 8) (cause addr : Nat) :
    (s.portFails p cause addr).Still s := ⟨rfl, rfl⟩

@[simp] theorem State.portTurn_still (p : Fin 8) (a n : Nat) : (s.portTurn p a n).1.Still s := ⟨rfl, rfl⟩

@[simp] theorem State.refusePacket_still (p : Fin 8) (v : Vc) (h : Header) (cause : Nat) :
    (s.refusePacket p v h cause).Still s := ⟨rfl, rfl⟩

@[simp] theorem State.writePacket_keeps (p : Fin 8) (v : Vc) (h : Header) (d : List Byte) (after : State → State)
    (hafter : ∀ u,
      u.Keeps s₀ → (after u).Keeps s₀) (h₀ : s.Keeps s₀) : SomeKeeps s₀ (s.writePacket p v h d after) := by
  intro t hres
  unfold State.writePacket at hres
  grind [Option.map_eq_some_iff, State.refusePacket_still, State.portTurn_still, State.memWrite_keeps,
    State.reply_still]

@[simp] theorem State.get_keeps (p : Fin 8) (h : Header) (h₀ : s.Keeps s₀) : SomeKeeps s₀ (s.get p h) := by
  intro t hres
  unfold State.get at hres
  grind [State.reply_still, State.refusePacket_still, State.portTurn_still, State.memRead_still,
    State.portFails_still, State.consume_still, State.setLport_pending, State.setLport_mem]

@[simp] theorem State.refuseOpen_still (p : Fin 8) (h : Header) : (s.refuseOpen p h).Still s := ⟨rfl, rfl⟩

theorem State.reduce_keeps {s t : State} {p n : Nat} {k : Nat} {h : Header} {d : List Byte}
    (hres : s.reduce p n k h d = some t) (h₀ : s.Keeps s₀) : t.Keeps s₀ := by
  unfold State.reduce at hres
  grind [State.setSrcHasp_still, State.storeWrite_keeps, State.setLport_pending, State.setLport_mem]

@[simp] theorem State.reducePut_keeps (p : Fin 8) (h : Header) (d : List Byte) (h₀ : s.Keeps s₀) :
    SomeKeeps s₀ (s.reducePut p h d) := by
  intro t hres
  unfold State.reducePut at hres
  grind [Option.map_eq_some_iff, State.reply_still, State.dropTurns_still, State.refusePacket_still,
    State.refuseOpen_still, State.portTurn_still, State.reduce_keeps]

@[simp] theorem State.countUnits_still (p n : Nat) : (s.countUnits p n).Still s := by
  unfold State.countUnits
  split <;> simp

@[simp] theorem State.flushEnded_keeps (p : Nat) (v : Vc) (n : Nat) (h₀ : s.Keeps s₀) :
    (s.flushEnded p v n).Keeps s₀ := by
  induction n generalizing s with
  | zero => exact h₀
  | succ n ih => grind [State.flushEnded, State.failTaken_keeps, State.setLport_pending, State.setLport_mem]

@[simp] theorem State.slotDone_still (p n : Nat) : (s.slotDone p n).Still s := by
  simp [State.slotDone]

@[simp] theorem State.moveCompleted_still (axis : Nat) (epoch : BitVec 32) :
    (s.moveCompleted axis epoch).Still s := by
  unfold State.moveCompleted
  split <;> simp

@[simp] theorem State.endTaken_keeps (p : Nat) (t : Taken) (status : Nat) (h₀ : s.Keeps s₀) :
    (s.endTaken p t status).Keeps s₀ := by
  refine State.flushEnded_keeps _ _ _ _ ?_
  split
  · exact State.failTaken_keeps _ p t status h₀
  · split
    · exact h₀
    · split
      · simpa using h₀
      · exact h₀
    · simpa using h₀
    · exact h₀

@[simp] theorem State.landGet_keeps (p : Fin 8) (h : Header) (t : Taken) (dst : Nat) (d : List Byte) (h₀ : s.Keeps s₀) :
    SomeKeeps s₀ (s.landGet p h t dst d) := by
  intro u hres
  unfold State.landGet at hres
  grind [Option.map_eq_some_iff, State.portFails_still, State.consume_still, State.endTaken_keeps,
    State.portTurn_still, State.memWrite_keeps]

@[simp] theorem State.sqTaken_still (p : Nat) : (s.sqTaken p).Still s := ⟨rfl, rfl⟩

@[simp] theorem State.sendDesc_still (p : Nat) (h : Header) (v : Vc) (user : Word) (dst : Nat) (d : List Byte) :
    (s.sendDesc p h v user dst d).Still s := ⟨rfl, rfl⟩

@[simp] theorem State.failDesc_keeps (p : Nat) (h : Header) (v : Vc) (user : Word) (status : Nat) (h₀ : s.Keeps s₀) :
    
    (s.failDesc p h v user status).Keeps s₀ := by simp [State.failDesc, h₀]

theorem State.doDesc_keeps {s t : State} {p : Fin 8} {b : List Byte} (hres : s.doDesc p b = some t) (h₀ : s.Keeps s₀) :
    t.Keeps s₀ := by
  unfold State.doDesc at hres
  grind [State.failDesc_keeps, State.sendDesc_still, State.portFails_still, State.portTurn_still,
    State.memRead_still]

@[simp] theorem State.lostDesc_keeps (p : Fin 8) (cause a : Nat) (h₀ : s.Keeps s₀) :
    (s.lostDesc p cause a).Keeps s₀ := by simp [State.lostDesc, h₀]

@[simp] theorem State.takeDesc_keeps (p : Fin 8) (h₀ : s.Keeps s₀) : SomeKeeps s₀ (s.takeDesc p) := by
  intro t hres
  unfold State.takeDesc at hres
  grind [State.doDesc_keeps, State.lostDesc_keeps, State.portTurn_still, State.memRead_still,
    State.setLport_pending, State.setLport_mem]

@[simp] theorem State.putPortCtl_keeps (p : Nat) (v : Word) (h₀ : s.Keeps s₀) : (s.putPortCtl p v).Keeps s₀ := by
  grind [State.putPortCtl, State.train_keeps, State.portTo_keeps, State.setLport_pending, State.setLport_mem]

/-! Event queues and front-end ports. -/

@[simp] theorem State.putEqCfg_still (o : Origin) (e : Nat) (v : Word) :
    (s.putEqCfg o e v).Still s := by simp [State.putEqCfg]

@[simp] theorem State.stampFrame_still (n : Fin 2) : (s.stampFrame n).Still s := ⟨rfl, rfl⟩

@[simp] theorem State.dmaFrame_keeps (n : Fin 2) (addr : Nat) (frame : List Byte) (h₀ : s.Keeps s₀) :
    SomeKeeps s₀ (s.dmaFrame n addr frame) := by
  intro t hres
  unfold State.dmaFrame at hres
  grind [Option.map_eq_some_iff, State.refuseAccess_pending, State.refuseAccess_mem, State.accessTurn_still,
    State.memWrite_keeps,
    State.stampFrame_still]

/-! The repair record and the memory-port dies. -/

@[simp] theorem State.program_still (a : Nat) (bs : List Byte) : (s.program a bs).Still s := ⟨rfl, rfl⟩

@[simp] theorem State.dropRepairs_still (f : RepairEntry → Bool) : (s.dropRepairs f).Still s := by
  simp [State.dropRepairs, State.writeRepair]

@[simp] theorem State.scrub_still (m : Nat) : (s.scrub m).Still s := by
  unfold State.scrub
  dsimp only
  repeat' split
  all_goals simp

@[simp] theorem State.movePoison_still (g was now : Nat) : (s.movePoison g was now).Still s := by
  simp [State.movePoison]

@[simp] theorem State.migrate_still (r : Retiring) : (s.migrate r).Still s := by
  simp [State.migrate]

@[simp] theorem State.retired_still (c : Nat) : (s.retired c).Still s := by simp [State.retired]

/-! The reference and the clock nodes. -/

@[simp] theorem State.dropSource_still (src : Nat) (f : Assertion → Bool) :
    (s.dropSource src f).Still s := ⟨rfl, rfl⟩

@[simp] theorem State.window_still (ppm : Int) : (s.window ppm).Still s := by
  simp [State.window, State.endPor]

@[simp] theorem State.clockRefused_still (o : Origin) (a : Nat) (v : Word) (last reason : Nat) :
    (s.clockRefused o a v last reason).Still s := ⟨rfl, rfl⟩

@[simp] theorem State.ungated_still (k : Nat) : (s.ungated k).Still s := by simp [State.ungated]

@[simp] theorem State.putNode_still (o : Origin) (k : Nat) (v : Word) :
    (s.putNode o k v).Still s := by
  unfold State.putNode
  dsimp only
  split <;> simp

@[simp] theorem State.putClkmon_still (o : Origin) (v : Word) : (s.putClkmon o v).Still s := by
  simp [State.putClkmon]

/-! Power domains and the release of an episode. -/

@[simp] theorem State.startChange_still : (s.startChange).Still s := by simp [State.startChange]

@[simp] theorem State.bootOn_keeps (h₀ : s.Keeps s₀) : (s.bootOn).Keeps s₀ := by
  grind [State.bootOn, State.bootLast_keeps]

@[simp] theorem State.resetMem_still (m : Nat) : (s.resetMem m).Still s := ⟨rfl, rfl⟩

/-- A group of store dies that is reset loses its bytes of the central store, and memory keeps its form. -/
@[simp] theorem State.resetGroup_keeps (g : Nat) (h₀ : s.Keeps s₀) : (s.resetGroup g).Keeps s₀ :=
  ⟨(foldl_still (fun s d => (s.resetLogs [d]).resetNodes (nodesOf d)) _ s fun _ _ => ⟨rfl, rfl⟩).1.trans h₀.queue,
    fun h => s.wf_resetGroup g (h₀.form h)⟩

@[simp] theorem State.resetHelm_keeps (h₀ : s.Keeps s₀) : s.resetHelm.Keeps s₀ :=
  foldl_keeps (fun s q h => foldl_keeps (fun s t h => State.revoke_keeps s q t h) (s.liveTasks q) h) _ h₀

@[simp] theorem State.enterDomain_keeps (d : Nat) (h₀ : s.Keeps s₀) : (s.enterDomain d).Keeps s₀ := by
  unfold State.enterDomain
  split
  · exact h₀
  · split
    · exact s.resetGroup_keeps _ h₀
    · split
      · exact State.resetLink_keeps _ _ h₀
      · split
        · exact s.resetHelm_keeps h₀
        · exact foldl_keeps (fun _ _ h => by exact h) _ h₀

@[simp] theorem State.domainDone_keeps (d : Nat) (on : Bool) (h₀ : s.Keeps s₀) : (s.domainDone d on).Keeps s₀ := by
  unfold State.domainDone
  extract_lets power changed entered pooled woken
  have hentered : entered.Keeps s₀ := by
    have hon : (if on then changed.enterDomain d else changed).Keeps s₀ := by
      split
      · exact changed.enterDomain_keeps d h₀
      · exact h₀
    simpa [entered, State.lockNodes] using hon
  have hpooled : pooled.Keeps s₀ := by
    unfold pooled
    split
    · simpa [State.resetPool] using hentered
    · exact hentered
  have hwoken : woken.Keeps s₀ := by
    unfold woken
    split
    · exact hpooled
    · split
      · exact hpooled
      · split
        · exact pooled.bootLast_keeps hpooled
        · exact hpooled
  exact State.bootOn_keeps _ (by simpa using hwoken)

/-! The input stage, the caps and the two loops. -/

@[simp] theorem State.putPwrDom_still (o : Origin) (v : Word) : (s.putPwrDom o v).Still s := by
  simp [State.putPwrDom]

@[simp] theorem State.putPwrCap_still (v : Word) : (s.putPwrCap v).Still s := by
  simp [State.putPwrCap]

@[simp] theorem State.setPool_still (pIn : Nat) : (s.setPool pIn).Still s :=
  foldl_still _ _ _ fun _ _ => ⟨rfl, rfl⟩

/-! Thermal levels, lockout and the return of a die. -/

@[simp] theorem State.throttle_still (was now n : Nat) : (s.throttle was now n).Still s := by
  simp [State.throttle]

@[simp] theorem State.safePort_keeps (p : Nat) (h₀ : s.Keeps s₀) : (s.safePort p).Keeps s₀ :=
  State.portTo_keeps (s.setLport p { s.lport p with enable := false, lanes := 0 }) p .disabled h₀

/-! Boot, updates and attestation. -/

@[simp] theorem State.requestBoot_still : (s.requestBoot).Still s := by simp [State.requestBoot]

@[simp] theorem State.awaitRecovery_still (reason : Nat) : (s.awaitRecovery reason).Still s := by
  simp [State.awaitRecovery, State.wakeKept]

@[simp] theorem State.eraseFirst_still : (s.eraseFirst).Still s := ⟨rfl, rfl⟩

@[simp] theorem State.updateFailed_still (reason : Nat) : (s.updateFailed reason).Still s := ⟨rfl, rfl⟩

@[simp] theorem State.svRead_still (a n : Nat) : (s.svRead a n).1.Still s := by simp [State.svRead]

@[simp] theorem State.stagedImage_still (addr len : Nat) : (s.stagedImage addr len).1.Still s := by
  unfold State.stagedImage
  split <;> grind [State.svRead_still]

@[simp] theorem State.beginUpdate_still (addr len : Nat) : (s.beginUpdate addr len).Still s := by
  unfold State.beginUpdate
  split <;> grind [State.stagedImage_still, State.eraseFirst_still, State.updateFailed_still,
    State.answer_pending, State.answer_mem]

@[simp] theorem State.endUpdate_still (addr : Nat) (img : List Byte) :
    (s.endUpdate addr img).Still s := by
  unfold State.endUpdate
  split <;> grind [State.svRead_still, State.updateFailed_still, State.program_still]

@[simp] theorem State.attestTo_keeps (a : Nat) (h₀ : s.Keeps s₀) : (s.attestTo a).Keeps s₀ := by
  unfold State.attestTo
  split <;> grind [State.memRead_still, State.writeRun_keeps, State.useFree_pending, State.useFree_mem]

@[simp] theorem State.putAttCtl_keeps (v : Word) (h₀ : s.Keeps s₀) : (s.putAttCtl v).Keeps s₀ := by
  grind [State.putAttCtl, State.attestTo_keeps]

@[simp] theorem State.putAttExtend_still (o : Origin) (v : Word) :
    (s.putAttExtend o v).Still s := by
  unfold State.putAttExtend
  split
  · simp
  · split
    · exact ⟨rfl, rfl⟩
    · split <;> next hread => simp [still_of_fst hread]

/-! The end of a task on its cores. -/

@[simp] theorem State.endCore_still (c : Nat) (k : Core) (g : CoreTask) (x : Task) :
    (s.endCore c k g x).Still s := by
  unfold State.endCore
  extract_lets left i y bound timed
  split
  · exact foldl_still (fun s (e : Nat × Nat) => s.setCtx e.1 (s.ctx e.1).portClose) _ timed fun _ _ => ⟨rfl, rfl⟩
  · exact ⟨rfl, rfl⟩

@[simp] theorem State.releaseGang_still (q t : Nat) (x : Task) : (s.releaseGang q t x).Still s :=
  foldl_still _ _ _ fun _ _ => ⟨rfl, rfl⟩

/-! Doorbells and the entries STREAM, GRAPH and ABORT. -/

@[simp] theorem State.readEntry_still (q n : Nat) : (s.readEntry q n).1.Still s := by
  unfold State.readEntry
  dsimp only
  split <;> grind [State.geRead_still, State.useFree_pending, State.useFree_mem]

@[simp] theorem State.readEntries_still (q n : Nat) : (s.readEntries q n).Still s := by
  induction n generalizing s with
  | zero => exact ⟨rfl, rfl⟩
  | succ n ih => grind [State.readEntries, State.readEntry_still, State.setSq_pending, State.setSq_mem]

@[simp] theorem State.takeEntries_still (q : Nat) : (s.takeEntries q).Still s := by
  simp [State.takeEntries]

@[simp] theorem State.putSqDb_still (o : Origin) (q : Nat) (v : Word) :
    (s.putSqDb o q v).Still s := by simp [State.putSqDb]

@[simp] theorem State.dropBad_still (q n : Nat) : (s.dropBad q n).Still s := by
  induction n generalizing s with
  | zero => exact ⟨rfl, rfl⟩
  | succ n ih => grind [State.dropBad, State.finishEntry_still]

@[simp] theorem State.openStatus_still (q : Nat) (e : Entry) : (s.openStatus q e).Still s := ⟨rfl, rfl⟩

@[simp] theorem State.streamArm_keeps (q : Nat) (e : Entry) (h₀ : s.Keeps s₀) : SomeKeeps s₀ (s.streamArm q e) := by
  intro t hres
  unfold State.streamArm at hres
  grind [State.geRead_still, State.openStatus_still, State.finishEntry_still, State.setCtx_pending,
    State.setCtx_mem, State.latch_still,
    State.violate_pending, State.violate_mem]

@[simp] theorem State.abortTasks_keeps (q : Nat) (ts : List Nat) (h₀ : s.Keeps s₀) :
    (s.abortTasks q ts).Keeps s₀ := by
  unfold State.abortTasks
  extract_lets lost marked stopped settled
  have hmarked : marked.Keeps s₀ := foldl_keeps (fun s t h => by split <;> simpa using h) ts h₀
  have hstopped : stopped.Keeps s₀ :=
    foldl_keeps (fun s t h => State.stopTask_keeps s q t .aborted { cause := 0xF0 } h) ts hmarked
  grind [State.settleGraph_still, State.faultRegion_keeps]

@[simp] theorem State.takeOut_still (q : Nat) (e : Entry) : (s.takeOut q e).Still s := ⟨rfl, rfl⟩

@[simp] theorem State.doom_still (q : Nat) (ws : List (Entry × Option Nat)) :
    (s.doom q ws).Still s := ⟨rfl, rfl⟩

@[simp] theorem State.abort_keeps (q : Nat) (e : Entry) (h₀ : s.Keeps s₀) : (s.abort q e).Keeps s₀ := by
  unfold State.abort
  split
  · exact h₀
  · dsimp only
    split
    · exact h₀
    · exact State.abortTasks_keeps _ _ _ h₀

@[simp] theorem State.takeGraph_keeps (q : Nat) (e : Entry) (h₀ : s.Keeps s₀) : SomeKeeps s₀ (s.takeGraph q e) := by
  intro t hres
  unfold State.takeGraph at hres
  grind [State.readGraph_still, State.popEntry_still, State.graphDone_still, State.faultRegion_keeps,
    State.setSq_pending, State.setSq_mem]

@[simp] theorem State.endDoomed_keeps (q : Nat) (h₀ : s.Keeps s₀) : (s.endDoomed q).Keeps s₀ := by
  grind [State.endDoomed, State.abortTasks_keeps, State.setSq_pending, State.setSq_mem]

/-! Exchange channels and the RESHARD of an axis. -/

@[simp] theorem State.putXcha_still (p n : Nat) (v : Word) : (s.putXcha p n v).Still s := by
  simp [State.putXcha]

@[simp] theorem State.putXchb_still (p n : Nat) (v : Word) : (s.putXchb p n v).Still s := by
  simp [State.putXchb]

@[simp] theorem State.sendSlot_still (p n : Nat) (c : Channel) (off k : Nat) (bs : List Byte) :
    (s.sendSlot p n c off k bs).Still s := by
  induction k generalizing s off bs with
  | zero => exact ⟨rfl, rfl⟩
  | succ k ih => grind [State.sendSlot, State.setLport_pending, State.setLport_mem]

@[simp] theorem State.channelSlot_keeps (p : Fin 8) (n : Nat) (h₀ : s.Keeps s₀) :
    SomeKeeps s₀ (s.channelSlot p n) := by
  intro t hres
  unfold State.channelSlot at hres
  grind [State.setLport_pending, State.setLport_mem, State.channelFault_still, State.dropTurns_still,
    State.portTurn_still,
    State.memRead_still, State.portFails_still, State.setCtx_pending, State.setCtx_mem, State.sendSlot_still]

@[simp] theorem State.readReshard_still (q : Nat) (e : Entry) : (s.readReshard q e).1.Still s := by
  unfold State.readReshard
  split <;> grind [State.geRead_still]

@[simp] theorem State.copySpans_keeps (scratch : Nat) (es : List (Nat × PermEntry)) (h₀ : s.Keeps s₀) :
    (s.copySpans scratch es).1.Keeps s₀ := by
  induction es generalizing s with
  | nil => exact h₀
  | cons e es ih => grind [State.copySpans, State.memRead_still, State.writeRun_keeps]

@[simp] theorem State.sendPermute_still (p : Nat) (r : Reshard) (e : PermEntry) (dst k : Nat) (bs : List Byte) :
    (s.sendPermute p r e dst k bs).Still s := by
  induction k generalizing s dst bs with
  | zero => exact ⟨rfl, rfl⟩
  | succ k ih => grind [State.sendPermute, State.setLport_pending, State.setLport_mem]

@[simp] theorem State.moveEntry_keeps (axis : Nat) (r : Reshard) (x : Nat × PermEntry) (h₀ : s.Keeps s₀) :
    (s.moveEntry axis r x).Keeps s₀ := by
  grind [State.moveEntry, State.writeRun_keeps, State.sendPermute_still]

@[simp] theorem State.setEpoch_still (axis : Nat) (v : BitVec 32) :
    (s.setEpoch axis v).Still s := ⟨rfl, rfl⟩

@[simp] theorem State.copyOut_keeps (axis : Nat) (r : Reshard) (h₀ : s.Keeps s₀) : (s.copyOut axis r).Keeps s₀ := by
  have hcopied := s.copySpans_keeps r.scratch (packed 0 r.list) h₀
  unfold State.copyOut
  dsimp only
  split
  · exact h₀
  · split
    · next u a hcopy =>
      rw [hcopy] at hcopied
      have hlogged :
          (u.violate (u.answerDie (u.hostDie r.q) 0x35 a) (geViolation (u.hostDie r.q) 0x35 a)).Keeps s₀ := by
        simpa using hcopied
      simpa using State.reshardFault_keeps _ axis 4 hlogged
    · next hcopy =>
      rw [hcopy] at hcopied
      exact foldl_keeps (fun s x h => State.moveEntry_keeps s axis _ x h) _ (by simpa using hcopied)

/-! Movement operations and journalled writes. -/

@[simp] theorem State.moveDescs_still (r : TaskRec) : (s.moveDescs r).1.Still s := by
  unfold State.moveDescs
  split <;> grind [State.moverRead_still]

@[simp] theorem State.moveFails_keeps (q t cause a kind : Nat) (h₀ : s.Keeps s₀) :
    (s.moveFails q t cause a kind).Keeps s₀ := by simp [State.moveFails, h₀]

@[simp] theorem State.moveDone_still (q t : Nat) (x : Task) (held : Assoc Byte) (sats nans : Nat) :
    (s.moveDone q t x held sats nans).Still s := ⟨rfl, rfl⟩

/-- The state that a journalled write goes on with keeps the queue and the form of memory. -/
def Journaled.AllKeep (j : Journaled) (s₀ : State) : Prop :=
  match j with
  | .ok t => t.Keeps s₀
  | _ => True

theorem State.journal_allKeep (q t : Nat) (gs : List Nat) (h₀ : s.Keeps s₀) : (s.journal q t gs).AllKeep s₀ := by
  induction gs generalizing s with
  | nil => exact h₀
  | cons g gs ih => grind [State.journal, Journaled.AllKeep, State.record_still]

theorem State.writeInPlace_keeps {s u : State} {q t : Nat} {ws : List (Nat × Byte)}
    (h : s.writeInPlace q t ws = .ok u) (h₀ : s.Keeps s₀) : u.Keeps s₀ := by
  have hjournal := s.journal_allKeep q t (granulesOf ws) h₀
  unfold State.writeInPlace at h
  grind [Journaled.AllKeep, State.writeAll_keeps]

theorem State.runMove_keeps {s u : State} {q t : Nat} {x : Task} {m : Movement}
    (hres : s.runMove q t x m = some u) (h₀ : s.Keeps s₀) :
    u.Keeps s₀ := by
  unfold State.runMove at hres
  grind [State.moverReads_still, State.moveFails_keeps, State.moveDone_still, State.writeInPlace_keeps,
    State.faultRegion_keeps]

theorem State.moveTurn_keeps {s u : State} {q t : Nat} {x : Task} {m : Movement}
    (hres : s.moveTurn q t x m = some u) (h₀ : s.Keeps s₀) : u.Keeps s₀ := by
  unfold State.moveTurn at hres
  grind [State.turns_still, State.runMove_keeps]

@[simp] theorem State.startMove_keeps (op q t : Nat) (h₀ : s.Keeps s₀) : SomeKeeps s₀ (s.startMove op q t) := by
  intro u hres
  unfold State.startMove at hres
  grind [Option.bind_eq_some_iff, State.moveDescs_still, State.moveFails_keeps, State.failTask_keeps,
    State.moveDone_still, State.moveTurn_keeps]

/-! Transfers. -/

@[simp] theorem State.askTransfer_still (c tag : Nat) : (s.askTransfer c tag).Still s := by
  unfold State.askTransfer
  split <;> simp

theorem State.writeSites_still {s t : State} {lm : Nat} {bs : List Byte} {cs : List Nat}
    (h : s.writeSites lm bs cs = some t) : t.Still s := by
  induction cs generalizing s with
  | nil => grind [State.writeSites]
  | cons c cs ih => grind [State.writeSites, Option.bind_eq_some_iff, State.setCore_pending, State.setCore_mem]

/-! The store dies: requests, grants, borrowing, passes and stalls. -/

@[simp] theorem State.putStoreCfg_still (o : Origin) (d : Nat) (v : Word) :
    (s.putStoreCfg o d v).Still s := by simp [State.putStoreCfg]

@[simp] theorem State.askPiece_still (n : Nat) (dir : PieceDir) (off len : Nat) :
    (s.askPiece n dir off len).Still s := ⟨rfl, rfl⟩

theorem State.askBorrow_still {s t : State} {n : Nat} (hres : s.askBorrow n = some t) :
    t.Still s := by grind [State.askBorrow]

@[simp] theorem State.request_keeps (n : Nat) (dir : PieceDir) (h₀ : s.Keeps s₀) :
    SomeKeeps s₀ (s.request n dir) := by
  intro t hres
  unfold State.request at hres
  grind [State.askPiece_still, State.askBorrow_still]

@[simp] theorem State.moved_still (n : Nat) : (s.moved n).Still s := ⟨rfl, rfl⟩

@[simp] theorem State.stage_still (n : Nat) (bs : List Byte) : (s.stage n bs).Still s := by
  unfold State.stage
  dsimp only
  split <;> simp

@[simp] theorem State.openSource_still (n off : Nat) : (s.openSource n off).Still s := by
  simp [State.openSource]

@[simp] theorem State.ctxFails_keeps (n : Nat) (ahead : Bool) (cause a kind : Nat) (h₀ : s.Keeps s₀) :
    (s.ctxFails n ahead cause a kind).Keeps s₀ := by
  unfold State.ctxFails
  dsimp only
  split <;> simp [h₀]

/-- Each state that a piece's answer carries keeps the queue and the form of memory. -/
def Piece.AllKeep (p : Piece) (s₀ : State) : Prop :=
  match p with
  | .done t => t.Keeps s₀
  | .bad t _ _ _ => t.Keeps s₀
  | .waits => True

theorem State.fetch_allKeep (n off len : Nat) (h₀ : s.Keeps s₀) : (s.fetch n off len).AllKeep s₀ := by
  unfold State.fetch
  grind [Piece.AllKeep, State.moverReads_still, State.stage_still, State.memRead_still, State.openSource_still,
    State.setCore_pending, State.setCore_mem]

theorem State.takeIndex_allKeep (n : Nat) (h₀ : s.Keeps s₀) : (s.takeIndex n).AllKeep s₀ := by
  unfold State.takeIndex
  grind [Piece.AllKeep, State.moverReads_still, State.setCtx_pending, State.setCtx_mem]

theorem State.takeUpdates_allKeep (n off len : Nat) (h₀ : s.Keeps s₀) : (s.takeUpdates n off len).AllKeep s₀ := by
  have hindex := s.takeIndex_allKeep n h₀
  unfold State.takeUpdates
  grind [Piece.AllKeep, State.moverReads_still]

theorem State.putPiece_allKeep (n off len : Nat) (h₀ : s.Keeps s₀) : (s.putPiece n off len).AllKeep s₀ := by
  have hupdates := s.takeUpdates_allKeep n off len h₀
  unfold State.putPiece
  grind [Piece.AllKeep, State.setCtx_pending, State.setCtx_mem, State.openSource_still,
    State.writeInPlace_keeps, State.faultRegion_keeps]

theorem State.ringPiece_allKeep (n off len : Nat) (sites : List Nat) (last : Bool) (h₀ : s.Keeps s₀) :
    (s.ringPiece n off len sites last).AllKeep s₀ := by
  unfold State.ringPiece
  grind [Piece.AllKeep, State.setCtx_pending, State.setCtx_mem, State.storeWrite_keeps,
    State.writeInPlace_keeps, State.faultRegion_keeps,
    State.writeSites_still]

theorem State.pieceOf_allKeep (r : Request) (n : Nat) (dir : PieceDir) (off len : Nat) (h₀ : s.Keeps s₀) :
    (s.pieceOf r n dir off len).AllKeep s₀ := by
  unfold State.pieceOf
  grind [Piece.AllKeep, State.fetch_allKeep, State.putPiece_allKeep, State.ringPiece_allKeep]

theorem Piece.next_keeps {p : Piece} (h : p.AllKeep s₀) {done : State → State}
    {bad : State → Nat → Nat → Nat → State} (hdone : ∀ u, u.Keeps s₀ → (done u).Keeps s₀)
    (hbad : ∀ u cause a kind, u.Keeps s₀ → (bad u cause a kind).Keeps s₀) : SomeKeeps s₀ (p.next done bad) := by
  cases p with
  | done u => exact (someKeeps_some _).mpr (hdone u h)
  | bad u cause a kind => exact (someKeeps_some _).mpr (hbad u cause a kind h)
  | waits => exact someKeeps_none

@[simp] theorem State.serve_keeps (r : Request) (h₀ : s.Keeps s₀) : SomeKeeps s₀ (s.serve r) := by
  unfold State.serve
  split
  · next n dir off len _ =>
    have hpiece := Piece.next_keeps (s.pieceOf_allKeep r n dir off len h₀)
      (done := fun u => (u.dropRequest r).moved n)
      (bad := fun u cause a kind =>
        (u.dropRequest r).ctxFails n (dir == .fetch && (u.ctx n).fetchesAhead) cause a kind) (fun _ h => h)
      (fun _ _ _ _ h => State.ctxFails_keeps _ _ _ _ _ _ h)
    cases dir with
    | fetch =>
      dsimp only
      generalize Option.any _ _ = fits
      split
      · exact hpiece
      · exact (someKeeps_some _).mpr h₀
    | deliver =>
      dsimp only
      split
      · exact hpiece
      · exact (someKeeps_some _).mpr h₀
  · exact (someKeeps_some _).mpr h₀
  · exact someKeeps_none
  · split
    · exact someKeeps_none
    · exact (someKeeps_some _).mpr h₀
  · split
    · exact someKeeps_none
    · exact (someKeeps_some _).mpr h₀

theorem State.reclaim_still {s t : State} {n : Nat} (hres : s.reclaim n = some t) : t.Still s := by
  unfold State.reclaim at hres
  grind [State.discard_still, State.setSrcHasp_still, State.withdrawFetch_still, State.setCtx_pending,
    State.setCtx_mem]

@[simp] theorem State.borrowGrant_keeps (d : Nat) (h₀ : s.Keeps s₀) : SomeKeeps s₀ (s.borrowGrant d) := by
  intro t hres
  obtain ⟨b, -, hres⟩ := Option.bind_eq_some_iff.mp hres
  dsimp only at hres
  split at hres
  · obtain rfl := Option.some.inj hres; simp [h₀]
  · obtain ⟨u, hfound, rfl⟩ := Option.map_eq_some_iff.mp hres
    obtain ⟨n, -, hreclaim⟩ := List.exists_of_findSome?_eq_some hfound
    simp [State.reclaim_still hreclaim, h₀]

@[simp] theorem State.failRearm_keeps (by_ : Option (Nat × Nat × Nat)) (cause : Nat) (h₀ : s.Keeps s₀) :
    (s.failRearm by_ cause).Keeps s₀ := by
  unfold State.failRearm
  repeat' split
  all_goals simp [h₀]

@[simp] theorem State.beginPass_keeps (n q t : Nat) (h₀ : s.Keeps s₀) : (s.beginPass n q t).Keeps s₀ := by
  unfold State.beginPass
  dsimp only
  split <;> grind [State.failTask_keeps, State.failRearm_keeps, State.checkCtx_still, State.setCtx_pending,
    State.setCtx_mem]

@[simp] theorem State.beginAhead_keeps (n q t : Nat) (h₀ : s.Keeps s₀) : (s.beginAhead n q t).Keeps s₀ := by
  unfold State.beginAhead
  dsimp only
  split <;> grind [State.failTask_keeps, State.failRearm_keeps, State.checkCtx_still, State.loseAhead_still,
    State.setCtx_pending, State.setCtx_mem]

@[simp] theorem State.stall_still (q t : Nat) (ns : List Nat) : (s.stall q t ns).Still s := ⟨rfl, rfl⟩

/-! The graph engines and the strike. -/

@[simp] theorem State.deadlock_still (cycle : List (Nat × Nat)) : (s.deadlock cycle).Still s :=
  foldl_still _ _ s fun s p => State.toSq_still (s.setSq p.1 _) p.1 _

/-- The recursion is opened by hand: `unfold` would have Lean reduce the read of the 417,792 bytes of a core. -/
@[simp] theorem State.captures_still (s : State) (cs : List Nat) : (s.captures cs).1.Still s := by
  delta State.captures
  dsimp only [List.brecOn]
  induction cs generalizing s with
  | nil => exact ⟨rfl, rfl⟩
  | cons c cs ih =>
    dsimp only [List.brecOn.go, State.captures._f] at ih ⊢
    generalize (s.core c).windowRead 0 captureBytes = read
    cases read with
    | none => exact ⟨rfl, rfl⟩
    | some r =>
      have htail := ih (s.setCore c r.1)
      dsimp only
      split <;> next hread => rw [hread] at htail; exact htail

@[simp] theorem State.geFails_keeps (q t cause a : Nat) (h₀ : s.Keeps s₀) : (s.geFails q t cause a).Keeps s₀ :=
  State.endTask_keeps _ q t .failed { exc := excFabric, cause := cause } h₀

@[simp] theorem State.capture_keeps (q t : Nat) (x : Task) (h₀ : s.Keeps s₀) : SomeKeeps s₀ (s.capture q t x) := by
  intro u hres
  unfold State.capture at hres
  dsimp only at hres
  split at hres
  · obtain rfl := Option.some.inj hres; simp [h₀]
  · split at hres
    · cases hres
    · split at hres <;> next hread =>
        obtain rfl := Option.some.inj hres
        simp [still_of_fst hread, h₀]

/-! Hasps. -/

@[simp] theorem State.onHasp_still (k c : Nat) (f : Hasp → Hasp) : (s.onHasp k c f).Still s := ⟨rfl, rfl⟩

@[simp] theorem State.forward_still (n c : Nat) (h : Fin 16) : (s.forward n c h).Still s := by
  unfold State.forward
  dsimp only
  split <;> simp

/-! Writes to registers and write-backs. -/

@[simp] theorem State.clearReg_still (d o : Nat) (v : Word) : (s.clearReg d o v).Still s := by
  simp [State.clearReg, State.clearHelm, State.clearService]

@[simp] theorem State.putSqCfg_still (o : Origin) (q : Nat) (v : Word) :
    (s.putSqCfg o q v).Still s := by simp [State.putSqCfg]

@[simp] theorem State.putSqCtl_still (o : Origin) (q : Nat) (v : Word) :
    (s.putSqCtl o q v).Still s := by simp [State.putSqCtl]

@[simp] theorem State.putSqBase_still (q : Nat) (v : Word) : (s.putSqBase q v).Still s := by
  simp [State.putSqBase]

@[simp] theorem State.putRegDef_still (o : Origin) (r : Nat) (v : Word) :
    (s.putRegDef o r v).Still s := by simp [State.putRegDef, State.regionRefused]

@[simp] theorem State.putArea_still (o : Origin) (r off : Nat) (v : Word) (base size : Nat) :
    (s.putArea o r off v base size).Still s := by simp [State.putArea, State.regionRefused]

@[simp] theorem State.putAreaBase_still (o : Origin) (r : Nat) (v : Word) :
    (s.putAreaBase o r v).Still s := by simp [State.putAreaBase]

@[simp] theorem State.putAreaSize_still (o : Origin) (r : Nat) (v : Word) :
    (s.putAreaSize o r v).Still s := by simp [State.putAreaSize]

@[simp] theorem State.writePort_keeps (o : Origin) (p off : Nat) (v : Word) (h₀ : s.Keeps s₀) :
    (s.writePort o p off v).Keeps s₀ := by
  unfold State.writePort
  repeat' split
  all_goals simp [h₀]

@[simp] theorem State.putEqBase_still (e : Nat) (v : Word) : (s.putEqBase e v).Still s := by
  simp [State.putEqBase]

@[simp] theorem State.writeHelm_still (o : Origin) (off : Nat) (v : Word) :
    (s.writeHelm o off v).Still s := by
  unfold State.writeHelm
  repeat' split
  all_goals simp

@[simp] theorem State.putPwrCfg_still (o : Origin) (v : Word) : (s.putPwrCfg o v).Still s := by
  simp [State.putPwrCfg]

@[simp] theorem State.putBack_still (a : Nat) (v : Word) : (s.putBack a v).Still s := by
  unfold State.putBack
  split <;> simp

@[simp] theorem State.transmit_still (o : Origin) : (s.transmit o).Still s := by
  unfold State.transmit
  split <;> simp

/-! Connectors, the management endpoint and the test port. -/

@[simp] theorem State.i3cMode_still (m : Option (BitVec 7)) : (s.i3cMode m).Still s := ⟨rfl, rfl⟩

/-! Beats and drains. -/

@[simp] theorem State.countBeat_still (c : Nat) (a : Option Acc) : (s.countBeat c a).Still s := by
  unfold State.countBeat
  split <;> simp

@[simp] theorem State.rowDue_still (c : Nat) (d : Drain) (u : Nat) :
    (s.rowDue c d u).1.Still s := by
  unfold State.rowDue
  split <;> simp

/-! Register accesses: what the body leaves, the access leaves. -/

@[simp] theorem State.endpoint_keeps {s body : State} {o : Origin} {a : Nat} {write : Bool}
    (hs : s.Keeps s₀) (hb : body.Keeps s₀) :
    (s.endpoint o a write body).Keeps s₀ := by
  unfold State.endpoint
  split
  · exact hb
  · split <;> exact hs

@[simp] theorem State.onReg_keeps {s : State} {o : Origin} {a : Nat} {write : Bool} {body : State → State}
    (hs : s.Keeps s₀) (hb : (body s).Keeps s₀) : (s.onReg o a write body).Keeps s₀ := by
  refine State.endpoint_keeps hs ?_
  split
  · exact hs
  · split
    · exact hs
    · exact hb

@[simp] theorem State.onWrite_keeps {s : State} {o : Origin} {a : Nat} {body : State → State}
    (hs : s.Keeps s₀) (hb : (body s).Keeps s₀) : (s.onWrite o a body).Keeps s₀ :=
  State.onReg_keeps hs hb

@[simp] theorem State.onHostWrite_keeps {s : State} {o : Origin} {a : Nat} {v : Word} {body : State → State}
    (hs : s.Keeps s₀) (hb : (body s).Keeps s₀) : (s.onHostWrite o a v body).Keeps s₀ := by
  simp [State.onHostWrite, hs, hb]

/-! Resets. -/

theorem State.resetModule_keeps (h₀ : s.Keeps s₀) : s.resetModule.Keeps s₀ := by
  unfold State.resetModule
  generalize List.range 8 = ports
  dsimp only
  exact foldl_keeps (fun s p h => by simpa [State.leaveReady] using h) ports h₀

@[simp] theorem State.resetScope_keeps (reach die core : Nat) (h₀ : s.Keeps s₀) :
    (s.resetScope reach die core).Keeps s₀ := by
  unfold State.resetScope
  split
  · exact ⟨h₀.queue, fun _ => rfl⟩
  · split
    · exact s.resetModule_keeps h₀
    · split
      · exact s.resetFabric_keeps h₀
      · split
        · exact h₀
        · dsimp only
          split
          · exact h₀
          · split
            · exact State.resetLink_keeps _ _ h₀
            · split <;> exact h₀

@[simp] theorem State.assertAt_keeps (src reach die core : Nat) (held handover : Bool) (h₀ : s.Keeps s₀) :
    (s.assertAt src reach die core held handover).Keeps s₀ := by
  unfold State.assertAt
  extract_lets a overlap es e within whole pooled
  have hwithin : within.Keeps s₀ := s.resetScope_keeps reach die core h₀
  have hwhole : whole.Keeps s₀ := by grind [State.resetFabric_keeps]
  simpa [pooled, State.resetPool] using hwhole

@[simp] theorem State.assert_keeps (src die : Nat) (held : Bool) (h₀ : s.Keeps s₀) :
    (s.assert_ src die held).Keeps s₀ := by
  grind [State.assert_, State.loseDie_keeps, State.assertAt_keeps]

@[simp] theorem State.watchdogBites_keeps (h₀ : s.Keeps s₀) :
    s.watchdogBites.Keeps s₀ := by simp [State.watchdogBites, h₀]

@[simp] theorem State.putRstReq_keeps (o : Origin) (v : Word) (h₀ : s.Keeps s₀) : (s.putRstReq o v).Keeps s₀ := by
  unfold State.putRstReq
  split <;> simp [h₀]

@[simp] theorem State.inputLost_keeps (x : InputState) (h₀ : s.Keeps s₀) : (s.inputLost x).Keeps s₀ := by
  simp [State.inputLost, h₀]

/-! Lockouts. -/

@[simp] theorem State.failSite_still (c : Nat) : (s.failSite c).Still s := by
  simp [State.failSite, State.gridChange]

@[simp] theorem State.lockout_keeps (c trigger : Nat) (fate : TaskEnd) (h₀ : s.Keeps s₀) :
    (s.lockout c trigger fate).Keeps s₀ := by
  unfold State.lockout
  extract_lets t revoked xy failed reissued recorded reach lost
  have hrevoked : revoked.Keeps s₀ := by
    grind [State.revoke_keeps, State.faultRegion_keeps]
  have hreissued : reissued.Keeps s₀ := by
    grind [State.reissue_keeps, State.failSite_still, State.useFree_pending, State.useFree_mem]
  grind [State.lockoutRec_still, State.loseDie_keeps, State.assertAt_keeps]

@[simp] theorem State.coreExc_keeps (c code : Nat) (u : UnitId) (i line : Nat) (h₀ : s.Keeps s₀) :
    (s.coreExc c code u i line).Keeps s₀ := by
  unfold State.coreExc
  split
  · exact h₀
  · split
    · dsimp only
      split
      · exact State.lockout_keeps _ _ _ _ h₀
      · split <;> simp [h₀]
    · exact State.endTask_keeps _ _ _ _ _ h₀

@[simp] theorem State.lockDie_keeps (d trigger : Nat) (h₀ : s.Keeps s₀) : (s.lockDie d trigger).Keeps s₀ := by
  unfold State.lockDie
  refine State.assert_keeps _ _ _ _ ?_
  dsimp only
  split
  · simpa [State.dieLockoutRec] using h₀
  · exact State.loseDie_keeps _ d (by simpa [State.dieLockoutRec] using h₀)

@[simp] theorem State.dieFault_keeps (d trigger : Nat) (h₀ : s.Keeps s₀) : (s.dieFault d trigger).Keeps s₀ := by
  grind [State.dieFault, State.assertAt_keeps, State.lockDie_keeps, State.assert_keeps]

@[simp] theorem State.safe_keeps (b : ParityBlock) (h₀ : s.Keeps s₀) : (s.safe b).Keeps s₀ := by
  cases b <;> simp [State.safe, h₀]

/-! Boot. -/

@[simp] theorem State.takeRepair_still (s : State) (es : List RepairEntry) (e : RepairEntry) :
    (s.takeRepair es e).Still s := by simp [State.takeRepair]

@[simp] theorem State.buildRepairs_still : s.buildRepairs.Still s := by
  unfold State.buildRepairs
  split <;> simp

@[simp] theorem State.runImage_keeps (i : Image) (b : List Byte) (h₀ : s.Keeps s₀) : (s.runImage i b).Keeps s₀ := by
  simp [State.runImage, State.wakeKept, h₀]

@[simp] theorem State.bootSlot_keeps (h₀ : s.Keeps s₀) : s.bootSlot.Keeps s₀ := by
  unfold State.bootSlot
  dsimp only
  split
  · simpa using h₀
  · split
    · simpa using h₀
    · exact State.runImage_keeps _ _ _ h₀

@[simp] theorem State.takeRecovery_keeps (b : List Byte) (h₀ : s.Keeps s₀) : (s.takeRecovery b).1.Keeps s₀ := by
  unfold State.takeRecovery
  repeat' split
  all_goals simp [h₀]

@[simp] theorem State.putGang_keeps (q t : Nat) (x : Task) (ox oy : Nat) (h₀ : s.Keeps s₀) :
    (s.putGang q t x ox oy).Keeps s₀ := by
  unfold State.putGang
  dsimp only
  split
  · refine State.startTask_keeps _ _ _ _ _ _ ?_
    split <;> exact h₀
  · exact foldl_keeps (fun s c h => State.lockout_keeps s c 3 {} h) _ h₀

@[simp] theorem State.writeService_keeps (o : Origin) (off : Nat) (v : Word) (h₀ : s.Keeps s₀) :
    (s.writeService o off v).Keeps s₀ := by
  unfold State.writeService
  repeat' split
  all_goals simp [h₀]

@[simp] theorem State.writeReg_keeps (o : Origin) (d off : Nat) (v : Word) (h₀ : s.Keeps s₀) :
    (s.writeReg o d off v).Keeps s₀ := by
  grind [State.writeReg, State.writeCompute, State.writeStore, State.writeMem, State.clearReg_still,
    State.putStoreCfg_still, State.writePort_keeps, State.writeHelm_still, State.writeService_keeps,
    State.setPort_pending, State.setPort_mem]

@[simp] theorem State.putReg_keeps (o : Origin) (a : Nat) (v : Word) (h₀ : s.Keeps s₀) :
    (s.putReg o a v).Keeps s₀ := by
  unfold State.putReg
  split <;> simp [h₀]

@[simp] theorem State.accessReg_keeps (o : Origin) (a n : Nat) (data : Option (List Byte)) (h₀ : s.Keeps s₀) :
    (s.accessReg o a n data).Keeps s₀ := by
  refine State.endpoint_keeps h₀ ?_
  split
  · exact h₀
  · split
    · exact h₀
    · exact h₀
    · dsimp only
      split
      · exact h₀
      · exact s.putReg_keeps o a _ h₀
    · exact h₀

@[simp] theorem State.fabric_keeps (o : Origin) (a n : Nat) (data : Option (List Byte)) (h₀ : s.Keeps s₀) :
    (s.fabric o a n data).Keeps s₀ := by
  unfold State.fabric
  split
  · simp [h₀]
  · split
    · exact h₀
    · extract_lets bad u held
      have hu : u.Keeps s₀ := by
        unfold u
        split
        · exact h₀
        · exact h₀
      have hturn : (if held = true then (u, true) else u.accessTurn o a n).1.Keeps s₀ := by
        split
        · exact hu
        · simpa using hu
      split <;> next h =>
        rw [h] at hturn
        simp_all

@[simp] theorem State.updateRow_keeps (key : Nat) (h₀ : s.Keeps s₀) : SomeKeeps s₀ (s.updateRow key) := by
  unfold State.updateRow
  repeat' split
  all_goals simp [h₀]

@[simp] theorem State.escalated_keeps (x : RecoveryStep) (h₀ : s.Keeps s₀) : SomeKeeps s₀ (s.escalated x) := by
  intro t h
  unfold State.escalated at h
  grind [State.dieFault_keeps, State.assertAt_keeps, State.watchdogBites_keeps]

@[simp] theorem State.placeTask_keeps (q t ox oy : Nat) (x : Task) (h₀ : s.Keeps s₀) :
    SomeKeeps s₀ (s.placeTask q t ox oy x) := by simp [State.placeTask, h₀]

end

section
variable {s₀ s : State} (hs : s.Keeps s₀)
include hs

@[simp] theorem State.happens_keeps (o : Option State) : NextKeeps s₀ (s.happens o) ↔ SomeKeeps s₀ o := by
  cases o <;> simp [hs]

@[simp] theorem State.managed_keeps {b : State} (hb : b.Keeps s₀) : NextKeeps s₀ (s.managed b) := by
  unfold State.managed
  rw [nextKeeps_next]
  split
  · split
    · exact hs
    · exact hb
  · exact hs

@[simp] theorem State.asked_keeps {b : State} (hb : b.Keeps s₀) : NextKeeps s₀ (s.asked b) := by
  unfold State.asked
  rw [nextKeeps_next]
  split
  · exact hb
  · exact hs

@[simp] theorem State.coreRes_keeps (c : Nat) (x : CoreRes) : NextKeeps s₀ (s.coreRes c x) := by
  cases x with
  | ok t k => exact (nextKeeps_next _).mpr hs
  | held k => exact (nextKeeps_next _).mpr hs
  | exc code u i k line => exact (nextKeeps_next _).mpr (State.coreExc_keeps (s.setCore c k) c code u i line hs)
  | noop => exact (nextKeeps_next _).mpr hs
  | refuse => exact nextKeeps_refused _

@[simp] theorem State.onCore_keeps (c : Nat) (g : Core → CoreRes) : NextKeeps s₀ (s.onCore c g) := by
  simp [State.onCore, hs]

@[simp] theorem State.onInstr_keeps (c : Nat) (u : UnitId) (i : Instr) (g : Core → CoreRes) :
    NextKeeps s₀ (s.onInstr c u i g) := State.onCore_keeps hs c _

@[simp] theorem State.transfer_keeps (i : Instr) (c : Nat) (tag : Fin 8) (kind : XferKind) (l m n : Fin 32)
    (extra : Bool) : NextKeeps s₀ (s.transfer i c tag kind l m n extra) := by
  unfold State.transfer
  split
  · dsimp only
    split <;> simp [hs]
  · simp

@[simp] theorem State.onPacket_keeps (p : Nat) (v : Vc) (op : Nat) {body : State → Header → List Byte → Option State}
    (hbody : ∀ u h d, u.Keeps s₀ → SomeKeeps s₀ (body u h d)) : NextKeeps s₀ (s.onPacket p v op body) := by
  unfold State.onPacket
  split
  · exact (nextKeeps_next _).mpr hs
  · have hskipped : (s.skipBad p v ((s.lport p).vcOf v).rx.length).Keeps s₀ := by simpa using hs
    refine (State.happens_keeps hskipped _).mpr (someKeeps_bind fun x => ?_)
    dsimp only
    split
    · exact hbody _ _ _ hskipped
    · exact someKeeps_none

@[simp] theorem State.onEntry_keeps (q : Nat) (mine : Entry → Bool) {body : State → Entry → Option State}
    (hbody : ∀ u e, u.Keeps s₀ → SomeKeeps s₀ (body u e)) : NextKeeps s₀ (s.onEntry q mine body) := by
  unfold State.onEntry
  split
  · extract_lets taken dropped
    have hdropped : dropped.Keeps s₀ := by
      have htaken : taken.Keeps s₀ := by
        unfold taken
        split
        · simpa using hs
        · exact hs
      simpa [dropped] using htaken
    refine (State.happens_keeps hdropped _).mpr (someKeeps_bind fun e => ?_)
    split
    · exact hbody _ _ hdropped
    · exact someKeeps_none
  · exact nextKeeps_fault _

@[simp] theorem State.onTask_keeps (q t : Nat) {g : Task → Option State} (hg : ∀ x, SomeKeeps s₀ (g x)) :
    NextKeeps s₀ (s.onTask q t g) := by simp [State.onTask, hs, hg]

@[simp] theorem State.onCtx_keeps (n : Nat) {g : Ctx → Option State} (hg : ∀ c, SomeKeeps s₀ (g c)) :
    NextKeeps s₀ (s.onCtx n g) := by simp [State.onCtx, hs, hg]

omit hs in
@[simp] theorem State.withFree_still (o : Out) : NextKeeps s₀ (s.withFree o) ↔ NextKeeps s₀ o := by
  cases o <;> simp [State.withFree]

end

/-! What each command answers. First the commands whose answer takes a case split of its own. -/

section
variable {s : State}

/-! Packets and entries. -/

theorem execPut_kept {p : Fin 8} {vc : Vc} : NextKeeps s (execPut p vc s) := by
  refine State.onPacket_keeps s.keeps_refl _ _ _ fun u h d hu => ?_
  split
  · exact u.writePacket_keeps p vc h d id (fun _ h => h) hu
  · exact (someKeeps_some _).mpr hu

theorem execGet_kept {p : Fin 8} : NextKeeps s (execGet p s) :=
  State.onPacket_keeps s.keeps_refl _ _ _ fun u h _ hu => u.get_keeps p h hu

theorem execReducePut_kept {p : Fin 8} : NextKeeps s (execReducePut p s) :=
  State.onPacket_keeps s.keeps_refl _ _ _ fun u h d hu => u.reducePut_keeps p h d hu

theorem execPermutePacket_kept {p : Fin 8} : NextKeeps s (execPermutePacket p s) := by
  refine State.onPacket_keeps s.keeps_refl _ _ _ fun u h d hu => ?_
  dsimp only
  split
  · exact (someKeeps_some _).mpr hu
  · split
    · exact (someKeeps_some _).mpr hu
    · split
      · exact someKeeps_none
      · exact u.writePacket_keeps p .red h d _ (fun t ht => by simpa using ht) hu

theorem execCompletion_kept {p : Fin 8} : NextKeeps s (execCompletion p s) := by
  refine State.onPacket_keeps s.keeps_refl _ _ _ fun u h d hu => (someKeeps_some _).mpr ?_
  split
  · exact State.endTaken_keeps _ _ _ _ hu
  · exact hu

theorem execGetRsp_kept {p : Fin 8} : NextKeeps s (execGetRsp p s) := by
  refine State.onPacket_keeps s.keeps_refl _ _ _ fun u h d hu => ?_
  split
  · exact (someKeeps_some _).mpr hu
  · split
    · exact (someKeeps_some _).mpr hu
    · split
      · split
        · exact u.landGet_keeps p h _ _ d hu
        · exact (someKeeps_some _).mpr (State.endTaken_keeps _ _ _ _ hu)
      · exact (someKeeps_some _).mpr hu

theorem execGraph_kept {q : Nat} : NextKeeps s (execGraph q s) := by
  refine State.onEntry_keeps s.keeps_refl _ _ fun u e hu t ht => ?_
  obtain ⟨v, hv, rfl⟩ := Option.map_eq_some_iff.mp ht
  exact v.endDoomed_keeps q (u.takeGraph_keeps q e hu v hv)

theorem execStreamArm_kept {q : Nat} : NextKeeps s (execStreamArm q s) :=
  State.onEntry_keeps s.keeps_refl _ _ fun u e hu => u.streamArm_keeps q e hu

theorem State.releaseCtx_still (s : State) (n : Nat) : (s.releaseCtx n).Still s := by
  simp [State.releaseCtx]

theorem execStreamRelease_kept {q : Nat} : NextKeeps s (execStreamRelease q s) := by
  refine State.onEntry_keeps s.keeps_refl _ _ fun u e hu => ?_
  dsimp only
  split
  · exact someKeeps_none
  · rw [someKeeps_some]
    have hreleased := (u.releaseCtx_still e.streamCtx).keeps hu
    split <;> split <;> simpa

theorem execReshard_kept {q : Nat} : NextKeeps s (execReshard q s) := by
  refine State.onEntry_keeps s.keeps_refl _ _ fun u e hu => ?_
  split
  · exact someKeeps_none
  · have hread := (u.readReshard_still q e).keeps hu
    split <;> next heq =>
      rw [heq] at hread
      exact (someKeeps_some _).mpr hread

theorem execReshardComplete_kept {axis : Fin 4} : NextKeeps s (execReshardComplete axis s) := by
  refine (State.happens_keeps s.keeps_refl _).mpr (someKeeps_bind fun r => ?_)
  dsimp only
  split
  · split <;> simp
  · simp

theorem execTaskCommit_kept {q t : Nat} : NextKeeps s (execTaskCommit q t s) := by
  refine State.onTask_keeps s.keeps_refl _ _ fun x => ?_
  split
  · split <;> next hturns => simp [still_of_fst hturns]
  · simp

/-! Registers whose body is one update of the state. -/

theorem execPortSqTail_kept {o : Origin} {p : Fin 8} {v : BitVec 64} :
    NextKeeps s (execPortSqTail o p v s) :=
  (nextKeeps_next _).mpr (State.onWrite_keeps s.keeps_refl s.keeps_refl)

theorem execPortRingid_kept {p : Fin 8} {v : BitVec 64} : NextKeeps s (execPortRingid p v s) :=
  State.managed_keeps s.keeps_refl (State.onReg_keeps s.keeps_refl s.keeps_refl)

theorem execEqHead_kept {o : Origin} {e : Nat} {v : BitVec 64} : NextKeeps s (execEqHead o e v s) := by
  unfold execEqHead
  split
  · exact (nextKeeps_next _).mpr (State.onWrite_keeps s.keeps_refl s.keeps_refl)
  · simp

theorem execRegLock_kept {idx : Nat} : NextKeeps s (execRegLock idx s) := by
  unfold execRegLock
  split
  · exact State.managed_keeps s.keeps_refl s.keeps_refl
  · simp

theorem execDevidCert_kept : NextKeeps s (execDevidCert s) := State.managed_keeps s.keeps_refl s.keeps_refl

/-! The end of a domain change, a step of a thermal level, the lockout of a die. -/

theorem execDomainChangeDone_kept : NextKeeps s (execDomainChangeDone s) :=
  (State.happens_keeps s.keeps_refl _).mpr (someKeeps_map fun c => s.domainDone_keeps c.1 c.2 s.keeps_refl)

theorem execThermalLevelStep_kept {x : Sensor} : NextKeeps s (execThermalLevelStep x s) := by
  cases x <;> simp [execThermalLevelStep, State.stepGroup, State.stepModule]

theorem execDieLockout_kept {i : Nat} {why : DieFault} : NextKeeps s (execDieLockout i why s) := by
  cases why <;> simp [execDieLockout, State.operatorDie]

/-! A hasp forwarded, and a row of a drain. -/

theorem execHaspForward_kept {x c : Nat} : NextKeeps s (execHaspForward x c s) := by
  unfold execHaspForward
  split
  · refine (State.happens_keeps s.keeps_refl _).mpr ?_
    split <;> simp
  · simp

theorem execDrainRowWrite_kept {c : Nat} : NextKeeps s (execDrainRowWrite c s) := by
  unfold execDrainRowWrite
  split
  · split
    · simp
    · dsimp only
      split
      · simp
      · split <;> simp [State.writeRowPort]
  · simp

/-! The ends of a transfer. -/

/-- Each state that the end of a transfer carries keeps the queue and the form of memory. -/
def XferEnd.AllKeep (x : XferEnd) (s₀ : State) : Prop :=
  match x with
  | .done t => t.Keeps s₀
  | .error t _ _ _ => t.Keeps s₀
  | .lost t _ => t.Keeps s₀
  | .waits => True

theorem State.transferWrite_allKeep {s₀ : State} (s : State) (c a : Nat) (bs : List Byte) (hs : s.Keeps s₀) :
    (s.transferWrite c a bs).AllKeep s₀ := by
  have hplace : ∀ q t, match s.writeInPlace q t (bytesAt a bs) with
      | .ok u => u.Keeps s₀
      | _ => True := fun q t => by
    split
    · next hwrite => exact State.writeInPlace_keeps hwrite hs
    · trivial
  unfold State.transferWrite
  split
  · next q t _ _ => specialize hplace q t; grind [XferEnd.AllKeep, State.faultRegion_keeps]
  · next q t _ _ => specialize hplace q t; grind [XferEnd.AllKeep, State.faultRegion_keeps]
  · split
    · next hwrite => exact State.memWrite_keeps hwrite hs
    · exact hs

theorem State.runTransfer_allKeep (s : State) (c : Nat) (x : Transfer) :
    (s.runTransfer c x).AllKeep s := by
  have hwrite := fun k bs => (s.setCore c k).transferWrite_allKeep (s₀ := s) c x.far.toNat bs s.keeps_refl
  unfold State.runTransfer
  grind [XferEnd.AllKeep, State.keeps_refl, State.memRead_still, State.writeSites_still,
    State.setCore_pending, State.setCore_mem]

theorem execTransferComplete_kept {c : Nat} {tag : Fin 8} :
    NextKeeps s (execTransferComplete c tag s) := by
  unfold execTransferComplete
  split
  · refine (State.happens_keeps s.keeps_refl _).mpr (someKeeps_bind fun x => ?_)
    have hend := s.runTransfer_allKeep c x
    split <;> simp_all [XferEnd.AllKeep]
  · simp

theorem execTransferErrorResponse_kept {c : Nat} {tag : Fin 8} :
    NextKeeps s (execTransferErrorResponse c tag s) := by
  unfold execTransferErrorResponse
  split
  · refine (State.happens_keeps s.keeps_refl _).mpr (someKeeps_bind fun x => ?_)
    have hend := s.runTransfer_allKeep c x
    split <;> rename_i heq
    · rw [heq] at hend
      exact (someKeeps_some _).mpr (State.coreExc_keeps _ _ _ _ _ _ hend)
    · rw [heq] at hend
      exact (someKeeps_some _).mpr (State.coreExc_keeps _ _ _ _ _ _ hend)
    · exact someKeeps_none
  · simp

/-! Ports, the clock of strikes, fuses and the rest. -/

theorem execRetrainEnd_kept {l : FrameLock} : NextKeeps s (execRetrainEnd l s) := by
  refine (State.happens_keeps s.keeps_refl _).mpr ?_
  split
  · exact (someKeeps_some _).mpr (State.lockFrames_keeps _ _ _ s.keeps_refl)
  · exact someKeeps_none

theorem execHello_kept {p : Fin 8} : NextKeeps s (execHello p s) := by
  refine (State.happens_keeps s.keeps_refl _).mpr ?_
  split
  · exact someKeeps_map fun pl => State.portTo_keeps _ _ _ s.keeps_refl
  · exact someKeeps_none

theorem State.takeResetReq_keeps (s : State) (p : Nat) : (s.takeResetReq p).Keeps s := by
  unfold State.takeResetReq
  dsimp only
  split
  · exact State.assert_keeps _ _ _ _ s.keeps_refl
  · exact s.keeps_refl

theorem execResetReqReceive_kept {p : Fin 8} : NextKeeps s (execResetReqReceive p s) := by
  refine (State.happens_keeps s.keeps_refl _).mpr ?_
  split
  · exact someKeeps_map fun _ => s.takeResetReq_keeps p
  · exact someKeeps_none

theorem execManagementReset_kept : NextKeeps s (execManagementReset s) := by
  refine State.managed_keeps s.keeps_refl ?_
  simp

theorem execPassStart_kept {n : Nat} : NextKeeps s (execPassStart n s) := by
  refine State.onCtx_keeps s.keeps_refl n fun c => ?_
  split
  · exact someKeeps_none
  · split
    · exact someKeeps_map fun o => s.beginPass_keeps n o.1 o.2 s.keeps_refl
    · split
      · exact someKeeps_map fun o => s.beginAhead_keeps n o.1 o.2 s.keeps_refl
      · exact someKeeps_none

theorem State.watchStalls_still (s : State) : s.watchStalls.Still s := by
  simp [State.watchStalls]

theorem State.atStrike_keeps {s₀ s : State} (hs : s.Keeps s₀) : s.atStrike.Keeps s₀ := by
  have hundone : s.watchStalls.pruneDeadlocks.settleUndo.Keeps s₀ :=
    foldl_keeps (f := State.undo) (fun s j h => s.undo_keeps j h) _ (s.watchStalls_still.keeps hs)
  unfold State.atStrike State.bootAgain
  split
  · exact State.bootLast_keeps _ hundone
  · exact hundone

theorem execStrikeTick_kept : NextKeeps s (execStrikeTick s) := by
  refine (State.happens_keeps s.keeps_refl _).mpr ?_
  split
  · exact (someKeeps_some _).mpr (State.atStrike_keeps s.keeps_refl)
  · exact someKeeps_none

theorem execFwSvnBurn_kept : NextKeeps s (execFwSvnBurn s) := by
  refine State.managed_keeps s.keeps_refl ?_
  unfold State.svnBurn
  repeat' split
  all_goals exact s.keeps_refl

theorem execRootRevoke_kept {n : Fin 2} : NextKeeps s (execRootRevoke n s) := by
  refine State.managed_keeps s.keeps_refl ?_
  unfold State.revokeRoot
  dsimp only
  split <;> exact s.keeps_refl

end

/-! Every command. -/

/-- Every command leaves the queue and keeps the form of memory. -/
theorem exec_keeps (i : Instr) (s : State) : NextKeeps s (exec i s) := by
  cases i with
  | li | mov | movLcnt | movCount | add | sub | and | or | xor | shl | shr | sra | min | max | minu | maxu
  | seq | slt | sltu | mul | ldbind | br | brz | brnz | brlt | brltu | breq | loop | ld | ldSigned | st | ldq
  | pushq | popq | popqDrop | stq | agen | apush | xwait | xwaitAll | hslot | strk | swait | swaitRel | ward
  | endStream | popv | pushv | owait | opa | tclr | tstat | drain | vld | vst | vadd | vsub | vmul | vmin
  | vmax | vfma | viadd | vabs | vneg | vmov | vand | vor | vxor | vshl | vshr | vsra | vcmp | vsel | vrot
  | vbcast | vlane | vany | vall | vexp2 | vlog2 | vrcp | vstat | vstatClr | vcvt | vcvtMx | vcvtBfx | vext
  | vextMx | vcvtF32 | vpadd | vpfold | xclr | xrd | xrdp | xsave | xload | xaddi | xflags =>
    exact State.onInstr_keeps s.keeps_refl _ _ _ _
  | dqEntryPoppable | strikeWaitComplete | accumulateAccept | accumulateFinal | drainTake | rowOperandRead
  | drainRowSample | coreQueueDeadlock | launchSlotStrike => exact State.onCore_keeps s.keeps_refl _ _
  | xadd | xaddp => simp [exec, execXadd, execXaddp]
  | xget | xput | xputMc => simp [exec, execXget, execXput, execXputMc]
  | laneSpare | retrainTimeout | trainingRetry | framesLocked | flitSend | flitReceive | replayTimeout
  | helloSend | init | initSend | resetReq =>
    simp [exec, execLaneSpare, State.spareLane, execRetrainTimeout, execTrainingRetry,
      execFramesLocked, execFlitSend, execFlitReceive, State.receiveFlit, execReplayTimeout,
      execHelloSend, execInit, State.initPort, execInitSend, execResetReq, State.sendResetReq,
      State.logResetReq]
  | flagPacket | linkDescriptor | portCtl =>
    simp [exec, execFlagPacket, execLinkDescriptor, execPortCtl]
  | portSqTail => exact execPortSqTail_kept
  | eqHead => exact execEqHead_kept
  | put => exact execPut_kept
  | completion => exact execCompletion_kept
  | getRsp => exact execGetRsp_kept
  | portRingid => exact execPortRingid_kept
  | eqCfg | eventRecordWrite | eventInterrupt | handover | hostmem | frontEndFrame =>
    simp [exec, execEqCfg, execEventRecordWrite, State.writeRecord, execEventInterrupt, State.signal, execHandover,
      execHostmem, execFrontEndFrame]
  | rowMapUpdate | patrolScrub | rowRedirectDone | memRepair | memRepairEnd | channelRetire =>
    simp [exec, execRowMapUpdate, execPatrolScrub, execRowRedirectDone, State.redirectDone, execMemRepair,
      State.memRepair, execMemRepairEnd, State.memRepaired, execChannelRetire]
  | por | crystalWindow | crystalTimeout | xtallost | clkNodeSrc | clkNodeGate | clkNodeUngate | clockSwitchEnd
  | clkmonCtl | rowClockGate =>
    simp [exec, execPor, execCrystalWindow, execCrystalTimeout, State.endPor, execXtallost, execClkNodeSrc,
      execClkNodeGate, execClkNodeUngate, execClockSwitchEnd, execClkmonCtl, execRowClockGate]
  | resetN | rstReq | watchdog | resetSourceRelease =>
    simp [exec, execResetN, execRstReq, execWatchdog, execResetSourceRelease]
  | inputUndervoltage | inputOvervoltage | vinSenseLoss | inputRestored | vinrange | phaseFail | pwrDom | pwrCap
  | fastLoop | slowLoop | droop | droopDecay =>
    simp [exec, execInputUndervoltage, execInputOvervoltage, execVinSenseLoss, execInputRestored, execVinrange,
      execPhaseFail, State.losePhase, execPwrDom, execPwrCap, execFastLoop, execSlowLoop, State.supervise,
      State.dieWindow, State.tellDisagree, State.floorWindow, execDroop, execDroopDecay]
  | domainChangeDone => exact execDomainChangeDone_kept
  | thermalSensorRead | controlParityError | coreLockout | repairRecordWrite | dieReturn | recoveryTimeout
  | configParityScan =>
    simp [exec, execThermalSensorRead, State.readSensor, State.trip, execControlParityError, execCoreLockout,
      execRepairRecordWrite, State.writeRepair, execDieReturn, State.returnDie, execRecoveryTimeout,
      execConfigParityScan, State.parityFound]
  | thermalLevelStep => exact execThermalLevelStep_kept
  | dieLockout => exact execDieLockout_kept
  | boot | fwRecover | recoveryMailbox | fwCommit | updDone | attest | attCtl | attExtend =>
    simp [exec, execBoot, State.fuseFault, execFwRecover, State.recoverBlock, execRecoveryMailbox, State.mailed,
      execFwCommit, State.fwCommit, execUpdDone, execAttest, execAttCtl, execAttExtend]
  | devidCert => exact execDevidCert_kept
  | taskEnd | wardArrive | wardRelease | coreWindowRead | coreWindowWrite =>
    simp [exec, execTaskEnd, execWardArrive, execWardRelease, execCoreWindowRead, execCoreWindowWrite]
  | sqDb | flag | streamRearm | abort =>
    simp [exec, execSqDb, execFlag, execStreamRearm, execAbort]
  | graph => exact execGraph_kept
  | portXchna | portXchnb | channelSlotSend | epochFence | copyOut =>
    simp [exec, execPortXchna, execPortXchnb, execChannelSlotSend, execEpochFence, execCopyOut]
  | reshard => exact execReshard_kept
  | copy | permute | gather | scatterAcc => simp [exec, execCopy, execPermute, execGather, execScatterAcc]
  | reshardComplete => exact execReshardComplete_kept
  | transferComplete => exact execTransferComplete_kept
  | transferErrorResponse => exact execTransferErrorResponse_kept
  | storeCfg | armingRetry | streamRequest | requestGrant | borrowGrant | slotFillPost | slotFreePost | streamStall =>
    simp [exec, execStoreCfg, execArmingRetry, execStreamRequest, execRequestGrant, execBorrowGrant,
      execSlotFillPost, execSlotFreePost, execStreamStall]
  | serviceHeartbeat | taskReady | taskPlace | placeWaitExpiry | wardTaskRelease | queueDeadlock
  | cutCapture =>
    simp [exec,
      execServiceHeartbeat, execTaskReady, State.makeReady, execTaskPlace, execPlaceWaitExpiry,
      execWardTaskRelease, State.releaseWardTask, execQueueDeadlock, execCutCapture]
  | taskCommit => exact execTaskCommit_kept
  | haspForward => exact execHaspForward_kept
  | hpostApply | sqCfg | resume | regDef | regAreaBase | regAreaSize =>
    simp [exec, execHpostApply, execSqCfg, execResume, execRegDef, execRegAreaBase, execRegAreaSize]
  | registerWrite | writeBack | fabricAccess | cblPrsntN | dynamicAddress | rstdaa | extest | trstN =>
    simp [exec, execRegisterWrite, execWriteBack, execFabricAccess, execCblPrsntN, State.cableMoved,
      execDynamicAddress, execRstdaa, execExtest, State.loadExtest, execTrstN]
  | regLock => exact execRegLock_kept
  | drainRowWrite => exact execDrainRowWrite_kept
  | granuleMigrated | channelRetired | resetRelease | domainOnTimeout | bankSpareDone | validClear =>
    dsimp only [exec, execGranuleMigrated, execChannelRetired, execResetRelease, execDomainOnTimeout,
      execBankSpareDone, execValidClear]
    split <;> simp [State.firstGroup, State.releaseEpisode, State.domainLeftOff]
  | hwait | hpost | scancel | srearm | beatEdgeEntry =>
    dsimp only [exec, execHwait, execHpost, execScancel, execSrearm, execBeatEdgeEntry]
    split
    · split <;> simp [State.cancel]
    · simp
  | retrainEnd => exact execRetrainEnd_kept
  | hello => exact execHello_kept
  | resetReqReceive => exact execResetReqReceive_kept
  | managementReset => exact execManagementReset_kept
  | passStart => exact execPassStart_kept
  | strikeTick => exact execStrikeTick_kept
  | get => exact execGet_kept
  | reducePut => exact execReducePut_kept
  | permutePacket => exact execPermutePacket_kept
  | streamArm => exact execStreamArm_kept
  | streamRelease => exact execStreamRelease_kept
  | fwSvnBurn => exact execFwSvnBurn_kept
  | rootRevoke => exact execRootRevoke_kept

/-! The obligation. -/

theorem step_keeps {s t : State} (h : step s = .next t) :
    t.pending = s.pending.tail ∧ (Memory.wf s.mem = true → Memory.wf t.mem = true) := by
  unfold step at h
  split at h
  · next hempty =>
    obtain rfl := Host.Outcome.next.inj h
    simp [hempty]
  · next i rest hpending =>
    have hkept := exec_keeps i { s with pending := rest } t h
    exact ⟨by rw [hpending]; exact hkept.queue, hkept.form⟩

/-- Settles O60: a step takes the front command off,
  and no command touches the rest of the queue or writes a byte of
memory that is not in canonical form. -/
theorem stepKeepsQueueAndMemory : Obligations.StepKeepsQueueAndMemory := by
  unfold Obligations.StepKeepsQueueAndMemory
  exact ⟨fun _ _ h => (step_keeps h).1, fun _ _ hs h => (step_keeps h).2 hs⟩

end Sys2Proof.Machine
end

section
/-! PROOF. O1 and O59: what a step runs, and the state after power-on reset. -/

namespace Sys2Proof.Machine

open Sys2Proof

/-- Settles O1: the two parts are the two branches of `step`. -/
theorem stepRunsFrontCommand : Obligations.StepRunsFrontCommand := by
  unfold Obligations.StepRunsFrontCommand Claims.StepRunsFrontCommand
  intro s
  constructor
  · intro c rest hpending
    simp [step, hpending]
  · intro hempty
    simp [step, hempty]

/-- After reset the supervisor's domain alone is on (R17). -/
theorem State.domOn_reset (d : Nat) : State.reset.domOn d = true ↔ d = 19 := by
  have hbits : (0x80000 : BitVec 20) = BitVec.twoPow 20 19 := by decide
  have hstate : State.reset.domOn d = (0x80000 : BitVec 20).getLsbD d := rfl
  rw [hstate, hbits, BitVec.getLsbD_twoPow]
  simp [eq_comm]

/-- After reset region 0 alone is valid (R251). -/
theorem State.region_reset_other {r : Nat} (h : r ≠ 0) : (State.reset.region r).valid = false := by
  have hother : State.reset.region r = if 0 = r then { def_ := 0xC000000000000FFF } else {} := rfl
  rw [hother, if_neg (Ne.symm h)]
  rfl

/-- Settles O59: the state after reset, field by field. -/
theorem resetState : Obligations.ResetState := by
  unfold Obligations.ResetState Claims.ResetState
  exact ⟨rfl, rfl, State.domOn_reset, fun _ => rfl, fun _ => rfl, fun _ => rfl, fun _ => rfl, fun _ => rfl,
    fun _ => rfl, rfl, fun _ => State.region_reset_other, rfl, rfl, rfl, rfl, State.wf_reset⟩

end Sys2Proof.Machine
end

section
/-! PROOF. O2: scalar instructions. The first part is a layer for every instruction of a core: what an instruction that
issues answers (`State.onInstr_issued` and its variants), and what `Core.done` leaves of a stream. -/

namespace Sys2Proof.Machine

open Sys2Proof

/-! A stream at its next instruction: the loop-backs touch the index, the loops and the running counts,
  and depend on
nothing else (R127). -/

/-- A stream that stands where another one does, with the other one's loops and running counts. -/
def Stream.standAt (st x : Stream) : Stream := { st with pc := x.pc, loops := x.loops, lrun := x.lrun }

theorem loopBack_standAt (n : Nat) (st x : Stream) : loopBack n (st.standAt x) = st.standAt (loopBack n x) := by
  induction n generalizing x with
  | zero => rfl
  | succ n ih =>
    have hloops : (st.standAt x).loops = x.loops := rfl
    unfold loopBack
    rw [hloops]
    cases h : x.loops with
    | nil => rfl
    | cons b rest =>
      have hpc : (st.standAt x).pc = x.pc := rfl
      have hrun : (st.standAt x).lrun = x.lrun := rfl
      dsimp only
      rw [hpc, hrun]
      split
      · split
        · exact ih
            { x with lrun := Assoc.put 0 x.lrun b.level.val (Assoc.get 0 x.lrun b.level.val - 1), loops := rest }
        · simp [Stream.standAt, h]
      · rfl

/-- Going to the next instruction changes nothing but where the stream stands. -/
theorem Stream.advance_standAt (st x : Stream) : (st.standAt x).advance = st.standAt x.advance :=
  loopBack_standAt 4 st { x with pc := x.pc + 1 }

/-- The next instruction of a stream whose other fields have changed is where it would have been. -/
theorem Stream.advance_eq {st x : Stream} (hpc : st.pc = x.pc) (hloops : st.loops = x.loops)
    (hlrun : st.lrun = x.lrun) : st.advance = st.standAt x.advance := by
  have hst : st = st.standAt x := by simp [Stream.standAt, ← hpc, ← hloops, ← hlrun]
  calc st.advance = (st.standAt x).advance := by rw [← hst]
    _ = st.standAt x.advance := st.advance_standAt x

/-! The registers whose ready cycles an instruction sets (R94). -/

theorem get_foldl_set (regs : List Nat) (m : Assoc Nat) (t n : Nat) :
    Assoc.get 0 (regs.foldl (fun m r => Assoc.set m r t) m) n = if regs.contains n then t else Assoc.get 0 m n := by
  induction regs generalizing m with
  | nil => simp
  | cons r regs ih =>
    rw [List.foldl_cons, ih, Assoc.get_set, List.contains_cons]
    by_cases hr : n = r
    · simp [hr]
    · simp [hr]

/-- The stream of an instruction that has issued stands at the next one (R94, R125). -/
theorem Stream.issued_wentOn (st : Stream) (t interval latency : Nat) (writes : List Nat) :
    st.wentOn (st.issued t interval latency writes).advance (t + interval) := by
  rw [Stream.advance_eq (st := st.issued t interval latency writes) (x := st) rfl rfl rfl]
  exact ⟨rfl, rfl, rfl, rfl, rfl, rfl, rfl, rfl, rfl, rfl⟩

/-- The registers that an instruction writes are ready after its latency (R94). -/
theorem Stream.issued_readyAt (st : Stream) (t interval latency : Nat) (writes : List Nat) :
    st.readyAt (st.issued t interval latency writes).advance writes (t + latency) := by
  intro n
  rw [Stream.advance_eq (st := st.issued t interval latency writes) (x := st) rfl rfl rfl]
  exact get_foldl_set writes st.ready (t + latency) n

@[simp] theorem Stream.issued_gr (st : Stream) (t interval latency : Nat) (writes : List Nat) :
    (st.issued t interval latency writes).advance.gr = st.gr := by
  rw [Stream.advance_eq (st := st.issued t interval latency writes) (x := st) rfl rfl rfl]
  rfl

/-! One core with one stream replaced. -/

@[simp] theorem Core.setStream_stream (k : Core) (u : UnitId) : k.setStream u (k.stream u) = k := by cases u <;> rfl

@[simp] theorem Core.setStream_setStream (k : Core) (u : UnitId) (a b : Stream) :
    (k.setStream u a).setStream u b = k.setStream u b := by cases u <;> rfl

/-- The general registers of a core stand in its streams. -/
theorem Core.reg_setStream_sameGr (k : Core) (u w : UnitId) (st : Stream) (r : Fin 32) (h : st.gr = (k.stream u).gr) :
    
    (k.setStream u st).reg w r = k.reg w r := by
  unfold Core.reg
  by_cases hw : w = u
  · subst hw
    rw [Core.stream_setStream, h]
  · rw [Core.stream_setStream_other k _ hw]

/-- A core that has replaced one stream differs in nothing else. -/
theorem Core.onlyStream_setStream (k : Core) (u : UnitId) (st : Stream) : k.onlyStream (k.setStream u st) u := by
  unfold Core.onlyStream
  rw [Core.stream_setStream]

/-- An instruction that has issued leaves every general register. -/
@[simp] theorem Core.reg_done (k : Core) (u w : UnitId) (t interval latency : Nat) (writes : List Nat) (r : Fin 32) :
    
    (k.done u t interval latency writes).reg w r = k.reg w r :=
  k.reg_setStream_sameGr u w _ r (Stream.issued_gr _ _ _ _ _)

theorem Core.done_sameRegs (k : Core) (u : UnitId) (t interval latency : Nat) (writes : List Nat) :
    k.sameRegs (k.done u t interval latency writes) := fun w r => k.reg_done u w t interval latency writes r

@[simp] theorem Core.stream_done (k : Core) (u : UnitId) (t interval latency : Nat) (writes : List Nat) :
    (k.done u t interval latency writes).stream u = ((k.stream u).issued t interval latency writes).advance :=
  Core.stream_setStream k u _

theorem Core.done_wentOn (k : Core) (u : UnitId) (t interval latency : Nat) (writes : List Nat) :
    (k.stream u).wentOn ((k.done u t interval latency writes).stream u) (t + interval) := by
  rw [Core.stream_done]
  exact Stream.issued_wentOn _ _ _ _ _

theorem Core.done_readyAt (k : Core) (u : UnitId) (t interval latency : Nat) (writes : List Nat) :
    (k.stream u).readyAt ((k.done u t interval latency writes).stream u) writes (t + latency) := by
  rw [Core.stream_done]
  exact Stream.issued_readyAt _ _ _ _ _

/-! An instruction that writes one general register and goes on. -/

/-- A stream with a general register written. -/
def Stream.withReg (st : Stream) (d : Fin 32) (v : Word) : Stream := { st with gr := Assoc.put 0 st.gr d.val v }

theorem Core.setReg_eq (k : Core) (u : UnitId) (d : Fin 32) (v : Word) :
    k.setReg u d v = k.setStream u ((k.stream u).withReg d v) := rfl

/-- A general register written and the stream at its next instruction. -/
def Core.wroteReg (k : Core) (u : UnitId) (t latency : Nat) (d : Fin 32) (v : Word) : Core :=
  (k.setReg u d v).done u t 1 latency [d.val]

section
variable (k : Core) (u : UnitId) (t latency : Nat) (d : Fin 32) (v : Word)

theorem Core.wroteReg_onlyStream : k.onlyStream (k.wroteReg u t latency d v) u := by
  rw [Core.wroteReg, Core.done, Core.setReg_eq, Core.setStream_setStream]
  exact k.onlyStream_setStream u _

theorem Core.wroteReg_setsReg : k.setsReg (k.wroteReg u t latency d v) u d v :=
  ⟨by simp [Core.wroteReg], fun w r h => by
    rw [Core.wroteReg, Core.reg_done]
    exact Core.reg_setReg_other k u w d r v h⟩

theorem Core.wroteReg_stream : (k.wroteReg u t latency d v).stream u =
    (((k.stream u).withReg d v).issued t 1 latency [d.val]).advance := by
  rw [Core.wroteReg, Core.stream_done, Core.setReg_eq, Core.stream_setStream]

theorem Core.wroteReg_wentOn : (k.stream u).wentOn ((k.wroteReg u t latency d v).stream u) (t + 1) := by
  rw [Core.wroteReg_stream]
  rw [Stream.advance_eq (st := ((k.stream u).withReg d v).issued t 1 latency [d.val]) (x := k.stream u) rfl rfl rfl]
  exact ⟨rfl, rfl, rfl, rfl, rfl, rfl, rfl, rfl, rfl, rfl⟩

theorem Core.wroteReg_readyAt :
    (k.stream u).readyAt ((k.wroteReg u t latency d v).stream u) [d.val] (t + latency) := by
  rw [Core.wroteReg_stream]
  exact Stream.issued_readyAt ((k.stream u).withReg d v) t 1 latency [d.val]

end

/-! What an instruction of a core that issues answers. -/

section
variable {s : State} {c : Nat} {u : UnitId} {regs : List Nat} {t : Nat}

theorem State.issues.body (h : s.issues c u regs t) (body : Nat → CoreRes) :
    (s.core c).issue u s.aclk regs body = body t :=
  Core.issue_eq _ _ _ _ _ _ h.2.2.2.1 h.2.2.2.2

/-- An instruction that issues and completes replaces its core and moves the count of cycles on. -/
theorem State.onInstr_issued (h : s.issues c u regs t) {i : Instr} {f : Core → CoreRes} {t' : Nat} {k' : Core}
    (hf : f (s.core c) = .ok t' k') : s.onInstr c u i f = .next ((s.setCore c k').at_ t') := by
  obtain ⟨hsite, hclock, hagain, -, -⟩ := h
  exact State.onInstr_ok s c u i f k' t' hsite hclock hagain hf

/-- An instruction that issues and holds its stream for an event replaces its core. -/
theorem State.onInstr_held (h : s.issues c u regs t) {i : Instr} {f : Core → CoreRes} {k' : Core}
    (hf : f (s.core c) = .held k') (hwait : ∀ a, (k'.stream u).wait ≠ .retry a) :
    s.onInstr c u i f = .next (s.setCore c k') := by
  obtain ⟨hsite, hclock, hagain, -, -⟩ := h
  have hattempt : (s.core c).attempt u i f = .held k' := by
    simp only [Core.attempt, hagain, reduceCtorEq, if_false, hf]
  simp [State.onInstr, State.onCore, State.clocked, hsite, hclock, hattempt, State.coreRes]

/-- An instruction that raises an exception at its issue. -/
theorem State.onInstr_exc (h : s.issues c u regs t) {i : Instr} {f : Core → CoreRes} {code pc line : Nat} {w : UnitId}
    {k' : Core} (hf : f (s.core c) = .exc code w pc k' line) :
    s.onInstr c u i f = .next ((s.setCore c k').coreExc c code w pc line) := by
  obtain ⟨hsite, hclock, hagain, -, -⟩ := h
  have hattempt : (s.core c).attempt u i f = .exc code w pc k' line := by
    simp [Core.attempt, hagain, hf]
  simp [State.onInstr, State.onCore, State.clocked, hsite, hclock, hattempt, State.coreRes]

/-- A form that its stream never has is rejected, whatever the stream holds. -/
theorem State.onInstr_refused (h : s.siteRuns c) {i : Instr} {f : Core → CoreRes} (hf : ∀ k, f k = .refuse) :
    s.onInstr c u i f = .refused .toolchainRejects := by
  simp [State.onInstr, State.onCore, State.clocked, h.1, h.2, Core.attempt, hf, State.coreRes]

end

@[simp] theorem State.core_at (s : State) (t c : Nat) : (s.at_ t).core c = s.core c := rfl

@[simp] theorem State.aclk_at (s : State) (t : Nat) : (s.at_ t).aclk = max s.aclk t := rfl

/-! The operations of the two-operand instructions, as R126 states them. -/

theorem shl_eq (p q : Word) : p <<< bits q 0 6 = BitVec.ofNat 64 (p.toNat * 2 ^ (q.toNat % 64)) := by
  have hn : bits q 0 6 = q.toNat % 64 := by simp [bits]
  rw [hn]
  apply BitVec.eq_of_toNat_eq
  simp [Nat.shiftLeft_eq]

theorem shr_eq (p q : Word) : p >>> bits q 0 6 = BitVec.ofNat 64 (p.toNat / 2 ^ (q.toNat % 64)) := by
  have hn : bits q 0 6 = q.toNat % 64 := by simp [bits]
  rw [hn]
  apply BitVec.eq_of_toNat_eq
  have hlt : p.toNat / 2 ^ (q.toNat % 64) < 2 ^ 64 := lt_of_le_of_lt (Nat.div_le_self _ _) p.isLt
  simp only [BitVec.toNat_ushiftRight, Nat.shiftRight_eq_div_pow, BitVec.toNat_ofNat]
  exact (Nat.mod_eq_of_lt hlt).symm

theorem sra_eq (p q : Word) : p.sshiftRight (bits q 0 6) = BitVec.ofInt 64 (p.toInt / 2 ^ (q.toNat % 64)) := by
  have hn : bits q 0 6 = q.toNat % 64 := by simp [bits]
  rw [hn, BitVec.sshiftRight, Int.shiftRight_eq_div_pow]
  simp

theorem min_eq (p q : Word) : (if p.slt q then p else q) = BitVec.ofInt 64 (Min.min p.toInt q.toInt) := by
  rw [BitVec.slt_eq_decide]
  by_cases h : p.toInt < q.toInt
  · simp [h, min_eq_left h.le]
  · simp [h, min_eq_right (not_lt.mp h)]

theorem max_eq (p q : Word) : (if p.slt q then q else p) = BitVec.ofInt 64 (Max.max p.toInt q.toInt) := by
  rw [BitVec.slt_eq_decide]
  by_cases h : p.toInt < q.toInt
  · simp [h, max_eq_right h.le]
  · simp [h, max_eq_left (not_lt.mp h)]

theorem minu_eq (p q : Word) : (if p.ult q then p else q) = BitVec.ofNat 64 (Min.min p.toNat q.toNat) := by
  rw [BitVec.ult_eq_decide]
  by_cases h : p.toNat < q.toNat
  · simp [h, min_eq_left h.le]
  · simp [h, min_eq_right (not_lt.mp h)]

theorem maxu_eq (p q : Word) : (if p.ult q then q else p) = BitVec.ofNat 64 (Max.max p.toNat q.toNat) := by
  rw [BitVec.ult_eq_decide]
  by_cases h : p.toNat < q.toNat
  · simp [h, max_eq_right h.le]
  · simp [h, max_eq_left (not_lt.mp h)]

theorem slt_eq (p q : Word) : (if p.slt q then (1 : Word) else 0) = if p.toInt < q.toInt then 1 else 0 := by
  simp [BitVec.slt_eq_decide]

theorem sltu_eq (p q : Word) : (if p.ult q then (1 : Word) else 0) = if p.toNat < q.toNat then 1 else 0 := by
  simp [BitVec.ult_eq_decide]

theorem mul_eq (p q : Word) : p * q = BitVec.ofNat 64 (p.toNat * q.toNat) := by
  apply BitVec.eq_of_toNat_eq
  simp

/-- Each row of the two-operand instructions is one use of `Core.alu` with the row's latency and operation. -/
theorem exec_aluRow {c : Nat} {u : UnitId} {d a : Fin 32} {x : Src} {row : Instr × (Word → Word → Word) × Nat}
    (h : row ∈ aluRows c u d a x) (s : State) :
    exec row.1 s = s.onInstr c u row.1 (fun k => k.alu u s.aclk row.2.2 d a x row.2.1) := by
  unfold aluRows at h
  simp only [List.mem_cons, List.not_mem_nil, or_false] at h
  rcases h with rfl | rfl | rfl | rfl | rfl | rfl | rfl | rfl | rfl | rfl | rfl | rfl | rfl | rfl | rfl | rfl
  all_goals
    simp only [← shl_eq, ← shr_eq, ← sra_eq, ← min_eq, ← max_eq, ← minu_eq, ← maxu_eq, ← slt_eq, ← sltu_eq,
      ← mul_eq]
    rfl

/-- An instruction that issues and writes one general register: its register holds the value,
  the stream goes on, and
nothing else of the module changes. -/
theorem State.onInstr_wroteReg {s : State} {c : Nat} {u : UnitId} {regs : List Nat} {t : Nat} (h : s.issues c u regs t)
    {i : Instr} {f : Core → CoreRes} {latency : Nat} {d : Fin 32} {v : Word}
    (hf : f (s.core c) = .ok t ((s.core c).wroteReg u t latency d v)) :
    ∃ s', s.onInstr c u i f = .next s' ∧ s.onlyCore s' c ∧ s'.aclk = max s.aclk t
      ∧ (s.core c).onlyStream (s'.core c) u ∧ (s.core c).setsReg (s'.core c) u d v
      ∧ ((s.core c).stream u).wentOn ((s'.core c).stream u) (t + 1)
      ∧ ((s.core c).stream u).readyAt ((s'.core c).stream u) [d.val] (t + latency) := by
  refine ⟨_, State.onInstr_issued h hf, s.onlyCore_setCore_at c t _, ?_⟩
  simp only [State.aclk_at, State.core_at, State.core_setCore]
  exact ⟨rfl, Core.wroteReg_onlyStream .., Core.wroteReg_setsReg .., Core.wroteReg_wentOn ..,
    Core.wroteReg_readyAt (s.core c) u t latency d v⟩

theorem scalarAluResult : Claims.ScalarAluResult := by
  intro s c u d a x row hrow
  rw [exec_aluRow hrow]
  constructor
  · intro hd ha hx t h
    apply State.onInstr_wroteReg h
    rw [Core.alu, if_pos (by simp [hd, ha, hx]), State.issues.body h]
    rfl
  · intro hsite hbad
    exact State.onInstr_refused hsite fun k => by simp [Core.alu, hbad]

/-- A move that issues writes its register. -/
theorem Core.move_issues {s : State} {c : Nat} {u : UnitId} {d : Fin 32} {x : Src} {t : Nat} (hd : regOk u d = true)
    (hx : srcOk u x = true) (h : s.issues c u (d.val :: srcRegs x) t) :
    (s.core c).move u s.aclk d x = .ok t ((s.core c).wroteReg u t 1 d ((s.core c).src u x)) := by
  rw [Core.move, hd, hx, Bool.and_self, if_pos rfl, State.issues.body h]
  rfl

/-- A loop count read that issues writes its register. -/
theorem Core.getCount_issues {s : State} {c : Nat} {u : UnitId} {d : Fin 32} {n : Fin 4} {t : Nat} (run : Bool)
    (hd : regOk u d = true) (h : s.issues c u [d.val, lreg n] t) :
    (s.core c).getCount u s.aclk d run n = .ok t ((s.core c).wroteReg u t 1 d
      ((Assoc.get 0 (if run then ((s.core c).stream u).lrun else ((s.core c).stream u).lcnt) n.val).zeroExtend
        64)) := by
  rw [Core.getCount, hd, if_pos rfl, State.issues.body h]
  rfl

theorem scalarMoveResult : Claims.ScalarMoveResult := by
  intro s c u d a v n slot word row hrow hd ha t h
  simp only [moveRows, List.mem_cons, List.not_mem_nil, or_false] at hrow
  rcases hrow with rfl | rfl | rfl | rfl | rfl | rfl
  · exact State.onInstr_wroteReg h (Core.move_issues (x := .imm ((s.core c).imm v)) hd rfl h)
  · exact State.onInstr_wroteReg h (Core.move_issues (x := .reg a) hd ha h)
  · exact State.onInstr_wroteReg h (Core.getCount_issues false hd h)
  · exact State.onInstr_wroteReg h (Core.getCount_issues true hd h)
  · exact State.onInstr_wroteReg h (Core.move_issues (x := .imm ((s.core c).bindWord slot.val word.val)) rfl rfl h)
  · exact State.onInstr_wroteReg h (Core.move_issues (x := .imm (s.coreStrike c)) hd rfl h)

/-- Settles O2: one lemma for every instruction that writes one register, and the rows of the two tables. -/
theorem scalarInstructionResults : Obligations.ScalarInstructionResults :=
  ⟨scalarAluResult, scalarMoveResult⟩

end Sys2Proof.Machine
end

section
/-! PROOF. O3: loop counts, branches and hardware loops. -/

namespace Sys2Proof.Machine

open Sys2Proof

/-- An instruction that issues and completes changes its core alone. -/
theorem State.onInstr_core {s : State} {c : Nat} {u : UnitId} {regs : List Nat} {t : Nat} (h : s.issues c u regs t)
    {i : Instr} {f : Core → CoreRes} {t' : Nat} {k' : Core} (hf : f (s.core c) = .ok t' k') :
    ∃ s', s.onInstr c u i f = .next s' ∧ s.onlyCore s' c ∧ s'.core c = k' ∧ s'.aclk = max s.aclk t' :=
  ⟨_, State.onInstr_issued h hf, s.onlyCore_setCore_at c t' _, by simp, by simp⟩

/-- A core whose stream is replaced by one of the same general registers keeps every register. -/
theorem Core.sameRegs_setStream (k : Core) (u : UnitId) (st : Stream) (h : st.gr = (k.stream u).gr) :
    k.sameRegs (k.setStream u st) := fun w r => k.reg_setStream_sameGr u w st r h

/-- An instruction that issues and changes its stream alone, registers apart. -/
theorem State.onInstr_stream {s : State} {c : Nat} {u : UnitId} {regs : List Nat} {t : Nat} (h : s.issues c u regs t)
    {i : Instr} {f : Core → CoreRes} {t' : Nat} {st : Stream} (hf : f (s.core c) = .ok t' ((s.core c).setStream u st))
    (hgr : st.gr = ((s.core c).stream u).gr) :
    ∃ s', s.onInstr c u i f = .next s' ∧ s.onlyCore s' c ∧ (s.core c).onlyStream (s'.core c) u
      ∧ (s.core c).sameRegs (s'.core c) ∧ (s'.core c).stream u = st := by
  obtain ⟨s', hrun, honly, hcore, -⟩ := State.onInstr_core h hf
  refine ⟨s', hrun, honly, ?_⟩
  rw [hcore]
  exact ⟨Core.onlyStream_setStream .., Core.sameRegs_setStream _ _ _ hgr, Core.stream_setStream ..⟩

/-! Loop counts. -/

/-- A stream with a loop count written. -/
def Stream.withCount (st : Stream) (n : Fin 4) (v : BitVec 32) : Stream :=
    { st with lcnt := Assoc.put 0 st.lcnt n.val v }

theorem loopCountSet : Claims.LoopCountSet := by
  intro s c u n x t hx h
  have hf : (s.core c).setCount u s.aclk n x = .ok t ((s.core c).setStream u
      ((((s.core c).stream u).withCount n (((s.core c).src u x).truncate 32)).issued t 1 1 [lreg n]).advance) := by
    rw [Core.setCount, hx, if_pos rfl, State.issues.body h]
    simp only [Core.ok1, Core.done, Core.stream_setStream, Core.setStream_setStream]
    rfl
  obtain ⟨s', hrun, honly, hstream, hregs, hst⟩ := State.onInstr_stream (i := .movLcnt c u n x)
    (f := fun k => k.setCount u s.aclk n x) h hf
    (Stream.issued_gr (((s.core c).stream u).withCount n _) t 1 1 [lreg n])
  refine ⟨s', hrun, honly, hstream, hregs, ?_⟩
  rw [hst, Stream.advance_eq (st := (((s.core c).stream u).withCount n _).issued t 1 1 [lreg n])
    (x := (s.core c).stream u) rfl rfl rfl]
  refine ⟨?_, fun m hm => ?_, rfl, rfl⟩
  · exact Assoc.get_put_same 0 _ n.val _
  · exact Assoc.get_put_other 0 _ _ hm

/-! Branches. -/

/-- A taken branch ends the loops whose body does not hold the target, innermost first, with their running counts 0
(R129). -/
theorem endLoops_eq (target : Nat) (ls : List LoopBody) (run : Assoc (BitVec 32)) :
    (endLoops target ls run).1 = ls.dropWhile (leavesLoop target)
      ∧ ∀ n, Assoc.get 0 (endLoops target ls run).2 n =
          if (ls.takeWhile (leavesLoop target)).any (fun b => b.level.val == n) then 0 else Assoc.get 0 run n := by
  induction ls generalizing run with
  | nil => simp [endLoops]
  | cons b rest ih =>
    by_cases hin : b.start ≤ target ∧ target < b.stop
    · simp [endLoops, leavesLoop, hin]
    · obtain ⟨hls, hrun⟩ := ih (Assoc.put 0 run b.level.val 0)
      have hleaves : leavesLoop target b = true := by simp [leavesLoop, hin]
      rw [endLoops, if_neg hin, List.dropWhile_cons_of_pos hleaves, List.takeWhile_cons_of_pos hleaves]
      refine ⟨hls, fun n => ?_⟩
      rw [hrun, List.any_cons]
      by_cases hn : b.level.val = n
      · subst hn
        simp
      · simp [hn, Assoc.get_put_other, Ne.symm hn]

/-- Each branch is one use of `Core.branch` with the registers and the condition of its row. -/
theorem exec_branchRow {k : Core} {c : Nat} {u : UnitId} {a b : Fin 32} {target : Nat}
    {row : Instr × List (Fin 32) × Bool} (h : row ∈ branchRows k c u a b target) (s : State) (hk : s.core c = k) :
    ∃ f : Core → CoreRes, exec row.1 s = s.onInstr c u row.1 f
      ∧ f (s.core c) = (s.core c).branch u s.aclk row.2.1 row.2.2 target := by
  subst hk
  unfold branchRows at h
  simp only [List.mem_cons, List.not_mem_nil, or_false] at h
  rcases h with rfl | rfl | rfl | rfl | rfl | rfl
  · exact ⟨_, rfl, rfl⟩
  · exact ⟨_, rfl, by simp [BitVec.toNat_eq]⟩
  · exact ⟨_, rfl, by simp [BitVec.toNat_eq]⟩
  · exact ⟨_, rfl, by simp [BitVec.slt_eq_decide]⟩
  · exact ⟨_, rfl, by simp [BitVec.ult_eq_decide]⟩
  · exact ⟨_, rfl, by simp [BitVec.toNat_eq]⟩

theorem branchResult : Claims.BranchResult := by
  intro s c u a b target t row hrow hregs h
  obtain ⟨f, hexec, hf⟩ := exec_branchRow hrow s rfl
  rw [hexec]
  rw [Core.branch, if_pos hregs, State.issues.body h] at hf
  cases htaken : row.2.2
  · simp only [htaken, Bool.false_eq_true, if_false, Core.ok1, Core.done] at hf
    obtain ⟨s', hrun, honly, hstream, hsame, hst⟩ := State.onInstr_stream (i := row.1) h hf (Stream.issued_gr _ _ _ _ _)
    exact ⟨s', hrun, honly, hstream, hsame, fun _ => by rw [hst]; exact Stream.issued_wentOn _ _ _ _ _, by simp⟩
  · simp only [htaken, if_true] at hf
    obtain ⟨s', hrun, honly, hstream, hsame, hst⟩ := State.onInstr_stream (i := row.1) h hf rfl
    refine ⟨s', hrun, honly, hstream, hsame, by simp, fun _ => ?_⟩
    rw [hst]
    obtain ⟨hloops, hcounts⟩ := endLoops_eq target ((s.core c).stream u).loops ((s.core c).stream u).lrun
    exact ⟨rfl, rfl, rfl, rfl, hloops, hcounts⟩

/-! Hardware loops: what a loop-back does at each kind of place (R127). -/

section
variable {st : Stream} {b : LoopBody} {rest : List LoopBody}

theorem loopBack_noLoop (n : Nat) (hloops : st.loops = []) : loopBack n st = st := by
  cases n with
  | zero => rfl
  | succ n => rw [loopBack, hloops]

theorem loopBack_inside (n : Nat) (hloops : st.loops = b :: rest) (hpc : st.pc ≠ b.stop) : loopBack n st = st := by
  cases n with
  | zero => rfl
  | succ n =>
    rw [loopBack, hloops]
    exact if_neg hpc

theorem loopBack_again (n : Nat) (hloops : st.loops = b :: rest) (hpc : st.pc = b.stop)
    (hrun : Assoc.get 0 st.lrun b.level.val - 1 ≠ 0) :
    loopBack (n + 1) st = { st with
      pc := b.start, lrun := Assoc.put 0 st.lrun b.level.val (Assoc.get 0 st.lrun b.level.val - 1) } := by
  rw [loopBack, hloops]
  simp only [hpc, if_true]
  rw [if_neg hrun]

theorem loopBack_ends (n : Nat) (hloops : st.loops = b :: rest) (hpc : st.pc = b.stop)
    (hrun : Assoc.get 0 st.lrun b.level.val - 1 = 0) :
    loopBack (n + 1) st =
      loopBack n { st with lrun := Assoc.put 0 st.lrun b.level.val 0, loops := rest } := by
  rw [loopBack, hloops]
  simp only [hpc, if_true]
  rw [hrun, if_pos rfl]

/-- A loop-back changes nothing of a stream but where it stands. -/
theorem loopBack_eq_standAt (n : Nat) (st : Stream) : loopBack n st = st.standAt (loopBack n st) :=
  loopBack_standAt n st st

end

/-- A stream whose loop at a level has begun, or been skipped, in cycle t: its running count is as the loop count
says. -/
def Stream.looped (st : Stream) (n : Fin 4) (t interval : Nat) : Stream :=
  { st with lrun := Assoc.put 0 st.lrun n.val (Assoc.get 0 st.lcnt n.val) }.issued t interval interval []

/-- A loop whose count is 0, at its label (R128). -/
def Stream.skipLoop (st : Stream) (n : Fin 4) (target t : Nat) : Stream :=
  loopBack 4 { st.looped n t 3 with pc := target }

/-- A loop whose count is not 0, at the first index of its body (R127). -/
def Stream.enterLoop (st : Stream) (n : Fin 4) (target t : Nat) : Stream :=
  { st.looped n t 1 with
    pc := st.pc + 1, loops := { level := n, start := st.pc + 1, stop := target } :: st.loops }

section
variable {s : State} {c : Nat} {u : UnitId} {n : Fin 4} {target t : Nat} (h : s.issues c u [lreg n] t)
  (hbody : bodyOk ((s.core c).stream u).pc target ((s.core c).stream u).loops = true)
include h hbody

/-- A loop that issues at a level that is not active. -/
theorem Core.loop_issues (hlevel : ((s.core c).stream u).loops.any (fun b => b.level == n) = false) :
    (s.core c).loop u s.aclk n target = .ok t ((s.core c).setStream u
      (if Assoc.get 0 ((s.core c).stream u).lcnt n.val = 0 then ((s.core c).stream u).skipLoop n target t
        else ((s.core c).stream u).enterLoop n target t)) := by
  simp only [Core.loop, hbody, Bool.not_true, Bool.false_eq_true, if_false, State.issues.body h, hlevel]
  split <;> rfl

/-- A loop that issues at a level already active raises ILLEGAL. -/
theorem Core.loop_raises (hlevel : ((s.core c).stream u).loops.any (fun b => b.level == n) = true) :
    (s.core c).loop u s.aclk n target = (s.core c).raise u excIllegal := by
  simp only [Core.loop, hbody, Bool.not_true, Bool.false_eq_true, if_false, State.issues.body h, hlevel, if_true]

end

@[simp] theorem Stream.skipLoop_gr (st : Stream) (n : Fin 4) (target t : Nat) : (st.skipLoop n target t).gr = st.gr :=
    by
  rw [Stream.skipLoop, loopBack_eq_standAt]
  rfl

section
variable {st : Stream} {n : Fin 4} {target t : Nat} (hcnt : Assoc.get 0 st.lcnt n.val = 0)
include hcnt

/-- A skipped loop that does not end with the body around it goes to its label. -/
theorem Stream.skipLoop_inside (h : ∀ b rest, st.loops = b :: rest → target < b.stop) :
    (st.skipLoop n target t).pc = target ∧ (st.skipLoop n target t).loops = st.loops
      ∧ ∀ m, Assoc.get 0 (st.skipLoop n target t).lrun m = if m = n.val then 0 else Assoc.get 0 st.lrun m := by
  have hstay : st.skipLoop n target t = { st.looped n t 3 with pc := target } := by
    cases hloops : st.loops with
    | nil => exact loopBack_noLoop 4 hloops
    | cons b rest => exact loopBack_inside 4 hloops (h b rest hloops).ne
  rw [hstay]
  refine ⟨rfl, rfl, fun m => ?_⟩
  show Assoc.get 0 (Assoc.put 0 st.lrun n.val _) m = _
  rw [hcnt, Assoc.get_put]

omit hcnt in
/-- A skipped loop that ends with the body around it, which has runs left, begins that body again. -/
theorem Stream.skipLoop_again {b : LoopBody} {rest : List LoopBody} (hloops : st.loops = b :: rest)
    (hlevel : b.level ≠ n) (hstop : target = b.stop) (hrun : Assoc.get 0 st.lrun b.level.val ≠ 1) :
    (st.skipLoop n target t).pc = b.start ∧ (st.skipLoop n target t).loops = st.loops
      ∧ Assoc.get 0 (st.skipLoop n target t).lrun b.level.val = Assoc.get 0 st.lrun b.level.val - 1 := by
  have hne : b.level.val ≠ n.val := fun h => hlevel (Fin.ext h)
  have hcount : Assoc.get 0 (st.looped n t 3).lrun b.level.val = Assoc.get 0 st.lrun b.level.val :=
    Assoc.get_put_other 0 st.lrun _ hne
  have hagain := loopBack_again (st := { st.looped n t 3 with pc := target }) 3 hloops hstop (by
    show Assoc.get 0 (st.looped n t 3).lrun b.level.val - 1 ≠ 0
    rw [hcount]
    bv_omega)
  rw [Stream.skipLoop, hagain]
  refine ⟨rfl, rfl, ?_⟩
  show Assoc.get 0 (Assoc.put 0 _ b.level.val (Assoc.get 0 (st.looped n t 3).lrun b.level.val - 1)) b.level.val = _
  rw [Assoc.get_put_same, hcount]

end

/-- A core whose stream tries again the instruction it holds (R125). -/
def Core.retries (k : Core) (u : UnitId) : Core :=
  k.setStream u { k.stream u with wait := .none, again := none }

/-- An instruction that its core rejects both at first and when it is tried again. -/
theorem State.onInstr_rejected {s : State} {c : Nat} {u : UnitId} (h : s.siteRuns c) {i : Instr} {f : Core → CoreRes}
    (hf : f (s.core c) = .refuse) (hf' : f ((s.core c).retries u) = .refuse) :
    s.onInstr c u i f = .refused .toolchainRejects := by
  have hattempt : (s.core c).attempt u i f = .refuse := by
    unfold Core.attempt
    by_cases hagain : ((s.core c).stream u).again = some i
    · simp only [hagain, if_true]
      rw [Core.retries] at hf'
      rw [hf']
    · simp only [hagain, if_false, hf]
  simp [State.onInstr, State.onCore, State.clocked, h.1, h.2, hattempt, State.coreRes]

theorem Core.loop_refuses {k : Core} {u : UnitId} {n : Fin 4} {target : Nat} (now : Nat)
    (hbody : bodyOk (k.stream u).pc target (k.stream u).loops = false) : k.loop u now n target = .refuse := by
  simp [Core.loop, hbody]

theorem loopResult : Claims.LoopResult := by
  intro s c u n target x cnt
  refine ⟨fun hsite hbad => ?_, fun t h hbody => ⟨fun hlevel => ?_, fun hlevel => ?_⟩⟩
  · exact State.onInstr_rejected hsite (Core.loop_refuses _ hbad)
      (Core.loop_refuses _ (by rw [Core.retries, Core.stream_setStream]; exact hbad))
  · have hf := Core.loop_issues h hbody hlevel
    by_cases hcnt : cnt = 0
    · rw [if_pos hcnt] at hf
      obtain ⟨s', hrun, honly, hstream, hsame, hst⟩ := State.onInstr_stream (i := .loop c u n target)
        (f := fun k => k.loop u s.aclk n target) h hf (Stream.skipLoop_gr x n target t)
      refine ⟨s', hrun, honly, hstream, hsame, fun hne => absurd hcnt hne, fun _ => ?_⟩
      rw [hst]
      refine ⟨?_, ?_, Stream.skipLoop_inside hcnt, fun b rest hloops hstop hlrun => ?_⟩
      · rw [Stream.skipLoop, loopBack_eq_standAt]
        rfl
      · rw [Stream.skipLoop, loopBack_eq_standAt]
        rfl
      · have hb : b.level ≠ n := fun hb => by
          have : x.loops.any (fun b => b.level == n) = true := by simp [hloops, hb]
          exact absurd (this.symm.trans hlevel) (by simp)
        exact Stream.skipLoop_again hloops hb hstop hlrun
    · rw [if_neg hcnt] at hf
      obtain ⟨s', hrun, honly, hstream, hsame, hst⟩ := State.onInstr_stream (i := .loop c u n target)
        (f := fun k => k.loop u s.aclk n target) h hf rfl
      refine ⟨s', hrun, honly, hstream, hsame, fun _ => ?_, fun h0 => absurd h0 hcnt⟩
      rw [hst]
      exact ⟨rfl, rfl, rfl, rfl, fun m => Assoc.get_put 0 x.lrun n.val m _⟩
  · exact State.onInstr_exc h (Core.loop_raises h hbody hlevel)

/-! A loop runs its body its count of times. -/

/-- The stream stands at index i of the body of its one loop, with r runs still to begin or go on. -/
structure Stream.InBody (st : Stream) (b : LoopBody) (i r : Nat) : Prop where
  loops : st.loops = [b]
  pc : st.pc = b.start + i
  run : (Assoc.get 0 st.lrun b.level.val).toNat = r

theorem advanceN_succ (n : Nat) (st : Stream) : advanceN (n + 1) st = (advanceN n st).advance := by
  induction n generalizing st with
  | zero => rfl
  | succ n ih => exact ih st.advance

/-- Inside the body the stream goes to the next index. -/
theorem Stream.InBody.next {st : Stream} {b : LoopBody} {i r : Nat} (h : st.InBody b i r)
    (hi : b.start + i + 1 < b.stop) :
    st.advance.InBody b (i + 1) r := by
  obtain ⟨hloops, hpc, hrun⟩ := h
  rw [Stream.advance, loopBack_inside (st := { st with pc := st.pc + 1 }) 4 hloops (by
    show st.pc + 1 ≠ b.stop
    omega)]
  exact ⟨hloops, by simp [hpc]; omega, hrun⟩

/-- At the end of the body with runs left, the body begins again (R127). -/
theorem Stream.InBody.again {st : Stream} {b : LoopBody} {i r : Nat} (h : st.InBody b i (r + 2))
    (hi : b.start + i + 1 = b.stop) : st.advance.InBody b 0 (r + 1) := by
  obtain ⟨hloops, hpc, hrun⟩ := h
  have hr : Assoc.get 0 st.lrun b.level.val - 1 ≠ 0 := by
    intro h0
    bv_omega
  rw [Stream.advance, loopBack_again (st := { st with pc := st.pc + 1 }) 3 hloops (by rw [hpc, hi]) hr]
  refine ⟨hloops, rfl, ?_⟩
  show (Assoc.get 0 (Assoc.put 0 st.lrun b.level.val _) b.level.val).toNat = _
  rw [Assoc.get_put_same]
  bv_omega

/-- At the end of the last run the stream stands behind the body, out of the loop (R127). -/
theorem Stream.InBody.leaves {st : Stream} {b : LoopBody} {i : Nat} (h : st.InBody b i 1)
    (hi : b.start + i + 1 = b.stop) :
    st.advance.pc = b.stop ∧ st.advance.loops = [] ∧ Assoc.get 0 st.advance.lrun b.level.val = 0 := by
  obtain ⟨hloops, hpc, hrun⟩ := h
  have hr : Assoc.get 0 st.lrun b.level.val - 1 = 0 := by bv_omega
  rw [Stream.advance, loopBack_ends (st := { st with pc := st.pc + 1 }) 3 hloops (by rw [hpc, hi]) hr,
    loopBack_noLoop 3 rfl]
  exact ⟨by rw [hpc, hi], rfl, Assoc.get_put_same 0 st.lrun b.level.val 0⟩

/-- After q whole runs and i instructions more, the stream stands at index i with q runs less to go. -/
theorem advanceN_inBody {st : Stream} {b : LoopBody} {n : Nat} (h : st.InBody b 0 n) (q i : Nat) (hq : q < n)
    (hi : i < b.stop - b.start) : (advanceN (q * (b.stop - b.start) + i) st).InBody b i (n - q) := by
  induction q generalizing i with
  | zero =>
    induction i with
    | zero => simpa [advanceN] using h
    | succ i ihi =>
      rw [← Nat.add_assoc, advanceN_succ]
      exact (ihi (by omega)).next (by omega)
  | succ q ihq =>
    induction i with
    | zero =>
      have hlast := ihq (b.stop - b.start - 1) (by omega) (by omega)
      have hlen : (q + 1) * (b.stop - b.start) + 0 = q * (b.stop - b.start) + (b.stop - b.start - 1) + 1 := by
        rw [Nat.add_one_mul]; omega
      rw [hlen, advanceN_succ]
      have hr : n - q = n - (q + 1) - 1 + 2 := by omega
      rw [hr] at hlast
      have := hlast.again (by omega)
      rwa [show n - (q + 1) - 1 + 1 = n - (q + 1) by omega] at this
    | succ i ihi =>
      rw [← Nat.add_assoc, advanceN_succ]
      exact (ihi (by omega)).next (by omega)

theorem loopRunsItsCount : Claims.LoopRunsItsCount := by
  intro st b n hloops hlt hpc hrun hn
  have hbody : st.InBody b 0 n.toNat := ⟨hloops, by simp [hpc], by rw [hrun]⟩
  have hpos : 0 < n.toNat := by bv_omega
  have hlen : 0 < b.stop - b.start := by omega
  have hlast := advanceN_inBody hbody (n.toNat - 1) (b.stop - b.start - 1) (by omega) (by omega)
  rw [show n.toNat - (n.toNat - 1) = 1 by omega] at hlast
  have hall : n.toNat * (b.stop - b.start) =
      (n.toNat - 1) * (b.stop - b.start) + (b.stop - b.start - 1) + 1 := by
    obtain ⟨m, hm⟩ : ∃ m, n.toNat = m + 1 := ⟨n.toNat - 1, by omega⟩
    rw [hm, Nat.add_one_mul, Nat.add_sub_cancel]; omega
  refine ⟨?_, ?_, ?_, fun m hm => ?_⟩
  · rw [hall, advanceN_succ]
    exact (hlast.leaves (by omega)).1
  · rw [hall, advanceN_succ]
    exact (hlast.leaves (by omega)).2.1
  · rw [hall, advanceN_succ]
    exact (hlast.leaves (by omega)).2.2
  · have hin := advanceN_inBody hbody (m / (b.stop - b.start)) (m % (b.stop - b.start))
      (Nat.div_lt_of_lt_mul (by rwa [Nat.mul_comm])) (Nat.mod_lt _ hlen)
    rw [Nat.div_add_mod'] at hin
    exact ⟨hin.pc, hin.loops⟩

/-- Settles O3: the loop-backs place by place, and for the count an induction over whole runs of the body. -/
theorem controlFlowResults : Obligations.ControlFlowResults :=
  ⟨loopCountSet, branchResult, loopResult, loopRunsItsCount⟩

end Sys2Proof.Machine
end

section
/-! PROOF. O4: strike waits, wards, the end of a stream, and the instruction that a stream holds. -/

namespace Sys2Proof.Machine

open Sys2Proof

theorem State.onlyCore_setCore (s : State) (c : Nat) (k : Core) : s.onlyCore (s.setCore c k) c :=
  ⟨rfl, fun _ h => State.core_setCore_other s k h⟩

/-- An event of a core that replaces one stream, registers apart. -/
theorem State.onCore_stream {s : State} {c : Nat} (hsite : s.siteRuns c) {f : Core → CoreRes} {t : Nat} {u : UnitId}
    {st : Stream} (hf : f (s.core c) = .ok t ((s.core c).setStream u st)) (hgr : st.gr = ((s.core c).stream u).gr) :
    ∃ s', s.onCore c f = .next s' ∧ s.onlyCore s' c ∧ (s.core c).onlyStream (s'.core c) u
      ∧ (s.core c).sameRegs (s'.core c) ∧ (s'.core c).stream u = st := by
  refine ⟨_, State.onCore_ok s c f t _ hsite.1 hsite.2 hf, s.onlyCore_setCore_at c t _, ?_⟩
  rw [State.core_at, State.core_setCore]
  exact ⟨Core.onlyStream_setStream .., Core.sameRegs_setStream _ _ _ hgr, Core.stream_setStream ..⟩

/-! Strike waits. -/

/-- A strike wait that issues: it completes when the strike is reached, else its stream waits (R111). -/
theorem State.onInstr_swait {s : State} {c : Nat} {u : UnitId} {regs : List Nat} {t : Nat} (h : s.issues c u regs t)
    {i : Instr} {f : Core → CoreRes} {v : Word}
    (hf : f (s.core c) = (s.core c).swait u s.aclk (s.coreStrike c) regs v) :
    ∃ s', s.onInstr c u i f = .next s' ∧ s.onlyCore s' c ∧ (s.core c).onlyStream (s'.core c) u
      ∧ (s.core c).sameRegs (s'.core c)
      ∧ ((s.coreStrike c - v).toNat < 2 ^ 63 → ((s.core c).stream u).wentOn ((s'.core c).stream u) (t + 1))
      ∧ (2 ^ 63 ≤ (s.coreStrike c - v).toNat →
          (s'.core c).stream u = { (s.core c).stream u with wait := .strike v }) := by
  rw [Core.swait, State.issues.body h] at hf
  by_cases hreached : (s.coreStrike c - v).toNat < 2 ^ 63
  · rw [if_pos (by simpa [atOrAfter] using hreached)] at hf
    obtain ⟨s', hrun, honly, hstream, hsame, hst⟩ := State.onInstr_stream (i := i) h hf (Stream.issued_gr ..)
    exact ⟨s', hrun, honly, hstream, hsame, fun _ => by rw [hst]; exact Stream.issued_wentOn ..,
      fun hnot => absurd hreached (not_lt.mpr hnot)⟩
  · rw [if_neg (by simpa [atOrAfter] using hreached)] at hf
    refine ⟨_, State.onInstr_held h hf (by simp), s.onlyCore_setCore c _, ?_⟩
    rw [State.core_setCore]
    exact ⟨Core.onlyStream_setStream .., Core.sameRegs_setStream _ _ _ rfl, fun hr => absurd hr hreached,
      fun _ => Core.stream_setStream ..⟩

theorem strikeWaits : Claims.StrikeWaits := by
  intro s c u b x
  refine ⟨fun row hrow t hb hx h => ?_, fun v hsite hwait hreached => ?_⟩
  · simp only [List.mem_cons, List.not_mem_nil, or_false] at hrow
    rcases hrow with rfl | rfl
    · exact State.onInstr_swait h (by simp [hx])
    · exact State.onInstr_swait h (by simp [hx, hb])
  · have hf : (s.core c).strikeReached u s.aclk (s.coreStrike c) =
        (s.core c).ok1 u (max s.aclk ((s.core c).stream u).nextIssue) 1 1 [] := by
      rw [Core.strikeReached, hwait]
      exact if_pos (by simpa [atOrAfter] using hreached)
    obtain ⟨s', hrun, honly, hstream, hsame, hst⟩ := State.onCore_stream
      (f := fun k => k.strikeReached u s.aclk (s.coreStrike c)) hsite hf (Stream.issued_gr ..)
    exact ⟨s', hrun, honly, hstream, hsame, by rw [hst]; exact Stream.issued_wentOn ..⟩

/-! Wards and ends. -/

theorem wardAndEndOfStream : Claims.WardAndEndOfStream := by
  intro s c u t h
  refine ⟨fun w hw => ?_, fun hend => ?_⟩
  · have hf : (s.core c).ward u s.aclk w = .ok t ((s.core c).setStream u
        { (s.core c).stream u with wait := .ward w, nextIssue := t + 1 }) := by
      rw [Core.ward, State.issues.body h, hw]
      rfl
    obtain ⟨s', hrun, honly, hstream, -, hst⟩ := State.onInstr_stream (i := .ward c u w)
      (f := fun k => k.ward u s.aclk w) h hf rfl
    exact ⟨s', hrun, honly, hstream, hst⟩
  · have hf : (s.core c).endStream u s.aclk = .ok t ((s.core c).setStream u
        { (s.core c).stream u with wait := .none, ended := true, loops := [], nextIssue := t + 1 }) := by
      rw [Core.endStream, State.issues.body h, hend]
      rfl
    obtain ⟨s', hrun, honly, hstream, -, hst⟩ := State.onInstr_stream (i := .endStream c u)
      (f := fun k => k.endStream u s.aclk) h hf rfl
    exact ⟨s', hrun, honly, hstream, hst⟩

/-! The instruction that a stream holds. -/

@[simp] theorem Core.reg_retries (k : Core) (u w : UnitId) (r : Fin 32) : (k.retries u).reg w r = k.reg w r :=
  Core.reg_setStream_sameGr _ _ _ _ _ rfl

@[simp] theorem Core.setStream_bindWord (k : Core) (u : UnitId) (st : Stream) (slot word : Nat) :
    (k.setStream u st).bindWord slot word = k.bindWord slot word := by
  cases u <;> rfl

@[simp] theorem Core.src_retries (k : Core) (u w : UnitId) (x : Src) : (k.retries u).src w x = k.src w x := by
  cases x with
  | reg r => exact k.reg_retries u w r
  | imm v => rfl
  | bind n => exact Core.setStream_bindWord ..

/-- The instruction that a stream holds, sent again, acts on the core as it is tried again (R125). -/
theorem State.onInstr_again {s : State} {c : Nat} {u : UnitId} (hsite : s.siteRuns c) {i : Instr} {f : Core → CoreRes}
    {t : Nat} {k' : Core} (hagain : ((s.core c).stream u).again = some i)
    (hf : f ((s.core c).retries u) = .ok t k') : s.onInstr c u i f = .next ((s.setCore c k').at_ t) := by
  have hattempt : (s.core c).attempt u i f = .ok t k' := by
    simp only [Core.attempt, hagain, if_true]
    rw [Core.retries] at hf
    rw [hf]
  exact State.onCore_ok s c _ t k' hsite.1 hsite.2 hattempt

/-- Another instruction sent to a stream that waits does nothing. -/
theorem State.onInstr_noop {s : State} {c : Nat} {u : UnitId} (hsite : s.siteRuns c) {i : Instr} {f : Core → CoreRes}
    (hagain : ((s.core c).stream u).again ≠ some i) (hf : f (s.core c) = .noop) : s.onInstr c u i f = .next s := by
  have hattempt : (s.core c).attempt u i f = .noop := by
    simp only [Core.attempt, hagain, if_false, hf]
  simp [State.onInstr, State.onCore, State.clocked, hsite.1, hsite.2, hattempt, State.coreRes]

theorem Core.mayIssue_waiting {k : Core} {u : UnitId} (hwait : (k.stream u).wait ≠ .none) : k.mayIssue u = false := by
  simp [Core.mayIssue, hwait]

theorem heldStreamRetries : Claims.HeldStreamRetries := by
  intro s c u d a x row hrow hsite hd ha hx
  rw [exec_aluRow hrow]
  refine ⟨fun hagain t (hmay : ((s.core c).retries u).mayIssue u = true)
    (htime : ((s.core c).retries u).issueTime u s.aclk (d.val :: a.val :: srcRegs x) = some t) =>
        ?_, fun hagain hwait => ?_⟩
  · have hf : ((s.core c).retries u).alu u s.aclk row.2.2 d a x row.2.1 =
        .ok t (((s.core c).retries u).wroteReg u t row.2.2 d (row.2.1 ((s.core c).reg u a) ((s.core c).src u x))) := by
      rw [Core.alu, if_pos (by simp [hd, ha, hx]), Core.issue_eq _ _ _ _ _ _ hmay htime, Core.reg_retries,
        Core.src_retries]
      rfl
    refine ⟨_, State.onInstr_again hsite hagain hf, s.onlyCore_setCore_at c t _, rfl, ?_⟩
    rw [State.core_at, State.core_setCore]
    obtain ⟨hset, hother⟩ := Core.wroteReg_setsReg ((s.core c).retries u) u t row.2.2 d
      (row.2.1 ((s.core c).reg u a) ((s.core c).src u x))
    exact ⟨⟨hset, fun w r hr => (hother w r hr).trans (Core.reg_retries ..)⟩, Core.wroteReg_wentOn ..⟩
  · apply State.onInstr_noop hsite hagain
    rw [Core.alu, if_pos (by simp [hd, ha, hx]), Core.issue, Core.mayIssue_waiting hwait]
    rfl

/-- Settles O4: each wait by the one lemma on what issues, and the held instruction on the core as it is tried again. -/
theorem streamsWaitAndEnd : Obligations.StreamsWaitAndEnd :=
  ⟨strikeWaits, wardAndEndOfStream, heldStreamRetries⟩

end Sys2Proof.Machine
end

section
/-! PROOF. O5: loads and stores of local memory. First the layer on spans of local memory that O6 uses too: what a sound
span reads, what a write changes, and the marks that a correction leaves (R97, R99). -/

namespace Sys2Proof.Machine

open Sys2Proof

/-! Spans of a sparse map. -/

theorem Assoc.get_putSpan {α : Type} [DecidableEq α] (d : α) (vs : List α) (m : Assoc α) (a n : Nat) :
    Assoc.get d (Assoc.putSpan d m a vs) n =
      if a ≤ n ∧ n < a + vs.length then vs.getD (n - a) d else Assoc.get d m n := by
  induction vs generalizing m a with
  | nil => simp [Assoc.putSpan, Nat.not_lt.mpr]
  | cons v vs ih =>
    rw [Assoc.putSpan, ih, Assoc.get_put]
    rcases lt_trichotomy n a with hlt | rfl | hgt
    · have h1 : ¬ (a + 1 ≤ n ∧ n < a + 1 + vs.length) := by omega
      have h2 : ¬ (a ≤ n ∧ n < a + (v :: vs).length) := by omega
      rw [if_neg h1, if_neg h2, if_neg (by omega)]
    · simp
    · have hsub : n - a = (n - (a + 1)) + 1 := by omega
      rw [hsub, List.getD_cons_succ, if_neg (show n ≠ a by omega), List.length_cons]
      congr 1
      simp only [eq_iff_iff]
      omega

theorem Assoc.length_span {α : Type} (d : α) (m : Assoc α) (a n : Nat) : (Assoc.span d m a n).length = n := by
  induction n generalizing a with
  | zero => rfl
  | succ n ih => simp [Assoc.span, ih]

@[simp] theorem length_leBytes (n x : Nat) : (leBytes n x).length = n := by
  induction n generalizing x with
  | zero => rfl
  | succ n ih => simp [leBytes, ih]

/-! The words of a span and their marks (R99). -/

theorem mem_wordsOf {a n w : Nat} : w ∈ wordsOf a n ↔ 8 * w < a + n ∧ a < 8 * w + 8 ∧ n ≠ 0 := by
  unfold wordsOf
  split
  · next h => simp [h]
  · next h =>
    simp only [List.mem_map, List.mem_range]
    constructor
    · rintro ⟨i, hi, rfl⟩
      omega
    · rintro ⟨h1, h2, -⟩
      exact ⟨w - a / 8, by omega, by omega⟩

theorem Core.uncorrectable_eq_false {k : Core} {a n : Nat} :
    k.uncorrectable a n = false ↔ ∀ w ∈ wordsOf a n, k.mark w ≠ some true := by
  simp [Core.uncorrectable]

/-- A filter on the key of a list's entries finds the entries of a key or none of them. -/
theorem find?_filter_key {β : Type} (l : List (Nat × β)) (p : Nat → Bool) (w : Nat) :
    (l.filter (fun e => p e.1)).find? (fun e => e.1 == w) =
      if p w then l.find? (fun e => e.1 == w) else none := by
  induction l with
  | nil => simp
  | cons e l ih =>
    by_cases hw : e.1 = w
    · cases hp : p w <;> simp [hw, hp, ih]
    · cases hp : p e.1 <;> simp [hw, hp, ih]

/-- A correction drops marks and adds none. -/
theorem Core.mark_correct {k : Core} {ws : List Nat} {w : Nat} (h : k.mark w ≠ some true) :
    (k.correct ws).mark w ≠ some true := by
  unfold Core.mark Core.correct at *
  dsimp only
  rw [find?_filter_key k.lmErr (fun e => !((ws.filter (fun w => k.mark w == some false)).contains e))]
  split
  · exact h
  · simp

/-- A read of a span that meets no uncorrectable word gives its bytes. -/
theorem Core.lmRead_sound {k : Core} {a n : Nat} (h : k.uncorrectable a n = false) :
    k.lmRead a n = some (k.correct (wordsOf a n), k.lmBytes a n) := by
  rw [Core.lmRead, h]
  rfl

/-- A write changes local memory, its marks, the count of corrections and the kept lines of the edge. -/
theorem Core.lmWrite_frame {k k' : Core} {a : Nat} {bs : List Byte} (h : k.lmWrite a bs = some k') :
    k' = { k with
      lm := Assoc.putSpan 0 k.lm a bs, lmErr := k'.lmErr, corrected := k'.corrected, ope := k'.ope } := by
  unfold Core.lmWrite at h
  dsimp only at h
  split at h
  · cases h
  · cases h
    rfl

/-- A write that covers every uncorrectable word it touches whole is done. -/
theorem Core.lmWrite_isSome {k : Core} {a : Nat} {bs : List Byte}
    (h : ∀ w ∈ wordsOf a bs.length, covers a bs.length w = true ∨ k.mark w ≠ some true) : ∃ k', k.lmWrite a bs
        = some k' := by
  unfold Core.lmWrite
  dsimp only
  rw [if_neg]
  · exact ⟨_, rfl⟩
  · simp only [List.any_eq_true, List.mem_filter, not_exists, not_and, beq_iff_eq]
    rintro w ⟨hw, hc⟩
    exact (h w hw).resolve_left (by simpa using hc)

/-- A write leaves every byte outside its span. -/
theorem Core.lmWrite_writesLm {k k' : Core} {a : Nat} {bs : List Byte} (h : k.lmWrite a bs = some k') :
    k.writesLm k' a bs := by
  intro n
  rw [Core.lmWrite_frame h]
  exact Assoc.get_putSpan 0 bs k.lm a n

/-! An access to local memory checks its address first (R97). -/

theorem lmCheck_good {a n al : Nat} (hal : a % al = 0) (hrange : a + n ≤ 0x60000) : lmCheck a n al = none := by
  have : ¬ lmSize < a + n := by simpa [lmSize] using hrange
  simp [lmCheck, hal, this]

theorem lmCheck_bad {a n al code : Nat}
    (h : (a % al ≠ 0 ∧ code = 2) ∨ (a % al = 0 ∧ 0x60000 < a + n ∧ code = 3)) : lmCheck a n al = some code := by
  rcases h with ⟨hal, rfl⟩ | ⟨hal, hrange, rfl⟩
  · simp [lmCheck, hal, excMisaligned]
  · have : lmSize < a + n := by simpa [lmSize] using hrange
    simp [lmCheck, hal, this, excRange]

theorem ofInt_signed (n v : Nat) (h : 0 < n) : BitVec.ofInt 64 (signed n v) = (BitVec.ofNat n v).signExtend 64 := by
  have : signed n v = (BitVec.ofNat n v).toInt := by
    rw [← signed_toNat _ h, BitVec.toNat_ofNat]
    simp [signed]
  rw [this]
  rfl

/-! Loads and stores. -/

section
variable {s : State} {c : Nat} {d b : Fin 32} {imm : Imm} {t : Nat} (h : s.issues c .access [d.val, b.val] t) {n : Nat}
include h

/-- A load that issues at a good address. -/
theorem Core.load_issues (hal : ((s.core c).ea b imm).toNat % 2 ^ n = 0)
    (hrange : ((s.core c).ea b imm).toNat + 2 ^ n ≤ 0x60000)
    (hsound : (s.core c).uncorrectable ((s.core c).ea b imm).toNat (2 ^ n) = false) (sx : Bool) :
    (s.core c).load s.aclk n sx d b imm =
      .ok t (((s.core c).correct (wordsOf ((s.core c).ea b imm).toNat (2 ^ n))).wroteReg .access t 4 d
        (if sx then BitVec.ofInt 64 (signed (8 * 2 ^ n) (ofLe ((s.core c).lmBytes ((s.core c).ea b imm).toNat (2 ^ n))))
          else BitVec.ofNat 64 (ofLe ((s.core c).lmBytes ((s.core c).ea b imm).toNat (2 ^ n))))) := by
  rw [Core.load, State.issues.body h]
  simp only [lmCheck_good hal hrange, Core.lmRead_sound hsound]
  rfl

/-- A load or store that issues at a bad address raises its exception. -/
theorem Core.load_raises {code : Nat} (hcheck : lmCheck ((s.core c).ea b imm).toNat (2 ^ n) (2 ^ n) = some code)
    (sx : Bool) : (s.core c).load s.aclk n sx d b imm = (s.core c).raise .access code := by
  rw [Core.load, State.issues.body h]
  simp only [hcheck]

theorem Core.store_raises {code : Nat} (hcheck : lmCheck ((s.core c).ea b imm).toNat (2 ^ n) (2 ^ n) = some code) :
    (s.core c).store s.aclk n d b imm = (s.core c).raise .access code := by
  rw [Core.store, State.issues.body h]
  simp only [hcheck]

end

theorem loadResult : Claims.LoadResult := by
  intro s c d b imm t h a n hal hrange hsound v good
  have hgood : ∀ (i : Instr) (sx : Bool) (w : Word) (f : Core → CoreRes), exec i s = s.onInstr c .access i f →
      f (s.core c) = (s.core c).load s.aclk n sx d b imm →
      (if sx then BitVec.ofInt 64 (signed (8 * 2 ^ n) v) else BitVec.ofNat 64 v) = w → good i w := by
    intro i sx w f hexec hf hw
    obtain ⟨s', hrun, honly, hcore, -⟩ := State.onInstr_core (i := i) h
        (hf.trans (Core.load_issues h hal hrange hsound sx))
    refine ⟨s', hexec.trans hrun, honly, ?_⟩
    rw [hcore, ← hw]
    refine ⟨Core.wroteReg_setsReg _ .access t 4 d _, ?_, ?_, Core.wroteReg_wentOn _ .access t 4 d _,
      Core.wroteReg_readyAt _ .access t 4 d _⟩
    · rw [Core.wroteReg_onlyStream]
      rfl
    · rw [Core.wroteReg_onlyStream]
      rfl
  refine ⟨?_, ?_⟩
  · rintro z rfl
    exact hgood _ false _ _ rfl rfl rfl
  · rintro z rfl
    exact hgood _ true _ _ rfl rfl (ofInt_signed _ v (by positivity))

/-- A good address meets no uncorrectable word, so a store there is done. -/
theorem Core.lmWrite_sound {k : Core} {a : Nat} {bs : List Byte} (h : k.uncorrectable a bs.length = false) :
    ∃ k', k.lmWrite a bs = some k' :=
  Core.lmWrite_isSome fun w hw => .inr (Core.uncorrectable_eq_false.mp h w hw)

/-- The cycle in which a stream's writes are visible is no part of a core's registers. -/
theorem Core.reg_wrote (k : Core) (u w : UnitId) (t : Nat) (r : Fin 32) : (k.wrote u t).reg w r = k.reg w r :=
  k.reg_setStream_sameGr u w _ r rfl

theorem storeResult : Claims.StoreResult := by
  intro s c z a b imm t h x hal hrange hsound
  obtain ⟨k', hk'⟩ := Core.lmWrite_sound (k := s.core c) (a := x)
    (bs := leBytes (2 ^ z.val) ((s.core c).reg .access a).toNat) (by simpa using hsound)
  have hf : (s.core c).store s.aclk z.val a b imm = .ok t ((k'.done .access t 1 1 []).wrote .access t) := by
    rw [Core.store, State.issues.body h]
    have hx : ((s.core c).ea b imm).toNat = x := rfl
    simp only [hx, lmCheck_good hal hrange, hk']
  obtain ⟨s', hrun, honly, hcore, -⟩ := State.onInstr_core (i := .st c z a b imm)
    (f := fun k => k.store s.aclk z.val a b imm) h hf
  refine ⟨s', hrun, honly, ?_⟩
  rw [hcore]
  have hframe := Core.lmWrite_frame hk'
  have hstreams : ∀ u, k'.stream u = (s.core c).stream u := by
    intro u
    rw [hframe]
    cases u <;> rfl
  refine ⟨fun w r => ?_, fun m => ?_, ?_, ?_, ?_, ?_⟩
  · rw [Core.reg_wrote, Core.reg_done, Core.reg, hstreams]
    rfl
  · exact Core.lmWrite_writesLm hk' m
  · exact hstreams .execute
  · rw [hframe]
    rfl
  · show (((k'.stream .access).issued t 1 1 []).advance).pc = _
    rw [hstreams]
    exact (Stream.issued_wentOn ((s.core c).stream .access) t 1 1 []).1
  · show (((k'.stream .access).issued t 1 1 []).advance).nextIssue = _
    exact (Stream.issued_wentOn (k'.stream .access) t 1 1 []).2.2.2.1

/-! Data queues: a stream that waits on no queue is left alone, and what the other stream's wait gives (R101). -/

/-- A core whose stream waits for something. -/
def Core.waits (k : Core) (u : UnitId) (w : Wait) : Core := k.setStream u { k.stream u with wait := w }

theorem Core.serve_offQueues {k : Core} {u : UnitId} (t : Nat) (h : k.offQueues u) : k.serve u t = (k, false) := by
  have hpop : k.popNow u t = none := by
    unfold Core.popNow
    unfold Core.offQueues at h
    generalize (k.stream u).wait = w at h
    cases w <;> simp_all [Wait.onQueue]
  have hpush : k.pushNow u t = none := by
    unfold Core.pushNow
    unfold Core.offQueues at h
    generalize (k.stream u).wait = w at h
    cases w <;> simp_all [Wait.onQueue]
  rw [Core.serve, hpop, hpush]
  rfl

/-- A queue wait that is served, the other stream on no queue, ends the event. -/
theorem Core.settled_served {k k' : Core} {u : UnitId} {t : Nat} (hother : k.offQueues (other u))
    (hserve : k.serve u t = (k', false)) (hu : k'.offQueues u) (hother' : k'.offQueues (other u)) :
    k.settled t = .ok t k' := by
  have hqueues : k.serveQueues t = (k', none) := by
    unfold Core.serveQueues
    cases u with
    | access =>
      have he : k'.serve .execute t = (k', false) := Core.serve_offQueues t hother'
      simp [hserve, he, Core.serve_offQueues t hu]
    | execute =>
      have ha : k.serve .access t = (k, false) := Core.serve_offQueues t hother
      have ha' : k'.serve .access t = (k', false) := Core.serve_offQueues t hother'
      simp [hserve, ha, ha']
  rw [Core.settled, hqueues]

/-- An event while no stream waits on a queue moves nothing more. -/
theorem Core.settled_offQueues {k : Core} (t : Nat) (ha : k.offQueues .access) (he : k.offQueues .execute) :
    k.settled t = .ok t k :=
  Core.settled_served (u := .access) he (Core.serve_offQueues t ha) ha he

/-- A line of an `ldq` beyond local memory raises LM_RANGE (R97, R130). -/
theorem Core.settled_range {k k' : Core} {t : Nat} {q : Fin 4} {a : Word} {n : Nat}
    (hserve : k.serve .access t = (k', true)) (hwait : (k'.stream .access).wait = .ldq q a n)
    (hrange : 0x60000 < a.toNat + 64) : k.settled t = k'.raise .access excRange := by
  have hlm : lmSize < a.toNat + 64 := by simpa [lmSize] using hrange
  simp only [Core.settled, Core.serveQueues, hserve, if_true, hwait, hlm]

@[simp] theorem Core.queue_setQueue (k : Core) (q : Fin 4) (es : List DqEntry) : (k.setQueue q es).queue q = es :=
  Assoc.get_put_same ..

theorem Core.queue_setQueue_other (k : Core) {p q : Fin 4} (es : List DqEntry) (h : p ≠ q) :
    (k.setQueue q es).queue p = k.queue p :=
  Assoc.get_put_other [] k.dq es (fun hv => h (Fin.ext hv))

/-- A span of sound words has sound parts. -/
theorem Core.uncorrectable_part {k : Core} {a n b m : Nat} (h : k.uncorrectable a n = false) (hlo : a ≤ b)
    (hhi : b + m ≤ a + n) : k.uncorrectable b m = false := by
  rw [Core.uncorrectable_eq_false] at *
  intro w hw
  rw [mem_wordsOf] at hw
  exact h w (mem_wordsOf.mpr (by omega))

/-- The core after one line of an `ldq`. -/
def Core.pushedLine (k : Core) (q : Fin 4) (t j : Nat) (a : Word) : Core :=
  (k.correct (wordsOf a.toNat 64)).setQueue q
    (k.queue q ++ [{ data := k.lmBytes a.toNat 64, at_ := t + j + 5 }])

theorem Core.pushLines_step {k : Core} {q : Fin 4} {t j : Nat} {a : Word} (n : Nat) (hroom : (k.queue q).length < 16)
    (hrange : a.toNat + 64 ≤ 0x60000) (hsound : k.uncorrectable a.toNat 64 = false) :
    k.pushLines q t j a (n + 1) = (k.pushedLine q t j a).pushLines q t (j + 1) (a + 64) n := by
  have hr : k.room q 1 = true := by simp [Core.room]; omega
  have hlm : ¬ lmSize < a.toNat + 64 := by simpa [lmSize] using hrange
  rw [Core.pushLines, if_pos hr, if_neg hlm, Core.lmRead_sound hsound]
  rfl

theorem Core.pushLines_beyond {k : Core} {q : Fin 4} {t j : Nat} {a : Word} (n : Nat) (hroom : (k.queue q).length < 16)
    (hrange : 0x60000 < a.toNat + 64) : k.pushLines q t j a (n + 1) = (k, a, n + 1, true) := by
  have hr : k.room q 1 = true := by simp [Core.room]; omega
  have hlm : lmSize < a.toNat + 64 := by simpa [lmSize] using hrange
  rw [Core.pushLines, if_pos hr, if_pos hlm]

theorem Core.pushedLine_sound {k : Core} {q : Fin 4} {t j : Nat} {a : Word} {b n : Nat}
    (h : k.uncorrectable b n = false) : (k.pushedLine q t j a).uncorrectable b n = false := by
  rw [Core.uncorrectable_eq_false] at *
  exact fun w hw => Core.mark_correct (h w hw)

/-- What the lines of an `ldq` leave of a core: all but its queues, its marks and its count of corrections. -/
def Core.sameButQueues (k k' : Core) : Prop := k' = { k with dq := k'.dq, lmErr := k'.lmErr, corrected := k'.corrected }

/-- Lines of an `ldq` that lie in local memory, meet no uncorrectable word and have room are pushed in address order. -/
theorem Core.pushLines_sound {q : Fin 4} {t : Nat} (m : Nat) (k : Core) (j : Nat) (a : Word) (n : Nat)
    (hrange : m = 0 ∨ a.toNat + 64 * m ≤ 0x60000) (hsound : k.uncorrectable a.toNat (64 * m) = false)
    (hroom : (k.queue q).length + m ≤ 16) :
    ∃ k', k.pushLines q t j a (m + n) = k'.pushLines q t (j + m) (a + BitVec.ofNat 64 (64 * m)) n
      ∧ k.sameButQueues k'
      ∧ (k'.queue q).map DqEntry.data = (k.queue q).map DqEntry.data
          ++ (List.range m).map (fun i => k.lmBytes (a.toNat + 64 * i) 64)
      ∧ (∀ p, p ≠ q → k'.queue p = k.queue p) := by
  induction m generalizing k j a with
  | zero => exact ⟨k, by simp, rfl, by simp, fun _ _ => rfl⟩
  | succ m ih =>
    have hlast : a.toNat + 64 * (m + 1) ≤ 0x60000 := hrange.resolve_left (by omega)
    have ha : (a + 64).toNat = a.toNat + 64 := by bv_omega
    have hline := Core.pushLines_step (k := k) (q := q) (j := j) (t := t) (m + n) (by omega) (by omega)
      (Core.uncorrectable_part hsound (b := a.toNat) (m := 64) le_rfl (by omega))
    have hqueue : (k.pushedLine q t j a).queue q =
        k.queue q ++ [{ data := k.lmBytes a.toNat 64, at_ := t + j + 5 }] := Core.queue_setQueue ..
    obtain ⟨k', hlines, hframe, hdata, hother⟩ := ih (k.pushedLine q t j a) (j + 1) (a + 64) (.inr (by omega))
      (Core.pushedLine_sound (Core.uncorrectable_part hsound (by omega) (by omega)))
      (by rw [hqueue, List.length_append, List.length_singleton]; omega)
    refine ⟨k', ?_, ?_, ?_, fun p hp => (hother p hp).trans (Core.queue_setQueue_other _ _ hp)⟩
    · rw [show m + 1 + n = m + n + 1 by omega, hline, hlines]
      congr 1
      · omega
      · bv_omega
    · rw [Core.sameButQueues] at *
      rw [hframe]
      rfl
    · rw [hdata, hqueue, ha, List.range_succ_eq_map]
      simp only [List.map_append, List.map_cons, List.map_nil, List.append_assoc, List.cons_append, List.nil_append,
        List.map_map, Nat.mul_zero, Nat.add_zero]
      congr 3
      funext i
      exact congrArg (k.lmBytes · 64) (by simp; omega)

/-! What issues over some registers issues over fewer. -/

theorem State.issues.fewer {s : State} {c : Nat} {u : UnitId} {regs regs' : List Nat} {t : Nat}
    (h : s.issues c u regs t)
    (hsub : ∀ r ∈ regs', r ∈ regs) : ∃ t', s.issues c u regs' t' := by
  obtain ⟨hsite, hclock, hagain, hmay, htime⟩ := h
  unfold Core.issueTime at htime
  dsimp only at htime
  split at htime
  · cases htime
  · next hbusy =>
    have hfree : regs'.any (fun r => ((s.core c).stream u).busy.contains r) = false := by
      simp only [List.any_eq_true, not_exists, not_and] at hbusy
      simp only [List.any_eq_false]
      exact fun r hr => hbusy r (hsub r hr)
    have htime' : (s.core c).issueTime u s.aclk regs' =
        some (regs'.foldl (fun t r => max t (Assoc.get 0 ((s.core c).stream u).ready r))
          (max s.aclk ((s.core c).stream u).nextIssue)) := by
      rw [Core.issueTime]
      simp only [hfree, Bool.false_eq_true, if_false]
    exact ⟨_, hsite, hclock, hagain, hmay, htime'⟩

/-- An `ldq` that issues with a legal number of lines at an aligned address begins to wait for its lines (R130). -/
theorem Core.loadQueue_issues {s : State} {c : Nat} {q : Fin 4} {b : Fin 32} {imm cnt : Imm} {t : Nat}
    (h : s.issues c .access [b.val] t) (hq : q.val < 3)
    (hcheck : ldqCheck ((s.core c).ea b imm).toNat ((s.core c).imm cnt).toNat = none) :
    (s.core c).loadQueue s.aclk q b imm cnt =
      ((s.core c).waits .access (.ldq q ((s.core c).ea b imm) ((s.core c).imm cnt).toNat)).settled t := by
  have hpush : pushes .access q = true := by simp [pushes, hq]
  rw [Core.loadQueue, hpush]
  simp only [Bool.not_true, Bool.false_eq_true, if_false, State.issues.body h, hcheck]
  rfl

/-- An `ldq` whose count or alignment is bad raises its exception at issue. -/
theorem Core.loadQueue_raises {s : State} {c : Nat} {q : Fin 4} {b : Fin 32} {imm cnt : Imm} {t code : Nat}
    (h : s.issues c .access [b.val] t) (hq : q.val < 3)
    (hcheck : ldqCheck ((s.core c).ea b imm).toNat ((s.core c).imm cnt).toNat = some code) :
    (s.core c).loadQueue s.aclk q b imm cnt = (s.core c).raise .access code := by
  have hpush : pushes .access q = true := by simp [pushes, hq]
  rw [Core.loadQueue, hpush]
  simp only [Bool.not_true, Bool.false_eq_true, if_false, State.issues.body h, hcheck]

theorem ldqCheck_good {a lines : Nat} (hpos : 0 < lines) (hle : lines ≤ 16) (hal : a % 64 = 0) :
    ldqCheck a lines = none := by
  rw [ldqCheck, if_neg (by omega), if_neg (by simpa using hal)]

theorem ldqCheck_misaligned {a lines : Nat} (hpos : 0 < lines) (hle : lines ≤ 16) (hal : a % 64 ≠ 0) :
    ldqCheck a lines = some 2 := by
  rw [ldqCheck, if_neg (by omega), if_pos hal]
  rfl

theorem Core.storeQueue_raises {s : State} {c : Nat} {b : Fin 32} {imm : Imm} {t code : Nat}
    (h : s.issues c .access [b.val] t) (hcheck : lmCheck ((s.core c).ea b imm).toNat 64 64 = some code) :
    (s.core c).storeQueue s.aclk b imm = (s.core c).raise .access code := by
  rw [Core.storeQueue, State.issues.body h]
  simp only [hcheck]

@[simp] theorem Core.stream_waits (k : Core) (u : UnitId) (w : Wait) :
    (k.waits u w).stream u = { k.stream u with wait := w } := Core.stream_setStream ..

@[simp] theorem Core.reg_waits (k : Core) (u v : UnitId) (w : Wait) (r : Fin 32) : (k.waits u w).reg v r = k.reg v r :=
  Core.reg_setStream_sameGr _ _ _ _ _ rfl

/-- The lines of an `ldq` that runs beyond local memory: the stream holds at the line that does not lie there. -/
theorem Core.settled_ldqBeyond {k : Core} {q : Fin 4} {a : Word} {t m n : Nat}
    (hrange : m = 0 ∨ a.toNat + 64 * m ≤ 0x60000) (hbeyond : 0x60000 < a.toNat + 64 * (m + 1))
    (hsound : k.uncorrectable a.toNat (64 * m) = false) (hroom : (k.queue q).length + m < 16) (hn : m < n) :
    ∃ k', k'.lm = k.lm ∧ k.sameRegs k' ∧ (k'.stream .access).pc = (k.stream .access).pc
      ∧ (k.waits .access (.ldq q a n)).settled t = k'.raise .access excRange := by
  obtain ⟨l, rfl⟩ : ∃ l, n = m + (l + 1) := ⟨n - m - 1, by omega⟩
  obtain ⟨k', hlines, hframe, hdata, -⟩ := Core.pushLines_sound (q := q) (t := t) m
    (k.waits .access (.ldq q a (m + (l + 1)))) 0 a (l + 1) hrange hsound (show (k.queue q).length + m ≤ 16 by omega)
  have hlen : (k'.queue q).length = (k.queue q).length + m := by
    have := congrArg List.length hdata
    simp only [List.length_map, List.length_append, List.length_range] at this
    exact this
  have hroom' : (k'.queue q).length < 16 := by omega
  have ha : (a + BitVec.ofNat 64 (64 * m)).toNat = a.toNat + 64 * m := by
    rcases hrange with rfl | hr
    · simp
    · bv_omega
  rw [Core.pushLines_beyond l hroom' (by rw [ha]; omega)] at hlines
  have hserve : (k.waits .access (.ldq q a (m + (l + 1)))).serve .access t =
      (k'.waits .access (.ldq q (a + BitVec.ofNat 64 (64 * m)) (l + 1)), true) := by
    simp only [Core.serve, Core.popNow, Core.pushNow, Core.stream_waits, hlines]
    rfl
  have hstream : ∀ u, k'.stream u = (k.waits .access (.ldq q a (m + (l + 1)))).stream u := by
    intro u
    rw [hframe]
    cases u <;> rfl
  refine ⟨k'.waits .access (.ldq q (a + BitVec.ofNat 64 (64 * m)) (l + 1)), ?_, fun w r => ?_, ?_,
    Core.settled_range hserve (by rw [Core.stream_waits]) (by rw [ha]; omega)⟩
  · rw [Core.waits, Core.setStream_lm, hframe]
    rfl
  · rw [Core.reg_waits, Core.reg, hstream]
    exact Core.reg_waits ..
  · rw [Core.stream_waits, hstream]
    rfl

theorem badLocalAddressRaises : Claims.BadLocalAddressRaises := by
  intro s c d b imm t h a
  obtain ⟨t', h'⟩ := h.fewer (regs' := [b.val]) (by simp)
  refine ⟨fun n code hbad => ?_, fun q cnt m hq hle hm => ⟨fun hal => ?_, ?_⟩⟩
  · intro out
    have hcheck : lmCheck a (2 ^ n) (2 ^ n) = some code := lmCheck_bad hbad
    refine ⟨?_, ?_, ?_⟩
    · rintro z rfl
      exact ⟨State.onInstr_exc h (Core.load_raises h hcheck false), State.onInstr_exc h (Core.store_raises h hcheck)⟩
    · rintro z rfl
      exact State.onInstr_exc h (Core.load_raises h hcheck true)
    · rintro rfl
      exact State.onInstr_exc h' (Core.storeQueue_raises h' hcheck)
  · exact State.onInstr_exc h' (Core.loadQueue_raises h' hq (ldqCheck_misaligned (by omega) hle hal))
  · intro hal hrange hbeyond hoff hsound hroom
    obtain ⟨k', hlm, hregs, hpc, hsettled⟩ := Core.settled_ldqBeyond (t := t') hrange hbeyond hsound hroom hm
    refine ⟨k', hlm, hregs, ?_⟩
    have hf := (Core.loadQueue_issues h' hq (ldqCheck_good (by omega) hle hal)).trans hsettled
    rw [Core.raise, hpc] at hf
    exact State.onInstr_exc h' (f := fun k => k.loadQueue s.aclk q b imm cnt) hf

/-- Settles O5: one lemma for a read and one for a write of a sound span, and the lines of an `ldq` one at a time. -/
theorem localMemoryAccesses : Obligations.LocalMemoryAccesses :=
  ⟨loadResult, storeResult, badLocalAddressRaises⟩

end Sys2Proof.Machine
end

section
/-! PROOF. O6: data queues. A push or a pop that issues is a queue wait that is served at once (R101, R149). -/

namespace Sys2Proof.Machine

open Sys2Proof

/-! What each operation leaves of the registers and the streams. -/

theorem Core.reg_of_streams {k k' : Core} (h : ∀ u, k'.stream u = k.stream u) : k.sameRegs k' := fun w r => by
  rw [Core.reg, h, Core.reg]

@[simp] theorem Core.stream_setQueue (k : Core) (q : Fin 4) (es : List DqEntry) (u : UnitId) :
    (k.setQueue q es).stream u = k.stream u := by
  cases u <;> rfl

@[simp] theorem Core.stream_drop (k : Core) (q : Fin 4) (n : Nat) (u : UnitId) : (k.drop q n).stream u = k.stream u :=
  Core.stream_setQueue ..

@[simp] theorem Core.stream_setVx (k : Core) (v : Fin 32) (ls : List Lane) (u : UnitId) :
    (k.setVx v ls).stream u = k.stream u := by
  cases u <;> rfl

@[simp] theorem Core.stream_pushEntries (k : Core) (w : UnitId) (q : Fin 4) (t : Nat) (es : List (List Byte))
    (u : UnitId) : (k.pushEntries w q t es).stream u = k.stream u := Core.stream_setQueue ..

@[simp] theorem Core.queue_waits (k : Core) (u : UnitId) (w : Wait) (q : Fin 4) : (k.waits u w).queue q = k.queue q :=
    by
  cases u <;> rfl

@[simp] theorem Core.queue_done (k : Core) (u : UnitId) (t interval latency : Nat) (writes : List Nat) (q : Fin 4) :
    (k.done u t interval latency writes).queue q = k.queue q := by
  cases u <;> rfl

@[simp] theorem Core.queue_setReg (k : Core) (u : UnitId) (d : Fin 32) (v : Word) (q : Fin 4) :
    (k.setReg u d v).queue q = k.queue q := by
  cases u <;> rfl

@[simp] theorem Core.stream_done_other (k : Core) (u : UnitId) (t interval latency : Nat) (writes : List Nat) :
    (k.done u t interval latency writes).stream (other u) = k.stream (other u) :=
  Core.stream_setStream_other k _ (by cases u <;> simp [other])

@[simp] theorem Core.stream_waits_other (k : Core) (u : UnitId) (w : Wait) :
    (k.waits u w).stream (other u) = k.stream (other u) :=
  Core.stream_setStream_other k _ (by cases u <;> simp [other])

@[simp] theorem Core.stream_setReg_other (k : Core) (u : UnitId) (d : Fin 32) (v : Word) :
    (k.setReg u d v).stream (other u) = k.stream (other u) :=
  Core.stream_setStream_other k _ (by cases u <;> simp [other])

/-- What a stream waits for is no part of where it goes next. -/
theorem Stream.wentOn_waiting {a b : Stream} {w : Wait} {n : Nat} (h : { a with wait := w }.wentOn b n) :
    a.wentOn b n := by
  have hadv : ({ a with wait := w } : Stream).advance = { a with wait := w }.standAt a.advance :=
    Stream.advance_eq rfl rfl rfl
  obtain ⟨hpc, hloops, hrun, hrest⟩ := h
  rw [hadv] at hpc hloops hrun
  exact ⟨hpc, hloops, hrun, hrest⟩

/-- An instruction that has issued waits for nothing. -/
theorem Core.done_offQueues (k : Core) (u : UnitId) (t interval latency : Nat) (writes : List Nat) :
    (k.done u t interval latency writes).offQueues u := by
  obtain ⟨-, -, -, -, hwait, -⟩ := k.done_wentOn u t interval latency writes
  rw [Core.offQueues, hwait]
  rfl

/-- An instruction that issues while its queue can serve it ends with its queue wait served. -/
theorem Core.settled_done {k k1 : Core} {u : UnitId} {w : Wait} {t t1 interval latency : Nat} {writes : List Nat}
    (hother : k.offQueues (other u))
    (hserve : (k.waits u w).serve u t = (k1.done u t1 interval latency writes, false))
    (hk1 : k1.stream (other u) = k.stream (other u)) :
    (k.waits u w).settled t = .ok t (k1.done u t1 interval latency writes) := by
  refine Core.settled_served ?_ hserve (Core.done_offQueues ..) ?_
  · rw [Core.offQueues, Core.stream_waits_other]
    exact hother
  · rw [Core.offQueues, Core.stream_done_other, hk1]
    exact hother

/-! Pushes. -/

/-- A push that issues with room is served at once. -/
theorem Core.push_issues {s : State} {c : Nat} {u : UnitId} {q : Fin 4} {regs : List Nat} {es : List (List Byte)}
    {t : Nat}
    (h : s.issues c u regs t) (hq : pushes u q = true) (hother : (s.core c).offQueues (other u))
    (hroom : ((s.core c).queue q).length + es.length ≤ 16) :
    (s.core c).push u s.aclk q regs es = .ok t ((((s.core c).waits u (.push q es)).pushEntries u q t es).done u t
      (if es.length = 2 then 2 else 1) 1 []) := by
  rw [Core.push, hq]
  simp only [Bool.not_true, Bool.false_eq_true, if_false, State.issues.body h]
  refine Core.settled_done hother ?_ (by simp)
  have hr : ((s.core c).waits u (.push q es)).room q es.length = true := by simpa [Core.room] using hroom
  simp [Core.serve, Core.popNow, Core.pushNow, hr]

/-- A push of one or two entries that issues with room appends them, not yet poppable, and its stream goes on. -/
theorem State.onInstr_push {s : State} {c : Nat} {u : UnitId} {q : Fin 4} {regs : List Nat} {es : List (List Byte)}
    {t : Nat} (h : s.issues c u regs t) (hq : pushes u q = true) (hother : (s.core c).offQueues (other u))
    (hroom : ((s.core c).queue q).length + es.length ≤ 16) (hlen : es.length = 1 ∨ es.length = 2) {i : Instr}
    {f : Core → CoreRes} (hf : f (s.core c) = (s.core c).push u s.aclk q regs es) :
    ∃ s', s.onInstr c u i f = .next s' ∧ s.onlyCore s' c ∧ (s.core c).sameRegs (s'.core c)
      ∧ ((s'.core c).queue q).map (fun e => (e.data, e.poppable)) =
          ((s.core c).queue q).map (fun e => (e.data, e.poppable)) ++ es.map (fun d => (d, false))
      ∧ (∀ p, p ≠ q → (s'.core c).queue p = (s.core c).queue p)
      ∧ (s'.core c).lm = (s.core c).lm ∧ (s'.core c).vec = (s.core c).vec
      ∧ ((s.core c).stream u).wentOn ((s'.core c).stream u) (t + es.length) := by
  obtain ⟨s', hrun, honly, hcore, -⟩ := State.onInstr_core (i := i) h (hf.trans (Core.push_issues h hq hother hroom))
  refine ⟨s', hrun, honly, ?_⟩
  rw [hcore]
  refine ⟨fun v r => ?_, ?_, fun p hp => ?_, ?_, ?_, ?_⟩
  · rw [Core.reg_done, Core.reg, Core.stream_pushEntries]
    exact Core.reg_waits ..
  · rw [Core.queue_done, Core.pushEntries, Core.queue_setQueue, Core.queue_waits, List.map_append, List.map_map]
    rfl
  · rw [Core.queue_done, Core.pushEntries, Core.queue_setQueue_other _ _ hp, Core.queue_waits]
  · cases u <;> rfl
  · cases u <;> rfl
  · have hinterval : (if es.length = 2 then 2 else 1) = es.length := by
      rcases hlen with hl | hl <;> simp [hl]
    rw [hinterval]
    have := Core.done_wentOn (((s.core c).waits u (.push q es)).pushEntries u q t es) u t es.length 1 []
    rw [Core.stream_pushEntries, Core.stream_waits] at this
    exact Stream.wentOn_waiting this

theorem scalarEntry_eq (v : Word) : scalarEntry v = leBytes 8 v.toNat ++ List.replicate 56 0 := by
  simp [scalarEntry, padTo, slice, List.take_of_length_le]

theorem pushResult : Claims.PushResult := by
  intro s c u q x a row hrow t hx hq h hother hroom
  simp only [List.mem_cons, List.not_mem_nil, or_false] at hrow
  rcases hrow with rfl | rfl
  · exact State.onInstr_push h hq hother hroom (.inl rfl) (by simp [hx, scalarEntry_eq])
  · exact State.onInstr_push h hq hother hroom (.inr rfl) rfl

/-! Line loads. -/

/-- The lines of an `ldq` that all lie in local memory, sound, with room: the queue wait is served at once. -/
theorem Core.settled_ldq {k : Core} {q : Fin 4} {a : Word} {t n : Nat} (hother : k.offQueues .execute)
    (hrange : n = 0 ∨ a.toNat + 64 * n ≤ 0x60000) (hsound : k.uncorrectable a.toNat (64 * n) = false)
    (hroom : (k.queue q).length + n ≤ 16) :
    ∃ k1, (k.waits .access (.ldq q a n)).settled t = .ok t (k1.done .access t n 1 [])
      ∧ (k.waits .access (.ldq q a n)).sameButQueues k1
      ∧ (k1.queue q).map DqEntry.data = (k.queue q).map DqEntry.data
          ++ (List.range n).map (fun i => k.lmBytes (a.toNat + 64 * i) 64)
      ∧ (∀ p, p ≠ q → k1.queue p = k.queue p) := by
  obtain ⟨k1, hlines, hframe, hdata, hqueues⟩ := Core.pushLines_sound (q := q) (t := t) n
    (k.waits .access (.ldq q a n)) 0 a 0 hrange hsound hroom
  refine ⟨k1, ?_, hframe, hdata, hqueues⟩
  refine Core.settled_done hother ?_ ?_
  · rw [Core.pushLines] at hlines
    simp only [Nat.add_zero] at hlines
    simp [Core.serve, Core.popNow, Core.pushNow, hlines]
  · rw [hframe]
    rfl

theorem ldqResult : Claims.LdqResult := by
  intro s c q b imm cnt t hq h hother a lines hpos hle hal hrange hsound hroom
  obtain ⟨k1, hsettled, hframe, hdata, hqueues⟩ := Core.settled_ldq (t := t) hother (.inr hrange) hsound hroom
  have hf := (Core.loadQueue_issues h hq (ldqCheck_good hpos hle hal)).trans hsettled
  obtain ⟨s', hrun, honly, hcore, -⟩ := State.onInstr_core (i := .ldq c q b imm cnt)
    (f := fun k => k.loadQueue s.aclk q b imm cnt) h hf
  refine ⟨s', hrun, honly, ?_⟩
  rw [hcore]
  have hstream : ∀ u, k1.stream u = ((s.core c).waits .access (.ldq q ((s.core c).ea b imm) lines)).stream u := by
    intro u
    rw [hframe]
    cases u <;> rfl
  refine ⟨fun w r => ?_, ?_, fun p hp => ?_, ?_, ?_⟩
  · rw [Core.reg_done, Core.reg, hstream]
    exact Core.reg_waits ..
  · rw [Core.queue_done]
    exact hdata
  · rw [Core.queue_done]
    exact hqueues p hp
  · show k1.lm = _
    rw [hframe]
    rfl
  · have := Core.done_wentOn k1 .access t lines 1 []
    rw [hstream, Core.stream_waits] at this
    exact Stream.wentOn_waiting this

/-! Pops. -/

/-- A pop that issues and is served at once. -/
theorem Core.pop_issues {s : State} {c : Nat} {u : UnitId} {q : Fin 4} {regs : List Nat} {w : Wait} {k1 : Core}
    {t interval latency : Nat} {writes : List Nat} (h : s.issues c u regs t) (hq : pushes u q = false)
    (hother : (s.core c).offQueues (other u))
    (hpop : ((s.core c).waits u w).popNow u t = some (k1.done u t interval latency writes))
    (hk1 : k1.stream (other u) = (s.core c).stream (other u)) :
    (s.core c).pop u s.aclk q regs w = .ok t (k1.done u t interval latency writes) := by
  rw [Core.pop, hq]
  simp only [Bool.false_eq_true, if_false, State.issues.body h]
  exact Core.settled_done hother (by rw [Core.serve, hpop]) hk1

theorem Core.poppable_one {k : Core} {q : Fin 4} {e : DqEntry} {es : List DqEntry} (h : k.queue q = e :: es)
    (he : e.poppable = true) : k.poppable q 1 = some [e.data] := by
  simp [Core.poppable, h, he]

theorem Core.poppable_two {k : Core} {q : Fin 4} {e f : DqEntry} {es : List DqEntry} (h : k.queue q = e :: f :: es)
    (he : e.poppable = true) (hf : f.poppable = true) : k.poppable q 2 = some [e.data, f.data] := by
  simp [Core.poppable, h, he, hf]

@[simp] theorem Core.queue_drop (k : Core) (q : Fin 4) (n : Nat) : (k.drop q n).queue q = (k.queue q).drop n :=
  Core.queue_setQueue ..

/-- A core that waits for a pop, its entries taken. -/
def Core.popped (k : Core) (u : UnitId) (w : Wait) (q : Fin 4) (n : Nat) : Core := (k.waits u w).drop q n

section
variable (k : Core) (u : UnitId) (w : Wait) (q : Fin 4) (n : Nat)

theorem Core.popped_stream : (k.popped u w q n).stream u = { k.stream u with wait := w } := by
  rw [Core.popped, Core.stream_drop, Core.stream_waits]

theorem Core.popped_stream_other : (k.popped u w q n).stream (other u) = k.stream (other u) := by
  rw [Core.popped, Core.stream_drop, Core.stream_waits_other]

theorem Core.popped_reg (v : UnitId) (r : Fin 32) : (k.popped u w q n).reg v r = k.reg v r := by
  rw [Core.reg, Core.popped, Core.stream_drop]
  exact Core.reg_waits ..

theorem Core.popped_queue : (k.popped u w q n).queue q = (k.queue q).drop n := by
  rw [Core.popped, Core.queue_drop, Core.queue_waits]

end

/-- The stream of a pop that is done goes on. -/
theorem Core.popped_wentOn {k k' : Core} {u : UnitId} {w : Wait} {q : Fin 4} {n m : Nat}
    (h : ((k.popped u w q n).stream u).wentOn (k'.stream u) m) : (k.stream u).wentOn (k'.stream u) m := by
  rw [Core.popped_stream] at h
  exact Stream.wentOn_waiting h

section
variable {s : State} {c : Nat} {u : UnitId} {d : Fin 32} {q : Fin 4} {t : Nat} {e f : DqEntry} {es : List DqEntry}

theorem State.popq_issues (h : s.issues c u [d.val] t) (hd : regOk u d = true) (hq : pushes u q = false)
    (hother : (s.core c).offQueues (other u)) (hqueue : (s.core c).queue q = e :: es) (he : e.poppable = true) :
    ∃ s', exec (.popq c u d q) s = .next s' ∧ s.onlyCore s' c ∧ (s'.core c).queue q = es
      ∧ (s.core c).setsReg (s'.core c) u d (BitVec.ofNat 64 (leAt e.data 0 8))
      ∧ ((s.core c).stream u).wentOn ((s'.core c).stream u) (t + 1) := by
  have hpop : ((s.core c).waits u (.popReg d q)).popNow u t = some
      (((s.core c).popped u (.popReg d q) q 1).wroteReg u t 1 d (BitVec.ofNat 64 (leAt e.data 0 8))) := by
    have hone := Core.poppable_one (k := (s.core c).waits u (.popReg d q)) (q := q) (by simpa using hqueue) he
    simp [Core.popNow, hone, Core.wroteReg, Core.popped]
  have hf := Core.pop_issues (regs := [d.val]) h hq hother hpop (by simp [Core.popped_stream_other])
  obtain ⟨s', hrun, honly, hcore, -⟩ := State.onInstr_core (i := .popq c u d q)
    (f := fun k => if regOk u d then k.pop u s.aclk q [d.val] (.popReg d q) else .refuse) h (by simpa [hd] using hf)
  refine ⟨s', hrun, honly, ?_⟩
  rw [hcore]
  obtain ⟨hset, hothers⟩ := Core.wroteReg_setsReg ((s.core c).popped u (.popReg d q) q 1) u t 1 d
    (BitVec.ofNat 64 (leAt e.data 0 8))
  refine ⟨?_, ⟨hset, fun w r hr => (hothers w r hr).trans (Core.popped_reg ..)⟩, ?_⟩
  · rw [Core.queue_done, Core.queue_setReg, Core.popped_queue, hqueue]
    rfl
  · exact Core.popped_wentOn (Core.wroteReg_wentOn _ u t 1 d _)

theorem State.popqDrop_issues (h : s.issues c u [] t) (hq : pushes u q = false)
    (hother : (s.core c).offQueues (other u)) (hqueue : (s.core c).queue q = e :: es) (he : e.poppable = true) :
    ∃ s', exec (.popqDrop c u q) s = .next s' ∧ s.onlyCore s' c ∧ (s'.core c).queue q = es
      ∧ (s.core c).sameRegs (s'.core c) ∧ ((s.core c).stream u).wentOn ((s'.core c).stream u) (t + 1) := by
  have hpop : ((s.core c).waits u (.popDrop q)).popNow u t = some
      (((s.core c).popped u (.popDrop q) q 1).done u t 1 1 []) := by
    have hone := Core.poppable_one (k := (s.core c).waits u (.popDrop q)) (q := q) (by simpa using hqueue) he
    simp [Core.popNow, hone, Core.popped]
  have hf := Core.pop_issues (regs := []) h hq hother hpop (by simp [Core.popped_stream_other])
  obtain ⟨s', hrun, honly, hcore, -⟩ := State.onInstr_core (i := .popqDrop c u q)
    (f := fun k => k.pop u s.aclk q [] (.popDrop q)) h hf
  refine ⟨s', hrun, honly, ?_⟩
  rw [hcore]
  refine ⟨?_, fun w r => ?_, Core.popped_wentOn (Core.done_wentOn ..)⟩
  · rw [Core.queue_done, Core.popped_queue, hqueue]
    rfl
  · rw [Core.reg_done, Core.popped_reg]

theorem State.popv_issues (hq : q.val < 3) (hother : (s.core c).offQueues .access) (h : s.issues c .execute [vreg d] t)
    (hqueue : (s.core c).queue q = e :: f :: es) (he : e.poppable = true) (hf : f.poppable = true) :
    ∃ s', exec (.popv c d q) s = .next s' ∧ s.onlyCore s' c ∧ (s'.core c).queue q = es
      ∧ (s.core c).sameRegs (s'.core c) ∧ (s.core c).setsVx (s'.core c) [(d, lanesOf 4 (e.data ++ f.data))]
      ∧ (s.core c).exe.wentOn (s'.core c).exe (t + 2) := by
  have hpush : pushes .execute q = false := by simp [pushes, hq]
  have hpop : ((s.core c).waits .execute (.popVec d q)).popNow .execute t = some
      ((((s.core c).popped .execute (.popVec d q) q 2).setVx d (lanesOf 4 (e.data ++ f.data))).done .execute t 2 1
        [vreg d]) := by
    have htwo := Core.poppable_two (k := (s.core c).waits .execute (.popVec d q)) (q := q) (by simpa using hqueue) he hf
    simp [Core.popNow, htwo, Core.popped]
  have hf := Core.pop_issues (regs := [vreg d]) h hpush hother hpop (by
    rw [Core.stream_setVx, Core.popped_stream_other])
  obtain ⟨s', hrun, honly, hcore, -⟩ := State.onInstr_core (i := .popv c d q)
    (f := fun k => k.pop .execute s.aclk q [vreg d] (.popVec d q)) h hf
  refine ⟨s', hrun, honly, ?_⟩
  rw [hcore]
  refine ⟨?_, fun w r => ?_, ⟨?_, fun v hv => ?_⟩, ?_⟩
  · rw [Core.queue_done]
    show ((s.core c).popped .execute (.popVec d q) q 2).queue q = es
    rw [Core.popped_queue, hqueue]
    rfl
  · rw [Core.reg_done, Core.reg, Core.stream_setVx]
    exact Core.popped_reg ..
  · intro p hp
    rw [List.mem_singleton.mp hp]
    exact Assoc.get_set_same ..
  · have hne : v.val ≠ d.val := fun hval => hv (by simp [Fin.ext hval])
    exact Assoc.get_set_other _ _ _ hne
  · have := Core.done_wentOn (((s.core c).popped .execute (.popVec d q) q 2).setVx d (lanesOf 4 (e.data ++ f.data)))
      .execute t 2 1 [vreg d]
    rw [Core.stream_setVx] at this
    exact Core.popped_wentOn this

theorem State.stq_issues {b : Fin 32} {imm : Imm} (h : s.issues c .access [b.val] t)
    (hother : (s.core c).offQueues .execute) (hal : ((s.core c).ea b imm).toNat % 64 = 0)
    (hrange : ((s.core c).ea b imm).toNat + 64 ≤ 0x60000) (hqueue : (s.core c).queue 3 = e :: es)
    (he : e.poppable = true) (hlen : e.data.length = 64) :
    ∃ s', exec (.stq c b imm) s = .next s' ∧ s.onlyCore s' c ∧ (s'.core c).queue 3 = es
      ∧ (s.core c).sameRegs (s'.core c) ∧ (s.core c).writesLm (s'.core c) ((s.core c).ea b imm).toNat e.data := by
  obtain ⟨k2, hk2⟩ := Core.lmWrite_isSome
    (k := (s.core c).popped .access (.popStore ((s.core c).ea b imm) 3) 3 1) (a := ((s.core c).ea b imm).toNat)
    (bs := e.data) (fun w hw => .inl (by
      rw [mem_wordsOf] at hw
      simp only [covers, decide_eq_true_eq]
      omega))
  have hframe := Core.lmWrite_frame hk2
  have hstream : ∀ u, k2.stream u = ((s.core c).popped .access (.popStore ((s.core c).ea b imm) 3) 3 1).stream u := by
    intro u
    rw [hframe]
    cases u <;> rfl
  have hpop : ((s.core c).waits .access (.popStore ((s.core c).ea b imm) 3)).popNow .access t =
      some ((k2.done .access t 1 1 []).wrote .access t) := by
    have hone := Core.poppable_one (k := (s.core c).waits .access (.popStore ((s.core c).ea b imm) 3)) (q := 3)
      (by simpa using hqueue) he
    have hflat : ([e.data] : List (List Byte)).flatten = e.data := by simp
    rw [Core.popped] at hk2
    simp only [Core.popNow, Core.stream_waits, hone, Option.bind_some, hflat, hk2, Option.map_some]
  have hf : (s.core c).storeQueue s.aclk b imm = .ok t ((k2.done .access t 1 1 []).wrote .access t) := by
    rw [Core.storeQueue, State.issues.body h]
    simp only [lmCheck_good hal hrange]
    refine Core.settled_served (k := (s.core c).waits .access (.popStore ((s.core c).ea b imm) 3)) (u := .access) hother
      (by rw [Core.serve, hpop]) (Core.done_offQueues k2 .access t 1 1 []) ?_
    show (k2.stream .execute).wait.onQueue = false
    rw [hstream]
    exact hother
  obtain ⟨s', hrun, honly, hcore, -⟩ := State.onInstr_core (i := .stq c b imm)
    (f := fun k => k.storeQueue s.aclk b imm) h hf
  refine ⟨s', hrun, honly, ?_⟩
  rw [hcore]
  refine ⟨?_, fun w r => ?_, fun m => ?_⟩
  · show k2.queue 3 = es
    rw [hframe]
    show ((s.core c).popped .access _ 3 1).queue 3 = es
    rw [Core.popped_queue, hqueue]
    rfl
  · rw [Core.reg_wrote, Core.reg_done, Core.reg, hstream]
    exact Core.popped_reg ..
  · exact Core.lmWrite_writesLm hk2 m

end

theorem popResult : Claims.PopResult := by
  intro s c u d q t
  refine ⟨fun hq hother e es hqueue he => ⟨fun hd h => ?_, fun h => ?_⟩, fun hq hother h e f es hqueue he hf => ?_,
    fun b imm h hother hal hrange e es hqueue he hlen => ?_⟩
  · exact State.popq_issues h hd hq hother hqueue he
  · exact State.popqDrop_issues h hq hother hqueue he
  · exact State.popv_issues hq hother h hqueue he hf
  · exact State.stq_issues h hother hal hrange hqueue he hlen

/-! The first entry that is not poppable, and `owait`. -/

theorem takeWhile_append_cons {α : Type} {p : α → Bool} {front back : List α} {e : α} (hfront : front.all p = true)
    (he : p e = false) : (front ++ e :: back).takeWhile p = front := by
  rw [List.takeWhile_append_of_pos (fun x hx => List.all_eq_true.mp hfront x hx), List.takeWhile_cons_of_neg
      (by simp [he]),
    List.append_nil]

theorem entryPoppableAndOwait : Claims.EntryPoppableAndOwait := by
  intro s c
  refine ⟨fun q front e back hsite hqueue hfront he hopen ha hx => ?_, fun n t h hover => ?_⟩
  · have hf : (s.core c).entryPoppable s.aclk q = .ok (max s.aclk e.at_)
        ((s.core c).setQueue q (front ++ { e with poppable := true } :: back)) := by
      have hget : (front ++ e :: back)[front.length]? = some e := by simp
      have hset : (front ++ e :: back).set front.length { e with poppable := true } =
          front ++ { e with poppable := true } :: back := by simp
      rw [Core.entryPoppable, hqueue, takeWhile_append_cons hfront he]
      simp only [hget, hopen, Bool.false_eq_true, if_false, hset]
      exact Core.settled_offQueues _ ha hx
    refine ⟨_, State.onCore_ok s c _ _ _ hsite.1 hsite.2 hf, s.onlyCore_setCore_at c _ _, ?_, by simp⟩
    simp
  · have hf : (s.core c).issue .execute s.aclk [] (fun t => if (s.core c).owaitOver n then
      (s.core c).ok1 .execute t 1 1 []
        else .held ((s.core c).setStream .execute { (s.core c).exe with wait := .owait n })) =
        .ok t ((s.core c).done .execute t 1 1 []) := by
      have hcond : (s.core c).owaitOver n = true := by
        exact decide_eq_true hover
      rw [State.issues.body h, hcond]
      rfl
    obtain ⟨s', hrun, honly, hstream, hsame, hst⟩ := State.onInstr_stream (i := .owait c n)
      (f := fun k => k.issue .execute s.aclk [] (fun t => if k.owaitOver n then k.ok1 .execute t 1 1 []
        else .held (k.setStream .execute { k.exe with wait := .owait n }))) h hf (Stream.issued_gr ..)
    exact ⟨s', hrun, honly, hstream, hsame, by
      show (s.core c).exe.wentOn ((s'.core c).stream .execute) (t + 1)
      rw [hst]
      exact Stream.issued_wentOn ..⟩

/-- Settles O6: a push or a pop that issues is a queue wait served at once, and each wait has its one lemma. -/
theorem dataQueueResults : Obligations.DataQueueResults :=
  ⟨pushResult, ldqResult, popResult, entryPoppableAndOwait⟩

end Sys2Proof.Machine
end

section
/-! PROOF. O7: address patterns, `agen` and `apush`. -/

namespace Sys2Proof.Machine

open Sys2Proof

/-! The addresses of a pattern (R131). -/

/-- One dimension of an address: its index taken off, its part of the address added. -/
def addrStep (acc : Nat × Int) (d : Nat × Int) : Nat × Int := (acc.1 / d.1, acc.2 + (acc.1 % d.1 : Nat) * d.2)

theorem foldl_addrStep (dims : List (Nat × Int)) (is : List Nat) (z : Int) (hlen : is.length = dims.length)
    (his : ∀ x ∈ List.zip is dims, x.1 < x.2.1) :
    (dims.foldl addrStep (mixedIndex dims is, z)).2 = z + strideSum dims is := by
  induction dims generalizing is z with
  | nil => simp [strideSum]
  | cons d dims ih =>
    cases is with
    | nil => simp at hlen
    | cons i is =>
      have hi : i < d.1 := his (i, d) (by simp)
      have hmod : (i + d.1 * mixedIndex dims is) % d.1 = i := by
        rw [Nat.add_mul_mod_self_left, Nat.mod_eq_of_lt hi]
      have hdiv : (i + d.1 * mixedIndex dims is) / d.1 = mixedIndex dims is := by
        rw [Nat.add_mul_div_left _ _ (by omega), Nat.div_eq_of_lt hi, Nat.zero_add]
      rw [List.foldl_cons, mixedIndex, addrStep]
      simp only [hmod, hdiv]
      rw [ih is _ (by simpa using hlen) (fun x hx => his x (by simp [hx])), strideSum, Int.add_assoc]

theorem foldl_mul_start (ns : List Nat) (m : Nat) : ns.foldl (· * ·) m = m * ns.foldl (· * ·) 1 := by
  induction ns generalizing m with
  | nil => simp
  | cons n ns ih => rw [List.foldl_cons, List.foldl_cons, ih, ih (1 * n), Nat.one_mul, Nat.mul_assoc]

theorem mixedIndex_lt (dims : List (Nat × Int)) (is : List Nat) (hlen : is.length = dims.length)
    (his : ∀ x ∈ List.zip is dims, x.1 < x.2.1) :
    mixedIndex dims is < (dims.map Prod.fst).foldl (· * ·) 1 := by
  induction dims generalizing is with
  | nil => simp [mixedIndex]
  | cons d dims ih =>
    cases is with
    | nil => simp at hlen
    | cons i is =>
      have hi : i < d.1 := his (i, d) (by simp)
      have hrest := ih is (by simpa using hlen) (fun x hx => his x (by simp [hx]))
      rw [mixedIndex, List.map_cons, List.foldl_cons, foldl_mul_start, Nat.one_mul]
      calc i + d.1 * mixedIndex dims is < d.1 * (mixedIndex dims is + 1) := by rw [Nat.mul_add_one]; omega
        _ ≤ d.1 * (dims.map Prod.fst).foldl (· * ·) 1 := Nat.mul_le_mul_left _ hrest

theorem patternAddresses : Claims.PatternAddresses := by
  intro p is hlen his
  have hsum := foldl_addrStep p.dims is 0 hlen his
  rw [Int.zero_add] at hsum
  exact ⟨congrArg (fun z => p.base + BitVec.ofInt 64 z) hsum, mixedIndex_lt p.dims is hlen his⟩

/-! The address streams of a core. -/

theorem streamNo_injective {a b : AStream} (h : streamNo a = streamNo b) : a = b := by
  cases a <;> cases b <;> simp [streamNo] at h ⊢

@[simp] theorem Core.ag_setAg (k : Core) (a : AStream) (s : AddrStream) : (k.setAg a s).ag a = s :=
  Assoc.get_put_same ..

theorem Core.ag_setAg_other (k : Core) {a o : AStream} (s : AddrStream) (h : o ≠ a) : (k.setAg a s).ag o = k.ag o :=
  Assoc.get_put_other _ _ _ fun hno => h (streamNo_injective hno)

@[simp] theorem Core.ag_done (k : Core) (u : UnitId) (t interval latency : Nat) (writes : List Nat) (a : AStream) :
    (k.done u t interval latency writes).ag a = k.ag a := by
  cases u <;> rfl

@[simp] theorem Core.stream_setAg (k : Core) (a : AStream) (s : AddrStream) (u : UnitId) :
    (k.setAg a s).stream u = k.stream u := by
  cases u <;> rfl

/-- A stream that stands as of a cycle generates nothing more in that cycle. -/
theorem AddrStream.settle_settle (s : AddrStream) (t : Nat) : (s.settle t).settle t = s.settle t := by
  have hle : t ≤ (s.settle t).upTo := Nat.le_max_right s.upTo t
  have hzero : min (t - (s.settle t).upTo) 32 = 0 := by omega
  have hmax : max (s.settle t).upTo t = (s.settle t).upTo := by omega
  rw [AddrStream.settle, hzero, hmax]
  rfl

/-- A stream with fewer than two patterns in hand takes another one at once (R132). -/
theorem AddrStream.freeAt_few {s : AddrStream} (t : Nat) (h : s.patterns.length < 2) : s.freeAt t = some t := by
  unfold AddrStream.freeAt
  dsimp only
  split
  · next p x y heq =>
    have hle := List.length_filter_le (fun p : Pattern => !p.dims.isEmpty) s.patterns
    rw [heq] at hle
    simp only [List.length_cons] at hle
    omega
  · rfl

/-- An address stream with one pattern more behind the others. -/
def AddrStream.behind (s : AddrStream) (t : Nat) (p : Pattern) : AddrStream :=
  { s with
    patterns := s.patterns ++ [p]
    upTo := if s.patterns.isEmpty then max s.upTo (t + 1) else s.upTo }

/-- The dimensions of a pattern, as `agen` reads them from its registers (R131). -/
def agenDims (k : Core) (dims : List (Src × Src)) : List (Nat × Int) :=
  dims.map (fun p => (bits (k.src .access p.1) 0 32, signed 32 (k.src .access p.2).toNat))

theorem agenDims_eq (k : Core) (dims : List (Src × Src)) : agenDims k dims = dims.map (fun p =>
    ((k.src .access p.1).toNat % 2 ^ 32, ((k.src .access p.2).truncate 32 : BitVec 32).toInt)) := by
  have hsigned : ∀ v : Word, signed 32 v.toNat = (v.truncate 32 : BitVec 32).toInt := by
    intro v
    rw [← signed_toNat _ (by decide)]
    simp [signed]
  simp [agenDims, bits, hsigned]

section
variable {s : State} {c : Nat} {a : AStream} {b : Fin 32} {t : Nat}

/-- An instruction that puts a pattern behind those of its address stream and goes on. -/
theorem State.onInstr_behind {regs : List Nat} (h : s.issues c .access regs t) {i : Instr} {f : Core → CoreRes}
    {p : Pattern}
    (hf : f (s.core c) = .ok t (((s.core c).setAg a ((((s.core c).ag a).settle t).behind t p)).done .access t 1 1 [])) :
    ∃ s', s.onInstr c .access i f = .next s' ∧ s.onlyCore s' c ∧ (s.core c).sameRegs (s'.core c)
      ∧ (s'.core c).ag a = (((s.core c).ag a).settle t).behind t p
      ∧ (∀ o, o ≠ a → (s'.core c).ag o = (s.core c).ag o) ∧ (s.core c).acc.wentOn (s'.core c).acc (t + 1) := by
  obtain ⟨s', hrun, honly, hcore, -⟩ := State.onInstr_core (i := i) h hf
  refine ⟨s', hrun, honly, ?_⟩
  rw [hcore]
  refine ⟨fun w r => ?_, ?_, fun o ho => ?_, ?_⟩
  · rw [Core.reg_done, Core.reg, Core.stream_setAg]
    rfl
  · rw [Core.ag_done, Core.ag_setAg]
  · rw [Core.ag_done, Core.ag_setAg_other _ _ ho]
  · exact Core.done_wentOn (((s.core c).setAg a _)) .access t 1 1 []

theorem Core.agen_issues {dims : List (Src × Src)}
    (h : s.issues c .access (b.val :: dims.flatMap (fun p => srcRegs p.1 ++ srcRegs p.2)) t) (hpos : 1 ≤ dims.length)
    (hle : dims.length ≤ 4) (hcounts : ∀ d ∈ agenDims (s.core c) dims, d.1 ≠ 0)
    (hfew : (((s.core c).ag a).settle t).patterns.length < 2) :
    (s.core c).agen s.aclk a b dims = .ok t (((s.core c).setAg a ((((s.core c).ag a).settle t).behind t
      { base := (s.core c).reg .access b, dims := agenDims (s.core c) dims })).done .access t 1 1 []) := by
  have hany : (agenDims (s.core c) dims).any (fun d => d.1 == 0) = false := by
    simpa [List.any_eq_false] using hcounts
  have hlen : ¬ (dims.length = 0 ∨ 4 < dims.length) := by omega
  rw [Core.agen]
  simp only [hlen, decide_false, Bool.false_eq_true, if_false, State.issues.body h]
  rw [agenDims] at hany
  simp only [hany, Bool.false_eq_true, if_false, AddrStream.freeAt_few t hfew, AddrStream.settle_settle]
  rfl

theorem Core.apush_issues (h : s.issues c .access [b.val] t) (hroom : (((s.core c).ag a).settle t).fifo.length < 32) :
    (s.core c).apush s.aclk a b = .ok t (((s.core c).setAg a ((((s.core c).ag a).settle t).behind t
      { base := (s.core c).reg .access b, dims := [] })).done .access t 1 1 []) := by
  rw [Core.apush, State.issues.body h]
  simp only [not_le.mpr hroom, if_false]
  rfl

end

theorem addressStreamResult : Claims.AddressStreamResult := by
  intro s c a b dims t k
  refine ⟨fun h hpos hle hcounts hfew => ?_, fun h hroom => ?_⟩
  · have hds := agenDims_eq k dims
    obtain ⟨s', hrun, honly, hsame, hag, hothers, hwent⟩ := State.onInstr_behind (i := .agen c a b dims)
      (f := fun k => k.agen s.aclk a b dims) h (Core.agen_issues h hpos hle (by rwa [hds]) hfew)
    rw [hds] at hag
    exact ⟨s', hrun, honly, hsame, by rw [hag]; rfl, by rw [hag]; rfl, hothers, hwent⟩
  · obtain ⟨s', hrun, honly, hsame, hag, hothers, hwent⟩ := State.onInstr_behind (i := .apush c a b)
      (f := fun k => k.apush s.aclk a b) h (Core.apush_issues h hroom)
    refine ⟨s', hrun, honly, hsame, by rw [hag]; rfl, by rw [hag]; rfl, fun hempty => ?_, hothers, hwent⟩
    rw [hag, AddrStream.behind, hempty]
    exact Nat.le_max_right ..

/-- Settles O7: the addresses by induction over the dimensions, and one lemma for a pattern put behind the others. -/
theorem addressStreamResults : Obligations.AddressStreamResults :=
  ⟨patternAddresses, addressStreamResult⟩

end Sys2Proof.Machine
end

section
/-! PROOF. O9: hasps and stream control. The instructions here change a home die besides their core, so what their core
answers is stated for `State.clocked` and `Core.attempt` apart from `State.onInstr`. -/

namespace Sys2Proof.Machine

open Sys2Proof

/-- The core's answer to an instruction that issues and completes. -/
theorem State.clocked_issued {s : State} {c : Nat} {u : UnitId} {regs : List Nat} {t : Nat} (h : s.issues c u regs t)
    {i : Instr} {f : Core → CoreRes} {t' : Nat} {k' : Core} (hf : f (s.core c) = .ok t' k') :
    s.clocked c (fun k => k.attempt u i f) = .ok t' k' := by
  obtain ⟨-, hclock, hagain, -, -⟩ := h
  rw [State.clocked, hclock]
  exact Core.attempt_fresh _ _ _ _ _ _ hagain hf

/-- The core's answer to an instruction that issues and holds its stream for an event. -/
theorem State.clocked_held {s : State} {c : Nat} {u : UnitId} {regs : List Nat} {t : Nat} (h : s.issues c u regs t)
    {i : Instr} {f : Core → CoreRes} {k' : Core} (hf : f (s.core c) = .held k')
    (hwait : ∀ a, (k'.stream u).wait ≠ .retry a) : s.clocked c (fun k => k.attempt u i f) = .held k' := by
  obtain ⟨-, hclock, hagain, -, -⟩ := h
  rw [State.clocked, hclock]
  simp only [Bool.false_eq_true, if_false, Core.attempt, hagain, reduceCtorEq, hf]

/-! The handles of a core. -/

@[simp] theorem Core.handle_setHandle (k : Core) (h : Fin 16) (v : Handle) : (k.setHandle h v).handle h = v :=
  Assoc.get_put_same ..

theorem Core.handle_setHandle_other (k : Core) {g h : Fin 16} (v : Handle) (hg : g ≠ h) :
    (k.setHandle h v).handle g = k.handle g :=
  Assoc.get_put_other _ _ _ fun hval => hg (Fin.ext hval)

@[simp] theorem Core.handle_done (k : Core) (u : UnitId) (t interval latency : Nat) (writes : List Nat) (h : Fin 16) :
    (k.done u t interval latency writes).handle h = k.handle h := by
  cases u <;> rfl

theorem Core.sameRegs_setHandle_done (k : Core) (h : Fin 16) (v : Handle) (t interval latency : Nat)
    (writes : List Nat) :
    k.sameRegs ((k.setHandle h v).done .access t interval latency writes) := fun w r => by
  rw [Core.reg_done]
  cases w <;> rfl

theorem Core.haspOk_eq {k : Core} {h : Fin 16} {want have_ : HaspKind} {cnt : Nat} (hh : k.isHandle h = true)
    (hkind : want = have_) (hpos : 1 ≤ cnt) (hle : cnt ≤ k.slots h) : k.haspOk h want have_ cnt = true := by
  simp [Core.haspOk, hh, hkind, hpos, hle]

/-- A core and a context replaced: what stands in each. -/
def State.setCoreCtx (s : State) (c t : Nat) (k : Core) (n : Nat) (x : Ctx) : State :=
    ((s.setCore c k).at_ t).setCtx n x

section
variable (s : State) (c t : Nat) (k : Core) (n : Nat) (x : Ctx)

@[simp] theorem State.core_setCoreCtx : (s.setCoreCtx c t k n x).core c = k := State.core_setCore s c k

theorem State.core_setCoreCtx_other {e : Nat} (he : e ≠ c) : (s.setCoreCtx c t k n x).core e = s.core e :=
  State.core_setCore_other s k he

@[simp] theorem State.ctx_setCoreCtx : (s.setCoreCtx c t k n x).ctx n = x := State.ctx_setCtx _ n x

theorem State.ctx_setCoreCtx_other {m : Nat} (hm : m ≠ n) : (s.setCoreCtx c t k n x).ctx m = s.ctx m :=
  State.ctx_setCtx_other _ x hm

end

theorem haspWait : Claims.HaspWait := by
  intro s c h kind v t k cnt hissue hh hkind hpos hle
  have hok := Core.haspOk_eq hh hkind hpos hle
  have hexec : exec (.hwait c h kind v) s = match s.clocked c (fun x => x.attempt .access (.hwait c h kind v)
      (fun x => x.hwait s.aclk (s.inbound c h) h kind cnt)) with
      | .ok t y => .next (s.setCoreCtx c t y (k.ctxOf h) ((s.ctx (k.ctxOf h)).setHaspOf c (fun z => z.take kind cnt)))
      | r => s.coreRes c r := if_pos hissue.1
  refine ⟨fun hcopy => ?_, fun hshort => ?_⟩
  · have hf : k.hwait s.aclk (s.inbound c h) h kind cnt = .ok t ((k.takeHasp h cnt).done .access t 1 1 []) := by
      rw [Core.hwait, State.issues.body hissue]
      simp only [waitKind, hok, Bool.not_true, Bool.false_eq_true, if_false, hcopy, if_true]
      rfl
    rw [State.clocked_issued (f := fun x => x.hwait s.aclk (s.inbound c h) h kind cnt) hissue hf] at hexec
    refine ⟨_, hexec, rfl, fun e he => State.core_setCoreCtx_other _ _ _ _ _ _ he, ?_, fun g hg => ?_, ?_, ?_,
      State.ctx_setCoreCtx .., fun m hm => State.ctx_setCoreCtx_other _ _ _ _ _ _ hm⟩
    · rw [State.core_setCoreCtx, Core.handle_done]
      exact Core.handle_setHandle ..
    · rw [State.core_setCoreCtx, Core.handle_done]
      exact Core.handle_setHandle_other _ _ hg
    · rw [State.core_setCoreCtx]
      exact fun w r => Core.sameRegs_setHandle_done k h _ t 1 1 [] w r
    · rw [State.core_setCoreCtx]
      exact Core.done_wentOn (k.takeHasp h cnt) .access t 1 1 []
  · have hf : k.hwait s.aclk (s.inbound c h) h kind cnt =
        .held (k.setStream .access { k.acc with wait := .hasp h kind cnt }) := by
      rw [Core.hwait, State.issues.body hissue]
      simp only [waitKind, hok, Bool.not_true, Bool.false_eq_true, if_false, not_le.mpr hshort]
    rw [State.clocked_held (f := fun x => x.hwait s.aclk (s.inbound c h) h kind cnt) hissue hf
      (by rw [Core.stream_setStream]; simp)] at hexec
    exact ⟨_, hexec, s.onlyCore_setCore c _, by rw [State.core_setCore]; rfl⟩

/-! Posts. -/

theorem haspPost : Claims.HaspPost := by
  intro s c
  refine ⟨fun h kind v t => ?_, fun ctx x hsite hctx hgap hfind => ?_⟩
  · intro k cnt hissue hh hkind hpos hle hheld
    have hok := Core.haspOk_eq hh hkind hpos hle
    have hf : k.hpost s.aclk (s.inbound c h) h kind cnt = .ok t ((k.giveHasp h cnt).done .access t 1 1 []) := by
      rw [Core.hpost, State.issues.body hissue]
      simp only [postKind, hok, Bool.true_and, hheld, decide_true, if_true]
      rfl
    have hexec : exec (.hpost c h kind v) s = match s.clocked c (fun x => x.attempt .access (.hpost c h kind v)
        (fun x => x.hpost s.aclk (s.inbound c h) h kind cnt)) with
        | .ok t y => .next { (s.setCore c y).at_ t with store := { s.store with
            hposts := s.store.hposts ++ [{ ctx := k.ctxOf h, core := c, k := kind, cnt := cnt }] } }
        | r => s.coreRes c r := if_pos hissue.1
    rw [State.clocked_issued (f := fun x => x.hpost s.aclk (s.inbound c h) h kind cnt) hissue hf] at hexec
    have hcore : ((s.setCore c ((k.giveHasp h cnt).done .access t 1 1 [])).at_ t).core c =
        (k.giveHasp h cnt).done .access t 1 1 [] := State.core_setCore ..
    refine ⟨_, hexec, rfl, fun e he => State.core_setCore_other s _ he, ?_, fun g hg => ?_, ?_⟩
    · refine (congrArg (fun y : Core => y.handle h) hcore).trans ?_
      rw [Core.handle_done]
      exact Core.handle_setHandle ..
    · refine (congrArg (fun y : Core => y.handle g) hcore).trans ?_
      rw [Core.handle_done]
      exact Core.handle_setHandle_other _ _ hg
    · show k.acc.wentOn (((s.setCore c ((k.giveHasp h cnt).done .access t 1 1 [])).at_ t).core c).acc (t + 1)
      rw [hcore]
      exact Core.done_wentOn (k.giveHasp h cnt) .access t 1 1 []
  · have hexec : exec (.hpostApply ctx c) s =
        .next ({ s with store := { s.store with hposts := s.store.hposts.erase x } }.setCtx ctx
          ((s.ctx ctx).setHaspOf c (fun z => z.add x.k x.cnt))) := by
      show execHpostApply ctx c s = _
      rw [execHpostApply, if_pos (by simp [hsite, hctx]), hgap, hfind]
      rfl
    exact ⟨_, hexec, rfl, State.ctx_setCtx .., fun m hm => State.ctx_setCtx_other _ _ hm⟩

/-! Cancelling a stream. -/

/-- Bytes discarded change the store dies' counts and the stream's own, and no other context. -/
theorem State.discard_frame (s : State) (n m : Nat) :
    s.discard n m = { s with store := (s.discard n m).store } ∧ ∀ j, j ≠ n → (s.discard n m).ctx j = s.ctx j := by
  unfold State.discard
  split
  · exact ⟨rfl, fun _ _ => rfl⟩
  · dsimp only
    split
    · exact ⟨rfl, fun j hj => State.ctx_setCtx_other s _ hj⟩
    · exact ⟨rfl, fun j hj => State.ctx_setCtx_other s _ hj⟩

/-- A cancelled stream holds nothing more, and nothing but the store dies changes, no other context among it. -/
theorem State.cancel_spec (s : State) (n : Nat) :
    s.cancel n = { s with store := (s.cancel n).store } ∧ ((s.cancel n).ctx n).cancelled = true
      ∧ ((s.cancel n).ctx n).staged = [] ∧ ((s.cancel n).ctx n).borrowed = 0
      ∧ ∀ j, j ≠ n → (s.cancel n).ctx j = s.ctx j := by
  obtain ⟨hframe, hothers⟩ := s.discard_frame n ((s.ctx n).undelivered + (s.ctx n).aheadLen)
  unfold State.cancel
  dsimp only
  refine ⟨?_, ?_, ?_, ?_, fun j hj => (State.ctx_setCtx_other _ _ hj).trans (hothers j hj)⟩
  · rw [hframe]
    rfl
  · rw [State.ctx_setCtx]
  · rw [State.ctx_setCtx]
  · rw [State.ctx_setCtx]

/-! Handles, re-arms and forwards. -/

section
variable {s : State} {c : Nat} {h : Fin 16} {t : Nat}

theorem State.hslot_issues {d : Fin 32} {v : Imm} (hissue : s.issues c .access [d.val] t)
    (hh : (s.core c).isHandle h = true) (hidx : ((s.core c).imm v).toNat < (s.core c).slots h) :
    ∃ s', exec (.hslot c d h v) s = .next s' ∧ s.onlyCore s' c
      ∧ (s.core c).setsReg (s'.core c) .access d ((s.core c).bindWord h.val 0
          + BitVec.ofNat 64 ((((s.core c).handle h).pos + ((s.core c).imm v).toNat) % (s.core c).slots h)
            * (s.core c).bindWord h.val 1)
      ∧ (s.core c).acc.readyAt (s'.core c).acc [d.val] (t + 2) ∧ (s.core c).acc.wentOn (s'.core c).acc (t + 1) := by
  have hf : (s.core c).hslot s.aclk d h v = .ok t ((s.core c).wroteReg .access t 2 d ((s.core c).bindWord h.val 0
      + BitVec.ofNat 64 ((((s.core c).handle h).pos + ((s.core c).imm v).toNat) % (s.core c).slots h)
        * (s.core c).bindWord h.val 1)) := by
    rw [Core.hslot, State.issues.body hissue]
    simp only [hh, hidx, decide_true, Bool.and_self, if_true]
    rfl
  obtain ⟨s', hrun, honly, -, -, hset, hwent, hready⟩ := State.onInstr_wroteReg (i := .hslot c d h v)
    (f := fun k => k.hslot s.aclk d h v) hissue hf
  exact ⟨s', hrun, honly, hset, hready, hwent⟩

theorem State.srearm_issues {a : Fin 32} (hissue : s.issues c .access [a.val] t) (hh : (s.core c).isHandle h = true)
    (hpersist : (s.ctx ((s.core c).ctxOf h)).persist = true) (hal : ((s.core c).reg .access a).toNat % 64 = 0) :
    ∃ s', exec (.srearm c h a) s = .next s'
      ∧ (s'.ctx ((s.core c).ctxOf h)).nextBase = some ((s.core c).reg .access a).toNat
      ∧ (s'.ctx ((s.core c).ctxOf h)).rearmBy = (s.siteTask c).map (fun o => (o.1, o.2, s.graphEntry o.1))
      ∧ (∀ m, m ≠ (s.core c).ctxOf h → s'.ctx m = s.ctx m)
      ∧ s'.mem = s.mem ∧ (s.core c).acc.wentOn (s'.core c).acc (t + 1) := by
  have hf : (s.core c).issue .access s.aclk [a.val] (fun t =>
      if !((s.core c).isHandle h) || !((s.ctx ((s.core c).ctxOf h)).persist) then (s.core c).raise .access excIllegal
      else if ((s.core c).reg .access a).toNat % 64 ≠ 0 then (s.core c).raise .access excMisaligned
      else (s.core c).ok1 .access t 1 1 []) = .ok t ((s.core c).done .access t 1 1 []) := by
    rw [State.issues.body hissue, hh, hpersist, if_neg (by simp), if_neg (by simp [hal])]
    rfl
  have hexec : exec (.srearm c h a) s = match s.clocked c (fun x => x.attempt .access (.srearm c h a)
      (fun x => x.issue .access s.aclk [a.val] (fun t =>
        if !(x.isHandle h) || !((s.ctx ((s.core c).ctxOf h)).persist) then x.raise .access excIllegal
        else if ((s.core c).reg .access a).toNat % 64 ≠ 0 then x.raise .access excMisaligned
        else x.ok1 .access t 1 1 []))) with
      | .ok t y => .next (s.setCoreCtx c t y ((s.core c).ctxOf h) { s.ctx ((s.core c).ctxOf h) with
          nextBase := some ((s.core c).reg .access a).toNat
          rearmBy := (((s.setCore c y).at_ t).siteTask c).map (fun o => (o.1, o.2, s.graphEntry o.1)) })
      | r => s.coreRes c r := if_pos hissue.1
  rw [State.clocked_issued (f := fun x => x.issue .access s.aclk [a.val] (fun t =>
        if !(x.isHandle h) || !((s.ctx ((s.core c).ctxOf h)).persist) then x.raise .access excIllegal
        else if ((s.core c).reg .access a).toNat % 64 ≠ 0 then x.raise .access excMisaligned
        else x.ok1 .access t 1 1 [])) hissue hf] at hexec
  refine ⟨_, hexec, by rw [State.ctx_setCoreCtx], ?_, fun m hm => State.ctx_setCoreCtx_other _ _ _ _ _ _ hm, rfl, ?_⟩
  · rw [State.ctx_setCoreCtx]
    simp [State.siteTask, Core.done]
  · rw [State.core_setCoreCtx]
    exact Core.done_wentOn (s.core c) .access t 1 1 []

theorem State.scancel_issues (hissue : s.issues c .access [] t) (hh : (s.core c).isHandle h = true) :
    ∃ s', exec (.scancel c h) s = .next s' ∧ (s'.ctx ((s.core c).ctxOf h)).cancelled = true
      ∧ (s'.ctx ((s.core c).ctxOf h)).staged = [] ∧ (s'.ctx ((s.core c).ctxOf h)).borrowed = 0
      ∧ (∀ m, m ≠ (s.core c).ctxOf h → s'.ctx m = s.ctx m) ∧ s'.mem = s.mem ∧ s'.ge = s.ge
      ∧ (s.core c).acc.wentOn (s'.core c).acc (t + 1) := by
  have hf : (s.core c).issue .access s.aclk [] (fun t => if (s.core c).isHandle h then (s.core c).ok1 .access t 1 1 []
      else (s.core c).raise .access excIllegal) = .ok t ((s.core c).done .access t 1 1 []) := by
    rw [State.issues.body hissue, hh]
    rfl
  have hexec : exec (.scancel c h) s = match s.clocked c (fun x => x.attempt .access (.scancel c h)
      (fun x => x.issue .access s.aclk [] (fun t =>
        if x.isHandle h then x.ok1 .access t 1 1 [] else x.raise .access excIllegal))) with
      | .ok t y => .next (((s.setCore c y).at_ t).cancel ((s.core c).ctxOf h))
      | r => s.coreRes c r := if_pos hissue.1
  rw [State.clocked_issued (f := fun x => x.issue .access s.aclk [] (fun t =>
        if x.isHandle h then x.ok1 .access t 1 1 [] else x.raise .access excIllegal)) hissue hf] at hexec
  obtain ⟨hframe, hcancelled, hstaged, hborrowed, hothers⟩ := State.cancel_spec
    ((s.setCore c ((s.core c).done .access t 1 1 [])).at_ t) ((s.core c).ctxOf h)
  refine ⟨_, hexec, hcancelled, hstaged, hborrowed, hothers, ?_, ?_, ?_⟩
  · rw [hframe]
    rfl
  · rw [hframe]
    rfl
  · rw [hframe]
    show (s.core c).acc.wentOn (((s.setCore c ((s.core c).done .access t 1 1 [])).at_ t).core c).acc (t + 1)
    rw [State.core_at, State.core_setCore]
    exact Core.done_wentOn (s.core c) .access t 1 1 []

theorem State.forward_idle {ctx : Nat} (hsite : siteExists c = true) (hctx : ctx < 16384)
    (hgap : s.inGap (16 + homeDie ctx) = false) (hhandles : (s.core c).handlesOf ctx = [h])
    (hwait : (s.core c).acc.wait = .none) :
    ∃ s', exec (.haspForward ctx c) s = .next s' ∧ s.onlyCore s' c
      ∧ (s'.core c).handle h = { (s.core c).handle h with
          copy := ((s.ctx ctx).haspOf c).count (if s.inbound c h then .fill else .free) }
      ∧ (s.core c).sameRegs (s'.core c) ∧ (s'.core c).acc = (s.core c).acc := by
  have hexec : exec (.haspForward ctx c) s = .next (s.setCore c ((s.core c).setHandle h { (s.core c).handle h with
      copy := ((s.ctx ctx).haspOf c).count (waitKind (s.inbound c h)) })) := by
    show execHaspForward ctx c s = _
    have hacc : ∀ v, ((s.core c).setHandle h v).acc.wait = .none := fun _ => hwait
    rw [execHaspForward, if_pos (by simp [hsite, hctx]), hgap]
    simp only [Bool.false_eq_true, if_false, hhandles, List.foldl_cons, List.foldl_nil, State.forward, hacc,
      State.happens_some]
  refine ⟨_, hexec, s.onlyCore_setCore c _, ?_⟩
  rw [State.core_setCore]
  exact ⟨Core.handle_setHandle .., fun w r => by cases w <;> rfl, rfl⟩

end

theorem handleControl : Claims.HandleControl := by
  intro s c h d a v t k idx
  exact ⟨State.hslot_issues, State.srearm_issues, State.scancel_issues, fun _ => State.forward_idle⟩

/-- Settles O9: each instruction by what its core answers, the home die's part by the context it replaces. -/
theorem haspsAndStreamControl : Obligations.HaspsAndStreamControl :=
  ⟨haspWait, haspPost, handleControl⟩

end Sys2Proof.Machine
end

section
/-! PROOF. O8: mesh transfers. -/

namespace Sys2Proof.Machine

open Sys2Proof

/-! What external memory and the journal do depends on no core: a state with its cores replaced does the same. -/

/-- A state with its cores replaced. -/
def State.withCores (s : State) (x : Assoc Core) : State := { s with cores := x }

section
variable (s : State) (x : Assoc Core)

variable {x} in
theorem ite_withCores {p : Prop} [Decidable p] {a a' b b' : State} (ha : a' = a.withCores x) (hb : b' = b.withCores x) :
    (if p then a' else b') = (if p then a else b).withCores x := by
  rw [ha, hb]
  exact (apply_ite (State.withCores · x) p a b).symm

theorem State.toEq0_withCores (r : Rec) : (s.withCores x).toEq0 r = (s.toEq0 r).withCores x := by
  unfold State.toEq0
  exact ite_withCores rfl rfl

theorem State.repair_withCores (status die what : Nat) :
    (s.withCores x).repair status die what = (s.repair status die what).withCores x := by
  unfold State.repair State.toEq0Log
  rw [State.toEq0_withCores]
  rfl

theorem State.retire_withCores (c : Nat) : (s.withCores x).retire c = (s.retire c).withCores x := by
  unfold State.retire
  dsimp only
  exact ite_withCores rfl (State.repair_withCores { s.setChan c { s.chan c with
    state := .retiring, sc := (s.chan c).sc.event 3 } with
      ext := { (s.setChan c { s.chan c with state := .retiring, sc := (s.chan c).sc.event 3 }).ext with
        retiring := some { chan := c, pointer := 0 } } } x 4 (32 + c % 16) c)

theorem State.weakRow_withCores (a : Nat) : (s.withCores x).weakRow a = (s.weakRow a).withCores x := by
  unfold State.weakRow
  exact ite_withCores rfl (ite_withCores (State.retire_withCores _ x _) rfl)

/-- The part of a correction that depends on the counts it made: a second error of the row, and a channel that has had
too
many (R344, R346). -/
def State.correctedAgain (s : State) (b c n : Nat) (twice : Bool) (limit : Nat) : State :=
  let s := if twice then s.weakRow (64 * b) else s
  if limit ≠ 0 ∧ limit ≤ n then s.retire c else s

theorem State.correctedAgain_withCores (b c n : Nat) (twice : Bool) (limit : Nat) :
    (s.withCores x).correctedAgain b c n twice limit = (s.correctedAgain b c n twice limit).withCores x := by
  have hrow : (if twice then (s.withCores x).weakRow (64 * b) else s.withCores x) =
      (if twice then s.weakRow (64 * b) else s).withCores x := ite_withCores (State.weakRow_withCores s x _) rfl
  unfold State.correctedAgain
  dsimp only
  rw [hrow]
  exact ite_withCores (State.retire_withCores _ x _) rfl

/-- A burst corrected, but for what its counts bring about. -/
def State.correctedOnce (s : State) (b : Nat) : State :=
  let a := 64 * b
  let c := s.chanAt a
  let x := s.chan c
  let fresh := decide (second ≤ (s.strike - x.second).toNat)
  let n := if fresh then 1 else x.inSecond + 1
  let s := s.setChan c { x with
    ce := x.ce.tick, sc := x.sc.event 0, second := if fresh then s.strike else x.second, inSecond := n }
  let s := { s with ext := { s.ext with weak := s.ext.weak.filter (· != b) } }
  let m := s.portAt a
  let p := s.port_ m
  let recent := p.history.filter (fun h => decide ((s.strike - h.2.2).toNat < day))
  s.setPort_ m { p with history := recent ++ [(c, b, s.strike)] }

theorem State.correctBurst_withCores (b : Nat) : (s.withCores x).correctBurst b = (s.correctBurst b).withCores x :=
  State.correctedAgain_withCores (s.correctedOnce b) x ..

/-- A granule noted as poisoned, or its channel retired where the table is full (R344). -/
def State.poisonNoted (s : State) (a : Nat) : State :=
  let m := s.portAt a
  let p := s.port_ m
  if p.poison.contains (a / 256) then s
  else if p.poison.length < 64 then s.setPort_ m { p with poison := p.poison ++ [a / 256] }
  else s.retire (s.chanAt a)

theorem State.poisonNoted_withCores (a : Nat) : (s.withCores x).poisonNoted a = (s.poisonNoted a).withCores x := by
  unfold State.poisonNoted
  exact ite_withCores rfl (ite_withCores rfl (State.retire_withCores _ x _))

theorem State.poisonBurst_eq (b : Nat) : s.poisonBurst b =
    ((s.setChan (s.chanAt (64 * b)) { s.chan (s.chanAt (64 * b)) with
      ue := (s.chan (s.chanAt (64 * b))).ue.tick, sc := (s.chan (s.chanAt (64 * b))).sc.event 1 }).poisonNoted
        (64 * b)).weakRow (64 * b) := rfl

theorem State.poisonBurst_withCores (b : Nat) : (s.withCores x).poisonBurst b = (s.poisonBurst b).withCores x := by
  rw [State.poisonBurst_eq, State.poisonBurst_eq, ← State.weakRow_withCores, ← State.poisonNoted_withCores]
  rfl

theorem State.readBurst_withCores (b : Nat) :
    (s.withCores x).readBurst b = ((s.readBurst b).1.withCores x, (s.readBurst b).2) := by
  have hport : (s.withCores x).port_ ((s.withCores x).portAt (64 * b)) = s.port_ (s.portAt (64 * b)) := rfl
  have hext : (s.withCores x).ext = s.ext := rfl
  unfold State.readBurst
  rw [State.poisonBurst_withCores, State.correctBurst_withCores, hport, hext]
  split_ifs <;> rfl

theorem State.readBursts_withCores (bs : List Nat) :
    (s.withCores x).readBursts bs = ((s.readBursts bs).1.withCores x, (s.readBursts bs).2) := by
  induction bs generalizing s with
  | nil => rfl
  | cons b bs ih =>
    unfold State.readBursts
    rw [State.readBurst_withCores]
    rcases s.readBurst b with ⟨t, _ | _⟩
    · exact ih t
    · rfl

/-- A read of external memory. -/
theorem State.memRead_ext {s : State} {a : Nat} (n : Nat) (h : s.target a = .ext) :
    s.memRead a n = match s.readBursts (unitsOf 64 a n) with
      | (s, some x) => (s, .error x)
      | (s, none) => (s, .ok (s.bytes a n)) := by
  rw [State.memRead, h] <;> rfl

variable {s} in
theorem State.memRead_withCores {a : Nat} (n : Nat) (h : s.target a = .ext) :
    ((s.withCores x).memRead a n).1 = (s.memRead a n).1.withCores x := by
  rw [State.memRead_ext n h, State.memRead_ext n (s := s.withCores x) h, State.readBursts_withCores]
  rcases s.readBursts (unitsOf 64 a n) with ⟨t, _ | _⟩ <;> rfl

theorem State.target_ext {s : State} {a : Nat} (h : a < extEnd) : s.target a = .ext := if_pos h

/-- Units of external memory read one after another. -/
theorem foldl_memRead_withCores (us : List Nat) (h : ∀ u ∈ us, 64 * u < extEnd) :
    us.foldl (fun s u => (s.memRead (64 * u) 64).1) (s.withCores x) =
      (us.foldl (fun s u => (s.memRead (64 * u) 64).1) s).withCores x := by
  induction us generalizing s with
  | nil => rfl
  | cons u us ih =>
    rw [List.foldl_cons, List.foldl_cons, State.memRead_withCores x 64 (State.target_ext (h u (by simp)))]
    exact ih _ fun v hv => h v (by simp [hv])

/-- Bytes outside the core windows are those of memory. -/
theorem State.byte_withCores {a : Nat} (h : a < windowBase) : (s.withCores x).byte a = s.byte a := by
  rw [State.byte, State.byte, if_neg (by omega), if_neg (by omega)]
  rfl

theorem State.bytes_withCores {a n : Nat} (h : a + n ≤ windowBase) : (s.withCores x).bytes a n = s.bytes a n := by
  unfold State.bytes
  induction n generalizing a with
  | zero => rfl
  | succ n ih => rw [readFrom, readFrom, State.byte_withCores s x (by omega), ih (by omega)]

theorem State.record_withCores (q t : Nat) {g : Nat} (h : 256 * g + 256 ≤ extEnd) :
    (s.withCores x).record q t g = (s.record q t g).withCores x := by
  have hunits := foldl_memRead_withCores s x ((List.range 4).map (4 * g + ·)) (by
    intro u hu
    obtain ⟨i, hi, rfl⟩ := List.mem_map.mp hu
    have := List.mem_range.mp hi
    omega)
  have hbytes := State.bytes_withCores (((List.range 4).map (4 * g + ·)).foldl
      (fun s u => (s.memRead (64 * u) 64).1) s) x
    (a := 256 * g) (n := 256) (by have : extEnd < windowBase := by decide
                                  omega)
  unfold State.record
  dsimp only
  rw [hunits, hbytes]
  rfl

/-- What a journal answers, its cores replaced. -/
def Journaled.withCores (r : Journaled) (x : Assoc Core) : Journaled :=
  match r with
  | .ok s => .ok (s.withCores x)
  | r => r

theorem State.journal_withCores (q t : Nat) (gs : List Nat) (h : ∀ g ∈ gs, 256 * g + 256 ≤ extEnd) :
    (s.withCores x).journal q t gs = (s.journal q t gs).withCores x := by
  induction gs generalizing s with
  | nil => rfl
  | cons g gs ih =>
    have hmore : ∀ g ∈ gs, 256 * g + 256 ≤ extEnd := fun v hv => h v (by simp [hv])
    have hge : (s.withCores x).ge = s.ge := rfl
    have harea : (s.withCores x).areaLost (s.regionOf q) = s.areaLost (s.regionOf q) := rfl
    have hroom : (s.withCores x).areaRoom (s.regionOf q) = s.areaRoom (s.regionOf q) := rfl
    have hregion : (s.withCores x).regionOf q = s.regionOf q := rfl
    unfold State.journal
    dsimp only
    rw [State.record_withCores s x q t (h g (by simp)), ih s hmore, ih _ hmore, hregion, harea, hroom, hge]
    split_ifs <;> rfl

end

/-! Sparse maps: a key that is new (Table of outstanding tags, R135). -/

theorem Assoc.find?_ins {α : Type} (m : Assoc α) (n : Nat) (v : α) (h : ∀ e ∈ m, e.1 ≠ n) :
    (Assoc.ins n v m).find? (fun e => e.1 == n) = some (n, v) := by
  induction m with
  | nil => simp [Assoc.ins]
  | cons e m ih =>
    have he : (e.1 == n) = false := by simpa using h e (by simp)
    unfold Assoc.ins
    split
    · simp
    · rw [List.find?_cons, he]
      exact ih fun e' he' => h e' (by simp [he'])

theorem Assoc.find?_set_same {α : Type} (m : Assoc α) (n : Nat) (v : α) :
    (Assoc.set m n v).find? (fun e => e.1 == n) = some (n, v) :=
  Assoc.find?_ins _ n v (by simp [Assoc.del])

theorem Assoc.length_ins {α : Type} (m : Assoc α) (n : Nat) (v : α) : (Assoc.ins n v m).length = m.length + 1 := by
  induction m with
  | nil => rfl
  | cons e m ih =>
    unfold Assoc.ins
    split
    · rfl
    · simp [ih]

theorem Assoc.length_set_new {α : Type} {m : Assoc α} {n : Nat} (v : α) (h : n ∉ Assoc.keys m) :
    (Assoc.keys (Assoc.set m n v)).length = (Assoc.keys m).length + 1 := by
  have hdel : Assoc.del m n = m := by
    refine List.filter_eq_self.mpr fun e he => ?_
    have : e.1 ≠ n := fun heq => h (List.mem_map.mpr ⟨e, he, heq⟩)
    simpa using this
  rw [Assoc.keys, List.length_map, Assoc.set, hdel, Assoc.length_ins, Assoc.keys, List.length_map]

/-! Issue of a transfer (R135 to R137). -/

/-- A core with a transfer outstanding under a tag. -/
def Core.withXfer (k : Core) (tag : Fin 8) (x : Transfer) : Core := { k with xfers := Assoc.set k.xfers tag.val x }

/-- The transfer that an instruction names. -/
def Core.named (k : Core) (kind : XferKind) (l f n : Fin 32) : Transfer :=
  { kind := kind, lm := k.reg .access l, far := k.reg .access f, len := (k.reg .access n).toNat, instr := k.acc.pc }

theorem Core.startTransfer_issues {s : State} {c : Nat} {tag : Fin 8} {kind : XferKind} {l f n : Fin 32} {extra : Bool}
    {t : Nat} (h : s.issues c .access [l.val, f.val, n.val] t) (htag : tag.val ∉ Assoc.keys (s.core c).xfers)
    (hlen : ((s.core c).reg .access n).toNat % 64 = 0) (hmax : ((s.core c).reg .access n).toNat ≤ 1048576)
    (hlm : ((s.core c).reg .access l).toNat % 64 = 0)
    (hrange : 0 < ((s.core c).reg .access n).toNat →
      ((s.core c).reg .access l).toNat + ((s.core c).reg .access n).toNat ≤ 0x60000)
    (hfar : kind ≠ .multicast → ((s.core c).reg .access f).toNat % 64 = 0) (hextra : extra = true) :
    (s.core c).startTransfer s.aclk tag kind l f n extra =
      if ((s.core c).reg .access n).toNat = 0 then (s.core c).ok1 .access t 1 1 []
      else ((s.core c).withXfer tag ((s.core c).named kind l f n)).ok1 .access t 1 1 [] := by
  have htag' : (Assoc.keys (s.core c).xfers).contains tag.val = false := by simpa using htag
  have hbad : ¬ (((s.core c).reg .access n).toNat % 64 ≠ 0 ∨ 1048576 < ((s.core c).reg .access n).toNat) := by omega
  have hal : ¬ (((s.core c).reg .access l).toNat % 64 ≠ 0
      ∨ (kind ≠ .multicast ∧ ((s.core c).reg .access f).toNat % 64 ≠ 0)) := by
    rintro (h1 | ⟨h1, h2⟩)
    · exact h1 hlm
    · exact h2 (hfar h1)
  have hlong : ¬ (0 < ((s.core c).reg .access n).toNat
      ∧ lmSize < ((s.core c).reg .access l).toNat + ((s.core c).reg .access n).toNat) := by
    rintro ⟨h1, h2⟩
    exact absurd (hrange h1) (not_le.mpr h2)
  rw [Core.startTransfer, State.issues.body h]
  simp only [htag', Bool.false_eq_true, if_false, if_neg hbad, if_neg hal, if_neg hlong, hextra, Bool.not_true]
  rfl

theorem State.transfer_ok {s : State} {i : Instr} {c : Nat} {tag : Fin 8} {kind : XferKind} {l f n : Fin 32}
    {extra : Bool} {t : Nat} {k' : Core} (hsite : siteExists c = true)
    (h : s.clocked c (fun k => k.attempt .access i (fun k => k.startTransfer s.aclk tag kind l f n extra)) = .ok t k') :
    s.transfer i c tag kind l f n extra =
      .next (if (Assoc.keys k'.xfers).length = (Assoc.keys (s.core c).xfers).length then (s.setCore c k').at_ t
        else ((s.setCore c k').at_ t).askTransfer c tag.val) := by
  rw [State.transfer, if_pos hsite, h]

/-- A transfer outstanding asks its store dies for service (R216). -/
theorem State.askTransfer_eq {s : State} {c tag : Nat} {x : Transfer}
    (h : (s.core c).xfers.find? (fun e => e.1 == tag) = some (tag, x)) :
    s.askTransfer c tag = { s with store := { s.store with requests := s.store.requests ++
      (if x.kind = .multicast then [] else
        (s.transferSpots c x.far.toNat x.len).map (s.spotRequest (.transfer c tag))) } } := by
  rw [State.askTransfer, h]
  dsimp only
  by_cases hk : x.kind = .multicast
  · simp [hk]
  · simp [hk]

/-- A state whose core has taken a tag, and whose store dies have its requests. -/
theorem takesTag_of_core {s s' : State} {c : Nat} {tag : Fin 8} {x : Transfer} {t : Nat}
    (hframe : s' = { s with
      cores := s'.cores, aclk := max s.aclk t, store := { s.store with requests := s'.store.requests } })
    (hothers : ∀ e, e ≠ c → s'.core e = s.core e)
    (hcore : s'.core c = ((s.core c).withXfer tag x).done .access t 1 1 [])
    (hrequests : s'.store.requests = s.store.requests ++ (if x.kind = .multicast then [] else
      (s.transferSpots c x.far.toNat x.len).map (s.spotRequest (.transfer c tag.val)))) : takesTag s s' c tag x t := by
  unfold takesTag
  rw [hcore]
  refine ⟨hframe, hothers, rfl, fun m => Assoc.get_set .., fun w r => ?_,
    Core.done_wentOn ((s.core c).withXfer tag x) .access t 1 1 [], ?_⟩
  · rw [Core.reg_done]
    cases w <;> rfl
  · rw [hrequests]
    congr 1
    split <;> rfl

theorem State.transfer_issues {s : State} {i : Instr} {c : Nat} {tag : Fin 8} {kind : XferKind} {l f n : Fin 32}
    {extra : Bool} {t : Nat} (h : s.issues c .access [l.val, f.val, n.val] t)
    (htag : tag.val ∉ Assoc.keys (s.core c).xfers)
    (hlen : ((s.core c).reg .access n).toNat % 64 = 0) (hmax : ((s.core c).reg .access n).toNat ≤ 1048576)
    (hlm : ((s.core c).reg .access l).toNat % 64 = 0)
    (hrange : 0 < ((s.core c).reg .access n).toNat →
      ((s.core c).reg .access l).toNat + ((s.core c).reg .access n).toNat ≤ 0x60000)
    (hfar : kind ≠ .multicast → ((s.core c).reg .access f).toNat % 64 = 0) (hextra : extra = true) :
    ∃ s', s.transfer i c tag kind l f n extra = .next s'
      ∧ (((s.core c).reg .access n).toNat ≠ 0 → takesTag s s' c tag ((s.core c).named kind l f n) t)
      ∧ (((s.core c).reg .access n).toNat = 0 →
          s.onlyCore s' c ∧ (s'.core c).xfers = (s.core c).xfers ∧ (s.core c).acc.wentOn (s'.core c).acc (t + 1)) := by
  have hf := Core.startTransfer_issues h htag hlen hmax hlm hrange hfar hextra
  by_cases hzero : ((s.core c).reg .access n).toNat = 0
  · rw [if_pos hzero] at hf
    have hclocked := State.clocked_issued (i := i) (f := fun k => k.startTransfer s.aclk tag kind l f n extra) h hf
    have hexec : s.transfer i c tag kind l f n extra =
        .next ((s.setCore c ((s.core c).done .access t 1 1 [])).at_ t) := by
      rw [State.transfer_ok h.1 hclocked]
      exact congrArg Host.Outcome.next (if_pos rfl)
    refine ⟨_, hexec, fun hne => absurd hzero hne, fun _ => ⟨s.onlyCore_setCore_at c t _, ?_⟩⟩
    rw [State.core_at, State.core_setCore]
    exact ⟨rfl, Core.done_wentOn (s.core c) .access t 1 1 []⟩
  · rw [if_neg hzero] at hf
    have hclocked := State.clocked_issued (i := i) (f := fun k => k.startTransfer s.aclk tag kind l f n extra) h hf
    have hmore : ¬ (Assoc.keys (((s.core c).withXfer tag ((s.core c).named kind l f n)).done .access t 1 1
        []).xfers).length
        = (Assoc.keys (s.core c).xfers).length := by
      show ¬ (Assoc.keys (Assoc.set (s.core c).xfers tag.val _)).length = _
      rw [Assoc.length_set_new _ htag]
      omega
    have hcore : ((s.setCore c (((s.core c).withXfer tag ((s.core c).named kind l f n)).done .access t 1 1 [])).at_ t
        ).core c = ((s.core c).withXfer tag ((s.core c).named kind l f n)).done .access t 1 1 [] := by
      rw [State.core_at, State.core_setCore]
    have hexec := State.transfer_ok h.1 hclocked
    rw [if_neg hmore, State.askTransfer_eq (x := (s.core c).named kind l f n) (by
      rw [hcore]
      exact Assoc.find?_set_same ..)] at hexec
    exact ⟨_, hexec,
      fun _ => takesTag_of_core rfl (fun e he => State.core_setCore_other s _ he) hcore rfl, fun hz => absurd hz hzero⟩

theorem transferIssue : Claims.TransferIssue := by
  intro s c tag l f n t k lm far len h htag hlen hmax hlm hrange row hrow hok
  simp only [List.mem_cons, List.not_mem_nil, or_false] at hrow
  rcases hrow with rfl | rfl | rfl
  · exact State.transfer_issues h htag hlen hmax hlm hrange (fun _ => by simpa using hok) rfl
  · exact State.transfer_issues h htag hlen hmax hlm hrange (fun _ => by simpa using hok) rfl
  · exact State.transfer_issues h htag hlen hmax hlm hrange (fun hk => absurd rfl hk) hok

/-! Waits for transfers. -/

theorem State.onInstr_xferWait {s : State} {c t : Nat} (h : s.issues c .access [] t) {i : Instr} {tag : Option (Fin 8)}
    {f : Core → CoreRes} (hf : f (s.core c) = (s.core c).xferWait s.aclk tag) :
    ∃ s', s.onInstr c .access i f = .next s' ∧ s.onlyCore s' c ∧ (s.core c).onlyStream (s'.core c) .access
      ∧ (s.core c).sameRegs (s'.core c)
      ∧ ((s.core c).xferIdle tag = true → (s.core c).acc.wentOn (s'.core c).acc (t + 1))
      ∧ ((s.core c).xferIdle tag = false → (s'.core c).acc = { (s.core c).acc with wait := .tag tag }) := by
  rw [Core.xferWait, State.issues.body h] at hf
  cases hidle : (s.core c).xferIdle tag
  · simp only [hidle, Bool.false_eq_true, if_false] at hf
    refine ⟨_, State.onInstr_held h hf (by rw [Core.stream_setStream]; simp), s.onlyCore_setCore c _, ?_⟩
    rw [State.core_setCore]
    exact ⟨Core.onlyStream_setStream .., Core.sameRegs_setStream _ _ _ rfl, by simp, fun _ => rfl⟩
  · simp only [hidle, if_true] at hf
    obtain ⟨s', hrun, honly, hstream, hsame, hst⟩ := State.onInstr_stream (i := i) h hf (Stream.issued_gr ..)
    refine ⟨s', hrun, honly, hstream, hsame, fun _ => ?_, by simp⟩
    show (s.core c).acc.wentOn ((s'.core c).stream .access) (t + 1)
    rw [hst]
    exact Stream.issued_wentOn (s.core c).acc t 1 1 []

theorem transferWaits : Claims.TransferWaits := by
  intro s c t h row hrow
  rcases List.mem_cons.mp hrow with rfl | hrow
  · have hidle : (s.core c).xferIdle none = decide ((s.core c).xfers = []) := by
      cases hx : (s.core c).xfers <;> simp [Core.xferIdle, hx]
    have := State.onInstr_xferWait h (i := .xwaitAll c) (tag := none) (f := fun k => k.xferWait s.aclk none) rfl
    rwa [hidle] at this
  · obtain ⟨tag, -, rfl⟩ := List.mem_map.mp hrow
    exact State.onInstr_xferWait h (i := .xwait c tag) (tag := some tag)
        (f := fun k => k.xferWait s.aclk (some tag)) rfl

/-! The end of a transfer (R136). -/

/-- A core's access that meets no refusal has at least one byte (R415). -/
theorem State.accessCause_core_pos {s : State} {c : Nat} {use : WindowUse} {a n : Nat} {write : Bool}
    (h : s.accessCause (.core c) use a n write = none) : 0 < n := by
  rcases Nat.eq_zero_or_pos n with rfl | hn
  · have hreg : sizeOk true a 0 = false := by simp [sizeOk]
    have hplain : (splitsSpans (.core c) || sizeOk false a 0) = false := by simp [sizeOk, splitsSpans]
    unfold State.accessCause at h
    cases htarget : s.target a <;> rw [htarget] at h <;> simp only [hreg, hplain, Bool.not_false, if_true] at h <;>
      split_ifs at h
  · exact hn

/-- The tag of a transfer that has ended, free, and the stream's wait for it over. -/
def Core.freeTag (k : Core) (tag : Fin 8) (t : Nat) : Core :=
  ({ k with xfers := Assoc.del k.xfers tag.val }).serveXfer t

theorem Core.freeTag_frame (k : Core) (tag : Fin 8) (t : Nat) :
    (k.freeTag tag t).lm = k.lm ∧ (k.freeTag tag t).xfers = Assoc.del k.xfers tag.val ∧ k.sameRegs
        (k.freeTag tag t) := by
  unfold Core.freeTag Core.serveXfer
  split
  · split
    · exact ⟨rfl, rfl, fun w r => by rw [Core.reg_done]; cases w <;> rfl⟩
    · exact ⟨rfl, rfl, fun w r => by cases w <;> rfl⟩
  · exact ⟨rfl, rfl, fun w r => by cases w <;> rfl⟩

section
variable {s : State} {c : Nat} {tag : Fin 8} {x : Transfer} (hsite : siteExists c = true)
  (hasked : s.transferAsked c tag.val = false)
  (hfind : (s.core c).xfers.find? (fun e => e.1 == tag.val) = some (tag.val, x))
include hsite hasked hfind

theorem State.transferComplete_done {s3 : State} (hrun : s.runTransfer c x = .done s3) :
    exec (.transferComplete c tag) s = .next (s3.setCore c ((s3.core c).freeTag tag s3.aclk)) := by
  have hserved : s.served c tag.val = some x := by simp [State.served, hasked, hfind]
  show execTransferComplete c tag s = _
  rw [execTransferComplete, if_pos hsite, hserved, Option.bind_some, hrun]
  rfl

theorem State.transferErrorResponse_error {q t cause a : Nat} {write : Bool}
    (hrun : s.runTransfer c x = .error s cause a write) (htask : s.siteTask c = some (q, t)) :
    exec (.transferErrorResponse c tag) s = .next ((s.violate (s.loggingDie (.core c) cause (s.blameAt cause a x.len))
      ((plainViolation cause a (.core c) (b2n write)).ofTask (s.regionOf q) q t)).coreExc c excFabric .access x.instr
        0) := by
  have hserved : s.served c tag.val = some x := by simp [State.served, hasked, hfind]
  show execTransferErrorResponse c tag s = _
  rw [execTransferErrorResponse, if_pos hsite, hserved, Option.bind_some, hrun]
  dsimp only
  rw [htask]
  rfl

end

/-- A read from sound external memory that its core can take. -/
theorem State.runTransfer_get {s : State} {c : Nat} {x : Transfer} (hkind : x.kind = .get)
    (hfar : x.far.toNat + x.len ≤ extEnd) (hcause : s.accessCause (.core c) (.mesh c) x.far.toNat x.len false = none)
    (hwaits : s.accessWaits x.far.toNat x.len false = false)
    (hread : s.readBursts (unitsOf 64 x.far.toNat x.len) = (s, none)) {k' : Core}
    (hwrite : (s.core c).lmWrite x.lm.toNat (s.bytes x.far.toNat x.len) = some k') :
    s.runTransfer c x = .done (s.setCore c k') := by
  have hpos := State.accessCause_core_pos hcause
  have hmem : s.memRead x.far.toNat x.len = (s, .ok (s.bytes x.far.toNat x.len)) := by
    rw [State.memRead_ext _ (State.target_ext (by omega)), hread]
  rw [State.runTransfer, hkind]
  dsimp only
  rw [hcause]
  simp only [hwaits, Bool.false_eq_true, if_false, hmem, hwrite]

theorem length_readFrom (rd : Nat → Byte) (a n : Nat) : (readFrom rd a n).length = n := by
  induction n generalizing a with
  | zero => rfl
  | succ n ih => simp [readFrom, ih]

/-- A write of whole words to local memory is done, whatever words are marked. -/
theorem Core.lmWrite_words {k : Core} {a : Nat} {bs : List Byte} (ha : a % 8 = 0) (hn : bs.length % 8 = 0) :
    ∃ k', k.lmWrite a bs = some k' :=
  Core.lmWrite_isSome fun w hw => .inl (by
    rw [mem_wordsOf] at hw
    simp only [covers, decide_eq_true_eq]
    omega)

/-! Writes to external memory. -/

theorem runsOf_bytesAt (a : Nat) (bs : List Byte) (h : bs ≠ []) : runsOf (bytesAt a bs) = [(a, bs)] := by
  induction bs generalizing a with
  | nil => exact absurd rfl h
  | cons b bs ih =>
    rw [bytesAt, runsOf]
    by_cases hbs : bs = []
    · simp [hbs, bytesAt, runsOf]
    · simp [ih (a + 1) hbs]

/-- Bytes written below the core windows change memory alone. -/
theorem State.putBytes_low (s : State) {a : Nat} {bs : List Byte} (h : a + bs.length ≤ windowBase) :
    s.putBytes a bs = { s with mem := (s.putBytes a bs).mem } := by
  unfold State.putBytes State.setBytes
  induction bs generalizing s a with
  | nil => rfl
  | cons b bs ih =>
    rw [List.length_cons] at h
    rw [bytesAt, List.foldl_cons]
    have hbyte : s.setByte a b = { s with mem := Assoc.put 0 s.mem a b } := if_neg (by omega)
    rw [hbyte]
    exact ih _ (by omega)

/-- The poison of a granule that a write renews whole, gone (R344). -/
def State.unpoisoned (s : State) (a n g : Nat) : State :=
  let m := s.portAt (256 * g)
  let p := s.port_ m
  if whole 256 a n g && p.poison.contains g then
    s.setPort_ m { p with poison := p.poison.filter (· != g) } else s

theorem State.unpoisoned_frame (s : State) (a n g : Nat) :
    s.unpoisoned a n g = { s with ext := (s.unpoisoned a n g).ext } := by
  unfold State.unpoisoned
  dsimp only
  split <;> rfl

/-- External memory before a write: the marks of whole bursts and granules that it renews are gone (R344). -/
def State.renewed (s : State) (a n : Nat) : State :=
  let s := (unitsOf 256 a n).foldl (fun s g => s.unpoisoned a n g) s
  let keep := fun (b : Nat) => !(whole 64 a n b)
  { s with ext := { s.ext with weak := s.ext.weak.filter keep, bad := s.ext.bad.filter keep } }

theorem State.extWrite_eq (s : State) (a : Nat) (bs : List Byte) :
    s.extWrite a bs = (s.renewed a bs.length).putBytes a bs := rfl

/-- States that differ in their tables of external memory alone. -/
theorem foldl_ext {β : Type} (f : State → β → State) (hf : ∀ s y, f s y = { s with ext := (f s y).ext }) (l : List β)
    (s : State) : l.foldl f s = { s with ext := (l.foldl f s).ext } := by
  induction l generalizing s with
  | nil => rfl
  | cons y l ih =>
    rw [List.foldl_cons, ih (f s y)]
    have := hf s y
    rw [this]

theorem State.renewed_frame (s : State) (a n : Nat) : s.renewed a n = { s with ext := (s.renewed a n).ext } := by
  unfold State.renewed
  dsimp only
  rw [foldl_ext _ (fun s y => s.unpoisoned_frame a n y) (unitsOf 256 a n) s]

/-- A write to external memory changes memory and the tables of external memory. -/
theorem State.extWrite_low (s : State) {a : Nat} {bs : List Byte} (h : a + bs.length ≤ windowBase) :
    s.extWrite a bs = { s with ext := (s.extWrite a bs).ext, mem := (s.extWrite a bs).mem } := by
  rw [State.extWrite_eq, State.putBytes_low _ h, State.renewed_frame]

theorem State.byte_extWrite (s : State) (a : Nat) (bs : List Byte) (y : Nat) :
    (s.extWrite a bs).byte y = if a ≤ y ∧ y < a + bs.length then bs.getD (y - a) 0 else s.byte y := by
  have hbyte : (s.renewed a bs.length).byte y = s.byte y := by
    rw [State.renewed_frame]
    rfl
  rw [State.extWrite_eq, State.byte_putBytes, hbyte]

/-! The journal, and a transfer's write in place (R403). -/

/-- The journal leaves every core. -/
theorem State.journal_cores {s s2 : State} {q t : Nat} {gs : List Nat} (hgs : ∀ g ∈ gs, 256 * g + 256 ≤ extEnd)
    (h : s.journal q t gs = .ok s2) : s2.cores = s.cores := by
  have hsame := s.journal_withCores s.cores q t gs hgs
  rw [show s.withCores s.cores = s from rfl, h] at hsame
  have hs2 : Journaled.ok s2 = .ok (s2.withCores s.cores) := hsame
  show s2.cores = (s2.withCores s.cores).cores
  rw [← Journaled.ok.inj hs2]

theorem State.journal_mem {s s2 : State} {q t : Nat} {gs : List Nat} (h : s.journal q t gs = .ok s2) :
    s2.mem = s.mem := by
  induction gs generalizing s with
  | nil =>
    cases h
    rfl
  | cons g gs ih =>
    unfold State.journal at h
    dsimp only at h
    split_ifs at h
    · exact ih h
    · exact (ih h).trans (s.record_still q t g).2

theorem mem_bytesAt {a : Nat} {bs : List Byte} {w : Nat × Byte} (h : w ∈ bytesAt a bs) :
    a ≤ w.1 ∧ w.1 < a + bs.length := by
  induction bs generalizing a with
  | nil => simp [bytesAt] at h
  | cons b bs ih =>
    rw [bytesAt, List.mem_cons] at h
    rw [List.length_cons]
    rcases h with rfl | h
    · exact ⟨le_rfl, by omega⟩
    · have := ih h
      omega

/-- The granules of a span of external memory lie in external memory. -/
theorem granulesOf_ext {a n : Nat} {bs : List Byte} (hlen : bs.length = n) (h : a + n ≤ extEnd) :
    ∀ g ∈ granulesOf (bytesAt a bs), 256 * g + 256 ≤ extEnd := by
  intro g hg
  obtain ⟨w, hw, rfl⟩ := List.mem_map.mp (List.mem_eraseDups.mp hg)
  have hlt : w.1 < a + n := by
    have hmem := (List.mem_filter.mp hw).1
    rw [← hlen]
    exact (mem_bytesAt hmem).2
  have hend : extEnd = 256 * (extEnd / 256) := by decide
  omega

/-- Whether a write to external memory may happen depends on no core. -/
theorem State.writeFault_withCores {s : State} (x : Assoc Core) (q t : Nat) {a : Nat} {bs : List Byte} (hne : bs ≠ [])
    (h : a < extEnd) : (s.withCores x).writeFault q t (bytesAt a bs) = s.writeFault q t (bytesAt a bs) := by
  have htarget := State.target_ext (s := s) h
  have htarget' := State.target_ext (s := s.withCores x) h
  have hend : (s.withCores x).targetEnd a = s.targetEnd a := by
    unfold State.targetEnd
    rw [htarget, htarget']
  have hidle : (s.withCores x).idleWindow a = s.idleWindow a := by
    unfold State.idleWindow
    rw [htarget, htarget']
  have hoff : (s.withCores x).firstOff a (a + bs.length - 1) = s.firstOff a (a + bs.length - 1) := rfl
  have hrun : (s.withCores x).runFault q t a bs = s.runFault q t a bs := by
    unfold State.runFault
    dsimp only
    rw [htarget, htarget', hend, hidle, hoff]
    cases s.firstOff a (a + bs.length - 1) <;> rfl
  simp only [State.writeFault, runsOf_bytesAt a bs hne, List.findSome?_cons, List.findSome?_nil, hrun]

/-- A core's write in place to external memory, its journal having room. -/
theorem State.transferWrite_ext {s s2 : State} {c q t a : Nat} {bs : List Byte} (x : Assoc Core) (hne : bs ≠ [])
    (hfar : a + bs.length ≤ extEnd) (htask : (s.withCores x).siteTask c = some (q, t))
    (hfault : s.writeFault q t (bytesAt a bs) = none) (hjournal : s.journal q t (granulesOf (bytesAt a bs)) = .ok s2) :
    (s.withCores x).transferWrite c a bs = .done ((s2.withCores x).extWrite a bs) := by
  have hpos : 0 < bs.length := List.length_pos_of_ne_nil hne
  have hlt : a < extEnd := by omega
  have hplace : (s.withCores x).writeInPlace q t (bytesAt a bs) = .ok ((s2.withCores x).extWrite a bs) := by
    have hrun : (s2.withCores x).writeRun a bs = (s2.withCores x).extWrite a bs := by
      rw [State.writeRun, State.target_ext hlt]
    rw [State.writeInPlace, State.writeFault_withCores x q t hne hlt, hfault]
    dsimp only
    rw [State.journal_withCores s x q t _ (granulesOf_ext rfl hfar), hjournal]
    simp only [Journaled.withCores, State.writeAll, runsOf_bytesAt a bs hne, List.foldl_cons, List.foldl_nil, hrun]
  rw [State.transferWrite, htask, State.target_ext hlt]
  dsimp only
  rw [hplace]

/-- A core without error marks reads every span. -/
theorem Core.uncorrectable_unmarked {k : Core} (h : k.lmErr = []) (a n : Nat) : k.uncorrectable a n = false := by
  simp [Core.uncorrectable, Core.mark, h]

/-- A byte of the module is one of memory or of a core's local memory -/
theorem State.byte_congr {s t : State} (hmem : t.mem = s.mem) (hlm : ∀ e, (t.core e).lm = (s.core e).lm) (a : Nat) :
    t.byte a = s.byte a := by
  unfold State.byte
  rw [hmem, hlm]

/-- A core replaced by one of the same local memory. -/
theorem State.lm_setCore {s : State} {c : Nat} {k : Core} (h : k.lm = (s.core c).lm) (e : Nat) :
    ((s.setCore c k).core e).lm = (s.core e).lm := by
  by_cases he : e = c
  · subst he
    rw [State.core_setCore, h]
  · rw [State.core_setCore_other _ _ he]

theorem transferPut {s : State} {c : Nat} {tag : Fin 8} {x : Transfer} (hsite : siteExists c = true)
    (hasked : s.transferAsked c tag.val = false)
    (hfind : (s.core c).xfers.find? (fun e => e.1 == tag.val) = some (tag.val, x)) (hkind : x.kind = .put)
    (hfar : x.far.toNat + x.len ≤ extEnd) (hcause : s.accessCause (.core c) (.mesh c) x.far.toNat x.len true = none)
    (hwaits : s.accessWaits x.far.toNat x.len true = false) (hmarks : (s.core c).lmErr = []) {q t : Nat} {s2 : State}
    (htask : s.siteTask c = some (q, t))
    (hfault : s.writeFault q t (bytesAt x.far.toNat ((s.core c).lmBytes x.lm.toNat x.len)) = none)
    (hjournal : s.journal q t (granulesOf (bytesAt x.far.toNat ((s.core c).lmBytes x.lm.toNat x.len))) = .ok s2) :
    ∃ s', exec (.transferComplete c tag) s = .next s' ∧ s'.ge.journal = s2.ge.journal
      ∧ (∀ a, s'.byte a = lastWrite (bytesAt x.far.toNat ((s.core c).lmBytes x.lm.toNat x.len)) a (s.byte a))
      ∧ (s'.core c).lm = (s.core c).lm ∧ (s'.core c).xfers = Assoc.del (s.core c).xfers tag.val
      ∧ (s.core c).sameRegs (s'.core c) ∧ ∀ e, e ≠ c → s'.core e = s.core e := by
  have hpos := State.accessCause_core_pos hcause
  have hlen : ((s.core c).lmBytes x.lm.toNat x.len).length = x.len := Assoc.length_span ..
  generalize hbs : (s.core c).lmBytes x.lm.toNat x.len = bs at *
  have hne : bs ≠ [] := by
    rintro rfl
    simp at hlen
    omega
  have hread := Core.lmRead_sound (Core.uncorrectable_unmarked hmarks x.lm.toNat x.len)
  rw [hbs] at hread
  have hlow : x.far.toNat + bs.length ≤ windowBase := by
    have : extEnd ≤ windowBase := by decide
    omega
  generalize hk : (s.core c).correct (wordsOf x.lm.toNat x.len) = k at hread
  have htask' : (s.setCore c k).siteTask c = some (q, t) := by
    rw [← htask, State.siteTask, State.core_setCore, ← hk]
    rfl
  have hrun : s.runTransfer c x = .done ((s2.withCores (s.setCore c k).cores).extWrite x.far.toNat bs) := by
    rw [State.runTransfer, hkind]
    dsimp only
    rw [hcause]
    simp only [hwaits, Bool.false_eq_true, if_false, hread]
    exact State.transferWrite_ext (s.setCore c k).cores hne (by omega) htask' hfault hjournal
  have hframe := State.extWrite_low (s2.withCores (s.setCore c k).cores) hlow
  have hbyte := State.byte_extWrite (s2.withCores (s.setCore c k).cores) x.far.toNat bs
  generalize hs3 : (s2.withCores (s.setCore c k).cores).extWrite x.far.toNat bs = s3 at *
  have hcore : ∀ e, s3.core e = (s.setCore c k).core e := by
    intro e
    rw [hframe]
    rfl
  have hcorec : s3.core c = k := (hcore c).trans (State.core_setCore ..)
  obtain ⟨hlm, hxfers, hregs⟩ := (s3.core c).freeTag_frame tag s3.aclk
  refine ⟨_, State.transferComplete_done hsite hasked hfind hrun, ?_, fun a => ?_, ?_, ?_, fun w r => ?_, fun e he =>
      ?_⟩
  · rw [hframe]
    rfl
  · have hklm : k.lm = (s.core c).lm := by
      rw [← hk]
      rfl
    have hmem : (s2.withCores (s.setCore c k).cores).mem = s.mem := State.journal_mem (s2 := s2) hjournal
    have hold := State.byte_congr hmem
      (fun e => State.lm_setCore hklm e) a
    have hnew := State.byte_congr (t := s3.setCore c ((s3.core c).freeTag tag s3.aclk)) (s := s3) rfl
      (State.lm_setCore hlm) a
    rw [hnew, hbyte, hold, lastWrite_bytesAt]
  · rw [State.core_setCore, hlm, hcorec, ← hk]
    rfl
  · rw [State.core_setCore, hxfers, hcorec, ← hk]
    rfl
  · rw [State.core_setCore, hregs, hcorec, ← hk]
    cases w <;> rfl
  · rw [State.core_setCore_other _ _ he, hcore, State.core_setCore_other _ _ he]

theorem transferGet {s : State} {c : Nat} {tag : Fin 8} {x : Transfer} (hsite : siteExists c = true)
    (hasked : s.transferAsked c tag.val = false)
    (hfind : (s.core c).xfers.find? (fun e => e.1 == tag.val) = some (tag.val, x)) (hkind : x.kind = .get)
    (hfar : x.far.toNat + x.len ≤ extEnd) (hcause : s.accessCause (.core c) (.mesh c) x.far.toNat x.len false = none)
    (hwaits : s.accessWaits x.far.toNat x.len false = false)
    (hread : s.readBursts (unitsOf 64 x.far.toNat x.len) = (s, none)) (hlm : x.lm.toNat % 8 = 0)
        (hlen : x.len % 8 = 0) :
    ∃ s', exec (.transferComplete c tag) s = .next s' ∧ s' = { s with cores := s'.cores }
      ∧ (∀ e, e ≠ c → s'.core e = s.core e)
      ∧ (s.core c).writesLm (s'.core c) x.lm.toNat (s.bytes x.far.toNat x.len)
      ∧ (s'.core c).xfers = Assoc.del (s.core c).xfers tag.val ∧ (s.core c).sameRegs (s'.core c) := by
  obtain ⟨k', hk'⟩ := Core.lmWrite_words (k := s.core c) (a := x.lm.toNat) (bs := s.bytes x.far.toNat x.len) hlm (by
    rw [State.bytes, length_readFrom]
    exact hlen)
  have hrun := State.runTransfer_get hkind hfar hcause hwaits hread hk'
  have hframe := Core.lmWrite_frame hk'
  obtain ⟨hklm, hxfers, hregs⟩ := k'.freeTag_frame tag s.aclk
  refine ⟨_, State.transferComplete_done hsite hasked hfind hrun, rfl, fun e he => ?_, fun m => ?_, ?_, fun w r => ?_⟩
  · rw [State.core_setCore_other _ _ he, State.core_setCore_other _ _ he]
  · rw [State.core_setCore, State.core_setCore, State.setCore_aclk, hklm]
    exact Core.lmWrite_writesLm hk' m
  · rw [State.core_setCore, State.core_setCore, State.setCore_aclk, hxfers, hframe]
  · rw [State.core_setCore, State.core_setCore, State.setCore_aclk, hregs, hframe]
    cases w <;> rfl

theorem transferEnds : Claims.TransferEnds := by
  intro s c tag x hsite hasked hfind
  refine ⟨fun hkind hfar hcause hwaits hmarks q t s2 htask => ?_, fun hkind => ⟨?_, ?_⟩⟩
  · exact transferPut hsite hasked hfind hkind hfar hcause hwaits hmarks htask
  · exact transferGet hsite hasked hfind hkind
  · intro cause q t y hcause htask _ _ _
    have hrun : s.runTransfer c x = .error s cause x.far.toNat false := by
      rw [State.runTransfer, hkind]
      dsimp only
      rw [hcause]
    exact ⟨_, rfl, rfl, rfl, rfl, rfl, rfl, rfl, State.transferErrorResponse_error hsite hasked hfind hrun htask⟩

/-- Settles O8: issue by the core's part and the requests it makes, the end of a put by a journal that depends on no
core. -/
theorem meshTransfers : Obligations.MeshTransfers :=
  ⟨transferIssue, transferWaits, transferEnds⟩

end Sys2Proof.Machine
end

section
/-! PROOF. O12: lane-by-lane vector instructions. The first part serves every vector instruction (O13, O14 and O17
too): an
instruction of the vector engine changes the engine and the execute stream, and `vectorResult` follows from what it put
into the engine. -/

namespace Sys2Proof.Machine

open Sys2Proof

/-- A stream that differs from another in its general registers only goes on as the other one does. -/
theorem Stream.withGr_wentOn (a : Stream) (gr : Assoc Word) (t interval latency : Nat) (writes : List Nat) :
    a.wentOn ({ a with gr := gr }.issued t interval latency writes).advance (t + interval) := by
  have hadv : ({ a with gr := gr }.issued t interval latency writes).advance =
      ({ a with gr := gr }.issued t interval latency writes).standAt a.advance := Stream.advance_eq rfl rfl rfl
  rw [hadv]
  exact ⟨rfl, rfl, rfl, rfl, rfl, rfl, rfl, rfl, rfl, rfl⟩

/-- A core whose vector engine, and perhaps whose execute stream's general registers, an instruction has changed. -/
def Core.onVector (k : Core) (gr : Assoc Word) (v : VectorEngine) : Core :=
  { k with exe := { k.exe with gr := gr }, vec := v }

/-- The core after a vector instruction of a class that has done that (R147). -/
def Core.vectored (k : Core) (gr : Assoc Word) (v : VectorEngine) (t : Nat) (cls : VClass) (writes : List Nat) : Core :=
  (k.onVector gr v).vdone t cls writes

section
variable (k : Core) (gr : Assoc Word) (v : VectorEngine) (t : Nat) (cls : VClass) (writes : List Nat)

theorem Core.vectored_vec :
    (k.vectored gr v t cls writes).vec = { v with idleAt := max v.idleAt (t + cls.lat) } := rfl

theorem Core.vectored_exe : (k.vectored gr v t cls writes).exe =
    ({ k.exe with gr := gr }.issued t cls.int cls.lat writes).advance := rfl

theorem Core.vectored_onlyVector : k.onlyVector (k.vectored gr v t cls writes) := rfl

theorem Core.vectored_vectorDone (hidle : v.idleAt = k.vec.idleAt) :
    k.vectorDone (k.vectored gr v t cls writes) t cls writes := by
  refine ⟨?_, fun n => ?_, ?_⟩
  · exact k.exe.withGr_wentOn gr t cls.int cls.lat writes
  · rw [Core.vectored_exe]
    exact Stream.issued_readyAt { k.exe with gr := gr } t cls.int cls.lat writes n
  · rw [Core.vectored_vec, hidle]

theorem Core.vectored_reg (w : UnitId) (r : Fin 32) :
    (k.vectored gr v t cls writes).reg w r = (k.onVector gr v).reg w r :=
  Core.reg_done _ .execute w t cls.int cls.lat writes r

/-- A vector instruction that writes no general register keeps them all. -/
theorem Core.vectored_sameRegs : k.sameRegs (k.vectored k.exe.gr v t cls writes) := fun w r => by
  rw [Core.vectored_reg]
  cases w <;> rfl

end

/-- A vector engine with vector registers written and VSTAT's flags and count as an instruction leaves them (R160). -/
def VectorEngine.result (v : VectorEngine) (vx : Assoc (List Lane)) (sat inv : Bool) (count : Nat) : VectorEngine :=
  { v with vx := vx, sat := v.sat || sat, inv := v.inv || inv, isat := v.isat.addN count }

@[simp] theorem Counter.addN_zero (n : Counter) : n.addN 0 = n := by
  simp [Counter.addN, n.n.isLt]

/-- A vector instruction issues over its registers and its class's core. -/
theorem State.vissues.body {s : State} {c : Nat} {regs : List Nat} {t : Nat} (h : s.vissues c regs t)
    (body : Nat → CoreRes) : (s.core c).vissue s.aclk (s.coreStrike c) regs body = body t := by
  obtain ⟨hissue, hheld⟩ := h
  rw [Core.vissue, State.issues.body hissue, hheld]
  rfl

/-- The vector registers that an instruction has set. -/
def vxSets (m : Assoc (List Lane)) (vs : List (Fin 32 × List Lane)) : Assoc (List Lane) :=
  vs.foldl (fun m p => Assoc.set m p.1.val p.2) m

theorem get_vxSets_other (vs : List (Fin 32 × List Lane)) (m : Assoc (List Lane)) (d : List Lane) (v : Fin 32)
    (h : v ∉ vs.map Prod.fst) : Assoc.get d (vxSets m vs) v.val = Assoc.get d m v.val := by
  induction vs generalizing m with
  | nil => rfl
  | cons p vs ih =>
    rw [List.map_cons, List.mem_cons, not_or] at h
    exact (ih (Assoc.set m p.1.val p.2) h.2).trans (Assoc.get_set_other _ _ _ fun hv => h.1 (Fin.ext hv))

theorem get_vxSets (vs : List (Fin 32 × List Lane)) (hnodup : (vs.map Prod.fst).Nodup) (m : Assoc (List Lane))
    (d : List Lane) : ∀ p ∈ vs, Assoc.get d (vxSets m vs) p.1.val = p.2 := by
  induction vs generalizing m with
  | nil => simp
  | cons q vs ih =>
    rw [List.map_cons, List.nodup_cons] at hnodup
    intro p hp
    rcases List.mem_cons.mp hp with rfl | hp
    · exact (get_vxSets_other vs (Assoc.set m p.1.val p.2) d p.1 hnodup.1).trans (Assoc.get_set_same ..)
    · exact ih hnodup.2 (Assoc.set m q.1.val q.2) p hp

/-- A vector instruction that issues, sets vector registers and leaves the general registers and the exact sums. -/
theorem State.onInstr_vector {s : State} {c : Nat} {regs : List Nat} {t : Nat} (h : s.vissues c regs t) {i : Instr}
    {f : Core → CoreRes} {gr : Assoc Word} {cls : VClass} {writes : List Nat} {vs : List (Fin 32 × List Lane)}
    {sat inv : Bool} {count : Nat} (hnodup : (vs.map Prod.fst).Nodup)
    (hf : f (s.core c) = .ok t ((s.core c).vectored gr
      ((s.core c).vec.result (vxSets (s.core c).vec.vx vs) sat inv count) t cls writes)) :
    ∃ s', s.onInstr c .execute i f = .next s'
      ∧ (∀ w r, (s'.core c).reg w r = ((s.core c).onVector gr (s.core c).vec).reg w r)
      ∧ vectorResult s s' c t cls writes vs sat inv count := by
  obtain ⟨s', hrun, honly, hcore, haclk⟩ := State.onInstr_core (i := i) h.1 hf
  refine ⟨s', hrun, ?_, ?_⟩
  · rw [hcore]
    exact fun w r => (Core.vectored_reg ..).trans (by cases w <;> rfl)
  · unfold vectorResult
    rw [hcore]
    exact ⟨honly, haclk, Core.vectored_onlyVector .., fun x => rfl,
      ⟨get_vxSets vs hnodup _ _, fun v hv => get_vxSets_other vs _ _ v hv⟩, Core.vectored_vectorDone _ _ _ _ _ _ rfl,
      rfl, rfl, rfl⟩

/-- A vector instruction that leaves the general registers too. -/
theorem State.onInstr_lanes {s : State} {c : Nat} {regs : List Nat} {t : Nat} (h : s.vissues c regs t) {i : Instr}
    {f : Core → CoreRes} {cls : VClass} {writes : List Nat} {vs : List (Fin 32 × List Lane)}
    {sat inv : Bool} {count : Nat} (hnodup : (vs.map Prod.fst).Nodup)
    (hf : f (s.core c) = .ok t ((s.core c).vectored (s.core c).exe.gr
      ((s.core c).vec.result (vxSets (s.core c).vec.vx vs) sat inv count) t cls writes)) :
    ∃ s', s.onInstr c .execute i f = .next s' ∧ (s.core c).sameRegs (s'.core c)
      ∧ vectorResult s s' c t cls writes vs sat inv count := by
  obtain ⟨s', hrun, hregs, hresult⟩ := State.onInstr_vector (i := i) h hnodup hf
  exact ⟨s', hrun, fun w r => (hregs w r).trans (by cases w <;> rfl), hresult⟩

/-! Instructions of two operands (R159). -/

/-- Each row of the table is one use of `Core.vbin`. -/
theorem exec_vbinRow {c : Nat} {d a : Fin 32} {b : VSrc} {row : Instr × VClass × Bool × (Lane → Lane → Lane)}
    (h : row ∈ vbinRows c d a b) (s : State) :
    exec row.1 s = s.onInstr c .execute row.1
      (fun k => k.vbin s.aclk (s.coreStrike c) row.2.1 row.2.2.1 d a b row.2.2.2) := by
  unfold vbinRows at h
  simp only [List.mem_cons, List.not_mem_nil, or_false] at h
  rcases h with rfl | rfl | rfl | rfl | rfl | rfl | rfl | rfl | rfl | rfl | rfl <;> rfl

theorem Core.vbin_issues {s : State} {c : Nat} {d a : Fin 32} {b : VSrc} {t : Nat} (cls : VClass) (nan : Bool)
    (f : Lane → Lane → Lane) (hb : vsrcOk b = true) (h : s.vissues c (vreg d :: vreg a :: vsrcRegs b) t) :
    (s.core c).vbin s.aclk (s.coreStrike c) cls nan d a b f = .ok t ((s.core c).vectored (s.core c).exe.gr
      ((s.core c).vec.result (vxSets (s.core c).vec.vx [(d, lanes2 f ((s.core c).vx a) ((s.core c).vsrc b))]) false
        (nan && (lanes2 f ((s.core c).vx a) ((s.core c).vsrc b)).any isNan32) 0) t cls [vreg d]) := by
  rw [Core.vbin, hb]
  simp only [Bool.not_true, Bool.false_eq_true, if_false, State.vissues.body h, VectorEngine.result, Bool.or_false,
    Counter.addN_zero]
  cases nan
  · simp only [Bool.false_eq_true, if_false, Bool.false_and, Bool.or_false]
    rfl
  · rfl

theorem vectorBinaryResult : Claims.VectorBinaryResult := by
  intro s c d a b row hrow
  rw [exec_vbinRow hrow]
  exact ⟨fun hb t h => State.onInstr_lanes h (by simp) (Core.vbin_issues _ _ _ hb h),
    fun hsite hb => State.onInstr_refused hsite fun k => by simp [Core.vbin, hb]⟩

/-! Instructions of one operand, shifts, `vbcast` and `vsel` (R159). -/

theorem fabs_eq : fabs = fun x => BitVec.ofNat 32 (x.toNat % 2 ^ 31) := by
  funext x
  apply BitVec.eq_of_toNat_eq
  have hmask : (0x7FFFFFFF : Lane).toNat = 2 ^ 31 - 1 := rfl
  rw [fabs, BitVec.toNat_and, hmask, Nat.and_two_pow_sub_one_eq_mod, BitVec.toNat_ofNat]
  omega

/-- Each row of the table is one use of `Core.vun`. -/
theorem exec_vunRow {c : Nat} {d a : Fin 32} {row : Instr × VClass × Bool × (Lane → Lane)}
    (h : row ∈ vunRows c d a) (s : State) : exec row.1 s = s.onInstr c .execute row.1
      (fun k => k.vun s.aclk (s.coreStrike c) row.2.1 row.2.2.1 d a row.2.2.2) := by
  unfold vunRows at h
  simp only [List.mem_cons, List.not_mem_nil, or_false] at h
  rcases h with rfl | rfl | rfl | rfl | rfl | rfl | rfl
  · rw [← fabs_eq]
    rfl
  all_goals rfl

theorem Core.vun_issues {s : State} {c : Nat} {d a : Fin 32} {t : Nat} (cls : VClass) (nan : Bool) (f : Lane → Lane)
    (h : s.vissues c [vreg d, vreg a] t) :
    (s.core c).vun s.aclk (s.coreStrike c) cls nan d a f = .ok t ((s.core c).vectored (s.core c).exe.gr
      ((s.core c).vec.result (vxSets (s.core c).vec.vx [(d, ((s.core c).vx a).map f)]) false
        (nan && (((s.core c).vx a).map f).any isNan32) 0) t cls [vreg d]) := by
  rw [Core.vun]
  simp only [State.vissues.body h, VectorEngine.result, Bool.or_false, Counter.addN_zero]
  cases nan
  · simp only [Bool.false_eq_true, if_false, Bool.false_and, Bool.or_false]
    rfl
  · rfl

theorem lane_shl_eq (x : Lane) (n : Nat) : x <<< n = BitVec.ofNat 32 (x.toNat * 2 ^ n) := by
  apply BitVec.eq_of_toNat_eq
  simp [Nat.shiftLeft_eq]

theorem lane_shr_eq (x : Lane) (n : Nat) : x >>> n = BitVec.ofNat 32 (x.toNat / 2 ^ n) := by
  apply BitVec.eq_of_toNat_eq
  have hlt : x.toNat / 2 ^ n < 2 ^ 32 := lt_of_le_of_lt (Nat.div_le_self _ _) x.isLt
  rw [BitVec.toNat_ushiftRight, Nat.shiftRight_eq_div_pow, BitVec.toNat_ofNat, Nat.mod_eq_of_lt hlt]

theorem lane_sra_eq (x : Lane) (n : Nat) : x.sshiftRight n = BitVec.ofInt 32 (x.toInt / 2 ^ n) := by
  rw [BitVec.sshiftRight, Int.shiftRight_eq_div_pow]
  simp

/-- Each row of the table is one use of `Core.vshift`. -/
theorem exec_vshiftRow {c : Nat} {d a : Fin 32} {n : Src} {row : Instr × (Nat → List Lane → List Lane)}
    (h : row ∈ vshiftRows c d a n) (s : State) : exec row.1 s = s.onInstr c .execute row.1
      (fun k => k.vshift s.aclk (s.coreStrike c) d a n row.2) := by
  unfold vshiftRows at h
  simp only [List.mem_cons, List.not_mem_nil, or_false] at h
  rcases h with rfl | rfl | rfl | rfl
  · simp only [← lane_shl_eq]
    rfl
  · simp only [← lane_shr_eq]
    rfl
  · simp only [← lane_sra_eq]
    rfl
  · rfl

/-- A vector instruction that sets one register and leaves VSTAT. -/
theorem State.onInstr_setVx {s : State} {c : Nat} {regs : List Nat} {t : Nat} (h : s.vissues c regs t) {i : Instr}
    {f : Core → CoreRes} {cls : VClass} {d : Fin 32} {r : List Lane}
    (hf : f (s.core c) = .ok t (((s.core c).setVx d r).vdone t cls [vreg d])) :
    ∃ s', s.onInstr c .execute i f = .next s' ∧ (s.core c).sameRegs (s'.core c)
      ∧ vectorResult s s' c t cls [vreg d] [(d, r)] false false 0 := by
  refine State.onInstr_lanes h (by simp) (hf.trans ?_)
  simp only [VectorEngine.result, Bool.or_false, Counter.addN_zero]
  rfl

/-- Bits of one lane or another, as a mask's bits say (R159). -/
def selectBits (m x y : Lane) : Lane := (m &&& x) ||| (~~~m &&& y)

theorem getLsbD_selectBits (m x y : Lane) (j : Nat) :
    (selectBits m x y).getLsbD j = if m.getLsbD j then x.getLsbD j else y.getLsbD j := by
  rw [selectBits, BitVec.getLsbD_or, BitVec.getLsbD_and, BitVec.getLsbD_and, BitVec.getLsbD_not]
  by_cases hj : j < 32
  · cases m.getLsbD j <;> simp [hj]
  · have hout : ∀ z : Lane, z.getLsbD j = false := fun z => BitVec.getLsbD_of_ge z j (by omega)
    simp [hout]

theorem vectorUnaryResult : Claims.VectorUnaryResult := by
  intro s c d a t k
  refine ⟨fun row hrow h => ?_, fun n row hrow hn h => ?_, fun x hx h => ?_, fun m b h => ?_⟩
  · rw [exec_vunRow hrow]
    exact State.onInstr_lanes h (by simp) (Core.vun_issues _ _ _ h)
  · rw [exec_vshiftRow hrow]
    refine State.onInstr_setVx h ?_
    have hby : k.shiftBy n = (k.src .execute n).toNat % 32 := by simp [Core.shiftBy, bits]
    rw [Core.vshift, hn]
    simp only [Bool.not_true, Bool.false_eq_true, if_false, State.vissues.body h]
    rw [← hby]
  · refine State.onInstr_setVx h ?_
    rw [Core.vbcast, hx]
    simp only [Bool.not_true, Bool.false_eq_true, if_false, State.vissues.body h]
    rfl
  · have hf : k.vsel s.aclk (s.coreStrike c) d m a b = .ok t ((k.setVx d
        (List.zipWith (fun x p => selectBits x p.1 p.2) (k.vx m) (List.zip (k.vx a) (k.vx b)))).vdone t clsVL
        [vreg d]) := State.vissues.body h _
    obtain ⟨s', hrun, hregs, hresult⟩ := State.onInstr_setVx h (i := .vsel c d m a b)
      (f := fun k => k.vsel s.aclk (s.coreStrike c) d m a b) hf
    refine ⟨s', _, hrun, hregs, hresult, fun i j x y z hx hy hz => ⟨selectBits x y z, ?_, getLsbD_selectBits x y z j⟩⟩
    have hzip : (List.zip (k.vx a) (k.vx b))[i]? = some (y, z) := List.getElem?_zip_eq_some.mpr ⟨hy, hz⟩
    simp [List.getElem?_zipWith, hzip, hx]

/-! `viadd` and `vfma` (R159, R160). -/

/-- A sum that is to be a lane: its value within the range of R159, and whether it lay outside. -/
def saturated (n : Int) : Lane × Bool :=
  (BitVec.ofInt 32 (Max.max (-(2 ^ 31 - 1)) (Min.min (2 ^ 31 - 1) n)), decide (n < -(2 ^ 31 - 1) ∨ 2 ^ 31 - 1 < n))

theorem satAdd_eq (x y : Lane) : satAdd x y = saturated (x.toInt + y.toInt) := by
  have hlane : ∀ v : Lane, BitVec.ofNat 32 v.toNat = v := fun v => by simp
  unfold satAdd clampInt saturated
  rcases lt_or_ge (x.toInt + y.toInt) (-(2 ^ 31 - 1)) with hlo | hlo
  · have hmax : Max.max (-(2 ^ 31 - 1)) (Min.min (2 ^ 31 - 1) (x.toInt + y.toInt)) = (-(2 ^ 31 - 1) : Int) := by omega
    rw [if_pos hlo, hmax]
    exact Prod.ext (hlane _) (decide_eq_true (.inl hlo)).symm
  · rcases lt_or_ge (2 ^ 31 - 1) (x.toInt + y.toInt) with hhi | hhi
    · have hmax : Max.max (-(2 ^ 31 - 1)) (Min.min (2 ^ 31 - 1) (x.toInt + y.toInt)) = (2 ^ 31 - 1 : Int) := by omega
      rw [if_neg (by omega), if_pos hhi, hmax]
      exact Prod.ext (hlane _) (decide_eq_true (.inr hhi)).symm
    · have hmax : Max.max (-(2 ^ 31 - 1)) (Min.min (2 ^ 31 - 1) (x.toInt + y.toInt)) = x.toInt + y.toInt := by omega
      rw [if_neg (by omega), if_neg (by omega), hmax]
      exact Prod.ext (hlane _) (decide_eq_false (by omega)).symm

theorem vectorAddAndFma : Claims.VectorAddAndFma := by
  intro s c d a b t hb k
  refine ⟨fun h => ?_, fun x h => ?_⟩
  · refine State.onInstr_lanes h (by simp) ?_
    show (s.core c).viadd s.aclk (s.coreStrike c) d a b = _
    have hsat : List.zipWith satAdd ((s.core c).vx a) ((s.core c).vsrc b) = (List.zipWith
        (fun (x y : Lane) => x.toInt + y.toInt) ((s.core c).vx a) ((s.core c).vsrc b)).map saturated := by
      rw [List.map_zipWith]
      exact congrArg (fun f => List.zipWith f _ _) (funext fun x => funext fun y => satAdd_eq x y)
    rw [Core.viadd, hb]
    simp only [Bool.not_true, Bool.false_eq_true, if_false, State.vissues.body h, hsat, List.map_map, List.filter_map,
      List.length_map]
    rfl
  · refine State.onInstr_lanes h (by simp) ?_
    show (s.core c).vfma s.aclk (s.coreStrike c) d a b x = _
    rw [Core.vfma, hb]
    simp only [Bool.not_true, Bool.false_eq_true, if_false, State.vissues.body h, VectorEngine.result, Bool.or_false,
      Counter.addN_zero]
    rfl

/-- Settles O12: each instruction by what it puts into the vector engine, and one lemma for what follows from that. -/
theorem vectorLaneResults : Obligations.VectorLaneResults :=
  ⟨vectorBinaryResult, vectorUnaryResult, vectorAddAndFma⟩

end Sys2Proof.Machine
end

section
/-! PROOF. O13: vector instructions with scalar results, and vector loads and stores. -/

namespace Sys2Proof.Machine

open Sys2Proof

/-! Scalar results (R159, R160, R163). -/

/-- An execute stream with one general register written. -/
theorem Core.setsReg_onVector (k : Core) (d : Fin 32) (v : Word) (e : VectorEngine) {k' : Core}
    (h : ∀ w r, k'.reg w r = (k.onVector (Assoc.put 0 k.exe.gr d.val v) e).reg w r) : k.setsReg k' .execute d v := by
  refine ⟨(h _ _).trans (Assoc.get_put_same ..), fun w r hr => (h w r).trans ?_⟩
  cases w with
  | access => rfl
  | execute => exact Assoc.get_put_other _ _ _ fun hv => hr.elim (fun hw => hw rfl) fun hd => hd (Fin.ext hv)

/-- A vector instruction whose result is a scalar register. -/
theorem State.onInstr_vscalar {s : State} {c : Nat} {d : Fin 32} {regs : List Nat} {v : Word} {t : Nat}
    (h : s.vissues c (d.val :: regs) t) (hd : d.val < 16) {i : Instr} {f : Core → CoreRes}
    (hf : f (s.core c) = (s.core c).vscalar s.aclk (s.coreStrike c) d regs v) :
    ∃ s', s.onInstr c .execute i f = .next s' ∧ (s.core c).setsReg (s'.core c) .execute d v
      ∧ vectorResult s s' c t clsVL [d.val] [] false false 0 := by
  have hreg : regOk .execute d = true := by simp [regOk, hd]
  rw [Core.vscalar, hreg] at hf
  simp only [Bool.not_true, Bool.false_eq_true, if_false, State.vissues.body h] at hf
  obtain ⟨s', hrun, hregs, hresult⟩ := State.onInstr_vector (i := i) (vs := []) (sat := false) (inv := false)
      (count := 0)
    (gr := Assoc.put 0 (s.core c).exe.gr d.val v) h (by simp) (hf.trans (by
      simp only [VectorEngine.result, Bool.or_false, Counter.addN_zero]
      rfl))
  exact ⟨s', hrun, Core.setsReg_onVector _ _ _ _ hregs, hresult⟩

theorem any_nonzero_eq (ls : List Lane) :
    (if ls.any (fun x => x != 0) then (1 : Word) else 0) = if ∃ l ∈ ls, l ≠ 0 then 1 else 0 := by
  simp

theorem all_nonzero_eq (ls : List Lane) :
    (if ls.all (fun x => x != 0) then (1 : Word) else 0) = if ∀ l ∈ ls, l ≠ 0 then 1 else 0 := by
  simp

/-- What `vstat` leaves (R160). -/
theorem State.onInstr_vstat {s : State} {c : Nat} {d : Fin 32} {t : Nat} (h : s.issues c .execute [d.val] t)
    (hd : d.val < 16) (clear : Bool) {i : Instr} :
    ∃ s', s.onInstr c .execute i (fun k => k.vstat s.aclk d clear) = .next s' ∧ s.onlyCore s' c
      ∧ (s.core c).setsReg (s'.core c) .execute d (s.core c).vec.word
      ∧ (s'.core c).vec =
          (if clear then { (s.core c).vec with sat := false, inv := false } else (s.core c).vec)
      ∧ (s'.core c).exe.nextIssue = max t (s.core c).vec.idleAt + 1 := by
  have hreg : regOk .execute d = true := by simp [regOk, hd]
  have hf : (s.core c).vstat s.aclk d clear = .ok (max t (s.core c).vec.idleAt)
      (((s.core c).onVector (Assoc.put 0 (s.core c).exe.gr d.val (s.core c).vec.word)
        (if clear then { (s.core c).vec with sat := false, inv := false } else (s.core c).vec)).done .execute
          (max t (s.core c).vec.idleAt) 1 1 [d.val]) := by
    rw [Core.vstat, hreg]
    simp only [Bool.not_true, Bool.false_eq_true, if_false, State.issues.body h]
    cases clear <;> rfl
  obtain ⟨s', hrun, honly, hcore, -⟩ := State.onInstr_core (i := i) (f := fun k => k.vstat s.aclk d clear) h hf
  refine ⟨s', hrun, honly, ?_⟩
  rw [hcore]
  refine ⟨Core.setsReg_onVector _ _ _ (s.core c).vec fun w r => ?_, rfl, ?_⟩
  · rw [Core.reg_done]
    cases w <;> rfl
  · obtain ⟨-, -, -, hnext, -⟩ := Core.done_wentOn ((s.core c).onVector
      (Assoc.put 0 (s.core c).exe.gr d.val (s.core c).vec.word)
        (if clear then { (s.core c).vec with sat := false, inv := false } else (s.core c).vec)) .execute
      (max t (s.core c).vec.idleAt) 1 1 [d.val]
    exact hnext

theorem VectorEngine.word_eq (v : VectorEngine) : v.word = BitVec.ofNat 64 (v.isat.n.toNat * 2 ^ 16
    + (if v.isat.ov then 8 else 0) + (if v.inv then 4 else 0) + (if v.sat then 2 else 0)) := by
  unfold VectorEngine.word
  cases v.isat.ov <;> cases v.inv <;> cases v.sat <;> rfl

theorem vectorToScalar : Claims.VectorToScalar := by
  intro s c d a n x t hd k
  refine ⟨fun row hrow hn h => ?_, fun clr h => ?_⟩
  · unfold vscalarRows at hrow
    simp only [List.mem_cons, List.not_mem_nil, or_false] at hrow
    rcases hrow with rfl | rfl | rfl | rfl
    · have hlane : BitVec.ofNat 64 ((k.vx a).getD ((k.src .execute n).toNat % 32) 0).toNat =
          ((k.vx a).getD (k.shiftBy n) 0).zeroExtend 64 := by
        rw [BitVec.ofNat_toNat]
        simp [Core.shiftBy, bits]
      rw [hlane]
      exact State.onInstr_vscalar h hd (if_pos hn)
    · rw [← any_nonzero_eq]
      exact State.onInstr_vscalar h hd rfl
    · rw [← all_nonzero_eq]
      exact State.onInstr_vscalar h hd rfl
    · exact State.onInstr_vscalar h hd rfl
  · have := State.onInstr_vstat h hd clr (i := if clr then .vstatClr c d else .vstat c d)
    rw [VectorEngine.word_eq] at this
    cases clr
    · exact this
    · exact this

/-! The next address of a stream, checked (R95, R97). -/

/-- A core that has taken the first address of an address stream, as the stream stands in cycle t. -/
def Core.tookAddr (k : Core) (a : AStream) (t : Nat) (rest : List Word) : Core :=
  k.setAg a { (k.ag a).settle t with fifo := rest }

theorem Core.takeAddrs_one {k : Core} {a : AStream} {t : Nat} {x : Word} {rest : List Word}
    (h : ((k.ag a).settle t).fifo = x :: rest) : k.takeAddrs a t 1 = some ([x], t, k.tookAddr a t rest) := by
  have hone : 1 ≤ ((k.ag a).settle t).fifo.length := by simp [h]
  unfold Core.takeAddrs
  dsimp only
  rw [if_pos hone, AddrStream.settle_settle, if_pos hone, h]
  rfl

/-- An access at a good address, no drain row and no execute-unit write ahead of it. -/
theorem Core.vaddr_good {k : Core} {a : AStream} {t n : Nat} {x : Word} {rest : List Word}
    (body : Nat → Core → Nat → CoreRes) (h : ((k.ag a).settle t).fifo = x :: rest) (hal : x.toNat % vecAlign n = 0)
    (hrange : x.toNat + n ≤ 0x60000) (hdrains : k.ope.drains = []) (hwrites : k.writes = []) :
    k.vaddr t a n body = body t (k.tookAddr a t rest) x.toNat := by
  have hahead : k.drainAhead k.ope.ord x.toNat n = false := by simp [Core.drainAhead, hdrains]
  have hvisible : k.visibleAt k.ope.ord x.toNat n = 0 := by simp [Core.visibleAt, hwrites]
  simp only [Core.vaddr, Core.takeAddrs_one h, lmCheck_good hal hrange, hahead, Bool.false_eq_true, if_false, hvisible,
    Nat.max_zero]

/-! Loads (R158, R163). -/

/-- A load of the vector engine: the core after it has taken its address and read its bytes. -/
def Core.loadedFrom (k : Core) (a : AStream) (t : Nat) (rest : List Word) (x n : Nat) : Core :=
  (k.tookAddr a t rest).correct (wordsOf x n)

section
variable (k : Core) (a : AStream) (t : Nat) (rest : List Word) (x n : Nat)

/-- What the load leaves: everything but the address stream, the marks and the count of corrections. -/
theorem Core.loadedFrom_frame : k.loadedFrom a t rest x n = { k with
    ags := (k.loadedFrom a t rest x n).ags, lmErr := (k.loadedFrom a t rest x n).lmErr
    corrected := (k.loadedFrom a t rest x n).corrected } := rfl

theorem Core.loadedFrom_fifo : ((k.loadedFrom a t rest x n).ag a).fifo = rest :=
  congrArg AddrStream.fifo (Core.ag_setAg k a { (k.ag a).settle t with fifo := rest })

end

theorem Core.lmRead_unmarked {k : Core} (h : k.lmErr = []) (a : AStream) (t : Nat) (rest : List Word) (x n : Nat) :
    (k.tookAddr a t rest).lmRead x n = some (k.loadedFrom a t rest x n, k.lmBytes x n) :=
  Core.lmRead_sound (Core.uncorrectable_unmarked (k := k.tookAddr a t rest) h x n)

/-- A core with its vector engine replaced. -/
def Core.withVec (k : Core) (v : VectorEngine) : Core := { k with vec := v }

/-- A core whose engine has one exact-sum register replaced. -/
theorem Core.xs_of_put {k k' : Core} {x : Fin 8} {v : Xs} (h : k'.vec.xs = Assoc.put {} k.vec.xs x.val v) :
    k'.xs x = v ∧ ∀ y, y ≠ x → k'.xs y = k.xs y := by
  constructor
  · rw [Core.xs, h]
    exact Assoc.get_put_same ..
  · intro y hy
    rw [Core.xs, h]
    exact Assoc.get_put_other _ _ _ fun hv => hy (Fin.ext hv)

/-- A vector load of the bytes at an address: what follows for the core, given the engine it leaves. -/
theorem State.onInstr_vload {s : State} {c : Nat} {regs : List Nat} {t : Nat} (h : s.vissues c regs t) {i : Instr}
    {f : Core → CoreRes} {a : AStream} {rest : List Word} {x n : Nat} {v : VectorEngine} {cls : VClass}
        {writes : List Nat}
    (hidle : v.idleAt = (s.core c).vec.idleAt)
    (hf : f (s.core c) = .ok t ((((s.core c).loadedFrom a t rest x n).withVec v).vdone t cls writes)) :
    ∃ s', s.onInstr c .execute i f = .next s' ∧ s.onlyCore s' c ∧ (s.core c).sameRegs (s'.core c)
      ∧ (s'.core c).lm = (s.core c).lm ∧ ((s'.core c).ag a).fifo = rest ∧ (s.core c).vectorDone (s'.core c) t cls writes
      ∧ (s'.core c).vec = { v with idleAt := max v.idleAt (t + cls.lat) } := by
  obtain ⟨s', hrun, honly, hcore, -⟩ := State.onInstr_core (i := i) h.1 hf
  refine ⟨s', hrun, honly, ?_⟩
  rw [hcore]
  refine ⟨fun w r => ?_, rfl, ?_, ⟨?_, fun m => ?_, ?_⟩, rfl⟩
  · rw [Core.vdone, Core.reg_done]
    cases w <;> rfl
  · rw [Core.vdone, Core.ag_done]
    exact (s.core c).loadedFrom_fifo a t rest x n
  · exact Core.done_wentOn (s.core c) .execute t cls.int cls.lat writes
  · exact Core.done_readyAt (s.core c) .execute t cls.int cls.lat writes m
  · rw [← hidle]
    rfl

/-! Bytes as numbers, and maps over a range of keys. -/

theorem ofLe_lt (bs : List Byte) : ofLe bs < 2 ^ (8 * bs.length) := by
  induction bs with
  | nil => simp [ofLe]
  | cons b bs ih =>
    have hb : b.toNat < 2 ^ 8 := b.isLt
    have hpow : 2 ^ (8 * (bs.length + 1)) = 2 ^ 8 * 2 ^ (8 * bs.length) := by rw [← pow_add]; congr 1; omega
    simp only [ofLe, List.length_cons, hpow]
    omega

theorem length_slice (bs : List Byte) (off n : Nat) : (slice bs off n).length = n := by
  simp only [slice, List.length_append, List.length_take, List.length_drop, List.length_replicate]
  omega

theorem leAt_lt (bs : List Byte) (off n : Nat) : leAt bs off n < 2 ^ (8 * n) := by
  have := ofLe_lt (slice bs off n)
  rwa [length_slice] at this

theorem Assoc.get_append_fresh {α : Type} (d : α) (m : Assoc α) (l : Assoc α) (i : Nat) (h : ∀ e ∈ m, e.1 ≠ i) :
    Assoc.get d (m ++ l) i = Assoc.get d l i := by
  induction m with
  | nil => rfl
  | cons e m ih =>
    rw [List.cons_append, Assoc.get_cons, if_neg (h e (by simp))]
    exact ih fun e he => h e (by simp [he])

theorem Assoc.get_append_done {α : Type} (d : α) (m l : Assoc α) (i : Nat) (h : ∀ e ∈ l, e.1 ≠ i) :
    Assoc.get d (m ++ l) i = Assoc.get d m i := by
  induction m with
  | nil => exact Assoc.get_of_not_mem d l i h
  | cons e m ih => rw [List.cons_append, Assoc.get_cons, Assoc.get_cons, ih]

theorem Assoc.keys_mapRange {α : Type} [DecidableEq α] (d : α) (n : Nat) (f : Nat → α → α) (m : Assoc α) :
    ∀ e ∈ Assoc.mapRange d n f m, e.1 < n := by
  intro e he
  unfold Assoc.mapRange at he
  obtain ⟨k, hk, hsome⟩ := List.mem_filterMap.1 he
  rw [List.mem_range] at hk
  dsimp only at hsome
  split at hsome
  · cases hsome
  · cases hsome
    exact hk

/-- A map rebuilt over a range of keys holds the new value of each key of the range and nothing else. -/
theorem Assoc.get_mapRange {α : Type} [DecidableEq α] (d : α) (n : Nat) (f : Nat → α → α) (m : Assoc α) (i : Nat) :
    Assoc.get d (Assoc.mapRange d n f m) i = if i < n then f i (Assoc.get d m i) else d := by
  induction n with
  | zero => rfl
  | succ n ih =>
    have hsplit : Assoc.mapRange d (n + 1) f m = Assoc.mapRange d n f m ++
        (if f n (Assoc.get d m n) = d then [] else [(n, f n (Assoc.get d m n))]) := by
      unfold Assoc.mapRange
      rw [List.range_succ, List.filterMap_append]
      congr 1
      split_ifs with hd <;> simp [hd]
    rw [hsplit]
    by_cases hi : i = n
    · subst hi
      rw [Assoc.get_append_fresh d _ _ i fun e he => Nat.ne_of_lt (Assoc.keys_mapRange d i f m e he), if_pos
          (Nat.lt_succ_self i)]
      split_ifs with hd
      · exact hd.symm
      · exact if_pos rfl
    · rw [Assoc.get_append_done d _ _ i, ih]
      · have : i < n ↔ i < n + 1 := by omega
        simp only [this]
      · intro e he
        split_ifs at he
        · cases he
        · rw [List.mem_singleton] at he
          rw [he]
          exact fun h => hi h.symm

/-- The lanes of a load, as R158 states them. -/
theorem loadLanes_eq (w : VWidth) (bs : List Byte) : loadLanes w bs = (List.range 32).map (loadedLane w bs) := by
  have hofInt : ∀ n v, 0 < n → BitVec.ofInt 32 (signed n v) = (BitVec.ofNat n v).signExtend 32 := by
    intro n v hn
    have : signed n v = (BitVec.ofNat n v).toInt := by
      rw [← signed_toNat _ hn, BitVec.toNat_ofNat]
      simp [signed]
    rw [this]
    rfl
  have hwide : ∀ n v, v < 2 ^ n → BitVec.ofNat 32 v = (BitVec.ofNat n v).zeroExtend 32 := by
    intro n v hv
    apply BitVec.eq_of_toNat_eq
    simp [Nat.mod_eq_of_lt hv]
  unfold loadLanes
  refine List.map_congr_left fun i _ => ?_
  cases w with
  | w32 => rfl
  | u16 => exact hwide 16 _ (leAt_lt bs (2 * i) 2)
  | i16 => exact hofInt 16 _ (by decide)
  | u8 => exact (congrArg (fun o => BitVec.ofNat 32 (leAt bs o 1)) (Nat.one_mul i)).trans (hwide 8 _ (leAt_lt bs i 1))
  | i8 =>
    exact (congrArg (fun o => BitVec.ofInt 32 (signed 8 (leAt bs o 1))) (Nat.one_mul i)).trans (hofInt 8 _ (by decide))

section
variable {s : State} {c : Nat} {t : Nat} {a : Word} {rest : List Word} (hmarks : (s.core c).lmErr = [])
  (hdrains : (s.core c).ope.drains = []) (hwrites : (s.core c).writes = [])
include hmarks hdrains hwrites

theorem State.vld_issues {d : Fin 32} {w : VWidth} (hfifo : (((s.core c).ag .vload).settle t).fifo = a :: rest)
    (h : s.vissues c [vreg d] t) (hal : a.toNat % (if widthBytes w = 1 then 32 else 64) = 0)
    (hrange : a.toNat + 32 * widthBytes w ≤ 0x60000) :
    ∃ s', exec (.vld c d w) s = .next s' ∧ s.onlyCore s' c ∧ (s.core c).sameRegs (s'.core c)
      ∧ (s'.core c).lm = (s.core c).lm ∧ ((s'.core c).ag .vload).fifo = rest
      ∧ (s.core c).vectorDone (s'.core c) t clsEL [vreg d]
      ∧ (s.core c).setsVx (s'.core c) [(d, (List.range 32).map
          (loadedLane w ((s.core c).lmBytes a.toNat (32 * widthBytes w))))] := by
  have hal' : a.toNat % vecAlign (32 * widthBytes w) = 0 := by
    cases w <;> exact hal
  have hf : (s.core c).vld s.aclk (s.coreStrike c) d w = .ok t
      ((((s.core c).loadedFrom .vload t rest a.toNat (32 * widthBytes w)).withVec { (s.core c).vec with
        vx := vxSets (s.core c).vec.vx [(d, loadLanes w ((s.core c).lmBytes a.toNat
            (32 * widthBytes w)))] }).vdone t clsEL
          [vreg d]) := by
    rw [Core.vld, State.vissues.body h, Core.vaddr_good _ hfifo hal' hrange hdrains hwrites]
    dsimp only
    rw [Core.lmRead_unmarked hmarks]
    rfl
  obtain ⟨s', hrun, honly, hregs, hlm, hrest, hdone, hvec⟩ := State.onInstr_vload (i := .vld c d w)
    (v := { (s.core c).vec with
      vx := vxSets (s.core c).vec.vx [(d, loadLanes w ((s.core c).lmBytes a.toNat (32 * widthBytes w)))] })
    (f := fun k => k.vld s.aclk (s.coreStrike c) d w) h rfl hf
  refine ⟨s', hrun, honly, hregs, hlm, hrest, hdone, ?_⟩
  rw [← loadLanes_eq, Core.setsVx]
  simp only [Core.vx, hvec]
  exact ⟨get_vxSets _ (by simp) _ _, fun v hv => get_vxSets_other _ _ _ v hv⟩

theorem State.xload_issues {x : Fin 8} {img : Xs} (hfifo : (((s.core c).ag .vload).settle t).fifo = a :: rest)
    (h : s.vissues c [xreg x] t) (hal : a.toNat % 64 = 0) (hrange : a.toNat + 1088 ≤ 0x60000)
    (himg : xsOfImage ((s.core c).lmBytes a.toNat 1088) = img) :
    ∃ s', exec (.xload c x) s = .next s' ∧ s.onlyCore s' c ∧ (s.core c).sameRegs (s'.core c)
      ∧ (s'.core c).lm = (s.core c).lm ∧ (s'.core c).xs x = img
      ∧ (∀ y, y ≠ x → (s'.core c).xs y = (s.core c).xs y) ∧ ((s'.core c).ag .vload).fifo = rest := by
  have hf : (s.core c).xload s.aclk (s.coreStrike c) x = .ok t
      ((((s.core c).loadedFrom .vload t rest a.toNat 1088).withVec { (s.core c).vec with
        xs := Assoc.put {} (s.core c).vec.xs x.val img }).vdone t clsXI [xreg x]) := by
    rw [Core.xload, State.vissues.body h, Core.vaddr_good (n := 1088) _ hfifo hal hrange hdrains hwrites,
      Core.lmRead_unmarked hmarks]
    dsimp only
    rw [himg]
    rfl
  obtain ⟨s', hrun, honly, hregs, hlm, hrest, -, hvec⟩ := State.onInstr_vload (i := .xload c x)
    (v := { (s.core c).vec with xs := Assoc.put {} (s.core c).vec.xs x.val img })
    (f := fun k => k.xload s.aclk (s.coreStrike c) x) h rfl hf
  obtain ⟨hx, hothers⟩ := Core.xs_of_put (k := s.core c) (congrArg VectorEngine.xs hvec)
  exact ⟨s', hrun, honly, hregs, hlm, hx, hothers, hrest⟩

theorem State.xaddi_issues {x : Fin 8} {img : Xs} (hfifo : (((s.core c).ag .vload).settle t).fifo = a :: rest)
    (h : s.vissues c [xreg x] t) (hal : a.toNat % 64 = 0) (hrange : a.toNat + 1088 ≤ 0x60000)
    (himg : xsOfImage ((s.core c).lmBytes a.toNat 1088) = img) (hw : img.w = ((s.core c).xs x).w) :
    ∃ s', exec (.xaddi c x) s = .next s' ∧ s.onlyCore s' c ∧ (s.core c).sameRegs (s'.core c)
      ∧ (s'.core c).lm = (s.core c).lm ∧ (s'.core c).xs x = ((s.core c).xs x).addImage img
      ∧ (∀ y, y ≠ x → (s'.core c).xs y = (s.core c).xs y) := by
  have hf : (s.core c).xaddi s.aclk (s.coreStrike c) x = .ok t
      ((((s.core c).loadedFrom .vload t rest a.toNat 1088).withVec { (s.core c).vec with
        xs := Assoc.put {} (s.core c).vec.xs x.val (((s.core c).xs x).addImage img) }).vdone t clsXI [xreg x]) := by
    rw [Core.xaddi, State.vissues.body h, Core.vaddr_good (n := 1088) _ hfifo hal hrange hdrains hwrites,
      Core.lmRead_unmarked hmarks]
    dsimp only
    rw [himg, if_neg (not_not_intro hw)]
    rfl
  obtain ⟨s', hrun, honly, hregs, hlm, -, -, hvec⟩ := State.onInstr_vload (i := .xaddi c x)
    (v := { (s.core c).vec with xs := Assoc.put {} (s.core c).vec.xs x.val (((s.core c).xs x).addImage img) })
    (f := fun k => k.xaddi s.aclk (s.coreStrike c) x) h rfl hf
  obtain ⟨hx, hothers⟩ := Core.xs_of_put (k := s.core c) (congrArg VectorEngine.xs hvec)
  exact ⟨s', hrun, honly, hregs, hlm, hx, hothers⟩

end

/-! Stores (R109, R158, R163). -/

section
variable {s : State} {c : Nat} {t : Nat} {a : Word} {rest : List Word} (hmarks : (s.core c).lmErr = [])
  (hdrains : (s.core c).ope.drains = []) (hwrites : (s.core c).writes = [])

/-- The core after a vector store: the write done, the stream gone on, the write noted for later accesses. -/
def Core.storedVec (k : Core) (now t : Nat) (cls : VClass) (x n : Nat) : Core := (k.vdone t cls []).stored now t x n

theorem Core.storedVec_frame (k : Core) (now t : Nat) (cls : VClass) (x n : Nat) :
    k.sameRegs (k.storedVec now t cls x n) ∧ (k.storedVec now t cls x n).lm = k.lm
      ∧ (k.storedVec now t cls x n).ags = k.ags ∧ (k.storedVec now t cls x n).vec.vx = k.vec.vx
      ∧ (k.storedVec now t cls x n).vec.xs = k.vec.xs := by
  refine ⟨fun w r => ?_, rfl, rfl, rfl, rfl⟩
  have hdone : (k.vdone t cls []).reg w r = k.reg w r := by
    rw [Core.vdone, Core.reg_done]
    cases w <;> rfl
  rw [← hdone]
  cases w <;> rfl

/-- A vector store of bytes at an address. -/
theorem State.onInstr_vstore {regs : List Nat} (h : s.vissues c regs t) {i : Instr} {f : Core → CoreRes} {k2 : Core}
    {bs : List Byte} {now n : Nat} {cls : VClass}
    (hk2 : ((s.core c).tookAddr .vstore t rest).lmWrite a.toNat bs = some k2)
    (hf : f (s.core c) = .ok t (k2.storedVec now t cls a.toNat n)) :
    ∃ s', s.onInstr c .execute i f = .next s' ∧ s.onlyCore s' c ∧ (s.core c).sameRegs (s'.core c)
      ∧ (s'.core c).vec.vx = (s.core c).vec.vx ∧ (s'.core c).vec.xs = (s.core c).vec.xs
      ∧ ((s'.core c).ag .vstore).fifo = rest ∧ (s.core c).writesLm (s'.core c) a.toNat bs := by
  obtain ⟨s', hrun, honly, hcore, -⟩ := State.onInstr_core (i := i) h.1 hf
  obtain ⟨hregs, hlm, hags, hvx, hxs⟩ := k2.storedVec_frame now t cls a.toNat n
  have hframe := Core.lmWrite_frame hk2
  refine ⟨s', hrun, honly, ?_⟩
  rw [hcore]
  refine ⟨fun w r => (hregs w r).trans ?_, hvx.trans ?_, hxs.trans ?_, ?_, fun m => ?_⟩
  · rw [hframe]
    cases w <;> rfl
  · rw [hframe]
    rfl
  · rw [hframe]
    rfl
  · rw [Core.ag, hags, hframe]
    exact congrArg AddrStream.fifo (Core.ag_setAg (s.core c) .vstore
        { ((s.core c).ag .vstore).settle t with fifo := rest })
  · rw [hlm]
    exact Core.lmWrite_writesLm hk2 m

include hmarks in
/-- A write of a core without error marks is done. -/
theorem Core.lmWrite_unmarked (bs : List Byte) :
    ∃ k2, ((s.core c).tookAddr .vstore t rest).lmWrite a.toNat bs = some k2 :=
  Core.lmWrite_sound (Core.uncorrectable_unmarked (k := (s.core c).tookAddr .vstore t rest) hmarks _ _)

include hmarks hdrains hwrites

theorem State.vst_issues {d : Fin 32} {w : VWidth} (hfifo : (((s.core c).ag .vstore).settle t).fifo = a :: rest)
    (h : s.vissues c [vreg d] t) (hw : w ≠ .i16) (hw' : w ≠ .i8)
    (hal : a.toNat % (if widthBytes w = 1 then 32 else 64) = 0) (hrange : a.toNat + 32 * widthBytes w ≤ 0x60000) :
    ∃ s', exec (.vst c d w) s = .next s' ∧ s.onlyCore s' c ∧ (s.core c).sameRegs (s'.core c)
      ∧ (∀ v, (s'.core c).vx v = (s.core c).vx v) ∧ ((s'.core c).ag .vstore).fifo = rest
      ∧ (s.core c).writesLm (s'.core c) a.toNat
          (((s.core c).vx d).flatMap (fun l => leBytes (widthBytes w) l.toNat)) := by
  have hal' : a.toNat % vecAlign (32 * widthBytes w) = 0 := by
    cases w <;> exact hal
  obtain ⟨k2, hk2⟩ := Core.lmWrite_unmarked (c := c) (t := t) (a := a) (rest := rest) hmarks
    (((s.core c).vx d).flatMap (fun l => leBytes (widthBytes w) l.toNat))
  have hf : (s.core c).vst s.aclk (s.coreStrike c) d w =
      .ok t (k2.storedVec s.aclk t clsEL a.toNat (32 * widthBytes w)) := by
    have hstore : (w == VWidth.i16 || w == VWidth.i8) = false := by simp [hw, hw']
    rw [Core.vst, hstore]
    simp only [Bool.false_eq_true, if_false, State.vissues.body h]
    rw [Core.vaddr_good _ hfifo hal' hrange hdrains hwrites, hk2]
    rfl
  obtain ⟨s', hrun, honly, hregs, hvx, -, hrest, hlm⟩ := State.onInstr_vstore (i := .vst c d w)
    (f := fun k => k.vst s.aclk (s.coreStrike c) d w) h hk2 hf
  exact ⟨s', hrun, honly, hregs, fun v => by rw [Core.vx, hvx, Core.vx], hrest, hlm⟩

theorem State.xsave_issues {x : Fin 8} (hfifo : (((s.core c).ag .vstore).settle t).fifo = a :: rest)
    (h : s.vissues c [xreg x] t) (hal : a.toNat % 64 = 0) (hrange : a.toNat + 1088 ≤ 0x60000) :
    ∃ s', exec (.xsave c x) s = .next s' ∧ s.onlyCore s' c ∧ (s.core c).sameRegs (s'.core c)
      ∧ (s.core c).sameXs (s'.core c) ∧ (s.core c).writesLm (s'.core c) a.toNat ((s.core c).xs x).image := by
  obtain ⟨k2, hk2⟩ := Core.lmWrite_unmarked (c := c) (t := t) (a := a) (rest := rest) hmarks ((s.core c).xs x).image
  have hf : (s.core c).xsave s.aclk (s.coreStrike c) x = .ok t (k2.storedVec s.aclk t clsXI a.toNat 1088) := by
    rw [Core.xsave, State.vissues.body h, Core.vaddr_good (n := 1088) _ hfifo hal hrange hdrains hwrites, hk2]
    rfl
  obtain ⟨s', hrun, honly, hregs, -, hxs, -, hlm⟩ := State.onInstr_vstore (i := .xsave c x)
    (f := fun k => k.xsave s.aclk (s.coreStrike c) x) h hk2 hf
  exact ⟨s', hrun, honly, hregs, fun y => by rw [Core.xs, hxs, Core.xs], hlm⟩

end

theorem vectorLoadStore : Claims.VectorLoadStore := by
  intro s c d w x t a rest k hmarks hdrains hwrites hnow
  refine ⟨fun hfifo => ⟨fun h => State.vld_issues hmarks hdrains hwrites hfifo h, fun h hal hrange => ?_⟩,
    fun hfifo => ⟨fun h hw hw' _ => State.vst_issues hmarks hdrains hwrites hfifo h hw hw',
      fun h => State.xsave_issues hmarks hdrains hwrites hfifo h⟩⟩
  generalize himg : xsOfImage ((s.core c).lmBytes a.toNat 1088) = img
  refine ⟨State.xload_issues hmarks hdrains hwrites hfifo h hal hrange himg, fun hw => ?_⟩
  obtain ⟨s', hrun, honly, hregs, hlm, hx, hothers⟩ :=
    State.xaddi_issues hmarks hdrains hwrites hfifo h hal hrange himg hw
  refine ⟨s', hrun, honly, hregs, hlm, ?_, ?_, ?_, ?_, ?_, hothers⟩ <;> rw [hx]
  · intro i hi
    simp only [Xs.addImage, Assoc.get_mapRange, if_pos hi, k]
  · exact hw.symm
  · rfl
  · rfl
  · rfl

/-- Settles O13: one lemma each for a scalar result, for a load and for a store at a good address. -/
theorem vectorScalarsLoadsAndStores : Obligations.VectorScalarsLoadsAndStores :=
  ⟨vectorToScalar, vectorLoadStore⟩

end Sys2Proof.Machine
end

section
/-! PROOF. O14: the conversions of vector lanes, the exceptions of bad types, and the round trip of 8-bit floats. -/

namespace Sys2Proof.Machine

open Sys2Proof

theorem regOk_execute {g : Fin 32} (h : g.val < 16) : regOk .execute g = true := by
  simp [regOk, h]

theorem wordBits_low {w : Nat} (x : BitVec w) (n : Nat) : bits x 0 n = x.toNat % 2 ^ n := by
  simp [bits]

theorem lowByte_eq (x : Word) : bits x 0 8 = x.toNat % 256 := wordBits_low x 8

section
variable {s : State} {c : Nat} {d a g : Fin 32} {ty : EType} {t : Nat}

/-! The conversions that issue (R161). -/

theorem State.vcvt_issues (h : s.vissues c [vreg d, vreg a] t)
    (hty : ty ∈ [EType.e4m3, .e5m2, .bf16, .fp16, .int8, .int32]) :
    let cs := ((s.core c).vx a).map (fun x => (convert ty x).getD { code := 0 })
    ∃ s', exec (.vcvt c d a ty) s = .next s' ∧ (s.core c).sameRegs (s'.core c)
      ∧ vectorResult s s' c t clsVC [vreg d] [(d, cs.map (fun x => BitVec.ofNat 32 x.code))]
          (decide ((cs.filter (fun x => x.sat)).length ≠ 0)) (cs.any (fun x => x.nan))
          (if ty = .int8 ∨ ty = .int32 then (cs.filter (fun x => x.sat)).length else 0) := by
  intro cs
  have hlist : [EType.e4m3, .e5m2, .bf16, .fp16, .int8, .int32].contains ty = true := List.contains_iff_mem.2 hty
  have hint : (ty == .int8 || ty == .int32) = decide (ty = .int8 ∨ ty = .int32) := by cases ty <;> rfl
  refine State.onInstr_lanes (f := fun k => k.vcvt s.aclk (s.coreStrike c) d a ty) h (by simp) ?_
  show (s.core c).vcvt s.aclk (s.coreStrike c) d a ty = _
  rw [Core.vcvt, State.vissues.body h, hlist]
  simp only [hint, decide_eq_true_eq, Nat.pos_iff_ne_zero]
  rfl

theorem State.vext_issues (h : s.vissues c [vreg d, vreg a] t)
    (hty : ty ∈ [EType.e4m3, .e5m2, .int8, .bf16, .fp16, .mhi]) :
    let r := ((s.core c).vx a).map (fun x => widen ty (x.toNat % 2 ^ etypeBits ty))
    ∃ s', exec (.vext c d a ty) s = .next s' ∧ (s.core c).sameRegs (s'.core c)
      ∧ vectorResult s s' c t clsVC [vreg d] [(d, r)] false (r.any isNan32) 0 := by
  intro r
  have hlist : [EType.e4m3, .e5m2, .int8, .bf16, .fp16, .mhi].contains ty = true := List.contains_iff_mem.2 hty
  refine State.onInstr_lanes (f := fun k => k.vext s.aclk (s.coreStrike c) d a ty) h (by simp) ?_
  show (s.core c).vext s.aclk (s.coreStrike c) d a ty = _
  rw [Core.vext, State.vissues.body h, hlist]
  simp only [wordBits_low, VectorEngine.result, Bool.or_false, Counter.addN_zero]
  rfl

theorem State.vcvtMx_issues (hg : g.val < 16) (hty : isMx ty = true) (h : s.vissues c [vreg d, g.val, vreg a] t) :
    let b := mxBlock ty ((s.core c).vx a)
    ∃ s', exec (.vcvtMx c d g a ty) s = .next s'
      ∧ (s.core c).setsReg (s'.core c) .execute g (BitVec.ofNat 64 b.scale)
      ∧ vectorResult s s' c t clsVC [vreg d, g.val] [(d, b.elems.map
          (fun x => BitVec.ofNat 32 x.code))] b.sat b.nan 0 := by
  intro b
  obtain ⟨s', hrun, hregs, hresult⟩ := State.onInstr_vector (i := .vcvtMx c d g a ty)
    (f := fun k => k.vcvtMx s.aclk (s.coreStrike c) d g a ty) (cls := clsVC) (writes := [vreg d, g.val])
    (vs := [(d, b.elems.map (fun x => BitVec.ofNat 32 x.code))]) (sat := b.sat) (inv := b.nan) (count := 0)
    (gr := Assoc.put 0 (s.core c).exe.gr g.val (BitVec.ofNat 64 b.scale)) h (by simp) (by
      rw [Core.vcvtMx, regOk_execute hg, State.vissues.body h, hty]
      rfl)
  exact ⟨s', hrun, Core.setsReg_onVector _ _ _ _ hregs, hresult⟩

theorem State.vextMx_issues (hg : g.val < 16) (hty : isMx ty = true) (h : s.vissues c [vreg d, vreg a, g.val] t) :
    let r := ((s.core c).vx a).map (fun x =>
      widenMx ty (x.toNat % 2 ^ etypeBits ty) (((s.core c).reg .execute g).toNat % 256))
    ∃ s', exec (.vextMx c d a g ty) s = .next s' ∧ (s.core c).sameRegs (s'.core c)
      ∧ vectorResult s s' c t clsVC [vreg d] [(d, r.map Prod.fst)] (r.any Prod.snd)
          ((r.map Prod.fst).any isNan32) 0 := by
  intro r
  refine State.onInstr_lanes (f := fun k => k.vextMx s.aclk (s.coreStrike c) d a g ty) h (by simp) ?_
  show (s.core c).vextMx s.aclk (s.coreStrike c) d a g ty = _
  rw [Core.vextMx, regOk_execute hg, State.vissues.body h, hty]
  simp only [wordBits_low, Core.noteConv, Core.noteNan, Bool.or_false]
  rfl

theorem State.vcvtBfx_issues (hg : g.val < 16) (h : s.vissues c [vreg d, vreg a, g.val] t)
    (hbx : ((s.core c).reg .execute g).toNat % 256 ≠ 255) :
    let cs := ((s.core c).vx a).map (fun x => toBfx x (((s.core c).reg .execute g).toNat % 256))
    ∃ s', exec (.vcvtBfx c d a g) s = .next s' ∧ (s.core c).sameRegs (s'.core c)
      ∧ vectorResult s s' c t clsVC [vreg d] [(d, cs.map (fun x => BitVec.ofNat 32 x.code))]
          (decide ((cs.filter (fun x => x.sat)).length ≠ 0)) (cs.any (fun x => x.nan))
          (cs.filter (fun x => x.sat)).length := by
  intro cs
  refine State.onInstr_lanes (f := fun k => k.vcvtBfx s.aclk (s.coreStrike c) d a g) h (by simp) ?_
  show (s.core c).vcvtBfx s.aclk (s.coreStrike c) d a g = _
  rw [Core.vcvtBfx, regOk_execute hg, State.vissues.body h, lowByte_eq]
  simp only [hbx, if_false, Nat.pos_iff_ne_zero]
  rfl

/-! The conversions that raise ILLEGAL (R161). -/

/-- An instruction of the execute stream that raises when it issues. -/
theorem State.onInstr_illegal {regs : List Nat} (h : s.vissues c regs t) {i : Instr} {f : Core → CoreRes}
    (hf : f (s.core c) = (s.core c).raise .execute excIllegal) :
    s.onInstr c .execute i f =
      .next ((s.setCore c (s.core c)).coreExc c 1 .execute (s.core c).exe.pc 0) :=
  State.onInstr_exc h.1 hf

end

theorem vectorConvertResult : Claims.VectorConvertResult := by
  intro s c d a g ty t hg k conv codes sats
  refine ⟨fun h => ⟨fun hty => State.vcvt_issues h hty, fun hty => State.vext_issues h hty⟩,
    fun hty => ⟨fun h => State.vcvtMx_issues hg hty h, fun h => State.vextMx_issues hg hty h⟩,
    fun h hbx => State.vcvtBfx_issues hg h hbx⟩

theorem badConversionRaises : Claims.BadConversionRaises := by
  intro s c d a g ty t hg out
  refine ⟨fun h => ⟨fun hty => State.onInstr_illegal h ?_, fun hty => State.onInstr_illegal h ?_⟩,
    fun hty => ⟨fun h => State.onInstr_illegal h ?_, fun h => State.onInstr_illegal h ?_⟩,
    fun h hbx => State.onInstr_illegal h ?_⟩
  · have hlist := mt List.contains_iff_mem.1 hty
    rw [Core.vcvt, State.vissues.body h, Bool.eq_false_of_not_eq_true hlist]
    rfl
  · have hlist := mt List.contains_iff_mem.1 hty
    rw [Core.vext, State.vissues.body h, Bool.eq_false_of_not_eq_true hlist]
    rfl
  · rw [Core.vcvtMx, regOk_execute hg, State.vissues.body h, hty]
    rfl
  · rw [Core.vextMx, regOk_execute hg, State.vissues.body h, hty]
    rfl
  · rw [Core.vcvtBfx, regOk_execute hg, State.vissues.body h, lowByte_eq]
    simp only [hbx]
    rfl

/-! The round trip (R80, R82, R161): 256 codes for each of the two types, evaluated. -/

theorem convert_widen_e4m3 : ∀ n < 256, (decodeEl .e4m3 n).isNan = false → (decodeEl .e4m3 n).isInf = false →
    convert .e4m3 (widen .e4m3 n) = some { code := n } := by
  decide +kernel

theorem convert_widen_e5m2 : ∀ n < 256, (decodeEl .e5m2 n).isNan = false → (decodeEl .e5m2 n).isInf = false →
    convert .e5m2 (widen .e5m2 n) = some { code := n } := by
  decide +kernel

theorem narrowFloatsRoundTrip : Claims.NarrowFloatsRoundTrip := by
  intro ty hty
  simp only [List.mem_cons, List.not_mem_nil, or_false] at hty
  rcases hty with rfl | rfl
  · exact convert_widen_e4m3
  · exact convert_widen_e5m2

/-- Settles O14: each conversion by what it puts into the vector engine; the round trip by evaluating every code. -/
theorem vectorConversions : Obligations.VectorConversions :=
  ⟨vectorConvertResult, badConversionRaises, narrowFloatsRoundTrip⟩

end Sys2Proof.Machine
end

section
/-! PROOF. O16: exact sums. A term adds a fixed amount and raises fixed flags, and lanes join as a commutative monoid.
-/

namespace Sys2Proof.Machine

open Sys2Proof

/-- What a term adds, and the flags it raises, do not depend on the sum it meets (R88). -/
theorem exactAdd_eq (w : Int) (n : BitVec 256) (x : Fl) :
    exactAdd w n x = (n + (exactAdd w 0 x).1, (exactAdd w 0 x).2) := by
  cases x with
  | nan => simp [exactAdd]
  | inf _ => simp [exactAdd]
  | fin sg m e =>
    simp only [exactAdd]
    split_ifs <;> simp

/-- The lane of one term. -/
def ExactLane.ofTerm (w : Int) (x : Fl) : ExactLane := ExactLane.plus w {} x

theorem ExactLane.plus_eq (w : Int) (l : ExactLane) (x : Fl) : l.plus w x = l.join (ExactLane.ofTerm w x) := by
  simp only [ExactLane.plus, ExactLane.ofTerm, ExactLane.join, exactAdd_eq w l.n x, Bool.false_or]

@[simp] theorem ExactLane.empty_join (a : ExactLane) : ExactLane.join {} a = a := by
  simp [ExactLane.join]

@[simp] theorem ExactLane.join_empty (a : ExactLane) : a.join {} = a := by
  simp [ExactLane.join]

theorem ExactLane.join_assoc (a b c : ExactLane) : (a.join b).join c = a.join (b.join c) := by
  simp only [ExactLane.join, BitVec.add_assoc, Bool.or_assoc]

/-! Lists of lanes joined in order. -/

/-- The lanes of a list joined into one. -/
def joinAll (ls : List ExactLane) : ExactLane := ls.foldl ExactLane.join {}

theorem foldl_join (ls : List ExactLane) (a : ExactLane) : ls.foldl ExactLane.join a = a.join (joinAll ls) := by
  induction ls generalizing a with
  | nil => exact a.join_empty.symm
  | cons l ls ih => rw [joinAll, List.foldl_cons, List.foldl_cons, ih, ih, ExactLane.empty_join, ExactLane.join_assoc]

theorem joinAll_append (ls ms : List ExactLane) : joinAll (ls ++ ms) = (joinAll ls).join (joinAll ms) := by
  rw [joinAll, List.foldl_append, foldl_join]
  rfl

theorem joinAll_singleton (l : ExactLane) : joinAll [l] = l := ExactLane.empty_join l

/-! The order of the terms. -/

theorem foldl_exactAdd_perm (w : Int) {ts us : List Fl} (h : ts.Perm us) (n : BitVec 256 × Bool × Bool × Bool) :
    ts.foldl (fun (n : BitVec 256 × Bool × Bool × Bool) x =>
        ((exactAdd w n.1 x).1, n.2.1 || (exactAdd w n.1 x).2.1, n.2.2.1 || (exactAdd w n.1 x).2.2.1,
          n.2.2.2 || (exactAdd w n.1 x).2.2.2)) n
      = us.foldl (fun (n : BitVec 256 × Bool × Bool × Bool) x =>
        ((exactAdd w n.1 x).1, n.2.1 || (exactAdd w n.1 x).2.1, n.2.2.1 || (exactAdd w n.1 x).2.2.1,
          n.2.2.2 || (exactAdd w n.1 x).2.2.2)) n := by
  refine h.foldl_eq' (fun x _ y _ z => ?_) n
  simp only [exactAdd_eq w (_ + _) _, exactAdd_eq w z.1 _, add_right_comm, Bool.or_right_comm]

/-! The number of parts (R90). -/

/-- The lane that chunk j of a reduction gives. -/
def chunkLane (comp : Bool) (term : Nat → Fl) (w : Int) (k c j : Nat) : ExactLane :=
  let p := accumulated comp term (chunkSteps k c j)
  ExactLane.ofTerm w (partialTerm p.s p.f)

section
variable (comp : Bool) (term : Nat → Fl) (w : Int) (k c : Nat)

theorem exactChunks_eq (r : Nat × Nat) : exactChunks comp term w k c r =
    joinAll (((List.range (r.2 - r.1)).map (· + r.1)).map (chunkLane comp term w k c)) := by
  rw [exactChunks, joinAll, List.foldl_map (f := chunkLane comp term w k c)]
  simp only [ExactLane.plus_eq]
  rfl

/-- The chunks before a range of chunks, joined with those of the range. -/
theorem joinAll_range_join_exactChunks {a b : Nat} (h : a ≤ b) :
    (joinAll ((List.range a).map (chunkLane comp term w k c))).join (exactChunks comp term w k c (a, b)) =
      joinAll ((List.range b).map (chunkLane comp term w k c)) := by
  obtain ⟨n, rfl⟩ := Nat.exists_eq_add_of_le h
  rw [exactChunks_eq, ← joinAll_append, List.range_add, List.map_append, Nat.add_sub_cancel_left]
  simp only [Nat.add_comm a]

/-- The parts before part m hold the chunks before m's first. -/
theorem foldl_join_parts (parts m : Nat) :
    ((List.range m).map (fun p => exactChunks comp term w k c (partChunks (chunkCount k c) parts p))).foldl
        ExactLane.join {} =
      joinAll ((List.range (m * chunkCount k c / parts)).map (chunkLane comp term w k c)) := by
  induction m with
  | zero => simp [joinAll]
  | succ m ih =>
    have hle : m * chunkCount k c / parts ≤ (m + 1) * chunkCount k c / parts :=
      Nat.div_le_div_right (Nat.mul_le_mul_right _ (Nat.le_succ m))
    rw [List.range_succ, List.map_append, List.foldl_append, ih]
    exact joinAll_range_join_exactChunks comp term w k c hle

theorem exactReduction_eq {parts : Nat} (h : 0 < parts) : exactReduction comp term w k c parts =
    joinAll ((List.range (chunkCount k c)).map (chunkLane comp term w k c)) := by
  rw [exactReduction, foldl_join_parts, Nat.mul_div_cancel_left _ h]

end

/-- Settles O16: a permutation of the terms, and a split of their range, of sums that commute. -/
theorem exactSumOrderFree : Obligations.ExactSumOrderFree :=
  ⟨fun w _ _ h => foldl_exactAdd_perm w h _, fun comp term w k c parts h => by
    rw [exactReduction_eq comp term w k c h, exactReduction_eq comp term w k c Nat.one_pos]⟩

end Sys2Proof.Machine
end

section
/-! PROOF. O17: the exact-sum instructions and the full-width partials. -/

namespace Sys2Proof.Machine

open Sys2Proof

/-! What an instruction that writes one exact sum, and perhaps vector registers, leaves. -/

/-- A vector engine with one exact sum and some vector registers written. -/
def VectorEngine.withXs (v : VectorEngine) (x : Fin 8) (xs : Xs) (vs : List (Fin 32 × List Lane)) : VectorEngine :=
  { v with xs := Assoc.put {} v.xs x.val xs, vx := vxSets v.vx vs }

/-- From core k to core k': exact sum x written, vector registers vs written, and no other register or byte of local
memory. -/
structure Core.SetsXs (k k' : Core) (x : Fin 8) (v : Xs) (vs : List (Fin 32 × List Lane)) : Prop where
  regs : k.sameRegs k'
  vstat : k.sameVstat k'
  others : ∀ y, y ≠ x → k'.xs y = k.xs y
  lm : k'.lm = k.lm
  sum : k'.xs x = v
  lanes : k.setsVx k' vs

section
variable {s : State} {c : Nat} {regs : List Nat} {t : Nat} (h : s.vissues c regs t) {i : Instr} {f : Core → CoreRes}
  {cls : VClass} {writes : List Nat} {x : Fin 8} {v : Xs} {vs : List (Fin 32 × List Lane)}
include h

theorem State.onInstr_setsXs (hnodup : (vs.map Prod.fst).Nodup)
    (hf : f (s.core c) = .ok t ((s.core c).vectored (s.core c).exe.gr ((s.core c).vec.withXs x v vs) t cls writes)) :
    ∃ s', s.onInstr c .execute i f = .next s' ∧ s.onlyCore s' c ∧ (s.core c).SetsXs (s'.core c) x v vs := by
  obtain ⟨s', hrun, honly, hcore, -⟩ := State.onInstr_core (i := i) h.1 hf
  obtain ⟨hsum, hothers⟩ := Core.xs_of_put (k := s.core c) (k' := s'.core c) (x := x) (v := v) (by rw [hcore]; rfl)
  refine ⟨s', hrun, honly, ?_, ?_, hothers, ?_, hsum, ?_⟩
  · rw [hcore]
    intro w r
    exact (Core.vectored_reg ..).trans (by cases w <;> rfl)
  · rw [hcore]
    exact ⟨rfl, rfl, rfl⟩
  · rw [hcore]
    rfl
  · rw [hcore]
    exact ⟨get_vxSets vs hnodup _ _, fun u hu => get_vxSets_other vs _ _ u hu⟩

end

theorem Core.SetsXs.vx_eq {k k' : Core} {x : Fin 8} {v : Xs} (h : k.SetsXs k' x v []) (r : Fin 32) : k'.vx r = k.vx r :=
  h.lanes.2 r (by simp)

/-! `xclr` (R87). -/

theorem signed_truncate (x : Word) : ((x.truncate 16 : BitVec 16)).toInt = signed 16 x.toNat := by
  rw [← signed_toNat _ (by decide)]
  simp [signed]

/-! One term for every lane (R88). -/

section
variable (v : Xs) (free : Nat) (ts : List Fl)

/-- What one lane makes of its term. -/
def Xs.laneAdd (i : Nat) : BitVec 256 × Bool × Bool × Bool := exactAdd v.w (Assoc.get 0 v.n i) (ts.getD i .nan)

theorem Xs.addTerms_eq : v.addTerms free ts = { v with
    n := Assoc.mapRange 0 32 (fun i _ => if 2 ^ 55 ≤ v.terms + 1 then Config.freeWide (free + i)
      else (((List.range 32).map (v.laneAdd ts)).getD i (0, false, false, false)).1) v.n
    low := v.low || (List.range 32).any (fun i => (v.laneAdd ts i).2.1)
    high := v.high || (List.range 32).any (fun i => (v.laneAdd ts i).2.2.1)
    inv := v.inv || (List.range 32).any (fun i => (v.laneAdd ts i).2.2.2)
    terms := v.terms + 1 } := by
  simp only [Xs.addTerms, List.any_map]
  rfl

theorem Xs.addTerms_n (hterms : v.terms + 1 < 2 ^ 55) {i : Nat} (hi : i < 32) :
    Assoc.get 0 (v.addTerms free ts).n i = (v.laneAdd ts i).1 := by
  rw [Xs.addTerms_eq]
  simp only [Assoc.get_mapRange, if_pos hi, if_neg (Nat.not_le.2 hterms)]
  simp [List.getD, hi]

theorem or_any_range {b : Bool} {p : Nat → Bool} {n : Nat} :
    (b || (List.range n).any p) = true ↔ b = true ∨ ∃ i, i < n ∧ p i = true := by
  simp

end

/-- A free value consumed changes neither the core nor what else a step changed. -/
theorem State.withFree_next (s t : State) : s.withFree (.next t) = .next { t with free := s.free + 32 } := rfl

theorem exactSumAdds {s : State} {c : Nat} {x : Fin 8} {t : Nat} {regs : List Nat} {ts : List Fl} {i : Instr}
    (h : s.vissues c regs t) (hterms : ((s.core c).xs x).terms + 1 < 2 ^ 55) {cls : VClass} {f : Core → CoreRes}
    (hrun : exec i s = s.withFree (s.onInstr c .execute i f))
    (hf : f (s.core c) = .ok t (((s.core c).setXs x (((s.core c).xs x).addTerms s.free ts)).vdone t cls [xreg x])) :
    let k := s.core c
    let add := ((s.core c).xs x).laneAdd ts
    ∃ s', exec i s = .next s' ∧ s' = { s with cores := s'.cores, aclk := s'.aclk, free := s'.free }
      ∧ (∀ e, e ≠ c → s'.core e = s.core e)
      ∧ (k.sameRegs (s'.core c) ∧ k.sameVstat (s'.core c) ∧ (∀ y, y ≠ x → (s'.core c).xs y = k.xs y)
        ∧ (s'.core c).lm = k.lm)
      ∧ (∀ r, (s'.core c).vx r = k.vx r)
      ∧ (∀ i, i < 32 → Assoc.get 0 ((s'.core c).xs x).n i = (add i).1)
      ∧ ((s'.core c).xs x).w = (k.xs x).w ∧ ((s'.core c).xs x).terms = (k.xs x).terms + 1
      ∧ (((s'.core c).xs x).low = true ↔ (k.xs x).low = true ∨ ∃ i, i < 32 ∧ (add i).2.1 = true)
      ∧ (((s'.core c).xs x).high = true ↔ (k.xs x).high = true ∨ ∃ i, i < 32 ∧ (add i).2.2.1 = true)
      ∧ (((s'.core c).xs x).inv = true ↔ (k.xs x).inv = true ∨ ∃ i, i < 32 ∧ (add i).2.2.2 = true) := by
  intro k add
  obtain ⟨s', hnext, ⟨hframe, hcores⟩, hsets⟩ := State.onInstr_setsXs (i := i) (x := x) (vs := []) h (by simp) hf
  have hcore : ∀ e, ({ s' with free := s.free + 32 } : State).core e = s'.core e := fun _ => rfl
  refine ⟨{ s' with free := s.free + 32 }, by rw [hrun, hnext]; rfl, by rw [hframe], fun e he =>
      (hcore e).trans (hcores e he), ?_⟩
  rw [hcore, hsets.sum]
  refine ⟨⟨hsets.regs, hsets.vstat, hsets.others, hsets.lm⟩, hsets.vx_eq, fun i hi => Xs.addTerms_n _ _ _ hterms hi, ?_⟩
  rw [Xs.addTerms_eq]
  exact ⟨rfl, rfl, or_any_range, or_any_range, or_any_range⟩

/-! Readouts (R89). -/

theorem Xs.readout_kept (v : Xs) : v.readout.2.n = v.n ∧ v.readout.2.w = v.w := by
  unfold Xs.readout
  split_ifs <;> exact ⟨rfl, rfl⟩

theorem exactSumInstructions : Claims.ExactSumInstructions := by
  intro s c x t k rest add
  refine ⟨fun w hw h => ?_, fun a f hterms row hrow h => ?_, fun d f hdf row hrow h => ?_⟩
  · intro v
    have hv : v = signed 16 ((s.core c).src .execute w).toNat := signed_truncate _
    refine ⟨fun hrange => ?_, fun hrange => ?_⟩
    · obtain ⟨s', hrun, honly, hsets⟩ := State.onInstr_setsXs (i := .xclr c x w) (x := x) (v := { w := v }) (vs := [])
        (f := fun k => k.xclr s.aclk (s.coreStrike c) x w) (cls := clsXA) (writes := [xreg x]) h (by simp) (by
          rw [hv] at hrange
          rw [Core.xclr, hw, State.vissues.body h]
          simp only [Bool.not_true, Bool.false_eq_true, if_false]
          rw [if_neg (by omega), ← hv]
          rfl)
      exact ⟨s', hrun, honly, ⟨hsets.regs, hsets.vstat, hsets.others, hsets.lm⟩, hsets.sum, hsets.vx_eq⟩
    · refine State.onInstr_illegal (i := .xclr c x w) (f := fun k => k.xclr s.aclk (s.coreStrike c) x w) h ?_
      rw [hv] at hrange
      show (s.core c).xclr s.aclk (s.coreStrike c) x w = _
      rw [Core.xclr, hw, State.vissues.body h]
      exact if_pos hrange
  · simp only [List.mem_cons, List.not_mem_nil, or_false] at hrow
    rcases hrow with rfl | rfl
    · exact exactSumAdds (cls := clsXA) (f := fun k => k.xadd s.aclk (s.coreStrike c) s.free x a) h hterms rfl
        (by rw [Core.xadd, State.vissues.body h])
    · exact exactSumAdds (cls := clsXP) (f := fun k => k.xaddp s.aclk (s.coreStrike c) s.free x a f) h hterms rfl
        (by rw [Core.xaddp, State.vissues.body h])
  · obtain ⟨hn, hw⟩ := (k.xs x).readout_kept
    simp only [List.mem_cons, List.not_mem_nil, or_false] at hrow
    rcases hrow with rfl | rfl
    · obtain ⟨s', hrun, honly, hsets⟩ := State.onInstr_setsXs (i := .xrd c d x) (x := x) (v := (k.xs x).readout.2)
        (vs := [(d, (k.xs x).readout.1.map (fun p => p.s))]) (f := fun k => k.xrd s.aclk (s.coreStrike c) d x)
        (cls := clsXR) (writes := [vreg d, xreg x]) h (by simp) (by rw [Core.xrd, State.vissues.body h]; rfl)
      exact ⟨s', hrun, honly, ⟨hsets.regs, hsets.vstat, hsets.others, hsets.lm⟩, hsets.lanes, by rw [hsets.sum, hn],
        by rw [hsets.sum, hw]⟩
    · obtain ⟨s', hrun, honly, hsets⟩ := State.onInstr_setsXs (i := .xrdp c d f x) (x := x) (v := (k.xs x).readout.2)
        (vs := [(d, (k.xs x).readout.1.map (fun p => p.s)), (f, (k.xs x).readout.1.map (fun p => p.f.signExtend 32))])
        (f := fun k => k.xrdp s.aclk (s.coreStrike c) d f x)
        (cls := clsXR) (writes := [vreg d, vreg f, xreg x]) h (by simp [hdf])
        (by rw [Core.xrdp, State.vissues.body h]; rfl)
      exact ⟨s', hrun, honly, ⟨hsets.regs, hsets.vstat, hsets.others, hsets.lm⟩, hsets.lanes, by rw [hsets.sum, hn],
        by rw [hsets.sum, hw]⟩

/-! Full-width partials (R77, R84, R162). -/

theorem partialInstructions : Claims.PartialInstructions := by
  intro s c a f b g d t k
  refine ⟨fun haf h => ?_, fun h => ?_⟩
  · refine State.onInstr_lanes (f := fun k => k.vpadd s.aclk (s.coreStrike c) a f b g) h (by simp [haf]) ?_
    show (s.core c).vpadd s.aclk (s.coreStrike c) a f b g = _
    rw [Core.vpadd, State.vissues.body h]
    simp only [Core.noteConv, Core.noteNan, followerLanes, List.map_map, Bool.or_false]
    rfl
  · refine State.onInstr_lanes (f := fun k => k.vpfold s.aclk (s.coreStrike c) d a f) h (by simp) ?_
    show (s.core c).vpfold s.aclk (s.coreStrike c) d a f = _
    rw [Core.vpfold, State.vissues.body h]
    simp only [Core.noteConv, Core.noteNan, Bool.or_false]
    rfl

/-- Settles O17: the exact-sum register each instruction leaves, and the lanes of a partial. -/
theorem exactSumsAndPartials : Obligations.ExactSumsAndPartials :=
  ⟨exactSumInstructions, partialInstructions⟩

end Sys2Proof.Machine
end

section
/-! PROOF. What the shared operations of the module's registers and logs change, for the obligations of the module. -/

namespace Sys2Proof.Machine

open Sys2Proof

section
variable (s : State)

/-! The module log and the status bits. -/

theorem Sc.has_event (x : Sc) (b : Nat) : (x.event b).has b = true := by
  simp [Sc.event, Sc.has]

/-- A record in the module log changes the logs alone. -/
theorem State.mlog_frame (r : Rec) : s.mlog r = { s with logs := (s.mlog r).logs } := rfl

theorem State.mlog_mcount (r : Rec) : (s.mlog r).logs.mcount = s.logs.mcount.tick := rfl

theorem State.mlog_record (r : Rec) :
    Assoc.get { type := 0 } (s.mlog r).logs.mlog (s.logs.mcount.n.toNat % 4096) = r :=
  Assoc.get_set_same ..

theorem State.refuseWrite_frame (o : Origin) (a : Nat) (v : Word) :
    s.refuseWrite o a v = { s with logs := (s.refuseWrite o a v).logs } := rfl

theorem State.refuseWrite_mcount (o : Origin) (a : Nat) (v : Word) :
    (s.refuseWrite o a v).logs.mcount = s.logs.mcount.tick := rfl

theorem State.refuseWrite_record (o : Origin) (a : Nat) (v : Word) :
    (Assoc.get { type := 0 } (s.refuseWrite o a v).logs.mlog (s.logs.mcount.n.toNat % 4096)).type = 0x35 :=
  congrArg Rec.type (Assoc.get_set_same ..)

end

/-! A map with one value replaced. -/

theorem Assoc.put_reads {α : Type} [DecidableEq α] (d : α) (m : Assoc α) (n : Nat) (v : α) :
    Assoc.get d (Assoc.put d m n v) n = v ∧ ∀ k, k ≠ n → Assoc.get d (Assoc.put d m n v) k = Assoc.get d m k :=
  ⟨Assoc.get_put_same .., fun _ hk => Assoc.get_put_other _ _ _ fun h => hk h⟩

end Sys2Proof.Machine
end

section
/-! PROOF. O42: clock nodes. -/

namespace Sys2Proof.Machine

open Sys2Proof

section
variable (s : State) (k : Nat)

/-- A die woken by an ungated node: resets and boot change, and nothing else. -/
theorem State.ungated_frame :
    s.ungated k = { s with resets := (s.ungated k).resets, boot := (s.ungated k).boot } := by
  unfold State.ungated
  dsimp only
  split_ifs <;> rfl

/-! What a refused write of a node means (R368 to R370, R372). -/

theorem State.nodeRefusal_same : s.nodeRefusal k (s.node k).gate (s.node k).srcReg = none := by
  simp [State.nodeRefusal]

variable {s k} {gate src : Bool}

theorem State.nodeRefusal_both (hg : gate ≠ (s.node k).gate) (hs : src ≠ (s.node k).srcReg) :
    s.nodeRefusal k gate src = some 5 := by
  simp [State.nodeRefusal, hg, hs]

/-- A write that changes the gate alone. -/
theorem State.nodeRefusal_gate (hg : gate ≠ (s.node k).gate) :
    s.nodeRefusal k gate (s.node k).srcReg =
      if s.dieOn (dieOfNode k) = false then some 6
      else if gate = false then none
      else if s.childInUse k = true then some 1
      else if gateable k = false then some 2
      else if (s.node k).switching.isSome = true then some 8
      else none := by
  simp [State.nodeRefusal, hg]

/-- A write that changes the source alone. -/
theorem State.nodeRefusal_source (hs : src ≠ (s.node k).srcReg) :
    s.nodeRefusal k (s.node k).gate src =
      if s.dieOn (dieOfNode k) = false then some 6
      else if switchable k = false then some 3
      else if src = false ∧ s.locked k = false then some 4
      else if s.clock.monEn && s.clock.monNode = k && tooFast (s.nodeKhz k src) s.clock.monDiv then some 7
      else if (s.node k).switching.isSome = true then some 8
      else none := by
  simp [State.nodeRefusal, hs]

end

theorem clockRefusals : Claims.ClockRefusals := by
  intro s k gate src n
  refine ⟨State.nodeRefusal_both, fun hone hoff => ?_, fun hg hn hs hnone => ?_, fun hg hs hnone => ?_⟩
  · by_cases hg : gate = n.gate
    · have hs : src ≠ n.srcReg := by
        intro hs
        simp [hg, hs] at hone
      rw [hg, State.nodeRefusal_source hs, if_pos hoff]
    · have hs : src = n.srcReg := by
        by_contra hs
        simp [hg, hs] at hone
      rw [hs, State.nodeRefusal_gate hg, if_pos hoff]
  · subst hg hs
    rw [State.nodeRefusal_gate (by rw [hn]; decide)] at hnone
    rw [if_neg (by decide : ¬true = false)] at hnone
    split_ifs at hnone with hoff hchild hgate hswitch
    exact ⟨by simpa using hgate, by simpa using hchild, by simpa using hswitch⟩
  · subst hg
    rw [State.nodeRefusal_source hs] at hnone
    split_ifs at hnone with hoff hswitchable hlock hmon hswitch
    exact ⟨by simpa using hswitchable, fun h => by simpa [h] using hlock, by simpa using hswitch⟩

/-! The writes (R368 to R370). -/

section
variable {s : State} {o : Origin} {k : Fin 64} {v : BitVec 64}

/-- The three rows of CLK_NODE are one register. -/
theorem exec_clkWrites (h : s.regOpen o (clkAddr k.val) true) {c : Instr} (hc : c ∈ clkWrites o k v) :
    exec c s = .next ((s.putNode o k.val v).respond .done) := by
  have hrun : exec c s = .next (s.onWrite o (clkAddr k.val) (fun s => s.putNode o k.val v)) := by
    simp only [clkWrites, List.mem_cons, List.not_mem_nil, or_false] at hc
    rcases hc with rfl | rfl | rfl <;> rfl
  rw [hrun, State.onWrite_open s o _ _ h]

theorem State.putNode_refused {r : Nat} (h : s.nodeRefusal k.val (v.getLsbD 0) (v.getLsbD 1) = some r) :
    s.putNode o k.val v = s.clockRefused o (clkAddr k.val) v k.val r := by
  simp only [State.putNode, bit, h]

theorem State.putNode_gate (h : s.nodeRefusal k.val (v.getLsbD 0) (v.getLsbD 1) = none)
    (hg : v.getLsbD 0 ≠ (s.node k.val).gate) :
    s.putNode o k.val v = (s.setNode k.val (if (s.node k.val).switching.isSome then
      { s.node k.val with heldUngate := true } else { s.node k.val with gate := v.getLsbD 0 })).ungated k.val := by
  unfold State.putNode
  simp only [bit, h]
  exact if_pos (bne_iff_ne.2 hg)

theorem State.putNode_source (h : s.nodeRefusal k.val (v.getLsbD 0) (v.getLsbD 1) = none)
    (hg : v.getLsbD 0 = (s.node k.val).gate) (hs : v.getLsbD 1 ≠ (s.node k.val).srcReg) :
    s.putNode o k.val v = s.setNode k.val { s.node k.val with switching := some (v.getLsbD 1) } := by
  unfold State.putNode
  simp only [bit, h]
  exact (if_neg (fun hn => bne_iff_ne.1 hn hg)).trans (if_pos (bne_iff_ne.2 hs))

theorem State.putNode_same (hg : v.getLsbD 0 = (s.node k.val).gate) (hs : v.getLsbD 1 = (s.node k.val).srcReg) :
    s.putNode o k.val v = s := by
  have h : s.nodeRefusal k.val (v.getLsbD 0) (v.getLsbD 1) = none := by rw [hg, hs, State.nodeRefusal_same]
  unfold State.putNode
  simp only [bit, h]
  exact (if_neg (fun hn => bne_iff_ne.1 hn hg)).trans (if_neg (fun hn => bne_iff_ne.1 hn hs))

/-- A node replaced, and its die woken where it may: nothing else of what the claims look at changes. -/
theorem State.setNode_ungated (n : ClockNode) :
    ((s.setNode k.val n).ungated k.val).node k.val = n
      ∧ (∀ j, j ≠ k.val → ((s.setNode k.val n).ungated k.val).node j = s.node j)
      ∧ ((s.setNode k.val n).ungated k.val).mem = s.mem ∧ ((s.setNode k.val n).ungated k.val).power = s.power
      ∧ ((s.setNode k.val n).ungated k.val).cores = s.cores := by
  rw [State.ungated_frame]
  exact ⟨s.node_setNode k.val n, fun _ => s.node_setNode_other n, rfl, rfl, rfl⟩

end

theorem clockNodeWrites : Claims.ClockNodeWrites := by
  intro s o k v n after
  refine ⟨fun h c hc => ?_, fun t ht => ?_⟩
  · rw [exec_clkWrites h hc]
    refine ⟨fun r hr => ?_, fun hnone hidle => ⟨fun hg => ?_, fun hg hs => ?_⟩, fun hg hs =>
        ?_, fun hgated hv hs hswitch hon => ?_⟩
    · rw [State.putNode_refused hr]
      exact ⟨_, rfl, ⟨rfl, fun _ _ => rfl, rfl, rfl, rfl⟩, rfl, rfl, Sc.has_event _ _, rfl⟩
    · have hidle' : (s.node k.val).switching.isSome = false := by rw [hidle]; rfl
      rw [State.putNode_gate hnone hg, hidle']
      exact ⟨_, rfl, State.setNode_ungated _⟩
    · have hreg : n.srcReg = n.src := by rw [ClockNode.srcReg, hidle]; rfl
      rw [State.putNode_source hnone hg (by rw [hreg]; exact hs)]
      exact ⟨_, rfl, s.node_setNode k.val _, fun _ => s.node_setNode_other _, rfl, rfl, rfl⟩
    · rw [State.putNode_same hg hs]
      exact ⟨_, rfl, ⟨rfl, fun _ _ => rfl, rfl, rfl, rfl⟩, rfl, rfl⟩
    · have hg : v.getLsbD 0 ≠ n.gate := by rw [hgated, hv]; decide
      have hnone : s.nodeRefusal k.val (v.getLsbD 0) (v.getLsbD 1) = none := by
        rw [hs, State.nodeRefusal_gate hg, hon, hv]
        rfl
      rw [State.putNode_gate hnone hg, if_pos hswitch]
      exact ⟨_, rfl, State.setNode_ungated _⟩
  · have hrun : exec (.clockSwitchEnd k) s = s.happens (n.switching.map (fun t => (s.setNode k.val { n with
        src := t, switching := none, gate := n.gate && !n.heldUngate, heldUngate := false }).ungated k.val)) := rfl
    rw [hrun, ht]
    exact ⟨_, rfl, State.setNode_ungated _⟩

theorem clockMonitor : Claims.ClockMonitor := by
  intro s o v h khz fast
  have hrun : exec (.clkmonCtl o v) s = .next ((s.putClkmon o v).respond .done) :=
    congrArg Host.Outcome.next (State.onWrite_open s o _ _ h)
  have hfast : (bit v 15 && tooFast khz (bits v 8 4)) = true ↔ fast := by
    simp [fast, khz, bit, tooFast]
  rw [hrun]
  refine ⟨fun hslow => ?_, fun hf => ?_⟩
  · have hput : s.putClkmon o v = { s with clock := { s.clock with
        monEn := v.getLsbD 15, monDiv := bits v 8 4, monNode := bits v 0 6 } } := if_neg (mt hfast.1 hslow)
    rw [hput]
    exact ⟨_, rfl, rfl, rfl, rfl⟩
  · have hput : s.putClkmon o v = s.clockRefused o clkmonAddr v 0xFF 7 := if_pos (hfast.2 hf)
    rw [hput]
    exact ⟨_, rfl, rfl, rfl, rfl⟩

/-- Settles O42: each write by what the register does with it, each refusal by the first condition that holds. -/
theorem clockNodes : Obligations.ClockNodes :=
  ⟨clockNodeWrites, clockRefusals, clockMonitor⟩

end Sys2Proof.Machine
end

section
/-! PROOF. O47: PWR_CAP, the fast loop, the slow loop and droop. -/

namespace Sys2Proof.Machine

open Sys2Proof

/-- A fold over distinct keys whose step changes one key's value, as R says, and keeps I. -/
theorem foldl_eachOnce {σ ι α : Type} {f : σ → ι → σ} {g : σ → ι → α} {I : σ → Prop} {R : ι → α → α → Prop}
    (hstep : ∀ s d, I s → I (f s d) ∧ R d (g s d) (g (f s d) d) ∧ ∀ e, e ≠ d → g (f s d) e = g s e)
    {l : List ι} (hl : l.Nodup) {s : σ} (hs : I s) :
    I (l.foldl f s) ∧ (∀ d ∈ l, R d (g s d) (g (l.foldl f s) d)) ∧ ∀ e, e ∉ l → g (l.foldl f s) e = g s e := by
  induction l generalizing s with
  | nil => exact ⟨hs, by simp, fun _ _ => rfl⟩
  | cons d l ih =>
    rw [List.nodup_cons] at hl
    obtain ⟨hI, hR, hothers⟩ := hstep s d hs
    obtain ⟨hI', hR', hothers'⟩ := ih hl.2 hI
    refine ⟨hI', fun e he => ?_, fun e he => ?_⟩
    · rw [List.foldl_cons]
      rcases List.mem_cons.1 he with rfl | he
      · rw [hothers' e hl.1]
        exact hR
      · rw [← hothers e fun h => hl.1 (h ▸ he)]
        exact hR' e he
    · rw [List.mem_cons, not_or] at he
      rw [List.foldl_cons, hothers' e he.2, hothers e he.1]

/-- A record to event queue 0 and the module log changes the logs alone. -/
theorem State.toEq0Log_frame (s : State) (r : Rec) : s.toEq0Log r = { s with logs := (s.toEq0Log r).logs } := by
  unfold State.toEq0Log State.toEq0
  split_ifs <;> rfl

theorem State.toEq0Log_mcount (s : State) (r : Rec) : (s.toEq0Log r).logs.mcount = s.logs.mcount.tick := by
  unfold State.toEq0Log State.toEq0
  split_ifs <;> rfl

/-! A die's controller replaced. -/

/-- What is kept from the start of the group is the only field that `after` adds to. -/
theorem DiePower.after_frame (x y : DiePower) (g : Nat) : x.after y g = { y with past := (x.after y g).past } := by
  unfold DiePower.after
  split_ifs <;> rfl

section
variable (s : State) (d : Nat) (x : DiePower)

theorem State.setDiePower_frame :
    s.setDiePower d x = { s with power := { s.power with dies := (s.setDiePower d x).power.dies } } := rfl

/-- The controller that stands there then: x, but for the levels kept from the start of the group. -/
theorem State.diePower_setDiePower_frame :
    (s.setDiePower d x).diePower d = { x with past := ((s.setDiePower d x).diePower d).past } := by
  rw [State.diePower_setDiePower]
  exact DiePower.after_frame _ _ _

end

theorem powerCap : Claims.PowerCap := by
  intro s v h
  have hrun : exec (.pwrCap v) s = .next (s.putPwrCap v) := State.managed_up _ _ h
  rw [hrun]
  refine ⟨fun hok => ?_, fun hok => ?_⟩
  · rw [State.putPwrCap, if_pos hok]
    rfl
  · rw [State.putPwrCap, if_neg (by simp [hok])]
    exact ⟨_, rfl, rfl, rfl, rfl, rfl⟩

/-! The fast loop (R389, R392). -/

theorem stepLevel_down {c p budget top : Nat} (hp : budget < p) :
    stepLevel c p budget top = max 1 (c - 1) := by
  rw [stepLevel, if_pos hp]

theorem stepLevel_up {c p budget top : Nat} (hp : p * 16 < budget * 15) : stepLevel c p budget top = min top
    (c + 1) := by
  rw [stepLevel, if_neg (by omega), if_pos hp]

theorem stepLevel_stay {c p budget top : Nat} (hp : p ≤ budget) (hp' : budget * 15 ≤ p * 16) :
    stepLevel c p budget top = min top c := by
  rw [stepLevel, if_neg (by omega), if_neg (by omega)]

theorem fastLoopStep : Claims.FastLoopStep := by
  intro s d hup hphases x est p hc hc'
  have htop : s.topLevel d.val = 16 := if_neg (by omega)
  have hrun : exec (.fastLoop d) s =
      .next (s.setDiePower d.val (x.microsecond (s.baseOf d.val) (s.topLevel d.val))) :=
    congrArg s.happens (if_pos hup)
  rw [hrun, htop]
  refine ⟨_, rfl, ?_⟩
  rw [State.diePower_setDiePower_frame]
  refine ⟨rfl, rfl, fun h => ?_, fun h => ?_, fun h h' => ?_, rfl, fun k => State.diePower_setDiePower_other _ _, rfl⟩
  · refine (stepLevel_down h).trans ?_
    split_ifs <;> omega
  · refine (stepLevel_up h).trans ?_
    split_ifs <;> omega
  · refine (stepLevel_stay h h').trans ?_
    omega

/-! Droop (R395). -/

theorem LevelPart.level_droop (x : LevelPart) (g : Nat) (strike : Word) (hm : Nat) (h : x.droopAt = some strike) :
    x.level g strike hm ≤ 8 := by
  simp [LevelPart.level, h]

theorem droopStep : Claims.DroopStep := by
  intro s d g hup x frame
  refine ⟨?_, fun hlong => ?_, fun hshort => ?_⟩
  · have hrun : exec (.droop d g) s = .next (s.setDiePower d.val (x.droop s.strike s.power.dstep)) :=
      congrArg s.happens (if_pos hup)
    refine ⟨_, hrun, ⟨fun k => State.diePower_setDiePower_other _ _, rfl⟩, ?_⟩
    rw [State.groupLevel, State.diePower_setDiePower_frame]
    exact ⟨rfl, rfl, rfl, LevelPart.level_droop _ _ _ _ rfl⟩
  · have hrun : exec (.droopDecay d) s = .next (s.setDiePower d.val
        { x with stretch := x.stretch - s.power.dstep, decayFrom := s.strike }) :=
      congrArg s.happens (if_pos (Bool.and_eq_true_iff.2 ⟨hup, decide_eq_true hlong⟩))
    refine ⟨_, hrun, ⟨fun k => State.diePower_setDiePower_other _ _, rfl⟩, ?_⟩
    rw [State.diePower_setDiePower]
    exact if_pos (.inl rfl)
  · exact congrArg s.happens (if_neg fun h =>
      Nat.not_le.2 hshort (of_decide_eq_true (Bool.and_eq_true_iff.1 h).2))

/-! The slow loop (R391, R393, R394). -/

/-- What a window of the slow loop does to a die's controller, but for the levels kept from the start of a group. -/
def WindowOf (meas base : Nat) (x y : DiePower) : Prop := ∃ p, y = { x.window meas base with past := p }

section
variable (s : State)

theorem State.tellDisagree_frame (d : Nat) (was : PowerMode) : s.tellDisagree d was = { s with
    logs := (s.tellDisagree d was).logs, power := { s.power with sc := (s.tellDisagree d was).power.sc } } := by
  unfold State.tellDisagree
  dsimp only
  split_ifs
  · rw [State.toEq0Log_frame]
    rfl
  · rw [State.toEq0Log_frame]
    rfl
  · rfl

theorem State.dieWindow_frame (d meas : Nat) : s.dieWindow d meas = { s with
    logs := (s.dieWindow d meas).logs, power := { s.power with
      sc := (s.dieWindow d meas).power.sc, dies := (s.dieWindow d meas).power.dies } } := by
  rw [State.dieWindow, State.tellDisagree_frame]
  rfl

theorem State.diePower_dieWindow (d meas : Nat) :
    WindowOf meas (s.baseOf d) (s.diePower d) ((s.dieWindow d meas).diePower d)
      ∧ ∀ e, e ≠ d → (s.dieWindow d meas).diePower e = s.diePower e := by
  rw [State.dieWindow, State.tellDisagree_frame]
  exact ⟨⟨_, State.diePower_setDiePower_frame _ _ _⟩, fun e => State.diePower_setDiePower_other _ _⟩

theorem State.floorWindow_frame (pIn : Nat) : s.floorWindow pIn = { s with
    logs := (s.floorWindow pIn).logs, free := (s.floorWindow pIn).free
    power := { s.power with sc := (s.floorWindow pIn).power.sc, floorRun := (s.floorWindow pIn).power.floorRun } } := by
  unfold State.floorWindow
  dsimp only
  split_ifs <;> rfl

end

/-- A state that differs from an earlier one in the logs and in the controllers of the dies. -/
structure Supervised (s t : State) : Prop where
  frame : t = { s with logs := t.logs, power := { s.power with
    sc := t.power.sc, dies := t.power.dies } }

theorem State.foldl_dieWindow (s : State) (meas : List Nat) {l : List Nat} (hl : l.Nodup) :
    Supervised s (l.foldl (fun s d => s.dieWindow d (meas.getD d 0)) s)
      ∧ (∀ d ∈ l, WindowOf (meas.getD d 0) (s.baseOf d) (s.diePower d)
          ((l.foldl (fun s d => s.dieWindow d (meas.getD d 0)) s).diePower d))
      ∧ ∀ e, e ∉ l → (l.foldl (fun s d => s.dieWindow d (meas.getD d 0)) s).diePower e = s.diePower e := by
  refine foldl_eachOnce (g := State.diePower) (I := Supervised s)
    (R := fun d => WindowOf (meas.getD d 0) (s.baseOf d)) (fun t d ht => ?_) hl ⟨rfl⟩
  have hbase : t.baseOf d = s.baseOf d := by rw [ht.frame]; rfl
  obtain ⟨hwindow, hothers⟩ := t.diePower_dieWindow d (meas.getD d 0)
  rw [hbase] at hwindow
  refine ⟨⟨?_⟩, hwindow, hothers⟩
  rw [t.dieWindow_frame, ht.frame]

/-- A controller with a new budget, but for the levels kept from the start of a group. -/
def BudgetOf (b : Nat) (x y : DiePower) : Prop := ∃ p, y = { x with budget := b, past := p }

theorem State.foldl_setBudget (s : State) (b : Nat) {l : List Nat} (hl : l.Nodup) :
    let t := l.foldl (fun s d => s.setDiePower d { s.diePower d with budget := b }) s
    (t = { s with power := { s.power with dies := t.power.dies } })
      ∧ (∀ d ∈ l, BudgetOf b (s.diePower d) (t.diePower d)) ∧ ∀ e, e ∉ l → t.diePower e = s.diePower e := by
  refine foldl_eachOnce (g := State.diePower) (I := fun t => t =
      { s with power := { s.power with dies := t.power.dies } })
    (R := fun _ => BudgetOf b) (fun t d ht => ⟨?_, ⟨_, State.diePower_setDiePower_frame _ _ _⟩,
      fun e => State.diePower_setDiePower_other _ _⟩) hl rfl
  rw [t.setDiePower_frame, ht]

theorem foldl_add_eq (l : List Nat) (n : Nat) : l.foldl (· + ·) n = l.sum + n := by
  induction l generalizing n with
  | nil => simp
  | cons x l ih => rw [List.foldl_cons, ih, List.sum_cons]; omega

theorem poolAfter_bounds (pool draw cap pIn n : Nat) :
    1600 * n ≤ poolAfter pool draw cap pIn n ∧ poolAfter pool draw cap pIn n ≤ 9600 * n := by
  have hclamp : ∀ (b : Int) (lo hi : Nat), lo ≤ hi → lo ≤ (min (max b lo) hi).toNat ∧
      (min (max b lo) hi).toNat ≤ hi := by
    omega
  exact hclamp _ _ _ (by omega)

/-! One window of one die. -/

section
variable (x : DiePower) (m base : Nat)

theorem DiePower.window_mode : (x.window m base).mode = (x.runs m (x.mean base)).modeAfter m base := rfl

theorem DiePower.window_c : (x.window m base).c = x.c := by
  have hruns : (x.window m base).c = (x.runs m (x.mean base)).c := rfl
  rw [hruns, DiePower.runs]
  split_ifs <;> rfl

theorem DiePower.window_trim (h : (x.window m base).mode = .normal) :
    ((x.window m base).trimNum, (x.window m base).trimDen) = clampRatio m (x.mean base) 4 5 5 4 := by
  have htrim : ((x.window m base).trimNum, (x.window m base).trimDen) =
      trimOf (x.window m base).mode m (x.mean base) := rfl
  rw [htrim, h]
  rfl

theorem DiePower.window_stays_normal (hmode : x.mode = .normal) (hruns : x.disagree < 49) :
    (x.window m base).mode = .normal := by
  rw [DiePower.window_mode, DiePower.runs]
  split_ifs
  · simp only [DiePower.modeAfter, hmode]
    rw [if_neg (by omega)]
    split_ifs <;> rfl
  · simp only [DiePower.modeAfter, hmode]
    rw [if_neg (by omega)]
    split_ifs <;> rfl

theorem clampRatio_normal (est : Nat) :
    (5 * m < 4 * est → clampRatio m est 4 5 5 4 = (4, 5)) ∧ (5 * est < 4 * m → clampRatio m est 4 5 5 4 = (5, 4))
      ∧ (4 * est ≤ 5 * m → 4 * m ≤ 5 * est → 0 < est → clampRatio m est 4 5 5 4 = (m, est)) := by
  unfold clampRatio
  refine ⟨fun h => if_pos (by omega), fun h => ?_, fun h h' hpos => ?_⟩
  · rw [if_neg (by omega), if_pos (by omega)]
  · rw [if_neg (by omega), if_neg (by omega), Nat.max_eq_left hpos]

end

/-- The dies that are on, in rising order, each once. -/
theorem State.diesOn_nodup (s : State) : s.diesOn.Nodup := List.nodup_range.filter _


/-- The input power taken, and what an implausible one shows (R393). -/
def State.measured (s : State) (vin : Nat) (p : Nat × Nat) : State :=
  let t := { s with power := { s.power with vin := vin, pin := p.1, implausible := p.2 } }
  if p.2 = 50 then t.powerEvent 6 else t

theorem State.measured_frame (s : State) (vin : Nat) (p : Nat × Nat) : s.measured vin p = { s with
    power := { s.power with vin := vin, pin := p.1, implausible := p.2, sc := (s.measured vin p).power.sc } } := by
  unfold State.measured
  dsimp only
  split_ifs <;> rfl

/-- The pool and the budgets of a window, of dies that each have their controller. -/
theorem State.setPool_spec (s : State) (pIn : Nat) :
    let pool := poolAfter s.power.pool ((s.diesOn.map (fun d => (s.diePower d).drawn)).sum) s.capEff pIn s.diesOn.length
    let t := s.setPool pIn
    (t = { s with power := { s.power with pool := pool, dies := t.power.dies } })
      ∧ (∀ d ∈ s.diesOn, BudgetOf (pool / s.diesOn.length) (s.diePower d) (t.diePower d))
      ∧ ∀ d, d ∉ s.diesOn → t.diePower d = s.diePower d := by
  intro pool t
  have hsum : (s.diesOn.map (fun d => (s.diePower d).drawn)).foldl (· + ·) 0 =
      (s.diesOn.map (fun d => (s.diePower d).drawn)).sum := foldl_add_eq _ 0
  have ht : t = s.diesOn.foldl (fun u d => u.setDiePower d { u.diePower d with budget := pool / s.diesOn.length })
      { s with power := { s.power with pool := pool } } := by
    unfold t State.setPool
    dsimp only
    rw [hsum]
  rw [ht]
  exact State.foldl_setBudget { s with power := { s.power with pool := pool } } (pool / s.diesOn.length) s.diesOn_nodup

/-- The steps of one window: the input, the dies' windows, the pool and the budgets, the run at the floor. -/
theorem State.supervise_spec (s : State) (pIn vin : Nat) (meas : List Nat) (others : Nat) :
    let on := s.diesOn
    let sum := (on.map (fun d => meas.getD d 0)).sum + others
    let p := inputPower s.power.implausible pIn sum
    let t := s.supervise pIn vin meas others
    let draw := (on.map (fun d => (t.diePower d).drawn)).sum
    t.power.pool = poolAfter s.power.pool draw s.capEff p.1 on.length
      ∧ t.power.vin = vin ∧ t.power.pin = p.1 ∧ t.power.implausible = p.2 ∧ t.power.cap = s.power.cap
      ∧ t.mem = s.mem ∧ t.cores = s.cores
      ∧ (∀ d ∈ on, ∃ q, t.diePower d = { (s.diePower d).window (meas.getD d 0) (s.baseOf d) with
          past := q, budget := t.power.pool / on.length })
      ∧ ∀ d, d ∉ on → t.diePower d = s.diePower d := by
  intro on sum p t draw
  have hsum : (on.map (fun d => meas.getD d 0)).foldl (· + ·) others = sum := foldl_add_eq _ _
  set s0 := s.measured vin p with hs0
  have hframe0 := s.measured_frame vin p
  rw [← hs0] at hframe0
  set s1 := on.foldl (fun s d => s.dieWindow d (meas.getD d 0)) s0 with hs1
  obtain ⟨hframe1, hon1, hoff1⟩ := State.foldl_dieWindow s0 meas (l := on) s.diesOn_nodup
  rw [← hs1] at hframe1 hon1 hoff1
  set s2 := s1.setPool p.1 with hs2
  obtain ⟨hframe2, hon2, hoff2⟩ := s1.setPool_spec p.1
  rw [← hs2] at hframe2 hon2 hoff2
  have hframe3 := s2.floorWindow_frame p.1
  have ht : t = s2.floorWindow p.1 := by
    unfold t State.supervise
    dsimp only
    rw [hsum]
    rfl
  rw [← ht] at hframe3
  have hdies0 : ∀ d, s0.diePower d = s.diePower d := fun d => by rw [hframe0]; rfl
  have hbase0 : ∀ d, s0.baseOf d = s.baseOf d := fun d => by rw [hframe0]; rfl
  have hon : s1.diesOn = on := by rw [hframe1.frame, hframe0]; rfl
  have hcap : s1.capEff = s.capEff := by rw [hframe1.frame, hframe0]; rfl
  have hpool : s1.power.pool = s.power.pool := by rw [hframe1.frame, hframe0]
  have hdies : ∀ d, t.diePower d = s2.diePower d := fun d => by rw [hframe3]; rfl
  rw [hon] at hframe2 hon2 hoff2
  rw [hcap, hpool] at hframe2 hon2
  have hdraw : (on.map (fun d => (s1.diePower d).drawn)).sum = draw := by
    refine congrArg List.sum (List.map_congr_left fun d hd => ?_)
    obtain ⟨q, hq⟩ := hon2 d hd
    rw [hdies, hq]
    rfl
  rw [hdraw] at hframe2 hon2
  have hpool2 : t.power.pool = poolAfter s.power.pool draw s.capEff p.1 on.length := by rw [hframe3, hframe2]
  refine ⟨hpool2, ?_, ?_, ?_, ?_, ?_, ?_, fun d hd => ?_, fun d hd => ?_⟩
  · rw [hframe3, hframe2, hframe1.frame, hframe0]
  · rw [hframe3, hframe2, hframe1.frame, hframe0]
  · rw [hframe3, hframe2, hframe1.frame, hframe0]
  · rw [hframe3, hframe2, hframe1.frame, hframe0]
  · rw [hframe3, hframe2, hframe1.frame, hframe0]
  · rw [hframe3, hframe2, hframe1.frame, hframe0]
  · obtain ⟨q, hq⟩ := hon2 d hd
    obtain ⟨r, hr⟩ := hon1 d hd
    refine ⟨q, ?_⟩
    rw [hdies, hq, hr, hdies0, hbase0, hpool2]
  · rw [hdies, hoff2 d hd, hoff1 d hd, hdies0]

theorem slowLoopStep : Claims.SlowLoopStep := by
  intro s pIn vin meas others hup n
  have hrun : exec (.slowLoop pIn vin meas others) s = .next (s.supervise pIn vin meas others) :=
    congrArg s.happens (if_pos hup)
  obtain ⟨hpool, hvin, hpin, himplausible, hcap, hmem, hcores, hon, hoff⟩ := s.supervise_spec pIn vin meas others
  obtain ⟨hlow, hhigh⟩ := poolAfter_bounds s.power.pool ((s.diesOn.map (fun d =>
    ((s.supervise pIn vin meas others).diePower d).drawn)).sum) s.capEff
    (inputPower s.power.implausible pIn ((s.diesOn.map (fun d => meas.getD d 0)).sum + others)).1 n
  refine ⟨_, hrun, hpool ▸ hlow, hpool ▸ hhigh, hvin, ⟨hpin, himplausible, hpool⟩, fun d hd => ?_, fun d hd =>
      ?_, hoff, hcap,
    hmem, hcores⟩
  · obtain ⟨q, hq⟩ := hon d hd
    rw [hq]
    refine ⟨fun hcount => if_pos hcount, fun hmode => ?_⟩
    obtain ⟨hfour, hfive, hratio⟩ := clampRatio_normal (meas.getD d 0) ((s.diePower d).mean (s.baseOf d))
    have htrim := DiePower.window_trim (s.diePower d) (meas.getD d 0) (s.baseOf d) hmode
    exact ⟨fun h => htrim.trans (hfour h), fun h => htrim.trans (hfive h), fun h h' h0 => htrim.trans (hratio h h' h0)⟩
  · obtain ⟨q, hq⟩ := hon d hd
    rw [hq]
    refine ⟨rfl, rfl, ?_, fun hmode hruns => DiePower.window_stays_normal _ _ _ hmode hruns⟩
    exact DiePower.window_c _ _ _

/-- Settles O47: each loop by the controllers it leaves; the slow loop as a fold over the dies that are on. -/
theorem powerLoops : Obligations.PowerLoops :=
  ⟨powerCap, fastLoopStep, slowLoopStep, droopStep⟩

end Sys2Proof.Machine
end

section
/-! PROOF. What the operations on memory, streams, graphs and ports leave as it is, for the obligations of the module.
-/

namespace Sys2Proof.Machine

open Sys2Proof

/-- Two states agree in what no operation on memory, streams, graphs or ports touches: the strike counter, the cycle,
the clocks, the resets, power, boot, the pins, the last answers and the dies that are out. -/
@[reducible, simp] def State.SameEnv (t s : State) : Prop :=
  t.strike = s.strike ∧ t.running = s.running ∧ t.aclk = s.aclk ∧ t.clock = s.clock ∧ t.resets = s.resets
    ∧ t.power = s.power ∧ t.boot = s.boot ∧ t.pins = s.pins ∧ t.out = s.out
    ∧ t.grid.diesOut = s.grid.diesOut

theorem State.sameEnv_refl (s : State) : s.SameEnv s := ⟨rfl, rfl, rfl, rfl, rfl, rfl, rfl, rfl, rfl, rfl⟩

theorem State.SameEnv.trans {r s t : State} (h : t.SameEnv s) (h' : s.SameEnv r) : t.SameEnv r := by
  simpa [h'] using h

theorem State.sameEnv_ite {s : State} (p : Prop) [Decidable p] {a b : State} (ha : a.SameEnv s) (hb : b.SameEnv s) :
    (if p then a else b).SameEnv s := by
  split
  · exact ha
  · exact hb

@[simp] theorem strike_ite (p : Prop) [Decidable p] (a b : State) :
    (if p then a else b).strike = if p then a.strike else b.strike := apply_ite State.strike p a b

@[simp] theorem running_ite (p : Prop) [Decidable p] (a b : State) :
    (if p then a else b).running = if p then a.running else b.running := apply_ite State.running p a b

@[simp] theorem aclk_ite (p : Prop) [Decidable p] (a b : State) :
    (if p then a else b).aclk = if p then a.aclk else b.aclk := apply_ite State.aclk p a b

@[simp] theorem clock_ite (p : Prop) [Decidable p] (a b : State) :
    (if p then a else b).clock = if p then a.clock else b.clock := apply_ite State.clock p a b

@[simp] theorem resets_ite (p : Prop) [Decidable p] (a b : State) :
    (if p then a else b).resets = if p then a.resets else b.resets := apply_ite State.resets p a b

@[simp] theorem power_ite (p : Prop) [Decidable p] (a b : State) :
    (if p then a else b).power = if p then a.power else b.power := apply_ite State.power p a b

@[simp] theorem boot_ite (p : Prop) [Decidable p] (a b : State) :
    (if p then a else b).boot = if p then a.boot else b.boot := apply_ite State.boot p a b

@[simp] theorem pins_ite (p : Prop) [Decidable p] (a b : State) :
    (if p then a else b).pins = if p then a.pins else b.pins := apply_ite State.pins p a b

@[simp] theorem out_ite (p : Prop) [Decidable p] (a b : State) :
    (if p then a else b).out = if p then a.out else b.out := apply_ite State.out p a b

@[simp] theorem diesOut_ite (p : Prop) [Decidable p] (a b : State) :
    (if p then a else b).grid.diesOut = if p then a.grid.diesOut else b.grid.diesOut :=
  apply_ite (fun s : State => s.grid.diesOut) p a b

/-- A fold of updates that each leave that part leaves it. -/
@[simp] theorem foldl_env {β : Type} (f : State → β → State) (l : List β) (s : State)
    (hf : ∀ s x, (f s x).SameEnv s) : (l.foldl f s).SameEnv s := by
  induction l generalizing s with
  | nil => exact s.sameEnv_refl
  | cons x l ih => exact (ih (f s x)).trans (hf s x)

section
variable (s : State)

@[simp] theorem State.setCore_env (c : Nat) (k : Core) : (s.setCore c k).SameEnv s := s.sameEnv_refl
@[simp] theorem State.useFree_env (n : Nat) : (s.useFree n).SameEnv s := s.sameEnv_refl
@[simp] theorem State.mlog_env (r : Rec) : (s.mlog r).SameEnv s := s.sameEnv_refl
@[simp] theorem State.mlogOpen_env (r : Rec) : (s.mlogOpen r).SameEnv s := s.sameEnv_refl
@[simp] theorem State.setEq_env (e : Nat) (q : EventQueue) : (s.setEq e q).SameEnv s := s.sameEnv_refl
@[simp] theorem State.toEq_env (e : Nat) (r : Rec) : (s.toEq e r).SameEnv s := s.sameEnv_refl
@[simp] theorem State.toRegion_env (n : Nat) (r : Rec) : (s.toRegion n r).SameEnv s := s.sameEnv_refl
@[simp] theorem State.refused_env (a : Nat) (v : Word) (d : Nat) : (s.refused a v d).SameEnv s := s.sameEnv_refl
@[simp] theorem State.setCtx_env (n : Nat) (c : Ctx) : (s.setCtx n c).SameEnv s := s.sameEnv_refl
@[simp] theorem State.setSq_env (q : Nat) (x : Sq) : (s.setSq q x).SameEnv s := s.sameEnv_refl
@[simp] theorem State.setLport_env (p : Nat) (x : Port) : (s.setLport p x).SameEnv s := s.sameEnv_refl
@[simp] theorem State.setPort__env (m : Nat) (p : MemPort) : (s.setPort_ m p).SameEnv s := s.sameEnv_refl
@[simp] theorem State.setChan_env (c : Nat) (x : MemChannel) : (s.setChan c x).SameEnv s := s.sameEnv_refl
@[simp] theorem State.setVlog_env (d : Nat) (l : Vlog) : (s.setVlog d l).SameEnv s := s.sameEnv_refl

@[simp] theorem State.setByte_env (a : Nat) (b : Byte) : (s.setByte a b).SameEnv s := by
  unfold State.setByte
  split <;> exact s.sameEnv_refl

/-! The frame of each operation. First the flags, and the bytes of the module. -/

@[simp] theorem State.applyFlag_env (op n : Nat) (v : Word) : (s.applyFlag op n v).SameEnv s := by
  unfold State.applyFlag
  split <;> simp

@[simp] theorem State.applyFlags_env (fs : List FlagOp) : (s.applyFlags fs).SameEnv s := by
  simp [State.applyFlags]

@[simp] theorem State.putBytes_env (a : Nat) (bs : List Byte) : (s.putBytes a bs).SameEnv s :=
  foldl_env _ _ s fun s w => s.setByte_env w.1 w.2

/-! Cores, the bursts of external memory and the lines of the stores. -/

@[simp] theorem State.retire_env (c : Nat) : (s.retire c).SameEnv s := by simp [State.retire]

@[simp] theorem State.weakRow_env (a : Nat) : (s.weakRow a).SameEnv s := by simp [State.weakRow]

@[simp] theorem State.correctBurst_env (b : Nat) : (s.correctBurst b).SameEnv s := by
  unfold State.correctBurst
  dsimp only
  repeat' split
  all_goals simp

@[simp] theorem State.poisonBurst_env (b : Nat) : (s.poisonBurst b).SameEnv s := by
  simp [State.poisonBurst]

@[simp] theorem State.extWrite_env (a : Nat) (bs : List Byte) : (s.extWrite a bs).SameEnv s := by
  simp [State.extWrite]

@[simp] theorem State.storeWrite_env (a : Nat) (bs : List Byte) :
    (s.storeWrite a bs).SameEnv s := by simp [State.storeWrite]

/-! Stream contexts. -/

@[simp] theorem State.discard_env (n k : Nat) : (s.discard n k).SameEnv s := by simp [State.discard]

@[simp] theorem State.withdraw_env (n : Nat) : (s.withdraw n).SameEnv s := s.sameEnv_refl

@[simp] theorem State.restoreCtx_env (n : Nat) : (s.restoreCtx n).SameEnv s := by
  simp [State.restoreCtx]

@[simp] theorem State.withdrawFetch_env (n : Nat) : (s.withdrawFetch n).SameEnv s := s.sameEnv_refl

@[simp] theorem State.loseAhead_env (n : Nat) : (s.loseAhead n).SameEnv s := by
  simp [State.loseAhead]

@[simp] theorem State.settleCtx_env (n : Nat) : (s.settleCtx n).SameEnv s := by
  unfold State.settleCtx
  dsimp only
  repeat' split
  all_goals simp

/-! Submission queues, entries and the load of a graph. -/

@[simp] theorem State.toSq_env (q : Nat) (r : Rec) : (s.toSq q r).SameEnv s := s.sameEnv_refl

@[simp] theorem State.graphDone_env (q : Nat) (tag : BitVec 32) (entry status reason first : Nat) (user : Word)
    (counts : List Nat) : (s.graphDone q tag entry status reason first user counts).SameEnv s := s.sameEnv_refl

/-! The torus ports: what a fault, a loss of power or a retrain ends. -/

@[simp] theorem State.returnFlags_env (k : Nat) : (s.returnFlags k).SameEnv s :=
  foldl_env _ _ s fun s _ => s.sameEnv_refl

@[simp] theorem State.linkDone_env (p : Nat) (user : Word) (op status : Nat) :
    (s.linkDone p user op status).SameEnv s := s.sameEnv_refl

@[simp] theorem State.linkState_env (p : Nat) : (s.linkState p).SameEnv s := s.sameEnv_refl

@[simp] theorem State.channelFault_env (p n status : Nat) :
    (s.channelFault p n status).SameEnv s := s.sameEnv_refl

@[simp] theorem State.scramble_env (a n : Nat) : (s.scramble a n).SameEnv s := by
  simp [State.scramble]

@[simp] theorem State.reshardFault_env (axis status : Nat) :
    (s.reshardFault axis status).SameEnv s := by
  unfold State.reshardFault
  split
  · exact s.sameEnv_refl
  · split
    · exact s.sameEnv_refl
    · exact foldl_env _ _ _ fun s e => s.scramble_env e.dst (64 * e.units)

@[simp] theorem State.failTaken_env (p : Nat) (t : Taken) (status : Nat) :
    (s.failTaken p t status).SameEnv s := by
  unfold State.failTaken
  split
  · exact s.sameEnv_refl
  · split <;> exact s.sameEnv_refl
  · split
    · exact s.reshardFault_env _ status
    · exact s.sameEnv_refl
  · exact s.sameEnv_refl

@[simp] theorem State.dropTurns_env (p : Nat) (which : Nat → Bool) :
    (s.dropTurns p which).SameEnv s := s.sameEnv_refl

@[simp] theorem State.loseTaken_env (p : Nat) : (s.loseTaken p).SameEnv s := by
  unfold State.loseTaken
  have hfailed := foldl_env (fun s t => s.failTaken p t 3) (s.lport p).taken
    ((s.setLport p { s.lport p with taken := [], desc := none }).dropTurns p (fun _ => true))
    fun s t => s.failTaken_env p t 3
  dsimp only
  refine (foldl_env _ _ _ fun s n => ?_).trans ?_
  · split <;> exact s.sameEnv_refl
  · split
    · exact (State.reshardFault_env _ _ _).trans hfailed
    · exact hfailed

@[simp] theorem State.portTo_env (p : Nat) (st : PortState) : (s.portTo p st).SameEnv s := by
  unfold State.portTo
  extract_lets x was low sc changed stays lost reset
  have hlost : lost.SameEnv s := by
    unfold lost
    split
    · exact changed.loseTaken_env p
    · exact s.sameEnv_refl
  have hreset : reset.SameEnv s := by
    unfold reset
    split <;> exact hlost
  split <;> exact hreset

/-! The life of a task, its cores and its journal. -/

@[simp] theorem State.setTask_env (q t : Nat) (x : Task) : (s.setTask q t x).SameEnv s := s.sameEnv_refl

@[simp] theorem State.taskDone_env (q t : Nat) : (s.taskDone q t).SameEnv s := by
  unfold State.taskDone
  split <;> simp

@[simp] theorem State.cutReached_env (q cap size task : Nat) (hold : Bool) :
    (s.cutReached q cap size task hold).SameEnv s := s.sameEnv_refl

@[simp] theorem State.skipTasks_env (q : Nat) (ts : List Nat) : (s.skipTasks q ts).SameEnv s := by
  induction ts generalizing s with
  | nil => exact s.sameEnv_refl
  | cons t ts ih =>
    unfold State.skipTasks
    split
    · dsimp only
      split
      · exact (ih _).trans ((State.taskDone_env _ q t).trans (s.setTask_env q t _))
      · exact ih s
    · exact ih s

@[simp] theorem State.cutSettle_env (q : Nat) : (s.cutSettle q).SameEnv s := by
  unfold State.cutSettle
  dsimp only
  split <;> simp

@[simp] theorem State.closeGraph_env (q status : Nat) : (s.closeGraph q status).SameEnv s := by
  unfold State.closeGraph
  split <;> simp

@[simp] theorem State.settleGraph_env (q : Nat) : (s.settleGraph q).SameEnv s := by
  unfold State.settleGraph
  dsimp only
  split <;> simp

@[simp] theorem State.rowIdle_env (c : Nat) : (s.rowIdle c).SameEnv s := by simp [State.rowIdle]

@[simp] theorem State.stopCore_env (q t c : Nat) : (s.stopCore q t c).SameEnv s := by
  simp [State.stopCore, State.withdrawCore]

@[simp] theorem State.freeCore_env (q t c : Nat) : (s.freeCore q t c).SameEnv s := by
  simp [State.freeCore]

@[simp] theorem State.writeRun_env (a : Nat) (bs : List Byte) : (s.writeRun a bs).SameEnv s := by
  unfold State.writeRun
  split
  · simp
  · simp
  · next c off _ => cases (s.core c).lmWrite off bs <;> simp
  · simp

@[simp] theorem State.writeAll_env (ws : List (Nat × Byte)) : (s.writeAll ws).SameEnv s :=
  foldl_env _ _ s fun s w => s.writeRun_env w.1 w.2

@[simp] theorem State.remark_env (g : Nat) (lost : List Nat) (poisoned : Bool) :
    (s.remark g lost poisoned).SameEnv s := by
  unfold State.remark
  repeat' split
  all_goals simp

@[simp] theorem State.restore_env (j : Journal) : (s.restore j).SameEnv s := by
  unfold State.restore
  split <;> simp

@[simp] theorem State.undo_env (j : Journal) : (s.undo j).SameEnv s := by
  unfold State.undo
  split
  · exact s.sameEnv_refl
  · exact s.restore_env j

@[simp] theorem State.rollback_env (q t : Nat) : (s.rollback q t).SameEnv s :=
  foldl_env State.undo _ s fun s j => s.undo_env j

@[simp] theorem State.freeJournal_env (q t : Nat) : (s.freeJournal q t).SameEnv s := s.sameEnv_refl

@[simp] theorem State.withdrawTask_env (q t : Nat) : (s.withdrawTask q t).SameEnv s := s.sameEnv_refl

@[simp] theorem State.revoke_env (q t : Nat) : (s.revoke q t).SameEnv s := by
  unfold State.revoke
  split <;> simp

@[simp] theorem State.stopTask_env (q t : Nat) (st : TStatus) (fate : TaskEnd) :
    (s.stopTask q t st fate).SameEnv s := by
  unfold State.stopTask
  split
  · exact s.sameEnv_refl
  · split
    · exact s.sameEnv_refl
    · have hdropped : (((s.revoke q t).owned q t).foldl (fun s k => s.setCtx k (s.ctx k).orphaned)
          (s.revoke q t)).SameEnv s := 
            (foldl_env _ _ _ fun s k => s.setCtx_env k (s.ctx k).orphaned).trans (s.revoke_env q t)
      dsimp only
      split
      · exact hdropped
      · simpa using hdropped

@[simp] theorem State.faultRegion_env (k cause : Nat) : (s.faultRegion k cause).SameEnv s := by
  refine foldl_env _ (s.queuesOf k) s fun s q => ?_
  simpa using foldl_env _ (s.liveTasks q) s fun s t => s.stopTask_env q t .aborted { cause := 0xF1 }

@[simp] theorem State.endTask_env (q t : Nat) (st : TStatus) (fate : TaskEnd) :
    (s.endTask q t st fate).SameEnv s := by
  have hended := (State.settleGraph_env (s.stopTask q t st fate) q).trans (s.stopTask_env q t st fate)
  unfold State.endTask
  dsimp only
  split
  · exact (State.faultRegion_env _ _ 3).trans hended
  · exact hended

@[simp] theorem State.reissue_env (q t : Nat) (fate : TaskEnd) :
    (s.reissue q t fate).SameEnv s := by
  unfold State.reissue
  repeat' split
  all_goals simp

@[simp] theorem State.revokeAndReissue_env (q t : Nat) : (s.revokeAndReissue q t).SameEnv s := by
  unfold State.revokeAndReissue
  split
  · exact (State.faultRegion_env _ _ 3).trans (s.revoke_env q t)
  · exact (State.reissue_env _ q t {}).trans (s.revoke_env q t)

/-! Resets, the loss of a die, and records of a lockout. -/

@[simp] theorem State.resetPort_env (p : Nat) : (s.resetPort p).SameEnv s :=
  State.portTo_env (s.setLport p { s.lport p with lanes := 0 }) p .disabled

@[simp] theorem State.resetLink_env (l : Nat) : (s.resetLink l).SameEnv s :=
  foldl_env State.resetPort _ s fun s p => s.resetPort_env p

@[simp] theorem State.adopt_env (r d n : Nat) (ran : List (Nat × Nat)) :
    (s.adopt r d n ran).SameEnv s := by
  unfold State.adopt
  split
  · exact s.faultRegion_env r 2
  · exact foldl_env _ (s.runningOf r) s fun s t => s.revokeAndReissue_env t.1 t.2

@[simp] theorem State.regionsLose_env (d : Nat) (ran : List (Nat × Nat)) :
    (s.regionsLose d ran).SameEnv s := by
  refine foldl_env _ _ s fun s r => ?_
  dsimp only
  repeat' split
  all_goals simp

@[simp] theorem State.loseDie_env (d : Nat) : (s.loseDie d).SameEnv s :=
  (State.regionsLose_env _ d _).trans (foldl_env _ _ s fun s t => s.revokeAndReissue_env t.1 t.2)

end

end Sys2Proof.Machine
end

section
/-! PROOF. What an asserted reset source leaves: its episode, the dies it puts in reset, and what no reset touches. -/

namespace Sys2Proof.Machine

open Sys2Proof

/-! The episode that an assertion begins or joins. -/

section
variable (a : Assertion) (handover : Bool)

/-- The episode that an assertion begins alone. -/
def Assertion.episode : Episode :=
  { asserted := a.adds, reach := a.reach, die := a.die, core := a.core, handover := handover }

/-- One more episode joined to the one that an assertion has begun. -/
def Episode.join (x e : Episode) : Episode :=
  { asserted := x.asserted ++ e.asserted
    reach := if e.reach < x.reach then e.reach else x.reach
    die := if e.reach < x.reach then e.die else x.die
    core := if e.reach < x.reach then e.core else x.core
    handover := x.handover || e.handover
    released := 0 }

theorem joined_eq (es : List Episode) : joined a handover es = es.foldl Episode.join (a.episode handover) := by
  simp only [joined, Assertion.episode, decide_eq_true_eq]
  rfl

theorem mem_adds : a ∈ a.adds := by
  unfold Assertion.adds
  split <;> simp

end

/-- Every die of the FABRIC reach is a die. -/
theorem fabric_subset_allDies : ∀ d ∈ scopeDies rFabric 0, d ∈ allDies := by decide

section
variable {r : Nat} (die : Nat)

theorem scopeDies_all (h : r ≤ 1) : scopeDies r die = allDies := by
  have : r = rPower ∨ r = rModule := by
    unfold rPower rModule
    omega
  rw [scopeDies, if_pos this]

theorem scopeDies_fabric : scopeDies rFabric die = scopeDies rFabric 0 := rfl

theorem scopeDies_die : scopeDies rDie die = [die] := rfl

theorem scopeDies_none (h : 4 ≤ r) : scopeDies r die = [] := by
  have hwide : ¬(r = rPower ∨ r = rModule) ∧ r ≠ rFabric ∧ r ≠ rDie := by
    unfold rPower rModule rFabric rDie
    omega
  obtain ⟨h1, h2, h3⟩ := hwide
  rw [scopeDies, if_neg h1, if_neg h2, if_neg h3]

end

/-- Two reaches of whole dies meet where their scopes do. -/
theorem scopesMeet_dies {r r' : Nat} (h : r ≤ 3) (h' : r' ≤ 3) (die c die' c' : Nat) :
    scopesMeet r' die' c' r die c = (scopeDies r' die').any (fun d => (scopeDies r die).contains d) := by
  have hcore : r ≠ rCore ∧ r' ≠ rCore := by
    unfold rCore
    omega
  rw [scopesMeet, if_neg hcore.2, if_neg hcore.1]

/-- A wider reach whose scope meets a die's covers it. -/
theorem mem_scope_of_meets {r die c r' die' c' d : Nat} (hlt : r' < r) (hmeets : scopesMeet r' die' c' r die c = true)
    (hd : d ∈ scopeDies r die) : d ∈ scopeDies r' die' := by
  have hr : r ≤ 3 := by
    by_contra h
    rw [scopeDies_none die (by omega)] at hd
    cases hd
  have hboth := hmeets
  rw [scopesMeet_dies hr (by omega)] at hboth
  obtain ⟨x, hx, hx'⟩ := List.any_eq_true.1 hboth
  rw [List.contains_iff_mem] at hx'
  have hcases : r' ≤ 1 ∨ r' = 2 := by omega
  rcases hcases with hall | rfl
  · rw [scopeDies_all die' hall] at hx ⊢
    have hcases : r = 1 ∨ r = 2 ∨ r = 3 := by omega
    rcases hcases with rfl | rfl | rfl
    · exact hd
    · exact fabric_subset_allDies d hd
    · rw [List.mem_singleton.1 hd, ← List.mem_singleton.1 hx']
      exact hx
  · obtain rfl : r = 3 := by omega
    rw [List.mem_singleton.1 hd, ← List.mem_singleton.1 hx']
    exact hx

section
variable {a : Assertion} {handover : Bool} {es : List Episode}

/-- The joined episode holds the assertion, no group of it is released, and its scope covers the assertion's. -/
theorem joined_spec (hmeet : ∀ e ∈ es, scopesMeet e.reach e.die e.core a.reach a.die a.core = true) :
    a ∈ (joined a handover es).asserted ∧ (joined a handover es).released = 0
      ∧ (∀ d ∈ scopeDies a.reach a.die, d ∈ scopeDies (joined a handover es).reach (joined a handover es).die) := by
  rw [joined_eq]
  have hstep : ∀ (es : List Episode) (x : Episode),
      (∀ e ∈ es, scopesMeet e.reach e.die e.core a.reach a.die a.core = true) →
      a ∈ x.asserted → x.released = 0 → x.reach ≤ a.reach →
      (∀ d ∈ scopeDies a.reach a.die, d ∈ scopeDies x.reach x.die) →
      a ∈ (es.foldl Episode.join x).asserted ∧ (es.foldl Episode.join x).released = 0
        ∧ ∀ d ∈ scopeDies a.reach a.die, d ∈ scopeDies (es.foldl Episode.join x).reach
            (es.foldl Episode.join x).die := by
    intro es
    induction es with
    | nil => exact fun x _ ha h0 _ hscope => ⟨ha, h0, hscope⟩
    | cons e es ih =>
      intro x hmeet ha h0 hle hscope
      refine ih (x.join e) (fun f hf => hmeet f (by simp [hf])) (List.mem_append_left _ ha) rfl ?_ fun d hd => ?_
      · simp only [Episode.join]
        split_ifs <;> omega
      · simp only [Episode.join]
        split_ifs with hlt
        · exact mem_scope_of_meets (by omega) (hmeet e (by simp)) hd
        · exact hscope d hd
  exact hstep es _ hmeet (mem_adds a) rfl le_rfl fun _ hd => hd

end

section
variable (s : State) (src reach die core : Nat) (held handover : Bool)

/-- The episodes after an assertion: those it does not meet, and the one it begins or joins. -/
theorem State.assertAt_episodes : (s.assertAt src reach die core held handover).resets.episodes =
    s.resets.episodes.filter (fun e => !scopesMeet e.reach e.die e.core reach die core)
      ++ [joined { src := src, reach := reach, die := die, core := core, held := held } handover
        (s.resets.episodes.filter (fun e => scopesMeet e.reach e.die e.core reach die core))] := rfl

/-- A source that asserts stands in an episode, and the dies in the scope of its reach are in reset. -/
theorem State.assertAt_asserting :
    asserting (s.assertAt src reach die core held handover) src reach die core held := by
  have hspec := joined_spec (a := { src := src, reach := reach, die := die, core := core, held := held })
    (handover := handover)
    (es := s.resets.episodes.filter (fun e => scopesMeet e.reach e.die e.core reach die core))
    fun e he => (List.mem_filter.1 he).2
  obtain ⟨hmem, hreleased, hscope⟩ := hspec
  refine ⟨⟨_, ?_, hmem⟩, fun d hd => ?_⟩
  · rw [State.assertAt_episodes]
    exact List.mem_append_right _ (List.mem_singleton_self _)
  · rw [State.dieInReset, State.inEpisode, State.assertAt_episodes, List.any_append, Bool.or_eq_true, Bool.or_eq_true]
    refine .inl (.inr (List.any_eq_true.2 ⟨_, List.mem_singleton_self _, ?_⟩))
    rw [Bool.and_eq_true]
    exact ⟨List.contains_iff_mem.2 (hscope d hd), by simp [Episode.freed, hreleased]⟩

end

/-- Whether a source asserts is a matter of the resets alone. -/
theorem asserting_of_resets {s t : State} {src reach die core : Nat} {held : Bool} (h : t.resets = s.resets)
    (ha : asserting s src reach die core held) : asserting t src reach die core held := by
  unfold asserting State.dieInReset State.inEpisode at *
  rwa [h]

/-! What no reset touches. -/

/-- Two states agree in what lies outside the dies: the input stage, the phases, the temperatures, the trips, the
fuses and the
flash. -/
@[reducible, simp] def State.SameInput (t s : State) : Prop :=
  t.power.tripping = s.power.tripping ∧ t.power.input = s.power.input ∧ t.power.phases = s.power.phases
    ∧ t.power.temps = s.power.temps ∧ t.boot.fuses = s.boot.fuses ∧ t.boot.flash = s.boot.flash

theorem State.sameInput_refl (s : State) : s.SameInput s := ⟨rfl, rfl, rfl, rfl, rfl, rfl⟩

theorem State.SameInput.trans {r s t : State} (h : t.SameInput s) (h' : s.SameInput r) : t.SameInput r := by
  simpa [h'] using h

theorem State.SameEnv.sameInput {s t : State} (h : t.SameEnv s) : t.SameInput s := by
  simp [h]

theorem foldl_sameInput {β : Type} (f : State → β → State) (l : List β) (s : State) (hf : ∀ s x, (f s x).SameInput s) :
    (l.foldl f s).SameInput s := by
  induction l generalizing s with
  | nil => exact s.sameInput_refl
  | cons x l ih => exact (ih (f s x)).trans (hf s x)

section
variable (s : State)

theorem State.resetNodes_resetLogs_sameInput (ds ks : List Nat) : ((s.resetLogs ds).resetNodes ks).SameInput s :=
  s.sameInput_refl

theorem State.resetPool_sameInput : s.resetPool.SameInput s := by
  unfold State.resetPool
  dsimp only [State.SameInput]
  exact ⟨rfl, rfl, rfl, rfl, rfl, rfl⟩

theorem State.resetCompute_sameInput (d : Nat) : (s.resetCompute d).SameInput s := s.sameInput_refl

/-- The ports, the cores, the logs and the clock nodes of a FABRIC reset. -/
def State.fabricDies (s : State) : State :=
  let t := (List.range 12).foldl State.resetCompute ((s.resetLink 0).resetLink 1)
  (t.resetLogs (scopeDies rFabric 0)).resetNodes ((scopeDies rFabric 0).flatMap nodesOf)

theorem State.resetFabric_frame : s.resetFabric = { s.fabricDies with
    store := s.resetFabric.store, link := s.resetFabric.link, ge := s.resetFabric.ge } := rfl

theorem State.fabricDies_sameInput : s.fabricDies.SameInput s := by
  have hlinks : ((s.resetLink 0).resetLink 1).SameInput s :=
    ((s.resetLink 0).resetLink_env 1).sameInput.trans (s.resetLink_env 0).sameInput
  have hcompute := (foldl_sameInput State.resetCompute (List.range 12) ((s.resetLink 0).resetLink 1)
    fun s d => s.resetCompute_sameInput d).trans hlinks
  exact (State.resetNodes_resetLogs_sameInput _ _ _).trans hcompute

theorem State.resetFabric_sameInput : s.resetFabric.SameInput s := by
  have hkept : ∀ {t u : State} {x : Store} {y : Link} {z : GraphEngines}, u =
      { t with store := x, link := y, ge := z } →
      t.SameInput s → u.SameInput s := by
    rintro t u x y z rfl h
    exact h
  exact hkept s.resetFabric_frame s.fabricDies_sameInput

theorem State.resetModule_sameInput : s.resetModule.SameInput s := by
  have hports : ((List.range 8).foldl State.leaveReady s).SameInput s := foldl_sameInput _ _ _ fun s p => by
    unfold State.leaveReady
    split <;> exact s.sameInput_refl
  unfold State.resetModule
  generalize (List.range 8).foldl State.leaveReady s = t at *
  exact hports

theorem State.resetScope_sameInput (reach die core : Nat) : (s.resetScope reach die core).SameInput s := by
  unfold State.resetScope
  split_ifs
  · exact s.sameInput_refl
  · exact s.resetModule_sameInput
  · exact s.resetFabric_sameInput
  · exact s.sameInput_refl
  · exact s.sameInput_refl
  · exact (((s.resetLogs [die]).resetNodes (nodesOf die)).resetLink_env (die - 48)).sameInput
  · exact s.sameInput_refl
  · exact s.sameInput_refl

theorem State.dropChange_sameInput (reach die : Nat) : (s.dropChange reach die).SameInput s := by
  unfold State.dropChange
  split
  · split <;> exact s.sameInput_refl
  · exact s.sameInput_refl

theorem State.assertAt_sameInput (src reach die core : Nat) (held handover : Bool) :
    (s.assertAt src reach die core held handover).SameInput s := by
  have hscope := s.resetScope_sameInput reach die core
  unfold State.assertAt
  dsimp only [State.SameInput]
  generalize s.resetScope reach die core = t at *
  split_ifs
  · exact (State.resetPool_sameInput _).trans
      ((State.dropChange_sameInput _ reach die).trans (t.resetFabric_sameInput.trans hscope))
  · exact (State.resetPool_sameInput _).trans ((t.dropChange_sameInput reach die).trans hscope)

theorem State.assert_sameInput (src die : Nat) (held : Bool) : (s.assert_ src die held).SameInput s := by
  unfold State.assert_
  dsimp only
  refine (State.assertAt_sameInput _ _ _ _ _ _ _).trans ?_
  split
  · exact (s.loseDie_env die).sameInput
  · exact s.sameInput_refl

/-- A source asserted with a target, at the reach of the reach table widened by the target. -/
theorem State.assert_asserting (src die : Nat) (held : Bool) :
    asserting (s.assert_ src die held) src (widened (s.reachOf src) die) die 0 held :=
  State.assertAt_asserting _ _ _ _ _ _ _

end

end Sys2Proof.Machine
end

section
/-! PROOF. O48: temperature readings, thermal trips and thermal levels. -/

namespace Sys2Proof.Machine

open Sys2Proof

/-! Readings (R396, R397). -/

section
variable (s : State) (n t : Nat)

/-- The run of readings at or above TTRIP after a reading. -/
def State.runAfter : Nat := if s.power.ttrip ≤ t then Assoc.get 0 s.power.tripRun n + 1 else 0

/-- A state with a reading taken in: the reading, its run, the hottest sensor, and the dies that trip no longer. -/
def State.taken : State :=
  let u := { s with power := { s.power with
    temps := Assoc.put 0 s.power.temps n t, tripRun := Assoc.put 0 s.power.tripRun n (s.runAfter n t) } }
  let h := u.hottest (Assoc.keys u.power.temps)
  { u with power := { u.power with
    hotdie := (h.map dieOfSensor).getD 0, tmax := (h.map u.temp).getD 0
    tripping := u.power.tripping.filter (fun d => !(u.cooled d)) } }

theorem State.readSensor_eq : s.readSensor n t = if s.runAfter n t = 3 ∧ !((s.taken n t).power.tripping.contains
    (dieOfSensor n)) then (s.taken n t).trip n else s.taken n t := rfl

theorem State.taken_frame : s.taken n t = { s with power := { s.power with
    temps := (s.taken n t).power.temps, tripRun := (s.taken n t).power.tripRun
    hotdie := (s.taken n t).power.hotdie, tmax := (s.taken n t).power.tmax
    tripping := (s.taken n t).power.tripping } } := rfl

theorem State.temp_taken : (s.taken n t).temp n = t ∧ ∀ k, k ≠ n → (s.taken n t).temp k = s.temp k :=
  Assoc.put_reads 0 s.power.temps n t

theorem State.tripRun_taken : Assoc.get 0 (s.taken n t).power.tripRun n = s.runAfter n t :=
  Assoc.get_put_same ..

/-- A die that does not trip does not after a reading. -/
theorem State.tripping_taken {d : Nat} (h : s.power.tripping.contains d = false) :
    (s.taken n t).power.tripping.contains d = false := by
  have hmem : d ∉ s.power.tripping := by simpa using h
  have hsub : (s.taken n t).power.tripping ⊆ s.power.tripping := fun _ hd => (List.mem_filter.1 hd).1
  simpa using fun hd => hmem (hsub hd)

end

/-- A reading that makes no third one in a row at or above TTRIP. -/
theorem State.readSensor_quiet {s : State} {n t : Nat} (h : s.runAfter n t ≠ 3) : s.readSensor n t = s.taken n t := by
  rw [State.readSensor_eq, if_neg fun hn => h hn.1]

/-- The third reading in a row at or above TTRIP of a die that does not trip. -/
theorem State.readSensor_trip {s : State} {n t : Nat} (hrun : s.runAfter n t = 3)
    (hnot : s.power.tripping.contains (dieOfSensor n) = false) : s.readSensor n t = (s.taken n t).trip n := by
  rw [State.readSensor_eq, State.tripping_taken s n t hnot]
  exact if_pos ⟨hrun, rfl⟩

/-- A state whose log has the record of a trip, and whose die trips. -/
def State.tripped (s : State) (n : Nat) : State :=
  let r := s.tripReach (dieOfSensor n)
  let x := s.thermalRec n true
  let u := if r = rPower ∨ r = rModule then s.mlog x else s.toEq0Log x
  { u with power := { u.power with tripping := u.power.tripping ++ [dieOfSensor n] } }

theorem State.tripped_frame (s : State) (n : Nat) : s.tripped n =
    { s with logs := (s.tripped n).logs, power := { s.power with
    tripping := s.power.tripping ++ [dieOfSensor n] } } := by
  unfold State.tripped
  dsimp only
  split_ifs
  · rfl
  · rw [State.toEq0Log_frame]

theorem State.tripped_contains (s : State) (n : Nat) : (s.tripped n).power.tripping.contains (dieOfSensor n) = true :=
    by
  rw [State.tripped_frame]
  simp

/-- A trip asserts source 5 at the die, or at the input stage, and the die trips. -/
theorem State.trip_die (s : State) {n : Nat} (h : dieOfSensor n ≠ 0xFF) :
    asserting (s.trip n) 5 (widened (s.reachOf 5) (dieOfSensor n)) (dieOfSensor n) 0 true
      ∧ (s.trip n).power.tripping.contains (dieOfSensor n) = true := by
  have htrip : s.trip n = if s.tripReach (dieOfSensor n) = rDie then
      ((s.tripped n).assert_ 5 (dieOfSensor n) true).powerEvent 2 else (s.tripped n).assert_ 5 (dieOfSensor n) true :=
    if_neg h
  have hreach : (s.tripped n).reachOf 5 = s.reachOf 5 := by
    rw [State.tripped_frame]
    rfl
  have hassert := (s.tripped n).assert_asserting 5 (dieOfSensor n) true
  have hkept := (s.tripped n).assert_sameInput 5 (dieOfSensor n) true
  rw [hreach] at hassert
  have htripping : ((s.tripped n).assert_ 5 (dieOfSensor n) true).power.tripping.contains (dieOfSensor n) = true := by
    rw [hkept.1, State.tripped_contains]
  rw [htrip]
  generalize (s.tripped n).assert_ 5 (dieOfSensor n) true = u at *
  split_ifs
  · exact ⟨asserting_of_resets rfl hassert, htripping⟩
  · exact ⟨hassert, htripping⟩

theorem State.trip_input (s : State) {n : Nat} (h : dieOfSensor n = 0xFF) :
    asserting (s.trip n) 5 (s.tripReach 0xFF) 0xFF 0 true ∧ (s.trip n).power.tripping.contains 0xFF = true := by
  have htrip : s.trip n = (s.tripped n).assertAt 5 (s.tripReach (dieOfSensor n)) 0xFF 0 true false := if_pos h
  have htripping := s.tripped_contains n
  rw [h] at htrip htripping
  rw [htrip]
  refine ⟨State.assertAt_asserting _ _ _ _ _ _ _, ?_⟩
  rw [(State.assertAt_sameInput _ _ _ _ _ _ _).1, htripping]

theorem temperatureRead : Claims.TemperatureRead := by
  intro s x t hx n
  have hrun : exec (.thermalSensorRead x t) s = .next (s.readSensor n t) := if_pos hx
  have hthird : s.power.ttrip ≤ t → Assoc.get 0 s.power.tripRun n = 2 → s.runAfter n t = 3 := by
    intro htrip htwo
    rw [State.runAfter, if_pos htrip, htwo]
  have hreach : ∀ d, (s.taken n t).tripReach d = s.tripReach d := fun d => rfl
  rw [hrun]
  refine ⟨fun hquiet => ?_, fun htrip htwo hdie hnot => ?_, fun htrip htwo hinput hnot => ?_⟩
  · have hnone : s.runAfter n t ≠ 3 := by
      unfold State.runAfter
      split_ifs with h
      · intro h3
        rcases hquiet with hlow | hrun
        · omega
        · exact hrun (by omega)
      · decide
    rw [State.readSensor_quiet hnone]
    exact ⟨_, rfl, (s.temp_taken n t).1, (s.temp_taken n t).2, s.tripRun_taken n t, rfl⟩
  · rw [State.readSensor_trip (hthird htrip htwo) hnot]
    exact ⟨_, rfl, (s.taken n t).trip_die hdie⟩
  · subst hinput
    rw [State.readSensor_trip (hthird htrip htwo) hnot]
    exact ⟨_, rfl, (s.taken n t).trip_input rfl⟩

/-! Levels (R396). -/

section
variable (s : State)

/-- What a throttle that starts changes: the logs and a status bit. -/
theorem State.throttle_frame (was now n : Nat) : s.throttle was now n = { s with
    logs := (s.throttle was now n).logs
    power := { s.power with sc := (s.throttle was now n).power.sc } } := by
  unfold State.throttle
  split_ifs
  · rw [State.toEq0Log_frame]
    rfl
  · rfl

theorem State.levelAfter_eq {h t : Nat} (hlow : 1 ≤ h) (hhigh : h ≤ 16) : s.levelAfter h t =
    if s.power.tthrot < t then (if h = 1 then 1 else h - 1)
    else if t + 3 < s.power.tthrot then (if h = 16 then 16 else h + 1) else h := by
  unfold State.levelAfter
  split_ifs <;> omega

end

theorem thermalLevelStep : Claims.ThermalLevelStep := by
  intro s d g hup h t hlow hhigh
  have hrun : exec (.thermalLevelStep (.rowGroup d g)) s = .next (s.stepGroup d.val g.val) :=
    congrArg s.happens (if_pos hup)
  rw [hrun]
  refine ⟨_, rfl, ?_⟩
  rw [State.stepGroup, State.throttle_frame, ← s.levelAfter_eq hlow hhigh]
  obtain ⟨hset, hothers⟩ := Assoc.put_reads 16 (s.diePower d.val).h g.val (s.levelAfter h t)
  have hdie := s.diePower_setDiePower_frame d.val { s.diePower d.val with
    h := Assoc.put 16 (s.diePower d.val).h g.val (s.levelAfter h t) }
  have hlevels := congrArg DiePower.h hdie
  refine ⟨?_, fun k hk => ?_, fun k hk => s.diePower_setDiePower_other _ hk, rfl, rfl, rfl⟩
  · exact (congrArg (fun m => Assoc.get 16 m g.val) hlevels).trans hset
  · exact (congrArg (fun m => Assoc.get 16 m k) hlevels).trans (hothers k hk)

/-- The hottest of some sensors so far and one more. -/
def State.hotter (s : State) (m : Option Nat) (n : Nat) : Option Nat :=
  match m with
  | some k => if s.temp k < s.temp n then some n else some k
  | none => some n

theorem State.hottest_eq (s : State) (ns : List Nat) : s.hottest ns = ns.foldl s.hotter none := rfl

theorem State.foldl_hotter {s : State} {t : Nat} {ns : List Nat} {k : Nat} (hk : s.temp k ≤ t)
    (hle : ∀ n ∈ ns, s.temp n ≤ t)
    (hex : s.temp k = t ∨ ∃ n ∈ ns, s.temp n = t) : ∃ n, ns.foldl s.hotter (some k) = some n ∧ s.temp n = t := by
  induction ns generalizing k with
  | nil => exact ⟨k, rfl, by simpa using hex⟩
  | cons n ns ih =>
    have hn := hle n (by simp)
    have hrest : ∀ n ∈ ns, s.temp n ≤ t := fun m hm => hle m (by simp [hm])
    have hex' : s.temp k = t ∨ s.temp n = t ∨ ∃ n ∈ ns, s.temp n = t := by simpa using hex
    rw [List.foldl_cons, State.hotter]
    split_ifs with hlt
    · exact ih hn hrest (hex'.elim (fun h => absurd h (by omega)) id)
    · exact ih hk hrest (hex'.elim .inl fun h => h.elim (fun h => .inl (by omega)) .inr)

/-- The hottest of some sensors reads as high as any of them. -/
theorem State.hottest_spec {s : State} {ns : List Nat} {t : Nat} (hle : ∀ n ∈ ns, s.temp n ≤ t)
    (hex : ∃ n ∈ ns, s.temp n = t) : ∃ n, s.hottest ns = some n ∧ s.temp n = t := by
  cases ns with
  | nil => simp at hex
  | cons n ns =>
    rw [State.hottest_eq, List.foldl_cons]
    exact State.foldl_hotter (hle n (by simp)) (fun m hm => hle m (by simp [hm])) (by simpa using hex)

theorem moduleThermalLevel : Claims.ModuleThermalLevel := by
  intro s x t hup hx hle hex hlow hhigh
  have hrun : exec (.thermalLevelStep x) s = .next s.stepModule := by
    rcases hx with rfl | ⟨i, rfl, hi, hexists⟩
    · exact congrArg s.happens (if_pos hup)
    · refine (if_pos hexists).trans (congrArg s.happens (if_pos ?_))
      simp [hup, hi]
  obtain ⟨n, hn, ht⟩ := State.hottest_spec hle hex
  have hlevel : s.levelAfter s.power.hm (s.temp ((s.hottest moduleSensors).getD 200)) = s.levelAfter s.power.hm t := by
    rw [hn, Option.getD_some, ht]
  rw [hrun]
  refine ⟨_, rfl, ?_⟩
  rw [State.stepModule, State.throttle_frame, ← s.levelAfter_eq hlow hhigh]
  exact ⟨hlevel, rfl, rfl, rfl⟩

/-- Settles O48: a reading taken in, then a trip where it is the third; a level by its step. -/
theorem temperatures : Obligations.Temperatures :=
  ⟨temperatureRead, thermalLevelStep, moduleThermalLevel⟩

end Sys2Proof.Machine
end

section
/-! PROOF. O46: power domains, their requests and their changes. -/

namespace Sys2Proof.Machine

open Sys2Proof

theorem getLsbD_withBit {w : Nat} (m : BitVec w) {d : Nat} (hd : d < w) (on : Bool) (k : Nat) :
    (withBit m d on).getLsbD k = if k = d then on else m.getLsbD k := by
  have hone : (1#w <<< d).getLsbD k = decide (k = d) := by
    rw [BitVec.getLsbD_shiftLeft, BitVec.getLsbD_one]
    by_cases hk : k = d
    · subst hk
      simp only [hd, decide_true, Nat.lt_irrefl, decide_false, Nat.sub_self]
      simp
      omega
    · rcases Nat.lt_or_gt_of_ne hk with h | h
      · simp [h, hk]
      · have : k - d ≠ 0 := by omega
        simp [hk, this]
  cases on
  · simp only [withBit, Bool.false_eq_true, if_false, BitVec.getLsbD_and, BitVec.getLsbD_not, hone]
    by_cases hk : k = d
    · simp [hk]
    · by_cases hkw : k < w
      · simp [hk, hkw]
      · simp [hk, BitVec.getLsbD_of_ge m k (by omega)]
  · simp only [withBit, if_true, BitVec.getLsbD_or, hone]
    by_cases hk : k = d <;> simp [hk]

/-! Requests (R386, R387). -/

theorem foldl_unchanged {σ ι : Type} {f : σ → ι → σ} {l : List ι} {s : σ} (h : ∀ x ∈ l, f s x = s) : l.foldl f s
    = s := by
  induction l with
  | nil => rfl
  | cons x l ih =>
    rw [List.foldl_cons, h x (by simp)]
    exact ih fun y hy => h y (by simp [hy])

/-- A fold over a list that holds d once, whose steps change the state at d alone. -/
theorem foldl_changes_once {σ ι : Type} {f : σ → ι → σ} {l : List ι} {s : σ} {d : ι} (hmem : d ∈ l) (hnodup : l.Nodup)
    (hbefore : ∀ x, x ≠ d → f s x = s) (hafter : ∀ x, x ≠ d → f (f s d) x = f s d) : l.foldl f s = f s d := by
  induction l with
  | nil => simp at hmem
  | cons y l ih =>
    rw [List.nodup_cons] at hnodup
    rw [List.foldl_cons]
    by_cases hy : y = d
    · subst hy
      exact foldl_unchanged fun x hx => hafter x fun h => hnodup.1 (h ▸ hx)
    · rw [hbefore y hy]
      exact ih ((List.mem_cons.1 hmem).resolve_left fun h => hy h.symm) hnodup.2

section
variable (s : State)

/-- A domain whose request stands as wanted is left. -/
theorem State.reqDomain_same {want : BitVec 20} {on : Bool} {r : BitVec 20 × Bool} {d : Nat}
    (h : want.getLsbD d = r.1.getLsbD d) : s.reqDomain want on r d = r := by
  unfold State.reqDomain
  simp only [bit, h]
  cases r.1.getLsbD d <;> cases on <;> rfl

/-- A write that asks for one more domain, and for no other change. -/
theorem State.reqAfter_one {want : BitVec 20} {d : Nat} (hd : d < 19) (hoff : s.power.req.getLsbD d = false)
    (hwant : want = withBit s.power.req d true) :
    s.reqAfter want = if s.changeRefused s.power.req d true then (s.power.req, true) else (want, false) := by
  have hbit : ∀ k, want.getLsbD k = if k = d then true else s.power.req.getLsbD k := fun k => by
    rw [hwant, getLsbD_withBit _ (by omega)]
  have hoffs : (offOrder ++ [19]).foldl (s.reqDomain want false) (s.power.req, false) = (s.power.req, false) := by
    refine foldl_unchanged fun x _ => ?_
    by_cases hx : x = d
    · subst hx
      simp [State.reqDomain, bit, hbit]
    · exact s.reqDomain_same (by rw [hbit, if_neg hx])
  have hon : s.reqDomain want true (s.power.req, false) d =
      if s.changeRefused s.power.req d true then (s.power.req, true) else (want, false) := by
    rw [hwant]
    simp only [State.reqDomain, bit, hoff, getLsbD_withBit _ (show d < 20 by omega), if_true]
    rfl
  unfold State.reqAfter
  rw [hoffs, ← hon]
  refine foldl_changes_once ?_ (by decide) (fun x hx => s.reqDomain_same (by rw [hbit, if_neg hx])) fun x hx => ?_
  · have hall : ∀ d < 19, d ∈ domOrder := by decide
    exact hall d hd
  · rw [hon]
    split_ifs
    · exact s.reqDomain_same (by rw [hbit, if_neg hx])
    · exact s.reqDomain_same rfl

/-- What the start of a domain change touches. -/
theorem State.startChange_frame :
    s.startChange = { s with power := { s.power with change := s.startChange.power.change } } := by
  unfold State.startChange
  split <;> rfl

end

theorem domMask_operator : domMask .operator = BitVec.allOnes 20 := by decide

/-- A write of the operator to PWR_DOM: what REQ becomes, and what a refusal shows. -/
theorem State.putPwrDom_operator (s : State) (v : Word) (r : BitVec 20 × Bool) (h : s.reqAfter (v.truncate 20) = r) :
    s.putPwrDom .operator v = ((if r.2 then ((({ s with power :=
        { s.power with req := r.1 } } : State).powerEvent 0).refuseWrite
      .operator pwrDomAddr v) else { s with power := { s.power with req := r.1 } })).startChange := by
  unfold State.putPwrDom
  simp only [domMask_operator, BitVec.not_allOnes, BitVec.and_zero, BitVec.and_allOnes, BitVec.zero_or, h]

theorem domainRequested : Claims.DomainRequested := by
  intro s v d h hd hoff hv
  have hrun : exec (.pwrDom .operator v) s = .next ((s.putPwrDom .operator v).respond .done) :=
    congrArg Host.Outcome.next (State.onWrite_open s _ _ _ h)
  have hafter := s.reqAfter_one hd hoff hv
  rw [hrun]
  refine ⟨fun hneeds hnormal => ?_, fun ⟨x, hx, hxoff⟩ => ?_⟩
  · have hok : s.changeRefused s.power.req d true = false := by
      have hall : (domNeeds d).all (fun x => bit s.power.req x) = true := List.all_eq_true.2 hneeds
      simp [State.changeRefused, hall, hnormal, show d ≠ 19 by omega]
    rw [hok, if_neg Bool.false_ne_true] at hafter
    rw [s.putPwrDom_operator v _ hafter, State.startChange_frame]
    exact ⟨_, rfl, rfl, rfl, rfl, rfl, rfl⟩
  · have hbad : s.changeRefused s.power.req d true = true := by
      have hall : (domNeeds d).all (fun x => bit s.power.req x) = false := by
        rw [List.all_eq_false]
        exact ⟨x, hx, by simp [bit, hxoff]⟩
      simp [State.changeRefused, hall]
    rw [hbad, if_pos rfl] at hafter
    rw [s.putPwrDom_operator v _ hafter, State.startChange_frame]
    exact ⟨_, rfl, rfl, Sc.has_event _ _, rfl, rfl⟩

/-! Changes (R387, R428). -/

/-- Two states agree in the domains that are on and requested. -/
@[reducible, simp] def State.SameDomains (t s : State) : Prop :=
  t.power.state = s.power.state ∧ t.power.req = s.power.req

theorem State.SameDomains.trans {r s t : State} (h : t.SameDomains s) (h' : s.SameDomains r) : t.SameDomains r :=
  ⟨h.1.trans h'.1, h.2.trans h'.2⟩

theorem State.SameEnv.sameDomains {s t : State} (h : t.SameEnv s) : t.SameDomains s := by
  simp [h]

theorem foldl_sameDomains {β : Type} (f : State → β → State) (l : List β) (s : State)
    (hf : ∀ s x, (f s x).SameDomains s) : (l.foldl f s).SameDomains s := by
  induction l generalizing s with
  | nil => exact ⟨rfl, rfl⟩
  | cons x l ih => exact (ih (f s x)).trans (hf s x)

section
variable (s : State)

theorem State.resetHelm_sameDomains : s.resetHelm.SameDomains s := by
  have hrevoked := foldl_env (fun s q => (s.liveTasks q).foldl (fun s t => s.revoke q t) s) (Assoc.keys s.ge.sqs) s
    fun s q => foldl_env _ _ _ fun s t => s.revoke_env q t
  unfold State.resetHelm
  generalize (Assoc.keys s.ge.sqs).foldl (fun s q => (s.liveTasks q).foldl (fun s t => s.revoke q t) s) s = t at *
  exact hrevoked.sameDomains

theorem State.resetGroup_sameDomains (g : Nat) : (s.resetGroup g).SameDomains s := by
  have hdies := foldl_sameDomains (fun s d => (s.resetLogs [d]).resetNodes (nodesOf d)) (domDies (12 + g)) s
    fun s d => ⟨rfl, rfl⟩
  unfold State.resetGroup
  generalize (domDies (12 + g)).foldl (fun s d => (s.resetLogs [d]).resetNodes (nodesOf d)) s = t at *
  exact hdies

theorem State.enterDomain_sameDomains (d : Nat) : (s.enterDomain d).SameDomains s := by
  unfold State.enterDomain
  split_ifs
  · exact ⟨rfl, rfl⟩
  · exact s.resetGroup_sameDomains _
  · exact (State.resetLink_env ((s.resetLogs [32 + d]).resetNodes (nodesOf (32 + d))) (d - 16)).sameDomains
  · exact s.resetHelm_sameDomains
  · exact foldl_sameDomains _ _ _ fun s x => ⟨rfl, rfl⟩

theorem State.bootLast_sameDomains : s.bootLast.SameDomains s := by
  unfold State.bootLast
  dsimp only
  split_ifs
  · exact ⟨rfl, rfl⟩
  · exact ⟨rfl, rfl⟩
  · exact (s.extWrite_env 0 _).sameDomains

theorem State.bootOn_sameDomains : s.bootOn.SameDomains s := by
  unfold State.bootOn
  split
  · exact s.bootLast_sameDomains
  · exact ⟨rfl, rfl⟩

/-! A change in its steps: the domain's bit and its dies, the pool, the components, the next change, boot. -/

/-- The domain's bit, what its dies hold, and their PLLs. -/
def State.domainEntered (d : Nat) (on : Bool) : State :=
  let t := { s with power := { s.power with change := none, state := withBit s.power.state d on } }
  (if on then t.enterDomain d else t).lockNodes d on

/-- The pool, where the number of compute dies that are on has changed. -/
def State.repooled (d : Nat) : State := if d < 12 then s.resetPool else s

/-- The components of the dies: lost, or loaded, and step 7 of boot with HD. -/
def State.domainWoken (d : Nat) (on : Bool) : State :=
  if !on then s.unload (domDies d)
  else if d = 18 ∧ s.boot.stage = .svFw then s
  else if d = 18 ∧ s.boot.stage = .running then s.bootLast
  else s.wake (domDies d)

theorem State.domainDone_eq (d : Nat) (on : Bool) :
    s.domainDone d on = (((s.domainEntered d on).repooled d).domainWoken d on).startChange.bootOn := rfl

theorem State.domainEntered_domains (d : Nat) (on : Bool) :
    (s.domainEntered d on).power.state = withBit s.power.state d on ∧ (s.domainEntered d on).power.req
        = s.power.req := by
  unfold State.domainEntered
  dsimp only
  generalize ht : ({ s with power := { s.power with change := none, state := withBit s.power.state d on } } : State) = t
  have hentered : (if on then t.enterDomain d else t).SameDomains t := by
    split
    · exact t.enterDomain_sameDomains d
    · exact ⟨rfl, rfl⟩
  generalize (if on then t.enterDomain d else t) = u at *
  exact ⟨hentered.1.trans (by rw [← ht]), hentered.2.trans (by rw [← ht])⟩

theorem State.resetPool_frame : ∃ dies pool, s.resetPool = { s with power :=
    { s.power with dies := dies, pool := pool } } :=
  ⟨_, _, rfl⟩

theorem State.repooled_frame (d : Nat) :
    ∃ dies pool, s.repooled d = { s with power := { s.power with dies := dies, pool := pool } } := by
  unfold State.repooled
  split
  · exact s.resetPool_frame
  · exact ⟨_, _, rfl⟩

theorem State.domainWoken_sameDomains (d : Nat) (on : Bool) : (s.domainWoken d on).SameDomains s := by
  unfold State.domainWoken
  split_ifs
  · exact ⟨rfl, rfl⟩
  · exact ⟨rfl, rfl⟩
  · exact s.bootLast_sameDomains
  · exact ⟨rfl, rfl⟩

theorem State.startChange_sameDomains : s.startChange.SameDomains s := by
  rw [State.startChange_frame]
  exact ⟨rfl, rfl⟩

/-- A domain's change done: its bit of STATE, and REQ. -/
theorem State.domainDone_domains (d : Nat) (on : Bool) :
    (s.domainDone d on).power.state = withBit s.power.state d on ∧ (s.domainDone d on).power.req = s.power.req := by
  rw [State.domainDone_eq]
  obtain ⟨hstate, hreq⟩ := s.domainEntered_domains d on
  generalize s.domainEntered d on = t at *
  have hpool : (t.repooled d).SameDomains t := by
    obtain ⟨dies, pool, hframe⟩ := t.repooled_frame d
    rw [hframe]
    exact ⟨rfl, rfl⟩
  generalize t.repooled d = u at *
  obtain ⟨hstate', hreq'⟩ := ((u.domainWoken d on).startChange.bootOn_sameDomains.trans
    (u.domainWoken d on).startChange_sameDomains).trans ((u.domainWoken_sameDomains d on).trans hpool)
  exact ⟨hstate'.trans hstate, hreq'.trans hreq⟩

/-! The cores of a compute die that comes on. -/

theorem State.bootLast_cores (h : ∀ i, s.boot.image = some i → ∀ p ∈ i.parts, p.2.2.length ≤ ramSize) :
    s.bootLast.cores = s.cores := by
  have hlen : (((((s.boot.image.map (fun i => i.parts)).getD []).find? (fun p => p.1 == 2)).map
      (fun p => p.2.2)).getD []).length ≤ ramSize := by
    cases himage : s.boot.image with
    | none => exact Nat.zero_le _
    | some i =>
      cases hfind : i.parts.find? (fun p => p.1 == 2) with
      | none => simp [hfind]
      | some p => simpa [hfind] using h i himage p (List.mem_of_find?_eq_some hfind)
  unfold State.bootLast
  dsimp only
  generalize (((((s.boot.image.map (fun i => i.parts)).getD []).find? (fun p => p.1 == 2)).map
    (fun p => p.2.2)).getD []) = bs at *
  split_ifs
  · rfl
  · rfl
  · have hlow : 0 + bs.length ≤ windowBase := by
      have : ramSize ≤ windowBase := by decide
      omega
    have hext : (s.extWrite 0 bs).cores = s.cores := by rw [s.extWrite_low hlow]
    exact hext

theorem State.bootOn_cores (h : ∀ i, s.boot.image = some i → ∀ p ∈ i.parts, p.2.2.length ≤ ramSize) :
    s.bootOn.cores = s.cores := by
  unfold State.bootOn
  split
  · exact s.bootLast_cores h
  · rfl

/-- The cores that stand after a compute die has come on: those of other dies. -/
theorem State.domainDone_cores {d : Nat} (hd : d < 12)
    (h : ∀ i, s.boot.image = some i → ∀ p ∈ i.parts, p.2.2.length ≤ ramSize) :
    (s.domainDone d true).cores = s.cores.filter (fun e => dieOfCore e.1 != d) := by
  have hentered : (s.domainEntered d true).cores = s.cores.filter (fun e => dieOfCore e.1 != d)
      ∧ (s.domainEntered d true).boot = s.boot := by
    rw [State.domainEntered, State.enterDomain]
    simp only [if_true, hd]
    exact ⟨rfl, rfl⟩
  rw [State.domainDone_eq]
  generalize s.domainEntered d true = t at *
  have hpool : (t.repooled d).cores = t.cores ∧ (t.repooled d).boot = t.boot := by
    obtain ⟨dies, pool, hframe⟩ := t.repooled_frame d
    rw [hframe]
    exact ⟨rfl, rfl⟩
  generalize t.repooled d = u at *
  have hwoken : u.domainWoken d true = u.wake (domDies d) := by
    have hne : ¬d = 18 := by omega
    simp [State.domainWoken, hne]
  have hsame : (u.wake (domDies d)).startChange.cores = u.cores
      ∧ (u.wake (domDies d)).startChange.boot.image = u.boot.image := by
    rw [State.startChange_frame]
    exact ⟨rfl, rfl⟩
  rw [hwoken, State.bootOn_cores _ (by rw [hsame.2, hpool.2, hentered.2]; exact h), hsame.1, hpool.1, hentered.1]

end

theorem Assoc.get_filtered_out {α : Type} (d : α) (m : Assoc α) {f : Nat × α → Bool} {n : Nat}
    (h : ∀ v, f (n, v) = false) :
    Assoc.get d (m.filter f) n = d := by
  refine Assoc.get_of_not_mem d _ n fun e he hn => ?_
  have := (List.mem_filter.1 he).2
  rw [← hn] at h
  rw [h e.2] at this
  cases this

theorem domainChangeEnds : Claims.DomainChangeEnds := by
  intro s d on hchange hd
  refine ⟨?_, fun hon => ?_⟩
  · have hrun : exec .domainChangeDone s = s.happens (s.power.change.map (fun c => s.domainDone c.1 c.2)) := rfl
    rw [hrun, hchange]
    obtain ⟨hstate, hreq⟩ := s.domainDone_domains d on
    have hbit : ∀ k, (s.domainDone d on).domOn k = if k = d then on else s.domOn k := fun k => by
      unfold State.domOn bit
      rw [hstate, getLsbD_withBit _ hd]
    refine ⟨_, rfl, (hbit d).trans (if_pos rfl), fun k hk => (hbit k).trans (if_neg hk),
        fun himage hcompute hon c hc => ?_, hreq⟩
    subst hon
    rw [State.core, s.domainDone_cores hcompute himage]
    exact Assoc.get_filtered_out _ _ fun v => by simp [hc]
  · subst hon
    have hrun : exec .domainOnTimeout s = .next (s.domainLeftOff d) := by
      have hrun : exec .domainOnTimeout s = s.happens (match s.power.change with
        | some (d, true) => some (s.domainLeftOff d)
        | _ => none) := rfl
      rw [hrun, hchange]
      rfl
    have hbit : ∀ k, (withBit s.power.req d false).getLsbD k = if k = d then false else s.power.req.getLsbD k :=
      getLsbD_withBit _ hd false
    rw [hrun]
    refine ⟨_, rfl, ?_⟩
    unfold State.domainLeftOff
    dsimp only
    rw [State.startChange_frame]
    have hbit' : ∀ k, k ≠ d → (withBit s.power.req d false).getLsbD k = s.power.req.getLsbD k :=
      fun k hk => (hbit k).trans (if_neg hk)
    split_ifs with hfails
    · exact ⟨rfl, (hbit d).trans (if_pos rfl), hbit', Sc.has_event _ _, fun _ _ => ⟨rfl, rfl⟩, rfl, rfl⟩
    · refine ⟨rfl, (hbit d).trans (if_pos rfl), hbit', Sc.has_event _ _, fun hboot hstage => ?_, rfl, rfl⟩
      exact absurd (by rw [hboot, hstage]; rfl) hfails

/-- Settles O46: one bit of REQ at a write, one bit of STATE at a change, and what a domain that enters holds. -/
theorem powerDomains : Obligations.PowerDomains :=
  ⟨domainRequested, domainChangeEnds⟩

end Sys2Proof.Machine
end

section
/-! PROOF. O23: the strike counter and the heartbeat, and what a strike brings. -/

namespace Sys2Proof.Machine

open Sys2Proof

/-- Two states agree in all but the stall windows of their contexts. -/
def State.SameButStalls (t s : State) : Prop :=
  t = { s with store := { s.store with ctxs := t.store.ctxs } }
    ∧ ∀ n, { t.ctx n with blocked := none } = { s.ctx n with blocked := none }

section
variable (s : State)

theorem State.sameButStalls_refl : s.SameButStalls s := ⟨rfl, fun _ => rfl⟩

theorem State.SameButStalls.trans {r s t : State} (h : t.SameButStalls s)
    (h' : s.SameButStalls r) : t.SameButStalls r := by
  obtain ⟨h, hctx⟩ := h
  obtain ⟨h', hctx'⟩ := h'
  refine ⟨?_, fun n => (hctx n).trans (hctx' n)⟩
  generalize t.store.ctxs = cs at h
  subst h
  rw [h']

theorem State.setCtx_blocked (n : Nat) (b : Option Word) :
    (s.setCtx n { s.ctx n with blocked := b }).SameButStalls s := by
  refine ⟨rfl, fun k => ?_⟩
  by_cases hk : k = n
  · subst hk
    rw [State.ctx_setCtx]
  · rw [State.ctx_setCtx_other _ _ hk]

theorem State.watchStalls_sameButStalls : s.watchStalls.SameButStalls s := by
  unfold State.watchStalls
  generalize s.store.ctxs.filter (fun e => e.2.live) = l
  induction l generalizing s with
  | nil => exact s.sameButStalls_refl
  | cons e l ih =>
    refine (ih _).trans ?_
    dsimp only
    split_ifs
    · exact s.sameButStalls_refl
    · exact s.setCtx_blocked _ _
    · exact s.setCtx_blocked _ _
    · exact s.sameButStalls_refl

theorem State.waitEdges_withDeadlocks (ds : List (List (Nat × Nat))) (first : Nat) (c : List (Nat × Nat)) :
    ({ s with ge := { s.ge with deadlocks := ds } } : State).waitEdges first c = s.waitEdges first c := by
  induction c using State.waitEdges.induct with
  | case1 => rfl
  | case2 q f => rfl
  | case3 q f q' f' rest ih => 
    rw [State.waitEdges, ih]
    rfl

/-- Whether a cycle stands does not turn on the reported ones. -/
theorem State.isCycle_withDeadlocks (ds : List (List (Nat × Nat))) :
    ({ s with ge := { s.ge with deadlocks := ds } } : State).isCycle = s.isCycle := by
  funext c
  exact congrArg₂ and rfl (s.waitEdges_withDeadlocks ds _ c)

theorem State.bootAgain_idle (h : s.boot.loading = false) : s.bootAgain = s := by
  simp [State.bootAgain, h]

theorem State.bootLast_clock : s.bootLast.strike = s.strike ∧ s.bootLast.power.tick = s.power.tick := by
  unfold State.bootLast
  generalize (((((s.boot.image.map (fun i => i.parts)).getD []).find? (fun p => p.1 == 2)).map
    (fun p => p.2.2)).getD []) = bs
  have henv := s.extWrite_env 0 bs
  dsimp only
  split_ifs
  · exact ⟨rfl, rfl⟩
  · exact ⟨rfl, rfl⟩
  · generalize s.extWrite 0 bs = t at *
    rw [← henv.1, ← (show t.power = s.power by simp [henv])]
    exact ⟨rfl, rfl⟩

theorem State.bootAgain_clock : s.bootAgain.strike = s.strike ∧ s.bootAgain.power.tick = s.power.tick := by
  unfold State.bootAgain
  split
  · exact s.bootLast_clock
  · exact ⟨rfl, rfl⟩

theorem State.settleUndo_env : s.settleUndo.SameEnv s :=
  foldl_env State.undo _ _ fun s j => s.undo_env j

/-- The counter and the strike from which a group of cycles counts, advanced. -/
def State.ticked : State := { s with strike := s.strike + 1, power := { s.power with tick := s.tickFrom } }

/-- Other stall windows. -/
def State.withStalls (cs : Assoc Ctx) : State := { s with store := { s.store with ctxs := cs } }

/-- The stall windows as a strike judges them, and the reported deadlocks that still stand. -/
def State.judged (cs : Assoc Ctx) : State := (s.withStalls cs).pruneDeadlocks

theorem State.isCycle_pruneDeadlocks : s.pruneDeadlocks.isCycle = s.isCycle :=
  s.isCycle_withDeadlocks _

theorem State.atStrike_eq : ∃ cs, s.atStrike = (s.judged cs).settleUndo.bootAgain
    ∧ ∀ n, { Assoc.get {} cs n with blocked := none } = { s.ctx n with blocked := none } := by
  obtain ⟨hframe, hctx⟩ := s.watchStalls_sameButStalls
  refine ⟨s.watchStalls.store.ctxs, ?_, hctx⟩
  have hjudged : s.watchStalls = s.withStalls s.watchStalls.store.ctxs := hframe
  rw [State.judged, ← hjudged]
  rfl

theorem State.atStrike_clock : s.atStrike.strike = s.strike ∧ s.atStrike.power.tick = s.power.tick := by
  obtain ⟨cs, heq, -⟩ := s.atStrike_eq
  rw [heq]
  have henv := (s.judged cs).settleUndo_env
  generalize (s.judged cs).settleUndo = u at *
  obtain ⟨hstrike, htick⟩ := u.bootAgain_clock
  rw [hstrike, htick, henv.1, show u.power = (s.judged cs).power by simp [henv]]
  exact ⟨rfl, rfl⟩

theorem State.settleUndo_none (h : s.ge.undo = []) : s.settleUndo = s := by
  have hsame : ({ s with ge := { s.ge with undo := [] } } : State) = s := by rw [← h]
  rw [State.settleUndo, h, hsame]
  rfl

theorem State.settleUndo_one {j : Journal} (h : s.ge.undo = [j]) :
    s.settleUndo = ({ s with ge := { s.ge with undo := [] } } : State).undo j := by
  rw [State.settleUndo, h]
  rfl

theorem State.remark_leaves (g : Nat) (lost : List Nat) (poisoned : Bool) :
    (s.remark g lost poisoned).ge = s.ge ∧ (s.remark g lost poisoned).boot = s.boot
      ∧ (s.remark g lost poisoned).byte = s.byte := by
  unfold State.remark
  dsimp only
  repeat' split
  all_goals exact ⟨rfl, rfl, rfl⟩

/-- A record of one granule of external memory, written back. -/
theorem State.restore_low (j : Journal) (hlen : j.prior.length = 256) (hlow : 256 * j.granule + 256 ≤ extEnd)
    (hfault : s.runFault j.q j.task (256 * j.granule) j.prior = none) :
    (s.restore j).ge = s.ge ∧ (s.restore j).boot = s.boot
      ∧ ∀ a, (s.restore j).byte a = lastWrite (bytesAt (256 * j.granule) j.prior) a (s.byte a) := by
  have htarget : s.target (256 * j.granule) = .ext := if_pos (by omega)
  have hrun : s.writeRun (256 * j.granule) j.prior = s.extWrite (256 * j.granule) j.prior := by
    rw [State.writeRun, htarget]
  have hframe := s.extWrite_low (a := 256 * j.granule) (bs := j.prior) (by
    have : extEnd ≤ windowBase := by decide
    omega)
  have hbyte := s.byte_extWrite (256 * j.granule) j.prior
  rw [State.restore, hfault]
  simp only [hrun]
  generalize s.extWrite (256 * j.granule) j.prior = t at *
  obtain ⟨hge, hboot, hbytes⟩ := t.remark_leaves j.granule j.lost j.poisoned
  refine ⟨hge.trans (by rw [hframe]), hboot.trans (by rw [hframe]), fun a => ?_⟩
  rw [lastWrite_bytesAt, ← hbyte, hbytes]

end

/-- Settles O23: what a strike brings is judged first, then the roll-backs that waited are tried. -/
theorem strikeAndHeartbeat : Obligations.StrikeAndHeartbeat := by
  intro s
  refine ⟨fun hcounts => ?_, fun hstops => ?_, fun hup => ?_⟩
  · have hrun : exec .strikeTick s = .next s.ticked.atStrike := congrArg s.happens (if_pos hcounts)
    obtain ⟨cs, heq, hctx⟩ := s.ticked.atStrike_eq
    refine ⟨_, hrun, s.ticked.atStrike_clock.1, s.ticked.atStrike_clock.2, fun hundo hidle => ?_,
      fun j hundo hidle hlen hlow hwaits hfault => ?_⟩
    · rw [State.settleUndo_none (s.ticked.judged cs) hundo, State.bootAgain_idle (s.ticked.judged cs) hidle] at heq
      rw [heq]
      exact ⟨rfl, by rw [State.judged, State.isCycle_pruneDeadlocks]; rfl, hctx⟩
    · have hwaits' : ({ s.ticked.judged cs with ge := { (s.ticked.judged cs).ge with undo := [] } } : State).accessWaits
          (256 * j.granule) 256 true = false := hwaits
      obtain ⟨hge, hboot, hbyte⟩ := State.restore_low
        { s.ticked.judged cs with ge := { (s.ticked.judged cs).ge with undo := [] } } j hlen hlow hfault
      rw [State.settleUndo_one (s.ticked.judged cs) hundo, State.undo, hwaits', if_neg Bool.false_ne_true,
        State.bootAgain_idle _ (by rw [hboot]; exact hidle)] at heq
      rw [heq]
      exact ⟨by rw [hge], hbyte⟩
  · exact congrArg s.happens (if_neg (by simp [hstops]))
  · exact congrArg s.happens (if_pos (by rw [State.svUp, hup]; rfl))

end Sys2Proof.Machine
end

section
/-! PROOF. O41 and O45: power-on reset, the crystal, the input stage and lost phases. -/

namespace Sys2Proof.Machine

open Sys2Proof

/-- What a reset of reach POWER is, beside the pool and the episodes. -/
theorem State.assertAt_power (s : State) (src die core : Nat) (held handover : Bool) :
    ∃ dies pool es, s.assertAt src rPower die core held handover = { s.resetPower with
      power := { s.resetPower.power with dies := dies, pool := pool }
      resets := { s.resetPower.resets with episodes := es } } :=
  ⟨_, _, _, rfl⟩

/-- A reset of reach POWER: what lies outside the dies stays, memory and the cores are gone, and POR begins. -/
theorem State.assertAt_power_spec (s : State) (src die core : Nat) (held handover : Bool) :
    let t := s.assertAt src rPower die core held handover
    t.clock.porEnded = false ∧ t.running = false ∧ t.cores = [] ∧ t.mem = [] ∧ t.power.state = 0x80000
      ∧ t.power.input = s.power.input ∧ t.boot.fuses = s.boot.fuses ∧ t.boot.flash = s.boot.flash := by
  obtain ⟨dies, pool, es, heq⟩ := s.assertAt_power src die core held handover
  dsimp only
  rw [heq]
  exact ⟨rfl, rfl, rfl, rfl, rfl, rfl, rfl, rfl⟩

/-- A window of the crystal, given the count it leads to. -/
theorem State.window_counts (s : State) {ppm : Int} {n : Nat}
    (h : (if -1000 ≤ ppm ∧ ppm ≤ 1000 then s.clock.windows + 1 else 0) = n) :
    s.window ppm = if 16 ≤ n then
      ({ s with clock := { s.clock with windows := n, crystal := true } } : State).endPor
      else { s with clock := { s.clock with windows := n } } := by
  simp only [State.window, h]

/-- Settles O41: a power-on reset, the windows of the crystal, and the end of POR. -/
theorem referenceStartsUp : Obligations.ReferenceStartsUp := by
  intro s
  have hwindow : ∀ ppm, s.measuring = true → exec (.crystalWindow ppm) s = .next (s.window ppm) :=
    fun ppm h => congrArg s.happens (if_pos h)
  refine ⟨?_, fun ppm h => ⟨fun hlo hhi hfew => ?_, fun hbad => ?_, fun hlo hhi hmany => ?_⟩, fun h =>
      ?_, fun hended hcrystal => ?_⟩
  · obtain ⟨hpor, hrunning, hcores, hmem, -, -, hfuses, hflash⟩ := s.assertAt_power_spec 0 0 0 true false
    exact ⟨_, rfl, s.assertAt_asserting 0 rPower 0 0 true false, hpor, hrunning, hcores, hmem, hfuses, hflash⟩
  · rw [hwindow ppm h, s.window_counts (if_pos ⟨hlo, hhi⟩), if_neg (by omega)]
  · rw [hwindow ppm h, s.window_counts (if_neg (by omega)), if_neg (by omega)]
  · rw [hwindow ppm h, s.window_counts (if_pos ⟨hlo, hhi⟩), if_pos hmany]
    exact ⟨_, rfl, rfl, rfl, rfl, rfl, rfl, rfl, List.length_map _⟩
  · refine ⟨_, congrArg s.happens (if_pos h), rfl, rfl, rfl, Sc.has_event _ _, rfl⟩
  · refine ⟨_, congrArg s.happens (if_pos (by rw [hended, hcrystal]; rfl)), rfl, ?_, ?_, ?_⟩
    · rfl
    · rfl
    · rfl

theorem inputStage : Claims.InputStage := by
  intro s
  have hlost : ∀ c x, (c, x) ∈ [(Instr.inputUndervoltage, InputState.under), (.inputOvervoltage, .over),
      (.vinSenseLoss, .noSense)] →
      exec c s = s.happens (if s.power.input == x then none else some (s.inputLost x)) := by
    simp only [List.mem_cons, List.not_mem_nil, or_false, Prod.mk.injEq]
    rintro c x (⟨rfl, rfl⟩ | ⟨rfl, rfl⟩ | ⟨rfl, rfl⟩) <;> rfl
  refine ⟨fun c x hmem => ⟨fun hx => ?_, fun hx => ?_⟩, fun h => ?_, fun cv hcv => ?_⟩
  · rw [hlost c x hmem, if_neg (by simpa using hx)]
    obtain ⟨hpor, hrunning, hcores, hmem, hstate, hinput, hfuses, hflash⟩ :=
      ({ s with power := { s.power with input := x } } : State).assertAt_power_spec 0 0 0 true false
    exact ⟨_, rfl, State.assertAt_asserting _ 0 rPower 0 0 true false, hinput, hstate, hmem, hcores, hrunning, hfuses,
        hflash⟩
  · rw [hlost c x hmem, if_pos (by simpa using hx)]
    rfl
  · exact congrArg s.happens (if_neg (by simpa using h))
  · exact congrArg s.happens (if_pos (decide_eq_true hcv))

/-- A lost phase counted and shown. -/
def State.phaseCounted (s : State) (d : Nat) : State :=
  { s with
    power := { s.power with
      phases := Assoc.put 0 s.power.phases d (Assoc.get 0 s.power.phases d + 1), sc := s.power.sc.event 3 }
    free := s.free + 2 }

/-- A lost phase: counted, recorded, and the third one of a compute die holds its cap level. -/
theorem State.losePhase_eq (s : State) (d : Nat) : ∃ r, s.losePhase d =
    if d < 12 ∧ 3 ≤ Assoc.get 0 s.power.phases d + 1 then
      ((s.phaseCounted d).toEq0Log r).setDiePower d { s.diePower d with c := min (s.diePower d).c 8 }
    else (s.phaseCounted d).toEq0Log r := by
  refine ⟨{ type := 0x33, strike := s.strike, status := 6,
            payload := [BitVec.ofNat 8 (s.domainDie d), 0] ++ leBytes 2 s.free16 }, ?_⟩
  unfold State.losePhase State.repair
  dsimp only
  have hdie : ∀ r, ((s.phaseCounted d).toEq0Log r).diePower d = s.diePower d := fun r => by
    rw [State.toEq0Log_frame]
    rfl
  exact congrArg (fun x : DiePower => if d < 12 ∧ 3 ≤ Assoc.get 0 s.power.phases d + 1 then
    ((s.phaseCounted d).toEq0Log _).setDiePower d { x with c := min x.c 8 } else (s.phaseCounted d).toEq0Log _) (hdie _)

theorem phaseLost : Claims.PhaseLost := by
  intro s d hon n
  have hrun : exec (.phaseFail d) s = .next (s.losePhase d.val) := congrArg s.happens (if_pos hon)
  refine ⟨_, hrun, ?_⟩
  obtain ⟨r, heq⟩ := s.losePhase_eq d.val
  have hcount := (s.phaseCounted d.val).toEq0Log_mcount r
  have hframe := (s.phaseCounted d.val).toEq0Log_frame r
  rw [heq]
  generalize ((s.phaseCounted d.val).toEq0Log r) = t at *
  have hphases : Assoc.get 0 t.power.phases d.val = n
      ∧ ∀ k, k ≠ d.val → Assoc.get 0 t.power.phases k = Assoc.get 0 s.power.phases k := by
    have hput : t.power.phases = Assoc.put 0 s.power.phases d.val n := by rw [hframe]; rfl
    rw [hput]
    exact ⟨Assoc.get_put_same _ _ _ _, fun k hk => Assoc.get_put_other _ _ _ hk⟩
  have hsc : t.power.sc.has 3 = true := by
    rw [hframe]
    exact Sc.has_event _ _
  have hmem : t.mem = s.mem := by rw [hframe]; rfl
  have hdies : ∀ k, t.diePower k = s.diePower k := fun k => by rw [hframe]; rfl
  obtain ⟨hsame, hother⟩ := hphases
  split_ifs with hmany
  · refine ⟨hsame, hother, hsc, hcount, hmem, ?_, fun k hk => ?_⟩
    · exact State.diePower_setDiePower_frame _ _ _
    · rw [State.diePower_setDiePower_other _ _ hk, hdies]
  · exact ⟨hsame, hother, hsc, hcount, hmem, by rw [hdies], fun k _ => hdies k⟩

/-- Settles O45: an input that is lost is a reset of reach POWER, and a lost phase counts at its domain alone. -/
theorem inputAndPhases : Obligations.InputAndPhases :=
  ⟨inputStage, phaseLost⟩

end Sys2Proof.Machine
end

section
/-! PROOF. O43: reset sources assert, are released, and their episode ends. -/

namespace Sys2Proof.Machine

open Sys2Proof

theorem resetSourcesAssert : Claims.ResetSourcesAssert := by
  intro s
  refine ⟨fun n hnot => ⟨fun hlong => ?_, fun hshort => ?_⟩, fun hmanaging => ?_, fun o v hopen =>
      ⟨fun hok => ?_, fun hbad => ?_⟩,
    fun why hup hwhy => ?_⟩
  · exact ⟨_, congrArg s.happens (if_pos (by simp [hlong, hnot])), s.assertAt_asserting 1 (s.reachOf 1) 0 0 true false⟩
  · exact congrArg s.happens (if_neg (by simp [Nat.not_le.2 hshort]))
  · have hrun : exec .managementReset s = .next ((s.assertAt 2 (s.reachOf 2) 0 0 true false).answer .ok) :=
      State.managed_up _ _ hmanaging
    have ha := s.assertAt_asserting 2 (s.reachOf 2) 0 0 true false
    rw [hrun]
    generalize s.assertAt 2 (s.reachOf 2) 0 0 true false = t at *
    exact ⟨_, rfl, asserting_of_resets rfl ha⟩
  · have hrun : exec (.rstReq o v) s = .next ((s.putRstReq o v).respond .done) :=
      congrArg Host.Outcome.next (State.onWrite_open s _ _ _ hopen)
    rw [hrun, State.putRstReq, if_pos hok]
    have ha := s.assert_asserting 3 (bits v 0 8) false
    generalize s.assert_ 3 (bits v 0 8) false = t at *
    exact ⟨_, rfl, asserting_of_resets rfl ha⟩
  · have hrun : exec (.rstReq o v) s = .next ((s.putRstReq o v).respond .done) :=
      congrArg Host.Outcome.next (State.onWrite_open s _ _ _ hopen)
    rw [hrun, State.putRstReq, if_neg (by simp [hbad])]
    exact ⟨_, rfl, rfl, s.refuseWrite_mcount _ _ _, rfl, rfl⟩
  · refine ⟨_, congrArg s.happens (if_pos ?_), s.assertAt_asserting 4 (s.reachOf 4) 0 0 true false⟩
    rcases hwhy with hkeys | hwhy <;> simp [*]

theorem sourceRelease : Claims.SourceRelease := by
  intro s src
  refine ⟨_, rfl, rfl, ?_, ?_, ?_⟩
  · simp [State.dropSource]
  · simp only [State.dropSource, List.mem_map]
    rintro _ ⟨e, -, rfl⟩ a ha hsrc hmay
    obtain ⟨b, -, hb⟩ := List.mem_map.1 ha
    split_ifs at hb with h
    · rw [← hb]
    · subst hb
      exact absurd (by simp [hsrc, hmay]) h
  · simp only [State.dropSource, List.mem_map]
    intro e he a ha hstays
    refine ⟨_, ⟨e, he, rfl⟩, List.mem_map.2 ⟨a, ha, if_neg ?_⟩⟩
    rintro h
    simp only [Bool.and_eq_true, decide_eq_true_eq] at h
    rcases hstays with hsrc | hmay
    · exact hsrc h.1
    · simp [hmay] at h

section
variable (s : State) (e : Episode)

/-- What RST_LAST shows of an episode. -/
def Episode.shown (r : Resets) : Resets :=
  { r with
    reach := e.reach
    target := if e.reach = rDie then e.die else if e.reach = rCore then dieOfCore e.core else 0
    core := if e.reach = rCore then e.core else 0
    sources := e.sources }

theorem State.announce_frame : ∃ mem store ext logs free, s.announce e = { s with
    resets := e.shown s.resets, mem := mem, store := store, ext := ext, logs := logs, free := free } := by
  unfold State.announce
  dsimp only
  split
  · exact ⟨_, _, _, _, _, rfl⟩
  · exact ⟨_, _, _, _, _, rfl⟩

/-- Memory and the module log of an episode that is announced. -/
theorem State.announce_memory : (e.handover = true → (s.announce e).mem = [])
    ∧ (e.handover = false → (s.announce e).mem = s.mem ∧ (s.announce e).logs.mcount = s.logs.mcount.tick) := by
  unfold State.announce
  refine ⟨fun h => ?_, fun h => ?_⟩
  · simp only [h, if_true]
    rfl
  · simp only [h, Bool.false_eq_true, if_false]
    exact ⟨rfl, rfl⟩

theorem State.toEq0_frame (r : Rec) : ∃ eqs, s.toEq0 r = { s with logs := { s.logs with eqs := eqs } } := by
  unfold State.toEq0
  split
  · exact ⟨_, rfl⟩
  · exact ⟨_, rfl⟩

/-- An episode that leaves the open ones, with the dies that stay in reset after it. -/
def State.episodeClosed (held : List Nat) : State :=
  { s with resets := { s.resets with
    episodes := s.resets.episodes.filter (fun x => x != e)
    held := s.resets.held ++ held.filter (fun d => !(s.resets.held.contains d)) } }

/-- The dies in the scope of an episode that leave reset. -/
def State.dieFreed : List Nat :=
  (scopeDies e.reach e.die).filter (fun d => s.dieOn d && !((s.heldAfter e).contains d))

theorem State.release_announced (hfirst : e.released = 0) (hreach : e.reach ≠ rFabric) : s.release e =
    let t := s.announce e
    let u := t.episodeClosed e (t.heldAfter e)
    if e.reach = rDie then (u.wake (t.dieFreed e)).toEq0
      { type := 0x2A, strike := s.strike, status := e.reach, payload := leBytes 2 e.sources.toNat } else u := by
  have hstrike : (s.announce e).strike = s.strike := by
    obtain ⟨_, _, _, _, _, h⟩ := s.announce_frame e
    rw [h]
  unfold State.release
  simp only [hfirst, hreach, if_true, false_or, if_false]
  rw [← hstrike]
  generalize s.announce e = t
  split_ifs <;> rfl

/-- What stands after an episode of another reach than FABRIC is released, beside what its announcement left. -/
theorem State.releaseEpisode_spec (hfirst : e.released = 0) (hreach : e.reach ≠ rFabric) :
    ∃ held boot eqs change, s.releaseEpisode e = { s.announce e with
        resets := { (s.announce e).resets with episodes := s.resets.episodes.filter (fun x => x != e), held := held }
        boot := boot
        logs := { (s.announce e).logs with eqs := eqs }
        power := { s.power with change := change } }
      ∧ ∀ d ∈ s.heldAfter e, d ∈ held := by
  have hannounced : (s.announce e).resets.episodes = s.resets.episodes ∧ (s.announce e).power = s.power
      ∧ (s.announce e).heldAfter e = s.heldAfter e := by
    obtain ⟨_, _, _, _, _, h⟩ := s.announce_frame e
    rw [h]
    exact ⟨rfl, rfl, rfl⟩
  obtain ⟨heps, hpower, hheld⟩ := hannounced
  rw [State.releaseEpisode, State.startChange_frame, s.release_announced e hfirst hreach]
  generalize s.announce e = t at *
  dsimp only
  rw [← heps, ← hpower, ← hheld]
  have hmem : ∀ d ∈ t.heldAfter e, d ∈ t.resets.held ++ (t.heldAfter e).filter
      (fun d => !(t.resets.held.contains d)) := by
    intro d hd
    by_cases h : d ∈ t.resets.held <;> simp [hd, h]
  split_ifs with hdie
  · obtain ⟨eqs, h⟩ := State.toEq0_frame ((t.episodeClosed e (t.heldAfter e)).wake (t.dieFreed e))
      { type := 0x2A, strike := s.strike, status := e.reach, payload := leBytes 2 e.sources.toNat }
    rw [h]
    refine ⟨_, _, _, _, rfl, fun d hd => List.mem_filter.2 ⟨hmem d hd, ?_⟩⟩
    simp [State.dieFreed, hd]
  · exact ⟨_, _, _, _, rfl, hmem⟩

/-- What an announced episode shows stays, whatever then becomes of the episodes and of the dies held in reset. -/
theorem State.shown_of_announced {t : State} {es : List Episode} {held : List Nat}
    (hresets : t.resets = { (s.announce e).resets with episodes := es, held := held })
    (hmem : t.mem = (s.announce e).mem) (hcount : t.logs.mcount = (s.announce e).logs.mcount)
    (hcores : t.cores = (s.announce e).cores) (hstrike : t.strike = (s.announce e).strike) :
    t.resets.reach = e.reach ∧ t.resets.sources = e.sources
      ∧ t.resets.core = (if e.reach = rCore then e.core else 0)
      ∧ t.resets.target = (if e.reach = rDie then e.die else if e.reach = rCore then dieOfCore e.core else 0)
      ∧ (e.handover = true → ∀ a, a < windowBase → t.byte a = 0)
      ∧ (e.handover = false → t.mem = s.mem ∧ t.logs.mcount = s.logs.mcount.tick)
      ∧ t.cores = s.cores ∧ t.strike = s.strike := by
  obtain ⟨hzero, hkept⟩ := s.announce_memory e
  obtain ⟨_, _, _, _, _, hframe⟩ := s.announce_frame e
  refine ⟨?_, ?_, ?_, ?_, fun h a ha => ?_, fun h => ⟨hmem.trans (hkept h).1, hcount.trans (hkept h).2⟩,
    hcores.trans ?_, hstrike.trans ?_⟩
  · rw [hresets, hframe]
    rfl
  · rw [hresets, hframe]
    rfl
  · rw [hresets, hframe]
    rfl
  · rw [hresets, hframe]
    rfl
  · rw [State.byte, if_neg (fun hw => by omega), hmem, hzero h]
    rfl
  · rw [hframe]
  · rw [hframe]

theorem State.heldAfter_all (h : e.reach = rPower ∨ e.reach = rModule) : s.heldAfter e = allDies.filter (· != 60) :=
  if_pos h

theorem State.heldAfter_die (h : e.reach = rDie) : s.heldAfter e = [e.die].filter s.stillGated := by
  rw [State.heldAfter, h, if_neg (by decide), if_neg (by decide)]
  rfl

/-- The store dies whose clock is gated, kept in reset by the first group. -/
def State.storeDiesKept : List Nat :=
  ((List.range 8).map (16 + ·)).filter (fun d => s.stillGated d && !(s.resets.held.contains d))

theorem State.firstGroup_eq : s.firstGroup e = { s.announce e with resets := { (s.announce e).resets with
    episodes := s.resets.episodes.map (fun x => if x = e then { e with released := 1 } else x)
    held := s.resets.held ++ s.storeDiesKept } } := by
  obtain ⟨_, _, _, _, _, hframe⟩ := s.announce_frame e
  unfold State.firstGroup
  rw [hframe]
  rfl

end

theorem mem_range_map_add {n k d : Nat} : d ∈ (List.range n).map (k + ·) ↔ k ≤ d ∧ d < k + n := by
  simp only [List.mem_map, List.mem_range]
  exact ⟨fun ⟨i, hi, h⟩ => by omega, fun h => ⟨d - k, by omega, by omega⟩⟩

@[simp] theorem State.entryDone_env (s : State) (q : Nat) (tag : BitVec 32) (no status a b : Nat) :
    (s.entryDone q tag no status a b).SameEnv s :=
  s.toSq_env q _

theorem State.settleQueue_env (s : State) (q : Nat) : (s.settleQueue q).SameEnv s := by
  unfold State.settleQueue
  dsimp only
  split
  · exact s.sameEnv_refl
  · refine (State.setSq_env _ _ _).trans ((foldl_env _ _ _ fun t x => ?_).trans (s.closeGraph_env q 2))
    split
    · exact t.graphDone_env _ _ _ _ _ _ _ _
    · exact t.entryDone_env _ _ _ _ _ _

/-- The release of the second group of a FABRIC episode. -/
theorem State.release_second (s : State) (e : Episode) (hreach : e.reach = rFabric) (hsecond : e.released = 1) :
    ∃ r, s.release e = ((Assoc.keys s.ge.sqs).foldl State.settleQueue
      ((s.episodeClosed e (s.heldAfter e)).wake (s.dieFreed e))).toEq0 r := by
  unfold State.release
  simp only [State.dieFreed, hreach, hsecond, one_ne_zero, if_false, true_or, if_true]
  exact ⟨_, rfl⟩

/-- The second group of a FABRIC episode is its end. -/
theorem State.releaseEpisode_gone (s : State) (e : Episode) (hreach : e.reach = rFabric) (hsecond : e.released = 1) :
    e ∉ (s.releaseEpisode e).resets.episodes := by
  have hgone : (s.releaseEpisode e).resets.episodes = s.resets.episodes.filter (fun x => x != e) := by
    rw [State.releaseEpisode, State.startChange_frame]
    obtain ⟨r, h⟩ := s.release_second e hreach hsecond
    rw [h]
    have hsettled := foldl_env State.settleQueue (Assoc.keys s.ge.sqs)
      ((s.episodeClosed e (s.heldAfter e)).wake (s.dieFreed e)) fun t q => t.settleQueue_env q
    generalize (Assoc.keys s.ge.sqs).foldl State.settleQueue
      ((s.episodeClosed e (s.heldAfter e)).wake (s.dieFreed e)) = t at *
    obtain ⟨eqs, hrecord⟩ := t.toEq0_frame r
    rw [hrecord]
    have hresets : t.resets = ((s.episodeClosed e (s.heldAfter e)).wake (s.dieFreed e)).resets :=
        by simp only [hsettled]
    exact congrArg Resets.episodes hresets
  rw [hgone]
  simp

theorem episodeReleased : Claims.EpisodeReleased := by
  intro s k e hk shown
  have hrun : exec (.resetRelease k) s = s.happens (if e.quiet then
      some (if e.released + 1 < e.groups then s.firstGroup e else s.releaseEpisode e) else none) := by
    have hrun : exec (.resetRelease k) s = s.happens (match s.resets.episodes[k]? with
      | some e =>
        if e.quiet then some (if e.released + 1 < e.groups then s.firstGroup e else s.releaseEpisode e) else none
      | none => none) := rfl
    rw [hrun, hk]
  refine ⟨fun hloud => ?_, fun hquiet hfirst hreach => ?_, fun hquiet hfirst hreach =>
      ?_, fun hquiet hsecond hreach => ?_⟩
  · rw [hrun, hloud]
    rfl
  · rw [hrun, if_pos hquiet, if_neg (by simp [Episode.groups, hfirst, hreach])]
    obtain ⟨held, boot, eqs, change, heq, hheld⟩ := s.releaseEpisode_spec e hfirst hreach
    refine ⟨_, rfl, ?_⟩
    rw [heq]
    have hin : ∀ {t : State} {d}, t.resets.held = held → d ∈ s.heldAfter e → t.dieInReset d = true := by
      intro t d ht hd
      simp [State.dieInReset, ht, hheld d hd]
    refine ⟨by simp, s.shown_of_announced e rfl rfl rfl rfl rfl, fun x hx hne => ?_, fun hall d hd hne => hin rfl ?_,
      fun hdie hgated => hin rfl ?_⟩
    · simp [hx, hne]
    · simp [s.heldAfter_all e hall, hd, hne]
    · simp [s.heldAfter_die e hdie, hgated]
  · rw [hrun, if_pos hquiet, if_pos (by simp [Episode.groups, hfirst, hreach]), State.firstGroup_eq]
    have hmem : e ∈ s.resets.episodes := List.mem_of_getElem? hk
    refine ⟨_, rfl, s.shown_of_announced e rfl rfl rfl rfl rfl, rfl, fun d hd => ?_, fun hes hheld d hlo hhi => ?_⟩
    · have hscope : d ∈ scopeDies e.reach e.die := by
        rw [hreach, scopeDies_fabric]
        rcases List.mem_append.1 hd with h | h
        · exact List.mem_append_left _ (List.mem_append_left _ h)
        · exact List.mem_append_right _ h
      have hnot : ¬(16 ≤ d ∧ d < 24) := by
        rcases List.mem_append.1 hd with h | h
        · have := List.mem_range.1 h
          omega
        · simp only [List.mem_cons, List.not_mem_nil, or_false] at h
          omega
      rw [State.dieInReset, Bool.or_eq_true]
      refine .inl (List.any_eq_true.2 ⟨{ e with released := 1 }, List.mem_map.2 ⟨e, hmem, if_pos rfl⟩, ?_⟩)
      simp [hscope, Episode.freed, hnot]
    · have hfreed : Episode.freed { e with released := 1 } d = true := by simp [Episode.freed, hreach, hlo, hhi]
      have hkept : s.storeDiesKept.contains d = s.stillGated d := by
        rw [Bool.eq_iff_iff, List.contains_iff_mem, State.storeDiesKept, List.mem_filter, mem_range_map_add]
        simp [hheld, hlo, hhi]
      rw [← hkept, State.dieInReset, State.inEpisode]
      simp [hes, hheld, hfreed]
  · rw [hrun, if_pos hquiet, if_neg (by simp [Episode.groups, hsecond, hreach])]
    exact ⟨_, rfl, s.releaseEpisode_gone e hreach hsecond⟩

/-- Settles O43: a source that asserts begins or joins an episode, which its quiet sources let end. -/
theorem resetEpisodes : Obligations.ResetEpisodes :=
  ⟨resetSourcesAssert, sourceRelease, episodeReleased⟩

end Sys2Proof.Machine
end

section
/-! PROOF. O44: what a reset of reach MODULE or FABRIC keeps and clears. -/

namespace Sys2Proof.Machine

open Sys2Proof

/-! A port that leaves its state while no RESHARD is open touches its own registers, and what waits for it. -/

/-- What stands where one port, and no memory, has changed, while no RESHARD is open. -/
def State.PortWork (s : State) (p : Nat) (s₀ : State) : Prop :=
  s.link.reshards = [] ∧ s.mem = s₀.mem ∧ s.cores = s₀.cores ∧ s.grid = s₀.grid
    ∧ (s.lport p).ringCopy = (s₀.lport p).ringCopy ∧ ∀ k, k ≠ p → s.lport k = s₀.lport k

section
variable {p : Nat} {s₀ s : State} (h : s.PortWork p s₀)
include h

theorem State.portWork_of_same {t : State} (hlink : t.link = s.link) (hmem : t.mem = s.mem) (hcores : t.cores = s.cores)
    (hgrid : t.grid = s.grid) : t.PortWork p s₀ := by
  unfold State.PortWork State.lport at *
  rwa [hlink, hmem, hcores, hgrid]

theorem State.setLport_portWork {x : Port} (hring : x.ringCopy = (s.lport p).ringCopy) :
    (s.setLport p x).PortWork p s₀ := by
  obtain ⟨hnone, hmem, hcores, hgrid, hcopy, hother⟩ := h
  refine ⟨hnone, hmem, hcores, hgrid, ?_, fun k hk => ?_⟩
  · rw [State.lport_setLport, hring, hcopy]
  · rw [State.lport_setLport_other _ _ hk, hother k hk]

theorem foldl_portWork {β : Type} {f : State → β → State} (l : List β)
    (hf : ∀ t x, t.PortWork p s₀ → (f t x).PortWork p s₀) : (l.foldl f s).PortWork p s₀ := by
  induction l generalizing s with
  | nil => exact h
  | cons x l ih => exact ih (hf s x h)

theorem State.reshardOf_none (axis : Nat) : s.reshardOf axis = none := by
  rw [State.reshardOf, h.1]
  rfl

theorem State.failTaken_portWork (t : Taken) (status : Nat) : (s.failTaken p t status).PortWork p s₀ := by
  unfold State.failTaken
  split
  · exact State.portWork_of_same h rfl rfl rfl rfl
  · split
    · exact State.portWork_of_same (State.setLport_portWork h (x := (s.lport p).setChannel _ _) rfl) rfl rfl rfl rfl
    · exact h
  · rw [State.reshardOf_none h]
    exact h
  · exact h

theorem State.loseTaken_portWork : (s.loseTaken p).PortWork p s₀ := by
  unfold State.loseTaken
  dsimp only
  have hdropped : ((s.setLport p { s.lport p with taken := [], desc := none }).dropTurns p
      (fun _ => true)).PortWork p s₀ :=
    State.portWork_of_same (State.setLport_portWork h (x := { s.lport p with taken := [], desc :=
        none }) rfl) rfl rfl rfl rfl
  have hfailed := foldl_portWork hdropped (s.lport p).taken fun t x ht => State.failTaken_portWork ht x 3
  rw [State.reshardOf_none hfailed]
  refine foldl_portWork hfailed _ fun t n ht => ?_
  split
  · exact State.portWork_of_same (State.setLport_portWork ht (x := (t.lport p).setChannel _ _) rfl) rfl rfl rfl rfl
  · exact ht

theorem State.portTo_portWork (st : PortState) : (s.portTo p st).PortWork p s₀ := by
  unfold State.portTo
  extract_lets x was low sc changed stays lost reset
  have hchanged : changed.PortWork p s₀ := State.setLport_portWork h rfl
  have hlost : lost.PortWork p s₀ := by
    unfold lost
    split
    · exact State.loseTaken_portWork hchanged
    · exact hchanged
  have hreset : reset.PortWork p s₀ := by
    unfold reset
    split
    · exact State.setLport_portWork hlost rfl
    · exact hlost
  split
  · exact State.portWork_of_same hreset rfl rfl rfl rfl
  · exact hreset

end

/-- A port reset: its registers but for the copy of its ring identity. -/
theorem State.resetPort_spec (s : State) (p : Nat) (hnone : s.link.reshards = []) :
    (s.resetPort p).lport p = { ringid := (s.lport p).ringCopy, ringCopy := (s.lport p).ringCopy }
      ∧ (s.resetPort p).PortWork p s := by
  have hstart : (s.setLport p { s.lport p with lanes := 0 }).PortWork p s :=
    State.setLport_portWork ⟨hnone, rfl, rfl, rfl, rfl, fun _ _ => rfl⟩ rfl
  have hdown := State.portTo_portWork hstart .disabled
  unfold State.resetPort
  dsimp only
  generalize (s.setLport p { s.lport p with lanes := 0 }).portTo p .disabled = t at *
  refine ⟨?_, State.setLport_portWork hdown rfl⟩
  rw [State.lport_setLport, hdown.2.2.2.2.1]

theorem State.dropChange_frame (s : State) (reach die : Nat) :
    ∃ power, s.dropChange reach die = { s with power := power } := by
  unfold State.dropChange
  split
  · split
    · exact ⟨_, rfl⟩
    · exact ⟨_, rfl⟩
  · exact ⟨_, rfl⟩

/-- An assertion at a reach that is no narrower than FABRIC, beside the power controllers and the resets. -/
theorem State.assertAt_wide (s : State) (src reach die core : Nat) (held handover : Bool) (h : ¬rFabric < reach) :
    ∃ power resets, s.assertAt src reach die core held handover = { s.resetScope reach die core with
      power := power, resets := resets } := by
  unfold State.assertAt
  dsimp only
  rw [if_neg (by simp [h])]
  generalize s.resetScope reach die core = t
  obtain ⟨power, hdrop⟩ := t.dropChange_frame reach die
  rw [hdrop]
  exact ⟨_, _, rfl⟩

/-! Reach FABRIC. -/

theorem State.foldl_resetPort (s : State) {l : List Nat} (hl : l.Nodup) (hnone : s.link.reshards = []) :
    let t := l.foldl State.resetPort s
    t.link.reshards = [] ∧ t.mem = s.mem ∧ t.cores = s.cores ∧ t.grid = s.grid
      ∧ ∀ p, t.lport p = if p ∈ l then { ringid := (s.lport p).ringCopy, ringCopy :=
          (s.lport p).ringCopy } else s.lport p := by
  induction l generalizing s with
  | nil => exact ⟨hnone, rfl, rfl, rfl, fun p => rfl⟩
  | cons x l ih =>
    obtain ⟨hport, hnone', hmem, hcores, hgrid, -, hother⟩ := s.resetPort_spec x hnone
    rw [List.nodup_cons] at hl
    obtain ⟨hn, hm, hc, hg, hp⟩ := ih (s.resetPort x) hl.2 hnone'
    refine ⟨hn, hm.trans hmem, hc.trans hcores, hg.trans hgrid, fun p => (hp p).trans ?_⟩
    by_cases hpx : p = x
    · subst hpx
      rw [if_neg hl.1, if_pos (by simp), hport]
    · rw [hother p hpx]
      simp [hpx]

theorem State.resetLinks (s : State) (hnone : s.link.reshards = []) :
    let t := (s.resetLink 0).resetLink 1
    t.mem = s.mem ∧ t.cores = s.cores ∧ t.grid = s.grid
      ∧ ∀ p < 8, t.lport p = { ringid := (s.lport p).ringCopy, ringCopy := (s.lport p).ringCopy } := by
  have hl : (List.range 4).map (· + 4 * 0) ++ (List.range 4).map (· + 4 * 1) = List.range 8 := by decide
  have hall : (s.resetLink 0).resetLink 1 = (List.range 8).foldl State.resetPort s := by
    rw [State.resetLink, State.resetLink, ← List.foldl_append, hl]
  obtain ⟨-, hmem, hcores, hgrid, hports⟩ := s.foldl_resetPort List.nodup_range hnone (l := List.range 8)
  rw [hall]
  exact ⟨hmem, hcores, hgrid, fun p hp => (hports p).trans (if_pos (List.mem_range.2 hp))⟩

/-- Compute dies reset: no core of theirs is left. -/
theorem State.foldl_resetCompute (s : State) (l : List Nat) :
    let t := l.foldl State.resetCompute s
    t.mem = s.mem ∧ t.strike = s.strike ∧ t.link = s.link ∧ t.grid.rows = s.grid.rows
      ∧ ∀ e ∈ t.cores, e ∈ s.cores ∧ dieOfCore e.1 ∉ l := by
  induction l generalizing s with
  | nil => exact ⟨rfl, rfl, rfl, rfl, fun e he => ⟨he, List.not_mem_nil⟩⟩
  | cons d l ih =>
    obtain ⟨hmem, hstrike, hlink, hrows, hcores⟩ := ih (s.resetCompute d)
    refine ⟨hmem, hstrike, hlink, hrows, fun e he => ?_⟩
    obtain ⟨hin, hout⟩ := hcores e he
    obtain ⟨hin, hd⟩ := List.mem_filter.1 hin
    exact ⟨hin, fun h => (List.mem_cons.1 h).elim (fun h => by simp [h] at hd) hout⟩

theorem State.fabricDies_spec (s : State) (hnone : s.link.reshards = []) :
    s.fabricDies.mem = s.mem ∧ s.fabricDies.strike = s.strike ∧ s.fabricDies.grid.rows = s.grid.rows
      ∧ s.fabricDies.boot.fuses = s.boot.fuses ∧ (∀ e ∈ s.fabricDies.cores, ¬dieOfCore e.1 < 12)
      ∧ ∀ p < 8, s.fabricDies.lport p = { ringid := (s.lport p).ringCopy, ringCopy := (s.lport p).ringCopy } := by
  obtain ⟨-, -, -, -, hfuses, -⟩ := s.fabricDies_sameInput
  obtain ⟨hmem, -, hgrid, hports⟩ := s.resetLinks hnone
  have hstrike : ((s.resetLink 0).resetLink 1).strike = s.strike :=
    (State.resetLink_env (s.resetLink 0) 1).1.trans (s.resetLink_env 0).1
  refine ⟨?_, ?_, ?_, hfuses, ?_⟩
  all_goals
    unfold State.fabricDies
    dsimp only
    generalize (s.resetLink 0).resetLink 1 = t at *
    obtain ⟨hmem', hstrike', hlink, hrows, hcores⟩ := t.foldl_resetCompute (List.range 12)
    generalize (List.range 12).foldl State.resetCompute t = u at *
  · exact hmem'.trans hmem
  · exact hstrike'.trans hstrike
  · exact hrows.trans (congrArg Grid.rows hgrid)
  · refine ⟨fun e he hd => (hcores e he).2 (List.mem_range.2 hd), fun p hp => ?_⟩
    rw [← hports p hp]
    exact congrArg (fun l : Link => Assoc.get {} l.ports p) hlink

theorem State.resetFabric_eq (s : State) : ∃ store link ge,
    s.resetFabric = { s.fabricDies with store := store, link := link, ge := ge }
      ∧ link.ports = s.fabricDies.link.ports ∧ store.flags = [] ∧ store.ctxs = [] := by
  have hframe : s.resetFabric = { s.fabricDies with
      store := s.fabricDies.store.inScope
      link := { s.fabricDies.link with reshards := [] }
      ge := { s.fabricDies.ge with
        journal := [], undo := [], deadlocks := []
        sqs := s.fabricDies.ge.sqs.map (fun e => (e.1, e.2.atFabric)) } } := rfl
  rw [hframe]
  generalize s.fabricDies = t
  exact ⟨_, _, _, rfl, rfl, rfl, rfl⟩

theorem fabricResetScope : Claims.FabricResetScope := by
  intro s hmanaging hreach hnone
  have hrun : exec .managementReset s = .next ((s.assertAt 2 rFabric 0 0 true false).answer .ok) := by
    rw [← hreach]
    exact State.managed_up _ _ hmanaging
  obtain ⟨power, resets, heq⟩ := s.assertAt_wide 2 rFabric 0 0 true false (by decide)
  have hscope : s.resetScope rFabric 0 0 = s.resetFabric := rfl
  obtain ⟨store, link, ge, hfabric, hlports, hflags, hctxs⟩ := s.resetFabric_eq
  rw [hrun, heq, hscope, hfabric]
  obtain ⟨hmem, hstrike, hrows, hfuses, hcores, hports⟩ := s.fabricDies_spec hnone
  generalize s.fabricDies = t at *
  refine ⟨_, rfl, hmem, hstrike, hrows, hfuses, fun c hc => ?_, fun n => ?_, fun n => ?_, fun p hp => ?_⟩
  · simp only [siteExists, Bool.and_eq_true, decide_eq_true_eq] at hc
    exact Assoc.get_of_not_mem _ _ _ fun e he hec => hcores e he (hec ▸ hc.1)
  · exact congrArg (fun l => Assoc.get 0 l n) hflags
  · exact congrArg (fun l => Assoc.get {} l n) hctxs
  · rw [← hports p hp]
    exact congrArg (fun l => Assoc.get {} l p) hlports

/-! Reach MODULE. -/

/-- The LINK_STATE of a port that leaves READY in a MODULE episode. -/
def State.leftReady (s : State) : State :=
  s.mlog { type := 0x20, strike := s.strike, status := PortState.disabled.code, payload := [0] }

/-- The ports that leave READY write one record each, and nothing else. -/
theorem State.foldl_leaveReady (s : State) (l : List Nat) : l.foldl State.leaveReady s =
    (l.filter (fun p => (s.lport p).state == .ready || (s.lport p).held)).foldl (fun s _ => s.leftReady) s := by
  induction l generalizing s with
  | nil => rfl
  | cons p l ih =>
    have hstep : s.leaveReady p =
      if (s.lport p).state == .ready || (s.lport p).held then s.leftReady else s := rfl
    rw [List.foldl_cons, ih, hstep, List.filter_cons]
    split
    · rfl
    · rfl

theorem State.leaveReady_frame (s : State) (p : Nat) : s.leaveReady p = { s with logs := (s.leaveReady p).logs } := by
  unfold State.leaveReady
  split <;> rfl

theorem State.foldl_leaveReady_frame (s : State) (l : List Nat) :
    ∃ logs, l.foldl State.leaveReady s = { s with logs := logs } := by
  induction l generalizing s with
  | nil => exact ⟨_, rfl⟩
  | cons p l ih =>
    obtain ⟨logs, h⟩ := ih (s.leaveReady p)
    refine ⟨logs, ?_⟩
    rw [List.foldl_cons, h, s.leaveReady_frame p]

/-- What a reset of reach MODULE keeps and clears. -/
theorem State.resetModule_spec (s : State) :
    let t := s.resetModule
    let logs := ((List.range 8).foldl State.leaveReady s).logs
    t.mem = s.mem ∧ t.strike = s.strike ∧ t.boot.fuses = s.boot.fuses ∧ t.boot.flash = s.boot.flash
      ∧ t.grid.rows = s.grid.rows ∧ t.cores = [] ∧ t.ge = {} ∧ t.link = {}
      ∧ t.logs = { mlog := logs.mlog, mcount := logs.mcount } ∧ t.store.flags = [] ∧ t.store.ctxs = [] := by
  obtain ⟨logs, h⟩ := s.foldl_leaveReady_frame (List.range 8)
  dsimp only
  unfold State.resetModule
  rw [h]
  exact ⟨rfl, rfl, rfl, rfl, rfl, rfl, rfl, rfl, rfl, rfl, rfl⟩

theorem moduleResetScope : Claims.ModuleResetScope := by
  intro s hmanaging hreach left
  have hrun : exec .managementReset s = .next ((s.assertAt 2 rModule 0 0 true false).answer .ok) := by
    rw [← hreach]
    exact State.managed_up _ _ hmanaging
  obtain ⟨power, resets, heq⟩ := s.assertAt_wide 2 rModule 0 0 true false (by decide)
  have hscope : s.resetScope rModule 0 0 = s.resetModule := rfl
  rw [hrun, heq, hscope]
  obtain ⟨hmem, hstrike, hfuses, hflash, hrows, hcores, hge, hlink, hlogs, hflags, hctxs⟩ := s.resetModule_spec
  rw [s.foldl_leaveReady] at hlogs
  generalize s.resetModule = t at *
  refine ⟨_, rfl, hmem, fun hleft => ?_, fun p hleft => ?_, hstrike, hfuses, hflash, hrows, fun c => ?_, hge, hlink,
    ?_, ?_, fun n => ?_, fun n => ?_⟩
  · have hsame : t.logs = { mlog := s.logs.mlog, mcount := s.logs.mcount } := by
      rw [hlogs, show (List.range 8).filter _ = [] from hleft]
      rfl
    have hrecords : t.logs.mlog = s.logs.mlog ∧ t.logs.mcount = s.logs.mcount := ⟨by rw [hsame], by rw [hsame]⟩
    exact hrecords
  · have hone : t.logs = { mlog := s.leftReady.logs.mlog, mcount := s.leftReady.logs.mcount } := by
      rw [hlogs, show (List.range 8).filter _ = [p] from hleft]
      rfl
    have hrecord : t.logs.mcount = s.leftReady.logs.mcount ∧ t.logs.mlog = s.leftReady.logs.mlog :=
      ⟨by rw [hone], by rw [hone]⟩
    exact hrecord
  · exact congrArg (fun l => Assoc.get {} l c) hcores
  · exact congrArg Logs.eqs hlogs
  · exact congrArg Logs.vlogs hlogs
  · exact congrArg (fun l => Assoc.get 0 l n) hflags
  · exact congrArg (fun l => Assoc.get {} l n) hctxs

/-- Settles O44: what stands after the scope of a reset of reach MODULE, and of reach FABRIC. -/
theorem resetScopes : Obligations.ResetScopes :=
  ⟨moduleResetScope, fabricResetScope⟩

end Sys2Proof.Machine
end

section
/-! PROOF. O49: lockout of cores and of dies, and the return of a die. -/

namespace Sys2Proof.Machine

open Sys2Proof

/-! What an assertion leaves of the grid, and of the cores of a compute die. -/

section
variable (s : State)

theorem State.resetFabric_diesOut : s.resetFabric.grid.diesOut = s.grid.diesOut := by
  have hlinks : ((s.resetLink 0).resetLink 1).grid.diesOut = s.grid.diesOut := by
    have henv := (State.resetLink_env (s.resetLink 0) 1).trans (s.resetLink_env 0)
    simp
  have hcompute : ∀ (l : List Nat) (t : State), (l.foldl State.resetCompute t).grid.diesOut = t.grid.diesOut :=
      fun l => by
    induction l with
    | nil => exact fun _ => rfl
    | cons d l ih => exact fun t => ih (t.resetCompute d)
  obtain ⟨store, link, ge, hfabric, -⟩ := s.resetFabric_eq
  rw [hfabric]
  dsimp only
  unfold State.fabricDies
  dsimp only
  generalize (s.resetLink 0).resetLink 1 = t at *
  have h := hcompute (List.range 12) t
  generalize (List.range 12).foldl State.resetCompute t = u at *
  exact h.trans hlinks

theorem State.resetModule_diesOut : s.resetModule.grid.diesOut = s.grid.diesOut := by
  obtain ⟨logs, h⟩ := s.foldl_leaveReady_frame (List.range 8)
  unfold State.resetModule
  rw [h]

theorem State.resetScope_diesOut (reach die core : Nat) : (s.resetScope reach die core).grid.diesOut
    = s.grid.diesOut := by
  unfold State.resetScope
  split_ifs
  · rfl
  · exact s.resetModule_diesOut
  · exact s.resetFabric_diesOut
  · rfl
  · rfl
  · have henv := ((s.resetLogs [die]).resetNodes (nodesOf die)).resetLink_env (die - 48)
    simp
    rfl
  · rfl
  · rfl

/-- An assertion in its steps: the units in scope, the groups of a FABRIC episode asserted again, the power controllers
and the episodes. -/
theorem State.assertAt_steps (src reach die core : Nat) (held handover : Bool) :
    ∃ power resets, s.assertAt src reach die core held handover = { s.resetScope reach die core with
        power := power, resets := resets }
      ∨ s.assertAt src reach die core held handover = { (s.resetScope reach die core).resetFabric with
        power := power, resets := resets } ∧ rFabric < reach
        ∧ ∃ e ∈ s.resets.episodes, scopesMeet e.reach e.die e.core reach die core = true := by
  unfold State.assertAt
  dsimp only
  generalize s.resetScope reach die core = t
  generalize t.resetFabric = u
  split_ifs with hagain
  · obtain ⟨power, hdrop⟩ := u.dropChange_frame reach die
    rw [hdrop]
    refine ⟨_, _, .inr ⟨rfl, ?_⟩⟩
    rw [Bool.and_eq_true, decide_eq_true_eq, List.any_eq_true] at hagain
    obtain ⟨hreach, e, he, -⟩ := hagain
    obtain ⟨he, hmeets⟩ := List.mem_filter.1 he
    exact ⟨hreach, e, he, hmeets⟩
  · obtain ⟨power, hdrop⟩ := t.dropChange_frame reach die
    rw [hdrop]
    exact ⟨_, _, .inl rfl⟩

theorem State.assertAt_diesOut (src reach die core : Nat) (held handover : Bool) :
    (s.assertAt src reach die core held handover).grid.diesOut = s.grid.diesOut := by
  obtain ⟨power, resets, h | ⟨h, -⟩⟩ := s.assertAt_steps src reach die core held handover
  · rw [h]
    exact s.resetScope_diesOut reach die core
  · have hfabric := (s.resetScope reach die core).resetFabric_diesOut
    rw [h]
    generalize (s.resetScope reach die core).resetFabric = t at *
    exact hfabric.trans (s.resetScope_diesOut reach die core)

/-- A FABRIC reset leaves no core of a compute die. -/
theorem State.resetFabric_core {c : Nat} (hc : dieOfCore c < 12) : s.resetFabric.core c = {} := by
  have hcores : ∀ e ∈ s.fabricDies.cores, ¬dieOfCore e.1 < 12 := by
    unfold State.fabricDies
    dsimp only
    generalize (s.resetLink 0).resetLink 1 = t
    obtain ⟨-, -, -, -, hcores⟩ := t.foldl_resetCompute (List.range 12)
    generalize (List.range 12).foldl State.resetCompute t = u at *
    exact fun e he hd => (hcores e he).2 (List.mem_range.2 hd)
  obtain ⟨store, link, ge, hfabric, -⟩ := s.resetFabric_eq
  rw [hfabric]
  generalize s.fabricDies = t at *
  exact Assoc.get_of_not_mem _ _ _ fun e he hec => hcores e he (hec ▸ hc)

theorem State.resetScope_core {reach die core c : Nat} (hdie : die < 12) (hc : dieOfCore c = die)
    (hreach : reach = rFabric ∨ reach = rDie) : (s.resetScope reach die core).core c = {} := by
  rcases hreach with rfl | rfl
  · exact s.resetFabric_core (hc ▸ hdie)
  · have hscope : s.resetScope rDie die core = ((s.resetLogs [die]).resetNodes (nodesOf die)).resetCompute die :=
      if_pos hdie
    rw [hscope]
    exact Assoc.get_filtered_out _ _ fun v => by simp [hc]

theorem State.assertAt_core {src reach die core c : Nat} {held handover : Bool} (hdie : die < 12)
    (hc : dieOfCore c = die)
    (hreach : reach = rFabric ∨ reach = rDie) : (s.assertAt src reach die core held handover).core c = {} := by
  obtain ⟨power, resets, h | ⟨h, -⟩⟩ := s.assertAt_steps src reach die core held handover
  · rw [h]
    exact s.resetScope_core hdie hc hreach
  · have hfabric := (s.resetScope reach die core).resetFabric_core (hc ▸ hdie : dieOfCore c < 12)
    rw [h]
    generalize (s.resetScope reach die core).resetFabric = t at *
    exact hfabric

theorem State.reachOf_mem (src : Nat) (h : allowedReach src ≠ []) : s.reachOf src ∈ allowedReach src := by
  unfold State.reachOf
  dsimp only
  split_ifs with hc
  · exact List.contains_iff_mem.1 hc
  · cases hl : allowedReach src with
    | nil => exact absurd hl h
    | cons x l => simp

/-- Source 8 on a compute die has reach FABRIC or DIE. -/
theorem State.reachOf_eight {d : Nat} (hd : d < 12) :
    (s.reachOf 8 = rFabric ∨ s.reachOf 8 = rDie) ∧ widened (s.reachOf 8) d = s.reachOf 8 := by
  have h := s.reachOf_mem 8 (by decide)
  have hnarrow : ¬(16 ≤ d ∧ d < 24) ∧ ¬(d = 56 ∨ d = 60) := by omega
  simp only [allowedReach, List.mem_cons, List.not_mem_nil, or_false] at h
  refine ⟨h, ?_⟩
  rcases h with h | h
  · rw [h]
    rfl
  · rw [h, widened, if_pos rfl, if_neg hnarrow.1, if_neg hnarrow.2]

theorem mem_scopeDies_of_compute {r d : Nat} (hd : d < 12) (hr : r = rFabric ∨ r = rDie) : d ∈ scopeDies r d := by
  rcases hr with rfl | rfl
  · rw [scopeDies_fabric]
    exact List.mem_append_left _ (List.mem_append_left _ (List.mem_range.2 hd))
  · exact List.mem_singleton_self d

/-- Source 8 on a compute die: the die is in reset, and its cores are as after a reset. -/
theorem State.assert_eight {d : Nat} (hd : d < 12) :
    (s.assert_ 8 d true).grid.diesOut = s.grid.diesOut ∧ (s.assert_ 8 d true).dieInReset d = true
      ∧ ∀ c, dieOfCore c = d → (s.assert_ 8 d true).core c = {} := by
  obtain ⟨hreach, hwide⟩ := s.reachOf_eight hd
  have hasserting := s.assert_asserting 8 d true
  rw [hwide] at hasserting
  refine ⟨?_, hasserting.2 d (mem_scopeDies_of_compute hd hreach), fun c hc => ?_⟩
  · unfold State.assert_
    dsimp only
    refine (State.assertAt_diesOut _ _ _ _ _ _ _).trans ?_
    split
    · simp
    · rfl
  · unfold State.assert_
    dsimp only
    exact State.assertAt_core _ hd hc (by rw [hwide]; exact hreach)

theorem State.dieLockoutRec_env (d trigger : Nat) : (s.dieLockoutRec d trigger).SameEnv s := by
  unfold State.dieLockoutRec
  dsimp only
  refine (State.mlog_env _ _).trans ((foldl_env _ _ _ fun s n => ?_).trans (s.useFree_env 3))
  split
  · exact s.toEq_env _ _
  · exact s.sameEnv_refl

/-- A die leaves the grid, with its record. -/
def State.dieOut (d trigger : Nat) : State :=
  ({ s with grid := { s.grid with diesOut := s.grid.diesOut ++ [d] } } : State).dieLockoutRec d trigger

/-- The tasks and regions of a die that source 8 resets at reach FABRIC. -/
def State.dieTasksLost (d : Nat) : State := if s.reachOf 8 = rDie then s else s.loseDie d

theorem State.lockDie_eq (d trigger : Nat) :
    s.lockDie d trigger = ((s.dieOut d trigger).dieTasksLost d).assert_ 8 d true := rfl

theorem State.dieTasksLost_env (d : Nat) : (s.dieTasksLost d).SameEnv s := by
  unfold State.dieTasksLost
  split
  · exact s.sameEnv_refl
  · exact s.loseDie_env d

theorem State.dieOut_diesOut (d trigger : Nat) : (s.dieOut d trigger).grid.diesOut = s.grid.diesOut ++ [d] := by
  have h := State.dieLockoutRec_env { s with grid := { s.grid with diesOut := s.grid.diesOut ++ [d] } } d trigger
  exact h.2.2.2.2.2.2.2.2.2

/-- A compute die locked out: it is out of the grid, in reset, and its cores are as after a reset. -/
theorem State.lockDie_spec {d : Nat} (hd : d < 12) (trigger : Nat) :
    (s.lockDie d trigger).grid.diesOut = s.grid.diesOut ++ [d] ∧ (s.lockDie d trigger).dieInReset d = true
      ∧ ∀ c, dieOfCore c = d → (s.lockDie d trigger).core c = {} := by
  have hlost := ((s.dieOut d trigger).dieTasksLost_env d).2.2.2.2.2.2.2.2.2.trans (s.dieOut_diesOut d trigger)
  rw [State.lockDie_eq]
  generalize (s.dieOut d trigger).dieTasksLost d = t at *
  obtain ⟨hout, hreset, hcores⟩ := t.assert_eight hd
  exact ⟨hout.trans hlost, hreset, hcores⟩

theorem State.program_frame (a : Nat) (bs : List Byte) :
    ∃ flash, s.program a bs = { s with boot := { s.boot with flash := flash } } := ⟨_, rfl⟩

/-- A repair removed from the record writes the flash alone. -/
theorem State.dropRepairs_frame (f : RepairEntry → Bool) :
    ∃ flash, s.dropRepairs f = { s with boot := { s.boot with flash := flash } } := by
  unfold State.dropRepairs
  split
  · unfold State.writeRepair
    exact s.program_frame _ _
  · exact ⟨_, rfl⟩

end

theorem dieLockedOutAndReturned : Claims.DieLockedOutAndReturned := by
  intro s d out
  have hexists : dieExists d.val = true := by simp [dieExists]
  have hlock : ∀ trigger, s.grid.diesOut.contains d.val = false → out (s.dieFault d.val trigger) := fun trigger hin =>
      by
    obtain ⟨hout, hreset, hcores⟩ := s.lockDie_spec d.isLt trigger
    rw [State.dieFault, if_pos d.isLt, if_neg (by rw [hin]; exact Bool.false_ne_true)]
    exact ⟨by rw [hout]; simp, hreset, hcores⟩
  have hoperator : s.managing = true → exec (.dieLockout d.val .operator) s = .next (s.operatorDie d.val) := fun h => by
    have hrun : exec (.dieLockout d.val .operator) s = s.managed (s.operatorDie d.val) := if_pos hexists
    rw [hrun, State.managed_up _ _ h]
  refine ⟨fun hin => ⟨fun hmanaging => ?_, fun why hwhy hup => ?_⟩, fun hout hmanaging =>
      ?_, fun hmanaging hout hruns => ?_,
    fun pass hmanaging hbad => ?_⟩
  · rw [hoperator hmanaging, State.operatorDie, if_neg (by rw [hin]; exact Bool.false_ne_true)]
    have h := hlock 4 hin
    generalize s.dieFault d.val 4 = t at *
    exact ⟨_, rfl, h, rfl⟩
  · have hrun : exec (.dieLockout d.val why) s = s.happens (if s.dieUp d.val then some
      (s.dieFault d.val 5) else none) := by
      refine (if_pos hexists).trans ?_
      cases why
      case operator => exact absurd rfl hwhy
      all_goals rfl
    rw [hrun, if_pos hup]
    exact ⟨_, rfl, hlock 5 hin⟩
  · rw [hoperator hmanaging, State.operatorDie, if_pos hout]
    rfl
  · have hrun : exec (.dieReturn d true) s = .next (s.returnDie d.val true) := State.managed_up _ _ hmanaging
    rw [hrun, State.returnDie, if_pos (by rw [hout, hruns]; rfl)]
    dsimp only
    obtain ⟨flash, hframe⟩ := State.dropRepairs_frame
      { s with grid := { s.grid with diesOut := s.grid.diesOut.filter (· != d.val) } }
          (fun e => e.kind == 2 && e.die == d)
    rw [hframe]
    exact ⟨_, rfl, rfl, rfl, rfl, rfl⟩
  · have hrun : exec (.dieReturn d pass) s = .next (s.returnDie d.val pass) := State.managed_up _ _ hmanaging
    rw [hrun, State.returnDie, if_neg ?_]
    · rfl
    · rw [Bool.and_eq_true, Bool.and_eq_true, Bool.not_eq_true']
      rintro ⟨⟨hout, hpass⟩, hruns⟩
      rcases hbad with h | h | h
      · exact Bool.false_ne_true (h.symm.trans hout)
      · exact Bool.false_ne_true (h.symm.trans hpass)
      · exact Bool.false_ne_true (hruns.symm.trans h)

/-! A core lockout (R407). -/

theorem foldl_logs {β : Type} {f : State → β → State} (l : List β) (s : State)
    (h : ∀ t x, ∃ logs, f t x = { t with logs := logs }) : ∃ logs, l.foldl f s = { s with logs := logs } := by
  induction l generalizing s with
  | nil => exact ⟨_, rfl⟩
  | cons x l ih =>
    obtain ⟨logs, hx⟩ := h s x
    obtain ⟨logs', hl⟩ := ih (f s x)
    refine ⟨logs', ?_⟩
    rw [List.foldl_cons, hl, hx]

section
variable (s : State) (c : Nat)

theorem State.toRowRegions_frame (key : Nat) (r : Rec) : ∃ logs, s.toRowRegions key r = { s with logs := logs } := by
  have hfold := foldl_logs (f := fun s n => if (s.region n).holds (key / 32) (key % 32) then
    s.toEq (s.region n).eq { r with region := n } else s) (List.range 64) s fun t n => by
      split
      · exact ⟨_, rfl⟩
      · exact ⟨_, rfl⟩
  obtain ⟨logs, h⟩ := hfold
  unfold State.toRowRegions
  rw [h]
  exact ⟨_, rfl⟩

/-- The sites that have failed once this one has too. -/
def State.failedWith : BitVec 32 := (s.rowMap (rowKey c)).decidedFailed ||| (1 <<< colOfCore c)

/-- The row map that its failure decides. -/
def State.rowDecided : RowMap := (s.rowMap (rowKey c)).decide_ (s.rowBusy (rowKey c)) (s.failedWith c)

/-- A site that fails: its row's map is decided, with the records of it. -/
theorem State.failSite_frame (h : s.siteFailed c = false) : ∃ logs, s.failSite c = { s with
    grid := { s.grid with rows := Assoc.put {} s.grid.rows (rowKey c) (s.rowDecided c) }, logs := logs } := by
  have hnot : bit (s.rowMap (rowKey c)).decidedFailed (colOfCore c) = false := h
  unfold State.failSite
  dsimp only
  rw [hnot, if_neg Bool.false_ne_true]
  split_ifs
  · exact ⟨_, rfl⟩
  · unfold State.repair
    rw [State.toEq0Log_frame]
    exact ⟨_, rfl⟩
  · unfold State.gridChange
    obtain ⟨logs, h⟩ := State.toRowRegions_frame { s with grid := { s.grid with
      rows := Assoc.put {} s.grid.rows (rowKey c) (s.rowDecided c) } } (rowKey c)
          { type := 8, strike := s.strike, payload := leBytes 2 c ++ [BitVec.ofNat 8
        (30 * (rowKey c / 32 % 4) + ones (activeOf (s.failedWith c))), BitVec.ofNat 8
            (30 * (rowKey c / 32 / 4) + rowKey c % 32)] }
    exact ⟨logs, h⟩

/-- The task of the site that is lost: revoked, and its region faults where its journal is lost. -/
def State.taskLost : Option (Nat × Nat) → State
  | some (q, k) => if s.journalLost q k then (s.revoke q k).faultRegion (s.regionOf q) 3 else s.revoke q k
  | none => s

/-- That task issued again. -/
def State.taskAgain (fate : TaskEnd) : Option (Nat × Nat) → State
  | some (q, k) => s.reissue q k fate
  | none => s

/-- The tasks and regions of the die, where the reach of source 7 is the die. -/
def State.siteDieLost : State := if s.reachOf 7 = rDie then s.loseDie (dieOfCore c) else s

theorem State.lockout_eq (trigger : Nat) (fate : TaskEnd) : s.lockout c trigger fate =
    let t := s.taskLost (s.siteTask c)
    let u := (((t.useFree 2).failSite c).taskAgain fate (s.siteTask c)).lockoutRec c trigger (t.xyBytes c)
        (s.siteTask c)
    (u.siteDieLost c).assertAt 7 (u.reachOf 7) (dieOfCore c) c true false := by
  unfold State.lockout
  cases s.siteTask c with
  | none => rfl
  | some t => rfl

theorem State.taskLost_rows (t : Option (Nat × Nat)) : (s.taskLost t).grid.rows = s.grid.rows := by
  unfold State.taskLost
  split
  · split <;> simp
  · rfl

theorem State.taskAgain_rows (fate : TaskEnd) (t : Option (Nat × Nat)) : (s.taskAgain fate t).grid.rows
    = s.grid.rows := by
  unfold State.taskAgain
  split
  · simp
  · rfl

theorem State.siteDieLost_rows : (s.siteDieLost c).grid.rows = s.grid.rows := by
  unfold State.siteDieLost
  split <;> simp

/-- Source 7 reaches a die or a core. -/
theorem State.reachOf_seven : s.reachOf 7 = rDie ∨ s.reachOf 7 = rCore := by
  have h := s.reachOf_mem 7 (by decide)
  simpa only [allowedReach, List.mem_cons, List.not_mem_nil, or_false] using h

theorem State.resetScope_narrow_rows {reach : Nat} (die core : Nat) (h : reach = rDie ∨ reach = rCore) :
    (s.resetScope reach die core).grid.rows = s.grid.rows := by
  rcases h with rfl | rfl
  · have hscope : s.resetScope rDie die core =
        if die < 12 then ((s.resetLogs [die]).resetNodes (nodesOf die)).resetCompute die
        else if die = 48 ∨ die = 49 then ((s.resetLogs [die]).resetNodes (nodesOf die)).resetLink (die - 48)
        else if 32 ≤ die ∧ die < 48 then ((s.resetLogs [die]).resetNodes (nodesOf die)).resetMem (die - 32)
        else (s.resetLogs [die]).resetNodes (nodesOf die) := rfl
    rw [hscope]
    split_ifs <;> simp
  · rfl

theorem State.assertAt_narrow_rows {reach : Nat} (src die core : Nat) (held handover : Bool)
    (h : reach = rDie ∨ reach = rCore) : (s.assertAt src reach die core held handover).grid.rows = s.grid.rows := by
  obtain ⟨power, resets, heq | ⟨heq, -⟩⟩ := s.assertAt_steps src reach die core held handover
  · rw [heq]
    exact s.resetScope_narrow_rows die core h
  · have hfabric := (s.resetScope reach die core).resetFabric_rows
    rw [heq]
    generalize (s.resetScope reach die core).resetFabric = t at *
    exact hfabric.trans (s.resetScope_narrow_rows die core h)

/-- The row maps after a core lockout: that of the site's row is decided anew. -/
theorem State.lockout_rows (trigger : Nat) (fate : TaskEnd) (h : s.siteFailed c = false) :
    (s.lockout c trigger fate).grid.rows = Assoc.put {} s.grid.rows (rowKey c)
      (((s.taskLost (s.siteTask c)).useFree 2).rowDecided c) := by
  have hrows := s.taskLost_rows (s.siteTask c)
  have hfailed : ((s.taskLost (s.siteTask c)).useFree 2).siteFailed c = false := by
    unfold State.siteFailed State.rowMap at *
    rw [State.useFree_grid, hrows]
    exact h
  obtain ⟨logs, hframe⟩ := State.failSite_frame _ c hfailed
  rw [State.lockout_eq]
  dsimp only
  rw [State.assertAt_narrow_rows _ _ _ _ _ _ (State.reachOf_seven _), State.siteDieLost_rows, State.lockoutRec_rows,
    State.taskAgain_rows, hframe]
  exact congrArg (fun m => Assoc.put {} m (rowKey c) _) hrows

theorem RowMap.decide_spec (m : RowMap) (busy : Bool) (failed : BitVec 32) :
    (m.decide_ busy failed).decidedFailed = failed ∧ (m.decide_ busy failed).decided = activeOf failed
      ∧ (busy = false → m.decide_ busy failed = rowMapOf failed) := by
  cases busy
  · exact ⟨rfl, rfl, fun _ => rfl⟩
  · exact ⟨rfl, rfl, fun h => by cases h⟩

/-- What an association reads is its default, or stands in it. -/
theorem Assoc.get_mem_or {α : Type} (d : α) (m : Assoc α) (n : Nat) :
    Assoc.get d m n = d ∨ (n, Assoc.get d m n) ∈ m := by
  induction m with
  | nil => exact .inl rfl
  | cons e m ih =>
    obtain ⟨k, v⟩ := e
    rw [Assoc.get_cons]
    split_ifs with hk
    · exact .inr (by rw [hk]; exact List.mem_cons_self)
    · exact ih.imp id (List.mem_cons_of_mem _)

/-- No task runs on a site of a row that is not busy. -/
theorem State.siteTask_of_idle (h : s.rowBusy (rowKey c) = false) : s.siteTask c = none := by
  have hnone : (s.core c).task = none := by
    rcases Assoc.get_mem_or {} s.cores c with hcore | hcore
    · exact congrArg Core.task hcore
    · have hidle := List.any_eq_false.1 h _ hcore
      simpa [State.core] using hidle
  rw [State.siteTask, hnone]
  rfl

/-- What a core lockout makes of the site's row. -/
theorem State.lockout_site (trigger : Nat) (fate : TaskEnd) (h : s.siteFailed c = false) :
    let t := s.lockout c trigger fate
    let failed : BitVec 32 := (s.rowMap (rowKey c)).decidedFailed ||| (1 <<< colOfCore c)
    t.siteFailed c = true ∧ (t.rowMap (rowKey c)).decidedFailed = failed ∧ (t.rowMap (rowKey c)).decided
        = activeOf failed
      ∧ (s.rowBusy (rowKey c) = false → t.rowMap (rowKey c) = rowMapOf failed)
      ∧ ∀ k, k ≠ rowKey c → t.rowMap k = s.rowMap k := by
  intro t failed
  have hrows : t.grid.rows = _ := s.lockout_rows c trigger fate h
  have hfailed : ((s.taskLost (s.siteTask c)).useFree 2).failedWith c = failed := by
    unfold State.failedWith State.rowMap
    rw [State.useFree_grid, s.taskLost_rows]
    rfl
  have hmap : t.rowMap (rowKey c) = ((s.taskLost (s.siteTask c)).useFree 2).rowDecided c := by
    unfold State.rowMap
    rw [hrows]
    exact Assoc.get_put_same _ _ _ _
  obtain ⟨hdecided, hactive, hidle⟩ := RowMap.decide_spec (((s.taskLost (s.siteTask c)).useFree 2).rowMap (rowKey c))
    (((s.taskLost (s.siteTask c)).useFree 2).rowBusy (rowKey c)) failed
  have hmap' : t.rowMap (rowKey c) = (((s.taskLost (s.siteTask c)).useFree 2).rowMap (rowKey c)).decide_
      (((s.taskLost (s.siteTask c)).useFree 2).rowBusy (rowKey c)) failed := by
    rw [hmap, State.rowDecided, hfailed]
  have hbit : failed.getLsbD (colOfCore c) = true := by
    have hcol : colOfCore c < 32 := Nat.mod_lt _ (by decide)
    have hset := getLsbD_withBit (s.rowMap (rowKey c)).decidedFailed hcol true (colOfCore c)
    rw [if_pos rfl] at hset
    exact hset
  refine ⟨?_, by rw [hmap', hdecided], by rw [hmap', hactive], fun hbusy => ?_, fun k hk => ?_⟩
  · rw [State.siteFailed, hmap', hdecided]
    exact hbit
  · rw [hmap']
    refine hidle ?_
    rw [s.siteTask_of_idle c hbusy]
    exact hbusy
  · unfold State.rowMap
    rw [hrows]
    exact Assoc.get_put_other _ _ _ hk

/-! The site itself, and what else a lockout leaves. -/

/-- An episode that a core joins meets the core. -/
theorem joined_meets_core {a : Assertion} {handover : Bool} {es : List Episode} (ha : a.reach = rCore)
    (hmeet : ∀ e ∈ es, scopesMeet e.reach e.die e.core a.reach a.die a.core = true) :
    scopesMeet (joined a handover es).reach (joined a handover es).die (joined a handover es).core rCore 0 a.core
        = true := by
  rw [joined_eq]
  have hstep : ∀ (es : List Episode) (x : Episode),
      (∀ e ∈ es, scopesMeet e.reach e.die e.core rCore 0 a.core = true) →
      scopesMeet x.reach x.die x.core rCore 0 a.core = true →
      scopesMeet (es.foldl Episode.join x).reach (es.foldl Episode.join x).die
          (es.foldl Episode.join x).core rCore 0 a.core
        = true := by
    intro es
    induction es with
    | nil => exact fun _ _ h => h
    | cons e es ih =>
      intro x hmeet h
      refine ih (x.join e) (fun f hf => hmeet f (by simp [hf])) ?_
      simp only [Episode.join]
      split_ifs
      · exact hmeet e (by simp)
      · exact h
  refine hstep es _ (fun e he => ?_) ?_
  · have h := hmeet e he
    rw [ha] at h
    exact h
  · rw [Assertion.episode]
    dsimp only
    rw [ha]
    exact (if_pos rfl).trans ((if_pos rfl).trans (decide_eq_true rfl))

/-- A core in the scope of an assertion of source 7 is in reset. -/
theorem State.assertAt_coreInReset {reach : Nat} (src : Nat) (held handover : Bool) (h : reach = rDie ∨ reach = rCore) :
    (s.assertAt src reach (dieOfCore c) c held handover).coreInReset c = true := by
  let a : Assertion := { src := src, reach := reach, die := dieOfCore c, core := c, held := held }
  have hmeets : ∀ e ∈ s.resets.episodes.filter (fun e => scopesMeet e.reach e.die e.core reach (dieOfCore c) c),
      scopesMeet e.reach e.die e.core a.reach a.die a.core = true := fun e he => (List.mem_filter.1 he).2
  have hjoined : ∀ j, j = joined a handover
      (s.resets.episodes.filter (fun e => scopesMeet e.reach e.die e.core reach (dieOfCore c) c)) →
      scopesMeet j.reach j.die j.core rCore 0 c = true := by
    rintro j rfl
    rcases h with rfl | rfl
    · obtain ⟨-, -, hscope⟩ := joined_spec (a := a) (handover := handover) hmeets
      have hdie := hscope (dieOfCore c) (List.mem_singleton_self _)
      generalize joined a handover _ = j at *
      have hreach : j.reach ≠ rCore := fun hcore => by
        rw [hcore, scopeDies_none j.die (by decide)] at hdie
        cases hdie
      rw [scopesMeet, if_neg hreach, if_pos rfl]
      exact List.contains_iff_mem.2 hdie
    · exact joined_meets_core rfl hmeets
  rw [State.coreInReset, State.assertAt_episodes, Bool.or_eq_true]
  exact .inl (List.any_eq_true.2 ⟨_, List.mem_append_right _ (List.mem_singleton_self _), hjoined _ rfl⟩)

/-- A core in the scope of an assertion of source 7 holds no task. -/
theorem State.assertAt_core_idle {reach : Nat} (src : Nat) (held handover : Bool) (hc : dieOfCore c < 12)
    (h : reach = rDie ∨ reach = rCore) : ((s.assertAt src reach (dieOfCore c) c held handover).core c).task = none := by
  obtain ⟨power, resets, heq | ⟨heq, -⟩⟩ := s.assertAt_steps src reach (dieOfCore c) c held handover
  · rw [heq]
    rcases h with rfl | rfl
    · exact congrArg Core.task (s.resetScope_core hc rfl (.inr rfl))
    · exact congrArg Core.task (Assoc.get_put_same _ _ _ _)
  · have hfabric := (s.resetScope reach (dieOfCore c) c).resetFabric_core hc
    rw [heq]
    generalize (s.resetScope reach (dieOfCore c) c).resetFabric = t at *
    exact congrArg Core.task hfabric

/-- A lockout of reach CORE, of a site that holds no task and is in no reset, changes no memory and no other core. -/
theorem State.lockout_frame (trigger : Nat) (fate : TaskEnd) (h : s.siteFailed c = false) (hreach : s.reachOf 7 = rCore)
    (hidle : s.siteTask c = none) (hruns : s.coreInReset c = false) :
    (s.lockout c trigger fate).mem = s.mem ∧ ∀ e, e ≠ c → (s.lockout c trigger fate).core e = s.core e := by
  obtain ⟨logs, hfailed⟩ := State.failSite_frame (s.useFree 2) c h
  have hrecorded : ∃ u : State, u.mem = s.mem ∧ u.cores = s.cores ∧ u.resets = s.resets ∧ u.boot = s.boot ∧
      s.lockout c trigger fate = (u.siteDieLost c).assertAt 7 (u.reachOf 7) (dieOfCore c) c true false := by
    rw [State.lockout_eq, hidle]
    obtain ⟨logs', hrec⟩ := State.toRowRegions_frame ((s.useFree 2).failSite c) (rowKey c)
      { type := 0x30, strike := ((s.useFree 2).failSite c).strike, status := trigger,
        payload := leBytes 2 c ++ s.xyBytes c ++ [0, BitVec.ofNat 8 (dieOfCore c)] }
    refine ⟨_, ?_, ?_, ?_, ?_, rfl⟩
    all_goals
      refine (congrArg _ hrec).trans ?_
      rw [hfailed]
      rfl
  obtain ⟨u, hmem, hcores, hresets, hboot, heq⟩ := hrecorded
  have hcore : u.reachOf 7 = rCore := by
    rw [← hreach]
    unfold State.reachOf
    rw [hboot]
  rw [heq, hcore, State.siteDieLost, hcore, if_neg (by decide)]
  obtain ⟨power, resets, hassert | ⟨-, -, e, he, hmeets⟩⟩ := u.assertAt_steps 7 rCore (dieOfCore c) c true false
  · rw [hassert]
    refine ⟨hmem, fun e he => (Assoc.get_put_other _ _ _ he).trans ?_⟩
    rw [hcores]
    rfl
  · rw [hresets] at he
    have hin : s.coreInReset c = true := Bool.or_eq_true_iff.2 (.inl (List.any_eq_true.2 ⟨e, he, hmeets⟩))
    exact absurd hin (by rw [hruns]; exact Bool.false_ne_true)

end

theorem coreLockedOut : Claims.CoreLockedOut := by
  intro s c hexists failed out
  have hdie : dieOfCore c < 12 := by
    simp only [siteExists, Bool.and_eq_true, decide_eq_true_eq] at hexists
    exact hexists.1
  have hlockout : ∀ trigger, s.siteFailed c = false → out (s.lockout c trigger) := fun trigger h => by
    obtain ⟨hfailed, hdecided, hactive, hrow, hother⟩ := s.lockout_site c trigger {} h
    refine ⟨hfailed, ?_, ?_, hdecided, hactive, hrow, hother, fun hreach hidle hruns =>
      s.lockout_frame c trigger {} h hreach hidle hruns⟩
    · rw [State.lockout_eq]
      exact State.assertAt_coreInReset _ c _ _ _ (State.reachOf_seven _)
    · rw [State.lockout_eq]
      exact State.assertAt_core_idle _ c _ _ _ hdie (State.reachOf_seven _)
  refine ⟨fun hin => ⟨fun hon hruns => ?_, fun hmanaging => ?_⟩, fun hfailed hmanaging => ?_⟩
  · have hrun : exec (.controlParityError c) s = .next (s.lockout c 1) :=
      (if_pos hexists).trans (congrArg s.happens (if_pos (by rw [hon, hruns, hin]; rfl)))
    exact ⟨_, hrun, hlockout 1 hin⟩
  · have hrun : exec (.coreLockout c) s = .next ((s.lockout c 4).answer .ok) :=
      ((if_pos hexists).trans (State.managed_up _ _ hmanaging)).trans
        (congrArg Host.Outcome.next (if_neg (by rw [hin]; exact Bool.false_ne_true)))
    rw [hrun]
    have h := hlockout 4 hin
    generalize s.lockout c 4 = t at *
    exact ⟨_, rfl, h, rfl⟩
  · exact ((if_pos hexists).trans (State.managed_up _ _ hmanaging)).trans (congrArg Host.Outcome.next (if_pos hfailed))

/-- Settles O49: a site or a die that is locked out is in reset, and its row's map or the grid shows it. -/
theorem lockouts : Obligations.Lockouts :=
  ⟨coreLockedOut, dieLockedOutAndReturned⟩

end Sys2Proof.Machine
end

section
/-! PROOF. A port that changes its state: its own registers, and those of no other port. -/

namespace Sys2Proof.Machine

open Sys2Proof

/-- No port but p has changed, and of p what it had taken in hand alone: its packets, its descriptor, its channels. -/
def State.OnlyTaken (s : State) (p : Nat) (s₀ : State) : Prop :=
  (∀ k, k ≠ p → s.lport k = s₀.lport k)
    ∧ ∃ taken desc channels, s.lport p = { s₀.lport p with taken := taken, desc := desc, channels := channels }

section
variable {p : Nat} {s₀ s : State} (h : s.OnlyTaken p s₀)
include h

theorem State.onlyTaken_of_ports {t : State} (hports : t.link.ports = s.link.ports) : t.OnlyTaken p s₀ := by
  unfold State.OnlyTaken State.lport at *
  rwa [hports]

theorem State.setLport_onlyTaken {taken : List Taken} {desc : Option (List Byte)} {channels : Assoc Channel} :
    (s.setLport p { s.lport p with taken := taken, desc := desc, channels := channels }).OnlyTaken p s₀ := by
  obtain ⟨hother, t, d, cs, hp⟩ := h
  refine ⟨fun k hk => (State.lport_setLport_other _ _ hk).trans (hother k hk), taken, desc, channels, ?_⟩
  rw [State.lport_setLport, hp]

theorem foldl_onlyTaken {β : Type} {f : State → β → State} (l : List β)
    (hf : ∀ t x, t.OnlyTaken p s₀ → (f t x).OnlyTaken p s₀) : (l.foldl f s).OnlyTaken p s₀ := by
  induction l generalizing s with
  | nil => exact h
  | cons x l ih => exact ih (hf s x h)

end

theorem State.onlyTaken_refl (s : State) (p : Nat) : s.OnlyTaken p s := ⟨fun _ _ => rfl, _, _, _, rfl⟩

theorem State.setByte_link (s : State) (a : Nat) (b : Byte) : (s.setByte a b).link = s.link := by
  unfold State.setByte
  split <;> rfl

theorem State.putBytes_link (s : State) (a : Nat) (bs : List Byte) : (s.putBytes a bs).link = s.link := by
  unfold State.putBytes State.setBytes
  generalize bytesAt a bs = ws
  induction ws generalizing s with
  | nil => rfl
  | cons w ws ih => exact (ih _).trans (s.setByte_link w.1 w.2)

theorem State.reshardFault_ports (s : State) (axis status : Nat) :
    (s.reshardFault axis status).link.ports = s.link.ports := by
  have hscrambled : ∀ (es : List PermEntry) (t : State),
      (es.foldl (fun s e => s.scramble e.dst (64 * e.units)) t).link = t.link := fun es => by
    induction es with
    | nil => exact fun _ => rfl
    | cons e es ih => exact fun t => (ih _).trans (t.putBytes_link _ _)
  unfold State.reshardFault
  split
  · rfl
  · split
    · rfl
    · have hports := fun t es => congrArg Link.ports (hscrambled es t)
      exact (hports _ _).trans rfl

section
variable {p : Nat} {s₀ s : State} (h : s.OnlyTaken p s₀)
include h

theorem State.failTaken_onlyTaken (t : Taken) (status : Nat) : (s.failTaken p t status).OnlyTaken p s₀ := by
  unfold State.failTaken
  split
  · exact State.onlyTaken_of_ports h rfl
  · split
    · exact State.onlyTaken_of_ports (State.setLport_onlyTaken h) rfl
    · exact h
  · split
    · exact State.onlyTaken_of_ports h (s.reshardFault_ports _ _)
    · exact h
  · exact h

theorem State.loseTaken_onlyTaken : (s.loseTaken p).OnlyTaken p s₀ := by
  unfold State.loseTaken
  dsimp only
  have hdropped : ((s.setLport p { s.lport p with taken := [], desc := none }).dropTurns p
      (fun _ => true)).OnlyTaken p s₀ :=
    State.onlyTaken_of_ports (State.setLport_onlyTaken h) rfl
  have hfailed := foldl_onlyTaken hdropped (s.lport p).taken fun t x ht => State.failTaken_onlyTaken ht x 3
  refine foldl_onlyTaken ?_ _ fun t n ht => ?_
  · split
    · exact State.onlyTaken_of_ports hfailed (State.reshardFault_ports _ _ _)
    · exact hfailed
  · split
    · exact State.onlyTaken_of_ports (State.setLport_onlyTaken ht) rfl
    · exact ht

end

/-- The registers of a port in a state: a port that is DOWN or DISABLED has its link layer reset (R287). -/
def Port.inState (x : Port) (st : PortState) : Port :=
  let y := { x with
    state := st
    retrain := false
    held := x.held && st == .linkUp
    sc := if st == .down && x.state != .down then x.sc.event 0
      else if st == .mismatch && x.state != .mismatch then x.sc.event 3 else x.sc }
  if st == .down || st == .disabled then y.linkReset else y

section
variable (s : State) (p : Nat) (st : PortState)

/-- A port that goes to a state. -/
theorem State.portTo_lport : ∃ taken desc channels, (s.portTo p st).lport p =
      Port.inState { s.lport p with taken := taken, desc := desc, channels := channels } st
    ∧ ∀ k, k ≠ p → (s.portTo p st).lport k = s.lport k := by
  unfold State.portTo
  extract_lets x was low sc changed stays lost reset
  have hlost : lost.OnlyTaken p changed := by
    unfold lost
    split
    · exact State.loseTaken_onlyTaken (changed.onlyTaken_refl p)
    · exact changed.onlyTaken_refl p
  obtain ⟨hother, taken, desc, channels, hp⟩ := hlost
  have hchanged : ∀ k, k ≠ p → changed.lport k = s.lport k := fun k hk => State.lport_setLport_other _ _ hk
  rw [State.lport_setLport] at hp
  refine ⟨taken, desc, channels, ?_⟩
  have hlink : ∀ t : State, (if (x.state == .ready) != (st == .ready) ||
      (was && !stays) then t.linkState p else t).link = t.link := by
    intro t
    split <;> rfl
  have hport : ∀ (t u : State) k, t.link = u.link → t.lport k = u.lport k := fun t u k h => by
    unfold State.lport
    rw [h]
  refine ⟨(hport _ _ _ (hlink reset)).trans ?_, fun k hk => (hport _ _ _ (hlink reset)).trans ?_⟩
  · unfold reset Port.inState
    dsimp only
    split
    · rw [State.lport_setLport, hp]
    · exact hp
  · unfold reset
    split
    · rw [State.lport_setLport_other _ _ hk, hother k hk, hchanged k hk]
    · rw [hother k hk, hchanged k hk]

end

end Sys2Proof.Machine
end

section
/-! PROOF. The repair record in flash: what a record written there is read back as (R437). -/

namespace Sys2Proof.Machine

open Sys2Proof

/-! Slices of bytes, and the numbers they hold. -/

theorem slice_middle (p m q : List Byte) : slice (p ++ m ++ q) p.length m.length = m := by
  simp [slice]

theorem slice_front {m : List Byte} (q : List Byte) {n : Nat} (hn : m.length = n) : slice (m ++ q) 0 n = m := by
  simp [slice, ← hn]

theorem ofLe_leBytes (n x : Nat) : ofLe (leBytes n x) = x % 2 ^ (8 * n) := by
  induction n generalizing x with
  | zero => simp [leBytes, ofLe, Nat.mod_one]
  | succ n ih =>
    have hpow : 2 ^ (8 * (n + 1)) = 2 ^ 8 * 2 ^ (8 * n) := by
      rw [← pow_add]
      congr 1
      omega
    rw [leBytes, ofLe, ih, BitVec.toNat_ofNat, hpow, Nat.mod_mul]
    norm_num

theorem leAt_middle (p q : List Byte) {k n x : Nat} (hk : p.length = k) (hx : x < 2 ^ (8 * n)) :
    leAt (p ++ leBytes n x ++ q) k n = x := by
  have h := slice_middle p (leBytes n x) q
  rw [length_leBytes, hk] at h
  rw [leAt, h, ofLe_leBytes, Nat.mod_eq_of_lt hx]

/-! Entries. -/

/-- An entry whose fields fit their bytes. -/
def repairFits (e : RepairEntry) : Prop := e.kind < 256 ∧ e.die < 256 ∧ e.index < 2 ^ 32

theorem repairEntry_fits (b : List Byte) : repairFits (repairEntry b) := ⟨leAt_lt b 0 1, leAt_lt b 1 1, leAt_lt b 4 4⟩

theorem repairEntry_repairBytes {e : RepairEntry} (h : repairFits e) : repairEntry (repairBytes e) = e := by
  obtain ⟨hkind, hdie, hindex⟩ := h
  have hk : leAt (repairBytes e) 0 1 = e.kind := leAt_middle [] _ (n := 1) rfl hkind
  have hd : leAt (repairBytes e) 1 1 = e.die := leAt_middle [BitVec.ofNat 8 e.kind] _ (n := 1) rfl hdie
  have hi : leAt (repairBytes e) 4 4 = e.index := by
    have h := leAt_middle [BitVec.ofNat 8 e.kind, BitVec.ofNat 8 e.die, 0, 0] [] (n := 4) rfl hindex
    rwa [List.append_nil] at h
  rw [repairEntry, hk, hd, hi]

theorem length_repairBytes (e : RepairEntry) : (repairBytes e).length = 8 := by
  simp [repairBytes]

theorem length_flatMap_repairBytes (es : List RepairEntry) : (es.flatMap repairBytes).length = 8 * es.length := by
  induction es with
  | nil => rfl
  | cons e es ih =>
    rw [List.flatMap_cons, List.length_append, ih, length_repairBytes, List.length_cons]
    omega

/-- The entries of a record's body. -/
theorem entries_flatMap {es : List RepairEntry} (h : ∀ e ∈ es, repairFits e) :
    (List.range es.length).map (fun i => repairEntry (slice (es.flatMap repairBytes) (8 * i) 8)) = es := by
  induction es with
  | nil => rfl
  | cons e es ih =>
    have hfirst : slice ((e :: es).flatMap repairBytes) 0 8 = repairBytes e := by
      have h := slice_middle [] (repairBytes e) (es.flatMap repairBytes)
      rwa [length_repairBytes] at h
    have hrest : ∀ i, slice ((e :: es).flatMap repairBytes) (8 * (i + 1)) 8 = slice (es.flatMap repairBytes)
        (8 * i) 8 := by
      intro i
      have hdrop : ((e :: es).flatMap repairBytes).drop (8 * (i + 1)) = (es.flatMap repairBytes).drop (8 * i) := by
        rw [List.flatMap_cons, show 8 * (i + 1) = (repairBytes e).length + 8 * i by rw [length_repairBytes]; omega,
          List.drop_append]
        simp
      rw [slice, slice, hdrop]
    rw [List.length_cons, List.range_succ_eq_map, List.map_cons, List.map_map, hfirst, repairEntry_repairBytes
        (h e (by simp))]
    congr 1
    refine Eq.trans (List.map_congr_left fun i _ => ?_) (ih fun e he => h e (by simp [he]))
    exact congrArg repairEntry (hrest i)

/-! The record in flash. -/

theorem readFrom_eq_take {rd : Nat → Byte} {a n : Nat} {bs : List Byte} (hn : n ≤ bs.length)
    (h : ∀ i < n, rd (a + i) = bs.getD i 0) : readFrom rd a n = bs.take n := by
  induction n generalizing a bs with
  | zero => rfl
  | succ n ih =>
    cases bs with
    | nil => simp at hn
    | cons b bs =>
      have hrest := ih (a := a + 1) (bs := bs) (by simpa using hn) fun i hi => by
        have hnext := h (i + 1) (by omega)
        rwa [← Nat.add_assoc, Nat.add_right_comm, List.getD_cons_succ] at hnext
      have hfirst : rd a = b := by simpa using h 0 (by omega)
      rw [readFrom, hrest, hfirst, List.take_succ_cons]

section
variable (s : State)

theorem State.flashByte_program (a : Nat) (bs : List Byte) (x : Nat) : (s.program a bs).flashByte x =
    if a ≤ x ∧ x < a + bs.length then bs.getD (x - a) 0 else s.flashByte x := by
  have hput : ∀ (ws : List (Nat × Byte)) (m : Assoc Byte),
      Assoc.get 0xFF (Assoc.putAll 0xFF m ws) x = lastWrite ws x (Assoc.get 0xFF m x) := fun ws => by
    induction ws with
    | nil => exact fun _ => rfl
    | cons w ws ih =>
      intro m
      rw [Assoc.putAll, lastWrite, ih, Assoc.get_put]
      congr 1
      by_cases h : x = w.1 <;> simp [h, eq_comm]
  rw [← lastWrite_bytesAt]
  exact hput _ _

/-- What is read back of a run of bytes that were programmed. -/
theorem State.flashBytes_program_in {a o n : Nat} {bs : List Byte} (h : o + n ≤ bs.length) :
    (s.program a bs).flashBytes (a + o) n = (bs.drop o).take n := by
  refine readFrom_eq_take (by rw [List.length_drop]; omega) fun i hi => ?_
  rw [State.flashByte_program, if_pos (by omega), List.getD_eq_getElem?_getD, List.getD_eq_getElem?_getD,
      List.getElem?_drop]
  congr 2
  omega

theorem readFrom_congr {rd rd' : Nat → Byte} {a n : Nat} (h : ∀ x, a ≤ x → x < a + n → rd x = rd' x) :
    readFrom rd a n = readFrom rd' a n := by
  induction n generalizing a with
  | zero => rfl
  | succ n ih => rw [readFrom, readFrom, h a le_rfl (by omega), ih fun x hx hlt => h x (by omega) (by omega)]

theorem State.flashBytes_program_out {a b n : Nat} {bs : List Byte} (h : b + n ≤ a ∨ a + bs.length ≤ b) :
    (s.program a bs).flashBytes b n = s.flashBytes b n :=
  readFrom_congr fun x hx hlt => by rw [State.flashByte_program, if_neg (by omega)]

end

/-- The bytes of a record. -/
def recordBytes (seq : BitVec 32) (es : List RepairEntry) : List Byte :=
  repairHead seq es.length
    ++ leBytes 4 (crc32 (repairHead seq es.length ++ es.flatMap repairBytes)).toNat ++ List.replicate 48 0
    ++ es.flatMap repairBytes

theorem length_repairHead (seq : BitVec 32) (n : Nat) : (repairHead seq n).length = 12 := by
  simp [repairHead]

theorem length_recordBytes (seq : BitVec 32) (es : List RepairEntry) : (recordBytes seq es).length
    = 64 + 8 * es.length := by
  simp only [recordBytes, List.length_append, length_repairHead, length_leBytes, List.length_replicate,
    length_flatMap_repairBytes]

/-- The header of a record, and its body. -/
theorem recordBytes_parts (seq : BitVec 32) (es : List RepairEntry) :
    ((recordBytes seq es).drop 0).take 64 = repairHead seq es.length
        ++ leBytes 4 (crc32 (repairHead seq es.length ++ es.flatMap repairBytes)).toNat ++ List.replicate 48 0
      ∧ ((recordBytes seq es).drop 64).take (8 * es.length) = es.flatMap repairBytes := by
  have hhead : (repairHead seq es.length
      ++ leBytes 4 (crc32 (repairHead seq es.length ++ es.flatMap repairBytes)).toNat ++ List.replicate 48 0).length
          = 64 := by
    simp [length_repairHead]
  rw [recordBytes]
  generalize repairHead seq es.length
    ++ leBytes 4 (crc32 (repairHead seq es.length ++ es.flatMap repairBytes)).toNat ++ List.replicate 48 0 = h at *
  constructor
  · rw [List.drop_zero, ← hhead, List.take_left']
    rfl
  · rw [← hhead, List.drop_left', ← length_flatMap_repairBytes, List.take_length]
    rfl

/-- The header of a record. -/
def recordHead (seq : BitVec 32) (es : List RepairEntry) : List Byte :=
  repairHead seq es.length ++ leBytes 4 (crc32 (repairHead seq es.length ++ es.flatMap repairBytes)).toNat
    ++ List.replicate 48 0

/-- The fields of the header of a record. -/
theorem recordHead_fields (seq : BitVec 32) (es : List RepairEntry) (hlen : es.length ≤ 8184) :
    leAt (recordHead seq es) 0 4 = 0x52524B5A ∧ leAt (recordHead seq es) 4 4 = seq.toNat
      ∧ leAt (recordHead seq es) 8 4 = es.length
      ∧ leAt (recordHead seq es) 12 4 = (crc32 (repairHead seq es.length ++ es.flatMap repairBytes)).toNat
      ∧ slice (recordHead seq es) 16 48 = List.replicate 48 0 ∧ slice (recordHead seq es) 0 12
          = repairHead seq es.length := by
  have hsplit : recordHead seq es = leBytes 4 0x52524B5A ++ leBytes 4 seq.toNat ++ leBytes 4 es.length
  
      ++ leBytes 4 (crc32 (repairHead seq es.length ++ es.flatMap repairBytes)).toNat ++ List.replicate 48 0 := by
    rw [recordHead, repairHead]
  have hhead : repairHead seq es.length = leBytes 4 0x52524B5A ++ leBytes 4 seq.toNat ++ leBytes 4 es.length := by
    rw [repairHead]
  have hcrc := (crc32 (repairHead seq es.length ++ es.flatMap repairBytes)).isLt
  generalize crc32 (repairHead seq es.length ++ es.flatMap repairBytes) = crc at *
  have hseq := seq.isLt
  rw [hsplit, hhead]
  generalize hm : leBytes 4 0x52524B5A = m
  generalize hz : List.replicate 48 (0 : Byte) = z
  have hmlen : m.length = 4 := by rw [← hm, length_leBytes]
  have hzlen : z.length = 48 := by rw [← hz, List.length_replicate]
  refine ⟨?_, ?_, ?_, ?_, ?_, ?_⟩
  · have h := leAt_middle [] (leBytes 4 seq.toNat ++ leBytes 4 es.length ++ leBytes 4 crc.toNat ++ z) (k := 0) (n := 4)
      (x := 0x52524B5A) rfl (by norm_num)
    rw [hm] at h
    simpa using h
  · have h := leAt_middle m (leBytes 4 es.length ++ leBytes 4 crc.toNat ++ z) (n := 4) hmlen hseq
    simpa using h
  · have h := leAt_middle (m ++ leBytes 4 seq.toNat) (leBytes 4 crc.toNat ++ z) (k := 8) (n := 4) (x := es.length)
      (by simp [hmlen]) (by omega)
    simpa using h
  · have h := leAt_middle (m ++ leBytes 4 seq.toNat ++ leBytes 4 es.length) z (k := 12) (n := 4) (by simp [hmlen]) hcrc
    simpa using h
  · have h := slice_middle (m ++ leBytes 4 seq.toNat ++ leBytes 4 es.length ++ leBytes 4 crc.toNat) z []
    simpa [hmlen, hzlen] using h
  · have hlen : (m ++ leBytes 4 seq.toNat ++ leBytes 4 es.length).length = 12 := by simp [hmlen]
    generalize m ++ leBytes 4 seq.toNat ++ leBytes 4 es.length = f at *
    rw [List.append_assoc]
    exact slice_front _ hlen

/-- A record written to a copy is what the copy holds. -/
theorem State.repairCopy_program (s : State) (b : Bool) (seq : BitVec 32) {es : List RepairEntry}
    (hlen : es.length ≤ 8184)
    (h : ∀ e ∈ es, repairFits e) :
    (s.program (copyAddr b) (recordBytes seq es)).repairCopy b = some { seq := seq, entries := es } := by
  obtain ⟨hhead, hbody⟩ := recordBytes_parts seq es
  have hlength := length_recordBytes seq es
  have hread := s.flashBytes_program_in (a := copyAddr b) (o := 0) (n := 64) (bs := recordBytes seq es) (by omega)
  have hread' := s.flashBytes_program_in (a := copyAddr b) (o := 64) (n := 8 * es.length) (bs := recordBytes seq es)
      (by omega)
  rw [hhead, Nat.add_zero] at hread
  rw [hbody] at hread'
  have hhead' : (s.program (copyAddr b) (recordBytes seq es)).flashBytes (copyAddr b) 64 = recordHead seq es := hread
  obtain ⟨hmagic, hseq, hn, hcrc, hzero, hfront⟩ := recordHead_fields seq es hlen
  unfold State.repairCopy
  dsimp only
  rw [hhead', hn, hread', hfront, hcrc, hseq, hzero, if_pos ⟨hmagic, hlen, by decide⟩, if_pos rfl, entries_flatMap h,
    BitVec.ofNat_toNat, BitVec.setWidth_eq]

/-- The other copy stays as it is. -/
theorem State.repairCopy_program_other (s : State) (b : Bool) {bs : List Byte} (h : bs.length ≤ 65536) :
    (s.program (copyAddr b) bs).repairCopy (!b) = s.repairCopy (!b) := by
  have hapart : copyAddr (!b) + 65536 ≤ copyAddr b ∨ copyAddr b + 65536 ≤ copyAddr (!b) := by
    cases b <;> decide
  have hread : ∀ o n, o + n ≤ 65536 → (s.program (copyAddr b) bs).flashBytes (copyAddr (!b) + o) n =
      s.flashBytes (copyAddr (!b) + o) n := fun o n hn => s.flashBytes_program_out (by omega)
  have hhead := hread 0 64 (by decide)
  rw [Nat.add_zero] at hhead
  unfold State.repairCopy
  dsimp only
  rw [hhead]
  by_cases hok : leAt (s.flashBytes (copyAddr !b) 64) 8 4 ≤ 8184
  · rw [hread 64 _ (by omega)]
  · rw [if_neg fun h => hok h.2.1, if_neg fun h => hok h.2.1]

/-- The newest record stands in the copy that it names. -/
theorem State.newestRepair_copy (s : State) {r : Bool × RepairCopy} (h : s.newestRepair = some r) :
    s.repairCopy r.1 = some r.2 := by
  unfold State.newestRepair at h
  split at h
  · next a b ha hb =>
    split at h
    · obtain rfl := Option.some.inj h
      exact hb
    · obtain rfl := Option.some.inj h
      exact ha
  · next a ha hb =>
    obtain rfl := Option.some.inj h
    exact ha
  · next b ha hb =>
    obtain rfl := Option.some.inj h
    exact hb
  · cases h

theorem State.newestRepair_none (s : State) (h : s.newestRepair = none) (b : Bool) : s.repairCopy b = none := by
  unfold State.newestRepair at h
  split at h
  · split at h <;> cases h
  · cases h
  · cases h
  · next ha hb =>
    cases b
    · exact ha
    · exact hb

/-- The entries of the record read fit their bytes. -/
theorem State.repairs_fit (s : State) : ∀ e ∈ s.repairs, repairFits e := by
  have hcopy : ∀ b r, s.repairCopy b = some r → ∀ e ∈ r.entries, repairFits e := by
    intro b r hr e he
    unfold State.repairCopy at hr
    dsimp only at hr
    split_ifs at hr
    obtain rfl := Option.some.inj hr
    obtain ⟨i, -, rfl⟩ := List.mem_map.1 he
    exact repairEntry_fits _
  intro e he
  unfold State.repairs at he
  cases hnewest : s.newestRepair with
  | none => simp [hnewest] at he
  | some r =>
    rw [hnewest] at he
    exact hcopy r.1 r.2 (s.newestRepair_copy hnewest) e he

/-- The number behind another is after it, and not before. -/
theorem after32_succ (x : BitVec 32) : after32 (x + 1) x = true ∧ after32 x (x + 1) = false := by
  have hlater : (x + 1 - x).toNat = 1 := by bv_omega
  have hearlier : (x - (x + 1)).toNat = 2 ^ 32 - 1 := by bv_omega
  simp only [after32, hlater, hearlier]
  decide

/-- A record is written to the copy that does not hold the newest one, with the next number. -/
theorem State.writeRepair_eq (s : State) (es : List RepairEntry) :
    ∃ b seq, s.writeRepair es = s.program (copyAddr b) (recordBytes seq es)
      ∧ (s.repairCopy (!b) = none ∧ b = false ∨ ∃ r, s.repairCopy (!b) = some r ∧ seq = r.seq + 1) := by
  unfold State.writeRepair
  cases hnewest : s.newestRepair with
  | none => exact ⟨false, 1, rfl, .inl ⟨s.newestRepair_none hnewest true, rfl⟩⟩
  | some r =>
    refine ⟨!r.1, r.2.seq + 1, rfl, .inr ⟨r.2, ?_, rfl⟩⟩
    rw [Bool.not_not]
    exact s.newestRepair_copy hnewest

/-- A record written is then the newest. -/
theorem State.repairs_writeRepair (s : State) {es : List RepairEntry} (hlen : es.length ≤ 8184)
    (h : ∀ e ∈ es, repairFits e) : (s.writeRepair es).repairs = es := by
  obtain ⟨b, seq, hwrite, hold⟩ := s.writeRepair_eq es
  have hnew := s.repairCopy_program b seq hlen h
  have hother := s.repairCopy_program_other b (bs := recordBytes seq es) (by rw [length_recordBytes]; omega)
  rw [hwrite]
  generalize s.program (copyAddr b) (recordBytes seq es) = t at *
  have hnewest : t.newestRepair = some (b, { seq := seq, entries := es }) := by
    unfold State.newestRepair
    rcases hold with ⟨hnone, rfl⟩ | ⟨r, hr, rfl⟩
    · rw [hnew, show t.repairCopy true = none from hother.trans hnone]
    · obtain ⟨hlater, hearlier⟩ := after32_succ r.seq
      rw [hr] at hother
      cases b
      · rw [hnew, show t.repairCopy true = some r from hother]
        dsimp only
        rw [hearlier, if_neg Bool.false_ne_true]
      · rw [hnew, show t.repairCopy false = some r from hother]
        dsimp only
        rw [hlater, if_pos rfl]
  rw [State.repairs, hnewest]
  rfl

/-- A record written changes no byte of the flash below the two copies. -/
theorem State.flashByte_writeRepair (s : State) (es : List RepairEntry) {a : Nat} (h : a < 0x3000000) :
    (s.writeRepair es).flashByte a = s.flashByte a := by
  obtain ⟨b, seq, hwrite, -⟩ := s.writeRepair_eq es
  have hplace : 0x3000000 ≤ copyAddr b := by cases b <;> decide
  rw [hwrite, State.flashByte_program, if_neg (by omega)]

end Sys2Proof.Machine
end

section
/-! PROOF. O50: escalation, configuration parity, spared banks and the repair record. -/

namespace Sys2Proof.Machine

open Sys2Proof

theorem State.dieFault_locks {s : State} {d : Nat} (hd : d < 12) (trigger : Nat)
    (hin : s.grid.diesOut.contains d = false) :
    (s.dieFault d trigger).grid.diesOut.contains d = true ∧ (s.dieFault d trigger).dieInReset d = true := by
  obtain ⟨hout, hreset, -⟩ := s.lockDie_spec hd trigger
  rw [State.dieFault, if_pos hd, if_neg (by rw [hin]; exact Bool.false_ne_true)]
  exact ⟨by rw [hout]; simp, hreset⟩

theorem recoveryEscalates : Claims.RecoveryEscalates := by
  intro s
  have hstep : ∀ x t, s.escalated x = some t → exec (.recoveryTimeout x) s = .next t := fun x t h =>
      congrArg s.happens h
  have hopen : ∀ (f : Assertion → Bool) {p : Assertion → Prop}, (∀ a, p a → f a = true) →
      (∃ e ∈ s.resets.episodes, ∃ a ∈ e.asserted, p a) → s.resets.episodes.any (fun e => e.asserted.any f) = true := by
    rintro f p hf ⟨e, he, a, ha, hp⟩
    exact List.any_eq_true.2 ⟨e, he, List.any_eq_true.2 ⟨a, ha, hf a hp⟩⟩
  have hlockout : ∀ c, (∃ e ∈ s.resets.episodes, ∃ a ∈ e.asserted, a.src = 7 ∧ a.held = true ∧ a.core = c) →
      exec (.recoveryTimeout (.lockout c)) s = .next (s.dieFault (dieOfCore c) 5) := fun c h =>
    hstep _ _ (if_pos (hopen _ (fun a ⟨hsrc, hheld, hcore⟩ => by simp [hsrc, hheld, hcore]) h))
  refine ⟨fun c hc hin h => ?_, fun c hc hout h => ?_, fun d h => ?_, fun k e hk hpower hmodule => ?_⟩
  · exact ⟨_, hlockout c h, State.dieFault_locks hc 5 hin⟩
  · refine ⟨_, hlockout c h, ?_⟩
    rw [State.dieFault, if_pos hc, if_pos hout]
    exact s.assertAt_asserting 8 (s.reachOf 8) (dieOfCore c) 0 true false
  · exact ⟨_, hstep _ _ (if_pos (hopen _ (fun a ⟨hsrc, hheld, hdie⟩ => by simp [hsrc, hheld, hdie]) h)),
      s.assertAt_asserting 8 rFabric d.val 0 true false⟩
  · refine ⟨_, hstep _ s.watchdogBites ?_, s.assertAt_asserting 4 (s.reachOf 4) 0 0 true false⟩
    have hrun : s.escalated (.episode k) = (match s.resets.episodes[k]? with
      | some e => if e.reach = rPower ∨ e.reach = rModule then none else some s.watchdogBites
      | none => none) := rfl
    rw [hrun, hk]
    exact if_neg (by simp [hpower, hmodule])

/-! Configuration parity (R448, R449). -/

theorem parityRegs_length (b : ParityBlock) : 0 < (parityRegs b).length := by
  cases b
  all_goals
    simp only [parityRegs]
    simp

theorem State.parityAddr_mem (s : State) (b : ParityBlock) : s.parityAddr b ∈ parityRegs b := by
  have hlt : (Config.freeWord s.free).toNat % (parityRegs b).length < (parityRegs b).length :=
    Nat.mod_lt _ (parityRegs_length b)
  unfold State.parityAddr
  rw [List.getD_eq_getElem _ _ hlt]
  exact List.getElem_mem hlt

/-- A record to event queue 0 and the module log. -/
theorem State.toEq0Log_records (s : State) (r : Rec) :
    (s.toEq0Log r).logs.mlog = Assoc.set s.logs.mlog (s.logs.mcount.n.toNat % 4096) r
      ∧ ((s.eq 0).enable = true → (s.toEq0Log r).eq 0 = (s.eq 0).take r) ∧ ∀ e, e ≠ 0 → (s.toEq0Log r).eq e
          = s.eq e := by
  unfold State.toEq0Log State.toEq0
  by_cases h : (s.eq 0).enable = true
  · rw [if_pos h]
    refine ⟨rfl, fun _ => ?_, fun e he => State.eq_setEq_other _ _ he⟩
    refine (State.eq_setEq _ _ _).trans ?_
    rw [h, if_pos rfl]
  · rw [if_neg h]
    exact ⟨rfl, fun h' => absurd h' h, fun _ _ => rfl⟩

theorem Assoc.get_mapValues {α : Type} (d : α) (m : Assoc α) (f : α → α) (hf : f d = d) (n : Nat) :
    Assoc.get d (m.map (fun e => (e.1, f e.2))) n = f (Assoc.get d m n) := by
  induction m with
  | nil => exact hf.symm
  | cons e m ih =>
    obtain ⟨k, v⟩ := e
    rw [List.map_cons, Assoc.get_cons, Assoc.get_cons]
    split_ifs
    · rfl
    · exact ih

/-- A port in its safe state. -/
theorem State.safePort_spec (s : State) (p : Nat) : ((s.safePort p).lport p).enable = false
    ∧ ((s.safePort p).lport p).state = .disabled ∧ ∀ n, (((s.safePort p).lport p).channel n).valid = false := by
  obtain ⟨taken, desc, channels, hport, -⟩ :=
    (s.setLport p { s.lport p with enable := false, lanes := 0 }).portTo_lport p .disabled
  rw [State.lport_setLport] at hport
  unfold State.safePort
  dsimp only
  generalize (s.setLport p { s.lport p with enable := false, lanes := 0 }).portTo p .disabled = t at *
  rw [State.lport_setLport]
  refine ⟨by rw [hport]; rfl, by rw [hport]; rfl, fun n => ?_⟩
  unfold Port.channel Channel.valid
  rw [Assoc.get_mapValues {} _ (fun c : Channel => { c with a := c.a &&& 0x7FFFFFFFFFFFFFFF }) rfl]
  simp [bit]

theorem parityMakesSafe : Claims.ParityMakesSafe := by
  intro s b hexists hup
  have hrun : exec (.configParityScan b) s = .next (s.parityFound b) :=
    (if_pos hexists).trans (congrArg s.happens (if_pos hup))
  obtain ⟨hmlog, htake, hother⟩ := (s.useFree 1).toEq0Log_records
    { type := 0x34, strike := s.strike, status := s.parityDie b, payload := leBytes 8 (s.parityAddr b) }
  have hframe := (s.useFree 1).toEq0Log_frame
    { type := 0x34, strike := s.strike, status := s.parityDie b, payload := leBytes 8 (s.parityAddr b) }
  have hcount := (s.useFree 1).toEq0Log_mcount
    { type := 0x34, strike := s.strike, status := s.parityDie b, payload := leBytes 8 (s.parityAddr b) }
  unfold State.parityFound at hrun
  dsimp only at hrun
  generalize (s.useFree 1).toEq0Log
    { type := 0x34, strike := s.strike, status := s.parityDie b, payload := leBytes 8 (s.parityAddr b) } = t at *
  have hgrid : t.grid = s.grid := by rw [hframe]; rfl
  have hge : t.ge = s.ge := by rw [hframe]; rfl
  have hboot : t.boot = s.boot := by rw [hframe]; rfl
  have hmem : t.mem = s.mem := by rw [hframe]; rfl
  have hreach : ∀ k, t.reachOf k = s.reachOf k := fun k => by
    unfold State.reachOf
    rw [hboot]
  have hregion : ∀ k, t.region k = s.region k := fun k => by
    unfold State.region
    rw [hge]
  have hsq : ∀ q, t.sq q = s.sq q := fun q => by
    unfold State.sq
    rw [hge]
  refine ⟨t, _, s.parityAddr b, hrun, rfl, s.parityAddr_mem b, ?_, hcount, hmlog, htake, hother, ?_⟩
  · rw [hframe]
    rfl
  · cases b with
    | eventQueue e =>
      refine ⟨?_, rfl, hcount, hmem⟩
      exact congrArg EventQueue.enable (State.eq_setEq t e _)
    | port p => exact t.safePort_spec p
    | graphEngine d => exact fun hin => State.dieFault_locks d.isLt 5 (by rw [hgrid]; exact hin)
    | queueGe q =>
      intro hd hin
      have hhost : (t.region (t.sq q).region).host = (s.region (s.sq q).region).host := by rw [hregion, hsq]
      have h := State.dieFault_locks (s := t) hd 5 (by rw [hgrid]; exact hin)
      rw [← hhost] at h ⊢
      exact h
    | regionGe r =>
      intro hd hin
      have hhost : (t.region r).host = (s.region r).host := by rw [hregion]
      have h := State.dieFault_locks (s := t) hd 5 (by rw [hgrid]; exact hin)
      rw [← hhost] at h ⊢
      exact h
    | queueHd _ => rfl
    | regionHd _ => rfl
    | store d =>
      have h := t.assert_asserting 8 (16 + d.val) true
      rw [hreach] at h
      exact h
    | memory m => exact t.assertAt_asserting 8 rDie (32 + m) 0 true false
    | service =>
      have h := t.assertAt_asserting 4 (t.reachOf 4) 0 0 true false
      have hbites : t.watchdogBites = t.assertAt 4 (t.reachOf 4) 0 0 true false := rfl
      rw [← hbites, hreach] at h
      exact h

/-! Spared banks and the repair record (R419, R420, R437). -/

theorem bankSpared (s : State) (d : Fin 8) (b : Nat) (h : Assoc.get none s.store.copying d.val = some b)
    (hup : s.dieUp (16 + d.val) = true) (hruns : s.inGap (16 + d.val) = false) :
    ∃ s', exec (.bankSpareDone d) s = .next s'
      ∧ Assoc.get [] s'.store.spared d.val = Assoc.get [] s.store.spared d.val ++ [b]
      ∧ Assoc.get none s'.store.copying d.val = (Assoc.get [] s.store.waiting d.val).head?
      ∧ Assoc.get [] s'.store.waiting d.val = (Assoc.get [] s.store.waiting d.val).tail
      ∧ s'.logs.mcount = s.logs.mcount.tick ∧ s'.mem = s.mem := by
  have hrun : exec (.bankSpareDone d) s = .next (({ s with store := { s.store with
      copying := Assoc.put none s.store.copying d.val (Assoc.get [] s.store.waiting d.val).head?
      waiting := Assoc.put [] s.store.waiting d.val (Assoc.get [] s.store.waiting d.val).tail
      spared := Assoc.put [] s.store.spared d.val (Assoc.get [] s.store.spared d.val ++ [b]) } } : State).repair 2
        (16 + d.val) b) := by
    have hdef : exec (.bankSpareDone d) s = execBankSpareDone d s := rfl
    rw [hdef, execBankSpareDone, h]
    exact congrArg s.happens (if_pos (by rw [hup, hruns]; rfl))
  refine ⟨_, hrun, ?_, ?_, ?_, State.toEq0Log_mcount _ _, by simp⟩
  all_goals
    rw [State.repair_store]
    exact Assoc.get_put_same _ _ _ _

theorem repairRecorded (s : State) (e : RepairEntry) (hup : s.svUp = true) (hrepaired : s.repaired e = true)
    (hnew : s.repairs.contains e = false) (hroom : s.repairs.length < 8184) (hdie : e.die < 256)
        (hindex : e.index < 2 ^ 32) :
    ∃ s', exec (.repairRecordWrite e) s = .next s' ∧ s'.repairs = s.repairs ++ [e]
      ∧ s' = { s with boot := { s.boot with flash := s'.boot.flash } }
      ∧ ∀ a, a < 0x3000000 → s'.flashByte a = s.flashByte a := by
  have hrun : exec (.repairRecordWrite e) s = .next (s.writeRepair (s.repairs ++ [e])) :=
    congrArg s.happens (if_pos (by rw [hup, hrepaired, hnew, decide_eq_true hroom]; rfl))
  have hkind : e.kind < 256 := by
    unfold State.repaired at hrepaired
    by_contra hk
    rw [if_neg (by omega), if_neg (by omega), if_neg (by omega), if_neg (by omega), if_neg (by omega)] at hrepaired
    cases hrepaired
  have hfits : ∀ x ∈ s.repairs ++ [e], repairFits x := fun x hx => by
    rcases List.mem_append.1 hx with hx | hx
    · exact s.repairs_fit x hx
    · rw [List.mem_singleton.1 hx]
      exact ⟨hkind, hdie, hindex⟩
  refine ⟨_, hrun, s.repairs_writeRepair (by rw [List.length_append]; exact hroom) hfits, ?_,
    fun a ha => s.flashByte_writeRepair _ ha⟩
  obtain ⟨b, seq, hwrite, -⟩ := s.writeRepair_eq (s.repairs ++ [e])
  obtain ⟨flash, hframe⟩ := s.program_frame (copyAddr b) (recordBytes seq (s.repairs ++ [e]))
  rw [hwrite, hframe]

/-- Settles O50: a step that overruns is a fault of what it works on, and a repair is written behind the newest
record. -/
theorem recoveryAndRepairs : Obligations.RecoveryAndRepairs :=
  ⟨recoveryEscalates, parityMakesSafe, fun s => ⟨bankSpared s, repairRecorded s⟩⟩

end Sys2Proof.Machine
end

section
/-! PROOF. O36: logical coordinates, the spare map, row map updates and row clocks. -/

namespace Sys2Proof.Machine

open Sys2Proof

/-! Logical coordinates (R6, R7, R8). -/

/-- The numbers below n that satisfy a condition, split at one of them. -/
theorem filter_range_split {p : Nat → Bool} {k n : Nat} (hk : k < n) (hp : p k = true) : ∃ rest,
    (List.range n).filter p = (List.range k).filter p ++ k :: rest := by
  have hrange : List.range n = List.range k ++ k :: (List.range (n - k - 1)).map (k + 1 + ·) := by
    have h := List.range_add (n := k + 1) (m := n - k - 1)
    rw [show k + 1 + (n - k - 1) = n by omega, List.range_succ, List.append_assoc] at h
    exact h
  rw [hrange, List.filter_append, List.filter_cons_of_pos hp]
  exact ⟨_, rfl⟩

theorem logicalCoordinates : Claims.LogicalCoordinates := by
  intro s c hexists n row active rank
  obtain ⟨hdie, hrow⟩ : dieOfCore c < 12 ∧ rowOfCore c < 30 := by
    simpa [siteExists] using hexists
  have hactive : ∀ i, active i = bit (s.rowMap (rowKey c)).active i := fun _ => rfl
  have hlogical : s.logicalOf c = if active (c % 32) then some (30 * (n % 4) + rank, 30 * (n / 4) + row) else none :=
      rfl
  refine ⟨fun h => by rw [hlogical, if_pos h], fun h => by rw [hlogical, if_neg (by simp [h])], fun hcount x y hxy =>
      ?_⟩
  rw [hlogical] at hxy
  split_ifs at hxy with hin
  obtain ⟨rfl, rfl⟩ := Prod.mk.inj (Option.some.inj hxy)
  obtain ⟨rest, hsplit⟩ := filter_range_split (p := active) (n := 32) (Nat.mod_lt c (by decide)) hin
  have hrank : rank < 30 := by
    have hlen : countOf (s.rowMap (c / 32)).active = rank + (rest.length + 1) := by
      have h := congrArg List.length hsplit
      rw [List.length_append, List.length_cons] at h
      exact h
    omega
  have hn : n < 12 := hdie
  have hr : row < 30 := hrow
  have hkey : rowOfXY (30 * (n % 4) + rank) (30 * (n / 4) + row) = rowKey c := by
    unfold rowOfXY dieOfXY rowKey
    omega
  refine ⟨by omega, by omega, ?_⟩
  have hcols : (activeCols (s.rowMap (rowKey c)).active)[rank]? = some (c % 32) := by
    have h : activeCols (s.rowMap (rowKey c)).active = _ := hsplit
    rw [h]
    rw [List.getElem?_append_right le_rfl, Nat.sub_self]
    rfl
  rw [State.physOf, if_pos ⟨by omega, by omega⟩, hkey, show (30 * (n % 4) + rank) % 30 = rank by omega, hcols]
  have hback : rowKey c * 32 + c % 32 = c := by
    unfold rowKey
    omega
  simp [hback]

/-! The map that a set of failed sites decides (R336, R337). -/

theorem getLsbD_foldl_or_shift (l : List Nat) (hl : ∀ x ∈ l, x < 32) (m : BitVec 32) (n : Nat) :
    (l.foldl (fun m n => m ||| (1#32 <<< n)) m).getLsbD n = (m.getLsbD n || decide (n ∈ l)) := by
  induction l generalizing m with
  | nil => simp
  | cons x l ih =>
    have hx : x < 32 := hl x (by simp)
    have hor : (m ||| 1#32 <<< x).getLsbD n = (m.getLsbD n || decide (n = x)) := by
      have h := getLsbD_withBit m hx true n
      simp only [withBit, if_true] at h
      rw [h]
      by_cases hn : n = x <;> simp [hn]
    rw [List.foldl_cons, ih (fun y hy => hl y (by simp [hy])), hor, Bool.or_assoc]
    congr 1
    by_cases hn : n = x <;> simp [hn]

theorem spareReplacesSite : Claims.SpareReplacesSite := by
  intro failed good
  have hactive : ∀ n, (activeOf failed).getLsbD n = decide (n ∈ good.take 30) := fun n => by
    have hlt : ∀ x ∈ good.take 30, x < 32 := fun x hx => List.mem_range.1
        (List.mem_filter.1 (List.mem_of_mem_take hx)).1
    have h := getLsbD_foldl_or_shift (good.take 30) hlt 0 n
    exact h.trans (by simp)
  have hgood : ∀ n ∈ good.take 30, failed.getLsbD n = false := fun n hn => by
    have h := (List.mem_filter.1 (List.mem_of_mem_take hn)).2
    simpa using h
  have hcols : activeCols (activeOf failed) = good.take 30 := by
    have htake : good.take 30 = good.filter (fun n => (good.take 30).elem n) :=
      List.Nodup.take_eq_filter_mem (List.nodup_range.filter _)
    rw [htake, List.filter_filter]
    refine List.filter_congr fun n _ => ?_
    by_cases hn : n ∈ good.take 30
    · simp [bit, hactive, hn, hgood n hn]
    · simp [bit, hactive, hn]
  refine ⟨hcols, fun h => by rw [hcols, List.length_take]; omega, fun n hn => hgood n ?_⟩
  rw [hactive] at hn
  exact of_decide_eq_true hn

theorem rowMapTakesEffect : Claims.RowMapTakesEffect := by
  intro s d row f a key hnext
  have hrun : exec (.rowMapUpdate d row) s = s.happens (s.updateRow key) := rfl
  rw [hrun, State.updateRow, hnext]
  refine ⟨fun hidle => ?_, fun hbusy => ?_⟩
  · dsimp only
    rw [if_neg (by rw [hidle]; exact Bool.false_ne_true)]
    exact ⟨_, rfl, Assoc.get_put_same _ _ _ _, fun k hk => Assoc.get_put_other _ _ _ hk, rfl⟩
  · dsimp only
    rw [if_pos hbusy]
    rfl

theorem rowClockGated : Claims.RowClockGated := by
  intro s d row key hungated hidle
  have hrun : exec (.rowClockGate d row) s = s.happens (if (Assoc.keys s.grid.ungated).contains key && !(s.rowBusy key)
      && (decide (Assoc.get 0 s.grid.ungated key + 4096 ≤ s.aclk) || !(s.rowInRegion key)) then
    some { s with grid := { s.grid with ungated := Assoc.del s.grid.ungated key } } else none) := rfl
  rw [hrun, hungated, hidle]
  refine ⟨fun h => ?_, fun hin hrecent => ?_⟩
  · rw [if_pos (by rcases h with h | h <;> simp [h])]
    refine ⟨_, rfl, ?_, fun k hk => ?_, rfl⟩
    · simp [Assoc.keys, Assoc.del]
    · rw [Bool.eq_iff_iff, List.contains_iff_mem, List.contains_iff_mem]
      simp only [Assoc.keys, Assoc.del, List.mem_map, List.mem_filter]
      exact ⟨fun ⟨e, ⟨he, _⟩, hek⟩ => ⟨e, he, hek⟩, fun ⟨e, he, hek⟩ => ⟨e, ⟨he, by simp [hek, hk]⟩, hek⟩⟩
  · rw [if_neg (by simp [hin, hrecent])]
    rfl

/-- Settles O36: coordinates by rank, the lowest columns that have not failed, and rows that no task runs on. -/
theorem gridRows : Obligations.GridRows :=
  ⟨logicalCoordinates, spareReplacesSite, rowMapTakesEffect, rowClockGated⟩

end Sys2Proof.Machine
end

section
/-! PROOF. O38: the configuration of event queues, and their interrupts. -/

namespace Sys2Proof.Machine

open Sys2Proof

theorem eventQueueConfigured : Claims.EventQueueConfigured := by
  intro s o e v he q frame hopen
  have hrun : exec (.eqCfg o e v) s = .next ((s.putEqCfg o e v).respond .done) :=
    (if_pos (decide_eq_true he)).trans (congrArg Host.Outcome.next (State.onWrite_open s _ _ _ hopen))
  have hset : ∀ n, frame ((s.setEq e n).respond .done) ∧ ((s.setEq e n).respond .done).eq e = n := fun n =>
    ⟨⟨fun k hk => s.eq_setEq_other n hk, rfl, rfl⟩, State.eq_setEq _ _ _⟩
  have hcfg : bits v 0 5 ≤ 16 → q.withCfg v = { q with
      enable := v.getLsbD 63, moderation := bits v 32 16, eiid := bits v 16 11, hart := bits v 8 5, depth :=
          bits v 0 5 } :=
    fun h => by rw [EventQueue.withCfg, if_pos h]; rfl
  have hput : s.putEqCfg o e v = if q.enable && (q.withCfg v).enable then
        (if (q.withCfg v).depth = q.depth then s.setEq e (q.withCfg v) else s)
      else if (q.withCfg v).enable then
        if q.base + 64 * 2 ^ (q.withCfg v).depth ≤ s.hostBytes then
          s.setEq e { q.withCfg v with head := 0, tail := 0, unsignalled := 0, ahead := 0 }
        else s.refuseWrite o (eqAddr e 8) v
      else s.setEq e (q.withCfg v) := rfl
  have hq : s.eq e = q := rfl
  rw [hrun, hput]
  clear_value q
  refine ⟨fun hoff hon hdepth hfits => ?_, fun hoff hon hdepth hout => ?_, fun hdisable hdepth => ?_⟩
  · rw [hcfg hdepth]
    dsimp only
    simp only [hoff, hon, Bool.false_and, Bool.false_eq_true, if_false, if_true, if_pos hfits]
    obtain ⟨hframe, heq⟩ := hset { q with
      enable := true, moderation := bits v 32 16, eiid := bits v 16 11, hart := bits v 8 5, depth := bits v 0 5
      head := 0, tail := 0, unsignalled := 0, ahead := 0 }
    exact ⟨_, rfl, hframe, heq⟩
  · rw [hcfg hdepth]
    dsimp only
    simp only [hoff, hon, Bool.false_and, Bool.false_eq_true, if_false, if_true, if_neg (Nat.not_le.2 hout)]
    exact ⟨_, rfl, ⟨fun _ _ => rfl, rfl, rfl⟩, hq, s.refuseWrite_mcount _ _ _⟩
  · rw [hcfg hdepth]
    dsimp only
    rw [hdisable, Bool.and_false, if_neg Bool.false_ne_true, if_neg Bool.false_ne_true]
    obtain ⟨hframe, heq⟩ := hset { q with
      enable := false, moderation := bits v 32 16, eiid := bits v 16 11, hart := bits v 8 5, depth := bits v 0 5 }
    exact ⟨_, rfl, hframe, by rw [heq], by rw [heq], heq⟩

/-- An MSI sets its identity in the IMSIC of its hart, and no other. -/
theorem State.signal_spec (s : State) (hart id : Nat) (hid : id ≠ 0) :
    ∃ imsic, s.signal hart id = { s with imsic := imsic }
      ∧ (id ≤ 2047 → (Assoc.get [] imsic hart).contains id = true)
      ∧ ∀ h i, (h ≠ hart ∨ i ≠ id) → (Assoc.get [] imsic h).contains i = (Assoc.get [] s.imsic h).contains i := by
  unfold State.signal
  dsimp only
  split_ifs with hsame
  · exact ⟨_, rfl, fun hle => (hsame.resolve_left hid).resolve_left (by omega), fun _ _ _ => rfl⟩
  · refine ⟨_, rfl, fun _ => ?_, fun h i hne => ?_⟩
    · rw [Assoc.get_put_same]
      simp
    · by_cases hh : h = hart
      · subst hh
        rw [Assoc.get_put_same]
        have hi : i ≠ id := hne.resolve_left fun h => h rfl
        simp [hi]
      · rw [Assoc.get_put_other _ _ _ hh]

theorem eventInterruptSent : Claims.EventInterruptSent := by
  intro s e he hup q due
  have hdue : due ↔ (s.helmUp && q.msiDue s.strike) = true := by
    rw [hup, Bool.true_and, EventQueue.msiDue, Bool.and_eq_true, Bool.and_eq_true, bne_iff_ne, decide_eq_true_eq,
        and_assoc]
    refine and_congr_right fun _ => and_congr_right fun _ => ?_
    cases q.lastMsi with
    | none => simp
    | some t => simp
  have hrun : exec (.eventInterrupt e) s = s.happens (if s.helmUp && q.msiDue s.strike then
      some (({ s.setEq e { q with unsignalled := if q.moderation = 0 then q.unsignalled - 1 else 0,
                                  lastMsi := some s.strike } with
        out := { s.out with msi := some (q.hart, q.eiid) } } : State).signal q.hart q.eiid) else none) :=
    if_pos (decide_eq_true he)
  rw [hrun]
  refine ⟨fun h => ?_, fun h => ?_⟩
  · rw [if_pos (hdue.1 h)]
    obtain ⟨imsic, hsignal, hsets, hothers⟩ := State.signal_spec
      { s.setEq e { q with unsignalled := if q.moderation = 0 then q.unsignalled - 1 else 0,
                           lastMsi := some s.strike } with
        out := { s.out with msi := some (q.hart, q.eiid) } } q.hart q.eiid h.1
    rw [hsignal]
    exact ⟨_, rfl, rfl, State.eq_setEq _ _ _, hsets, hothers, fun k hk => s.eq_setEq_other _ hk, rfl⟩
  · rw [if_neg fun hsent => h (hdue.2 hsent)]
    rfl

/-- Settles O38: a write of EQ_CFG in its cases, and the MSI of a queue that is due. -/
theorem eventQueuesAndInterrupts : Obligations.EventQueuesAndInterrupts :=
  ⟨eventQueueConfigured, eventInterruptSent⟩

end Sys2Proof.Machine
end

section
/-! PROOF. O39: records of an event queue in their ring. -/

namespace Sys2Proof.Machine

open Sys2Proof

theorem Rec.length_bytes (r : Rec) (phase : Nat) : (r.bytes phase).length = 64 := by
  simp [Rec.bytes, padTo, length_slice]

/-- The next record of a queue that has lost none. -/
theorem EventQueue.nextRec_pending {q : EventQueue} (strike : Word) {r : Rec} {rest : List Rec}
    (hlost : q.lostSince = {})
    (hpending : q.pending = r :: rest) :
    q.nextRec strike = some (r, { q with pending := rest, ahead := q.ahead - 1 }) := by
  unfold EventQueue.nextRec
  rw [if_neg (fun h => h.1 hlost), hpending]

/-- A queue that has written a record: FULL is set by the one that fills the ring. -/
def EventQueue.recorded (q : EventQueue) : EventQueue :=
  let q := { q with tail := q.tail + 1, unsignalled := q.unsignalled + 1 }
  if q.space = 0 then { q with sc := q.sc.event 0 } else q

theorem EventQueue.recorded_frame (q : EventQueue) :
    q.recorded = { q with tail := q.tail + 1, unsignalled := q.unsignalled + 1, sc := q.recorded.sc } := by
  unfold EventQueue.recorded
  dsimp only
  split <;> rfl

/-- A record written into external memory: its slot, and its queue. -/
theorem State.writeRecord_spec (s : State) (e : Nat) (r : Rec) (q : EventQueue)
    (hlow : q.base + q.tail.toNat % 2 ^ q.depth * 64 + 64 ≤ extEnd) :
    let a := q.base + q.tail.toNat % 2 ^ q.depth * 64
    let t := s.writeRecord e r q
    (∀ i, i < 64 → t.byte (a + i) = (r.bytes (phaseOf q.tail.toNat q.depth)).getD i 0)
      ∧ (∀ x, x < a ∨ a + 64 ≤ x → t.byte x = s.byte x)
      ∧ (t.eq e).tail = q.tail + 1 ∧ (t.eq e).head = q.head ∧ (t.eq e).pending = q.pending
      ∧ (t.eq e).unsignalled = q.unsignalled + 1 ∧ ∀ k, k ≠ e → t.eq k = s.eq k := by
  intro a t
  have htarget : s.target a = .ext := if_pos (by omega)
  have hwrite : s.writeRun a (r.bytes (phaseOf q.tail.toNat q.depth)) = s.extWrite a
      (r.bytes (phaseOf q.tail.toNat q.depth)) := by
    rw [State.writeRun, htarget]
  have hbytes := s.byte_extWrite a (r.bytes (phaseOf q.tail.toNat q.depth))
  have hframe := s.extWrite_low (a := a) (bs := r.bytes (phaseOf q.tail.toNat q.depth)) (by
    have : extEnd ≤ windowBase := by decide
    rw [Rec.length_bytes]
    omega)
  have hlength := r.length_bytes (phaseOf q.tail.toNat q.depth)
  have ht : t = (s.extWrite a (r.bytes (phaseOf q.tail.toNat q.depth))).setEq e q.recorded := by
    rw [← hwrite]
    rfl
  generalize s.extWrite a (r.bytes (phaseOf q.tail.toNat q.depth)) = u at *
  have hbyte : ∀ x, t.byte x = u.byte x := fun x => by rw [ht]; rfl
  have heq : t.eq e = q.recorded := by
    rw [ht]
    exact State.eq_setEq u e _
  refine ⟨fun i hi => ?_, fun x hx => ?_, ?_, ?_, ?_, ?_, fun k hk => ?_⟩
  · rw [hbyte, hbytes, hlength, if_pos (by omega), Nat.add_sub_cancel_left]
  · rw [hbyte, hbytes, hlength, if_neg (by omega)]
  · rw [heq, q.recorded_frame]
  · rw [heq, q.recorded_frame]
  · rw [heq, q.recorded_frame]
  · rw [heq, q.recorded_frame]
  · rw [ht, State.eq_setEq_other _ _ hk, hframe]
    rfl

/-- Settles O39: a record goes to the slot of its number, while the ring has one; a head moves within the ring. -/
theorem eventRing : Obligations.EventRing := by
  intro s e he q
  have hspace : q.space = 2 ^ q.depth - (q.tail - q.head).toNat := rfl
  have hrun : exec (.eventRecordWrite e) s = s.happens (if s.helmUp && q.enable && decide (0 < q.space) then
      (q.nextRec s.strike).bind (fun (r, q) =>
        let a := q.base + q.tail.toNat % 2 ^ q.depth * 64
        if s.dieWaits a || s.accessWaits a 64 true then none else some (s.writeRecord e r q))
      else none) := if_pos (decide_eq_true he)
  refine ⟨?_, fun hfull => ?_, ?_⟩
  · intro r rest n a hup henable hroom hlost hpending hlow hdie hwaits
    have hrun' : exec (.eventRecordWrite e) s = .next (s.writeRecord e r
        { q with pending := rest, ahead := q.ahead - 1 }) := by
      have hopen : (s.helmUp && q.enable && decide (0 < q.space)) = true := by
        rw [hup, henable, hspace, decide_eq_true (by omega), Bool.and_self, Bool.and_self]
      have hready : ¬(s.dieWaits a || s.accessWaits a 64 true) = true := by
        rw [hdie, hwaits]
        exact Bool.false_ne_true
      rw [hrun, if_pos hopen, EventQueue.nextRec_pending _ hlost hpending]
      exact congrArg s.happens (if_neg hready)
    exact ⟨_, hrun', s.writeRecord_spec e r { q with pending := rest, ahead := q.ahead - 1 } hlow⟩
  · rw [hrun, hspace, hfull, Nat.sub_self, decide_eq_false (Nat.lt_irrefl 0), Bool.and_false, if_neg Bool.false_ne_true]
    rfl
  · intro o v hopen h frame
    have hrun : exec (.eqHead o e v) s = .next ((s.setEq e (q.putHead v)).respond .done) :=
      (if_pos (decide_eq_true he)).trans (congrArg Host.Outcome.next (State.onWrite_open s _ _ _ hopen))
    have hput : q.putHead v = if (h - q.head).toNat ≤ (q.tail - q.head).toNat then { q with head := h }
      else { q with sc := q.sc.event 3 } := rfl
    have hframe : frame ((s.setEq e (q.putHead v)).respond .done) := ⟨fun k hk => s.eq_setEq_other _ hk, rfl, rfl⟩
    refine ⟨fun hin => ⟨_, hrun, hframe, ?_⟩, fun hout => ⟨_, hrun, hframe, ?_⟩⟩
    · exact (s.eq_setEq e _).trans (hput.trans (if_pos hin))
    · exact (s.eq_setEq e _).trans (hput.trans (if_neg (Nat.not_le.2 hout)))

end Sys2Proof.Machine
end

section
/-! PROOF. An access that finds the queues of the store dies empty takes its turn at once. -/

namespace Sys2Proof.Machine

open Sys2Proof

/-- The queue that a request stands in at a place of the store dies. -/
@[reducible] def Spot.queueOf (x : Spot) : Nat × DieQueue := (x.1, x.2.1)

/-- In a list whose keys differ, the entries with the key of one are that one alone. -/
theorem filter_key_eq {α β : Type} (f : α → β) {p : α → Bool} {l : List α} {x : α} (hnodup : (l.map f).Nodup)
    (hx : x ∈ l) (hp : ∀ y, p y = true ↔ f y = f x) : l.filter p = [x] := by
  induction l with
  | nil => cases hx
  | cons y l ih =>
    rw [List.map_cons, List.nodup_cons] at hnodup
    obtain ⟨hfresh, hrest⟩ := hnodup
    rcases List.mem_cons.1 hx with rfl | hin
    · rw [List.filter_cons_of_pos ((hp x).2 rfl), List.filter_eq_nil_iff.2]
      intro z hz h
      exact hfresh (List.mem_map.2 ⟨z, hz, (hp z).1 h⟩)
    · have hne : f y ≠ f x := fun h => hfresh (h ▸ List.mem_map_of_mem hin)
      rw [List.filter_cons_of_neg (fun h => hne ((hp y).1 h)), ih hrest hin]

/-- A request alone in each of its queues is granted by all of them, and leaves them as they were. -/
theorem State.turns_alone (s : State) (kind : ReqKind) {spots : List Spot} (hempty : s.store.requests = [])
    (hapart : (spots.map Spot.queueOf).Nodup) : s.turns kind spots = (s, true) := by
  have hplaces : ((spots.map (s.spotRequest kind)).map fun r => (r.die, r.queue)).Nodup := by
    rw [List.map_map]
    exact hapart
  have hgranted : ∀ r ∈ spots.map (s.spotRequest kind), bestRequest ((spots.map (s.spotRequest kind)).filter
      (fun x => x.die == r.die && x.queue == r.queue)) = some r := by
    intro r hr
    rw [filter_key_eq (fun r : Request => (r.die, r.queue)) hplaces hr fun x => ?_]
    · rfl
    · simp
  have hall : (if s.store.requests.any (fun r => r.kind == kind) then s.store.requests
      else s.store.requests ++ spots.map (s.spotRequest kind)) = spots.map (s.spotRequest kind) := by
    rw [hempty]
    rfl
  have hrest : (spots.map (s.spotRequest kind)).filter (fun r => !(r.kind == kind
      && (bestRequest ((spots.map (s.spotRequest kind)).filter (fun x => x.die == r.die && x.queue == r.queue))
        == some r))) = [] := by
    rw [List.filter_eq_nil_iff]
    intro r hr
    have hmine : r.kind = kind := by
      obtain ⟨x, -, rfl⟩ := List.mem_map.1 hr
      rfl
    rw [hgranted r hr, hmine]
    simp
  have hsame : ({ s with store := { s.store with requests := [] } } : State) = s := by
    rw [← hempty]
  unfold State.turns State.isNext
  dsimp only
  rw [hall, hrest, hsame]
  rfl

/-- A kind of queue is named once for each store die. -/
theorem spotsOf_apart (q : DieQueue) (spans : List (Nat × Nat)) : ((spotsOf q spans).map Spot.queueOf).Nodup := by
  unfold spotsOf
  dsimp only
  generalize spans.flatMap _ = starts
  have hdies : ∀ l : List Nat, ((l.filterMap fun d => (starts.find? fun a => storeDie a == d).map fun a =>
      ((d, q, a) : Spot)).map Spot.queueOf).Sublist (l.map fun d => (d, q)) := by
    intro l
    induction l with
    | nil => exact List.Sublist.refl _
    | cons d l ih =>
      rw [List.filterMap_cons]
      cases starts.find? fun a => storeDie a == d with
      | none => exact ih.cons _
      | some a => exact ih.cons_cons _
  exact (hdies _).nodup ((List.nodup_range).map fun a b h => (Prod.mk.inj h).1)

theorem mem_spotsOf_queue {q : DieQueue} {spans : List (Nat × Nat)} {x : Spot} (h : x ∈ spotsOf q spans) :
    x.2.1 = q := by
  obtain ⟨d, -, hd⟩ := List.mem_filterMap.1 h
  obtain ⟨a, -, rfl⟩ := Option.map_eq_some_iff.1 hd
  rfl

theorem engineSpots_apart (reads writes : List (Nat × Nat)) :
    ((engineSpots reads writes).map Spot.queueOf).Nodup := by
  unfold engineSpots
  rw [List.map_append, List.nodup_append]
  refine ⟨spotsOf_apart .engine writes, spotsOf_apart .memory _, ?_⟩
  intro a ha b hb hab
  obtain ⟨x, hx, rfl⟩ := List.mem_map.1 ha
  obtain ⟨y, hy, rfl⟩ := List.mem_map.1 hb
  have hqueue := congrArg Prod.snd hab
  dsimp only [Spot.queueOf] at hqueue
  rw [mem_spotsOf_queue hx, mem_spotsOf_queue hy] at hqueue
  cases hqueue

theorem State.accessTurn_alone (s : State) (o : Origin) (a n : Nat) (hempty : s.store.requests = []) :
    s.accessTurn o a n = (s, true) := by
  unfold State.accessTurn
  split
  · exact s.turns_alone _ hempty (spotsOf_apart _ _)
  · exact s.turns_alone _ hempty (spotsOf_apart _ _)
  · rfl

theorem State.portTurn_alone (s : State) (p : Fin 8) (a n : Nat) (hempty : s.store.requests = []) :
    s.portTurn p a n = (s, true) := s.turns_alone _ hempty (spotsOf_apart _ _)

end Sys2Proof.Machine
end

section
/-! PROOF. The handover, the size of the host's memory, and frames of the front-end ports. -/

namespace Sys2Proof.Machine

open Sys2Proof

/-- An episode that a handover has joined stays one. -/
theorem joined_handover (a : Assertion) (es : List Episode) : (joined a true es).handover = true := by
  rw [joined_eq]
  have hstep : ∀ x : Episode, x.handover = true → (es.foldl Episode.join x).handover = true := by
    induction es with
    | nil => exact fun x h => h
    | cons e es ih =>
      intro x h
      refine ih (x.join e) ?_
      show (x.handover || e.handover) = true
      rw [h, Bool.true_or]
  exact hstep _ rfl

/-- The episode of a handover. -/
theorem State.assertAt_handover (s : State) (src reach die core : Nat) (held : Bool) :
    ∃ e ∈ (s.assertAt src reach die core held true).resets.episodes, e.handover = true
      ∧ ∃ a ∈ e.asserted, a.src = src ∧ a.reach = reach := by
  refine ⟨_, ?_, joined_handover _ _, _, (joined_spec (a := ⟨src, reach, die, core, held⟩)
    (es := s.resets.episodes.filter (fun e => scopesMeet e.reach e.die e.core reach die core))
    fun e he => (List.mem_filter.1 he).2).1, rfl, rfl⟩
  rw [State.assertAt_episodes]
  exact List.mem_append_right _ (List.mem_singleton_self _)

/-- A write to external memory that reaches the DMA of a front-end port: the bytes stand there, and the frame is
counted. -/
theorem State.dmaFrame_lands (s : State) (n : Fin 2) {a : Nat} {f : List Byte} (hempty : s.store.requests = [])
    (hlength : 0 < f.length) (hlow : a + f.length ≤ extEnd) (hon : s.firstOff a (a + f.length - 1) = none)
    (hdie : s.dieWaits a = false) (hwaits : s.accessWaits a f.length true = false) :
    s.dmaFrame n a f = some ((({ s.extWrite a f with pins := { (s.extWrite a f).pins with
      frames := Assoc.put {} (s.extWrite a f).pins.frames n.val
          (Assoc.get {} (s.extWrite a f).pins.frames n.val).tick } } :
        State).stampFrame n)) := by
  have htarget : s.target a = .ext := if_pos (by omega)
  have hcause : s.spanCause a f.length = none := by
    have hend : decide (a + f.length ≤ s.targetEnd a) = true := by
      simp [State.targetEnd, htarget, hlow]
    rw [State.spanCause, htarget, hend, hon]
    rfl
  have hturn := s.accessTurn_alone (.frontEnd n) a f.length hempty
  unfold State.dmaFrame
  rw [hcause]
  dsimp only
  rw [hdie, hwaits, hturn]
  unfold State.memWrite
  dsimp only
  rw [htarget]
  rfl

/-- Settles O40: by the episode that a handover asserts, and by the write of a frame. -/
theorem handoverHostMemoryAndFrames : Obligations.HandoverHostMemoryAndFrames := by
  intro s
  refine ⟨fun hup hidle hreach => ?_, fun hup hbusy => ?_, fun gib hup hlo hhi hmod => ?_, fun gib hup hbad => ?_,
    fun n a f hup hcable hempty hpos hmax hlow hon hdie hwaits => ?_⟩
  · have hrun : exec .handover s = .next ((s.assertAt 2 rModule 0 0 true true).answer .ok) := by
      refine (State.managed_up _ _ hup).trans ?_
      rw [hidle, if_neg hreach]
      rfl
    exact ⟨_, hrun, rfl, s.assertAt_handover 2 rModule 0 0 true⟩
  · exact (State.managed_up _ _ hup).trans (congrArg Host.Outcome.next (if_pos hbusy))
  · exact (State.managed_up _ _ hup).trans (congrArg Host.Outcome.next (if_pos ⟨hlo, hhi, hmod⟩))
  · exact (State.managed_up _ _ hup).trans (congrArg Host.Outcome.next (if_neg (by omega)))
  · have hready : (s.helmUp && s.cabled (8 + n.val) && decide (0 < f.length ∧ f.length ≤ 9216)) = true := by
      rw [hup, hcable, decide_eq_true ⟨hpos, hmax⟩]
      rfl
    have hrun : exec (.frontEndFrame n a f) s = s.happens (s.dmaFrame n a f) := congrArg s.happens (if_pos hready)
    have hbyte := s.byte_extWrite a f
    have hframe := s.extWrite_low (a := a) (bs := f) (by
      have : extEnd ≤ windowBase := by decide
      omega)
    rw [s.dmaFrame_lands n hempty hpos hlow hon hdie hwaits] at hrun
    refine ⟨_, hrun, ?_⟩
    generalize s.extWrite a f = t at *
    have hpins : t.pins = s.pins := by rw [hframe]
    have hfree : t.free = s.free := by rw [hframe]
    refine ⟨fun i hi => ?_, fun x hx => ?_, ?_, ?_, fun k hk => ?_⟩
    · refine (hbyte (a + i)).trans ?_
      rw [if_pos (by omega), Nat.add_sub_cancel_left]
    · refine (hbyte x).trans ?_
      rw [if_neg (by omega)]
    · refine (Assoc.get_put_same _ _ _ _).trans ?_
      rw [hpins]
    · show some (n, Config.freeWord t.free) = _
      rw [hfree]
    · refine (Assoc.get_put_other _ _ _ hk).trans ?_
      rw [hpins]

end Sys2Proof.Machine
end

section
/-! PROOF. What reads of memory change: error marks and their records, and nothing that a task or a queue shows. -/

namespace Sys2Proof.Machine

open Sys2Proof

/-- Between two states there are reads alone: free values, error marks, repairs and records may differ. -/
@[reducible] def State.OnlyRead (t s : State) : Prop :=
  t = { s with cores := t.cores, free := t.free, store := t.store, ext := t.ext, logs := t.logs }

section
variable (s : State)

theorem State.OnlyRead.trans {s t u : State} (htu : u.OnlyRead t) (hst : t.OnlyRead s) : u.OnlyRead s := by
  unfold State.OnlyRead at *
  rw [htu, hst]

theorem State.OnlyRead.ite {α : Type} {s : State} {c : Prop} [Decidable c] {x y : State × α} (hx : x.1.OnlyRead s)
    (hy : y.1.OnlyRead s) : (if c then x else y).1.OnlyRead s := by
  split
  · exact hx
  · exact hy

theorem State.repair_read (status die what : Nat) : (s.repair status die what).OnlyRead s := by
  unfold State.repair
  rw [State.toEq0Log_frame]

theorem State.retire_read (c : Nat) : (s.retire c).OnlyRead s := by
  unfold State.retire
  dsimp only
  split
  · rfl
  · exact (State.repair_read _ _ _ _).trans rfl

theorem State.weakRow_read (a : Nat) : (s.weakRow a).OnlyRead s := by
  unfold State.weakRow
  dsimp only
  split_ifs
  · rfl
  · exact s.retire_read _
  · rfl

theorem State.poisonBurst_read (b : Nat) : (s.poisonBurst b).OnlyRead s := by
  unfold State.poisonBurst
  dsimp only
  refine (State.weakRow_read _ _).trans ?_
  split_ifs
  · rfl
  · rfl
  · exact (State.retire_read _ _).trans rfl

theorem State.correctBurst_read (b : Nat) : (s.correctBurst b).OnlyRead s := by
  unfold State.correctBurst
  extract_lets a c x fresh n s₁ e s₂ m p recent twice s₃ s₄
  have h₃ : s₃.OnlyRead s := rfl
  have h₄ : s₄.OnlyRead s := by
    unfold s₄
    split
    · exact (s₃.weakRow_read a).trans h₃
    · exact h₃
  split
  · exact (s₄.retire_read c).trans h₄
  · exact h₄

theorem State.readBurst_read (b : Nat) : (s.readBurst b).1.OnlyRead s := by
  unfold State.readBurst
  split_ifs
  · rfl
  · exact s.poisonBurst_read b
  · exact s.correctBurst_read b
  · rfl

theorem State.readBursts_read (bs : List Nat) : (s.readBursts bs).1.OnlyRead s := by
  induction bs generalizing s with
  | nil => rfl
  | cons b bs ih =>
    have hburst := s.readBurst_read b
    unfold State.readBursts
    generalize s.readBurst b = r at *
    obtain ⟨t, _ | _⟩ := r
    · exact (ih t).trans hburst
    · exact hburst

theorem State.spareBank_read (bank : Nat) : (s.spareBank bank).OnlyRead s := by
  unfold State.spareBank
  dsimp only
  split_ifs
  · rfl
  · exact (State.repair_read _ _ _ _).trans rfl
  · rfl
  · rfl

theorem State.poisonLine_read (l : Nat) : (s.poisonLine l).OnlyRead s :=
  (State.spareBank_read _ _).trans rfl

theorem State.correctLine_read (l : Nat) : (s.correctLine l).OnlyRead s := by
  unfold State.correctLine
  extract_lets bank old fresh now st t
  have ht : t.OnlyRead s := rfl
  split
  · exact (State.spareBank_read _ _).trans (State.OnlyRead.trans rfl ht)
  · exact ht

theorem State.readLines_read (ls : List Nat) : (s.readLines ls).1.OnlyRead s := by
  induction ls generalizing s with
  | nil => rfl
  | cons l ls ih =>
    unfold State.readLines
    split_ifs
    · rfl
    · exact s.poisonLine_read l
    · exact (ih _).trans (s.correctLine_read l)
    · exact ih s

theorem State.veil_read (a : Nat) (bs : List Byte) : (s.veil a bs).1.OnlyRead s := by
  unfold State.veil
  dsimp only
  split <;> rfl

theorem State.memRead_read (a n : Nat) : (s.memRead a n).1.OnlyRead s := by
  have hbursts := s.readBursts_read (unitsOf 64 a n)
  have hlines := s.readLines_read (unitsOf 64 a n)
  unfold State.memRead
  split
  · generalize s.readBursts (unitsOf 64 a n) = r at *
    obtain ⟨t, _ | x⟩ := r <;> exact hbursts
  · generalize s.readLines (unitsOf 64 a n) = r at *
    obtain ⟨t, _ | x⟩ := r
    · exact (t.veil_read a _).trans hlines
    · exact hlines
  · split <;> rfl
  · rfl

theorem State.moverRead_read (a n : Nat) : (s.moverRead a n).1.OnlyRead s := by
  have hread := s.memRead_read a n
  unfold State.moverRead
  generalize s.memRead a n = r at *
  split
  · rfl
  split
  · rfl
  split
  · rfl
  · split <;> rfl
  · refine State.OnlyRead.ite rfl ?_
    obtain ⟨t, _ | _⟩ := r <;> exact hread

theorem State.violate_read (die : Nat) (v : VlogEntry) : (s.violate die v).OnlyRead s := rfl

theorem State.geRead_read (die a n : Nat) : (s.geRead die a n).1.OnlyRead s := by
  have hread := s.moverRead_read a n
  unfold State.geRead
  generalize s.moverRead a n = r at *
  obtain ⟨t, _ | _⟩ := r
  · exact (t.violate_read _ _).trans hread
  · exact hread

theorem State.readEntry_read (q n : Nat) : (s.readEntry q n).1.OnlyRead s := by
  have hread := s.geRead_read (s.hostDie q) ((s.sq q).base + n % 2 ^ (s.sq q).depth * 64) 64
  unfold State.readEntry
  dsimp only
  generalize s.geRead (s.hostDie q) ((s.sq q).base + n % 2 ^ (s.sq q).depth * 64) 64 = r at *
  obtain ⟨t, _ | _⟩ := r
  · exact State.OnlyRead.trans rfl hread
  · exact hread

end

end Sys2Proof.Machine
end

section
/-! PROOF. The registers of submission queues and of regions. -/

namespace Sys2Proof.Machine

open Sys2Proof

/-- A queue that reads entries changes its head and its entries, and no other queue. -/
theorem State.readEntries_frame (s : State) (q k : Nat) :
    ∃ head entries, (s.readEntries q k).sq q = { s.sq q with head := head, entries := entries }
      ∧ (∀ j, j ≠ q → (s.readEntries q k).sq j = s.sq j)
      ∧ (s.readEntries q k).ge = { s.ge with sqs := (s.readEntries q k).ge.sqs }
      ∧ (s.readEntries q k).OnlyRead { s with ge := (s.readEntries q k).ge } := by
  induction k generalizing s with
  | zero => exact ⟨_, _, rfl, fun _ _ => rfl, rfl, rfl⟩
  | succ k ih =>
    unfold State.readEntries
    dsimp only
    split
    · exact ⟨_, _, rfl, fun _ _ => rfl, rfl, rfl⟩
    · have hread := s.readEntry_read q (s.sq q).head
      generalize s.readEntry q (s.sq q).head = r at *
      obtain ⟨t, e⟩ := r
      dsimp only at hread
      have hge : t.ge = s.ge := by rw [hread]
      have hsq : ∀ j, t.sq j = s.sq j := fun j => by rw [State.sq, hge]; rfl
      dsimp only
      obtain ⟨head, entries, hself, hother, hframe, hrest⟩ :=
        ih (t.setSq q { t.sq q with head := (s.sq q).head + 1, entries := (t.sq q).entries ++ [e] })
      generalize (t.setSq q { t.sq q with head := (s.sq q).head + 1, entries := (t.sq q).entries ++ [e] }).readEntries
        q k = u at *
      refine ⟨head, entries, ?_, fun j hj => ?_, ?_, ?_⟩
      · rw [hself, State.sq_setSq, hsq]
      · rw [hother j hj, State.sq_setSq_other _ _ hj, hsq]
      · rw [hframe, ← hge]
        rfl
      · refine State.OnlyRead.trans hrest ?_
        unfold State.OnlyRead at *
        rw [hread]
        rfl

/-- A queue that takes entries. -/
theorem State.takeEntries_frame (s : State) (q : Nat) :
    ∃ head entries, (s.takeEntries q).sq q = { s.sq q with head := head, entries := entries }
      ∧ (∀ j, j ≠ q → (s.takeEntries q).sq j = s.sq j)
      ∧ (s.takeEntries q).ge = { s.ge with sqs := (s.takeEntries q).ge.sqs }
      ∧ (s.takeEntries q).OnlyRead { s with ge := (s.takeEntries q).ge } := by
  unfold State.takeEntries
  dsimp only
  split
  · exact s.readEntries_frame q _
  · exact ⟨_, _, rfl, fun _ _ => rfl, rfl, rfl⟩

theorem queueConfigured : Claims.QueueConfigured := by
  intro s o q v hq x others
  have hcfg : s.regOpen o (sqAddr q 8) true →
      exec (.sqCfg o q v) s = .next ((s.putSqCfg o q v).respond .done) := fun hopen =>
    (if_pos (decide_eq_true hq)).trans (congrArg Host.Outcome.next (State.onWrite_open s _ _ _ hopen))
  have hctl : s.regOpen o (sqAddr q 0x20) true → ∀ w, exec (.resume o q w) s
      = .next ((s.putSqCtl o q w).respond .done) := fun hopen w =>
    (if_pos (decide_eq_true hq)).trans (congrArg Host.Outcome.next (State.onWrite_open s _ _ _ hopen))
  have hnarrow : s.putSqCtl o q 1 = if (bit (1 : Word) 0 && (x.state == .cutHeld || x.state == .stopped)) = true then
      (s.setSq q { x with state := .running }).takeEntries q else s := rfl
  have hset : ∀ y, others ((s.setSq q y).respond .done) := fun y =>
    ⟨fun k hk => s.sq_setSq_other y hk, rfl, rfl⟩
  refine ⟨fun hopen hdepth => ⟨fun hoff hon hmay => ?_, fun hon hoff => ⟨fun hidle => ?_, fun hbusy => ?_⟩⟩,
    fun hopen => ⟨fun hstate => ?_, fun hstate => ?_, fun hwide => ?_⟩⟩
  · have hput : s.putSqCfg o q v = s.setSq q (x.withCfg v).started :=
      (if_neg (Nat.not_lt.2 hdepth)).trans ((if_neg (Bool.eq_false_iff.1 hoff)).trans
        ((if_pos hon).trans (if_pos hmay)))
    rw [hcfg hopen, hput]
    exact ⟨_, rfl, hset _, s.sq_setSq q _⟩
  · have hput : s.putSqCfg o q v = s.setSq q { x.withCfg v with state := .disabled } :=
      (if_neg (Nat.not_lt.2 hdepth)).trans ((if_pos hon).trans ((if_neg (Bool.eq_false_iff.1 hoff)).trans
        (if_neg (Bool.eq_false_iff.1 hidle))))
    rw [hcfg hopen, hput]
    exact ⟨_, rfl, hset _, congrArg Sq.state (s.sq_setSq q _), (congrArg Sq.enable (s.sq_setSq q _)).trans hoff⟩
  · have hput : s.putSqCfg o q v = s.refuseWrite o (sqAddr q 8) v :=
      (if_neg (Nat.not_lt.2 hdepth)).trans ((if_pos hon).trans ((if_neg (Bool.eq_false_iff.1 hoff)).trans
        (if_pos hbusy)))
    rw [hcfg hopen, hput]
    exact ⟨_, rfl, ⟨fun _ _ => rfl, rfl, rfl⟩, rfl, rfl⟩
  · have hput : s.putSqCtl o q 1 = (s.setSq q { x with state := .running }).takeEntries q := by
      have hgo : (bit (1 : Word) 0 && (x.state == .cutHeld || x.state == .stopped)) = true := by
        rcases hstate with h | h <;> rw [h] <;> rfl
      exact hnarrow.trans (if_pos hgo)
    rw [hctl hopen, hput]
    obtain ⟨head, entries, hself, hother, -, hrest⟩ := (s.setSq q { x with state := .running }).takeEntries_frame q
    generalize (s.setSq q { x with state := .running }).takeEntries q = t at *
    rw [State.sq_setSq] at hself
    have hself : (t.respond .done).sq q = { x with state := .running, head := head, entries := entries } := hself
    refine ⟨_, rfl, by rw [hself], by rw [hself], by rw [hself],
      fun k hk => (hother k hk).trans (s.sq_setSq_other _ hk), ?_, rfl⟩
    show t.mem = s.mem
    rw [hrest]
    rfl
  · have hput : s.putSqCtl o q 1 = s := by
      have hstay : ¬(bit (1 : Word) 0 && (x.state == .cutHeld || x.state == .stopped)) = true := by
        rcases hstate with h | h <;> rw [h] <;> decide
      exact hnarrow.trans (if_neg hstay)
    rw [hctl hopen, hput]
    rfl
  · have hput : s.putSqCtl o q v = s.refuseWrite o (sqAddr q 0x20) v := if_pos (by bv_omega)
    rw [hctl hopen, hput]
    exact ⟨_, rfl, ⟨fun _ _ => rfl, rfl, rfl⟩, rfl, rfl⟩

/-- A recovery area that is judged good. -/
theorem State.areaOk_iff (s : State) (base size : Nat) :
    s.areaOk base size = true ↔ size = 0 ∨ (storeBase ≤ base ∧ base + size * 4096 ≤ s.poolStart) := by
  simp [State.areaOk]

theorem regionConfigured : Claims.RegionConfigured := by
  intro s o r v hr x others refused
  have hrefused : ∀ off, refused ((s.regionRefused o r off v).respond .done) := fun off =>
    ⟨⟨fun k hk => s.region_setRegion_other _ hk, rfl, rfl, rfl⟩, s.region_setRegion r _, rfl⟩
  have hset : ∀ y, others ((s.setRegion r y).respond .done) := fun y =>
    ⟨fun k hk => s.region_setRegion_other y hk, rfl, rfl, rfl⟩
  have hself : ∀ y, ((s.setRegion r y).respond .done).region r = y := fun y => s.region_setRegion r y
  have harea : ∀ off base size, s.graphLoaded r = false → (size = 0 ∨
      (storeBase ≤ base ∧ base + size * 4096 ≤ s.poolStart)) →
      s.putArea o r off v base size = s.setRegion r { x with areaBase := base, areaSize := size } :=
    fun off base size hload hok => if_neg (by simp [hload, (s.areaOk_iff base size).2 hok])
  have hbad : ∀ off base size, (s.graphLoaded r = true ∨ (size ≠ 0 ∧
      (base < storeBase ∨ s.poolStart < base + size * 4096))) →
      s.putArea o r off v base size = s.regionRefused o r off v := by
    refine fun off base size h => if_pos ?_
    rw [Bool.or_eq_true, Bool.not_eq_true', Bool.eq_false_iff, Ne, State.areaOk_iff]
    rcases h with hload | hbad
    · exact .inl hload
    · exact .inr (by omega)
  refine ⟨fun hopen => ?_, fun hopen => ?_, fun hopen => ?_⟩
  · have hrun : exec (.regDef o r v) s = .next ((s.putRegDef o r v).respond .done) :=
      (if_pos (decide_eq_true hr)).trans (congrArg Host.Outcome.next (State.onWrite_open s _ _ _ hopen))
    refine ⟨fun hok => ?_, fun hno => ?_⟩
    · have hput : ∃ host, s.putRegDef o r v = s.setRegion r { x with def_ := v &&& defMask, host := host } := by
        unfold State.putRegDef
        dsimp only
        rw [if_neg (Bool.eq_false_iff.1 hok)]
        split
        · exact ⟨_, rfl⟩
        · exact ⟨_, rfl⟩
      obtain ⟨host, hput⟩ := hput
      rw [hrun, hput]
      exact ⟨_, rfl, hset _, by rw [hself], by rw [hself], by rw [hself]⟩
    · have hput : s.putRegDef o r v = s.regionRefused o r 0 v := if_pos hno
      rw [hrun, hput]
      exact ⟨_, rfl, hrefused 0⟩
  · intro base
    have hrun : exec (.regAreaBase o r v) s = .next ((s.putArea o r 8 v base x.areaSize).respond .done) :=
      (if_pos (decide_eq_true hr)).trans (congrArg Host.Outcome.next (State.onWrite_open s _ _ _ hopen))
    refine ⟨fun hload hok => ?_, fun hno => ?_⟩
    · rw [hrun, harea 8 base _ hload hok]
      exact ⟨_, rfl, hset _, s.region_setRegion r _⟩
    · rw [hrun, hbad 8 base _ hno]
      exact ⟨_, rfl, hrefused 8⟩
  · intro size
    have hrun : exec (.regAreaSize o r v) s = .next ((s.putArea o r 0x10 v x.areaBase size).respond .done) :=
      (if_pos (decide_eq_true hr)).trans (congrArg Host.Outcome.next (State.onWrite_open s _ _ _ hopen))
    refine ⟨fun hload hok => ?_, fun hno => ?_⟩
    · rw [hrun, harea 0x10 _ size hload hok]
      exact ⟨_, rfl, hset _, s.region_setRegion r _⟩
    · rw [hrun, hbad 0x10 _ size hno]
      exact ⟨_, rfl, hrefused 0x10⟩

theorem regionsStayApart : Claims.RegionsStayApart := by
  intro s o r k v d y hr hk hkr hd hy hopen hnew hold
  have hrun : exec (.regDef o r v) s = .next ((s.putRegDef o r v).respond .done) :=
    (if_pos (decide_eq_true hr)).trans (congrArg Host.Outcome.next (State.onWrite_open s _ _ _ hopen))
  have hmeet : regionsMeet { def_ := v &&& defMask } (s.region k) = true :=
    List.any_eq_true.2 ⟨d, List.mem_range.2 hd, List.any_eq_true.2 ⟨y, List.mem_range.2 hy, by rw [hnew, hold]; rfl⟩⟩
  have hrefused : s.defRefused r (v &&& defMask) = true := by
    have hany : (List.range 64).any (fun k => k != r && regionsMeet { def_ := v &&& defMask } (s.region k)) = true :=
      List.any_eq_true.2 ⟨k, List.mem_range.2 hk, by rw [hmeet, bne_iff_ne.2 hkr]; rfl⟩
    unfold State.defRefused
    dsimp only
    rw [hany, Bool.or_true, Bool.true_or]
  have hput : s.putRegDef o r v = s.regionRefused o r 0 v := if_pos hrefused
  rw [hrun, hput]
  have hself : ((s.regionRefused o r 0 v).respond .done).region r = { s.region r with sc := (s.region r).sc.event 0 } :=
    s.region_setRegion r _
  exact ⟨_, rfl, by rw [hself]⟩

/-- Settles O57: each register by what its write puts or refuses. -/
theorem queuesAndRegions : Obligations.QueuesAndRegions :=
  ⟨queueConfigured, regionConfigured, regionsStayApart⟩

end Sys2Proof.Machine
end

section
/-! PROOF. Cables, the management endpoint and the test port. -/

namespace Sys2Proof.Machine

open Sys2Proof

/-- A list of connectors with one put in or left out. -/
def cablesWith (l : List Nat) (k : Nat) (level : Bool) : List Nat :=
  let rest := l.filter (· != k)
  if level then rest else rest ++ [k]

theorem contains_cablesWith (l : List Nat) (k j : Nat) (level : Bool) :
    (cablesWith l k level).contains j = if j = k then !level else l.contains j := by
  have hrest : (l.filter (· != k)).contains j = (l.contains j && j != k) := by
    rw [Bool.eq_iff_iff]
    simp
  unfold cablesWith
  dsimp only
  cases level
  · rw [if_neg Bool.false_ne_true, List.contains_append, hrest]
    split_ifs with h <;> simp [h]
  · rw [if_pos rfl, hrest]
    split_ifs with h <;> simp [h]

/-- The cables of the connectors replaced. -/
def State.withCables (s : State) (cables : List Nat) : State := { s with pins := { s.pins with cables := cables } }

/-- A port whose cable comes or goes while it trains. -/
theorem State.cableMoved_cases (s : State) (k : Nat) (present : Bool) :
    let trains := k < 8 ∧ (s.lport k).state = .training ∧ (s.lport k).retrain = false
    (trains → s.cableMoved k present = s.setLport k { s.lport k with lanes := if present then 0xFF else 0 })
      ∧ (¬trains → s.cableMoved k present = s) := by
  intro trains
  have hcond : (k < 8 ∧ (s.lport k).state = .training ∧ (!(s.lport k).retrain) = true) ↔ trains := by
    rw [Bool.not_eq_true']
  exact ⟨fun h => if_pos (hcond.2 h), fun h => if_neg (mt hcond.1 h)⟩

theorem cablePresence : Claims.CablePresence := by
  intro s x level k trains
  have hcontains := fun j => contains_cablesWith s.pins.cables k j level
  have hrun : exec (.cblPrsntN x level) s
    = .next ((s.withCables (cablesWith s.pins.cables k level)).cableMoved k (!level)) := rfl
  rw [hrun]
  generalize cablesWith s.pins.cables k level = cables at *
  obtain ⟨hmoves, hstays⟩ := (s.withCables cables).cableMoved_cases k (!level)
  have hself : cables.contains k = !level := (hcontains k).trans (if_pos rfl)
  have hother : ∀ j, j ≠ k → cables.contains j = s.pins.cables.contains j := fun j hj => (hcontains j).trans (if_neg hj)
  have hlanes : (if (!level) = true then (0xFF : BitVec 8) else 0) = if level then 0 else 0xFF := by
    cases level <;> rfl
  rcases Classical.em trains with htrains | hquiet
  · rw [hmoves htrains]
    refine ⟨_, rfl, hself, congrArg (· && s.dieOn (connectorDie k)) hself, fun j hj => ⟨hother j hj, ?_⟩, rfl,
      fun _ => ?_, fun p hp => s.lport_setLport_other _ hp, fun h => absurd htrains h⟩
    · exact congrArg (· && s.dieOn (connectorDie j)) (hother j hj)
    · rw [State.lport_setLport, hlanes]
      rfl
  · rw [hstays hquiet]
    exact ⟨_, rfl, hself, congrArg (· && s.dieOn (connectorDie k)) hself, fun j hj => ⟨hother j hj,
      congrArg (· && s.dieOn (connectorDie j)) (hother j hj)⟩, rfl, fun h => absurd h hquiet, fun _ _ => rfl,
      fun _ => rfl⟩

/-- The cells of the boundary register drive the pins of the chain in its order. -/
theorem State.cellOf_chain (s : State) (htap : s.pins.tap = .extest) {i : Nat} (hi : i < 106) :
    boundaryChain[i]?.bind s.cellOf = some (if s.pins.boundary.getLsbD i then .high else .low) := by
  have hnodup : boundaryChain.Nodup := by decide +kernel
  have hlength : boundaryChain.length = 106 := by decide +kernel
  have hin : i < boundaryChain.length := by omega
  have hcell : (s.pins.tap == .extest && boundaryChain.contains boundaryChain[i]) = true := by
    rw [htap, List.contains_iff_mem.2 (List.getElem_mem hin)]
    rfl
  rw [List.getElem?_eq_getElem hin, Option.bind_some, State.cellOf, if_pos hcell, hnodup.idxOf_getElem i hin]
  rfl

theorem endpointAndTestPort : Claims.EndpointAndTestPort := by
  intro s
  refine ⟨fun a hup hended => ?_, fun hup => ?_, fun htrst hstate => ?_, fun htrst hstate => ?_, fun htrst => ?_,
    rfl, rfl⟩
  · have hrun : exec (.dynamicAddress a) s = .next (s.i3cMode (some (BitVec.ofNat 7 a.val))) :=
      congrArg Host.Outcome.next (if_pos (by rw [hup, hended]; rfl))
    rw [hrun]
    unfold State.i3cMode
    cases s.pins.i3c <;> rfl
  · have hrun : exec .rstdaa s = .next (s.i3cMode none) := congrArg Host.Outcome.next (if_pos hup)
    rw [hrun]
    unfold State.i3cMode
    cases s.pins.i3c <;> rfl
  · have halone : ¬s.svAlone = true := fun h => hstate (eq_of_beq h)
    have hrun : exec .extest s = s.happens (some (if s.svAlone then s.loadExtest
      else { s with pins := { s.pins with tap := .bypass } })) := congrArg s.happens (if_pos htrst)
    rw [hrun, if_neg halone]
    rfl
  · have halone : s.svAlone = true := beq_iff_eq.2 hstate
    have hrun : exec .extest s = s.happens (some (if s.svAlone then s.loadExtest
      else { s with pins := { s.pins with tap := .bypass } })) := congrArg s.happens (if_pos htrst)
    rw [hrun, if_pos halone]
    exact ⟨_, rfl, rfl, fun i hi => State.cellOf_chain _ rfl hi⟩
  · exact congrArg s.happens (if_neg (Bool.eq_false_iff.1 htrst))

/-- Settles O58: by the list of present cables, and by the order of the boundary chain. -/
theorem pinsAndTestPort : Obligations.PinsAndTestPort :=
  ⟨cablePresence, endpointAndTestPort⟩

end Sys2Proof.Machine
end

section
/-! PROOF. A register has one meaning: REGISTER_WRITE at its address does what the row that names it does. -/

namespace Sys2Proof.Machine

open Sys2Proof

/-- An address of register space names its die and its offset there. -/
theorem regAddr_inj {d e off o : Nat} (hoff : off < 2 ^ 32) (ho : o < 2 ^ 32) :
    regAddr d off = regAddr e o ↔ d = e ∧ off = o := by
  unfold regAddr
  omega

section
variable (s : State) (o : Origin) (v : Word)

/-- Only the two attestation registers wait for host memory. -/
theorem State.attWaits_other {d off : Nat} (hoff : off < 2 ^ 32)
    (h : ¬(d = 60 ∧ (off = 0x340200 ∨ off = 0x340208))) : s.attWaits (regAddr d off) v = false := by
  have hctl : regAddr d off ≠ attCtlAddr := fun h' =>
    h (((regAddr_inj hoff (by decide)).1 h').imp_right .inl)
  have hext : (regAddr d off == attExtendAddr) = false := beq_eq_false_iff_ne.2 fun h' =>
    h (((regAddr_inj hoff (by decide)).1 h').imp_right .inr)
  rw [State.attWaits, if_neg hctl, hext]
  rfl

variable {s o v} in
/-- An access to a register does its body on the state alone. -/
theorem State.onHostWrite_congr {a : Nat} {body other : State → State} (h : body s = other s) :
    s.onHostWrite o a v body = s.onHostWrite o a v other := by
  unfold State.onHostWrite State.onReg
  dsimp only
  rw [h]

variable {s v} in
theorem State.onHostWrite_waits {a : Nat} {body : State → State} (h : s.attWaits a v = false) :
    s.onHostWrite o a v body = s.onWrite o a body := by
  unfold State.onHostWrite State.onWrite State.onReg
  dsimp only
  rw [h]
  rfl

/-- REGISTER_WRITE to a register, by what a write to it does. -/
theorem State.registerWrite_host {d off : Nat} {body : State → State} (h : RegAt d off)
    (hbody : s.writeReg o d off v = body s) :
    exec (.registerWrite o (regAddr d off) v) s = .next (s.onHostWrite o (regAddr d off) v body) := by
  have hput : s.putReg o (regAddr d off) v = body s := by
    rw [State.putReg, s.target_regAddr h]
    exact hbody
  show execRegisterWrite o (regAddr d off) v s = _
  rw [execRegisterWrite, if_pos h.inRegSpace, State.onHostWrite_congr hput]

theorem State.registerWrite_row {d off : Nat} {body : State → State} (h : RegAt d off)
    (hatt : ¬(d = 60 ∧ (off = 0x340200 ∨ off = 0x340208))) (hbody : s.writeReg o d off v = body s) :
    exec (.registerWrite o (regAddr d off) v) s = .next (s.onWrite o (regAddr d off) body) := by
  rw [s.registerWrite_host o v h hbody, State.onHostWrite_waits o (s.attWaits_other v h.offset hatt)]

/-! What a write to a register of each die does. -/

theorem State.writeReg_helm {off : Nat} (h : 0x100000 ≤ off) : s.writeReg o 56 off v = s.writeHelm o off v :=
  if_neg (Nat.not_lt.2 h)

theorem State.writeHelm_doorbell {q : Nat} (hq : q < 4096) :
    s.writeHelm o (0x100000 + 8 * q) v = s.putSqDb o q v := by
  rw [State.writeHelm, if_pos (by omega), Nat.add_sub_cancel_left, Nat.mul_div_cancel_left _ (by decide)]

/-- A write at an offset of an event queue's block. -/
theorem State.writeHelm_eq {e off : Nat} (he : e < 256) (hoff : off < 0x40) :
    s.writeHelm o (0x200000 + 0x40 * e + off) v = if off = 0 then s.putEqBase e v
      else if off = 8 then s.putEqCfg o e v
      else if off = 16 then s.setEq e ((s.eq e).putHead v)
      else s.clearReg 56 (0x200000 + 0x40 * e + off) v := by
  have hno : (0x200000 + 0x40 * e + off - 0x200000) / 0x40 = e := by omega
  have hrest : (0x200000 + 0x40 * e + off) % 0x40 = off := by omega
  rw [State.writeHelm, if_neg (by omega), if_pos (by omega)]
  dsimp only
  rw [hno, hrest]
  split <;> simp_all

/-- A write at an offset of a submission queue's block. -/
theorem State.writeHelm_sq {q off : Nat} (hq : q < 4096) (hoff : off < 0x40) :
    s.writeHelm o (0x300000 + 0x40 * q + off) v = if off = 0 then s.putSqBase q v
      else if off = 8 then s.putSqCfg o q v
      else if off = 32 then s.putSqCtl o q v
      else s.clearReg 56 (0x300000 + 0x40 * q + off) v := by
  have hno : (0x300000 + 0x40 * q + off - 0x300000) / 0x40 = q := by omega
  have hrest : (0x300000 + 0x40 * q + off) % 0x40 = off := by omega
  rw [State.writeHelm, if_neg (by omega), if_neg (by omega), if_pos (by omega)]
  dsimp only
  rw [hno, hrest]
  split <;> simp_all

/-- A write at an offset of a region's block. -/
theorem State.writeHelm_region {r off : Nat} (hoff : off < 0x40) :
    s.writeHelm o (0x400000 + 0x40 * r + off) v = if off = 0 then s.putRegDef o r v
      else if off = 8 then s.putAreaBase o r v
      else if off = 16 then s.putAreaSize o r v
      else s.clearReg 56 (0x400000 + 0x40 * r + off) v := by
  have hno : (0x400000 + 0x40 * r + off - 0x400000) / 0x40 = r := by omega
  have hrest : (0x400000 + 0x40 * r + off) % 0x40 = off := by omega
  rw [State.writeHelm, if_neg (by omega), if_neg (by omega), if_neg (by omega), if_pos (by omega)]
  dsimp only
  rw [hno, hrest]
  split <;> simp_all

/-- A write at an offset of a port's block. -/
theorem State.writeReg_port {p off : Nat} (hp : p < 8) (hoff : off < 0x1000) :
    s.writeReg o (linkDie p) (0x100000 + p % 4 * 0x1000 + off) v = s.writePort o p off v := by
  have hdie : 48 ≤ linkDie p ∧ linkDie p < 50 := by unfold linkDie; omega
  have hport : 4 * (linkDie p - 48) + (0x100000 + p % 4 * 0x1000 + off - 0x100000) / 0x1000 = p := by
    unfold linkDie
    omega
  have hrest : (0x100000 + p % 4 * 0x1000 + off) % 0x1000 = off := by omega
  rw [State.writeReg, if_neg (by omega), if_neg (by omega), if_neg (by omega), if_pos (by omega), if_pos (by omega),
    hport, hrest]

theorem State.writePort_xcha {p n : Nat} (hn : n < 16) : s.writePort o p (0x200 + 16 * n) v = s.putXcha p n v := by
  have hno : (0x200 + 16 * n - 0x200) / 16 = n := by omega
  unfold State.writePort
  dsimp only
  rw [if_neg (by omega), if_neg (by omega), if_neg (by omega), if_neg (by omega), if_neg (by omega),
    if_pos (by omega), if_pos (by omega), hno]

theorem State.writePort_xchb {p n : Nat} (hn : n < 16) : s.writePort o p (0x208 + 16 * n) v = s.putXchb p n v := by
  have hno : (0x208 + 16 * n - 0x200) / 16 = n := by omega
  unfold State.writePort
  dsimp only
  rw [if_neg (by omega), if_neg (by omega), if_neg (by omega), if_neg (by omega), if_neg (by omega),
    if_pos (by omega), if_neg (by omega), hno]

theorem State.writeReg_store {d : Nat} (hd : d < 8) :
    s.writeReg o (16 + d) 0x0F0000 v = s.putStoreCfg o d v := by
  rw [State.writeReg, if_neg (by omega), if_pos (by omega), Nat.add_sub_cancel_left]
  exact if_pos rfl

theorem State.writeReg_service {off : Nat} : s.writeReg o 60 off v = s.writeService o off v := rfl

theorem State.writeService_node {k : Nat} (hk : k < 64) :
    s.writeService o (0x300000 + 8 * k) v = s.putNode o k v := by
  have hno : (0x300000 + 8 * k - 0x300000) / 8 = k := by omega
  unfold State.writeService
  rw [if_pos (by omega), hno]

theorem State.writeService_clkmon : s.writeService o 0x300208 v = s.putClkmon o v := by
  unfold State.writeService
  rw [if_neg (by decide), if_pos rfl]

theorem State.writeService_rstReq : s.writeService o 0x310000 v = s.putRstReq o v := by
  unfold State.writeService
  rw [if_neg (by decide), if_neg (by decide), if_pos rfl]

theorem State.writeService_pwrDom : s.writeService o 0x320020 v = s.putPwrDom o v := by
  unfold State.writeService
  rw [if_neg (by decide), if_neg (by decide), if_neg (by decide), if_neg (by decide),
    if_neg (by decide), if_pos rfl]

theorem State.writeService_attCtl : s.writeService o 0x340200 v = s.putAttCtl v := by
  unfold State.writeService
  rw [if_neg (by decide), if_neg (by decide), if_neg (by decide), if_neg (by decide),
    if_neg (by decide), if_neg (by decide), if_pos rfl]

theorem State.writeService_attExtend : s.writeService o 0x340208 v = s.putAttExtend o v := by
  unfold State.writeService
  rw [if_neg (by decide), if_neg (by decide), if_neg (by decide), if_neg (by decide),
    if_neg (by decide), if_neg (by decide), if_neg (by decide), if_pos rfl]

end

/-! The registers lie in the blocks of their dies. -/

theorem regAt_helm {off : Nat} (h : (0x100000 ≤ off ∧ off < 0x108000) ∨ (0x200000 ≤ off ∧ off < 0x204000)
    ∨ (0x300000 ≤ off ∧ off < 0x340000) ∨ (0x400000 ≤ off ∧ off < 0x401000)) : RegAt 56 off := by
  refine ⟨by decide, by omega, ?_⟩
  rcases h with h | h | h | h
  · exact ⟨(0x100000, 0x8000), by decide, h⟩
  · exact ⟨(0x200000, 0x4000), by decide, h⟩
  · exact ⟨(0x300000, 0x40000), by decide, h⟩
  · exact ⟨(0x400000, 0x1000), by decide, h⟩

theorem regAt_port {p off : Nat} (hp : p < 8) (hoff : off < 0x1000) :
    RegAt (linkDie p) (0x100000 + p % 4 * 0x1000 + off) := by
  have hdie : linkDie p = 48 ∨ linkDie p = 49 := by unfold linkDie; omega
  refine ⟨?_, by omega, (0x100000, 0x4000), ?_, by dsimp only; omega⟩ <;> rcases hdie with h | h <;> rw [h] <;> decide

theorem regAt_store {d : Nat} (hd : d < 8) : RegAt (16 + d) 0x0F0000 := by
  refine ⟨?_, by decide, (0x0F0000, 0x110), ?_, by decide⟩
  · simp only [dieExists, decide_eq_true_eq]
    omega
  · rw [regBlocks, if_neg (by omega), if_pos (by omega)]
    decide

theorem regAt_node {k : Nat} (hk : k < 64) : RegAt 60 (0x300000 + 8 * k) :=
  ⟨by decide, by omega, (0x300000, 0x210), by decide, by dsimp only; omega⟩

section
variable (s : State) (o : Origin) (v : Word)

/-! The rows of each die's registers. -/

theorem State.registerWrite_helm {off : Nat} {body : State → State} (h : RegAt 56 off) (hoff : 0x100000 ≤ off)
    (hbody : s.writeHelm o off v = body s) :
    exec (.registerWrite o (regAddr 56 off) v) s = .next (s.onWrite o (regAddr 56 off) body) :=
  s.registerWrite_row o v h (by omega) ((s.writeReg_helm o v hoff).trans hbody)

theorem State.registerWrite_port (p : Fin 8) {off : Nat} {body : State → State} (hoff : off < 0x1000)
    (hbody : s.writePort o p.val off v = body s) :
    exec (.registerWrite o (portAddr p.val off) v) s = .next (s.onWrite o (portAddr p.val off) body) :=
  s.registerWrite_row o v (regAt_port p.isLt hoff) (by unfold linkDie; omega)
    ((s.writeReg_port o v p.isLt hoff).trans hbody)

theorem State.registerWrite_service {off : Nat} {body : State → State} (h : RegAt 60 off) (hoff : off < 0x340200)
    (hbody : s.writeService o off v = body s) :
    exec (.registerWrite o (regAddr 60 off) v) s = .next (s.onWrite o (regAddr 60 off) body) :=
  s.registerWrite_row o v h (by omega) hbody

theorem queueRows {q : Nat} (hq : q < 4096) :
    exec (.registerWrite o (sqDbAddr q) v) s = exec (.sqDb o q v) s
      ∧ exec (.registerWrite o (sqAddr q 8) v) s = exec (.sqCfg o q v) s
      ∧ exec (.registerWrite o (sqAddr q 0x20) v) s = exec (.resume o q v) s := by
  have hno : decide (q < 4096) = true := decide_eq_true hq
  refine ⟨?_, ?_, ?_⟩
  · exact (s.registerWrite_helm o v (regAt_helm (by omega)) (by omega) (s.writeHelm_doorbell o v hq)).trans
      (if_pos hno).symm
  · exact (s.registerWrite_helm o v (regAt_helm (by omega)) (by omega) (s.writeHelm_sq o v hq (by decide))).trans
      (if_pos hno).symm
  · exact (s.registerWrite_helm o v (regAt_helm (by omega)) (by omega) (s.writeHelm_sq o v hq (by decide))).trans
      (if_pos hno).symm

theorem eventRows {e : Nat} (he : e < 256) :
    exec (.registerWrite o (eqAddr e 8) v) s = exec (.eqCfg o e v) s
      ∧ exec (.registerWrite o (eqAddr e 0x10) v) s = exec (.eqHead o e v) s := by
  have hno : decide (e < 256) = true := decide_eq_true he
  refine ⟨?_, ?_⟩
  · exact (s.registerWrite_helm o v (regAt_helm (by omega)) (by omega) (s.writeHelm_eq o v he (by decide))).trans
      (if_pos hno).symm
  · exact (s.registerWrite_helm o v (regAt_helm (by omega)) (by omega) (s.writeHelm_eq o v he (by decide))).trans
      (if_pos hno).symm

theorem regionRows {r : Nat} (hr : r < 64) :
    exec (.registerWrite o (regionAddr r 0) v) s = exec (.regDef o r v) s
      ∧ exec (.registerWrite o (regionAddr r 8) v) s = exec (.regAreaBase o r v) s
      ∧ exec (.registerWrite o (regionAddr r 0x10) v) s = exec (.regAreaSize o r v) s := by
  have hno : decide (r < 64) = true := decide_eq_true hr
  refine ⟨?_, ?_, ?_⟩
  · exact (s.registerWrite_helm o v (regAt_helm (by omega)) (by omega) (s.writeHelm_region o v (by decide))).trans
      (if_pos hno).symm
  · exact (s.registerWrite_helm o v (regAt_helm (by omega)) (by omega) (s.writeHelm_region o v (by decide))).trans
      (if_pos hno).symm
  · exact (s.registerWrite_helm o v (regAt_helm (by omega)) (by omega) (s.writeHelm_region o v (by decide))).trans
      (if_pos hno).symm

theorem clockRows :
    (∀ k : Fin 64, exec (.registerWrite o (clkAddr k.val) v) s = exec (.clkNodeSrc o k v) s)
      ∧ exec (.registerWrite o clkmonAddr v) s = exec (.clkmonCtl o v) s
      ∧ exec (.registerWrite o rstReqAddr v) s = exec (.rstReq o v) s
      ∧ exec (.registerWrite o pwrDomAddr v) s = exec (.pwrDom o v) s := by
  refine ⟨fun k => ?_, ?_, ?_, ?_⟩
  · exact s.registerWrite_service o v (regAt_node k.isLt) (by omega) (s.writeService_node o v k.isLt)
  · exact s.registerWrite_service o v ⟨by decide, by decide, (0x300000, 0x210), by decide, by decide⟩ (by decide)
      (s.writeService_clkmon o v)
  · exact s.registerWrite_service o v ⟨by decide, by decide, (0x310000, 0x18), by decide, by decide⟩ (by decide)
      (s.writeService_rstReq o v)
  · exact s.registerWrite_service o v ⟨by decide, by decide, (0x320000, 0x1E0), by decide, by decide⟩ (by decide)
      (s.writeService_pwrDom o v)

theorem attestationRows :
    exec (.registerWrite o attCtlAddr v) s = exec (.attCtl o v) s
      ∧ exec (.registerWrite o attExtendAddr v) s = exec (.attExtend o v) s := by
  refine ⟨?_, ?_⟩
  · exact s.registerWrite_host o v (body := fun s => s.putAttCtl v)
      ⟨by decide, by decide, (0x340000, 0x210), by decide, by decide⟩
          ((s.writeReg_service o v).trans (s.writeService_attCtl o v))
  · exact s.registerWrite_host o v (body := fun s => s.putAttExtend o v)
      ⟨by decide, by decide, (0x340000, 0x210), by decide, by decide⟩
          ((s.writeReg_service o v).trans (s.writeService_attExtend o v))

theorem storeRow (d : Fin 8) : exec (.registerWrite o (storeCfgAddr d.val) v) s = exec (.storeCfg o d v) s :=
  s.registerWrite_row o v (body := fun s => s.putStoreCfg o d.val v) (regAt_store d.isLt) (by omega)
    (s.writeReg_store o v d.isLt)

theorem portRows (p : Fin 8) :
    exec (.registerWrite o (portAddr p.val 0) v) s = exec (.portCtl o p v) s
      ∧ exec (.registerWrite o (portAddr p.val 0x30) v) s = exec (.portSqTail o p v) s
      ∧ ∀ n : Fin 16, exec (.registerWrite o (xchaAddr p.val n.val) v) s = exec (.portXchna o p n v) s
        ∧ exec (.registerWrite o (xchbAddr p.val n.val) v) s = exec (.portXchnb o p n v) s := by
  refine ⟨?_, ?_, fun n => ⟨?_, ?_⟩⟩
  · exact s.registerWrite_port o v p (by decide) rfl
  · exact s.registerWrite_port o v p (by decide) rfl
  · exact s.registerWrite_port o v p (by omega) (s.writePort_xcha o v n.isLt)
  · exact s.registerWrite_port o v p (by omega) (s.writePort_xchb o v n.isLt)

/-- The operator's write of a register that it does not set is refused. -/
theorem operatorWrite_refused {a : Nat} (hup : s.svUp = true) (hspace : inRegSpace a = true)
    (hsets : operatorSets a = false) : exec (.registerWrite .operator a v) s = .next (s.answer .refused) := by
  have hclosed : ¬s.endpointOpen .operator a true = true := by
    rw [State.endpointOpen, operatorReg, hsets]
    simp
  show execRegisterWrite .operator a v s = _
  rw [execRegisterWrite, if_pos hspace, State.onHostWrite, State.onReg, State.endpoint, if_neg hclosed, if_pos hup]

end

theorem registerHasOneMeaning : Claims.RegisterHasOneMeaning := by
  intro s o v same
  obtain ⟨hnodes, hmon, hreset, hdomain⟩ := clockRows s o v
  obtain ⟨hctl, hext⟩ := attestationRows s o v
  refine ⟨fun q hq => queueRows s o v hq, fun e he => eventRows s o v he, fun r hr => regionRows s o v hr, hnodes,
    hmon, hreset, hdomain, hctl, hext, storeRow s o v, portRows s o v, fun a hup hspace hcap hdom hring => ?_⟩
  refine operatorWrite_refused s v hup hspace ?_
  rw [operatorSets, Bool.eq_false_iff, Ne, List.contains_iff_mem, List.mem_append, List.mem_map]
  rintro (h | ⟨p, hp, h⟩)
  · simp only [List.mem_cons, List.not_mem_nil, or_false] at h
    exact h.elim hcap hdom
  · exact hring p (List.mem_range.1 hp) h.symm

theorem graphEngineConfig : Claims.GraphEngineConfig := by
  intro s o d v hopen
  have hat : RegAt d.val 0x100000 := by
    refine ⟨?_, by decide, (0x100000, 8), ?_, by decide⟩
    · simp only [dieExists, decide_eq_true_eq]
      omega
    · rw [regBlocks, if_pos d.isLt]
      decide
  have hwrite : s.writeReg o d.val 0x100000 v = s.writeCompute d.val 0x100000 v := if_pos d.isLt
  rw [s.registerWrite_row o v (body := fun s => s.writeCompute d.val 0x100000 v) hat (by omega) hwrite,
    State.onWrite_open s _ _ _ hopen]
  exact ⟨_, rfl, Assoc.get_put_same _ _ _ _, fun k hk => Assoc.get_put_other _ _ _ hk, rfl⟩

/-- A port that goes to a state keeps its settings. -/
theorem Port.inState_settings (x : Port) (st : PortState) :
    (x.inState st).rreset = x.rreset ∧ (x.inState st).enable = x.enable ∧ (x.inState st).minlanes = x.minlanes
      ∧ (x.inState st).lanes = x.lanes ∧ (x.inState st).state = st := by
  unfold Port.inState
  dsimp only
  split <;> exact ⟨rfl, rfl, rfl, rfl, rfl⟩

theorem State.portTo_settings (s : State) (p : Nat) (st : PortState) :
    let x := s.lport p
    let y := (s.portTo p st).lport p
    y.rreset = x.rreset ∧ y.enable = x.enable ∧ y.minlanes = x.minlanes ∧ y.lanes = x.lanes ∧ y.state = st := by
  obtain ⟨taken, desc, channels, hport, -⟩ := s.portTo_lport p st
  dsimp only
  rw [hport]
  exact Port.inState_settings _ st

/-- The fields that a write to PORT_CTL sets; RRESET_EN stays while the link die is locked. -/
def Port.configured (x : Port) (v : Word) (locked : Bool) : Port :=
  { x with
    minlanes := if 6 ≤ bits v 4 4 ∧ bits v 4 4 ≤ 8 then bits v 4 4 else x.minlanes
    rreset := if locked then x.rreset else bit v 1
    enable := bit v 0 }

/-- A port with the lanes that it tries. -/
def Port.withLanes (x : Port) (lanes : BitVec 8) : Port := { x with lanes := lanes }

theorem State.putPortCtl_eq (s : State) (p : Nat) (v : Word) :
    let x := s.lport p
    let y := x.configured v (s.resets.locks.contains (linkDie p))
    s.putPortCtl p v = if bit v 0 && !x.enable then
        ((s.setLport p y).setLport p (y.withLanes (if s.cabled p then 0xFF else 0))).portTo p .training
      else if !bit v 0 && x.enable then ((s.setLport p y).setLport p (y.withLanes 0)).portTo p .disabled
      else s.setLport p y := by
  intro x y
  have htrain : (s.setLport p y).train p
      = ((s.setLport p y).setLport p (y.withLanes (if s.cabled p then 0xFF else 0))).portTo p .training := by
    unfold State.train
    rw [State.lport_setLport]
    rfl
  rw [← htrain]
  rfl

/-- A write to PORT_CTL: its fields, the lanes and the state. -/
theorem State.putPortCtl_settings (s : State) (p : Nat) (v : Word) :
    let x := s.lport p
    let y := (s.putPortCtl p v).lport p
    y.rreset = (if s.resets.locks.contains (linkDie p) then x.rreset else bit v 1) ∧ y.enable = bit v 0
      ∧ y.minlanes = (if 6 ≤ bits v 4 4 ∧ bits v 4 4 ≤ 8 then bits v 4 4 else x.minlanes)
      ∧ (y.lanes = if bit v 0 && !x.enable then (if s.cabled p then 0xFF else 0)
          else if !bit v 0 && x.enable then 0 else x.lanes)
      ∧ (y.state = if bit v 0 && !x.enable then .training else if !bit v 0 && x.enable then .disabled else x.state) :=
          by
  intro x
  have hput := s.putPortCtl_eq p v
  have hto : ∀ (y z : Port) (st : PortState),
      let w := (((s.setLport p y).setLport p z).portTo p st).lport p
      w.rreset = z.rreset ∧ w.enable = z.enable ∧ w.minlanes = z.minlanes ∧ w.lanes = z.lanes ∧ w.state = st := by
    intro y z st
    have h := ((s.setLport p y).setLport p z).portTo_settings p st
    rwa [State.lport_setLport] at h
  have hx : s.lport p = x := rfl
  clear_value x
  dsimp only at *
  rw [hput, hx]
  by_cases hon : (bit v 0 && !x.enable) = true
  · simp only [if_pos hon]
    exact hto _ _ _
  · simp only [if_neg hon]
    by_cases hoff : (!bit v 0 && x.enable) = true
    · simp only [if_pos hoff]
      exact hto _ _ _
    · simp only [if_neg hoff, State.lport_setLport]
      exact ⟨rfl, rfl, rfl, rfl, rfl⟩

theorem registerLock : Claims.RegisterLock := by
  intro s idx hdie hup
  have hlocks : ∀ d, (if s.resets.locks.contains idx then s.resets.locks else s.resets.locks ++ [idx]).contains d
      = (s.resets.locks.contains d || d == idx) := by
    intro d
    split
    · next h =>
      rcases Classical.em (d = idx) with rfl | hd
      · rw [h]
        rfl
      · rw [beq_eq_false_iff_ne.2 hd, Bool.or_false]
    · rw [List.contains_append]
      congr 1
      simp [beq_eq_decide]
  refine ⟨_, (if_pos hdie).trans (State.managed_up _ _ hup), ?_, fun d hd => ?_, rfl, fun o p v hlink hopen => ?_⟩
  · refine (hlocks idx).trans ?_
    rw [beq_self_eq_true, Bool.or_true]
  · refine (hlocks d).trans ?_
    rw [beq_eq_false_iff_ne.2 hd, Bool.or_false]
  · refine ⟨_, congrArg Host.Outcome.next (State.onWrite_open _ _ _ _ hopen),
      ((State.putPortCtl_settings _ p.val v).1).trans (if_pos ?_)⟩
    refine (hlocks (linkDie p.val)).trans ?_
    rw [hlink, beq_self_eq_true, Bool.or_true]

/-- Settles O55: each register by the row that names it, GE_CFG, and the lock by its list. -/
theorem registerWrites : Obligations.RegisterWrites :=
  ⟨registerHasOneMeaning, graphEngineConfig, registerLock⟩

end Sys2Proof.Machine
end

section
/-! PROOF. The registers of ports and of their exchange channels. -/

namespace Sys2Proof.Machine

open Sys2Proof

/-- A write to PORT_CTL changes no other port. -/
theorem State.putPortCtl_other (s : State) (v : Word) {p k : Nat} (hk : k ≠ p) :
    (s.putPortCtl p v).lport k = s.lport k := by
  have hput := s.putPortCtl_eq p v
  have hto : ∀ (y z : Port) (st : PortState),
      (((s.setLport p y).setLport p z).portTo p st).lport k = s.lport k := by
    intro y z st
    obtain ⟨-, -, -, -, hother⟩ := ((s.setLport p y).setLport p z).portTo_lport p st
    rw [hother k hk, State.lport_setLport_other _ _ hk, State.lport_setLport_other _ _ hk]
  dsimp only at hput
  rw [hput]
  split_ifs
  · exact hto _ _ _
  · exact hto _ _ _
  · exact hto _ _ _
  · exact State.lport_setLport_other _ _ hk

theorem portRegisters : Claims.PortRegisters := by
  intro s o p v x base
  refine ⟨fun hopen => ?_, fun hup hopen => ?_, fun hopen hon hoff hstate hheld => ?_⟩
  · have hrun : exec (.portSqTail o p v) s = .next ((s.setLport p.val { x with sqTail := v }).respond .done) :=
      congrArg Host.Outcome.next (State.onWrite_open s _ _ _ hopen)
    exact ⟨_, hrun, s.lport_setLport p.val _, rfl, fun r hr => s.lport_setLport_other _ hr⟩
  · have hrun : exec (.portRingid p v) s = .next ((s.setLport p.val
      { x with ringid := v, ringCopy := v }).answer .ok) := by
      refine (State.managed_up _ _ hup).trans (congrArg Host.Outcome.next ?_)
      obtain ⟨hwaits, hcause, hends⟩ := hopen
      unfold State.onReg State.endpoint
      rw [if_pos hends, if_neg (Bool.eq_false_iff.1 hwaits), hcause]
    exact ⟨_, hrun, s.lport_setLport p.val _, rfl, fun r hr => s.lport_setLport_other _ hr⟩
  · have hrun : exec (.portCtl o p v) s = .next ((s.putPortCtl p.val v).respond .done) :=
      congrArg Host.Outcome.next (State.onWrite_open s _ _ _ hopen)
    obtain ⟨hreset, henable, hlanes, htried, hto⟩ := s.putPortCtl_settings p.val v
    have hstart : (bit v 0 && !(s.lport p.val).enable) = true := by
      rw [show (s.lport p.val).enable = false from hoff]
      exact congrArg (· && !false) hon
    rw [if_pos hstart] at htried hto
    refine ⟨_, hrun, henable.trans hon, hto, htried.trans ?_, hlanes.trans ?_, hreset.trans ?_, rfl,
      fun r hr => s.putPortCtl_other v hr⟩
    · unfold State.cabled
      simp only [List.contains_iff_mem]
    · rfl
    · simp only [List.contains_iff_mem]
      rfl

theorem channelRegisters : Claims.ChannelRegisters := by
  intro s o p n v c after
  have hset : ∀ y, after ((s.setLport p.val ((s.lport p.val).setChannel n.val y)).respond .done) y := by
    intro y
    have hport : (((s.setLport p.val ((s.lport p.val).setChannel n.val y)).respond .done).lport p.val)
        = (s.lport p.val).setChannel n.val y := s.lport_setLport p.val _
    refine ⟨?_, fun m hm => ?_, fun r hr => s.lport_setLport_other _ hr, rfl, rfl⟩
    · rw [hport]
      exact Assoc.get_put_same _ _ _ _
    · rw [hport]
      exact Assoc.get_put_other _ _ _ hm
  have hsame : after (s.respond .done) c := ⟨rfl, fun _ _ => rfl, fun _ _ => rfl, rfl, rfl⟩
  have hmask : bit (v &&& xchaMask) 63 = v.getLsbD 63 := by
    show (v &&& xchaMask).getLsbD 63 = _
    rw [BitVec.getLsbD_and]
    exact Bool.and_true _
  have hrun : s.regOpen o (xchaAddr p.val n.val) true →
      exec (.portXchna o p n v) s = .next ((s.putXcha p.val n.val v).respond .done) :=
    fun hopen => congrArg Host.Outcome.next (State.onWrite_open s _ _ _ hopen)
  have hput : s.putXcha p.val n.val v = if c.valid && v.getLsbD 63 then s
      else if c.valid && c.slot then
        s.setLport p.val ((s.lport p.val).setChannel n.val { c with clearing := some (v &&& xchaMask) })
      else s.setLport p.val ((s.lport p.val).setChannel n.val (c.putA (v &&& xchaMask))) := by
    rw [← hmask]
    rfl
  have htaken : ¬(c.valid && v.getLsbD 63) = true → ¬(c.valid && c.slot) = true → s.putXcha p.val n.val v
      = s.setLport p.val ((s.lport p.val).setChannel n.val (c.putA (v &&& xchaMask))) :=
    fun hignore hdefer => hput.trans ((if_neg hignore).trans (if_neg hdefer))
  have hstays : v.getLsbD 63 = false → ¬(c.valid && v.getLsbD 63) = true := fun h => by
    rw [h, Bool.and_false]
    exact Bool.false_ne_true
  have hfresh : v.getLsbD 63 = true → c.putA (v &&& xchaMask) = { a := v &&& xchaMask, b := c.b } :=
    fun h => if_pos (hmask.trans h)
  have hkept : v.getLsbD 63 = false → c.putA (v &&& xchaMask) = { c with a := v &&& xchaMask, clearing := none } :=
    fun h => if_neg (Bool.eq_false_iff.1 (hmask.trans h))
  refine ⟨fun hopen => ⟨fun hno hbit => ?_, fun hyes hbit hslot => ?_, fun hyes hbit hslot => ?_, fun hyes hbit => ?_,
    fun hno hbit => ?_⟩, fun hopen => ?_, fun w hclear hslot hbit => ?_⟩
  · rw [hrun hopen, htaken (by simp [hno]) (by simp [hno]), hfresh hbit]
    exact ⟨_, rfl, hset _⟩
  · have hdefer : s.putXcha p.val n.val v = s.setLport p.val ((s.lport p.val).setChannel n.val
        { c with clearing := some (v &&& xchaMask) }) :=
      hput.trans ((if_neg (hstays hbit)).trans (if_pos (by simp [hyes, hslot])))
    rw [hrun hopen, hdefer]
    exact ⟨_, rfl, hset _⟩
  · rw [hrun hopen, htaken (hstays hbit) (by simp [hslot]), hkept hbit]
    exact ⟨_, rfl, hset _⟩
  · have hignore : s.putXcha p.val n.val v = s := hput.trans (if_pos (by simp [hyes, hbit]))
    rw [hrun hopen, hignore]
    exact ⟨_, rfl, hsame⟩
  · rw [hrun hopen, htaken (by simp [hno]) (by simp [hno]), hkept hbit]
    exact ⟨_, rfl, hset _⟩
  · have hrun : exec (.portXchnb o p n v) s = .next ((s.putXchb p.val n.val v).respond .done) :=
      congrArg Host.Outcome.next (State.onWrite_open s _ _ _ hopen)
    have hputB : s.putXchb p.val n.val v = if c.valid then s
        else s.setLport p.val ((s.lport p.val).setChannel n.val { c with b := v &&& xchbMask }) := rfl
    rw [hrun, hputB]
    split
    · exact ⟨_, rfl, hsame⟩
    · exact ⟨_, rfl, hset _⟩
  · have hdef : exec (.validClear p n) s = execValidClear p n s := rfl
    have hclear : ((s.lport p.val).channel n.val).clearing = some w := hclear
    have hkeep : c.putA w = { c with a := w, clearing := none } := if_neg (Bool.eq_false_iff.1 hbit)
    rw [hdef, execValidClear, hclear]
    dsimp only
    rw [if_neg (Bool.eq_false_iff.1 hslot)]
    refine ⟨_, rfl, ?_⟩
    rw [show ((s.lport p.val).channel n.val).putA w = _ from hkeep]
    exact hset _

/-- Settles O31: the registers of a port and of a channel, by what each write puts there. -/
theorem portAndChannelRegisters : Obligations.PortAndChannelRegisters :=
  ⟨portRegisters, channelRegisters⟩

end Sys2Proof.Machine
end

section
/-! PROOF. What a read of a burst of external memory counts, corrects and poisons, and what it leaves. -/

namespace Sys2Proof.Machine

open Sys2Proof

/-- A field of SC that is set stays set at an event. -/
theorem Sc.has_event_of (x : Sc) (b : Nat) {f : Nat} (h : x.has f = true) : (x.event b).has f = true := by
  obtain ⟨t, ht, hf⟩ := List.any_eq_true.1 h
  have hf : t.1 = f := eq_of_beq hf
  rcases Classical.em (t.1 = b) with hb | hb
  · rw [← hf, hb]
    exact Sc.has_event x b
  · exact List.any_eq_true.2 ⟨_, (Sc.mem_event_tags x b _).2 (.inl ⟨t, ht, hb, rfl⟩), beq_iff_eq.2 hf⟩

/-- What a channel shows that begins to retire. -/
def MemChannel.retires (x : MemChannel) : MemChannel := { x with state := .retiring, sc := x.sc.event 3 }

/-- Between two states rows and channels have been judged: a row may be weak, and a channel may have begun to retire;
what
the errors have counted and poisoned stands. -/
structure State.Judged (t s : State) : Prop where
  read : t.OnlyRead s
  weak : t.ext.weak = s.ext.weak
  bad : t.ext.bad = s.ext.bad
  retired : t.ext.retired = s.ext.retired
  poison : ∀ m, (t.port_ m).poison = (s.port_ m).poison
  ce : ∀ k, (t.chan k).ce = (s.chan k).ce
  ue : ∀ k, (t.chan k).ue = (s.chan k).ue
  sc : ∀ k f, (s.chan k).sc.has f = true → (t.chan k).sc.has f = true
  retires : s.ext.retiring.isSome = true → t.ext.retiring = s.ext.retiring ∧ ∀ k, t.chan k = s.chan k

section
variable (s : State)

theorem State.Judged.refl : s.Judged s :=
  ⟨rfl, rfl, rfl, rfl, fun _ => rfl, fun _ => rfl, fun _ => rfl, fun _ _ h => h, fun _ => ⟨rfl, fun _ => rfl⟩⟩

variable {s} in
theorem State.Judged.trans {t u : State} (htu : u.Judged t) (hst : t.Judged s) : u.Judged s where
  read := htu.read.trans hst.read
  weak := htu.weak.trans hst.weak
  bad := htu.bad.trans hst.bad
  retired := htu.retired.trans hst.retired
  poison m := (htu.poison m).trans (hst.poison m)
  ce k := (htu.ce k).trans (hst.ce k)
  ue k := (htu.ue k).trans (hst.ue k)
  sc k f h := htu.sc k f (hst.sc k f h)
  retires h := by
    obtain ⟨hretiring, hchan⟩ := hst.retires h
    obtain ⟨hretiring', hchan'⟩ := htu.retires (by rw [hretiring, h])
    exact ⟨hretiring'.trans hretiring, fun k => (hchan' k).trans (hchan k)⟩

/-- A channel that cannot retire stays. -/
theorem State.retire_noop (c : Nat) (h : (s.ext.retiring.isSome || s.ext.retired.isSome) = true) : s.retire c = s :=
  if_pos h

/-- A channel begins to retire. -/
theorem State.retire_begins (c : Nat) (h : (s.ext.retiring.isSome || s.ext.retired.isSome) = false) :
    ∃ logs, s.retire c = { s.setChan c (s.chan c).retires with
      ext := { (s.setChan c (s.chan c).retires).ext with
        retiring := some { chan := c, pointer := 0 } }
      logs := logs } := by
  unfold State.retire State.repair
  dsimp only
  rw [if_neg (Bool.eq_false_iff.1 h), State.toEq0Log_frame]
  exact ⟨_, rfl⟩

theorem State.retire_judged (c : Nat) : (s.retire c).Judged s := by
  cases h : s.ext.retiring.isSome || s.ext.retired.isSome
  · obtain ⟨logs, heq⟩ := s.retire_begins c h
    have hchan : ∀ k, (s.retire c).chan k = if k = c then (s.chan c).retires
        else s.chan k := by
      intro k
      rw [heq]
      split
      · next hk => rw [hk]; exact s.chan_setChan c _
      · next hk => exact s.chan_setChan_other _ hk
    refine ⟨s.retire_read c, by rw [heq]; rfl, by rw [heq]; rfl, by rw [heq]; rfl, fun m => by rw [heq]; rfl, fun k =>
        ?_,
      fun k => ?_, fun k f hf => ?_, fun hsome => ?_⟩
    · rw [hchan]
      split
      · next hk => rw [hk]; rfl
      · rfl
    · rw [hchan]
      split
      · next hk => rw [hk]; rfl
      · rfl
    · rw [hchan]
      split
      · next hk => rw [hk] at hf; exact Sc.has_event_of _ 3 hf
      · exact hf
    · rw [hsome] at h
      cases h
  · rw [s.retire_noop c h]
    exact State.Judged.refl s

/-- A memory-port die whose redirect entries or history change. -/
theorem State.setPort_judged (m : Nat) {p : MemPort} (h : p.poison = (s.port_ m).poison) :
    (s.setPort_ m p).Judged s := by
  refine ⟨rfl, rfl, rfl, rfl, fun k => ?_, fun _ => rfl, fun _ => rfl, fun _ _ h => h, fun _ => ⟨rfl, fun _ => rfl⟩⟩
  rcases Classical.em (k = m) with rfl | hk
  · rw [State.port__setPort_, h]
  · rw [State.port__setPort__other _ _ hk]

theorem State.weakRow_judged (a : Nat) : (s.weakRow a).Judged s := by
  unfold State.weakRow
  dsimp only
  split_ifs
  · exact State.Judged.refl s
  · exact s.retire_judged _
  · exact s.setPort_judged _ rfl

/-- Where a granule lies depends on the retirement alone. -/
theorem State.placeOf_congr {s t : State} (hretired : t.ext.retired = s.ext.retired)
    (hretiring : t.ext.retiring = s.ext.retiring) (g : Nat) : t.placeOf g = s.placeOf g := by
  unfold State.placeOf State.movedOf
  rw [hretired, hretiring]

/-- A burst corrected: it is counted, and no longer marked. -/
theorem State.correctBurst_counts (b : Nat) : ∃ x : MemChannel, x.ce = (s.chan (s.chanAt (64 * b))).ce.tick
      ∧ x.ue = (s.chan (s.chanAt (64 * b))).ue ∧ x.migrated = (s.chan (s.chanAt (64 * b))).migrated
      ∧ x.sc = (s.chan (s.chanAt (64 * b))).sc.event 0
      ∧ (s.correctBurst b).Judged { s.setChan (s.chanAt (64 * b)) x with
        ext := { (s.setChan (s.chanAt (64 * b)) x).ext with weak := s.ext.weak.filter (· != b) } } := by
  unfold State.correctBurst
  extract_lets a c x fresh n s₁ e s₂ m p recent twice s₃ s₄
  refine ⟨{ x with ce := x.ce.tick, sc := x.sc.event 0, second := if fresh then s.strike else x.second, inSecond := n },
    rfl, rfl, rfl, rfl, ?_⟩
  have h₃ : s₃.Judged s₂ := s₂.setPort_judged m rfl
  have h₄ : s₄.Judged s₂ := by
    unfold s₄
    split
    · exact (s₃.weakRow_judged a).trans h₃
    · exact h₃
  split
  · exact (s₄.retire_judged c).trans h₄
  · exact h₄

/-- The channel of a burst after an uncorrectable error. -/
def State.lostChan (s : State) (b : Nat) : MemChannel :=
  let x := s.chan (s.chanAt (64 * b))
  { x with ue := x.ue.tick, sc := x.sc.event 1 }

/-- A burst lost: it is counted, and its granule is poisoned where the table has room. -/
theorem State.poisonBurst_counts (b : Nat) (hclean : (s.port_ (s.portAt (64 * b))).poison.contains (b / 4) = false) :
    let m := s.portAt (64 * b)
    let t := s.setChan (s.chanAt (64 * b)) (s.lostChan b)
    ((s.port_ m).poison.length < 64 → (s.poisonBurst b).Judged
      (t.setPort_ m { s.port_ m with poison := (s.port_ m).poison ++ [b / 4] }))
    ∧ (64 ≤ (s.port_ m).poison.length → (s.poisonBurst b).Judged t) := by
  intro m t
  have hgranule : 64 * b / 256 = b / 4 := by omega
  have hport : t.portAt (64 * b) = m := rfl
  have hsame : t.port_ m = s.port_ m := rfl
  have heq : s.poisonBurst b = (if (s.port_ m).poison.contains (b / 4) then t
      else if (s.port_ m).poison.length < 64 then t.setPort_ m
          { s.port_ m with poison := (s.port_ m).poison ++ [b / 4] }
      else t.retire (s.chanAt (64 * b))).weakRow (64 * b) := by
    rw [← hgranule]
    rfl
  rw [heq, if_neg (Bool.eq_false_iff.1 hclean)]
  refine ⟨fun hroom => ?_, fun hfull => ?_⟩
  · rw [if_pos hroom]
    exact State.weakRow_judged _ _
  · rw [if_neg (Nat.not_lt.2 hfull)]
    exact (State.weakRow_judged _ _).trans (State.retire_judged _ _)

variable {s} in
theorem State.readBurst_poisoned {b : Nat} (h : (s.port_ (s.portAt (64 * b))).poison.contains (b / 4) = true) :
    s.readBurst b = (s, true) := if_pos h

variable {s} in
theorem State.readBurst_bad {b : Nat} (h : (s.port_ (s.portAt (64 * b))).poison.contains (b / 4) = false)
    (hbad : s.ext.bad.contains b = true) : s.readBurst b = (s.poisonBurst b, true) :=
  (if_neg (Bool.eq_false_iff.1 h)).trans (if_pos hbad)

variable {s} in
theorem State.readBurst_weak {b : Nat} (h : (s.port_ (s.portAt (64 * b))).poison.contains (b / 4) = false)
    (hbad : s.ext.bad.contains b = false) (hweak : s.ext.weak.contains b = true) :
    s.readBurst b = (s.correctBurst b, false) :=
  (if_neg (Bool.eq_false_iff.1 h)).trans ((if_neg (Bool.eq_false_iff.1 hbad)).trans (if_pos hweak))

end

theorem burstErrors : Claims.BurstErrors := by
  intro s b a c m hclean
  refine ⟨fun hbad hweak s' hread => ?_, fun hbad => ?_⟩
  · rw [State.readBurst_weak hclean hbad hweak] at hread
    obtain ⟨x, hce, -, -, hsc, hjudged⟩ := s.correctBurst_counts b
    have hs : s.correctBurst b = s' := congrArg Prod.fst hread
    rw [hs] at hjudged
    have hchan : (State.chan { s.setChan c x with ext := { (s.setChan c x).ext with
        weak := s.ext.weak.filter (· != b) } } c) = x := s.chan_setChan c x
    refine ⟨(hjudged.ce c).trans ?_, hjudged.sc c 0 ?_, ?_, ?_⟩
    · rw [hchan, hce]
    · rw [hchan, hsc]
      exact Sc.has_event _ 0
    · rw [hjudged.weak]
      simp
    · rw [hjudged.read]
      rfl
  · obtain ⟨hroom, hfull⟩ := s.poisonBurst_counts b hclean
    rw [State.readBurst_bad hclean hbad]
    have hcounts : ∀ u : State, u.chan c = s.lostChan b → (s.poisonBurst b).Judged u →
        ((s.poisonBurst b).chan c).ue = (s.chan c).ue.tick ∧ ((s.poisonBurst b).chan c).sc.has 1 = true := by
      intro u hu hjudged
      refine ⟨(hjudged.ue c).trans ?_, hjudged.sc c 1 ?_⟩
      · rw [hu]
        rfl
      · rw [hu]
        exact Sc.has_event _ 1
    have hboth : ((s.poisonBurst b).chan c).ue = (s.chan c).ue.tick ∧ ((s.poisonBurst b).chan c).sc.has 1 = true := by
      rcases Nat.lt_or_ge (s.port_ m).poison.length 64 with h | h
      · refine hcounts _ ?_ (hroom h)
        exact s.chan_setChan c _
      · exact hcounts _ (s.chan_setChan c _) (hfull h)
    refine ⟨rfl, hboth.1, hboth.2, ?_, fun h => ?_⟩
    · rw [s.poisonBurst_read b]
    · have hpoison := (hroom h).poison m
      rw [State.port__setPort_] at hpoison
      rw [hpoison]
      simp

/-- A burst of the map that its channel still holds stands at the map's place there. -/
theorem State.burstOf_map (s : State) {c k : Nat} {i : Nat} (hi : i < 4) (hk : k < channelGranules)
    (hstays : s.movedOf c ≤ k) : s.burstOf c (4 * k + i) = some (4 * (k * 384 + c) + i) := by
  have hgranule : (4 * k + i) / 4 = k := by omega
  have hrest : (4 * k + i) % 4 = i := by omega
  unfold State.burstOf
  rw [if_pos (by omega), hgranule, hrest, if_neg (by omega)]

/-- A burst of a granule that has moved stands in the reserve of another channel. -/
theorem State.burstOf_reserve (s : State) {x k i : Nat} (hi : i < 4)
    (hx : (s.ext.retired <|> s.ext.retiring.map (fun r => r.chan)) = some x) (hmoved : k < s.movedOf x) :
    s.burstOf (if k % 383 < x then k % 383 else k % 383 + 1) (4 * (channelGranules + k / 383) + i)
      = some (4 * (k * 384 + x) + i) := by
  have hrest : (4 * (channelGranules + k / 383) + i) % 4 = i := by omega
  have hgranule : (4 * (channelGranules + k / 383) + i) / 4 - channelGranules = k / 383 := by omega
  have hindex : k / 383 * 383 + (if (if k % 383 < x then k % 383 else k % 383 + 1) < x then
      if k % 383 < x then k % 383 else k % 383 + 1 else (if k % 383 < x then k % 383 else k % 383 + 1) - 1) = k := by
    have := Nat.div_add_mod k 383
    split_ifs <;> omega
  have hother : (if k % 383 < x then k % 383 else k % 383 + 1) ≠ x := by split_ifs <;> omega
  unfold State.burstOf
  rw [if_neg (by omega), hx, Option.bind_some, hgranule, hindex, hrest, if_pos ⟨hother, hmoved⟩]

/-- Granules move from a channel that retires or has retired. -/
theorem State.moving (s : State) {c k : Nat} (h : k < s.movedOf c)
    (hone : s.ext.retired = none ∨ s.ext.retiring = none) :
    (s.ext.retired <|> s.ext.retiring.map (fun r => r.chan)) = some c := by
  unfold State.movedOf at h
  split at h
  · next hretired => rw [eq_of_beq hretired]; rfl
  · split at h
    · next r hr =>
      split at h
      · next hc =>
        have hnone : s.ext.retired = none := hone.resolve_right (by rw [hr]; exact Option.some_ne_none r)
        rw [hnone, hr, ← hc]
        rfl
      · exact absurd h (Nat.not_lt_zero _)
    · exact absurd h (Nat.not_lt_zero _)

/-- Every burst of external memory is some place of a channel that is not retired. -/
theorem State.burst_somewhere (s : State) {b : Nat} (hb : b < extEnd / 64)
    (hone : s.ext.retired = none ∨ s.ext.retiring = none) :
    ∃ c j, c < 384 ∧ j < channelBursts ∧ s.burstOf c j = some b ∧ s.ext.retired ≠ some c := by
  have hend : extEnd / 64 = 4 * (channelGranules * 384) := by decide
  have hk : b / 4 / 384 < channelGranules := by omega
  have hsplit : 4 * (b / 4 / 384 * 384 + b / 4 % 384) + b % 4 = b := by omega
  have hbursts : channelBursts = 268435456 := by decide
  have hgranules : channelGranules = 66846720 := rfl
  rcases Nat.lt_or_ge (b / 4 / 384) (s.movedOf (b / 4 % 384)) with hmoved | hstays
  · have hx := s.moving hmoved hone
    have hat := s.burstOf_reserve (Nat.mod_lt b (by decide : 0 < 4)) hx hmoved
    rw [hsplit] at hat
    refine ⟨_, _, ?_, ?_, hat, fun hretired => ?_⟩
    · split_ifs <;> omega
    · omega
    · rw [hretired] at hx
      have hc : (if b / 4 / 384 % 383 < b / 4 % 384 then b / 4 / 384 % 383 else b / 4 / 384 % 383 + 1) = b / 4 % 384 :=
        Option.some.inj hx
      split_ifs at hc <;> omega
  · have hat := s.burstOf_map (Nat.mod_lt b (by decide : 0 < 4)) hk hstays
    rw [hsplit] at hat
    refine ⟨_, _, Nat.mod_lt _ (by decide), by omega, hat, fun hretired => ?_⟩
    have hall : s.movedOf (b / 4 % 384) = channelGranules := if_pos (by rw [hretired]; exact beq_self_eq_true _)
    omega

/-- A burst without an error leaves nothing but the patrol's place. -/
theorem State.scrub_clean (s : State) (m : Nat) (hactive : s.ext.retired ≠ some (16 * (s.port_ m).patrolChan + m))
    (hclean : ∀ b, s.burstOf (16 * (s.port_ m).patrolChan + m) (s.port_ m).patrolBurst = some b →
      s.readBurst b = (s, false)) : s.scrub m = s.setPort_ m (s.port_ m).patrolOn := by
  have hstays : ¬s.isRetired (16 * (s.port_ m).patrolChan + m) = true := fun h => hactive (eq_of_beq h)
  unfold State.scrub
  dsimp only
  rw [if_neg hstays]
  split
  · next b hb => rw [hclean b hb]
  · rfl

theorem patrolRuns (s : State) (m : Fin 16) :
    let p := s.port_ m.val
    let c := 16 * p.patrolChan + m.val
    let goes := fun (q : MemPort) => ∃ s', exec (.patrolScrub m) s = .next s' ∧ s'.port_ m.val = q
      ∧ (∀ k, k ≠ m.val → s'.port_ k = s.port_ k) ∧ s' = { s with ext := { s.ext with ports := s'.ext.ports } }
    s.memUp m.val = true → p.repairing = false → s.fabricOpen = false →
      (s.ext.retired ≠ some c → (∀ b, s.burstOf c p.patrolBurst = some b → s.readBurst b = (s, false)) →
        goes p.patrolOn)
      ∧ (s.ext.retired = some c → goes { p with patrolBurst := 0, patrolChan := (p.patrolChan + 1) % 24 }) := by
  intro p c goes hup hidle hopen
  have hready : (s.memUp m.val && !(s.port_ m.val).repairing && !s.fabricOpen) = true := by
    rw [hup, hopen, show (s.port_ m.val).repairing = false from hidle]
    rfl
  have hgoes : ∀ q, s.scrub m.val = s.setPort_ m.val q → goes q := by
    intro q hq
    have hrun : exec (.patrolScrub m) s = .next (s.setPort_ m.val q) :=
      (congrArg s.happens (if_pos hready)).trans (congrArg Host.Outcome.next hq)
    exact ⟨_, hrun, s.port__setPort_ _ _, fun k hk => s.port__setPort__other _ hk, rfl⟩
  exact ⟨fun hactive hclean => hgoes _ (s.scrub_clean m.val hactive hclean),
    fun hretired => hgoes _ (if_pos (beq_iff_eq.2 hretired))⟩

theorem patrolReadsEveryBurst : Claims.PatrolReadsEveryBurst := by
  refine ⟨fun s m => ⟨patrolRuns s m, fun hopen => ?_⟩, fun s b hb hone => ?_⟩
  · refine congrArg s.happens (if_neg ?_)
    rw [hopen]
    simp
  · obtain ⟨c, j, hc, hj, hat, hactive⟩ := s.burst_somewhere hb hone
    have hsplit : 16 * (c / 16) + c % 16 = c := Nat.div_add_mod c 16
    refine ⟨c % 16, c / 16, j, Nat.mod_lt _ (by decide), by omega, hj, ?_, ?_⟩
    · rw [hsplit, hat]
    · rw [hsplit]
      exact hactive

/-- Settles O34: by the counts of a burst's error, and by the place of each burst on a channel. -/
theorem externalMemoryErrors : Obligations.ExternalMemoryErrors :=
  ⟨burstErrors, patrolReadsEveryBurst⟩

end Sys2Proof.Machine
end

section
/-! PROOF. Row redirects, MEM_REPAIR, and the retirement of a channel. -/

namespace Sys2Proof.Machine

open Sys2Proof

/-- Bursts corrected one after another: their marks are gone, and memory is as before. -/
theorem foldl_correctBurst (bs : List Nat) (s : State) :
    (bs.foldl State.correctBurst s).ext.weak = s.ext.weak.filter (fun b => !bs.contains b)
      ∧ (bs.foldl State.correctBurst s).OnlyRead s := by
  induction bs generalizing s with
  | nil => exact ⟨(List.filter_eq_self.2 fun _ _ => rfl).symm, rfl⟩
  | cons b bs ih =>
    obtain ⟨x, -, -, -, -, hjudged⟩ := s.correctBurst_counts b
    have hweak : (s.correctBurst b).ext.weak = s.ext.weak.filter (· != b) := hjudged.weak
    obtain ⟨hrest, hread⟩ := ih (s.correctBurst b)
    refine ⟨?_, hread.trans (s.correctBurst_read b)⟩
    rw [List.foldl_cons, hrest, hweak, List.filter_filter]
    refine List.filter_congr fun y _ => ?_
    rw [List.contains_cons, Bool.not_or, Bool.and_comm]
    rfl

/-- A repair reported changes the logs alone. -/
theorem State.repair_frame (s : State) (status die what : Nat) :
    ∃ logs, s.repair status die what = { s with logs := logs } ∧ logs.mcount = s.logs.mcount.tick :=
  ⟨_, s.toEq0Log_frame _, s.toEq0Log_mcount _⟩

/-- The redirect entries of a die once the copy of one is done. -/
def MemPort.redirected (p : MemPort) (r : Redirect) : MemPort :=
  { p with redirects := p.redirects.map (fun y => if y = r then { y with done := true } else y) }

/-- A copy completes: the correctable bursts of the row are corrected, and the entry and the channel show it. -/
theorem State.redirectDone_spec (s : State) (m : Nat) (r : Redirect) :
    let t := (s.ext.weak.filter (s.inRow m r)).foldl State.correctBurst s
    ∃ x logs, x.sc.has 2 = true ∧ logs.mcount = t.logs.mcount.tick
      ∧ s.redirectDone m r = { (t.setPort_ m ((t.port_ m).redirected r)).setChan (16 * r.chan + m) x with
          logs := logs } := by
  intro t
  obtain ⟨logs, hlogs, hcount⟩ := ((t.setPort_ m ((t.port_ m).redirected r)).setChan (16 * r.chan + m)
    { t.chan (16 * r.chan + m) with sc := (t.chan (16 * r.chan + m)).sc.event 2 }).repair_frame 3 (32 + m) r.row
  exact ⟨_, logs, Sc.has_event _ 2, hcount, hlogs⟩

/-- The redirect entries of a die that a MEM_REPAIR leaves. -/
def MemPort.repaired (p : MemPort) : MemPort :=
  { p with repairing := false, redirects := p.redirects.filter (fun r => !r.done) }

theorem State.memRepaired_spec (s : State) (m : Nat) : ∃ flash, s.memRepaired m =
    { s.setPort_ m (s.port_ m).repaired with boot := { s.boot with flash := flash } } :=
  (s.setPort_ m (s.port_ m).repaired).dropRepairs_frame _

theorem redirectAndRepair : Claims.RedirectAndRepair := by
  intro s m p
  refine ⟨fun r hup hfind => ?_, fun hmanaging hup => ⟨fun hidle => ?_, fun hbusy => ?_⟩, fun hbusy => ?_⟩
  · have hrun : exec (.rowRedirectDone m) s = .next (s.redirectDone m.val r) := by
      refine (congrArg s.happens (if_pos hup)).trans ?_
      rw [show (s.port_ m.val).redirects.find? (fun x => !x.done) = some r from hfind]
      rfl
    obtain ⟨hweak, hread⟩ := foldl_correctBurst (s.ext.weak.filter (s.inRow m.val r)) s
    have hnil : s.ext.weak.filter (s.inRow m.val r) = [] →
        (s.ext.weak.filter (s.inRow m.val r)).foldl State.correctBurst s = s := fun h => by rw [h]; rfl
    obtain ⟨x, logs, hx, hcount, hdone⟩ := s.redirectDone_spec m.val r
    rw [hdone] at hrun
    generalize (s.ext.weak.filter (s.inRow m.val r)).foldl State.correctBurst s = t at *
    refine ⟨_, hrun, ?_, ?_, fun b hb => ?_, fun hrow => ⟨?_, ?_, fun k hk => ?_⟩⟩
    · show t.mem = s.mem
      rw [hread]
    · exact (congrArg (fun x : MemChannel => x.sc.has 2) (State.chan_setChan _ _ x)).trans hx
    · show t.ext.weak.contains b = false
      rw [hweak, Bool.eq_false_iff, Ne, List.contains_iff_mem, List.mem_filter]
      rintro ⟨hmem, hno⟩
      rw [List.contains_iff_mem.2 (List.mem_filter.2 ⟨hmem, hb⟩)] at hno
      cases hno
    · rw [hnil hrow]
      exact congrArg MemPort.redirects (s.port__setPort_ m.val (p.redirected r))
    · rw [hnil hrow] at hcount
      exact hcount
    · rw [hnil hrow]
      exact s.port__setPort__other _ hk
  · have hmem : s.memRepair m.val = (s.setPort_ m.val { p with repairing := true }).answer .ok := by
      refine (if_neg ?_).trans (if_neg (Bool.eq_false_iff.1 hidle))
      rw [hup]
      exact Bool.false_ne_true
    refine ⟨_, (State.managed_up _ _ hmanaging).trans (congrArg Host.Outcome.next hmem), rfl, s.port__setPort_ _ _, rfl,
      fun k hk => s.port__setPort__other _ hk⟩
  · have hmem : s.memRepair m.val = s.answer .busy := by
      refine (if_neg ?_).trans (if_pos hbusy)
      rw [hup]
      exact Bool.false_ne_true
    exact (State.managed_up _ _ hmanaging).trans (congrArg Host.Outcome.next hmem)
  · have hrun : exec (.memRepairEnd m) s = .next (s.memRepaired m.val) := congrArg s.happens (if_pos hbusy)
    obtain ⟨flash, hflash⟩ := s.memRepaired_spec m.val
    rw [hflash] at hrun
    exact ⟨_, hrun, s.port__setPort_ _ _, rfl, fun k hk => s.port__setPort__other _ hk⟩

/-! Retirement. -/

/-- Between two states the retirement of a channel, the uncorrectable marks and the counts of moved granules stand. -/
structure State.SameRetirement (t s : State) : Prop where
  retiring : t.ext.retiring = s.ext.retiring
  retired : t.ext.retired = s.ext.retired
  bad : t.ext.bad = s.ext.bad
  migrated : ∀ k, (t.chan k).migrated = (s.chan k).migrated

section
variable (s : State)

variable {s} in
theorem State.SameRetirement.trans {t u : State} (htu : u.SameRetirement t) (hst : t.SameRetirement s) :
    u.SameRetirement s where
  retiring := htu.retiring.trans hst.retiring
  retired := htu.retired.trans hst.retired
  bad := htu.bad.trans hst.bad
  migrated k := (htu.migrated k).trans (hst.migrated k)

variable {s} in
theorem State.Judged.sameRetirement {t : State} (h : t.Judged s) (hretiring : s.ext.retiring.isSome = true) :
    t.SameRetirement s where
  retiring := (h.retires hretiring).1
  retired := h.retired
  bad := h.bad
  migrated k := by rw [(h.retires hretiring).2 k]

theorem State.setChan_migrated (c : Nat) {x : MemChannel} (hx : x.migrated = (s.chan c).migrated) (k : Nat) :
    ((s.setChan c x).chan k).migrated = (s.chan k).migrated := by
  rcases Classical.em (k = c) with rfl | hk
  · rw [State.chan_setChan, hx]
  · rw [State.chan_setChan_other _ _ hk]

/-- A read of a burst while a channel retires: the retirement stands; a full table takes no granule; a burst whose
granule is
poisoned changes nothing. -/
theorem State.readBurst_retiring (b : Nat) (hretiring : s.ext.retiring.isSome = true) :
    (s.readBurst b).1.SameRetirement s
      ∧ ((s.port_ (s.portAt (64 * b))).poison.contains (b / 4) = true → (s.readBurst b).1 = s)
      ∧ (64 ≤ (s.port_ (s.portAt (64 * b))).poison.length →
          ∀ m, ((s.readBurst b).1.port_ m).poison = (s.port_ m).poison) := by
  cases hpoison : (s.port_ (s.portAt (64 * b))).poison.contains (b / 4)
  swap
  · rw [State.readBurst_poisoned hpoison]
    exact ⟨⟨rfl, rfl, rfl, fun _ => rfl⟩, fun _ => rfl, fun _ _ => rfl⟩
  cases hbad : s.ext.bad.contains b
  swap
  · obtain ⟨hroom, hfull⟩ := s.poisonBurst_counts b hpoison
    have hsame : ∀ k, ((s.setChan (s.chanAt (64 * b)) (s.lostChan b)).chan k).migrated = (s.chan k).migrated :=
      s.setChan_migrated _ rfl
    rw [State.readBurst_bad hpoison hbad]
    refine ⟨?_, fun h => Bool.noConfusion h, fun hlen m => (hfull hlen).poison m⟩
    rcases Nat.lt_or_ge (s.port_ (s.portAt (64 * b))).poison.length 64 with hlen | hlen
    · exact ((hroom hlen).sameRetirement hretiring).trans ⟨rfl, rfl, rfl, hsame⟩
    · exact ((hfull hlen).sameRetirement hretiring).trans ⟨rfl, rfl, rfl, hsame⟩
  cases hweak : s.ext.weak.contains b
  · have hread : s.readBurst b = (s, false) := (if_neg (Bool.eq_false_iff.1 hpoison)).trans
      ((if_neg (Bool.eq_false_iff.1 hbad)).trans (if_neg (Bool.eq_false_iff.1 hweak)))
    rw [hread]
    exact ⟨⟨rfl, rfl, rfl, fun _ => rfl⟩, fun _ => rfl, fun _ _ => rfl⟩
  · obtain ⟨x, -, -, hmigrated, -, hjudged⟩ := s.correctBurst_counts b
    rw [State.readBurst_weak hpoison hbad hweak]
    exact ⟨(hjudged.sameRetirement hretiring).trans ⟨rfl, rfl, rfl, s.setChan_migrated _ hmigrated⟩,
      fun h => Bool.noConfusion h, fun _ m => hjudged.poison m⟩

/-- Bursts of one granule read while a channel retires. -/
theorem foldl_readBurst {g : Nat} (bs : List Nat) (hbs : ∀ b ∈ bs, b / 4 = g)
    (hretiring : s.ext.retiring.isSome = true) :
    let t := bs.foldl (fun s b => (s.readBurst b).1) s
    t.SameRetirement s ∧ t.OnlyRead s
      ∧ ((s.port_ (s.portAt (256 * g))).poison.contains g = true → t = s)
      ∧ (64 ≤ (s.port_ (s.portAt (256 * g))).poison.length → ∀ m, (t.port_ m).poison = (s.port_ m).poison)
      ∧ ((∀ b ∈ bs, s.readBurst b = (s, false)) → t = s) := by
  induction bs generalizing s with
  | nil => exact ⟨⟨rfl, rfl, rfl, fun _ => rfl⟩, rfl, fun _ => rfl, fun _ _ => rfl, fun _ => rfl⟩
  | cons b bs ih =>
    have hb : b / 4 = g := hbs b List.mem_cons_self
    have hgranule : 64 * b / 256 = 256 * g / 256 := by omega
    have hport : s.portAt (64 * b) = s.portAt (256 * g) := by
      unfold State.portAt State.chanAt
      rw [hgranule]
    obtain ⟨hsame, hpoisoned, hfull⟩ := s.readBurst_retiring b hretiring
    have hread := s.readBurst_read b
    rw [hport, hb] at hpoisoned
    rw [hport] at hfull
    rw [List.foldl_cons]
    dsimp only
    obtain ⟨hsame', hread', hpoisoned', hfull', hclean'⟩ := ih (s.readBurst b).1
      (fun y hy => hbs y (List.mem_cons_of_mem _ hy)) (by rw [hsame.retiring, hretiring])
    have hport' : (s.readBurst b).1.portAt (256 * g) = s.portAt (256 * g) := by
      unfold State.portAt State.chanAt
      rw [State.placeOf_congr hsame.retired hsame.retiring]
    rw [hport'] at hfull' hpoisoned'
    refine ⟨hsame'.trans hsame, hread'.trans hread, fun h => ?_, fun h m => ?_, fun h => ?_⟩
    · have hstay := hpoisoned h
      rw [hstay] at hpoisoned' ⊢
      exact hpoisoned' h
    · rw [hfull' (by rw [hfull h]; exact h) m, hfull h m]
    · have hstay : (s.readBurst b).1 = s := congrArg Prod.fst (h b List.mem_cons_self)
      rw [hstay] at hclean' ⊢
      exact hclean' fun y hy => h y (List.mem_cons_of_mem _ hy)

/-! The poison of a granule that moves. -/

theorem State.movePoison_frame (g was now : Nat) : ∃ ports bad, s.movePoison g was now =
    { s with ext := { s.ext with ports := ports, bad := bad } } := by
  unfold State.movePoison
  dsimp only
  split_ifs <;> exact ⟨_, _, rfl⟩

theorem State.movePoison_clean {g was : Nat} (now : Nat) (h : (s.port_ was).poison.contains g = false) :
    s.movePoison g was now = s := if_neg (Bool.eq_false_iff.1 h)

/-- The table of the die that a poisoned granule leaves. -/
def MemPort.without (p : MemPort) (g : Nat) : MemPort := { p with poison := p.poison.filter (· != g) }

theorem State.movePoison_poisoned {g was now : Nat} (h : (s.port_ was).poison.contains g = true) :
    let t := s.setPort_ was ((s.port_ was).without g)
    s.movePoison g was now = if (t.port_ now).poison.length < 64 then
        t.setPort_ now { t.port_ now with poison := (t.port_ now).poison ++ [g] }
      else { t with ext := { t.ext with bad := t.ext.bad ++ (List.range 4).map (4 * g + ·) } } := if_pos h

/-- A poisoned granule is poisoned in the table of its new die, where that has room. -/
theorem State.movePoison_room {g was now : Nat} (h : (s.port_ was).poison.contains g = true)
    (hroom : (s.port_ now).poison.length < 64) : ((s.movePoison g was now).port_ now).poison.contains g = true := by
  have hmove := s.movePoison_poisoned (now := now) h
  dsimp only at hmove
  have hlength : ((s.setPort_ was ((s.port_ was).without g)).port_ now).poison.length < 64 := by
    rcases Classical.em (now = was) with rfl | hother
    · rw [State.port__setPort_]
      exact Nat.lt_of_le_of_lt (List.length_filter_le _ _) hroom
    · rw [State.port__setPort__other _ _ hother]
      exact hroom
  rw [hmove, if_pos hlength, State.port__setPort_]
  simp

/-- Where the table of its new die is full, its bursts stay uncorrectable. -/
theorem State.movePoison_full {g was now : Nat} (h : (s.port_ was).poison.contains g = true)
    (hfull : 64 ≤ (s.port_ now).poison.length) (hother : now ≠ was) {i : Nat} (hi : i < 4) :
    (s.movePoison g was now).ext.bad.contains (4 * g + i) = true := by
  have hmove := s.movePoison_poisoned (now := now) h
  dsimp only at hmove
  rw [State.port__setPort__other _ _ hother, if_neg (Nat.not_lt.2 hfull)] at hmove
  rw [hmove, List.contains_iff_mem, List.mem_append]
  exact .inr (List.mem_map.2 ⟨i, List.mem_range.2 hi, rfl⟩)

end

/-- Where the granules lie once one more of the retiring channel has moved. -/
theorem State.chanAt_moved {s t : State} {r : Retiring} (hchan : r.chan < 384) (hretiring : s.ext.retiring = some r)
    (hretired : s.ext.retired = none) (hnext : t.ext.retiring = some { r with pointer := r.pointer + 1 })
    (hsame : t.ext.retired = none) :
    t.chanAt (256 * (r.pointer * 384 + r.chan)) ≠ r.chan
      ∧ ∀ h, h ≠ r.pointer * 384 + r.chan → t.chanAt (256 * h) = s.chanAt (256 * h) := by
  have hmoved : ∀ c, s.movedOf c = if r.chan = c then r.pointer else 0 := fun c => by
    unfold State.movedOf
    rw [hretired, hretiring]
    rfl
  have hmoved' : ∀ c, t.movedOf c = if r.chan = c then r.pointer + 1 else 0 := fun c => by
    unfold State.movedOf
    rw [hsame, hnext]
    rfl
  refine ⟨?_, fun h hne => ?_⟩
  · have hgranule : 256 * (r.pointer * 384 + r.chan) / 256 = r.pointer * 384 + r.chan := by omega
    have hc : (r.pointer * 384 + r.chan) % 384 = r.chan := by omega
    have hk : (r.pointer * 384 + r.chan) / 384 = r.pointer := by omega
    unfold State.chanAt State.placeOf
    rw [hgranule]
    dsimp only
    rw [hmoved', hc, hk, if_pos rfl]
    rw [if_pos (Nat.lt_succ_self _)]
    dsimp only
    split_ifs <;> omega
  · have hgranule : 256 * h / 256 = h := by omega
    unfold State.chanAt State.placeOf
    rw [hgranule]
    dsimp only
    rw [hmoved', hmoved]
    rcases Classical.em (r.chan = h % 384) with hc | hc
    · have hk : (h / 384 < r.pointer + 1) = (h / 384 < r.pointer) := by
        apply propext
        omega
      simp only [if_pos hc, hk]
    · simp only [if_neg hc]

/-- The state in which a granule has been read and the pointer advances. -/
def State.advanced (s : State) (r : Retiring) (kept : Bool) : State :=
  let g := r.pointer * 384 + r.chan
  let x := s.chan r.chan
  State.setChan { s with ext := { s.ext with
    bad := s.ext.bad.filter (fun b => b / 4 != g || !kept), retiring := some { r with pointer := r.pointer + 1 } } }
    r.chan { x with migrated := x.migrated.tick }

/-- The four bursts of a granule, read in order. -/
def State.readGranule (s : State) (g : Nat) : State :=
  ((List.range 4).map (4 * g + ·)).foldl (fun s b => (s.readBurst b).1) s

theorem State.migrate_eq (s : State) (r : Retiring) :
    let g := r.pointer * 384 + r.chan
    let t := s.readGranule g
    let u := t.advanced r ((t.port_ (r.chan % 16)).poison.contains g)
    s.migrate r = u.movePoison g (r.chan % 16) (u.portAt (256 * g)) := by
  intro g
  unfold State.migrate State.readGranule
  dsimp only
  generalize List.foldl _ s _ = t
  rfl

theorem granuleMoves (s : State) (r : Retiring) (hretiring : s.ext.retiring = some r) (hchan : r.chan < 384)
    (hretired : s.ext.retired = none) :
    let g := r.pointer * 384 + r.chan
    let s' := s.migrate r
    s'.ext.retiring = some { chan := r.chan, pointer := r.pointer + 1 }
      ∧ (s'.chan r.chan).migrated = (s.chan r.chan).migrated.tick ∧ s'.mem = s.mem
      ∧ s'.chanAt (256 * g) ≠ r.chan ∧ (∀ h, h ≠ g → s'.chanAt (256 * h) = s.chanAt (256 * h))
      ∧ ((s.port_ (r.chan % 16)).poison.contains g = true →
          ((s.port_ (s'.portAt (256 * g))).poison.length < 64 →
            (s'.port_ (s'.portAt (256 * g))).poison.contains g = true)
          ∧ (64 ≤ (s.port_ (s'.portAt (256 * g))).poison.length → s'.portAt (256 * g) ≠ r.chan % 16 →
            ∀ i, i < 4 → s'.ext.bad.contains (4 * g + i) = true))
      ∧ ((s.port_ (r.chan % 16)).poison.contains g = false → 64 ≤ (s.port_ (r.chan % 16)).poison.length →
          ∀ i, i < 4 → s.ext.bad.contains (4 * g + i) = true → s'.ext.bad.contains (4 * g + i) = true)
      ∧ ((∀ i, i < 4 → s.readBurst (4 * g + i) = (s, false)) →
          s'.chan r.chan = { s.chan r.chan with migrated := (s.chan r.chan).migrated.tick }
          ∧ (∀ k, k ≠ r.chan → s'.chan k = s.chan k) ∧ s'.ext.ports = s.ext.ports) := by
  intro g s'
  have hmigrate : s' = _ := s.migrate_eq r
  have hbursts : ∀ b ∈ (List.range 4).map (4 * g + ·), b / 4 = g := by
    intro b hb
    obtain ⟨i, hi, rfl⟩ := List.mem_map.1 hb
    have := List.mem_range.1 hi
    omega
  have hgranule : 256 * g / 256 = g := by omega
  have hhere : s.portAt (256 * g) = r.chan % 16 := by
    have hc : g % 384 = r.chan := by omega
    have hk : g / 384 = r.pointer := by omega
    have hmoved : s.movedOf r.chan = r.pointer := by
      unfold State.movedOf
      rw [hretired, hretiring]
      exact if_pos rfl
    unfold State.portAt State.chanAt State.placeOf
    rw [hgranule]
    dsimp only
    rw [hc, hk, hmoved, if_neg (Nat.lt_irrefl _)]
  obtain ⟨hsame, hread, hpoisoned, hfull, hclean⟩ := foldl_readBurst s _ hbursts (by rw [hretiring]; rfl)
  have ht : s.readGranule g = ((List.range 4).map (4 * g + ·)).foldl (fun s b => (s.readBurst b).1) s := rfl
  rw [hhere] at hpoisoned hfull
  rw [← ht] at hsame hread hpoisoned hfull hclean
  rw [show r.pointer * 384 + r.chan = g from rfl] at hmigrate
  generalize s.readGranule g = t at *
  generalize hkept : (t.port_ (r.chan % 16)).poison.contains g = kept at *
  have hnext : (t.advanced r kept).ext.retiring = some { r with pointer := r.pointer + 1 } := rfl
  have hchans : ∀ k, (t.advanced r kept).chan k = if k = r.chan then
      { t.chan r.chan with migrated := (t.chan r.chan).migrated.tick } else t.chan k := by
    intro k
    split
    · next hk => rw [hk]; exact State.chan_setChan _ _ _
    · next hk => exact State.chan_setChan_other _ _ hk
  have hbad : (t.advanced r kept).ext.bad = t.ext.bad.filter (fun b => b / 4 != g || !kept) := rfl
  have hports : (t.advanced r kept).ext.ports = t.ext.ports := rfl
  have hport_ : ∀ k, (t.advanced r kept).port_ k = t.port_ k := fun _ => rfl
  have hmem : (t.advanced r kept).mem = s.mem := by
    show t.mem = s.mem
    rw [hread]
  have hgone : (t.advanced r kept).ext.retired = none := hsame.retired.trans hretired
  generalize t.advanced r kept = u at *
  obtain ⟨ports, bad, hframe⟩ := u.movePoison_frame g (r.chan % 16) (u.portAt (256 * g))
  have hstate : s' = { u with ext := { u.ext with ports := ports, bad := bad } } := hmigrate.trans hframe
  have hnow : s'.portAt (256 * g) = u.portAt (256 * g) := by rw [hstate]; rfl
  have hchan' : ∀ k, s'.chan k = u.chan k := fun k => by rw [hstate]; rfl
  obtain ⟨hleaves, hothers⟩ := State.chanAt_moved (t := s') hchan hretiring hretired (by rw [hstate]; exact hnext)
    (by rw [hstate]; exact hgone)
  refine ⟨by rw [hstate]; exact hnext, ?_, by rw [hstate]; exact hmem, hleaves, hothers, fun hpoison => ?_,
    fun hfree hlong i hi hin => ?_, fun hnone => ?_⟩
  · rw [hchan', hchans, if_pos rfl, ← hsame.migrated r.chan]
  · have hsource : (u.port_ (r.chan % 16)).poison.contains g = true := by rw [hport_, hpoisoned hpoison, hpoison]
    rw [hnow, hmigrate, ← hpoisoned hpoison]
    simp only [← hport_]
    exact ⟨fun hroom => u.movePoison_room hsource hroom, fun hlong hother i hi =>
        u.movePoison_full hsource hlong hother hi⟩
  · have hkeep : kept = false := by rw [← hkept, hfull hlong, hfree]
    have hstays : s' = u := hmigrate.trans (u.movePoison_clean _ (by rw [hport_, hkept, hkeep]))
    rw [hstays, hbad, hkeep, hsame.bad]
    simpa using hin
  · have hclean' : t = s := hclean fun b hb => by
      obtain ⟨i, hi, rfl⟩ := List.mem_map.1 hb
      exact hnone i (List.mem_range.1 hi)
    have hkeep : kept = false := by
      cases hk : kept
      · rfl
      · have hwhere : s.portAt (64 * (4 * g + 0)) = r.chan % 16 := by
          rw [← hhere, show 64 * (4 * g + 0) = 256 * g by omega]
        have hlost : s.readBurst (4 * g + 0) = (s, true) := State.readBurst_poisoned (by
          rw [hwhere, show (4 * g + 0) / 4 = g by omega, ← hclean', hkept, hk])
        rw [hnone 0 (by decide)] at hlost
        cases hlost
    have hstays : s' = u := hmigrate.trans (u.movePoison_clean _ (by rw [hport_, hkept, hkeep]))
    rw [hstays, hports, hclean', hchans, if_pos rfl, hclean']
    refine ⟨rfl, fun k hk => ?_, rfl⟩
    rw [hchans, if_neg hk, hclean']

theorem channelRetirement : Claims.ChannelRetirement := by
  intro s c
  refine ⟨fun hc hmanaging hup => ⟨fun hnone hgone => ?_, fun hone => ?_⟩, fun r hr => ⟨fun hp hup hchan hgone => ?_,
    fun hend => ?_⟩⟩
  · have hfree : (s.ext.retiring.isSome || s.ext.retired.isSome) = false := by rw [hnone, hgone]; rfl
    have hrun : exec (.channelRetire c) s = .next ((s.retire c).answer .ok) := by
      refine (if_pos (decide_eq_true hc)).trans ((State.managed_up _ _ hmanaging).trans
        (congrArg Host.Outcome.next (if_neg ?_)))
      rw [hfree, hup]
      exact Bool.false_ne_true
    obtain ⟨logs, hretire⟩ := s.retire_begins c hfree
    rw [hretire] at hrun
    exact ⟨_, hrun, rfl, congrArg MemChannel.state (s.chan_setChan c _), rfl, rfl, fun k hk =>
        s.chan_setChan_other _ hk⟩
  · refine (if_pos (decide_eq_true hc)).trans ((State.managed_up _ _ hmanaging).trans
      (congrArg Host.Outcome.next (if_pos ?_)))
    rcases hone with h | h
    · rw [Option.isSome_iff_ne_none.2 h]
      rfl
    · rw [Option.isSome_iff_ne_none.2 h, Bool.or_true]
      rfl
  · intro g
    have hrun : exec .granuleMigrated s = .next (s.migrate r) := by
      have hdef : exec .granuleMigrated s = execGranuleMigrated s := rfl
      rw [hdef, execGranuleMigrated, hr]
      dsimp only
      rw [if_pos ⟨hp, hup⟩]
      rfl
    exact ⟨_, hrun, granuleMoves s r hr hchan hgone⟩
  · have hrun : exec .channelRetired s = .next (s.retired r.chan) := by
      have hdef : exec .channelRetired s = execChannelRetired s := rfl
      rw [hdef, execChannelRetired, hr]
      dsimp only
      rw [if_pos hend]
      rfl
    obtain ⟨logs, hlogs, hcount⟩ := State.repair_frame { s.setChan r.chan { s.chan r.chan with state := .retired } with
      ext := { (s.setChan r.chan { s.chan r.chan with state := .retired }).ext with
        retiring := none, retired := some r.chan } } 5 (32 + r.chan % 16) r.chan
    have hdone : s.retired r.chan = _ := hlogs
    rw [hdone] at hrun
    exact ⟨_, hrun, rfl, rfl, congrArg MemChannel.state (s.chan_setChan r.chan _), hcount, rfl,
      fun k hk => s.chan_setChan_other _ hk⟩

/-- Settles O35: by what corrected bursts leave, and by the place of each granule while its channel retires. -/
theorem memoryRepairAndRetirement : Obligations.MemoryRepairAndRetirement :=
  ⟨redirectAndRepair, channelRetirement⟩

end Sys2Proof.Machine
end

section
/-! PROOF. Fabric accesses to external memory, and refused accesses. -/

namespace Sys2Proof.Machine

open Sys2Proof

/-- An access refused: what it answers and where it is entered. -/
theorem State.refuse_spec (s : State) (o : Origin) (e a n : Nat) (write : Bool) :
    let t := s.refuse o e a n write
    let die := s.loggingDie o e (s.blameAt e a n)
    t.vlog die = (s.vlog die).enter { plainViolation e a o (b2n write) with strike := s.strike }
      ∧ (∀ d, d ≠ die → t.vlog d = s.vlog d) ∧ t.logs.mcount = s.logs.mcount.tick ∧ t.logs.eqs = s.logs.eqs
      ∧ t = { s with logs := t.logs, out := { s.out with resp := some (.error e) } } :=
  ⟨Assoc.get_set_same _ _ _ _, fun _ hd => Assoc.get_set_other _ _ _ hd, rfl, rfl, rfl⟩

/-- An access that is refused and repeated by nobody: its requests leave the queues. -/
@[reducible] def State.withdrawn (s : State) (o : Origin) (a n : Nat) : State :=
  s.dropAccesses (fun x b m => x == o && b == a && m == n)

/-- An answer that is no data moves no frame. -/
theorem State.transmit_error (s : State) (o : Origin) {e : Nat} (h : s.out.resp = some (.error e)) :
    s.transmit o = s := by
  unfold State.transmit
  rw [h]
  cases o <;> rfl

theorem State.fabric_reg (s : State) {o : Origin} {a n e : Nat} {data : Option (List Byte)}
    (hspace : inRegSpace a = true)
    (hparty : o ≠ .operator) (hdie : s.dieWaits a = false) (hcause : s.accessCause o .plain a n data.isSome = some e) :
    s.fabric o a n data = s.refuse o e a n data.isSome := by
  have hopen : s.endpointOpen o a data.isSome = true := by
    rw [State.endpointOpen, bne_iff_ne.2 hparty, Bool.true_or]
  unfold State.fabric State.accessReg State.endpoint
  rw [if_pos hspace, if_pos hopen, if_neg (Bool.eq_false_iff.1 hdie), hcause]

theorem State.fabric_refused (s : State) {o : Origin} {a n e : Nat} {data : Option (List Byte)}
    (hspace : inRegSpace a = false) (hparty : o ≠ .operator) (hlength : ∀ bs, data = some bs → bs.length = n)
    (hdie : s.dieWaits a = false) (hcause : s.accessCause o .plain a n data.isSome = some e) :
    s.fabric o a n data = (s.withdrawn o a n).refuse o e a n data.isSome := by
  have hbad : ((s.accessCause o .plain a n data.isSome).isSome && !s.dieWaits a) = true := by
    rw [hcause, hdie]
    rfl
  have hdie' : (s.withdrawn o a n).dieWaits a = false := hdie
  have hcause' : (s.withdrawn o a n).accessCause o .plain a n data.isSome = some e := hcause
  unfold State.fabric
  rw [if_neg (Bool.eq_false_iff.1 hspace), if_neg (by simpa using hparty)]
  dsimp only
  rw [hbad, if_pos rfl, Bool.true_or, Bool.true_or, if_pos rfl]
  cases data with
  | none =>
    have hread : (s.withdrawn o a n).readAccess o .plain a n = (s.withdrawn o a n).refuse o e a n false := by
      unfold State.readAccess
      rw [if_neg (Bool.eq_false_iff.1 hdie'), show (s.withdrawn o a n).accessCause o .plain a n false
          = some e from hcause']
    dsimp only
    rw [hread]
    exact State.transmit_error _ o rfl
  | some bs =>
    have hn := hlength bs rfl
    dsimp only
    unfold State.writeAccess
    rw [hn, if_neg (Bool.eq_false_iff.1 hdie'), show (s.withdrawn o a n).accessCause o .plain a n true
        = some e from hcause']
    rfl

theorem refusedAccess : Claims.RefusedAccess := by
  intro s o a n e data hexists hparty hlength hpos hdie hcause
  have hcount : (data.map List.length).getD n = n := by
    rcases hlength with rfl | ⟨bs, rfl, h⟩
    · rfl
    · exact h
  have hrun : exec (.fabricAccess o a n data) s = .next (s.fabric o a n data) := by
    have hdef : exec (.fabricAccess o a n data) s = execFabricAccess o a n data s := rfl
    rw [hdef, execFabricAccess, if_pos hexists, hcount]
    dsimp only
    rw [if_pos hpos]
    rfl
  rw [hrun]
  cases hspace : inRegSpace a
  · have hbytes : ∀ bs, data = some bs → bs.length = n := by
      rintro bs rfl
      exact hcount
    rw [s.fabric_refused hspace hparty hbytes hdie hcause]
    obtain ⟨hself, hother, hrecord, heqs, hframe⟩ := (s.withdrawn o a n).refuse_spec o e a n data.isSome
    generalize (s.withdrawn o a n).refuse o e a n data.isSome = t at *
    have hresp : t.out.resp = some (.error e) := by rw [hframe]
    refine ⟨_, rfl, hresp, ⟨hself, hother⟩, hrecord, ?_, ?_, ?_, ?_, heqs⟩
    all_goals
      rw [hframe]
      rfl
  · rw [s.fabric_reg hspace hparty hdie hcause]
    obtain ⟨hself, hother, hrecord, heqs, hframe⟩ := s.refuse_spec o e a n data.isSome
    generalize s.refuse o e a n data.isSome = t at *
    refine ⟨_, rfl, ?_, ⟨hself, hother⟩, hrecord, ?_, ?_, ?_, ?_, heqs⟩
    all_goals rw [hframe]

/-- A write to external memory clears the uncorrectable marks of the bursts that it writes whole, and sets none. -/
theorem State.extWrite_bad (s : State) {a : Nat} {bs : List Byte} (h : a + bs.length ≤ windowBase) :
    (s.extWrite a bs).ext.bad = s.ext.bad.filter (fun b => !(whole 64 a bs.length b)) := by
  have hfold : ∀ gs : List Nat, (gs.foldl (fun s g => s.unpoisoned a bs.length g) s).ext.bad = s.ext.bad := by
    intro gs
    induction gs generalizing s with
    | nil => rfl
    | cons g gs ih =>
      have hone : (s.unpoisoned a bs.length g).ext.bad = s.ext.bad := by
        unfold State.unpoisoned
        dsimp only
        split <;> rfl
      rw [List.foldl_cons, ih, hone]
  have hrenewed : (s.renewed a bs.length).ext.bad = s.ext.bad.filter (fun b => !(whole 64 a bs.length b)) := by
    unfold State.renewed
    dsimp only
    rw [hfold]
  rw [State.extWrite_eq, State.putBytes_low _ h]
  exact hrenewed

/-- An access to external memory that nothing refuses or holds. -/
theorem State.fabric_open (s : State) {o : Origin} {a n : Nat} {data : Option (List Byte)} (hlow : a < extEnd)
    (hparty : o ≠ .operator) (hdie : s.dieWaits a = false) (hempty : s.store.requests = [])
    (hcause : s.accessCause o .plain a n data.isSome = none) (hwaits : s.accessWaits a n data.isSome = false) :
    s.fabric o a n data = data.elim ((s.readAccess o .plain a n).transmit o)
        (fun bs => s.writeAccess o .plain a bs) := by
  have hspace : ¬inRegSpace a = true := by
    have : extEnd ≤ regBase := by decide
    simp only [inRegSpace, decide_eq_true_eq]
    omega
  unfold State.fabric
  rw [if_neg hspace, if_neg (by simpa using hparty)]
  have hturn := s.accessTurn_alone o a n hempty
  simp only [hcause, hdie, hwaits, hturn, Option.isSome_none, Bool.false_and, Bool.false_or, Bool.false_eq_true,
      if_false]
  cases data <;> rfl

/-- Bursts without an error are read as they stand. -/
theorem State.readBursts_clean (s : State) {bs : List Nat} (h : ∀ b ∈ bs, s.readBurst b = (s, false)) :
    s.readBursts bs = (s, none) := by
  induction bs with
  | nil => rfl
  | cons b bs ih =>
    unfold State.readBursts
    rw [h b List.mem_cons_self]
    exact ih fun y hy => h y (List.mem_cons_of_mem _ hy)

theorem fabricMemoryAccess : Claims.FabricMemoryAccess := by
  intro s o a bs n hexists hparty hpos hend hdie hempty
  have htarget : s.target a = .ext := State.target_ext (by omega)
  have hrun : ∀ data : Option (List Byte), (data.map List.length).getD n = n →
      exec (.fabricAccess o a n data) s = .next (s.fabric o a n data) := by
    intro data hcount
    have hdef : exec (.fabricAccess o a n data) s = execFabricAccess o a n data s := rfl
    rw [hdef, execFabricAccess, if_pos hexists, hcount]
    dsimp only
    rw [if_pos hpos]
    rfl
  refine ⟨fun hcause hwaits => ?_, fun hcause hwaits hclean => ?_⟩
  · have hwrite : s.fabric o a n (some bs) = (s.extWrite a bs).respond .done := by
      rw [s.fabric_open (data := some bs) (by omega) hparty hdie hempty hcause hwaits, Option.elim_some]
      unfold State.writeAccess State.memWrite
      rw [if_neg (Bool.eq_false_iff.1 hdie), show s.accessCause o .plain a bs.length true = none from hcause]
      dsimp only
      rw [if_neg (Bool.eq_false_iff.1 hwaits), htarget]
    have hbyte := s.byte_extWrite a bs
    have hbound : a + bs.length ≤ windowBase := by
      have : extEnd ≤ windowBase := by decide
      omega
    have hbad := s.extWrite_bad hbound
    have hframe := s.extWrite_low hbound
    rw [hrun (some bs) rfl, hwrite]
    generalize s.extWrite a bs = t at *
    refine ⟨_, rfl, rfl, fun i hi => ?_, fun x hx => ?_, fun b hb => ?_, fun b hlo hhi => ?_, ?_, ?_⟩
    · refine (hbyte (a + i)).trans ?_
      rw [if_pos (by omega), Nat.add_sub_cancel_left]
    · refine (hbyte x).trans ?_
      rw [if_neg (by omega)]
    · have hb : t.ext.bad.contains b = true := hb
      rw [hbad, List.contains_iff_mem, List.mem_filter] at hb
      exact List.contains_iff_mem.2 hb.1
    · show t.ext.bad.contains b = false
      rw [hbad, Bool.eq_false_iff, Ne, List.contains_iff_mem, List.mem_filter, whole, decide_eq_true ⟨hlo, hhi⟩]
      exact fun h => Bool.false_ne_true h.2
    · show t.cores = s.cores
      rw [hframe]
    · show t.logs = s.logs
      rw [hframe]
  · have hread : s.fabric o a n none = (s.respond (.data (s.bytes a n))).transmit o := by
      rw [s.fabric_open (data := none) (by omega) hparty hdie hempty hcause hwaits, Option.elim_none]
      unfold State.readAccess
      rw [if_neg (Bool.eq_false_iff.1 hdie), hcause]
      dsimp only
      rw [if_neg (Bool.eq_false_iff.1 hwaits), State.memRead_ext n htarget, s.readBursts_clean hclean]
    have hlength : (s.bytes a n).length = n := length_readFrom _ _ _
    rw [hrun none rfl, hread]
    generalize s.bytes a n = data at *
    rcases Classical.em (∃ k, o = .frontEnd k ∧ s.cabled (8 + k.val) = true ∧ n ≤ 9216) with
        ⟨k, rfl, hcable, hmax⟩ | hno
    · have hsend : (s.respond (.data data)).transmit (.frontEnd k) = State.stampFrame { s.respond (.data data) with
          out := { (s.respond (.data data)).out with frame := some (k, data) } } k := by
        refine if_pos ?_
        rw [hlength, decide_eq_true ⟨hpos, hmax⟩, Bool.and_true]
        exact hcable
      rw [hsend]
      refine ⟨_, _, _, rfl, fun j hj _ _ => ?_, fun h => ?_⟩
      · obtain rfl : k = j := Origin.frontEnd.inj hj
        exact ⟨rfl, rfl, rfl⟩
      · rcases h k rfl with h | h
        · rw [hcable] at h
          cases h
        · omega
    · have hquiet : (s.respond (.data data)).transmit o = s.respond (.data data) := by
        cases o with
        | frontEnd k =>
          refine if_neg fun h => hno ⟨k, rfl, ?_⟩
          rw [Bool.and_eq_true, decide_eq_true_eq, hlength] at h
          exact ⟨h.1, h.2.2⟩
        | _ => rfl
      rw [hquiet]
      exact ⟨_, _, _, rfl, fun k hk hcable hmax => absurd ⟨k, hk, hcable, hmax⟩ hno, fun _ => ⟨rfl, rfl, rfl⟩⟩

/-- Settles O33: by what a write of external memory puts and clears, by a read that meets no error, and by a refusal. -/
theorem fabricAccesses : Obligations.FabricAccesses :=
  ⟨fabricMemoryAccess, refusedAccess⟩

end Sys2Proof.Machine
end

section
/-! PROOF. A doorbell, and the entries that its queue reads. -/

namespace Sys2Proof.Machine

open Sys2Proof

/-- No burst of external memory and no line of the central store has an error mark. -/
@[reducible] def State.Unmarked (s : State) : Prop :=
  s.ext.weak = [] ∧ s.ext.bad = [] ∧ s.store.weak = [] ∧ s.store.bad = []

/-- Between two states there are reads that meet no new error. -/
@[reducible] def State.CleanRead (t s : State) : Prop :=
  t = { s with cores := t.cores, free := t.free, logs := t.logs }

section
variable (s : State)

theorem State.CleanRead.trans {s t u : State} (htu : u.CleanRead t) (hst : t.CleanRead s) : u.CleanRead s := by
  unfold State.CleanRead at *
  rw [htu, hst]

theorem State.CleanRead.ite {α : Type} {s : State} {c : Prop} [Decidable c] {x y : State × α} (hx : x.1.CleanRead s)
    (hy : y.1.CleanRead s) : (if c then x else y).1.CleanRead s := by
  split
  · exact hx
  · exact hy

section
variable {s} (h : s.Unmarked)
include h

theorem State.readBurst_unmarked (b : Nat) : (s.readBurst b).1 = s := by
  obtain ⟨hweak, hbad, -, -⟩ := h
  unfold State.readBurst
  rw [hweak, hbad]
  split
  · rfl
  · rfl

theorem State.readBursts_unmarked (bs : List Nat) : (s.readBursts bs).1 = s := by
  induction bs with
  | nil => rfl
  | cons b bs ih =>
    have hburst := State.readBurst_unmarked h b
    unfold State.readBursts
    generalize s.readBurst b = r at *
    obtain ⟨t, _ | _⟩ := r
    · obtain rfl : t = s := hburst
      exact ih
    · exact hburst

theorem State.readLines_unmarked (ls : List Nat) : (s.readLines ls).1 = s := by
  obtain ⟨-, -, hweak, hbad⟩ := h
  induction ls with
  | nil => rfl
  | cons l ls ih =>
    unfold State.readLines
    rw [hweak, hbad]
    split
    · rfl
    · exact ih

theorem State.memRead_unmarked (a n : Nat) : (s.memRead a n).1.CleanRead s := by
  have hbursts := State.readBursts_unmarked h (unitsOf 64 a n)
  have hlines := State.readLines_unmarked h (unitsOf 64 a n)
  unfold State.memRead
  split
  · generalize s.readBursts (unitsOf 64 a n) = r at *
    obtain ⟨t, _ | x⟩ := r <;> rw [show t = s from hbursts]
  · generalize s.readLines (unitsOf 64 a n) = r at *
    obtain ⟨t, _ | x⟩ := r <;> obtain rfl : t = s := hlines
    · dsimp only
      unfold State.veil
      dsimp only
      split <;> rfl
    · rfl
  · split <;> rfl
  · rfl

theorem State.moverRead_unmarked (a n : Nat) : (s.moverRead a n).1.CleanRead s := by
  have hread := State.memRead_unmarked h a n
  unfold State.moverRead
  generalize s.memRead a n = r at *
  split
  · rfl
  split
  · rfl
  split
  · rfl
  · split <;> rfl
  · refine State.CleanRead.ite rfl ?_
    obtain ⟨t, _ | _⟩ := r <;> exact hread

theorem State.readEntry_unmarked (q n : Nat) : (s.readEntry q n).1.CleanRead s := by
  have hread := State.moverRead_unmarked h ((s.sq q).base + n % 2 ^ (s.sq q).depth * 64) 64
  unfold State.readEntry State.geRead
  dsimp only
  generalize s.moverRead ((s.sq q).base + n % 2 ^ (s.sq q).depth * 64) 64 = r at *
  obtain ⟨t, _ | _⟩ := r
  · exact State.CleanRead.trans (t := t) rfl hread
  · exact hread

end

theorem State.readEntry_no (q n : Nat) : (s.readEntry q n).2.no = n := by
  unfold State.readEntry
  dsimp only
  split <;> rfl

/-- A queue that has read one more entry. -/
def Sq.took (x : Sq) (e : Entry) : Sq := { x with head := x.head + 1, entries := x.entries ++ [e] }

/-- A queue that reads k entries where none of these reads waits and no error is marked: it has them all, in order. -/
theorem State.readEntries_all {base depth head : Nat} (q k : Nat) (hmarks : s.Unmarked) (hbase : (s.sq q).base = base)
    (hdepth : (s.sq q).depth = depth)
    (hhead : (s.sq q).head = head)
    (hready : ∀ i, head ≤ i → i < head + k → s.accessWaits (base + i % 2 ^ depth * 64) 64 false = false) :
    ((s.readEntries q k).sq q).head = head + k
      ∧ ∃ new, ((s.readEntries q k).sq q).entries = (s.sq q).entries ++ new
        ∧ new.map (fun e => e.no) = (List.range k).map (fun i => head + i) := by
  induction k generalizing s head with
  | zero => exact ⟨hhead, [], (List.append_nil _).symm, rfl⟩
  | succ k ih =>
    have hread := State.readEntry_unmarked hmarks q (s.sq q).head
    have hno := s.readEntry_no q (s.sq q).head
    unfold State.readEntries
    dsimp only
    rw [if_neg (Bool.eq_false_iff.1 (by
      rw [hbase, hdepth, hhead]
      exact hready _ (Nat.le_refl _) (by omega)))]
    generalize s.readEntry q (s.sq q).head = r at *
    obtain ⟨t, e⟩ := r
    dsimp only at hread hno ⊢
    have hsq : t.sq q = s.sq q := by rw [hread]; rfl
    rw [hsq]
    rw [show { s.sq q with head := (s.sq q).head + 1, entries := (s.sq q).entries ++ [e] } = (s.sq q).took e from rfl]
    have hself := t.sq_setSq q ((s.sq q).took e)
    have hmarks' : (t.setSq q ((s.sq q).took e)).Unmarked := by
      rw [hread]
      exact hmarks
    have hwaits : ∀ a, (t.setSq q ((s.sq q).took e)).accessWaits a 64 false
        = s.accessWaits a 64 false := by
      intro a
      rw [hread]
      rfl
    generalize t.setSq q ((s.sq q).took e) = u at *
    have hhead' : (u.sq q).head = head + 1 := by rw [hself, Sq.took, hhead]
    have hentries : (u.sq q).entries = (s.sq q).entries ++ [e] := by rw [hself, Sq.took]
    obtain ⟨hend, new, hnew, hnos⟩ := ih u hmarks' (by rw [hself, Sq.took, hbase])
        (by rw [hself, Sq.took, hdepth]) hhead'
      (fun i hlo hhi => (hwaits _).trans (hready i (by omega) (by omega)))
    refine ⟨by rw [hend]; omega, e :: new, ?_, ?_⟩
    · rw [hnew, hentries, List.append_assoc]
      rfl
    · rw [List.map_cons, hnos, hno, hhead, List.range_succ_eq_map, List.map_cons, List.map_map, Nat.add_zero]
      refine congrArg _ (List.map_congr_left fun i _ => ?_)
      exact Nat.add_right_comm _ 1 i |>.trans (Nat.add_assoc _ i 1)

end

/-- A doorbell value that R354 accepts. -/
theorem Sq.doorbellOk_iff (x : Sq) (v : Word) :
    let t : BitVec 32 := v.truncate 32
    let ahead := (t - BitVec.ofNat 32 x.tail).toNat
    x.doorbellOk v = true ↔ x.enable = true ∧ v.toNat < 2 ^ 32 ∧ (1 ≤ ahead ∧ ahead ≤ 2 ^ 31 - 1)
      ∧ (t - BitVec.ofNat 32 x.head).toNat ≤ 2 ^ x.depth := by
  intro t ahead
  have hupper : v >>> 32 = 0 ↔ v.toNat < 2 ^ 32 := by
    constructor <;> intro h <;> bv_omega
  unfold Sq.doorbellOk after32
  simp only [Bool.and_eq_true, decide_eq_true_eq, beq_iff_eq, hupper, and_assoc]
  rfl

/-- Settles O24: by the entries read one after another, and by the values that a doorbell accepts. -/
theorem submissionDoorbell : Obligations.SubmissionDoorbell := by
  intro s o q v hq hopen x t ahead
  have hrun : exec (.sqDb o q v) s = .next ((s.putSqDb o q v).respond .done) :=
    (if_pos (decide_eq_true hq)).trans (congrArg Host.Outcome.next (State.onWrite_open s _ _ _ hopen))
  refine ⟨fun henable hupper hlo hhi hring horder => ?_, fun hbad => ?_⟩
  · have hput : s.putSqDb o q v = (s.setSq q { x with tail := x.tail + ahead }).takeEntries q :=
      if_pos ((x.doorbellOk_iff v).2 ⟨henable, hupper, ⟨hlo, hhi⟩, hring⟩)
    obtain ⟨head, entries, hself, hother, -, hrest⟩ := (s.setSq q { x with tail := x.tail + ahead }).takeEntries_frame q
    have hsq := s.sq_setSq q { x with tail := x.tail + ahead }
    have hall := (s.setSq q { x with tail := x.tail + ahead }).readEntries_all q (x.tail + ahead - x.head)
      (base := x.base) (depth := x.depth) (head := x.head)
    have htake : (x.state = .running ∨ x.state = .cutHeld) → (s.setSq q { x with tail := x.tail + ahead }).takeEntries q
        = (s.setSq q { x with tail := x.tail + ahead }).readEntries q (x.tail + ahead - x.head) := by
      intro hstate
      unfold State.takeEntries
      dsimp only
      rw [hsq]
      refine if_pos ?_
      rcases hstate with h | h <;> rw [h] <;> rfl
    have hskip : x.state = .stopped → (s.setSq q { x with tail := x.tail + ahead }).takeEntries q
        = s.setSq q { x with tail := x.tail + ahead } := by
      intro h
      unfold State.takeEntries
      dsimp only
      rw [hsq, h]
      exact if_neg (by decide)
    have hmarks : s.Unmarked → (s.setSq q { x with tail := x.tail + ahead }).Unmarked := fun h => h
    have hwaits : ∀ a, (s.setSq q { x with tail := x.tail + ahead }).accessWaits a 64 false
        = s.accessWaits a 64 false :=
      fun _ => rfl
    have hmem : (s.setSq q { x with tail := x.tail + ahead }).mem = s.mem := rfl
    have hsame : ∀ p, p ≠ q → (s.setSq q { x with tail := x.tail + ahead }).sq p = s.sq p :=
      fun p hp => s.sq_setSq_other _ hp
    rw [hrun, hput]
    generalize s.setSq q { x with tail := x.tail + ahead } = u at *
    refine ⟨_, rfl, rfl, ?_, fun hstate hready hw1 hw2 hw3 hw4 => ?_, fun hstate => ?_, fun p hp => ?_, ?_⟩
    · show ((u.takeEntries q).sq q).tail = _
      rw [hself, hsq]
    · obtain ⟨hend, new, hnew, hnos⟩ := hall (hmarks ⟨hw1, hw2, hw3, hw4⟩) (by rw [hsq]) (by rw [hsq])
        (by rw [hsq]) (fun i hlo hhi => (hwaits _).trans (hready i hlo (by omega)))
      rw [← htake hstate] at hend hnew
      rw [hsq] at hnew
      refine ⟨hend.trans ?_, new, hnew, hnos⟩
      omega
    · show ((u.takeEntries q).sq q).entries = _ ∧ ((u.takeEntries q).sq q).head = _
      rw [hskip hstate, hsq]
      exact ⟨rfl, rfl⟩
    · exact (hother p hp).trans (hsame p hp)
    · show (u.takeEntries q).mem = _
      rw [hrest]
      exact hmem
  · have hno : ¬x.doorbellOk v = true := by
      intro hok
      obtain ⟨henable, hupper, ⟨hlo, hhi⟩, hring⟩ := (x.doorbellOk_iff v).1 hok
      have hlo : 1 ≤ ahead := hlo
      have hhi : ahead ≤ 2 ^ 31 - 1 := hhi
      have hring : (t - BitVec.ofNat 32 x.head).toNat ≤ 2 ^ x.depth := hring
      rcases hbad with h | h | h | h | h
      · rw [henable] at h
        cases h
      all_goals omega
    have hput : s.putSqDb o q v = (s.setSq q { x with sc := x.sc.event 0 }).refuseWrite o (sqDbAddr q) v := if_neg hno
    rw [hrun, hput]
    exact ⟨_, rfl, s.sq_setSq q _, fun p hp => s.sq_setSq_other _ hp, rfl, rfl, rfl⟩

end Sys2Proof.Machine
end

section
/-! PROOF. Reports and certificates, and the registers of attestation. -/

namespace Sys2Proof.Machine

open Sys2Proof

section
variable (s : State)

/-- A burst is read as it stands where it has no error mark and its granule is not poisoned. -/
theorem State.readBurst_clean_iff (b : Nat) : s.readBurst b = (s, false) ↔
    (s.port_ (s.portAt (64 * b))).poison.contains (b / 4) = false ∧ s.ext.bad.contains b = false
      ∧ s.ext.weak.contains b = false := by
  refine ⟨fun h => ?_, fun ⟨hpoison, hbad, hweak⟩ => (if_neg (Bool.eq_false_iff.1 hpoison)).trans
    ((if_neg (Bool.eq_false_iff.1 hbad)).trans (if_neg (Bool.eq_false_iff.1 hweak)))⟩
  cases hpoison : (s.port_ (s.portAt (64 * b))).poison.contains (b / 4)
  swap
  · rw [State.readBurst_poisoned hpoison] at h
    cases h
  cases hbad : s.ext.bad.contains b
  swap
  · rw [State.readBurst_bad hpoison hbad] at h
    exact Bool.noConfusion (congrArg Prod.snd h)
  cases hweak : s.ext.weak.contains b
  · exact ⟨rfl, rfl, rfl⟩
  · rw [State.readBurst_weak hpoison hbad hweak] at h
    obtain ⟨x, -, -, -, -, hjudged⟩ := s.correctBurst_counts b
    have hgone : (s.correctBurst b).ext.weak.contains b = false := by
      rw [hjudged.weak]
      simp
    have hsame : s.correctBurst b = s := congrArg Prod.fst h
    rw [hsame, hweak] at hgone
    cases hgone

/-- A span of external memory without an error is read as it stands. -/
theorem State.memRead_clean {a n : Nat} (hlow : a < extEnd) (h : ∀ b ∈ unitsOf 64 a n, s.readBurst b = (s, false)) :
    s.memRead a n = (s, .ok (s.bytes a n)) := by
  rw [State.memRead_ext n (State.target_ext hlow), s.readBursts_clean h]

end

theorem attestation : Claims.Attestation := by
  intro s nonce hup
  have hasked : ∀ b, s.asked b = .next b := fun b => congrArg Host.Outcome.next (if_pos hup)
  refine ⟨fun hkeys => ?_, fun hkeys => ?_, fun hmanaging => State.managed_up _ _ hmanaging, fun hstatus => ?_⟩
  · have hrun : exec (.attest nonce) s = .next ((s.useFree 1).answer (.data (s.report (beBytes 32 nonce.toNat)))) :=
      (hasked _).trans (congrArg Host.Outcome.next (if_pos hkeys))
    have hrange : 0 < p256N - 1 := by decide
    refine ⟨_, _, hrun, Nat.le_add_right 1 _, ?_, rfl, rfl⟩
    have := Nat.mod_lt (Config.nonce s.free (BitVec.ofNat 256
        (ofBe (sha256 (s.reportBody (beBytes 32 nonce.toNat)))))).toNat
      hrange
    omega
  · exact (hasked _).trans (congrArg Host.Outcome.next (if_neg (Bool.eq_false_iff.1 hkeys)))
  · have hrefused : ∀ b, s.managed b = .next (s.answer .refused) := by
      intro b
      unfold State.managed
      rw [if_pos hup, if_pos hstatus]
    exact ⟨hrefused _, hrefused _, hrefused _⟩

/-- A signature of P-256 is 64 bytes. -/
theorem length_p256Sign (d k z : Nat) : (p256Sign d k z).length = 64 := by
  unfold p256Sign beBytes
  dsimp only
  rw [List.length_append, List.length_reverse, List.length_reverse, length_leBytes, length_leBytes]

/-- What a write to ATT_CTL first sets: the buffer, and that no report stands there. -/
def State.attesting (s : State) (a : Nat) : State :=
  { s with boot := { s.boot with attAddr := a, attDone := false } }

/-- A report written into its buffer. -/
theorem State.attestTo_low (s : State) {a : Nat}
    (hlow : a + (s.reportBody (s.bytes (a + 0x30) 32)).length + 64 ≤ extEnd)
    (hclean : ∀ b ∈ unitsOf 64 (a + 0x30) 32, s.readBurst b = (s, false)) :
    let t := s.attestTo a
    let r := s.reportBody (s.bytes (a + 0x30) 32)
    t.boot = { s.boot with attDone := true } ∧ (∀ i, i < r.length → t.byte (a + i) = r.getD i 0)
      ∧ (∀ x, x < a ∨ a + r.length + 64 ≤ x → t.byte x = s.byte x) := by
  intro t r
  have hlow : a + r.length + 64 ≤ extEnd := hlow
  have hread := s.memRead_clean (by omega) hclean
  have htarget : (s.useFree 1).target a = .ext := State.target_ext (by omega)
  have hlength : (s.report (s.bytes (a + 0x30) 32)).length = r.length + 64 := by
    unfold State.report
    dsimp only
    rw [List.length_append, length_p256Sign]
  have hprefix : ∀ i, i < r.length → (s.report (s.bytes (a + 0x30) 32)).getD i 0 = r.getD i 0 := by
    intro i hi
    unfold State.report
    dsimp only
    rw [List.getD_append _ _ _ _ hi]
  have ht : t = { (s.useFree 1).extWrite a (s.report (s.bytes (a + 0x30) 32)) with
      boot := { ((s.useFree 1).extWrite a (s.report (s.bytes (a + 0x30) 32))).boot with attDone := true } } := by
    show s.attestTo a = _
    unfold State.attestTo
    rw [hread]
    dsimp only
    unfold State.writeRun
    rw [htarget]
  have hbyte := (s.useFree 1).byte_extWrite a (s.report (s.bytes (a + 0x30) 32))
  have hframe := (s.useFree 1).extWrite_low (a := a) (bs := s.report (s.bytes (a + 0x30) 32)) (by
    have : extEnd ≤ windowBase := by decide
    omega)
  rw [hlength] at hbyte
  generalize (s.useFree 1).extWrite a (s.report (s.bytes (a + 0x30) 32)) = u at *
  have hsame : ∀ x, t.byte x = u.byte x := fun x => by rw [ht]; rfl
  refine ⟨?_, fun i hi => ?_, fun x hx => ?_⟩
  · rw [ht, hframe]
    rfl
  · rw [hsame, hbyte, if_pos (by omega), Nat.add_sub_cancel_left, hprefix i hi]
  · rw [hsame, hbyte, if_neg (by omega)]
    rfl

theorem attestationRegisters : Claims.AttestationRegisters := by
  intro s o v a r
  have hctl : s.attWaits attCtlAddr v = (s.boot.keys && s.hostWaits a (208 + 48 * s.boot.measures.length) true) :=
    if_pos rfl
  have hext : s.attWaits attExtendAddr v = (decide (s.boot.measures.length < 24) && s.hostWaits v.toNat 48 false) := by
    unfold State.attWaits
    rw [if_neg (by decide), beq_self_eq_true, Bool.true_and]
  have hreg : ∀ (b : Nat) (body : State → State), s.regOpen o b true → s.onHostWrite o b v body
      = if s.attWaits b v then s.respond .waits else (body s).respond .done := by
    intro b body hopen
    obtain ⟨hwaits, hcause, hends⟩ := hopen
    unfold State.onHostWrite State.onReg State.endpoint
    rw [if_pos hends, if_neg (Bool.eq_false_iff.1 hwaits), hcause]
  have hputs : s.putAttCtl v = if s.boot.keys && s.hostThere a (208 + 48 * s.boot.measures.length) then
      (s.attesting a).attestTo a else s.attesting a := rfl
  have hctlRuns : s.attWaits attCtlAddr v = false → s.regOpen o attCtlAddr true →
      exec (.attCtl o v) s = .next ((s.putAttCtl v).respond .done) := fun hwaits hopen =>
    congrArg Host.Outcome.next ((hreg _ _ hopen).trans (if_neg (Bool.eq_false_iff.1 hwaits)))
  have hextRuns : s.attWaits attExtendAddr v = false → s.regOpen o attExtendAddr true →
      exec (.attExtend o v) s = .next ((s.putAttExtend o v).respond .done) := fun hwaits hopen =>
    congrArg Host.Outcome.next ((hreg _ _ hopen).trans (if_neg (Bool.eq_false_iff.1 hwaits)))
  refine ⟨fun hopen hkeys => ?_, fun hopen hkeys hthere hwaits hlow hclean => ?_,
    fun hopen hroom hthere hwaits hlow hclean => ?_, fun hopen hkeys hwaits => ?_, fun hopen hroom hwaits => ?_,
    fun hopen hfull => ?_⟩
  · have hput : s.putAttCtl v = s.attesting a := by
      refine hputs.trans (if_neg ?_)
      rw [hkeys, Bool.false_and]
      exact Bool.false_ne_true
    rw [hctlRuns (by rw [hctl, hkeys, Bool.false_and]) hopen, hput]
    rfl
  · have hput : s.putAttCtl v = (s.attesting a).attestTo a := by
      refine hputs.trans (if_pos ?_)
      rw [hkeys, Bool.true_and]
      exact hthere
    have hclean' : ∀ b ∈ unitsOf 64 (a + 0x30) 32, (s.attesting a).readBurst b = (s.attesting a, false) := fun b hb =>
      ((s.attesting a).readBurst_clean_iff b).2 ((s.readBurst_clean_iff b).1 (hclean b hb))
    obtain ⟨hboot, hin, hout⟩ := (s.attesting a).attestTo_low hlow hclean'
    rw [hctlRuns (by rw [hctl, hwaits, Bool.and_false]) hopen, hput]
    generalize (s.attesting a).attestTo a = t at *
    have hboot : (t.respond .done).boot = { (s.attesting a).boot with attDone := true } := hboot
    refine ⟨_, rfl, ?_, by rw [hboot], hin, hout, ?_⟩
    all_goals
      rw [hboot]
      rfl
  · have hput : s.putAttExtend o v = { s with boot := { s.boot with
        measures := s.boot.measures ++ [2 :: (s.bytes v.toNat 48).drop 1] } } := by
      have hread := s.memRead_clean (a := v.toNat) (n := 48) (by omega) hclean
      unfold State.putAttExtend
      rw [if_neg (Nat.not_le.2 hroom), hthere, hread]
      rfl
    rw [hextRuns (by rw [hext, hwaits, Bool.and_false]) hopen, hput]
    exact ⟨_, rfl, rfl, rfl, rfl⟩
  · exact congrArg Host.Outcome.next ((hreg _ _ hopen).trans (if_pos (by rw [hctl, hkeys, hwaits]; rfl)))
  · exact congrArg Host.Outcome.next ((hreg _ _ hopen).trans (if_pos (by
      rw [hext, decide_eq_true hroom, hwaits]
      rfl)))
  · have hput : s.putAttExtend o v = s.refuseWrite o attExtendAddr v := if_pos hfull
    rw [hextRuns (by rw [hext, decide_eq_false (Nat.not_lt.2 hfull), Bool.false_and]) hopen, hput]
    exact ⟨_, rfl, rfl, rfl, rfl⟩

/-- Settles O54: by the report over a nonce, and by what each register's write reads and puts. -/
theorem attestationReports : Obligations.AttestationReports :=
  ⟨attestation, attestationRegisters⟩

end Sys2Proof.Machine
end

section
/-! PROOF. Boot, the checks of an image, and recovery images. -/

namespace Sys2Proof.Machine

open Sys2Proof

/-! The checks of an image (R426). -/

section
variable {f : Fuses} {b : List Byte}

theorem Fuses.checkImage_header (h : imageHeaderOk b = false) : f.checkImage b = .error failHeader := by
  unfold Fuses.checkImage
  rw [h]
  rfl

theorem Fuses.checkImage_root {r : Nat} (hheader : imageHeaderOk b = true) (hroot : f.rootOf b = some r) :
    f.checkImage b = if !(ecdsaVerify (slice b 0x1A0 64) (sha256 (slice b 0 0x1E0)) (slice b 0x1E0 64)) then
        .error failSignature
      else if imageSvn b < f.svnBurnt then .error failSvn
      else if !(imageTypesOk b) then .error failHeader
      else if (imageEntries b).all (fun e => sha256 (e.bytes b) == e.hash) then
        .ok { svn := imageSvn b, root := r, recovery := imageRecovery b
              parts := (imageEntries b).map (fun e => (e.type, e.target, e.bytes b)) }
      else .error failComponent := by
  unfold Fuses.checkImage
  rw [hheader, hroot]
  rfl

theorem Fuses.checkImage_key (hheader : imageHeaderOk b = true) (hroot : f.rootOf b = none) :
    f.checkImage b = .error failKey := by
  unfold Fuses.checkImage
  rw [hheader, hroot]
  rfl

end

theorem length_imageEntries (b : List Byte) : (imageEntries b).length = imageCount b := by
  rw [imageEntries, List.length_map, List.length_range]

theorem imageChecks : Claims.ImageChecks := by
  intro f b
  refine ⟨fun h => Fuses.checkImage_header h, fun hheader hroot => Fuses.checkImage_key hheader hroot,
    fun r hheader hroot hsig => ?_, fun i hok => ?_⟩
  · rw [Fuses.checkImage_root hheader hroot, hsig]
    rfl
  · cases hheader : imageHeaderOk b
    · rw [Fuses.checkImage_header hheader] at hok
      cases hok
    cases hroot : f.rootOf b with
    | none =>
      rw [Fuses.checkImage_key hheader hroot] at hok
      cases hok
    | some r =>
      rw [Fuses.checkImage_root hheader hroot] at hok
      split at hok
      · cases hok
      split at hok
      · cases hok
      next hsvn =>
      split at hok
      · cases hok
      split at hok
      · next hall =>
        cases hok
        refine ⟨rfl, Nat.not_lt.1 hsvn, rfl, rfl, ?_, fun e he => eq_of_beq (List.all_eq_true.1 hall e he)⟩
        rw [List.length_map, length_imageEntries]
      · cases hok

/-- Bits set one after another. -/
theorem getLsbD_foldl_withBit {w : Nat} {l : List Nat} (m : BitVec w) (hl : ∀ d ∈ l, d < w) {k : Nat}
    (hk : k ∈ l ∨ m.getLsbD k = true) : (l.foldl (fun m d => withBit m d true) m).getLsbD k = true := by
  induction l generalizing m with
  | nil => exact hk.resolve_left (List.not_mem_nil)
  | cons d l ih =>
    have hbit := getLsbD_withBit m (hl d List.mem_cons_self) true k
    refine ih _ (fun x hx => hl x (List.mem_cons_of_mem _ hx)) ?_
    rw [hbit]
    rcases hk with hk | hk
    · rcases List.mem_cons.1 hk with rfl | hk
      · exact .inr (if_pos rfl)
      · exact .inl hk
    · right
      split
      · rfl
      · exact hk

/-! What boot does after an image has passed (R427, R430). -/

/-- Two states run the same image with the same keys and measurements. -/
@[reducible] def State.SameImage (t s : State) : Prop :=
  t.boot.image = s.boot.image ∧ t.boot.keys = s.boot.keys ∧ t.boot.measures = s.boot.measures
    ∧ t.boot.fuses = s.boot.fuses

section
variable (s : State)

theorem State.takeRepair_frame (es : List RepairEntry) (e : RepairEntry) : ∃ grid ext store,
    State.takeRepair es s e = { s with grid := grid, ext := ext, store := store } := by
  unfold State.takeRepair
  dsimp only
  split_ifs <;> exact ⟨_, _, _, rfl⟩

theorem foldl_takeRepair (es l : List RepairEntry) : ∃ grid ext store,
    l.foldl (State.takeRepair es) s = { s with grid := grid, ext := ext, store := store } := by
  induction l generalizing s with
  | nil => exact ⟨_, _, _, rfl⟩
  | cons e l ih =>
    obtain ⟨grid, ext, store, h⟩ := s.takeRepair_frame es e
    rw [List.foldl_cons, h]
    exact ih _

theorem State.buildRepairs_frame : ∃ grid ext store sc,
    s.buildRepairs = { s with grid := grid, ext := ext, store := store, boot := { s.boot with sc := sc } } := by
  unfold State.buildRepairs
  split
  · next r h =>
    obtain ⟨grid, ext, store, hfold⟩ := foldl_takeRepair s r.entries r.entries
    rw [hfold]
    exact ⟨_, _, _, _, rfl⟩
  · exact ⟨_, _, _, _, rfl⟩

theorem State.wakeKept_frame (doms : List Nat) : ∃ held loaded, s.wakeKept doms =
    { s with resets := { s.resets with held := held }, boot := { s.boot with loaded := loaded } } :=
  ⟨_, _, rfl⟩

/-- The domains that boot requests. -/
theorem State.requestBoot_spec : ∃ change, s.requestBoot = { s with
      power := { s.power with req := bootDoms.foldl (fun m d => withBit m d true) s.power.req, change := change } }
    ∧ ∀ d ∈ bootDoms, (bootDoms.foldl (fun m d => withBit m d true) s.power.req).getLsbD d = true := by
  have hframe := State.startChange_frame { s with
    power := { s.power with req := bootDoms.foldl (fun m d => withBit m d true) s.power.req } }
  exact ⟨_, hframe, fun d hd => getLsbD_foldl_withBit _ (by decide) (.inl hd)⟩

/-- The last step of boot: the component of HD in host memory, the stage, and what each die runs. -/
theorem State.bootLast_spec : s.bootLast.SameImage s ∧ s.bootLast.power.req = s.power.req
    ∧ (s.bootLast.boot.stage = .running ∨ s.bootLast.boot.stage = s.boot.stage) := by
  unfold State.bootLast
  dsimp only
  split_ifs
  · exact ⟨⟨rfl, rfl, rfl, rfl⟩, rfl, .inr rfl⟩
  · exact ⟨⟨rfl, rfl, rfl, rfl⟩, rfl, .inl rfl⟩
  · generalize (((s.boot.image.map (fun i => i.parts)).getD []).find? (fun p => p.1 == 2)).map (fun p => p.2.2) = bs
    obtain ⟨-, -, -, -, -, hpower, hboot, -⟩ := s.extWrite_env 0 (bs.getD [])
    generalize s.extWrite 0 (bs.getD []) = t at *
    have himage : t.boot.image = s.boot.image := by rw [hboot]
    have hkeys : t.boot.keys = s.boot.keys := by rw [hboot]
    have hmeasures : t.boot.measures = s.boot.measures := by rw [hboot]
    have hfuses : t.boot.fuses = s.boot.fuses := by rw [hboot]
    have hreq : t.power.req = s.power.req := by rw [hpower]
    exact ⟨⟨himage, hkeys, hmeasures, hfuses⟩, hreq, .inl rfl⟩

theorem State.bootOn_spec : s.bootOn.SameImage s ∧ s.bootOn.power.req = s.power.req
    ∧ (s.bootOn.boot.stage = .running ∨ s.bootOn.boot.stage = s.boot.stage) := by
  unfold State.bootOn
  split
  · exact s.bootLast_spec
  · exact ⟨⟨rfl, rfl, rfl, rfl⟩, rfl, .inr rfl⟩

/-- What boot shows of an image that it runs. -/
structure State.Runs (t : State) (i : Image) (b : List Byte) (f : Fuses) : Prop where
  image : t.boot.image = some i
  keys : t.boot.keys = true
  stage : t.boot.stage = .svFw ∨ t.boot.stage = .running
  fuses : t.boot.fuses = f
  measures : t.boot.measures.length = 1 + imageCount b
  asks : ∀ d ∈ bootDoms, t.power.req.getLsbD d = true

/-- The state in which boot has taken an image that has passed. -/
def State.imageTaken (i : Image) (b : List Byte) : State :=
  ({ s with boot := { s.boot with
    image := some i, keys := true, stage := .svFw, recovery := []
    measures := imageMeasures b ((Config.freeWord s.free).toNat % 256) } } : State).useFree 1

theorem State.runImage_runs (i : Image) (b : List Byte) : (s.runImage i b).Runs i b s.boot.fuses := by
  have hrun : s.runImage i b = (((s.imageTaken i b).buildRepairs.wakeKept [14, 15, 12, 13]).requestBoot).bootOn := rfl
  obtain ⟨grid, ext, store, sc, hrepairs⟩ := (s.imageTaken i b).buildRepairs_frame
  obtain ⟨held, loaded, hwoken⟩ := (s.imageTaken i b).buildRepairs.wakeKept_frame [14, 15, 12, 13]
  obtain ⟨change, hrequest, hasks⟩ := ((s.imageTaken i b).buildRepairs.wakeKept [14, 15, 12, 13]).requestBoot_spec
  obtain ⟨⟨himage, hkeys, hmeasures, hfuses⟩, hreq, hstage⟩ :=
    (((s.imageTaken i b).buildRepairs.wakeKept [14, 15, 12, 13]).requestBoot).bootOn_spec
  rw [hrun]
  generalize (((s.imageTaken i b).buildRepairs.wakeKept [14, 15, 12, 13]).requestBoot).bootOn = v at *
  generalize ((s.imageTaken i b).buildRepairs.wakeKept [14, 15, 12, 13]).requestBoot = u at *
  generalize (s.imageTaken i b).buildRepairs.wakeKept [14, 15, 12, 13] = t at *
  generalize (s.imageTaken i b).buildRepairs = r at *
  have hboot : u.boot.image = some i ∧ u.boot.keys = true ∧ u.boot.stage = .svFw ∧ u.boot.fuses = s.boot.fuses
      ∧ u.boot.measures = imageMeasures b ((Config.freeWord s.free).toNat % 256) := by
    rw [hrequest, hwoken, hrepairs]
    exact ⟨rfl, rfl, rfl, rfl, rfl⟩
  obtain ⟨h1, h2, h3, h4, h5⟩ := hboot
  refine ⟨himage.trans h1, hkeys.trans h2, ?_, hfuses.trans h4, ?_, fun d hd => ?_⟩
  · rcases hstage with h | h
    · exact .inr h
    · exact .inl (h.trans h3)
  · rw [hmeasures, h5, imageMeasures, List.length_cons, List.length_map, length_imageEntries, Nat.add_comm]
  · rw [hreq, hrequest]
    exact hasks d hd

end

/-- A state that shows the public key of the device. -/
def State.withPub (s : State) (pub : List Byte) : State := { s with boot := { s.boot with pub := pub } }

/-- Boot from a slot whose image fails its check. -/
theorem State.bootSlot_error (s : State) {r : Nat} (h : s.boot.fuses.checkImage s.slotBytes = .error r) :
    ∃ pub, s.bootSlot = (s.withPub pub).awaitRecovery r := by
  have hslot : ∀ pub, (s.withPub pub).slotBytes = s.slotBytes := fun _ => rfl
  unfold State.bootSlot
  generalize s.boot.fuses.devidPub = pub
  refine ⟨pub, ?_⟩
  have hcheck : s.boot.fuses.checkImage (s.withPub pub).slotBytes = .error r := by
    rw [hslot]
    exact h
  dsimp only
  rw [show ({ s with boot := { s.boot with pub := pub } } : State) = s.withPub pub from rfl, hcheck]

/-- Boot from a slot with a good image that is no recovery image. -/
theorem State.bootSlot_ok (s : State) {i : Image} (h : s.boot.fuses.checkImage s.slotBytes = .ok i)
    (hslot : i.recovery = false) : ∃ pub, s.bootSlot = (s.withPub pub).runImage i s.slotBytes := by
  have hbytes : ∀ pub, (s.withPub pub).slotBytes = s.slotBytes := fun _ => rfl
  unfold State.bootSlot
  generalize s.boot.fuses.devidPub = pub
  refine ⟨pub, ?_⟩
  have hcheck : s.boot.fuses.checkImage (s.withPub pub).slotBytes = .ok i := by
    rw [hbytes]
    exact h
  dsimp only
  rw [show ({ s with boot := { s.boot with pub := pub } } : State) = s.withPub pub from rfl, hcheck]
  dsimp only
  rw [if_neg (Bool.eq_false_iff.1 hslot), hbytes]

/-- The recovery load path. -/
theorem State.awaitRecovery_spec (s : State) (r : Nat) :
    let t := s.awaitRecovery r
    t.boot.stage = .recoveryWait ∧ t.boot.fail = r ∧ (∀ d ∈ bootDoms, t.power.req.getLsbD d = true)
      ∧ t.SameImage s ∧ t.mem = s.mem := by
  intro t
  obtain ⟨held, loaded, hwoken⟩ :=
    ({ s with boot := { s.boot with stage := .recoveryWait, fail := r } } : State).wakeKept_frame bootDoms
  obtain ⟨change, hrequest, hasks⟩ :=
    (({ s with boot := { s.boot with stage := .recoveryWait, fail := r } } : State).wakeKept bootDoms).requestBoot_spec
  have ht : t = _ := hrequest
  generalize ({ s with boot := { s.boot with stage := .recoveryWait, fail := r } } : State).wakeKept bootDoms = u at *
  rw [ht]
  refine ⟨?_, ?_, hasks, ⟨?_, ?_, ?_, ?_⟩, ?_⟩
  all_goals
    rw [hwoken]

theorem bootOutcome : Claims.BootOutcome := by
  intro s hrom hup asks
  have hready : (s.boot.stage == .rom && s.svUp) = true := by
    rw [hrom, hup]
    rfl
  have hrun : exec .boot s = s.happens (some (if s.boot.fuses.eccOk then s.bootSlot else s.fuseFault)) :=
    congrArg s.happens (if_pos hready)
  refine ⟨fun hbad => ?_, fun r hok hcheck => ?_, fun i hok hcheck hslot => ?_⟩
  · rw [hrun, if_neg (Bool.eq_false_iff.1 hbad)]
    rfl
  · obtain ⟨pub, hboot⟩ := s.bootSlot_error hcheck
    rw [hrun, if_pos hok, hboot]
    obtain ⟨hstage, hfail, hasks, ⟨himage, hkeys, -, hfuses⟩, hmem⟩ := (s.withPub pub).awaitRecovery_spec r
    exact ⟨_, rfl, hstage, hfail, hasks, himage, hkeys, hfuses, hmem⟩
  · obtain ⟨pub, hboot⟩ := s.bootSlot_ok hcheck hslot
    rw [hrun, if_pos hok, hboot]
    have hruns := (s.withPub pub).runImage_runs i s.slotBytes
    exact ⟨_, rfl, hruns.stage, hruns.image, hruns.keys, hruns.asks, hruns.fuses, hruns.measures⟩

/-! Recovery images (R429). -/

/-- A recovery image that has arrived is discarded where it fails its check. -/
def State.discarded (s : State) : State :=
  (({ s with boot := { s.boot with recovery := [] } } : State).mlogOpen { type := 0, strike := s.strike })

theorem State.takeRecovery_ok (s : State) {b : List Byte} {i : Image} (h : s.boot.fuses.checkImage b = .ok i)
    (hrecovery : i.recovery = true) : s.takeRecovery b = (s.runImage i b, true) := by
  unfold State.takeRecovery
  rw [h]
  exact if_pos hrecovery

theorem State.takeRecovery_error (s : State) {b : List Byte} {r : Nat} (h : s.boot.fuses.checkImage b = .error r) :
    s.takeRecovery b = (s.discarded, false) := by
  unfold State.takeRecovery
  rw [h]
  rfl

/-- A block of a recovery image in RECOVERY_WAIT. -/
theorem State.recoverBlock_open (s : State) {block : List Byte} (hstage : s.boot.stage = .recoveryWait)
    (hlength : block.length = 256) : s.recoverBlock block =
      if (s.boot.recovery ++ block).length < recoveryNeeds (s.boot.recovery ++ block) then
        ({ s with boot := { s.boot with recovery := s.boot.recovery ++ block } } : State).answer .ok
      else (s.takeRecovery (s.boot.recovery ++ block)).1.answer
        (if (s.takeRecovery (s.boot.recovery ++ block)).2 then .ok else .refused) :=
  if_neg (by simp [hstage, hlength])

theorem recoveryImages : Claims.RecoveryImages := by
  intro s runs discards
  have hruns : ∀ (t : State) (i : Image) (b : List Byte), t.boot = (s.runImage i b).boot → runs t i := by
    intro t i b ht
    have h := s.runImage_runs i b
    generalize s.runImage i b = u at *
    refine ⟨?_, ?_, ?_, ?_⟩
    all_goals rw [ht]
    · exact h.image
    · exact h.keys
    · exact h.stage
    · exact h.fuses
  have hdiscards : ∀ m, discards (s.discarded.answer m) ∧ discards (s.discarded.mailed m) :=
    fun m => ⟨⟨rfl, rfl, rfl⟩, ⟨rfl, rfl, rfl⟩⟩
  have hboot : ∀ (u : State) (m : Mgmt), (u.answer m).boot = u.boot := fun _ _ => rfl
  have hmailed : ∀ (u : State) (m : Mgmt), (u.mailed m).boot = u.boot := fun _ _ => rfl
  have hanswered : ∀ (u : State) (m : Mgmt), (u.answer m).out.mgmt = some m := fun _ _ => rfl
  have hblock : ∀ blk, s.managing = true → exec (.fwRecover blk) s = .next (s.recoverBlock blk) :=
    fun _ hup => State.managed_up _ _ hup
  have hmail : ∀ b, s.boot.stage = .recoveryWait → s.svUp = true → s.dieUp 56 = true → s.domOn 12 = true →
      s.domOn 13 = true → exec (.recoveryMailbox b) s = .next (if s.boot.recovery.isEmpty then
        (s.takeRecovery b).1.mailed (if (s.takeRecovery b).2 then .ok else .refused) else s.mailed .busy) := by
    intro b hstage hup hdie ha hb
    refine congrArg s.happens (if_pos ?_)
    rw [hstage, hup, hdie, ha, hb]
    rfl
  refine ⟨fun blk hup => ⟨fun hstage => ?_, fun hstage hlength => ⟨fun hmore => ?_, fun i hall hcheck hrecovery => ?_,
    fun r hall hcheck => ?_⟩⟩, fun b hstage hup hdie ha hb hempty => ⟨fun i hcheck hrecovery => ?_, fun r hcheck => ?_⟩,
    fun b hstage hup hdie ha hb hbusy => ?_⟩
  · rw [hblock blk hup, State.recoverBlock, if_pos (by simp [hstage])]
    rfl
  · rw [hblock blk hup, s.recoverBlock_open hstage hlength, if_pos hmore]
    rfl
  · rw [hblock blk hup, s.recoverBlock_open hstage hlength, if_neg (Nat.not_lt.2 hall),
      s.takeRecovery_ok hcheck hrecovery]
    have hrun := hruns ((s.runImage i (s.boot.recovery ++ blk)).answer .ok) i _ (hboot _ _)
    clear_value runs
    generalize s.runImage i (s.boot.recovery ++ blk) = u at *
    exact ⟨_, rfl, hrun, hanswered _ _⟩
  · rw [hblock blk hup, s.recoverBlock_open hstage hlength, if_neg (Nat.not_lt.2 hall), s.takeRecovery_error hcheck]
    exact ⟨_, rfl, (hdiscards _).1⟩
  · rw [hmail b hstage hup hdie ha hb, hempty, if_pos List.isEmpty_nil, s.takeRecovery_ok hcheck hrecovery]
    have hrun := hruns ((s.runImage i b).mailed .ok) i b (hmailed _ _)
    clear_value runs
    generalize s.runImage i b = u at *
    exact ⟨_, rfl, hrun⟩
  · rw [hmail b hstage hup hdie ha hb, hempty, if_pos List.isEmpty_nil, s.takeRecovery_error hcheck]
    exact ⟨_, rfl, (hdiscards _).2, rfl⟩
  · rw [hmail b hstage hup hdie ha hb, if_neg (by simpa using hbusy)]
    rfl

/-- Settles O51: by the outcome of the slot's check, by the checks in their order, and by a recovery image that
arrives. -/
theorem bootAndRecovery : Obligations.BootAndRecovery :=
  ⟨bootOutcome, imageChecks, recoveryImages⟩

end Sys2Proof.Machine
end

section
/-! PROOF. Firmware updates (R429, R431, R432). -/

namespace Sys2Proof.Machine

open Sys2Proof

/-! The start of an update. -/

section
variable {s s1 : State} {addr len : Nat} {b : List Byte}

/-- The flash after the erasure of the slot's first sector. -/
theorem State.flashByte_eraseFirst (s : State) (a : Nat) :
    s.eraseFirst.flashByte a = if a < 0x10000 then 0xFF else s.flashByte a := by
  have hfilter : s.eraseFirst.flashByte a
      = Assoc.get 0xFF (s.boot.flash.filter (fun e => decide (0x10000 ≤ e.1))) a := rfl
  rw [hfilter]
  split
  next ha => exact Assoc.get_filtered_out _ _ fun _ => decide_eq_false (Nat.not_le.2 ha)
  next ha => exact Assoc.get_filter _ _ _ _ fun _ => decide_eq_true (Nat.not_lt.1 ha)

/-- A failed update sets UPD_FAIL, ends, and is recorded. -/
theorem State.updateFailed_spec (s : State) (r : Nat) :
    (s.updateFailed r).boot = { s.boot with sc := s.boot.sc.event 2, update := none }
      ∧ (s.updateFailed r).logs.mcount = s.logs.mcount.tick ∧ (s.updateFailed r).mem = s.mem := ⟨rfl, rfl, rfl⟩

theorem State.stagedImage_unread {e : Nat} (h : s.geRead 60 addr len = (s1, .error e)) :
    s.stagedImage addr len = (s1, .error failComponent) := by
  rw [State.stagedImage, State.svRead, h]

theorem State.stagedImage_bad {r : Nat} (h : s.geRead 60 addr len = (s1, .ok b))
    (hcheck : s1.boot.fuses.checkImage b = .error r) : s.stagedImage addr len = (s1, .error r) := by
  rw [State.stagedImage, State.svRead, h]
  dsimp only
  rw [hcheck]

theorem State.stagedImage_read {i : Image} (h : s.geRead 60 addr len = (s1, .ok b))
    (hcheck : s1.boot.fuses.checkImage b = .ok i) : s.stagedImage addr len =
      if i.recovery then (s1, .error failHeader) else (s1, .ok (b.take (imageSize b))) := by
  rw [State.stagedImage, State.svRead, h]
  dsimp only
  rw [hcheck]

/-- A state in which an update stages the bytes. -/
def State.staging (s : State) (addr : Nat) (b : List Byte) : State :=
  { s with boot := { s.boot with update := some (addr, b) } }

theorem State.beginUpdate_error {r : Nat} (h : s.stagedImage addr len = (s1, .error r)) :
    s.beginUpdate addr len = (s1.updateFailed r).answer .refused := by
  rw [State.beginUpdate, h]

theorem State.beginUpdate_ok (h : s.stagedImage addr len = (s1, .ok b)) :
    s.beginUpdate addr len = (s1.staging addr b).eraseFirst.answer .ok := by
  rw [State.beginUpdate, h]
  rfl

end

theorem updateBegins : Claims.UpdateBegins := by
  intro s s1 addr len b hup
  have hrun : exec (.fwCommit addr len) s = .next (s.fwCommit addr len) := State.managed_up _ _ hup
  rw [hrun]
  refine ⟨fun hbusy => congrArg Host.Outcome.next (if_pos hbusy), fun hnone hbad => ?_,
    fun hnone himage haligned hlen hslot hhost hdie hwaits => ?_⟩
  · rw [State.fwCommit, hnone, if_neg (by simp), if_pos (by simpa [or_assoc] using hbad)]
    rfl
  · have hbegin : s.fwCommit addr len = s.beginUpdate addr len := by
      rw [State.fwCommit, hnone, if_neg (by simp), if_neg (by
        simp only [Option.isNone_iff_eq_none, Bool.or_eq_true, bne_iff_ne, decide_eq_true_eq]
        rintro ((h | h) | h)
        · rw [h] at himage
          cases himage
        · exact h haligned
        · omega), hdie, hwaits, if_neg (by simp)]
    rw [hbegin]
    intro fails
    have hfails : ∀ r, s.stagedImage addr len = (s1, .error r) → fails := fun r h => by
      obtain ⟨hboot, hcount, hmem⟩ := s1.updateFailed_spec r
      exact ⟨(s1.updateFailed r).answer .refused, congrArg _ (State.beginUpdate_error h), hboot, rfl, hcount, hmem⟩
    refine ⟨fun ⟨e, h⟩ => hfails _ (State.stagedImage_unread h), fun h => ⟨fun i hcheck hslot => ?_,
      fun ⟨i, hcheck, hrecovery⟩ => hfails _ ((State.stagedImage_read h hcheck).trans (if_pos hrecovery)),
      fun r hcheck => hfails r (State.stagedImage_bad h hcheck)⟩⟩
    rw [State.beginUpdate_ok ((State.stagedImage_read h hcheck).trans (if_neg (Bool.eq_false_iff.1 hslot)))]
    exact ⟨_, rfl, rfl, rfl, fun a => State.flashByte_eraseFirst _ a, rfl, rfl, rfl⟩

/-! The end of an update. -/

section
variable {s s1 : State} {addr : Nat} {img b : List Byte}

/-- The slot with an image in it: every sector after the first, then the first. -/
def State.slotWith (s : State) (img : List Byte) : State :=
  (s.program 0x10000 (img.drop 0x10000)).program 0 (img.take 0x10000)

theorem State.flashByte_slotWith (s : State) (img : List Byte) {a : Nat} (ha : a < img.length) :
    (s.slotWith img).flashByte a = img.getD a 0 := by
  rw [State.slotWith, State.flashByte_program, State.flashByte_program, List.length_take, List.length_drop]
  by_cases hfirst : a < 0x10000
  · rw [if_pos (by omega), List.getD_eq_getElem?_getD, List.getElem?_take, if_pos (by omega),
      List.getD_eq_getElem?_getD, Nat.sub_zero]
  · rw [if_neg (by omega), if_pos (by omega), List.getD_eq_getElem?_getD, List.getElem?_drop,
      List.getD_eq_getElem?_getD, Nat.add_sub_cancel' (by omega)]

theorem State.flashBytes_slotWith (s : State) (img : List Byte) {n : Nat} (hn : n ≤ img.length) :
    (s.slotWith img).flashBytes 0 n = img.take n :=
  readFrom_eq_take hn fun i hi => by rw [Nat.zero_add, State.flashByte_slotWith s img (by omega)]

/-- A field that lies within the first bytes of a list reads the same there. -/
theorem leAt_take (b : List Byte) {o n m : Nat} (h : o + n ≤ m) : leAt (b.take m) o n = leAt b o n := by
  have htake : ((b.take m).drop o).take n = (b.drop o).take n := by
    rw [List.drop_take, List.take_take, Nat.min_eq_left (by omega)]
  rw [leAt, leAt, slice, slice, htake]

theorem imageHeaderOk_size (h : imageHeaderOk b = true) : imageSize b ≤ slotSize ∧ 1024 ≤ imageSize b := by
  simp only [imageHeaderOk, Bool.and_eq_true, decide_eq_true_eq] at h
  omega

/-- The slot's image is the one written to it. -/
theorem State.slotBytes_slotWith (s : State) (hheader : imageHeaderOk img = true) (hsize : imageSize img = img.length) :
    (s.slotWith img).slotBytes = img := by
  obtain ⟨hslot, hlong⟩ := imageHeaderOk_size hheader
  have hhead : imageSize ((s.slotWith img).flashBytes 0 1024) = img.length := by
    rw [State.flashBytes_slotWith s img (by omega), ← hsize]
    exact leAt_take img (by omega)
  have hbytes : (s.slotWith img).slotBytes = (s.slotWith img).flashBytes 0
    (if imageSize ((s.slotWith img).flashBytes 0 1024) ≤ slotSize then
      max 1024 (imageSize ((s.slotWith img).flashBytes 0 1024)) else 1024) := rfl
  rw [hbytes, hhead, if_pos (by omega), Nat.max_eq_right (by omega), State.flashBytes_slotWith s img le_rfl,
    List.take_length]

theorem State.endUpdate_unread {e : Nat} (h : s.geRead 60 addr img.length = (s1, .error e)) :
    s.endUpdate addr img = s1.updateFailed failComponent := by
  rw [State.endUpdate, State.svRead, h]

theorem State.endUpdate_changed (h : s.geRead 60 addr img.length = (s1, .ok b)) (hb : b ≠ img) :
    s.endUpdate addr img = (s1.program 0x10000 (b.drop 0x10000)).updateFailed failComponent := by
  rw [State.endUpdate, State.svRead, h]
  exact if_neg hb

/-- The state of an update that ended well. -/
def State.updated (s : State) : State := { s with boot := { s.boot with update := none, sc := s.boot.sc.event 1 } }

theorem State.endUpdate_same {i : Image} (h : s.geRead 60 addr img.length = (s1, .ok img))
    (hcheck : (s1.slotWith img).boot.fuses.checkImage (s1.slotWith img).slotBytes = .ok i) :
    s.endUpdate addr img = (s1.slotWith img).updated := by
  rw [State.endUpdate, State.svRead, h]
  dsimp only
  rw [if_pos rfl]
  rw [show (s1.program 0x10000 (img.drop 0x10000)).program 0 (img.take 0x10000) = s1.slotWith img from rfl, hcheck]
  rfl

end

theorem updateEnds : Claims.UpdateEnds := by
  intro s s1 addr img b i hup hupdate hwaits
  have hrun : exec .updDone s = .next (s.endUpdate addr img) := by
    have hdef : exec .updDone s = s.happens (if s.svUp then s.boot.update.bind (fun u =>
      if s.accessWaits u.1 u.2.length false then none else some (s.endUpdate u.1 u.2)) else none) := rfl
    rw [hdef, if_pos hup, hupdate]
    exact congrArg s.happens (if_neg (Bool.eq_false_iff.1 hwaits))
  rw [hrun]
  refine ⟨fun ⟨e, h⟩ => ?_, fun h => ⟨fun hb hcheck hsize => ?_, fun hb => ?_⟩⟩
  · rw [State.endUpdate_unread h]
    exact ⟨_, rfl, s1.updateFailed_spec _⟩
  · subst hb
    have hheader : imageHeaderOk b = true := by
      by_contra hbad
      rw [Fuses.checkImage_header (Bool.eq_false_iff.2 hbad)] at hcheck
      cases hcheck
    have hslot := s1.slotBytes_slotWith hheader hsize
    have hfuses : (s1.slotWith b).boot.fuses = s1.boot.fuses := rfl
    have hcheck' : (s1.slotWith b).boot.fuses.checkImage (s1.slotWith b).slotBytes = .ok i := by
      rw [hslot, hfuses, hcheck]
    rw [State.endUpdate_same h hcheck']
    exact ⟨_, rfl, hslot, hcheck', rfl, rfl, rfl, rfl⟩
  · rw [State.endUpdate_changed h hb]
    obtain ⟨hboot, hcount, hmem⟩ := (s1.program 0x10000 (b.drop 0x10000)).updateFailed_spec failComponent
    refine ⟨_, rfl, fun a ha => ?_, ?_, ?_, hcount, hmem⟩
    · have hprogram := s1.flashByte_program 0x10000 (b.drop 0x10000) a
      rw [if_neg (by omega)] at hprogram
      rw [← hprogram, State.flashByte, State.flashByte, hboot]
    · rw [hboot]
      rfl
    · rw [hboot]

/-- Settles O52: by the outcome of the read and of the check, and by the bytes that the slot then holds. -/
theorem firmwareUpdates : Obligations.FirmwareUpdates := ⟨updateBegins, updateEnds⟩

end Sys2Proof.Machine
end

section
/-! PROOF. Writes in place of a task, and the operations of MOVE tasks (R172 to R186, R240, R241, R403). -/

namespace Sys2Proof.Machine

open Sys2Proof

/-! A task replaced. -/

theorem find?_replaced {α : Type} (l : List (Nat × α)) (t : Nat) (x : α) {z : Nat × α}
    (h : l.find? (fun e => e.1 == t) = some z) :
    (l.map (fun e => if e.1 = t then (t, x) else e)).find? (fun e => e.1 == t) = some (t, x) := by
  induction l with
  | nil => cases h
  | cons e l ih =>
    by_cases he : e.1 = t
    · simp [he]
    · rw [List.find?_cons, show (e.1 == t) = false by simpa using he] at h
      rw [List.map_cons, if_neg he, List.find?_cons, show (e.1 == t) = false by simpa using he]
      exact ih h

theorem Graph.task_replaced {g : Graph} {t : Nat} {z : Task} (x : Task) (h : g.task t = some z) :
    ({ g with tasks := g.tasks.map (fun e => if e.1 = t then (t, x) else e) } : Graph).task t = some x := by
  obtain ⟨e, he, -⟩ := Option.map_eq_some_iff.1 h
  rw [Graph.task, find?_replaced g.tasks t x he]
  rfl

/-- A task of a loaded graph, replaced, is read back. -/
theorem State.task_setTask {s : State} {q t : Nat} {z : Task} (x : Task) (h : s.task q t = some z) :
    (s.setTask q t x).task q t = some x := by
  obtain ⟨g, hg, htask⟩ := Option.bind_eq_some_iff.1 h
  have hgraph : (s.setTask q t x).graph q
      = some { g with tasks := g.tasks.map (fun e => if e.1 = t then (t, x) else e) } := by
    rw [State.graph, State.setTask, State.sq_setSq, show (s.sq q).graph = some g from hg]
    rfl
  rw [State.task, hgraph]
  exact Graph.task_replaced x htask

/-! Runs of bytes. -/

theorem lastWrite_append (l m : List (Nat × Byte)) (y : Nat) (d : Byte) :
    lastWrite (l ++ m) y d = lastWrite m y (lastWrite l y d) := by
  induction l generalizing d with
  | nil => rfl
  | cons w l ih => exact ih _

/-- The runs of a list of writes are those writes. -/
theorem flatMap_runsOf (ws : List (Nat × Byte)) : (runsOf ws).flatMap (fun r => bytesAt r.1 r.2) = ws := by
  induction ws with
  | nil => rfl
  | cons w ws ih =>
    obtain ⟨a, b⟩ := w
    rw [runsOf]
    cases hruns : runsOf ws with
    | nil =>
      rw [hruns] at ih
      rw [← ih]
      rfl
    | cons r rs =>
      rw [hruns] at ih
      obtain ⟨x, bs⟩ := r
      dsimp only
      by_cases hx : x = a + 1
      · subst hx
        rw [if_pos rfl, ← ih]
        rfl
      · rw [if_neg hx, ← ih]
        rfl

theorem runsOf_nonempty {ws : List (Nat × Byte)} {r : Nat × List Byte} (h : r ∈ runsOf ws) : r.2 ≠ [] := by
  induction ws generalizing r with
  | nil => cases h
  | cons w ws ih =>
    obtain ⟨a, b⟩ := w
    rw [runsOf] at h
    cases hruns : runsOf ws with
    | nil =>
      rw [hruns] at h
      rw [List.mem_singleton.1 h]
      exact List.cons_ne_nil _ _
    | cons x rs =>
      rw [hruns] at h ih
      obtain ⟨x, bs⟩ := x
      dsimp only at h
      split at h
      · rcases List.mem_cons.1 h with rfl | h
        · exact List.cons_ne_nil _ _
        · exact ih (List.mem_cons_of_mem _ h)
      · rcases List.mem_cons.1 h with rfl | h
        · exact List.cons_ne_nil _ _
        · exact ih h

theorem last_mem_bytesAt {a : Nat} {bs : List Byte} (h : bs ≠ []) : ∃ w ∈ bytesAt a bs, w.1 = a + bs.length - 1 := by
  induction bs generalizing a with
  | nil => exact absurd rfl h
  | cons b bs ih =>
    by_cases hbs : bs = []
    · subst hbs
      exact ⟨(a, b), by simp [bytesAt], rfl⟩
    · obtain ⟨w, hw, hlast⟩ := ih (a := a + 1) hbs
      refine ⟨w, List.mem_cons_of_mem _ hw, ?_⟩
      have := List.length_pos_of_ne_nil hbs
      rw [hlast, List.length_cons]
      omega

/-- Every run of writes below an address ends there. -/
theorem runsOf_below {ws : List (Nat × Byte)} {e : Nat} (h : ∀ w ∈ ws, w.1 < e) :
    ∀ r ∈ runsOf ws, r.1 + r.2.length ≤ e := by
  intro r hr
  obtain ⟨w, hw, hlast⟩ := last_mem_bytesAt (a := r.1) (runsOf_nonempty hr)
  have hmem : w ∈ ws := by
    rw [← flatMap_runsOf ws]
    exact List.mem_flatMap.2 ⟨r, hr, hw⟩
  have := h w hmem
  have := List.length_pos_of_ne_nil (runsOf_nonempty hr)
  omega

/-! Writes below the core windows. -/

/-- Between two states there are writes below the core windows alone. -/
@[reducible] def State.OnlyWritten (t s : State) : Prop :=
  t = { s with mem := t.mem, ext := t.ext, store := { s.store with
    bad := t.store.bad, poison := t.store.poison, weak := t.store.weak } }

theorem State.OnlyWritten.trans {s t u : State} (htu : u.OnlyWritten t) (hst : t.OnlyWritten s) : u.OnlyWritten s := by
  unfold State.OnlyWritten at *
  rw [htu, hst]

section
variable (s : State)

theorem State.target_low {a : Nat} (h : a < windowBase) :
    s.target a = .ext ∨ s.target a = .store ∨ s.target a = .none := by
  unfold State.target
  have hreg : windowBase < regBase := by decide
  rw [if_neg (by omega : ¬(windowBase ≤ a ∧ a < windowBase + 12288 * 0x80000)),
    if_neg (by omega : ¬(regBase ≤ a ∧ a < regBase + 64 * 2 ^ 32))]
  split
  · exact .inl rfl
  · split
    · exact .inr (.inl rfl)
    · exact .inr (.inr rfl)

/-- A run of bytes below the core windows: what it changes, and what stands in memory then. -/
theorem State.writeRun_low {a : Nat} {bs : List Byte} (ha : a < windowBase) (h : a + bs.length ≤ windowBase) :
    (s.writeRun a bs).OnlyWritten s
      ∧ ∀ y, (s.writeRun a bs).byte y = if a ≤ y ∧ y < a + bs.length then bs.getD (y - a) 0 else s.byte y := by
  rcases s.target_low ha with ht | ht | ht
  · have hrun : s.writeRun a bs = s.extWrite a bs := by rw [State.writeRun, ht]
    rw [hrun]
    refine ⟨?_, s.byte_extWrite a bs⟩
    have hframe := s.extWrite_low h
    generalize s.extWrite a bs = u at *
    rw [hframe]
  · have hrun : s.writeRun a bs = s.storeWrite a bs := by rw [State.writeRun, ht]
    rw [hrun]
    refine ⟨?_, State.byte_putBytes _ a bs⟩
    unfold State.storeWrite
    dsimp only
    have hframe := fun v : State => v.putBytes_low h
    rw [hframe]
  · have hrun : s.writeRun a bs = s.putBytes a bs := by rw [State.writeRun, ht]
    rw [hrun]
    refine ⟨?_, s.byte_putBytes a bs⟩
    have hframe := s.putBytes_low h
    generalize s.putBytes a bs = u at *
    rw [hframe]

theorem foldl_writeRun_low (rs : List (Nat × List Byte))
    (h : ∀ r ∈ rs, r.1 + r.2.length ≤ windowBase ∧ r.2 ≠ []) :
    (rs.foldl (fun s w => s.writeRun w.1 w.2) s).OnlyWritten s
      ∧ ∀ y, (rs.foldl (fun s w => s.writeRun w.1 w.2) s).byte y
        = lastWrite (rs.flatMap (fun r => bytesAt r.1 r.2)) y (s.byte y) := by
  induction rs generalizing s with
  | nil => exact ⟨rfl, fun _ => rfl⟩
  | cons r rs ih =>
    obtain ⟨hlow, hne⟩ := h r (by simp)
    have hpos := List.length_pos_of_ne_nil hne
    obtain ⟨hframe, hbyte⟩ := s.writeRun_low (by omega) hlow
    obtain ⟨hframes, hbytes⟩ := ih (s.writeRun r.1 r.2) fun r hr => h r (by simp [hr])
    refine ⟨hframes.trans hframe, fun y => ?_⟩
    rw [List.foldl_cons, hbytes, List.flatMap_cons, lastWrite_append, lastWrite_bytesAt, hbyte]

/-- Writes below the core windows: each address holds the last byte written to it. -/
theorem State.writeAll_low {ws : List (Nat × Byte)} (h : ∀ w ∈ ws, w.1 < windowBase) :
    (s.writeAll ws).OnlyWritten s ∧ ∀ y, (s.writeAll ws).byte y = lastWrite ws y (s.byte y) := by
  have hall := foldl_writeRun_low s (runsOf ws) fun r hr => ⟨runsOf_below h r hr, runsOf_nonempty hr⟩
  rw [flatMap_runsOf] at hall
  exact hall

end

/-! The journal of a write in place. -/

/-- Between two states there are reads and journal records alone. -/
@[reducible] def State.OnlyJournaled (t s : State) : Prop :=
  t = { s with cores := t.cores, free := t.free, store := t.store, ext := t.ext, logs := t.logs, ge := { s.ge with
    journal := t.ge.journal } }

theorem State.OnlyJournaled.trans {s t u : State} (htu : u.OnlyJournaled t) (hst : t.OnlyJournaled s) :
    u.OnlyJournaled s := by
  unfold State.OnlyJournaled at *
  rw [htu, hst]

theorem foldl_read {β : Type} (f : State → β → State) (hf : ∀ s y, (f s y).OnlyRead s) (l : List β) (s : State) :
    (l.foldl f s).OnlyRead s := by
  induction l generalizing s with
  | nil => rfl
  | cons y l ih => exact (ih _).trans (hf s y)

theorem State.record_frame (s : State) (q t g : Nat) : (s.record q t g).OnlyJournaled s := by
  have hread := foldl_read (fun (s : State) u => (s.memRead (64 * u) 64).1) (fun s u => s.memRead_read _ _)
    ((List.range 4).map (4 * g + ·)) s
  unfold State.record
  dsimp only
  generalize ((List.range 4).map (4 * g + ·)).foldl (fun (s : State) u => (s.memRead (64 * u) 64).1) s = t at *
  unfold State.OnlyJournaled
  rw [hread]

theorem State.journal_frame {s s2 : State} {q t : Nat} {gs : List Nat} (h : s.journal q t gs = .ok s2) :
    s2.OnlyJournaled s := by
  induction gs generalizing s with
  | nil =>
    cases h
    rfl
  | cons g gs ih =>
    unfold State.journal at h
    dsimp only at h
    split_ifs at h
    · exact ih h
    · exact (ih h).trans (s.record_frame q t g)

/-- The granules of writes to external memory lie in it. -/
theorem granulesOf_below {ws : List (Nat × Byte)} (h : ∀ w ∈ ws, w.1 < extEnd) :
    ∀ g ∈ granulesOf ws, 256 * g + 256 ≤ extEnd := by
  intro g hg
  obtain ⟨w, hw, rfl⟩ := List.mem_map.mp (List.mem_eraseDups.mp hg)
  have := h w (List.mem_filter.mp hw).1
  have hend : extEnd = 256 * (extEnd / 256) := by decide
  omega

/-- A write of a task in place to external memory: the journal's records first, then the bytes. -/
theorem State.writeInPlace_ext {s s2 : State} {q t : Nat} {ws : List (Nat × Byte)} (hext : ∀ w ∈ ws, w.1 < extEnd)
    (hfault : s.writeFault q t ws = none) (hjournal : s.journal q t (granulesOf ws) = .ok s2) :
    s.writeInPlace q t ws = .ok (s2.writeAll ws) ∧ (s2.writeAll ws).cores = s.cores
      ∧ (s2.writeAll ws).ge = { s.ge with journal := s2.ge.journal }
      ∧ ∀ y, (s2.writeAll ws).byte y = lastWrite ws y (s.byte y) := by
  have hlow : ∀ w ∈ ws, w.1 < windowBase := fun w hw => (hext w hw).trans (by decide)
  obtain ⟨hwritten, hbyte⟩ := s2.writeAll_low hlow
  have hcores := State.journal_cores (granulesOf_below hext) hjournal
  have hmem := State.journal_mem hjournal
  refine ⟨by rw [State.writeInPlace, hfault]; dsimp only; rw [hjournal], ?_, ?_, fun y => ?_⟩
  · rw [hwritten]
    exact hcores
  · rw [hwritten, State.journal_frame hjournal]
  · have hsame : s2.byte y = s.byte y := by
      unfold State.byte State.core
      rw [hcores, hmem]
    rw [hbyte, hsame]

/-! The operations. -/

section
variable {s : State} {q t : Nat} {x : Task} {m : Movement}

/-- An operation that takes its turns alone is carried out. -/
theorem State.moveTurn_alone (hempty : s.store.requests = []) : s.moveTurn q t x m = s.runMove q t x m := by
  rw [State.moveTurn, Movement.spots, s.turns_alone (.move q t) hempty (engineSpots_apart _ _)]

/-- A MOVE task that is ready, whose descriptors read well and break no rule, is carried out. -/
theorem State.startMove_runs {op : Nat} (htask : s.task q t = some x) (hkind : x.info.kind = .move)
    (hready : x.status = .ready) (hwait : x.info.descSpans.any (fun r => s.accessWaits r.1 r.2 false) = false)
    (hempty : s.store.requests = []) (hdescs : s.moveDescs x.info = (s, .ok m))
    (hrules : worst (m.findings s.byte s.places) = none) (hsome : m.nothing = false) (hop : x.info.d % 16 = op) :
    s.startMove op q t = s.runMove q t x m := by
  have hstart : (x.info.kind == .move && x.status == .ready
      && decide (x.info.d % 16 = op ∨ (op = 1 ∧ !([1, 2, 3, 4].contains (x.info.d % 16))))
      && !(x.info.descSpans.any (fun r => s.accessWaits r.1 r.2 false))) = true := by
    rw [hkind, hready, hwait, decide_eq_true (.inl hop)]
    rfl
  rw [State.startMove, htask, Option.bind_some]
  dsimp only
  rw [if_pos hstart, hdescs]
  dsimp only
  rw [hrules]
  dsimp only
  rw [if_neg (Bool.eq_false_iff.1 hsome), State.moveTurn_alone hempty]

/-- COPY, PERMUTE and GATHER carried out. -/
theorem State.runMove_writes {r : Moved} {s2 : State}
    (hwait : (m.reads s.byte).any (fun r => s.accessWaits r.1 r.2 false) = false)
    (hreads : s.moverReads (m.reads s.byte) = (s, none)) (hop : m.op ≠ some .scatter) (happly : m.apply s.byte = .ok r)
    (hfree : r.writes.any (fun w => s.accessWaits w.1 1 true) = false) (hfault : s.writeFault q t r.writes = none)
    (hplace : s.writeInPlace q t r.writes = .ok s2) : s.runMove q t x m = some (s2.moveDone q t x [] r.sats r.nans) :=
        by
  rw [State.runMove, if_neg (Bool.eq_false_iff.1 hwait), hreads]
  dsimp only
  rw [if_neg (by simpa using hop), happly]
  dsimp only
  rw [hfault]
  dsimp only
  rw [if_neg (Bool.eq_false_iff.1 hfree), hplace]

/-- SCATTER_ACC carried out. -/
theorem State.runMove_scatter (hwait : (m.reads s.byte).any (fun r => s.accessWaits r.1 r.2 false) = false)
    (hreads : s.moverReads (m.reads s.byte) = (s, none)) (hop : m.op = some .scatter) :
    s.runMove q t x m = some (s.moveDone q t x
      (scatterAll m s.byte (m.src.rowSpans.flatMap (fun r => padTo m.src.imageRow (s.bytes r.1 r.2)))).1
      (scatterAll m s.byte (m.src.rowSpans.flatMap (fun r => padTo m.src.imageRow (s.bytes r.1 r.2)))).2 0) := by
  rw [State.runMove, if_neg (Bool.eq_false_iff.1 hwait), hreads]
  exact if_pos (by rw [hop]; rfl)

end

theorem moveOperationResult : Claims.MoveOperationResult := by
  intro s q t x m hq htask hkind hready hwait hempty hdescs hrules hsome hreadwait hreads
  have hstart : ∀ {op}, x.info.d % 16 = op → s.startMove op q t = s.runMove q t x m :=
    State.startMove_runs htask hkind hready hwait hempty hdescs hrules hsome
  refine ⟨fun row hrow hop hscatter r s2 happly hext hfree hfault hjournal => ?_, fun hop hscatter => ?_⟩
  · obtain ⟨hplace, hcores, hge, hbyte⟩ := State.writeInPlace_ext hext hfault hjournal
    have hrun : exec row.1 s = .next ((s2.writeAll r.writes).moveDone q t x [] r.sats r.nans) := by
      have hmoved := (hstart hop).trans
        (State.runMove_writes hreadwait hreads hscatter happly hfree hfault hplace)
      have hexec : exec row.1 s = if decide (q < 4096) then s.happens
          (s.startMove row.2 q t) else .fault .noSuchUnit := by
        simp only [List.mem_cons, List.not_mem_nil, or_false] at hrow
        rcases hrow with rfl | rfl | rfl <;> rfl
      rw [hexec, if_pos (decide_eq_true hq), hmoved]
      rfl
    have htask' : (s2.writeAll r.writes).task q t = some x := by
      rw [← htask]
      unfold State.task State.graph State.sq
      rw [hge]
    generalize s2.writeAll r.writes = u at *
    exact ⟨_, _, hrun, State.task_setTask _ htask', rfl, rfl, rfl, rfl, rfl, hbyte, hcores, by
      rw [show (u.moveDone q t x [] r.sats r.nans).ge.journal = u.ge.journal from rfl, hge]⟩
  · have hexec : exec (.scatterAcc q t) s
      = if decide (q < 4096) then s.happens (s.startMove 4 q t) else .fault .noSuchUnit := rfl
    rw [hexec, if_pos (decide_eq_true hq), hstart hop, State.runMove_scatter hreadwait hreads hscatter]
    exact ⟨_, _, rfl, State.task_setTask _ htask, rfl, rfl, rfl, rfl, rfl⟩

/-- Settles O20: the operation takes its turns alone, then writes in place behind its journal, or into held lines. -/
theorem moveOperations : Obligations.MoveOperations := moveOperationResult

end Sys2Proof.Machine
end

section
/-! PROOF. Entries and their done records (R228, R358). -/

namespace Sys2Proof.Machine

open Sys2Proof

/-- A done record that an enabled queue takes waits behind the ones that were there; it may be marked late. -/
theorem EventQueue.take_done (q : EventQueue) {r : Rec} (h : r.isDone = true) :
    ∃ late, (q.take r).pending = q.pending ++ [{ r with late := late }] := by
  rw [EventQueue.take]
  split
  · exact ⟨r.late, rfl⟩
  · split
    · exact ⟨r.late, rfl⟩
    · exact ⟨true, rfl⟩

/-- The record of a submission queue waits at its event queue, behind the ones that were there. -/
theorem State.toSq_done (s : State) (q : Nat) {r : Rec} (h : r.isDone = true)
    (henable : (s.eq (s.sq q).eq).enable = true) :
    ∃ late, ((s.toSq q r).eq (s.sq q).eq).pending = (s.eq (s.sq q).eq).pending
      ++ [{ r with queue := q, region := (s.sq q).region, strike := s.strike, late := late }] := by
  have hdone : ({ r with queue := q, region := (s.sq q).region, strike := s.strike } : Rec).isDone = true := h
  obtain ⟨late, htake⟩ := (s.eq (s.sq q).eq).take_done hdone
  refine ⟨late, ?_⟩
  rw [State.toSq, State.toEq, State.eq_setEq, if_pos henable, htake]

/-- A record to an event queue changes the log of records alone. -/
theorem State.toSq_frame (s : State) (q : Nat) (r : Rec) :
    s.toSq q r = { s with logs := (s.toSq q r).logs } := rfl

theorem State.entryDone_frame (s : State) (q : Nat) (tag : BitVec 32) (no status aborted late : Nat) :
    s.entryDone q tag no status aborted late = { s with logs := (s.entryDone q tag no status aborted late).logs } := rfl

/-- The done record of an entry. -/
def doneRecord (tag : BitVec 32) (no status aborted late : Nat) : Rec :=
  { type := 3, tag := tag, status := status
    payload := leBytes 8 no ++ leBytes 4 aborted ++ leBytes 4 late }

/-- An entry is answered by its one done record. -/
theorem State.entryDone_answers {s u : State} {q : Nat} (tag : BitVec 32) (no status aborted late : Nat)
    (heq : (u.sq q).eq = (s.sq q).eq) (hqueue : u.eq (s.sq q).eq = s.eq (s.sq q).eq) (hstrike : u.strike = s.strike) :
    answersEntry s (u.entryDone q tag no status aborted late) q 3 status tag := by
  intro henable
  rw [← hqueue, ← heq] at henable
  obtain ⟨late', hpending⟩ := u.toSq_done q (r := doneRecord tag no status aborted late) rfl henable
  rw [heq, hqueue] at hpending
  exact ⟨_, hpending, rfl, rfl, rfl, rfl, hstrike⟩

/-- An entry at the front of its queue that is finished leaves it with its done record. -/
theorem State.finishEntry_answers (s : State) (q : Nat) (e : Entry) (status : Nat) :
    answersEntry s (s.finishEntry q e status) q 3 status e.tag :=
  State.entryDone_answers e.tag e.no status 0 0 (by rw [State.popEntry, State.sq_setSq]) rfl rfl

theorem State.finishEntry_frame (s : State) (q : Nat) (e : Entry) (status : Nat) :
    s.finishEntry q e status = { s with
      logs := (s.finishEntry q e status).logs
      ge := { s.ge with sqs := Assoc.set s.ge.sqs q { s.sq q with entries := (s.sq q).entries.tail } } } := rfl

theorem State.finishEntry_entries (s : State) (q : Nat) (e : Entry) (status : Nat) :
    ((s.finishEntry q e status).sq q).entries = (s.sq q).entries.tail :=
  congrArg Sq.entries (State.sq_setSq s q _)

/-- A good entry at the front of its queue is carried out. -/
theorem State.onEntry_next {s : State} {q : Nat} {e : Entry} (h : nextEntry s q e) (mine : Entry → Bool)
    (body : State → Entry → Option State) (hmine : mine e = true) : s.onEntry q mine body = s.happens (body s e) := by
  obtain ⟨hq, hfront, hgood⟩ := h
  have hsome : (s.sq q).entries.isEmpty = false := by
    by_contra hempty
    rw [Bool.not_eq_false, List.isEmpty_iff] at hempty
    have hhead : s.front q = if (s.sq q).graph.isSome || (s.sq q).state != .running || s.sqBlocked q then none
      else (s.sq q).entries.head? := rfl
    rw [hhead, hempty, List.head?_nil, ite_self] at hfront
    cases hfront
  have hdrop : ∀ n, s.dropBad q n = s := fun n => by
    cases n with
    | zero => rfl
    | succ n =>
      rw [State.dropBad, hfront]
      exact if_neg (Bool.eq_false_iff.1 hgood)
  rw [State.onEntry, if_pos (decide_eq_true hq)]
  dsimp only
  rw [hsome, if_neg Bool.false_ne_true, hdrop, hfront, Option.bind_some, if_pos hmine]

end Sys2Proof.Machine
end

section
/-! PROOF. Exchange channels and RESHARD (R303 to R306, R322, R323). -/

namespace Sys2Proof.Machine

open Sys2Proof

/-! A slot sent. -/

section
variable {s : State} {p : Fin 8} {n q t : Nat} {x : Task} {g : Graph} {bs : List Byte}

/-- A slot of one packet. -/
theorem State.sendSlot_one (c : Channel) (hbs : bs ≠ []) (hlen : bs.length ≤ 4096) :
    s.sendSlot p.val n c 0 (ceilDiv bs.length 4096) bs =
      s.setLport p.val ((s.lport p.val).sendTagged .red
        { op := 3, etype := xmodeType c.xmode, len := bs.length / 64, addr := c.remoteCtx, value := 0
          epoch := (s.lport p.val).epoch.toNat } bs (.channel n)) := by
  have hpos := List.length_pos_of_ne_nil hbs
  have hone : ceilDiv bs.length 4096 = 1 := by
    unfold ceilDiv
    omega
  rw [hone, State.sendSlot, if_neg (by simpa using hbs)]
  dsimp only
  rw [State.sendSlot, List.take_of_length_le hlen]

/-- The context of a send ring with one slot of each of its hasps taken. -/
def Ctx.slotTaken (k : Ctx) : Ctx := { k with hasp := k.hasp.map (fun z => { z with fill := z.fill - 1 }) }

/-- A channel whose slot number i of a pass is under way in so many packets. -/
def Channel.sending (c : Channel) (packets i pass : Nat) : Channel :=
  { c with
    slot := true, flying := packets, next := i, inPass := pass
    passes := if i = 0 then c.passes + 1 else c.passes }

/-- A slot of the send ring that may go. -/
theorem State.channelSlot_sends {c : Channel} {k : Ctx} {a : Nat} (hc : (s.lport p.val).channel n = c)
    (hk : s.ctx c.localCtx = k) (ha : a = k.snk + s.slotNo c % k.snkSlots * k.snkSlot)
    (howner : s.ownerTask k = some (q, t, x)) (hgraph : s.graph q = some g) (hfill : k.ringFill ≠ 0)
    (hcredit : s.slotNo c ≠ 0 ∨ s.waitMet c.creditFlag (BitVec.ofNat 64 c.passes) = true)
    (hepoch : g.epoch = (s.lport p.val).epoch) (hwait : s.dieWaits a = false) (hempty : s.store.requests = [])
    (hread : s.memRead a k.snkSlot = (s, .ok bs)) :
    s.channelSlot p n = some (((s.setCtx c.localCtx k.slotTaken).setLport p.val ((s.lport p.val).setChannel n
      (c.sending (ceilDiv bs.length 4096) (s.slotNo c) k.passNo))).sendSlot p.val n
      (c.sending (ceilDiv bs.length 4096) (s.slotNo c) k.passNo) 0 (ceilDiv bs.length 4096) bs) := by
  have hsame : after32 (s.lport p.val).epoch (s.lport p.val).epoch = false := by
    simp [after32]
  have hgo : ¬(k.ringFill = 0 ∨ (s.slotNo c = 0 ∧ !(s.waitMet c.creditFlag (BitVec.ofNat 64 c.passes)))) := by
    rintro (h | ⟨h, h'⟩)
    · exact hfill h
    · rcases hcredit with hnext | hmet
      · exact hnext h
      · rw [hmet] at h'
        cases h'
  unfold State.channelSlot
  dsimp only
  rw [hc, hk, howner]
  dsimp only
  rw [if_neg hgo, hgraph, Option.map_some, Option.getD_some, hepoch, hsame, if_neg Bool.false_ne_true, ← ha, hwait,
    if_neg Bool.false_ne_true, if_neg Bool.false_ne_true, s.portTurn_alone p a _ hempty]
  dsimp only
  rw [hread]
  dsimp only
  rw [hk]
  rfl

end

theorem channelSlotSent : Claims.ChannelSlotSent := by
  intro s p n q t x g bs y c k i a hready hruns hvalid hclearing hslot howner hgraph hfill hcredit hepoch hwait hempty
    hread hbs hlen
  have hone : ceilDiv bs.length 4096 = 1 := by
    have hpos := List.length_pos_of_ne_nil hbs
    unfold ceilDiv
    omega
  have hsends := State.channelSlot_sends (p := p) (n := n.val) rfl rfl rfl howner hgraph hfill hcredit hepoch hwait
    hempty hread
  have hmay : (y.state == .ready && s.portRuns p.val && c.valid && c.clearing.isNone && !c.slot) = true := by
    rw [hready, hruns, hvalid, hclearing, hslot]
    rfl
  have hrun : exec (.channelSlotSend p n) s = s.happens (s.channelSlot p n.val) :=
    congrArg s.happens (if_pos hmay)
  rw [hrun, hsends, State.sendSlot_one _ hbs hlen, State.lport_setLport, hone]
  refine ⟨_, rfl, ?_, ?_, ?_, ?_, ?_, fun m hm => ?_, rfl⟩
  · rw [State.lport_setLport]
    rfl
  · rw [State.lport_setLport]
    rfl
  · rw [State.lport_setLport]
    exact congrArg Channel.slot (Assoc.get_put_same _ _ _ _)
  · rw [State.lport_setLport]
    exact congrArg Channel.flying (Assoc.get_put_same _ _ _ _)
  · exact congrArg Ctx.hasp (State.ctx_setCtx s c.localCtx k.slotTaken)
  · exact State.ctx_setCtx_other (s := s) k.slotTaken hm

/-! The life of a RESHARD. -/

theorem getD_readFrom (rd : Nat → Byte) {a n i : Nat} (h : i < n) : (readFrom rd a n).getD i 0 = rd (a + i) := by
  induction n generalizing a i with
  | zero => omega
  | succ n ih =>
    cases i with
    | zero => rfl
    | succ i =>
      rw [readFrom, List.getD_cons_succ, ih (by omega)]
      congr 1
      omega

section
variable (s : State)

theorem State.reshardOf_eq (axis : Nat) :
    s.reshardOf axis = Assoc.get none (s.link.reshards.map (fun e => (e.1, some e.2))) axis := rfl

theorem Assoc.map_set {α β : Type} (f : α → β) (m : Assoc α) (n : Nat) (v : α) :
    (Assoc.set m n v).map (fun e => (e.1, f e.2)) = Assoc.set (m.map (fun e => (e.1, f e.2))) n (f v) := by
  have hins : ∀ m : Assoc α, (Assoc.ins n v m).map (fun e => (e.1, f e.2))
      = Assoc.ins n (f v) (m.map (fun e => (e.1, f e.2))) := fun m => by
    induction m with
    | nil => rfl
    | cons e m ih =>
      rw [Assoc.ins, List.map_cons, Assoc.ins]
      split
      · rfl
      · rw [List.map_cons, ih]
  rw [Assoc.set, Assoc.set, hins, Assoc.del, Assoc.del, List.filter_map]
  rfl

theorem State.reshardOf_setReshard (axis : Nat) (r : Reshard) : (s.setReshard axis r).reshardOf axis = some r := by
  have hreads : (s.setReshard axis r).reshardOf axis
    = Assoc.get none ((Assoc.set s.link.reshards axis r).map (fun e => (e.1, some e.2))) axis := rfl
  rw [hreads, Assoc.map_set some, Assoc.get_set_same]

/-- No RESHARD of an axis. -/
def State.withoutReshard (axis : Nat) : State :=
  { s with link := { s.link with reshards := Assoc.del s.link.reshards axis } }

theorem State.reshardOf_withoutReshard (axis : Nat) : (s.withoutReshard axis).reshardOf axis = none := by
  have hreads : (s.withoutReshard axis).reshardOf axis
    = Assoc.get none ((Assoc.del s.link.reshards axis).map (fun e => (e.1, some e.2))) axis := rfl
  have hdel : (Assoc.del s.link.reshards axis).map (fun e => (e.1, some e.2))
      = Assoc.del (s.link.reshards.map (fun e => (e.1, some e.2))) axis := by
    rw [Assoc.del, Assoc.del, List.filter_map]
    rfl
  rw [hreads, hdel, Assoc.get_del_same]

/-- A port with an epoch. -/
def Port.atEpoch (x : Port) (v : BitVec 32) : Port := { x with epoch := v }

theorem State.setEpoch_spec (axis : Nat) (v : BitVec 32) :
    (∃ ports, s.setEpoch axis v = { s with link := { s.link with ports := ports } })
      ∧ ((s.setEpoch axis v).lport (2 * axis)).epoch = v ∧ ((s.setEpoch axis v).lport (2 * axis + 1)).epoch = v := by
  have hboth : s.setEpoch axis v = (s.setLport (2 * axis) ((s.lport (2 * axis)).atEpoch v)).setLport (2 * axis + 1)
    (((s.setLport (2 * axis) ((s.lport (2 * axis)).atEpoch v)).lport (2 * axis + 1)).atEpoch v) := rfl
  rw [hboth]
  refine ⟨⟨_, rfl⟩, ?_, ?_⟩
  · rw [State.lport_setLport_other _ _ (by omega), State.lport_setLport]
    rfl
  · rw [State.lport_setLport]
    rfl

/-- A RESHARD whose moves have begun, with no packet to be answered. -/
def Reshard.opened (r : Reshard) : Reshard := { r with step := .moves, flying := 0 }

/-- The copy-out of one local entry: its bytes go through the scratch region to their place. -/
theorem State.copyOut_local {s : State} {axis : Nat} {r : Reshard} {e : PermEntry} {bs : List Byte}
    (hfault : r.fault = none) (hlist : r.list = [e]) (hdir : e.dir = 0)
    (hread : s.memRead e.src (64 * e.units) = (s, .ok bs)) :
    s.copyOut axis r =
      let u := ((s.writeRun r.scratch bs).setEpoch axis r.epoch).setReshard axis r.opened
      u.writeRun e.dst (u.bytes r.scratch (64 * e.units)) := by
  have hcopied : s.copySpans r.scratch [(0, e)] = (s.writeRun r.scratch bs, none) := by
    rw [State.copySpans, hread]
    rfl
  have hmove : ∀ (u : State) (r : Reshard), u.moveEntry axis r (0, e)
      = u.writeRun e.dst (u.bytes r.scratch (64 * e.units)) := fun u r => if_pos hdir
  have hcount : packetCount [e] = 0 := by
    rw [packetCount, List.foldl_cons, List.foldl_nil, if_pos hdir]
  obtain ⟨q, entry, step, epoch, scratch, list, inPlus, inMinus, gotPlus, gotMinus, flying, fault⟩ := r
  dsimp only at hfault hlist hcopied
  subst hfault hlist
  unfold State.copyOut
  dsimp only
  rw [if_neg (by simp), packed, packed, hcopied]
  dsimp only
  rw [hcount, List.foldl_cons, List.foldl_nil]
  exact hmove _ _

end

/-- The copy-out of one local entry in external memory: what stands in memory then. -/
theorem State.copyOut_bytes {s : State} {axis : Nat} {r : Reshard} {e : PermEntry} (hfault : r.fault = none)
    (hlist : r.list = [e]) (hdir : e.dir = 0)
    (hread : s.memRead e.src (64 * e.units) = (s, .ok (s.bytes e.src (64 * e.units))))
    (hdst : e.dst + 64 * e.units ≤ extEnd) (hscratch : r.scratch + 64 * e.units ≤ extEnd) :
    (s.copyOut axis r).reshardOf axis = some r.opened
    ∧ ((s.copyOut axis r).lport (2 * axis)).epoch = r.epoch ∧ ((s.copyOut axis r).lport (2 * axis + 1)).epoch = r.epoch
    ∧ ∀ y, (s.copyOut axis r).byte y = if e.dst ≤ y ∧ y < e.dst + 64 * e.units then s.byte (e.src + (y - e.dst))
        else if r.scratch ≤ y ∧ y < r.scratch + 64 * e.units then s.byte (e.src + (y - r.scratch)) else s.byte y := by
  have hlow : extEnd < windowBase := by decide
  have hbytes : ∀ (u : State) a n i, i < n → (u.bytes a n).getD i 0 = u.byte (a + i) := fun u a n i hi =>
    getD_readFrom u.byte hi
  have hlen : ∀ (u : State) a n, (u.bytes a n).length = n := fun u a n => length_readFrom _ _ _
  obtain ⟨hfirst, hfirstBytes⟩ := s.writeRun_low (a := r.scratch) (bs := s.bytes e.src (64 * e.units)) (by omega)
    (by rw [hlen]; omega)
  rw [State.copyOut_local hfault hlist hdir hread]
  dsimp only
  generalize s.writeRun r.scratch (s.bytes e.src (64 * e.units)) = v at *
  obtain ⟨⟨ports, hepoch⟩, hplus, hminus⟩ := v.setEpoch_spec axis r.epoch
  have hsame : ∀ y, ((v.setEpoch axis r.epoch).setReshard axis r.opened).byte y
      = v.byte y := fun y => by
    rw [hepoch]
    rfl
  have hopen := (v.setEpoch axis r.epoch).reshardOf_setReshard axis r.opened
  have hplus' : (((v.setEpoch axis r.epoch).setReshard axis r.opened).lport
    (2 * axis)).epoch = r.epoch := hplus
  have hminus' : (((v.setEpoch axis r.epoch).setReshard axis r.opened).lport
    (2 * axis + 1)).epoch = r.epoch := hminus
  generalize (v.setEpoch axis r.epoch).setReshard axis r.opened = u at *
  obtain ⟨hsecond, hsecondBytes⟩ := u.writeRun_low (a := e.dst) (bs := u.bytes r.scratch (64 * e.units)) (by omega)
    (by rw [hlen]; omega)
  generalize u.writeRun e.dst (u.bytes r.scratch (64 * e.units)) = w at *
  refine ⟨?_, ?_, ?_, fun y => ?_⟩
  · rw [hsecond]
    exact hopen
  · rw [hsecond]
    exact hplus'
  · rw [hsecond]
    exact hminus'
  · rw [hlen] at hfirstBytes hsecondBytes
    rw [hsecondBytes, hsame, hfirstBytes]
    split
    next hy =>
      rw [hbytes _ _ _ _ (by omega), hsame, hfirstBytes, if_pos (by omega), hbytes _ _ _ _ (by omega)]
      congr 2
      omega
    next hy =>
      split
      next hy' => rw [hbytes _ _ _ _ (by omega)]
      next hy' => rfl

/-- What a RESHARD entry does that no other one keeps back. -/
theorem exec_reshard {s s1 : State} {axis : Fin 4} {q : Nat} {e : Entry} {o : Option Reshard} (hnext : nextEntry s q e)
    (hop : e.op = 4) (haxis : e.arg 0 % 4 = axis.val) (hwait : s.readsWait (s.reshardSpans (e.arg 1)) = false)
    (hnone : s.reshardOf axis.val = none) (hothers : ∀ x ∈ s.link.reshards, ¬(x.2.q = q ∧ x.2.entry = e.no))
    (hread : s.readReshard q e = (s1, o)) : exec (.reshard q) s =
      .next (o.elim (s1.finishEntry q e 3) fun r => s1.setReshard axis.val r) := by
  have hmine : (e.op == 4) = true := by
    rw [hop]
    rfl
  have hfree : (s.link.reshards.any (fun r => r.2.q == q && r.2.entry == e.no)) = false := by
    rw [Bool.eq_false_iff]
    intro hany
    obtain ⟨x, hx, hsame⟩ := List.any_eq_true.1 hany
    exact hothers x hx (by simpa using hsame)
  have hentry := State.onEntry_next hnext (fun e => e.op == 4) (fun s e =>
    if (s.reshardOf (e.arg 0 % 4)).isSome || s.link.reshards.any (fun r => r.2.q == q && r.2.entry == e.no)
        || s.readsWait (s.reshardSpans (e.arg 1))
    then none
    else match s.readReshard q e with
      | (s, none) => some (s.finishEntry q e 3)
      | (s, some r) => some (s.setReshard (e.arg 0 % 4) r)) hmine
  refine Eq.trans hentry ?_
  rw [haxis, hnone, hfree, hwait, hread]
  cases o <;> rfl

theorem reshardLife : Claims.ReshardLife := by
  intro s axis r
  refine ⟨fun q e s1 hnext hop haxis hwait hnone hothers => ⟨fun hread => ?_, fun hread => ?_⟩,
    fun hr => ⟨fun hstep hpassed => ?_, fun e1 hstep hfault hlist hdir hwait hread hdst hscratch hapart => ?_,
      fun e hstep hfault hflying hplus hminus hentry => ?_⟩⟩
  · rw [exec_reshard hnext hop haxis hwait hnone hothers hread]
    exact ⟨_, rfl, s1.reshardOf_setReshard axis.val r, rfl, rfl⟩
  · rw [exec_reshard hnext hop haxis hwait hnone hothers hread]
    exact ⟨_, rfl, rfl, s1.finishEntry_entries q e 3, s1.finishEntry_answers q e 3⟩
  · have hrun : exec (.epochFence axis) s = .next (s.setReshard axis.val { r with step := .copyOut }) := by
      have hdef : exec (.epochFence axis) s = s.happens ((s.reshardOf axis.val).bind (fun r =>
        if r.step == .fence && s.fencePassed axis.val r then some (s.setReshard axis.val { r with step := .copyOut })
        else none)) := rfl
      rw [hdef, hr, Option.bind_some, if_pos (by rw [hstep, hpassed]; rfl)]
      rfl
    exact ⟨_, hrun, s.reshardOf_setReshard axis.val _, rfl, rfl⟩
  · have hrun : exec (.copyOut axis) s = .next (s.copyOut axis.val r) := by
      have hdef : exec (.copyOut axis) s = s.happens ((s.reshardOf axis.val).bind (fun r =>
        if r.step == .copyOut && !(s.reshardWaits r) then some (s.copyOut axis.val r) else none)) := rfl
      rw [hdef, hr, Option.bind_some, if_pos (by rw [hstep, hwait]; rfl)]
      rfl
    obtain ⟨hopen, hplus, hminus, hbytes⟩ :=
      State.copyOut_bytes (axis := axis.val) hfault hlist hdir hread hdst hscratch
    refine ⟨_, hrun, fun i hi => ?_, fun a ha ha' => ?_, hplus, hminus, hopen⟩
    · rw [hbytes, if_pos (by omega), Nat.add_sub_cancel_left]
    · rw [hbytes, if_neg (by omega), if_neg (by omega)]
  · have hover : r.over = true := by
      rw [Reshard.over, hstep, hfault, decide_eq_true ⟨hflying, hplus, hminus⟩]
      rfl
    have hrun : exec (.reshardComplete axis) s
        = .next (((s.withoutReshard axis.val).takeOut r.q e).entryDone r.q e.tag e.no 0 0 0) := by
      have hdef : exec (.reshardComplete axis) s = s.happens ((s.reshardOf axis.val).bind (fun r =>
        if r.over then some (match ((s.withoutReshard axis.val).sq r.q).entries.find? (fun e => e.no == r.entry) with
          | some e => ((s.withoutReshard axis.val).takeOut r.q e).entryDone r.q e.tag e.no 0 0 0
          | none => s.withoutReshard axis.val)
        else none)) := rfl
      have hsq : (s.withoutReshard axis.val).sq r.q = s.sq r.q := rfl
      rw [hdef, hr, Option.bind_some, if_pos hover, hsq, hentry]
      rfl
    exact ⟨_, hrun, s.reshardOf_withoutReshard axis.val, congrArg Sq.entries (State.sq_setSq _ _ _),
      State.entryDone_answers e.tag e.no 0 0 0 (by rw [State.takeOut, State.sq_setSq]; rfl) rfl rfl, rfl, rfl⟩

/-- Settles O32: a slot of one packet, and the steps of a RESHARD from its entry to its completion. -/
theorem exchangeAndReshard : Obligations.ExchangeAndReshard := ⟨channelSlotSent, reshardLife⟩

end Sys2Proof.Machine
end

section
/-! PROOF. What the end of a task leaves of the queues, and the fault of a region (R242, R253, R404, R405). -/

namespace Sys2Proof.Machine

open Sys2Proof

/-- Two states have the same queues, regions and flags. -/
@[reducible, simp] def State.SameQueues (t s : State) : Prop :=
  t.ge.sqs = s.ge.sqs ∧ t.ge.regions = s.ge.regions ∧ t.store.flags = s.store.flags

theorem State.SameQueues.trans {s t u : State} (htu : u.SameQueues t) (hst : t.SameQueues s) : u.SameQueues s :=
  ⟨htu.1.trans hst.1, htu.2.1.trans hst.2.1, htu.2.2.trans hst.2.2⟩

theorem foldl_queues {β : Type} (f : State → β → State) (l : List β) (s : State) (hf : ∀ s y, (f s y).SameQueues s) :
    (l.foldl f s).SameQueues s := by
  induction l generalizing s with
  | nil => exact ⟨rfl, rfl, rfl⟩
  | cons y l ih => exact (ih _).trans (hf s y)

section
variable (s : State)

theorem State.discard_queues (n k : Nat) : (s.discard n k).SameQueues s := by
  unfold State.discard
  dsimp only
  split_ifs <;> exact ⟨rfl, rfl, rfl⟩

theorem State.restoreCtx_queues (n : Nat) : (s.restoreCtx n).SameQueues s := s.discard_queues n _

theorem State.stopCore_queues (q t c : Nat) : (s.stopCore q t c).SameQueues s := by
  unfold State.stopCore State.rowIdle
  split_ifs <;> exact ⟨rfl, rfl, rfl⟩

theorem State.setBytes_queues (ws : List (Nat × Byte)) : (s.setBytes ws).SameQueues s :=
  foldl_queues _ ws s fun s w => by
    unfold State.setByte
    split <;> exact ⟨rfl, rfl, rfl⟩

theorem State.extWrite_queues (a : Nat) (bs : List Byte) : (s.extWrite a bs).SameQueues s := by
  rw [State.extWrite_eq, State.renewed_frame]
  exact State.setBytes_queues _ _

theorem State.writeRun_queues (a : Nat) (bs : List Byte) : (s.writeRun a bs).SameQueues s := by
  unfold State.writeRun
  split
  · exact s.extWrite_queues a bs
  · exact State.setBytes_queues _ _
  · next c off _ => cases (s.core c).lmWrite off bs <;> exact ⟨rfl, rfl, rfl⟩
  · exact State.setBytes_queues _ _

theorem State.remark_queues (g : Nat) (lost : List Nat) (poisoned : Bool) : (s.remark g lost poisoned).SameQueues s :=
    by
  unfold State.remark
  split
  · exact ⟨rfl, rfl, rfl⟩
  · split
    · dsimp only
      split <;> exact ⟨rfl, rfl, rfl⟩
    · exact ⟨rfl, rfl, rfl⟩
    · exact ⟨rfl, rfl, rfl⟩

theorem State.restore_queues (j : Journal) : (s.restore j).SameQueues s := by
  unfold State.restore
  split
  · exact ⟨rfl, rfl, rfl⟩
  · exact (State.remark_queues _ _ _ _).trans (s.writeRun_queues _ _)

theorem State.undo_queues (j : Journal) : (s.undo j).SameQueues s := by
  unfold State.undo
  split
  · exact ⟨rfl, rfl, rfl⟩
  · exact s.restore_queues j

theorem State.rollback_queues (q t : Nat) : (s.rollback q t).SameQueues s :=
  foldl_queues State.undo _ s fun s j => s.undo_queues j

/-- Between two states a queue alone has changed, and it has loaded no graph. -/
@[reducible] def State.OnlyQueue (q : Nat) (t s : State) : Prop :=
  (∀ p, p ≠ q → t.sq p = s.sq p) ∧ t.ge.regions = s.ge.regions ∧ t.store.flags = s.store.flags
    ∧ (s.graph q = none → t.graph q = none)

theorem State.OnlyQueue.trans {q : Nat} {s t u : State} (htu : u.OnlyQueue q t) (hst : t.OnlyQueue q s) :
    u.OnlyQueue q s :=
  ⟨fun p hp => (htu.1 p hp).trans (hst.1 p hp), htu.2.1.trans hst.2.1, htu.2.2.1.trans hst.2.2.1,
    fun h => htu.2.2.2 (hst.2.2.2 h)⟩

theorem State.SameQueues.only {s t : State} (h : t.SameQueues s) (q : Nat) : t.OnlyQueue q s := by
  have hsq : ∀ p, t.sq p = s.sq p := fun p => by rw [State.sq, State.sq, h.1]
  exact ⟨fun p _ => hsq p, h.2.1, h.2.2, fun hnone => by rwa [State.graph, hsq]⟩

theorem State.setTask_only (q t : Nat) (x : Task) : (s.setTask q t x).OnlyQueue q s := by
  refine ⟨fun p hp => State.sq_setSq_other s _ hp, rfl, rfl, fun h => ?_⟩
  have hnone : (s.sq q).graph = none := h
  rw [State.graph, State.setTask, State.sq_setSq, hnone]
  rfl

theorem State.taskDone_frame (q t : Nat) : ∃ logs, s.taskDone q t = { s with logs := logs } := by
  unfold State.taskDone
  split
  · split
    · exact ⟨_, rfl⟩
    · exact ⟨_, rfl⟩
  · exact ⟨_, rfl⟩

theorem State.taskDone_only (q t : Nat) : (s.taskDone q t).OnlyQueue q s := by
  obtain ⟨logs, h⟩ := s.taskDone_frame q t
  rw [h]
  exact State.SameQueues.only ⟨rfl, rfl, rfl⟩ q

theorem State.revoke_only (q t : Nat) : (s.revoke q t).OnlyQueue q s := by
  unfold State.revoke
  split
  · exact State.SameQueues.only ⟨rfl, rfl, rfl⟩ q
  · next x _ =>
    dsimp only
    have hstopped := foldl_queues (fun s c => s.stopCore q t c) x.cores s fun s c => s.stopCore_queues q t c
    have hwithdrawn : ((x.cores.foldl (fun s c => s.stopCore q t c) s).withdrawTask q t).SameQueues s := hstopped
    have hback := (State.rollback_queues _ q t).trans hwithdrawn
    exact ((foldl_queues State.restoreCtx _ _ fun s n => s.restoreCtx_queues n).only q).trans
      ((State.setTask_only _ q t _).trans (hback.only q))

theorem State.stopTask_only (q t : Nat) (st : TStatus) (fate : TaskEnd) : (s.stopTask q t st fate).OnlyQueue q s := by
  have hsame : s.OnlyQueue q s := State.SameQueues.only ⟨rfl, rfl, rfl⟩ q
  have hdropped : (((s.revoke q t).owned q t).foldl (fun s k => s.setCtx k (s.ctx k).orphaned)
      (s.revoke q t)).OnlyQueue q s :=
    ((foldl_queues (fun s k => s.setCtx k (s.ctx k).orphaned) _ _ fun s k => ⟨rfl, rfl, rfl⟩).only q).trans
        (s.revoke_only q t)
  unfold State.stopTask
  split
  · exact hsame
  · split
    · exact hsame
    · dsimp only
      split
      · exact hdropped
      · exact (State.taskDone_only _ q t).trans ((State.setTask_only _ q t _).trans hdropped)

theorem foldl_only {β : Type} (q : Nat) (f : State → β → State) (l : List β) (s : State)
    (hf : ∀ s y, (f s y).OnlyQueue q s) : (l.foldl f s).OnlyQueue q s := by
  induction l generalizing s with
  | nil => exact State.SameQueues.only ⟨rfl, rfl, rfl⟩ q
  | cons y l ih => exact (ih _).trans (hf s y)

theorem State.skipTasks_only (q : Nat) (ts : List Nat) : (s.skipTasks q ts).OnlyQueue q s := by
  induction ts generalizing s with
  | nil => exact State.SameQueues.only ⟨rfl, rfl, rfl⟩ q
  | cons t ts ih =>
    unfold State.skipTasks
    split
    · dsimp only
      split
      · exact (ih _).trans ((State.taskDone_only _ q t).trans (s.setTask_only q t _))
      · exact ih s
    · exact ih s

theorem State.cutSettle_only (q : Nat) : (s.cutSettle q).OnlyQueue q s := by
  have hsame : s.OnlyQueue q s := State.SameQueues.only ⟨rfl, rfl, rfl⟩ q
  unfold State.cutSettle
  dsimp only
  split
  · exact hsame
  · split
    · exact hsame
    · refine ⟨fun p hp => State.sq_setSq_other s _ hp, rfl, rfl, fun h => ?_⟩
      exact (congrArg Sq.graph (State.sq_setSq s q _)).trans h

theorem State.closeGraph_only (q status : Nat) : (s.closeGraph q status).OnlyQueue q s := by
  unfold State.closeGraph
  split
  · exact State.SameQueues.only ⟨rfl, rfl, rfl⟩ q
  · exact ⟨fun p hp => State.sq_setSq_other _ _ hp, rfl, rfl, fun _ => congrArg Sq.graph (State.sq_setSq _ q _)⟩

theorem State.settleGraph_only (q : Nat) : (s.settleGraph q).OnlyQueue q s := by
  have hcut := (State.cutSettle_only (s.skipTasks q ((s.graph q).elim [] (fun g => g.tasks.map Prod.fst))) q).trans
    (s.skipTasks_only q _)
  unfold State.settleGraph
  dsimp only
  split
  · split
    · exact (State.closeGraph_only _ q 0).trans hcut
    · exact hcut
  · exact hcut

/-- A queue of a region that faults: its tasks end and it stops. -/
def State.stopQueue (q : Nat) : State :=
  let s := (s.liveTasks q).foldl (fun s t => s.stopTask q t .aborted { cause := 0xF1 }) s
  let s := s.settleGraph q
  s.setSq q { s.sq q with state := .stopped, sc := (s.sq q).sc.event 3 }

theorem State.stopQueue_spec (q : Nat) : (s.stopQueue q).OnlyQueue q s ∧ ((s.stopQueue q).sq q).state = .stopped := by
  have hsettled := (State.settleGraph_only ((s.liveTasks q).foldl
    (fun s t => s.stopTask q t .aborted { cause := 0xF1 }) s) q).trans
    (foldl_only q _ _ s fun s t => s.stopTask_only q t _ _)
  refine ⟨State.OnlyQueue.trans ⟨fun p hp => State.sq_setSq_other _ _ hp, rfl, rfl, fun h => ?_⟩ hsettled,
    congrArg Sq.state (State.sq_setSq _ q _)⟩
  exact (congrArg Sq.graph (State.sq_setSq _ q _)).trans h

/-- The queues of a region stop, one after another. -/
theorem foldl_stopQueue (qs : List Nat) (s : State) :
    (qs.foldl State.stopQueue s).ge.regions = s.ge.regions
      ∧ (qs.foldl State.stopQueue s).store.flags = s.store.flags
      ∧ ∀ q, (s.graph q = none → (qs.foldl State.stopQueue s).graph q = none)
        ∧ ((s.sq q).state = .stopped ∨ q ∈ qs → ((qs.foldl State.stopQueue s).sq q).state = .stopped) := by
  induction qs generalizing s with
  | nil => exact ⟨rfl, rfl, fun q => ⟨id, fun h => h.resolve_right (by simp)⟩⟩
  | cons p qs ih =>
    obtain ⟨⟨hother, hregions, hflags, hnone⟩, hstopped⟩ := s.stopQueue_spec p
    obtain ⟨hrest, hsame, hqueues⟩ := ih (s.stopQueue p)
    refine ⟨hrest.trans hregions, hsame.trans hflags, fun q => ⟨fun h => (hqueues q).1 ?_, fun h => (hqueues q).2 ?_⟩⟩
    · by_cases hq : q = p
      · subst hq
        exact hnone h
      · rw [State.graph, hother q hq]
        exact h
    · by_cases hq : q = p
      · subst hq
        exact .inl hstopped
      · rcases h with h | h
        · rw [hother q hq]
          exact .inl h
        · exact .inr ((List.mem_cons.1 h).resolve_left hq)

/-- An enabled queue is one of its region. -/
theorem State.mem_queuesOf {q : Nat} (h : (s.sq q).enable = true) : q ∈ s.queuesOf (s.sq q).region := by
  have hmem : ∀ m : Assoc Sq, (Assoc.get {} m q).enable = true → (q, Assoc.get {} m q) ∈ m := fun m => by
    induction m with
    | nil => exact fun h => absurd h Bool.false_ne_true
    | cons e m ih =>
      intro hm
      rw [Assoc.get_cons] at hm ⊢
      by_cases he : e.1 = q
      · rw [if_pos he, ← he]
        exact List.mem_cons_self
      · rw [if_neg he] at hm ⊢
        exact List.mem_cons_of_mem _ (ih hm)
  exact List.mem_map.2 ⟨(q, s.sq q), List.mem_filter.2 ⟨hmem _ h, by simp [h]⟩, rfl⟩

/-- A region that shows the cause of its fault. -/
def State.regionFaulted (r cause : Nat) : State :=
  let g := s.region r
  { s with ge := { s.ge with regions := Assoc.set s.ge.regions r { g with cause := cause, sc := g.sc.event 1 } } }

/-- The record of a region's fault. -/
def faultRecord (strike : Word) (cause n : Nat) : Rec :=
  { type := 7, strike := strike, status := cause, payload := leBytes 4 n }

/-- A region that faults shows its cause; its queues stop, and load no graph. -/
theorem State.faultRegion_spec (r cause : Nat) :
    ((s.faultRegion r cause).region r).cause = cause ∧ (s.faultRegion r cause).store.flags = s.store.flags
      ∧ ∀ q, (s.graph q = none → (s.faultRegion r cause).graph q = none)
        ∧ (q ∈ s.queuesOf r → ((s.faultRegion r cause).sq q).state = .stopped) := by
  obtain ⟨-, hflags, hqueues⟩ := foldl_stopQueue (s.queuesOf r) s
  have hfault : ∃ n : Nat, s.faultRegion r cause
      = (((s.queuesOf r).foldl State.stopQueue s).regionFaulted r cause).toRegion r
        (faultRecord ((s.queuesOf r).foldl State.stopQueue s).strike cause n) := ⟨_, rfl⟩
  obtain ⟨n, hfault⟩ := hfault
  generalize (s.queuesOf r).foldl State.stopQueue s = u at *
  rw [hfault]
  refine ⟨?_, hflags, fun q => ⟨fun h => (hqueues q).1 h, fun h => (hqueues q).2 (.inr h)⟩⟩
  exact congrArg Region.cause (Assoc.get_set_same _ _ r _)

end

end Sys2Proof.Machine
end

section
/-! PROOF. FLAG, GRAPH, STREAM and ABORT entries (R230, R231, R236, R242, R244, R249). -/

namespace Sys2Proof.Machine

open Sys2Proof

/-! FLAG. -/

/-- FLAG of a form that is good. -/
theorem Entry.flag_form {e : Entry} (hop : e.op = 5) (hgood : e.bad = false) :
    e.arg 0 / 2 ^ 16 = 2 ∨ e.arg 0 / 2 ^ 16 = 3 := by
  have hform : e.formOk = true := by
    rw [Entry.bad, hop] at hgood
    simpa using hgood
  rw [Entry.formOk, hop, Bool.and_eq_true] at hform
  have hfields := of_decide_eq_true hform.2
  omega

/-- A flag set, or added to. -/
theorem State.applyFlag_spec (s : State) {op : Nat} (f : Nat) (v : Word) (h : op = 2 ∨ op = 3) :
    (∃ flags, s.applyFlag op f v = { s with store := { s.store with flags := flags } })
      ∧ (s.applyFlag op f v).flag f = (if op = 2 then v else s.flag f + v)
      ∧ ∀ n, n ≠ f → (s.applyFlag op f v).flag n = s.flag n := by
  rcases h with rfl | rfl
  · exact ⟨⟨_, rfl⟩, Assoc.get_put_same _ _ _ _, fun n hn => Assoc.get_put_other _ _ _ hn⟩
  · exact ⟨⟨_, rfl⟩, Assoc.get_put_same _ _ _ _, fun n hn => Assoc.get_put_other _ _ _ hn⟩

theorem flagEntryResult : Claims.FlagEntryResult := by
  intro s q e hnext hop f v
  have hrun : exec (.flag q) s = .next ((s.applyFlag (e.arg 0 / 2 ^ 16) f v).finishEntry q e 0) :=
    State.onEntry_next hnext (fun e => e.op == 5) (fun s e => some
      ((s.applyFlag (e.arg 0 / 2 ^ 16) (e.arg 0 % 2 ^ 16) (BitVec.ofNat 64 (e.arg 1))).finishEntry q e 0))
      (by rw [hop]; rfl)
  obtain ⟨⟨flags, hflags⟩, hsame, hother⟩ := s.applyFlag_spec f v (Entry.flag_form hop hnext.2.2)
  rw [hflags] at hrun hsame hother
  refine ⟨_, hrun, hsame, hother, State.finishEntry_answers _ q e 0, State.finishEntry_entries _ q e 0,
    fun p hp => ?_, rfl, rfl, rfl⟩
  exact State.sq_setSq_other (s := s) { s.sq q with entries := (s.sq q).entries.tail } hp

/-! GRAPH. -/

section
variable {s s1 : State} {q : Nat} {e : Entry}

/-- A queue that takes an entry has no graph loaded. -/
theorem graph_of_nextEntry (h : nextEntry s q e) : s.graph q = none := by
  have hhead : s.front q = if (s.sq q).graph.isSome || (s.sq q).state != .running || s.sqBlocked q then none
    else (s.sq q).entries.head? := rfl
  obtain ⟨-, hfront, -⟩ := h
  rw [hhead] at hfront
  by_contra hgraph
  have hsome : (s.sq q).graph.isSome = true := Option.isSome_iff_ne_none.2 hgraph
  rw [if_pos (by rw [hsome]; rfl)] at hfront
  cases hfront

theorem State.endDoomed_none {s : State} (h : s.graph q = none) : s.endDoomed q = s := by
  rw [State.endDoomed, h]

/-- A GRAPH entry at the front of its queue. -/
theorem exec_graph (hnext : nextEntry s q e) (hop : e.op = 1) :
    exec (.graph q) s = s.happens ((s.takeGraph q e).map (fun s => s.endDoomed q)) :=
  State.onEntry_next hnext (fun e => e.op == 1) (fun s e => (s.takeGraph q e).map (fun t : State => t.endDoomed q))
    (by rw [hop]; rfl)

/-- The record of a graph that is rejected. -/
def graphRecord (tag : BitVec 32) (entry reason first : Nat) (user : Word) : Rec :=
  { type := 2, tag := tag, status := 1
    payload := (List.range 4).flatMap (fun n => leBytes 4 (([] : List Nat).getD n 0)) ++ leBytes 4 first
      ++ [BitVec.ofNat 8 reason, 0, 0, 0] ++ leBytes 8 entry ++ leBytes 8 user.toNat }

/-- A graph that is rejected. -/
def State.rejected (s : State) (q : Nat) (e : Entry) (reason first : Nat) (user : Word) : State :=
  (s.popEntry q).graphDone q e.tag e.no 1 reason first user []

theorem State.rejected_spec (hsq : s1.sq q = s.sq q) (hgraph : s.graph q = none) (reason first : Nat) (user : Word) :
    ∃ s', (some (s1.rejected q e reason first user)).map (fun s => s.endDoomed q) = some s' ∧ s'.graph q = none
      ∧ (s'.sq q).entries = (s.sq q).entries.tail ∧ answersEntry s1 s' q 2 1 e.tag ∧ s'.mem = s1.mem := by
  have hpop : (s1.popEntry q).sq q = { s.sq q with entries := (s.sq q).entries.tail } := by
    rw [State.popEntry, State.sq_setSq, hsq]
  have hqueue : (s1.rejected q e reason first user).sq q = { s.sq q with entries := (s.sq q).entries.tail } := hpop
  have hnone : (s1.rejected q e reason first user).graph q = none := by
    rw [State.graph, hqueue]
    exact hgraph
  refine ⟨_, rfl, ?_⟩
  dsimp only
  rw [State.endDoomed_none hnone]
  refine ⟨hnone, congrArg Sq.entries hqueue, fun henable => ?_, rfl⟩
  have heq : ((s1.popEntry q).sq q).eq = (s1.sq q).eq := by rw [hpop, hsq]
  rw [← heq] at henable ⊢
  obtain ⟨late, hpending⟩ := (s1.popEntry q).toSq_done q (r := graphRecord e.tag e.no reason first user) rfl henable
  exact ⟨_, hpending, rfl, rfl, rfl, rfl, rfl⟩

theorem State.takeGraph_read {g : Graph} (hwait : s.readsWait (s.graphSpans (e.arg 0)) = false)
    (hread : s.readGraph q e = (s1, .ok g)) (hsize : (s.region (s.sq q).region).areaSize ≠ 0) :
    s.takeGraph q e =
      if (s1.region (s.sq q).region).areaBytes < mirrorBytes g.count then
        some (s1.rejected q e rejRange 0xFFFFFFFF g.user)
      else if s1.areaRoom (s.sq q).region < mirrorBytes g.count then none
      else if s1.areaLost (s.sq q).region then some (s1.faultRegion (s.sq q).region 4)
      else some ((s1.popEntry q).setSq q { (s1.popEntry q).sq q with graph := some g }) := by
  unfold State.takeGraph
  dsimp only
  rw [if_neg (Bool.eq_false_iff.1 hwait), hread, decide_eq_false hsize]
  dsimp only
  rw [Bool.false_or]
  simp only [decide_eq_true_eq]
  rfl

theorem State.takeGraph_zero {res : Except (Reject × Word) Graph} (hwait : s.readsWait (s.graphSpans (e.arg 0)) = false)
    (hread : s.readGraph q e = (s1, res)) (hsize : (s.region (s.sq q).region).areaSize = 0) :
    ∃ user, s.takeGraph q e = some (s1.rejected q e rejRange 0xFFFFFFFF user) := by
  unfold State.takeGraph
  dsimp only
  rw [if_neg (Bool.eq_false_iff.1 hwait), hread, decide_eq_true hsize]
  cases res with
  | error r => exact ⟨_, rfl⟩
  | ok g => exact ⟨_, rfl⟩

theorem State.takeGraph_error {r : Reject} {user : Word} (hwait : s.readsWait (s.graphSpans (e.arg 0)) = false)
    (hread : s.readGraph q e = (s1, .error (r, user))) (hsize : (s.region (s.sq q).region).areaSize ≠ 0) :
    s.takeGraph q e = some (s1.rejected q e r.reason r.task user) := by
  unfold State.takeGraph
  dsimp only
  rw [if_neg (Bool.eq_false_iff.1 hwait), hread, decide_eq_false hsize]
  rfl

/-- A graph that has just been loaded and that no ABORT has doomed. -/
theorem State.endDoomed_spec {g : Graph} (hgraph : s.graph q = some g)
    (hdoomed : ∀ d ∈ (s.sq q).doomed, d.1 ≠ g.entry) :
    s.endDoomed q = s.setSq q { s.sq q with doomed := (s.sq q).doomed.filter (fun d => d.1 != g.entry) } := by
  have hmine : (s.sq q).doomed.filter (fun d => d.1 == g.entry) = [] :=
    List.filter_eq_nil_iff.2 fun d hd => by simpa using hdoomed d hd
  have hnone : g.unended.filter (fun t => ([] : List (Nat × Option Nat)).any (fun d => d.2.isNone || d.2 == some t))
      = [] := List.filter_eq_nil_iff.2 fun t _ => by simp
  unfold State.endDoomed
  rw [hgraph]
  dsimp only
  rw [hmine, hnone]
  rfl

end

theorem graphEntryResult : Claims.GraphEntryResult := by
  intro s s1 q e hnext hop hwait
  have hgraph := graph_of_nextEntry hnext
  have hrun := exec_graph hnext hop
  have hrejects : ∀ {reason first user}, s1.sq q = s.sq q →
      s.takeGraph q e = some (s1.rejected q e reason first user) →
      ∃ s', exec (.graph q) s = .next s' ∧ s'.graph q = none ∧ (s'.sq q).entries = (s.sq q).entries.tail
        ∧ answersEntry s1 s' q 2 1 e.tag ∧ s'.mem = s1.mem := fun {reason first user} hsq htake => by
    obtain ⟨s', hs', hspec⟩ := State.rejected_spec (e := e) hsq hgraph reason first user
    rw [hrun, htake, hs']
    exact ⟨s', rfl, hspec⟩
  refine ⟨fun g hread hsq hsize => ⟨fun hfits hroom => ⟨fun hlost hdoomed => ?_, fun hlost henable => ?_⟩,
      fun hfits hroom => ?_, fun hfits => ?_⟩,
    fun res hread hsq hsize => ?_, fun r user hread hsq hsize => ?_⟩
  · have htake := State.takeGraph_read hwait hread hsize
    rw [if_neg (by omega), if_neg (by omega), if_neg (Bool.eq_false_iff.1 hlost)] at htake
    have hloaded : ((s1.popEntry q).setSq q { (s1.popEntry q).sq q with graph := some g }).sq q
        = { s.sq q with entries := (s.sq q).entries.tail, graph := some g } := by
      rw [State.sq_setSq, State.popEntry, State.sq_setSq, hsq]
    have hothers : ∀ p, p ≠ q → ((s1.popEntry q).setSq q { (s1.popEntry q).sq q with graph := some g }).sq p
        = s1.sq p := fun p hp => by
      rw [State.sq_setSq_other _ _ hp, State.popEntry, State.sq_setSq_other _ _ hp]
    have hmem : ((s1.popEntry q).setSq q { (s1.popEntry q).sq q with graph := some g }).mem = s1.mem := rfl
    rw [hrun, htake]
    generalize (s1.popEntry q).setSq q { (s1.popEntry q).sq q with graph := some g } = u at *
    have hug : u.graph q = some g := congrArg Sq.graph hloaded
    have hend := State.endDoomed_spec hug (by rw [hloaded]; exact hdoomed)
    refine ⟨u.endDoomed q, rfl, ?_, ?_, fun p hp => ?_, ?_⟩
    · rw [hend, State.graph, State.sq_setSq]
      exact hug
    · rw [hend, State.sq_setSq]
      exact congrArg Sq.entries hloaded
    · rw [hend, State.sq_setSq_other _ _ hp, hothers p hp]
    · rw [hend]
      exact hmem
  · have htake := State.takeGraph_read hwait hread hsize
    rw [if_neg (by omega), if_neg (by omega), if_pos hlost] at htake
    obtain ⟨hcause, -, hqueues⟩ := s1.faultRegion_spec (s.sq q).region 4
    have hmem : q ∈ s1.queuesOf (s.sq q).region := by
      rw [← hsq]
      exact s1.mem_queuesOf (by rw [hsq]; exact henable)
    have hnone : (s1.faultRegion (s.sq q).region 4).graph q = none := (hqueues q).1 (by
      rw [State.graph, hsq]
      exact hgraph)
    refine ⟨s1.faultRegion (s.sq q).region 4, ?_, hnone, hcause, (hqueues q).2 hmem⟩
    rw [hrun, htake, Option.map_some, State.endDoomed_none hnone]
    rfl
  · have htake := State.takeGraph_read hwait hread hsize
    rw [if_neg (by omega), if_pos hroom] at htake
    rw [hrun, htake]
    rfl
  · have htake := State.takeGraph_read hwait hread hsize
    rw [if_pos hfits] at htake
    exact hrejects hsq htake
  · obtain ⟨user, htake⟩ := State.takeGraph_zero hwait hread hsize
    exact hrejects hsq htake
  · exact hrejects hsq (State.takeGraph_error hwait hread hsize)

/-! STREAM. -/

section
variable {s : State} {q : Nat} {e : Entry}

/-- A STREAM entry of one command at the front of its queue. -/
theorem onEntry_stream (hnext : nextEntry s q e) (hop : e.op = 3) {cmd : Nat} (hcmd : e.streamCmd = cmd)
    (body : State → Entry → Option State) :
    s.onEntry q (fun e => e.op == 3 && e.streamCmd == cmd) body = s.happens (body s e) :=
  State.onEntry_next hnext _ body (by simp [hop, hcmd])

/-- What an entry that finishes with its code leaves of a state whose queues and records are those before. -/
theorem State.finishEntry_done {u : State} {n : Nat} (status : Nat) (hge : u.ge = s.ge) (hlogs : u.logs = s.logs)
    (hstrike : u.strike = s.strike) (hmem : u.mem = s.mem) (hctx : ∀ m, m ≠ n → u.ctx m = s.ctx m) :
    answersEntry s (u.finishEntry q e status) q 3 status e.tag
      ∧ ((u.finishEntry q e status).sq q).entries = (s.sq q).entries.tail
      ∧ (∀ m, m ≠ n → (u.finishEntry q e status).ctx m = s.ctx m) ∧ (u.finishEntry q e status).mem = s.mem := by
  have hsq : u.sq q = s.sq q := by rw [State.sq, State.sq, hge]
  have heq : ∀ i, u.eq i = s.eq i := fun i => by rw [State.eq, State.eq, hlogs]
  refine ⟨?_, ?_, hctx, hmem⟩
  · have h := u.finishEntry_answers q e status
    unfold answersEntry at h ⊢
    rw [hsq, heq, hstrike] at h
    exact h
  · rw [State.finishEntry_entries, hsq]

/-- A context released: it is idle, and no other one changes. -/
theorem State.releaseCtx_idle {n : Nat} (hpersist : (s.ctx n).persist = true) (hstate : (s.ctx n).state = .passEnd) :
    (∃ store, s.releaseCtx n = { s with store := store }) ∧ (∀ m, m ≠ n → (s.releaseCtx n).ctx m = s.ctx m)
      ∧ ∃ c : Ctx, (s.releaseCtx n).ctx n = c.emptied := by
  obtain ⟨hframe, hother⟩ := s.discard_frame n ((s.ctx n).undelivered + (s.ctx n).aheadLen)
  have hrelease : s.releaseCtx n = ((s.discard n ((s.ctx n).undelivered + (s.ctx n).aheadLen)).withdraw n).setCtx n
      (((s.discard n ((s.ctx n).undelivered + (s.ctx n).aheadLen)).withdraw n).ctx n).emptied := by
    unfold State.releaseCtx
    dsimp only
    rw [hpersist, hstate, if_neg (by decide), if_neg (by simp)]
  rw [hrelease]
  generalize s.discard n ((s.ctx n).undelivered + (s.ctx n).aheadLen) = u at *
  refine ⟨?_, fun m hm => ?_, ⟨_, State.ctx_setCtx _ _ _⟩⟩
  · rw [hframe]
    exact ⟨_, rfl⟩
  · rw [State.ctx_setCtx_other _ _ hm]
    exact hother m hm

/-- A context in use is released at the end of its pass. -/
theorem State.releaseCtx_later {n : Nat} (hpersist : (s.ctx n).persist = true) (hstate : (s.ctx n).state = .active)
    (howner : (s.ownerTask (s.ctx n)).isSome = true) :
    s.releaseCtx n = s.setCtx n { s.ctx n with releasing := true } := by
  unfold State.releaseCtx
  dsimp only
  rw [hpersist, hstate, howner, if_neg (by decide), if_pos (by decide)]

/-- A queue whose RELEASE has taken place. -/
def State.releaseEnded (s : State) (q : Nat) : State := s.setSq q { s.sq q with release := none }

theorem State.finishEntry_release {u : State} {n : Nat} (hge : u.ge = s.ge) (hlogs : u.logs = s.logs)
    (hstrike : u.strike = s.strike) (hmem : u.mem = s.mem) (hctx : ∀ m, m ≠ n → u.ctx m = s.ctx m) :
    answersEntry s ((u.releaseEnded q).finishEntry q e 0x100) q 3 0x100 e.tag
      ∧ (((u.releaseEnded q).finishEntry q e 0x100).sq q).entries = (s.sq q).entries.tail
      ∧ (∀ m, m ≠ n → ((u.releaseEnded q).finishEntry q e 0x100).ctx m = s.ctx m)
      ∧ ((u.releaseEnded q).finishEntry q e 0x100).mem = s.mem := by
  have hsq : (u.releaseEnded q).sq q = { s.sq q with release := none } := by
    rw [State.releaseEnded, State.sq_setSq, State.sq, hge]
    rfl
  have hqueue : (u.releaseEnded q).eq (s.sq q).eq = s.eq (s.sq q).eq := by
    rw [State.eq, State.eq, ← hlogs]
    rfl
  refine ⟨?_, ?_, hctx, hmem⟩
  · refine State.entryDone_answers e.tag e.no 0x100 0 0 ?_ hqueue hstrike
    rw [State.popEntry, State.sq_setSq, hsq]
  · rw [State.finishEntry_entries, hsq]

/-- RELEASE that no pass of an earlier try holds. -/
theorem exec_release {n : Nat} {u : State} (hnext : nextEntry s q e) (hop : e.op = 3) (hcmd : e.streamCmd = 3)
    (hn : e.streamCtx = n)
    (hready : ((s.sq q).release == some n && (s.ctx n).releasing && (s.ownerTask (s.ctx n)).isSome) = false)
    (hu : (if (s.sq q).release == some n && !((s.ctx n).releasing) then s else s.releaseCtx n) = u) :
    exec (.streamRelease q) s = .next (
      if (u.ctx n).releasing then u.setSq q { u.sq q with release := some n }
      else (u.releaseEnded q).finishEntry q e 0x100) := by
  rw [show exec (.streamRelease q) s = execStreamRelease q s from rfl, execStreamRelease,
    onEntry_stream hnext hop hcmd]
  dsimp only
  rw [hn, hready, if_neg Bool.false_ne_true, hu]
  rfl

end

theorem streamEntryResult : Claims.StreamEntryResult := by
  intro s q e hnext hop n done
  refine ⟨fun hcmd hpersist => ?_, fun hcmd hpersist hstate hstaged hrelease => ?_,
    fun hcmd hpersist hstate howner hrelease => ?_, fun hcmd hrelease hreleasing => ?_,
    fun image hcmd hwait hread => ?_⟩
  · have hrun : exec (.streamRearm q) s = .next ((s.setCtx n { s.ctx n with
        nextBase := some (e.arg 1), rearmBy := none }).finishEntry q e 0x100) := by
      rw [show exec (.streamRearm q) s = execStreamRearm q s from rfl, execStreamRearm, onEntry_stream hnext hop hcmd]
      dsimp only
      rw [if_pos hpersist]
      rfl
    refine ⟨_, hrun, State.finishEntry_done 0x100 rfl rfl rfl rfl fun m hm => State.ctx_setCtx_other (s := s) _ hm, ?_⟩
    exact State.ctx_setCtx s n _
  · obtain ⟨⟨store, hframe⟩, hother, c, hctx⟩ := State.releaseCtx_idle hpersist hstate
    have hrun := exec_release (n := n) hnext hop hcmd rfl (by rw [hrelease]; rfl)
      (if_neg (by rw [hrelease]; exact Bool.false_ne_true))
    obtain ⟨hanswer, hentries, hothers, hmem⟩ := State.finishEntry_release (s := s) (u := s.releaseCtx n) (n := n)
      (q := q) (e := e) (by rw [hframe]) (by rw [hframe]) (by rw [hframe]) (by rw [hframe]) hother
    generalize s.releaseCtx n = u at *
    have hreleased : ((u.releaseEnded q).finishEntry q e 0x100).ctx n = c.emptied := hctx
    rw [hctx, if_neg (by exact Bool.false_ne_true)] at hrun
    refine ⟨_, hrun, ⟨hanswer, hentries, hothers, hmem⟩, ?_, ?_⟩
    · rw [hreleased]
      rfl
    · rw [hreleased]
      rfl
  · have hrun := exec_release (n := n) hnext hop hcmd rfl (by rw [hrelease]; rfl)
      (if_neg (by rw [hrelease]; exact Bool.false_ne_true))
    have hlater : ((s.setCtx n { s.ctx n with releasing := true }).ctx n).releasing = true :=
      congrArg Ctx.releasing (State.ctx_setCtx s n _)
    rw [State.releaseCtx_later hpersist hstate howner, if_pos hlater] at hrun
    exact ⟨_, hrun, State.ctx_setCtx s n _, State.sq_setSq _ q _, fun m hm => State.ctx_setCtx_other (s := s) _ hm,
      rfl, rfl⟩
  · have hrun := exec_release (n := n) hnext hop hcmd rfl (by rw [hreleasing, Bool.and_false, Bool.false_and])
      (if_pos (by rw [hrelease, hreleasing]; simp))
    rw [if_neg (by rw [hreleasing]; exact Bool.false_ne_true)] at hrun
    obtain ⟨hanswer, hentries, hothers, hmem⟩ := State.finishEntry_release (s := s) (u := s) (n := n)
      (q := q) (e := e) rfl rfl rfl rfl fun _ _ => rfl
    refine ⟨_, hrun, ⟨hanswer, hentries, hothers, hmem⟩, rfl, ?_⟩
    rw [State.finishEntry_frame, State.sq, Assoc.get_set_same, State.releaseEnded, State.sq_setSq]
  · intro c hidle hpersist hkind hcode
    have hrun : exec (.streamArm q) s = .next ((s.setCtx n c).finishEntry q e 0x100) := by
      rw [show exec (.streamArm q) s = execStreamArm q s from rfl, execStreamArm, onEntry_stream hnext hop hcmd]
      have hcode' : s.streamCode n c = 0 := by
        rw [State.streamCode, hidle, hpersist, hcode]
        rfl
      have harm : s.streamArm q e = some ((s.setCtx n c).finishEntry q e 0x100) := by
        unfold State.streamArm
        dsimp only
        rw [if_neg (Bool.eq_false_iff.1 hwait), hread]
        refine congrArg some ?_
        refine (if_neg (by rw [not_not]; exact hcode')).trans (if_pos hkind)
      rw [harm]
      rfl
    exact ⟨_, hrun, State.finishEntry_done 0x100 rfl rfl rfl rfl fun m hm => State.ctx_setCtx_other (s := s) _ hm,
      State.ctx_setCtx s n c⟩

/-! ABORT. -/

/-- Tasks of a queue's graph have moved on between two states: records of the queue wait behind those that did, and no
memory, core, stream, flag or journal has changed. -/
structure State.TasksMoved (q : Nat) (t s : State) : Prop where
  mem : t.mem = s.mem
  strike : t.strike = s.strike
  ctxs : t.store.ctxs = s.store.ctxs
  flags : t.store.flags = s.store.flags
  cores : t.cores = s.cores
  journal : t.ge.journal = s.ge.journal
  queue : ∃ graph, t.sq q = { s.sq q with graph := graph }
  enable : (t.eq (s.sq q).eq).enable = (s.eq (s.sq q).eq).enable
  pending : ∃ more, (t.eq (s.sq q).eq).pending = (s.eq (s.sq q).eq).pending ++ more

section
variable {s t u : State} {q : Nat}

theorem State.TasksMoved.refl : s.TasksMoved q s := ⟨rfl, rfl, rfl, rfl, rfl, rfl, ⟨_, rfl⟩, rfl,
    ⟨[], (List.append_nil _).symm⟩⟩

theorem State.TasksMoved.eq_eq (h : t.TasksMoved q s) : (t.sq q).eq = (s.sq q).eq := by
  obtain ⟨graph, hqueue⟩ := h.queue
  rw [hqueue]

theorem State.TasksMoved.trans (htu : u.TasksMoved q t) (hst : t.TasksMoved q s) : u.TasksMoved q s := by
  have heq := hst.eq_eq
  obtain ⟨graph, hqueue⟩ := htu.queue
  obtain ⟨graph', hqueue'⟩ := hst.queue
  obtain ⟨more, hmore⟩ := htu.pending
  obtain ⟨more', hmore'⟩ := hst.pending
  have henable := htu.enable
  rw [heq] at hmore henable
  refine ⟨htu.mem.trans hst.mem, htu.strike.trans hst.strike, htu.ctxs.trans hst.ctxs, htu.flags.trans hst.flags,
    htu.cores.trans hst.cores, htu.journal.trans hst.journal,
    ⟨graph, ?_⟩, henable.trans hst.enable, ⟨more' ++ more, ?_⟩⟩
  · rw [hqueue, hqueue']
  · rw [hmore, hmore', List.append_assoc]

theorem State.setTask_moved (n : Nat) (x : Task) : (s.setTask q n x).TasksMoved q s :=
  ⟨rfl, rfl, rfl, rfl, rfl, rfl, ⟨_, State.sq_setSq s q _⟩, rfl, ⟨[], (List.append_nil _).symm⟩⟩

theorem EventQueue.take_pending (q : EventQueue) (r : Rec) :
    (q.take r).enable = q.enable ∧ ∃ more, (q.take r).pending = q.pending ++ more := by
  unfold EventQueue.take
  dsimp only
  split
  · exact ⟨rfl, [r], rfl⟩
  · split
    · exact ⟨rfl, [r], rfl⟩
    · split
      · exact ⟨rfl, [{ r with late := true }], rfl⟩
      · exact ⟨rfl, [], (List.append_nil _).symm⟩

theorem State.toSq_moved (r : Rec) : (s.toSq q r).TasksMoved q s := by
  have heq : (s.toSq q r).eq (s.sq q).eq = if (s.eq (s.sq q).eq).enable then
      (s.eq (s.sq q).eq).take { r with queue := q, region := (s.sq q).region, strike := s.strike }
      else { s.eq (s.sq q).eq with lost := (s.eq (s.sq q).eq).lost.tick } := State.eq_setEq s _ _
  refine ⟨rfl, rfl, rfl, rfl, rfl, rfl, ⟨_, rfl⟩, ?_, ?_⟩
  · rw [heq]
    split
    · exact ((s.eq (s.sq q).eq).take_pending _).1
    · rfl
  · rw [heq]
    split
    · exact ((s.eq (s.sq q).eq).take_pending _).2
    · exact ⟨[], (List.append_nil _).symm⟩

theorem State.taskDone_moved (n : Nat) : (s.taskDone q n).TasksMoved q s := by
  unfold State.taskDone
  split
  · split
    · exact .refl
    · exact State.toSq_moved _
  · exact .refl

theorem State.task_taskDone (n m : Nat) : (s.taskDone q n).task q m = s.task q m := by
  obtain ⟨logs, h⟩ := s.taskDone_frame q n
  rw [h]
  rfl

/-- Another task of the graph is read as before. -/
theorem State.task_setTask_other (x : Task) {n m : Nat} (h : m ≠ n) : (s.setTask q n x).task q m = s.task q m := by
  have hfind : ∀ l : List (Nat × Task), ((l.map (fun e => if e.1 = n then (n, x) else e)).find? (fun e => e.1 == m))
      = l.find? (fun e => e.1 == m) := fun l => by
    induction l with
    | nil => rfl
    | cons e l ih =>
      rw [List.map_cons, List.find?_cons, List.find?_cons, ih]
      by_cases he : e.1 = n
      · rw [if_pos he, show (n == m) = false by simpa using Ne.symm h,
          show (e.1 == m) = false by simpa [he] using Ne.symm h]
      · rw [if_neg he]
  rw [State.task, State.task, State.graph, State.graph, State.setTask, State.sq_setSq]
  cases (s.sq q).graph with
  | none => rfl
  | some g => exact congrArg (Option.map Prod.snd) (hfind g.tasks)

/-- Only tasks that wait are skipped. -/
theorem State.skipTasks_spec (ts : List Nat) : (s.skipTasks q ts).TasksMoved q s
    ∧ ∀ {m : Nat} {x : Task}, s.task q m = some x → x.status ≠ .waiting → (s.skipTasks q ts).task q m = some x := by
  induction ts generalizing s with
  | nil => exact ⟨.refl, fun h _ => h⟩
  | cons n ts ih =>
    unfold State.skipTasks
    split
    next y hy =>
      dsimp only
      split
      next hskip =>
        obtain ⟨hmoved, htasks⟩ := ih (s := (s.setTask q n { y with status := .skipped, fate :=
            { cause := 0xF2 } }).taskDone q n)
        refine ⟨hmoved.trans ((State.taskDone_moved n).trans (State.setTask_moved n _)), fun {m x} hx hstatus => ?_⟩
        have hne : m ≠ n := fun h => by
          subst h
          rw [hy] at hx
          obtain rfl := Option.some.inj hx
          rw [Bool.and_eq_true] at hskip
          exact hstatus (by simpa using hskip.1)
        exact htasks (by rw [State.task_taskDone, State.task_setTask_other _ hne, hx]) hstatus
      next => exact ih
    next => exact ih

/-- The graph of a task that has ended goes on while another task runs and no cut waits. -/
theorem State.settleGraph_running (hcut : (s.sq q).cutWait = none) {p : Nat} {z : Task} (hp : s.task q p = some z)
    (hrunning : z.status = .running) : (s.settleGraph q).TasksMoved q s
      ∧ ∀ {m : Nat} {x : Task}, s.task q m = some x → x.status ≠ .waiting → (s.settleGraph q).task q m = some x := by
  obtain ⟨hmoved, htasks⟩ := State.skipTasks_spec (s := s) (q := q)
      ((s.graph q).elim [] (fun g => g.tasks.map Prod.fst))
  have hpz := htasks hp (by rw [hrunning]; exact TStatus.noConfusion)
  unfold State.settleGraph
  dsimp only
  generalize s.skipTasks q ((s.graph q).elim [] (fun g => g.tasks.map Prod.fst)) = u at *
  have hsettled : u.cutSettle q = u := by
    obtain ⟨graph, hqueue⟩ := hmoved.queue
    rw [State.cutSettle, hqueue]
    dsimp only
    rw [hcut]
  rw [hsettled]
  obtain ⟨g, hg, hgp⟩ := Option.bind_eq_some_iff.1 hpz
  have hopen : g.tasks.all (fun e => e.2.status.ended) = false := by
    obtain ⟨e, he, hez⟩ := Option.map_eq_some_iff.1 hgp
    rw [Bool.eq_false_iff]
    intro hall
    have hended := List.all_eq_true.1 hall e (List.mem_of_find?_eq_some he)
    rw [hez, hrunning] at hended
    cases hended
  rw [hg]
  dsimp only
  rw [if_neg (Bool.eq_false_iff.1 hopen)]
  exact ⟨hmoved, htasks⟩

/-- The leases of a task that holds none. -/
theorem State.revoke_none {n : Nat} {x : Task} (hx : s.task q n = some x) (hcores : x.cores = [])
    (hjournal : s.ge.journal = []) (hctxs : s.store.ctxs = []) :
    ∃ y, ∃ u : State, s.revoke q n = u.setTask q n y ∧ u.TasksMoved q s ∧ ∀ m, u.task q m = s.task q m := by
  have hrollback : (s.withdrawTask q n).rollback q n
      = { s.withdrawTask q n with ge := { s.ge with journal := [] } } := by
    have hge : (s.withdrawTask q n).ge = s.ge := rfl
    unfold State.rollback
    dsimp only
    rw [hge, hjournal, List.filter_nil, List.foldl_nil, hge, hjournal, List.filter_nil]
  have howned : ∀ v : State, v.store.ctxs = [] → v.owned q n = [] := fun v hv => by
    rw [State.owned, State.busyCtxs, hv]
    rfl
  unfold State.revoke
  rw [hx]
  dsimp only
  rw [hcores, List.foldl_nil, hrollback, howned]
  · exact ⟨_, _, rfl, ⟨rfl, rfl, rfl, rfl, rfl, hjournal.symm, ⟨_, rfl⟩, rfl, ⟨[], (List.append_nil _).symm⟩⟩,
      fun _ => rfl⟩
  · exact hctxs

/-- A task without leases that an ABORT ends. -/
theorem State.stopTask_none {n : Nat} {x : Task} (hx : s.task q n = some x) (hlive : x.status.ended = false)
    (hcores : x.cores = []) (hjournal : s.ge.journal = []) (hctxs : s.store.ctxs = []) (st : TStatus) (fate : TaskEnd) :
    (s.stopTask q n st fate).TasksMoved q s
      ∧ (∃ y, (s.stopTask q n st fate).task q n = some y ∧ y.status = st ∧ y.fate = fate)
      ∧ ∀ m, m ≠ n → (s.stopTask q n st fate).task q m = s.task q m := by
  obtain ⟨y, u, hrevoke, hmoved, htasks⟩ := State.revoke_none hx hcores hjournal hctxs
  have htask : (u.setTask q n y).task q n = some y := State.task_setTask y ((htasks n).trans hx)
  have howned : (u.setTask q n y).owned q n = [] := by
    rw [State.owned, State.busyCtxs, show (u.setTask q n y).store.ctxs = [] from hmoved.ctxs.trans hctxs]
    rfl
  unfold State.stopTask
  rw [hx]
  dsimp only
  rw [if_neg (Bool.eq_false_iff.1 hlive), hrevoke, howned, List.foldl_nil, htask]
  dsimp only
  refine ⟨(State.taskDone_moved n).trans ((State.setTask_moved n _).trans ((State.setTask_moved n y).trans hmoved)),
    ⟨_, (State.task_taskDone n n).trans (State.task_setTask _ htask), rfl, rfl⟩, fun m hm => ?_⟩
  rw [State.task_taskDone, State.task_setTask_other _ hm, State.task_setTask_other _ hm, htasks]

/-- An ABORT of one task that waits or is ready, without leases, while another one runs. -/
theorem State.abortTasks_one {n p : Nat} {x z : Task} (hx : s.task q n = some x) (hlive : x.status.ended = false)
    (hcores : x.cores = []) (hjournal : s.ge.journal = []) (hctxs : s.store.ctxs = []) (hcut : (s.sq q).cutWait = none)
    (hp : s.task q p = some z) (hrunning : z.status = .running) (hpn : p ≠ n) :
    (s.abortTasks q [n]).TasksMoved q s
      ∧ ∃ y, (s.abortTasks q [n]).task q n = some y ∧ y.status = .aborted ∧ y.fate = { cause := 0xF0 } := by
  have hlost : s.journalLost q n = false := by
    rw [State.journalLost, hjournal]
    rfl
  obtain ⟨hstopped, ⟨y, hy, hstatus, hfate⟩, hothers⟩ := State.stopTask_none
      (s := s.setTask q n { x with targeted := true })
    (State.task_setTask { x with targeted := true } hx) hlive hcores hjournal hctxs .aborted { cause := 0xF0 }
  have habort : s.abortTasks q [n]
      = ((s.setTask q n { x with targeted := true }).stopTask q n .aborted { cause := 0xF0 }).settleGraph q := by
    unfold State.abortTasks
    dsimp only
    rw [List.any_cons, List.any_nil, hlost, List.foldl_cons, List.foldl_nil, List.foldl_cons, List.foldl_nil, hx]
    rfl
  have hmoved := hstopped.trans (State.setTask_moved n { x with targeted := true })
  have hpz := (hothers p hpn).trans ((State.task_setTask_other _ hpn).trans hp)
  rw [habort]
  generalize (s.setTask q n { x with targeted := true }).stopTask q n .aborted { cause := 0xF0 } = u at *
  obtain ⟨hsettled, htasks⟩ := State.settleGraph_running (s := u) (q := q) (by
    obtain ⟨graph, hqueue⟩ := hmoved.queue
    rw [hqueue]
    exact hcut) hpz hrunning
  exact ⟨hsettled.trans hmoved, y, htasks hy (by rw [hstatus]; exact TStatus.noConfusion), hstatus, hfate⟩

/-- The plan of an ABORT of one task of the loaded graph. -/
theorem State.abortPlan_one {e : Entry} {g : Graph} (hform : e.formOk = true) (hq : e.arg 0 % 4096 = q)
    (hscope : e.arg 0 / 2 ^ 16 = 1) (henable : (s.sq q).enable = true) (hg : s.graph q = some g)
    (hentry : g.entry = e.arg 1) : s.abortPlan q e = g.abortPlan q 1 (e.arg 2) := by
  have hgraph : (s.sq q).graph = some g := hg
  unfold State.abortPlan
  dsimp only
  rw [hform, hq, hscope, henable, hgraph, if_neg (by decide), if_neg (by simp), if_neg (by decide), Option.filter_some,
    hentry, if_pos (by simp)]

theorem exec_abort {e : Entry} (hq : q < 4096) (hfind : (s.sq q).entries.find? (fun e => e.op == 2) = some e) :
    exec (.abort q) s = .next (s.abort q e) := by
  rw [show exec (.abort q) s = execAbort q s from rfl, execAbort, if_pos (decide_eq_true hq)]
  dsimp only
  have hread : (if ((s.sq q).entries.find? (fun e => e.op == 2)).isSome then s else s.takeEntries q) = s :=
    if_pos (by rw [hfind]; rfl)
  rw [hread, hfind]
  rfl

end

theorem find?_of_nodup {α : Type} {l : List (Nat × α)} {p : Nat × α} (hnodup : (l.map Prod.fst).Nodup) (hp : p ∈ l) :
    l.find? (fun e => e.1 == p.1) = some p := by
  induction l with
  | nil => cases hp
  | cons e l ih =>
    rw [List.map_cons, List.nodup_cons] at hnodup
    rcases List.mem_cons.1 hp with rfl | hp
    · exact List.find?_cons_of_pos (by simp)
    · have hne : e.1 ≠ p.1 := fun h => hnodup.1 (List.mem_map.2 ⟨p, hp, h.symm⟩)
      rw [List.find?_cons_of_neg (by simpa using hne)]
      exact ih hnodup.2 hp

theorem abortEntryResult : Claims.AbortEntryResult := by
  intro s q e g x hq hfind hform htq hscope henable hg hentry htask
  have hrun := exec_abort hq hfind
  have hplan := State.abortPlan_one hform htq hscope henable hg hentry
  rw [Graph.abortPlan, if_pos rfl, htask] at hplan
  dsimp only at hplan
  refine ⟨fun hstatus => ?_, fun hstatus hcores hjournal hctxs hcut hnodup hrunning => ?_⟩
  · rw [hstatus, if_pos (show TStatus.complete.ended = true from rfl)] at hplan
    have habort : s.abort q e = (s.takeOut q e).entryDone q e.tag e.no 1 0 1 := by
      rw [State.abort, hplan]
      rfl
    have hqueue : ((s.takeOut q e).entryDone q e.tag e.no 1 0 1).sq q
        = { s.sq q with entries := (s.sq q).entries.erase e } := State.sq_setSq s q _
    rw [hrun, habort]
    exact ⟨_, rfl, (congrArg Sq.graph hqueue).trans hg, congrArg Sq.entries hqueue,
      State.entryDone_answers e.tag e.no 1 0 1 (by rw [State.takeOut, State.sq_setSq]) rfl rfl, rfl, rfl⟩
  · have hlive : x.status.ended = false := by rcases hstatus with h | h <;> rw [h] <;> rfl
    rw [if_neg (Bool.eq_false_iff.1 hlive)] at hplan
    obtain ⟨p, hp, hpn, hprunning⟩ := hrunning
    have hfound : g.tasks.find? (fun e => e.1 == p.1) = some p := find?_of_nodup hnodup hp
    have hopened : ((s.takeOut q e).doom q []).sq q = { s.sq q with
        entries := (s.sq q).entries.erase e, doomed := (s.sq q).doomed ++ [] } := by
      rw [State.doom, State.sq_setSq, State.takeOut, State.sq_setSq]
      rfl
    have htasks : ∀ n, ((s.takeOut q e).doom q []).task q n = g.task n := fun n => by
      rw [State.task, State.graph, hopened]
      exact congrArg (fun o => o.bind fun g : Graph => g.task n) hg
    obtain ⟨hmoved, y, hy, hystatus, hyfate⟩ := State.abortTasks_one ((htasks _).trans htask) hlive hcores hjournal
      hctxs (by rw [hopened]; exact hcut)
      ((htasks p.1).trans (by rw [Graph.task, hfound]; rfl)) hprunning hpn
    have habort : s.abort q e = (((s.takeOut q e).doom q []).abortTasks q [e.arg 2]).entryDone q e.tag e.no 2 1 0 := by
      rw [State.abort, hplan]
      rfl
    have hlogs : ((s.takeOut q e).doom q []).logs = s.logs := rfl
    have hmem : ((s.takeOut q e).doom q []).mem = s.mem := rfl
    rw [hrun, habort]
    generalize (s.takeOut q e).doom q [] = u at *
    have hseq : (u.sq q).eq = (s.sq q).eq := by rw [hopened]
    have hmovedEq := hmoved.eq_eq
    obtain ⟨graph, hqueue⟩ := hmoved.queue
    obtain ⟨more, hmore⟩ := hmoved.pending
    have henabled := hmoved.enable
    have hmem' := hmoved.mem.trans hmem
    generalize u.abortTasks q [e.arg 2] = v at *
    have hueq : u.eq (s.sq q).eq = s.eq (s.sq q).eq := by rw [State.eq, State.eq, hlogs]
    rw [hseq] at hmovedEq
    rw [hseq, hueq] at hmore henabled
    have hytask : (v.entryDone q e.tag e.no 2 1 0).task q (e.arg 2) = some y := hy
    refine ⟨_, rfl, ?_, ?_, fun hon => ?_, ?_, hmem'⟩
    · rw [hytask, Option.map_some, hystatus]
    · rw [hytask, Option.map_some, hyfate]
    · obtain ⟨late, hpending⟩ := v.toSq_done q (r := doneRecord e.tag e.no 2 1 0) rfl (by
        rw [hmovedEq, henabled]
        exact hon)
      rw [hmovedEq, hmore] at hpending
      exact ⟨more, _, hpending, rfl, rfl, rfl, rfl, rfl⟩
    · have hentries : ((v.entryDone q e.tag e.no 2 1 0).sq q).entries = (v.sq q).entries := rfl
      rw [hentries, hqueue, hopened]

/-- Settles O25: by the entry at the front of its queue, command by command, and by the plan of an ABORT. -/
theorem submissionEntries : Obligations.SubmissionEntries :=
  ⟨flagEntryResult, graphEntryResult, streamEntryResult, abortEntryResult⟩

end Sys2Proof.Machine
end

section
/-! PROOF. A task becomes ready, is placed, and commits (R237 to R246, R404). -/

namespace Sys2Proof.Machine

open Sys2Proof

/-- The event of a task that is there. -/
theorem State.onTask_some {s : State} {q t : Nat} {x : Task} (hq : q < 4096) (hx : s.task q t = some x)
    (f : Task → Option State) : s.onTask q t f = s.happens (f x) := by
  rw [State.onTask, if_pos (decide_eq_true hq), hx, Option.bind_some]

/-! Readiness. -/

section
variable {s : State} {q t : Nat} {x : Task}

/-- A task's dependences have committed and its WAITs are met. -/
theorem State.depsMet_iff : s.depsMet q x = true ↔
    (∀ p ∈ x.info.deps, ∃ y, s.task q p = some y ∧ y.status = .complete)
      ∧ ∀ f ∈ x.info.flags, f.op = 1 → (s.flag f.flag - f.value).toNat < 2 ^ 63 := by
  have hdep : ∀ p, ((s.task q p).map (fun y => y.status == .complete)).getD false = true
      ↔ ∃ y, s.task q p = some y ∧ y.status = .complete := fun p => by
    cases s.task q p with
    | none => simp
    | some y => simp
  have hflag : ∀ f : FlagOp, (f.op != 1 || s.waitMet f.flag f.value) = true
      ↔ (f.op = 1 → (s.flag f.flag - f.value).toNat < 2 ^ 63) := fun f => by
    rw [State.waitMet, atOrAfter, Bool.or_eq_true, bne_iff_ne, decide_eq_true_eq]
    exact imp_iff_not_or.symm
  rw [State.depsMet, Bool.and_eq_true, List.all_eq_true, List.all_eq_true]
  exact and_congr (forall₂_congr fun p _ => hdep p) (forall₂_congr fun f _ => hflag f)

/-- The launch of a task fixed leaves its record. -/
theorem State.fixLaunch_frame (s : State) (q : Nat) (x : Task) : (s.fixLaunch q x).info = x.info
    ∧ (s.fixLaunch q x).status = x.status ∧ (s.fixLaunch q x).readyAt = x.readyAt := by
  unfold State.fixLaunch
  dsimp only
  split
  · exact ⟨rfl, rfl, rfl⟩
  · split <;> exact ⟨rfl, rfl, rfl⟩

/-- A task without streams that becomes ready. -/
theorem State.makeReady_spec (hx : s.task q t = some x) (hstreams : x.info.kind ≠ .kernel ∨ x.info.streams = []) :
    ∃ y, (s.makeReady q t x).task q t = some y ∧ y.status = .ready ∧ y.readyAt = s.strike ∧ y.info = x.info
      ∧ (x.info.kind = .kernel → y.armed = true) ∧ (s.makeReady q t x).mem = s.mem
      ∧ (s.makeReady q t x).cores = s.cores ∧ (s.makeReady q t x).logs = s.logs
      ∧ ∀ p, p ≠ q → (s.makeReady q t x).sq p = s.sq p := by
  obtain ⟨hinfo, hstatus, hready⟩ := s.fixLaunch_frame q { x with status := .ready, readyAt := s.strike }
  have htask := State.task_setTask (s.fixLaunch q { x with status := .ready, readyAt := s.strike }) hx
  have hothers : ∀ (u : State) (z : Task) p, p ≠ q → (u.setTask q t z).sq p = u.sq p :=
    fun u z p hp => State.sq_setSq_other u _ hp
  unfold State.makeReady
  dsimp only
  generalize s.fixLaunch q { x with status := .ready, readyAt := s.strike } = y at *
  dsimp only at hinfo
  by_cases hkernel : x.info.kind = .kernel
  · have harm : (s.setTask q t y).armTask q t = (s.setTask q t y).setTask q t { y with armed := true } := by
      rw [State.armTask, htask]
      dsimp only
      rw [hinfo, hstreams.resolve_left (not_not.2 hkernel), State.armSlots]
    rw [hinfo, if_pos (by rw [hkernel]; rfl), harm]
    exact ⟨_, State.task_setTask _ htask, hstatus, hready, hinfo, fun _ => rfl, rfl, rfl, rfl, fun p hp => by
      rw [hothers _ _ p hp, hothers _ _ p hp]⟩
  · rw [hinfo, if_neg (by simpa using hkernel)]
    exact ⟨_, htask, hstatus, hready, hinfo, fun h => absurd h hkernel, rfl, rfl, rfl, hothers s y⟩

end

theorem taskReadyResult : Claims.TaskReadyResult := by
  intro s q t x hq hx hwaiting
  have hrun : exec (.taskReady q t) s = s.happens (if x.status == .waiting && s.depsMet q x && !(s.armHeld x) then
      some (s.makeReady q t x) else none) := State.onTask_some hq hx _
  have hstays : s.depsMet q x = false → exec (.taskReady q t) s = .next s := fun h => by
    rw [hrun, h, Bool.and_false, Bool.false_and]
    rfl
  refine ⟨fun hdeps hflags hstreams => ?_, fun ⟨f, hf, hop, hunmet⟩ => hstays ?_, fun ⟨p, hp, hnot⟩ => hstays ?_⟩
  · have hheld : s.armHeld x = false := by
      rw [State.armHeld]
      rcases hstreams with h | h
      · rw [show (x.info.kind == .kernel) = false by simpa using h, Bool.false_and]
      · rw [h, List.any_nil, Bool.and_false]
    obtain ⟨y, hy, hstatus, hready, hinfo, harmed, hmem, hcores, hlogs, hothers⟩ := State.makeReady_spec hx hstreams
    rw [hrun, State.depsMet_iff.2 ⟨hdeps, hflags⟩, hheld, hwaiting]
    exact ⟨_, y, rfl, hy, hstatus, hready, hinfo, harmed, hmem, hcores, hlogs, hothers⟩
  · rw [Bool.eq_false_iff]
    intro h
    have := (State.depsMet_iff.1 h).2 f hf hop
    omega
  · rw [Bool.eq_false_iff]
    intro h
    obtain ⟨y, hy, hcomplete⟩ := (State.depsMet_iff.1 h).1 p hp
    exact hnot y hy hcomplete

/-! Placement. -/

/-- Cores set one after another at sites that differ: each is set once, in a state whose cores alone may differ. -/
theorem foldl_setCore {f : State → Nat → Core} {site : Nat → Nat} {l : List Nat} (hsites : (l.map site).Nodup)
    (s : State) : (∃ cores, l.foldl (fun s i => s.setCore (site i) (f s i)) s = { s with cores := cores })
      ∧ (∀ i ∈ l, ∃ u : State, (∃ cores, u = { s with cores := cores }) ∧ u.core (site i) = s.core (site i)
          ∧ (l.foldl (fun s i => s.setCore (site i) (f s i)) s).core (site i) = f u i)
      ∧ ∀ c, c ∉ l.map site → (l.foldl (fun s i => s.setCore (site i) (f s i)) s).core c = s.core c := by
  induction l generalizing s with
  | nil => exact ⟨⟨_, rfl⟩, by simp, fun _ _ => rfl⟩
  | cons j l ih =>
    rw [List.map_cons, List.nodup_cons] at hsites
    obtain ⟨⟨cores, hframe⟩, heach, hothers⟩ := ih hsites.2 (s.setCore (site j) (f s j))
    rw [List.foldl_cons]
    refine ⟨⟨cores, hframe⟩, fun i hi => ?_, fun c hc => ?_⟩
    · rcases List.mem_cons.1 hi with rfl | hi
      · exact ⟨s, ⟨_, rfl⟩, rfl, by rw [hothers _ hsites.1, State.core_setCore]⟩
      · have hne : site i ≠ site j := fun h => hsites.1 (h ▸ List.mem_map_of_mem hi)
        obtain ⟨u, ⟨cores', hu⟩, hsame, hset⟩ := heach i hi
        exact ⟨u, ⟨cores', hu⟩, by rw [hsame, State.core_setCore_other _ _ hne], hset⟩
    · rw [List.map_cons, List.mem_cons, not_or] at hc
      rw [hothers c hc.2, State.core_setCore_other _ _ hc.1]

section
variable {s : State} {q t ox oy : Nat} {x : Task}

/-- The rectangle of a gang. -/
def gangRect (x : Task) (ox oy : Nat) : Rect :=
  { x0 := ox, y0 := oy, x1 := ox + x.info.gangW - 1, y1 := oy + x.info.gangH - 1 }

/-- The cores of a gang as they start. -/
def State.startGang (s : State) (q t : Nat) (x : Task) (ox oy : Nat) (tensors : List (Nat × List Byte)) : State :=
  (List.range (s.gangSites x.info ox oy).length).foldl (fun u g => u.setCore ((s.gangSites x.info ox oy).getD g 0)
    (u.startedCore q t x tensors (gangRect x ox oy) g ((s.gangSites x.info ox oy).getD g 0))) s

theorem State.startTask_good {h : List Byte} {tensors : List (Nat × List Byte)} (hstreams : x.info.streams = [])
    (hread : s.geRead (s.hostDie q) x.info.a 128 = (s, .ok h)) (hheader : headerOk h = true)
    (htensors : s.readTensors (s.hostDie q) x.info.binds 0 = (s, .ok tensors)) :
    s.startTask q t x ox oy = (s.startGang q t x ox oy tensors).setTask q t { x with
      status := .running, origin := (ox, oy), cores := s.gangSites x.info ox oy, streams := [] } := by
  unfold State.startTask
  dsimp only
  rw [hstreams, List.any_nil, if_neg Bool.false_ne_true, hread]
  dsimp only
  rw [hheader, if_neg (by simp), htensors]
  rfl

/-- A gang whose rows all run is put on its rectangle at once. -/
theorem State.putGang_runs (hrows : s.gatedRows (s.gangSites x.info ox oy) = []) :
    s.putGang q t x ox oy = s.startTask q t x ox oy := by
  have hbad : s.failingSites [] = [] := by
    rw [State.failingSites, List.filter_eq_nil_iff]
    simp
  unfold State.putGang
  dsimp only
  rw [hrows, hbad]
  rfl

end

theorem map_getD_range (l : List Nat) : (List.range l.length).map (fun g => l.getD g 0) = l := by
  refine List.ext_getElem (by simp) fun i h1 h2 => ?_
  rw [List.getElem_map, List.getElem_range, List.getD_eq_getElem _ _ h2]

theorem taskPlaceResult : Claims.TaskPlaceResult := by
  intro s q t x hq hx
  refine ⟨fun ox oy h tensors hplaceable hwait himage hever hnow hpass hrows hstreams hread hheader htensors hnodup =>
      ?_,
    fun r rest hr horder hwaited => ?_⟩
  · intro sites
    have hrun : exec (.taskPlace q t ox oy) s = .next (s.startTask q t x ox oy) := by
      have hplace : s.placeTask q t ox oy x = some (s.startTask q t x ox oy) := by
        unfold State.placeTask
        dsimp only
        rw [hplaceable, hever, hnow, hpass, himage, hwait, State.putGang_runs hrows]
        rfl
      rw [show exec (.taskPlace q t ox oy) s = s.onTask q t (fun k => s.placeTask q t ox oy k) from rfl,
        State.onTask_some hq hx, hplace]
      rfl
    rw [State.startTask_good hstreams hread hheader htensors] at hrun
    obtain ⟨⟨cores, hframe⟩, heach, hothers⟩ := foldl_setCore
      (f := fun u g => u.startedCore q t x tensors (gangRect x ox oy) g (sites.getD g 0))
      (site := fun g => sites.getD g 0) (l := List.range sites.length)
      (by rw [map_getD_range]; exact hnodup) s
    rw [map_getD_range] at hothers
    have htask : (s.startGang q t x ox oy tensors).task q t = some x := by
      rw [State.startGang, hframe]
      exact hx
    refine ⟨_, _, hrun, State.task_setTask _ htask, rfl, rfl, rfl, ?_, fun i c hc => ?_, fun c hc => hothers c hc⟩
    · have hmem : (s.startGang q t x ox oy tensors).mem = s.mem := by
        rw [State.startGang, hframe]
      exact hmem
    · have hi : i < sites.length := (List.getElem?_eq_some_iff.1 hc).1
      have hsite : sites.getD i 0 = c := by rw [List.getD_eq_getElem?_getD, hc]; rfl
      obtain ⟨u, -, hsame, hset⟩ := heach i (List.mem_range.2 hi)
      rw [hsite] at hsame hset
      have hcore : ((s.startGang q t x ox oy tensors).setTask q t { x with
        status := .running, origin := (ox, oy), cores := sites, streams := [] }).core c
          = u.startedCore q t x tensors (gangRect x ox oy) i c := hset
      rw [hcore]
      refine ⟨rfl, ?_, rfl, rfl, rfl, rfl, rfl, rfl⟩
      rw [← hsame]
      rfl
  · have hrun : exec (.placeWaitExpiry r) s = .next (s.setTask q t { x with overdue := true }) := by
      rw [show exec (.placeWaitExpiry r) s = execPlaceWaitExpiry r s from rfl, execPlaceWaitExpiry,
        if_pos (decide_eq_true hr), horder, List.head?_cons, Option.bind_some, if_pos hwaited]
      rfl
    exact ⟨_, hrun, State.task_setTask _ hx, rfl, rfl, rfl⟩

/-! The commit. -/

section
variable {s u : State} {q t : Nat} {x : Task}

theorem State.applyFlag_frame (s : State) (op n : Nat) (v : Word) :
    s.applyFlag op n v = { s with store := { s.store with flags := (s.applyFlag op n v).store.flags } } := by
  unfold State.applyFlag
  split <;> rfl

/-- The flags that a task sets and adds to: they alone change, and from the flags that stand. -/
theorem State.applyFlags_spec (fs : List FlagOp) (s : State) :
    (∃ flags, s.applyFlags fs = { s with store := { s.store with flags := flags } })
      ∧ ∀ u : State, u.store.flags = s.store.flags → (u.applyFlags fs).store.flags = (s.applyFlags fs).store.flags := by
  have hone : ∀ (s u : State) op n v, u.store.flags = s.store.flags →
      (u.applyFlag op n v).store.flags = (s.applyFlag op n v).store.flags := fun s u op n v h => by
    unfold State.applyFlag State.flag
    split
    · exact congrArg (fun m => Assoc.put 0 m n v) h
    · exact congrArg (fun m => Assoc.put 0 m n (Assoc.get 0 m n + v)) h
    · exact h
  induction fs generalizing s with
  | nil => exact ⟨⟨_, rfl⟩, fun _ h => h⟩
  | cons f fs ih =>
    obtain ⟨⟨flags, hframe⟩, hsame⟩ := ih (s.applyFlag f.op f.flag f.value)
    refine ⟨⟨flags, ?_⟩, fun u hu => hsame _ (hone s u _ _ _ hu)⟩
    exact hframe.trans (by rw [s.applyFlag_frame])

/-- A core that a task leaves. -/
def Core.freed (k : Core) : Core := { k with task := none, dq := [] }

theorem State.freeCore_spec (s : State) (q t c : Nat) :
    (∃ cores grid, s.freeCore q t c = { s with cores := cores, grid := grid })
      ∧ ∀ d, (s.freeCore q t c).core d = if d = c ∧ (s.core d).runs q t = true then (s.core d).freed else s.core d := by
  unfold State.freeCore
  split
  next hruns =>
    have hidle : ∀ u : State, ∃ grid, u.rowIdle c = { u with grid := grid } := fun u => by
      unfold State.rowIdle
      split
      · exact ⟨_, rfl⟩
      · exact ⟨_, rfl⟩
    obtain ⟨grid, hgrid⟩ := hidle (s.setCore c (s.core c).freed)
    have hfreed : (s.setCore c { s.core c with task := none, dq := [] }).rowIdle c
        = { s.setCore c (s.core c).freed with grid := grid } := hgrid
    rw [hfreed]
    refine ⟨⟨_, _, rfl⟩, fun d => ?_⟩
    have hcore : ({ s.setCore c (s.core c).freed with grid := grid } : State).core d
        = (s.setCore c (s.core c).freed).core d := rfl
    rw [hcore]
    by_cases hd : d = c
    · subst hd
      rw [State.core_setCore, if_pos ⟨rfl, hruns⟩]
    · rw [State.core_setCore_other _ _ hd, if_neg fun h => hd h.1]
  next hruns =>
    refine ⟨⟨_, _, rfl⟩, fun d => ?_⟩
    rw [if_neg]
    rintro ⟨rfl, h⟩
    exact hruns h

/-- The cores of a task freed. -/
theorem foldl_freeCore (cs : List Nat) (s : State) (q t : Nat) :
    (∃ cores grid, cs.foldl (fun s c => s.freeCore q t c) s = { s with cores := cores, grid := grid })
      ∧ ∀ d, (cs.foldl (fun s c => s.freeCore q t c) s).core d
        = if d ∈ cs ∧ (s.core d).runs q t = true then (s.core d).freed else s.core d := by
  induction cs generalizing s with
  | nil => exact ⟨⟨_, _, rfl⟩, fun d => (if_neg (by simp)).symm⟩
  | cons c cs ih =>
    obtain ⟨⟨cores, grid, hframe⟩, hcore⟩ := s.freeCore_spec q t c
    obtain ⟨⟨cores', grid', hframes⟩, hcores⟩ := ih (s.freeCore q t c)
    rw [List.foldl_cons]
    refine ⟨⟨cores', grid', by rw [hframes, hframe]⟩, fun d => ?_⟩
    rw [hcores]
    by_cases hfreed : d = c ∧ (s.core d).runs q t = true
    · have hk : (s.freeCore q t c).core d = (s.core d).freed := by rw [hcore, if_pos hfreed]
      rw [hk, if_neg (fun h => Bool.false_ne_true h.2), if_pos ⟨by simp [hfreed.1], hfreed.2⟩]
    · have hk : (s.freeCore q t c).core d = s.core d := by rw [hcore, if_neg hfreed]
      rw [hk]
      by_cases hruns : (s.core d).runs q t = true
      · have hd : d ≠ c := fun h => hfreed ⟨h, hruns⟩
        simp [hd]
      · simp [hruns]

/-- A commit that asks for no place takes no turn. -/
theorem State.turns_none {kind : ReqKind} (h : ∀ r ∈ s.store.requests, r.kind ≠ kind) :
    s.turns kind [] = (s, true) := by
  have hany : s.store.requests.any (fun r => r.kind == kind) = false := by
    rw [Bool.eq_false_iff]
    intro hany
    obtain ⟨r, hr, hkind⟩ := List.any_eq_true.1 hany
    exact h r hr (by simpa using hkind)
  have hrest : s.store.requests.filter (fun r => !(r.kind == kind && s.isNext r)) = s.store.requests :=
    List.filter_eq_self.2 fun r hr => by simp [h r hr]
  unfold State.turns
  dsimp only
  rw [hany, if_neg Bool.false_ne_true, List.map_nil, List.append_nil]
  have hsame : ({ s with store := { s.store with requests := s.store.requests } } : State) = s := rfl
  rw [hsame, hrest, hany]
  rfl

theorem State.commit_turns (hturns : s.store.requests = [] ∨ x.streams = [] ∧ x.held = []
    ∧ ∀ r ∈ s.store.requests, r.kind ≠ .commit q t) : s.turns (.commit q t) (s.commitSpots x) = (s, true) := by
  rcases hturns with h | ⟨hstreams, hheld, h⟩
  · exact s.turns_alone _ h (engineSpots_apart _ _)
  · have hspots : s.commitSpots x = [] := by
      rw [State.commitSpots, State.gathering, hstreams, hheld]
      rfl
    rw [hspots, State.turns_none h]

/-- A task whose commit point is reached and whose turns have come commits. -/
theorem exec_taskCommit (hq : q < 4096) (hx : s.task q t = some x) (hdue : s.commitDue q t x = true)
    (hturns : s.turns (.commit q t) (s.commitSpots x) = (s, true)) :
    exec (.taskCommit q t) s = .next (s.commit q t x) := by
  have hrun : exec (.taskCommit q t) s = s.happens (if s.commitDue q t x then
      match s.turns (.commit q t) (s.commitSpots x) with
      | (s, true) => some (s.commit q t x)
      | (s, false) => some s
    else none) := State.onTask_some hq hx _
  rw [hrun, if_pos hdue, hturns]
  rfl

/-- What a commit makes visible: the lines that the task holds, its flags, and its journal freed. -/
def State.shown (s : State) (q t : Nat) (x : Task) : State :=
  ((s.writeAll x.held).freeJournal q t).applyFlags x.info.flags

/-- A task that has committed. -/
def Task.committed (x : Task) : Task := { x with status := .complete, held := [] }

theorem State.commit_eq (harea : s.areaLost (s.regionOf q) = false) (hstreams : x.streams = [])
    (hctxs : s.store.ctxs = []) (hfault : s.writeFault q t x.held = none) (hhold : x.info.cutHold = false) :
    s.commit q t x = (((x.cores.foldl (fun s c => s.freeCore q t c) (s.shown q t x)).setTask q t x.committed).taskDone
      q t).settleGraph q := by
  have hgather : s.gathering x = [] := by
    rw [State.gathering, hstreams]
    rfl
  have howned : s.owned q t = [] := by
    rw [State.owned, State.busyCtxs, hctxs]
    rfl
  unfold State.commit
  rw [if_neg (Bool.eq_false_iff.1 harea), hgather, State.finalErrors]
  dsimp only
  rw [hgather, State.putFinals, hfault]
  dsimp only
  rw [howned, if_neg (Bool.eq_false_iff.1 hhold)]
  rfl

end

/-- What a commit leaves: the task is COMPLETE, its lines and flags are visible, its journal and its cores are free. -/
theorem State.commit_spec {s : State} {q t p : Nat} {x z : Task} (hx : s.task q t = some x)
    (harea : s.areaLost (s.regionOf q) = false) (hstreams : x.streams = []) (hctxs : s.store.ctxs = [])
    (hfault : s.writeFault q t x.held = none) (hhold : x.info.cutHold = false) (hext : ∀ w ∈ x.held, w.1 < extEnd)
    (hcut : (s.sq q).cutWait = none) (hp : s.task q p = some z) (hpt : p ≠ t) (hrunning : z.status = .running) :
    ((s.commit q t x).task q t).map (fun y => y.status) = some .complete
      ∧ (∀ a, (s.commit q t x).byte a = lastWrite x.held a (s.byte a))
      ∧ (∀ n, (s.commit q t x).flag n = (s.applyFlags x.info.flags).flag n)
      ∧ (∀ j ∈ (s.commit q t x).ge.journal, ¬(j.q = q ∧ j.task = t))
      ∧ (∀ c, (s.commit q t x).core c = if c ∈ x.cores ∧ (s.core c).runs q t = true then (s.core c).freed else s.core c)
      ∧ (x.cores = [] → (s.commit q t x).cores = s.cores) := by
  obtain ⟨hwritten, hbytes⟩ := s.writeAll_low fun w hw => (hext w hw).trans (by decide : extEnd < windowBase)
  obtain ⟨⟨flags, hflags⟩, hsame⟩ := State.applyFlags_spec x.info.flags ((s.writeAll x.held).freeJournal q t)
  have hmark : (s.applyFlags x.info.flags).store.flags = flags := by
    rw [hsame s (by rw [State.freeJournal, hwritten]), hflags]
  obtain ⟨⟨cores, grid, hfreed⟩, hcores⟩ := foldl_freeCore x.cores (s.shown q t x) q t
  have hshown : s.shown q t x = { (s.writeAll x.held).freeJournal q t with
    store := { ((s.writeAll x.held).freeJournal q t).store with flags := flags } } := hflags
  have hcoreShown : ∀ c, (s.shown q t x).core c = s.core c := fun c => by
    rw [hshown, State.freeJournal, hwritten]
    rfl
  have hsqShown : (s.shown q t x).sq q = s.sq q := by
    rw [hshown, State.freeJournal, hwritten]
    rfl
  have hjournal : (s.shown q t x).ge.journal = s.ge.journal.filter (fun j => !(j.q == q && j.task == t)) := by
    rw [hshown, State.freeJournal, hwritten]
  have hmem : (s.shown q t x).mem = (s.writeAll x.held).mem := by
    rw [hshown]
    rfl
  have hcoresWritten : (s.writeAll x.held).cores = s.cores := by rw [hwritten]
  have hflagsShown : (s.shown q t x).store.flags = flags := by rw [hshown]
  have hnone : x.cores = [] → x.cores.foldl (fun s c => s.freeCore q t c) (s.shown q t x) = s.shown q t x := fun h => by
    rw [h, List.foldl_nil]
  have hcoresShown : (s.shown q t x).cores = s.cores := by
    rw [hshown]
    exact hcoresWritten
  rw [State.commit_eq harea hstreams hctxs hfault hhold]
  generalize s.shown q t x = v at *
  generalize x.cores.foldl (fun s c => s.freeCore q t c) v = w at *
  have hsqFreed : w.sq q = s.sq q := by
    rw [hfreed]
    exact hsqShown
  have htasks : ∀ n, w.task q n = s.task q n := fun n => by
    rw [State.task, State.task, State.graph, State.graph, hsqFreed]
  have hcommitted : ((w.setTask q t x.committed).taskDone q t).task q t = some x.committed :=
    (State.task_taskDone t t).trans (State.task_setTask _ ((htasks t).trans hx))
  have hother : ((w.setTask q t x.committed).taskDone q t).task q p = some z :=
    (State.task_taskDone t p).trans ((State.task_setTask_other _ hpt).trans ((htasks p).trans hp))
  have hmoved : ((w.setTask q t x.committed).taskDone q t).TasksMoved q w :=
    (State.taskDone_moved t).trans (State.setTask_moved t _)
  generalize (w.setTask q t x.committed).taskDone q t = y at *
  obtain ⟨hsettled, hend⟩ := State.settleGraph_running (s := y) (q := q) (by
    obtain ⟨graph, hqueue⟩ := hmoved.queue
    rw [hqueue, hsqFreed]
    exact hcut) hother hrunning
  have hall := hsettled.trans hmoved
  have hdone := hend hcommitted (by exact TStatus.noConfusion)
  generalize y.settleGraph q = r at *
  have hcore : ∀ c, r.core c = w.core c := fun c => by rw [State.core, State.core, hall.cores]
  refine ⟨by rw [hdone]; rfl, fun a => ?_, fun n => ?_, fun j hj => ?_, fun c => ?_, fun h => ?_⟩
  · have hlm : (r.core ((a - windowBase) / 0x80000)).lm = ((s.writeAll x.held).core
      ((a - windowBase) / 0x80000)).lm := by
      have hkept : ∀ c, ((s.writeAll x.held).core c) = s.core c := fun c =>
          by rw [State.core, State.core, hcoresWritten]
      rw [hcore, hcores, hcoreShown, hkept]
      split <;> rfl
    rw [← hbytes, State.byte, State.byte, hlm, hall.mem, hfreed]
    dsimp only
    rw [hmem]
  · rw [State.flag, State.flag, hall.flags, hfreed, hmark]
    exact congrArg (fun m => Assoc.get 0 m n) hflagsShown
  · rw [hall.journal, hfreed] at hj
    have hmem := (List.mem_filter.1 (hjournal ▸ hj)).2
    rintro ⟨hjq, hjt⟩
    simp [hjq, hjt] at hmem
  · rw [hcore, hcores, hcoreShown]
  · rw [hall.cores, hnone h]
    exact hcoresShown

/-- A WARD task that has been released. -/
def Task.released (x : Task) : Task := { x with status := .complete, release := some (x.readyAt + 1) }

theorem taskCommitResult : Claims.TaskCommitResult := by
  intro s q t x g hq hx hg hnodup hother hcut
  obtain ⟨p, hp, hpt, hrunning⟩ := hother
  have hptask : s.task q p.1 = some p.2 := by
    rw [State.task, hg, Option.bind_some, Graph.task, find?_of_nodup hnodup hp]
    rfl
  have hheld : (∀ w ∈ x.held, s.accessWaits w.1 1 true = false) →
      x.held.any (fun w => s.accessWaits w.1 1 true) = false := fun h => by
    rw [Bool.eq_false_iff]
    intro hany
    obtain ⟨w, hw, hwait⟩ := List.any_eq_true.1 hany
    rw [h w hw] at hwait
    cases hwait
  have hmoves : x.info.kind = .move → x.status = .running → x.moved = true →
      (∀ w ∈ x.held, s.accessWaits w.1 1 true = false) → s.commitDue q t x = true :=
    fun hkind hstatus hmoved hwait => by
      rw [State.commitDue, hkind, hstatus]
      dsimp only
      rw [hmoved, hheld hwait]
      rfl
  refine ⟨fun hkind hstatus hmoved hstreams hcores hctrl hctxs hwrites hturns harea hfault => ?_,
    fun hkind hstatus hstreams hhold hcaptured hctxs hdone hsites hwrites hturns harea hfault => ?_,
    fun ⟨hkind, hstatus, hmoved, hwait⟩ hempty harea henable => ?_,
    fun hkind hstatus hstrike harea => ?_⟩
  · have hhold : x.info.cutHold = false := by
      rw [TaskRec.cutHold, hctrl]
      rfl
    obtain ⟨htask, hbytes, hflags, hjournal, -, hsame⟩ := State.commit_spec hx harea hstreams hctxs hfault hhold
      (fun w hw => (hwrites w hw).1) hcut hptask hpt hrunning
    exact ⟨_, exec_taskCommit hq hx (hmoves hkind hstatus hmoved fun w hw => (hwrites w hw).2)
      (State.commit_turns (hturns.imp_right fun h => ⟨hstreams, h⟩)), htask, hbytes, hflags, hjournal, hsame hcores⟩
  · have hdue : s.commitDue q t x = true := by
      have howned : s.owned q t = [] := by
        rw [State.owned, State.busyCtxs, hctxs]
        rfl
      have hgather : s.gathering x = [] := by
        rw [State.gathering, hstreams]
        rfl
      have hidle : x.cores.all (fun c => (s.core c).xfers.isEmpty) = true :=
        List.all_eq_true.2 fun c hc => by rw [(hsites c hc).1]; rfl
      have hcut' : (!x.info.cut || x.captured) = true := by
        cases hc : x.info.cut with
        | false => rfl
        | true => rw [hcaptured hc]; rfl
      rw [State.commitDue, hkind, hstatus]
      dsimp only
      rw [decide_eq_true hdone, hidle, howned, hgather, hheld fun w hw => (hwrites w hw).2, hcut']
      rfl
    obtain ⟨htask, hbytes, hflags, hjournal, hfreed, -⟩ := State.commit_spec hx harea hstreams hctxs hfault hhold
      (fun w hw => (hwrites w hw).1) hcut hptask hpt hrunning
    refine ⟨_, exec_taskCommit hq hx hdue (State.commit_turns (hturns.imp_right fun h => ⟨hstreams, h⟩)), htask, hbytes,
      hflags, hjournal, fun c hc => ?_, fun c hc => ?_⟩
    · rw [hfreed, if_pos ⟨hc, (hsites c hc).2⟩]
      rfl
    · rw [hfreed, if_neg fun h => hc h.1]
  · obtain ⟨hcause, hflags, hqueues⟩ := s.faultRegion_spec (s.regionOf q) 4
    have hcommit : s.commit q t x = s.faultRegion (s.regionOf q) 4 := if_pos harea
    have hrun := exec_taskCommit hq hx (hmoves hkind hstatus hmoved hwait) (State.commit_turns (.inl hempty))
    rw [hcommit] at hrun
    exact ⟨_, hrun, hcause, (hqueues q).2 (s.mem_queuesOf henable), fun n =>
      congrArg (fun m => Assoc.get 0 m n) hflags⟩
  · have hdef : exec (.wardTaskRelease q t) s = s.happens (if x.info.kind == .ward && x.status == .ready
        && atOrAfter s.strike (x.readyAt + 1) then some (s.releaseWardTask q t x) else none) :=
      State.onTask_some hq hx _
    rw [hkind, hstatus, atOrAfter, decide_eq_true hstrike] at hdef
    have hrelease : s.releaseWardTask q t x = (((s.applyFlags x.info.flags).setTask q t x.released).taskDone
      q t).settleGraph q := if_neg (Bool.eq_false_iff.1 harea)
    have hrun : exec (.wardTaskRelease q t) s = .next (s.releaseWardTask q t x) := hdef
    obtain ⟨⟨flags, hflags⟩, -⟩ := State.applyFlags_spec x.info.flags s
    rw [hrun, hrelease]
    rw [hflags]
    have htasks : ∀ n, ({ s with store := { s.store with flags := flags } } : State).task q n = s.task q n := fun _ =>
        rfl
    have hcutStays : (({ s with store := { s.store with flags := flags } } : State).sq q).cutWait = none := hcut
    have hmem : ({ s with store := { s.store with flags := flags } } : State).mem = s.mem := rfl
    have hcores : ({ s with store := { s.store with flags := flags } } : State).cores = s.cores := rfl
    generalize ({ s with store := { s.store with flags := flags } } : State) = w at *
    have hreleased : ((w.setTask q t x.released).taskDone q t).task q t = some x.released :=
      (State.task_taskDone t t).trans (State.task_setTask _ ((htasks t).trans hx))
    have hother : ((w.setTask q t x.released).taskDone q t).task q p.1 = some p.2 :=
      (State.task_taskDone t p.1).trans ((State.task_setTask_other _ hpt).trans ((htasks p.1).trans hptask))
    have hmoved : ((w.setTask q t x.released).taskDone q t).TasksMoved q w :=
      (State.taskDone_moved t).trans (State.setTask_moved t _)
    generalize (w.setTask q t x.released).taskDone q t = y at *
    obtain ⟨hsettled, hend⟩ := State.settleGraph_running (s := y) (q := q) (by
      obtain ⟨graph, hqueue⟩ := hmoved.queue
      rw [hqueue]
      exact hcutStays) hother hrunning
    have hall := hsettled.trans hmoved
    refine ⟨_, rfl, ?_, fun n => congrArg (fun m => Assoc.get 0 m n) hall.flags, hall.mem.trans hmem,
      hall.cores.trans hcores⟩
    rw [hend hreleased (by exact TStatus.noConfusion)]
    rfl

/-- Settles O26: by the conditions of readiness, by the cores of a gang set one after another, and by what a commit
leaves. -/
theorem taskLife : Obligations.TaskLife := ⟨taskReadyResult, taskPlaceResult, taskCommitResult⟩

end Sys2Proof.Machine
end

section
/-! PROOF. Queue deadlocks and the capture of a task at a cut (R250, R255). -/

namespace Sys2Proof.Machine

open Sys2Proof

/-! A deadlock reported. -/

theorem mem_sortPairs {p : Nat × Nat} (ps : List (Nat × Nat)) : p ∈ sortPairs ps ↔ p ∈ ps := by
  have hfold : ∀ (l acc : List (Nat × Nat)), p ∈ l.foldl (fun acc p =>
      (acc.takeWhile (fun x => decide (x.1 ≤ p.1))) ++ [p]
      ++ (acc.dropWhile (fun x => decide (x.1 ≤ p.1)))) acc ↔ p ∈ acc ∨ p ∈ l := fun l => by
    induction l with
    | nil => simp
    | cons r l ih =>
      intro acc
      have hacc := congrArg (p ∈ ·) (List.takeWhile_append_dropWhile (p := fun x : Nat × Nat => decide (x.1 ≤ r.1))
          (l := acc))
      simp only [List.mem_append, eq_iff_iff] at hacc
      rw [List.foldl_cons, ih, List.mem_append, List.mem_append, List.mem_singleton, List.mem_cons, ← hacc]
      tauto
  rw [sortPairs, hfold]
  simp

section
variable (s : State)

/-- A queue of a cycle shows its deadlock and writes its record. -/
def State.showDeadlock (r : Rec) (p : Nat × Nat) : State :=
  let x := s.sq p.1
  (s.setSq p.1 { x with sc := x.sc.event 1 }).toSq p.1 r

theorem State.showDeadlock_sq (r : Rec) (p : Nat × Nat) :
    (s.showDeadlock r p).sq p.1 = { s.sq p.1 with sc := (s.sq p.1).sc.event 1 }
      ∧ ∀ n, n ≠ p.1 → (s.showDeadlock r p).sq n = s.sq n :=
  ⟨State.sq_setSq s p.1 _, fun _ hn => State.sq_setSq_other s _ hn⟩

/-- The record of a deadlock. -/
def deadlockRecord (strike : Word) (cycle : List (Nat × Nat)) : Rec :=
  { type := 5, strike := strike, status := cycle.length
    payload := [BitVec.ofNat 8 (min 8 (sortPairs cycle).length), 0, 0, 0, 0, 0, 0, 0]
      ++ (List.range 8).flatMap (fun i => leBytes 2 (((sortPairs cycle).map Prod.fst).getD i 0xFFFF)
        ++ leBytes 2 (((sortPairs cycle).map Prod.snd).getD i 0xFFFF)) }

theorem State.deadlock_eq (cycle : List (Nat × Nat)) : s.deadlock cycle = ((sortPairs cycle).foldl
    (fun u p => u.showDeadlock (deadlockRecord s.strike cycle) p) s).mlog (deadlockRecord s.strike cycle) := rfl

/-- The queues of a cycle show their deadlock one after another. -/
theorem foldl_showDeadlock (r : Rec) (ps : List (Nat × Nat)) :
    (∃ sqs eqs, ps.foldl (fun s p => s.showDeadlock r p) s = { s with
      ge := { s.ge with sqs := sqs }, logs := { s.logs with eqs := eqs } })
    ∧ (∀ n, (n ∈ ps.map Prod.fst ∨ (s.sq n).sc.has 1 = true) →
        ((ps.foldl (fun s p => s.showDeadlock r p) s).sq n).sc.has 1 = true)
    ∧ ∀ n, n ∉ ps.map Prod.fst → (ps.foldl (fun s p => s.showDeadlock r p) s).sq n = s.sq n := by
  induction ps generalizing s with
  | nil => exact ⟨⟨_, _, rfl⟩, fun n h => h.resolve_left (by simp), fun _ _ => rfl⟩
  | cons p ps ih =>
    obtain ⟨⟨sqs, eqs, hframe⟩, hshown, hothers⟩ := ih (s.showDeadlock r p)
    obtain ⟨hsame, hother⟩ := s.showDeadlock_sq r p
    rw [List.foldl_cons, List.map_cons]
    refine ⟨⟨sqs, eqs, hframe⟩, fun n hn => hshown n ?_, fun n hn => ?_⟩
    · by_cases hp : n = p.1
      · rw [hp, hsame]
        exact .inr (Sc.has_event _ _)
      · rw [hother n hp]
        exact hn.imp_left fun h => (List.mem_cons.1 h).resolve_left hp
    · rw [List.mem_cons, not_or] at hn
      rw [hothers n hn.2, hother n hn.1]

end

/-! A capture. -/

/-- The captures of a gang's cores change the cores alone. As in the earlier lemmas about them, the recursion is opened
by hand: the size of a core's image must not be evaluated. -/
theorem State.captures_frame (cs : List Nat) (s : State) : ∃ cores, (s.captures cs).1 = { s with cores := cores } := by
  delta State.captures
  dsimp only [List.brecOn]
  induction cs generalizing s with
  | nil => exact ⟨_, rfl⟩
  | cons c cs ih =>
    dsimp only [List.brecOn.go, State.captures._f] at ih ⊢
    generalize (s.core c).windowRead 0 captureBytes = read
    cases read with
    | none => exact ⟨_, rfl⟩
    | some r =>
      obtain ⟨cores, htail⟩ := ih (s.setCore c r.1)
      dsimp only
      split <;> next hread =>
        rw [hread] at htail
        exact ⟨cores, htail⟩

theorem deadlockAndCapture : Claims.DeadlockAndCapture := by
  intro s
  refine ⟨fun cycle hcycle hnone => ?_,
    fun q t x bss hq hx hkind hcut hstatus hcaptured hdone hgood hwait hbss hfits => ?_⟩
  · have hrun : exec (.queueDeadlock cycle) s
        = .next (({ s with ge := { s.ge with deadlocks := [cycle] } } : State).deadlock cycle) := by
      have hdef : exec (.queueDeadlock cycle) s = s.happens (if s.isCycle cycle
          && !((s.ge.deadlocks.filter s.isCycle).any (fun c => c.map Prod.fst == cycle.map Prod.fst)) then
        some (({ s with ge := { s.ge with deadlocks := s.ge.deadlocks.filter s.isCycle ++
            [cycle] } } : State).deadlock cycle)
        else none) := rfl
      rw [hdef, hcycle, hnone]
      rfl
    obtain ⟨⟨sqs, eqs, hframe⟩, hshown, hothers⟩ := foldl_showDeadlock
      ({ s with ge := { s.ge with deadlocks := [cycle] } } : State)
      (deadlockRecord s.strike cycle) (sortPairs cycle)
    have hdeadlock := ({ s with ge := { s.ge with deadlocks := [cycle] } } : State).deadlock_eq cycle
    rw [hdeadlock] at hrun
    have hmem : ∀ n, n ∈ (sortPairs cycle).map Prod.fst ↔ n ∈ cycle.map Prod.fst := fun n => by
      simp only [List.mem_map, mem_sortPairs]
    generalize (sortPairs cycle).foldl (fun u p => u.showDeadlock (deadlockRecord s.strike cycle) p)
      { s with ge := { s.ge with deadlocks := [cycle] } } = u at *
    refine ⟨_, hrun, ?_, fun p hp => ?_, fun n hn => ?_, ?_, ?_, ?_⟩
    · rw [State.mlog, hframe]
    · exact hshown p.1 (.inl ((hmem p.1).2 (List.mem_map_of_mem hp)))
    · exact hothers n fun h => hn ((hmem n).1 h)
    · rw [State.mlog, hframe]
    · rw [State.mlog, hframe]
    · rw [State.mlog, hframe]
  · have hcapture := State.captures_frame x.cores s
    generalize hr : s.captures x.cores = r at *
    obtain ⟨u, res⟩ := r
    dsimp only at hbss hcapture
    subst hbss
    obtain ⟨cores, hframe⟩ := hcapture
    have hlow : ∀ w ∈ bytesAt x.info.cutCap bss.flatten, w.1 < windowBase := fun w hw => by
      have := (mem_bytesAt hw).2
      have : extEnd < windowBase := by decide
      omega
    obtain ⟨hwritten, hbytes⟩ := u.writeAll_low hlow
    have hcapture : s.capture q t x = some ((fun v : State => if x.info.cutHold then v
        else v.cutReached q x.info.cutCap (417792 * x.cores.length) t false)
        ((u.writeAll (bytesAt x.info.cutCap bss.flatten)).setTask q t { x with captured := true })) := by
      unfold State.capture captureBytes
      dsimp only
      rw [hgood]
      dsimp only
      rw [if_neg (Bool.eq_false_iff.1 hwait), hr]
    have hrun : exec (.cutCapture q t) s = s.happens (s.capture q t x) := by
      have hdef : exec (.cutCapture q t) s = s.happens (if x.info.kind == .kernel && x.info.cut && x.status == .running
          && !x.captured && decide (x.done.length = x.cores.length) then s.capture q t x else none) :=
        State.onTask_some hq hx _
      rw [hdef, hkind, hcut, hstatus, hcaptured, decide_eq_true hdone]
      rfl
    rw [hrun, hcapture]
    have htask : (u.writeAll (bytesAt x.info.cutCap bss.flatten)).task q t = some x := by
      rw [hwritten, hframe]
      exact hx
    have hbyte : ∀ a, a < windowBase → u.byte a = s.byte a := fun a ha => by
      rw [hframe]
      exact State.byte_withCores s cores ha
    generalize u.writeAll (bytesAt x.info.cutCap bss.flatten) = v at *
    have hend : ∀ w : State, ∃ logs, (if x.info.cutHold then w
        else w.cutReached q x.info.cutCap (417792 * x.cores.length) t false) = { w with logs := logs } := fun w => by
      split
      · exact ⟨_, rfl⟩
      · exact ⟨_, rfl⟩
    obtain ⟨logs, hlogs⟩ := hend (v.setTask q t { x with captured := true })
    dsimp only
    rw [hlogs]
    refine ⟨_, _, rfl, State.task_setTask { x with captured := true } htask, rfl, hstatus, fun a ha => ?_⟩
    rw [← hbyte a ha, ← hbytes]
    rfl

/-- Settles O27: by the queues of the cycle, one after another, and by the captures written as one run. -/
theorem deadlocksAndCutCapture : Obligations.DeadlocksAndCutCapture := deadlockAndCapture

end Sys2Proof.Machine
end

section
/-! PROOF. The states of a torus port: lanes, training, HELLO, INIT and RESET_REQ (R280 to R291). -/

namespace Sys2Proof.Machine

open Sys2Proof

/-! A port counts events. -/

section
variable (x : Port) (n k : Nat)

/-- Counting changes the counters and a sticky bit alone. -/
theorem Port.count_frame : ∃ sc, x.count n k = { x with counters := (x.count n k).counters, sc := sc } := ⟨_, rfl⟩

theorem Port.count_counter : Assoc.get {} (x.count n k).counters n = (Assoc.get {} x.counters n).addN k :=
  Assoc.get_put_same _ _ _ _

theorem Port.count_counter_other {m : Nat} (h : m ≠ n) :
    Assoc.get {} (x.count n k).counters m = Assoc.get {} x.counters m :=
  Assoc.get_put_other _ _ _ h

end

/-! A port that goes to a state (R282, R287). -/

section
variable (s : State) (p : Nat)

/-- LINK_STATE goes to logs and event queues. -/
theorem State.linkState_lport (k : Nat) : (s.linkState p).lport k = s.lport k := rfl

/-- A port that goes DOWN has no active lane. -/
theorem State.portDown_spec : ((s.portDown p).lport p).state = .down ∧ ((s.portDown p).lport p).lanes = 0
    ∧ ∀ r, r ≠ p → (s.portDown p).lport r = s.lport r := by
  obtain ⟨taken, desc, channels, hport, hother⟩ :=
    (s.setLport p { s.lport p with lanes := 0 }).portTo_lport p .down
  obtain ⟨-, -, -, hlanes, hstate⟩ := Port.inState_settings
    { (s.setLport p { s.lport p with lanes := 0 }).lport p with
      taken := taken, desc := desc, channels := channels } .down
  unfold State.portDown
  rw [hport]
  refine ⟨hstate, hlanes.trans ?_, fun r hr => (hother r hr).trans (State.lport_setLport_other s _ hr)⟩
  rw [State.lport_setLport]

/-- A retrain begins with the lanes as they are. -/
theorem State.retrain_spec : ((s.retrain p).lport p).state = .training ∧ ((s.retrain p).lport p).retrain = true
    ∧ ((s.retrain p).lport p).lanes = (s.lport p).lanes ∧ ∀ r, r ≠ p → (s.retrain p).lport r = s.lport r := by
  unfold State.retrain
  simp only [State.linkState_lport, State.lport_setLport]
  exact ⟨rfl, rfl, rfl, fun r hr => State.lport_setLport_other s _ hr⟩

/-- A port that goes from training to LINK_UP: an INIT goes out first where its state is fresh (R287). -/
theorem State.reachLinkUp_spec : ((s.reachLinkUp p).lport p).state = .linkUp
    ∧ ((s.reachLinkUp p).lport p).retrain = false ∧ ((s.reachLinkUp p).lport p).lanes = (s.lport p).lanes
    ∧ ((s.lport p).fresh = true → 3 ∈ ((s.reachLinkUp p).lport p).ctrlOut)
    ∧ ∀ r, r ≠ p → (s.reachLinkUp p).lport r = s.lport r := by
  obtain ⟨taken, desc, channels, hport, hother⟩ := s.portTo_lport p .linkUp
  have hfresh : ((s.portTo p .linkUp).lport p).fresh = (s.lport p).fresh := by rw [hport]; rfl
  have hlanes : ((s.portTo p .linkUp).lport p).lanes = (s.lport p).lanes := by rw [hport]; rfl
  have hstate : ((s.portTo p .linkUp).lport p).state = .linkUp := by rw [hport]; rfl
  have hretrain : ((s.portTo p .linkUp).lport p).retrain = false := by rw [hport]; rfl
  unfold State.reachLinkUp
  dsimp only
  rw [← hfresh, ← hlanes]
  generalize s.portTo p .linkUp = t at *
  split
  · rw [State.lport_setLport]
    exact ⟨hstate, hretrain, rfl, fun _ => List.mem_cons_self, fun r hr =>
      (State.lport_setLport_other t _ hr).trans (hother r hr)⟩
  · next h => exact ⟨hstate, hretrain, rfl, fun hf => absurd hf h, hother⟩

end

/-! Lanes and training. -/

section
variable (s : State) (p lane : Nat)

/-- The active lanes of a port without one of them. -/
def Port.lanesWithout (x : Port) (lane : Nat) : BitVec 8 := x.lanes &&& ~~~((1 : BitVec 8) <<< lane)

/-- Active lanes of a mask. -/
def lanesIn (m : BitVec 8) : Nat := ((List.range 8).filter (fun n => m.getLsbD n)).length

/-- A spared lane leaves the active set; with MINLANES left a port that ran retrains, below it goes DOWN (R280). -/
theorem State.spareLane_spec :
    ((s.lport p).minlanes ≤ lanesIn ((s.lport p).lanesWithout lane) → (s.lport p).flows = true →
      ((s.spareLane p lane).lport p).state = .training ∧ ((s.spareLane p lane).lport p).retrain = true
        ∧ ((s.spareLane p lane).lport p).lanes = (s.lport p).lanesWithout lane)
    ∧ (lanesIn ((s.lport p).lanesWithout lane) < (s.lport p).minlanes →
      ((s.spareLane p lane).lport p).state = .down)
    ∧ ∀ r, r ≠ p → (s.spareLane p lane).lport r = s.lport r := by
  unfold State.spareLane
  extract_lets x y t
  have hother : ∀ r, r ≠ p → t.lport r = s.lport r := fun r hr => State.lport_setLport_other s _ hr
  have hlanes : (t.lport p).lanes = x.lanesWithout lane := congrArg Port.lanes (s.lport_setLport p y)
  obtain ⟨hdown, -, hdownOther⟩ := t.portDown_spec p
  obtain ⟨hstate, hretrain, hkept, hretrainOther⟩ := t.retrain_spec p
  refine ⟨fun hmin hflows => ?_, fun hmin => ?_, fun r hr => ?_⟩
  · rw [if_neg (show ¬ y.lanesUp < y.minlanes from Nat.not_lt.2 hmin), if_pos hflows]
    exact ⟨hstate, hretrain, hkept.trans hlanes⟩
  · rw [if_pos (show y.lanesUp < y.minlanes from hmin)]
    exact hdown
  · split_ifs
    · exact (hdownOther r hr).trans (hother r hr)
    · exact (hretrainOther r hr).trans (hother r hr)
    · exact hother r hr

/-- A port that locks keeps the lanes that both ends keep; below MINLANES it goes DOWN (R279, R280). -/
theorem State.lockFrames_spec (tag : BitVec 40) :
    ((s.lport p).minlanes ≤ lanesIn ((s.lport p).lanes &&& tagLanes tag) →
      ((s.lockFrames p tag).lport p).state = .linkUp ∧ ((s.lockFrames p tag).lport p).retrain = false
        ∧ ((s.lockFrames p tag).lport p).lanes = (s.lport p).lanes &&& tagLanes tag
        ∧ ((s.lport p).fresh = true → 3 ∈ ((s.lockFrames p tag).lport p).ctrlOut))
    ∧ (lanesIn ((s.lport p).lanes &&& tagLanes tag) < (s.lport p).minlanes →
      ((s.lockFrames p tag).lport p).state = .down ∧ ((s.lockFrames p tag).lport p).lanes = 0)
    ∧ ∀ r, r ≠ p → (s.lockFrames p tag).lport r = s.lport r := by
  unfold State.lockFrames
  extract_lets x y t
  have hother : ∀ r, r ≠ p → t.lport r = s.lport r := fun r hr => State.lport_setLport_other s _ hr
  have hport : t.lport p = y := s.lport_setLport p y
  obtain ⟨hdown, hnone, hdownOther⟩ := t.portDown_spec p
  obtain ⟨hstate, hretrain, hlanes, hinit, hupOther⟩ := t.reachLinkUp_spec p
  rw [hport] at hlanes hinit
  refine ⟨fun hmin => ?_, fun hmin => ?_, fun r hr => ?_⟩
  · rw [if_neg (show ¬ y.lanesUp < y.minlanes from Nat.not_lt.2 hmin)]
    exact ⟨hstate, hretrain, hlanes, hinit⟩
  · rw [if_pos (show y.lanesUp < y.minlanes from hmin)]
    exact ⟨hdown, hnone⟩
  · split_ifs
    · exact (hdownOther r hr).trans (hother r hr)
    · exact (hupOther r hr).trans (hother r hr)

end

/-- What a report on a lane leaves as it was. -/
theorem Port.report_frame (x : Port) (lane : Nat) (why : LaneCause) (t : Word) :
    (x.report lane why t).lanes = x.lanes ∧ (x.report lane why t).minlanes = x.minlanes
      ∧ (x.report lane why t).flows = x.flows ∧ (x.report lane why t).state = x.state := ⟨rfl, rfl, rfl, rfl⟩

/-- A lane that lost lock, or whose report alone exceeds the limit, fails (R280). -/
theorem Port.report_fails (x : Port) (lane : Nat) {why : LaneCause} (t : Word)
    (h : why = .lostLock ∨ ∃ n, why = .corrected n ∧ 16384 < n) : (x.report lane why t).laneFails lane why = true := by
  obtain rfl | ⟨n, rfl, hn⟩ := h
  · rfl
  · refine decide_eq_true (lt_of_lt_of_le hn ?_)
    unfold Port.symbolsOf Port.report
    dsimp only [laneSymbols]
    rw [Assoc.get_put_same, if_neg (Nat.ne_of_gt (by omega)), List.foldl_append]
    exact Nat.le_add_left _ _

/-- A report on a lane of a port that trains or runs. -/
theorem exec_laneSpare {s : State} {p lane : Fin 8} (why : LaneCause) (hruns : s.portRuns p.val = true)
    (hup : (s.lport p.val).flows = true ∨ (s.lport p.val).state = .training)
    (hlane : (s.lport p.val).lanes.getLsbD lane.val = true) :
    let y := (s.lport p.val).report lane.val why s.strike
    exec (.laneSpare p lane why) s = .next
      (if y.laneFails lane.val why then (s.setLport p.val y).spareLane p.val lane.val else s.setLport p.val y) := by
  refine congrArg s.happens (if_pos ?_)
  have hup : ((s.lport p.val).flows || (s.lport p.val).state == .training) = true := by
    rcases hup with h | h <;> rw [h]
    · rfl
    · exact Bool.or_true _
  rw [hruns, hup, show bit (s.lport p.val).lanes lane.val = true from hlane]
  rfl

theorem lanesAndTraining : Claims.LanesAndTraining := by
  intro s p
  refine ⟨fun hgap => ?_, fun hruns => ?_⟩
  · have hlock : ∀ before tag, s.mayLock ⟨p, before, tag⟩ = false := fun before tag => by
      unfold State.mayLock
      dsimp only
      rw [hgap]
      rfl
    refine ⟨fun lane why => congrArg s.happens (if_neg ?_), congrArg s.happens (if_neg ?_),
      congrArg s.happens (if_neg ?_), fun before tag => ⟨congrArg s.happens (if_neg ?_),
      congrArg s.happens (if_neg ?_)⟩⟩
    · rw [hgap]; exact Bool.false_ne_true
    · rw [hgap]; exact Bool.false_ne_true
    · rw [hgap]; exact Bool.false_ne_true
    · rw [hlock]; exact Bool.false_ne_true
    · rw [hlock]; exact Bool.false_ne_true
  intro x port upOf
  refine ⟨?_, ?_, ?_, ?_, ?_⟩
  · intro lane why hwhy hup hlane
    have hrun := exec_laneSpare why hruns hup hlane
    dsimp only at hrun
    have hfails : ((s.lport p.val).report lane.val why s.strike).laneFails lane.val why = true :=
      Port.report_fails _ _ _ hwhy
    rw [if_pos hfails] at hrun
    obtain ⟨hretrain, hdown, hother⟩ := State.spareLane_spec
      (s.setLport p.val ((s.lport p.val).report lane.val why s.strike)) p.val lane.val
    rw [State.lport_setLport] at hretrain hdown
    have hkept : ∀ r, r ≠ p.val → _ = s.lport r := fun r hr =>
      (hother r hr).trans (State.lport_setLport_other s _ hr)
    exact ⟨fun hmin hflows => ⟨_, hrun, hretrain hmin hflows, hkept⟩, fun hmin => ⟨_, hrun, hdown hmin, hkept⟩⟩
  · intro lane n hup hlane hfew
    have hrun := exec_laneSpare (.corrected n) hruns hup hlane
    dsimp only at hrun
    have hwithin : ¬ ((s.lport p.val).report lane.val (.corrected n) s.strike).laneFails lane.val
        (.corrected n) = true := fun h => absurd (of_decide_eq_true h) (Nat.not_lt.2 hfew)
    rw [if_neg hwithin] at hrun
    refine ⟨_, hrun, ?_, fun r hr => State.lport_setLport_other s _ hr⟩
    rw [State.lport_setLport]
    exact ⟨rfl, rfl, Port.count_counter _ 0 n⟩
  · intro before tag htraining hcable hsync hsync' hnext both
    have hlock : s.mayLock ⟨p, before, tag⟩ = true := by
      unfold State.mayLock tagsLock State.cabled
      dsimp only
      rw [hruns, show (s.lport p.val).state = .training from htraining, hsync, hsync', hnext,
        List.contains_iff_mem.2 hcable, beq_self_eq_true (tagFcnt before + 1)]
      rfl
    refine ⟨fun hretrain => ?_, fun hfirst => ?_⟩
    · have hrun : exec (.retrainEnd ⟨p, before, tag⟩) s =
          .next ((s.setLport p.val (x.event 2)).lockFrames p.val tag) :=
        congrArg s.happens (if_pos (by rw [hlock]; exact hretrain))
      obtain ⟨hup, hdown, hother⟩ := State.lockFrames_spec (s.setLport p.val (x.event 2)) p.val tag
      rw [State.lport_setLport] at hup hdown
      have hkept : ∀ r, r ≠ p.val → _ = s.lport r := fun r hr =>
        (hother r hr).trans (State.lport_setLport_other s _ hr)
      refine ⟨fun hmin => ?_, fun hmin => ⟨_, hrun, hdown hmin, hkept⟩⟩
      obtain ⟨hstate, hends, hlanes, -⟩ := hup hmin
      exact ⟨_, hrun, ⟨hstate, hends, hlanes⟩, hkept⟩
    · have hrun : exec (.framesLocked ⟨p, before, tag⟩) s = .next (s.lockFrames p.val tag) :=
        congrArg s.happens (if_pos (by
          rw [hlock, show (s.lport p.val).retrain = false from hfirst]
          rfl))
      obtain ⟨hup, hdown, hother⟩ := s.lockFrames_spec p.val tag
      refine ⟨fun hmin => ?_, fun hmin => ⟨_, hrun, hdown hmin, hother⟩⟩
      obtain ⟨hstate, -, hlanes, hinit⟩ := hup hmin
      exact ⟨_, hrun, ⟨hstate, hlanes, hinit⟩, hother⟩
  · intro htraining hretrain
    obtain ⟨hdown, -, hother⟩ := s.portDown_spec p.val
    refine ⟨_, congrArg s.happens (if_pos ?_), hdown, hother⟩
    rw [hruns, show (s.lport p.val).state = .training from htraining,
      show (s.lport p.val).retrain = true from hretrain]
    rfl
  · intro hdown henable
    have hrun : exec (.trainingRetry p) s = .next (s.train p.val) := by
      refine congrArg s.happens (if_pos ?_)
      rw [hruns, show (s.lport p.val).state = .down from hdown, show (s.lport p.val).enable = true from henable]
      rfl
    unfold State.train at hrun
    generalize hy : { s.lport p.val with lanes := if s.cabled p.val then 0xFF else 0 } = y at hrun
    obtain ⟨taken, desc, channels, hport, hother⟩ := (s.setLport p.val y).portTo_lport p.val .training
    refine ⟨_, hrun, ?_, fun r hr => (hother r hr).trans (State.lport_setLport_other s _ hr)⟩
    rw [hport, State.lport_setLport, ← hy]
    refine ⟨rfl, rfl, ?_⟩
    show (if s.cabled p.val then (0xFF : BitVec 8) else 0) = _
    unfold State.cabled
    simp only [List.contains_iff_mem]

/-! HELLO, INIT and the replay timer (R285, R287, R289). -/

/-- The CTRL flit in front is the one evaluated. -/
theorem Port.ctrlFront_cons {x : Port} {sub : Nat} {pl : List Byte} {rest : List (Nat × List Byte)}
    (h : x.ctrl = (sub, pl) :: rest) : x.ctrlFront sub = some pl := by
  unfold Port.ctrlFront
  rw [h]
  exact if_pos rfl

section
variable (s : State) (p : Nat)

/-- INIT resets the link layer of a port, which leaves READY (R287). -/
theorem State.initPort_spec : ((s.initPort p).lport p).fresh = true
    ∧ ((s.initPort p).lport p).heard = (s.lport p).heard ∧ ((s.initPort p).lport p).seq = 0
    ∧ ((s.initPort p).lport p).ack = 255 ∧ ((s.initPort p).lport p).replay = []
    ∧ ((s.initPort p).lport p).state = (if (s.lport p).state = .ready then .linkUp else (s.lport p).state)
    ∧ ∀ r, r ≠ p → (s.initPort p).lport r = s.lport r := by
  unfold State.initPort
  extract_lets x was lost y z t
  have hlost : lost.OnlyTaken p s := by
    unfold lost
    split
    · exact State.loseTaken_onlyTaken (s.onlyTaken_refl p)
    · exact s.onlyTaken_refl p
  obtain ⟨hother, taken, desc, channels, hp⟩ := hlost
  have hlogged : ∀ k, (if was then t.linkState p else t).lport k = t.lport k := fun k => by
    split
    · rfl
    · rfl
  have hheard : y.heard = x.heard := (congrArg Port.heard hp).trans rfl
  have hstate : y.state = x.state := (congrArg Port.state hp).trans rfl
  rw [hlogged, show t.lport p = _ from lost.lport_setLport p _]
  refine ⟨rfl, hheard, rfl, rfl, rfl, ?_, fun r hr => ?_⟩
  · show (if y.state == .ready then PortState.linkUp else y.state) = _
    rw [hstate]
    simp only [beq_iff_eq]
    rfl
  · rw [hlogged]
    exact (State.lport_setLport_other lost _ hr).trans (hother r hr)

end

theorem linkControl : Claims.LinkControl := by
  intro s p x
  refine ⟨fun hruns hready hreplay hfew => ?_, fun hflows hruns => ⟨fun hnone => ?_, fun hnone hheard => ?_,
    fun pl rest hctrl => ?_, fun pl rest hctrl => ?_⟩⟩
  · have hrun : exec (.replayTimeout p) s = .next ((s.setLport p.val x.resendAll).escalate p.val) := by
      refine congrArg s.happens (if_pos ?_)
      rw [hruns, show (s.lport p.val).state = .ready from hready,
        show (s.lport p.val).replay.isEmpty = false from List.isEmpty_eq_false_iff.2 hreplay]
      rfl
    rw [State.escalate, State.lport_setLport, if_neg (Nat.not_le.2 (Nat.succ_lt_succ hfew) : ¬ 8 ≤
        (s.lport p.val).resendAll.resends)] at hrun
    refine ⟨_, hrun, ?_⟩
    rw [State.lport_setLport]
    exact ⟨rfl, rfl, rfl, fun r hr => State.lport_setLport_other s _ hr⟩
  · refine ⟨_, congrArg s.happens (if_pos ?_), s.lport_setLport p.val _⟩
    rw [show (s.lport p.val).flows = true from hflows, hruns,
      show (s.lport p.val).ctrlOut.contains 1 = false from Bool.eq_false_iff.2 fun h =>
        hnone (List.contains_iff_mem.1 h)]
    rfl
  · refine ⟨_, congrArg s.happens (if_pos ?_), s.lport_setLport p.val _⟩
    rw [show (s.lport p.val).flows = true from hflows, hruns, show (s.lport p.val).heard = false from hheard,
      show (s.lport p.val).ctrlOut.contains 3 = false from Bool.eq_false_iff.2 fun h =>
        hnone (List.contains_iff_mem.1 h)]
    rfl
  · have hup : ((s.lport p.val).flows && s.portRuns p.val) = true := Bool.and_eq_true_iff.2 ⟨hflows, hruns⟩
    have hrun : exec (.hello p) s = s.happens _ := congrArg s.happens (if_pos hup)
    rw [Port.ctrlFront_cons hctrl, Option.map_some, State.happens_some] at hrun
    dsimp only at hrun
    generalize hy : ({ s.lport p.val with ctrl := _, hello := _, heard := true } : Port) = y at hrun
    generalize hst : (if (s.lport p.val).helloOk p.val _ then PortState.ready else PortState.mismatch) = st at hrun
    obtain ⟨taken, desc, channels, hport, hother⟩ := (s.setLport p.val y).portTo_lport p.val st
    have hheard : y.heard = true := by rw [← hy]
    rw [State.lport_setLport] at hport
    refine ⟨_, hrun, ?_, fun r hr => (hother r hr).trans (State.lport_setLport_other s _ hr), ?_⟩
    · rw [hport]
      have hup : st = .ready ∨ st = .mismatch := by
        rw [← hst]
        split
        · exact .inl rfl
        · exact .inr rfl
      obtain rfl | rfl := hup
      · exact hheard
      · exact hheard
    · obtain ⟨-, -, -, -, hstate⟩ := Port.inState_settings
        { y with taken := taken, desc := desc, channels := channels } st
      rw [hport, hstate, ← hst]
      simp only [Port.helloOk, axisOf, dirOf, Bool.and_eq_true, beq_iff_eq, bne_iff_ne, and_assoc]
      rfl
  · have hup : ((s.lport p.val).flows && s.portRuns p.val) = true := Bool.and_eq_true_iff.2 ⟨hflows, hruns⟩
    have hrun : exec (.init p) s = s.happens _ := congrArg s.happens (if_pos hup)
    rw [Port.ctrlFront_cons hctrl, Option.map_some, State.happens_some] at hrun
    obtain ⟨hfresh, hheard, hseq, hack, hreplay, hstate, hother⟩ := s.initPort_spec p.val
    rcases Bool.eq_false_or_eq_true (s.lport p.val).fresh with hwas | hwas
    · rw [if_pos hwas, show (s.lport p.val).ctrl.tail = rest by rw [show (s.lport p.val).ctrl = _ from hctrl]; rfl]
        at hrun
      exact ⟨_, hrun, fun r hr => State.lport_setLport_other s _ hr, fun _ => s.lport_setLport p.val _,
        fun h => absurd (hwas.symm.trans h) Bool.true_eq_false.mp⟩
    · rw [if_neg (Bool.eq_false_iff.1 hwas)] at hrun
      exact ⟨_, hrun, hother, fun h => absurd h (Bool.eq_false_iff.1 hwas), fun _ =>
        ⟨hfresh, hheard, hseq, hack, hreplay, hstate⟩⟩

/-! RESET_REQ (R290, R291). -/

section
variable (s : State) (p : Nat)

/-- The record of a RESET_REQ goes to the module log. -/
theorem State.logResetReq_frame : (s.logResetReq p).lport = s.lport ∧ (s.logResetReq p).resets = s.resets
    ∧ (s.logResetReq p).cores = s.cores ∧ (s.logResetReq p).boot = s.boot := ⟨rfl, rfl, rfl, rfl⟩

/-- A link die's RESET_REQ asserts source 6 alone. -/
theorem State.assert_link (hlink : 12 ≤ p) (hnone : s.resets.episodes = []) :
    (s.assert_ 6 p false).resets.episodes = [joined
      { src := 6, reach := widened (s.reachOf 6) p, die := p, core := 0, held := false } false []] := by
  unfold State.assert_
  dsimp only
  rw [if_neg fun h => absurd h.2 (Nat.not_lt.2 hlink), State.assertAt_episodes, hnone]
  rfl

/-- Source 6 never reaches POWER (R374). -/
theorem State.reachOf_six : widened (s.reachOf 6) p ≠ rPower := by
  have hreach : s.reachOf 6 ∈ [rModule, rFabric, rDie] := by
    unfold State.reachOf
    extract_lets c
    split_ifs with h
    · exact List.contains_iff_mem.1 h
    · decide
  unfold widened
  split_ifs
  · decide
  · decide
  · decide
  · intro h
    rw [h] at hreach
    exact absurd hreach (by decide)

end

section
variable {s : State} {p : Nat}

/-- A port that has sent a RESET_REQ at a strike. -/
def Port.requested (x : Port) (t : Word) : Port := { x with ctrlOut := x.ctrlOut ++ [2], lastReset := some t }

/-- RESET_REQ of the operator goes out of a READY port that sent none lately. -/
theorem State.sendResetReq_sent (hready : (s.lport p).state = .ready)
    (hlong : ∀ t, (s.lport p).lastReset = some t → 1000000 ≤ (s.strike - t).toNat) :
    s.sendResetReq p = ((s.setLport p ((s.lport p).requested s.strike)).logResetReq p).answer .ok := by
  unfold State.sendResetReq Port.requested
  dsimp only
  rw [hready]
  refine if_neg ?_
  cases hlast : (s.lport p).lastReset with
  | none => exact Bool.false_ne_true
  | some t => exact fun h => absurd (of_decide_eq_true h) (Nat.not_lt.2 (hlong t hlast))

/-- A port that is not READY, or sent one within the last 10 ms, refuses. -/
theorem State.sendResetReq_refused (hnot : (s.lport p).state ≠ .ready
      ∨ ∃ t, (s.lport p).lastReset = some t ∧ (s.strike - t).toNat < 1000000) :
    s.sendResetReq p = s.answer .refused := by
  unfold State.sendResetReq
  dsimp only
  refine if_pos ?_
  obtain hnot | ⟨t, hlast, hsoon⟩ := hnot
  · rw [bne_iff_ne.2 hnot]
    rfl
  · rw [hlast]
    exact Bool.or_eq_true_iff.2 (.inr (decide_eq_true hsoon))

end

theorem resetRequests : Claims.ResetRequests := by
  intro s p x
  refine ⟨fun hup hready hlong => ?_, fun hup hnot => ?_, fun pl rest hflows hruns hctrl => ?_⟩
  · have hrun : exec (.resetReq p) s = .next (s.sendResetReq p.val) := State.managed_up _ _ hup
    rw [State.sendResetReq_sent hready hlong] at hrun
    refine ⟨_, hrun, rfl, ?_⟩
    show (((s.setLport p.val _).logResetReq p.val).lport p.val).ctrlOut = _
      ∧ (((s.setLport p.val _).logResetReq p.val).lport p.val).lastReset = _
      ∧ ∀ r, r ≠ p.val → ((s.setLport p.val _).logResetReq p.val).lport r = s.lport r
    obtain ⟨hports, -⟩ := State.logResetReq_frame (s.setLport p.val ((s.lport p.val).requested s.strike)) p.val
    rw [hports, State.lport_setLport]
    exact ⟨rfl, rfl, fun r hr => State.lport_setLport_other s _ hr⟩
  · have hrun : exec (.resetReq p) s = .next (s.sendResetReq p.val) := State.managed_up _ _ hup
    rw [hrun, State.sendResetReq_refused hnot]
    rfl
  · have hlive : ((s.lport p.val).flows && s.portRuns p.val) = true := Bool.and_eq_true_iff.2 ⟨hflows, hruns⟩
    have hrun : exec (.resetReqReceive p) s = s.happens _ := congrArg s.happens (if_pos hlive)
    rw [Port.ctrlFront_cons hctrl, Option.map_some, State.happens_some] at hrun
    refine ⟨fun hnot => ?_, fun hready hrreset hnone => ?_⟩
    · have hno : ¬ ((s.lport p.val).state == .ready && (s.lport p.val).rreset) = true := fun h =>
        hnot ⟨eq_of_beq (Bool.and_eq_true_iff.1 h).1, (Bool.and_eq_true_iff.1 h).2⟩
      rw [State.takeResetReq] at hrun
      rw [if_neg hno] at hrun
      generalize hy : ({ s.lport p.val with ctrl := (s.lport p.val).ctrl.tail } : Port) = y at hrun
      obtain ⟨hports, hresets, hcores, -⟩ := State.logResetReq_frame (s.setLport p.val ((y.count 7 1).event 4)) p.val
      refine ⟨_, hrun, ?_⟩
      rw [hports, hresets, hcores, State.lport_setLport]
      refine ⟨?_, (Port.count_counter y 7 1).trans ?_, Sc.has_event _ 4, rfl, rfl⟩
      · show y.ctrl = rest
        rw [← hy]
        exact congrArg List.tail hctrl
      · rw [← hy]
    · have hyes : ((s.lport p.val).state == .ready && (s.lport p.val).rreset) = true :=
        Bool.and_eq_true_iff.2 ⟨beq_iff_eq.2 hready, hrreset⟩
      rw [State.takeResetReq] at hrun
      rw [if_pos hyes] at hrun
      have hlink : 12 ≤ linkDie p.val := by unfold linkDie; omega
      refine ⟨_, _, hrun, State.assert_link _ _ hlink hnone, ?_⟩
      exact if_neg fun h => absurd h.1 (State.reachOf_six s _)

/-- Settles O28: by the port's own registers through each change of its state; other ports keep theirs. -/
theorem portStates : Obligations.PortStates := ⟨lanesAndTraining, linkControl, resetRequests⟩

end Sys2Proof.Machine
end

section
/-! PROOF. Flits sent and received over a torus link (R279, R283 to R286). -/

namespace Sys2Proof.Machine

open Sys2Proof

/-! The 256 bytes of a flit survive the wire (R283, R284). -/

theorem leBytes_ofLe (bs : List Byte) : leBytes bs.length (ofLe bs) = bs := by
  induction bs with
  | nil => rfl
  | cons b bs ih =>
    have hb : b.toNat < 256 := b.isLt
    have hlow : BitVec.ofNat 8 (b.toNat + 256 * ofLe bs) = b := by
      apply BitVec.eq_of_toNat_eq
      rw [BitVec.toNat_ofNat]
      omega
    have hhigh : (b.toNat + 256 * ofLe bs) / 256 = ofLe bs := by omega
    rw [List.length_cons, ofLe, leBytes, hlow, hhigh, ih]

/-- The bytes that a flit's check code covers. -/
def flitBody (header : Nat) (payload : List Byte) : List Byte := leBytes 8 header ++ padTo 240 payload

section
variable (header : Nat) (payload : List Byte)

theorem length_flitBody : (flitBody header payload).length = 248 := by
  rw [flitBody, List.length_append, length_leBytes, padTo, length_slice]

/-- The bytes of a flit are its header, its payload and its check code. -/
theorem flitBytes_flitOf : flitBytes (flitOf header payload)
    = flitBody header payload ++ leBytes 8 (crc64 (flitBody header payload)).toNat := by
  unfold flitBytes flitOf
  dsimp only
  rw [show leBytes 8 header ++ padTo 240 payload = flitBody header payload from rfl]
  generalize hbs : flitBody header payload ++ leBytes 8 (crc64 (flitBody header payload)).toNat = bs
  have hlength : bs.length = 256 := by rw [← hbs, List.length_append, length_flitBody, length_leBytes]
  have hlt := ofLe_lt bs
  rw [hlength] at hlt
  rw [BitVec.toNat_ofNat, Nat.mod_eq_of_lt hlt, ← hlength]
  exact leBytes_ofLe bs

/-- The check code of a flit is that of the bytes before it. -/
theorem flitOf_crc : crc64 ((flitBytes (flitOf header payload)).take 248)
    = BitVec.ofNat 64 (leAt (flitBytes (flitOf header payload)) 248 8) := by
  have hcrc := leAt_middle (flitBody header payload) [] (n := 8) (x := (crc64 (flitBody header payload)).toNat)
    (length_flitBody header payload) (crc64 (flitBody header payload)).isLt
  rw [List.append_nil] at hcrc
  rw [flitBytes_flitOf, hcrc, List.take_left' (length_flitBody header payload), BitVec.ofNat_toNat, BitVec.setWidth_eq]

/-- The header of a flit. -/
theorem flitOf_header (h : header < 2 ^ 64) : leAt (flitBytes (flitOf header payload)) 0 8 = header := by
  rw [flitBytes_flitOf, flitBody, List.append_assoc]
  exact leAt_middle [] _ (n := 8) rfl h

/-- The payload of a flit starts with the bytes given. -/
theorem flitOf_payload (h : payload.length ≤ 240) :
    (slice (flitBytes (flitOf header payload)) 8 240).take payload.length = payload := by
  have hpad : padTo 240 payload = payload ++ List.replicate (240 - payload.length) 0 := by
    simp [padTo, slice, List.take_of_length_le h]
  have hmid := slice_middle (leBytes 8 header) (padTo 240 payload)
    (leBytes 8 (crc64 (flitBody header payload)).toNat)
  rw [length_leBytes, padTo, length_slice] at hmid
  rw [flitBytes_flitOf, flitBody, padTo]
  exact (congrArg (List.take payload.length) hmid).trans (by
    rw [show slice payload 0 240 = padTo 240 payload from rfl, hpad, List.take_left])

end

/-- The header of a DATA flit that one port sends, as another reads it (R284). -/
theorem flitHead_dataFlit (x : Port) (v : Vc) (seq : BitVec 8) {used : Nat} (hused : used ≤ 15) (payload : List Byte) :
    let h := flitHead (flitBytes (flitOf (x.flitHeader seq 1 (vcNo v) used) payload))
    h.seq = seq ∧ h.kind = 1 ∧ h.vc = vcNo v ∧ h.used = used ∧ h.rest = 0 := by
  have hvc : vcNo v ≤ 2 := by cases v <;> decide
  have hnak : b2n x.nak ≤ 1 := by cases x.nak <;> decide
  have hseq := seq.isLt
  have hack := x.ack.isLt
  have hrsp := x.rsp.freed.isLt
  have hred := x.red.freed.isLt
  have hreq := x.req.freed.isLt
  have hw : leAt (flitBytes (flitOf (x.flitHeader seq 1 (vcNo v) used) payload)) 0 8
      = x.flitHeader seq 1 (vcNo v) used := by
    refine flitOf_header _ _ ?_
    unfold Port.flitHeader
    omega
  unfold flitHead
  dsimp only
  rw [hw]
  unfold Port.flitHeader
  refine ⟨?_, ?_, ?_, ?_, ?_⟩
  · apply BitVec.eq_of_toNat_eq
    rw [BitVec.toNat_ofNat]
    omega
  · omega
  · omega
  · omega
  · omega

/-! A flit received. -/

section
variable (x : Port)

theorem Port.vcOf_setVc (v : Vc) (c : VcState) : (x.setVc v c).vcOf v = c := by
  cases v <;> rfl

theorem Port.vcOf_setVc_other (c : VcState) : ∀ {v w : Vc}, w ≠ v → (x.setVc v c).vcOf w = x.vcOf w
  | .req, .req, h | .red, .red, h | .rsp, .rsp, h => absurd rfl h
  | .req, .red, _ | .req, .rsp, _ | .red, .req, _ | .red, .rsp, _ | .rsp, .req, _ | .rsp, .red, _ => rfl

/-- A port's receive buffers, and what it acknowledges, are those of another state of it. -/
def Port.SameReceived (y : Port) : Prop := (∀ w, (y.vcOf w).rx = (x.vcOf w).rx) ∧ y.ack = x.ack ∧ y.nak = x.nak

end

theorem Port.sameReceived_of_eq {x y : Port} (hreq : y.req.rx = x.req.rx) (hred : y.red.rx = x.red.rx)
    (hrsp : y.rsp.rx = x.rsp.rx) (hack : y.ack = x.ack) (hnak : y.nak = x.nak) : x.SameReceived y :=
  ⟨fun w => match w with
    | .req => hreq
    | .red => hred
    | .rsp => hrsp, hack, hnak⟩

section
variable (x : Port)

theorem Port.frameStep_received (ok : Bool) : x.SameReceived (x.frameStep ok) := by
  unfold Port.frameStep
  dsimp only
  split
  · exact Port.sameReceived_of_eq rfl rfl rfl rfl rfl
  · exact Port.sameReceived_of_eq rfl rfl rfl rfl rfl

theorem Port.acknowledge_received (a : BitVec 8) : x.SameReceived (x.acknowledge a) := by
  unfold Port.acknowledge
  dsimp only
  split
  · exact Port.sameReceived_of_eq rfl rfl rfl rfl rfl
  · exact Port.sameReceived_of_eq rfl rfl rfl rfl rfl

theorem Port.credits_received (h : FlitHead) : x.SameReceived (x.credits h) :=
  Port.sameReceived_of_eq rfl rfl rfl rfl rfl

/-- A port that reads NAK sends every unacknowledged flit again, once for each acknowledgement (R285). -/
def Port.nacked (h : FlitHead) : Port :=
  if h.nak && x.nakSeen != some h.ack && !x.replay.isEmpty then { x.resendAll with nakSeen := some h.ack } else x

theorem Port.nacked_received (h : FlitHead) : x.SameReceived (x.nacked h) := by
  unfold Port.nacked
  split
  · exact Port.sameReceived_of_eq rfl rfl rfl rfl rfl
  · exact Port.sameReceived_of_eq rfl rfl rfl rfl rfl

/-- A flit lost to the codec counts its codeword once (R298). -/
theorem Port.frameStep_lost :
    Assoc.get {} (x.frameStep false).counters 1 = (Assoc.get {} x.counters 1).addN
      (if (x.rxInFrame < 2 ∧ x.rxFirst = false) ∨ (2 < x.rxInFrame ∧ x.rxSecond = false)
        ∨ (x.rxInFrame = 2 ∧ x.rxFirst = false ∧ x.rxSecond = false) then 1 else 0) := by
  unfold Port.frameStep
  extract_lets i first second y
  have hcount : Assoc.get {} y.counters 1 = (Assoc.get {} x.counters 1).addN (b2n first + b2n second) :=
    Port.count_counter x 1 _
  have hone : b2n first + b2n second = if (i < 2 ∧ x.rxFirst = false) ∨ (2 < i ∧ x.rxSecond = false)
      ∨ (i = 2 ∧ x.rxFirst = false ∧ x.rxSecond = false) then 1 else 0 := by
    unfold first second
    rcases lt_trichotomy i 2 with hi | hi | hi
    · have h1 : ¬ 2 < i := by omega
      have h2 : i ≠ 2 := by omega
      cases x.rxFirst <;> simp [b2n, hi, h1, h2]
    · cases x.rxFirst <;> cases x.rxSecond <;> simp [b2n, hi]
    · have h1 : ¬ i < 2 := by omega
      have h2 : i ≠ 2 := by omega
      cases x.rxSecond <;> simp [b2n, hi, h1, h2]
  rw [hone] at hcount
  split
  · exact hcount
  · exact hcount

/-- The next DATA flit in order joins its virtual channel's receive buffer. -/
theorem Port.acceptData_next {h : FlitHead} {pl : List Byte} {v : Vc} (hseq : h.seq = x.ack + 1)
    (hvc : vcNamed h.vc = v) : let y := x.acceptData h pl
    (y.vcOf v).rx = (x.vcOf v).rx ++ pl.take (16 * h.used) ∧ y.ack = h.seq ∧ y.nak = false
      ∧ ∀ w, w ≠ v → (y.vcOf w).rx = (x.vcOf w).rx := by
  unfold Port.acceptData
  dsimp only
  rw [if_pos hseq, hvc]
  have hset : ∀ (z : Port) w, Port.vcOf { z with ack := h.seq, nak := false, fresh := false } w = z.vcOf w :=
    fun z w => match w with
    | .req => rfl
    | .red => rfl
    | .rsp => rfl
  refine ⟨?_, rfl, rfl, fun w hw => ?_⟩
  · rw [hset, Port.vcOf_setVc]
  · rw [hset, Port.vcOf_setVc_other x _ hw]

/-- A good DATA flit, the next in order. -/
theorem Port.accept_next {h : FlitHead} {pl : List Byte} {v : Vc} (hkind : h.kind = 1) (hseq : h.seq = x.ack + 1)
    (hvc : vcNamed h.vc = v) : let y := x.accept h pl
    (y.vcOf v).rx = (x.vcOf v).rx ++ pl.take (16 * h.used) ∧ y.ack = h.seq ∧ y.nak = false
      ∧ ∀ w, w ≠ v → (y.vcOf w).rx = (x.vcOf w).rx := by
  intro y
  have hy : y = (((x.acknowledge h.ack).credits h).nacked h).acceptData h pl := if_pos hkind
  obtain ⟨hrx, hack, -⟩ := x.acknowledge_received h.ack
  obtain ⟨hrx', hack', -⟩ := (x.acknowledge h.ack).credits_received h
  obtain ⟨hrx'', hack'', -⟩ := ((x.acknowledge h.ack).credits h).nacked_received h
  generalize ((x.acknowledge h.ack).credits h).nacked h = b at *
  have hall : ∀ w, (b.vcOf w).rx = (x.vcOf w).rx := fun w => (hrx'' w).trans ((hrx' w).trans (hrx w))
  have hnext : h.seq = b.ack + 1 := by rw [hack'', hack', hack, hseq]
  rw [hy]
  obtain ⟨hdata, hacked, hnak, hothers⟩ := b.acceptData_next (pl := pl) hnext hvc
  exact ⟨by rw [hdata, hall], hacked, hnak, fun w hw => (hothers w hw).trans (hall w)⟩

/-- A retrain after many resends leaves the receive buffers and the memory. -/
theorem State.escalate_received (s : State) (p : Nat) : (s.lport p).SameReceived ((s.escalate p).lport p)
    ∧ (∀ r, r ≠ p → (s.escalate p).lport r = s.lport r) ∧ (s.escalate p).mem = s.mem := by
  unfold State.escalate
  split
  · refine ⟨?_, fun r hr => State.lport_setLport_other s _ hr, rfl⟩
    unfold State.retrain
    rw [State.linkState_lport, State.lport_setLport]
    exact Port.sameReceived_of_eq rfl rfl rfl rfl rfl
  · exact ⟨Port.sameReceived_of_eq rfl rfl rfl rfl rfl, fun _ _ => rfl, rfl⟩

end

/-- A flit that arrives is taken where the frames are locked, a cable holds, and no INIT waits. -/
theorem exec_flitReceive {s : State} {p : Fin 8} (f : BitVec 2048) (ok : Bool) (hcable : p.val ∈ s.pins.cables)
    (hruns : s.portRuns p.val = true) (hflows : (s.lport p.val).flows = true)
    (hinit : ∀ c ∈ (s.lport p.val).ctrl, c.1 ≠ 3) :
    exec (.flitReceive p f ok) s = .next (s.receiveFlit p.val f ok) := by
  have hnone : (s.lport p.val).ctrl.any (fun c => c.1 == 3) = false :=
    List.any_eq_false.2 fun c hc => by simpa using hinit c hc
  refine congrArg s.happens (if_pos ?_)
  rw [hflows, hruns, hnone, State.cabled, List.contains_iff_mem.2 hcable]
  rfl

/-- A flit with a good check code and no reserved value is accepted. -/
theorem State.receiveFlit_good (s : State) (p : Nat) {f : BitVec 2048}
    (hcrc : crc64 ((flitBytes f).take 248) = BitVec.ofNat 64 (leAt (flitBytes f) 248 8))
    (hok : (flitHead (flitBytes f)).ok (slice (flitBytes f) 8 240) = true) :
    s.receiveFlit p f true = (s.setLport p (((s.lport p).frameStep true).accept
      (flitHead (flitBytes f)) (slice (flitBytes f) 8 240))).escalate p := by
  unfold State.receiveFlit
  dsimp only
  rw [if_neg (by decide), if_neg]
  rw [hcrc, hok, bne_self_eq_false]
  decide

/-- A flit that the codec could not correct is lost. -/
theorem State.receiveFlit_lost (s : State) (p : Nat) (f : BitVec 2048) :
    s.receiveFlit p f false = s.setLport p ((s.lport p).frameStep false).lose := by
  unfold State.receiveFlit
  exact if_pos rfl

theorem flitReceived : Claims.FlitReceived := by
  intro s p y i hcable hruns hflows hinit
  refine ⟨fun x v seq used payload hlow hhigh hlength hseq => ?_, fun f => ?_⟩
  · obtain ⟨hheadSeq, hkind, hvc, hused, hrest⟩ := flitHead_dataFlit x v seq hhigh payload
    have hcrc := flitOf_crc (x.flitHeader seq 1 (vcNo v) used) payload
    have hpayload := flitOf_payload (x.flitHeader seq 1 (vcNo v) used) payload (by omega)
    intro f
    rw [← show f = flitOf (x.flitHeader seq 1 (vcNo v) used) payload from rfl] at *
    clear_value f
    have hrun := exec_flitReceive f true hcable hruns hflows hinit
    have hok : (flitHead (flitBytes f)).ok (slice (flitBytes f) 8 240) = true := by
      unfold FlitHead.ok
      rw [hrest, hkind, hvc, hused]
      have hvcs : vcNo v ≤ 2 := by cases v <;> decide
      exact decide_eq_true (And.intro hvcs hlow)
    rw [s.receiveFlit_good p.val hcrc hok] at hrun
    have hnamed : vcNamed (flitHead (flitBytes f)).vc = v := by rw [hvc]; cases v <;> rfl
    obtain ⟨hstepRx, hstepAck, -⟩ := (s.lport p.val).frameStep_received true
    have hnext : (flitHead (flitBytes f)).seq = ((s.lport p.val).frameStep true).ack + 1 := by
      rw [hheadSeq, hstepAck, hseq]
    obtain ⟨hrx, hack, hnak, hothers⟩ := ((s.lport p.val).frameStep true).accept_next
      (pl := slice (flitBytes f) 8 240) hkind hnext hnamed
    generalize ((s.lport p.val).frameStep true).accept (flitHead (flitBytes f)) _ = z at *
    obtain ⟨⟨hendRx, hendAck, hendNak⟩, hendOthers, hmem⟩ := (s.setLport p.val z).escalate_received p.val
    rw [State.lport_setLport] at hendRx hendAck hendNak
    refine ⟨_, hrun, ?_, ?_, ?_, fun w hw => ?_, fun r hr => ?_, hmem⟩
    · rw [hendRx, hrx, hstepRx, hused, ← hlength, hpayload]
    · rw [hendAck, hack, hheadSeq]
    · rw [hendNak, hnak]
    · rw [hendRx, hothers w hw, hstepRx]
    · exact (hendOthers r hr).trans (State.lport_setLport_other s _ hr)
  · have hrun := exec_flitReceive f false hcable hruns hflows hinit
    rw [s.receiveFlit_lost p.val f] at hrun
    obtain ⟨hrx, hack, -⟩ := (s.lport p.val).frameStep_received false
    refine ⟨_, hrun, ?_⟩
    rw [State.lport_setLport]
    exact ⟨rfl, hack, hrx, (s.lport p.val).frameStep_lost⟩

/-! A flit sent. -/

/-- A flit on the wire: the port's place in its frame goes on, and the module's outputs show the flit. -/
theorem State.emit_spec (s : State) (p : Fin 8) (x : Port) (f : BitVec 2048) :
    (∃ place count, (s.emit p x f).lport p.val = { x with inFrame := place, fcnt := count })
      ∧ (s.emit p x f).out.flit = some (p, f) ∧ (s.emit p x f).out.frameTag = x.frameTag
      ∧ (∀ r, r ≠ p.val → (s.emit p x f).lport r = s.lport r) ∧ (s.emit p x f).mem = s.mem := by
  unfold State.emit
  extract_lets y t
  have hy : ∃ place count, y = { x with inFrame := place, fcnt := count } := by
    unfold y
    split
    · exact ⟨_, _, rfl⟩
    · exact ⟨_, _, rfl⟩
  obtain ⟨place, count, hy⟩ := hy
  exact ⟨⟨place, count, (s.lport_setLport p.val y).trans hy⟩, rfl, rfl,
    fun r hr => State.lport_setLport_other s _ hr, rfl⟩

/-- The next DATA flit of a virtual channel, in the replay buffer until it is acknowledged. -/
theorem Port.takeData_spec (x : Port) (v : Vc) : let y := (x.takeData v).1
    let bytes := (x.vcOf v).tx.take 240
    y.seq = x.seq + 1 ∧ (y.vcOf v).tx = (x.vcOf v).tx.drop 240 ∧ (y.vcOf v).s = (x.vcOf v).s + 1
      ∧ y.replay = x.replay ++ [{ seq := x.seq, vc := v, used := bytes.length / 16, payload := bytes }]
      ∧ ∀ seq kind vc used, y.flitHeader seq kind vc used = x.flitHeader seq kind vc used := by
  cases v <;> exact ⟨rfl, rfl, rfl, rfl, fun _ _ _ _ => rfl⟩

/-- FLIT_SEND of a port whose frames are locked. -/
theorem exec_flitSend {s : State} {p : Fin 8} (hcable : p.val ∈ s.pins.cables) (hruns : s.portRuns p.val = true)
    (hflows : (s.lport p.val).flows = true) : exec (.flitSend p) s = .next (s.sendFlit p) := by
  refine congrArg s.happens (if_pos ?_)
  rw [hflows, hruns, State.cabled, List.contains_iff_mem.2 hcable]
  rfl

theorem flitSent : Claims.FlitSent := by
  intro s p x
  refine ⟨fun hidle => congrArg s.happens (if_neg ?_), fun hcable hruns hflows hstate sub rest hctrl => ?_,
    fun v hcable hruns hready hresend hroom hone => ?_⟩
  · rw [Bool.and_eq_true, Bool.and_eq_true]
    rintro ⟨⟨-, hcable⟩, hruns⟩
    obtain hnone | hgap := hidle
    · exact hnone (List.contains_iff_mem.1 hcable)
    · exact absurd (hruns.symm.trans hgap) Bool.true_eq_false.mp
  · have hsend : s.sendFlit p = s.emit p { x with ctrlOut := rest }
        (flitOf (x.flitHeader 0 0 0 0) (x.ctrlPayload p.val sub)) := by
      unfold State.sendFlit
      dsimp only
      rw [if_pos (bne_iff_ne.2 hstate), show (s.lport p.val).ctrlOut = sub :: rest from hctrl]
    have hrun := exec_flitSend hcable hruns hflows
    rw [hsend] at hrun
    obtain ⟨⟨place, count, hport⟩, hflit, htag, hother, hmem⟩ := s.emit_spec p { x with ctrlOut := rest }
      (flitOf (x.flitHeader 0 0 0 0) (x.ctrlPayload p.val sub))
    exact ⟨_, hrun, congrArg Port.ctrlOut hport, hflit, htag, hother, hmem⟩
  · have hflows : x.flows = true := by
      unfold Port.flows
      rw [hready]
      rfl
    have hsend : s.sendFlit p = (s.useFree 1).emitData p (x.takeData v).1 (x.takeData v).2 := by
      unfold State.sendFlit
      dsimp only
      rw [if_neg (by rw [show (s.lport p.val).state = .ready from hready]; decide),
        show (s.lport p.val).resend = 0 from hresend, Nat.sub_zero, List.getElem?_eq_none le_rfl]
      dsimp only
      rw [if_neg (Nat.not_le.2 hroom), show (s.lport p.val).sendable = [v] from hone,
        show ([v] : List Vc).length = 1 from rfl, Nat.mod_one]
      rfl
    have hrun := exec_flitSend hcable hruns hflows
    rw [hsend, State.emitData] at hrun
    obtain ⟨hseq, htx, hs, hreplay, hheader⟩ := x.takeData_spec v
    obtain ⟨⟨place, count, hport⟩, hflit, -, hother, hmem⟩ := (s.useFree 1).emit_spec p (x.takeData v).1
      (flitOf ((x.takeData v).1.flitHeader (x.takeData v).2.seq 1 (vcNo (x.takeData v).2.vc) (x.takeData v).2.used)
        (x.takeData v).2.payload)
    have hvc : ∀ (y : Port) w, Port.vcOf { y with inFrame := place, fcnt := count } w = y.vcOf w :=
      fun y w => match w with
      | .req => rfl
      | .red => rfl
      | .rsp => rfl
    refine ⟨_, hrun, ?_, ?_, ?_, ?_, ?_, hother, hmem⟩
    · rw [hport]
      exact hseq
    · rw [hport, hvc]
      exact htx
    · rw [hport, hvc]
      exact hs
    · rw [hport]
      exact hreplay
    · rw [hflit, hheader]
      rfl

/-- Settles O29: the bytes of a flit are read back as they were sent, and each function of the link layer leaves the
receive buffers it does not fill. -/
theorem flitsOfALink : Obligations.FlitsOfALink := ⟨flitSent, flitReceived⟩

end Sys2Proof.Machine
end

section
/-! PROOF. Packets and descriptors of the torus ports (R292 to R296, R305, R323). -/

namespace Sys2Proof.Machine

open Sys2Proof

/-! Bytes written over a span of external memory or the central store. -/

section
variable (s : State) {a : Nat} {bs : List Byte}

/-- A span that nothing refuses lies in external memory or the central store. -/
theorem State.spanCause_target {n : Nat} (h : s.spanCause a n = none) : s.target a = .ext ∨ s.target a = .store := by
  unfold State.spanCause at h
  split at h
  · cases h
  · next hspan =>
    simp only [Bool.not_eq_true, Bool.not_eq_false', Bool.and_eq_true, Bool.or_eq_true, beq_iff_eq] at hspan
    exact hspan.1

/-- Memory lies below the core windows. -/
theorem State.span_low (h : s.target a = .ext ∨ s.target a = .store) : a < windowBase := by
  by_contra hhigh
  have hpool : s.poolStart ≤ storeEnd := Nat.sub_le _ _
  have hext : ¬ a < extEnd := fun h => absurd (lt_trans h (by decide : extEnd < windowBase)) hhigh
  have hstore : ¬(storeBase ≤ a ∧ a < s.poolStart) := fun h =>
    absurd (lt_of_lt_of_le (lt_of_lt_of_le h.2 hpool) (by decide : storeEnd ≤ windowBase)) hhigh
  unfold State.target at h
  rw [if_neg hext, if_neg hstore] at h
  dsimp only at h
  split_ifs at h <;> simp at h

/-- A write of the central store. -/
theorem State.storeWrite_low (h : a + bs.length ≤ windowBase) : (s.storeWrite a bs).OnlyWritten s
    ∧ ∀ y, (s.storeWrite a bs).byte y = lastWrite (bytesAt a bs) y (s.byte y) := by
  refine ⟨?_, fun y => (State.byte_putBytes _ a bs y).trans (lastWrite_bytesAt bs a y _).symm⟩
  unfold State.storeWrite
  dsimp only
  have hframe := fun v : State => v.putBytes_low h
  rw [hframe]

/-- A write of a span of memory. -/
theorem State.memWrite_span (hspan : s.target a = .ext ∨ s.target a = .store) (h : a + bs.length ≤ windowBase) :
    ∃ t, s.memWrite a bs = some t ∧ t.OnlyWritten s ∧ ∀ y, t.byte y = lastWrite (bytesAt a bs) y (s.byte y) := by
  obtain ⟨hframe, hbyte⟩ := s.writeRun_low (s.span_low hspan) h
  have hrun : s.memWrite a bs = some (s.writeRun a bs) := by
    unfold State.memWrite State.writeRun
    rcases hspan with ht | ht <;> rw [ht]
  exact ⟨_, hrun, hframe, fun y => (hbyte y).trans (lastWrite_bytesAt bs a y _).symm⟩

end

/-! The packet at the front of a virtual channel, and its answer. -/

section
variable {s : State} {p : Fin 8} {v : Vc} {op : Nat} {h : Header} {d : List Byte}

/-- A front packet of an operation that its channel carries is the one a command applies. -/
theorem State.onPacket_front (hruns : s.portRuns p.val = true) (hfront : frontPacket s p v op h d)
    (body : State → Header → List Byte → Option State) : s.onPacket p.val v op body = s.happens (body s h d) := by
  obtain ⟨hpacket, hop, hcarried⟩ := hfront
  have hskip : ∀ n, s.skipBad p.val v n = s := fun n => by
    cases n with
    | zero => rfl
    | succ n =>
      rw [State.skipBad, hpacket]
      exact if_pos (by rw [hop]; exact List.contains_iff_mem.2 hcarried)
  unfold State.onPacket
  rw [if_neg (by rw [hruns]; decide)]
  dsimp only
  rw [hskip, hpacket]
  exact congrArg s.happens (if_pos hop)

theorem State.onPacket_next (hruns : s.portRuns p.val = true) (hfront : frontPacket s p v op h d)
    {body : State → Header → List Byte → Option State} {t : State} (hbody : body s h d = some t) :
    s.onPacket p.val v op body = .next t := by
  rw [State.onPacket_front hruns hfront, hbody]
  rfl

theorem State.onPacket_waits (hruns : s.portRuns p.val = true) (hfront : frontPacket s p v op h d)
    {body : State → Header → List Byte → Option State} (hbody : body s h d = none) :
    s.onPacket p.val v op body = .next s := by
  rw [State.onPacket_front hruns hfront, hbody]
  rfl

/-- The data of a packet are as long as its header says. -/
theorem frontPacket_length (hfront : frontPacket s p v op h d) : d.length = h.dataLen := by
  obtain ⟨hpacket, -⟩ := hfront
  unfold Port.packet at hpacket
  dsimp only at hpacket
  split at hpacket
  · next hlen =>
    simp only [Option.some.injEq, Prod.mk.injEq] at hpacket
    obtain ⟨rfl, rfl⟩ := hpacket
    rw [List.length_take, List.length_drop]
    omega
  · cases hpacket

end

section
variable (s : State) (p : Nat) {v : Vc} (h : Header) (status : Nat)

/-- A packet applied changes its port alone: the virtual channel's receive buffer. -/
theorem State.consume_spec (v : Vc) : ∃ c : VcState, c.tx = ((s.lport p).vcOf v).tx
    ∧ (s.consume p v h).lport p = (s.lport p).setVc v c ∧ ∀ r, r ≠ p → (s.consume p v h).lport r = s.lport r :=
  ⟨((s.lport p).vcOf v).consume (32 + h.dataLen), rfl, s.lport_setLport p _,
    fun _ hr => State.lport_setLport_other s _ hr⟩

/-- The header of the answer to a packet. -/
def Header.answer (h : Header) (status : Nat) : Header := { op := if h.op = 2 then 9 else 8, tag := h.tag, status :=
    status }

/-- A packet answered: the answer joins the RSP channel of the port, and nothing else but the port changes. -/
theorem State.reply_spec (hv : v ≠ .rsp) :
    (((s.reply p v h status).lport p).vcOf .rsp).tx = ((s.lport p).vcOf .rsp).tx ++ (h.answer status).bytes ++ []
      ∧ ((s.reply p v h status).lport p).channels = (s.lport p).channels
      ∧ (∀ r, r ≠ p → (s.reply p v h status).lport r = s.lport r)
      ∧ ∃ ports, s.reply p v h status = { s with link := { s.link with ports := ports } } := by
  obtain ⟨c, -, hport, hother⟩ := s.consume_spec p h v
  have hframe : ∃ ports, s.consume p v h = { s with link := { s.link with ports := ports } } := ⟨_, rfl⟩
  unfold State.reply
  generalize s.consume p v h = t at *
  dsimp only
  rw [State.lport_setLport]
  refine ⟨?_, ?_, fun r hr => (State.lport_setLport_other t _ hr).trans (hother r hr), ?_⟩
  · rw [hport]
    cases v with
    | req => rfl
    | red => rfl
    | rsp => exact absurd rfl hv
  · rw [hport]
    cases v <;> rfl
  · obtain ⟨ports, rfl⟩ := hframe
    exact ⟨_, rfl⟩

end

/-! Requests (R292 to R294). -/

section
variable {s : State} {p : Fin 8} {v : Vc} {h : Header} {d : List Byte}

/-- A packet that writes memory which exists, is on and does not wait. -/
theorem State.writePacket_lands (after : State → State) (hempty : s.store.requests = [])
    (hcause : s.spanCause h.addr d.length = none) (hdie : s.dieWaits h.addr = false)
    (hwaits : s.accessWaits h.addr d.length true = false) (hlow : h.addr + d.length ≤ windowBase) :
    ∃ t, s.writePacket p v h d after = some ((after t).reply p.val v h 0) ∧ t.OnlyWritten s
      ∧ ∀ y, t.byte y = lastWrite (bytesAt h.addr d) y (s.byte y) := by
  obtain ⟨t, hwrite, hframe, hbyte⟩ := s.memWrite_span (s.spanCause_target hcause) hlow
  refine ⟨t, ?_, hframe, hbyte⟩
  unfold State.writePacket
  rw [hcause, hdie, hwaits, s.portTurn_alone p h.addr d.length hempty]
  dsimp only
  rw [if_neg (by decide), hwrite]
  rfl

end

theorem requestPackets : Claims.RequestPackets := by
  intro s p v h d hv hruns
  refine ⟨fun hfront hempty hok hcause hdie hwaits hlow => ?_, fun hfront hbad => ?_,
    fun hreq hfront hempty hok hcause hdie hwaits bs hread => ?_, fun hfront hok => ?_⟩
  · obtain ⟨t, hwritten, hframe, hbyte⟩ := State.writePacket_lands (p := p) (v := v) id hempty hcause hdie hwaits hlow
    have hrun : exec (.put p v) s = .next (t.reply p.val v h 0) := by
      show execPut p v s = _
      unfold execPut
      exact State.onPacket_next hruns hfront ((if_pos hok).trans hwritten)
    obtain ⟨htx, -, hother, ports, hreply⟩ := t.reply_spec p.val h 0 hv
    have hports : ∀ r, t.lport r = s.lport r := fun r => by rw [hframe]; rfl
    have hanswer : h.answer 0 = { op := 8, tag := h.tag } := by
      unfold Header.answer
      rw [if_neg (by rw [hfront.2.1]; decide)]
    rw [hports, hanswer] at htx
    refine ⟨_, hrun, htx, fun a => ?_, ?_, fun r hr => (hother r hr).trans (hports r)⟩
    · rw [← hbyte, hreply]
      rfl
    · rw [hreply, hframe]
  · have hrun : exec (.put p v) s = .next (s.reply p.val v h 2) := by
      show execPut p v s = _
      unfold execPut
      exact State.onPacket_next hruns hfront (if_neg (Bool.eq_false_iff.1 hbad))
    obtain ⟨htx, -, -, ports, hreply⟩ := s.reply_spec p.val h 2 hv
    have hanswer : h.answer 2 = { op := 8, tag := h.tag, status := 2 } := by
      unfold Header.answer
      rw [if_neg (by rw [hfront.2.1]; decide)]
    rw [hanswer] at htx
    exact ⟨_, hrun, htx, by rw [hreply], by rw [hreply]⟩
  · subst hreq
    have hget : s.get p h = some ((s.consume p.val .req h).setLport p.val (((s.consume p.val .req h).lport p.val).send
        .rsp { op := 9, len := h.len, tag := h.tag } bs)) := by
      unfold State.get
      dsimp only
      rw [hok, hcause, hdie, hwaits, s.portTurn_alone p h.addr _ hempty]
      dsimp only
      rw [hread]
      rfl
    have hrun := State.onPacket_next hruns hfront (body := fun s h _ => s.get p h) hget
    obtain ⟨c, -, hport, hother⟩ := s.consume_spec p.val h .req
    refine ⟨_, hrun, ?_, rfl, rfl, fun r hr => (State.lport_setLport_other _ _ hr).trans (hother r hr)⟩
    unfold replies
    rw [State.lport_setLport, hport]
    rfl
  · have hrun : exec (.flagPacket p v) s
        = .next ((s.applyFlag h.aux h.addr (BitVec.ofNat 64 h.value)).reply p.val v h 0) := by
      show execFlagPacket p v s = _
      unfold execFlagPacket
      exact State.onPacket_next hruns hfront (if_pos hok)
    have hanswer : h.answer 0 = { op := 8, tag := h.tag } := by
      unfold Header.answer
      rw [if_neg (by rw [hfront.2.1]; decide)]
    have haux : h.aux = 2 ∨ h.aux = 3 := by
      unfold Header.flagOk at hok
      simp only [Bool.and_eq_true, Bool.or_eq_true, beq_iff_eq] at hok
      exact hok.2
    obtain ⟨⟨flags, hflags⟩, hsame, hothers⟩ := s.applyFlag_spec h.addr (BitVec.ofNat 64 h.value) haux
    generalize s.applyFlag h.aux h.addr (BitVec.ofNat 64 h.value) = t at *
    obtain ⟨htx, -, -, ports, hreply⟩ := t.reply_spec p.val h 0 hv
    rw [show t.lport p.val = s.lport p.val by rw [hflags]; rfl, hanswer] at htx
    rw [← hsame]
    refine ⟨_, hrun, htx, by rw [hreply]; rfl, fun n hn => ?_, by rw [hreply, hflags], by rw [hreply, hflags]⟩
    rw [← hothers n hn, hreply]
    rfl

/-! Requests of another epoch, and those of an exchange (R293, R294, R305, R323). -/

section
variable (s : State) (p : Fin 8) (v : Vc) (h : Header) (cause : Nat)

/-- A packet refused as a violation changes its port, the logs, and the requests that wait. -/
theorem State.refusePacket_spec (hv : v ≠ .rsp) (hop : h.op ≠ 2) :
    replies s (s.refusePacket p v h cause) p { op := 8, tag := h.tag, status := 1 } []
      ∧ (s.refusePacket p v h cause).mem = s.mem
      ∧ (s.refusePacket p v h cause).logs.mcount = s.logs.mcount.tick := by
  unfold State.refusePacket
  have hviolation : ∀ t : State, (t.packetViolation p cause h.addr).lport p.val = t.lport p.val
      ∧ (t.packetViolation p cause h.addr).mem = t.mem
      ∧ (t.packetViolation p cause h.addr).logs.mcount = t.logs.mcount.tick := fun _ => ⟨rfl, rfl, rfl⟩
  obtain ⟨hport, hmem, hcount⟩ := hviolation (s.dropTurns p.val (· == h.addr))
  generalize (s.dropTurns p.val (· == h.addr)).packetViolation p cause h.addr = t at *
  obtain ⟨htx, -, -, ports, hreply⟩ := t.reply_spec p.val h 1 hv
  have hanswer : h.answer 1 = { op := 8, tag := h.tag, status := 1 } := by
    unfold Header.answer
    rw [if_neg hop]
  rw [hport, hanswer] at htx
  exact ⟨htx, by rw [hreply, hmem]; rfl, by rw [hreply, hcount]; rfl⟩

end

/-- The address of data in the slot that a receive ring has open. -/
def Ctx.reduceAt (c : Ctx) (z : Hasp) (at_ : Nat) : Nat :=
  c.src + (ceilDiv c.pos c.srcSlot + z.fill) % c.srcSlots * c.srcSlot + at_

/-- The units of a PERMUTE counted by the RESHARD of the axis, once that moves. -/
def Reshard.counted (r : Reshard) (dir n : Nat) : Reshard :=
  if r.step ≠ .moves then r
  else if dir = 0 then { r with gotPlus := r.gotPlus + n } else { r with gotMinus := r.gotMinus + n }

theorem State.countUnits_spec (s : State) {p : Nat} (n : Nat) {r : Reshard} (h : s.reshardOf (axisOf p) = some r) :
    (∃ reshards, s.countUnits p n = { s with link := { s.link with reshards := reshards } })
      ∧ (s.countUnits p n).reshardOf (axisOf p) = some (r.counted (dirOf p) n) := by
  unfold State.countUnits Reshard.counted
  rw [h]
  dsimp only
  rcases Classical.em (r.step = .moves) with hstep | hstep
  · rw [if_neg (by rw [hstep]; decide), if_neg (not_not.2 hstep)]
    exact ⟨⟨_, rfl⟩, s.reshardOf_setReshard _ _⟩
  · rw [if_pos (bne_iff_ne.2 hstep), if_pos hstep]
    exact ⟨⟨_, rfl⟩, h⟩

/-- A slot that is open and takes n bytes more. -/
def Channel.receiving (c : Channel) (n : Nat) : Channel := { c with open_ := true, got := c.got + n }

/-- Data into a slot that is open and that they do not fill. -/
theorem State.reduce_open {s : State} {p n k : Nat} {h : Header} {d : List Byte}
    (hopen : ((s.lport p).channel n).open_ = true)
    (hroom : ((s.lport p).channel n).got + d.length < (s.ctx k).srcSlot) :
    s.reduce p n k h d = some ((s.storeWrite ((s.ctx k).reduceAt (s.srcHasp (s.ctx k)) h.value) d).setLport p
      ((s.lport p).setChannel n (((s.lport p).channel n).receiving d.length))) := by
  unfold State.reduce
  dsimp only
  rw [hopen, decide_eq_false (Nat.not_le.2 hroom)]
  rfl

theorem reducePackets : Claims.ReducePackets := by
  intro s p h d hruns x
  have hred : Vc.red ≠ .rsp := by decide
  refine ⟨fun n hfront hempty hok hchannel hstale hearly hreceives hfits hdie hopen hroom => ?_,
    fun r hfront hempty hok hstale hearly hcause hdie hwaits hlow hreshard => ?_,
    fun hfront hok hstale => ?_, fun hfront hok hstale => ?_, fun hfront hok hstale hearly => ?_,
    fun hfront hok hstale hearly hchannel => ?_⟩
  · intro c a hlow
    have hreduce := State.reduce_open (s := s) (h := h) (d := d) hopen hroom
    obtain ⟨hframe, hbyte⟩ := s.storeWrite_low (a := (s.ctx h.addr).reduceAt (s.srcHasp (s.ctx h.addr)) h.value)
      (bs := d) hlow
    generalize s.storeWrite ((s.ctx h.addr).reduceAt (s.srcHasp (s.ctx h.addr)) h.value) d = u at *
    generalize hy : (s.lport p.val).setChannel n (((s.lport p.val).channel n).receiving d.length) = y at hreduce
    have hrun : exec (.reducePut p) s = .next ((u.setLport p.val y).reply p.val .red h 0) := by
      show execReducePut p s = _
      unfold execReducePut
      refine State.onPacket_next hruns hfront ?_
      unfold State.reducePut
      dsimp only
      rw [hok, show (s.lport p.val).stale h = false from hstale, show (s.lport p.val).early h = false from hearly,
        show (s.lport p.val).channelFor h.addr = some n from hchannel, hreceives, hdie,
        decide_eq_false (Nat.not_lt.2 hfits), s.portTurn_alone p _ _ hempty]
      dsimp only
      rw [show ((s.lport p.val).channel n).open_ = true from hopen, hreduce]
      rfl
    obtain ⟨htx, hchannels, -, ports, hreply⟩ := (u.setLport p.val y).reply_spec p.val h 0 hred
    rw [State.lport_setLport, Header.answer, if_neg (by rw [hfront.2.1]; decide)] at htx
    have hsame : y.vcOf .rsp = (s.lport p.val).vcOf .rsp := by rw [← hy]; rfl
    rw [hsame] at htx
    refine ⟨_, hrun, htx, fun b => ?_, ?_, ?_⟩
    · rw [hreply]
      exact hbyte b
    · rw [Port.channel, hchannels, State.lport_setLport, ← hy]
      exact congrArg Channel.got (Assoc.get_put_same _ _ _ _)
    · rw [hreply]
      show u.store.ctxs = s.store.ctxs
      rw [hframe]
  · obtain ⟨t, hwritten, hframe, hbyte⟩ := State.writePacket_lands (p := p) (v := .red)
      (fun s => s.countUnits p.val h.len) hempty hcause hdie hwaits hlow
    have hrun : exec (.permutePacket p) s = .next ((t.countUnits p.val h.len).reply p.val .red h 0) := by
      show execPermutePacket p s = _
      unfold execPermutePacket
      refine State.onPacket_next hruns hfront ?_
      dsimp only
      rw [hok, show (s.lport p.val).stale h = false from hstale, show (s.lport p.val).early h = false from hearly]
      exact hwritten
    have hshard : t.reshardOf (axisOf p.val) = some r := by
      rw [← hreshard, hframe]
      rfl
    obtain ⟨⟨reshards, hcounted⟩, hunits⟩ := t.countUnits_spec h.len hshard
    generalize t.countUnits p.val h.len = u at *
    obtain ⟨htx, -, -, ports, hreply⟩ := u.reply_spec p.val h 0 hred
    have hport : u.lport p.val = s.lport p.val := by rw [hcounted, hframe]; rfl
    rw [hport, Header.answer, if_neg (by rw [hfront.2.1]; decide)] at htx
    refine ⟨_, hrun, htx, fun a => ?_, ?_⟩
    · rw [← hbyte, hreply, hcounted]
      rfl
    · rw [hreply]
      exact hunits
  · have hrun : exec (.permutePacket p) s
        = .next (s.refusePacket p .red h ((s.spanCause h.addr d.length).getD 0x36)) := by
      show execPermutePacket p s = _
      unfold execPermutePacket
      refine State.onPacket_next hruns hfront ?_
      dsimp only
      rw [hok, show (s.lport p.val).stale h = true from hstale]
      rfl
    exact ⟨_, hrun, s.refusePacket_spec p .red h _ hred (by rw [hfront.2.1]; decide)⟩
  · have hrun : exec (.reducePut p) s = .next ((s.dropTurns p.val
      (· == (s.ctx h.addr).src)).refusePacket p .red h 0x36) := by
      show execReducePut p s = _
      unfold execReducePut
      refine State.onPacket_next hruns hfront ?_
      unfold State.reducePut
      dsimp only
      rw [hok, show (s.lport p.val).stale h = true from hstale]
      rfl
    exact ⟨_, hrun, State.refusePacket_spec _ p .red h _ hred (by rw [hfront.2.1]; decide)⟩
  · show execPermutePacket p s = _
    unfold execPermutePacket
    refine State.onPacket_waits hruns hfront ?_
    dsimp only
    rw [hok, show (s.lport p.val).stale h = false from hstale, show (s.lport p.val).early h = true from hearly]
    rfl
  · show execReducePut p s = _
    unfold execReducePut
    refine State.onPacket_waits hruns hfront ?_
    obtain ⟨n, hn⟩ := Option.isSome_iff_exists.1 hchannel
    unfold State.reducePut
    dsimp only
    rw [hok, show (s.lport p.val).stale h = false from hstale, show (s.lport p.val).early h = true from hearly,
      show (s.lport p.val).channelFor h.addr = some n from hn]
    rfl

/-! Responses (R293, R296). -/

section
variable (s : State) (p : Nat)

/-- A record within the free slots of its ring waits as it is. -/
theorem EventQueue.take_room (q : EventQueue) (r : Rec) (h : q.pending.length < q.space) :
    (q.take r).pending = q.pending ++ [r] := by
  have hroom : q.space ≤ q.room + 1 := by
    unfold EventQueue.room b2n
    split <;> omega
  unfold EventQueue.take
  dsimp only
  split
  · rfl
  · rw [if_pos (by omega)]

/-- LINK_DONE goes to the event queue of the port. -/
theorem State.linkDone_spec (user : Word) (op status : Nat) :
    (∃ logs, s.linkDone p user op status = { s with logs := logs })
      ∧ ((s.eq (s.lport p).eq).enable = true →
        (s.eq (s.lport p).eq).pending.length < (s.eq (s.lport p).eq).space →
        ∃ r : Rec, ((s.linkDone p user op status).eq (s.lport p).eq).pending = (s.eq (s.lport p).eq).pending ++ [r]
          ∧ r.type = 0x22 ∧ r.status = status ∧ leAt r.payload 0 8 = user.toNat) := by
  refine ⟨⟨_, rfl⟩, fun henable hspace => ?_⟩
  unfold State.linkDone State.toPort State.toEq
  dsimp only
  rw [State.eq_setEq, if_pos henable, EventQueue.take_room _ _ hspace]
  exact ⟨_, rfl, rfl, rfl, leAt_middle [] _ (n := 8) rfl user.isLt⟩

/-- Of descriptors that were all sent none completes on its own. -/
theorem State.flushEnded_none (v : Vc) (h : ∀ z ∈ (s.lport p).taken, z.ended = none) (n : Nat) :
    s.flushEnded p v n = s := by
  cases n with
  | zero => rfl
  | succ n =>
    unfold State.flushEnded
    cases hfind : (s.lport p).taken.find? (fun t => t.inRing v) with
    | none => rfl
    | some t =>
      dsimp only
      rw [h t (List.mem_of_find?_eq_some hfind)]

/-- A port without one of the packets it has taken. -/
def Port.ended (x : Port) (t : Taken) : Port := { x with taken := x.taken.erase t }

/-- A descriptor's packet ended well. -/
theorem State.endTaken_descriptor {t : Taken} {user : Word} {op dst n : Nat} (hwho : t.who = .descriptor user op dst n)
    (h : ∀ z ∈ (s.lport p).taken, z.ended = none) :
    s.endTaken p t 0 = (s.setLport p ((s.lport p).ended t)).linkDone p user op 0 := by
  unfold State.endTaken
  dsimp only
  rw [if_neg (by decide), hwho]
  have hport : (((s.setLport p ((s.lport p).ended t)).linkDone p user op 0).lport p) = (s.lport p).ended t :=
    s.lport_setLport p _
  refine State.flushEnded_none _ p _ (fun z hz => h z ?_) _
  have hleft : z ∈ ((s.lport p).ended t).taken := (congrArg Port.taken hport) ▸ hz
  exact List.mem_of_mem_erase hleft

end

/-- The packets that a port has taken, and its event queue, are those of another state of it, and the logs are. -/
def State.SameTaken (u s : State) (p : Nat) : Prop :=
  (u.lport p).taken = (s.lport p).taken ∧ (u.lport p).eq = (s.lport p).eq ∧ u.logs = s.logs

theorem State.consume_taken (s : State) (p : Nat) (v : Vc) (h : Header) : (s.consume p v h).SameTaken s p := by
  unfold State.SameTaken State.consume
  dsimp only
  rw [State.lport_setLport]
  cases v <;> exact ⟨rfl, rfl, rfl⟩

/-- A response ends its descriptor: LINK_DONE with status 0 waits in the port's event queue. -/
theorem State.endTaken_done {u s : State} {p : Nat} (hsame : u.SameTaken s p) {t : Taken} {user : Word} {op dst n : Nat}
    (hwho : t.who = .descriptor user op dst n) (h : ∀ z ∈ (s.lport p).taken, z.ended = none) :
    let q := s.eq (s.lport p).eq
    ((u.endTaken p t 0).lport p).taken = (s.lport p).taken.erase t
      ∧ (q.enable = true → q.pending.length < q.space →
        ∃ r : Rec, ((u.endTaken p t 0).eq (s.lport p).eq).pending = q.pending ++ [r] ∧ r.type = 0x22 ∧ r.status = 0
          ∧ leAt r.payload 0 8 = user.toNat)
      ∧ ∃ ports logs, u.endTaken p t 0 = { u with link := { u.link with ports := ports }, logs := logs } := by
  obtain ⟨htaken, heq, hlogs⟩ := hsame
  rw [u.endTaken_descriptor p hwho (by rw [htaken]; exact h)]
  have hport : (u.setLport p ((u.lport p).ended t)).lport p = (u.lport p).ended t := u.lport_setLport p _
  obtain ⟨⟨logs, hframe⟩, hrecord⟩ := (u.setLport p ((u.lport p).ended t)).linkDone_spec p user op 0
  have hqueue : (u.setLport p ((u.lport p).ended t)).eq (s.lport p).eq = s.eq (s.lport p).eq := by
    unfold State.eq
    show Assoc.get {} u.logs.eqs _ = _
    rw [hlogs]
  have hno : ((u.setLport p ((u.lport p).ended t)).lport p).eq = (s.lport p).eq := by
    rw [hport]
    exact heq
  rw [hno, hqueue] at hrecord
  refine ⟨?_, hrecord, ?_⟩
  · rw [hframe]
    exact (congrArg Port.taken hport).trans (congrArg (List.erase · t) htaken)
  · exact ⟨_, logs, hframe⟩

/-! Descriptors (R295, R296). -/

/-- A descriptor's packet sent: it joins its virtual channel, and is taken until its response comes. -/
theorem State.sendDesc_spec (s : State) (p : Nat) (h : Header) (v : Vc) (user : Word) (dst : Nat) (d : List Byte) :
    let x := s.lport p
    let y := (s.sendDesc p h v user dst d).lport p
    y.sqHead = x.sqHead + 1 ∧ (y.vcOf v).tx = (x.vcOf v).tx ++ ({ h with tag := x.nextTag } : Header).bytes ++ d
      ∧ y.taken = x.taken ++ [{ tag := x.nextTag, vc := v, who := .descriptor user h.op dst h.len }]
      ∧ (∀ r, r ≠ p → (s.sendDesc p h v user dst d).lport r = s.lport r)
      ∧ (s.sendDesc p h v user dst d).mem = s.mem := by
  unfold State.sendDesc State.sqTaken
  dsimp only
  rw [State.lport_setLport, State.lport_setLport]
  refine ⟨?_, ?_, ?_, fun r hr => ?_, rfl⟩
  · cases v <;> rfl
  · cases v <;> rfl
  · cases v <;> rfl
  · rw [State.lport_setLport_other _ _ hr, State.lport_setLport_other _ _ hr]

/-- What a port's registers hold is no gate of an access to memory. -/
theorem State.setLport_gates (s : State) (p : Nat) (x : Port) (a n : Nat) :
    (s.setLport p x).spanCause a n = s.spanCause a n ∧ (s.setLport p x).dieWaits a = s.dieWaits a
      ∧ (s.setLport p x).accessWaits a n false = s.accessWaits a n false
      ∧ (s.setLport p x).store = s.store := ⟨rfl, rfl, rfl, rfl⟩

/-- A good response with no error ends the packet it answers. -/
theorem State.landGet_lands {s : State} {p : Fin 8} {h : Header} {t : Taken} {dst : Nat} {d : List Byte}
    (hempty : s.store.requests = []) (hcause : s.spanCause dst d.length = none) (hdie : s.dieWaits dst = false)
    (hwaits : s.accessWaits dst d.length true = false) (hlow : dst + d.length ≤ windowBase) :
    ∃ u : State, s.landGet p h t dst d = some ((u.consume p.val .rsp h).endTaken p.val t 0) ∧ u.OnlyWritten s
      ∧ ∀ y, u.byte y = lastWrite (bytesAt dst d) y (s.byte y) := by
  obtain ⟨u, hwrite, hframe, hbyte⟩ := s.memWrite_span (s.spanCause_target hcause) hlow
  refine ⟨u, ?_, hframe, hbyte⟩
  unfold State.landGet
  rw [hcause, hdie, hwaits, s.portTurn_alone p dst d.length hempty]
  dsimp only
  rw [if_neg (by decide), hwrite]
  rfl

/-- The address of the next descriptor of a send ring. -/
def Port.descAddr (x : Port) : Nat := x.sqBase + x.sqHead.toNat % x.sqDepth * 64

/-- A descriptor read from the send ring. -/
theorem State.takeDesc_reads {s : State} {p : Fin 8} {b : List Byte} (hdesc : (s.lport p.val).desc = none)
    (hempty : s.store.requests = []) (hcause : s.spanCause (s.lport p.val).descAddr 64 = none)
    (hdie : s.dieWaits (s.lport p.val).descAddr = false)
    (hwaits : s.accessWaits (s.lport p.val).descAddr 64 false = false)
    (hread : s.memRead (s.lport p.val).descAddr 64 = (s, .ok b)) :
    s.takeDesc p = (s.setLport p.val { s.lport p.val with desc := some b }).doDesc p b := by
  unfold State.takeDesc
  dsimp only
  rw [← Port.descAddr, hdesc, hcause, hdie, hwaits, s.portTurn_alone p _ 64 hempty]
  dsimp only
  rw [hread]
  rfl

section
variable {s : State} {p : Fin 8} {b : List Byte} (hok : descOk (headerOf b) b = true)
include hok

/-- A FLAG has no local data. -/
theorem State.doDesc_flag (hop : (headerOf b).op = 5) : s.doDesc p b = some (s.sendDesc p.val (headerOf b)
    (vcNamed (leAt b 48 1)) (BitVec.ofNat 64 (leAt b 40 8)) 0 []) := by
  unfold State.doDesc
  dsimp only
  rw [hok, if_neg (by decide), if_pos hop]

section
variable (hcause : s.spanCause (leAt b 32 8) (64 * (headerOf b).len) = none) (halign : leAt b 32 8 % 64 = 0)
include hcause halign

/-- A GET goes out without data, once its local address is good. -/
theorem State.doDesc_get (hop : (headerOf b).op = 2) : s.doDesc p b = some (s.sendDesc p.val (headerOf b)
    (vcNamed (leAt b 48 1)) (BitVec.ofNat 64 (leAt b 40 8)) (leAt b 32 8) []) := by
  unfold State.doDesc
  dsimp only
  rw [hok, if_neg (by decide), if_neg (by rw [hop]; decide), hcause, if_neg (not_not.2 halign), if_pos hop]
  rfl

/-- The other requests go out with the data at their local address. -/
theorem State.doDesc_data {bs : List Byte} (hop : (headerOf b).op ∈ [1, 3, 4])
    (hdie : s.dieWaits (leAt b 32 8) = false)
    (hwaits : s.accessWaits (leAt b 32 8) (64 * (headerOf b).len) false = false) (hempty : s.store.requests = [])
    (hread : s.memRead (leAt b 32 8) (64 * (headerOf b).len) = (s, .ok bs)) :
    s.doDesc p b = some (s.sendDesc p.val (headerOf b) (vcNamed (leAt b 48 1))
        (BitVec.ofNat 64 (leAt b 40 8)) 0 bs) := by
  have hfive : (headerOf b).op ≠ 5 := fun h => absurd (h ▸ hop) (by decide)
  have htwo : (headerOf b).op ≠ 2 := fun h => absurd (h ▸ hop) (by decide)
  unfold State.doDesc
  dsimp only
  rw [hok, if_neg (by decide), if_neg hfive, hcause, if_neg (not_not.2 halign)]
  dsimp only [Option.or]
  rw [if_neg htwo, hdie, hwaits, s.portTurn_alone p _ _ hempty]
  dsimp only
  rw [hread]
  rfl

end

end

theorem responsesAndDescriptors : Claims.ResponsesAndDescriptors := by
  intro s p h d t user op dst n hruns x done
  refine ⟨fun hwho htaken hsent hempty => ⟨fun hfront hok hlen hstatus => ?_,
    fun hfront hok hop hlen hstatus hdata hcause hdie hwaits hlow => ?_⟩,
    fun z bs hbad => ⟨fun hfront => ?_, fun hfront => ?_⟩,
    fun b hready hqueue hdesc hempty => ?_⟩
  · have hsame := s.consume_taken p.val .rsp h
    have hby : ((s.consume p.val .rsp h).lport p.val).takenBy h.tag = some t := by
      unfold Port.takenBy
      rw [hsame.1]
      exact htaken
    have hrun : exec (.completion p) s = .next ((s.consume p.val .rsp h).endTaken p.val t 0) := by
      show execCompletion p s = _
      unfold execCompletion
      refine State.onPacket_next hruns hfront ?_
      dsimp only
      rw [hok, hlen, hby, hstatus]
      rfl
    obtain ⟨hended, hrecord, ports, logs, hframe⟩ := State.endTaken_done hsame hwho hsent
    exact ⟨_, hrun, ⟨hended, hrecord⟩, by rw [hframe]; rfl, by rw [hframe]; rfl⟩
  · obtain ⟨u, hland, honly, hbyte⟩ := State.landGet_lands (p := p) (h := h) (t := t) hempty hcause hdie hwaits hlow
    have hports : u.SameTaken s p.val := by
      rw [honly]
      exact ⟨rfl, rfl, rfl⟩
    obtain ⟨htaken', heq', hlogs'⟩ := u.consume_taken p.val .rsp h
    have hsame : (u.consume p.val .rsp h).SameTaken s p.val :=
      ⟨htaken'.trans hports.1, heq'.trans hports.2.1, hlogs'.trans hports.2.2⟩
    subst hop
    have hrun : exec (.getRsp p) s = .next ((u.consume p.val .rsp h).endTaken p.val t 0) := by
      show execGetRsp p s = _
      unfold execGetRsp
      refine State.onPacket_next hruns hfront ?_
      have hlenOk : t.lenOk h = true := by
        unfold Taken.lenOk
        rw [hwho]
        show (h.len == if h.status = 0 then n else 0) = true
        rw [if_pos hstatus, hlen]
        exact beq_self_eq_true n
      rw [if_pos hok, show (s.lport p.val).takenBy h.tag = some t from htaken]
      dsimp only
      rw [hlenOk, hwho]
      dsimp only
      rw [if_pos hstatus, hland]
      rfl
    obtain ⟨hended, hrecord, ports, logs, hframe⟩ := State.endTaken_done hsame hwho hsent
    refine ⟨_, hrun, ⟨hended, hrecord⟩, fun a => ?_, ?_⟩
    · rw [← hbyte, hframe]
      rfl
    · rw [hframe]
      show u.cores = s.cores
      rw [honly]
  · obtain ⟨htaken, -, hlogs⟩ := s.consume_taken p.val .rsp z
    have hrun : exec (.completion p) s = .next (s.consume p.val .rsp z) := by
      show execCompletion p s = _
      unfold execCompletion
      refine State.onPacket_next hruns hfront ?_
      dsimp only
      rw [hbad]
      rfl
    exact ⟨_, hrun, htaken, rfl, hlogs⟩
  · obtain ⟨htaken, -, hlogs⟩ := s.consume_taken p.val .rsp z
    have hrun : exec (.getRsp p) s = .next (s.consume p.val .rsp z) := by
      show execGetRsp p s = _
      unfold execGetRsp
      refine State.onPacket_next hruns hfront ?_
      rw [hbad]
      rfl
    exact ⟨_, hrun, htaken, rfl, hlogs⟩
  · intro a hcause hdie hwaits hread hok v g near read sends
    have htake : s.takeDesc p = read.doDesc p b := State.takeDesc_reads hdesc hempty hcause hdie hwaits hread
    have hsends : ∀ bs to_, read.doDesc p b = some (read.sendDesc p.val g v (BitVec.ofNat 64 (leAt b 40 8)) to_ bs) →
        sends bs to_ := by
      intro bs to_ hdo
      have hrun : exec (.linkDescriptor p) s
          = .next (read.sendDesc p.val g v (BitVec.ofNat 64 (leAt b 40 8)) to_ bs) := by
        refine (congrArg s.happens (if_pos ?_)).trans (congrArg s.happens (htake.trans hdo))
        rw [show (s.lport p.val).state = .ready from hready, hruns,
          bne_iff_ne.2 (show (s.lport p.val).sqHead ≠ (s.lport p.val).sqTail from hqueue)]
        rfl
      obtain ⟨hhead, htx, htaken, hother, hmem⟩ :=
        read.sendDesc_spec p.val g v (BitVec.ofNat 64 (leAt b 40 8)) to_ bs
      have hport : read.lport p.val = { x with desc := some b } := s.lport_setLport p.val _
      have hvc : ∀ w, Port.vcOf { x with desc := some b } w = x.vcOf w := fun w => match w with
        | .req => rfl
        | .red => rfl
        | .rsp => rfl
      rw [hport] at hhead htx htaken
      rw [hvc] at htx
      exact ⟨_, hrun, hhead, htx, htaken, fun r hr => (hother r hr).trans (State.lport_setLport_other s _ hr), hmem⟩
    obtain ⟨hgateCause, hgateDie, hgateWaits, hgateStore⟩ :=
      s.setLport_gates p.val { x with desc := some b } near (64 * g.len)
    refine ⟨fun hop => hsends _ _ (State.doDesc_flag hok hop), fun hnear halign => ⟨fun hop => hsends _ _ ?_,
      fun bs hop hdie' hwaits' hread' => hsends _ _ ?_⟩⟩
    · exact State.doDesc_get hok (hgateCause.trans hnear) halign hop
    · refine State.doDesc_data hok (hgateCause.trans hnear) halign hop (hgateDie.trans hdie')
        (hgateWaits.trans hwaits') ?_ hread'
      rw [hgateStore]
      exact hempty

/-- Settles O30: each packet through the answer it leaves on RSP and the span it writes, each response through the
packet it ends. -/
theorem packetsOfALink : Obligations.PacketsOfALink := ⟨requestPackets, reducePackets, responsesAndDescriptors⟩

end Sys2Proof.Machine
end

section
/-! PROOF. STORE_CFG, the passes of persistent streams, and stalls (R198, R199, R210, R222, R226, R227). -/

namespace Sys2Proof.Machine

open Sys2Proof

/-! STORE_CFG (R198, R199, R457). -/

/-- The fields of a write to STORE_CFG. -/
theorem storeCfg_bits (v : Word) : bits v 40 24 = v.toNat / 2 ^ 40 ∧ bits v 24 16 = v.toNat / 2 ^ 24 % 2 ^ 16
    ∧ bits v 8 16 = v.toNat / 2 ^ 8 % 2 ^ 16 ∧ bits v 0 6 = v.toNat % 2 ^ 6 := by
  have hv := v.isLt
  unfold bits
  omega

/-- POOLREF of a die shows a change of the pool refused. -/
def Store.poolRefused (st : Store) (d : Nat) : Store :=
  { st with sc := Assoc.set st.sc d ((Assoc.get {} st.sc d).event 0) }

/-- The windows of a die and the pool as a write sets them. -/
def Store.configured (st : Store) (d : Nat) (v : Word) : Store :=
  let windows : StoreCfg := { stallwin := bits v 40 24, maxwait := bits v 24 16, xwait := bits v 8 16 }
  { st with pool := bits v 0 6, cfg := Assoc.put {} st.cfg d windows }

section
variable (s : State) (o : Origin) (d : Nat) (v : Word)

/-- Fields within their ranges: the windows and the pool are taken, or the change of the pool is refused as a whole. -/
theorem State.putStoreCfg_legal (hlegal : ¬((bits v 40 24) < 1000 ∨ (bits v 24 16) < 100 ∨ (bits v 8 16) < 1
      ∨ 32 < bits v 0 6)) :
    s.putStoreCfg o d v = if bits v 0 6 ≠ s.store.pool ∧ (!s.busyCtxs.isEmpty) = true then
        ({ s with store := s.store.poolRefused d } : State).refuseWrite o (storeCfgAddr d) v
      else { s with store := s.store.configured d v } :=
  if_neg hlegal

theorem State.putStoreCfg_illegal (hillegal : (bits v 40 24) < 1000 ∨ (bits v 24 16) < 100 ∨ (bits v 8 16) < 1
      ∨ 32 < bits v 0 6) : s.putStoreCfg o d v = s.refuseWrite o (storeCfgAddr d) v := if_pos hillegal

end

theorem storeConfigWrite : Claims.StoreConfigWrite := by
  intro s o d v hopen stall wait xw pool
  obtain ⟨hstall, hwait, hxw, hpool⟩ := storeCfg_bits v
  have hrun : exec (.storeCfg o d v) s = .next ((s.putStoreCfg o d.val v).respond .done) :=
    congrArg Host.Outcome.next (State.onWrite_open s _ _ _ hopen)
  refine ⟨fun h1 h2 h3 h4 hfree => ?_, fun h1 h2 h3 h4 hchange hbusy => ?_, fun hillegal => ?_⟩
  · have hkept : ¬(bits v 0 6 ≠ s.store.pool ∧ (!s.busyCtxs.isEmpty) = true) := fun ⟨hne, hbusy⟩ => by
      rcases hfree with hsame | hnone
      · exact hne (hpool.trans hsame)
      · rw [hnone] at hbusy
        exact absurd hbusy (by decide)
    rw [State.putStoreCfg_legal s o d.val v (by omega), if_neg hkept] at hrun
    refine ⟨_, hrun, rfl, hpool, ?_, fun e he => Assoc.get_put_other _ _ _ he, rfl, rfl, rfl⟩
    refine (Assoc.get_put_same _ _ _ _).trans ?_
    rw [hstall, hwait, hxw]
  · have hrefused : bits v 0 6 ≠ s.store.pool ∧ (!s.busyCtxs.isEmpty) = true := by
      refine ⟨fun h => hchange (hpool.symm.trans h), ?_⟩
      rw [List.isEmpty_eq_false_iff.2 hbusy]
      rfl
    rw [State.putStoreCfg_legal s o d.val v (by omega), if_pos hrefused] at hrun
    refine ⟨_, hrun, rfl, rfl, ?_, fun e he => Assoc.get_set_other _ _ _ he, rfl, State.refuseWrite_record _ o _ v⟩
    refine (congrArg (fun x : Sc => x.has 0) (Assoc.get_set_same _ _ _ _)).trans (Sc.has_event _ 0)
  · rw [State.putStoreCfg_illegal s o d.val v (by omega)] at hrun
    exact ⟨_, hrun, rfl, rfl, rfl⟩

/-! Passes of persistent streams (R142, R210, R222). -/

/-- An event of a stream whose home die runs. -/
theorem State.onCtx_open {s : State} {n : Nat} (hn : n < 16384) (hgap : s.inGap (16 + homeDie n) = false)
    (f : Ctx → Option State) : s.onCtx n f = s.happens (f (s.ctx n)) := by
  unfold State.onCtx
  rw [decide_eq_true hn, if_pos rfl, hgap]
  rfl

/-- The base of the pass that begins. -/
theorem Ctx.baseNext_eq (c : Ctx) : c.baseNext = if c.nextBase.isSome then c.nextBase else c.passBase := by
  unfold Ctx.baseNext
  cases c.nextBase <;> rfl

/-- The context of a pass that begins for a task. -/
def Ctx.begun (c : Ctx) (q t entry : Nat) : Ctx :=
  Ctx.rewound { c with
    passBase := c.baseNext, nextBase := none, passBy := c.rearmBy, rearmBy := none, owner := some (q, t)
    ownerEntry := entry } .armed

section
variable {s : State} {n q t : Nat}

theorem State.beginPass_eq : s.beginPass n q t =
    if (s.ctx n).kind = 3 then s.setCtx n ((s.ctx n).begun q t (s.graphEntry q))
    else match (s.setCtx n ((s.ctx n).begun q t (s.graphEntry q))).checkCtx
        ((s.ctx n).begun q t (s.graphEntry q)) with
      | (s, none) => s
      | (s', some (cause, a, kind)) =>
        (s'.failTask q t (16 + homeDie n) cause a kind).failRearm (s.ctx n).rearmBy cause := by
  unfold State.beginPass
  dsimp only
  rw [State.ctx_setCtx]
  rfl

end

/-- PASS_START of a stream whose checks need not wait. -/
theorem exec_passStart {s : State} {ctx : Nat} (hctx : ctx < 16384) (hgap : s.inGap (16 + homeDie ctx) = false)
    (hheld : s.passHeld (s.ctx ctx) = false) {o : Nat × Nat} (hnext : s.nextOwner ctx = some o) :
    exec (.passStart ctx) s = s.happens (if s.passFree (s.ctx ctx) then some (s.beginPass ctx o.1 o.2)
      else if s.aheadFree ctx then some (s.beginAhead ctx o.1 o.2) else none) := by
  show execPassStart ctx s = _
  rw [execPassStart, State.onCtx_open hctx hgap, hheld, hnext]
  rfl

theorem passStartAndArming : Claims.PassStartAndArming := by
  intro s
  refine ⟨fun ctx q t hctx hgap hheld hfree hnext => ?_,
    fun ctx q t hctx hgap hheld hbusy hahead hnext hnone => ?_,
    fun q t x s1 hq hx hkind hready harmed hheld hslots hkept => ?_⟩
  · intro c base c1 s1
    have hbase : c.baseNext = base := c.baseNext_eq
    have hrun := exec_passStart hctx hgap hheld hnext
    rw [if_pos hfree, State.beginPass_eq] at hrun
    have hbegun : (s.ctx ctx).begun q t (s.graphEntry q) = c1 := by
      unfold Ctx.begun
      rw [show (s.ctx ctx).baseNext = base from hbase]
    dsimp only at hrun
    rw [hbegun] at hrun
    refine ⟨fun hgood => ⟨hrun.trans ?_, rfl, rfl, rfl, rfl, rfl, rfl, rfl⟩, fun s2 cause a kind hkind hbad => ?_⟩
    · rcases Classical.em ((s.ctx ctx).kind = 3) with hrelay | hchecked
      · rw [if_pos hrelay]
        rfl
      · have hcheck : (s.setCtx ctx c1).checkCtx c1 = (s1, none) := hgood.resolve_left hchecked
        rw [if_neg hchecked, hcheck]
        rfl
    · have hcheck : (s.setCtx ctx c1).checkCtx c1 = (s2, some (cause, a, kind)) := hbad
      rw [if_neg hkind, hcheck] at hrun
      exact hrun
  · intro c base a s1 hcheck
    have hbase : c.baseNext = base := c.baseNext_eq
    have hrun := exec_passStart hctx hgap hheld hnext
    rw [if_neg (Bool.eq_false_iff.1 hbusy), if_pos hahead] at hrun
    refine hrun.trans (congrArg Host.Outcome.next ?_)
    have hsame : s.loseAhead ctx = s := if_pos (Option.isNone_iff_eq_none.2 hnone)
    unfold State.beginAhead
    dsimp only
    rw [hsame, show (s.ctx ctx).baseNext = base from hbase]
    have hcheck' : s1.checkCtx { c with passBase := base } = (s1, none) := hcheck
    exact hcheck' ▸ rfl
  · have hrun : exec (.armingRetry q t) s = .next (s.armTask q t) := by
      refine (if_pos (decide_eq_true hq)).trans ?_
      rw [hx, Option.bind_some, hkind, hready, harmed, hheld]
      rfl
    have harm : s.armTask q t = s1.setTask q t { x with armed := true } := by
      unfold State.armTask
      rw [hx]
      dsimp only
      rw [hslots]
    rw [harm] at hrun
    exact ⟨_, hrun, State.task_setTask _ hkept, rfl⟩

/-! Stalls (R226, R227, R457). -/

/-- What one store die's count of stalls, and the bits it shows, become. -/
def Store.stallShown (st : Store) (d : Nat) : Counter × Sc := (Assoc.get {} st.stalls d, Assoc.get {} st.sc d)

/-- A stall counted: the counter ticks, bit 1 shows it, and bit 2 where the counter was full. -/
def stallCounted (old new : Counter × Sc) : Prop :=
  new.1 = old.1.tick ∧ new.2.has 1 = true ∧ (old.1.loses 1 = true → new.2.has 2 = true)

theorem Store.countStall_spec (st : Store) (d : Nat) :
    (∃ stalls sc, st.countStall d = { st with stalls := stalls, sc := sc })
      ∧ stallCounted (st.stallShown d) ((st.countStall d).stallShown d)
      ∧ ∀ e, e ≠ d → (st.countStall d).stallShown e = st.stallShown e := by
  refine ⟨⟨_, _, rfl⟩, ?_, fun e he =>
    Prod.ext (Assoc.get_set_other _ _ _ he) (Assoc.get_set_other _ _ _ he)⟩
  have hcount : Assoc.get {} (st.countStall d).stalls d = (Assoc.get {} st.stalls d).tick := Assoc.get_set_same _ _ _ _
  have hsc : Assoc.get {} (st.countStall d).sc d = (if (Assoc.get {} st.stalls d).loses 1
      then ((Assoc.get {} st.sc d).event 1).event 2 else (Assoc.get {} st.sc d).event 1) := Assoc.get_set_same _ _ _ _
  refine ⟨hcount, ?_, fun hfull => ?_⟩
  · show (Assoc.get {} (st.countStall d).sc d).has 1 = true
    rw [hsc]
    split
    · exact Sc.has_event_of _ 2 (Sc.has_event _ 1)
    · exact Sc.has_event _ 1
  · show (Assoc.get {} (st.countStall d).sc d).has 2 = true
    rw [hsc, if_pos (show (Assoc.get {} st.stalls d).loses 1 = true from hfull)]
    exact Sc.has_event _ 2

theorem nodup_eraseDups (l : List Nat) : l.eraseDups.Nodup := by
  match l with
  | [] => exact List.nodup_nil
  | a :: l =>
    rw [List.eraseDups_cons, List.nodup_cons]
    refine ⟨fun h => ?_, nodup_eraseDups _⟩
    have hmem := (List.mem_filter.1 (List.mem_eraseDups.1 h)).2
    simp at hmem
termination_by l.length
decreasing_by exact Nat.lt_succ_of_le (List.length_filter_le _ _)

/-- Stalls counted by some dies, each once. -/
theorem foldl_countStall {l : List Nat} (hl : l.Nodup) (st : Store) :
    (∃ stalls sc, l.foldl Store.countStall st = { st with stalls := stalls, sc := sc })
      ∧ (∀ d ∈ l, stallCounted (st.stallShown d) ((l.foldl Store.countStall st).stallShown d))
      ∧ ∀ e, e ∉ l → (l.foldl Store.countStall st).stallShown e = st.stallShown e := by
  refine foldl_eachOnce (I := fun u : Store => ∃ stalls sc, u = { st with stalls := stalls, sc := sc })
    (R := fun _ => stallCounted) (g := Store.stallShown) (fun u d hu => ?_) hl ⟨_, _, rfl⟩
  obtain ⟨stalls, sc, rfl⟩ := hu
  obtain ⟨⟨stalls', sc', hframe⟩, hcounted, hothers⟩ :=
    Store.countStall_spec { st with stalls := stalls, sc := sc } d
  exact ⟨⟨stalls', sc', hframe⟩, hcounted, hothers⟩

/-- The stores of a module in which a task is reported stalled. -/
def State.withStalled (s : State) (st : Store) (q t : Nat) : State :=
  { s with store := { st with stalled := st.stalled ++ [(q, t)] } }

/-- STREAM_STALL is written for the task's region. -/
theorem State.stall_eq (s : State) (q t : Nat) (ns : List Nat) : ∃ R : Rec, R.type = 6 ∧ R.queue = q ∧ R.task = t
    ∧ s.stall q t ns = (s.withStalled (((ns.map homeDie).eraseDups).foldl Store.countStall s.store) q t).toRegion
      (s.regionOf q) R := ⟨_, rfl, rfl, rfl, rfl⟩

/-- A record of a region goes to the region's event queue and to the module log. -/
theorem State.toRegion_spec (s : State) (n : Nat) (r : Rec) :
    let e := (s.region n).eq
    Assoc.get { type := 0 } (s.toRegion n r).logs.mlog (s.logs.mcount.n.toNat % 4096) = { r with region := n }
      ∧ (s.toRegion n r).eq e = (if (s.eq e).enable then (s.eq e).take { r with region := n }
          else { s.eq e with lost := (s.eq e).lost.tick })
      ∧ (s.toRegion n r).logs.mcount = s.logs.mcount.tick :=
  ⟨State.mlog_record _ _, State.eq_setEq _ _ _, rfl⟩

theorem streamStallReported : Claims.StreamStallReported := by
  intro s q t hq hset hnew hpast
  have hrun : exec (.streamStall q t) s = .next (s.stall q t (s.stallSet q t)) := by
    refine (if_pos (decide_eq_true hq)).trans (congrArg s.happens (if_pos ?_))
    rw [Bool.and_eq_true, Bool.and_eq_true, List.isEmpty_eq_false_iff.2 hset,
      Bool.eq_false_iff.2 fun h => hnew (List.contains_iff_mem.1 h)]
    refine ⟨⟨rfl, List.all_eq_true.2 fun n hn => ?_⟩, rfl⟩
    obtain ⟨w, hw, hafter⟩ := hpast n hn
    rw [hw]
    exact decide_eq_true hafter
  obtain ⟨⟨stalls, sc, hframe⟩, hcounted, hothers⟩ :=
    foldl_countStall (nodup_eraseDups ((s.stallSet q t).map homeDie)) s.store
  have hhome : ∀ d, d ∈ ((s.stallSet q t).map homeDie).eraseDups ↔ ∃ n ∈ s.stallSet q t, homeDie n = d := fun d => by
    rw [List.mem_eraseDups, List.mem_map]
  obtain ⟨R, htype, hqueue, htask, hstall⟩ := s.stall_eq q t (s.stallSet q t)
  rw [hstall] at hrun
  generalize ((s.stallSet q t).map homeDie).eraseDups.foldl Store.countStall s.store = st at *
  have hcount : ∀ d, (∃ n ∈ s.stallSet q t, homeDie n = d) → stallCounted (s.store.stallShown d) (st.stallShown d) :=
    fun d hd => hcounted d ((hhome d).2 hd)
  have hkept : ∀ d, ¬(∃ n ∈ s.stallSet q t, homeDie n = d) → st.stallShown d = s.store.stallShown d :=
    fun d hd => hothers d fun h => hd ((hhome d).1 h)
  obtain ⟨hrecord, heq, hlogs⟩ := (s.withStalled st q t).toRegion_spec (s.regionOf q) R
  have hstalled : (s.withStalled st q t).store.stalled = s.store.stalled ++ [(q, t)] := by
    rw [hframe]
    rfl
  have hctxs : (s.withStalled st q t).store.ctxs = s.store.ctxs := by
    rw [hframe]
    rfl
  refine ⟨_, hrun, hstalled, fun d => ?_, fun d => ?_, fun n hn => ?_, ?_, hlogs, ?_, hctxs, rfl⟩
  · show (st.stallShown d).1 = _
    split
    · next h => exact (hcount d h).1
    · next h => exact congrArg Prod.fst (hkept d h)
  · show (st.stallShown d).2.has 1 = _
    rcases Classical.em (∃ n ∈ s.stallSet q t, homeDie n = d) with h | h
    · rw [(hcount d h).2.1, decide_eq_true h]
      rfl
    · rw [hkept d h, decide_eq_false h]
      rfl
  · exact fun hfull => (hcount _ ⟨n, hn, rfl⟩).2.2 hfull
  · intro e r
    rw [show r = { R with region := s.regionOf q } from hrecord]
    exact heq
  · exact ⟨(congrArg Rec.type hrecord).trans htype, (congrArg Rec.queue hrecord).trans hqueue,
      (congrArg Rec.task hrecord).trans htask⟩

/-- Settles O21: STORE_CFG by its ranges, passes by their one step, and a stall by the dies that count it once each. -/
theorem streamSetup : Obligations.StreamSetup := ⟨storeConfigWrite, passStartAndArming, streamStallReported⟩

end Sys2Proof.Machine
end

section
/-! PROOF. Requests of streams, their grants, borrowing and the posts of hasps (R206 to R216). -/

namespace Sys2Proof.Machine

open Sys2Proof

/-! What a read below the core windows leaves as it was. -/

/-- Between two states there are errors corrected and marked, records, and journal records alone: cores, streams and
requests stand. -/
@[reducible] def State.OnlyMarked (t s : State) : Prop :=
  t = { s with free := t.free, ext := t.ext, logs := t.logs, ge := { s.ge with journal := t.ge.journal }, store :=
    { t.store with ctxs := s.store.ctxs, requests := s.store.requests } }

section
variable (s : State)

theorem State.OnlyMarked.trans {s t u : State} (htu : u.OnlyMarked t) (hst : t.OnlyMarked s) : u.OnlyMarked s := by
  unfold State.OnlyMarked at *
  rw [htu, hst]

theorem State.repair_marked (status die what : Nat) : (s.repair status die what).OnlyMarked s := by
  unfold State.repair
  rw [State.toEq0Log_frame]

theorem State.retire_marked (c : Nat) : (s.retire c).OnlyMarked s := by
  unfold State.retire
  dsimp only
  split
  · rfl
  · exact (State.repair_marked _ _ _ _).trans rfl

theorem State.weakRow_marked (a : Nat) : (s.weakRow a).OnlyMarked s := by
  unfold State.weakRow
  dsimp only
  split_ifs
  · rfl
  · exact s.retire_marked _
  · rfl

theorem State.poisonBurst_marked (b : Nat) : (s.poisonBurst b).OnlyMarked s := by
  unfold State.poisonBurst
  dsimp only
  refine (State.weakRow_marked _ _).trans ?_
  split_ifs
  · rfl
  · rfl
  · exact (State.retire_marked _ _).trans rfl

theorem State.correctBurst_marked (b : Nat) : (s.correctBurst b).OnlyMarked s := by
  unfold State.correctBurst
  extract_lets a c x fresh n s₁ e s₂ m p recent twice s₃ s₄
  have h₃ : s₃.OnlyMarked s := rfl
  have h₄ : s₄.OnlyMarked s := by
    unfold s₄
    split
    · exact (s₃.weakRow_marked a).trans h₃
    · exact h₃
  split
  · exact (s₄.retire_marked c).trans h₄
  · exact h₄

theorem State.readBurst_marked (b : Nat) : (s.readBurst b).1.OnlyMarked s := by
  unfold State.readBurst
  split_ifs
  · rfl
  · exact s.poisonBurst_marked b
  · exact s.correctBurst_marked b
  · rfl

theorem State.readBursts_marked (bs : List Nat) : (s.readBursts bs).1.OnlyMarked s := by
  induction bs generalizing s with
  | nil => rfl
  | cons b bs ih =>
    have hburst := s.readBurst_marked b
    unfold State.readBursts
    generalize s.readBurst b = r at *
    obtain ⟨t, _ | _⟩ := r
    · exact (ih t).trans hburst
    · exact hburst

theorem State.spareBank_marked (bank : Nat) : (s.spareBank bank).OnlyMarked s := by
  unfold State.spareBank
  dsimp only
  split_ifs
  · rfl
  · exact (State.repair_marked _ _ _ _).trans rfl
  · rfl
  · rfl

theorem State.poisonLine_marked (l : Nat) : (s.poisonLine l).OnlyMarked s :=
  (State.spareBank_marked _ _).trans rfl

theorem State.correctLine_marked (l : Nat) : (s.correctLine l).OnlyMarked s := by
  unfold State.correctLine
  extract_lets bank old fresh now st t
  have ht : t.OnlyMarked s := rfl
  split
  · exact (State.spareBank_marked _ _).trans (State.OnlyMarked.trans rfl ht)
  · exact ht

theorem State.readLines_marked (ls : List Nat) : (s.readLines ls).1.OnlyMarked s := by
  induction ls generalizing s with
  | nil => rfl
  | cons l ls ih =>
    unfold State.readLines
    split_ifs
    · rfl
    · exact s.poisonLine_marked l
    · exact (ih _).trans (s.correctLine_marked l)
    · exact ih s

theorem State.veil_marked (a : Nat) (bs : List Byte) : (s.veil a bs).1.OnlyMarked s := by
  unfold State.veil
  dsimp only
  split <;> rfl

/-- A read below the core windows. -/
theorem State.memRead_marked {a : Nat} (h : a < windowBase) (n : Nat) : (s.memRead a n).1.OnlyMarked s := by
  have hbursts := s.readBursts_marked (unitsOf 64 a n)
  have hlines := s.readLines_marked (unitsOf 64 a n)
  unfold State.memRead
  rcases s.target_low h with ht | ht | ht <;> rw [ht]
  · dsimp only
    generalize s.readBursts (unitsOf 64 a n) = r at *
    obtain ⟨t, _ | x⟩ := r <;> exact hbursts
  · dsimp only
    generalize s.readLines (unitsOf 64 a n) = r at *
    obtain ⟨t, _ | x⟩ := r
    · exact (t.veil_marked a _).trans hlines
    · exact hlines

theorem foldl_marked {f : State → Nat → State} {l : List Nat} (hf : ∀ u ∈ l, ∀ s, (f s u).OnlyMarked s) :
    (l.foldl f s).OnlyMarked s := by
  induction l generalizing s with
  | nil => rfl
  | cons u l ih =>
    exact (ih (f s u) fun u hu => hf u (List.mem_cons_of_mem _ hu)).trans (hf u List.mem_cons_self s)

/-- The journal of granules below the core windows. -/
theorem State.record_marked (q t : Nat) {g : Nat} (h : 256 * g < windowBase) : (s.record q t g).OnlyMarked s := by
  have hbase : windowBase % 256 = 0 := by decide
  have hread : (((List.range 4).map (4 * g + ·)).foldl (fun (s : State) u =>
      (s.memRead (64 * u) 64).1) s).OnlyMarked s :=
    foldl_marked s fun u hu s => s.memRead_marked (by
      obtain ⟨i, hi, rfl⟩ := List.mem_map.1 hu
      have hi := List.mem_range.1 hi
      omega) 64
  unfold State.record
  dsimp only
  generalize ((List.range 4).map (4 * g + ·)).foldl (fun (s : State) u => (s.memRead (64 * u) 64).1) s = u at *
  exact State.OnlyMarked.trans rfl hread

variable {s} in
theorem State.journal_marked {s2 : State} {q t : Nat} {gs : List Nat} (hgs : ∀ g ∈ gs, 256 * g < windowBase)
    (h : s.journal q t gs = .ok s2) : s2.OnlyMarked s := by
  induction gs generalizing s with
  | nil =>
    cases h
    rfl
  | cons g gs ih =>
    have hrest : ∀ g ∈ gs, 256 * g < windowBase := fun g hg => hgs g (List.mem_cons_of_mem _ hg)
    unfold State.journal at h
    dsimp only at h
    split_ifs at h
    · exact ih hrest h
    · exact (ih hrest h).trans (s.record_marked q t (hgs g List.mem_cons_self))

end

/-! The next request of a queue (R215). -/

/-- Deadlines within half the strike range are ordered as their distances from one base. -/
theorem atOrAfter_of_window {a b base : Word} (ha : (a - base).toNat < 2 ^ 62) (hb : (b - base).toNat < 2 ^ 62) :
    atOrAfter a b = true ↔ (b - base).toNat ≤ (a - base).toNat := by
  have hA := a.isLt
  have hB := b.isLt
  have hC := base.isLt
  unfold atOrAfter
  rw [decide_eq_true_eq]
  simp only [BitVec.toNat_sub] at *
  omega

theorem earlier_of_window {a b : Word × Word × Nat × Nat} {base : Word} (ha : (a.1 - base).toNat < 2 ^ 62)
    (hb : (b.1 - base).toNat < 2 ^ 62) :
    (earlier a b = true → (a.1 - base).toNat ≤ (b.1 - base).toNat)
      ∧ (earlier a b = false → (b.1 - base).toNat ≤ (a.1 - base).toNat) := by
  have hafter := atOrAfter_of_window ha hb
  rcases Classical.em (a.1 = b.1) with hsame | hne
  · rw [hsame]
    exact ⟨fun _ => le_rfl, fun _ => le_rfl⟩
  · unfold earlier
    rw [if_pos hne]
    cases h : atOrAfter a.1 b.1 with
    | true => exact ⟨fun h => absurd h (by decide), fun _ => hafter.1 h⟩
    | false =>
      exact ⟨fun _ => le_of_not_ge fun hle => absurd (hafter.2 hle) (by rw [h]; decide), fun h => absurd h (by decide)⟩

theorem bestRequest_none {l : List Request} (h : bestRequest l = none) : l = [] := by
  cases l with
  | nil => rfl
  | cons y l =>
    unfold bestRequest at h
    split at h
    · cases h
    · split at h <;> cases h

/-- The request granted is one of the queue, and its deadline is not after any other's. -/
theorem bestRequest_spec {l : List Request} {r : Request} (h : bestRequest l = some r) :
    r ∈ l ∧ ∀ base : Word, (∀ x ∈ l, (x.d - base).toNat < 2 ^ 62) → ∀ x ∈ l, (r.d - base).toNat ≤
        (x.d - base).toNat := by
  induction l generalizing r with
  | nil => cases h
  | cons y l ih =>
    unfold bestRequest at h
    cases hrest : bestRequest l with
    | none =>
      rw [hrest] at h
      obtain rfl := Option.some.inj h
      rw [bestRequest_none hrest]
      refine ⟨List.mem_singleton_self _, fun base _ x hx => ?_⟩
      rw [List.mem_singleton.1 hx]
    | some b =>
      obtain ⟨hmem, hfirst⟩ := ih hrest
      rw [hrest] at h
      dsimp only at h
      split at h
      · next hearly =>
        obtain rfl := Option.some.inj h
        refine ⟨List.mem_cons_of_mem _ hmem, fun base hwin x hx => ?_⟩
        have hrest := fun x hx => hwin x (List.mem_cons_of_mem _ hx)
        rcases List.mem_cons.1 hx with rfl | hx
        · exact (earlier_of_window (a := b.key) (b := x.key) (hrest b hmem) (hwin x List.mem_cons_self)).1 hearly
        · exact hfirst base hrest x hx
      · next hlate =>
        obtain rfl := Option.some.inj h
        refine ⟨List.mem_cons_self, fun base hwin x hx => ?_⟩
        have hrest := fun x hx => hwin x (List.mem_cons_of_mem _ hx)
        rcases List.mem_cons.1 hx with rfl | hx
        · exact le_rfl
        · exact le_trans ((earlier_of_window (a := b.key) (b := y.key) (hrest b hmem) (hwin y List.mem_cons_self)).2
            (Bool.eq_false_iff.2 hlate)) (hfirst base hrest x hx)

/-! Borrowing and posts (R206 to R211). -/

/-- Streams as they were, but for the counts of their hasps. -/
def State.OnlyHasps (t s : State) : Prop :=
  (∀ n, ∃ hasp src, t.ctx n = { s.ctx n with hasp := hasp, srcHasp := src })
    ∧ t = { s with store := { s.store with ctxs := t.store.ctxs } }

theorem State.setSrcHasp_onlyHasps (s : State) (n : Nat) (f : Hasp → Hasp) : (s.setSrcHasp n f).OnlyHasps s := by
  have hset : ∀ k hasp src, (s.setCtx k { s.ctx k with hasp := hasp, srcHasp := src }).OnlyHasps s :=
      fun k hasp src => by
    refine ⟨fun m => ?_, rfl⟩
    rcases Classical.em (m = k) with rfl | hm
    · exact ⟨hasp, src, s.ctx_setCtx m _⟩
    · exact ⟨_, _, State.ctx_setCtx_other s _ hm⟩
  unfold State.setSrcHasp
  dsimp only
  split
  · split
    · exact hset _ _ _
    · exact hset _ _ _
  · exact hset _ _ _

/-- With every member due the FILL, each count of a ring's fills takes it. -/
theorem Ctx.countFill_all (c : Ctx) {to_ : Nat → Bool} (h : ∀ k, to_ k = true) :
    c.countFill to_ = c.hasp.map (fun z => { z with fill := z.fill + 1 }) := by
  unfold Ctx.countFill
  refine List.ext_getElem (by simp) fun i h1 h2 => ?_
  have hi : i < c.hasp.length := by simpa using h1
  have hall : (c.members[i]?).all to_ = true := by
    cases c.members[i]? with
    | none => rfl
    | some k => exact h k
  simp only [List.getElem_map, List.getElem_range, List.getD_eq_getElem?_getD, List.getElem?_eq_getElem hi,
    Option.getD_some]
  exact if_pos hall

theorem borrowAndPosts : Claims.BorrowAndPosts := by
  intro s
  refine ⟨fun d b hgap hbest hfree => ?_, fun ctx hctx hgap => ?_⟩
  · have hrun : exec (.borrowGrant d) s = s.happens (s.borrowGrant d.val) := by
      show execBorrowGrant d s = _
      rw [execBorrowGrant, hgap]
      rfl
    rw [State.borrowGrant, hbest, Option.bind_some, if_pos hfree, State.happens_some] at hrun
    refine ⟨_, hrun, ?_, rfl, fun n hn => State.ctx_setCtx_other s _ hn, rfl⟩
    exact congrArg Ctx.borrowed (s.ctx_setCtx b.ctx _)
  · intro c
    refine ⟨fun hdue hnone => ?_, fun hdue => ?_⟩
    · have hrun : exec (.slotFillPost ctx) s = .next (s.setCtx ctx { c with
          fillsPosted := c.fillsPosted + 1, hasp := c.countFill (fun k => !(c.early.contains k)), early := [] }) := by
        show execSlotFillPost ctx s = _
        rw [execSlotFillPost, State.onCtx_open hctx hgap, if_pos hdue]
        rfl
      rw [c.countFill_all fun k => by rw [hnone]; rfl] at hrun
      refine ⟨_, hrun, rfl, ?_⟩
      rw [State.ctx_setCtx]
      exact ⟨rfl, rfl, fun n hn => State.ctx_setCtx_other s _ hn⟩
    · have hrun : exec (.slotFreePost ctx) s = .next ((s.setCtx ctx { c with
          freesPosted := c.freesPosted + 1 }).setSrcHasp ctx (fun h => { h with free := h.free + 1 })) := by
        show execSlotFreePost ctx s = _
        rw [execSlotFreePost, State.onCtx_open hctx hgap, if_pos hdue]
        rfl
      obtain ⟨hctxs, hframe⟩ := (s.setCtx ctx { c with freesPosted := c.freesPosted + 1 }).setSrcHasp_onlyHasps ctx
        (fun h => { h with free := h.free + 1 })
      obtain ⟨hasp, src, hport⟩ := hctxs ctx
      refine ⟨_, hrun, ?_, ?_, ?_⟩
      · rw [hport, State.ctx_setCtx]
      · rw [hframe]
        rfl
      · rw [hframe]
        rfl

/-! A request entered (R202, R211, R214 to R216). -/

section
variable (s : State) (n off len : Nat)

/-- The queue of a piece that waits in one place. -/
def Target.pieceQueue : Target → DieQueue
  | .ext => .memory
  | .window k _ => .compute (Fin.ofNat 12 (dieOfCore k))
  | _ => .engine

/-- A piece that goes to no multicast ring, and is no SCATTER_ACC's, waits in one place. -/
theorem State.pieceSpots_one {dir : PieceDir} (h : dir = .fetch ∨ ((s.ctx n).snkEnd ≠ 2 ∧ (s.ctx n).moveOp ≠ 4)) :
    let a := s.pieceAddr (s.ctx n) dir off
    s.pieceSpots n dir off len = [(s.pieceDie n a, (s.target a).pieceQueue, a)] := by
  intro a
  have hupdates : ∀ l : List (Nat × Nat), (if (dir == .deliver && (s.ctx n).moveOp == 4) = true then l else []) = [] :=
    fun l => if_neg fun hop => by
      obtain ⟨hdir, hop⟩ := Bool.and_eq_true_iff.1 hop
      rcases h with rfl | ⟨-, hne⟩
      · cases hdir
      · exact hne (eq_of_beq hop)
  have hqueue : (match s.target a with
      | .ext => [(s.pieceDie n a, DieQueue.memory, a)]
      | .window k _ => [(s.pieceDie n a, .compute (Fin.ofNat 12 (dieOfCore k)), a)]
      | _ => [(s.pieceDie n a, .engine, a)]) = [(s.pieceDie n a, (s.target a).pieceQueue, a)] := by
    cases s.target a <;> rfl
  unfold State.pieceSpots
  dsimp only
  split
  · next hring =>
    rcases h with h | ⟨hne, -⟩
    · cases h
    · exact absurd hring hne
  · rw [hupdates]
    exact hqueue

/-- A piece into a multicast ring waits at one die in the queue of each compute die with a member. -/
theorem State.pieceSpots_ring (h : (s.ctx n).snkEnd = 2) :
    (∀ x ∈ s.pieceSpots n .deliver off len, x.1 = s.pieceDie n (s.pieceAddr (s.ctx n) .deliver off))
      ∧ ∀ k : Fin 12, (∃ x ∈ s.pieceSpots n .deliver off len, x.2.1 = .compute k)
        ↔ ∃ m ∈ (s.ctx n).members, dieOfCore m % 12 = k.val := by
  unfold State.pieceSpots
  dsimp only
  rw [h]
  refine ⟨fun x hx => ?_, fun k => ⟨fun ⟨x, hx, hk⟩ => ?_, fun ⟨m, hm, hk⟩ => ?_⟩⟩
  · obtain ⟨d, -, rfl⟩ := List.mem_map.1 hx
    rfl
  · obtain ⟨d, hd, rfl⟩ := List.mem_map.1 hx
    obtain ⟨m, hm, rfl⟩ := List.mem_map.1 (List.mem_eraseDups.1 hd)
    exact ⟨m, hm, congrArg Fin.val (DieQueue.compute.inj hk)⟩
  · exact ⟨_, List.mem_map.2 ⟨dieOfCore m, List.mem_eraseDups.2 (List.mem_map.2 ⟨m, hm, rfl⟩), rfl⟩,
      congrArg DieQueue.compute (Fin.ext hk)⟩

theorem State.pieceDie_eq (a : Nat) : s.pieceDie n a = if s.target a = .store then a / 4096 % 8 else n % 8 := by
  unfold State.pieceDie
  cases h : s.target a <;> simp [storeDie, homeDie]

end

theorem streamRequestEntered : Claims.StreamRequestEntered := by
  intro s ctx off len hctx hgap hpass c asks
  have hin : c.inPass = true := by
    unfold Ctx.inPass
    rcases hpass with h | h <;> rw [h]
    · rfl
    · exact Bool.or_true _
  have hask : ∀ dir, s.pieceAsked ctx dir = false → s.request ctx dir = some (s.askPiece ctx dir off len)
      → asks dir := by
    intro dir hnew hrequest _ a die ask spots
    have hrun : exec (.streamRequest ctx dir) s = .next (s.askPiece ctx dir off len) := by
      show execStreamRequest ctx dir s = _
      rw [execStreamRequest, State.onCtx_open hctx hgap, hrequest]
      rfl
    have hdie : s.pieceDie ctx a = die := s.pieceDie_eq ctx a
    refine ⟨hrun, fun hone => ?_, fun hdir hring => ?_⟩
    · rw [← hdie]
      refine (s.pieceSpots_one ctx off len hone).trans ?_
      refine congrArg (fun q => [(s.pieceDie ctx a, q, a)]) ?_
      show (s.target a).pieceQueue = _
      cases s.target a <;> rfl
    · subst hdir
      rw [← hdie]
      exact s.pieceSpots_ring ctx off len hring
  refine ⟨fun hpiece hroom hnew => hask .fetch hnew ?_ hnew, fun hpiece hnew => hask .deliver hnew ?_ hnew⟩
  · unfold State.request
    dsimp only
    rw [hnew, hin, hpiece]
    exact if_pos hroom
  · unfold State.request
    dsimp only
    rw [hnew, hin, hpiece]
    rfl

/-! A piece granted (R206, R207, R211, R215, R403). -/

section
variable (s : State) (n : Nat)

/-- A context that has moved bytes is blocked no more. -/
theorem State.moved_spec : (∃ b, (s.moved n).ctx n = { s.ctx n with blocked := b })
    ∧ (∀ m, m ≠ n → (s.moved n).ctx m = s.ctx m) ∧ (s.moved n).store.requests = s.store.requests
    ∧ (s.moved n).mem = s.mem ∧ (s.moved n).cores = s.cores :=
  ⟨⟨none, s.ctx_setCtx n _⟩, fun _ hm => State.ctx_setCtx_other s _ hm, rfl, rfl, rfl⟩

/-- The slot that a piece opens takes its FILL, and the streams keep their bytes. -/
theorem State.openSource_onlyHasps (off : Nat) : (s.openSource n off).OnlyHasps s := by
  unfold State.openSource
  split
  · exact s.setSrcHasp_onlyHasps n _
  · exact ⟨fun _ => ⟨_, _, rfl⟩, rfl⟩

/-- Bytes staged for the pass that fetches. -/
theorem State.stage_current (bs : List Byte) (h : (s.ctx n).ahead = none) : s.stage n bs
    = s.setCtx n { s.ctx n with staged := (s.ctx n).staged ++ bs, pos := (s.ctx n).pos + bs.length } := by
  unfold State.stage
  dsimp only
  rw [h]

/-- Lines of the central store without an error mark are read as they are. -/
theorem State.readLines_unmarked_ok (hpoison : s.store.poison = []) (hbad : s.store.bad = [])
    (hweak : s.store.weak = [])
    (ls : List Nat) : s.readLines ls = (s, none) := by
  induction ls with
  | nil => rfl
  | cons l ls ih =>
    unfold State.readLines
    rw [hpoison, hbad, hweak]
    exact ih

/-- A read of the central store without an error, outside every recovery area. -/
theorem State.memRead_store {a len : Nat} (htarget : s.target a = .store) (hpoison : s.store.poison = [])
    (hbad : s.store.bad = []) (hweak : s.store.weak = []) (harea : ∀ i, i < len → s.inArea (a + i) = false) :
    s.memRead a len = (s, .ok (s.bytes a len)) := by
  have hlength : (s.bytes a len).length = len := length_readFrom _ _ _
  have hopen : (List.range (s.bytes a len).length).any (fun i => s.inArea (a + i)) = false := by
    rw [hlength, List.any_eq_false]
    exact fun i hi => by rw [harea i (List.mem_range.1 hi)]; decide
  have hveil : s.veil a (s.bytes a len) = (s, s.bytes a len) := if_neg (Bool.eq_false_iff.1 hopen)
  unfold State.memRead
  rw [htarget]
  dsimp only
  rw [s.readLines_unmarked_ok hpoison hbad hweak]
  dsimp only
  rw [hveil]

end

section
variable {s : State} {n off len : Nat}

/-- A piece out of a ring in the central store goes into staging. -/
theorem State.fetch_store (hsrc : (s.ctx n).srcEnd = 1)
    (hwaits : s.accessWaits (ringPlace (s.ctx n).src (s.ctx n).srcSlot (s.ctx n).srcSlots off) len false = false)
    {bs : List Byte}
    (hread : s.memRead (ringPlace (s.ctx n).src (s.ctx n).srcSlot (s.ctx n).srcSlots off) len = (s, .ok bs)) :
    s.fetch n off len = .done ((s.openSource n off).stage n bs) := by
  unfold State.fetch
  dsimp only
  rw [hsrc]
  rw [hwaits, hread]
  rfl

/-- A granted piece that moves. -/
theorem State.serve_fetch {r : Request} {u : State} (hkind : r.kind = .piece n .fetch off len)
    (hpiece : s.fetchPiece (s.ctx n) = some (off, len)) (hroom : (s.ctx n).stagedLen + len ≤ (s.ctx n).capacity)
    (hdone : s.fetch n off len = .done u) : s.serve r = some ((u.dropRequest r).moved n) := by
  unfold State.serve
  rw [hkind]
  dsimp only
  rw [if_pos hroom, hpiece, hdone]
  exact if_pos (by simp)

end

/-- The first bytes of staging, where it holds them. -/
theorem Ctx.outgoing_staged {c : Ctx} (hsrc : c.srcEnd ≠ 3) {len : Nat} (h : len ≤ c.staged.length) :
    c.outgoing len = c.staged.take len := by
  unfold Ctx.outgoing padTo slice
  rw [if_neg hsrc]
  simp [h]

/-- Bytes written below the core windows into a store ring leave the streams and the requests. -/
theorem State.storeWrite_streams {s : State} {a : Nat} {bs : List Byte} (h : ∀ i, i < bs.length → a + i < windowBase) :
    (s.storeWrite a bs).store.ctxs = s.store.ctxs ∧ (s.storeWrite a bs).store.requests = s.store.requests
      ∧ ∀ y, (s.storeWrite a bs).byte y = lastWrite (bytesAt a bs) y (s.byte y) := by
  cases bs with
  | nil => exact ⟨rfl, rfl, fun _ => rfl⟩
  | cons b bs =>
    obtain ⟨hframe, hbyte⟩ := s.storeWrite_low (a := a) (bs := b :: bs) (by
      have hlast := h bs.length (by rw [List.length_cons]; omega)
      rw [List.length_cons]
      omega)
    exact ⟨by rw [hframe], by rw [hframe], hbyte⟩

/-- A write in place below the core windows. -/
theorem State.writeInPlace_low {s s2 : State} {q t : Nat} {ws : List (Nat × Byte)} (hlow : ∀ w ∈ ws, w.1 < windowBase)
    (hfault : s.writeFault q t ws = none) (hjournal : s.journal q t (granulesOf ws) = .ok s2) :
    s.writeInPlace q t ws = .ok (s2.writeAll ws) ∧ (s2.writeAll ws).store.ctxs = s.store.ctxs
      ∧ (s2.writeAll ws).store.requests = s.store.requests
      ∧ ∀ y, (s2.writeAll ws).byte y = lastWrite ws y (s.byte y) := by
  obtain ⟨hwritten, hbyte⟩ := s2.writeAll_low hlow
  have hgranules : ∀ g ∈ granulesOf ws, 256 * g < windowBase := fun g hg => by
    obtain ⟨w, hw, rfl⟩ := List.mem_map.mp (List.mem_eraseDups.mp hg)
    have hw := hlow w (List.mem_filter.1 hw).1
    omega
  have hmarked := State.journal_marked hgranules hjournal
  have hmem := State.journal_mem hjournal
  refine ⟨by rw [State.writeInPlace, hfault]; dsimp only; rw [hjournal], ?_, ?_, fun y => ?_⟩
  · rw [hwritten]
    show s2.store.ctxs = _
    rw [hmarked]
  · rw [hwritten]
    show s2.store.requests = _
    rw [hmarked]
  · have hsame : s2.byte y = s.byte y := by
      unfold State.byte State.core
      rw [hmem, hmarked]
    rw [hbyte, hsame]

section
variable {s : State} {n off len : Nat} {sites : List Nat}

/-- The context of a stream whose piece has left staging. -/
theorem Ctx.reach_last {c : Ctx} (hsrc : c.srcEnd ≠ 3) :
    (c.reach off len sites true).staged = c.staged.drop len
      ∧ (c.reach off len sites true).delivered = c.delivered + len := by
  have hopen : ∀ c : Ctx, (c.openSink off).srcEnd = c.srcEnd ∧ (c.openSink off).staged = c.staged
      ∧ (c.openSink off).delivered = c.delivered := fun c => by
    unfold Ctx.openSink
    split <;> exact ⟨rfl, rfl, rfl⟩
  have hunstage : ∀ c : Ctx, c.srcEnd ≠ 3 → (c.unstage len).staged = c.staged.drop len
      ∧ (c.unstage len).delivered = c.delivered + len := fun c h => by
    unfold Ctx.unstage
    rw [if_neg h]
    exact ⟨rfl, rfl⟩
  unfold Ctx.reach
  extract_lets z
  have hz : z.srcEnd = c.srcEnd ∧ z.staged = c.staged ∧ z.delivered = c.delivered := by
    unfold z
    split
    · exact hopen c
    · exact ⟨rfl, rfl, rfl⟩
  obtain ⟨hend, hstaged, hdelivered⟩ := hz
  obtain ⟨hleft, hcount⟩ := hunstage z (by rw [hend]; exact hsrc)
  rw [hstaged] at hleft
  rw [hdelivered] at hcount
  exact ⟨hleft, hcount⟩

/-- A piece out of staging into a ring of the central store. -/
theorem State.ringPiece_store (hsnk : (s.ctx n).snkEnd = 1) {bs : List Byte}
    (hout : (s.ctx n).outgoing len = bs)
    (hlow : ∀ i, i < bs.length → ringPlace (s.ctx n).snk (s.ctx n).snkSlot (s.ctx n).snkSlots off + i < windowBase)
    (hwaits : s.accessWaits (ringPlace (s.ctx n).snk (s.ctx n).snkSlot (s.ctx n).snkSlots off) bs.length true = false)
    (howner : s.ownerTask (s.ctx n) = none ∨ ∃ q t x s2, s.ownerTask (s.ctx n) = some (q, t, x)
      ∧ s.writeFault q t (bytesAt (ringPlace (s.ctx n).snk (s.ctx n).snkSlot (s.ctx n).snkSlots off) bs) = none
      ∧ s.journal q t (granulesOf (bytesAt (ringPlace (s.ctx n).snk (s.ctx n).snkSlot (s.ctx n).snkSlots off) bs))
        = .ok s2) :
    ∃ u : State, s.ringPiece n off len sites true = .done (u.setCtx n ((u.ctx n).reach off len sites true))
      ∧ u.store.ctxs = s.store.ctxs ∧ u.store.requests = s.store.requests
      ∧ ∀ y, u.byte y = lastWrite (bytesAt (ringPlace (s.ctx n).snk (s.ctx n).snkSlot (s.ctx n).snkSlots off) bs) y
        (s.byte y) := by
  unfold State.ringPiece
  dsimp only
  rw [hout, if_pos hsnk, hwaits, if_neg Bool.false_ne_true]
  rcases howner with hnone | ⟨q, t, x, s2, hsome, hfault, hjournal⟩
  · obtain ⟨hctxs, hrequests, hbyte⟩ := State.storeWrite_streams (s := s) hlow
    rw [hnone]
    exact ⟨_, rfl, hctxs, hrequests, hbyte⟩
  · obtain ⟨hplace, hctxs, hrequests, hbyte⟩ := State.writeInPlace_low (s := s)
      (fun w hw => by
        obtain ⟨hfrom, hto⟩ := mem_bytesAt hw
        have hi := hlow (w.1 - ringPlace (s.ctx n).snk (s.ctx n).snkSlot (s.ctx n).snkSlots off) (by omega)
        omega) hfault hjournal
    rw [hsome]
    dsimp only
    rw [hplace]
    exact ⟨_, rfl, hctxs, hrequests, hbyte⟩

end

/-- A granted piece that leaves staging, the last of its stream's requests for it. -/
theorem State.serve_deliver {s u : State} {r : Request} {n off len : Nat} (hkind : r.kind = .piece n .deliver off len)
    (hput : (s.ctx n).kind ≠ 2) (hpiece : (s.ctx n).deliverPiece = some (off, len))
    (hlast : (s.dropRequest r).pieceAsked n .deliver = false)
    (hdone : s.ringPiece n off len ((s.ctx n).sitesOf r.queue) true = .done u) :
    s.serve r = some ((u.dropRequest r).moved n) := by
  unfold State.serve
  rw [hkind]
  dsimp only
  rw [hpiece, hlast, if_neg hput, Bool.not_false, hdone]
  exact if_pos (by simp)

theorem grantMovesPiece : Claims.GrantMovesPiece := by
  intro s d queue r ctx off len hbest hpoison hbad hweak hgap c
  obtain ⟨hmem, hfirst⟩ := bestRequest_spec hbest
  obtain ⟨hrequest, hplace⟩ := List.mem_filter.1 hmem
  have hgrant : exec (.requestGrant d queue) s = s.happens (s.serve r) := by
    show execRequestGrant d queue s = _
    rw [execRequestGrant, hgap, hbest]
    rfl
  have hplace : r.die = d.val ∧ r.queue = queue := by simpa using hplace
  refine ⟨⟨hrequest, hplace⟩, fun base hwin x hx hdie hqueue => ?_,
    fun hkind hsrc hpiece hahead hroom => ?_, fun hkind hrelay hsrc hsnk hpiece hlen => ?_⟩
  · refine hfirst base (fun y hy => hwin y (List.mem_filter.1 hy).1) x (List.mem_filter.2 ⟨hx, ?_⟩)
    rw [hdie, hqueue, beq_self_eq_true, beq_self_eq_true]
    rfl
  · intro a htarget hwaits harea
    have hread := s.memRead_store htarget hpoison hbad hweak harea
    have hlength : (s.bytes a len).length = len := length_readFrom _ _ _
    obtain ⟨hctxs, hframe⟩ := s.openSource_onlyHasps ctx off
    have hdone := State.fetch_store hsrc hwaits hread
    generalize s.openSource ctx off = u at *
    obtain ⟨hasp, src, hown⟩ := hctxs ctx
    rw [u.stage_current ctx (s.bytes a len) (by rw [hown]; exact hahead)] at hdone
    generalize hy : ({ u.ctx ctx with
      staged := (u.ctx ctx).staged ++ s.bytes a len
      pos := (u.ctx ctx).pos + (s.bytes a len).length } : Ctx) = y at hdone
    rw [State.serve_fetch hkind hpiece hroom hdone] at hgrant
    obtain ⟨⟨b, hmoved⟩, hothers, hqueue, hmem, -⟩ := ((u.setCtx ctx y).dropRequest r).moved_spec ctx
    have hset : ((u.setCtx ctx y).dropRequest r).ctx ctx = y := u.ctx_setCtx ctx y
    rw [hset] at hmoved
    refine ⟨_, hgrant, ?_, ?_, ?_, ?_, fun m hm => ?_⟩
    · rw [hmoved, ← hy, hown]
    · rw [hmoved, ← hy, hown, hlength]
    · rw [hqueue, hframe]
      rfl
    · rw [hmem, hframe]
      rfl
    · have hkept : ((u.setCtx ctx y).dropRequest r).ctx m = u.ctx m := State.ctx_setCtx_other u y hm
      obtain ⟨hasp', src', hother⟩ := hctxs m
      rw [hothers m hm, hkept, hother]
      exact ⟨rfl, rfl⟩
  · intro a ws hlow hwaits hlast howner
    have hout := Ctx.outgoing_staged hsrc hlen
    have hlength : (c.staged.take len).length = len := List.length_take_of_le hlen
    obtain ⟨u, hring, hctxs, hrequests, hbyte⟩ := State.ringPiece_store (s := s) (sites := c.sitesOf r.queue)
      (bs := c.staged.take len) hsnk hout (by rw [hlength]; exact hlow) (by rw [hlength]; exact hwaits) howner
    have hctx : ∀ m, u.ctx m = s.ctx m := fun m => by
      unfold State.ctx
      rw [hctxs]
    have hserve := State.serve_deliver (s := s) (r := r) hkind (by rw [show (s.ctx ctx).kind = 3 from hrelay]; decide)
      hpiece hlast hring
    rw [hserve] at hgrant
    rw [hctx] at hgrant
    obtain ⟨hleft, hcount⟩ := Ctx.reach_last (off := off) (len := len) (sites := c.sitesOf r.queue) hsrc
    generalize (s.ctx ctx).reach off len (c.sitesOf r.queue) true = y at *
    obtain ⟨⟨b, hmoved⟩, -, hqueue, hmem, hcores⟩ := ((u.setCtx ctx y).dropRequest r).moved_spec ctx
    have hy : ((u.setCtx ctx y).dropRequest r).ctx ctx = y := u.ctx_setCtx ctx y
    rw [hy] at hmoved
    refine ⟨_, hgrant, ?_, ?_, ?_, fun m => ?_⟩
    · rw [hmoved]
      exact hleft
    · rw [hmoved]
      exact hcount
    · rw [hqueue, ← hrequests]
      rfl
    · rw [← hbyte]
      unfold State.byte State.core
      rw [hmem, hcores]
      rfl

/-- Settles O22: by the places a piece waits in, the order of a queue's grants, and the bytes a granted piece moves. -/
theorem streamPieces : Obligations.StreamPieces := ⟨streamRequestEntered, grantMovesPiece, borrowAndPosts⟩

end Sys2Proof.Machine
end

section
/-! PROOF. Wards, and fabric accesses to the windows of cores (R112, R115, R144, R248, R415). -/

namespace Sys2Proof.Machine

open Sys2Proof

/-! Wards (R112, R144, R248). -/

theorem loopBack_wait (n : Nat) (st : Stream) : (loopBack n st).wait = st.wait := by
  induction n generalizing st with
  | zero => rfl
  | succ n ih =>
    unfold loopBack
    split
    · rfl
    · split
      · dsimp only
        split
        · exact ih _
        · rfl
      · rfl

/-- A core released from a ward goes on under its launch slot. -/
theorem Core.releaseWard_spec (k : Core) (slot : Word) :
    (k.releaseWard slot).acc.wait = .none ∧ (k.releaseWard slot).exe.wait = .none
      ∧ (k.releaseWard slot).arrived = false ∧ (k.releaseWard slot).slot = some slot :=
  ⟨loopBack_wait _ _, loopBack_wait _ _, rfl, rfl⟩

/-- A task with one more core that has arrived at its ward. -/
def Task.arrivedOne (x : Task) (i : Nat) (t : Word) : Task := { x with arrived := x.arrived ++ [i], arrivedAt := t }

theorem wardArrivalAndRelease : Claims.WardArrivalAndRelease := by
  intro s
  refine ⟨fun c w g x hsite htask hx hacc hexe hquiet hnew => ?_,
    fun q t x hq hx hrunning hcores hall hnodup hreached => ?_⟩
  · have hward : (s.core c).atWard = some w := by
      unfold Core.atWard
      rw [hacc, hexe]
      exact if_pos rfl
    have hrun : exec (.wardArrive c) s = .next (((s.setTask g.q g.task (x.arrivedOne
        (g.gy * x.info.gangW + g.gx) s.strike)).setCore c { s.core c with arrived := true }).at_
          (max (s.core c).acc.visible (s.core c).exe.visible)) := by
      show execWardArrive c s = _
      unfold execWardArrive
      dsimp only
      rw [if_pos hsite, hward, hquiet, hnew, htask, Option.bind_some, hx]
      rfl
    refine ⟨_, _, hrun, State.task_setTask _ hx, rfl, rfl, State.core_setCore _ c _, fun e he => ?_, rfl⟩
    exact State.core_setCore_other _ _ he
  · have hrun : exec (.wardRelease q t) s = .next (s.releaseGang q t x) := by
      refine (if_pos (decide_eq_true hq)).trans ?_
      rw [hx, Option.bind_some, hrunning, decide_eq_true ⟨List.length_pos_of_ne_nil hcores, hall⟩,
        show atOrAfter s.strike (x.arrivedAt + 1) = true from decide_eq_true hreached]
      rfl
    have htask := State.task_setTask { x with arrived := [] } hx
    obtain ⟨⟨cores, hframe⟩, heach, hothers⟩ := foldl_setCore (f := fun u i => (u.core (x.cores.getD i 0)).releaseWard
        (slotStrike (x.arrivedAt + 1) (u.wardRamp (dieOfXY (x.origin.1 + i % x.info.gangW)
          (x.origin.2 + i / x.info.gangW)) x.cores.length) (x.origin.1 + i % x.info.gangW)
          (x.origin.2 + i / x.info.gangW)))
      (site := fun i => x.cores.getD i 0) (l := List.range x.cores.length) (by rw [map_getD_range]; exact hnodup)
      (s.setTask q t { x with arrived := [] })
    rw [map_getD_range] at hothers
    have hgang : s.releaseGang q t x = _ := hframe
    rw [hgang] at hrun
    rw [hframe] at heach hothers
    refine ⟨_, _, hrun, htask, rfl, fun i c hc => ?_, fun c hc => hothers c hc, rfl⟩
    have hi : i < x.cores.length := (List.getElem?_eq_some_iff.1 hc).1
    have hsite : x.cores.getD i 0 = c := by rw [List.getD_eq_getElem?_getD, hc]; rfl
    obtain ⟨u, ⟨others, hu⟩, -, hset⟩ := heach i (List.mem_range.2 hi)
    rw [hsite] at hset
    obtain ⟨hacc, hexe, harrived, hslot⟩ := (u.core c).releaseWard_spec (slotStrike (x.arrivedAt + 1)
      (u.wardRamp (dieOfXY (x.origin.1 + i % x.info.gangW) (x.origin.2 + i / x.info.gangW)) x.cores.length)
      (x.origin.1 + i % x.info.gangW) (x.origin.2 + i / x.info.gangW))
    have hramp : ∀ d n, u.wardRamp d n = s.wardRamp d n := fun d n => by
      rw [hu]
      rfl
    rw [← hset, hramp] at hslot
    rw [← hset] at hacc hexe harrived
    exact ⟨hacc, hexe, harrived, hslot⟩

/-! Core windows (R52, R115, R341, R415). -/

/-- The address of a byte of a core's window. -/
def windowAddr (c off : Nat) : Nat := windowBase + c * 0x80000 + off

section
variable {s : State} {c : Nat} (hsite : siteExists c = true)
include hsite

theorem siteExists_lt : c < 12288 := by
  unfold siteExists dieOfCore at hsite
  simp only [Bool.and_eq_true, decide_eq_true_eq] at hsite
  omega

/-- An address within a core's local memory is one of its window. -/
theorem State.target_window {off : Nat} (h : off < 0x60000) : s.target (windowAddr c off) = .window c off := by
  have hc := siteExists_lt hsite
  have hwindow : windowBase = 0x200000000000 := rfl
  have ha : windowAddr c off = 0x200000000000 + c * 0x80000 + off := rfl
  have hpool : s.poolStart ≤ 0x100200000000 := Nat.sub_le _ _
  have hext : extEnd = 0x05FA00000000 := rfl
  unfold State.target
  rw [if_neg (by rw [hext]; omega), if_neg (by omega), if_pos (by rw [hwindow]; omega)]
  dsimp only
  have hcore : (windowAddr c off - windowBase) / 0x80000 = c := by rw [hwindow]; omega
  have hoff : (windowAddr c off - windowBase) % 0x80000 = off := by rw [hwindow]; omega
  rw [hcore, hoff, hsite, decide_eq_true (by omega)]
  rfl

/-- Every byte of a core's window waits for the die of the core. -/
theorem State.dieWaits_window {a b off off' : Nat} (ha : a = windowAddr c off) (hb : b = windowAddr c off')
    (h : off < 0x60000) (h' : off' < 0x60000) : s.dieWaits b = s.dieWaits a := by
  have ht : s.target a = .window c off := ha ▸ s.target_window hsite h
  have ht' : s.target b = .window c off' := hb ▸ s.target_window hsite h'
  clear ha hb
  unfold State.dieWaits State.targetDie
  rw [ht, ht']
  rfl

/-- A span of a core's window waits for the die of the core, and for a roll-back of its bytes. -/
theorem State.accessWaits_window {a off n : Nat} (ha : a = windowAddr c off) (hn : 0 < n) (hend : off + n ≤ 0x60000)
    (write : Bool) (hdie : s.dieWaits a = false) (hundo : s.undoHeld a n = false) : s.accessWaits a n write = false :=
        by
  have hbase : a = 0x200000000000 + c * 0x80000 + off := ha
  have hext : extEnd = 0x05FA00000000 := rfl
  have hmoved : s.movedStarts a (a + n - 1) = [] := by
    unfold State.movedStarts
    cases s.ext.retired <|> s.ext.retiring.map (fun r => r.chan) with
    | none => rfl
    | some d =>
      refine List.filter_eq_nil_iff.2 fun b _ => ?_
      rw [decide_eq_true_eq]
      omega
  have hstarts : ∀ b ∈ spanStarts a (a + n - 1), s.dieWaits b = false := by
    intro b hb
    have hstep : ¬ a < extEnd := by omega
    unfold spanStarts at hb
    rw [if_neg hstep] at hb
    dsimp only at hb
    rcases List.mem_cons.1 hb with rfl | hb
    · exact hdie
    · obtain ⟨i, hi, hb⟩ := List.mem_map.1 hb
      have hi := List.mem_range.1 hi
      have hoff : b = windowAddr c (b - 0x200000000000 - c * 0x80000) := by
        show _ = 0x200000000000 + c * 0x80000 + (b - 0x200000000000 - c * 0x80000)
        omega
      rw [State.dieWaits_window hsite ha hoff (by omega) (by omega)]
      exact hdie
  unfold State.accessWaits
  rw [hmoved, List.append_nil, List.any_eq_false.2 fun b hb => Bool.eq_false_iff.1 (hstarts b hb), hundo,
    decide_eq_false (by omega : ¬ a < extEnd), Bool.and_false]
  rfl

end

/-- A core without error marks has no uncorrectable word. -/
theorem Core.uncorrectable_none {k : Core} (h : k.lmErr = []) (a n : Nat) : k.uncorrectable a n = false :=
  Core.uncorrectable_eq_false.2 fun w _ => by
    unfold Core.mark
    rw [h]
    exact fun hw => by cases hw

/-- A read of a core's window within local memory gives its bytes. -/
theorem Core.windowRead_lm {k : Core} (h : k.lmErr = []) {off n : Nat} (hend : off + n ≤ 0x60000) :
    k.windowRead off n = some (k.correct (wordsOf off n), k.lmBytes off n) := by
  have hm : min n (0x60000 - off) = n := by omega
  unfold Core.windowRead
  dsimp only
  rw [hm, Core.lmRead_sound (Core.uncorrectable_none h off n), Nat.sub_self]
  exact congrArg some (congrArg (Prod.mk _) (List.append_nil _))

/-- A read at an address of a core's window is one of the window. -/
theorem State.memRead_window {s : State} {c a off n : Nat} {k : Core} {bs : List Byte}
    (htarget : s.target a = .window c off) (hread : (s.core c).windowRead off n = some (k, bs)) :
    s.memRead a n = (s.setCore c k, .ok bs) := by
  unfold State.memRead
  rw [htarget]
  dsimp only
  rw [hread]

/-- A write at an address of a core's window is one of its local memory. -/
theorem State.memWrite_window {s : State} {c a off : Nat} {k : Core} {bs : List Byte}
    (htarget : s.target a = .window c off) (hwrite : (s.core c).lmWrite off bs = some k) :
    s.memWrite a bs = some (s.setCore c k) := by
  unfold State.memWrite
  rw [htarget]
  dsimp only
  rw [hwrite]
  rfl

/-- The record of an access refused. -/
theorem State.refuse_record (s : State) (o : Origin) (e a n : Nat) (write : Bool) :
    let r := Assoc.get { type := 0 } (s.refuse o e a n write).logs.mlog (s.logs.mcount.n.toNat % 4096)
    r.type = 0x32 ∧ r.status = e := by
  intro r
  have hr : r = _ := Assoc.get_set_same _ _ _ _
  rw [hr]
  exact ⟨rfl, rfl⟩

theorem coreWindowAccess : Claims.CoreWindowAccess := by
  intro s o use c off data a hsite hdata hend hdie hmarks logged
  have ha : a = windowAddr c off := rfl
  have hlen := List.length_pos_of_ne_nil hdata
  have hwindow : windowExists c off = true := decide_eq_true ⟨siteExists_lt hsite, by omega⟩
  have hread : ∀ o len, exec (.coreWindowRead o c off len) s = .next (if o == .operator then s.answer .refused
      else s.readAccess o .plain (windowAddr c off) len) := fun o len => if_pos hwindow
  have hwrite : ∀ o, exec (.coreWindowWrite o use c off data) s = .next (if o == .operator then s.answer .refused
      else s.writeAccess o (s.useOf c use) (windowAddr c off) data) := fun o => if_pos hwindow
  rw [← ha] at hread hwrite
  clear_value a
  refine ⟨fun len => hread .operator len, hwrite .operator, fun hparty => ?_⟩
  have hread := fun len => (hread o len).trans (congrArg Host.Outcome.next (if_neg (by simpa using hparty)))
  have hwrite := (hwrite o).trans (congrArg Host.Outcome.next (if_neg (by simpa using hparty)))
  have htarget : s.target a = .window c off := ha ▸ s.target_window hsite (by omega : off < 0x60000)
  refine ⟨fun len hfits hpos hundo hopen => ?_, fun len cause hcause => ?_, fun hundo hopen => ?_, fun cause hcause =>
      ?_⟩
  · have hrun := hread len
    have hwait := s.accessWaits_window hsite ha hpos hfits false hdie hundo
    have hmem : s.memRead a len = (s.setCore c ((s.core c).correct (wordsOf off len)),
        .ok ((s.core c).lmBytes off len)) := State.memRead_window htarget (Core.windowRead_lm hmarks hfits)
    unfold State.readAccess at hrun
    rw [hdie, if_neg Bool.false_ne_true, show s.accessCause o .plain a len false
        = none from hopen] at hrun
    dsimp only at hrun
    rw [hwait, if_neg Bool.false_ne_true, hmem] at hrun
    refine ⟨_, hrun, rfl, fun e n => ?_, rfl⟩
    rcases Classical.em (e = c) with rfl | he
    · exact (congrArg (fun k : Core => Assoc.get 0 k.lm n)
        (State.core_setCore s e ((s.core e).correct (wordsOf off len)))).trans rfl
    · exact congrArg (fun k : Core => Assoc.get 0 k.lm n) (State.core_setCore_other s _ he)
  · have hrun := hread len
    unfold State.readAccess at hrun
    rw [hdie, if_neg Bool.false_ne_true,
      show s.accessCause o .plain a len false = some cause from hcause] at hrun
    dsimp only at hrun
    obtain ⟨hentered, hothers, hcount, -, hframe⟩ := s.refuse_spec o cause a len false
    obtain ⟨htype, hstatus⟩ := s.refuse_record o cause a len false
    exact ⟨_, hrun, rfl, ⟨hentered, hothers, hcount, htype, hstatus⟩, by rw [hframe], by rw [hframe]⟩
  · have hrun := hwrite
    have hwait := s.accessWaits_window hsite ha hlen hend true hdie hundo
    obtain ⟨k, hk⟩ := Core.lmWrite_sound (Core.uncorrectable_none hmarks off data.length)
    have hmem : s.memWrite a data = some (s.setCore c k) := State.memWrite_window htarget hk
    unfold State.writeAccess at hrun
    rw [hdie, if_neg Bool.false_ne_true,
      show s.accessCause o (s.useOf c use) a data.length true = none from hopen] at hrun
    dsimp only at hrun
    rw [hwait, if_neg Bool.false_ne_true, hmem] at hrun
    refine ⟨_, hrun, rfl, ?_, fun e he => State.core_setCore_other s _ he, rfl⟩
    have hcore : ((s.setCore c k).respond .done).core c = k := State.core_setCore s c k
    rw [hcore]
    exact Core.lmWrite_writesLm hk
  · have hrun := hwrite
    unfold State.writeAccess at hrun
    rw [hdie, if_neg Bool.false_ne_true,
      show s.accessCause o (s.useOf c use) a data.length true = some cause from hcause] at hrun
    dsimp only at hrun
    obtain ⟨hentered, hothers, hcount, -, hframe⟩ := s.refuse_spec o cause a data.length true
    obtain ⟨htype, hstatus⟩ := s.refuse_record o cause a data.length true
    exact ⟨_, hrun, rfl, ⟨hentered, hothers, hcount, htype, hstatus⟩, by rw [hframe], by rw [hframe]⟩

/-- Settles O19: a gang's cores are released one after the other, and a window's span lies at its core's die. -/
theorem wardsAndCoreWindows : Obligations.WardsAndCoreWindows := ⟨wardArrivalAndRelease, coreWindowAccess⟩

end Sys2Proof.Machine
end

section
/-! PROOF. O18: queue deadlocks and launch slots, what the exception of a core leaves, a load over an uncorrectable
word,
and the end of a core's part of its task (R51, R99, R100, R104, R105, R112, R113, R134, R408). -/

namespace Sys2Proof.Machine

open Sys2Proof

/-! Queue deadlocks and launch slots. -/

theorem coreDeadlockAndSlot : Claims.CoreDeadlockAndSlot := by
  rintro s c ⟨hsite, hclock⟩
  have hcore : ∀ f : Core → CoreRes, s.onCore c f = s.coreRes c (f (s.core c)) := fun f => by
    simp [State.onCore, State.clocked, hsite, hclock]
  have hdead : exec (.coreQueueDeadlock c) s = s.coreRes c (match (s.core c).queueDeadlock with
      | some u => (s.core c).raise u excDeadlock
      | none =>
        match (s.core c).underrun with
        | some i => .exc excDeadlock .execute i (s.core c)
        | none => .noop) := hcore _
  refine ⟨fun u hu => ?_, fun i hnone hi => ?_, fun v hv hdue => ?_⟩
  · rw [hdead, hu]
    rfl
  · rw [hdead, hnone, hi]
    rfl
  · have hslot : exec (.launchSlotStrike c) s
        = .next ((s.setCore c { s.core c with slot := none }).at_ s.aclk) := by
      refine (hcore _).trans ?_
      dsimp only
      rw [hv]
      dsimp only
      rw [if_pos (by simpa [atOrAfter] using hdue)]
      rfl
    exact ⟨_, hslot, ⟨rfl, fun e he => State.core_setCore_other _ _ he⟩, State.core_setCore _ _ _⟩

/-! The one core of a task that is revoked. -/

/-- What a revocation leaves of a task. -/
def Task.revoked (x : Task) : Task :=
  { x with
    cores := [], done := [], arrived := [], captured := false, moved := false, held := [], origin := (0, 0)
    residue := 0, nflags := 0, countA := {}, countB := {}, overdue := false }

section
variable {s : State} {c q t : Nat} {x : Task}

/-- The one core of a task that is revoked stops, and what waits for it in the store dies is withdrawn. -/
def State.coreLeft (s : State) (q t c : Nat) : State :=
  (((s.setCore c (s.core c).stopped).withdrawCore c).rowIdle c).withdrawTask q t

theorem State.coreLeft_frame (s : State) (q t c : Nat) : ∃ requests hposts ungated, s.coreLeft q t c = { s with
    cores := Assoc.set s.cores c (s.core c).stopped
    store := { s.store with requests := requests, hposts := hposts }
    grid := { s.grid with ungated := ungated } } := by
  unfold State.coreLeft State.rowIdle
  split
  · exact ⟨_, _, _, rfl⟩
  · exact ⟨_, _, _, rfl⟩

theorem State.core_coreLeft (s : State) (q t c : Nat) : (s.coreLeft q t c).core c = (s.core c).stopped
    ∧ ∀ e, e ≠ c → (s.coreLeft q t c).core e = s.core e := by
  obtain ⟨requests, hposts, ungated, h⟩ := s.coreLeft_frame q t c
  rw [h]
  exact ⟨State.core_setCore s c _, fun e he => State.core_setCore_other s _ he⟩

theorem State.owned_nil (h : s.store.ctxs = []) : s.owned q t = [] := by
  rw [State.owned, State.busyCtxs, h]
  rfl

theorem Core.runs_of_siteTask (h : s.siteTask c = some (q, t)) : (s.core c).runs q t = true := by
  obtain ⟨g, hg, hqt⟩ := Option.map_eq_some_iff.1 h
  obtain ⟨hq, ht⟩ := Prod.mk.inj hqt
  rw [Core.runs, hg]
  simp [hq, ht]

/-- The revocation of a task with one core, no journal and no context. -/
theorem State.revoke_one (hx : s.task q t = some x) (hcores : x.cores = [c]) (hsite : s.siteTask c = some (q, t))
    (hjournal : s.ge.journal = []) (hctxs : s.store.ctxs = []) :
    s.revoke q t = (s.coreLeft q t c).setTask q t x.revoked := by
  have hstop : s.stopCore q t c = ((s.setCore c (s.core c).stopped).withdrawCore c).rowIdle c :=
    if_pos (Core.runs_of_siteTask hsite)
  have hleft : (s.stopCore q t c).withdrawTask q t = s.coreLeft q t c := by rw [hstop]; rfl
  have hframe := s.coreLeft_frame q t c
  unfold State.revoke
  rw [hx]
  dsimp only
  rw [hcores, List.foldl_cons, List.foldl_nil, hleft]
  generalize s.coreLeft q t c = u at *
  obtain ⟨requests, hposts, ungated, hu⟩ := hframe
  have hge : u.ge = s.ge := by rw [hu]
  have hrollback : u.rollback q t = u := by
    unfold State.rollback
    dsimp only
    rw [hge, hjournal, List.filter_nil, List.foldl_nil, hge, hjournal, List.filter_nil, ← hjournal, ← hge]
  have hctxs' : (u.setTask q t x.revoked).store.ctxs = [] := by
    rw [hu]
    exact hctxs
  rw [hrollback]
  exact congrArg (fun l => l.foldl State.restoreCtx (u.setTask q t x.revoked)) (State.owned_nil hctxs')

theorem State.task_coreLeft (n : Nat) : (s.coreLeft q t c).task q n = s.task q n := by
  obtain ⟨requests, hposts, ungated, h⟩ := s.coreLeft_frame q t c
  rw [h]
  rfl

/-- No journal of a task is lost where none stands. -/
theorem State.journalLost_nil (hjournal : s.ge.journal = []) : s.journalLost q t = false := by
  rw [State.journalLost, hjournal]
  rfl

/-- A task with one core that ends other than COMPLETE. -/
theorem State.stopTask_one (hx : s.task q t = some x) (hrunning : x.status = .running) (hcores : x.cores = [c])
    (hsite : s.siteTask c = some (q, t)) (hjournal : s.ge.journal = []) (hctxs : s.store.ctxs = [])
    (st : TStatus) (fate : TaskEnd) :
    (s.stopTask q t st fate).TasksMoved q (s.coreLeft q t c)
      ∧ (∃ y, (s.stopTask q t st fate).task q t = some y ∧ y.status = st ∧ y.fate = fate)
      ∧ ∀ m, m ≠ t → (s.stopTask q t st fate).task q m = s.task q m := by
  have htask : ((s.coreLeft q t c).setTask q t x.revoked).task q t = some x.revoked :=
    State.task_setTask _ (State.task_coreLeft t |>.trans hx)
  have howned : ((s.coreLeft q t c).setTask q t x.revoked).owned q t = [] := by
    obtain ⟨requests, hposts, ungated, h⟩ := s.coreLeft_frame q t c
    rw [h]
    exact State.owned_nil hctxs
  unfold State.stopTask
  rw [hx]
  dsimp only
  rw [if_neg (by rw [hrunning]; exact Bool.false_ne_true),
    State.revoke_one hx hcores hsite hjournal hctxs, howned, List.foldl_nil, htask]
  dsimp only
  refine ⟨(State.taskDone_moved t).trans ((State.setTask_moved t _).trans (State.setTask_moved t x.revoked)),
    ⟨_, (State.task_taskDone t t).trans (State.task_setTask _ htask), rfl, rfl⟩, fun m hm => ?_⟩
  rw [State.task_taskDone, State.task_setTask_other _ hm, State.task_setTask_other _ hm, State.task_coreLeft]

/-- The exception of a core other than LM_UNCORRECTABLE ends its task. -/
theorem State.coreExc_ends {code : Nat} (hsite : s.siteTask c = some (q, t)) (hcode : code ≠ 6) (u : UnitId)
    (i line : Nat) : s.coreExc c code u i line = s.endTask q t .failed (s.exceptionEnd c code u i) := by
  unfold State.coreExc
  rw [hsite]
  exact if_neg hcode

end

theorem coreExceptionFreesCore : Claims.CoreExceptionFreesCore := by
  intro s c code q t i line u x g hsite hg hx hrunning hcores hjournal hctxs hcut _ hcode hnodup hother s'
  obtain ⟨⟨p, z⟩, hmem, hpt, hz⟩ := hother
  have hp : s.task q p = some z := by
    rw [State.task, hg]
    exact congrArg (Option.map Prod.snd) (find?_of_nodup hnodup hmem)
  have hs' : s' = (s.stopTask q t .failed (s.exceptionEnd c code u i)).settleGraph q := by
    refine (State.coreExc_ends hsite hcode u i line).trans ?_
    rw [State.endTask, State.journalLost_nil hjournal]
    rfl
  obtain ⟨hstopped, ⟨y, hy, hstatus, hfate⟩, hothers⟩ :=
    State.stopTask_one hx hrunning hcores hsite hjournal hctxs .failed (s.exceptionEnd c code u i)
  have hpz := (hothers p hpt).trans hp
  have hleft := s.core_coreLeft q t c
  have hframe := s.coreLeft_frame q t c
  have hcut' : ((s.stopTask q t .failed (s.exceptionEnd c code u i)).sq q).cutWait = none := by
    obtain ⟨graph, hqueue⟩ := hstopped.queue
    obtain ⟨requests, hposts, ungated, h⟩ := hframe
    rw [hqueue, h]
    exact hcut
  generalize s.stopTask q t .failed (s.exceptionEnd c code u i) = v at *
  obtain ⟨hsettled, htasks⟩ := State.settleGraph_running hcut' hpz hz
  have hend : s'.task q t = some y := by
    rw [hs']
    exact htasks hy (by rw [hstatus]; exact TStatus.noConfusion)
  have hmoved : s'.TasksMoved q (s.coreLeft q t c) := hs' ▸ hsettled.trans hstopped
  have hkeep : ∀ e, s'.core e = (s.coreLeft q t c).core e := fun e => by
    rw [State.core, hmoved.cores]
    rfl
  have hk : s'.core c = (s.core c).stopped := (hkeep c).trans hleft.1
  refine ⟨by rw [hk]; rfl, by rw [hk]; rfl, by rw [hk]; rfl, by rw [hk]; rfl,
    fun e he => (hkeep e).trans (hleft.2 e he), ?_, ?_, ?_⟩
  · obtain ⟨requests, hposts, ungated, h⟩ := hframe
    rw [hmoved.mem, h]
  · rw [hend]
    exact congrArg some hstatus
  · rw [hend]
    exact congrArg some ((congrArg (fun f : TaskEnd => (f.exc, f.core)) hfate).trans rfl)

/-! A load over an uncorrectable word. -/

/-- A whole line of local memory written with zeros. -/
theorem Core.zeroLine_spec (k : Core) (n : Nat) : ∃ k', k.lmWrite (64 * n) (List.replicate 64 0) = some k'
    ∧ k'.task = k.task ∧ k'.uncorrectable (64 * n) 64 = false
    ∧ (∀ j, j < 64 → Assoc.get 0 k'.lm (64 * n + j) = 0)
    ∧ ∀ i, (i < 64 * n ∨ 64 * n + 64 ≤ i) → Assoc.get 0 k'.lm i = Assoc.get 0 k.lm i := by
  have hcover : ∀ w ∈ wordsOf (64 * n) 64, covers (64 * n) 64 w = true := fun w hw => by
    obtain ⟨h1, h2, -⟩ := mem_wordsOf.1 hw
    exact decide_eq_true (by omega)
  obtain ⟨k', hk'⟩ := Core.lmWrite_isSome (k := k) (a := 64 * n) (bs := List.replicate 64 0)
    fun w hw => .inl (by simpa using hcover w (by simpa using hw))
  have hlm := Core.lmWrite_writesLm hk'
  refine ⟨k', hk', by rw [Core.lmWrite_frame hk'], ?_, fun j hj => ?_, fun i hi => ?_⟩
  · rw [Core.uncorrectable_eq_false]
    intro w hw
    have hmark : k'.mark w = none := by
      unfold Core.lmWrite at hk'
      dsimp only at hk'
      split at hk'
      · cases hk'
      · cases hk'
        unfold Core.mark Core.lmPut
        dsimp only
        rw [find?_filter_key _ (fun w => !(covers (64 * n) (List.replicate 64 (0 : Byte)).length w)), if_neg]
        · rfl
        · rw [List.length_replicate, hcover w hw]
          exact Bool.false_ne_true
    rw [hmark]
    exact nofun
  · refine (hlm _).trans ((if_pos (by rw [List.length_replicate]; omega)).trans ?_)
    rw [List.getD_eq_getElem?_getD, List.getElem?_replicate]
    split <;> rfl
  · exact (hlm _).trans (if_neg (by rw [List.length_replicate]; omega))

/-- A span within one word that meets an uncorrectable word meets it in its own line. -/
theorem Core.badLine_aligned {k : Core} {a z : Nat} (hz : z < 4) (hal : a % 2 ^ z = 0)
    (hbad : k.uncorrectable a (2 ^ z) = true) : k.badLine a (2 ^ z) = 64 * (a / 64) := by
  have hone : ∀ w ∈ wordsOf a (2 ^ z), w = a / 8 := fun w hw => by
    obtain ⟨h1, h2, -⟩ := mem_wordsOf.1 hw
    have hcase : z = 0 ∨ z = 1 ∨ z = 2 ∨ z = 3 := by omega
    rcases hcase with rfl | rfl | rfl | rfl <;> omega
  unfold Core.badLine
  cases hfind : (wordsOf a (2 ^ z)).find? (fun w => k.mark w == some true) with
  | none =>
    obtain ⟨w, hw, hmark⟩ := List.any_eq_true.1 hbad
    exact absurd hmark (List.find?_eq_none.1 hfind w hw)
  | some w =>
    have hw := hone w (List.mem_of_find?_eq_some hfind)
    show 8 * w / 64 * 64 = _
    omega

/-- A load that meets an uncorrectable word raises LM_UNCORRECTABLE. -/
theorem Core.load_uncorrectable {s : State} {c : Nat} {d b : Fin 32} {imm : Imm} {t n : Nat}
    (h : s.issues c .access [d.val, b.val] t) (hal : ((s.core c).ea b imm).toNat % 2 ^ n = 0)
    (hrange : ((s.core c).ea b imm).toNat + 2 ^ n ≤ 0x60000)
    (hbad : (s.core c).uncorrectable ((s.core c).ea b imm).toNat (2 ^ n) = true) (sx : Bool) :
    (s.core c).load s.aclk n sx d b imm = (s.core c).raiseBad .access ((s.core c).ea b imm).toNat (2 ^ n) := by
  rw [Core.load, State.issues.body h]
  dsimp only
  rw [lmCheck_good hal hrange]
  dsimp only
  rw [Core.lmRead, hbad]
  rfl

section
variable {s : State} {c q t : Nat} {x : Task}

/-- The error kept in the history of its site. -/
def State.noted (s : State) (c : Nat) : State :=
  { s with grid := { s.grid with
    lastUncorrectable := Assoc.set s.grid.lastUncorrectable c (some s.strike) } }

theorem State.coreExc_first (hsite : s.siteTask c = some (q, t)) (hfirst : s.repeats c = false)
    (hjournal : s.ge.journal = []) (u : UnitId) (i line : Nat) : s.coreExc c 6 u i line
      = (((s.noted c).revoke q t).zeroLine c line).reissue q t (s.exceptionEnd c 6 u i) := by
  unfold State.coreExc
  rw [hsite]
  dsimp only
  rw [if_pos (show 6 = excUncorrectable from rfl), hfirst, if_neg Bool.false_ne_true, if_neg]
  · rfl
  · exact Bool.eq_false_iff.1 (State.journalLost_nil (s := s.noted c) hjournal)

theorem State.coreExc_again (hsite : s.siteTask c = some (q, t)) (hagain : s.repeats c = true) (u : UnitId)
    (i line : Nat) : s.coreExc c 6 u i line = (s.noted c).lockout c 2 (s.exceptionEnd c 6 u i) := by
  unfold State.coreExc
  rw [hsite]
  dsimp only
  rw [if_pos (show 6 = excUncorrectable from rfl), hagain, if_pos rfl]
  rfl

/-- A revoked task that is issued again. -/
def Task.again (x : Task) (strike : Word) : Task := { x with status := .ready, readyAt := strike }

theorem State.reissue_ready (hx : s.task q t = some x) (hrunning : x.status = .running)
    (htargeted : x.targeted = false) (hstreams : x.info.streams = []) (fate : TaskEnd) :
    s.reissue q t fate = s.setTask q t (x.again s.strike) := by
  unfold State.reissue
  rw [hx]
  dsimp only
  rw [if_neg (by rw [hrunning]; exact Bool.false_ne_true), if_neg (by rw [htargeted]; exact Bool.false_ne_true),
    if_neg (by rw [hstreams]; exact Bool.false_ne_true)]
  rfl

/-- The lockout of a site, failed before or not. -/
theorem State.lockout_failed (trigger : Nat) (fate : TaskEnd) : (s.lockout c trigger fate).siteFailed c = true := by
  by_cases h : s.siteFailed c = true
  · have hfail : ((s.taskLost (s.siteTask c)).useFree 2).failSite c = (s.taskLost (s.siteTask c)).useFree 2 := by
      have hbit : bit (((s.taskLost (s.siteTask c)).useFree 2).rowMap (rowKey c)).decidedFailed (colOfCore c)
          = true := by
        have hrows := s.taskLost_rows (s.siteTask c)
        unfold State.rowMap
        rw [State.useFree_grid, hrows]
        exact h
      unfold State.failSite
      dsimp only
      rw [hbit, if_pos rfl]
    have hrows : (s.lockout c trigger fate).grid.rows = s.grid.rows := by
      rw [State.lockout_eq]
      dsimp only
      rw [State.assertAt_narrow_rows _ _ _ _ _ _ (State.reachOf_seven _), State.siteDieLost_rows, State.lockoutRec_rows,
        State.taskAgain_rows, hfail, State.useFree_grid, State.taskLost_rows]
    rw [State.siteFailed, State.rowMap, hrows]
    exact h
  · exact (s.lockout_site c trigger fate (Bool.eq_false_iff.2 h)).1

/-- The first error of a site: its task is revoked, its line reads zero, and the task is ready again. -/
theorem State.coreExc_reissues (hsite : s.siteTask c = some (q, t)) (hx : s.task q t = some x)
    (hrunning : x.status = .running) (htargeted : x.targeted = false) (hcores : x.cores = [c])
    (hjournal : s.ge.journal = []) (hctxs : s.store.ctxs = []) (hstreams : x.info.streams = [])
    (hfirst : s.repeats c = false) (u : UnitId) (i n : Nat) :
    let s' := s.coreExc c 6 u i (64 * n)
    s'.task q t = some (x.revoked.again s.strike) ∧ (s'.core c).task = none
      ∧ (∀ j, j < 64 → Assoc.get 0 (s'.core c).lm (64 * n + j) = 0) ∧ (s'.core c).uncorrectable (64 * n) 64 = false
      ∧ (∀ i, (i < 64 * n ∨ 64 * n + 64 ≤ i) → Assoc.get 0 (s'.core c).lm i = Assoc.get 0 (s.core c).lm i)
      ∧ (∀ e, e ≠ c → s'.core e = s.core e) ∧ s'.grid.rows = s.grid.rows ∧ s'.resets = s.resets
      ∧ s'.logs = s.logs ∧ s'.mem = s.mem ∧ Assoc.get none s'.grid.lastUncorrectable c = some s.strike := by
  intro s'
  have hs' : s' = (((s.noted c).revoke q t).zeroLine c (64 * n)).reissue q t (s.exceptionEnd c 6 u i) :=
    State.coreExc_first hsite hfirst hjournal u i _
  have hrevoke : (s.noted c).revoke q t = ((s.noted c).coreLeft q t c).setTask q t x.revoked :=
    State.revoke_one (s := s.noted c) hx hcores hsite hjournal hctxs
  have htask : (((s.noted c).coreLeft q t c).setTask q t x.revoked).task q t = some x.revoked :=
    State.task_setTask _ ((State.task_coreLeft t).trans hx)
  obtain ⟨hleft, hothers⟩ := (s.noted c).core_coreLeft q t c
  obtain ⟨requests, hposts, ungated, hframe⟩ := (s.noted c).coreLeft_frame q t c
  obtain ⟨k, hk, hktask, hkbad, hkzero, hkrest⟩ := ((s.core c).stopped).zeroLine_spec n
  have hzero : ((s.noted c).revoke q t).zeroLine c (64 * n)
      = (((s.noted c).coreLeft q t c).setTask q t x.revoked).setCore c k := by
    have hwrite : ((((s.noted c).coreLeft q t c).setTask q t x.revoked).core c).lmWrite (64 * n)
        (List.replicate 64 0) = some k := (congrArg (fun k : Core => k.lmWrite (64 * n) _) hleft).trans hk
    rw [hrevoke, State.zeroLine, hwrite]
  have hagain : s' = ((((s.noted c).coreLeft q t c).setTask q t x.revoked).setCore c k).setTask q t
      (x.revoked.again (s.noted c).strike) := by
    rw [hs', hzero]
    have hstrike : ((((s.noted c).coreLeft q t c).setTask q t x.revoked).setCore c k).strike = (s.noted c).strike := by
      rw [hframe]
      rfl
    have htask' : ((((s.noted c).coreLeft q t c).setTask q t x.revoked).setCore c k).task q t = some x.revoked := htask
    rw [State.reissue_ready htask' hrunning htargeted hstreams, hstrike]
  have hcore : s'.core c = k := by
    rw [hagain]
    exact State.core_setCore _ c k
  refine ⟨?_, hcore ▸ hktask, hcore ▸ hkzero, hcore ▸ hkbad, hcore ▸ hkrest, fun e he => ?_, ?_, ?_, ?_, ?_, ?_⟩
  · rw [hagain]
    exact State.task_setTask _ htask
  · rw [hagain]
    exact (State.core_setCore_other _ _ he).trans (hothers e he)
  all_goals rw [hagain, hframe]
  · rfl
  · rfl
  · rfl
  · rfl
  · exact Assoc.get_set_same _ _ _ _

end

theorem uncorrectableReissues : Claims.UncorrectableReissues := by
  intro s c q t t0 x z d b imm h k a line hal hrange hbad hsite hx hrunning htargeted hcores hjournal hctxs hstreams
  have hline : k.badLine a (2 ^ z.val) = line := Core.badLine_aligned z.isLt hal hbad
  have hrun : exec (.ld c z d b imm) s = .next ((s.setCore c k).coreExc c 6 .access (k.stream .access).pc line) := by
    have hload : (s.core c).load s.aclk z.val false d b imm
        = .exc excUncorrectable .access (k.stream .access).pc k line :=
      (Core.load_uncorrectable h hal hrange hbad false).trans (by rw [← hline]; rfl)
    exact State.onInstr_exc h hload
  have hself : (s.setCore c k).core c = k := State.core_setCore s c k
  have hsite' : (s.setCore c k).siteTask c = some (q, t) := by
    rw [State.siteTask, hself]
    exact hsite
  have hexists : dieOfCore c < 12 := by
    have hs := h.1
    simp only [siteExists, Bool.and_eq_true, decide_eq_true_eq] at hs
    exact hs.1
  refine ⟨fun hfirst => ?_, fun hagain => ⟨_, hrun, ?_⟩⟩
  · obtain ⟨htask, hidle, hzero, hsound, hrest, hothers, hrows, hresets, hlogs, hmem, hlast⟩ :=
      State.coreExc_reissues (s := s.setCore c k) hsite' hx hrunning htargeted hcores hjournal hctxs hstreams hfirst
        .access (k.stream .access).pc (a / 64)
    exact ⟨_, _, hrun, htask, rfl, rfl, rfl, rfl, hidle, hzero, hsound,
      fun i hi => (hrest i hi).trans (by rw [hself]), fun e he =>
          (hothers e he).trans (State.core_setCore_other s k he),
      hrows, hresets, hlogs, hmem, hlast⟩
  · rw [State.coreExc_again hsite' hagain]
    refine ⟨State.lockout_failed 2 _, ?_, ?_⟩
    · rw [State.lockout_eq]
      exact State.assertAt_coreInReset _ c _ _ _ (State.reachOf_seven _)
    · rw [State.lockout_eq]
      exact State.assertAt_core_idle _ c _ _ _ hexists (State.reachOf_seven _)

/-! The end of a core's part of its task. -/

/-- Contexts change alone. -/
theorem foldl_setCtx {β : Type} (f : State → β → Nat × Ctx) (l : List β) (s : State) :
    ∃ ctxs, l.foldl (fun s e => s.setCtx (f s e).1 (f s e).2) s
      = { s with store := { s.store with ctxs := ctxs } } := by
  induction l generalizing s with
  | nil => exact ⟨_, rfl⟩
  | cons e l ih =>
    obtain ⟨ctxs, h⟩ := ih (s.setCtx (f s e).1 (f s e).2)
    exact ⟨ctxs, h⟩

/-- The task once the part of one of its cores has ended. -/
def Task.partEnded (x : Task) (k : Core) (g : CoreTask) : Task :=
  { x with
    done := x.done ++ [g.gy * x.info.gangW + g.gx]
    residue := x.residue + ((List.range 4).map (fun q => (Assoc.get [] k.dq q).length)).foldl (· + ·) 0
    nflags := x.nflags ||| k.nflags
    countA := x.countA.sum k.vec.isat }

theorem State.endCore_frame (s : State) (c : Nat) (k : Core) {g : CoreTask} {x : Task}
    (h : (g.gy * x.info.gangW + g.gx) ∉ x.done) : ∃ ctxs, s.endCore c k g x =
      let u := ((s.setTask g.q g.task (x.partEnded k g)).setCore c { k with dq := [], ags := [] }).at_ k.vec.idleAt
      { u with store := { u.store with ctxs := ctxs } } := by
  unfold State.endCore
  dsimp only
  rw [if_neg (show ¬ x.done.contains _ = true by simpa using h)]
  split
  · exact foldl_setCtx (fun (s : State) (e : Nat × Nat) => (e.1, (s.ctx e.1).portClose)) _ _
  · exact ⟨_, rfl⟩

theorem taskEndResult : Claims.TaskEndResult := by
  intro s c g x hsite hg hfinished hx hdone k
  have hrun : exec (.taskEnd c) s = .next (s.endCore c k g x) := by
    refine (if_pos hsite).trans ?_
    rw [if_pos hfinished, hg, Option.bind_some, hx, Option.bind_some, if_neg (by simpa using hdone)]
    rfl
  obtain ⟨ctxs, hframe⟩ := s.endCore_frame c k hdone
  refine ⟨_, x.partEnded k g, hrun, ?_, rfl, rfl, ?_, rfl, ?_, fun e he => ?_, ?_, ?_⟩
  · rw [hframe]
    exact State.task_setTask (x.partEnded k g) hx
  · simp only [Task.partEnded, List.range_succ, List.range_zero, List.nil_append, List.cons_append, List.map_cons,
      List.map_nil, List.foldl_cons, List.foldl_nil, Nat.zero_add, Nat.add_assoc]
    rfl
  · rw [hframe]
    exact State.core_setCore _ c _
  · rw [hframe]
    exact State.core_setCore_other _ _ he
  · rw [hframe]
    rfl
  · rw [hframe]
    exact Nat.le_max_right _ _

/-- Settles O18: what deadlocks, exceptions and the end of a task make of a core and its task. -/
theorem coreExceptionsAndTaskEnd : Obligations.CoreExceptionsAndTaskEnd :=
  ⟨coreDeadlockAndSlot, coreExceptionFreesCore, uncorrectableReissues, taskEndResult⟩

end Sys2Proof.Machine
end

section
/-! PROOF. O10: the issue and the acceptance of an accumulate, the beat of a pairing without block scales, and what one
rank-one step does to a tile (R33, R36, R38, R39, R43, R44, R50, R65, R67, R71, R96, R151, R152). -/

namespace Sys2Proof.Machine

open Sys2Proof

/-! Tiles of a core. -/

section
variable (k : Core) (t : Fin 4) (v : Tile)

@[simp] theorem Core.tile_setTile : (k.setTile t v).tile t = v := Assoc.get_set_same _ _ _ _

theorem Core.tile_setTile_other {z : Fin 4} (h : z ≠ t) : (k.setTile t v).tile z = k.tile z :=
  Assoc.get_set_other _ _ _ fun hv => h (Fin.ext hv)

end

/-! Issue and acceptance. -/

/-- The tile as an accumulate that issues will leave its mode. -/
def Tile.willHold (v : Tile) (comp int : Bool) : Tile := { v with nextClr := false, nextComp := comp, nextInt := int }

/-- The core once an accumulate has its number in the engine's order. -/
def Core.numbered (k : Core) (t : Fin 4) (comp int : Bool) : Core :=
  { k.setTile t ((k.tile t).willHold comp int) with ope := { k.ope with ord := k.ope.ord + 1 } }

/-- The core that holds at an accumulate. -/
def Core.holdsAcc (k : Core) (a : Acc) : Core :=
  { k with ope := { k.ope with held := some a }, exe := { k.exe with wait := .accumulate } }

section
variable {s : State} {c : Nat} {t : Fin 4} {ct rt : EType} {init comp : Bool} {x : Src} {cy : Nat}

/-- The accumulate that an `opa` begins. -/
def Core.newAcc (k : Core) (t : Fin 4) (ct rt : EType) (init comp : Bool) (x : Src) : Acc :=
  { ord := k.ope.ord, tile := t, ct := ct, rt := rt, init := init, comp := comp
    k := (k.src .execute x).toNat % 2 ^ 32, instr := k.exe.pc }

theorem Core.opa_illegal (hsrc : srcOk .execute x = true) (h : s.issues c .execute (srcRegs x) cy)
    (hpair : pairing ct rt = none) : (s.core c).opa s.aclk t ct rt init comp x = (s.core c).raise .execute 1 := by
  rw [Core.opa, hsrc, State.issues.body h]
  dsimp only
  rw [hpair]
  rfl

theorem Core.opa_issues (hsrc : srcOk .execute x = true) (h : s.issues c .execute (srcRegs x) cy) {p : Pairing}
    (hpair : pairing ct rt = some p) (hn : ((s.core c).src .execute x).toNat % 2 ^ 32 ≠ 0)
    (hmode : init = true ∨ ((s.core c).tile t).nextClr = true
      ∨ (((s.core c).tile t).nextComp = comp ∧ ((s.core c).tile t).nextInt = p.int)) :
    (s.core c).opa s.aclk t ct rt init comp x =
      if (s.core c).ope.places cy < 2 then
        (((s.core c).numbered t comp p.int).acceptAcc cy ((s.core c).newAcc t ct rt init comp x)).ok1 .execute cy 1 1 []
      else .held (((s.core c).numbered t comp p.int).holdsAcc ((s.core c).newAcc t ct rt init comp x)) := by
  have hbits : bits ((s.core c).src .execute x) 0 32 = ((s.core c).src .execute x).toNat % 2 ^ 32 := by simp [bits]
  have hlegal : (!init && !((s.core c).tile t).nextClr
      && (((s.core c).tile t).nextComp != comp || ((s.core c).tile t).nextInt != p.int)) = false := by
    rcases hmode with h | h | ⟨h, h'⟩
    · simp [h]
    · simp [h]
    · simp [h, h']
  rw [Core.opa, hsrc, State.issues.body h]
  dsimp only
  rw [hpair]
  dsimp only
  rw [hlegal, hbits, if_neg Bool.false_ne_true, if_neg hn]
  rfl

end

/-- An event of a core that completes. -/
theorem State.onCore_core {s : State} {c : Nat} (hsite : s.siteRuns c) {f : Core → CoreRes} {t : Nat} {k' : Core}
    (hf : f (s.core c) = .ok t k') :
    ∃ s', s.onCore c f = .next s' ∧ s.onlyCore s' c ∧ s'.core c = k' ∧ s'.aclk = max s.aclk t :=
  ⟨_, State.onCore_ok s c f t _ hsite.1 hsite.2 hf, s.onlyCore_setCore_at c t _, by simp, by simp⟩

theorem accumulateIssue : Claims.AccumulateIssue := by
  intro s c t ct rt init comp x cy k n v
  refine ⟨fun hsrc h => ⟨fun p hpair hn hmode => ?_, fun hpair => ?_⟩, fun a hsite hheld hroom => ?_⟩
  · intro a
    have hopa : (s.core c).opa s.aclk t ct rt init comp x = _ := Core.opa_issues hsrc h hpair hn hmode
    have htile : (k.numbered t comp p.int).tile t = v.willHold comp p.int := k.tile_setTile t _
    by_cases hplace : k.ope.places cy < 2
    · obtain ⟨s', hrun, honly, hcore, -⟩ := State.onInstr_core (i := .opa c t ct rt init comp x)
        (f := fun k => k.opa s.aclk t ct rt init comp x) h
        (hopa.trans (if_pos hplace))
      have hregs : k.sameRegs (s'.core c) := fun u r => by
        rw [hcore, Core.reg_done]
        rfl
      have htile' : (s'.core c).tile t = v.willHold comp p.int := by
        rw [hcore]
        exact htile
      have hwent := Core.done_wentOn ((k.numbered t comp p.int).acceptAcc cy (k.newAcc t ct rt init comp x)) .execute
        cy 1 1 []
      refine ⟨s', hrun, honly, hregs, by rw [htile']; rfl, by rw [htile']; rfl, by rw [htile']; rfl,
        by rw [htile']; rfl, by rw [hcore]; rfl, fun _ => ⟨by rw [hcore]; rfl, ?_⟩, fun h2 => ?_⟩
      · rw [hcore]
        exact hwent
      · exact absurd hplace (Nat.not_lt.2 h2)
    · have hrun := State.onInstr_held (i := .opa c t ct rt init comp x)
        (f := fun k => k.opa s.aclk t ct rt init comp x) h (hopa.trans (if_neg hplace))
        fun a ha => Wait.noConfusion (ha : Wait.accumulate = .retry a)
      refine ⟨_, hrun, s.onlyCore_setCore c _, ?_⟩
      rw [State.core_setCore]
      refine ⟨fun u r => by cases u <;> rfl, congrArg Tile.nextClr htile, congrArg Tile.nextComp htile,
        congrArg Tile.nextInt htile, (congrArg Tile.cells htile :), rfl, fun h2 => absurd h2 hplace,
        fun _ => ⟨rfl, rfl, rfl, rfl⟩⟩
  · exact State.onInstr_exc (i := .opa c t ct rt init comp x) h
      ((Core.opa_illegal hsrc h hpair).trans rfl)
  · intro at_
    have hf : k.acceptHeld s.aclk = .ok at_ ((k.acceptAcc at_ a).done .execute at_ 1 1 []) := by
      have hat : (if k.ope.q.isEmpty then s.aclk else max s.aclk k.ope.freeAt) = at_ := by
        simp only [at_, List.isEmpty_iff]
      rw [Core.acceptHeld, hheld]
      dsimp only
      rw [hat, if_pos hroom]
      rfl
    obtain ⟨s', hrun, honly, hcore, haclk⟩ := State.onCore_core (f := fun k => k.acceptHeld s.aclk) hsite hf
    have hwent := Core.done_wentOn (k.acceptAcc at_ a) .execute at_ 1 1 []
    rw [← hcore] at hwent
    refine ⟨s', hrun, honly, fun u r => ?_, haclk, by rw [hcore]; rfl, by rw [hcore]; rfl, hwent⟩
    rw [hcore, Core.reg_done]
    rfl

/-! One rank-one step. -/

/-- A sparse map made of the values of a list of places reads those values, and its default elsewhere. -/
theorem Assoc.get_tabulated {α : Type} [DecidableEq α] (d : α) (f : Nat → α) (l : List Nat) (m : Nat) :
    Assoc.get d (l.filterMap (fun n => if f n = d then none else some (n, f n))) m = if m ∈ l then f m else d := by
  induction l with
  | nil => rfl
  | cons n l ih =>
    rw [List.filterMap_cons]
    by_cases hd : f n = d
    · rw [if_pos hd]
      dsimp only
      rw [ih]
      by_cases hm : m = n
      · subst hm
        simp [hd]
      · simp [hm]
    · rw [if_neg hd]
      dsimp only
      rw [Assoc.get_cons, ih]
      by_cases hm : m = n
      · subst hm
        simp
      · simp [hm, Ne.symm hm]

/-- What one step makes of cell n. -/
def Tile.stepAt (v : Tile) (int comp fresh : Bool) (as bs : List Fl) (n : Nat) : StepOut :=
  stepCell int comp fresh (Assoc.get {} v.cells n) (as.getD (n / 32) (.fin false 0 0))
      (bs.getD (n % 32) (.fin false 0 0))

section
variable (v : Tile) (int comp fresh : Bool) (as bs : List Fl)

theorem Tile.step_cells (n : Nat) : Assoc.get {} (v.step int comp fresh as bs).cells n
    = if n < 1024 then (v.stepAt int comp fresh as bs n).cell else {} := by
  have h := Assoc.get_tabulated ({} : Cell) (fun n => (v.stepAt int comp fresh as bs n).cell) (List.range 1024) n
  simp only [List.mem_range] at h
  rw [← h]
  unfold Tile.step
  dsimp only
  rw [List.filterMap_map]
  rfl

theorem Tile.step_sat : (v.step int comp fresh as bs).sat = true ↔ v.sat = true
    ∨ ∃ n, n < 1024 ∧ (v.stepAt int comp fresh as bs n).sat = true := by
  unfold Tile.step
  dsimp only
  rw [Bool.or_eq_true, List.any_map, List.any_eq_true]
  simp only [List.mem_range]
  rfl

variable {v int comp fresh as bs}

/-- The step of a cell by its row and column. -/
theorem Tile.stepAt_cell (has : as.length = 32) (hbs : bs.length = 32) {i j : Nat} (hi : i < 32) (hj : j < 32) :
    v.stepAt int comp fresh as bs (32 * i + j) =
      stepCell int comp fresh (Assoc.get {} v.cells (32 * i + j)) (as.getD i .nan) (bs.getD j .nan) := by
  have hdiv : (32 * i + j) / 32 = i := by omega
  have hmod : (32 * i + j) % 32 = j := by omega
  have hget : ∀ (l : List Fl) (n : Nat), l.length = 32 → n < 32 → l.getD n (.fin false 0 0) = l.getD n .nan :=
    fun l n hl hn => by
      rw [List.getD_eq_getElem _ _ (by omega), List.getD_eq_getElem _ _ (by omega)]
  rw [Tile.stepAt, hdiv, hmod, hget as i has hi, hget bs j hbs hj]

end

theorem rankOneStep : Claims.RankOneStep := by
  intro v int comp fresh as bs has hbs w
  refine ⟨fun i j hi hj => ?_, fun n hn => ?_, rfl, ?_⟩
  · exact (v.step_cells int comp fresh as bs _).trans
      ((if_pos (by omega)).trans (congrArg StepOut.cell (Tile.stepAt_cell has hbs hi hj)))
  · exact (v.step_cells int comp fresh as bs n).trans (if_neg (by omega))
  · refine (v.step_sat int comp fresh as bs).trans (or_congr Iff.rfl ⟨?_, ?_⟩)
    · rintro ⟨n, hn, hsat⟩
      have hcell := Tile.stepAt_cell (v := v) (int := int) (comp := comp) (fresh := fresh) has hbs
        (show n / 32 < 32 by omega) (show n % 32 < 32 by omega)
      rw [Nat.div_add_mod] at hcell
      exact ⟨n / 32, n % 32, by omega, by omega, by rw [Nat.div_add_mod, ← hcell]; exact hsat⟩
    · rintro ⟨i, j, hi, hj, hsat⟩
      exact ⟨32 * i + j, by omega, by rw [Tile.stepAt_cell has hbs hi hj]; exact hsat⟩

/-! A beat of a pairing without block scales. -/

theorem Core.correct_unmarked {k : Core} (h : k.lmErr = []) (ws : List Nat) : k.correct ws = k := by
  have hhits : ws.filter (fun w => k.mark w == some false) = [] := by
    rw [List.filter_eq_nil_iff]
    intro w _
    rw [Core.mark, h]
    exact Bool.false_ne_true
  unfold Core.correct
  dsimp only
  rw [hhits, List.length_nil, Counter.addN_zero, h, List.filter_nil, ← h]

theorem Core.lmRead_unmarked_self {k : Core} (h : k.lmErr = []) (a n : Nat) : k.lmRead a n
    = some (k, k.lmBytes a n) := by
  rw [Core.lmRead_sound (Core.uncorrectable_unmarked h a n), Core.correct_unmarked h]

/-- An engine that keeps other operand lines, and knows of other reads. -/
def Ope.keeps (o : Ope) (reads : List (Nat × Nat)) (col row : Option Nat) : Ope :=
  { o with reads := reads, colLine := col, rowLine := row }

/-- A core whose engine keeps other operand lines. -/
def Core.keepsLines (k : Core) (reads : List (Nat × Nat)) (col row : Option Nat) : Core :=
  { k with ope := k.ope.keeps reads col row }

theorem Core.readOperand_unmarked {k : Core} (h : k.lmErr = []) (e : Nat) (row : Bool) (a : Nat) :
    ∃ reads col line, k.readOperand e row a = some (k.keepsLines reads col line) := by
  unfold Core.readOperand
  rw [Core.lmRead_unmarked_self h]
  cases row
  · rw [if_neg Bool.false_ne_true]
    split
    · exact ⟨_, _, _, rfl⟩
    · exact ⟨_, _, _, rfl⟩
  · rw [if_pos rfl]
    split
    · exact ⟨_, _, _, rfl⟩
    · exact ⟨_, _, _, rfl⟩

theorem Core.beatReads_unmarked {k : Core} (h : k.lmErr = []) (e c r : Nat) :
    ∃ reads col line, k.beatReads e c r [] = some (k.keepsLines reads col line, []) := by
  obtain ⟨reads, col, line, hcol⟩ := Core.readOperand_unmarked h e false c
  obtain ⟨reads', col', line', hrow⟩ := Core.readOperand_unmarked (k := k.keepsLines reads col line) h e true r
  refine ⟨reads', col', line', ?_⟩
  rw [Core.beatReads, hcol, Option.bind_some, hrow]
  rfl

theorem Core.beatBad_unmarked {k : Core} (h : k.lmErr = []) (c r : Nat) : k.beatBad c r [] = none := by
  unfold Core.beatBad
  dsimp only
  rw [Core.uncorrectable_unmarked h, Core.uncorrectable_unmarked h]
  simp

theorem operandVals_plain {t : EType} (h : isMx t = false) (bs : List Byte) (n : Nat) (scales : List Byte) :
    operandVals t bs n scales = operandVals t bs n [] := by
  unfold operandVals
  dsimp only
  rw [h]
  rfl

/-- A core that has taken the first n addresses of an address stream, as the stream stands in cycle t. -/
def Core.tookAddrs (k : Core) (a : AStream) (t n : Nat) : Core :=
  k.tookAddr a t (((k.ag a).settle t).fifo.drop n)

/-- Addresses that stand in the FIFO are taken at once. -/
theorem Core.takeAddrs_enough {k : Core} {a : AStream} {t n : Nat} (h : n ≤ ((k.ag a).settle t).fifo.length) :
    k.takeAddrs a t n = some (((k.ag a).settle t).fifo.take n, t, k.tookAddrs a t n) := by
  unfold Core.takeAddrs
  dsimp only
  rw [if_pos h, AddrStream.settle_settle, if_pos h]
  rfl

/-- The tile after a beat of one step without block scales. -/
def Tile.afterBeat (v : Tile) (a : Acc) (e : Nat) (cb rb : List Byte) : Tile :=
  let w := (if a.beats = 0 then v.begin a else v).step a.pair.int a.comp (a.init && a.beats == 0)
    (operandVals a.ct cb 0 []) (operandVals a.rt rb 0 [])
  if a.beats + 1 = a.total then { w with drainFrom := e + a.pair.p + 33 } else w

section
variable {k : Core} {a : Acc} {rest : List Acc} (hct : isMx a.ct = false) (hrt : isMx a.rt = false)
include hct hrt

theorem Acc.scales_plain : a.scales = 0 := by
  unfold Acc.scales
  rw [hct, hrt]
  split <;> rfl

theorem Core.beatAct_plain (hsteps : a.pair.steps = 1) (hdrains : k.ope.drains = []) (n e : Nat) (cb rb : List Byte) :
    ∃ o, k.beatAct n a rest e cb rb = { k.setTile a.tile ((k.tile a.tile).afterBeat a e cb rb) with ope := o } := by
  have hopen : k.openDrain a.tile a.ord = none := by
    rw [Core.openDrain, hdrains]
    rfl
  have hct' : ∀ n scales, operandVals a.ct cb n scales = operandVals a.ct cb n [] := operandVals_plain hct cb
  have hrt' : ∀ n scales, operandVals a.rt rb n scales = operandVals a.rt rb n [] := operandVals_plain hrt rb
  unfold Core.beatAct
  dsimp only
  rw [hopen]
  simp only [hdrains, List.any_nil, hsteps, OfNat.one_ne_ofNat, false_and, Bool.false_eq_true, if_false, hct',
    hrt', decide_eq_true_eq, beq_self_eq_true, Bool.and_true]
  exact ⟨_, rfl⟩

/-- The operand addresses of a beat taken: one of COL, one of ROW and no scale. -/
theorem Core.takeOperands_plain {e : Nat} {x y : Word} {xs ys : List Word}
    (hx : ((k.ag .col).settle (e - 3)).fifo = x :: xs) (hy : ((k.ag .row).settle (e - 3)).fifo = y :: ys) :
    ∃ k1 : Core, k.takeOperands a e = some (x, y, [], e, k1) ∧ k1 = { k with ags := k1.ags }
      ∧ (k1.ag .col).fifo = xs ∧ (k1.ag .row).fifo = ys := by
  have hscales := Acc.scales_plain hct hrt
  have hrow : (((k.tookAddr .col (e - 3) xs).ag .row).settle (e - 3)).fifo = y :: ys := by
    rw [Core.tookAddr, Core.ag_setAg_other _ _ (by decide)]
    exact hy
  have hlane : k.ope.laneFrom a e = e := by
    unfold Ope.laneFrom
    dsimp only
    rw [hscales]
    exact if_pos rfl
  have hnone : ∀ k : Core, k.takeAddrs .scale (e - 2) 0 = some ([], e - 2, k.tookAddrs .scale (e - 2) 0) := fun k =>
    Core.takeAddrs_enough (Nat.zero_le _)
  refine ⟨((k.tookAddr .col (e - 3) xs).tookAddr .row (e - 3) ys).tookAddrs .scale (e - 2) 0, ?_, ?_, ?_, ?_⟩
  · unfold Core.takeOperands
    dsimp only
    rw [hlane, hscales, Core.takeAddrs_one hx]
    dsimp only
    rw [Core.takeAddrs_one hrow]
    dsimp only
    rw [Nat.mul_zero, Nat.zero_add, hnone]
    dsimp only
    rw [if_neg (Nat.lt_irrefl _), if_pos (.inl rfl), max_self, max_self]
  · rfl
  · rw [Core.tookAddrs, Core.tookAddr, Core.ag_setAg_other _ _ (by decide), Core.tookAddr,
      Core.ag_setAg_other _ _ (by decide), Core.tookAddr, Core.ag_setAg]
  · rw [Core.tookAddrs, Core.tookAddr, Core.ag_setAg_other _ _ (by decide), Core.tookAddr, Core.ag_setAg]

end

section
variable {k : Core} {a : Acc} {rest : List Acc} {now e : Nat} {x y : Word} {xs ys : List Word}

theorem Core.edgeFrom_room (hopen : k.openDrain a.tile a.ord = none) (room : Nat) : k.edgeFrom now a room
    = k.edgeFrom now a := by
  unfold Core.edgeFrom
  dsimp only
  rw [hopen]

/-- The beat of a pairing without block scales that enters the edge in cycle e. -/
theorem Core.beat_plain (hq : k.ope.q = a :: rest) (hslot : k.slot = none) (hct : isMx a.ct = false)
    (hrt : isMx a.rt = false) (hedge : k.edgeFrom now a = some e) (hopen : k.openDrain a.tile a.ord = none)
    (hdrains : k.ope.drains = []) (h2 : 2 ≤ e) (hbegun : k.ope.begun e = false) (hwrites : k.writes = [])
    (hwait : k.exe.wait = .none)
    (hx : ((k.ag .col).settle (e - 3)).fifo = x :: xs) (hy : ((k.ag .row).settle (e - 3)).fifo = y :: ys)
    (hcx : operandCheck a.ct a.rt x = none) (hcy : operandCheck a.rt a.ct y = none) (hlm : k.lmErr = [])
    (hsteps : a.pair.steps = 1) (level : Nat → Nat) (strike : Word) (room : Nat) :
    ∃ k', k.beat now level strike room = .ok e k' ∧ (∀ u, k'.stream u = k.stream u) ∧ k'.lm = k.lm
      ∧ (k'.ag .col).fifo = xs ∧ (k'.ag .row).fifo = ys
      ∧ k'.tile a.tile = (k.tile a.tile).afterBeat a e (k.lmBytes x.toNat (operandBytes a.ct a.rt))
        (k.lmBytes y.toNat (operandBytes a.rt a.ct))
      ∧ ∀ t, t ≠ a.tile → k'.tile t = k.tile t := by
  have hlimited : k.ope.limited e = e := by
    rw [Ope.limited, hbegun]
    rfl
  obtain ⟨k1, htake, hk1, hcol, hrow⟩ := Core.takeOperands_plain hct hrt hx hy
  have hahead : ∀ n m, k.drainAhead a.ord n m = false := fun n m => by
    rw [Core.drainAhead, hdrains]
    rfl
  have hvisible : k.beatVisible a x.toNat y.toNat [] = 2 := by
    simp [Core.beatVisible, Core.visibleAt, hwrites]
  have hfront : k1.frontFrom a x.toNat y.toNat e = e := if_pos (by rw [hk1]; exact congrArg List.isEmpty hdrains)
  have hlm1 : k1.lmErr = [] := by
    rw [hk1]
    exact hlm
  obtain ⟨reads, cl, rl, hreads⟩ := Core.beatReads_unmarked hlm1 e x.toNat y.toNat
  obtain ⟨o, hact⟩ := Core.beatAct_plain (k := k1.keepsLines reads cl rl) (rest := rest) hct hrt hsteps
    (by rw [hk1]; exact hdrains) (level e) e (k.lmBytes x.toNat (operandBytes a.ct a.rt))
    (k.lmBytes y.toNat (operandBytes a.rt a.ct))
  have hbytes : ∀ n m, (k1.keepsLines reads cl rl).lmBytes n m = k.lmBytes n m := fun n m => by
    rw [hk1]
    rfl
  have hbeat : k.beat now level strike room
      = .ok e (((k1.keepsLines reads cl rl).beatAct (level e) a rest e (k.lmBytes x.toNat (operandBytes a.ct a.rt))
        (k.lmBytes y.toNat (operandBytes a.rt a.ct))).serveOwait e) := by
    unfold Core.beat
    rw [hq]
    dsimp only
    rw [hslot, if_neg Bool.false_ne_true, Core.edgeFrom_room hopen, hedge]
    dsimp only
    rw [hlimited, htake]
    dsimp only
    rw [List.map_nil, hvisible, Nat.max_eq_left h2, hlimited, hfront, hahead, hahead, List.any_nil,
      if_neg (show ¬ (false || false || false) = true from Bool.false_ne_true), hcx, hcy]
    dsimp only [List.findSome?_nil, Option.or]
    rw [Core.beatBad_unmarked hlm1, hreads]
    dsimp only
    rw [hbytes, hbytes]
    rfl
  have hserve : ∀ v : Tile, ({ (k1.keepsLines reads cl rl).setTile a.tile v with ope := o } : Core).serveOwait e
      = { (k1.keepsLines reads cl rl).setTile a.tile v with ope := o } := fun v => by
    unfold Core.serveOwait
    have hnone : ({ (k1.keepsLines reads cl rl).setTile a.tile v with ope := o } : Core).exe.wait = .none := by
      rw [hk1]
      exact hwait
    rw [hnone]
  have htiles : ∀ t, (k1.keepsLines reads cl rl).tile t = k.tile t := fun t => by
    rw [hk1]
    rfl
  rw [hact, hserve] at hbeat
  refine ⟨_, hbeat, fun u => ?_, ?_, hcol, hrow, ?_, fun t ht => ?_⟩
  · rw [hk1]
    rfl
  · rw [hk1]
    rfl
  · rw [htiles]
    exact Core.tile_setTile _ _ _
  · exact (Core.tile_setTile_other _ _ _ ht).trans (htiles t)

end

theorem State.diePower_countBeat (s : State) (c : Nat) (a : Acc) :
    ((s.countBeat c (some a)).diePower (dieOfCore c)).beats = (s.diePower (dieOfCore c)).beats + 1 := by
  have hafter : ∀ (v w : DiePower) g, (v.after w g).beats = w.beats := fun v w g => by
    unfold DiePower.after
    split <;> rfl
  refine (congrArg DiePower.beats (Assoc.get_put_same _ _ _ _)).trans (hafter _ _ _)

theorem beatResult : Claims.BeatResult := by
  intro s c a rest x y xs ys e k p hsite hq hslot hct hrt hsteps hedge hopen hdrains h2 hbegun hwrites hwait hx hy
    hcx hcy hlm
  obtain ⟨k', hbeat, hstream, hlm', hcol, hrow, htile, htiles⟩ :=
      Core.beat_plain hq hslot hct hrt hedge hopen hdrains h2
    hbegun hwrites hwait hx hy hcx hcy hlm hsteps (s.beatLimit c) (s.coreStrike c) (s.drainRoom c)
  have hnext : s.nextBeat c = .ok e k' := (if_neg (Bool.eq_false_iff.1 hsite.2)).trans hbeat
  have hrun : exec (.beatEdgeEntry c) s = .next (((s.setCore c k').at_ e).countBeat c (some a)) := by
    refine (if_pos hsite.1).trans ?_
    rw [hnext]
    dsimp only
    rw [show (s.core c).ope.q.head? = some a from congrArg List.head? hq]
  have hcore : (((s.setCore c k').at_ e).countBeat c (some a)).core c = k' := State.core_setCore s c k'
  refine ⟨_, hrun, rfl, rfl, rfl, fun f hf => State.core_setCore_other s k' hf, ?_⟩
  rw [hcore]
  exact ⟨hlm', Core.reg_of_streams hstream, hcol, hrow, htile, htiles, State.diePower_countBeat _ _ _⟩

/-- Settles O10: an accumulate is queued, steps through its beats, and each step acts on every cell alone. -/
theorem outerProductSteps : Obligations.OuterProductSteps := ⟨accumulateIssue, beatResult, rankOneStep⟩

end Sys2Proof.Machine
end

section
/-! PROOF. O11: tile clears and status reads, the end of an accumulate, and the life of a drain from its issue to its
last row (R35, R48, R49, R53, R55 to R60, R98, R153 to R157). -/

namespace Sys2Proof.Machine

open Sys2Proof

/-! Tile clears, status reads and the end of an accumulate. -/

/-- A core whose engine has these clears and reads waiting. -/
def Core.withTileOps (k : Core) (xs : List TileOp) : Core := { k with ope := { k.ope with tileOps := xs } }

section
variable {k : Core} {x : TileOp} {t : Nat}

theorem Core.runTileOps_none (h : k.ope.tileOps = []) : k.runTileOps t = k := by
  rw [Core.runTileOps, h]
  rfl

/-- The one clear or read that waits acts when the scoreboard allows. -/
theorem Core.runTileOps_one (h : k.ope.tileOps = [x]) (hbusy : (k.withTileOps []).tileBusy x.tile x.ord = false) :
    k.runTileOps t = (k.withTileOps []).tileAct t x := by
  have hrest : k.ope.tileOps.filter (· != x) = [] := by
    rw [h]
    simp
  rw [Core.runTileOps, h, tileTurns, tileTurns]
  dsimp only
  rw [hrest]
  exact if_neg (Bool.eq_false_iff.1 hbusy)

/-- The scoreboard reads the accumulates, the drains and the waiting clears and reads alone. -/
theorem Core.tileBusy_congr {k k' : Core} (hq : k'.ope.q = k.ope.q) (hfilling : k'.ope.filling = k.ope.filling)
    (hdrains : k'.ope.drains = k.ope.drains) (hops : k'.ope.tileOps = k.ope.tileOps) (z : Fin 4) (o : Nat) :
    k'.tileBusy z o = k.tileBusy z o := by
  unfold Core.tileBusy
  dsimp only
  rw [hq, hfilling, hdrains, hops]

end

/-- The core as a clear or a status read enters the engine's order. -/
def Core.ordered (k : Core) (t : Fin 4) (dest : Option (Fin 32)) (cy : Nat) : Core :=
  { k with ope := { k.ope with
    ord := k.ope.ord + 1, tileOps := k.ope.tileOps ++ [{ ord := k.ope.ord, at_ := cy, tile := t, dest := dest }] } }

/-- A tile that will be clear. -/
def Tile.willClear (v : Tile) : Tile := { v with nextClr := true, nextComp := false, nextInt := false }

/-- A core whose register waits for a result. -/
def Core.awaits (k : Core) (d : Fin 32) : Core := { k with exe := { k.exe with busy := d.val :: k.exe.busy } }

section
variable {s : State} {c : Nat} {t : Fin 4} {d : Fin 32} {cy : Nat}

theorem Core.tileOp_clear (h : s.issues c .execute [] cy) : (s.core c).tileOp s.aclk t none =
    .ok cy (((((s.core c).ordered t none cy).setTile t ((s.core c).tile t).willClear).done .execute cy 1 1
        []).runTileOps
      cy) := by
  rw [Core.tileOp, if_pos rfl, State.issues.body h]
  rfl

theorem Core.tileOp_status (hd : regOk .execute d = true) (h : s.issues c .execute [d.val] cy) :
    (s.core c).tileOp s.aclk t (some d) =
      .ok cy (((((s.core c).ordered t (some d) cy).awaits d).done .execute cy 1 1 []).runTileOps cy) := by
  rw [Core.tileOp, if_pos hd, State.issues.body h]
  rfl

/-- A core with the drains' flags kept by a clear. -/
def Core.keepsFlags (k : Core) (t : Fin 4) (v : Tile) : Core :=
  { k with ope := { k.ope with drains := k.ope.drains.map (Drain.keepFlags t v) } }

theorem Core.reg_keepsFlags (k : Core) (t : Fin 4) (v : Tile) (u : UnitId) (r : Fin 32) :
    (k.keepsFlags t v).reg u r = k.reg u r := rfl

theorem Core.reg_setTile (k : Core) (t : Fin 4) (v : Tile) (u : UnitId) (r : Fin 32) :
    (k.setTile t v).reg u r = k.reg u r := rfl

theorem Core.reg_withTileOps (k : Core) (xs : List TileOp) (u : UnitId) (r : Fin 32) :
    (k.withTileOps xs).reg u r = k.reg u r := rfl

theorem tileCleared (hops : (s.core c).ope.tileOps = []) (hbusy : ∀ o, (s.core c).tileBusy t o = false)
    (h : s.issues c .execute [] cy) :
    ∃ s', exec (.tclr c t) s = .next s' ∧ s.onlyCore s' c ∧ (s.core c).sameRegs (s'.core c)
      ∧ (s'.core c).tile t
        = { from_ := max (max cy ((s.core c).tile t).from_) ((s.core c).tile t).opFrom + 1 }
      ∧ (∀ z, z ≠ t → (s'.core c).tile z = (s.core c).tile z)
      ∧ (s.core c).exe.wentOn (s'.core c).exe (cy + 1) := by
  let k := s.core c
  let k0 := (k.ordered t none cy).setTile t (k.tile t).willClear
  let k1 := (k0.done .execute cy 1 1 []).withTileOps []
  have hrun : (k0.done .execute cy 1 1 []).runTileOps cy = k1.tileAct cy
      { ord := k.ope.ord, at_ := cy, tile := t, dest := none } := by
    refine Core.runTileOps_one (congrArg (· ++ _) hops) ?_
    exact (Core.tileBusy_congr (k' := k1) (k := k) rfl rfl rfl hops.symm t k.ope.ord).trans (hbusy _)
  have htile : k1.tile t = (k.tile t).willClear := (k.ordered t none cy).tile_setTile t _
  have hact : k1.tileAct cy { ord := k.ope.ord, at_ := cy, tile := t, dest := none }
      = (k1.setTile t ((k.tile t).willClear.cleared ((k.tile t).willClear.opAt cy))).keepsFlags t
        (k.tile t).willClear := by
    unfold Core.tileAct
    dsimp only
    rw [htile, max_self]
    rfl
  obtain ⟨s', hs', honly, hcore, -⟩ := State.onInstr_core (i := .tclr c t) (f := fun k => k.tileOp s.aclk t none) h
    (Core.tileOp_clear h)
  have hfinal : s'.core c = _ := hcore.trans (hrun.trans hact)
  have hwent := Core.done_wentOn k0 .execute cy 1 1 []
  refine ⟨s', hs', honly, fun u r => ?_, ?_, fun z hz => ?_, ?_⟩
  · rw [hfinal, Core.reg_keepsFlags, Core.reg_setTile, Core.reg_withTileOps, Core.reg_done]
    rfl
  · rw [hfinal]
    exact k1.tile_setTile t _
  · rw [hfinal]
    exact (k1.tile_setTile_other t _ hz).trans ((k.ordered t none cy).tile_setTile_other t _ hz)
  · rw [hfinal]
    exact hwent

/-- A core whose awaited register has its result, ready in cycle t. -/
def Core.gets (k : Core) (d : Fin 32) (t : Nat) : Core :=
  { k with exe := { k.exe with busy := k.exe.busy.filter (· != d.val), ready := Assoc.set k.exe.ready d.val t } }

theorem Core.reg_gets (k : Core) (d : Fin 32) (t : Nat) : k.sameRegs (k.gets d t) := fun w r => by
  cases w <;> rfl

theorem Core.setsReg_gets (k : Core) (d : Fin 32) (v : Word) (t : Nat) :
    k.setsReg ((k.setReg .execute d v).gets d t) .execute d v := by
  refine ⟨?_, fun w r h => ?_⟩
  · rw [Core.reg_gets, Core.reg_setReg]
  · rw [Core.reg_gets, Core.reg_setReg_other _ _ _ _ _ _ h]

theorem tileStatus (hops : (s.core c).ope.tileOps = []) (hbusy : ∀ o, (s.core c).tileBusy t o = false)
    (hd : regOk .execute d = true) (h : s.issues c .execute [d.val] cy) :
    ∃ s', exec (.tstat c d t) s = .next s' ∧ s.onlyCore s' c
      ∧ (s.core c).setsReg (s'.core c) .execute d ((s.core c).tile t).word
      ∧ (∀ z, (s'.core c).tile z = (s.core c).tile z) ∧ (s.core c).exe.readyAt (s'.core c).exe [d.val]
        (max (max cy ((s.core c).tile t).from_) ((s.core c).tile t).opFrom + 2) := by
  let k := s.core c
  let k0 := (k.ordered t (some d) cy).awaits d
  let k1 := (k0.done .execute cy 1 1 []).withTileOps []
  have hrun : (k0.done .execute cy 1 1 []).runTileOps cy = k1.tileAct cy
      { ord := k.ope.ord, at_ := cy, tile := t, dest := some d } := by
    refine Core.runTileOps_one (congrArg (· ++ _) hops) ?_
    exact (Core.tileBusy_congr (k' := k1) (k := k) rfl rfl rfl hops.symm t k.ope.ord).trans (hbusy _)
  have hact : k1.tileAct cy { ord := k.ope.ord, at_ := cy, tile := t, dest := some d }
      = (k1.setReg .execute d (k.tile t).word).gets d ((k.tile t).opAt cy + 2) := by
    unfold Core.tileAct
    dsimp only
    rw [max_self]
    rfl
  obtain ⟨s', hs', honly, hcore, -⟩ := State.onInstr_core (i := .tstat c d t)
    (f := fun k => k.tileOp s.aclk t (some d)) h (Core.tileOp_status hd h)
  have hfinal : s'.core c = _ := hcore.trans (hrun.trans hact)
  obtain ⟨hreg, hregs⟩ := k1.setsReg_gets d (k.tile t).word ((k.tile t).opAt cy + 2)
  refine ⟨s', hs', honly, ⟨?_, fun w r hr => ?_⟩, fun z => ?_, fun n => ?_⟩
  · rw [hfinal]
    exact hreg
  · rw [hfinal, hregs w r hr]
    refine (Core.reg_done k0 .execute w cy 1 1 [] r).trans ?_
    cases w <;> rfl
  · rw [hfinal]
    rfl
  · rw [hfinal]
    have hready := Core.done_readyAt k0 .execute cy 1 1 [] n
    refine (Assoc.get_set 0 _ d.val n _).trans ?_
    by_cases hn : n = d.val
    · rw [if_pos hn, if_pos (by simp [hn])]
      rfl
    · rw [if_neg hn, if_neg (by simp [hn])]
      exact hready

end

theorem tileClearStatusFinal : Claims.TileClearStatusFinal := by
  intro s c t d cy k
  refine ⟨fun hops hbusy => ⟨fun h => tileCleared hops hbusy h, fun hd h _ => tileStatus hops hbusy hd h⟩,
    fun a hsite hfilling htile hops => ?_⟩
  have hf : k.accFinal t = .ok (a.edge + a.pair.p + 64) { k with ope := { k.ope with filling := [] } } := by
    have hfind : k.ope.filling.find? (fun a => a.tile == t) = some a := by
      rw [hfilling]
      exact List.find?_cons_of_pos (by simpa using htile)
    have hrest : k.ope.filling.filter (fun x => x.ord != a.ord) = [] := by
      rw [hfilling]
      simp
    unfold Core.accFinal
    rw [hfind]
    dsimp only
    rw [hrest]
    exact congrArg (CoreRes.ok _) (Core.runTileOps_none (k := { k with ope := { k.ope with filling := [] } }) hops)
  obtain ⟨s', hs', honly, hcore, haclk⟩ := State.onCore_core (f := fun k => k.accFinal t) hsite hf
  exact ⟨s', hs', honly, haclk, hcore⟩

/-! The issue of a drain, its taking and its second operand. -/

/-- The core that holds at a drain issued in cycle cy. -/
def Core.holdsDrain (k : Core) (d : Drain) (cy : Nat) : Core :=
  { k with ope := { k.ope with heldDrain := some d }, exe := { k.exe with wait := .drain, nextIssue := cy } }

section
variable {s : State} {c : Nat} {t : Fin 4} {dst : DrainDst} {ot : EType} {fn : Fn} {comb : Comb} {op : SecondOp}
  {al : Option (Fin 32)} {clr : Bool} {fl : Option (Fin 32)} {cy : Nat}

/-- The scale of a drain. -/
def Core.alphaOf (k : Core) (al : Option (Fin 32)) : Lane :=
  (al.map (fun r => ((k.reg .execute r).truncate 32 : Lane))).getD 0x3F800000

/-- The drain that an instruction begins. -/
def Core.newDrain (k : Core) (t : Fin 4) (dst : DrainDst) (ot : EType) (fn : Fn) (comb : Comb) (op : SecondOp)
    (al : Option (Fin 32)) (clr : Bool) (fl : Option (Fin 32)) : Drain :=
  { ord := k.ope.ord, tile := t, dst := dst, ot := ot, fn := fn, comb := comb, op := op, alpha := k.alphaOf al, clr :=
      clr
    flags := fl, instr := k.exe.pc, int := (k.tile t).nextInt }

theorem Core.issueDrain_issues (hregs : ∀ r ∈ al.toList ++ fl.toList, r.val < 16)
    (h : s.issues c .execute ((al.toList ++ fl.toList).map Fin.val) cy) {target : Bool}
    (htarget : dst = .lm ∨ target = true) :
    (s.core c).issueDrain s.aclk t dst ot fn comb op al clr fl target =
      if drainOk ((s.core c).tile t).nextInt ot fn comb op ((s.core c).alphaOf al) then
        .ok cy ((s.core c).holdsDrain ((s.core c).newDrain t dst ot fn comb op al clr fl) cy)
      else (s.core c).raise .execute 1 := by
  have hok : (al.toList ++ fl.toList).all (regOk .execute) = true := by
    rw [List.all_eq_true]
    exact fun r hr => Bool.or_eq_true_iff.2 (.inr (decide_eq_true (hregs r hr)))
  have hif : ∀ (b : Bool) (x y : CoreRes), (if (!b) = true then x else y) = if b = true then y else x := fun b _ _ => by
    cases b <;> rfl
  have hport : (dst == .port && !target) = false := by
    rcases htarget with rfl | rfl
    · rfl
    · simp
  unfold Core.issueDrain
  rw [hok, if_neg (by decide), State.issues.body h]
  dsimp only
  rw [hport, Bool.or_false, hif]
  cases al
  · rfl
  · rfl

end

/-- The core once the drain path has taken a drain in cycle n. -/
def Core.takenDrain (k : Core) (d : Drain) (n : Nat) : Core :=
  let k2 := if d.clr then k.setTile d.tile (k.tile d.tile).willClear else k
  { k2 with
    ope := { k2.ope with
      heldDrain := none
      ord := k2.ope.ord + 1
      stalls := if k2.ope.drains.isEmpty then [] else k2.ope.stalls
      drains := k2.ope.drains ++ [{ d with takenAt := n }] }
    exe := { k2.exe with busy := d.flags.toList.map Fin.val ++ k2.exe.busy } }

section
variable {k : Core} {d : Drain} {now : Nat}

theorem Core.takeDrain_takes (hheld : k.ope.heldDrain = some d) (hroom : k.ope.sampling < 2)
    (hfifo : d.addrCount ≤ ((k.ag .drain).settle (k.ope.takeFrom now)).fifo.length)
    (hcheck : drainCheck (d.withAddrs (((k.ag .drain).settle (k.ope.takeFrom now)).fifo.take d.addrCount)).2 = none) :
    k.takeDrain now = .ok (k.ope.takeFrom now) (((k.tookAddrs .drain (k.ope.takeFrom now) d.addrCount).takenDrain
      (d.withAddrs (((k.ag .drain).settle (k.ope.takeFrom now)).fifo.take d.addrCount)).1
      (k.ope.takeFrom now)).done .execute (k.ope.takeFrom now) 1 1 []) := by
  unfold Core.takeDrain
  rw [hheld]
  dsimp only
  rw [if_neg (Nat.not_le.2 hroom), Core.takeAddrs_enough hfifo]
  dsimp only
  rw [hcheck]
  rfl

/-- What the taking of a drain makes of the tiles. -/
theorem Core.takenDrain_spec (k : Core) (d : Drain) (n : Nat) :
    (d.clr = true → ((k.takenDrain d n).tile d.tile).nextClr = true)
      ∧ (∀ z, ((k.takenDrain d n).tile z).cells = (k.tile z).cells)
      ∧ (∀ a, (k.takenDrain d n).ag a = k.ag a)
      ∧ (k.takenDrain d n).ope.drains = k.ope.drains ++ [{ d with takenAt := n }]
      ∧ k.sameRegs (k.takenDrain d n) := by
  unfold Core.takenDrain
  split
  next hclr =>
    have htile := k.tile_setTile d.tile (k.tile d.tile).willClear
    refine ⟨fun _ => congrArg Tile.nextClr htile, fun z => ?_, fun a => rfl, rfl, fun u r => by cases u <;> rfl⟩
    by_cases hz : z = d.tile
    · subst hz
      exact (congrArg Tile.cells htile :)
    · exact congrArg Tile.cells (k.tile_setTile_other d.tile (k.tile d.tile).willClear hz)
  next hclr => exact ⟨fun h => absurd h hclr, fun _ => rfl, fun _ => rfl, rfl, fun u r => by cases u <;> rfl⟩

end

theorem drainIssueAndTake : Claims.DrainIssueAndTake := by
  intro s c k
  refine ⟨fun t dst ot fn comb op al clr fl cy hregs h => ?_, fun d hsite hheld hroom => ?_,
    fun d ty hsite hfind hop hahead hlm => ?_⟩
  · intro alpha htarget
    have hdrain := Core.issueDrain_issues (t := t) (ot := ot) (fn := fn) (comb := comb) (op := op) (clr := clr) hregs h
      htarget
    refine ⟨fun hok => ?_, fun hbad => ?_⟩
    · obtain ⟨s', hs', honly, hcore, -⟩ := State.onInstr_core (i := .drain c t dst ot fn comb op al clr fl)
        (f := fun k => k.issueDrain s.aclk t dst ot fn comb op al clr fl (s.drainTarget c).isSome) h
        (hdrain.trans (if_pos hok))
      refine ⟨s', hs', honly, ?_⟩
      rw [hcore]
      exact ⟨fun u r => by cases u <;> rfl, rfl, rfl, rfl, rfl⟩
    · exact State.onInstr_exc (i := .drain c t dst ot fn comb op al clr fl)
        (f := fun k => k.issueDrain s.aclk t dst ot fn comb op al clr fl (s.drainTarget c).isSome) h
        ((hdrain.trans (if_neg (Bool.eq_false_iff.1 hbad))).trans rfl)
  · intro now fifo got hfifo hcheck
    have hf : k.takeDrain s.aclk = .ok now (((k.tookAddrs .drain now d.addrCount).takenDrain got.1 now).done .execute
        now 1 1 []) := Core.takeDrain_takes hheld hroom hfifo hcheck
    obtain ⟨s', hs', honly, hcore, -⟩ := State.onCore_core (f := fun k => k.takeDrain s.aclk) hsite hf
    obtain ⟨hclr, hcells, hags, hdrains, hsame⟩ := (k.tookAddrs .drain now d.addrCount).takenDrain_spec got.1 now
    have hag : ((k.tookAddrs .drain now d.addrCount).ag .drain).fifo = fifo.drop d.addrCount :=
      congrArg AddrStream.fifo (Core.ag_setAg k .drain _)
    obtain ⟨-, -, -, hnext, -⟩ := Core.done_wentOn ((k.tookAddrs .drain now d.addrCount).takenDrain got.1 now) .execute
      now 1 1 []
    refine ⟨s', hs', honly, fun u r => ?_, ?_, ?_, ?_, fun h => ?_, fun z => ?_, ?_⟩
    · rw [hcore, Core.reg_done, hsame]
      rfl
    · rw [hcore]
      rfl
    · rw [hcore]
      exact hdrains
    · rw [hcore, Core.ag_done, hags]
      exact hag
    · rw [hcore]
      exact hclr h
    · rw [hcore]
      exact hcells z
    · rw [hcore]
      exact hnext
  · intro t
    have hf : k.rowRead = .ok t (k.setDrain { d with
        rowOp := some (opLanes ty (k.lmBytes d.opBase.toNat (opSpan d.op))), rowOpAt := t }) := by
      unfold Core.rowRead
      rw [hfind]
      dsimp only
      rw [hop] at hahead ⊢
      dsimp only
      rw [hahead, if_neg Bool.false_ne_true, Core.lmRead_unmarked_self hlm]
      simp only [t, hop]
      rfl
    obtain ⟨s', hs', honly, hcore, haclk⟩ := State.onCore_core (f := fun k => k.rowRead) hsite hf
    refine ⟨s', hs', honly, haclk, ?_⟩
    rw [hcore]
    exact ⟨rfl, rfl, rfl⟩

/-! The rows of a drain. -/

section
variable {k : Core} {d : Drain} {more : List Drain}

/-- The oldest drain replaced. -/
theorem Core.setDrain_front {d' : Drain} (hdrains : k.ope.drains = d :: more) (hord : d'.ord = d.ord)
    (hmore : ∀ x ∈ more, x.ord ≠ d.ord) : (k.setDrain d').ope.drains = d' :: more := by
  have hrest : more.map (fun x => if x.ord = d'.ord then d' else x) = more :=
    (List.map_congr_left fun x hx => if_neg (by rw [hord]; exact hmore x hx)).trans (List.map_id _)
  show k.ope.drains.map (fun x => if x.ord = d'.ord then d' else x) = d' :: more
  rw [hdrains, List.map_cons, if_pos hord.symm, hrest]

theorem Core.setDrain_head {d' : Drain} (hdrains : k.ope.drains = d :: more) (hord : d'.ord = d.ord) :
    (k.setDrain d').ope.drains = d' :: more.map (fun x => if x.ord = d'.ord then d' else x) := by
  show k.ope.drains.map (fun x => if x.ord = d'.ord then d' else x) = _
  rw [hdrains, List.map_cons, if_pos hord.symm]

/-- The tile whose row a drain has sampled in cycle t: its flags, where no earlier drain has still to report. -/
def Tile.rowFlags (v : Tile) (d : Drain) (ahead : Bool) (t : Nat) (ds iv : Bool) : Tile :=
  if ahead then
    if ds || iv then { v with raised := v.raised ++ [(t + d.latency, false, iv, ds)] } else v
  else { v with dsat := v.dsat || ds, inv := v.inv || iv }

/-- The cycles from which later operations may act behind a sampled row. -/
def Tile.rowCycles (v : Tile) (i t : Nat) : Tile :=
  { v with beatFrom := max v.beatFrom (t + 1 - i), opFrom := if decide (i = 31) then t + 1 else v.opFrom }

/-- A tile with the cells of row i clear. -/
def Tile.rowCleared (v : Tile) (i : Nat) : Tile :=
  { v with cells := v.cells.filter (fun e => !(decide (32 * i ≤ e.1 ∧ e.1 < 32 * i + 32))) }

/-- The tile once row i of a drain is sampled, its cells clear when asked. -/
def Tile.rowTaken (v : Tile) (d : Drain) (ahead : Bool) (t : Nat) (ds iv : Bool) : Tile :=
  let w := (v.rowFlags d ahead t ds iv).rowCycles d.sampled t
  if d.clr then
    if decide (d.sampled = 31) then (w.rowCleared d.sampled).drained else w.rowCleared d.sampled
  else w

/-- The drain with one row more in its path. -/
def Drain.rowTaken (d : Drain) (t : Nat) (row : List Byte) (sc : Byte) : Drain :=
  { d with sampled := d.sampled + 1, nextAt := t + d.r, rows := d.rows ++ [(row, sc, t)] }

/-- The drain path once the last row of a drain is sampled. -/
def Core.pathFree (k : Core) (d : Drain) (t : Nat) : Core :=
  { k with ope := { k.ope with
    placeAt := t + 1, nextLong := t + d.r, nextShort := t + d.r + (if d.latency = 7 then 4 else 0) } }

theorem Core.sampleRow_eq (hshadow : d.shadow = none) (t : Nat) (bs : List Lane) : k.sampleRow d t bs =
    let out := drainRow d (Assoc.span {} (k.tile d.tile).cells (32 * d.sampled) 32) bs
    let k' := (k.setTile d.tile ((k.tile d.tile).rowTaken d (k.ope.reportsAhead d) t out.2.2.1 out.2.2.2)).setDrain
      (d.rowTaken t out.1 out.2.1)
    if decide (d.sampled = 31) then (k'.pathFree d t).runTileOps (t + 1) else k' := by
  unfold Core.sampleRow
  dsimp only
  rw [hshadow, Option.isNone_none, Option.map_none, Bool.and_true]
  obtain ⟨row, sc, ds, iv⟩ := drainRow d (Assoc.span {} (k.tile d.tile).cells (32 * d.sampled) 32) bs
  rw [show d.rowTaken t row sc = { d.rowTaken t row sc with shadow := none } by rw [← hshadow]; rfl]
  rfl

theorem Tile.rowTaken_cells (v : Tile) (ahead : Bool) (t : Nat) (ds iv : Bool) (n : Nat) :
    Assoc.get {} (v.rowTaken d ahead t ds iv).cells n =
      if d.clr = true ∧ 32 * d.sampled ≤ n ∧ n < 32 * d.sampled + 32 then {} else Assoc.get {} v.cells n := by
  have hflags : (v.rowFlags d ahead t ds iv).cells = v.cells := by
    unfold Tile.rowFlags
    split_ifs <;> rfl
  have hclear : Assoc.get {} (((v.rowFlags d ahead t ds iv).rowCycles d.sampled t).rowCleared d.sampled).cells n =
      if 32 * d.sampled ≤ n ∧ n < 32 * d.sampled + 32 then {} else Assoc.get {} v.cells n := by
    show Assoc.get {} ((v.rowFlags d ahead t ds iv).cells.filter _) n = _
    rw [hflags]
    split
    next hn => exact Assoc.get_filtered_out _ _ fun v => by simpa using hn
    next hn => exact Assoc.get_filter _ _ _ _ fun v => by simp only [decide_eq_false hn, Bool.not_false]
  unfold Tile.rowTaken
  cases d.clr
  · exact (congrArg (Assoc.get {} · n) hflags).trans (if_neg fun h : false = true ∧ _ => Bool.false_ne_true h.1).symm
  · rw [if_pos rfl]
    simp only [true_and]
    split
    · exact hclear
    · exact hclear

/-- The next row that the drain in progress samples, its second operand absent. -/
theorem Core.drainSample_samples {t : Nat} (hdrains : k.ope.drains = d :: more) (hsampled : d.sampled < 32)
    (hop : d.op = .absent) (hdue : ∀ w ∈ k.nextWrite, t < w.2.2.2) (hat : k.sampleAt d = some t) :
    k.drainSample = .ok t (k.sampleRow d t (List.replicate 32 0)) := by
  have hfirst : k.ope.drains.find? (fun d => decide (d.sampled < 32)) = some d := by
    rw [hdrains]
    exact List.find?_cons_of_pos (decide_eq_true hsampled)
  unfold Core.drainSample
  rw [hfirst]
  dsimp only
  rw [hop, if_neg (show ¬ (tileOperand .absent && _) = true from Bool.false_ne_true), hat]
  dsimp only
  rw [Core.opRow, hop]
  cases hnext : k.nextWrite with
  | none => exact if_neg Bool.false_ne_true
  | some w =>
    obtain ⟨e, bs, sc, due⟩ := w
    have hlate := hdue _ hnext
    exact if_neg (by simpa using hlate)

/-- The next row to be written is that of the oldest drain. -/
theorem Core.nextWrite_front {row : List Byte} {sc : Byte} {t : Nat} {rest : List (List Byte × Byte × Nat)}
    (hdrains : k.ope.drains = d :: more) (hrows : d.rows = (row, sc, t) :: rest) :
    k.nextWrite = some (d, row, sc, t + d.latency) := by
  have hfirst : k.ope.drains.find? (fun d => !d.rows.isEmpty) = some d := by
    rw [hdrains]
    exact List.find?_cons_of_pos (by rw [hrows]; rfl)
  rw [Core.nextWrite, hfirst]
  dsimp only
  rw [hrows]

end

section
variable {k : Core} {d : Drain} {more : List Drain}

theorem Core.lmWrite_drains {k' : Core} {a : Nat} {bs : List Byte} (h : k.lmWrite a bs = some k') :
    k'.ope.drains = k.ope.drains := by
  unfold Core.lmWrite at h
  dsimp only at h
  split at h
  · cases h
  · cases h
    rfl

/-- The drains after a row due in cycle u is written in cycle w. -/
def Core.rowGone (k : Core) (d : Drain) (u w : Nat) : List Drain := ((k.rowWritten d).heldWrite u w).ope.drains

theorem Core.rowWritten_congr {k' : Core} (h : k'.ope.drains = k.ope.drains) (d : Drain) :
    (k'.rowWritten d).ope.drains = (k.rowWritten d).ope.drains := by
  unfold Core.rowWritten
  dsimp only
  split
  · exact congrArg (List.map _) h
  · exact congrArg (List.filter _) h

/-- A held write moves every row still in the path and every sampling to come. -/
def Drain.later (d : Drain) (u w : Nat) : Drain :=
  { d with
    nextAt := if u ≤ d.nextAt then d.nextAt + (w - u) else d.nextAt
    rows := d.rows.map (fun r => (r.1, r.2.1, r.2.2 + (w - u))) }

theorem Core.heldWrite_drains (k : Core) (u w : Nat) :
    (k.heldWrite u w).ope.drains = k.ope.drains.map (fun d => d.later u w) := by
  unfold Core.heldWrite
  dsimp only
  split
  next h =>
    refine ((List.map_congr_left fun d _ => ?_).trans (List.map_id _)).symm
    simp [Drain.later, h]
  next h => rfl

/-- What the write of a sampled row leaves of a core but its drains, its local memory and its queues. -/
structure Core.RowWritten (k' k : Core) : Prop where
  regs : k.sameRegs k'
  ready : k'.exe.ready = k.exe.ready
  busy : k'.exe.busy = k.exe.busy
  tiles : k'.tiles = k.tiles

/-- The core once a row is written in cycle w, its bytes in local memory. -/
def Core.rowSent (k : Core) (now : Nat) (d : Drain) (bs : List Byte) (u w : Nat) : Core :=
  let k' := (((k.noteWrite now (d.ord + 1) (d.dstBase.toNat + d.written * bs.length) bs.length (w + 1)).delayEntries d
    w).rowWritten d).heldWrite u w
  { k' with exe := { k'.exe with visible := max k'.exe.visible (w + 1) } }

theorem Core.heldWrite_keeps (k : Core) (u w : Nat) : (∀ v, (k.heldWrite u w).stream v = k.stream v)
    ∧ (k.heldWrite u w).tiles = k.tiles ∧ (k.heldWrite u w).lm = k.lm := by
  unfold Core.heldWrite
  dsimp only
  split
  · exact ⟨fun _ => rfl, rfl, rfl⟩
  · exact ⟨fun _ => rfl, rfl, rfl⟩

theorem Core.rowWritten_keeps (k : Core) (d : Drain) : (∀ v, (k.rowWritten d).stream v = k.stream v)
    ∧ (k.rowWritten d).tiles = k.tiles ∧ (k.rowWritten d).lm = k.lm := by
  unfold Core.rowWritten
  dsimp only
  split
  · exact ⟨fun _ => rfl, rfl, rfl⟩
  · exact ⟨fun _ => rfl, rfl, rfl⟩

theorem Core.rowSent_spec (k : Core) (now : Nat) (d : Drain) (bs : List Byte) (u w : Nat) :
    (k.rowSent now d bs u w).RowWritten k ∧ (k.rowSent now d bs u w).lm = k.lm
      ∧ (k.rowSent now d bs u w).ope.drains = k.rowGone d u w := by
  unfold Core.rowSent
  dsimp only
  have hdelayed : ∀ k : Core, (∀ v, (k.delayEntries d w).stream v = k.stream v)
      ∧ (k.delayEntries d w).tiles = k.tiles ∧ (k.delayEntries d w).lm = k.lm
      ∧ (k.delayEntries d w).ope.drains = k.ope.drains := fun k => ⟨fun _ => rfl, rfl, rfl, rfl⟩
  obtain ⟨hstream, htiles, hlm, hdrains⟩ := hdelayed (k.noteWrite now (d.ord + 1)
    (d.dstBase.toNat + d.written * bs.length) bs.length (w + 1))
  generalize (k.noteWrite now (d.ord + 1) (d.dstBase.toNat + d.written * bs.length) bs.length (w + 1)).delayEntries d w
    = k2 at *
  obtain ⟨hstream', htiles', hlm'⟩ := k2.rowWritten_keeps d
  obtain ⟨hstream'', htiles'', hlm''⟩ := (k2.rowWritten d).heldWrite_keeps u w
  have hgone : ((k2.rowWritten d).heldWrite u w).ope.drains = k.rowGone d u w :=
    (Core.heldWrite_drains _ u w).trans ((congrArg (List.map _) (Core.rowWritten_congr (k := k) hdrains d)).trans
      (Core.heldWrite_drains _ u w).symm)
  generalize (k2.rowWritten d).heldWrite u w = k3 at *
  have hsame : ∀ v, k3.stream v = k.stream v := fun v => (hstream'' v).trans ((hstream' v).trans (hstream v))
  refine ⟨⟨fun v r => ?_, ?_, ?_, htiles''.trans (htiles'.trans htiles)⟩, hlm''.trans (hlm'.trans hlm), hgone⟩
  · refine (?_ : _ = k3.reg v r).trans (Core.reg_of_streams hsame v r)
    cases v <;> rfl
  · exact (congrArg Stream.ready (hsame .execute) :)
  · exact (congrArg Stream.busy (hsame .execute) :)

/-- A sampled row of a type without block scales written to local memory. -/
theorem Core.writeRowLm_spec (hlm : k.lmErr = []) (hmx : isMx d.ot = false) (now : Nat) (bs : List Byte) (sc : Byte)
    (u : Nat) : ∃ k', k.writeRowLm now d bs sc u = .ok (k.rowAt d bs.length u) k'
      ∧ k'.RowWritten k ∧ k.writesLm k' (d.dstBase.toNat + d.written * bs.length) bs
      ∧ k'.ope.drains = k.rowGone d u (k.rowAt d bs.length u) := by
  obtain ⟨k1, hk1⟩ := Core.lmWrite_sound (k := k) (a := d.dstBase.toNat + d.written * bs.length) (bs := bs)
    (Core.uncorrectable_unmarked hlm _ _)
  have hwrites := Core.lmWrite_writesLm hk1
  have hframe := Core.lmWrite_frame hk1
  have hdrains := Core.lmWrite_drains hk1
  have hsent : k.writeRowLm now d bs sc u = .ok (k.rowAt d bs.length u) (k1.rowSent now d bs u
      (k.rowAt d bs.length u)) := by
    unfold Core.writeRowLm
    dsimp only
    rw [hk1]
    dsimp only
    rw [hmx, if_neg Bool.false_ne_true]
    dsimp only
    rw [if_neg Bool.false_ne_true]
    rfl
  obtain ⟨⟨hregs, hready, hbusy, htiles⟩, hlm', hgone⟩ := k1.rowSent_spec now d bs u (k.rowAt d bs.length u)
  have hstream : ∀ v, k1.stream v = k.stream v := fun v => by rw [hframe]; rfl
  refine ⟨_, hsent, ⟨fun v r => (hregs v r).trans (Core.reg_of_streams hstream v r),
    hready.trans (congrArg Stream.ready (hstream .execute)), hbusy.trans (congrArg Stream.busy (hstream .execute)),
    htiles.trans (by rw [hframe])⟩, fun n => ?_, hgone.trans ?_⟩
  · rw [hlm']
    exact hwrites n
  · exact (Core.heldWrite_drains _ u _).trans ((congrArg (List.map _) (Core.rowWritten_congr hdrains d)).trans
      (Core.heldWrite_drains _ u _).symm)

end

/-! The report of a tile's flags with the last row. -/

/-- A drain that has reported its flags. -/
def Drain.silent (d : Drain) : Drain := { d with flags := none }

/-- The flags that a drain reports in cycle u. -/
def Drain.reported (d : Drain) (v : Tile) (u : Nat) : Word :=
  let sat := v.sat || v.raised.any (fun e => decide (e.1 ≤ u) && e.2.1)
  let inv := v.inv || v.raised.any (fun e => decide (e.1 ≤ u) && e.2.2.1)
  let dsat := v.dsat || v.raised.any (fun e => decide (e.1 ≤ u) && e.2.2.2)
  d.kept.getD (BitVec.ofNat 64 (2 * sat.toNat + 4 * inv.toNat + 8 * dsat.toNat))

theorem Drain.reported_none {d : Drain} (hkept : d.kept = none) (v : Tile) (u : Nat) :
    (v.flagsAt u).flagWord = d.reported v u := by
  have hbit : ∀ b : Bool, b2n b = b.toNat := fun b => by cases b <;> rfl
  unfold Drain.reported Tile.flagWord Tile.anySat Tile.anyInv Tile.anyDsat Tile.flagsAt
  dsimp only
  rw [hkept, List.any_filter, List.any_filter, List.any_filter, hbit, hbit, hbit]
  rfl

/-- What a drain has told once its last row is due: its register holds the flags, ready in cycle u, and the tile has
lost those that stood, unless the tile was cleared in between. -/
structure Core.Told (k k' : Core) (d : Drain) (r : Fin 32) (u : Nat) : Prop where
  reg : k.setsReg k' .execute r (d.reported (k.tile d.tile) u)
  ready : Assoc.get 0 k'.exe.ready r.val = u
  idle : r.val ∉ k'.exe.busy
  kept : d.kept.isSome = true → k'.tile d.tile = k.tile d.tile
  cleared : d.kept = none → k'.tile d.tile = (k.tile d.tile).unflagged u
  others : ∀ z, z ≠ d.tile → k'.tile z = k.tile z

section
variable {k : Core} {d : Drain} {r : Fin 32} {u : Nat}

theorem Core.gets_told (k : Core) (r : Fin 32) (u : Nat) : Assoc.get 0 (k.gets r u).exe.ready r.val = u
    ∧ r.val ∉ (k.gets r u).exe.busy := by
  refine ⟨Assoc.get_set_same _ _ _ _, fun h => ?_⟩
  have := (List.mem_filter.1 h).2
  simp at this

/-- The core whose register has the flags of a drain, and whose tile has lost them. -/
def Core.flagsTold (k : Core) (d : Drain) (r : Fin 32) (u : Nat) : Core :=
  match d.kept with
  | some w => k.setReg .execute r w
  | none => (k.setReg .execute r ((k.tile d.tile).flagsAt u).flagWord).setTile d.tile ((k.tile d.tile).unflagged u)

theorem Core.reportFlags_eq (hflags : d.flags = some r) : k.reportFlags d u
    = ((k.flagsTold d r u).setDrain d.silent).gets r u := by
  rw [Core.reportFlags, hflags]
  rfl

theorem Core.reportFlags_spec (hflags : d.flags = some r) : k.Told (k.reportFlags d u) d r u
    ∧ (k.reportFlags d u).lm = k.lm ∧ (k.reportFlags d u).lmErr = k.lmErr ∧ (k.reportFlags d u).task = k.task
    ∧ (k.reportFlags d u).ope.drains = (k.setDrain d.silent).ope.drains := by
  cases hkept : d.kept with
  | some w =>
    have heq : k.reportFlags d u = ((k.setReg .execute r w).setDrain d.silent).gets r u := by
      rw [Core.reportFlags_eq hflags, Core.flagsTold, hkept]
    have hword : d.reported (k.tile d.tile) u = w := by rw [Drain.reported, hkept]; rfl
    obtain ⟨hready, hidle⟩ := Core.gets_told ((k.setReg .execute r w).setDrain d.silent) r u
    obtain ⟨hreg, hregs⟩ := k.setsReg_gets r w u
    rw [heq]
    refine ⟨⟨⟨?_, fun v z hz => ?_⟩, hready, hidle, fun _ => rfl, fun h => ?_, fun _ _ => rfl⟩, rfl, rfl, rfl, rfl⟩
    · exact hreg.trans hword.symm
    · exact hregs v z hz
    · rw [hkept] at h
      cases h
  | none =>
    let k1 := (k.setReg .execute r ((k.tile d.tile).flagsAt u).flagWord).setTile d.tile ((k.tile d.tile).unflagged u)
    have heq : k.reportFlags d u = (k1.setDrain d.silent).gets r u := by
      rw [Core.reportFlags_eq hflags, Core.flagsTold, hkept]
    obtain ⟨hready, hidle⟩ := Core.gets_told (k1.setDrain d.silent) r u
    obtain ⟨hreg, hregs⟩ := k.setsReg_gets r ((k.tile d.tile).flagsAt u).flagWord u
    rw [heq]
    refine ⟨⟨⟨?_, fun v z hz => ?_⟩, hready, hidle, fun h => ?_, fun _ => ?_, fun z hz => ?_⟩, rfl, rfl, rfl, rfl⟩
    · exact hreg.trans (Drain.reported_none hkept _ u)
    · exact hregs v z hz
    · rw [hkept] at h
      cases h
    · exact Core.tile_setTile _ d.tile _
    · exact Core.tile_setTile_other _ d.tile _ hz

/-- What is told stays told while the row is written or held. -/
theorem Core.Told.of_rowWritten {k k1 k2 : Core} (h : k.Told k1 d r u) (h2 : k2.RowWritten k1) : k.Told k2 d r u := by
  have htile : ∀ z, k2.tile z = k1.tile z := fun z => by
    rw [Core.tile, h2.tiles]
    rfl
  refine ⟨⟨(h2.regs _ _).trans h.reg.1, fun w z hz => (h2.regs _ _).trans (h.reg.2 w z hz)⟩, ?_, ?_,
    fun hk => (htile _).trans (h.kept hk), fun hk => (htile _).trans (h.cleared hk),
    fun z hz => (htile z).trans (h.others z hz)⟩
  · rw [h2.ready]
    exact h.ready
  · rw [h2.busy]
    exact h.idle

end

/-! The write of a row as a command. -/

/-- A drain with its oldest row written. -/
def Drain.rowOver (d : Drain) : Drain := { d with rows := d.rows.drop 1, written := d.written + 1, blocked := false }

/-- A drain whose oldest row the outbound port holds. -/
def Drain.holds (d : Drain) : Drain := { d with blocked := true }

theorem Core.rowWritten_more (k : Core) {d : Drain} (h : d.written < 31) : k.rowWritten d = k.setDrain d.rowOver :=
  if_pos (Nat.succ_lt_succ h)

theorem Core.rowWritten_last (k : Core) {d : Drain} (h : d.written = 31) :
    (k.rowWritten d).ope.drains = k.ope.drains.filter (fun x => x.ord != d.ord) := by
  unfold Core.rowWritten
  dsimp only
  rw [h, if_neg (by decide)]

section
variable {s : State} {c : Nat} {d : Drain} {bs : List Byte} {sc : Byte} {u : Nat}

/-- A row that goes to local memory, as the drain stands in the cycle in which it is due. -/
theorem exec_drainRowWrite_lm (hsite : s.siteRuns c) (hnext : (s.core c).nextWrite = some (d, bs, sc, u))
    (hreads : s.readsFirst c ((s.core c).rowAt d bs.length u) = false) {s1 : State} {d1 : Drain}
    (hdue : s.rowDue c d u = (s1, d1)) (hdst : d1.dst = .lm) :
    exec (.drainRowWrite c) s = s1.coreRes c ((s1.core c).writeRowLm s1.aclk d1 bs sc u) := by
  refine (if_pos hsite.1).trans ?_
  rw [if_neg (Bool.eq_false_iff.1 hsite.2), hnext]
  dsimp only
  rw [hreads, Bool.and_false, if_neg Bool.false_ne_true, hdue]
  simp only [hdst]

/-- A row that goes to the drain target. -/
theorem exec_drainRowWrite_port (hsite : s.siteRuns c) (hnext : (s.core c).nextWrite = some (d, bs, sc, u))
    (hport : d.dst = .port) {s1 : State} {d1 : Drain} (hdue : s.rowDue c d u = (s1, d1)) (hdst : d1.dst = .port) :
    exec (.drainRowWrite c) s = s1.happens ((s1.drainTarget c).map (fun x => s1.writeRowPort c x d1 bs sc u)) := by
  refine (if_pos hsite.1).trans ?_
  rw [if_neg (Bool.eq_false_iff.1 hsite.2), hnext]
  dsimp only
  rw [hport, if_neg (show ¬ (DrainDst.port == .lm && _) = true from Bool.false_ne_true), hdue]
  simp only [hdst]

/-- The lines of a row of a type without block scales to local memory. -/
theorem Core.rowAt_plain (k : Core) (hdst : d.dst = .lm) (hmx : isMx d.ot = false) (n : Nat) :
    k.rowAt d n u = k.ope.bankFree (linesOf (d.dstBase.toNat + d.written * n) n) u := by
  unfold Core.rowAt Drain.rowLines
  rw [hdst, hmx, if_pos (by decide), if_neg Bool.false_ne_true, List.append_nil]

/-- A drain that reports: the state and the drain in the cycle in which its last row is due. -/
theorem State.rowDue_reports {r : Fin 32} (hwritten : d.written = 31) (hflags : d.flags = some r) :
    s.rowDue c d u = ((s.setCore c ((s.core c).reportFlags d u)).at_ u, d.silent) :=
  if_pos ⟨hwritten, by rw [hflags]; rfl⟩

theorem State.rowDue_none (hwritten : d.written ≠ 31) : s.rowDue c d u = (s, d) := if_neg fun h => hwritten h.1

/-- The drain target that has no room holds the row. -/
theorem State.writeRowPort_held {n : Nat} (h : (s.ctx n).portRoom = 0) : s.writeRowPort c n d bs sc u
    = s.setCore c ((s.core c).setDrain d.holds) := by
  unfold State.writeRowPort
  dsimp only
  rw [h, Nat.min_zero, if_pos (.inl rfl)]
  rfl

end

theorem drainRows : Claims.DrainRows := by
  intro s c d more k hsite hdrains hlm
  refine ⟨fun t hsampled hop hshadow hdue hat hmore => ?_, fun t hsampled hop hshadow hdue hat hops hahead => ?_,
    fun row sc t r hwritten hrows hflags hmx => ?_, fun row sc t rest hdst hrows hmx hwritten hmore => ?_⟩
  · intro cells out
    have hf := (Core.drainSample_samples hdrains (by omega) hop hdue hat).trans
      (congrArg (CoreRes.ok t) ((Core.sampleRow_eq hshadow t (List.replicate 32 0)).trans
        (if_neg (by simpa using Nat.ne_of_lt hsampled))))
    obtain ⟨s', hs', honly, hcore, haclk⟩ := State.onCore_core (f := fun k => k.drainSample) hsite hf
    have hfront := Core.setDrain_front (k := k.setTile d.tile ((k.tile d.tile).rowTaken d (k.ope.reportsAhead d) t
      out.2.2.1 out.2.2.2)) (d' := d.rowTaken t out.1 out.2.1) hdrains rfl hmore
    refine ⟨s', hs', honly, haclk, fun w z => ?_, ?_, ?_, ?_, fun n => ?_, fun z hz => ?_⟩
    · rw [hcore]
      rfl
    · rw [hcore]
      rfl
    · rw [hcore]
      exact congrArg (fun l : List Drain => l.head?.map (fun x => (x.sampled, x.rows))) hfront
    · rw [hcore]
      exact congrArg List.tail hfront
    · rw [hcore]
      refine (congrArg (fun v : Tile => Assoc.get {} v.cells n) (k.tile_setTile d.tile _)).trans ?_
      exact Tile.rowTaken_cells (k.tile d.tile) _ t _ _ n
    · rw [hcore]
      exact k.tile_setTile_other d.tile _ hz
  · intro v out
    have hf := (Core.drainSample_samples hdrains (by omega) hop hdue hat).trans
      (congrArg (CoreRes.ok t) ((Core.sampleRow_eq hshadow t (List.replicate 32 0)).trans
        ((if_pos (decide_eq_true hsampled)).trans (Core.runTileOps_none hops))))
    obtain ⟨s', hs', honly, hcore, -⟩ := State.onCore_core (f := fun k => k.drainSample) hsite hf
    have hout : drainRow d (Assoc.span {} (k.tile d.tile).cells (32 * d.sampled) 32) (List.replicate 32 0) = out := by
      rw [hsampled]
    have htile : (s'.core c).tile d.tile = v.rowTaken d false t out.2.2.1 out.2.2.2 := by
      rw [hcore]
      refine (k.tile_setTile d.tile _).trans ?_
      rw [hout, hahead]
    have hnext : (s'.core c).ope.nextLong = t + d.r := by rw [hcore]; rfl
    have hregs : k.sameRegs (s'.core c) := fun w z => by rw [hcore]; rfl
    refine ⟨s', hs', honly, hregs, ?_⟩
    rw [htile, Tile.rowTaken, decide_eq_true hsampled]
    cases d.clr
    · exact ⟨rfl, rfl, rfl, rfl, (Bool.or_false _).symm, rfl, hnext⟩
    · exact ⟨rfl, rfl, rfl, rfl, (Bool.or_true _).symm, rfl, hnext⟩
  · intro v u sat inv dsat word told
    have hnext := Core.nextWrite_front (k := k) hdrains hrows
    obtain ⟨htold, hlm', hmarks, htask, hdrains'⟩ := Core.reportFlags_spec (k := k) (u := u) hflags
    have hdue : s.rowDue c d u = ((s.setCore c (k.reportFlags d u)).at_ u, d.silent) :=
      State.rowDue_reports hwritten hflags
    have htolds : ∀ s' : State, k.Told (s'.core c) d r u → told s' := fun s' h =>
      ⟨h.reg, h.ready, h.idle, h.kept, h.cleared, h.others⟩
    have hself : ((s.setCore c (k.reportFlags d u)).at_ u).core c = k.reportFlags d u := State.core_setCore s c _
    refine ⟨fun hdst hmore hreads => ?_, fun n hdst htarget hroom => ?_⟩
    · have hat : k.rowAt d row.length u = k.ope.bankFree (linesOf (d.dstBase.toNat + 31 * row.length) row.length) u :=
        by
        rw [Core.rowAt_plain k hdst hmx, hwritten]
      have hrun := exec_drainRowWrite_lm hsite hnext ((congrArg (s.readsFirst c) hat).trans hreads) hdue hdst
      rw [hself] at hrun
      obtain ⟨k', hwrite, hrest, hbytes, hgone⟩ := Core.writeRowLm_spec (k := k.reportFlags d u)
        (d := d.silent) (hmarks.trans hlm) hmx ((s.setCore c (k.reportFlags d u)).at_ u).aclk row sc u
      rw [hwrite] at hrun
      have hk' : ∀ w, ((((s.setCore c (k.reportFlags d u)).at_ u).setCore c k').at_ w).core c = k' := fun _ =>
        State.core_setCore _ c k'
      refine ⟨_, hrun, ⟨rfl, fun e he => ?_⟩, htolds _ ?_, ?_, ?_⟩
      · exact (State.core_setCore_other _ k' he).trans (State.core_setCore_other s _ he)
      · rw [hk']
        exact htold.of_rowWritten hrest
      · rw [hk']
        intro m
        have hm := hbytes m
        rw [hlm', show d.silent.written = 31 from hwritten] at hm
        exact hm
      · rw [hk', hgone, Core.rowGone, Core.heldWrite_drains, List.length_map,
          Core.rowWritten_last _ (d := d.silent) hwritten, hdrains',
          Core.setDrain_front (k := k) (d' := d.silent) hdrains rfl hmore,
          List.filter_cons_of_neg (by simp),
          List.filter_eq_self.2 fun x hx => by simpa [Drain.silent] using hmore x hx]
    · have hrun := exec_drainRowWrite_port hsite hnext hdst hdue hdst
      have htarget' : ((s.setCore c (k.reportFlags d u)).at_ u).drainTarget c = some n := by
        rw [← htarget]
        unfold State.drainTarget State.siteTask
        rw [hself, htask]
        rfl
      rw [htarget', Option.map_some, State.writeRowPort_held
          (s := (s.setCore c (k.reportFlags d u)).at_ u) hroom,
        hself] at hrun
      have hk' : (((s.setCore c (k.reportFlags d u)).at_ u).setCore c ((k.reportFlags d u).setDrain
          d.silent.holds)).core c = (k.reportFlags d u).setDrain
          d.silent.holds := State.core_setCore _ c _
      refine ⟨_, hrun, ⟨rfl, fun e he => ?_⟩, htolds _ ?_, ?_, ?_⟩
      · exact (State.core_setCore_other _ _ he).trans (State.core_setCore_other s _ he)
      · rw [hk']
        exact htold.of_rowWritten ⟨fun _ _ => rfl, rfl, rfl, rfl⟩
      · rw [hk']
        exact hlm'
      · rw [hk']
        have hhead := Core.setDrain_head (k := k.reportFlags d u) (d' := d.silent.holds)
          (hdrains'.trans (Core.setDrain_head (k := k) (d' := d.silent) hdrains rfl)) rfl
        exact congrArg (fun l : List Drain => l.head?.map (fun x => (x.rows, x.blocked))) hhead
  · intro u w hreads
    have hnext := Core.nextWrite_front (k := k) hdrains hrows
    have hat : k.rowAt d row.length u = w := Core.rowAt_plain k hdst hmx row.length
    have hrun := exec_drainRowWrite_lm hsite hnext ((congrArg (s.readsFirst c) hat).trans hreads)
      (State.rowDue_none (Nat.ne_of_lt hwritten)) hdst
    obtain ⟨k', hwrite, hrest, hbytes, hgone⟩ := Core.writeRowLm_spec (k := k) (d := d) hlm hmx s.aclk row sc u
    rw [hwrite, hat] at hrun
    have hk' : ((s.setCore c k').at_ w).core c = k' := State.core_setCore s c k'
    refine ⟨_, hrun, ⟨rfl, fun e he => State.core_setCore_other s k' he⟩, ?_, rfl, ?_, ?_, ?_⟩
    · rw [hk']
      exact hrest.regs
    · rw [hk']
      exact hbytes
    · rw [hk']
      exact hrest.tiles
    · rw [hk', hgone, hat, Core.rowGone, Core.heldWrite_drains, Core.rowWritten_more _ hwritten,
        Core.setDrain_front (k := k) (d' := d.rowOver) hdrains rfl hmore, List.map_cons]
      refine congrArg (fun rows => some (d.written + 1, rows)) ?_
      show (d.rows.drop 1).map _ = _
      rw [hrows]
      rfl

/-- Settles O11: tile clears and status reads act in their turn, and a drain goes from its issue to its last row. -/
theorem tilesAndDrains : Obligations.TilesAndDrains := ⟨tileClearStatusFinal, drainIssueAndTake, drainRows⟩

end Sys2Proof.Machine
end
